-- ==== Sys2Proof/Word.lean ====
section
/-!
DEFINITION. The words of the SZ4816: 32-bit registers, bytes, and the name of a register field.
-/
namespace Sys2Proof

/-- A register or general word (00_scope.md R10). -/
abbrev Word := BitVec 32

/-- One byte of a memory. -/
abbrev Byte := BitVec 8

/-- A field of a register: the register's BAR0 offset, the field's lowest bit, its width in bits (00_scope.md R6, R7). -/
structure Fld where
  off : Nat
  lo  : Nat
  w   : Nat
deriving DecidableEq, Repr

end Sys2Proof
end

