-- ==== Sys2Proof/Machine/SMap.lean ====
section
/-!
DEFINITION. Sparse maps: how the model holds every memory, register file and array of like things. A map is a list of
(key, value) pairs in one canonical form: keys strictly rising, and no entry equal to what an unlisted key reads as.
-/
namespace Sys2Proof.Machine

/-- A sparse map from numbers (addresses, indices) to values. -/
abbrev SMap (α : Type) := List (Nat × α)

/-- The value at a key; an unlisted key reads as `d key`. -/
def mget {α : Type} (d : Nat → α) : SMap α → Nat → α
  | [], k => d k
  | (j, v) :: m, k => if j = k then v else mget d m k

/-- The map without a key's entry. -/
def merase {α : Type} : SMap α → Nat → SMap α
  | [], _ => []
  | (j, v) :: m, k => if j = k then merase m k else (j, v) :: merase m k

/-- The map with an entry put in at its place in the rising order. -/
def minsert {α : Type} : SMap α → Nat → α → SMap α
  | [], k, v => [(k, v)]
  | (j, w) :: m, k, v => if k < j then (k, v) :: (j, w) :: m else (j, w) :: minsert m k v

/-- The map with a key's value set; the value an unlisted key reads as leaves no entry. -/
def mput {α : Type} [DecidableEq α] (d : Nat → α) (m : SMap α) (k : Nat) (v : α) : SMap α :=
  if v = d k then merase m k else minsert (merase m k) k v

/-- The keys rise strictly. -/
def mrising {α : Type} : SMap α → Bool
  | [] => true
  | (j, _) :: m => (m.all fun e => decide (j < e.1)) && mrising m

/-- The canonical form: keys strictly rising, no entry equal to what an unlisted key reads as. -/
def mwf {α : Type} [DecidableEq α] (d : Nat → α) (m : SMap α) : Bool :=
  mrising m && m.all fun e => decide (e.2 ≠ d e.1)

/-- A memory of bytes that reads 0 where nothing is listed. -/
abbrev Mem := SMap (BitVec 8)

/-- What an unlisted byte of a memory reads as. -/
def memDefault (_ : Nat) : BitVec 8 := 0

/-- The canonical form of a byte memory. -/
def Mem.wf (m : Mem) : Bool := mwf memDefault m

/-- Reads one byte. -/
def Mem.rd (m : Mem) (a : Nat) : BitVec 8 := mget memDefault m a

/-- Writes one byte. -/
def Mem.wr (m : Mem) (a : Nat) (v : BitVec 8) : Mem := mput memDefault m a v

/-- Writes bytes from an address upward. -/
def Mem.wrBytes : Mem → Nat → List (BitVec 8) → Mem
  | m, _, [] => m
  | m, a, b :: bs => Mem.wrBytes (m.wr a b) (a + 1) bs

/-- Reads `n` bytes from an address upward. -/
def Mem.rdBytes (m : Mem) (a n : Nat) : List (BitVec 8) :=
  (List.range n).map fun i => m.rd (a + i)

/-- Removes every entry of the addresses from `a` to `a + n - 1`: those bytes read 0 again. -/
def Mem.clear (m : Mem) (a n : Nat) : Mem := m.filter fun e => !(decide (a ≤ e.1) && decide (e.1 < a + n))

/-- The number a list of bytes spells, least significant byte first (00_scope.md R8). -/
def leNat : List (BitVec 8) → Nat
  | [] => 0
  | b :: bs => b.toNat + 256 * leNat bs

/-- The number a list of bytes spells, most significant byte first (network order). -/
def beNat (bs : List (BitVec 8)) : Nat := leNat bs.reverse

/-- `n` bytes of a list from offset `o`. -/
def sliceOf (bs : List (BitVec 8)) (o n : Nat) : List (BitVec 8) := (bs.drop o).take n

/-- `n` bytes of a number, least significant first. -/
def leBytes : Nat → Nat → List (BitVec 8)
  | 0, _ => []
  | n + 1, v => BitVec.ofNat 8 v :: leBytes n (v / 256)

/-- `n` bytes of a number, most significant first. -/
def beBytes (n v : Nat) : List (BitVec 8) := (leBytes n v).reverse

/-- A bit of a number. -/
def bitOf (v i : Nat) : Bool := v / 2 ^ i % 2 = 1

/-- A number's bits lo to lo + n - 1. -/
def bitsOf (v lo n : Nat) : Nat := v / 2 ^ lo % 2 ^ n

/-- 1 for true, 0 for false. -/
def b2n (b : Bool) : Nat := if b then 1 else 0

/-- The nearer limit of a range (the rules' "takes effect as the nearer limit"). -/
def clampNat (lo hi v : Nat) : Nat := if v < lo then lo else if v > hi then hi else v

/-- A counter that stops at a limit (the rules' "saturating at"). -/
def satAdd (lim a b : Nat) : Nat := if a + b > lim then lim else a + b

/-- A two's complement number of `n` bits. -/
def sgn (n v : Nat) : Int := if v % 2 ^ n < 2 ^ (n - 1) then (v % 2 ^ n : Nat) else (v % 2 ^ n : Nat) - (2 ^ n : Nat)

/-- The `n`-bit two's complement code of an integer. -/
def unsgn (n : Nat) (i : Int) : Nat := (i % ((2 ^ n : Nat) : Int)).toNat

end Sys2Proof.Machine
end

