-- ==== Sys2Proof/Types.lean ====
section
/-!
DEFINITION. The plain data that the operands of commands are made of.
-/
namespace Sys2Proof

/-- Who makes a register access (00_scope.md R15, R18): the host through its port, a Whorl thread (core, thread),
a fabric panel through one of its weft ports (07_marquetry_fabric.md R263), or the debug port. -/
inductive Agent
  | host
  | thread (core thr : Nat)
  | panel (p k : Nat)
  | debug
deriving DecidableEq, Repr, Inhabited

/-- What a receiver finds in one flit (03_islands_and_weft.md R92). -/
inductive FlitError
  | none
  | single
  | double
deriving DecidableEq, Repr


/-- A request at a panel's weft port (07_marquetry_fabric.md R257, R260): who asks, a read or a write, the offset in the
panel's target window, the data of a write. -/
structure PanelAccess where
  agent : Agent
  write : Bool
  off : Nat
  data : Word
deriving DecidableEq, Repr, Inhabited

/-- What a thermal zone's converter delivers (21_thermal_fans.md R764 to R766): an on-die temperature in units of 1/16
degree Celsius, an NTC code, or a conversion that failed. -/
inductive ZoneRaw
  | die (t : Int)
  | ntc (code : Nat)
  | failed
deriving DecidableEq, Repr

/-- The key of a logged request (22_ply_pair.md R797): a task's yarn, SEQ and count, or an agent ID and count. -/
inductive ReqKey
  | task (yarn seq n : Nat)
  | agent (id n : Nat)
deriving DecidableEq, Repr

/-- A mirrored host access (22_ply_pair.md R805): a register write, a BAR2 write, or a fetched descriptor. -/
inductive HostAcc
  | write (off be : Nat) (v : Word)
  | bar2 (off : Nat) (data : List Byte)
  | desc (q : Nat) (data : List Byte)
deriving DecidableEq, Repr

/-- A record of the epoch input log (22_ply_pair.md R796). -/
inductive LogRec
  | admitted (port len fcs : Nat) (res : List Byte) (tstamp : Nat)
  | body (data : List Byte)
  | answer (key : ReqKey) (kind : Nat) (v : Word)
  | learn (w : List Word)
  | host (acc : HostAcc)
  | close (yarn seq disp mask len : Nat) (fault : Bool)
  | dpll (ratio : Word)
  | end_ (epoch count digest time : Nat)
  | vbat (mv seq : Nat)
  | tdm (p : Nat) (slots : List Word)
  | latch (c causes : Nat) (clear : Bool)
  /-- Not a log record: what a strand sends to its partner outside the log (R799, R811, R621, R820). -/
  | fetch (port len fcs : Nat)
  | verdict (pass : Bool)
  | halt
  | detach
deriving DecidableEq, Repr

/-- A CAN frame as a controller sees it (25_diagnostics_service.md R876). -/
structure CanFrame where
  id : Nat
  ide : Bool
  rtr : Bool
  dlc : Nat
  fdf : Bool
  brs : Bool
  esi : Bool
  data : List Byte
deriving DecidableEq, Repr

/-- How an attempt to send a CAN frame ends (R875). -/
inductive CanEnd
  | ok
  | lost
  | error
deriving DecidableEq, Repr

end Sys2Proof
end

