-- ==== Sys2Proof/Machine/Blocks.lean ====
section
/-!
DEFINITION. For each block of the SZ4816, the state its chapter names that no register shows, and that state out of
reset. All of it is plain data.
-/
namespace Sys2Proof.Machine

/-- The discipline history of device time (03_islands_and_weft.md R109). -/
inductive Discipline
  | never
  | within
  | expired
deriving DecidableEq, Repr

/-- The time base and the weft's hidden state (03_islands_and_weft.md). -/
structure Clk where
  /-- AO's count of device time in units of 2^-32 ns since PORN was released (R101, R104, R109). -/
  timeFx : Nat
  /-- The count of the latest broadcast, in ns (R101). -/
  bcast : Nat
  /-- The calibrated rate of each island's copy: the ns it advances per 1 µs between broadcasts (R101, R103). -/
  rate : SMap Nat
  /-- How far each island's TNOW is ahead of (behind, if negative) the latest broadcast, in ns. -/
  ahead : SMap Int
  /-- The slew remainder in units of 2^-32 ns (R105). -/
  slewFx : Int
  /-- The discipline history (R109). -/
  disc : Discipline
  /-- REFCLK has been declared present since reset (R109, UNREF). -/
  refSeen : Bool
  /-- AO runs from its watchdog FRO (R97). -/
  aoWatchdog : Bool
  /-- Consecutive failed attempts of the flit in flight, by link channel 2k or 2k + 1 (R93). -/
  flitFails : SMap Nat
  /-- Credits in use, and flits that wait for one, by class (0 request, 1 response) of a link channel: 2 * channel + class (R84). -/
  credits : SMap Nat
  flitWait : SMap Nat
  /-- The channels of a SUSPECT link whose loop test has still to pass, as a mask (R93). -/
  loopLeft : SMap Nat
  /-- The PLLs 1 to 3 that have lost lock and whose islands stall, one bit each (R939). -/
  stall : Nat
  /-- Accesses that wait for a stalled island or, the host's, for an earlier response, oldest first (R90, R939). -/
  wait : List PanelAccess
deriving DecidableEq, Repr

/-- The phase of a Stage 2 load (04_staged_start.md R141). -/
inductive LoadPhase
  | idle
  | wake
  | stream
  | verify
  | apply
deriving DecidableEq, Repr

/-- Staged start and power transitions (04_staged_start.md, 05_power_states.md). -/
structure Sys where
  /-- The device is in reset (R119 to R123). -/
  resetting : Bool
  /-- PORN is held low (R122). -/
  pornLow : Bool
  /-- The next reset end keeps the straps (R188). -/
  keepStraps : Bool
  /-- Board-test reset (25_diagnostics_service.md R894). -/
  boardTest : Bool
  /-- The Stage 2 load's phase (R141). -/
  load : LoadPhase
  /-- The load's source is the host port (R139). -/
  loadPush : Bool
  /-- The load was started by strap (R139). -/
  loadStrap : Bool
  /-- A strap-started load waits for the PLLs to relock (R148). -/
  loadRetry : Bool
  /-- The unclamp step in progress, 0 none (R151). -/
  unclamp : Nat
  /-- A WEAVE is accepted and Stage 3 not yet entered (R155, R157). -/
  weaving : Bool
  /-- FORCE of the accepted WEAVE (R156). -/
  weaveForce : Bool
  /-- Boundaries of its own PWM period that a channel still waits for before it passes to AUD (R155); 0 none. -/
  handLeft : SMap Nat
  /-- Channels that wait on SAFE before their count starts (R156). -/
  handWait : SMap Bool
  /-- Channels that have waited on SAFE (R156): their pass raises HANDOVER. -/
  waited : SMap Bool
  /-- Channels that are completing their AUD period before they return to SAFE or HELD (R179). -/
  gatesOut : SMap Bool
  /-- The reload from NET is in progress (R182). -/
  netLoad : Bool
  /-- Its source is the host port. -/
  netPush : Bool
  /-- Rails that have been within range since the latest reset, one bit each (26_signals_package_electrical.md R912, R915). -/
  railSeen : Nat
  /-- XSPI_RSTN has been driven high by the wake phase of a load (26_signals_package_electrical.md R906). -/
  flashAwake : Bool
deriving DecidableEq, Repr

/-- The fuse banks (06_veneer_image.md R207, 25_diagnostics_service.md R884, R886). -/
structure Fuses where
  /-- KEYHASH, byte 0 of the digest lowest. -/
  key : Nat
  /-- The rollback count: blown bits of its thermometer code. -/
  roll : Nat
  /-- The two lifecycle bits. -/
  lc : Nat
  /-- The fields of R886 by field code 0 to 13. -/
  prog : SMap Word
  /-- The 64-bit unique ID. -/
  uid : Nat
deriving DecidableEq, Repr

/-- Blank fuses. -/
def Fuses.reset : Fuses := { key := 0, roll := 0, lc := 0, prog := [], uid := 0 }

/-- The fuse burn in progress, with the bits still to blow (06_veneer_image.md R210, R941, 25_diagnostics_service.md R885,
R886). -/
inductive Burn
  | none
  | key (bits : Nat)
  | roll (tgt : Nat)
  | lc (tgt : Nat)
  | prog (code : Nat) (bits : Word)
deriving DecidableEq, Repr

/-- Where a patch stands: its image is being staged, its panel is being written and read back, its core waits for its threads
to go idle, or only its end is due (06_veneer_image.md R225 to R232). -/
inductive PatchPhase
  | idle
  | staging
  | panel
  | core
  | ending
deriving DecidableEq, Repr, Inhabited

/-- The veneer loader's state that no register shows (06_veneer_image.md). -/
structure Vnr where
  /-- Bytes of the image being loaded, reloaded or patched, as far as they have come in (R212, R213). -/
  img : List Byte
  /-- The full image that the last Stage 2 load used. -/
  full : List Byte
  /-- Cores whose program is a patch's since the last load or reload (R230, R234). -/
  patched : List Nat
  /-- The patch's phase (R224 to R232). -/
  patch : PatchPhase
  /-- The patch's source is the push window. -/
  patchPush : Bool
  /-- Readbacks of the patched panel that have failed (R229). -/
  readFails : Nat
  /-- Panels being rewritten from their reserve slot (R221). -/
  rewriting : SMap Bool
  /-- The panel's state before the patch or rewrite in progress. -/
  panelWas : SMap Nat
  /-- The panels whose channels are moved to the hard modulator by a patch or rewrite (R228, R221). -/
  moved : SMap Bool
  /-- The outcome that the patch's end reports (R232). -/
  patchErr : Nat
deriving DecidableEq, Repr, Inhabited

/-- What the board's xSPI flash holds: runs of bytes, each from an offset (06_veneer_image.md R212, R225). -/
abbrev Flash := List (Nat × List Byte)

/-- The condition flags of a thread (13_whorl_isa_model.md R480). -/
structure Flags where
  n : Bool
  z : Bool
  c : Bool
  v : Bool
deriving DecidableEq, Repr, Inhabited

/-- Where a weft request stands: a panel has it, it can be answered, or it completes with PANEL_BUSY (R265, R488, R489). -/
inductive ReqWait
  | atPanel
  | ready
  | busy
deriving DecidableEq, Repr

/-- The weft requests that hold a thread at a word (12_whorl_cores_threads.md R449): the word's bytes, the answers so far, where
the request in progress stands, and whether its answer is the LEADER's to give (22_ply_pair.md R798). -/
structure WeftRead where
  code : List Byte
  got : List Word
  wait : ReqWait
  logged : Bool
deriving DecidableEq, Repr

/-- A context saved at pre-emption (R513). -/
structure Context where
  g : SMap Word
  acc : Nat
  lkr0 : Word
  lkr1 : Word
  evm : Nat
  tcmp : Nat
  form : Bool
  lform : Bool
  rets : List (Nat × Bool × Bool)
  flags : Flags
  q : Bool
  werr : Bool
  wflt : Bool
  yarn : Word
  pkh : Word
  pc : Nat
  task : Nat
  tgetPc : Nat
  tgetForm : Bool
  tgetG14 : Word
  tgetG15 : Word
  tgetEvm : Nat
  /-- Its wait, if it waited in SLEEP or WAITLK, and its watchdog count in ns. -/
  st : Nat
  waitOn : Nat
  waitLock : Option Nat
  wdog : Nat
deriving DecidableEq, Repr

/-- A hardware thread (12_whorl_cores_threads.md R454 to R470, 13_whorl_isa_model.md R476 to R519). -/
structure Thread where
  /-- WHL_TSTATE.STATE: 0 HELD, 1 RUN, 2 WAIT, 3 PARKED, 4 STOPPED, 5 FAULTED. -/
  st : Nat
  /-- WHL_TSTATE.WAITON: 0 none, 1 TGET, 2 SLEEP, 3 WAITLK, 4 weft read or FENCE. -/
  waitOn : Nat
  pc : Nat
  /-- g1 to g15. -/
  g : SMap Word
  /-- The 72-bit accumulator. -/
  acc : Nat
  /-- Words issued since the latest multiply-class word, up to 4 (R507). -/
  accAge : Nat
  tcmp : Nat
  tcmpHeld : Option Word
  /-- TNOW has not reached TCMP since its write (R457). -/
  armed : Bool
  tnowCap : Option Word
  evp : Nat
  evm : Nat
  form : Bool
  lform : Bool
  /-- What the routines reached by JXL have to return by, latest first: link, form, and whether the routine has itself executed a JXL
  since (14_whorl_isa_catalogue.md R530). -/
  rets : List (Nat × Bool × Bool)
  flags : Flags
  q : Bool
  werr : Bool
  wflt : Bool
  yarn : Word
  pkh : Word
  lkr0 : Word
  lkr1 : Word
  /-- A lookup in progress: its table and key (R510, R541). -/
  lookup : Option (Nat × List Byte)
  /-- WHL_TFLT: cause, fault count, PC; and WHL_TFLTA. -/
  fltCause : Nat
  fltCount : Nat
  fltPc : Nat
  flta : Word
  /-- The fault's escalation: 0 none, 1 raised to the root, 2 raised to the host (R467). -/
  esc : Nat
  /-- WHL_TPC. -/
  tpc : Nat
  wdogUnits : Nat
  /-- The watchdog's count in ns up to `wdogFrom`, the device time from which it counts on (R462). -/
  wdogAcc : Nat
  wdogFrom : Nat
  qshare : Nat
  qused : Nat
  bshare : SMap Nat
  bused : SMap Nat
  /-- SHARE_MODE 1 (R458). -/
  dynamicShares : Bool
  /-- ENTRY, FORM and START of the core's CODE section (R199). -/
  entry : Nat
  entryForm : Bool
  start : Bool
  /-- The weft requests it waits for. -/
  read : Option WeftRead
  /-- FENCE waits for every earlier write (R543). -/
  fencing : Bool
  /-- Weft writes not yet acknowledged, by address, oldest first (R86). -/
  writes : List (Nat × ReqWait)
  /-- A store error to be taken at the next word boundary (R489). -/
  storeErr : Option Nat
  /-- The lock it waits on (10_buffers_and_locks.md R392). -/
  waitLock : Option Nat
  /-- The task it holds (11_distaff_and_yarns.md R414). -/
  task : Option Nat
  tgetPc : Nat
  tgetForm : Bool
  tgetG14 : Word
  tgetG15 : Word
  tgetEvm : Nat
  /-- Contexts parked from this thread, latest first (R424). -/
  parked : List Context
deriving DecidableEq, Repr, Inhabited

/-- A bit vector of all ones in 64 bits: the TCMP that never sets TIMER (R457). -/
def tcmpNever : Nat := 2 ^ 64 - 1

/-- A thread out of reset (R458, R470). -/
def Thread.reset : Thread :=
  { st := 0, waitOn := 0, pc := 0, g := [], acc := 0, accAge := 4, tcmp := tcmpNever, tcmpHeld := none, armed := false,
    tnowCap := none, evp := 0, evm := 0, form := false, lform := false, rets := [], flags := ⟨false, false, false, false⟩,
    q := false, werr := false, wflt := false, yarn := 0, pkh := 0, lkr0 := 0, lkr1 := 0, lookup := none,
    fltCause := 0, fltCount := 0, fltPc := 0, flta := 0, esc := 0, tpc := 0, wdogUnits := 0, wdogAcc := 0, wdogFrom := 0, qshare := 16,
    qused := 0, bshare := [], bused := [], dynamicShares := false, entry := 0, entryForm := false, start := false,
    read := none, fencing := false, writes := [], storeErr := none, waitLock := none, task := none, tgetPc := 0,
    tgetForm := false, tgetG14 := 0, tgetG15 := 0, tgetEvm := 0, parked := [] }

/-- A weft port of a panel (R260 to R262). -/
structure PanelPort where
  /-- Requests passed to customer logic and not yet answered, oldest first (at most 16). -/
  queue : List PanelAccess
  /-- Requests that found the queue full, oldest first. -/
  waiting : List PanelAccess
deriving DecidableEq, Repr

/-- A request that a panel's logic has issued and whose response has not reached the border (R263, R264): the generation of the logic
that issued it, and the answer on its way: its data, and whether its status is PANEL_BUSY (R265). -/
structure Issue where
  req : PanelAccess
  gen : Nat
  ans : Option (Word × Bool)
deriving DecidableEq, Repr, Inhabited

/-- A fabric panel (07_marquetry_fabric.md). -/
structure Panel where
  /-- CLAIM of frame 0 (R255, R267). -/
  claim : Nat
  /-- A stall is in force (R278). -/
  stall : Bool
  /-- The device time (ns) at which it began, and whether a request has already waited 100 µs on it (R280). -/
  stallAt : Nat
  stallOld : Bool
  /-- N46 has been raised for this stall (R280). -/
  stallTold : Bool
  /-- Its oscillator has stopped: the stall lasts until device reset. -/
  stopped : Bool
  /-- Requests waiting on the stall, oldest first (R280). -/
  stallWait : List PanelAccess
  ports : SMap PanelPort
  /-- Block memory, 64 KiB (R248). -/
  bram : Mem
  /-- Configuration frames (R253). -/
  frames : Mem
  /-- Flip-flops that differ from their INIT value, FF0 and FF1 of cell (x, y) by 2 * (128 x + y) and the number after it (R239, R242). -/
  ff : SMap Bool
  /-- What ports A and B of block j returned last, by 2 j and 2 j + 1, and their error flags (R248 to R250). -/
  bout : SMap Nat
  berr : SMap Bool
  /-- The output value (bits 39 to 0) and enable (bits 79 to 40) of each ball at the instant the output hold took effect, for PARK 0
  (R270). -/
  keep : Nat
  /-- The generation of the logic: it changes when the panel is clamped or rewritten (R264). -/
  gen : Nat
  /-- Requests of the panel's logic that await a response, by weft port, oldest first (R263). -/
  issued : SMap (List Issue)
  /-- The latest response that each weft port received: its data, and whether its status field carries PANEL_BUSY (R265). -/
  rsp : SMap (Option (Word × Bool))
deriving DecidableEq, Repr, Inhabited

/-- A weft port with nothing in it. -/
def PanelPort.reset : PanelPort := { queue := [], waiting := [] }

/-- A panel out of reset; its holds and EMPTY are in MQY_STAT (R275, R286). -/
def Panel.reset : Panel :=
  { claim := 0, stall := false, stallAt := 0, stallOld := false, stallTold := false, stopped := false, stallWait := [],
    ports := [], bram := [], frames := [], ff := [], bout := [], berr := [], keep := 0, gen := 0, issued := [], rsp := [] }

/-- The fabric (07_marquetry_fabric.md): panels, and the MITRE settings of the I/O ring (R268, R272). -/
structure Mqy where
  panels : SMap Panel
  /-- The MITRE section's words: banks 0 to 3, then balls 4 to 163 (R197). -/
  mitre : SMap Word
  /-- The MITRE settings are in force (R268, R272). -/
  mitreOn : Bool
  /-- The level last seen on each user I/O ball, 0 to 159: what a bus-keeper holds and what the panels' input paths carry (R270, R271). -/
  level : SMap Bool
deriving DecidableEq, Repr

/-- A buffer request that waits (10_buffers_and_locks.md R371, R381). -/
structure BufReq where
  owner : Nat
  len : Nat
  esc : Bool
deriving DecidableEq, Repr

/-- What the BPM answered to a buffer request (R381, R538): status 0 OK, 1 NOBUF, 2 TOOBIG, and the handle. -/
structure BufAns where
  owner : Nat
  status : Nat
  handle : Nat
deriving DecidableEq, Repr

/-- The buffer pool manager's state that no register shows (10_buffers_and_locks.md). -/
structure Bpm where
  /-- Tag bytes by pool * 2^18 + INDEX (R374); an unlisted tag reads 0x40, free. -/
  tags : SMap Nat
  /-- Ring mode: the on-chip cache of free indexes, most recently freed first (R371). -/
  cache : SMap (List Nat)
  /-- Ring mode: indexes the BPM has spilled to the ring, oldest first (R371). -/
  spilled : SMap (List Nat)
  /-- Ring mode: a refill is in progress. -/
  refill : SMap Bool
  /-- Requests that found the cache empty, oldest first. -/
  waiting : SMap (List BufReq)
  /-- The waiting request of each host queue group, by owner ID (R381). -/
  hostWait : SMap (Option BufReq)
  /-- Buffers marked for quarantine when freed (R384), by pool * 2^18 + INDEX. -/
  marked : SMap Bool
  /-- The thread group whose thread keeps the buffer of a packet it has completed with KEEP, by pool * 2^18 + INDEX (11_distaff_and_yarns.md
  R417); 0 none. -/
  threadKept : SMap Nat
  /-- The latest answers, oldest first (model's own: the weft responses sent). -/
  answers : List BufAns
deriving DecidableEq, Repr, Inhabited

/-- A lock (R388 to R396). -/
structure Lock where
  held : Bool
  owner : Nat
  /-- Registered waiters, as thread numbers 8n + t. -/
  waiters : List Nat
  /-- LONGHOLD has been reported for this hold (R395). -/
  told : Bool
deriving DecidableEq, Repr, Inhabited

def Lock.reset : Lock := { held := false, owner := 0, waiters := [], told := false }

/-- A classified packet between classification and admission (08_ports_and_tsn.md R300, 09_parser_classifier.md R351). -/
structure Pkt where
  port : Nat
  handle : Nat
  len : Nat
  doff : Nat
  tstamp : Nat
  flags : Nat
  l3off : Nat
  l4off : Nat
  yarn : Nat
  cls : Nat
  /-- The traffic class of its class (R345). -/
  tc : Nat
  /-- The class of its admission and egress queues: TC, or the IPV of a stream gate (08_ports_and_tsn.md R322). -/
  qc : Nat
  colour : Nat
  hq : Nat
  hqen : Bool
  qrule : Nat
  qdef : Bool
  vid : Nat
  /-- The priority it took at ingress (R302). -/
  pcp : Nat
  /-- The stream handle of step 6, if any (R318). -/
  stream : Option Nat
  /-- The queue pair and command ID of a host-submitted packet (16_host_interface_rings.md R613). -/
  sub : Option (Nat × Nat)
deriving DecidableEq, Repr

/-- Where a task stands (11_distaff_and_yarns.md R405); a closed task has left the table. -/
inductive TaskState
  | queued
  | running
  | parked
  | done
deriving DecidableEq, Repr

/-- A task: one entry of the reorder table (R404). -/
structure Task where
  id : Nat
  pkt : Pkt
  seq : Nat
  prio : Nat
  st : TaskState
  core : Nat
  thr : Nat
  /-- 0 TX, 1 HOST, 2 DROP, 3 KEEP (R417). -/
  disp : Nat
  mask : Nat
  tag : Option Nat
  /-- It was dropped after a fault (22_ply_pair.md R796, R810). -/
  fault : Bool
deriving DecidableEq, Repr

/-- The Distaff's state that no register shows (11_distaff_and_yarns.md). -/
structure Dst where
  /-- The reorder table in admission order. -/
  tasks : List Task
  nextId : Nat
  /-- The next sequence number of each yarn (R348). -/
  nextSeq : SMap Nat
  /-- COREMASK of each yarn (R197, R445). -/
  mask : SMap Nat
  /-- LASTCORE of each yarn; 63 none. -/
  last : SMap Nat
  /-- Trace memory: 32,768 records of 16 bytes, by record (R437). -/
  trace : SMap Nat
  /-- Trace records written since the trace was cleared (R438). -/
  trcCount : Nat
  /-- Heads that a bound has refused, in order: port, admission queue (or port 9 and queue pair) and buffer handle (R409, R432). -/
  refused : List (Nat × Nat × Nat)
deriving DecidableEq, Repr, Inhabited

/-- A frame in an egress queue (08_ports_and_tsn.md R306). -/
structure EgFrame where
  handle : Nat
  len : Nat
  doff : Nat
  tag : Option Nat
  /-- The device time of its timestamp point with PRT_TS_ADJ.EGR, once a transmission has begun (R304). -/
  stamp : Nat
  /-- The 802.1CB sequence number it carries (R321). -/
  rtag : Option Nat
  /-- The VLAN ID, 0 for none, and priority that it took at ingress (R302, R307). -/
  vid : Nat
  pcp : Nat
  /-- The thread whose QUSED counts it (12_whorl_cores_threads.md R460). -/
  sender : Option Nat
deriving DecidableEq, Repr

/-- A gate control list in force or pending (R311 to R313): base and cycle time in ns, entries as (word 0, interval). -/
structure GateList where
  base : Nat
  cycle : Nat
  entries : List (Nat × Nat)
deriving DecidableEq, Repr

/-- A running gate list (R312 to R315): the list in force, the current entry, the instant its cycle began, and the
list that waits for its ConfigChangeTime. -/
structure GateRun where
  oper : Option GateList
  entry : Nat
  start : Nat
  pend : Option GateList
  cct : Nat
deriving DecidableEq, Repr

def GateRun.reset : GateRun := { oper := none, entry := 0, start := 0, pend := none, cct := 0 }

/-- A port (08_ports_and_tsn.md). -/
structure Port where
  /-- Admission queues by traffic class, head first (R300). -/
  adm : SMap (List Pkt)
  /-- Egress queues, head first (R306). -/
  eq : SMap (List EgFrame)
  /-- The queue and frame in transmission. -/
  tx : Option (Nat × EgFrame)
  /-- The instant at which its transmission, or its latest fragment's, started, and the bytes of earlier fragments. -/
  txAt : Nat
  txSent : Nat
  /-- The preempted frame that waits to continue, and the bytes of it that have been sent (R316). -/
  held : Option (Nat × EgFrame × Nat)
  /-- A Set-And-Hold-MAC entry holds preemptable frames back (R317). -/
  holdMac : Bool
  /-- The egress timestamp FIFO: tag and timestamp (R304). -/
  txts : List (Nat × Nat)
  /-- Credits in units of 10^-6 bit (R309), and the device time they stand for. -/
  credit : SMap Int
  creditAt : Nat
  tas : GateRun
  /-- T0 has had no transmit opportunity for 10 ms (02_guarantees.md R66). -/
  noOpportunity : Bool
  /-- The PHY reports 10 Mb/s or half duplex (R289). -/
  linkFault : Bool
  /-- Frames that wait in the ingress FIFO, oldest first: timestamp and bytes (R298). -/
  fifo : List (Nat × List Byte)
  /-- On T0: additional frames left in the transmit opportunity, and the instant at which its latest frame ended (R293). -/
  burst : Nat
  burstAt : Nat
  /-- Collisions in a row that T0's frame has met (R294). -/
  collisions : Nat
deriving DecidableEq, Repr

def Port.reset : Port :=
  { adm := [], eq := [], tx := none, txAt := 0, txSent := 0, held := none, holdMac := false, txts := [], credit := [], creditAt := 0, tas := GateRun.reset,
    noOpportunity := false, linkFault := false, fifo := [], burst := 0, burstAt := 0, collisions := 0 }

/-- A recovery function (R320): the sequence numbers in its history, latest first. -/
structure Recovery where
  any : Bool
  last : Nat
  hist : List Nat
deriving DecidableEq, Repr

/-- A meter's buckets in units of 10^-6 bit, and the device time they stand for (R319). -/
structure Meter where
  c : Nat
  e : Nat
  at_ : Nat
deriving DecidableEq, Repr

/-- The PRT island's state that no register shows. -/
structure Prt where
  ports : SMap Port
  recov : SMap Recovery
  meters : SMap (Option Meter)
  sgates : SMap GateRun
  /-- Copies of a released buffer still in egress queues, by pool * 2^18 + INDEX. -/
  refs : SMap Nat
  /-- Stream handles that an oversize frame has blocked (R319). -/
  blocked : SMap Bool
deriving DecidableEq, Repr, Inhabited

/-- The classifier's state that no register shows (09_parser_classifier.md R353, R354). -/
structure Prs where
  /-- The rule command in progress: index and the 144 bytes it writes. -/
  cmd : Option (Nat × List Byte)
deriving DecidableEq, Repr, Inhabited

/-- A core (12_whorl_cores_threads.md). -/
structure Core where
  /-- WHL_CSTAT.SVC: in service. -/
  svc : Bool
  retired : Bool
  /-- Local memory, 64 KiB (R450). -/
  mem : Mem
  /-- Poisoned 8-byte words, by address / 8 (R450). -/
  poison : SMap Bool
  /-- Under patch (06_veneer_image.md R230). -/
  patching : Bool
deriving DecidableEq, Repr, Inhabited

def Core.reset : Core :=
  { svc := false, retired := false, mem := [], poison := [], patching := false }

/-- The Whorl islands. -/
structure Whl where
  cores : SMap Core
  /-- Threads by 8n + t. -/
  threads : SMap Thread
deriving DecidableEq, Repr

/-- The auditor's sweep (15_forwarding_learning.md R571, R572). -/
structure Audit where
  /-- A sweep is running, and the offset of its next line (R571). -/
  running : Bool
  pos : Nat
  /-- Lines deferred to the end of the sweep (R572). -/
  deferred : List Nat
  /-- Lines that differed and wait for their second comparison. -/
  recheck : List Nat
deriving DecidableEq, Repr, Inhabited

/-- The TBL island's state that no register shows (15_forwarding_learning.md). -/
structure Fwd where
  /-- Table memory, 4 MiB (R544). -/
  mem : Mem
  /-- Uncorrectable 64-bit words, by offset / 8, and those an event has named (R574). -/
  bad : SMap Bool
  told : SMap Bool
  /-- Learn records, head first: words 0 to 3 (R553). -/
  learn : List (Nat × Nat × Nat × Nat)
  /-- Records pushed since reset. -/
  pushed : Nat
  /-- The learn bucket in units of 10^-9 token, and the device time it stands for; none: full (R551). -/
  bucket : Option (Nat × Nat)
  /-- The event FIFO, head first (R573 to R575). -/
  events : List Nat
  audit : Audit
  /-- An FDB_FLUSH in progress: its staging word (R564). -/
  flush : Option Nat
  /-- Source lookups of admitted frames still to be made, in admission order: port, source MAC, OVID (R549). -/
  srcq : List (Nat × List Byte × Nat)
deriving DecidableEq, Repr, Inhabited

/-- The event router's state that no register shows (17_notices_interrupts.md). -/
structure Evt where
  /-- Sources whose notice was delivered to INTN (R642). -/
  intn : SMap Bool
  /-- The pending-bit array: vectors whose message waits (R640). -/
  pba : SMap Bool
  /-- MSI-X messages sent, oldest first (model's own: what went out on the link). -/
  sent : List Nat
deriving DecidableEq, Repr, Inhabited

/-- One leg of a channel at an instant (19_power_stage_protection.md R706): its level, the instant of its latest
transition and of its latest gate turn-on, in edge steps from the start of the channel's current period. -/
structure Leg where
  lvl : Bool
  since : Int
  lastOn : Int
deriving DecidableEq, Repr

/-- A leg that has been still for a long time. -/
def Leg.reset : Leg := { lvl := false, since := -1000000000, lastOn := -1000000000 }

/-- A channel's gate drive (R704 to R720). -/
structure PwsCh where
  /-- The driver state: 0 all four low, 1 load-dump hold, 2 edge words (R704). -/
  drive : Nat
  /-- The current period in steps, and its edge word (R681): RISE_A, FALL_A, RISE_B, FALL_B. -/
  per : Nat
  ra : Nat
  fa : Nat
  rb : Nat
  fb : Nat
  /-- The legs at the start of the current period. -/
  legA : Leg
  legB : Leg
  /-- Dead time (0.5 ns units) and blanking (ns) in force for the current period (R705). -/
  dt : Nat
  blank : Nat
  /-- After a single-leg fault: which leg still holds (true: B) and its two gate levels, high side in bit 1 (R718). -/
  second : Option (Bool × Nat)
  /-- Index of the next period within its internal sample (R679). -/
  j : Nat
  /-- The current period's start in steps from its internal sample's (18_audio_path.md R679, R687). -/
  start : Nat
deriving DecidableEq, Repr

def PwsCh.reset : PwsCh :=
  { drive := 0, per := 32000, ra := 0, fa := 0, rb := 0, fb := 0, legA := Leg.reset, legB := Leg.reset, dt := 4,
    blank := 40, second := none, j := 0, start := 0 }

/-- The PWS island and the AO functions that act on the gates (19_power_stage_protection.md). -/
structure Pws where
  ch : SMap PwsCh
  /-- Reasons for which the AO output-disable is in force (R728): reset, REFCLK, PLL, stopped oscillator. -/
  disReset : Bool
  disRef : Bool
  disPll : Bool
  disOsc : Bool
  /-- Load-dump hold, and consecutive readings below 30 V (R725). -/
  hold : Bool
  below : Nat
  /-- Gate ownership is granted and not yet taken (R732). -/
  grant : Bool
  /-- A first battery reading has come since reset (R727). -/
  seen : Bool
deriving DecidableEq, Repr

/-- A channel of the audio path (18_audio_path.md R650 to R663). -/
structure AudCh where
  /-- Armed and waiting for its start instant (R659). -/
  armed : Bool
  /-- EN = 0 was written: reading stops at the next internal sample. -/
  stopping : Bool
  /-- A sample has been played since EN was set (R663). -/
  played : Bool
  /-- Consecutive concealed samples. -/
  conc : Nat
  /-- The next fade-in step j, 0 none (R662). -/
  fade : Nat
  /-- The last played sample in Q1.31. -/
  last : Int
  /-- The latest stage 1 output. -/
  x : Int
  /-- The latest stage 3 output. -/
  st3 : Int
  /-- The latest modulation value m in Q1.31. -/
  m : Int
  /-- Device time at which the previous position was read; 0 none since EN was set (R661). -/
  rtime : Nat
  /-- AUD_CH_CFG in force for MODE and PHASE (R680), and MOD in force (R686). -/
  cfg : Word
  modF : Nat
  /-- The edge word a panel has returned for the channel's next period (R685). -/
  fab : Option Nat
  /-- What AUD presents on the lane of the channel's panel for the period after next: m, P, the period's index and the sample count
  (R685). -/
  lane : Option (Int × Nat × Nat × Nat)
  /-- The state of the noise shaper of each leg, and of the rate converter (R682, R944). -/
  shapeA : Nat
  shapeB : Nat
  conv : Nat
deriving DecidableEq, Repr

def AudCh.reset : AudCh :=
  { armed := false, stopping := false, played := false, conc := 0, fade := 0, last := 0, x := 0, st3 := 0, m := 0,
    rtime := 0, cfg := 0, modF := 0, fab := none, lane := none, shapeA := 0, shapeB := 0, conv := 0 }

/-- A TDM port (R671 to R674). -/
structure Tdm where
  /-- Consecutive good frames. -/
  good : Nat
  /-- Sync has been lost and has not returned: the capture rings advance at the nominal rate (R673). -/
  lost : Bool
  /-- A transmit frame was sent last (R674). -/
  sent : Bool
  /-- The frame written to the capture rings last, which a FOLLOWER repeats where the LEADER's is missing (22_ply_pair.md R801). -/
  last : List Word
  /-- FOLLOWER: the LEADER's frame for the own frame before has not arrived (22_ply_pair.md R801). -/
  owed : Bool
deriving DecidableEq, Repr

def Tdm.reset : Tdm := { good := 0, lost := false, sent := false, last := [], owed := false }

/-- The AUD island (18_audio_path.md). -/
structure Aud where
  ch : SMap AudCh
  /-- Internal samples since AUD last started (20_live_calibration.md R942). -/
  samples : Nat
  /-- The media clock: phase in 2^-33 of a 96 kHz tick, and ticks (R655). -/
  mphase : Nat
  mtick : Nat
  /-- AUD_MOD in force for K (R680). -/
  modw : Word
  /-- The newest battery reading, mV, once one has been received since AUD started (R677). -/
  vbat : Option Nat
  /-- Gains G and E in units of 2^-48. -/
  g : Nat
  e : Nat
  /-- Prediction of the next CRF timestamp (ns, 32 bits), and consecutive discards (R653). -/
  pred : Option Nat
  discards : Nat
  /-- Listener watch entries that are watching (R665). -/
  watch : SMap Bool
  /-- Entries whose AUD_LW_CFG has been written (R665). -/
  lwSet : SMap Bool
  /-- Capture times of ring positions, by ring * 2^16 + p mod 2^LOG (R668). -/
  capTime : SMap Nat
  /-- Talker contexts: POS and SEQ (R669). -/
  talkPos : SMap Nat
  talkSeq : SMap Nat
  tdm : SMap Tdm
  /-- The device time at which AUD stopped on a PLL lock loss (R699). -/
  stopped : Option Nat
deriving DecidableEq, Repr, Inhabited

/-- What SAFE announces (R693 to R695). -/
inductive Announce
  | none
  | tone
  | clip
deriving DecidableEq, Repr

/-- The SAFE island's chime path (R689 to R697). -/
structure Safe where
  ann : Announce
  index : Nat
  atten : Nat
  mask : Nat
  /-- Plays still to come after the current one; 255 without end. -/
  left : Nat
  /-- Internal samples played of the current play. -/
  pos : Nat
  /-- The clip's PCM length in samples at 24 kHz. -/
  clipLen : Nat
  /-- Emergency-call pass-through is on. -/
  ecall : Bool
  /-- Command frames that wait for REFCLK in STANDBY, oldest first (05_power_states.md R184). -/
  waiting : List (List Byte)
  /-- TDM0 as SAFE receives it: consecutive good frames, and the latest slots. -/
  good : Nat
  slots : List Word
  /-- The safe gain G in units of 2^-48, once a reading has come. -/
  g : Nat
  vbat : Option Nat
  /-- The latest modulation values of channels 0 to 3. -/
  m : SMap Int
  /-- The index of each channel's next SAFE period within its internal sample (R697). -/
  j : SMap Nat
deriving DecidableEq, Repr

/-- A calibration channel (20_live_calibration.md). -/
structure CalCh where
  /-- A window has begun since AUD started, and has not been abandoned (R743, R744). -/
  open_ : Bool
  /-- Something abandons the window in progress. -/
  bad : Bool
  /-- The window has ended and awaits its result. -/
  ended : Bool
  stuckI : Bool
  stuckV : Bool
  /-- Consecutive windows that count, and that do not, for OPEN and SHORT (R750). -/
  openN : Nat
  openC : Nat
  shortN : Nat
  shortC : Nat
  /-- Consecutive silent samples (R754). -/
  silent : Nat
  /-- Samples and sums of a running trim (R755). -/
  n : Nat
  sumI : Int
  sumV : Int
  /-- A deadline is set (R757). -/
  deadline : Bool
deriving DecidableEq, Repr

def CalCh.reset : CalCh :=
  { open_ := false, bad := false, ended := false, stuckI := false, stuckV := false, openN := 0, openC := 0, shortN := 0,
    shortC := 0, silent := 0, n := 0, sumI := 0, sumV := 0, deadline := false }

/-- The calibration engine. -/
structure Cal where
  ch : SMap CalCh
  /-- The common sequence register s (R942). -/
  lfsr : Nat
  /-- Captures of R748: GAIN, DRIFT, ZLO, ZHI, STAT by agent ID * 16 + c. -/
  cap : SMap (List Word)
deriving DecidableEq, Repr, Inhabited

/-- A journal record to write (24_journal_memory.md R852): region, ID, payload. -/
structure JRec where
  region : Nat
  id : Nat
  data : List Byte
deriving DecidableEq, Repr

/-- A journal write in progress: the 64-bit words still to be written in order (payload, header, COMMIT), and whether it
is a write of the device (R852, R858). -/
structure JWrite where
  slot : Nat
  words : List (Nat × List Byte)
  device : Bool
deriving DecidableEq, Repr

/-- The journal (24_journal_memory.md). -/
structure Jrn where
  /-- MRAM, 2 MiB; kept through every reset (R868). -/
  mem : Mem
  /-- Uncorrectable 64-bit words, by address / 8. -/
  bad : SMap Bool
  /-- The write in progress. -/
  cur : Option JWrite
  /-- An agent's accepted write that waits for a device write (R854). -/
  next : Option JRec
  /-- Device writes to issue, oldest first (R850, R161). -/
  due : List JRec
  /-- When (ns) the safe-window sequence took its first word, if it has (R866). -/
  half : Option Nat
deriving DecidableEq, Repr

def Jrn.reset : Jrn := { mem := [], bad := [], cur := none, next := none, due := [], half := none }

/-- A fan (21_thermal_fans.md R774 to R781). -/
structure Fan where
  /-- TACH-LOOP has been entered. -/
  loop : Bool
  /-- u in units of 1/1,024 per-mille, and the previous error. -/
  u : Int
  e : Int
  /-- Consecutive updates at or above MINRPM while stalled. -/
  good : Nat
deriving DecidableEq, Repr

def Fan.reset : Fan := { loop := false, u := 0, e := 0, good := 0 }

/-- Thermal zones and fans (21_thermal_fans.md). -/
structure Thm where
  /-- Consecutive bad and consecutive valid readings of each zone (R771). -/
  bad : SMap Nat
  good : SMap Nat
  /-- Consecutive failed reads of each SBUS zone (R768). -/
  sbusFails : SMap Nat
  /-- Times (ns) of the failed recoveries (R770). -/
  recovFails : List Nat
  fans : SMap Fan
deriving DecidableEq, Repr

def Thm.reset : Thm := { bad := [], good := [], sbusFails := [], recovFails := [], fans := [] }

/-- A fetched submission entry until its completion is written (16_host_interface_rings.md R592, R602). -/
structure QEntry where
  /-- Its index in the submission ring. -/
  idx : Nat
  bytes : List Byte
  /-- A RECV that waits for a packet (R614). -/
  posted : Bool
  /-- A SEND whose buffer request waits (R613, R381). -/
  bufWait : Bool
  /-- A SEND that waits for admission (R409). -/
  pkt : Option Pkt
  /-- STATUS, RESULT0 and RESULT1, once the entry is done. -/
  result : Option (Nat × Nat × Nat)
deriving DecidableEq, Repr

/-- A queue pair (R591 to R601). -/
structure Qp where
  /-- 0 FREE, 1 ACTIVE, 2 DRAINING, 3 ERROR. -/
  st : Nat
  /-- RX. -/
  kind : Bool
  group : Nat
  ringsp : Bool
  sqbase : Nat
  cqbase : Nat
  sqlog : Nat
  cqlog : Nat
  maxinfl : Nat
  head : Nat
  tail : Nat
  /-- Completions written, and completion slots released, since creation. -/
  written : Nat
  released : Nat
  /-- Outstanding entries in submission order, once fetched. -/
  out : List QEntry
  /-- A descriptor read in flight: first index and number of entries. -/
  fetch : Option (Nat × Nat)
deriving DecidableEq, Repr, Inhabited

/-- A FREE queue pair. -/
def Qp.reset : Qp :=
  { st := 0, kind := false, group := 0, ringsp := false, sqbase := 0, cqbase := 0, sqlog := 0, cqlog := 0, maxinfl := 16,
    head := 0, tail := 0, written := 0, released := 0, out := [], fetch := none }

/-- A QSPI transaction in progress (R585, R589). -/
structure Qspi where
  write : Bool
  addr : Nat
  /-- Bytes of a write word received in part. -/
  part : List Byte
deriving DecidableEq, Repr

/-- The host interface (16_host_interface_rings.md). -/
structure Hif where
  bme : Bool
  d3hot : Bool
  msixEn : Bool
  fmask : Bool
  vmask : SMap Bool
  /-- The MSI-X table's address and data words, by vector * 4 + word (R581). -/
  vtab : SMap Word
  /-- Host memory, as far as the device has written it or the auditor reads it. -/
  mem : Mem
  qps : SMap Qp
  /-- Data writes that wait for Bus Master Enable, oldest first (R584). -/
  dmaq : List (Nat × List Byte)
  qspi : Option Qspi
  /-- The bytes that the host's latest read of packet memory returned. -/
  rdata : List Byte
deriving DecidableEq, Repr

def Hif.reset : Hif :=
  { bme := false, d3hot := false, msixEn := false, fmask := false, vmask := [], vtab := [], mem := [], qps := [],
    dmaq := [], qspi := none, rdata := [] }

/-- A requested test (23_in_service_test.md R835, R836): when it was accepted and when it is due (ns), and the parts of its work
that are done. -/
structure IstReq where
  kind : Nat
  target : Nat
  tag : Nat
  at_ : Nat
  due : Nat
  did : List Nat
deriving DecidableEq, Repr

/-- In-service test (23_in_service_test.md): queued requests and completed results, oldest first, and the slices each core's
running logic pass has completed. -/
structure Ist where
  reqs : List IstReq
  results : List Nat
  slices : SMap Nat
deriving DecidableEq, Repr, Inhabited

def Ist.reset : Ist := { reqs := [], results := [], slices := [] }

/-- A CAN FD controller (25_diagnostics_service.md R875 to R877). -/
structure CanPort where
  /-- The receive FIFO, oldest first: entries of 20 words. -/
  rx : List (List Word)
  /-- Buffers whose abort waits for a failed attempt, one bit each. -/
  aborts : Nat
  /-- Bus-off recovery has started. -/
  recovering : Bool
deriving DecidableEq, Repr

def CanPort.reset : CanPort := { rx := [], aborts := 0, recovering := false }

/-- A challenge of the service unlock: none, one that serves, one that has expired (R888). -/
inductive Challenge
  | none
  | live
  | expired
deriving DecidableEq, Repr, Inhabited

/-- Diagnostics (25_diagnostics_service.md). -/
structure Dgn where
  /-- Snapshots, oldest first, and the number captured since reset (R882, R883). -/
  snaps : List (List Byte)
  snapCount : Nat
  can : SMap CanPort
  chal : Challenge
  /-- CHALLENGE is refused after three failures (R889). -/
  wait : Bool
  /-- The device time (ns) at which the service unlock ends (R888). -/
  unlockEnd : Nat
deriving DecidableEq, Repr, Inhabited

def Dgn.reset : Dgn := { snaps := [], snapCount := 0, can := [], chal := .none, wait := false, unlockEnd := 0 }

/-- The test access port (R892 to R896): the current instruction's code, the boundary-scan cells, what the latest Capture-DR
loaded, and the debug register's data, DONE and ERR. -/
structure Tap where
  ir : Nat
  cells : Nat
  cap : Nat
  data : Word
  done : Bool
  err : Bool
deriving DecidableEq, Repr

/-- Test-logic reset: IDCODE is current (R892). -/
def Tap.reset : Tap := { ir := 1, cells := 0, cap := 0, data := 0, done := false, err := false }

/-- What the device puts on a pin or link. -/
inductive Output
  | frame (port : Nat) (bytes : List Byte)
  /-- An MDIO frame: OP, PHYAD, REG and, where the device drives it, the data word (08_ports_and_tsn.md R324). -/
  | mdio (op phy reg : Nat) (data : Word)
  /-- A frame on a TDM port: its slots. -/
  | tdm (p : Nat) (slots : List Word)
  /-- A host flash command: control word, address, bytes written. -/
  | xspi (ctl addr : Word) (data : List Byte)
  /-- What a QSPI transaction drives: words in order. -/
  | qspi (words : List Word)
  /-- What goes to the partner strand over the Ply link (22_ply_pair.md R796). -/
  | ply (r : LogRec)
  /-- A CAN frame on a port: the words of its transmit buffer (25_diagnostics_service.md R875). -/
  | can (port : Nat) (words : List Word)
  /-- A pulse of PLY_SYNC (R795). -/
  | plySync
deriving DecidableEq, Repr

/-! Block states out of reset. -/

def Clk.reset : Clk :=
  { timeFx := 0, bcast := 0, rate := [], ahead := [], slewFx := 0, disc := .never, refSeen := false,
    aoWatchdog := false, flitFails := [], credits := [], flitWait := [], loopLeft := [], stall := 0, wait := [] }

def Sys.reset : Sys :=
  { resetting := true, pornLow := false, keepStraps := false, boardTest := false, load := .idle, loadPush := false,
    loadStrap := false, loadRetry := false, unclamp := 0, weaving := false, weaveForce := false,
    handLeft := [], handWait := [], waited := [], gatesOut := [], netLoad := false, netPush := false, railSeen := 0xFFFF,
    flashAwake := false }

def Vnr.reset : Vnr :=
  { img := [], full := [], patched := [], patch := .idle, patchPush := false, readFails := 0,
    rewriting := [], panelWas := [], moved := [], patchErr := 0 }

def Mqy.reset : Mqy := { panels := [], mitre := [], mitreOn := false, level := [] }

def Prt.reset : Prt := { ports := [], recov := [], meters := [], sgates := [], refs := [], blocked := [] }

def Prs.reset : Prs := { cmd := none }

def Bpm.reset : Bpm :=
  { tags := [], cache := [], spilled := [], refill := [], waiting := [], hostWait := [], marked := [], threadKept := [], answers := [] }

def Dst.reset : Dst := { tasks := [], nextId := 0, nextSeq := [], mask := [], last := [], trace := [], trcCount := 0, refused := [] }

def Whl.reset : Whl := { cores := [], threads := [] }

def Fwd.reset : Fwd :=
  { mem := [], bad := [], told := [], learn := [], pushed := 0, bucket := none, events := [],
    audit := { running := false, pos := 0, deferred := [], recheck := [] }, flush := none, srcq := [] }

def Evt.reset : Evt := { intn := [], pba := [], sent := [] }

def Pws.reset : Pws :=
  { ch := [], disReset := true, disRef := false, disPll := false, disOsc := false, hold := false, below := 0,
    grant := false, seen := false }

def Aud.reset : Aud :=
  { ch := [], samples := 0, mphase := 0, mtick := 0, modw := 0x0000F004, vbat := none, g := 2 ^ 48, e := 2 ^ 48, pred := none,
    discards := 0, watch := [], lwSet := [], capTime := [], talkPos := [], talkSeq := [], tdm := [], stopped := none }

def Safe.reset : Safe :=
  { ann := .none, index := 0, atten := 0, mask := 0, left := 0, pos := 0, clipLen := 0, ecall := false, waiting := [], good := 0,
    slots := [], g := 2 ^ 48, vbat := none, m := [], j := [] }

def Cal.reset : Cal := { ch := [], lfsr := 0x7FFF, cap := [] }

/-- A slot close as both strands of a pair compare it (22_ply_pair.md R810). -/
structure CloseRec where
  yarn : Nat
  seq : Nat
  disp : Nat
  mask : Nat
  len : Nat
  fault : Bool
deriving DecidableEq, Repr

/-- The Ply pair's state that no register shows (22_ply_pair.md). -/
structure Ply where
  /-- The level of PLY_ALIVE_O (R792). -/
  aliveOut : Bool
  /-- A strand lost or divergent by its own verdict, by contention or by DETACH keeps PLY_ALIVE still until a join (R811). -/
  still : Bool
  /-- PLY_ALIVE has shown an edge since Stage 1 entry (R817). -/
  aliveSeen : Bool
  /-- Retired lanes, one bit each (R791). -/
  retired : Nat
  /-- FOLLOWER: records of the epoch in progress, and of closed epochs, each with its END (R798). -/
  log : List LogRec
  closed : List LogRec
  /-- FOLLOWER: frame bytes and answers that wait for their use (R796, R797). -/
  bodies : List (List Byte)
  answers : List (ReqKey × Nat × Word)
  /-- FOLLOWER: an ADMIT's frame has been requested (R799). -/
  asked : Bool
  /-- Mirrored accesses that wait for the next epoch boundary (R806). -/
  hostq : List HostAcc
  /-- Own closes and the LEADER's, not yet compared (R810). -/
  mine : List CloseRec
  theirs : List CloseRec
  /-- Edge words of the epoch by period * 16 + channel, and each channel's periods so far (R808). -/
  words : SMap (Option Nat)
  periods : SMap Nat
  /-- FOLLOWER: digests of own epochs whose END has not come, oldest first, each with the device time of its last boundary (R795,
  R808). -/
  digests : List (Nat × Nat)
  /-- Epochs for which the digest still omits a channel (R809), and epochs of SETTLE left. -/
  omits : SMap Nat
  settle : Nat
  /-- The own verdict on a mismatch whose partner's verdict is awaited (R811). -/
  verdict : Option Bool
  /-- A fault class's cause was set in this epoch, and in the one before (R811). -/
  faultNow : Bool
  faultPrev : Bool
  /-- Media-clock ratios and the boundaries left before each applies (R796). -/
  ratios : List (Nat × Word)
  /-- The ratio that the media clocks of a joined pair use (R796). -/
  ratioNow : Option Word
  /-- The latest logged battery reading, used one sample later (R796). -/
  vbatNext : Option Nat
  /-- LEADER: epoch-lane records sent in this epoch (R796). -/
  sent : Nat
  /-- LEADER: buffers kept for the FOLLOWER: key, epoch of admission, freed meanwhile (R799). -/
  kept : List (Nat × Nat × Bool)
  /-- Request counts by agent ID (R797). -/
  reqs : SMap Nat
deriving DecidableEq, Repr, Inhabited

def Ply.reset : Ply :=
  { aliveOut := false, still := false, aliveSeen := false, retired := 0, log := [], closed := [], bodies := [], answers := [],
    asked := false, hostq := [], mine := [], theirs := [], words := [], periods := [], digests := [], omits := [], settle := 0,
    verdict := none, faultNow := false, faultPrev := false, ratios := [], ratioNow := none, vbatNext := none, sent := 0, kept := [], reqs := [] }

/-- What CUTOVER carries to the joiner (22_ply_pair.md R818), with the lines that COPY sent: packet memory outside the frame
reserve, panel block memory, and the hidden state and registers of the named blocks. -/
structure CutState where
  pkt : Mem
  brams : SMap Mem
  whl : Whl
  bpm : Bpm
  locks : SMap Lock
  dst : Dst
  prs : Prs
  fwd : Fwd
  aud : Aud
  cal : Cal
  /-- Register words of BPM, LCK, DST, PRS, FWD, WHL, AUD and CAL by offset. -/
  regs : SMap Word
deriving DecidableEq, Repr

/-- How a join phase ends (22_ply_pair.md R818, R819). -/
inductive JoinStep
  /-- CHECK: the digests are equal; every other condition holds at the partner. -/
  | check (same ready : Bool)
  /-- One COPY pass: KiB left unsent, and whether 1 s has passed. -/
  | copy (left : Nat) (late : Bool)
  | cutover (img : CutState)
  | settle
deriving DecidableEq, Repr

end Sys2Proof.Machine
end

