-- ==== Sys2Proof/Syntax.lean ====
section
/-!
DEFINITION. The commands the SZ4816 takes: one constructor for each row of spec/opcode_table.json, with the operands its
rule names.
-/
namespace Sys2Proof
open Sys2Proof.Machine

/-- The commands: one constructor for each row of spec/opcode_table.json, with the operands its rule names. -/
inductive Instr
  /-- REGISTER_WRITE, 00_scope.md R18: A write to a register that has no row of its own sets its fields as its access code states. -/
  | registerWrite (a : Agent) (off be : Nat) (v : Word) (next : Option (Nat × Word) := none)
  /-- SPLIT_LO_READ, 00_scope.md R15: A read of a _LO half captures the matching high word for the reading agent. -/
  | splitLoRead (a : Agent) (off : Nat) (wide : Bool := false)
  /-- SPLIT_LO_WRITE, 00_scope.md R16: A write of a _LO half of a writable split pair is held for the writing agent. -/
  | splitLoWrite (a : Agent) (off be : Nat) (v : Word)
  /-- SPLIT_HI_WRITE, 00_scope.md R16: A write of a _HI half makes both halves take effect together. -/
  | splitHiWrite (a : Agent) (off be : Nat) (v : Word)
  /-- RC_READ, 00_scope.md R20: A read of an RC field returns its state and clears it, keeping a coincident event for the next read. -/
  | rcRead (a : Agent) (off : Nat) (ev : Word) (wide : Bool := false)
  /-- W1C_WRITE, 00_scope.md R22: A write to a W1C register clears each bit written as 1 unless a setting event coincides. -/
  | w1cWrite (a : Agent) (off be : Nat) (v ev : Word)
  /-- HOST_BAR2_WRITE, 01_device_overview.md R40: A host write to packet memory through BAR2 or QSPI, ignored before Stage 2 or while banks are off. -/
  | hostBar2Write (off : Nat) (data : List Byte) (a : Agent := .host)
  /-- HOST_BAR2_READ, 01_device_overview.md R40: A host read of packet memory through BAR2 or QSPI, returning zero before Stage 2 or while banks are off. -/
  | hostBar2Read (off len : Nat) (a : Agent := .host)
  /-- LINK_DOWN_FLUSH, 02_guarantees.md R66: A port that has been link-down for 10 ms has its egress queues flushed. -/
  | linkDownFlush (p : Nat)
  /-- T0_OPPORTUNITY_TIMEOUT, 02_guarantees.md R66: T0 counts as link-down when no transmit opportunity of its own has arrived for 10 ms. -/
  | t0OpportunityTimeout
  /-- EGRESS_STALL_FLUSH, 02_guarantees.md R68: An egress queue that has held frames without transmitting for 10 ms is flushed. -/
  | egressStallFlush (p q : Nat)
  /-- WEFT_FLIT_RECEIVE, 03_islands_and_weft.md R92: A receiver takes a flit, correcting a single-bit error or requesting a replay on a double-bit error. -/
  | weftFlitReceive (k : Nat) (back : Bool) (err : FlitError) (resp : Bool := false) (returned : Nat := 0)
  /-- LINK_LOOP_TEST_DONE, 03_islands_and_weft.md R93: A loop test of a link channel ends, returning the link to OK or retiring it. -/
  | linkLoopTestDone (k : Nat) (back pass : Bool)
  /-- OSC_STOP, 03_islands_and_weft.md R97: AO finds no heartbeat edge from an island for 8 µs and acts according to which island stopped. -/
  | oscStop (isl : Nat)
  /-- REFCLK_LOSS, 03_islands_and_weft.md R98: AO finds no REFCLK edge for 1 µs, declares REFCLK lost, moves time to its FRO and drives gates low. -/
  | refclkLoss
  /-- REFCLK_PRESENT, 03_islands_and_weft.md R99: After 100 µs of good REFCLK edges AO declares REFCLK present and the PLLs start to relock. -/
  | refclkPresent
  /-- PLL_LOCK, 03_islands_and_weft.md R99: A PLL achieves lock and reports it in CLK_STAT. -/
  | pllLock (k : Nat)
  /-- PLL_UNLOCK, 03_islands_and_weft.md R939: A PLL loses lock while REFCLK is present and the device starts to relock it. -/
  | pllUnlock (k : Nat)
  /-- PLL_RELOCK_TIMEOUT, 03_islands_and_weft.md R939: A PLL that has not relocked within 200 µs is treated as a stopped oscillator of every island it clocks. -/
  | pllRelockTimeout (k : Nat)
  /-- REFCLK_FREQ_ERROR, 03_islands_and_weft.md R100: REFCLK differs from 25 MHz by more than 200 ppm over 1 ms, setting REFCLK_FREQ and raising N04. -/
  | refclkFreqError
  /-- SLOW_THRESHOLD_CROSS, 03_islands_and_weft.md R80: A Whorl island falls below CLK_SLOW_THR, setting SLOW and raising N04. -/
  | slowThresholdCross (n mhz : Nat)
  /-- SLOW_CLEAR, 03_islands_and_weft.md R80: A slowed Whorl island has been at or above the threshold for 1 ms and its SLOW bit clears. -/
  | slowClear (n : Nat)
  /-- TIME_BROADCAST, 03_islands_and_weft.md R101: Each 1 µs AO broadcasts device time and every island recalibrates its TNOW without stepping it back. -/
  | timeBroadcast (missed : List Nat)
  /-- TIME_MESSAGE_TIMEOUT, 03_islands_and_weft.md R103: An island that receives no time message for 3 µs sets TLOST and keeps interpolating. -/
  | timeMessageTimeout (isl : Nat)
  /-- TIME_RATE_WRITE, 03_islands_and_weft.md R104: A write of CLK_TRATE sets the device time rate, clipped to ±200 ppm. -/
  | timeRateWrite (a : Agent) (v : Word)
  /-- TIME_SLEW_WRITE, 03_islands_and_weft.md R105: A write of CLK_TSLEW replaces the slew remainder, applied at 1 ns per µs. -/
  | timeSlewWrite (a : Agent) (v : Word)
  /-- TIME_STEP, 03_islands_and_weft.md R106: A write of CLK_TSTEP_HI moves device time forward by the 64-bit step, applied at every island's next broadcast. -/
  | timeStep (a : Agent) (hi : Word)
  /-- HOLDOVER_TIMEOUT, 03_islands_and_weft.md R109: No discipline write within CLK_HOLD_TO moves the time state from DISCIPLINED to HOLDOVER. -/
  | holdoverTimeout
  /-- PORN_FALL, 04_staged_start.md R119: A low pulse on PORN of sufficient length resets the device with the reset ball states. -/
  | pornFall (ns : Nat) (taken released : Bool)
  /-- BROWN_OUT, 04_staged_start.md R123: VDD_AO stays below its brown-out threshold for 2 µs and the device resets as for PORN. -/
  | brownOut (ns : Nat) (taken retained : Bool)
  /-- RESET_END, 04_staged_start.md R123: PORN is high and the AO rails have been within ratings for 1 ms, so the reset ends and straps are sampled. -/
  | resetEnd (boot plyrole : Nat) (svcen : Bool)
  /-- STAGE1_ENTRY, 04_staged_start.md R115: With the scan done, REFCLK present, the PLL locked and the safe record applied, the device enters Stage 1. -/
  | stage1Entry (partnerOwn : Bool)
  /-- WARP, 04_staged_start.md R139: The WARP command starts a Stage 2 load from flash or the host port, or is refused. -/
  | warp (a : Agent) (push : Bool)
  /-- LOAD_WAKE_DONE, 04_staged_start.md R141: The wake phase of a load ends with the source woken and the header and directory checked. -/
  | loadWakeDone (flash : Option Flash)
  /-- LOAD_STREAM_DONE, 04_staged_start.md R141: The stream phase ends with every section placed and hashed. -/
  | loadStreamDone
  /-- LOAD_VERIFY_DONE, 04_staged_start.md R141: The verify phase ends with the signature and rollback checks done. -/
  | loadVerifyDone
  /-- LOAD_APPLY_DONE, 04_staged_start.md R141: The apply phase ends with pools built, panels read back and core programs started. -/
  | loadApplyDone (readback : List (Nat × Nat))
  /-- UNCLAMP_OUTPUTS, 04_staged_start.md R151: Unclamp step 1 releases the output hold in every loaded panel. -/
  | unclampOutputs (a : Agent)
  /-- UNCLAMP_WRITE_ENABLES, 04_staged_start.md R151: Unclamp step 2 releases the write-enable hold in every loaded panel. -/
  | unclampWriteEnables (a : Agent)
  /-- UNCLAMP_RESETS, 04_staged_start.md R151: Unclamp step 3 releases the reset hold in every loaded panel. -/
  | unclampResets (a : Agent)
  /-- UNCLAMP_STEP_DONE, 04_staged_start.md R151: An unclamp step completes, setting its DONE bit and raising N00. -/
  | unclampStepDone
  /-- WEAVE, 04_staged_start.md R153: The WEAVE command starts the handover of channels from SAFE or HELD to AUD, or is refused. -/
  | weave (a : Agent) (force : Bool)
  /-- HANDOVER, 04_staged_start.md R155: A channel passes to AUD at the third boundary of its own PWM period after the accepted WEAVE. -/
  | handover (c : Nat)
  /-- POWER_FULL, 05_power_states.md R173: The FULL power-state command returns the device from QUIET or NET to FULL. -/
  | powerFull (a : Agent) (push : Bool) (key : Nat)
  /-- POWER_QUIET, 05_power_states.md R173: The QUIET power-state command stops the modulators and pilot. -/
  | powerQuiet (a : Agent) (push : Bool) (key : Nat)
  /-- POWER_NET, 05_power_states.md R181: The NET command drops and remaps work off cores outside the NET list and powers them and the panels off. -/
  | powerNet (a : Agent) (key : Nat)
  /-- POWER_STANDBY, 05_power_states.md R183: The STANDBY command powers all but AO, SAFE and JRN off until reset. -/
  | powerStandby (a : Agent) (key : Nat)
  /-- POWER_SERVICE, 05_power_states.md R187: The SERVICE command, with the service unlock active, enters SERVICE and runs the offline BIST. -/
  | powerService (a : Agent) (key : Nat)
  /-- POWER_RESET, 05_power_states.md R188: The RESET command resets the device as PORN does and sets SYS_RSTCAUSE.HOST. -/
  | powerReset (a : Agent) (key : Nat)
  /-- POWER_TRANSITION_DONE, 05_power_states.md R178: A power-state transition ends, updating SYS_PSTATE, setting DONE and raising N03. -/
  | powerTransitionDone
  /-- NET_RELOAD_DONE, 05_power_states.md R182: The reload of panels and core programs on return from NET ends, or fails with AUTH, SOURCE or CLOCK. -/
  | netReloadDone (flash : Option Flash) (readback : List (Nat × Nat))
  /-- GATES_RETURN_TO_SAFE, 05_power_states.md R179: Each channel completes its AUD period, its gates go low and it passes to SAFE or HELD. -/
  | gatesReturnToSafe (c : Nat)
  /-- STANDBY_WAKE_FRAME, 05_power_states.md R185: A wake frame on CAN FD port 0 in STANDBY sets SYS_WAKE.CAN and asserts INTN. -/
  | standbyWakeFrame (id : Nat) (ext : Bool) (data : List Byte)
  /-- PUSH_WORD, 06_veneer_image.md R213: A write to the push window appends one word of an image during a push transfer. -/
  | pushWord (a : Agent) (v : Word)
  /-- PUSH_TIMEOUT, 06_veneer_image.md R215: A push load, NET return or patch that receives no word for 1 s fails with SOURCE. -/
  | pushTimeout
  /-- KEYPROG_BURN, 06_veneer_image.md R941: A write of 0xA5 to VNR_KEYPROG_CMD starts the burn of the key hash fuses, or is refused. -/
  | keyprogBurn (a : Agent) (v : Word)
  /-- KEYPROG_BURN_DONE, 06_veneer_image.md R941: The key hash burn ends and DONE is set. -/
  | keyprogBurnDone
  /-- ROLLBACK_ADVANCE, 06_veneer_image.md R210: A keyed VNR_ROLL_CMD write raises the fuse rollback count toward TARGET, or is refused. -/
  | rollbackAdvance (a : Agent) (v : Word)
  /-- ROLLBACK_BURN_DONE, 06_veneer_image.md R210: The rollback fuse burn ends. -/
  | rollbackBurnDone
  /-- PATCH_START, 06_veneer_image.md R225: A keyed START of VNR_PATCH_CMD stages a patch image from flash or the push window, or is refused. -/
  | patchStart (a : Agent) (v : Word)
  /-- PATCH_VERIFY_DONE, 06_veneer_image.md R224: The staged patch image is checked and verified and the apply sequence begins. -/
  | patchVerifyDone (flash : Option Flash) (partnerErr : Nat)
  /-- PATCH_READBACK_DONE, 06_veneer_image.md R228: A panel patch's write and readback end, continuing the apply or restoring the old frames after two failures. -/
  | patchReadbackDone (crc partnerErr : Nat)
  /-- CORE_PATCH_IDLE_TIMEOUT, 06_veneer_image.md R230: After up to 1 ms waiting for a patched core's threads to idle, the device stops them and drops their packets. -/
  | corePatchIdleTimeout
  /-- PATCH_END, 06_veneer_image.md R232: A patch ends, clearing BUSY, setting ERR and raising N42. -/
  | patchEnd
  /-- RESERVE_REWRITE_DONE, 06_veneer_image.md R221: A panel rewrite from its reserve slot after an upset completes. -/
  | reserveRewriteDone (p crc : Nat)
  /-- PANEL_REQUEST, 07_marquetry_fabric.md R260: A weft request arrives at a panel port and is queued to customer logic or answered by the border. -/
  | panelRequest (p k : Nat) (req : PanelAccess)
  /-- PANEL_RESPONSE, 07_marquetry_fabric.md R260: Customer logic answers the oldest queued request of a port. -/
  | panelResponse (p k : Nat) (data : Word)
  /-- PANEL_REQUEST_TIMEOUT, 07_marquetry_fabric.md R262: A request unanswered for 100 µs completes with PANEL_BUSY with the ones behind it, and the port fails fast. -/
  | panelRequestTimeout (p k : Nat)
  /-- PORT_READY_ASSERT, 07_marquetry_fabric.md R262: Customer logic asserts a port's ready input, clearing FAILFAST. -/
  | portReadyAssert (p k : Nat)
  /-- STALL_REQUEST_TIMEOUT, 07_marquetry_fabric.md R280: A request waiting on a panel stall for 100 µs completes with PANEL_BUSY. -/
  | stallRequestTimeout (p : Nat)
  /-- BRAM_ECC_ERROR, 07_marquetry_fabric.md R250: A double-bit block memory error records its address, sets ECC2 and raises N45. -/
  | bramEccError (p addr : Nat) (portB single : Bool := false)
  /-- USER_NOTICE, 07_marquetry_fabric.md R284: A rising edge on a panel's user-notice input sets USER and raises N47. -/
  | userNotice (p : Nat)
  /-- READBACK_PASS_DONE, 07_marquetry_fabric.md R283: An IST readback pass of a panel ends and is checked against its golden CRC. -/
  | readbackPassDone (p crc ns : Nat)
  /-- FRAME_RECEIVE, 08_ports_and_tsn.md R297: A port receives a frame and applies MAC checks, timestamp, buffer, VLAN, classification, stream filtering and recovery. -/
  | frameReceive (p : Nat) (data : List Byte) (fcsErr slow : Bool)
  /-- ADMISSION_HOLD_TIMEOUT, 08_ports_and_tsn.md R301: A head packet that has waited PRT_HOLD without admission is dropped. -/
  | admissionHoldTimeout (p tc : Nat)
  /-- LINK_DOWN, 08_ports_and_tsn.md R295: A port is declared link-down within 10 µs of its cause and N48 is raised. -/
  | linkDown (p : Nat)
  /-- LINK_UP, 08_ports_and_tsn.md R295: After 1 ms of continuous good state a port is declared link-up. -/
  | linkUp (p speed : Nat)
  /-- TRANSMIT_SELECTION, 08_ports_and_tsn.md R308: When a port can start a frame it selects the highest eligible egress queue and starts its head frame. -/
  | transmitSelection (p : Nat) (opp : Bool := false)
  /-- FRAME_TX_DONE, 08_ports_and_tsn.md R304: A frame finishes transmission, pushing any egress timestamp and freeing its buffer. -/
  | frameTxDone (p : Nat) (collided : Bool := false)
  /-- TXTS_TAG_READ, 08_ports_and_tsn.md R304: A read of PRT_TXTS_TAG removes the head egress timestamp and captures it. -/
  | txtsTagRead (a : Agent) (p : Nat)
  /-- TAS_CHANGE, 08_ports_and_tsn.md R312: A write of PRT_TAS_CTL.CHANGE schedules the admin gate list for its ConfigChangeTime. -/
  | tasChange (a : Agent) (p : Nat) (v : Word)
  /-- TAS_CONFIG_CHANGE, 08_ports_and_tsn.md R312: At ConfigChangeTime the admin gate list is installed as oper and N52 is raised. -/
  | tasConfigChange (p : Nat)
  /-- GATE_ENTRY_ADVANCE, 08_ports_and_tsn.md R313: A gate control entry's interval expires and the next entry's gate states take effect. -/
  | gateEntryAdvance (p : Nat)
  /-- STREAM_GATE_CHANGE, 08_ports_and_tsn.md R322: A stream gate's CHANGE installs its admin list at ConfigChangeTime. -/
  | streamGateChange (a : Agent) (g : Nat) (v : Word)
  /-- FP_VERIFY_DONE, 08_ports_and_tsn.md R316: The 802.3br verify procedure on U0 or U1 ends in success or failure. -/
  | fpVerifyDone (p : Nat) (ok : Bool)
  /-- RECOVERY_RESET_TIMEOUT, 08_ports_and_tsn.md R320: A recovery function's reset timer passes without a frame, clearing its history and raising N54. -/
  | recoveryResetTimeout (h : Nat)
  /-- MDIO_C22_WRITE, 08_ports_and_tsn.md R324: PRT_MDIO_CMD with OP 0 starts a clause 22 write frame. -/
  | mdioC22Write (a : Agent) (v : Word)
  /-- MDIO_C22_READ, 08_ports_and_tsn.md R324: PRT_MDIO_CMD with OP 1 starts a clause 22 read frame. -/
  | mdioC22Read (a : Agent) (v : Word)
  /-- MDIO_C45_ADDRESS, 08_ports_and_tsn.md R324: PRT_MDIO_CMD with OP 4 starts a clause 45 address frame. -/
  | mdioC45Address (a : Agent) (v : Word)
  /-- MDIO_C45_WRITE, 08_ports_and_tsn.md R324: PRT_MDIO_CMD with OP 5 starts a clause 45 write frame. -/
  | mdioC45Write (a : Agent) (v : Word)
  /-- MDIO_C45_READ, 08_ports_and_tsn.md R324: PRT_MDIO_CMD with OP 6 starts a clause 45 read frame. -/
  | mdioC45Read (a : Agent) (v : Word)
  /-- MDIO_C45_READ_INCREMENT, 08_ports_and_tsn.md R324: PRT_MDIO_CMD with OP 7 starts a clause 45 read-increment frame. -/
  | mdioC45ReadIncrement (a : Agent) (v : Word)
  /-- MDIO_FRAME_DONE, 08_ports_and_tsn.md R324: An MDIO frame ends, clearing BUSY, holding read data and raising N55. -/
  | mdioFrameDone (data : Word)
  /-- RULE_WRITE, 09_parser_classifier.md R353: PRS_RCMD with OP WRITE copies the staging entry into a rule. -/
  | ruleWrite (a : Agent) (v : Word)
  /-- RULE_INVALIDATE, 09_parser_classifier.md R353: PRS_RCMD with OP INVALIDATE zeroes a rule. -/
  | ruleInvalidate (a : Agent) (v : Word)
  /-- RULE_CMD_DONE, 09_parser_classifier.md R354: A rule command takes effect between packets and completes, raising N56. -/
  | ruleCmdDone
  /-- GROUP_ENABLE_WRITE, 09_parser_classifier.md R356: A write of PRS_GRP_EN changes all 16 group enables at once between packets. -/
  | groupEnableWrite (a : Agent) (v : Word)
  /-- BUFFER_REQUEST, 10_buffers_and_locks.md R367: A buffer request is granted from the first pool that allows it, or fails with NOBUF or TOOBIG. -/
  | bufferRequest (owner len : Nat) (esc : Bool)
  /-- BUFFER_WAIT_GRANT, 10_buffers_and_locks.md R381: A waiting host queue group request is granted at the first moment the accounting allows it. -/
  | bufferWaitGrant (owner : Nat)
  /-- CACHE_REFILL_DONE, 10_buffers_and_locks.md R371: A ring-mode pool's cache refill from the ring completes and waiting requests proceed. -/
  | cacheRefillDone (pool : Nat)
  /-- BUFFER_FREE, 10_buffers_and_locks.md R379: A free returns a buffer to its pool, or is ignored as a bad free, or quarantines a marked buffer. -/
  | bufferFree (handle : Nat)
  /-- LOCK_READ, 10_buffers_and_locks.md R388: An RA read of LCK_n acquires the lock if free or returns 0 if held. -/
  | lockRead (a : Agent) (n : Nat) (others : List Agent)
  /-- LOCK_RELEASE, 10_buffers_and_locks.md R391: A write to LCK_n releases the lock and wakes its waiters. -/
  | lockRelease (a : Agent) (n : Nat)
  /-- LOCK_HOLD_TIMEOUT, 10_buffers_and_locks.md R395: A lock held longer than LCK_HOLDMAX sets LONGHOLD and raises N66. -/
  | lockHoldTimeout (n : Nat)
  /-- ATOMIC_OP, 16_host_interface_rings.md R582: A PCIe AtomicOp is performed as a counter fetch-and-add or refused with Unsupported Request. -/
  | atomicOp (add32 bar0 : Bool) (off : Nat) (v : Word)
  /-- PACKET_ADMIT, 11_distaff_and_yarns.md R407: A waiting packet is admitted to its yarn with a sequence number and placed on a core's ready list, or dropped as unserved. -/
  | packetAdmit (p sel : Nat)
  /-- SOURCE_LOOKUP, 15_forwarding_learning.md R550: A source lookup for an admitted frame sets HIT, learns, moves or refuses an FDB entry. -/
  | sourceLookup
  /-- TASK_DISPATCH, 11_distaff_and_yarns.md R414: An idle eligible thread receives the head task of a ready list it serves. -/
  | taskDispatch (n thr : Nat)
  /-- TASK_STEAL, 11_distaff_and_yarns.md R421: A task QUEUED on one core for STEAL µs moves to another core of its set. -/
  | taskSteal (y seq : Nat)
  /-- SLOT_CLOSE, 11_distaff_and_yarns.md R428: A DONE task whose earlier sequence numbers have closed releases its frame, host delivery, drop or keep. -/
  | slotClose (y : Nat)
  /-- TRACE_RECORD_SELECT, 11_distaff_and_yarns.md R441: A write of DST_TRC_RIDX selects a trace record for reading. -/
  | traceRecordSelect (a : Agent) (v : Word)
  /-- TRACE_MODE_CHANGE, 11_distaff_and_yarns.md R441: A write of DST_TRC_CTL that changes MODE clears the trace memory and pointers. -/
  | traceModeChange (a : Agent) (v : Word)
  /-- YARN_LIMIT_WRITE, 11_distaff_and_yarns.md R444: A write of DST_YCFG LIMIT changes a yarn's in-flight limit without taking tasks back. -/
  | yarnLimitWrite (a : Agent) (y : Nat) (v : Word)
  /-- YARN_MASK_WRITE, 11_distaff_and_yarns.md R445: A write of DST_YMASK_HI applies a yarn's new core set between admissions. -/
  | yarnMaskWrite (a : Agent) (v : Word)
  /-- WATCHDOG_EXPIRY, 12_whorl_cores_threads.md R463: A thread's watchdog reaches its limit and the thread faults with cause WDOG. -/
  | watchdogExpiry (tid : Nat)
  /-- ESCALATION_TIMEOUT, 12_whorl_cores_threads.md R467: An unhandled child fault reaches WHL_ESC_TO and escalates to the root supervisor. -/
  | escalationTimeout (tid : Nat)
  /-- HOST_ESCALATION_TIMEOUT, 12_whorl_cores_threads.md R467: A fault still unhandled after a further WHL_ESC_TO sets ESCHOST and raises N70. -/
  | hostEscalationTimeout (tid : Nat)
  /-- THREAD_STOP, 12_whorl_cores_threads.md R469: A WHL_TCTL STOP moves a thread to STOPPED, dropping its tasks and optionally releasing its locks. -/
  | threadStop (a : Agent) (tid : Nat) (v : Word)
  /-- THREAD_RESTART, 12_whorl_cores_threads.md R469: A WHL_TCTL RESTART moves a thread to RUN at its entry or WHL_TPC with reset registers. -/
  | threadRestart (a : Agent) (tid : Nat) (v : Word)
  /-- THREAD_SIGNAL, 12_whorl_cores_threads.md R455: A write of WHL_TSIG raises the SIGNAL event at a thread. -/
  | threadSignal (a : Agent) (tid : Nat)
  /-- TIMER_EXPIRY, 12_whorl_cores_threads.md R457: A thread's TNOW reaches TCMP and EVP.TIMER is set. -/
  | timerExpiry (tid : Nat)
  /-- LOCAL_MEMORY_WINDOW_WRITE, 12_whorl_cores_threads.md R453: A write to a core's local memory through its WHL window. -/
  | localMemoryWindowWrite (a : Agent) (n off be : Nat) (v : Word)
  /-- WEFT_READ_RESPONSE, 13_whorl_isa_model.md R488: The response to a thread's weft read arrives, delivering data, 0 with WERR, or a fault. -/
  | weftReadResponse (tid : Nat) (ecc : Bool)
  /-- WEFT_STORE_RESPONSE, 13_whorl_isa_model.md R489: The response to a thread's weft store arrives, setting WERR or faulting on PANEL_BUSY. -/
  | weftStoreResponse (tid k : Nat)
  /-- LOOKUP_RESULT, 13_whorl_isa_model.md R510: A table lookup result arrives in LKR0 and LKR1 and sets EVP.LKUP. -/
  | lookupResult (tid : Nat)
  /-- FENCE_COMPLETE, 14_whorl_isa_catalogue.md R543: Every earlier weft write of a fenced thread has completed and the thread continues. -/
  | fenceComplete (tid : Nat)
  /-- PAIRED_WORD, 13_whorl_isa_model.md R502: A paired-form word executes its slot A and slot B operations as one word. -/
  | pairedWord (tid : Nat)
  /-- MOV, 14_whorl_isa_catalogue.md R525: Copies a register. -/
  | mov (tid : Nat)
  /-- ADD, 14_whorl_isa_catalogue.md R525: Adds two registers. -/
  | add (tid : Nat)
  /-- ADC, 14_whorl_isa_catalogue.md R525: Adds two registers and carry. -/
  | adc (tid : Nat)
  /-- SUB, 14_whorl_isa_catalogue.md R525: Subtracts two registers. -/
  | sub (tid : Nat)
  /-- SBC, 14_whorl_isa_catalogue.md R525: Subtracts with borrow. -/
  | sbc (tid : Nat)
  /-- AND, 14_whorl_isa_catalogue.md R525: Bitwise AND of two registers. -/
  | and (tid : Nat)
  /-- OR, 14_whorl_isa_catalogue.md R525: Bitwise OR of two registers. -/
  | or (tid : Nat)
  /-- XOR, 14_whorl_isa_catalogue.md R525: Bitwise XOR of two registers. -/
  | xor (tid : Nat)
  /-- BIC, 14_whorl_isa_catalogue.md R525: Bit clear of two registers. -/
  | bic (tid : Nat)
  /-- SHL, 14_whorl_isa_catalogue.md R526: Shifts left by a register amount. -/
  | shl (tid : Nat)
  /-- SHR, 14_whorl_isa_catalogue.md R526: Shifts right with zero fill by a register amount. -/
  | shr (tid : Nat)
  /-- SAR, 14_whorl_isa_catalogue.md R526: Shifts right with sign fill by a register amount. -/
  | sar (tid : Nat)
  /-- ROR, 14_whorl_isa_catalogue.md R525: Rotates right by a register amount. -/
  | ror (tid : Nat)
  /-- MIN, 14_whorl_isa_catalogue.md R525: Signed minimum. -/
  | min (tid : Nat)
  /-- MAX, 14_whorl_isa_catalogue.md R525: Signed maximum. -/
  | max (tid : Nat)
  /-- MINU, 14_whorl_isa_catalogue.md R525: Unsigned minimum. -/
  | minu (tid : Nat)
  /-- MAXU, 14_whorl_isa_catalogue.md R525: Unsigned maximum. -/
  | maxu (tid : Nat)
  /-- CMP, 14_whorl_isa_catalogue.md R525: Sets flags from a register subtraction. -/
  | cmp (tid : Nat)
  /-- TST, 14_whorl_isa_catalogue.md R525: Sets flags from a register AND. -/
  | tst (tid : Nat)
  /-- CLZ, 14_whorl_isa_catalogue.md R525: Counts leading zeros. -/
  | clz (tid : Nat)
  /-- BSWAP, 14_whorl_isa_catalogue.md R525: Reverses byte order. -/
  | bswap (tid : Nat)
  /-- SEXTB, 14_whorl_isa_catalogue.md R525: Sign-extends a byte. -/
  | sextb (tid : Nat)
  /-- SEXTH, 14_whorl_isa_catalogue.md R525: Sign-extends a half-word. -/
  | sexth (tid : Nat)
  /-- ZEXTB, 14_whorl_isa_catalogue.md R525: Zero-extends a byte, short operation only. -/
  | zextb (tid : Nat)
  /-- ZEXTH, 14_whorl_isa_catalogue.md R525: Zero-extends a half-word, short operation only. -/
  | zexth (tid : Nat)
  /-- NEG, 14_whorl_isa_catalogue.md R525: Negates a register. -/
  | neg (tid : Nat)
  /-- NOT, 14_whorl_isa_catalogue.md R525: Inverts a register. -/
  | not (tid : Nat)
  /-- MOVI, 14_whorl_isa_catalogue.md R527: Loads an immediate. -/
  | movi (tid : Nat)
  /-- MOVHI, 14_whorl_isa_catalogue.md R527: Loads an immediate into the high half. -/
  | movhi (tid : Nat)
  /-- ADDI, 14_whorl_isa_catalogue.md R527: Adds an immediate. -/
  | addi (tid : Nat)
  /-- ANDI, 14_whorl_isa_catalogue.md R527: ANDs an immediate. -/
  | andi (tid : Nat)
  /-- ORI, 14_whorl_isa_catalogue.md R527: ORs an immediate. -/
  | ori (tid : Nat)
  /-- XORI, 14_whorl_isa_catalogue.md R527: XORs an immediate. -/
  | xori (tid : Nat)
  /-- SHLI, 14_whorl_isa_catalogue.md R527: Shifts left by an immediate. -/
  | shli (tid : Nat)
  /-- SHRI, 14_whorl_isa_catalogue.md R527: Shifts right with zero fill by an immediate. -/
  | shri (tid : Nat)
  /-- SARI, 14_whorl_isa_catalogue.md R527: Shifts right with sign fill by an immediate. -/
  | sari (tid : Nat)
  /-- RORI, 14_whorl_isa_catalogue.md R527: Rotates right by an immediate. -/
  | rori (tid : Nat)
  /-- CMPI, 14_whorl_isa_catalogue.md R527: Sets flags from subtraction of an immediate. -/
  | cmpi (tid : Nat)
  /-- TSTI, 14_whorl_isa_catalogue.md R527: Sets flags from AND with an immediate. -/
  | tsti (tid : Nat)
  /-- EXTU, 14_whorl_isa_catalogue.md R527: Extracts an unsigned bit field. -/
  | extu (tid : Nat)
  /-- INS, 14_whorl_isa_catalogue.md R527: Inserts a bit field. -/
  | ins (tid : Nat)
  /-- BR, 14_whorl_isa_catalogue.md R528: Branches by a displacement. -/
  | br (tid : Nat)
  /-- CALL, 14_whorl_isa_catalogue.md R529: Branches and writes the link register. -/
  | call (tid : Nat)
  /-- BC, 14_whorl_isa_catalogue.md R528: Branches if a condition on a register comparison holds. -/
  | bc (tid : Nat)
  /-- BF, 14_whorl_isa_catalogue.md R528: Branches if a condition on the flags holds. -/
  | bf (tid : Nat)
  /-- J, 14_whorl_isa_catalogue.md R529: Jumps to a register target. -/
  | j (tid : Nat)
  /-- JL, 14_whorl_isa_catalogue.md R529: Jumps to a register target and links. -/
  | jl (tid : Nat)
  /-- JX, 13_whorl_isa_model.md R504: Jumps to a register target and sets the instruction form. -/
  | jx (tid : Nat)
  /-- JXL, 13_whorl_isa_model.md R504: Jumps, sets the form and saves the return address and form. -/
  | jxl (tid : Nat)
  /-- RTX, 13_whorl_isa_model.md R504: Returns to lk in the form held by LFORM. -/
  | rtx (tid : Nat)
  /-- BNZ, 14_whorl_isa_catalogue.md R528: Branches if a register is non-zero. -/
  | bnz (tid : Nat)
  /-- DBNZ, 14_whorl_isa_catalogue.md R528: Decrements a register and branches if non-zero. -/
  | dbnz (tid : Nat)
  /-- LDB, 14_whorl_isa_catalogue.md R531: Loads a sign-extended byte. -/
  | ldb (tid : Nat)
  /-- LDBU, 14_whorl_isa_catalogue.md R531: Loads a zero-extended byte. -/
  | ldbu (tid : Nat)
  /-- LDH, 14_whorl_isa_catalogue.md R531: Loads a sign-extended half-word. -/
  | ldh (tid : Nat)
  /-- LDHU, 14_whorl_isa_catalogue.md R531: Loads a zero-extended half-word. -/
  | ldhu (tid : Nat)
  /-- LDW, 14_whorl_isa_catalogue.md R531: Loads a word. -/
  | ldw (tid : Nat)
  /-- STB, 14_whorl_isa_catalogue.md R531: Stores a byte. -/
  | stb (tid : Nat)
  /-- STH, 14_whorl_isa_catalogue.md R531: Stores a half-word. -/
  | sth (tid : Nat)
  /-- STW, 14_whorl_isa_catalogue.md R531: Stores a word. -/
  | stw (tid : Nat)
  /-- LDHN, 14_whorl_isa_catalogue.md R531: Loads a sign-extended half-word in network order. -/
  | ldhn (tid : Nat)
  /-- LDHUN, 14_whorl_isa_catalogue.md R531: Loads a zero-extended half-word in network order. -/
  | ldhun (tid : Nat)
  /-- LDWN, 14_whorl_isa_catalogue.md R531: Loads a word in network order. -/
  | ldwn (tid : Nat)
  /-- STHN, 14_whorl_isa_catalogue.md R531: Stores a half-word in network order. -/
  | sthn (tid : Nat)
  /-- STWN, 14_whorl_isa_catalogue.md R531: Stores a word in network order. -/
  | stwn (tid : Nat)
  /-- PLD, 14_whorl_isa_catalogue.md R531: Loads packet-relative from the buffer PKH names. -/
  | pld (tid : Nat)
  /-- PST, 14_whorl_isa_catalogue.md R531: Stores packet-relative into the buffer PKH names. -/
  | pst (tid : Nat)
  /-- PUSH, 14_whorl_isa_catalogue.md R532: Pushes named registers onto the stack. -/
  | push (tid : Nat)
  /-- POP, 14_whorl_isa_catalogue.md R532: Pops named registers from the stack. -/
  | pop (tid : Nat)
  /-- MUL, 14_whorl_isa_catalogue.md R533: Signed product into the accumulator. -/
  | mul (tid : Nat)
  /-- MULU, 14_whorl_isa_catalogue.md R533: Unsigned product into the accumulator. -/
  | mulu (tid : Nat)
  /-- MAC, 14_whorl_isa_catalogue.md R533: Adds a signed product to the accumulator. -/
  | mac (tid : Nat)
  /-- MACU, 14_whorl_isa_catalogue.md R533: Adds an unsigned product to the accumulator. -/
  | macu (tid : Nat)
  /-- MSU, 14_whorl_isa_catalogue.md R533: Subtracts a signed product from the accumulator. -/
  | msu (tid : Nat)
  /-- RDACC, 14_whorl_isa_catalogue.md R534: Reads the accumulator rounded, shifted and saturated. -/
  | rdacc (tid : Nat)
  /-- QADD, 14_whorl_isa_catalogue.md R533: Saturating add. -/
  | qadd (tid : Nat)
  /-- QSUB, 14_whorl_isa_catalogue.md R533: Saturating subtract. -/
  | qsub (tid : Nat)
  /-- QSHL, 14_whorl_isa_catalogue.md R533: Saturating shift left. -/
  | qshl (tid : Nat)
  /-- QABS, 14_whorl_isa_catalogue.md R535: Saturating absolute value. -/
  | qabs (tid : Nat)
  /-- QNEG, 14_whorl_isa_catalogue.md R535: Saturating negate. -/
  | qneg (tid : Nat)
  /-- TGET, 14_whorl_isa_catalogue.md R539: Waits for a task, first closing any held task as DROP. -/
  | tget (tid : Nat)
  /-- TDONE, 14_whorl_isa_catalogue.md R539: Ends the current task with a disposition and resumes any parked task. -/
  | tdone (tid : Nat)
  /-- SEND, 14_whorl_isa_catalogue.md R540: Places a buffer directly in an egress queue, or returns FULL or INVAL. -/
  | send (tid : Nat)
  /-- BALLOC, 14_whorl_isa_catalogue.md R538: Requests a buffer and returns its handle or a failure status. -/
  | balloc (tid : Nat)
  /-- BFREE, 14_whorl_isa_catalogue.md R537: Frees a buffer by handle, posted. -/
  | bfree (tid : Nat)
  /-- WAITLK, 10_buffers_and_locks.md R392: Registers on a lock and sleeps until it is released. -/
  | waitlk (tid : Nat)
  /-- FADD, 14_whorl_isa_catalogue.md R537: Fetch-and-add on an atomic counter. -/
  | fadd (tid : Nat)
  /-- SLEEP, 12_whorl_cores_threads.md R456: Waits until an unmasked event is pending. -/
  | sleep (tid : Nat)
  /-- LKUP, 14_whorl_isa_catalogue.md R541: Starts a table lookup from an aligned key in local memory. -/
  | lkup (tid : Nat)
  /-- NOP, 14_whorl_isa_catalogue.md R542: Does nothing. -/
  | nop (tid : Nat)
  /-- MFS, 14_whorl_isa_catalogue.md R542: Copies a special register into a general register. -/
  | mfs (tid : Nat)
  /-- MTS, 14_whorl_isa_catalogue.md R542: Copies a general register into a special register. -/
  | mts (tid : Nat)
  /-- FENCE, 14_whorl_isa_catalogue.md R542: Waits for every earlier weft write of the thread to complete. -/
  | fence (tid : Nat)
  /-- TRAP, 14_whorl_isa_catalogue.md R542: Faults the thread with cause TRAP and a code. -/
  | trap (tid : Nat)
  /-- AGER_VISIT, 15_forwarding_learning.md R554: The ager visits an FDB entry, clearing HIT or removing the entry with an AGED record. -/
  | agerVisit (idx : Nat)
  /-- FWD_WRITE, 15_forwarding_learning.md R564: FWD_CMD WRITE writes the enabled staged bytes to a table line. -/
  | fwdWrite (a : Agent)
  /-- FWD_READ, 15_forwarding_learning.md R564: FWD_CMD READ copies a table line into the staging area. -/
  | fwdRead (a : Agent)
  /-- FDB_INSERT, 15_forwarding_learning.md R564: FWD_CMD FDB_INSERT replaces or inserts an FDB entry. -/
  | fdbInsert (a : Agent)
  /-- FDB_DELETE, 15_forwarding_learning.md R564: FWD_CMD FDB_DELETE clears a matching FDB entry. -/
  | fdbDelete (a : Agent)
  /-- FDB_FLUSH, 15_forwarding_learning.md R564: FWD_CMD FDB_FLUSH starts clearing FDB entries by port mask and VLAN. -/
  | fdbFlush (a : Agent)
  /-- FDB_FLUSH_DONE, 15_forwarding_learning.md R565: An FDB flush completes. -/
  | fdbFlushDone
  /-- LEARN_POP, 15_forwarding_learning.md R553: A write of FWD_LRN_POP removes the head learn record. -/
  | learnPop (a : Agent)
  /-- FWD_EVENT_READ, 15_forwarding_learning.md R575: A read of FWD_EVT removes and returns the head audit or ECC event. -/
  | fwdEventRead (a : Agent)
  /-- AUDIT_SWEEP_START, 15_forwarding_learning.md R571: A table audit sweep starts at each PERIOD. -/
  | auditSweepStart
  /-- AUDIT_LINE_COMPARE, 15_forwarding_learning.md R572: A shadow read completes and the auditor compares the line with table memory. -/
  | auditLineCompare
  /-- AUDIT_RECHECK, 15_forwarding_learning.md R572: A differing line is compared again at least 1 ms later and a mismatch reported if it still differs. -/
  | auditRecheck
  /-- AUDIT_SWEEP_END, 15_forwarding_learning.md R571: A sweep ends, or is late and sets LATE with N59. -/
  | auditSweepEnd (late : Bool)
  /-- SQ_DOORBELL, 16_host_interface_rings.md R596: A write of HIF_DB_SQ sets a queue pair's submission tail. -/
  | sqDoorbell (a : Agent) (q : Nat) (v : Word)
  /-- CQ_DOORBELL, 16_host_interface_rings.md R596: A write of HIF_DB_CQ releases completion slots. -/
  | cqDoorbell (a : Agent) (q : Nat) (v : Word)
  /-- DESCRIPTOR_FETCH, 16_host_interface_rings.md R597: HIF issues a read of up to 8 submission entries, reserving completion slots. -/
  | descriptorFetch (q : Nat)
  /-- FETCH_COMPLETE, 16_host_interface_rings.md R620: Fetched entries arrive and their format words are checked, or a failed fetch sets the queue pair to ERROR. -/
  | fetchComplete (q : Nat) (data : Option (List Byte))
  /-- NOP_DESCRIPTOR, 16_host_interface_rings.md R604: A NOP descriptor completes with OK. -/
  | nopDescriptor (q : Nat)
  /-- CREATE_QP, 16_host_interface_rings.md R607: An admin CREATE_QP creates an ACTIVE queue pair, or fails with STATE, EXISTS or RESOURCE. -/
  | createQp
  /-- DESTROY_QP_ABORT, 16_host_interface_rings.md R617: DESTROY_QP with ABORT completes outstanding entries as ABORTED and frees the queue pair. -/
  | destroyQpAbort
  /-- DESTROY_QP_DRAIN, 16_host_interface_rings.md R618: DESTROY_QP with DRAIN sets the queue pair DRAINING. -/
  | destroyQpDrain
  /-- DRAIN_IDLE, 16_host_interface_rings.md R618: A DRAINING queue pair with no outstanding entries becomes FREE and sets IDLE. -/
  | drainIdle (q : Nat)
  /-- QUERY_QP, 16_host_interface_rings.md R610: An admin QUERY_QP returns a queue pair's status and indexes. -/
  | queryQp
  /-- HOST_SEND, 16_host_interface_rings.md R613: A SEND descriptor copies a frame into a buffer, classifies it as port 9 and admits it. -/
  | hostSend (q : Nat) (data : List Byte)
  /-- RECV, 16_host_interface_rings.md R614: A RECV descriptor is posted to receive a packet released to its queue pair. -/
  | recv (q : Nat)
  /-- SEND_DATA_ERROR, 16_host_interface_rings.md R616: A failed PCIe read of SEND data completes the SEND with DMAERR. -/
  | sendDataError (q : Nat)
  /-- ADMIN_QUEUE_ENABLE, 16_host_interface_rings.md R628: Setting HIF_AQ_CFG.EN makes the admin queue pair ACTIVE. -/
  | adminQueueEnable (a : Agent) (v : Word)
  /-- ADMIN_QUEUE_DISABLE, 16_host_interface_rings.md R619: Clearing HIF_AQ_CFG.EN aborts and frees the admin queue pair. -/
  | adminQueueDisable (a : Agent) (v : Word)
  /-- FUNCTION_LEVEL_RESET, 16_host_interface_rings.md R583: An FLR, hot reset, link loss or PERST frees every queue pair and resets HIF registers. -/
  | functionLevelReset (linkUp : Bool)
  /-- BUS_MASTER_CHANGE, 16_host_interface_rings.md R584: Bus Master Enable or D3hot changes, pausing or resuming HIF memory requests. -/
  | busMasterChange (bme d3hot : Bool)
  /-- QSPI_READ, 16_host_interface_rings.md R586: A QSPI READ transaction reads words from BAR0 or BAR2. -/
  | qspiRead (addr n : Nat)
  /-- QSPI_WRITE, 16_host_interface_rings.md R587: A QSPI WRITE transaction writes words, signalling completion of each. -/
  | qspiWrite (addr : Nat) (data : List Byte)
  /-- QSPI_ID, 16_host_interface_rings.md R585: A QSPI ID transaction returns SYS_ID. -/
  | qspiId
  /-- QSPI_CSN_RISE, 16_host_interface_rings.md R589: QSPI_CSN rises, ending a transaction and discarding any partial word. -/
  | qspiCsnRise
  /-- XSPI_GO, 16_host_interface_rings.md R626: A host GO starts one flash command through HIF_XSPI, or is refused during a load. -/
  | xspiGo (a : Agent) (v : Word)
  /-- XSPI_CMD_DONE, 16_host_interface_rings.md R626: A host flash command completes. -/
  | xspiCmdDone (data : List Byte)
  /-- NOTICE_SOURCE_READ, 17_notices_interrupts.md R634: A read of EVT_SRC returns sticky and level bits and re-arms the source. -/
  | noticeSourceRead (a : Agent) (n : Nat)
  /-- SOFTWARE_RAISE, 17_notices_interrupts.md R630: A write of EVT_SWRAISE crosses N88 to N95. -/
  | softwareRaise (a : Agent) (v : Word)
  /-- ROUTE_ENABLE_WRITE, 17_notices_interrupts.md R636: A write of EVT_ROUTE setting the enable while sticky is set raises one notice. -/
  | routeEnableWrite (a : Agent) (n : Nat) (v : Word)
  /-- MSIX_UNMASK, 17_notices_interrupts.md R640: A masked vector or function is unmasked and one pending message is sent. -/
  | msixUnmask (vec : Option Nat) (addr data : Nat)
  /-- INTERNAL_SAMPLE, 18_audio_path.md R650: Each 192 kHz internal sample AUD reads rings, conceals, converts, applies gain and pilot and clips. -/
  | internalSample (sense : List (Nat × Nat))
  /-- PWM_PERIOD_BOUNDARY, 18_audio_path.md R679: A channel's PWM period starts, taking its edge word and applying changes of source or state. -/
  | pwmPeriodBoundary (c : Nat) (hoc : Bool) (safe : Bool := false)
  /-- WPOS_WRITE, 18_audio_path.md R658: A write of AUD_CH_WPOS publishes samples of a channel ring. -/
  | wposWrite (a : Agent) (c : Nat) (v : Word)
  /-- CHANNEL_ARM, 18_audio_path.md R659: A write of AUD_CH_CTL.EN = 1 arms a channel to start at TSTART. -/
  | channelArm (a : Agent) (c : Nat)
  /-- CHANNEL_DISABLE, 18_audio_path.md R659: A write of EN = 0 stops a channel's reading at the next internal sample. -/
  | channelDisable (a : Agent) (c : Nat)
  /-- RPOS_READ, 18_audio_path.md R661: A read of AUD_CH_RPOS returns the read position and captures its read time. -/
  | rposRead (a : Agent) (c : Nat)
  /-- CRF_TIMESTAMP, 18_audio_path.md R653: A write of AUD_DPLL_CRF feeds one CRF timestamp to the DPLL. -/
  | crfTimestamp (a : Agent) (v : Word)
  /-- DPLL_REFERENCE_TIMEOUT, 18_audio_path.md R654: After 10 ms without reference the DPLL holds its ratio and sets HOLD. -/
  | dpllReferenceTimeout
  /-- DPLL_LOCK, 18_audio_path.md R654: The DPLL phase error has stayed below 100 ns for 1 s and lock is reported. -/
  | dpllLock
  /-- LISTENER_SEEN, 18_audio_path.md R665: A write of AUD_LW_SEEN restarts a listener watch entry. -/
  | listenerSeen (a : Agent) (n : Nat)
  /-- LISTENER_TIMEOUT, 18_audio_path.md R665: A listener watch entry passes TIMEOUT without a SEEN write and reports the loss. -/
  | listenerTimeout (n : Nat)
  /-- CAPTURE_WPOS_READ, 18_audio_path.md R668: A read of AUD_CAP_WPOS returns the capture position and captures its time. -/
  | captureWposRead (a : Agent) (k : Nat)
  /-- TALKER_ENABLE, 18_audio_path.md R669: Setting a talker context's EN restarts its rings at position 0. -/
  | talkerEnable (a : Agent) (k : Nat)
  /-- TALKER_NEXT_READ, 18_audio_path.md R670: A read of AUD_TALK_NEXT yields the next complete packet block or VALID = 0. -/
  | talkerNextRead (a : Agent) (k : Nat)
  /-- TDM_FRAME, 18_audio_path.md R672: A TDM frame is received and transmitted, discarded if miscounted, or sent as zeros if unavailable. -/
  | tdmFrame (p bclks : Nat) (slots : List Word)
  /-- TDM_SYNC_LOSS, 18_audio_path.md R673: A slave TDM port without FS for 4 frame times clears SYNC and raises N81. -/
  | tdmSyncLoss (p : Nat)
  /-- FABRIC_EDGE_WORD, 18_audio_path.md R685: A panel returns an edge word for a channel period, or the hard word substitutes. -/
  | fabricEdgeWord (c : Nat) (w : Option Nat)
  /-- SAFE_TONE, 18_audio_path.md R693: A TONE command plays a ROM tone on the named channels. -/
  | safeTone (data : List Byte)
  /-- SAFE_CLIP, 18_audio_path.md R694: A CLIP command plays a journal clip, or is refused while a tone plays. -/
  | safeClip (data : List Byte)
  /-- ECALL_START, 18_audio_path.md R696: ECALL_START begins emergency-call pass-through from TDM0. -/
  | ecallStart (data : List Byte)
  /-- ECALL_STOP, 18_audio_path.md R695: ECALL_STOP ends emergency-call pass-through. -/
  | ecallStop (data : List Byte)
  /-- SAFE_STOP, 18_audio_path.md R695: STOP ends the current announcement. -/
  | safeStop (data : List Byte)
  /-- ANNOUNCEMENT_END, 18_audio_path.md R693: A tone or clip pattern and its repeats end, leaving SAFE idle on those channels. -/
  | announcementEnd
  /-- VBAT_READING, 19_power_stage_protection.md R724: Each internal sample AO produces a battery-line reading, driving the gain, dips and load-dump hold. -/
  | vbatReading (mv : Nat)
  /-- OVERCURRENT_DETECT, 19_power_stage_protection.md R713: An OCA or OCB input asserted for 20 ns outside blanking latches the channel. -/
  | overcurrentDetect (c : Nat) (legA legB : Bool) (t also : Nat)
  /-- HOC_ASSERT, 19_power_stage_protection.md R714: An HOC assertion drives all four gates low within 40 ns and latches the channel. -/
  | hocAssert (c t also : Nat)
  /-- GATE_MISMATCH, 19_power_stage_protection.md R715: A gate pad reads the wrong level for 20 ns and faults its leg. -/
  | gateMismatch (c gate t also : Nat)
  /-- SHOOT_THROUGH, 19_power_stage_protection.md R715: Both gate pads of a leg read high for 20 ns and all four gates go low. -/
  | shootThrough (c : Nat) (legB : Bool) (t also : Nat)
  /-- SECOND_LEG_TURNOFF, 19_power_stage_protection.md R718: One dead time after a single-leg fault the other leg's gates go low. -/
  | secondLegTurnoff (c : Nat)
  /-- LATCH_CLEAR, 19_power_stage_protection.md R722: A keyed PWS_CLR clears latched channels whose inputs are quiet, or refuses them. -/
  | latchClear (a : Agent) (v : Word) (quiet : Nat)
  /-- OUTPUT_DISABLE_END, 19_power_stage_protection.md R728: After 100 µs of relock the AO output-disable ends and channels resume. -/
  | outputDisableEnd
  /-- OWNERSHIP_TAKE, 19_power_stage_protection.md R732: A strand granted ownership raises its OWN line at a period boundary and starts edges at the next. -/
  | ownershipTake
  /-- CAL_WINDOW_END, 20_live_calibration.md R746: A 2 s correlator window ends and publishes gain, impedance and drift, or is abandoned. -/
  | calWindowEnd (c gain qual driftI driftV zlo zhi : Nat)
  /-- SENSE_STUCK, 20_live_calibration.md R742: A sense stream carries 1,024 identical bits and sets SENSEFAIL. -/
  | senseStuck (c : Nat) (volt : Bool)
  /-- CAL_SEQ_READ, 20_live_calibration.md R748: A read of CAL_CH_SEQ captures a consistent set of results for the reader. -/
  | calSeqRead (a : Agent) (c : Nat)
  /-- TRIM_REQUEST, 20_live_calibration.md R753: A keyed CAL_TRIM request puts named channels in PENDING with a deadline. -/
  | trimRequest (a : Agent) (v : Word)
  /-- TRIM_CANCEL, 20_live_calibration.md R753: A CAL_TRIM write with KEY 0xC5 cancels pending or running trims. -/
  | trimCancel (a : Agent) (v : Word)
  /-- TRIM_START, 20_live_calibration.md R754: A pending channel silent for 50 ms starts its trim. -/
  | trimStart (c : Nat)
  /-- TRIM_DONE, 20_live_calibration.md R755: A trim finishes averaging and writes new offsets. -/
  | trimDone (c : Nat)
  /-- TRIM_DEADLINE, 20_live_calibration.md R757: A trim's deadline passes and it becomes EXPIRED. -/
  | trimDeadline (c : Nat)
  /-- ZONE_READING, 21_thermal_fans.md R764: Each 10 ms an on-die or NTC zone produces a reading, tracking sensor faults and hot crossings. -/
  | zoneReading (z : Nat) (raw : ZoneRaw)
  /-- SBUS_READ, 21_thermal_fans.md R767: An SBUS zone read completes or fails. -/
  | sbusRead (z : Nat) (data : Option (List Byte))
  /-- SBUS_RECOVERY, 21_thermal_fans.md R769: A stuck SBUS is recovered with up to 9 clocks and a STOP, and repeated failures fail the bus. -/
  | sbusRecovery (ok : Bool)
  /-- SBUS_RESTART, 21_thermal_fans.md R770: A keyed THM_SBUS_CMD clears FAILED and restarts polling. -/
  | sbusRestart (a : Agent) (v : Word)
  /-- FAN_UPDATE, 21_thermal_fans.md R775: Each 100 ms each fan's duty is recomputed from its mode and zones. -/
  | fanUpdate (tach : List Nat)
  /-- FAN_STALL, 21_thermal_fans.md R779: No tach edge for STO declares a stall and runs the fan at full duty. -/
  | fanStall (f : Nat)
  /-- PARTNER_LOSS, 22_ply_pair.md R812: No PLY_ALIVE edge for 20 µs, or the partner's halt signal, makes the strand ALONE and may grant ownership. -/
  | partnerLoss (halt : Bool)
  /-- PLY_LINK_DOWN, 22_ply_pair.md R791: No valid frame on either Ply lane for 10 µs declares the link down. -/
  | plyLinkDown
  /-- EPOCH_BOUNDARY, 22_ply_pair.md R795: At each epoch boundary the LEADER pulses PLY_SYNC and mirrored host accesses are applied. -/
  | epochBoundary (kib : Nat) (consumed : Option Nat)
  /-- LOG_ADMIT, 22_ply_pair.md R799: An ADMIT record makes the FOLLOWER admit its copy of a frame in the LEADER's order. -/
  | logAdmit (port len fcs : Nat) (res : List Byte) (tstamp : Nat)
  /-- LOG_BODY, 22_ply_pair.md R796: A BODY record supplies frame or patch bytes to the FOLLOWER. -/
  | logBody (data : List Byte)
  /-- LOG_ANSWER, 22_ply_pair.md R797: An ANSWER record returns a logged result to the keyed request. -/
  | logAnswer (key : ReqKey) (kind : Nat) (v : Word)
  /-- LOG_LEARN, 22_ply_pair.md R796: A LEARN record makes the same FDB change on the FOLLOWER. -/
  | logLearn (w : List Word)
  /-- LOG_HOST, 22_ply_pair.md R806: A HOST record applies a mirrored host access at the epoch boundary. -/
  | logHost (acc : HostAcc)
  /-- LOG_CLOSE, 22_ply_pair.md R810: A CLOSE record is compared with the FOLLOWER's own slot close. -/
  | logClose (yarn seq disp mask len : Nat) (fault : Bool)
  /-- LOG_DPLL, 22_ply_pair.md R796: A DPLL record sets the media-clock ratio two epochs later. -/
  | logDpll (ratio : Word)
  /-- LOG_END, 22_ply_pair.md R798: An END record closes an epoch, allows its consumption and compares the digest. -/
  | logEnd (epoch count digest time : Nat)
  /-- LOG_VBAT, 22_ply_pair.md R796: A VBAT record supplies a battery reading used at sample n + 2. -/
  | logVbat (mv seq : Nat)
  /-- LOG_TDM, 22_ply_pair.md R796: A TDM record supplies a TDM receive frame to the capture rings. -/
  | logTdm (p : Nat) (slots : List Word)
  /-- LOG_LATCH, 22_ply_pair.md R814: A LATCH record sets or clears the same channel latch on the non-owner. -/
  | logLatch (c causes : Nat) (clear : Bool)
  /-- VERDICT, 22_ply_pair.md R811: The partner's verdict arrives, or times out, and a strand leaves the pair. -/
  | verdict (partner : Option Bool)
  /-- FRAME_FETCH_REQUEST, 22_ply_pair.md R799: A frame named by ADMIT missing for 1 ms is requested from the LEADER. -/
  | frameFetchRequest (port len fcs : Nat)
  /-- UNNAMED_FRAME_DROP, 22_ply_pair.md R799: A frame that no ADMIT names within 10 ms is dropped by the FOLLOWER. -/
  | unnamedFrameDrop (p tc idx : Nat)
  /-- OWN_CONTENTION, 22_ply_pair.md R813: Both OWN lines high for 2 periods make strand B yield ownership. -/
  | ownContention
  /-- FORMATION_TIMEOUT, 22_ply_pair.md R817: Strand B sees no ALIVE from A for 50 ms after Stage 1 and takes ownership. -/
  | formationTimeout (owna : Bool)
  /-- PLY_JOIN, 22_ply_pair.md R818: A keyed JOIN command starts a join, or is refused with ORDER. -/
  | plyJoin (a : Agent) (v : Word)
  /-- PLY_DETACH, 22_ply_pair.md R820: A keyed DETACH makes the FOLLOWER leave the pair. -/
  | plyDetach (a : Agent) (v : Word) (partner : Bool)
  /-- JOIN_PHASE_DONE, 22_ply_pair.md R818: A join phase ends and the next begins, or the join fails with ERR. -/
  | joinPhaseDone (res : JoinStep)
  /-- IDLE_WINDOW_END, 23_in_service_test.md R827: A 10 ms window ends and each core's idle share and SHORT are updated. -/
  | idleWindowEnd (shares : List Nat)
  /-- LOGIC_SLICE_END, 23_in_service_test.md R828: A logic slice ends and its signature is compared, rerun, or the core retired. -/
  | logicSliceEnd (n : Nat) (miss again : Bool)
  /-- SCRUB_READ, 23_in_service_test.md R829: A scrub read of one word corrects it or reports an uncorrectable word to its owner. -/
  | scrubRead (region inst addr : Nat) (err : FlitError) (stale : Bool) (sweep : Option Nat)
  /-- MARCH_SEGMENT, 23_in_service_test.md R831: A march test of one loaned segment ends, returning or quarantining the buffer. -/
  | marchSegment (inst idx seg : Nat) (fail : Option Nat)
  /-- IST_REQ_CORE, 23_in_service_test.md R836: An IST_REQ of KIND CORE queues a full logic pass of a core. -/
  | istReqCore (a : Agent) (v : Word)
  /-- IST_REQ_PANEL, 23_in_service_test.md R836: An IST_REQ of KIND PANEL queues a readback of a panel. -/
  | istReqPanel (a : Agent) (v : Word)
  /-- IST_REQ_LINK, 23_in_service_test.md R836: An IST_REQ of KIND LINK queues a loop test of a link. -/
  | istReqLink (a : Agent) (v : Word)
  /-- IST_REQ_POOL, 23_in_service_test.md R836: An IST_REQ of KIND POOL queues a march of a pool. -/
  | istReqPool (a : Agent) (v : Word)
  /-- IST_REQ_SCRUB, 23_in_service_test.md R836: An IST_REQ of KIND SCRUB queues a sweep of a region. -/
  | istReqScrub (a : Agent) (v : Word)
  /-- IST_REQUEST_DEADLINE, 23_in_service_test.md R837: A request's deadline passes and it completes STARVED. -/
  | istRequestDeadline (req : Nat)
  /-- IST_RESULT_READ, 23_in_service_test.md R839: A read of IST_RES returns and frees the oldest completed result. -/
  | istResultRead (a : Agent)
  /-- BIST_DONE, 23_in_service_test.md R842: The SERVICE BIST completes and reports its failures. -/
  | bistDone (cores res : Nat)
  /-- JOURNAL_WRITE, 24_journal_memory.md R852: A JRN_WCMD write starts a record write into a free slot, or is refused. -/
  | journalWrite (a : Agent) (v : Word)
  /-- JOURNAL_COMMIT, 24_journal_memory.md R852: A journal write's COMMIT step finishes and the slot becomes the current record. -/
  | journalCommit
  /-- JOURNAL_SCAN_DONE, 24_journal_memory.md R861: The recovery scan ends, indexing current records and setting SCANDONE. -/
  | journalScanDone (ecc : List Nat)
  /-- JOURNAL_READ_RECORD, 24_journal_memory.md R864: JRN_RCMD with MODE 0 copies a record's current slot into JRN_RBUF. -/
  | journalReadRecord (a : Agent) (v : Word)
  /-- JOURNAL_READ_SLOT, 24_journal_memory.md R864: JRN_RCMD with MODE 1 copies a named slot into JRN_RBUF. -/
  | journalReadSlot (a : Agent) (v : Word)
  /-- SAFE_UNLOCK_WRITE, 24_journal_memory.md R866: A write of JRN_SUNLK advances or restarts the safe-window sequence. -/
  | safeUnlockWrite (a : Agent) (v : Word)
  /-- SAFE_WINDOW_TIMEOUT, 24_journal_memory.md R866: The safe window closes 100 ms after opening. -/
  | safeWindowTimeout
  /-- EARLY_WARNING, 26_signals_package_electrical.md R917: The supply early warning rises, refusing new journal writes and raising N05. -/
  | earlyWarning (vio : Bool)
  /-- EARLY_WARNING_CLEAR, 04_staged_start.md R161: The early warning clears and refused device journal writes are issued again. -/
  | earlyWarningClear
  /-- CAN_FRAME_RECEIVE, 25_diagnostics_service.md R876: A CAN FD frame is received into the FIFO and offered to SAFE on port 0. -/
  | canFrameReceive (n : Nat) (f : CanFrame) (ago : Nat) (ok : Bool)
  /-- CAN_TX_REQUEST, 25_diagnostics_service.md R875: A write of CAN_TXREQ requests transmit buffers. -/
  | canTxRequest (a : Agent) (n : Nat) (v : Word)
  /-- CAN_TX_ABORT, 25_diagnostics_service.md R875: A write of CAN_TXABORT cancels a transmit buffer. -/
  | canTxAbort (a : Agent) (n : Nat) (v : Word) (sent : Nat)
  /-- CAN_TX_DONE, 25_diagnostics_service.md R875: A CAN transmit buffer completes and sets TXDONE. -/
  | canTxDone (n late : Nat) (res : CanEnd)
  /-- CAN_RX_POP, 25_diagnostics_service.md R876: A write of CAN_RXPOP removes the oldest receive entry. -/
  | canRxPop (a : Agent) (n : Nat) (v : Word)
  /-- CAN_BUS_OFF, 25_diagnostics_service.md R877: A controller enters bus-off and raises N84. -/
  | canBusOff (n : Nat)
  /-- CAN_RECOVERY_REQUEST, 25_diagnostics_service.md R877: A write of CAN_CTL.REC starts bus-off recovery. -/
  | canRecoveryRequest (a : Agent) (n : Nat) (v : Word)
  /-- CAN_RECOVERY_DONE, 25_diagnostics_service.md R877: Bus-off recovery completes after 128 occurrences of 11 recessive bits. -/
  | canRecoveryDone (n : Nat)
  /-- CAN_TX_DOMINANT_TIMEOUT, 25_diagnostics_service.md R878: CANn_TX dominant for 2.5 ms sets TXDOM and forces bus-off. -/
  | canTxDominantTimeout (n : Nat)
  /-- SNAPSHOT_CAPTURE, 25_diagnostics_service.md R882: A crossing of an enabled source captures a 64-byte snapshot into the FIFO. -/
  | snapshotCapture (n : Nat)
  /-- SNAPSHOT_POP, 25_diagnostics_service.md R883: A write of DGN_SNAP_POP removes the oldest snapshot. -/
  | snapshotPop (a : Agent) (v : Word)
  /-- LIFECYCLE_ADVANCE, 25_diagnostics_service.md R885: A keyed DGN_LC_CMD moves the lifecycle state forward one step, or is refused. -/
  | lifecycleAdvance (a : Agent) (v : Word)
  /-- FUSE_PROGRAM, 25_diagnostics_service.md R886: A keyed DGN_FPROG_CMD in MANUFACTURE blows fuse bits, or is refused. -/
  | fuseProgram (a : Agent) (v : Word)
  /-- FUSE_BURN_DONE, 25_diagnostics_service.md R886: A fuse or lifecycle burn completes and raises N87. -/
  | fuseBurnDone
  /-- UNLOCK_CHALLENGE, 25_diagnostics_service.md R888: CHALLENGE draws a fresh 16-byte challenge. -/
  | unlockChallenge (a : Agent) (v : Word)
  /-- UNLOCK_VERIFY, 25_diagnostics_service.md R888: VERIFY checks the key hash and signature and starts the service unlock, or fails. -/
  | unlockVerify (a : Agent) (v : Word)
  /-- SERVICE_LOCK, 25_diagnostics_service.md R888: LOCK ends the service unlock at once. -/
  | serviceLock (a : Agent) (v : Word)
  /-- UNLOCK_TIMEOUT, 25_diagnostics_service.md R890: The service unlock reaches DGN_UNLK_TO and ends, closing debug access. -/
  | unlockTimeout
  /-- CHALLENGE_EXPIRY, 25_diagnostics_service.md R888: A challenge expires 60 s after it is drawn. -/
  | challengeExpiry
  /-- UNLOCK_WAIT_END, 25_diagnostics_service.md R889: The 10 s refusal after three failed unlocks ends. -/
  | unlockWaitEnd
  /-- EXTEST, 25_diagnostics_service.md R894: The EXTEST instruction becomes current and the device enters board-test reset. -/
  | extest (pins : Nat)
  /-- IDCODE, 25_diagnostics_service.md R893: The IDCODE instruction selects the identification register. -/
  | idcode
  /-- SAMPLE_PRELOAD, 25_diagnostics_service.md R892: The SAMPLE/PRELOAD instruction samples or preloads the boundary-scan register. -/
  | samplePreload (pins cells : Nat)
  /-- CLAMP, 25_diagnostics_service.md R894: The CLAMP instruction becomes current and the device enters board-test reset. -/
  | clamp
  /-- HIGHZ, 25_diagnostics_service.md R894: The HIGHZ instruction becomes current and the device enters board-test reset. -/
  | highz
  /-- EXTEST_PULSE, 25_diagnostics_service.md R895: The EXTEST_PULSE instruction drives AC test pulses and enters board-test reset. -/
  | extestPulse (pins : Nat)
  /-- EXTEST_TRAIN, 25_diagnostics_service.md R895: The EXTEST_TRAIN instruction drives AC test trains and enters board-test reset. -/
  | extestTrain (pins : Nat)
  /-- DBGACC, 25_diagnostics_service.md R896: The DBGACC instruction selects the 67-bit debug access register. -/
  | dbgacc
  /-- BYPASS, 25_diagnostics_service.md R892: The BYPASS instruction selects the bypass register. -/
  | bypass
  /-- DEBUG_ACCESS, 25_diagnostics_service.md R896: An Update-DR with GO performs one 32-bit BAR0 access as the debug agent, or sets ERR. -/
  | debugAccess (write : Bool) (addr : Nat) (v : Word)
  /-- DEBUG_RESET, 25_diagnostics_service.md R896: An Update-DR with RST resets the device as for PORN and sets SYS_RSTCAUSE.DBG. -/
  | debugReset
  /-- TAP_RESET, 26_signals_package_electrical.md R908: TRSTN low or five TCK cycles with TMS high resets the test access port. -/
  | tapReset
  /-- RAIL_LOW, 26_signals_package_electrical.md R915: A rail falls below its minimum, setting SUP_NSTAT.LOW and raising N05. -/
  | railLow (rail mv : Nat)
  /-- RAIL_COLLAPSE, 26_signals_package_electrical.md R916: A rail falls below its reset threshold and every island it feeds is treated as stopped. -/
  | railCollapse (rail mv : Nat)
  /-- RAIL_IN_RANGE, 26_signals_package_electrical.md R912: A rail rises into its operating range and the islands it feeds leave the reset they were held in, so waiting stages can proceed. -/
  | railInRange (rail mv : Nat)
  /-- DPLL_LOCK_LOSS, 18_audio_path.md R654: The media-clock DPLL loses lock while its reference is still present, setting AUD_NSTAT.UNLOCK and raising N82. -/
  | dpllLockLoss
  /-- PLY_LANE_FAIL, 22_ply_pair.md R791: One Ply link lane fails and is retired until the next join while the link continues on the other lane. -/
  | plyLaneFail
  /-- PLY_LINK_UP, 22_ply_pair.md R791: The Ply link lanes come up and PLY_STAT.LANES rises, which the CHECK phase of a join requires. -/
  | plyLinkUp (lanes : Nat)
  /-- PCIE_LINK_UP, 16_host_interface_rings.md R628: The PCIe link trains and HIF_STAT.LINKUP, SPEED and WIDTH are set, after which host accesses and DMA can flow. -/
  | pcieLinkUp (speed width : Nat)
  /-- IST_LATE, 23_in_service_test.md R834: A scrub sweep does not end within 2 s, or the next readback pass of a panel does not start within 26 ms, so IST_LATE is set and N36 raised. -/
  | istLate (readback : Bool)
  /-- UNDEFINED_OPCODE, 13_whorl_isa_model.md R491: A thread issues byte 0x00, an undefined stream opcode, LOP 0x00 or an undefined long operation and faults with cause ILL. -/
  | undefinedOpcode (tid : Nat)
  /-- PLY_ALIVE_TOGGLE, 22_ply_pair.md R792: At each device-time multiple of 10 µs a joined or ALONE strand that is not halted or lost toggles PLY_ALIVE_O. -/
  | plyAliveToggle (edge : Bool)
  /-- BORDER_RESPONSE, 07_marquetry_fabric.md R264: A weft response to a request issued by panel logic arrives at the border, which accepts it and discards and counts it if that logic has since been clamped or rewritten. -/
  | borderResponse (p k : Nat)
deriving DecidableEq, Repr

end Sys2Proof
end

