-- ==== Sys2Proof/Decode.lean ====
section
/-!
DEFINITION. The decoder over the opcode table's bits. No row of spec/opcode_table.json gives bits: a command is named by
its rule (98_reader.md), not by a word, so no word spells one. The Whorl's own instruction words are decoded by
Sys2Proof/Machine/WhlDecode.lean.
-/
namespace Sys2Proof

/-- The command that a word of the opcode table spells: none, since the table gives no row bits. -/
def decodeTableWord (_nbits _w : Nat) : Option Instr := none

end Sys2Proof
end

