-- ==== Sys2Proof/Machine/Fixed.lean ====
section
/-!
DEFINITION. Fixed-point values of the real functions that the audio rules name: gain slopes in dB/s, attenuations in
0.5 dB steps, sines and raised-cosine ramps (18_audio_path.md R677, R693, R695; precision is assumption 20).
-/
namespace Sys2Proof.Machine

/-- The unit of the gains: 2^48. -/
abbrev fxOne : Nat := 2 ^ 48

/-- ln 10 and 2 pi in units of 2^-64. -/
abbrev ln10Fx : Nat := 42475197918399869019
abbrev twoPiFx : Nat := 115904311329233965478

/-- 10^(rel / (20 * 192000)) in units of 2^-48: one internal sample's rise at rel dB/s (R677). -/
def gainStep (rel : Nat) : Nat :=
  let x := rel * ln10Fx / 3840000
  (2 ^ 64 + x + x * x / 2 ^ 65 + x * x * x / (6 * 2 ^ 128)) / 2 ^ 16

/-- 10^(-a / 40) in units of 2^-48: an attenuation of a half-decibel steps (R691, R695). -/
def attenFx : Nat → Nat
  | 0 => fxOne
  | a + 1 => attenFx a * 265729513166021 / fxOne

/-- The nested Taylor polynomial of the sine with terms up to order 27, x in units of 2^-64. -/
def sinPoly (x : Int) : Int :=
  (List.range 13).foldl (fun (acc : Int) (i : Nat) =>
    let k : Int := 13 - (i : Int)
    2 ^ 64 - x * x / 2 ^ 64 * acc / 2 ^ 64 / ((2 * k) * (2 * k + 1))) (2 ^ 64) * x / 2 ^ 64

/-- sin (2 pi num / den) in units of 2^-48. -/
def sinFx (num den : Nat) : Int :=
  let r := num % den
  let q := 4 * r / den
  let x : Int := (twoPiFx : Int) * (4 * r % den : Nat) / (4 * den : Nat)
  let quarter : Int := (twoPiFx : Int) / 4
  let v := if q % 2 = 0 then sinPoly x else sinPoly (quarter - x)
  (if q < 2 then v else -v) / 2 ^ 16

/-- A raised-cosine ramp: (1 - cos (pi n / len)) / 2 in units of 2^-48, for n below len (R693). -/
def rampFx (n len : Nat) : Int :=
  if n ≥ len then fxOne else ((fxOne : Int) - sinFx (n * 2 + len) (4 * len)) / 2

end Sys2Proof.Machine
end

