-- ==== Sys2Proof/Config.lean ====
section
/-!
DEFINITION. What the spec leaves open: values that no rule fixes. Each is an opaque constant, so that no proof can see
what it is; the machine applies it to the free-value counter of State or to the operands it depends on.
-/
namespace Sys2Proof.Config

/-- A value the spec leaves open, as a number: the kind of value, and the free-value counter at its use. -/
opaque free (kind draw : Nat) : Nat

/-- The noise shaper of a hard modulator's leg: from its state and P(1 + m) in units of 2^-31 to the high time in steps and its next
state (18_audio_path.md R682). -/
opaque shape (state : Nat) (high : Int) : Nat × Nat

/-- The rate converter of a channel: its state after a ring sample, and its output at a phase of the media clock (R676, R944). -/
opaque convIn (state : Nat) (x : Int) : Nat
opaque convOut (state phase : Nat) : Int

/-- The pilot's band-pass filter: its output, scaled, where the channel's own sequence stands at a register value
(20_live_calibration.md R738, R942). -/
opaque pilot (register : Nat) : Int

end Sys2Proof.Config
end

