-- ==== Sys2Proof/Machine/RegTable.lean ====
section
/-!
DEFINITION. The access table: for every register of spec/'s register tables its offset, its repetitions and, by
access code of 00_scope.md R18, which of its bits carry that code. A bit in none of the masks is reserved (R23 to R26).
-/
namespace Sys2Proof.Machine

/-- One row: the first offset, the repetitions (stride, count; wider stride first), the register's reset word where
its table states one number (0 where another rule or file gives it), and the masks of the bits of each access code. -/
structure RegSpec where
  base : Nat
  dims : List (Nat × Nat)
  reset : Nat
  rw : Nat
  ro : Nat
  w1c : Nat
  rc : Nat
  wo : Nat
deriving DecidableEq, Repr

/-- The registers of the CLK tables (03_islands_and_weft.md R112). -/
def regTableCLK : List RegSpec := [
  ⟨0x20000, [], 0x00000000, 0x0, 0x1f, 0x0, 0x0, 0x0⟩, /- CLK_STAT -/
  ⟨0x20004, [], 0x00000000, 0x0, 0x0, 0x7f, 0x0, 0x0⟩, /- CLK_NSTAT -/
  ⟨0x20008, [], 0x0000007F, 0x7f, 0x0, 0x0, 0x0, 0x0⟩, /- CLK_NEN -/
  ⟨0x20010, [], 0, 0x0, 0xffffffff, 0x0, 0x0, 0x0⟩, /- CLK_TNOW_LO -/
  ⟨0x20014, [], 0, 0x0, 0xffffffff, 0x0, 0x0, 0x0⟩, /- CLK_TNOW_HI -/
  ⟨0x20018, [], 0x00000000, 0xffffffff, 0x0, 0x0, 0x0, 0x0⟩, /- CLK_TSTEP_LO -/
  ⟨0x2001c, [], 0x00000000, 0xffffffff, 0x0, 0x0, 0x0, 0x0⟩, /- CLK_TSTEP_HI -/
  ⟨0x20020, [], 0x00000000, 0xffffffff, 0x0, 0x0, 0x0, 0x0⟩, /- CLK_TRATE -/
  ⟨0x20024, [], 0x00000000, 0xffffffff, 0x0, 0x0, 0x0, 0x0⟩, /- CLK_TSLEW -/
  ⟨0x20028, [], 0x00000000, 0x0, 0x3, 0x0, 0x0, 0x0⟩, /- CLK_TSTAT -/
  ⟨0x2002c, [], 0x000007D0, 0xffff, 0x0, 0x0, 0x0, 0x0⟩, /- CLK_HOLD_TO -/
  ⟨0x20030, [], 0x00000320, 0x7ff, 0x0, 0x0, 0x0, 0x0⟩, /- CLK_SLOW_THR -/
  ⟨0x20034, [], 0x96258640, 0xffffffff, 0x0, 0x0, 0x0, 0x0⟩, /- CLK_CAP -/
  ⟨0x20040, [], 0x00000000, 0x0, 0x0, 0x0, 0xffffffff, 0x0⟩, /- CLK_WEFT_CORR -/
  ⟨0x20044, [], 0x00000000, 0x0, 0x0, 0x0, 0xffffffff, 0x0⟩, /- CLK_WEFT_RETRY -/
  ⟨0x20048, [], 0x00000000, 0x0, 0x1ff, 0x0, 0x0, 0x0⟩, /- CLK_WEFT_STAT -/
  ⟨0x20100, [(0x4, 77)], 0, 0x0, 0xf73ffff, 0x0, 0x0, 0x0⟩, /- CLK_ISL -/
  ⟨0x20400, [(0x4, 142)], 0x00000000, 0x0, 0xff03, 0x0, 0x0, 0x0⟩ /- CLK_LINK -/]


/-- The registers of the SYS tables (04_staged_start.md R163, 05_power_states.md R190). SYS_WAKE at first power-up, and SYS_NETCORE
before a veneer is loaded, read 0 (assumption 174). -/
def regTableSYS : List RegSpec := [
  ⟨0x0, [], 0x4E534816, 0x0, 0xffffffff, 0x0, 0x0, 0x0⟩, /- SYS_ID -/
  ⟨0x4, [], 0x000000A1, 0x0, 0xff, 0x0, 0x0, 0x0⟩, /- SYS_REV -/
  ⟨0x8, [], 0x00100830, 0x0, 0xff0fff, 0x0, 0x0, 0x0⟩, /- SYS_CAPS -/
  ⟨0x10, [], 0, 0x0, 0x1137, 0x0, 0x0, 0x0⟩, /- SYS_STRAP -/
  ⟨0x14, [], 0, 0x0, 0x0, 0x1f, 0x0, 0x0⟩, /- SYS_RSTCAUSE -/
  ⟨0x18, [], 0x00000000, 0x0, 0x0, 0x1f, 0x0, 0x0⟩, /- SYS_NSTAT -/
  ⟨0x1c, [], 0x0000001F, 0x1f, 0x0, 0x0, 0x0, 0x0⟩, /- SYS_NEN -/
  ⟨0x20, [], 0x00000000, 0x0, 0xf3f, 0x0, 0x0, 0x0⟩, /- SYS_STAGE -/
  ⟨0x24, [], 0x00000000, 0x0, 0x0, 0x0, 0x0, 0x33⟩, /- SYS_STAGE_CMD -/
  ⟨0x28, [], 0x00000000, 0x0, 0x70, 0x0, 0x0, 0x3⟩, /- SYS_UNCLAMP -/
  ⟨0x30, [], 0x00000000, 0x0, 0xffffffff, 0x0, 0x0, 0x0⟩, /- SYS_TSTAGE1 -/
  ⟨0x34, [], 0x00000000, 0x0, 0xffffffff, 0x0, 0x0, 0x0⟩, /- SYS_TSTAGE2 -/
  ⟨0x38, [], 0x00000000, 0x0, 0xffffffff, 0x0, 0x0, 0x0⟩, /- SYS_TSTAGE3 -/
  ⟨0x40, [], 0x00000001, 0x0, 0xf7f, 0x0, 0x0, 0x0⟩, /- SYS_PSTATE -/
  ⟨0x44, [], 0x00000000, 0x0, 0x0, 0x0, 0x0, 0xff000017⟩, /- SYS_PSTATE_CMD -/
  ⟨0x48, [], 0x00000000, 0x0, 0x0, 0x3, 0x0, 0x0⟩, /- SYS_PNSTAT -/
  ⟨0x4c, [], 0x00000003, 0x3, 0x0, 0x0, 0x0, 0x0⟩, /- SYS_PNEN -/
  ⟨0x50, [], 0x00000000, 0x0, 0x3ff0001, 0x0, 0x0, 0x0⟩, /- SYS_HALT -/
  ⟨0x54, [], 0, 0x0, 0x0, 0x1, 0x0, 0x0⟩, /- SYS_WAKE -/
  ⟨0x58, [], 0, 0x0, 0xffffffff, 0x0, 0x0, 0x0⟩, /- SYS_NETCORE_LO -/
  ⟨0x5c, [], 0, 0x0, 0xffff, 0x0, 0x0, 0x0⟩ /- SYS_NETCORE_HI -/]


/-- The registers of the VNR tables (06_veneer_image.md R235). -/
def regTableVNR : List RegSpec := [
  ⟨0x40000, [], 0x00000000, 0x0, 0x3, 0x0, 0x0, 0x0⟩, /- VNR_STAT -/
  ⟨0x40004, [], 0x00000000, 0x0, 0x0, 0x3, 0x0, 0x0⟩, /- VNR_NSTAT -/
  ⟨0x40008, [], 0x00000003, 0x3, 0x0, 0x0, 0x0, 0x0⟩, /- VNR_NEN -/
  ⟨0x40010, [], 0x00000000, 0x0, 0xffffffff, 0x0, 0x0, 0x0⟩, /- VNR_IMG_VER -/
  ⟨0x40014, [], 0, 0x0, 0xffff, 0x0, 0x0, 0x0⟩, /- VNR_ROLL -/
  ⟨0x40020, [(0x4, 8)], 0x00000000, 0x0, 0xffffffff, 0x0, 0x0, 0x0⟩, /- VNR_DIGEST -/
  ⟨0x40040, [(0x4, 8)], 0, 0x0, 0xffffffff, 0x0, 0x0, 0x0⟩, /- VNR_KEYHASH -/
  ⟨0x40060, [], 0x00000000, 0x0, 0x0, 0x0, 0x0, 0xff0000ff⟩, /- VNR_ROLL_CMD -/
  ⟨0x40064, [], 0x00000000, 0x0, 0x31, 0x0, 0x0, 0x0⟩, /- VNR_ROLL_STAT -/
  ⟨0x40080, [], 0x00000000, 0x0, 0x0, 0x0, 0x0, 0xff000013⟩, /- VNR_PATCH_CMD -/
  ⟨0x40084, [], 0x00000000, 0xffffffff, 0x0, 0x0, 0x0, 0x0⟩, /- VNR_PATCH_FOFS -/
  ⟨0x40088, [], 0x00000000, 0x0, 0xfff, 0x0, 0x0, 0x0⟩, /- VNR_PATCH_STAT -/
  ⟨0x400a0, [(0x4, 8)], 0x00000000, 0x0, 0xff07, 0x0, 0x0, 0x0⟩, /- VNR_PANEL_STAT -/
  ⟨0x400c0, [(0x4, 8)], 0x00000000, 0x0, 0xffffffff, 0x0, 0x0, 0x0⟩, /- VNR_PANEL_CRC -/
  ⟨0x40100, [], 0x00000000, 0x0, 0x1ffffff, 0x0, 0x0, 0x0⟩, /- VNR_PUSH_STAT -/
  ⟨0x40200, [(0x4, 8)], 0x00000000, 0x0, 0x0, 0x0, 0x0, 0xffffffff⟩, /- VNR_KEYPROG -/
  ⟨0x40220, [], 0x00000000, 0x0, 0x0, 0x0, 0x0, 0xffffffff⟩, /- VNR_KEYPROG_CMD -/
  ⟨0x40224, [], 0x00000000, 0x0, 0x33, 0x0, 0x0, 0x0⟩, /- VNR_KEYPROG_STAT -/
  ⟨0x41000, [(0x4, 1024)], 0, 0x0, 0x0, 0x0, 0x0, 0xffffffff⟩ /- VNR_PUSH -/]


/-- The registers of the MQY tables (07_marquetry_fabric.md R285). -/
def regTableMQY : List RegSpec := [
  ⟨0x1000000, [(0x100000, 8)], 0x00000047, 0x0, 0x7f, 0x0, 0x0, 0x0⟩, /- MQY_STAT -/
  ⟨0x1000004, [(0x100000, 8)], 0x00000000, 0x0, 0x0, 0x3f, 0x0, 0x0⟩, /- MQY_NSTAT -/
  ⟨0x1000008, [(0x100000, 8)], 0x0000003F, 0x3f, 0x0, 0x0, 0x0, 0x0⟩, /- MQY_NEN -/
  ⟨0x1000010, [(0x100000, 8)], 0x00000000, 0x0, 0xffffffff, 0x0, 0x0, 0x0⟩, /- MQY_UIO_OWN_LO -/
  ⟨0x1000014, [(0x100000, 8)], 0x00000000, 0x0, 0xff, 0x0, 0x0, 0x0⟩, /- MQY_UIO_OWN_HI -/
  ⟨0x1000018, [(0x100000, 8)], 0, 0x0, 0xffffffff, 0x0, 0x0, 0x0⟩, /- MQY_UIO_IN_LO -/
  ⟨0x100001c, [(0x100000, 8)], 0, 0x0, 0xff, 0x0, 0x0, 0x0⟩, /- MQY_UIO_IN_HI -/
  ⟨0x1000020, [(0x100000, 8)], 0x00000000, 0x0, 0x0, 0x0, 0xffffffff, 0x0⟩, /- MQY_BUSY_CNT -/
  ⟨0x1000024, [(0x100000, 8)], 0x00000000, 0x0, 0x0, 0x0, 0xffffffff, 0x0⟩, /- MQY_TMO_CNT -/
  ⟨0x1000028, [(0x100000, 8)], 0x00000000, 0x0, 0x0, 0x0, 0xffffffff, 0x0⟩, /- MQY_DROP_CNT -/
  ⟨0x100002c, [(0x100000, 8)], 0x00000000, 0x0, 0x0, 0x0, 0xffffffff, 0x0⟩, /- MQY_ECC_CNT -/
  ⟨0x1000030, [(0x100000, 8)], 0x00000000, 0x0, 0x8000ffff, 0x0, 0x0, 0x0⟩, /- MQY_ECC_ADDR -/
  ⟨0x1000040, [(0x100000, 8), (0x4, 4)], 0x00000000, 0x0, 0x1f1f07, 0x0, 0x0, 0x0⟩, /- MQY_PORT -/
  ⟨0x1000050, [(0x100000, 8)], 0x00000000, 0x0, 0xffffffff, 0x0, 0x0, 0x0⟩ /- MQY_BRAM_WIN -/]


/-- The registers of the PRT tables (08_ports_and_tsn.md R325). -/
def regTablePRT : List RegSpec := [
  ⟨0x100000, [], 0x00000000, 0x0, 0x0, 0xff, 0x0, 0x0⟩, /- PRT_NSTAT -/
  ⟨0x100004, [], 0x000000FF, 0xff, 0x0, 0x0, 0x0, 0x0⟩, /- PRT_NEN -/
  ⟨0x100010, [], 0x00000000, 0x1fff, 0x80000000, 0x0, 0x0, 0x0⟩, /- PRT_MDIO_CMD -/
  ⟨0x100014, [], 0x00000000, 0xffffffff, 0x0, 0x0, 0x0, 0x0⟩, /- PRT_MDIO_DATA -/
  ⟨0x100018, [], 0x00000004, 0xff, 0x0, 0x100, 0x0, 0x0⟩, /- PRT_MDIO_CFG -/
  ⟨0x100020, [], 0x000003E8, 0x3fff, 0x0, 0x0, 0x0, 0x0⟩, /- PRT_HOLD -/
  ⟨0x110000, [(0x10000, 9)], 0x05F20000, 0x3fff000f, 0x0, 0x0, 0x0, 0x0⟩, /- PRT_CFG -/
  ⟨0x110004, [(0x10000, 9)], 0x00000000, 0x0, 0x1f, 0x0, 0x0, 0x0⟩, /- PRT_STAT -/
  ⟨0x110008, [(0x10000, 9)], 0x00000001, 0x77fff, 0x0, 0x0, 0x0, 0x0⟩, /- PRT_VLAN -/
  ⟨0x11000c, [(0x10000, 9)], 0x00400100, 0x7f03ff, 0x0, 0x0, 0x0, 0x0⟩, /- PRT_EQ_LIM -/
  ⟨0x110010, [(0x10000, 9)], 0x00000000, 0xffffffff, 0x0, 0x0, 0x0, 0x0⟩, /- PRT_TS_ADJ -/
  ⟨0x110014, [(0x10000, 9)], 0x00000000, 0x0, 0x1f, 0x100, 0x0, 0x0⟩, /- PRT_TXTS_STAT -/
  ⟨0x110018, [(0x10000, 9)], 0x00000000, 0x0, 0x0, 0x0, 0x8000ffff, 0x0⟩, /- PRT_TXTS_TAG -/
  ⟨0x11001c, [(0x10000, 9)], 0x00000000, 0x0, 0xffffffff, 0x0, 0x0, 0x0⟩, /- PRT_TXTS_LO -/
  ⟨0x110020, [(0x10000, 9)], 0x00000000, 0x0, 0xffffffff, 0x0, 0x0, 0x0⟩, /- PRT_TXTS_HI -/
  ⟨0x110040, [(0x10000, 9), (0x4, 8)], 0x00000000, 0xffffff, 0x0, 0x0, 0x0, 0x0⟩, /- PRT_CBS_SLOPE -/
  ⟨0x110060, [(0x10000, 9), (0x4, 8)], 0x00000000, 0xffffffff, 0x0, 0x0, 0x0, 0x0⟩, /- PRT_CBS_HI -/
  ⟨0x110080, [(0x10000, 9), (0x4, 8)], 0x00000000, 0xffffffff, 0x0, 0x0, 0x0, 0x0⟩, /- PRT_CBS_LO -/
  ⟨0x1100a0, [(0x10000, 9)], 0x00000000, 0xff, 0x0, 0x0, 0x0, 0x0⟩, /- PRT_CBS_EN -/
  ⟨0x110100, [(0x10000, 9)], 0x00000000, 0x1, 0x0, 0x0, 0x0, 0x2⟩, /- PRT_TAS_CTL -/
  ⟨0x110104, [(0x10000, 9)], 0x00000000, 0x0, 0xff01, 0x0, 0x0, 0x0⟩, /- PRT_TAS_STAT -/
  ⟨0x110108, [(0x10000, 9)], 0x00000000, 0xffffffff, 0x0, 0x0, 0x0, 0x0⟩, /- PRT_TAS_BASE_LO -/
  ⟨0x11010c, [(0x10000, 9)], 0x00000000, 0xffffffff, 0x0, 0x0, 0x0, 0x0⟩, /- PRT_TAS_BASE_HI -/
  ⟨0x110110, [(0x10000, 9)], 0x0001E848, 0xffffffff, 0x0, 0x0, 0x0, 0x0⟩ /- PRT_TAS_CYCLE -/]

/-- The registers of the PRT tables (08_ports_and_tsn.md R325). -/
def regTablePRT1 : List RegSpec := [
  ⟨0x110114, [(0x10000, 9)], 0x00000000, 0xffffffff, 0x0, 0x0, 0x0, 0x0⟩, /- PRT_TAS_EXT -/
  ⟨0x110118, [(0x10000, 9)], 0x00000000, 0xffffffff, 0x0, 0x0, 0x0, 0x0⟩, /- PRT_TAS_LEN -/
  ⟨0x110120, [(0x10000, 9)], 0x00000000, 0x0, 0xffffffff, 0x0, 0x0, 0x0⟩, /- PRT_TAS_CCT_LO -/
  ⟨0x110124, [(0x10000, 9)], 0x00000000, 0x0, 0xffffffff, 0x0, 0x0, 0x0⟩, /- PRT_TAS_CCT_HI -/
  ⟨0x110200, [(0x10000, 2)], 0x00000000, 0xff33, 0x0, 0x0, 0x0, 0x0⟩, /- PRT_FP_CTL -/
  ⟨0x110204, [(0x10000, 2)], 0x00000000, 0x0, 0x3, 0x0, 0x0, 0x0⟩, /- PRT_FP_STAT -/
  ⟨0x190300, [], 0x800008FF, 0xffffffff, 0x0, 0x0, 0x0, 0x0⟩, /- PRT_PLCA_CTL -/
  ⟨0x190304, [], 0x00000000, 0x0, 0x1, 0x0, 0x0, 0x0⟩, /- PRT_PLCA_STAT -/
  ⟨0x190308, [], 0x00000020, 0xff, 0x0, 0x0, 0x0, 0x0⟩, /- PRT_PLCA_TOT -/
  ⟨0x110400, [(0x10000, 9)], 0x00000000, 0x0, 0x0, 0x0, 0xffffffff, 0x0⟩, /- PRT_CNT_RXERR -/
  ⟨0x110404, [(0x10000, 9)], 0x00000000, 0x0, 0x0, 0x0, 0xffffffff, 0x0⟩, /- PRT_CNT_PAUSE -/
  ⟨0x110408, [(0x10000, 9)], 0x00000000, 0x0, 0x0, 0x0, 0xffffffff, 0x0⟩, /- PRT_CNT_OVF -/
  ⟨0x11040c, [(0x10000, 9)], 0x00000000, 0x0, 0x0, 0x0, 0xffffffff, 0x0⟩, /- PRT_CNT_NOBUF -/
  ⟨0x110410, [(0x10000, 9)], 0x00000000, 0x0, 0x0, 0x0, 0xffffffff, 0x0⟩, /- PRT_CNT_VLAN -/
  ⟨0x110414, [(0x10000, 9)], 0x00000000, 0x0, 0x0, 0x0, 0xffffffff, 0x0⟩, /- PRT_CNT_RULE -/
  ⟨0x110418, [(0x10000, 9)], 0x00000000, 0x0, 0x0, 0x0, 0xffffffff, 0x0⟩, /- PRT_CNT_PSFP -/
  ⟨0x11041c, [(0x10000, 9)], 0x00000000, 0x0, 0x0, 0x0, 0xffffffff, 0x0⟩, /- PRT_CNT_DUP -/
  ⟨0x110420, [(0x10000, 9)], 0x00000000, 0x0, 0x0, 0x0, 0xffffffff, 0x0⟩, /- PRT_CNT_HOLD -/
  ⟨0x110424, [(0x10000, 9)], 0x00000000, 0x0, 0x0, 0x0, 0xffffffff, 0x0⟩, /- PRT_CNT_LDROP -/
  ⟨0x110428, [(0x10000, 9)], 0x00000000, 0x0, 0x0, 0x0, 0xffffffff, 0x0⟩, /- PRT_CNT_TXERR -/
  ⟨0x11042c, [(0x10000, 9)], 0x00000000, 0x0, 0x0, 0x0, 0xffffffff, 0x0⟩, /- PRT_CNT_FLUSH -/
  ⟨0x111000, [(0x10000, 9), (0x8, 256)], 0x00000000, 0x7ff, 0x0, 0x0, 0x0, 0x0⟩, /- PRT_GCL_ADMIN -/
  ⟨0x111004, [(0x10000, 9), (0x8, 256)], 0x00000000, 0xffffffff, 0x0, 0x0, 0x0, 0x0⟩, /- PRT_GCL_ADMIN, INTERVAL -/
  ⟨0x112000, [(0x10000, 9), (0x8, 256)], 0x00000000, 0x0, 0x7ff, 0x0, 0x0, 0x0⟩, /- PRT_GCL_OPER -/
  ⟨0x112004, [(0x10000, 9), (0x8, 256)], 0x00000000, 0x0, 0xffffffff, 0x0, 0x0, 0x0⟩ /- PRT_GCL_OPER, INTERVAL -/]


/-- The registers of the PRS tables (09_parser_classifier.md R362). -/
def regTablePRS : List RegSpec := [
  ⟨0x200000, [], 0x00000000, 0x0, 0x0, 0x1f, 0x0, 0x0⟩, /- PRS_NSTAT -/
  ⟨0x200004, [], 0x0000001F, 0x1f, 0x0, 0x0, 0x0, 0x0⟩, /- PRS_NEN -/
  ⟨0x200010, [], 0x00000000, 0x0, 0x0, 0x0, 0x0, 0x33ff⟩, /- PRS_RCMD -/
  ⟨0x200014, [], 0x00000000, 0x0, 0x1, 0x2, 0x0, 0x0⟩, /- PRS_RSTAT -/
  ⟨0x200018, [], 0x0000FFFF, 0xffff, 0x0, 0x0, 0x0, 0x0⟩, /- PRS_GRP_EN -/
  ⟨0x20001c, [], 0x00000008, 0xf, 0x0, 0x0, 0x0, 0x0⟩, /- PRS_YEL -/
  ⟨0x200020, [], 0x00FAC688, 0xffffff, 0x0, 0x0, 0x0, 0x0⟩, /- PRS_TCMAP_LO -/
  ⟨0x200024, [], 0x00FFFFFF, 0xffffff, 0x0, 0x0, 0x0, 0x0⟩, /- PRS_TCMAP_HI -/
  ⟨0x200040, [(0x4, 10)], 0x000C0000, 0xfffff, 0x0, 0x0, 0x0, 0x0⟩, /- PRS_PORT_DEF -/
  ⟨0x200080, [], 0x00000000, 0x0, 0x0, 0x0, 0xffffffff, 0x0⟩, /- PRS_CNT_TRUNC -/
  ⟨0x200084, [], 0x00000000, 0x0, 0x0, 0x0, 0xffffffff, 0x0⟩, /- PRS_CNT_BAD -/
  ⟨0x200088, [], 0x00000000, 0x0, 0x0, 0x0, 0xffffffff, 0x0⟩, /- PRS_CNT_FRAG -/
  ⟨0x20008c, [], 0x00000000, 0x0, 0x0, 0x0, 0xffffffff, 0x0⟩, /- PRS_CNT_NOMATCH -/
  ⟨0x201000, [(0x4, 36)], 0x00000000, 0xffffffff, 0x0, 0x0, 0x0, 0x0⟩, /- PRS_STAGE -/
  ⟨0x210000, [(0x100, 1024)], 0, 0x0, 0xffffffff, 0x0, 0x0, 0x0⟩, /- PRS_RULE -/
  ⟨0x250000, [(0x4, 1024)], 0x00000000, 0x0, 0x0, 0x0, 0xffffffff, 0x0⟩ /- PRS_HIT -/]


/-- The registers of the BPM tables (10_buffers_and_locks.md R400). -/
def regTableBPM : List RegSpec := [
  ⟨0x400000, [], 0x00000000, 0x0, 0x0, 0x7ffffff, 0x0, 0x0⟩, /- BPM_NSTAT -/
  ⟨0x400004, [], 0x07FFFFFF, 0x7ffffff, 0x0, 0x0, 0x0, 0x0⟩, /- BPM_NEN -/
  ⟨0x400008, [], 0x00000040, 0x1ff, 0x0, 0x0, 0x0, 0x0⟩, /- BPM_HDRM -/
  ⟨0x400010, [], 0x00000000, 0xffffffff, 0x0, 0x0, 0x0, 0x0⟩, /- BPM_ESC_LO -/
  ⟨0x400014, [], 0x00000000, 0xffffffff, 0x0, 0x0, 0x0, 0x0⟩, /- BPM_ESC_HI -/
  ⟨0x400018, [], 0x00000040, 0x3ffff, 0x0, 0x0, 0x0, 0x0⟩, /- BPM_LOAN -/
  ⟨0x400030, [], 0x00000000, 0x0, 0x0, 0x0, 0xffffffff, 0x0⟩, /- BPM_CNT_BADFREE -/
  ⟨0x400100, [(0x20, 8)], 0, 0x0, 0x17ff, 0x0, 0x0, 0x0⟩, /- BPM_POOL_CFG -/
  ⟨0x400104, [(0x20, 8)], 0x00000000, 0x0, 0x3ffff, 0x0, 0x0, 0x0⟩, /- BPM_POOL_COUNT -/
  ⟨0x400108, [(0x20, 8)], 0x00000000, 0x0, 0xffffff, 0x0, 0x0, 0x0⟩, /- BPM_POOL_BASE -/
  ⟨0x40010c, [(0x20, 8)], 0x00000000, 0x0, 0xffffff, 0x0, 0x0, 0x0⟩, /- BPM_POOL_FSTORE -/
  ⟨0x400110, [(0x20, 8)], 0x00000000, 0x0, 0xffffff, 0x0, 0x0, 0x0⟩, /- BPM_POOL_TAGS -/
  ⟨0x400114, [(0x20, 8)], 0x00000000, 0x0, 0x3ffff, 0x0, 0x0, 0x0⟩, /- BPM_POOL_FREE -/
  ⟨0x400118, [(0x20, 8)], 0x00000000, 0x0, 0x3ffff, 0x0, 0x0, 0x0⟩, /- BPM_POOL_SHARED -/
  ⟨0x40011c, [(0x20, 8)], 0x00000000, 0x0, 0xffffcff7, 0x0, 0x0, 0x0⟩, /- BPM_POOL_STAT -/
  ⟨0x400200, [(0x8, 8)], 0, 0x3ffff, 0x0, 0x0, 0x0, 0x0⟩, /- BPM_POOL_LWM -/
  ⟨0x400204, [(0x8, 8)], 0, 0x3ffff, 0x0, 0x0, 0x0, 0x0⟩, /- BPM_POOL_HWM -/
  ⟨0x400240, [(0x4, 8)], 0x00000000, 0x0, 0x0, 0x0, 0xffffffff, 0x0⟩, /- BPM_CNT_FAIL -/
  ⟨0x401000, [(0x20, 64), (0x4, 8)], 0x00000000, 0x0, 0x3ffff, 0x0, 0x0, 0x0⟩, /- BPM_USED -/
  ⟨0x402000, [(0x40, 64), (0x8, 8)], 0, 0x0, 0x3ffff, 0x0, 0x0, 0x0⟩, /- BPM_OWN_MIN -/
  ⟨0x402004, [(0x40, 64), (0x8, 8)], 0, 0x3ffff, 0x0, 0x0, 0x0, 0x0⟩ /- BPM_OWN_CAP -/]


/-- The registers of the LCK tables (10_buffers_and_locks.md R402). -/
def regTableLCK : List RegSpec := [
  ⟨0x410000, [(0x4, 512)], 0x00000000, 0x0, 0x0, 0x0, 0x0, 0x1⟩, /- LCK -/
  ⟨0x411000, [(0x4, 512)], 0x00000000, 0x0, 0x3ff1ff1, 0x0, 0x0, 0x0⟩, /- LCK_OWN -/
  ⟨0x412000, [], 0x00000000, 0x0, 0x0, 0x7, 0x0, 0x0⟩, /- LCK_NSTAT -/
  ⟨0x412004, [], 0x00000007, 0x7, 0x0, 0x0, 0x0, 0x0⟩, /- LCK_NEN -/
  ⟨0x412008, [], 0x00000000, 0xffff, 0x0, 0x0, 0x0, 0x0⟩, /- LCK_HOLDMAX -/
  ⟨0x41200c, [], 0x00000000, 0x0, 0x3ff01ff, 0x0, 0x0, 0x0⟩, /- LCK_LAST -/
  ⟨0x413000, [(0x4, 128)], 0x00000000, 0xffffffff, 0x0, 0x0, 0x0, 0x0⟩ /- LCK_CTR -/]


/-- The registers of the DST tables (11_distaff_and_yarns.md R442). -/
def regTableDST : List RegSpec := [
  ⟨0x420000, [], 0x00000000, 0x0, 0x13fff, 0x0, 0x0, 0x0⟩, /- DST_STAT -/
  ⟨0x420004, [], 0x00000000, 0x0, 0x0, 0x1f, 0x0, 0x0⟩, /- DST_NSTAT -/
  ⟨0x420008, [], 0x0000001F, 0x1f, 0x0, 0x0, 0x0, 0x0⟩, /- DST_NEN -/
  ⟨0x42000c, [], 0x00000000, 0x0, 0xfff, 0x0, 0x0, 0x0⟩, /- DST_LAST -/
  ⟨0x420010, [], 0x00320008, 0xffff00ff, 0x0, 0x0, 0x0, 0x0⟩, /- DST_AFF -/
  ⟨0x420014, [], 0x00000000, 0xffffffff, 0x0, 0x0, 0x0, 0x0⟩, /- DST_SPARE_LO -/
  ⟨0x420018, [], 0x00000000, 0xffffffff, 0x0, 0x0, 0x0, 0x0⟩, /- DST_SPARE_HI -/
  ⟨0x420020, [], 0x00000000, 0x0, 0x0, 0x0, 0xffffffff, 0x0⟩, /- DST_CNT_NOSERV -/
  ⟨0x420024, [], 0x00000000, 0x0, 0x0, 0x0, 0xffffffff, 0x0⟩, /- DST_CNT_RELDROP -/
  ⟨0x420028, [], 0x00000000, 0x0, 0x0, 0x0, 0xffffffff, 0x0⟩, /- DST_CNT_TASKDROP -/
  ⟨0x42002c, [], 0x00000000, 0x0, 0x0, 0x0, 0xffffffff, 0x0⟩, /- DST_CNT_PREEMPT -/
  ⟨0x420040, [], 0x00000000, 0xfff, 0x0, 0x0, 0x0, 0x0⟩, /- DST_YSEL -/
  ⟨0x420044, [], 0, 0xffffffff, 0x0, 0x0, 0x0, 0x0⟩, /- DST_YMASK_LO -/
  ⟨0x420048, [], 0, 0xffff, 0x0, 0x0, 0x0, 0x0⟩, /- DST_YMASK_HI -/
  ⟨0x420100, [], 0x00000000, 0x1ff03, 0x0, 0x0, 0x0, 0x0⟩, /- DST_TRC_CTL -/
  ⟨0x420104, [], 0x0FFF0000, 0xfff0fff, 0x0, 0x0, 0x0, 0x0⟩, /- DST_TRC_YRNG -/
  ⟨0x420108, [], 0x00000000, 0x0, 0x7fff, 0x0, 0x0, 0x0⟩, /- DST_TRC_WPTR -/
  ⟨0x42010c, [], 0x00000000, 0x7fff, 0x0, 0x0, 0x0, 0x0⟩, /- DST_TRC_RIDX -/
  ⟨0x420110, [(0x4, 4)], 0x00000000, 0x0, 0xffffffff, 0x0, 0x0, 0x0⟩, /- DST_TRC_DATA -/
  ⟨0x420120, [], 0x00000000, 0xfff000, 0x0, 0x0, 0x0, 0x0⟩, /- DST_TRC_SBASE -/
  ⟨0x420124, [], 0x00000000, 0xfff, 0x0, 0x0, 0x0, 0x0⟩, /- DST_TRC_SLEN -/
  ⟨0x420128, [], 0x00000000, 0x0, 0xffffffff, 0x0, 0x0, 0x0⟩, /- DST_TRC_SWR -/
  ⟨0x42012c, [], 0x00000000, 0xffffffff, 0x0, 0x0, 0x0, 0x0⟩, /- DST_TRC_SRD -/
  ⟨0x420130, [], 0x00000000, 0x0, 0x0, 0x0, 0xffffffff, 0x0⟩ /- DST_TRC_LOST -/]

/-- The registers of the DST tables (11_distaff_and_yarns.md R442). -/
def regTableDST1 : List RegSpec := [
  ⟨0x420200, [(0x4, 48)], 0, 0xff, 0x3300, 0x0, 0x0, 0x0⟩, /- DST_CORE -/
  ⟨0x420300, [(0x4, 48)], 0x00000000, 0x0, 0x3fff, 0x0, 0x0, 0x0⟩, /- DST_CORE_Q -/
  ⟨0x424000, [(0x4, 4096)], 0, 0x71ff, 0x0, 0x0, 0x0, 0x0⟩, /- DST_YCFG -/
  ⟨0x428000, [(0x4, 4096)], 0x003F0000, 0x0, 0x803f01ff, 0x0, 0x0, 0x0⟩ /- DST_YSTAT -/]


/-- The registers of the WHL tables (12_whorl_cores_threads.md R474). -/
def regTableWHL : List RegSpec := [
  ⟨0x800000, [(0x20000, 48)], 0, 0x0, 0x7, 0x0, 0x0, 0x0⟩, /- WHL_CSTAT -/
  ⟨0x800004, [(0x20000, 48)], 0x00000000, 0x0, 0x0, 0xf, 0x0, 0x0⟩, /- WHL_CERR -/
  ⟨0x800008, [(0x20000, 48)], 0x00000000, 0x0, 0xff, 0x0, 0x0, 0x0⟩, /- WHL_CFLT -/
  ⟨0x80000c, [(0x20000, 48)], 0x0000000A, 0xffff, 0x0, 0x0, 0x0, 0x0⟩, /- WHL_ESC_TO -/
  ⟨0x800010, [(0x20000, 48)], 0x00000000, 0x0, 0x3f, 0x0, 0x0, 0x0⟩, /- WHL_ROOT -/
  ⟨0x800014, [(0x20000, 48)], 0x00000000, 0x0, 0x0, 0x0, 0xffffffff, 0x0⟩, /- WHL_ECC_CNT -/
  ⟨0x800018, [(0x20000, 48)], 0x00000000, 0x0, 0x8000ffff, 0x0, 0x0, 0x0⟩, /- WHL_ECC_ADDR -/
  ⟨0x800020, [(0x20000, 48)], 0x00000000, 0x0, 0x0, 0x7, 0x0, 0x0⟩, /- WHL_NSTAT -/
  ⟨0x800024, [(0x20000, 48)], 0x00000007, 0x7, 0x0, 0x0, 0x0, 0x0⟩, /- WHL_NEN -/
  ⟨0x800040, [(0x20000, 48), (0x20, 8)], 0x00000000, 0x0, 0x0, 0x0, 0x0, 0x73⟩, /- WHL_TCTL -/
  ⟨0x800044, [(0x20000, 48), (0x20, 8)], 0x00000000, 0xffff, 0x0, 0x0, 0x0, 0x0⟩, /- WHL_TPC -/
  ⟨0x800048, [(0x20000, 48), (0x20, 8)], 0, 0x0, 0xffff0077, 0x0, 0x0, 0x0⟩, /- WHL_TSTATE -/
  ⟨0x80004c, [(0x20000, 48), (0x20, 8)], 0x00000000, 0x0, 0xffffffff, 0x0, 0x0, 0x0⟩, /- WHL_TFLT -/
  ⟨0x800050, [(0x20000, 48), (0x20, 8)], 0x00000000, 0x0, 0xffffffff, 0x0, 0x0, 0x0⟩, /- WHL_TFLTA -/
  ⟨0x800054, [(0x20000, 48), (0x20, 8)], 0, 0xffff, 0xffff0000, 0x0, 0x0, 0x0⟩, /- WHL_TWDOG -/
  ⟨0x800058, [(0x20000, 48), (0x20, 8)], 0, 0x3ff, 0x3ff0000, 0x0, 0x0, 0x0⟩, /- WHL_TQSH -/
  ⟨0x80005c, [(0x20000, 48), (0x20, 8)], 0x00000000, 0x0, 0x0, 0x0, 0x0, 0xffffffff⟩, /- WHL_TSIG -/
  ⟨0x800200, [(0x20000, 48), (0x10, 8)], 0, 0xffffffff, 0x0, 0x0, 0x0, 0x0⟩, /- WHL_TBSH_LO -/
  ⟨0x800204, [(0x20000, 48), (0x10, 8)], 0, 0xffffffff, 0x0, 0x0, 0x0, 0x0⟩, /- WHL_TBSH_HI -/
  ⟨0x800208, [(0x20000, 48), (0x10, 8)], 0x00000000, 0xffffffff, 0x0, 0x0, 0x0, 0x0⟩, /- WHL_TBUSED_LO -/
  ⟨0x80020c, [(0x20000, 48), (0x10, 8)], 0x00000000, 0xffffffff, 0x0, 0x0, 0x0, 0x0⟩ /- WHL_TBUSED_HI -/]


/-- The registers of the FWD tables (15_forwarding_learning.md R577). -/
def regTableFWD : List RegSpec := [
  ⟨0x300000, [], 0x00000000, 0x0, 0x0, 0xf, 0x0, 0x0⟩, /- FWD_NSTAT -/
  ⟨0x300004, [], 0x0000000F, 0xf, 0x0, 0x0, 0x0, 0x0⟩, /- FWD_NEN -/
  ⟨0x300010, [], 0x00000000, 0x0, 0x0, 0x0, 0x0, 0x7⟩, /- FWD_CMD -/
  ⟨0x300014, [], 0x00000000, 0x3fffc0, 0x0, 0x0, 0x0, 0x0⟩, /- FWD_ADDR -/
  ⟨0x300018, [], 0x00000000, 0x0, 0x7fff01f1, 0x200, 0x0, 0x0⟩, /- FWD_CSTAT -/
  ⟨0x300020, [], 0xFFFFFFFF, 0xffffffff, 0x0, 0x0, 0x0, 0x0⟩, /- FWD_STAGE_BE_LO -/
  ⟨0x300024, [], 0xFFFFFFFF, 0xffffffff, 0x0, 0x0, 0x0, 0x0⟩, /- FWD_STAGE_BE_HI -/
  ⟨0x300040, [], 0x000201FF, 0x301ff, 0x0, 0x0, 0x0, 0x0⟩, /- FWD_LRN_CTL -/
  ⟨0x300044, [], 0x00401000, 0x1fff1fff, 0x0, 0x0, 0x0, 0x0⟩, /- FWD_LRN_RATE -/
  ⟨0x300048, [], 0x00000096, 0xffff, 0x0, 0x0, 0x0, 0x0⟩, /- FWD_AGE -/
  ⟨0x30004c, [], 0, 0x0, 0x0, 0x0, 0x0, 0xffffffff⟩, /- FWD_LRN_POP -/
  ⟨0x300050, [], 0x00000000, 0x0, 0x1ff, 0x0, 0x0, 0x0⟩, /- FWD_LRN_STAT -/
  ⟨0x300060, [(0x4, 4)], 0x00000000, 0x0, 0xffffffff, 0x0, 0x0, 0x0⟩, /- FWD_LRN_REC -/
  ⟨0x300080, [], 0x0B70280F, 0xfffff3f, 0x0, 0x0, 0x0, 0x0⟩, /- FWD_AUD_CTL -/
  ⟨0x300084, [], 0x00000000, 0x0, 0xffff0001, 0x6, 0x0, 0x0⟩, /- FWD_AUD_STAT -/
  ⟨0x300088, [], 0x00000000, 0xfffff000, 0x0, 0x0, 0x0, 0x0⟩, /- FWD_AUD_SHBASE_LO -/
  ⟨0x30008c, [], 0x00000000, 0xffffffff, 0x0, 0x0, 0x0, 0x0⟩, /- FWD_AUD_SHBASE_HI -/
  ⟨0x300090, [], 0x00000000, 0x0, 0x0, 0x0, 0xffffffff, 0x0⟩, /- FWD_AUD_SKIP -/
  ⟨0x300094, [], 0x00000000, 0x0, 0x0, 0x0, 0xffffffff, 0x0⟩, /- FWD_EVT -/
  ⟨0x3000a0, [], 0x00000000, 0x0, 0x0, 0x0, 0xffffffff, 0x0⟩, /- FWD_CNT_LRN -/
  ⟨0x3000a4, [], 0x00000000, 0x0, 0x0, 0x0, 0xffffffff, 0x0⟩, /- FWD_CNT_LRNRATE -/
  ⟨0x3000a8, [], 0x00000000, 0x0, 0x0, 0x0, 0xffffffff, 0x0⟩, /- FWD_CNT_LRNFULL -/
  ⟨0x3000ac, [], 0x00000000, 0x0, 0x0, 0x0, 0xffffffff, 0x0⟩, /- FWD_CNT_LRNFIFO -/
  ⟨0x3000b0, [], 0x00000000, 0x0, 0x0, 0x0, 0xffffffff, 0x0⟩ /- FWD_CNT_MOVE -/]

/-- The registers of the FWD tables (15_forwarding_learning.md R577). -/
def regTableFWD1 : List RegSpec := [
  ⟨0x3000b4, [], 0x00000000, 0x0, 0x0, 0x0, 0xffffffff, 0x0⟩, /- FWD_CNT_STATMOVE -/
  ⟨0x3000b8, [], 0x00000000, 0x0, 0x0, 0x0, 0xffffffff, 0x0⟩, /- FWD_CNT_AGED -/
  ⟨0x3000bc, [], 0x00000000, 0x0, 0x0, 0x0, 0xffffffff, 0x0⟩, /- FWD_CNT_CORR -/
  ⟨0x300100, [(0x10, 4)], 0x00000000, 0x3, 0x0, 0x0, 0x0, 0x0⟩, /- FWD_INST -/
  ⟨0x300104, [(0x10, 4)], 0x00000000, 0x1fff1fff, 0x0, 0x0, 0x0, 0x0⟩, /- FWD_ROOT -/
  ⟨0x300200, [(0x20, 4), (0x4, 7)], 0x00000000, 0xffffffff, 0x0, 0x0, 0x0, 0x0⟩, /- FWD_LFILT -/
  ⟨0x300400, [(0x4, 128)], 0x00000000, 0xffffffff, 0x0, 0x0, 0x0, 0x0⟩, /- FWD_LRN_VLAN -/
  ⟨0x301000, [(0x400, 4), (0x4, 33)], 0x00000000, 0xffff, 0x0, 0x0, 0x0, 0x0⟩, /- FWD_LEN4 -/
  ⟨0x301100, [(0x400, 4), (0x4, 129)], 0x00000000, 0xffff, 0x0, 0x0, 0x0, 0x0⟩, /- FWD_LEN6 -/
  ⟨0x304000, [(0x4, 16)], 0x00000000, 0xffffffff, 0x0, 0x0, 0x0, 0x0⟩ /- FWD_STAGE -/]


/-- The registers of the HIF tables (16_host_interface_rings.md R627). -/
def regTableHIF : List RegSpec := [
  ⟨0xd0000, [], 0, 0x0, 0x1f7, 0x0, 0x0, 0x0⟩, /- HIF_STAT -/
  ⟨0xd0010, [], 0x00000000, 0xffffffff, 0x0, 0x0, 0x0, 0x0⟩, /- HIF_AQ_SQBASE_LO -/
  ⟨0xd0014, [], 0x00000000, 0xffffffff, 0x0, 0x0, 0x0, 0x0⟩, /- HIF_AQ_SQBASE_HI -/
  ⟨0xd0018, [], 0x00000000, 0xffffffff, 0x0, 0x0, 0x0, 0x0⟩, /- HIF_AQ_CQBASE_LO -/
  ⟨0xd001c, [], 0x00000000, 0xffffffff, 0x0, 0x0, 0x0, 0x0⟩, /- HIF_AQ_CQBASE_HI -/
  ⟨0xd0020, [], 0x00000000, 0x800001ff, 0x0, 0x0, 0x0, 0x0⟩, /- HIF_AQ_CFG -/
  ⟨0xd0030, [], 0x00100000, 0x0, 0x1fff1fff, 0x0, 0x0, 0x0⟩, /- HIF_INFL -/
  ⟨0xd0034, [], 0x00000000, 0x0, 0xffffff, 0x0, 0x0, 0x0⟩, /- HIF_PKM_FREE -/
  ⟨0xd0040, [], 0x00000000, 0x0, 0xffffffff, 0x0, 0x0, 0x0⟩, /- HIF_HALT_FMT -/
  ⟨0xd0044, [], 0x00000000, 0x0, 0xfff, 0x0, 0x0, 0x0⟩, /- HIF_HALT_IDX -/
  ⟨0xd0080, [], 0x00000000, 0x0, 0x0, 0x0, 0xffffffff, 0x0⟩, /- HIF_CNT_DBLOST -/
  ⟨0xd0084, [], 0x00000000, 0x0, 0x0, 0x0, 0xffffffff, 0x0⟩, /- HIF_CNT_DMAERR -/
  ⟨0xd0088, [], 0x00000000, 0x0, 0x0, 0x0, 0xffffffff, 0x0⟩, /- HIF_CNT_RXDROP -/
  ⟨0xd008c, [], 0x00000000, 0x0, 0x0, 0x0, 0xffffffff, 0x0⟩, /- HIF_CNT_UR -/
  ⟨0xd0100, [], 0x00000000, 0x3ffffff, 0x0, 0x0, 0x0, 0x80000000⟩, /- HIF_XSPI_CTL -/
  ⟨0xd0104, [], 0x00000000, 0xffffffff, 0x0, 0x0, 0x0, 0x0⟩, /- HIF_XSPI_ADDR -/
  ⟨0xd0108, [], 0x00000000, 0x0, 0x1, 0x2, 0x0, 0x0⟩, /- HIF_XSPI_STAT -/
  ⟨0xd0400, [(0x4, 64)], 0x00000000, 0xffffffff, 0x0, 0x0, 0x0, 0x0⟩, /- HIF_XSPI_BUF -/
  ⟨0xd1000, [(0x4, 1024)], 0x00000004, 0x0, 0x1ff01ff, 0x0, 0x0, 0x0⟩, /- HIF_QP_STAT -/
  ⟨0xd2000, [(0x8, 1024)], 0, 0x0, 0x0, 0x0, 0x0, 0xfff⟩, /- HIF_DB_SQ -/
  ⟨0xd2004, [(0x8, 1024)], 0, 0x0, 0x0, 0x0, 0x0, 0xfff⟩ /- HIF_DB_CQ -/]


/-- The registers of the EVT tables (17_notices_interrupts.md R648). -/
def regTableEVT : List RegSpec := [
  ⟨0x30000, [], 0x00000000, 0x0, 0x0, 0x3, 0x0, 0x0⟩, /- EVT_STAT -/
  ⟨0x30010, [(0x4, 3)], 0x00000000, 0x0, 0xffffffff, 0x0, 0x0, 0x0⟩, /- EVT_PEND -/
  ⟨0x30020, [(0x4, 3)], 0x00000000, 0x0, 0xffffffff, 0x0, 0x0, 0x0⟩, /- EVT_LVL -/
  ⟨0x30030, [], 0x00000000, 0x0, 0x0, 0x0, 0x0, 0xff⟩, /- EVT_SWRAISE -/
  ⟨0x30034, [], 0x00000000, 0x0, 0x3, 0x0, 0x0, 0x0⟩, /- EVT_INTN -/
  ⟨0x30100, [(0x4, 96)], 0x00000000, 0x0, 0x2, 0x0, 0x1, 0x0⟩, /- EVT_SRC -/
  ⟨0x30400, [(0x4, 96)], 0, 0x773f7f07, 0x0, 0x0, 0x0, 0x0⟩ /- EVT_ROUTE -/]


/-- The registers of the AUD tables (18_audio_path.md R700). -/
def regTableAUD : List RegSpec := [
  ⟨0xb0000, [], 0x00000000, 0x0, 0x1ffff, 0x0, 0x0, 0x0⟩, /- AUD_STAT -/
  ⟨0xb0004, [], 0x00000000, 0x0, 0x0, 0xffffff, 0x0, 0x0⟩, /- AUD_NSTAT -/
  ⟨0xb0008, [], 0x00FFFFFF, 0xffffff, 0x0, 0x0, 0x0, 0x0⟩, /- AUD_NEN -/
  ⟨0xb0010, [], 0x0000F004, 0xff0f, 0x0, 0x0, 0x0, 0x0⟩, /- AUD_MOD -/
  ⟨0xb0014, [], 0x801434BC, 0x80ffffff, 0x0, 0x0, 0x0, 0x0⟩, /- AUD_RT -/
  ⟨0xb0018, [], 0x80008000, 0x0, 0xffffffff, 0x0, 0x0, 0x0⟩, /- AUD_RT_GAIN -/
  ⟨0xb0020, [], 0x00000012, 0x37, 0x0, 0x0, 0x0, 0x0⟩, /- AUD_DPLL_CFG -/
  ⟨0xb0024, [], 0x00000000, 0x0, 0xff03, 0x0, 0x0, 0x0⟩, /- AUD_DPLL_STAT -/
  ⟨0xb0028, [], 0x00000000, 0x0, 0xffffffff, 0x0, 0x0, 0x0⟩, /- AUD_DPLL_RATIO -/
  ⟨0xb002c, [], 0x00000000, 0x0, 0xffffffff, 0x0, 0x0, 0x0⟩, /- AUD_DPLL_PHERR -/
  ⟨0xb0030, [], 0, 0x0, 0x0, 0x0, 0x0, 0xffffffff⟩, /- AUD_DPLL_CRF -/
  ⟨0xb0034, [], 0x000000A0, 0xffff, 0x0, 0x0, 0x0, 0x0⟩, /- AUD_DPLL_CRFINT -/
  ⟨0xb0040, [], 0x00000000, 0x0, 0x0, 0xffffffff, 0x0, 0x0⟩, /- AUD_LW_LOSS -/
  ⟨0xb0044, [], 0x00000000, 0x0, 0xffffffff, 0x0, 0x0, 0x0⟩, /- AUD_LW_STAT -/
  ⟨0xb0500, [(0x4, 32)], 0x000007D0, 0xffff, 0x0, 0x0, 0x0, 0x0⟩, /- AUD_LW_CFG -/
  ⟨0xb0580, [(0x4, 32)], 0, 0x0, 0x0, 0x0, 0x0, 0xffffffff⟩, /- AUD_LW_SEEN -/
  ⟨0xb0100, [(0x40, 16)], 0x00000000, 0x1, 0x0, 0x0, 0x0, 0x0⟩, /- AUD_CH_CTL -/
  ⟨0xb0104, [(0x40, 16)], 0, 0xff1ffff7, 0x0, 0x0, 0x0, 0x0⟩, /- AUD_CH_CFG -/
  ⟨0xb0108, [(0x40, 16)], 0x00000000, 0xffffff, 0x0, 0x0, 0x0, 0x0⟩, /- AUD_CH_BASE -/
  ⟨0xb010c, [(0x40, 16)], 0x00000000, 0xffffffff, 0x0, 0x0, 0x0, 0x0⟩, /- AUD_CH_WPOS -/
  ⟨0xb0110, [(0x40, 16)], 0x00000000, 0xffffffff, 0x0, 0x0, 0x0, 0x0⟩, /- AUD_CH_RPOS -/
  ⟨0xb0114, [(0x40, 16)], 0x00000000, 0x0, 0xffffffff, 0x0, 0x0, 0x0⟩, /- AUD_CH_RTIME_LO -/
  ⟨0xb0118, [(0x40, 16)], 0x00000000, 0x0, 0xffffffff, 0x0, 0x0, 0x0⟩, /- AUD_CH_RTIME_HI -/
  ⟨0xb011c, [(0x40, 16)], 0x00000000, 0xffffffff, 0x0, 0x0, 0x0, 0x0⟩ /- AUD_CH_TSTART_LO -/]

/-- The registers of the AUD tables (18_audio_path.md R700). -/
def regTableAUD1 : List RegSpec := [
  ⟨0xb0120, [(0x40, 16)], 0x00000000, 0xffffffff, 0x0, 0x0, 0x0, 0x0⟩, /- AUD_CH_TSTART_HI -/
  ⟨0xb0124, [(0x40, 16)], 0x00000000, 0x0, 0xf, 0x0, 0x0, 0x0⟩, /- AUD_CH_STAT -/
  ⟨0xb0128, [(0x40, 16)], 0x00000000, 0x0, 0x0, 0x0, 0xffffffff, 0x0⟩, /- AUD_CH_CONC -/
  ⟨0xb012c, [(0x40, 16)], 0x00000000, 0x0, 0x0, 0x0, 0xffffffff, 0x0⟩, /- AUD_CH_CLIP -/
  ⟨0xb0130, [(0x40, 16)], 0x00000000, 0x0, 0x0, 0x0, 0xffffffff, 0x0⟩, /- AUD_CH_FABMISS -/
  ⟨0xb0600, [(0x20, 16)], 0x0000007F, 0x801f017f, 0x0, 0x0, 0x0, 0x0⟩, /- AUD_CAP_CFG -/
  ⟨0xb0604, [(0x20, 16)], 0x00000000, 0xffffff, 0x0, 0x0, 0x0, 0x0⟩, /- AUD_CAP_BASE -/
  ⟨0xb0608, [(0x20, 16)], 0x00000000, 0x0, 0xffffffff, 0x0, 0x0, 0x0⟩, /- AUD_CAP_WPOS -/
  ⟨0xb060c, [(0x20, 16)], 0x00000000, 0x0, 0xffffffff, 0x0, 0x0, 0x0⟩, /- AUD_CAP_WTIME_LO -/
  ⟨0xb0610, [(0x20, 16)], 0x00000000, 0x0, 0xffffffff, 0x0, 0x0, 0x0⟩, /- AUD_CAP_WTIME_HI -/
  ⟨0xb0800, [(0x10, 8)], 0x00000000, 0x8000ff7f, 0x0, 0x0, 0x0, 0x0⟩, /- AUD_TALK_CFG -/
  ⟨0xb0804, [(0x10, 8)], 0x001E8480, 0xffffffff, 0x0, 0x0, 0x0, 0x0⟩, /- AUD_TALK_OFS -/
  ⟨0xb0808, [(0x10, 8)], 0x00000000, 0x0, 0x0, 0x0, 0x80ffffff, 0x0⟩, /- AUD_TALK_NEXT -/
  ⟨0xb080c, [(0x10, 8)], 0x00000000, 0x0, 0xffffffff, 0x0, 0x0, 0x0⟩, /- AUD_TALK_TS -/
  ⟨0xb0c00, [(0x20, 4)], 0x00000070, 0x1f01f7, 0x0, 0x0, 0x0, 0x0⟩, /- AUD_TDM_CFG -/
  ⟨0xb0c04, [(0x20, 4)], 0x00000000, 0x0, 0x1, 0x0, 0x0, 0x0⟩, /- AUD_TDM_STAT -/
  ⟨0xb0c08, [(0x20, 4)], 0x00000000, 0xffffff, 0x0, 0x0, 0x0, 0x0⟩, /- AUD_TDM_TXBASE -/
  ⟨0xb0c0c, [(0x20, 4)], 0x00000000, 0xffffffff, 0x0, 0x0, 0x0, 0x0⟩, /- AUD_TDM_TXWPOS -/
  ⟨0xb0c10, [(0x20, 4)], 0x00000000, 0x0, 0xffffffff, 0x0, 0x0, 0x0⟩, /- AUD_TDM_TXRPOS -/
  ⟨0xb0c14, [(0x20, 4)], 0x00000000, 0x0, 0x0, 0x0, 0xffffffff, 0x0⟩, /- AUD_TDM_TXUND -/
  ⟨0xb0c18, [(0x20, 4)], 0x00000000, 0x0, 0x0, 0x0, 0xffffffff, 0x0⟩ /- AUD_TDM_BADFRM -/]


/-- The registers of the SAFE tables (18_audio_path.md R702). -/
def regTableSAFE : List RegSpec := [
  ⟨0xc0000, [], 0x00000000, 0x0, 0xff, 0x0, 0x0, 0x0⟩, /- SAFE_STAT -/
  ⟨0xc0004, [], 0x00000000, 0x0, 0x0, 0x1f, 0x0, 0x0⟩, /- SAFE_NSTAT -/
  ⟨0xc0008, [], 0x0000001F, 0x1f, 0x0, 0x0, 0x0, 0x0⟩, /- SAFE_NEN -/
  ⟨0xc0010, [], 0x00000000, 0x0, 0xffffffff, 0x0, 0x0, 0x0⟩, /- SAFE_LAST_LO -/
  ⟨0xc0014, [], 0x00000000, 0x0, 0xff, 0x0, 0x0, 0x0⟩, /- SAFE_LAST_HI -/
  ⟨0xc0018, [], 0x00000000, 0x0, 0x0, 0x0, 0xffffffff, 0x0⟩, /- SAFE_CNT_CMD -/
  ⟨0xc001c, [], 0x00000000, 0x0, 0x0, 0x0, 0xffffffff, 0x0⟩, /- SAFE_CNT_BADCMD -/
  ⟨0xc0100, [(0x4, 16)], 0, 0x0, 0xffffffff, 0x0, 0x0, 0x0⟩ /- SAFE_CFG -/]


/-- The registers of the PWS tables (19_power_stage_protection.md R734). -/
def regTablePWS : List RegSpec := [
  ⟨0xa0000, [], 0x00000001, 0x0, 0x1f, 0x0, 0x0, 0x0⟩, /- PWS_STAT -/
  ⟨0xa0004, [], 0x00000000, 0x0, 0xffff, 0x0, 0x0, 0x0⟩, /- PWS_LATCH -/
  ⟨0xa0008, [], 0, 0x0, 0x1ff, 0x0, 0x0, 0x0⟩, /- PWS_DTFLOOR -/
  ⟨0xa000c, [], 0, 0x0, 0x1ff01ff, 0x0, 0x0, 0x0⟩, /- PWS_DEF -/
  ⟨0xa0010, [], 0x00000000, 0x0, 0x0, 0x0, 0x0, 0xff00ffff⟩, /- PWS_CLR -/
  ⟨0xa0014, [], 0x00000000, 0x0, 0xffff, 0x0, 0x0, 0x0⟩, /- PWS_CLRSTAT -/
  ⟨0xa0020, [], 0x00000000, 0x0, 0x0, 0x0, 0xffffffff, 0x0⟩, /- PWS_CNT_LDHOLD -/
  ⟨0xa0100, [(0x20, 16)], 0, 0x1ff01ff, 0x0, 0x0, 0x0, 0x0⟩, /- PWS_CH_CFG -/
  ⟨0xa0104, [(0x20, 16)], 0x00000070, 0x0, 0xf7f, 0x0, 0x0, 0x0⟩, /- PWS_CH_STAT -/
  ⟨0xa0108, [(0x20, 16)], 0, 0x0, 0x1ff, 0x0, 0x0, 0x0⟩, /- PWS_CH_DTEFF -/
  ⟨0xa010c, [(0x20, 16)], 0x00000000, 0x0, 0xffff, 0x0, 0x0, 0x0⟩, /- PWS_CH_FLT -/
  ⟨0xa0110, [(0x20, 16)], 0x00000000, 0x0, 0xffffffff, 0x0, 0x0, 0x0⟩, /- PWS_CH_FTIME_LO -/
  ⟨0xa0114, [(0x20, 16)], 0x00000000, 0x0, 0xffffffff, 0x0, 0x0, 0x0⟩, /- PWS_CH_FTIME_HI -/
  ⟨0xa0118, [(0x20, 16)], 0x00000000, 0x0, 0x0, 0x3, 0x0, 0x0⟩, /- PWS_CH_NSTAT -/
  ⟨0xa011c, [(0x20, 16)], 0x00000003, 0x3, 0x0, 0x0, 0x0, 0x0⟩ /- PWS_CH_NEN -/]


/-- The registers of the SUP tables (19_power_stage_protection.md R737, 26_signals_package_electrical.md R918). -/
def regTableSUP : List RegSpec := [
  ⟨0x10100, [], 0x00000000, 0x0, 0xffffffff, 0x0, 0x0, 0x0⟩, /- SUP_VBAT -/
  ⟨0x10104, [], 0x0000FFFF, 0x0, 0x0, 0x0, 0xffff, 0x0⟩, /- SUP_VBAT_MIN -/
  ⟨0x10108, [], 0x00000000, 0x0, 0x0, 0x0, 0xffff, 0x0⟩, /- SUP_VBAT_MAX -/
  ⟨0x1010c, [], 0x00002328, 0xffff, 0x0, 0x0, 0x0, 0x0⟩, /- SUP_VDIP -/
  ⟨0x10110, [], 0x00000000, 0x0, 0x0, 0x3, 0x0, 0x0⟩, /- SUP_VNSTAT -/
  ⟨0x10114, [], 0x00000003, 0x3, 0x0, 0x0, 0x0, 0x0⟩, /- SUP_VNEN -/
  ⟨0x10000, [], 0, 0x0, 0xffff, 0x0, 0x0, 0x0⟩, /- SUP_RAIL -/
  ⟨0x10004, [], 0x00000000, 0x0, 0x0, 0x1ffff, 0x0, 0x0⟩, /- SUP_NSTAT -/
  ⟨0x10008, [], 0x0001FFFF, 0x1ffff, 0x0, 0x0, 0x0, 0x0⟩, /- SUP_NEN -/
  ⟨0x1000c, [], 0x00000000, 0x0, 0x7, 0x0, 0x0, 0x0⟩, /- SUP_EWSTAT -/
  ⟨0x10010, [], 0x00001194, 0xffff, 0x0, 0x0, 0x0, 0x0⟩, /- SUP_EWV -/
  ⟨0x10040, [(0x4, 16)], 0x00000000, 0x0, 0xffff, 0x0, 0x0, 0x0⟩ /- SUP_RAILV -/]


/-- The registers of the CAL tables (20_live_calibration.md R761). -/
def regTableCAL : List RegSpec := [
  ⟨0x90000, [], 0x0001FFFF, 0x1ffff, 0x0, 0x0, 0x0, 0x0⟩, /- CAL_CTL -/
  ⟨0x90004, [], 0x00000000, 0x0, 0x0, 0xf, 0x0, 0x0⟩, /- CAL_NSTAT -/
  ⟨0x90008, [], 0x0000000F, 0xf, 0x0, 0x0, 0x0, 0x0⟩, /- CAL_NEN -/
  ⟨0x9000c, [], 0x00000000, 0x0, 0xffffffff, 0x0, 0x0, 0x0⟩, /- CAL_SPK -/
  ⟨0x90010, [], 0x00322710, 0xffffffff, 0x0, 0x0, 0x0, 0x0⟩, /- CAL_THR -/
  ⟨0x90014, [], 0x01481414, 0xffffffff, 0x0, 0x0, 0x0, 0x0⟩, /- CAL_LIM -/
  ⟨0x90018, [], 0x00000000, 0x0, 0x0, 0x0, 0x0, 0xffffffff⟩, /- CAL_TRIM -/
  ⟨0x90100, [(0x40, 16)], 0x00000000, 0x0, 0x3ffff, 0x0, 0x0, 0x0⟩, /- CAL_CH_SEQ -/
  ⟨0x90104, [(0x40, 16)], 0x00000000, 0x0, 0xffffff, 0x0, 0x0, 0x0⟩, /- CAL_CH_GAIN -/
  ⟨0x90108, [(0x40, 16)], 0x00000000, 0x0, 0xffffffff, 0x0, 0x0, 0x0⟩, /- CAL_CH_DRIFT -/
  ⟨0x9010c, [(0x40, 16)], 0x00000000, 0x0, 0xffffffff, 0x0, 0x0, 0x0⟩, /- CAL_CH_ZLO -/
  ⟨0x90110, [(0x40, 16)], 0x00000000, 0x0, 0xffffffff, 0x0, 0x0, 0x0⟩, /- CAL_CH_ZHI -/
  ⟨0x90114, [(0x40, 16)], 0x00000000, 0x0, 0x71f, 0x0, 0x0, 0x0⟩, /- CAL_CH_STAT -/
  ⟨0x90118, [(0x40, 16)], 0x00000000, 0xffffffff, 0x0, 0x0, 0x0, 0x0⟩, /- CAL_CH_OFS -/
  ⟨0x9011c, [(0x40, 16)], 0x12C007D0, 0xffffffff, 0x0, 0x0, 0x0, 0x0⟩, /- CAL_CH_SCALE -/
  ⟨0x90120, [(0x40, 16)], 0x00000000, 0x0, 0xffffffff, 0x0, 0x0, 0x0⟩, /- CAL_CH_LIVE -/
  ⟨0x90124, [(0x40, 16)], 0x00000000, 0x0, 0x0, 0x0, 0xffffffff, 0x0⟩ /- CAL_CH_ABANDON -/]


/-- The registers of the THM tables (21_thermal_fans.md R784). -/
def regTableTHM : List RegSpec := [
  ⟨0x80000, [], 0x00000000, 0x0, 0x0, 0x3fffffff, 0x0, 0x0⟩, /- THM_NSTAT -/
  ⟨0x80004, [], 0x3FFFFFFF, 0x3fffffff, 0x0, 0x0, 0x0, 0x0⟩, /- THM_NEN -/
  ⟨0x80008, [], 0, 0x0, 0xff3ff, 0x0, 0x0, 0x0⟩, /- THM_FUSE -/
  ⟨0x80010, [], 0x00000000, 0x3, 0x0, 0x0, 0x0, 0x0⟩, /- THM_SBUS_CFG -/
  ⟨0x80014, [], 0x00000000, 0x0, 0xff01, 0x0, 0x0, 0x0⟩, /- THM_SBUS_STAT -/
  ⟨0x80018, [], 0x00000000, 0x0, 0x0, 0x0, 0x0, 0xff000000⟩, /- THM_SBUS_CMD -/
  ⟨0x80100, [(0x10, 12)], 0, 0x1ffff, 0x0, 0x0, 0x0, 0x0⟩, /- THM_ZCFG -/
  ⟨0x80104, [(0x10, 12)], 0x00000000, 0x0, 0xff01ffff, 0x0, 0x0, 0x0⟩, /- THM_ZREAD -/
  ⟨0x80200, [(0x10, 4)], 0x03E803E8, 0xffffffff, 0x0, 0x0, 0x0, 0x0⟩, /- THM_NTC_R -/
  ⟨0x80204, [(0x10, 4)], 0x00000D6B, 0xffff, 0x0, 0x0, 0x0, 0x0⟩, /- THM_NTC_B -/
  ⟨0x80208, [(0x10, 4)], 0x00000000, 0x0, 0xfff, 0x0, 0x0, 0x0⟩, /- THM_NTC_CODE -/
  ⟨0x80400, [(0x10, 12), (0x4, 4)], 0, 0x3ff00ff, 0x0, 0x0, 0x0, 0x0⟩, /- THM_ZPT -/
  ⟨0x80300, [(0x20, 4)], 0, 0xfff000f, 0x0, 0x0, 0x0, 0x0⟩, /- THM_FAN_CFG -/
  ⟨0x80304, [(0x20, 4)], 0x00000000, 0xffff, 0x0, 0x0, 0x0, 0x0⟩, /- THM_FAN_TGT -/
  ⟨0x80308, [(0x20, 4)], 0x00400100, 0xffffffff, 0x0, 0x0, 0x0, 0x0⟩, /- THM_FAN_GAIN -/
  ⟨0x8030c, [(0x20, 4)], 0x00000258, 0xffff, 0x0, 0x0, 0x0, 0x0⟩, /- THM_FAN_MINRPM -/
  ⟨0x80310, [(0x20, 4)], 0x00000000, 0x0, 0xf103ff, 0x0, 0x0, 0x0⟩, /- THM_FAN_STAT -/
  ⟨0x80314, [(0x20, 4)], 0x00000000, 0x0, 0xffff, 0x0, 0x0, 0x0⟩ /- THM_FAN_RPM -/]


/-- The registers of the PLY tables (22_ply_pair.md R824). -/
def regTablePLY : List RegSpec := [
  ⟨0x70000, [], 0x00000000, 0x0, 0x3f, 0x0, 0x0, 0x0⟩, /- PLY_STAT -/
  ⟨0x70004, [], 0x00000000, 0x0, 0x0, 0x1ff, 0x0, 0x0⟩, /- PLY_NSTAT -/
  ⟨0x70008, [], 0x000001FF, 0x1ff, 0x0, 0x0, 0x0, 0x0⟩, /- PLY_NEN -/
  ⟨0x70010, [], 0x00000801, 0xf01, 0x0, 0x0, 0x0, 0x0⟩, /- PLY_CFG -/
  ⟨0x70014, [], 0x00000000, 0x0, 0x0, 0x0, 0x0, 0xff000003⟩, /- PLY_CMD -/
  ⟨0x70018, [], 0x00000000, 0x0, 0xfff7, 0x0, 0x0, 0x0⟩, /- PLY_JOIN_STAT -/
  ⟨0x7001c, [], 0x00000000, 0x0, 0x7, 0x0, 0x0, 0x0⟩, /- PLY_CAUSE -/
  ⟨0x70020, [], 0x00000000, 0x0, 0xffffffff, 0x0, 0x0, 0x0⟩, /- PLY_EPOCH_LO -/
  ⟨0x70024, [], 0x00000000, 0x0, 0xffffffff, 0x0, 0x0, 0x0⟩, /- PLY_EPOCH_HI -/
  ⟨0x70028, [], 0x00000000, 0x0, 0x3ff00ff, 0x0, 0x0, 0x0⟩, /- PLY_LAG -/
  ⟨0x70030, [], 0x00000000, 0x1ff, 0x0, 0x0, 0x0, 0x0⟩, /- PLY_PORTMODE -/
  ⟨0x70040, [], 0x00000000, 0x0, 0xffffffff, 0x0, 0x0, 0x0⟩, /- PLY_LAST -/
  ⟨0x70080, [], 0x00000000, 0x0, 0x0, 0x0, 0xffffffff, 0x0⟩, /- PLY_CNT_FETCH -/
  ⟨0x70084, [], 0x00000000, 0x0, 0x0, 0x0, 0xffffffff, 0x0⟩, /- PLY_CNT_MISMATCH -/
  ⟨0x70088, [], 0x00000000, 0x0, 0x0, 0x0, 0xffffffff, 0x0⟩, /- PLY_CNT_FOLWR -/
  ⟨0x7008c, [], 0x00000000, 0x0, 0x0, 0x0, 0xffffffff, 0x0⟩ /- PLY_CNT_CORR -/]


/-- The registers of the IST tables (23_in_service_test.md R844). -/
def regTableIST : List RegSpec := [
  ⟨0x60000, [], 0x0000001F, 0x1f, 0x0, 0x0, 0x0, 0x0⟩, /- IST_CTL -/
  ⟨0x60004, [], 0x00000000, 0x0, 0x0, 0x7f, 0x0, 0x0⟩, /- IST_NSTAT -/
  ⟨0x60008, [], 0x0000007F, 0x7f, 0x0, 0x0, 0x0, 0x0⟩, /- IST_NEN -/
  ⟨0x60010, [], 0x00000000, 0x0, 0xffffffff, 0x0, 0x0, 0x0⟩, /- IST_SHORT_LO -/
  ⟨0x60014, [], 0x00000000, 0x0, 0xffff, 0x0, 0x0, 0x0⟩, /- IST_SHORT_HI -/
  ⟨0x60018, [], 0x00000000, 0x0, 0x3, 0x0, 0x0, 0x0⟩, /- IST_LATE -/
  ⟨0x60020, [], 0x00000000, 0x0, 0x80003f1f, 0x0, 0x0, 0x0⟩, /- IST_MEM_LAST -/
  ⟨0x60024, [], 0x00000000, 0x0, 0xffffffff, 0x0, 0x0, 0x0⟩, /- IST_MEM_ADDR -/
  ⟨0x60028, [], 0x00000000, 0x0, 0xffffffff, 0x0, 0x0, 0x0⟩, /- IST_SCRUB_PASS -/
  ⟨0x60030, [], 0x00000000, 0x0, 0x0, 0x0, 0xffffffff, 0x0⟩, /- IST_CNT_CORR -/
  ⟨0x60034, [], 0x00000000, 0x0, 0x0, 0x0, 0xffffffff, 0x0⟩, /- IST_CNT_UNCORR -/
  ⟨0x60038, [], 0x00000000, 0x0, 0x0, 0x0, 0xffffffff, 0x0⟩, /- IST_CNT_TRANS -/
  ⟨0x6003c, [], 0x00000000, 0x0, 0x0, 0x0, 0xffffffff, 0x0⟩, /- IST_CNT_MARCH -/
  ⟨0x60040, [], 0x00000000, 0x0, 0x0, 0x0, 0x0, 0xfffffff7⟩, /- IST_REQ -/
  ⟨0x60044, [], 0x00000000, 0x0, 0x1f, 0x100, 0x0, 0x0⟩, /- IST_REQ_STAT -/
  ⟨0x60048, [], 0x00000000, 0x0, 0x0, 0x0, 0x800fff7f, 0x0⟩, /- IST_RES -/
  ⟨0x60100, [(0x4, 48)], 0x00000000, 0x0, 0xff0103ff, 0x0, 0x0, 0x0⟩, /- IST_CORE -/
  ⟨0x60200, [], 0x00000000, 0x0, 0xff03, 0x0, 0x0, 0x0⟩, /- IST_BIST_STAT -/
  ⟨0x60204, [], 0x00000000, 0x0, 0xffffffff, 0x0, 0x0, 0x0⟩, /- IST_BIST_CORE_LO -/
  ⟨0x60208, [], 0x00000000, 0x0, 0xffff, 0x0, 0x0, 0x0⟩, /- IST_BIST_CORE_HI -/
  ⟨0x6020c, [], 0x00000000, 0x0, 0x3fff03ff, 0x0, 0x0, 0x0⟩ /- IST_BIST_RES -/]


/-- The registers of the JRN tables (24_journal_memory.md R870). -/
def regTableJRN : List RegSpec := [
  ⟨0x50000, [], 0x00000000, 0x0, 0x7, 0x0, 0x0, 0x0⟩, /- JRN_STAT -/
  ⟨0x50004, [], 0x00000000, 0x0, 0x0, 0xf, 0x0, 0x0⟩, /- JRN_NSTAT -/
  ⟨0x50008, [], 0x0000000F, 0xf, 0x0, 0x0, 0x0, 0x0⟩, /- JRN_NEN -/
  ⟨0x50010, [], 0x00000000, 0x0, 0x1fff1fff, 0x0, 0x0, 0x0⟩, /- JRN_SCAN -/
  ⟨0x50014, [], 0x00000000, 0x0, 0x1fff, 0x0, 0x0, 0x0⟩, /- JRN_SCAN_ECC -/
  ⟨0x50018, [], 0x00000000, 0x0, 0xffffffff, 0x0, 0x0, 0x0⟩, /- JRN_SEQ -/
  ⟨0x50020, [], 0x00000000, 0x0, 0x0, 0x0, 0x0, 0xffff1ff7⟩, /- JRN_WCMD -/
  ⟨0x50024, [], 0x00000000, 0x0, 0xfff00f1, 0x2, 0x0, 0x0⟩, /- JRN_WSTAT -/
  ⟨0x50028, [], 0x00000000, 0x0, 0x0, 0x0, 0x0, 0xffff000f⟩, /- JRN_RCMD -/
  ⟨0x5002c, [], 0x00000000, 0x0, 0xfff00f1, 0x0, 0x0, 0x0⟩, /- JRN_RSTAT -/
  ⟨0x50030, [], 0x00000000, 0x0, 0x0, 0x0, 0x0, 0xffffffff⟩, /- JRN_SUNLK -/
  ⟨0x50200, [(0x4, 122)], 0x00000000, 0xffffffff, 0x0, 0x0, 0x0, 0x0⟩, /- JRN_STAGE -/
  ⟨0x50400, [(0x4, 128)], 0x00000000, 0x0, 0xffffffff, 0x0, 0x0, 0x0⟩ /- JRN_RBUF -/]


/-- The registers of the DGN tables (25_diagnostics_service.md R898). -/
def regTableDGN : List RegSpec := [
  ⟨0xf0000, [], 0, 0x0, 0x1f, 0x0, 0x0, 0x0⟩, /- DGN_STAT -/
  ⟨0xf0004, [], 0x00000000, 0x0, 0x0, 0xffff, 0x0, 0x0⟩, /- DGN_NSTAT -/
  ⟨0xf0008, [], 0x0000FFFF, 0xffff, 0x0, 0x0, 0x0, 0x0⟩, /- DGN_NEN -/
  ⟨0xf0010, [], 0, 0x0, 0xffffffff, 0x0, 0x0, 0x0⟩, /- DGN_UID_LO -/
  ⟨0xf0014, [], 0, 0x0, 0xffffffff, 0x0, 0x0, 0x0⟩, /- DGN_UID_HI -/
  ⟨0xf0020, [], 0x00000000, 0x0, 0x0, 0x0, 0x0, 0xff000003⟩, /- DGN_LC_CMD -/
  ⟨0xf0024, [], 0x00000000, 0xf, 0x0, 0x0, 0x0, 0x0⟩, /- DGN_FPROG_SEL -/
  ⟨0xf0028, [], 0x00000000, 0xffffffff, 0x0, 0x0, 0x0, 0x0⟩, /- DGN_FPROG_DATA -/
  ⟨0xf002c, [], 0x00000000, 0x0, 0x0, 0x0, 0x0, 0xff000000⟩, /- DGN_FPROG_CMD -/
  ⟨0xf0030, [], 0x00000000, 0x0, 0x71, 0x0, 0x0, 0x0⟩, /- DGN_FSTAT -/
  ⟨0xf0040, [], 0x00000000, 0x0, 0x0, 0x0, 0x0, 0xff000003⟩, /- DGN_UNLK_CMD -/
  ⟨0xf0044, [], 0x00000000, 0x0, 0x377, 0x0, 0x0, 0x0⟩, /- DGN_UNLK_STAT -/
  ⟨0xf0048, [], 0x00000258, 0xfff, 0x0, 0x0, 0x0, 0x0⟩, /- DGN_UNLK_TO -/
  ⟨0xf004c, [], 0x00000000, 0x0, 0xfff, 0x0, 0x0, 0x0⟩, /- DGN_UNLK_LEFT -/
  ⟨0xf0050, [(0x4, 4)], 0x00000000, 0x0, 0xffffffff, 0x0, 0x0, 0x0⟩, /- DGN_CHAL -/
  ⟨0xf0080, [(0x4, 16)], 0x00000000, 0xffffffff, 0x0, 0x0, 0x0, 0x0⟩, /- DGN_UNLK_PUB -/
  ⟨0xf00c0, [(0x4, 16)], 0x00000000, 0xffffffff, 0x0, 0x0, 0x0, 0x0⟩, /- DGN_UNLK_SIG -/
  ⟨0xf0100, [(0x4, 3)], 0x00000000, 0xffffffff, 0x0, 0x0, 0x0, 0x0⟩, /- DGN_SNAP_EN -/
  ⟨0xf0110, [], 0x00000000, 0x0, 0x1f, 0x0, 0x0, 0x0⟩, /- DGN_SNAP_STAT -/
  ⟨0xf0114, [], 0, 0x0, 0x0, 0x0, 0x0, 0xffffffff⟩, /- DGN_SNAP_POP -/
  ⟨0xf0118, [], 0x00000000, 0x0, 0x0, 0x0, 0xffffffff, 0x0⟩, /- DGN_CNT_SNAPLOST -/
  ⟨0xf0140, [(0x4, 16)], 0x00000000, 0x0, 0xffffffff, 0x0, 0x0, 0x0⟩ /- DGN_SNAP_HEAD -/]


/-- The registers of the CAN tables (25_diagnostics_service.md R898). -/
def regTableCAN : List RegSpec := [
  ⟨0xf1000, [(0x1000, 2)], 0x00000004, 0xf, 0x0, 0x0, 0x0, 0x10⟩, /- CAN_CTL -/
  ⟨0xf1004, [(0x1000, 2)], 0x03030E07, 0x7f7fffff, 0x0, 0x0, 0x0, 0x0⟩, /- CAN_BT_NOM -/
  ⟨0xf1008, [(0x1000, 2)], 0x03040D01, 0xf0f1f1f, 0x0, 0x0, 0x0, 0x0⟩, /- CAN_BT_DATA -/
  ⟨0xf100c, [(0x1000, 2)], 0x0000010F, 0x17f, 0x0, 0x0, 0x0, 0x0⟩, /- CAN_TDC -/
  ⟨0xf1010, [(0x1000, 2)], 0x00000003, 0x0, 0xffff07, 0x0, 0x0, 0x0⟩, /- CAN_STAT -/
  ⟨0xf1014, [(0x1000, 2)], 0, 0x0, 0x0, 0x0, 0x0, 0xffff⟩, /- CAN_TXREQ -/
  ⟨0xf1018, [(0x1000, 2)], 0x00000000, 0x0, 0xffff, 0x0, 0x0, 0x0⟩, /- CAN_TXPEND -/
  ⟨0xf101c, [(0x1000, 2)], 0, 0x0, 0x0, 0x0, 0x0, 0xffff⟩, /- CAN_TXABORT -/
  ⟨0xf1020, [(0x1000, 2)], 0x00000000, 0x0, 0x0, 0xffff, 0x0, 0x0⟩, /- CAN_TXDONE -/
  ⟨0xf1024, [(0x1000, 2)], 0x00000000, 0x0, 0x7f, 0x0, 0x0, 0x0⟩, /- CAN_RXCNT -/
  ⟨0xf1028, [(0x1000, 2)], 0, 0x0, 0x0, 0x0, 0x0, 0xffffffff⟩, /- CAN_RXPOP -/
  ⟨0xf102c, [(0x1000, 2)], 0x00000000, 0x0, 0x0, 0x0, 0xffffffff, 0x0⟩, /- CAN_CNT_RXLOST -/
  ⟨0xf1100, [(0x1000, 2), (0x4, 32)], 0x00000000, 0xbfffffff, 0x0, 0x0, 0x0, 0x0⟩, /- CAN_FLT_ID -/
  ⟨0xf1180, [(0x1000, 2), (0x4, 32)], 0x00000000, 0x1fffffff, 0x0, 0x0, 0x0, 0x0⟩, /- CAN_FLT_MASK -/
  ⟨0xf1200, [(0x1000, 2), (0x4, 20)], 0x00000000, 0x0, 0xffffffff, 0x0, 0x0, 0x0⟩, /- CAN_RXHEAD -/
  ⟨0xf1400, [(0x1000, 2), (0x48, 16), (0x4, 18)], 0x00000000, 0xffffffff, 0x0, 0x0, 0x0, 0x0⟩ /- CAN_TXBUF -/]


end Sys2Proof.Machine
end

