-- ==== Sys2Proof/Machine/Regs.lean ====
section
/-!
DEFINITION. The register map: the BAR0 offset of every register and the place of every field, as the register
and field tables of spec/ give them, each array as a function of its indices.
-/
namespace Sys2Proof.Machine.R

/-! Registers of 03_islands_and_weft.md R112 (fields: R113). -/

abbrev CLK_STAT : Nat := 0x20000
abbrev CLK_STAT_REFCLK_OK : Fld := ⟨CLK_STAT, 0, 1⟩
abbrev CLK_STAT_AUDPLL_LOCK : Fld := ⟨CLK_STAT, 1, 1⟩
abbrev CLK_STAT_PRTPLL_LOCK : Fld := ⟨CLK_STAT, 2, 1⟩
abbrev CLK_STAT_HIFPLL_LOCK : Fld := ⟨CLK_STAT, 3, 1⟩
abbrev CLK_STAT_PLYPLL_LOCK : Fld := ⟨CLK_STAT, 4, 1⟩
abbrev CLK_NSTAT : Nat := 0x20004
abbrev CLK_NSTAT_OSC_STOP : Fld := ⟨CLK_NSTAT, 0, 1⟩
abbrev CLK_NSTAT_REFCLK_LOSS : Fld := ⟨CLK_NSTAT, 1, 1⟩
abbrev CLK_NSTAT_REFCLK_FREQ : Fld := ⟨CLK_NSTAT, 2, 1⟩
abbrev CLK_NSTAT_PLL_UNLOCK : Fld := ⟨CLK_NSTAT, 3, 1⟩
abbrev CLK_NSTAT_SLOW : Fld := ⟨CLK_NSTAT, 4, 1⟩
abbrev CLK_NSTAT_TSTATE : Fld := ⟨CLK_NSTAT, 5, 1⟩
abbrev CLK_NSTAT_TSTEP : Fld := ⟨CLK_NSTAT, 6, 1⟩
abbrev CLK_NEN : Nat := 0x20008
abbrev CLK_NEN_OSC_STOP : Fld := ⟨CLK_NEN, 0, 1⟩
abbrev CLK_NEN_REFCLK_LOSS : Fld := ⟨CLK_NEN, 1, 1⟩
abbrev CLK_NEN_REFCLK_FREQ : Fld := ⟨CLK_NEN, 2, 1⟩
abbrev CLK_NEN_PLL_UNLOCK : Fld := ⟨CLK_NEN, 3, 1⟩
abbrev CLK_NEN_SLOW : Fld := ⟨CLK_NEN, 4, 1⟩
abbrev CLK_NEN_TSTATE : Fld := ⟨CLK_NEN, 5, 1⟩
abbrev CLK_NEN_TSTEP : Fld := ⟨CLK_NEN, 6, 1⟩
abbrev CLK_TNOW_LO : Nat := 0x20010
abbrev CLK_TNOW_HI : Nat := 0x20014
abbrev CLK_TSTEP_LO : Nat := 0x20018
abbrev CLK_TSTEP_HI : Nat := 0x2001c
abbrev CLK_TRATE : Nat := 0x20020
abbrev CLK_TSLEW : Nat := 0x20024
abbrev CLK_TSTAT : Nat := 0x20028
abbrev CLK_TSTAT_STATE : Fld := ⟨CLK_TSTAT, 0, 2⟩
abbrev CLK_HOLD_TO : Nat := 0x2002c
abbrev CLK_HOLD_TO_MS : Fld := ⟨CLK_HOLD_TO, 0, 16⟩
abbrev CLK_SLOW_THR : Nat := 0x20030
abbrev CLK_SLOW_THR_MHZ : Fld := ⟨CLK_SLOW_THR, 0, 11⟩
abbrev CLK_CAP : Nat := 0x20034
abbrev CLK_CAP_WHL_MHZ : Fld := ⟨CLK_CAP, 0, 11⟩
abbrev CLK_CAP_SVC_MHZ : Fld := ⟨CLK_CAP, 11, 11⟩
abbrev CLK_CAP_MQY_MHZ : Fld := ⟨CLK_CAP, 22, 10⟩
abbrev CLK_WEFT_CORR : Nat := 0x20040
abbrev CLK_WEFT_RETRY : Nat := 0x20044
abbrev CLK_WEFT_STAT : Nat := 0x20048
abbrev CLK_WEFT_STAT_RETIRED : Fld := ⟨CLK_WEFT_STAT, 0, 8⟩
abbrev CLK_WEFT_STAT_PARTITION : Fld := ⟨CLK_WEFT_STAT, 8, 1⟩
abbrev CLK_ISL (i : Nat) : Nat := 0x20100 + 4 * i
abbrev CLK_ISL_FREQ (i : Nat) : Fld := ⟨CLK_ISL i, 0, 12⟩
abbrev CLK_ISL_SRC (i : Nat) : Fld := ⟨CLK_ISL i, 12, 2⟩
abbrev CLK_ISL_ON (i : Nat) : Fld := ⟨CLK_ISL i, 14, 1⟩
abbrev CLK_ISL_SLOW (i : Nat) : Fld := ⟨CLK_ISL i, 15, 1⟩
abbrev CLK_ISL_STOP (i : Nat) : Fld := ⟨CLK_ISL i, 16, 1⟩
abbrev CLK_ISL_TLOST (i : Nat) : Fld := ⟨CLK_ISL i, 17, 1⟩
abbrev CLK_ISL_ROW (i : Nat) : Fld := ⟨CLK_ISL i, 20, 3⟩
abbrev CLK_ISL_COL (i : Nat) : Fld := ⟨CLK_ISL i, 24, 4⟩
abbrev CLK_LINK (k : Nat) : Nat := 0x20400 + 4 * k
abbrev CLK_LINK_STATE (k : Nat) : Fld := ⟨CLK_LINK k, 0, 2⟩
abbrev CLK_LINK_RETRIES (k : Nat) : Fld := ⟨CLK_LINK k, 8, 8⟩

/-! Registers of 04_staged_start.md R163 (fields: R164). -/

abbrev SYS_ID : Nat := 0x0
abbrev SYS_ID_PART : Fld := ⟨SYS_ID, 0, 16⟩
abbrev SYS_ID_VENDOR : Fld := ⟨SYS_ID, 16, 16⟩
abbrev SYS_REV : Nat := 0x4
abbrev SYS_REV_REV : Fld := ⟨SYS_REV, 0, 8⟩
abbrev SYS_CAPS : Nat := 0x8
abbrev SYS_CAPS_CORES : Fld := ⟨SYS_CAPS, 0, 8⟩
abbrev SYS_CAPS_PANELS : Fld := ⟨SYS_CAPS, 8, 4⟩
abbrev SYS_CAPS_CHANNELS : Fld := ⟨SYS_CAPS, 16, 8⟩
abbrev SYS_STRAP : Nat := 0x10
abbrev SYS_STRAP_BOOT : Fld := ⟨SYS_STRAP, 0, 3⟩
abbrev SYS_STRAP_PLYROLE : Fld := ⟨SYS_STRAP, 4, 2⟩
abbrev SYS_STRAP_SVCEN : Fld := ⟨SYS_STRAP, 8, 1⟩
abbrev SYS_STRAP_BAD : Fld := ⟨SYS_STRAP, 12, 1⟩
abbrev SYS_RSTCAUSE : Nat := 0x14
abbrev SYS_RSTCAUSE_POR : Fld := ⟨SYS_RSTCAUSE, 0, 1⟩
abbrev SYS_RSTCAUSE_PORN : Fld := ⟨SYS_RSTCAUSE, 1, 1⟩
abbrev SYS_RSTCAUSE_BOR : Fld := ⟨SYS_RSTCAUSE, 2, 1⟩
abbrev SYS_RSTCAUSE_HOST : Fld := ⟨SYS_RSTCAUSE, 3, 1⟩
abbrev SYS_RSTCAUSE_DBG : Fld := ⟨SYS_RSTCAUSE, 4, 1⟩
abbrev SYS_NSTAT : Nat := 0x18
abbrev SYS_NSTAT_STAGE : Fld := ⟨SYS_NSTAT, 0, 1⟩
abbrev SYS_NSTAT_LOADFAIL : Fld := ⟨SYS_NSTAT, 1, 1⟩
abbrev SYS_NSTAT_UNCLAMP : Fld := ⟨SYS_NSTAT, 2, 1⟩
abbrev SYS_NSTAT_HANDOVER : Fld := ⟨SYS_NSTAT, 3, 1⟩
abbrev SYS_NSTAT_CMDERR : Fld := ⟨SYS_NSTAT, 4, 1⟩
abbrev SYS_NEN : Nat := 0x1c
abbrev SYS_NEN_STAGE : Fld := ⟨SYS_NEN, 0, 1⟩
abbrev SYS_NEN_LOADFAIL : Fld := ⟨SYS_NEN, 1, 1⟩
abbrev SYS_NEN_UNCLAMP : Fld := ⟨SYS_NEN, 2, 1⟩
abbrev SYS_NEN_HANDOVER : Fld := ⟨SYS_NEN, 3, 1⟩
abbrev SYS_NEN_CMDERR : Fld := ⟨SYS_NEN, 4, 1⟩
abbrev SYS_STAGE : Nat := 0x20
abbrev SYS_STAGE_STAGE : Fld := ⟨SYS_STAGE, 0, 2⟩
abbrev SYS_STAGE_LOADING : Fld := ⟨SYS_STAGE, 2, 1⟩
abbrev SYS_STAGE_FALLBACK : Fld := ⟨SYS_STAGE, 3, 1⟩
abbrev SYS_STAGE_SREC : Fld := ⟨SYS_STAGE, 4, 1⟩
abbrev SYS_STAGE_HOPEND : Fld := ⟨SYS_STAGE, 5, 1⟩
abbrev SYS_STAGE_CMDERR : Fld := ⟨SYS_STAGE, 8, 4⟩
abbrev SYS_STAGE_CMD : Nat := 0x24
abbrev SYS_STAGE_CMD_CMD : Fld := ⟨SYS_STAGE_CMD, 0, 2⟩
abbrev SYS_STAGE_CMD_SRC : Fld := ⟨SYS_STAGE_CMD, 4, 1⟩
abbrev SYS_STAGE_CMD_FORCE : Fld := ⟨SYS_STAGE_CMD, 5, 1⟩
abbrev SYS_UNCLAMP : Nat := 0x28
abbrev SYS_UNCLAMP_STEP : Fld := ⟨SYS_UNCLAMP, 0, 2⟩
abbrev SYS_UNCLAMP_DONE : Fld := ⟨SYS_UNCLAMP, 4, 3⟩
abbrev SYS_TSTAGE1 : Nat := 0x30
abbrev SYS_TSTAGE1_T : Fld := ⟨SYS_TSTAGE1, 0, 32⟩
abbrev SYS_TSTAGE2 : Nat := 0x34
abbrev SYS_TSTAGE2_T : Fld := ⟨SYS_TSTAGE2, 0, 32⟩
abbrev SYS_TSTAGE3 : Nat := 0x38
abbrev SYS_TSTAGE3_T : Fld := ⟨SYS_TSTAGE3, 0, 32⟩

/-! Registers of 05_power_states.md R190 (fields: R191). -/

abbrev SYS_PSTATE : Nat := 0x40
abbrev SYS_PSTATE_STATE : Fld := ⟨SYS_PSTATE, 0, 3⟩
abbrev SYS_PSTATE_TRANS : Fld := ⟨SYS_PSTATE, 3, 1⟩
abbrev SYS_PSTATE_TARGET : Fld := ⟨SYS_PSTATE, 4, 3⟩
abbrev SYS_PSTATE_PCMDERR : Fld := ⟨SYS_PSTATE, 8, 4⟩
abbrev SYS_PSTATE_CMD : Nat := 0x44
abbrev SYS_PSTATE_CMD_CMD : Fld := ⟨SYS_PSTATE_CMD, 0, 3⟩
abbrev SYS_PSTATE_CMD_SRC : Fld := ⟨SYS_PSTATE_CMD, 4, 1⟩
abbrev SYS_PSTATE_CMD_KEY : Fld := ⟨SYS_PSTATE_CMD, 24, 8⟩
abbrev SYS_PNSTAT : Nat := 0x48
abbrev SYS_PNSTAT_DONE : Fld := ⟨SYS_PNSTAT, 0, 1⟩
abbrev SYS_PNSTAT_REFUSED : Fld := ⟨SYS_PNSTAT, 1, 1⟩
abbrev SYS_PNEN : Nat := 0x4c
abbrev SYS_PNEN_DONE : Fld := ⟨SYS_PNEN, 0, 1⟩
abbrev SYS_PNEN_REFUSED : Fld := ⟨SYS_PNEN, 1, 1⟩
abbrev SYS_HALT : Nat := 0x50
abbrev SYS_HALT_HALTED : Fld := ⟨SYS_HALT, 0, 1⟩
abbrev SYS_HALT_QP : Fld := ⟨SYS_HALT, 16, 10⟩
abbrev SYS_WAKE : Nat := 0x54
abbrev SYS_WAKE_CAN : Fld := ⟨SYS_WAKE, 0, 1⟩
abbrev SYS_NETCORE_LO : Nat := 0x58
abbrev SYS_NETCORE_LO_MASK : Fld := ⟨SYS_NETCORE_LO, 0, 32⟩
abbrev SYS_NETCORE_HI : Nat := 0x5c
abbrev SYS_NETCORE_HI_MASK : Fld := ⟨SYS_NETCORE_HI, 0, 16⟩

/-! Registers of 06_veneer_image.md R235 (fields: R236). -/

abbrev VNR_STAT : Nat := 0x40000
abbrev VNR_STAT_LOADED : Fld := ⟨VNR_STAT, 0, 1⟩
abbrev VNR_STAT_PATCHED : Fld := ⟨VNR_STAT, 1, 1⟩
abbrev VNR_NSTAT : Nat := 0x40004
abbrev VNR_NSTAT_PATCH : Fld := ⟨VNR_NSTAT, 0, 1⟩
abbrev VNR_NSTAT_PANEL : Fld := ⟨VNR_NSTAT, 1, 1⟩
abbrev VNR_NEN : Nat := 0x40008
abbrev VNR_NEN_PATCH : Fld := ⟨VNR_NEN, 0, 1⟩
abbrev VNR_NEN_PANEL : Fld := ⟨VNR_NEN, 1, 1⟩
abbrev VNR_IMG_VER : Nat := 0x40010
abbrev VNR_ROLL : Nat := 0x40014
abbrev VNR_ROLL_IMAGE : Fld := ⟨VNR_ROLL, 0, 8⟩
abbrev VNR_ROLL_FUSE : Fld := ⟨VNR_ROLL, 8, 8⟩
abbrev VNR_DIGEST (i : Nat) : Nat := 0x40020 + 4 * i
abbrev VNR_KEYHASH (i : Nat) : Nat := 0x40040 + 4 * i
abbrev VNR_ROLL_CMD : Nat := 0x40060
abbrev VNR_ROLL_CMD_TARGET : Fld := ⟨VNR_ROLL_CMD, 0, 8⟩
abbrev VNR_ROLL_CMD_KEY : Fld := ⟨VNR_ROLL_CMD, 24, 8⟩
abbrev VNR_ROLL_STAT : Nat := 0x40064
abbrev VNR_ROLL_STAT_BUSY : Fld := ⟨VNR_ROLL_STAT, 0, 1⟩
abbrev VNR_ROLL_STAT_ERR : Fld := ⟨VNR_ROLL_STAT, 4, 2⟩
abbrev VNR_PATCH_CMD : Nat := 0x40080
abbrev VNR_PATCH_CMD_CMD : Fld := ⟨VNR_PATCH_CMD, 0, 2⟩
abbrev VNR_PATCH_CMD_SRC : Fld := ⟨VNR_PATCH_CMD, 4, 1⟩
abbrev VNR_PATCH_CMD_KEY : Fld := ⟨VNR_PATCH_CMD, 24, 8⟩
abbrev VNR_PATCH_FOFS : Nat := 0x40084
abbrev VNR_PATCH_STAT : Nat := 0x40088
abbrev VNR_PATCH_STAT_BUSY : Fld := ⟨VNR_PATCH_STAT, 0, 1⟩
abbrev VNR_PATCH_STAT_KIND : Fld := ⟨VNR_PATCH_STAT, 1, 1⟩
abbrev VNR_PATCH_STAT_TARGET : Fld := ⟨VNR_PATCH_STAT, 2, 6⟩
abbrev VNR_PATCH_STAT_ERR : Fld := ⟨VNR_PATCH_STAT, 8, 4⟩
abbrev VNR_PANEL_STAT (p : Nat) : Nat := 0x400a0 + 4 * p
abbrev VNR_PANEL_STAT_STATE (p : Nat) : Fld := ⟨VNR_PANEL_STAT p, 0, 2⟩
abbrev VNR_PANEL_STAT_RSV_LOST (p : Nat) : Fld := ⟨VNR_PANEL_STAT p, 2, 1⟩
abbrev VNR_PANEL_STAT_REWRITES (p : Nat) : Fld := ⟨VNR_PANEL_STAT p, 8, 8⟩
abbrev VNR_PANEL_CRC (p : Nat) : Nat := 0x400c0 + 4 * p
abbrev VNR_PANEL_CRC_CRC (p : Nat) : Fld := ⟨VNR_PANEL_CRC p, 0, 32⟩
abbrev VNR_PUSH_STAT : Nat := 0x40100
abbrev VNR_PUSH_STAT_COUNT : Fld := ⟨VNR_PUSH_STAT, 0, 25⟩
abbrev VNR_KEYPROG (i : Nat) : Nat := 0x40200 + 4 * i
abbrev VNR_KEYPROG_CMD : Nat := 0x40220
abbrev VNR_KEYPROG_STAT : Nat := 0x40224
abbrev VNR_KEYPROG_STAT_BUSY : Fld := ⟨VNR_KEYPROG_STAT, 0, 1⟩
abbrev VNR_KEYPROG_STAT_DONE : Fld := ⟨VNR_KEYPROG_STAT, 1, 1⟩
abbrev VNR_KEYPROG_STAT_ERR : Fld := ⟨VNR_KEYPROG_STAT, 4, 2⟩
abbrev VNR_PUSH (w : Nat) : Nat := 0x41000 + 4 * w

/-! Registers of 07_marquetry_fabric.md R285 (fields: R285, R286). -/

abbrev MQY_STAT (p : Nat) : Nat := 0x1000000 + 0x100000 * p
abbrev MQY_STAT_OUT_HELD (p : Nat) : Fld := ⟨MQY_STAT p, 0, 1⟩
abbrev MQY_STAT_WE_HELD (p : Nat) : Fld := ⟨MQY_STAT p, 1, 1⟩
abbrev MQY_STAT_RST_HELD (p : Nat) : Fld := ⟨MQY_STAT p, 2, 1⟩
abbrev MQY_STAT_SRC (p : Nat) : Fld := ⟨MQY_STAT p, 3, 1⟩
abbrev MQY_STAT_DIV (p : Nat) : Fld := ⟨MQY_STAT p, 4, 2⟩
abbrev MQY_STAT_EMPTY (p : Nat) : Fld := ⟨MQY_STAT p, 6, 1⟩
abbrev MQY_NSTAT (p : Nat) : Nat := 0x1000004 + 0x100000 * p
abbrev MQY_NSTAT_READBACK (p : Nat) : Fld := ⟨MQY_NSTAT p, 0, 1⟩
abbrev MQY_NSTAT_ECC2 (p : Nat) : Fld := ⟨MQY_NSTAT p, 1, 1⟩
abbrev MQY_NSTAT_BUSY (p : Nat) : Fld := ⟨MQY_NSTAT p, 2, 1⟩
abbrev MQY_NSTAT_TIMEOUT (p : Nat) : Fld := ⟨MQY_NSTAT p, 3, 1⟩
abbrev MQY_NSTAT_CLAIM (p : Nat) : Fld := ⟨MQY_NSTAT p, 4, 1⟩
abbrev MQY_NSTAT_USER (p : Nat) : Fld := ⟨MQY_NSTAT p, 5, 1⟩
abbrev MQY_NEN (p : Nat) : Nat := 0x1000008 + 0x100000 * p
abbrev MQY_NEN_READBACK (p : Nat) : Fld := ⟨MQY_NEN p, 0, 1⟩
abbrev MQY_NEN_ECC2 (p : Nat) : Fld := ⟨MQY_NEN p, 1, 1⟩
abbrev MQY_NEN_BUSY (p : Nat) : Fld := ⟨MQY_NEN p, 2, 1⟩
abbrev MQY_NEN_TIMEOUT (p : Nat) : Fld := ⟨MQY_NEN p, 3, 1⟩
abbrev MQY_NEN_CLAIM (p : Nat) : Fld := ⟨MQY_NEN p, 4, 1⟩
abbrev MQY_NEN_USER (p : Nat) : Fld := ⟨MQY_NEN p, 5, 1⟩
abbrev MQY_UIO_OWN_LO (p : Nat) : Nat := 0x1000010 + 0x100000 * p
abbrev MQY_UIO_OWN_HI (p : Nat) : Nat := 0x1000014 + 0x100000 * p
abbrev MQY_UIO_OWN_HI_OWN (p : Nat) : Fld := ⟨MQY_UIO_OWN_HI p, 0, 8⟩
abbrev MQY_UIO_IN_LO (p : Nat) : Nat := 0x1000018 + 0x100000 * p
abbrev MQY_UIO_IN_HI (p : Nat) : Nat := 0x100001c + 0x100000 * p
abbrev MQY_UIO_IN_HI_IN (p : Nat) : Fld := ⟨MQY_UIO_IN_HI p, 0, 8⟩
abbrev MQY_BUSY_CNT (p : Nat) : Nat := 0x1000020 + 0x100000 * p
abbrev MQY_TMO_CNT (p : Nat) : Nat := 0x1000024 + 0x100000 * p
abbrev MQY_DROP_CNT (p : Nat) : Nat := 0x1000028 + 0x100000 * p
abbrev MQY_ECC_CNT (p : Nat) : Nat := 0x100002c + 0x100000 * p
abbrev MQY_ECC_ADDR (p : Nat) : Nat := 0x1000030 + 0x100000 * p
abbrev MQY_ECC_ADDR_ADDR (p : Nat) : Fld := ⟨MQY_ECC_ADDR p, 0, 16⟩
abbrev MQY_ECC_ADDR_VALID (p : Nat) : Fld := ⟨MQY_ECC_ADDR p, 31, 1⟩
abbrev MQY_PORT (p k : Nat) : Nat := 0x1000040 + 0x100000 * p + 4 * k
abbrev MQY_PORT_TGT_EN (p k : Nat) : Fld := ⟨MQY_PORT p k, 0, 1⟩
abbrev MQY_PORT_INI_EN (p k : Nat) : Fld := ⟨MQY_PORT p k, 1, 1⟩
abbrev MQY_PORT_FAILFAST (p k : Nat) : Fld := ⟨MQY_PORT p k, 2, 1⟩
abbrev MQY_PORT_QUEUED (p k : Nat) : Fld := ⟨MQY_PORT p k, 8, 5⟩
abbrev MQY_PORT_OUTSTANDING (p k : Nat) : Fld := ⟨MQY_PORT p k, 16, 5⟩
abbrev MQY_BRAM_WIN (p : Nat) : Nat := 0x1000050 + 0x100000 * p

/-! Registers of 08_ports_and_tsn.md R325 (fields: R325, R326). -/

abbrev PRT_NSTAT : Nat := 0x100000
abbrev PRT_NSTAT_LINK : Fld := ⟨PRT_NSTAT, 0, 1⟩
abbrev PRT_NSTAT_TXTS : Fld := ⟨PRT_NSTAT, 1, 1⟩
abbrev PRT_NSTAT_FLUSH : Fld := ⟨PRT_NSTAT, 2, 1⟩
abbrev PRT_NSTAT_DROP : Fld := ⟨PRT_NSTAT, 3, 1⟩
abbrev PRT_NSTAT_TAS : Fld := ⟨PRT_NSTAT, 4, 1⟩
abbrev PRT_NSTAT_PSFP : Fld := ⟨PRT_NSTAT, 5, 1⟩
abbrev PRT_NSTAT_CB : Fld := ⟨PRT_NSTAT, 6, 1⟩
abbrev PRT_NSTAT_MDIO : Fld := ⟨PRT_NSTAT, 7, 1⟩
abbrev PRT_NEN : Nat := 0x100004
abbrev PRT_NEN_LINK : Fld := ⟨PRT_NEN, 0, 1⟩
abbrev PRT_NEN_TXTS : Fld := ⟨PRT_NEN, 1, 1⟩
abbrev PRT_NEN_FLUSH : Fld := ⟨PRT_NEN, 2, 1⟩
abbrev PRT_NEN_DROP : Fld := ⟨PRT_NEN, 3, 1⟩
abbrev PRT_NEN_TAS : Fld := ⟨PRT_NEN, 4, 1⟩
abbrev PRT_NEN_PSFP : Fld := ⟨PRT_NEN, 5, 1⟩
abbrev PRT_NEN_CB : Fld := ⟨PRT_NEN, 6, 1⟩
abbrev PRT_NEN_MDIO : Fld := ⟨PRT_NEN, 7, 1⟩
abbrev PRT_MDIO_CMD : Nat := 0x100010
abbrev PRT_MDIO_CMD_OP : Fld := ⟨PRT_MDIO_CMD, 0, 3⟩
abbrev PRT_MDIO_CMD_PHYAD : Fld := ⟨PRT_MDIO_CMD, 3, 5⟩
abbrev PRT_MDIO_CMD_REG : Fld := ⟨PRT_MDIO_CMD, 8, 5⟩
abbrev PRT_MDIO_CMD_BUSY : Fld := ⟨PRT_MDIO_CMD, 31, 1⟩
abbrev PRT_MDIO_DATA : Nat := 0x100014
abbrev PRT_MDIO_CFG : Nat := 0x100018
abbrev PRT_MDIO_CFG_DIV : Fld := ⟨PRT_MDIO_CFG, 0, 8⟩
abbrev PRT_MDIO_CFG_LOST : Fld := ⟨PRT_MDIO_CFG, 8, 1⟩
abbrev PRT_HOLD : Nat := 0x100020
abbrev PRT_HOLD_US : Fld := ⟨PRT_HOLD, 0, 14⟩
abbrev PRT_CFG (p : Nat) : Nat := 0x110000 + 0x10000 * p
abbrev PRT_CFG_EN (p : Nat) : Fld := ⟨PRT_CFG p, 0, 1⟩
abbrev PRT_CFG_SPEED (p : Nat) : Fld := ⟨PRT_CFG p, 1, 3⟩
abbrev PRT_CFG_MAXFRM (p : Nat) : Fld := ⟨PRT_CFG p, 16, 14⟩
abbrev PRT_STAT (p : Nat) : Nat := 0x110004 + 0x10000 * p
abbrev PRT_STAT_LINK (p : Nat) : Fld := ⟨PRT_STAT p, 0, 1⟩
abbrev PRT_STAT_SPEED (p : Nat) : Fld := ⟨PRT_STAT p, 1, 3⟩
abbrev PRT_STAT_BADMODE (p : Nat) : Fld := ⟨PRT_STAT p, 4, 1⟩
abbrev PRT_VLAN (p : Nat) : Nat := 0x110008 + 0x10000 * p
abbrev PRT_VLAN_PVID (p : Nat) : Fld := ⟨PRT_VLAN p, 0, 12⟩
abbrev PRT_VLAN_PCP (p : Nat) : Fld := ⟨PRT_VLAN p, 12, 3⟩
abbrev PRT_VLAN_ACCEPT (p : Nat) : Fld := ⟨PRT_VLAN p, 16, 2⟩
abbrev PRT_VLAN_IFILT (p : Nat) : Fld := ⟨PRT_VLAN p, 18, 1⟩
abbrev PRT_EQ_LIM (p : Nat) : Nat := 0x11000c + 0x10000 * p
abbrev PRT_EQ_LIM_TOTAL (p : Nat) : Fld := ⟨PRT_EQ_LIM p, 0, 10⟩
abbrev PRT_EQ_LIM_PERQ (p : Nat) : Fld := ⟨PRT_EQ_LIM p, 16, 7⟩
abbrev PRT_TS_ADJ (p : Nat) : Nat := 0x110010 + 0x10000 * p
abbrev PRT_TS_ADJ_ING (p : Nat) : Fld := ⟨PRT_TS_ADJ p, 0, 16⟩
abbrev PRT_TS_ADJ_EGR (p : Nat) : Fld := ⟨PRT_TS_ADJ p, 16, 16⟩
abbrev PRT_TXTS_STAT (p : Nat) : Nat := 0x110014 + 0x10000 * p
abbrev PRT_TXTS_STAT_COUNT (p : Nat) : Fld := ⟨PRT_TXTS_STAT p, 0, 5⟩
abbrev PRT_TXTS_STAT_OVF (p : Nat) : Fld := ⟨PRT_TXTS_STAT p, 8, 1⟩
abbrev PRT_TXTS_TAG (p : Nat) : Nat := 0x110018 + 0x10000 * p
abbrev PRT_TXTS_TAG_TAG (p : Nat) : Fld := ⟨PRT_TXTS_TAG p, 0, 16⟩
abbrev PRT_TXTS_TAG_VALID (p : Nat) : Fld := ⟨PRT_TXTS_TAG p, 31, 1⟩
abbrev PRT_TXTS_LO (p : Nat) : Nat := 0x11001c + 0x10000 * p
abbrev PRT_TXTS_HI (p : Nat) : Nat := 0x110020 + 0x10000 * p
abbrev PRT_CBS_SLOPE (p c : Nat) : Nat := 0x110040 + 0x10000 * p + 4 * c
abbrev PRT_CBS_SLOPE_SLOPE (p c : Nat) : Fld := ⟨PRT_CBS_SLOPE p c, 0, 24⟩
abbrev PRT_CBS_HI (p c : Nat) : Nat := 0x110060 + 0x10000 * p + 4 * c
abbrev PRT_CBS_LO (p c : Nat) : Nat := 0x110080 + 0x10000 * p + 4 * c
abbrev PRT_CBS_EN (p : Nat) : Nat := 0x1100a0 + 0x10000 * p
abbrev PRT_CBS_EN_EN (p : Nat) : Fld := ⟨PRT_CBS_EN p, 0, 8⟩
abbrev PRT_TAS_CTL (p : Nat) : Nat := 0x110100 + 0x10000 * p
abbrev PRT_TAS_CTL_EN (p : Nat) : Fld := ⟨PRT_TAS_CTL p, 0, 1⟩
abbrev PRT_TAS_CTL_CHANGE (p : Nat) : Fld := ⟨PRT_TAS_CTL p, 1, 1⟩
abbrev PRT_TAS_STAT (p : Nat) : Nat := 0x110104 + 0x10000 * p
abbrev PRT_TAS_STAT_PENDING (p : Nat) : Fld := ⟨PRT_TAS_STAT p, 0, 1⟩
abbrev PRT_TAS_STAT_ENTRY (p : Nat) : Fld := ⟨PRT_TAS_STAT p, 8, 8⟩
abbrev PRT_TAS_BASE_LO (p : Nat) : Nat := 0x110108 + 0x10000 * p
abbrev PRT_TAS_BASE_HI (p : Nat) : Nat := 0x11010c + 0x10000 * p
abbrev PRT_TAS_CYCLE (p : Nat) : Nat := 0x110110 + 0x10000 * p
abbrev PRT_TAS_EXT (p : Nat) : Nat := 0x110114 + 0x10000 * p
abbrev PRT_TAS_LEN (p : Nat) : Nat := 0x110118 + 0x10000 * p
abbrev PRT_TAS_CCT_LO (p : Nat) : Nat := 0x110120 + 0x10000 * p
abbrev PRT_TAS_CCT_HI (p : Nat) : Nat := 0x110124 + 0x10000 * p
abbrev PRT_FP_CTL (p : Nat) : Nat := 0x110200 + 0x10000 * p
abbrev PRT_FP_CTL_EN (p : Nat) : Fld := ⟨PRT_FP_CTL p, 0, 1⟩
abbrev PRT_FP_CTL_NOVERIFY (p : Nat) : Fld := ⟨PRT_FP_CTL p, 1, 1⟩
abbrev PRT_FP_CTL_ADDFRAG (p : Nat) : Fld := ⟨PRT_FP_CTL p, 4, 2⟩
abbrev PRT_FP_CTL_PMASK (p : Nat) : Fld := ⟨PRT_FP_CTL p, 8, 8⟩
abbrev PRT_FP_STAT (p : Nat) : Nat := 0x110204 + 0x10000 * p
abbrev PRT_FP_STAT_VERIFY (p : Nat) : Fld := ⟨PRT_FP_STAT p, 0, 2⟩
abbrev PRT_PLCA_CTL (p : Nat) : Nat := 0x110300 + 0x10000 * p
abbrev PRT_PLCA_CTL_NODEID (p : Nat) : Fld := ⟨PRT_PLCA_CTL p, 0, 8⟩
abbrev PRT_PLCA_CTL_NCOUNT (p : Nat) : Fld := ⟨PRT_PLCA_CTL p, 8, 8⟩
abbrev PRT_PLCA_CTL_BURST (p : Nat) : Fld := ⟨PRT_PLCA_CTL p, 16, 8⟩
abbrev PRT_PLCA_CTL_BTMR (p : Nat) : Fld := ⟨PRT_PLCA_CTL p, 24, 8⟩
abbrev PRT_PLCA_STAT (p : Nat) : Nat := 0x110304 + 0x10000 * p
abbrev PRT_PLCA_STAT_BEACON (p : Nat) : Fld := ⟨PRT_PLCA_STAT p, 0, 1⟩
abbrev PRT_PLCA_TOT (p : Nat) : Nat := 0x110308 + 0x10000 * p
abbrev PRT_PLCA_TOT_TOTMR (p : Nat) : Fld := ⟨PRT_PLCA_TOT p, 0, 8⟩
abbrev PRT_CNT_RXERR (p : Nat) : Nat := 0x110400 + 0x10000 * p
abbrev PRT_CNT_PAUSE (p : Nat) : Nat := 0x110404 + 0x10000 * p
abbrev PRT_CNT_OVF (p : Nat) : Nat := 0x110408 + 0x10000 * p
abbrev PRT_CNT_NOBUF (p : Nat) : Nat := 0x11040c + 0x10000 * p
abbrev PRT_CNT_VLAN (p : Nat) : Nat := 0x110410 + 0x10000 * p
abbrev PRT_CNT_RULE (p : Nat) : Nat := 0x110414 + 0x10000 * p
abbrev PRT_CNT_PSFP (p : Nat) : Nat := 0x110418 + 0x10000 * p
abbrev PRT_CNT_DUP (p : Nat) : Nat := 0x11041c + 0x10000 * p
abbrev PRT_CNT_HOLD (p : Nat) : Nat := 0x110420 + 0x10000 * p
abbrev PRT_CNT_LDROP (p : Nat) : Nat := 0x110424 + 0x10000 * p
abbrev PRT_CNT_TXERR (p : Nat) : Nat := 0x110428 + 0x10000 * p
abbrev PRT_CNT_FLUSH (p : Nat) : Nat := 0x11042c + 0x10000 * p
abbrev PRT_GCL_ADMIN (p i : Nat) : Nat := 0x111000 + 0x10000 * p + 8 * i
abbrev PRT_GCL_OPER (p i : Nat) : Nat := 0x112000 + 0x10000 * p + 8 * i

/-! Registers of 09_parser_classifier.md R362 (fields: R362, R363). -/

abbrev PRS_NSTAT : Nat := 0x200000
abbrev PRS_NSTAT_RULE : Fld := ⟨PRS_NSTAT, 0, 1⟩
abbrev PRS_NSTAT_LOST : Fld := ⟨PRS_NSTAT, 1, 1⟩
abbrev PRS_NSTAT_TRUNC : Fld := ⟨PRS_NSTAT, 2, 1⟩
abbrev PRS_NSTAT_BAD : Fld := ⟨PRS_NSTAT, 3, 1⟩
abbrev PRS_NSTAT_NOMATCH : Fld := ⟨PRS_NSTAT, 4, 1⟩
abbrev PRS_NEN : Nat := 0x200004
abbrev PRS_NEN_RULE : Fld := ⟨PRS_NEN, 0, 1⟩
abbrev PRS_NEN_LOST : Fld := ⟨PRS_NEN, 1, 1⟩
abbrev PRS_NEN_TRUNC : Fld := ⟨PRS_NEN, 2, 1⟩
abbrev PRS_NEN_BAD : Fld := ⟨PRS_NEN, 3, 1⟩
abbrev PRS_NEN_NOMATCH : Fld := ⟨PRS_NEN, 4, 1⟩
abbrev PRS_RCMD : Nat := 0x200010
abbrev PRS_RCMD_INDEX : Fld := ⟨PRS_RCMD, 0, 10⟩
abbrev PRS_RCMD_OP : Fld := ⟨PRS_RCMD, 12, 2⟩
abbrev PRS_RSTAT : Nat := 0x200014
abbrev PRS_RSTAT_BUSY : Fld := ⟨PRS_RSTAT, 0, 1⟩
abbrev PRS_RSTAT_LOST : Fld := ⟨PRS_RSTAT, 1, 1⟩
abbrev PRS_GRP_EN : Nat := 0x200018
abbrev PRS_GRP_EN_EN : Fld := ⟨PRS_GRP_EN, 0, 16⟩
abbrev PRS_YEL : Nat := 0x20001c
abbrev PRS_YEL_FILL : Fld := ⟨PRS_YEL, 0, 4⟩
abbrev PRS_TCMAP_LO : Nat := 0x200020
abbrev PRS_TCMAP_HI : Nat := 0x200024
abbrev PRS_PORT_DEF (i : Nat) : Nat := 0x200040 + 4 * i
abbrev PRS_PORT_DEF_YARN (i : Nat) : Fld := ⟨PRS_PORT_DEF i, 0, 12⟩
abbrev PRS_PORT_DEF_CLASS (i : Nat) : Fld := ⟨PRS_PORT_DEF i, 12, 4⟩
abbrev PRS_PORT_DEF_COLOUR (i : Nat) : Fld := ⟨PRS_PORT_DEF i, 16, 2⟩
abbrev PRS_PORT_DEF_DROP (i : Nat) : Fld := ⟨PRS_PORT_DEF i, 18, 1⟩
abbrev PRS_PORT_DEF_PCPCLASS (i : Nat) : Fld := ⟨PRS_PORT_DEF i, 19, 1⟩
abbrev PRS_CNT_TRUNC : Nat := 0x200080
abbrev PRS_CNT_BAD : Nat := 0x200084
abbrev PRS_CNT_FRAG : Nat := 0x200088
abbrev PRS_CNT_NOMATCH : Nat := 0x20008c
abbrev PRS_STAGE (w : Nat) : Nat := 0x201000 + 4 * w
abbrev PRS_RULE (r : Nat) : Nat := 0x210000 + 0x100 * r
abbrev PRS_HIT (r : Nat) : Nat := 0x250000 + 4 * r

/-! Registers of 10_buffers_and_locks.md R400 (fields: R401). -/

abbrev BPM_NSTAT : Nat := 0x400000
abbrev BPM_NSTAT_LOW : Fld := ⟨BPM_NSTAT, 0, 8⟩
abbrev BPM_NSTAT_HIGH : Fld := ⟨BPM_NSTAT, 8, 8⟩
abbrev BPM_NSTAT_FAIL : Fld := ⟨BPM_NSTAT, 16, 8⟩
abbrev BPM_NSTAT_BADFREE : Fld := ⟨BPM_NSTAT, 24, 1⟩
abbrev BPM_NSTAT_QUAR : Fld := ⟨BPM_NSTAT, 25, 1⟩
abbrev BPM_NSTAT_SHORT : Fld := ⟨BPM_NSTAT, 26, 1⟩
abbrev BPM_NEN : Nat := 0x400004
abbrev BPM_NEN_LOW : Fld := ⟨BPM_NEN, 0, 8⟩
abbrev BPM_NEN_HIGH : Fld := ⟨BPM_NEN, 8, 8⟩
abbrev BPM_NEN_FAIL : Fld := ⟨BPM_NEN, 16, 8⟩
abbrev BPM_NEN_BADFREE : Fld := ⟨BPM_NEN, 24, 1⟩
abbrev BPM_NEN_QUAR : Fld := ⟨BPM_NEN, 25, 1⟩
abbrev BPM_NEN_SHORT : Fld := ⟨BPM_NEN, 26, 1⟩
abbrev BPM_HDRM : Nat := 0x400008
abbrev BPM_HDRM_PORT : Fld := ⟨BPM_HDRM, 0, 9⟩
abbrev BPM_ESC_LO : Nat := 0x400010
abbrev BPM_ESC_LO_ESC : Fld := ⟨BPM_ESC_LO, 0, 32⟩
abbrev BPM_ESC_HI : Nat := 0x400014
abbrev BPM_ESC_HI_ESC : Fld := ⟨BPM_ESC_HI, 0, 32⟩
abbrev BPM_LOAN : Nat := 0x400018
abbrev BPM_LOAN_FLOOR : Fld := ⟨BPM_LOAN, 0, 18⟩
abbrev BPM_CNT_BADFREE : Nat := 0x400030
abbrev BPM_POOL_CFG (i : Nat) : Nat := 0x400100 + 0x20 * i
abbrev BPM_POOL_CFG_SIZE (i : Nat) : Fld := ⟨BPM_POOL_CFG i, 0, 11⟩
abbrev BPM_POOL_CFG_MODE (i : Nat) : Fld := ⟨BPM_POOL_CFG i, 12, 1⟩
abbrev BPM_POOL_COUNT (i : Nat) : Nat := 0x400104 + 0x20 * i
abbrev BPM_POOL_COUNT_N (i : Nat) : Fld := ⟨BPM_POOL_COUNT i, 0, 18⟩
abbrev BPM_POOL_BASE (i : Nat) : Nat := 0x400108 + 0x20 * i
abbrev BPM_POOL_BASE_OFS (i : Nat) : Fld := ⟨BPM_POOL_BASE i, 0, 24⟩
abbrev BPM_POOL_FSTORE (i : Nat) : Nat := 0x40010c + 0x20 * i
abbrev BPM_POOL_FSTORE_OFS (i : Nat) : Fld := ⟨BPM_POOL_FSTORE i, 0, 24⟩
abbrev BPM_POOL_TAGS (i : Nat) : Nat := 0x400110 + 0x20 * i
abbrev BPM_POOL_TAGS_OFS (i : Nat) : Fld := ⟨BPM_POOL_TAGS i, 0, 24⟩
abbrev BPM_POOL_FREE (i : Nat) : Nat := 0x400114 + 0x20 * i
abbrev BPM_POOL_FREE_N (i : Nat) : Fld := ⟨BPM_POOL_FREE i, 0, 18⟩
abbrev BPM_POOL_SHARED (i : Nat) : Nat := 0x400118 + 0x20 * i
abbrev BPM_POOL_SHARED_N (i : Nat) : Fld := ⟨BPM_POOL_SHARED i, 0, 18⟩
abbrev BPM_POOL_STAT (i : Nat) : Nat := 0x40011c + 0x20 * i
abbrev BPM_POOL_STAT_LOWLVL (i : Nat) : Fld := ⟨BPM_POOL_STAT i, 0, 1⟩
abbrev BPM_POOL_STAT_HIGHLVL (i : Nat) : Fld := ⟨BPM_POOL_STAT i, 1, 1⟩
abbrev BPM_POOL_STAT_SHORT (i : Nat) : Fld := ⟨BPM_POOL_STAT i, 2, 1⟩
abbrev BPM_POOL_STAT_LOANED (i : Nat) : Fld := ⟨BPM_POOL_STAT i, 4, 8⟩
abbrev BPM_POOL_STAT_QUAR (i : Nat) : Fld := ⟨BPM_POOL_STAT i, 14, 18⟩
abbrev BPM_POOL_LWM (i : Nat) : Nat := 0x400200 + 8 * i
abbrev BPM_POOL_LWM_WM (i : Nat) : Fld := ⟨BPM_POOL_LWM i, 0, 18⟩
abbrev BPM_POOL_HWM (i : Nat) : Nat := 0x400204 + 8 * i
abbrev BPM_POOL_HWM_WM (i : Nat) : Fld := ⟨BPM_POOL_HWM i, 0, 18⟩
abbrev BPM_CNT_FAIL (i : Nat) : Nat := 0x400240 + 4 * i
abbrev BPM_USED (o i : Nat) : Nat := 0x401000 + 0x20 * o + 4 * i
abbrev BPM_USED_N (o i : Nat) : Fld := ⟨BPM_USED o i, 0, 18⟩
abbrev BPM_OWN_MIN (o i : Nat) : Nat := 0x402000 + 0x40 * o + 8 * i
abbrev BPM_OWN_MIN_N (o i : Nat) : Fld := ⟨BPM_OWN_MIN o i, 0, 18⟩
abbrev BPM_OWN_CAP (o i : Nat) : Nat := 0x402004 + 0x40 * o + 8 * i
abbrev BPM_OWN_CAP_N (o i : Nat) : Fld := ⟨BPM_OWN_CAP o i, 0, 18⟩

/-! Registers of 10_buffers_and_locks.md R402 (fields: R403). -/

abbrev LCK (n : Nat) : Nat := 0x410000 + 4 * n
abbrev LCK_GOT (n : Nat) : Fld := ⟨LCK n, 0, 1⟩
abbrev LCK_OWN (n : Nat) : Nat := 0x411000 + 4 * n
abbrev LCK_OWN_HELD (n : Nat) : Fld := ⟨LCK_OWN n, 0, 1⟩
abbrev LCK_OWN_WAITERS (n : Nat) : Fld := ⟨LCK_OWN n, 4, 9⟩
abbrev LCK_OWN_OWNER (n : Nat) : Fld := ⟨LCK_OWN n, 16, 10⟩
abbrev LCK_NSTAT : Nat := 0x412000
abbrev LCK_NSTAT_FREEREL : Fld := ⟨LCK_NSTAT, 0, 1⟩
abbrev LCK_NSTAT_FOREIGN : Fld := ⟨LCK_NSTAT, 1, 1⟩
abbrev LCK_NSTAT_LONGHOLD : Fld := ⟨LCK_NSTAT, 2, 1⟩
abbrev LCK_NEN : Nat := 0x412004
abbrev LCK_NEN_FREEREL : Fld := ⟨LCK_NEN, 0, 1⟩
abbrev LCK_NEN_FOREIGN : Fld := ⟨LCK_NEN, 1, 1⟩
abbrev LCK_NEN_LONGHOLD : Fld := ⟨LCK_NEN, 2, 1⟩
abbrev LCK_HOLDMAX : Nat := 0x412008
abbrev LCK_HOLDMAX_US : Fld := ⟨LCK_HOLDMAX, 0, 16⟩
abbrev LCK_LAST : Nat := 0x41200c
abbrev LCK_LAST_LOCK : Fld := ⟨LCK_LAST, 0, 9⟩
abbrev LCK_LAST_AGENT : Fld := ⟨LCK_LAST, 16, 10⟩
abbrev LCK_CTR (k : Nat) : Nat := 0x413000 + 4 * k
abbrev LCK_CTR_VALUE (k : Nat) : Fld := ⟨LCK_CTR k, 0, 32⟩

/-! Registers of 11_distaff_and_yarns.md R442 (fields: R443). -/

abbrev DST_STAT : Nat := 0x420000
abbrev DST_STAT_INFLIGHT : Fld := ⟨DST_STAT, 0, 14⟩
abbrev DST_STAT_WFULL : Fld := ⟨DST_STAT, 16, 1⟩
abbrev DST_NSTAT : Nat := 0x420004
abbrev DST_NSTAT_TRCFULL : Fld := ⟨DST_NSTAT, 0, 1⟩
abbrev DST_NSTAT_WFULL : Fld := ⟨DST_NSTAT, 1, 1⟩
abbrev DST_NSTAT_YBOUND : Fld := ⟨DST_NSTAT, 2, 1⟩
abbrev DST_NSTAT_NOSERV : Fld := ⟨DST_NSTAT, 3, 1⟩
abbrev DST_NSTAT_REMAP : Fld := ⟨DST_NSTAT, 4, 1⟩
abbrev DST_NEN : Nat := 0x420008
abbrev DST_NEN_TRCFULL : Fld := ⟨DST_NEN, 0, 1⟩
abbrev DST_NEN_WFULL : Fld := ⟨DST_NEN, 1, 1⟩
abbrev DST_NEN_YBOUND : Fld := ⟨DST_NEN, 2, 1⟩
abbrev DST_NEN_NOSERV : Fld := ⟨DST_NEN, 3, 1⟩
abbrev DST_NEN_REMAP : Fld := ⟨DST_NEN, 4, 1⟩
abbrev DST_LAST : Nat := 0x42000c
abbrev DST_LAST_YARN : Fld := ⟨DST_LAST, 0, 12⟩
abbrev DST_AFF : Nat := 0x420010
abbrev DST_AFF_DEPTH : Fld := ⟨DST_AFF, 0, 8⟩
abbrev DST_AFF_STEAL : Fld := ⟨DST_AFF, 16, 16⟩
abbrev DST_SPARE_LO : Nat := 0x420014
abbrev DST_SPARE_LO_MASK : Fld := ⟨DST_SPARE_LO, 0, 32⟩
abbrev DST_SPARE_HI : Nat := 0x420018
abbrev DST_SPARE_HI_MASK : Fld := ⟨DST_SPARE_HI, 0, 32⟩
abbrev DST_CNT_NOSERV : Nat := 0x420020
abbrev DST_CNT_RELDROP : Nat := 0x420024
abbrev DST_CNT_TASKDROP : Nat := 0x420028
abbrev DST_CNT_PREEMPT : Nat := 0x42002c
abbrev DST_YSEL : Nat := 0x420040
abbrev DST_YSEL_YARN : Fld := ⟨DST_YSEL, 0, 12⟩
abbrev DST_YMASK_LO : Nat := 0x420044
abbrev DST_YMASK_LO_MASK : Fld := ⟨DST_YMASK_LO, 0, 32⟩
abbrev DST_YMASK_HI : Nat := 0x420048
abbrev DST_YMASK_HI_MASK : Fld := ⟨DST_YMASK_HI, 0, 32⟩
abbrev DST_TRC_CTL : Nat := 0x420100
abbrev DST_TRC_CTL_MODE : Fld := ⟨DST_TRC_CTL, 0, 2⟩
abbrev DST_TRC_CTL_KINDS : Fld := ⟨DST_TRC_CTL, 8, 9⟩
abbrev DST_TRC_YRNG : Nat := 0x420104
abbrev DST_TRC_YRNG_LO : Fld := ⟨DST_TRC_YRNG, 0, 12⟩
abbrev DST_TRC_YRNG_HI : Fld := ⟨DST_TRC_YRNG, 16, 12⟩
abbrev DST_TRC_WPTR : Nat := 0x420108
abbrev DST_TRC_WPTR_IDX : Fld := ⟨DST_TRC_WPTR, 0, 15⟩
abbrev DST_TRC_RIDX : Nat := 0x42010c
abbrev DST_TRC_RIDX_IDX : Fld := ⟨DST_TRC_RIDX, 0, 15⟩
abbrev DST_TRC_DATA (w : Nat) : Nat := 0x420110 + 4 * w
abbrev DST_TRC_SBASE : Nat := 0x420120
abbrev DST_TRC_SBASE_OFS : Fld := ⟨DST_TRC_SBASE, 12, 12⟩
abbrev DST_TRC_SLEN : Nat := 0x420124
abbrev DST_TRC_SLEN_BLOCKS : Fld := ⟨DST_TRC_SLEN, 0, 12⟩
abbrev DST_TRC_SWR : Nat := 0x420128
abbrev DST_TRC_SWR_N : Fld := ⟨DST_TRC_SWR, 0, 32⟩
abbrev DST_TRC_SRD : Nat := 0x42012c
abbrev DST_TRC_SRD_N : Fld := ⟨DST_TRC_SRD, 0, 32⟩
abbrev DST_TRC_LOST : Nat := 0x420130
abbrev DST_CORE (n : Nat) : Nat := 0x420200 + 4 * n
abbrev DST_CORE_TMASK (n : Nat) : Fld := ⟨DST_CORE n, 0, 8⟩
abbrev DST_CORE_SVC (n : Nat) : Fld := ⟨DST_CORE n, 8, 1⟩
abbrev DST_CORE_RETIRED (n : Nat) : Fld := ⟨DST_CORE n, 9, 1⟩
abbrev DST_CORE_PARKED (n : Nat) : Fld := ⟨DST_CORE n, 12, 2⟩
abbrev DST_CORE_Q (n : Nat) : Nat := 0x420300 + 4 * n
abbrev DST_CORE_Q_N (n : Nat) : Fld := ⟨DST_CORE_Q n, 0, 14⟩
abbrev DST_YCFG (y : Nat) : Nat := 0x424000 + 4 * y
abbrev DST_YCFG_LIMIT (y : Nat) : Fld := ⟨DST_YCFG y, 0, 9⟩
abbrev DST_YCFG_PRIO (y : Nat) : Fld := ⟨DST_YCFG y, 12, 3⟩
abbrev DST_YSTAT (y : Nat) : Nat := 0x428000 + 4 * y
abbrev DST_YSTAT_INFLIGHT (y : Nat) : Fld := ⟨DST_YSTAT y, 0, 9⟩
abbrev DST_YSTAT_LASTCORE (y : Nat) : Fld := ⟨DST_YSTAT y, 16, 6⟩
abbrev DST_YSTAT_BOUND (y : Nat) : Fld := ⟨DST_YSTAT y, 31, 1⟩

/-! Registers of 12_whorl_cores_threads.md R474 (fields: R475). -/

abbrev WHL_CSTAT (n : Nat) : Nat := 0x800000 + 0x20000 * n
abbrev WHL_CSTAT_SVC (n : Nat) : Fld := ⟨WHL_CSTAT n, 0, 1⟩
abbrev WHL_CSTAT_RETIRED (n : Nat) : Fld := ⟨WHL_CSTAT n, 1, 1⟩
abbrev WHL_CSTAT_ROOT (n : Nat) : Fld := ⟨WHL_CSTAT n, 2, 1⟩
abbrev WHL_CERR (n : Nat) : Nat := 0x800004 + 0x20000 * n
abbrev WHL_CERR_AUTH (n : Nat) : Fld := ⟨WHL_CERR n, 0, 1⟩
abbrev WHL_CERR_SHARE (n : Nat) : Fld := ⟨WHL_CERR n, 1, 1⟩
abbrev WHL_CERR_ECC2 (n : Nat) : Fld := ⟨WHL_CERR n, 2, 1⟩
abbrev WHL_CERR_ESC (n : Nat) : Fld := ⟨WHL_CERR n, 3, 1⟩
abbrev WHL_CFLT (n : Nat) : Nat := 0x800008 + 0x20000 * n
abbrev WHL_CFLT_MASK (n : Nat) : Fld := ⟨WHL_CFLT n, 0, 8⟩
abbrev WHL_ESC_TO (n : Nat) : Nat := 0x80000c + 0x20000 * n
abbrev WHL_ESC_TO_MS (n : Nat) : Fld := ⟨WHL_ESC_TO n, 0, 16⟩
abbrev WHL_ROOT (n : Nat) : Nat := 0x800010 + 0x20000 * n
abbrev WHL_ROOT_CORE (n : Nat) : Fld := ⟨WHL_ROOT n, 0, 6⟩
abbrev WHL_ECC_CNT (n : Nat) : Nat := 0x800014 + 0x20000 * n
abbrev WHL_ECC_ADDR (n : Nat) : Nat := 0x800018 + 0x20000 * n
abbrev WHL_ECC_ADDR_ADDR (n : Nat) : Fld := ⟨WHL_ECC_ADDR n, 0, 16⟩
abbrev WHL_ECC_ADDR_VALID (n : Nat) : Fld := ⟨WHL_ECC_ADDR n, 31, 1⟩
abbrev WHL_NSTAT (n : Nat) : Nat := 0x800020 + 0x20000 * n
abbrev WHL_NSTAT_ROOTFLT (n : Nat) : Fld := ⟨WHL_NSTAT n, 0, 1⟩
abbrev WHL_NSTAT_ESCHOST (n : Nat) : Fld := ⟨WHL_NSTAT n, 1, 1⟩
abbrev WHL_NSTAT_ROOTMOVE (n : Nat) : Fld := ⟨WHL_NSTAT n, 2, 1⟩
abbrev WHL_NEN (n : Nat) : Nat := 0x800024 + 0x20000 * n
abbrev WHL_NEN_ROOTFLT (n : Nat) : Fld := ⟨WHL_NEN n, 0, 1⟩
abbrev WHL_NEN_ESCHOST (n : Nat) : Fld := ⟨WHL_NEN n, 1, 1⟩
abbrev WHL_NEN_ROOTMOVE (n : Nat) : Fld := ⟨WHL_NEN n, 2, 1⟩
abbrev WHL_TCTL (n t : Nat) : Nat := 0x800040 + 0x20000 * n + 0x20 * t
abbrev WHL_TCTL_CMD (n t : Nat) : Fld := ⟨WHL_TCTL n t, 0, 2⟩
abbrev WHL_TCTL_RELLK (n t : Nat) : Fld := ⟨WHL_TCTL n t, 4, 1⟩
abbrev WHL_TCTL_USEPC (n t : Nat) : Fld := ⟨WHL_TCTL n t, 5, 1⟩
abbrev WHL_TCTL_FORM (n t : Nat) : Fld := ⟨WHL_TCTL n t, 6, 1⟩
abbrev WHL_TPC (n t : Nat) : Nat := 0x800044 + 0x20000 * n + 0x20 * t
abbrev WHL_TPC_PC (n t : Nat) : Fld := ⟨WHL_TPC n t, 0, 16⟩
abbrev WHL_TSTATE (n t : Nat) : Nat := 0x800048 + 0x20000 * n + 0x20 * t
abbrev WHL_TSTATE_STATE (n t : Nat) : Fld := ⟨WHL_TSTATE n t, 0, 3⟩
abbrev WHL_TSTATE_WAITON (n t : Nat) : Fld := ⟨WHL_TSTATE n t, 4, 3⟩
abbrev WHL_TSTATE_PC (n t : Nat) : Fld := ⟨WHL_TSTATE n t, 16, 16⟩
abbrev WHL_TFLT (n t : Nat) : Nat := 0x80004c + 0x20000 * n + 0x20 * t
abbrev WHL_TFLT_CAUSE (n t : Nat) : Fld := ⟨WHL_TFLT n t, 0, 8⟩
abbrev WHL_TFLT_COUNT (n t : Nat) : Fld := ⟨WHL_TFLT n t, 8, 8⟩
abbrev WHL_TFLT_PC (n t : Nat) : Fld := ⟨WHL_TFLT n t, 16, 16⟩
abbrev WHL_TFLTA (n t : Nat) : Nat := 0x800050 + 0x20000 * n + 0x20 * t
abbrev WHL_TFLTA_ADDR (n t : Nat) : Fld := ⟨WHL_TFLTA n t, 0, 32⟩
abbrev WHL_TWDOG (n t : Nat) : Nat := 0x800054 + 0x20000 * n + 0x20 * t
abbrev WHL_TWDOG_UNITS (n t : Nat) : Fld := ⟨WHL_TWDOG n t, 0, 16⟩
abbrev WHL_TWDOG_ELAPSED (n t : Nat) : Fld := ⟨WHL_TWDOG n t, 16, 16⟩
abbrev WHL_TQSH (n t : Nat) : Nat := 0x800058 + 0x20000 * n + 0x20 * t
abbrev WHL_TQSH_SHARE (n t : Nat) : Fld := ⟨WHL_TQSH n t, 0, 10⟩
abbrev WHL_TQSH_USED (n t : Nat) : Fld := ⟨WHL_TQSH n t, 16, 10⟩
abbrev WHL_TSIG (n t : Nat) : Nat := 0x80005c + 0x20000 * n + 0x20 * t
abbrev WHL_TBSH_LO (n t : Nat) : Nat := 0x800200 + 0x20000 * n + 0x10 * t
abbrev WHL_TBSH_LO_SHARE (n t : Nat) : Fld := ⟨WHL_TBSH_LO n t, 0, 32⟩
abbrev WHL_TBSH_HI (n t : Nat) : Nat := 0x800204 + 0x20000 * n + 0x10 * t
abbrev WHL_TBSH_HI_SHARE (n t : Nat) : Fld := ⟨WHL_TBSH_HI n t, 0, 32⟩
abbrev WHL_TBUSED_LO (n t : Nat) : Nat := 0x800208 + 0x20000 * n + 0x10 * t
abbrev WHL_TBUSED_LO_USED (n t : Nat) : Fld := ⟨WHL_TBUSED_LO n t, 0, 32⟩
abbrev WHL_TBUSED_HI (n t : Nat) : Nat := 0x80020c + 0x20000 * n + 0x10 * t
abbrev WHL_TBUSED_HI_USED (n t : Nat) : Fld := ⟨WHL_TBUSED_HI n t, 0, 32⟩

/-! Registers of 15_forwarding_learning.md R577 (fields: R577, R578). -/

abbrev FWD_NSTAT : Nat := 0x300000
abbrev FWD_NSTAT_LEARN : Fld := ⟨FWD_NSTAT, 0, 1⟩
abbrev FWD_NSTAT_AUDIT : Fld := ⟨FWD_NSTAT, 1, 1⟩
abbrev FWD_NSTAT_ECC : Fld := ⟨FWD_NSTAT, 2, 1⟩
abbrev FWD_NSTAT_FULL : Fld := ⟨FWD_NSTAT, 3, 1⟩
abbrev FWD_NEN : Nat := 0x300004
abbrev FWD_NEN_LEARN : Fld := ⟨FWD_NEN, 0, 1⟩
abbrev FWD_NEN_AUDIT : Fld := ⟨FWD_NEN, 1, 1⟩
abbrev FWD_NEN_ECC : Fld := ⟨FWD_NEN, 2, 1⟩
abbrev FWD_NEN_FULL : Fld := ⟨FWD_NEN, 3, 1⟩
abbrev FWD_CMD : Nat := 0x300010
abbrev FWD_CMD_OP : Fld := ⟨FWD_CMD, 0, 3⟩
abbrev FWD_ADDR : Nat := 0x300014
abbrev FWD_ADDR_LINE : Fld := ⟨FWD_ADDR, 6, 16⟩
abbrev FWD_CSTAT : Nat := 0x300018
abbrev FWD_CSTAT_BUSY : Fld := ⟨FWD_CSTAT, 0, 1⟩
abbrev FWD_CSTAT_STATUS : Fld := ⟨FWD_CSTAT, 4, 4⟩
abbrev FWD_CSTAT_REPLACED : Fld := ⟨FWD_CSTAT, 8, 1⟩
abbrev FWD_CSTAT_LOST : Fld := ⟨FWD_CSTAT, 9, 1⟩
abbrev FWD_CSTAT_INDEX : Fld := ⟨FWD_CSTAT, 16, 15⟩
abbrev FWD_STAGE_BE_LO : Nat := 0x300020
abbrev FWD_STAGE_BE_HI : Nat := 0x300024
abbrev FWD_LRN_CTL : Nat := 0x300040
abbrev FWD_LRN_CTL_PORTS : Fld := ⟨FWD_LRN_CTL, 0, 9⟩
abbrev FWD_LRN_CTL_EN : Fld := ⟨FWD_LRN_CTL, 16, 1⟩
abbrev FWD_LRN_CTL_MOVE : Fld := ⟨FWD_LRN_CTL, 17, 1⟩
abbrev FWD_LRN_RATE : Nat := 0x300044
abbrev FWD_LRN_RATE_PER_S : Fld := ⟨FWD_LRN_RATE, 0, 13⟩
abbrev FWD_LRN_RATE_BURST : Fld := ⟨FWD_LRN_RATE, 16, 13⟩
abbrev FWD_AGE : Nat := 0x300048
abbrev FWD_AGE_SEC : Fld := ⟨FWD_AGE, 0, 16⟩
abbrev FWD_LRN_POP : Nat := 0x30004c
abbrev FWD_LRN_STAT : Nat := 0x300050
abbrev FWD_LRN_STAT_COUNT : Fld := ⟨FWD_LRN_STAT, 0, 9⟩
abbrev FWD_LRN_REC (k : Nat) : Nat := 0x300060 + 4 * k
abbrev FWD_AUD_CTL : Nat := 0x300080
abbrev FWD_AUD_CTL_REGIONS : Fld := ⟨FWD_AUD_CTL, 0, 4⟩
abbrev FWD_AUD_CTL_EN : Fld := ⟨FWD_AUD_CTL, 4, 1⟩
abbrev FWD_AUD_CTL_SPACE : Fld := ⟨FWD_AUD_CTL, 5, 1⟩
abbrev FWD_AUD_CTL_PERIOD : Fld := ⟨FWD_AUD_CTL, 8, 8⟩
abbrev FWD_AUD_CTL_NBLK : Fld := ⟨FWD_AUD_CTL, 16, 12⟩
abbrev FWD_AUD_STAT : Nat := 0x300084
abbrev FWD_AUD_STAT_RUN : Fld := ⟨FWD_AUD_STAT, 0, 1⟩
abbrev FWD_AUD_STAT_LATE : Fld := ⟨FWD_AUD_STAT, 1, 1⟩
abbrev FWD_AUD_STAT_OVF : Fld := ⟨FWD_AUD_STAT, 2, 1⟩
abbrev FWD_AUD_STAT_SWEEPS : Fld := ⟨FWD_AUD_STAT, 16, 16⟩
abbrev FWD_AUD_SHBASE_LO : Nat := 0x300088
abbrev FWD_AUD_SHBASE_LO_BASE : Fld := ⟨FWD_AUD_SHBASE_LO, 12, 20⟩
abbrev FWD_AUD_SHBASE_HI : Nat := 0x30008c
abbrev FWD_AUD_SKIP : Nat := 0x300090
abbrev FWD_EVT : Nat := 0x300094
abbrev FWD_CNT_LRN : Nat := 0x3000a0
abbrev FWD_CNT_LRNRATE : Nat := 0x3000a4
abbrev FWD_CNT_LRNFULL : Nat := 0x3000a8
abbrev FWD_CNT_LRNFIFO : Nat := 0x3000ac
abbrev FWD_CNT_MOVE : Nat := 0x3000b0
abbrev FWD_CNT_STATMOVE : Nat := 0x3000b4
abbrev FWD_CNT_AGED : Nat := 0x3000b8
abbrev FWD_CNT_CORR : Nat := 0x3000bc
abbrev FWD_INST (i : Nat) : Nat := 0x300100 + 0x10 * i
abbrev FWD_INST_EN (i : Nat) : Fld := ⟨FWD_INST i, 0, 1⟩
abbrev FWD_INST_MODE (i : Nat) : Fld := ⟨FWD_INST i, 1, 1⟩
abbrev FWD_ROOT (i : Nat) : Nat := 0x300104 + 0x10 * i
abbrev FWD_ROOT_ROOT4 (i : Nat) : Fld := ⟨FWD_ROOT i, 0, 12⟩
abbrev FWD_ROOT_V4 (i : Nat) : Fld := ⟨FWD_ROOT i, 12, 1⟩
abbrev FWD_ROOT_ROOT6 (i : Nat) : Fld := ⟨FWD_ROOT i, 16, 12⟩
abbrev FWD_ROOT_V6 (i : Nat) : Fld := ⟨FWD_ROOT i, 28, 1⟩
abbrev FWD_LFILT (i w : Nat) : Nat := 0x300200 + 0x20 * i + 4 * w
abbrev FWD_LFILT_MASK (i w : Nat) : Fld := ⟨FWD_LFILT i w, 0, 32⟩
abbrev FWD_LRN_VLAN (k : Nat) : Nat := 0x300400 + 4 * k
abbrev FWD_LEN4 (i L : Nat) : Nat := 0x301000 + 0x400 * i + 4 * L
abbrev FWD_LEN4_BASE (i L : Nat) : Fld := ⟨FWD_LEN4 i L, 0, 12⟩
abbrev FWD_LEN4_LOG (i L : Nat) : Fld := ⟨FWD_LEN4 i L, 12, 4⟩
abbrev FWD_LEN6 (i L : Nat) : Nat := 0x301100 + 0x400 * i + 4 * L
abbrev FWD_LEN6_BASE (i L : Nat) : Fld := ⟨FWD_LEN6 i L, 0, 12⟩
abbrev FWD_LEN6_LOG (i L : Nat) : Fld := ⟨FWD_LEN6 i L, 12, 4⟩
abbrev FWD_STAGE (w : Nat) : Nat := 0x304000 + 4 * w

/-! Registers of 16_host_interface_rings.md R627 (fields: R628). -/

abbrev HIF_STAT : Nat := 0xd0000
abbrev HIF_STAT_PORT : Fld := ⟨HIF_STAT, 0, 2⟩
abbrev HIF_STAT_LINKUP : Fld := ⟨HIF_STAT, 2, 1⟩
abbrev HIF_STAT_SPEED : Fld := ⟨HIF_STAT, 4, 2⟩
abbrev HIF_STAT_WIDTH : Fld := ⟨HIF_STAT, 6, 2⟩
abbrev HIF_STAT_BME : Fld := ⟨HIF_STAT, 8, 1⟩
abbrev HIF_AQ_SQBASE_LO : Nat := 0xd0010
abbrev HIF_AQ_SQBASE_HI : Nat := 0xd0014
abbrev HIF_AQ_CQBASE_LO : Nat := 0xd0018
abbrev HIF_AQ_CQBASE_HI : Nat := 0xd001c
abbrev HIF_AQ_CFG : Nat := 0xd0020
abbrev HIF_AQ_CFG_SQLOG : Fld := ⟨HIF_AQ_CFG, 0, 4⟩
abbrev HIF_AQ_CFG_CQLOG : Fld := ⟨HIF_AQ_CFG, 4, 4⟩
abbrev HIF_AQ_CFG_RINGSP : Fld := ⟨HIF_AQ_CFG, 8, 1⟩
abbrev HIF_AQ_CFG_EN : Fld := ⟨HIF_AQ_CFG, 31, 1⟩
abbrev HIF_INFL : Nat := 0xd0030
abbrev HIF_INFL_USED : Fld := ⟨HIF_INFL, 0, 13⟩
abbrev HIF_INFL_BUDGET : Fld := ⟨HIF_INFL, 16, 13⟩
abbrev HIF_PKM_FREE : Nat := 0xd0034
abbrev HIF_PKM_FREE_OFS : Fld := ⟨HIF_PKM_FREE, 0, 24⟩
abbrev HIF_HALT_FMT : Nat := 0xd0040
abbrev HIF_HALT_IDX : Nat := 0xd0044
abbrev HIF_HALT_IDX_INDEX : Fld := ⟨HIF_HALT_IDX, 0, 12⟩
abbrev HIF_CNT_DBLOST : Nat := 0xd0080
abbrev HIF_CNT_DMAERR : Nat := 0xd0084
abbrev HIF_CNT_RXDROP : Nat := 0xd0088
abbrev HIF_CNT_UR : Nat := 0xd008c
abbrev HIF_XSPI_CTL : Nat := 0xd0100
abbrev HIF_XSPI_CTL_OPCODE : Fld := ⟨HIF_XSPI_CTL, 0, 8⟩
abbrev HIF_XSPI_CTL_MODE : Fld := ⟨HIF_XSPI_CTL, 8, 1⟩
abbrev HIF_XSPI_CTL_ALEN : Fld := ⟨HIF_XSPI_CTL, 9, 2⟩
abbrev HIF_XSPI_CTL_DUMMY : Fld := ⟨HIF_XSPI_CTL, 11, 5⟩
abbrev HIF_XSPI_CTL_LEN : Fld := ⟨HIF_XSPI_CTL, 16, 9⟩
abbrev HIF_XSPI_CTL_DIR : Fld := ⟨HIF_XSPI_CTL, 25, 1⟩
abbrev HIF_XSPI_CTL_GO : Fld := ⟨HIF_XSPI_CTL, 31, 1⟩
abbrev HIF_XSPI_ADDR : Nat := 0xd0104
abbrev HIF_XSPI_STAT : Nat := 0xd0108
abbrev HIF_XSPI_STAT_BUSY : Fld := ⟨HIF_XSPI_STAT, 0, 1⟩
abbrev HIF_XSPI_STAT_REFUSED : Fld := ⟨HIF_XSPI_STAT, 1, 1⟩
abbrev HIF_XSPI_BUF (w : Nat) : Nat := 0xd0400 + 4 * w
abbrev HIF_QP_STAT (q : Nat) : Nat := 0xd1000 + 4 * q
abbrev HIF_QP_STAT_STATE (q : Nat) : Fld := ⟨HIF_QP_STAT q, 0, 2⟩
abbrev HIF_QP_STAT_IDLE (q : Nat) : Fld := ⟨HIF_QP_STAT q, 2, 1⟩
abbrev HIF_QP_STAT_KIND (q : Nat) : Fld := ⟨HIF_QP_STAT q, 3, 1⟩
abbrev HIF_QP_STAT_GROUP (q : Nat) : Fld := ⟨HIF_QP_STAT q, 4, 3⟩
abbrev HIF_QP_STAT_CQPEND (q : Nat) : Fld := ⟨HIF_QP_STAT q, 7, 1⟩
abbrev HIF_QP_STAT_RINGSP (q : Nat) : Fld := ⟨HIF_QP_STAT q, 8, 1⟩
abbrev HIF_QP_STAT_INFL (q : Nat) : Fld := ⟨HIF_QP_STAT q, 16, 9⟩
abbrev HIF_DB_SQ (q : Nat) : Nat := 0xd2000 + 8 * q
abbrev HIF_DB_SQ_INDEX (q : Nat) : Fld := ⟨HIF_DB_SQ q, 0, 12⟩
abbrev HIF_DB_CQ (q : Nat) : Nat := 0xd2004 + 8 * q
abbrev HIF_DB_CQ_INDEX (q : Nat) : Fld := ⟨HIF_DB_CQ q, 0, 12⟩

/-! Registers of 17_notices_interrupts.md R648 (fields: R649). -/

abbrev EVT_STAT : Nat := 0x30000
abbrev EVT_STAT_MSIXOFF : Fld := ⟨EVT_STAT, 0, 1⟩
abbrev EVT_STAT_REDIR : Fld := ⟨EVT_STAT, 1, 1⟩
abbrev EVT_PEND (w : Nat) : Nat := 0x30010 + 4 * w
abbrev EVT_PEND_STICKY (w : Nat) : Fld := ⟨EVT_PEND w, 0, 32⟩
abbrev EVT_LVL (w : Nat) : Nat := 0x30020 + 4 * w
abbrev EVT_LVL_LEVEL (w : Nat) : Fld := ⟨EVT_LVL w, 0, 32⟩
abbrev EVT_SWRAISE : Nat := 0x30030
abbrev EVT_SWRAISE_RAISE : Fld := ⟨EVT_SWRAISE, 0, 8⟩
abbrev EVT_INTN : Nat := 0x30034
abbrev EVT_INTN_ASSERTED : Fld := ⟨EVT_INTN, 0, 1⟩
abbrev EVT_INTN_WAKE : Fld := ⟨EVT_INTN, 1, 1⟩
abbrev EVT_SRC (n : Nat) : Nat := 0x30100 + 4 * n
abbrev EVT_SRC_STICKY (n : Nat) : Fld := ⟨EVT_SRC n, 0, 1⟩
abbrev EVT_SRC_LEVEL (n : Nat) : Fld := ⟨EVT_SRC n, 1, 1⟩
abbrev EVT_ROUTE (n : Nat) : Nat := 0x30400 + 4 * n
abbrev EVT_ROUTE_EN (n : Nat) : Fld := ⟨EVT_ROUTE n, 0, 1⟩
abbrev EVT_ROUTE_KIND (n : Nat) : Fld := ⟨EVT_ROUTE n, 1, 2⟩
abbrev EVT_ROUTE_VECTOR (n : Nat) : Fld := ⟨EVT_ROUTE n, 8, 7⟩
abbrev EVT_ROUTE_CORE (n : Nat) : Fld := ⟨EVT_ROUTE n, 16, 6⟩
abbrev EVT_ROUTE_THREAD (n : Nat) : Fld := ⟨EVT_ROUTE n, 24, 3⟩
abbrev EVT_ROUTE_INPUT (n : Nat) : Fld := ⟨EVT_ROUTE n, 28, 3⟩

/-! Registers of 18_audio_path.md R700 (fields: R700, R701). -/

abbrev AUD_STAT : Nat := 0xb0000
abbrev AUD_STAT_OWN : Fld := ⟨AUD_STAT, 0, 16⟩
abbrev AUD_STAT_RUN : Fld := ⟨AUD_STAT, 16, 1⟩
abbrev AUD_NSTAT : Nat := 0xb0004
abbrev AUD_NSTAT_UNDER : Fld := ⟨AUD_NSTAT, 0, 16⟩
abbrev AUD_NSTAT_OVR : Fld := ⟨AUD_NSTAT, 16, 1⟩
abbrev AUD_NSTAT_LSTNLOSS : Fld := ⟨AUD_NSTAT, 17, 1⟩
abbrev AUD_NSTAT_TDMLOSS : Fld := ⟨AUD_NSTAT, 18, 1⟩
abbrev AUD_NSTAT_TXUNDER : Fld := ⟨AUD_NSTAT, 19, 1⟩
abbrev AUD_NSTAT_LOCK : Fld := ⟨AUD_NSTAT, 20, 1⟩
abbrev AUD_NSTAT_UNLOCK : Fld := ⟨AUD_NSTAT, 21, 1⟩
abbrev AUD_NSTAT_FABMISS : Fld := ⟨AUD_NSTAT, 22, 1⟩
abbrev AUD_NSTAT_CFGERR : Fld := ⟨AUD_NSTAT, 23, 1⟩
abbrev AUD_NEN : Nat := 0xb0008
abbrev AUD_NEN_UNDER : Fld := ⟨AUD_NEN, 0, 16⟩
abbrev AUD_NEN_OVR : Fld := ⟨AUD_NEN, 16, 1⟩
abbrev AUD_NEN_LSTNLOSS : Fld := ⟨AUD_NEN, 17, 1⟩
abbrev AUD_NEN_TDMLOSS : Fld := ⟨AUD_NEN, 18, 1⟩
abbrev AUD_NEN_TXUNDER : Fld := ⟨AUD_NEN, 19, 1⟩
abbrev AUD_NEN_LOCK : Fld := ⟨AUD_NEN, 20, 1⟩
abbrev AUD_NEN_UNLOCK : Fld := ⟨AUD_NEN, 21, 1⟩
abbrev AUD_NEN_FABMISS : Fld := ⟨AUD_NEN, 22, 1⟩
abbrev AUD_NEN_CFGERR : Fld := ⟨AUD_NEN, 23, 1⟩
abbrev AUD_MOD : Nat := 0xb0010
abbrev AUD_MOD_K : Fld := ⟨AUD_MOD, 0, 4⟩
abbrev AUD_MOD_MAXMOD : Fld := ⟨AUD_MOD, 8, 8⟩
abbrev AUD_RT : Nat := 0xb0014
abbrev AUD_RT_VNOM : Fld := ⟨AUD_RT, 0, 16⟩
abbrev AUD_RT_REL : Fld := ⟨AUD_RT, 16, 8⟩
abbrev AUD_RT_EN : Fld := ⟨AUD_RT, 31, 1⟩
abbrev AUD_RT_GAIN : Nat := 0xb0018
abbrev AUD_RT_GAIN_G : Fld := ⟨AUD_RT_GAIN, 0, 16⟩
abbrev AUD_RT_GAIN_E : Fld := ⟨AUD_RT_GAIN, 16, 16⟩
abbrev AUD_DPLL_CFG : Nat := 0xb0020
abbrev AUD_DPLL_CFG_SRC : Fld := ⟨AUD_DPLL_CFG, 0, 3⟩
abbrev AUD_DPLL_CFG_BW : Fld := ⟨AUD_DPLL_CFG, 4, 2⟩
abbrev AUD_DPLL_STAT : Nat := 0xb0024
abbrev AUD_DPLL_STAT_LOCK : Fld := ⟨AUD_DPLL_STAT, 0, 1⟩
abbrev AUD_DPLL_STAT_HOLD : Fld := ⟨AUD_DPLL_STAT, 1, 1⟩
abbrev AUD_DPLL_STAT_REJECT : Fld := ⟨AUD_DPLL_STAT, 8, 8⟩
abbrev AUD_DPLL_RATIO : Nat := 0xb0028
abbrev AUD_DPLL_PHERR : Nat := 0xb002c
abbrev AUD_DPLL_CRF : Nat := 0xb0030
abbrev AUD_DPLL_CRFINT : Nat := 0xb0034
abbrev AUD_DPLL_CRFINT_N : Fld := ⟨AUD_DPLL_CRFINT, 0, 16⟩
abbrev AUD_LW_LOSS : Nat := 0xb0040
abbrev AUD_LW_STAT : Nat := 0xb0044
abbrev AUD_LW_CFG (s : Nat) : Nat := 0xb0500 + 4 * s
abbrev AUD_LW_CFG_TIMEOUT (s : Nat) : Fld := ⟨AUD_LW_CFG s, 0, 16⟩
abbrev AUD_LW_SEEN (s : Nat) : Nat := 0xb0580 + 4 * s
abbrev AUD_CH_CTL (c : Nat) : Nat := 0xb0100 + 0x40 * c
abbrev AUD_CH_CTL_EN (c : Nat) : Fld := ⟨AUD_CH_CTL c, 0, 1⟩
abbrev AUD_CH_CFG (c : Nat) : Nat := 0xb0104 + 0x40 * c
abbrev AUD_CH_CFG_RATE (c : Nat) : Fld := ⟨AUD_CH_CFG c, 0, 2⟩
abbrev AUD_CH_CFG_MODE (c : Nat) : Fld := ⟨AUD_CH_CFG c, 2, 1⟩
abbrev AUD_CH_CFG_PHASE (c : Nat) : Fld := ⟨AUD_CH_CFG c, 4, 4⟩
abbrev AUD_CH_CFG_MOD (c : Nat) : Fld := ⟨AUD_CH_CFG c, 8, 8⟩
abbrev AUD_CH_CFG_LOG (c : Nat) : Fld := ⟨AUD_CH_CFG c, 16, 5⟩
abbrev AUD_CH_CFG_FADE (c : Nat) : Fld := ⟨AUD_CH_CFG c, 24, 8⟩
abbrev AUD_CH_BASE (c : Nat) : Nat := 0xb0108 + 0x40 * c
abbrev AUD_CH_BASE_BASE (c : Nat) : Fld := ⟨AUD_CH_BASE c, 0, 24⟩
abbrev AUD_CH_WPOS (c : Nat) : Nat := 0xb010c + 0x40 * c
abbrev AUD_CH_RPOS (c : Nat) : Nat := 0xb0110 + 0x40 * c
abbrev AUD_CH_RTIME_LO (c : Nat) : Nat := 0xb0114 + 0x40 * c
abbrev AUD_CH_RTIME_HI (c : Nat) : Nat := 0xb0118 + 0x40 * c
abbrev AUD_CH_TSTART_LO (c : Nat) : Nat := 0xb011c + 0x40 * c
abbrev AUD_CH_TSTART_HI (c : Nat) : Nat := 0xb0120 + 0x40 * c
abbrev AUD_CH_STAT (c : Nat) : Nat := 0xb0124 + 0x40 * c
abbrev AUD_CH_STAT_PLAYING (c : Nat) : Fld := ⟨AUD_CH_STAT c, 0, 1⟩
abbrev AUD_CH_STAT_CONC (c : Nat) : Fld := ⟨AUD_CH_STAT c, 1, 1⟩
abbrev AUD_CH_STAT_OVR (c : Nat) : Fld := ⟨AUD_CH_STAT c, 2, 1⟩
abbrev AUD_CH_STAT_HARD (c : Nat) : Fld := ⟨AUD_CH_STAT c, 3, 1⟩
abbrev AUD_CH_CONC (c : Nat) : Nat := 0xb0128 + 0x40 * c
abbrev AUD_CH_CLIP (c : Nat) : Nat := 0xb012c + 0x40 * c
abbrev AUD_CH_FABMISS (c : Nat) : Nat := 0xb0130 + 0x40 * c
abbrev AUD_CAP_CFG (k : Nat) : Nat := 0xb0600 + 0x20 * k
abbrev AUD_CAP_CFG_SRC (k : Nat) : Fld := ⟨AUD_CAP_CFG k, 0, 7⟩
abbrev AUD_CAP_CFG_RATE (k : Nat) : Fld := ⟨AUD_CAP_CFG k, 8, 1⟩
abbrev AUD_CAP_CFG_LOG (k : Nat) : Fld := ⟨AUD_CAP_CFG k, 16, 5⟩
abbrev AUD_CAP_CFG_EN (k : Nat) : Fld := ⟨AUD_CAP_CFG k, 31, 1⟩
abbrev AUD_CAP_BASE (k : Nat) : Nat := 0xb0604 + 0x20 * k
abbrev AUD_CAP_BASE_BASE (k : Nat) : Fld := ⟨AUD_CAP_BASE k, 0, 24⟩
abbrev AUD_CAP_WPOS (k : Nat) : Nat := 0xb0608 + 0x20 * k
abbrev AUD_CAP_WTIME_LO (k : Nat) : Nat := 0xb060c + 0x20 * k
abbrev AUD_CAP_WTIME_HI (k : Nat) : Nat := 0xb0610 + 0x20 * k
abbrev AUD_TALK_CFG (k : Nat) : Nat := 0xb0800 + 0x10 * k
abbrev AUD_TALK_CFG_CAP (k : Nat) : Fld := ⟨AUD_TALK_CFG k, 0, 4⟩
abbrev AUD_TALK_CFG_NCH (k : Nat) : Fld := ⟨AUD_TALK_CFG k, 4, 3⟩
abbrev AUD_TALK_CFG_SPP (k : Nat) : Fld := ⟨AUD_TALK_CFG k, 8, 8⟩
abbrev AUD_TALK_CFG_EN (k : Nat) : Fld := ⟨AUD_TALK_CFG k, 31, 1⟩
abbrev AUD_TALK_OFS (k : Nat) : Nat := 0xb0804 + 0x10 * k
abbrev AUD_TALK_NEXT (k : Nat) : Nat := 0xb0808 + 0x10 * k
abbrev AUD_TALK_NEXT_SEQ (k : Nat) : Fld := ⟨AUD_TALK_NEXT k, 0, 8⟩
abbrev AUD_TALK_NEXT_POS (k : Nat) : Fld := ⟨AUD_TALK_NEXT k, 8, 16⟩
abbrev AUD_TALK_NEXT_VALID (k : Nat) : Fld := ⟨AUD_TALK_NEXT k, 31, 1⟩
abbrev AUD_TALK_TS (k : Nat) : Nat := 0xb080c + 0x10 * k
abbrev AUD_TDM_CFG (p : Nat) : Nat := 0xb0c00 + 0x20 * p
abbrev AUD_TDM_CFG_EN (p : Nat) : Fld := ⟨AUD_TDM_CFG p, 0, 1⟩
abbrev AUD_TDM_CFG_MASTER (p : Nat) : Fld := ⟨AUD_TDM_CFG p, 1, 1⟩
abbrev AUD_TDM_CFG_RATE (p : Nat) : Fld := ⟨AUD_TDM_CFG p, 2, 1⟩
abbrev AUD_TDM_CFG_SLOTS (p : Nat) : Fld := ⟨AUD_TDM_CFG p, 4, 4⟩
abbrev AUD_TDM_CFG_TXEN (p : Nat) : Fld := ⟨AUD_TDM_CFG p, 8, 1⟩
abbrev AUD_TDM_CFG_TXLOG (p : Nat) : Fld := ⟨AUD_TDM_CFG p, 16, 5⟩
abbrev AUD_TDM_STAT (p : Nat) : Nat := 0xb0c04 + 0x20 * p
abbrev AUD_TDM_STAT_SYNC (p : Nat) : Fld := ⟨AUD_TDM_STAT p, 0, 1⟩
abbrev AUD_TDM_TXBASE (p : Nat) : Nat := 0xb0c08 + 0x20 * p
abbrev AUD_TDM_TXBASE_BASE (p : Nat) : Fld := ⟨AUD_TDM_TXBASE p, 0, 24⟩
abbrev AUD_TDM_TXWPOS (p : Nat) : Nat := 0xb0c0c + 0x20 * p
abbrev AUD_TDM_TXRPOS (p : Nat) : Nat := 0xb0c10 + 0x20 * p
abbrev AUD_TDM_TXUND (p : Nat) : Nat := 0xb0c14 + 0x20 * p
abbrev AUD_TDM_BADFRM (p : Nat) : Nat := 0xb0c18 + 0x20 * p

/-! Registers of 18_audio_path.md R702 (fields: R702). -/

abbrev SAFE_STAT : Nat := 0xc0000
abbrev SAFE_STAT_OWN : Fld := ⟨SAFE_STAT, 0, 4⟩
abbrev SAFE_STAT_ANN : Fld := ⟨SAFE_STAT, 4, 1⟩
abbrev SAFE_STAT_ECALL : Fld := ⟨SAFE_STAT, 5, 1⟩
abbrev SAFE_STAT_TDM0SYNC : Fld := ⟨SAFE_STAT, 6, 1⟩
abbrev SAFE_STAT_DEFAULT : Fld := ⟨SAFE_STAT, 7, 1⟩
abbrev SAFE_NSTAT : Nat := 0xc0004
abbrev SAFE_NSTAT_CMD : Fld := ⟨SAFE_NSTAT, 0, 1⟩
abbrev SAFE_NSTAT_BADCMD : Fld := ⟨SAFE_NSTAT, 1, 1⟩
abbrev SAFE_NSTAT_ECALL : Fld := ⟨SAFE_NSTAT, 2, 1⟩
abbrev SAFE_NSTAT_TDM0LOSS : Fld := ⟨SAFE_NSTAT, 3, 1⟩
abbrev SAFE_NSTAT_CLIPERR : Fld := ⟨SAFE_NSTAT, 4, 1⟩
abbrev SAFE_NEN : Nat := 0xc0008
abbrev SAFE_NEN_CMD : Fld := ⟨SAFE_NEN, 0, 1⟩
abbrev SAFE_NEN_BADCMD : Fld := ⟨SAFE_NEN, 1, 1⟩
abbrev SAFE_NEN_ECALL : Fld := ⟨SAFE_NEN, 2, 1⟩
abbrev SAFE_NEN_TDM0LOSS : Fld := ⟨SAFE_NEN, 3, 1⟩
abbrev SAFE_NEN_CLIPERR : Fld := ⟨SAFE_NEN, 4, 1⟩
abbrev SAFE_LAST_LO : Nat := 0xc0010
abbrev SAFE_LAST_HI : Nat := 0xc0014
abbrev SAFE_LAST_HI_B4 : Fld := ⟨SAFE_LAST_HI, 0, 8⟩
abbrev SAFE_CNT_CMD : Nat := 0xc0018
abbrev SAFE_CNT_BADCMD : Nat := 0xc001c
abbrev SAFE_CFG (w : Nat) : Nat := 0xc0100 + 4 * w

/-! Registers of 19_power_stage_protection.md R734 (fields: R734, R735). -/

abbrev PWS_STAT : Nat := 0xa0000
abbrev PWS_STAT_AODIS : Fld := ⟨PWS_STAT, 0, 1⟩
abbrev PWS_STAT_LDHOLD : Fld := ⟨PWS_STAT, 1, 1⟩
abbrev PWS_STAT_OWNER : Fld := ⟨PWS_STAT, 2, 1⟩
abbrev PWS_STAT_OWNA : Fld := ⟨PWS_STAT, 3, 1⟩
abbrev PWS_STAT_OWNB : Fld := ⟨PWS_STAT, 4, 1⟩
abbrev PWS_LATCH : Nat := 0xa0004
abbrev PWS_LATCH_LATCH : Fld := ⟨PWS_LATCH, 0, 16⟩
abbrev PWS_DTFLOOR : Nat := 0xa0008
abbrev PWS_DTFLOOR_DT : Fld := ⟨PWS_DTFLOOR, 0, 9⟩
abbrev PWS_DEF : Nat := 0xa000c
abbrev PWS_DEF_DTDEF : Fld := ⟨PWS_DEF, 0, 9⟩
abbrev PWS_DEF_BLKDEF : Fld := ⟨PWS_DEF, 16, 9⟩
abbrev PWS_CLR : Nat := 0xa0010
abbrev PWS_CLR_MASK : Fld := ⟨PWS_CLR, 0, 16⟩
abbrev PWS_CLR_KEY : Fld := ⟨PWS_CLR, 24, 8⟩
abbrev PWS_CLRSTAT : Nat := 0xa0014
abbrev PWS_CLRSTAT_REFUSED : Fld := ⟨PWS_CLRSTAT, 0, 16⟩
abbrev PWS_CNT_LDHOLD : Nat := 0xa0020
abbrev PWS_CH_CFG (c : Nat) : Nat := 0xa0100 + 0x20 * c
abbrev PWS_CH_CFG_DT (c : Nat) : Fld := ⟨PWS_CH_CFG c, 0, 9⟩
abbrev PWS_CH_CFG_BLANK (c : Nat) : Fld := ⟨PWS_CH_CFG c, 16, 9⟩
abbrev PWS_CH_STAT (c : Nat) : Nat := 0xa0104 + 0x20 * c
abbrev PWS_CH_STAT_SRC (c : Nat) : Fld := ⟨PWS_CH_STAT c, 0, 2⟩
abbrev PWS_CH_STAT_ACTIVE (c : Nat) : Fld := ⟨PWS_CH_STAT c, 2, 1⟩
abbrev PWS_CH_STAT_LATCHED (c : Nat) : Fld := ⟨PWS_CH_STAT c, 3, 1⟩
abbrev PWS_CH_STAT_OCA (c : Nat) : Fld := ⟨PWS_CH_STAT c, 4, 1⟩
abbrev PWS_CH_STAT_OCB (c : Nat) : Fld := ⟨PWS_CH_STAT c, 5, 1⟩
abbrev PWS_CH_STAT_HOC (c : Nat) : Fld := ⟨PWS_CH_STAT c, 6, 1⟩
abbrev PWS_CH_STAT_GFB (c : Nat) : Fld := ⟨PWS_CH_STAT c, 8, 4⟩
abbrev PWS_CH_DTEFF (c : Nat) : Nat := 0xa0108 + 0x20 * c
abbrev PWS_CH_DTEFF_DT (c : Nat) : Fld := ⟨PWS_CH_DTEFF c, 0, 9⟩
abbrev PWS_CH_FLT (c : Nat) : Nat := 0xa010c + 0x20 * c
abbrev PWS_CH_FLT_OCA (c : Nat) : Fld := ⟨PWS_CH_FLT c, 0, 1⟩
abbrev PWS_CH_FLT_OCB (c : Nat) : Fld := ⟨PWS_CH_FLT c, 1, 1⟩
abbrev PWS_CH_FLT_HOC (c : Nat) : Fld := ⟨PWS_CH_FLT c, 2, 1⟩
abbrev PWS_CH_FLT_FBA (c : Nat) : Fld := ⟨PWS_CH_FLT c, 3, 1⟩
abbrev PWS_CH_FLT_FBB (c : Nat) : Fld := ⟨PWS_CH_FLT c, 4, 1⟩
abbrev PWS_CH_FLT_SHOOTA (c : Nat) : Fld := ⟨PWS_CH_FLT c, 5, 1⟩
abbrev PWS_CH_FLT_SHOOTB (c : Nat) : Fld := ⟨PWS_CH_FLT c, 6, 1⟩
abbrev PWS_CH_FLT_START (c : Nat) : Fld := ⟨PWS_CH_FLT c, 7, 1⟩
abbrev PWS_CH_FLT_COUNT (c : Nat) : Fld := ⟨PWS_CH_FLT c, 8, 8⟩
abbrev PWS_CH_FTIME_LO (c : Nat) : Nat := 0xa0110 + 0x20 * c
abbrev PWS_CH_FTIME_HI (c : Nat) : Nat := 0xa0114 + 0x20 * c
abbrev PWS_CH_NSTAT (c : Nat) : Nat := 0xa0118 + 0x20 * c
abbrev PWS_CH_NSTAT_LATCH (c : Nat) : Fld := ⟨PWS_CH_NSTAT c, 0, 1⟩
abbrev PWS_CH_NSTAT_REFUSED (c : Nat) : Fld := ⟨PWS_CH_NSTAT c, 1, 1⟩
abbrev PWS_CH_NEN (c : Nat) : Nat := 0xa011c + 0x20 * c
abbrev PWS_CH_NEN_LATCH (c : Nat) : Fld := ⟨PWS_CH_NEN c, 0, 1⟩
abbrev PWS_CH_NEN_REFUSED (c : Nat) : Fld := ⟨PWS_CH_NEN c, 1, 1⟩

/-! Registers of 19_power_stage_protection.md R737 (fields: R737). -/

abbrev SUP_VBAT : Nat := 0x10100
abbrev SUP_VBAT_MV : Fld := ⟨SUP_VBAT, 0, 16⟩
abbrev SUP_VBAT_SEQ : Fld := ⟨SUP_VBAT, 16, 16⟩
abbrev SUP_VBAT_MIN : Nat := 0x10104
abbrev SUP_VBAT_MIN_MV : Fld := ⟨SUP_VBAT_MIN, 0, 16⟩
abbrev SUP_VBAT_MAX : Nat := 0x10108
abbrev SUP_VBAT_MAX_MV : Fld := ⟨SUP_VBAT_MAX, 0, 16⟩
abbrev SUP_VDIP : Nat := 0x1010c
abbrev SUP_VDIP_MV : Fld := ⟨SUP_VDIP, 0, 16⟩
abbrev SUP_VNSTAT : Nat := 0x10110
abbrev SUP_VNSTAT_DIP : Fld := ⟨SUP_VNSTAT, 0, 1⟩
abbrev SUP_VNSTAT_LDUMP : Fld := ⟨SUP_VNSTAT, 1, 1⟩
abbrev SUP_VNEN : Nat := 0x10114
abbrev SUP_VNEN_DIP : Fld := ⟨SUP_VNEN, 0, 1⟩
abbrev SUP_VNEN_LDUMP : Fld := ⟨SUP_VNEN, 1, 1⟩

/-! Registers of 20_live_calibration.md R761 (fields: R762). -/

abbrev CAL_CTL : Nat := 0x90000
abbrev CAL_CTL_PEN : Fld := ⟨CAL_CTL, 0, 16⟩
abbrev CAL_CTL_EN : Fld := ⟨CAL_CTL, 16, 1⟩
abbrev CAL_NSTAT : Nat := 0x90004
abbrev CAL_NSTAT_RESULT : Fld := ⟨CAL_NSTAT, 0, 1⟩
abbrev CAL_NSTAT_SPK : Fld := ⟨CAL_NSTAT, 1, 1⟩
abbrev CAL_NSTAT_LIMIT : Fld := ⟨CAL_NSTAT, 2, 1⟩
abbrev CAL_NSTAT_TRIM : Fld := ⟨CAL_NSTAT, 3, 1⟩
abbrev CAL_NEN : Nat := 0x90008
abbrev CAL_NEN_RESULT : Fld := ⟨CAL_NEN, 0, 1⟩
abbrev CAL_NEN_SPK : Fld := ⟨CAL_NEN, 1, 1⟩
abbrev CAL_NEN_LIMIT : Fld := ⟨CAL_NEN, 2, 1⟩
abbrev CAL_NEN_TRIM : Fld := ⟨CAL_NEN, 3, 1⟩
abbrev CAL_SPK : Nat := 0x9000c
abbrev CAL_SPK_OPEN : Fld := ⟨CAL_SPK, 0, 16⟩
abbrev CAL_SPK_SHORT : Fld := ⟨CAL_SPK, 16, 16⟩
abbrev CAL_THR : Nat := 0x90010
abbrev CAL_THR_OPEN : Fld := ⟨CAL_THR, 0, 16⟩
abbrev CAL_THR_SHORT : Fld := ⟨CAL_THR, 16, 16⟩
abbrev CAL_LIM : Nat := 0x90014
abbrev CAL_LIM_QMIN : Fld := ⟨CAL_LIM, 0, 8⟩
abbrev CAL_LIM_GAIN_LIM : Fld := ⟨CAL_LIM, 8, 8⟩
abbrev CAL_LIM_DRIFT_LIM : Fld := ⟨CAL_LIM, 16, 16⟩
abbrev CAL_TRIM : Nat := 0x90018
abbrev CAL_TRIM_MASK : Fld := ⟨CAL_TRIM, 0, 16⟩
abbrev CAL_TRIM_DEADLINE : Fld := ⟨CAL_TRIM, 16, 8⟩
abbrev CAL_TRIM_KEY : Fld := ⟨CAL_TRIM, 24, 8⟩
abbrev CAL_CH_SEQ (c : Nat) : Nat := 0x90100 + 0x40 * c
abbrev CAL_CH_SEQ_SEQ (c : Nat) : Fld := ⟨CAL_CH_SEQ c, 0, 16⟩
abbrev CAL_CH_SEQ_VALID (c : Nat) : Fld := ⟨CAL_CH_SEQ c, 16, 1⟩
abbrev CAL_CH_SEQ_LOWQ (c : Nat) : Fld := ⟨CAL_CH_SEQ c, 17, 1⟩
abbrev CAL_CH_GAIN (c : Nat) : Nat := 0x90104 + 0x40 * c
abbrev CAL_CH_GAIN_GAIN (c : Nat) : Fld := ⟨CAL_CH_GAIN c, 0, 16⟩
abbrev CAL_CH_GAIN_QUAL (c : Nat) : Fld := ⟨CAL_CH_GAIN c, 16, 8⟩
abbrev CAL_CH_DRIFT (c : Nat) : Nat := 0x90108 + 0x40 * c
abbrev CAL_CH_DRIFT_I (c : Nat) : Fld := ⟨CAL_CH_DRIFT c, 0, 16⟩
abbrev CAL_CH_DRIFT_V (c : Nat) : Fld := ⟨CAL_CH_DRIFT c, 16, 16⟩
abbrev CAL_CH_ZLO (c : Nat) : Nat := 0x9010c + 0x40 * c
abbrev CAL_CH_ZLO_MAG (c : Nat) : Fld := ⟨CAL_CH_ZLO c, 0, 20⟩
abbrev CAL_CH_ZLO_PHASE (c : Nat) : Fld := ⟨CAL_CH_ZLO c, 20, 12⟩
abbrev CAL_CH_ZHI (c : Nat) : Nat := 0x90110 + 0x40 * c
abbrev CAL_CH_ZHI_MAG (c : Nat) : Fld := ⟨CAL_CH_ZHI c, 0, 20⟩
abbrev CAL_CH_ZHI_PHASE (c : Nat) : Fld := ⟨CAL_CH_ZHI c, 20, 12⟩
abbrev CAL_CH_STAT (c : Nat) : Nat := 0x90114 + 0x40 * c
abbrev CAL_CH_STAT_OPEN (c : Nat) : Fld := ⟨CAL_CH_STAT c, 0, 1⟩
abbrev CAL_CH_STAT_SHORT (c : Nat) : Fld := ⟨CAL_CH_STAT c, 1, 1⟩
abbrev CAL_CH_STAT_GAINLIM (c : Nat) : Fld := ⟨CAL_CH_STAT c, 2, 1⟩
abbrev CAL_CH_STAT_DRIFTLIM (c : Nat) : Fld := ⟨CAL_CH_STAT c, 3, 1⟩
abbrev CAL_CH_STAT_SENSEFAIL (c : Nat) : Fld := ⟨CAL_CH_STAT c, 4, 1⟩
abbrev CAL_CH_STAT_TRIM (c : Nat) : Fld := ⟨CAL_CH_STAT c, 8, 3⟩
abbrev CAL_CH_OFS (c : Nat) : Nat := 0x90118 + 0x40 * c
abbrev CAL_CH_OFS_I (c : Nat) : Fld := ⟨CAL_CH_OFS c, 0, 16⟩
abbrev CAL_CH_OFS_V (c : Nat) : Fld := ⟨CAL_CH_OFS c, 16, 16⟩
abbrev CAL_CH_SCALE (c : Nat) : Nat := 0x9011c + 0x40 * c
abbrev CAL_CH_SCALE_ISCALE (c : Nat) : Fld := ⟨CAL_CH_SCALE c, 0, 16⟩
abbrev CAL_CH_SCALE_VSCALE (c : Nat) : Fld := ⟨CAL_CH_SCALE c, 16, 16⟩
abbrev CAL_CH_LIVE (c : Nat) : Nat := 0x90120 + 0x40 * c
abbrev CAL_CH_LIVE_I (c : Nat) : Fld := ⟨CAL_CH_LIVE c, 0, 16⟩
abbrev CAL_CH_LIVE_V (c : Nat) : Fld := ⟨CAL_CH_LIVE c, 16, 16⟩
abbrev CAL_CH_ABANDON (c : Nat) : Nat := 0x90124 + 0x40 * c

/-! Registers of 21_thermal_fans.md R784 (fields: R785). -/

abbrev THM_NSTAT : Nat := 0x80000
abbrev THM_NSTAT_HOT : Fld := ⟨THM_NSTAT, 0, 12⟩
abbrev THM_NSTAT_FAULT : Fld := ⟨THM_NSTAT, 12, 12⟩
abbrev THM_NSTAT_STALL : Fld := ⟨THM_NSTAT, 24, 4⟩
abbrev THM_NSTAT_RECOVER : Fld := ⟨THM_NSTAT, 28, 1⟩
abbrev THM_NSTAT_BUSFAIL : Fld := ⟨THM_NSTAT, 29, 1⟩
abbrev THM_NEN : Nat := 0x80004
abbrev THM_NEN_HOT : Fld := ⟨THM_NEN, 0, 12⟩
abbrev THM_NEN_FAULT : Fld := ⟨THM_NEN, 12, 12⟩
abbrev THM_NEN_STALL : Fld := ⟨THM_NEN, 24, 4⟩
abbrev THM_NEN_RECOVER : Fld := ⟨THM_NEN, 28, 1⟩
abbrev THM_NEN_BUSFAIL : Fld := ⟨THM_NEN, 29, 1⟩
abbrev THM_FUSE : Nat := 0x80008
abbrev THM_FUSE_MINDUTY : Fld := ⟨THM_FUSE, 0, 10⟩
abbrev THM_FUSE_TACHEN : Fld := ⟨THM_FUSE, 12, 4⟩
abbrev THM_FUSE_ZEN : Fld := ⟨THM_FUSE, 16, 4⟩
abbrev THM_SBUS_CFG : Nat := 0x80010
abbrev THM_SBUS_CFG_FAST : Fld := ⟨THM_SBUS_CFG, 0, 1⟩
abbrev THM_SBUS_CFG_PEC : Fld := ⟨THM_SBUS_CFG, 1, 1⟩
abbrev THM_SBUS_STAT : Nat := 0x80014
abbrev THM_SBUS_STAT_FAILED : Fld := ⟨THM_SBUS_STAT, 0, 1⟩
abbrev THM_SBUS_STAT_RECOV : Fld := ⟨THM_SBUS_STAT, 8, 8⟩
abbrev THM_SBUS_CMD : Nat := 0x80018
abbrev THM_SBUS_CMD_KEY : Fld := ⟨THM_SBUS_CMD, 24, 8⟩
abbrev THM_ZCFG (z : Nat) : Nat := 0x80100 + 0x10 * z
abbrev THM_ZCFG_EN (z : Nat) : Fld := ⟨THM_ZCFG z, 0, 1⟩
abbrev THM_ZCFG_ADDR (z : Nat) : Fld := ⟨THM_ZCFG z, 1, 7⟩
abbrev THM_ZCFG_REG (z : Nat) : Fld := ⟨THM_ZCFG z, 8, 8⟩
abbrev THM_ZCFG_FMT (z : Nat) : Fld := ⟨THM_ZCFG z, 16, 1⟩
abbrev THM_ZREAD (z : Nat) : Nat := 0x80104 + 0x10 * z
abbrev THM_ZREAD_T (z : Nat) : Fld := ⟨THM_ZREAD z, 0, 16⟩
abbrev THM_ZREAD_FAULT (z : Nat) : Fld := ⟨THM_ZREAD z, 16, 1⟩
abbrev THM_ZREAD_SEQ (z : Nat) : Fld := ⟨THM_ZREAD z, 24, 8⟩
abbrev THM_NTC_R (k : Nat) : Nat := 0x80200 + 0x10 * k
abbrev THM_NTC_R_RPU (k : Nat) : Fld := ⟨THM_NTC_R k, 0, 16⟩
abbrev THM_NTC_R_R25 (k : Nat) : Fld := ⟨THM_NTC_R k, 16, 16⟩
abbrev THM_NTC_B (k : Nat) : Nat := 0x80204 + 0x10 * k
abbrev THM_NTC_B_BETA (k : Nat) : Fld := ⟨THM_NTC_B k, 0, 16⟩
abbrev THM_NTC_CODE (k : Nat) : Nat := 0x80208 + 0x10 * k
abbrev THM_NTC_CODE_CODE (k : Nat) : Fld := ⟨THM_NTC_CODE k, 0, 12⟩
abbrev THM_ZPT (z k : Nat) : Nat := 0x80400 + 0x10 * z + 4 * k
abbrev THM_ZPT_TEMP (z k : Nat) : Fld := ⟨THM_ZPT z k, 0, 8⟩
abbrev THM_ZPT_DUTY (z k : Nat) : Fld := ⟨THM_ZPT z k, 16, 10⟩
abbrev THM_FAN_CFG (f : Nat) : Nat := 0x80300 + 0x20 * f
abbrev THM_FAN_CFG_MODE (f : Nat) : Fld := ⟨THM_FAN_CFG f, 0, 1⟩
abbrev THM_FAN_CFG_TACHEN (f : Nat) : Fld := ⟨THM_FAN_CFG f, 1, 1⟩
abbrev THM_FAN_CFG_PULSES (f : Nat) : Fld := ⟨THM_FAN_CFG f, 2, 2⟩
abbrev THM_FAN_CFG_ZMASK (f : Nat) : Fld := ⟨THM_FAN_CFG f, 16, 12⟩
abbrev THM_FAN_TGT (f : Nat) : Nat := 0x80304 + 0x20 * f
abbrev THM_FAN_TGT_TARGET (f : Nat) : Fld := ⟨THM_FAN_TGT f, 0, 16⟩
abbrev THM_FAN_GAIN (f : Nat) : Nat := 0x80308 + 0x20 * f
abbrev THM_FAN_GAIN_KP (f : Nat) : Fld := ⟨THM_FAN_GAIN f, 0, 16⟩
abbrev THM_FAN_GAIN_KI (f : Nat) : Fld := ⟨THM_FAN_GAIN f, 16, 16⟩
abbrev THM_FAN_MINRPM (f : Nat) : Nat := 0x8030c + 0x20 * f
abbrev THM_FAN_MINRPM_MINRPM (f : Nat) : Fld := ⟨THM_FAN_MINRPM f, 0, 16⟩
abbrev THM_FAN_STAT (f : Nat) : Nat := 0x80310 + 0x20 * f
abbrev THM_FAN_STAT_DUTY (f : Nat) : Fld := ⟨THM_FAN_STAT f, 0, 10⟩
abbrev THM_FAN_STAT_STALL (f : Nat) : Fld := ⟨THM_FAN_STAT f, 16, 1⟩
abbrev THM_FAN_STAT_ZONE (f : Nat) : Fld := ⟨THM_FAN_STAT f, 20, 4⟩
abbrev THM_FAN_RPM (f : Nat) : Nat := 0x80314 + 0x20 * f
abbrev THM_FAN_RPM_RPM (f : Nat) : Fld := ⟨THM_FAN_RPM f, 0, 16⟩

/-! Registers of 22_ply_pair.md R824 (fields: R825). -/

abbrev PLY_STAT : Nat := 0x70000
abbrev PLY_STAT_ROLE : Fld := ⟨PLY_STAT, 0, 2⟩
abbrev PLY_STAT_OWNER : Fld := ⟨PLY_STAT, 2, 1⟩
abbrev PLY_STAT_ALIVE_IN : Fld := ⟨PLY_STAT, 3, 1⟩
abbrev PLY_STAT_LANES : Fld := ⟨PLY_STAT, 4, 2⟩
abbrev PLY_NSTAT : Nat := 0x70004
abbrev PLY_NSTAT_LOSS : Fld := ⟨PLY_NSTAT, 0, 1⟩
abbrev PLY_NSTAT_TAKEOVER : Fld := ⟨PLY_NSTAT, 1, 1⟩
abbrev PLY_NSTAT_MISMATCH : Fld := ⟨PLY_NSTAT, 2, 1⟩
abbrev PLY_NSTAT_DIVERGE : Fld := ⟨PLY_NSTAT, 3, 1⟩
abbrev PLY_NSTAT_LINK : Fld := ⟨PLY_NSTAT, 4, 1⟩
abbrev PLY_NSTAT_CONTEND : Fld := ⟨PLY_NSTAT, 5, 1⟩
abbrev PLY_NSTAT_LOGFULL : Fld := ⟨PLY_NSTAT, 6, 1⟩
abbrev PLY_NSTAT_JOIN : Fld := ⟨PLY_NSTAT, 7, 1⟩
abbrev PLY_NSTAT_ROLE : Fld := ⟨PLY_NSTAT, 8, 1⟩
abbrev PLY_NEN : Nat := 0x70008
abbrev PLY_NEN_LOSS : Fld := ⟨PLY_NEN, 0, 1⟩
abbrev PLY_NEN_TAKEOVER : Fld := ⟨PLY_NEN, 1, 1⟩
abbrev PLY_NEN_MISMATCH : Fld := ⟨PLY_NEN, 2, 1⟩
abbrev PLY_NEN_DIVERGE : Fld := ⟨PLY_NEN, 3, 1⟩
abbrev PLY_NEN_LINK : Fld := ⟨PLY_NEN, 4, 1⟩
abbrev PLY_NEN_CONTEND : Fld := ⟨PLY_NEN, 5, 1⟩
abbrev PLY_NEN_LOGFULL : Fld := ⟨PLY_NEN, 6, 1⟩
abbrev PLY_NEN_JOIN : Fld := ⟨PLY_NEN, 7, 1⟩
abbrev PLY_NEN_ROLE : Fld := ⟨PLY_NEN, 8, 1⟩
abbrev PLY_CFG : Nat := 0x70010
abbrev PLY_CFG_AUTOJOIN : Fld := ⟨PLY_CFG, 0, 1⟩
abbrev PLY_CFG_SETTLE : Fld := ⟨PLY_CFG, 8, 4⟩
abbrev PLY_CMD : Nat := 0x70014
abbrev PLY_CMD_CMD : Fld := ⟨PLY_CMD, 0, 2⟩
abbrev PLY_CMD_KEY : Fld := ⟨PLY_CMD, 24, 8⟩
abbrev PLY_JOIN_STAT : Nat := 0x70018
abbrev PLY_JOIN_STAT_PHASE : Fld := ⟨PLY_JOIN_STAT, 0, 3⟩
abbrev PLY_JOIN_STAT_ERR : Fld := ⟨PLY_JOIN_STAT, 4, 4⟩
abbrev PLY_JOIN_STAT_PASSES : Fld := ⟨PLY_JOIN_STAT, 8, 8⟩
abbrev PLY_CAUSE : Nat := 0x7001c
abbrev PLY_CAUSE_CAUSE : Fld := ⟨PLY_CAUSE, 0, 3⟩
abbrev PLY_EPOCH_LO : Nat := 0x70020
abbrev PLY_EPOCH_HI : Nat := 0x70024
abbrev PLY_LAG : Nat := 0x70028
abbrev PLY_LAG_EPOCHS : Fld := ⟨PLY_LAG, 0, 8⟩
abbrev PLY_LAG_KIB : Fld := ⟨PLY_LAG, 16, 10⟩
abbrev PLY_PORTMODE : Nat := 0x70030
abbrev PLY_PORTMODE_OWNER : Fld := ⟨PLY_PORTMODE, 0, 9⟩
abbrev PLY_LAST : Nat := 0x70040
abbrev PLY_CNT_FETCH : Nat := 0x70080
abbrev PLY_CNT_MISMATCH : Nat := 0x70084
abbrev PLY_CNT_FOLWR : Nat := 0x70088
abbrev PLY_CNT_CORR : Nat := 0x7008c

/-! Registers of 23_in_service_test.md R844 (fields: R844, R845). -/

abbrev IST_CTL : Nat := 0x60000
abbrev IST_CTL_EN : Fld := ⟨IST_CTL, 0, 5⟩
abbrev IST_NSTAT : Nat := 0x60004
abbrev IST_NSTAT_REQDONE : Fld := ⟨IST_NSTAT, 0, 1⟩
abbrev IST_NSTAT_SHORT : Fld := ⟨IST_NSTAT, 1, 1⟩
abbrev IST_NSTAT_LATE : Fld := ⟨IST_NSTAT, 2, 1⟩
abbrev IST_NSTAT_MEM : Fld := ⟨IST_NSTAT, 3, 1⟩
abbrev IST_NSTAT_LOGIC : Fld := ⟨IST_NSTAT, 4, 1⟩
abbrev IST_NSTAT_LINK : Fld := ⟨IST_NSTAT, 5, 1⟩
abbrev IST_NSTAT_BIST : Fld := ⟨IST_NSTAT, 6, 1⟩
abbrev IST_NEN : Nat := 0x60008
abbrev IST_NEN_REQDONE : Fld := ⟨IST_NEN, 0, 1⟩
abbrev IST_NEN_SHORT : Fld := ⟨IST_NEN, 1, 1⟩
abbrev IST_NEN_LATE : Fld := ⟨IST_NEN, 2, 1⟩
abbrev IST_NEN_MEM : Fld := ⟨IST_NEN, 3, 1⟩
abbrev IST_NEN_LOGIC : Fld := ⟨IST_NEN, 4, 1⟩
abbrev IST_NEN_LINK : Fld := ⟨IST_NEN, 5, 1⟩
abbrev IST_NEN_BIST : Fld := ⟨IST_NEN, 6, 1⟩
abbrev IST_SHORT_LO : Nat := 0x60010
abbrev IST_SHORT_HI : Nat := 0x60014
abbrev IST_SHORT_HI_SHORT : Fld := ⟨IST_SHORT_HI, 0, 16⟩
abbrev IST_LATE : Nat := 0x60018
abbrev IST_LATE_SCRUB : Fld := ⟨IST_LATE, 0, 1⟩
abbrev IST_LATE_READBACK : Fld := ⟨IST_LATE, 1, 1⟩
abbrev IST_MEM_LAST : Nat := 0x60020
abbrev IST_MEM_LAST_REGION : Fld := ⟨IST_MEM_LAST, 0, 4⟩
abbrev IST_MEM_LAST_MARCH : Fld := ⟨IST_MEM_LAST, 4, 1⟩
abbrev IST_MEM_LAST_INST : Fld := ⟨IST_MEM_LAST, 8, 6⟩
abbrev IST_MEM_LAST_VALID : Fld := ⟨IST_MEM_LAST, 31, 1⟩
abbrev IST_MEM_ADDR : Nat := 0x60024
abbrev IST_SCRUB_PASS : Nat := 0x60028
abbrev IST_CNT_CORR : Nat := 0x60030
abbrev IST_CNT_UNCORR : Nat := 0x60034
abbrev IST_CNT_TRANS : Nat := 0x60038
abbrev IST_CNT_MARCH : Nat := 0x6003c
abbrev IST_REQ : Nat := 0x60040
abbrev IST_REQ_KIND : Fld := ⟨IST_REQ, 0, 3⟩
abbrev IST_REQ_TARGET : Fld := ⟨IST_REQ, 4, 8⟩
abbrev IST_REQ_TAG : Fld := ⟨IST_REQ, 12, 4⟩
abbrev IST_REQ_DEADLINE : Fld := ⟨IST_REQ, 16, 16⟩
abbrev IST_REQ_STAT : Nat := 0x60044
abbrev IST_REQ_STAT_QUEUED : Fld := ⟨IST_REQ_STAT, 0, 5⟩
abbrev IST_REQ_STAT_LOST : Fld := ⟨IST_REQ_STAT, 8, 1⟩
abbrev IST_RES : Nat := 0x60048
abbrev IST_RES_TAG : Fld := ⟨IST_RES, 0, 4⟩
abbrev IST_RES_KIND : Fld := ⟨IST_RES, 4, 3⟩
abbrev IST_RES_TARGET : Fld := ⟨IST_RES, 8, 8⟩
abbrev IST_RES_STATUS : Fld := ⟨IST_RES, 16, 4⟩
abbrev IST_RES_VALID : Fld := ⟨IST_RES, 31, 1⟩
abbrev IST_CORE (n : Nat) : Nat := 0x60100 + 4 * n
abbrev IST_CORE_IDLE (n : Nat) : Fld := ⟨IST_CORE n, 0, 10⟩
abbrev IST_CORE_SHORT (n : Nat) : Fld := ⟨IST_CORE n, 16, 1⟩
abbrev IST_CORE_PASSES (n : Nat) : Fld := ⟨IST_CORE n, 24, 8⟩
abbrev IST_BIST_STAT : Nat := 0x60200
abbrev IST_BIST_STAT_STATE : Fld := ⟨IST_BIST_STAT, 0, 2⟩
abbrev IST_BIST_STAT_FAILS : Fld := ⟨IST_BIST_STAT, 8, 8⟩
abbrev IST_BIST_CORE_LO : Nat := 0x60204
abbrev IST_BIST_CORE_HI : Nat := 0x60208
abbrev IST_BIST_CORE_HI_CORE : Fld := ⟨IST_BIST_CORE_HI, 0, 16⟩
abbrev IST_BIST_RES : Nat := 0x6020c
abbrev IST_BIST_RES_PKM : Fld := ⟨IST_BIST_RES, 0, 8⟩
abbrev IST_BIST_RES_TBLMEM : Fld := ⟨IST_BIST_RES, 8, 1⟩
abbrev IST_BIST_RES_TRACE : Fld := ⟨IST_BIST_RES, 9, 1⟩
abbrev IST_BIST_RES_PANEL : Fld := ⟨IST_BIST_RES, 16, 8⟩
abbrev IST_BIST_RES_WEFT : Fld := ⟨IST_BIST_RES, 24, 1⟩
abbrev IST_BIST_RES_LOGIC : Fld := ⟨IST_BIST_RES, 25, 5⟩

/-! Registers of 24_journal_memory.md R870 (fields: R870). -/

abbrev JRN_STAT : Nat := 0x50000
abbrev JRN_STAT_SCANDONE : Fld := ⟨JRN_STAT, 0, 1⟩
abbrev JRN_STAT_EARLY : Fld := ⟨JRN_STAT, 1, 1⟩
abbrev JRN_STAT_SUNLK : Fld := ⟨JRN_STAT, 2, 1⟩
abbrev JRN_NSTAT : Nat := 0x50004
abbrev JRN_NSTAT_SCAN : Fld := ⟨JRN_NSTAT, 0, 1⟩
abbrev JRN_NSTAT_ECC : Fld := ⟨JRN_NSTAT, 1, 1⟩
abbrev JRN_NSTAT_DONE : Fld := ⟨JRN_NSTAT, 2, 1⟩
abbrev JRN_NSTAT_REFUSED : Fld := ⟨JRN_NSTAT, 3, 1⟩
abbrev JRN_NEN : Nat := 0x50008
abbrev JRN_NEN_SCAN : Fld := ⟨JRN_NEN, 0, 1⟩
abbrev JRN_NEN_ECC : Fld := ⟨JRN_NEN, 1, 1⟩
abbrev JRN_NEN_DONE : Fld := ⟨JRN_NEN, 2, 1⟩
abbrev JRN_NEN_REFUSED : Fld := ⟨JRN_NEN, 3, 1⟩
abbrev JRN_SCAN : Nat := 0x50010
abbrev JRN_SCAN_COMMITTED : Fld := ⟨JRN_SCAN, 0, 13⟩
abbrev JRN_SCAN_TORN : Fld := ⟨JRN_SCAN, 16, 13⟩
abbrev JRN_SCAN_ECC : Nat := 0x50014
abbrev JRN_SCAN_ECC_SLOTS : Fld := ⟨JRN_SCAN_ECC, 0, 13⟩
abbrev JRN_SEQ : Nat := 0x50018
abbrev JRN_SEQ_SEQ : Fld := ⟨JRN_SEQ, 0, 32⟩
abbrev JRN_WCMD : Nat := 0x50020
abbrev JRN_WCMD_REGION : Fld := ⟨JRN_WCMD, 0, 3⟩
abbrev JRN_WCMD_LEN : Fld := ⟨JRN_WCMD, 4, 9⟩
abbrev JRN_WCMD_ID : Fld := ⟨JRN_WCMD, 16, 16⟩
abbrev JRN_WSTAT : Nat := 0x50024
abbrev JRN_WSTAT_BUSY : Fld := ⟨JRN_WSTAT, 0, 1⟩
abbrev JRN_WSTAT_LOST : Fld := ⟨JRN_WSTAT, 1, 1⟩
abbrev JRN_WSTAT_STATUS : Fld := ⟨JRN_WSTAT, 4, 4⟩
abbrev JRN_WSTAT_SLOT : Fld := ⟨JRN_WSTAT, 16, 12⟩
abbrev JRN_RCMD : Nat := 0x50028
abbrev JRN_RCMD_REGION : Fld := ⟨JRN_RCMD, 0, 3⟩
abbrev JRN_RCMD_MODE : Fld := ⟨JRN_RCMD, 3, 1⟩
abbrev JRN_RCMD_ID : Fld := ⟨JRN_RCMD, 16, 16⟩
abbrev JRN_RSTAT : Nat := 0x5002c
abbrev JRN_RSTAT_BUSY : Fld := ⟨JRN_RSTAT, 0, 1⟩
abbrev JRN_RSTAT_STATUS : Fld := ⟨JRN_RSTAT, 4, 4⟩
abbrev JRN_RSTAT_SLOT : Fld := ⟨JRN_RSTAT, 16, 12⟩
abbrev JRN_SUNLK : Nat := 0x50030
abbrev JRN_STAGE (w : Nat) : Nat := 0x50200 + 4 * w
abbrev JRN_RBUF (w : Nat) : Nat := 0x50400 + 4 * w

/-! Registers of 25_diagnostics_service.md R898 (fields: R898, R899). -/

abbrev DGN_STAT : Nat := 0xf0000
abbrev DGN_STAT_LC : Fld := ⟨DGN_STAT, 0, 2⟩
abbrev DGN_STAT_SVCEN : Fld := ⟨DGN_STAT, 2, 1⟩
abbrev DGN_STAT_UNLOCKED : Fld := ⟨DGN_STAT, 3, 1⟩
abbrev DGN_STAT_DBGOPEN : Fld := ⟨DGN_STAT, 4, 1⟩
abbrev DGN_NSTAT : Nat := 0xf0004
abbrev DGN_NSTAT_BUSOFF : Fld := ⟨DGN_NSTAT, 0, 2⟩
abbrev DGN_NSTAT_TXDOM : Fld := ⟨DGN_NSTAT, 2, 2⟩
abbrev DGN_NSTAT_RX : Fld := ⟨DGN_NSTAT, 4, 2⟩
abbrev DGN_NSTAT_TXDONE : Fld := ⟨DGN_NSTAT, 6, 2⟩
abbrev DGN_NSTAT_OVF : Fld := ⟨DGN_NSTAT, 8, 2⟩
abbrev DGN_NSTAT_SNAP : Fld := ⟨DGN_NSTAT, 10, 1⟩
abbrev DGN_NSTAT_SNAPOVF : Fld := ⟨DGN_NSTAT, 11, 1⟩
abbrev DGN_NSTAT_UNLOCK : Fld := ⟨DGN_NSTAT, 12, 1⟩
abbrev DGN_NSTAT_LOCK : Fld := ⟨DGN_NSTAT, 13, 1⟩
abbrev DGN_NSTAT_UNLKFAIL : Fld := ⟨DGN_NSTAT, 14, 1⟩
abbrev DGN_NSTAT_FUSE : Fld := ⟨DGN_NSTAT, 15, 1⟩
abbrev DGN_NEN : Nat := 0xf0008
abbrev DGN_NEN_BUSOFF : Fld := ⟨DGN_NEN, 0, 2⟩
abbrev DGN_NEN_TXDOM : Fld := ⟨DGN_NEN, 2, 2⟩
abbrev DGN_NEN_RX : Fld := ⟨DGN_NEN, 4, 2⟩
abbrev DGN_NEN_TXDONE : Fld := ⟨DGN_NEN, 6, 2⟩
abbrev DGN_NEN_OVF : Fld := ⟨DGN_NEN, 8, 2⟩
abbrev DGN_NEN_SNAP : Fld := ⟨DGN_NEN, 10, 1⟩
abbrev DGN_NEN_SNAPOVF : Fld := ⟨DGN_NEN, 11, 1⟩
abbrev DGN_NEN_UNLOCK : Fld := ⟨DGN_NEN, 12, 1⟩
abbrev DGN_NEN_LOCK : Fld := ⟨DGN_NEN, 13, 1⟩
abbrev DGN_NEN_UNLKFAIL : Fld := ⟨DGN_NEN, 14, 1⟩
abbrev DGN_NEN_FUSE : Fld := ⟨DGN_NEN, 15, 1⟩
abbrev DGN_UID_LO : Nat := 0xf0010
abbrev DGN_UID_HI : Nat := 0xf0014
abbrev DGN_LC_CMD : Nat := 0xf0020
abbrev DGN_LC_CMD_TARGET : Fld := ⟨DGN_LC_CMD, 0, 2⟩
abbrev DGN_LC_CMD_KEY : Fld := ⟨DGN_LC_CMD, 24, 8⟩
abbrev DGN_FPROG_SEL : Nat := 0xf0024
abbrev DGN_FPROG_SEL_SEL : Fld := ⟨DGN_FPROG_SEL, 0, 4⟩
abbrev DGN_FPROG_DATA : Nat := 0xf0028
abbrev DGN_FPROG_CMD : Nat := 0xf002c
abbrev DGN_FPROG_CMD_KEY : Fld := ⟨DGN_FPROG_CMD, 24, 8⟩
abbrev DGN_FSTAT : Nat := 0xf0030
abbrev DGN_FSTAT_BUSY : Fld := ⟨DGN_FSTAT, 0, 1⟩
abbrev DGN_FSTAT_ERR : Fld := ⟨DGN_FSTAT, 4, 3⟩
abbrev DGN_UNLK_CMD : Nat := 0xf0040
abbrev DGN_UNLK_CMD_CMD : Fld := ⟨DGN_UNLK_CMD, 0, 2⟩
abbrev DGN_UNLK_CMD_KEY : Fld := ⟨DGN_UNLK_CMD, 24, 8⟩
abbrev DGN_UNLK_STAT : Nat := 0xf0044
abbrev DGN_UNLK_STAT_UNLOCKED : Fld := ⟨DGN_UNLK_STAT, 0, 1⟩
abbrev DGN_UNLK_STAT_BUSY : Fld := ⟨DGN_UNLK_STAT, 1, 1⟩
abbrev DGN_UNLK_STAT_CHALRDY : Fld := ⟨DGN_UNLK_STAT, 2, 1⟩
abbrev DGN_UNLK_STAT_ERR : Fld := ⟨DGN_UNLK_STAT, 4, 3⟩
abbrev DGN_UNLK_STAT_FAILS : Fld := ⟨DGN_UNLK_STAT, 8, 2⟩
abbrev DGN_UNLK_TO : Nat := 0xf0048
abbrev DGN_UNLK_TO_SEC : Fld := ⟨DGN_UNLK_TO, 0, 12⟩
abbrev DGN_UNLK_LEFT : Nat := 0xf004c
abbrev DGN_UNLK_LEFT_SEC : Fld := ⟨DGN_UNLK_LEFT, 0, 12⟩
abbrev DGN_CHAL (i : Nat) : Nat := 0xf0050 + 4 * i
abbrev DGN_UNLK_PUB (i : Nat) : Nat := 0xf0080 + 4 * i
abbrev DGN_UNLK_SIG (i : Nat) : Nat := 0xf00c0 + 4 * i
abbrev DGN_SNAP_EN (w : Nat) : Nat := 0xf0100 + 4 * w
abbrev DGN_SNAP_STAT : Nat := 0xf0110
abbrev DGN_SNAP_STAT_COUNT : Fld := ⟨DGN_SNAP_STAT, 0, 5⟩
abbrev DGN_SNAP_POP : Nat := 0xf0114
abbrev DGN_CNT_SNAPLOST : Nat := 0xf0118
abbrev DGN_SNAP_HEAD (w : Nat) : Nat := 0xf0140 + 4 * w
abbrev CAN_CTL (n : Nat) : Nat := 0xf1000 + 0x1000 * n
abbrev CAN_CTL_EN (n : Nat) : Fld := ⟨CAN_CTL n, 0, 1⟩
abbrev CAN_CTL_MON (n : Nat) : Fld := ⟨CAN_CTL n, 1, 1⟩
abbrev CAN_CTL_FDOE (n : Nat) : Fld := ⟨CAN_CTL n, 2, 1⟩
abbrev CAN_CTL_AUTOREC (n : Nat) : Fld := ⟨CAN_CTL n, 3, 1⟩
abbrev CAN_CTL_REC (n : Nat) : Fld := ⟨CAN_CTL n, 4, 1⟩
abbrev CAN_BT_NOM (n : Nat) : Nat := 0xf1004 + 0x1000 * n
abbrev CAN_BT_NOM_BRP (n : Nat) : Fld := ⟨CAN_BT_NOM n, 0, 8⟩
abbrev CAN_BT_NOM_TSEG1 (n : Nat) : Fld := ⟨CAN_BT_NOM n, 8, 8⟩
abbrev CAN_BT_NOM_TSEG2 (n : Nat) : Fld := ⟨CAN_BT_NOM n, 16, 7⟩
abbrev CAN_BT_NOM_SJW (n : Nat) : Fld := ⟨CAN_BT_NOM n, 24, 7⟩
abbrev CAN_BT_DATA (n : Nat) : Nat := 0xf1008 + 0x1000 * n
abbrev CAN_BT_DATA_BRP (n : Nat) : Fld := ⟨CAN_BT_DATA n, 0, 5⟩
abbrev CAN_BT_DATA_TSEG1 (n : Nat) : Fld := ⟨CAN_BT_DATA n, 8, 5⟩
abbrev CAN_BT_DATA_TSEG2 (n : Nat) : Fld := ⟨CAN_BT_DATA n, 16, 4⟩
abbrev CAN_BT_DATA_SJW (n : Nat) : Fld := ⟨CAN_BT_DATA n, 24, 4⟩
abbrev CAN_TDC (n : Nat) : Nat := 0xf100c + 0x1000 * n
abbrev CAN_TDC_OFS (n : Nat) : Fld := ⟨CAN_TDC n, 0, 7⟩
abbrev CAN_TDC_EN (n : Nat) : Fld := ⟨CAN_TDC n, 8, 1⟩
abbrev CAN_STAT (n : Nat) : Nat := 0xf1010 + 0x1000 * n
abbrev CAN_STAT_STATE (n : Nat) : Fld := ⟨CAN_STAT n, 0, 2⟩
abbrev CAN_STAT_TXDOM (n : Nat) : Fld := ⟨CAN_STAT n, 2, 1⟩
abbrev CAN_STAT_TEC (n : Nat) : Fld := ⟨CAN_STAT n, 8, 8⟩
abbrev CAN_STAT_REC (n : Nat) : Fld := ⟨CAN_STAT n, 16, 8⟩
abbrev CAN_TXREQ (n : Nat) : Nat := 0xf1014 + 0x1000 * n
abbrev CAN_TXREQ_BUF (n : Nat) : Fld := ⟨CAN_TXREQ n, 0, 16⟩
abbrev CAN_TXPEND (n : Nat) : Nat := 0xf1018 + 0x1000 * n
abbrev CAN_TXPEND_BUF (n : Nat) : Fld := ⟨CAN_TXPEND n, 0, 16⟩
abbrev CAN_TXABORT (n : Nat) : Nat := 0xf101c + 0x1000 * n
abbrev CAN_TXABORT_BUF (n : Nat) : Fld := ⟨CAN_TXABORT n, 0, 16⟩
abbrev CAN_TXDONE (n : Nat) : Nat := 0xf1020 + 0x1000 * n
abbrev CAN_TXDONE_BUF (n : Nat) : Fld := ⟨CAN_TXDONE n, 0, 16⟩
abbrev CAN_RXCNT (n : Nat) : Nat := 0xf1024 + 0x1000 * n
abbrev CAN_RXCNT_COUNT (n : Nat) : Fld := ⟨CAN_RXCNT n, 0, 7⟩
abbrev CAN_RXPOP (n : Nat) : Nat := 0xf1028 + 0x1000 * n
abbrev CAN_CNT_RXLOST (n : Nat) : Nat := 0xf102c + 0x1000 * n
abbrev CAN_FLT_ID (n k : Nat) : Nat := 0xf1100 + 0x1000 * n + 4 * k
abbrev CAN_FLT_ID_ID (n k : Nat) : Fld := ⟨CAN_FLT_ID n k, 0, 29⟩
abbrev CAN_FLT_ID_IDE (n k : Nat) : Fld := ⟨CAN_FLT_ID n k, 29, 1⟩
abbrev CAN_FLT_ID_EN (n k : Nat) : Fld := ⟨CAN_FLT_ID n k, 31, 1⟩
abbrev CAN_FLT_MASK (n k : Nat) : Nat := 0xf1180 + 0x1000 * n + 4 * k
abbrev CAN_FLT_MASK_MASK (n k : Nat) : Fld := ⟨CAN_FLT_MASK n k, 0, 29⟩
abbrev CAN_RXHEAD (n w : Nat) : Nat := 0xf1200 + 0x1000 * n + 4 * w
abbrev CAN_TXBUF (n b w : Nat) : Nat := 0xf1400 + 0x1000 * n + 0x48 * b + 4 * w

/-! Registers of 26_signals_package_electrical.md R918 (fields: R918). -/

abbrev SUP_RAIL : Nat := 0x10000
abbrev SUP_RAIL_OK : Fld := ⟨SUP_RAIL, 0, 16⟩
abbrev SUP_NSTAT : Nat := 0x10004
abbrev SUP_NSTAT_LOW : Fld := ⟨SUP_NSTAT, 0, 16⟩
abbrev SUP_NSTAT_EW : Fld := ⟨SUP_NSTAT, 16, 1⟩
abbrev SUP_NEN : Nat := 0x10008
abbrev SUP_NEN_LOW : Fld := ⟨SUP_NEN, 0, 16⟩
abbrev SUP_NEN_EW : Fld := ⟨SUP_NEN, 16, 1⟩
abbrev SUP_EWSTAT : Nat := 0x1000c
abbrev SUP_EWSTAT_EW : Fld := ⟨SUP_EWSTAT, 0, 1⟩
abbrev SUP_EWSTAT_VIO : Fld := ⟨SUP_EWSTAT, 1, 1⟩
abbrev SUP_EWSTAT_VBAT : Fld := ⟨SUP_EWSTAT, 2, 1⟩
abbrev SUP_EWV : Nat := 0x10010
abbrev SUP_EWV_MV : Fld := ⟨SUP_EWV, 0, 16⟩
abbrev SUP_RAILV (i : Nat) : Nat := 0x10040 + 4 * i
abbrev SUP_RAILV_MV (i : Nat) : Fld := ⟨SUP_RAILV i, 0, 16⟩

end Sys2Proof.Machine.R
end

