-- ==== Sys2Proof/Machine/ResetWord.lean ====
section
/-!
DEFINITION. What every register reads out of reset (00_scope.md R4), and the access table's look-up by offset.
-/
namespace Sys2Proof.Machine

/-- Whether an offset from a row's base lands on one of its registers. -/
def dimsHit : List (Nat × Nat) → Nat → Bool
  | [], r => r = 0
  | (st, n) :: ds, r => decide (r / st < n) && dimsHit ds (r % st)
/-- A remainder that does not fit the inner dimensions of a repetition whose index could be one lower never occurs:
the strides are multiples of the inner extents. -/
def RegSpec.hit (t : RegSpec) (o : Nat) : Bool := decide (t.base ≤ o) && dimsHit t.dims (o - t.base)

/-- The first row of a table that an offset hits. -/
def regFind (ts : List RegSpec) (o : Nat) : Option RegSpec := ts.find? (·.hit o)

/-- The tables of the block an offset lies in (01_device_overview.md R36). -/
def blockTables (o : Nat) : List (List RegSpec) :=
  if o < 0x10000 then [regTableSYS]
  else if o < 0x20000 then [regTableSUP]
  else if o < 0x30000 then [regTableCLK]
  else if o < 0x40000 then [regTableEVT]
  else if o < 0x50000 then [regTableVNR]
  else if o < 0x60000 then [regTableJRN]
  else if o < 0x70000 then [regTableIST]
  else if o < 0x80000 then [regTablePLY]
  else if o < 0x90000 then [regTableTHM]
  else if o < 0xA0000 then [regTableCAL]
  else if o < 0xB0000 then [regTablePWS]
  else if o < 0xC0000 then [regTableAUD, regTableAUD1]
  else if o < 0xD0000 then [regTableSAFE]
  else if o < 0xE0000 then [regTableHIF]
  else if o < 0xF0000 then []
  else if o < 0x100000 then [regTableDGN, regTableCAN]
  else if o < 0x200000 then [regTablePRT, regTablePRT1]
  else if o < 0x300000 then [regTablePRS]
  else if o < 0x400000 then [regTableFWD, regTableFWD1]
  else if o < 0x410000 then [regTableBPM]
  else if o < 0x420000 then [regTableLCK]
  else if o < 0x430000 then [regTableDST, regTableDST1]
  else if o < 0x800000 then []
  else if o < 0xE00000 then [regTableWHL]
  else if o < 0x1000000 then []
  else if o < 0x1800000 then [regTableMQY]
  else []

/-- The access-table row of a register, or none where the offset is not assigned (R17, 01_device_overview.md R38). -/
def regSpec (o : Nat) : Option RegSpec := (blockTables o).findSome? fun ts => regFind ts o

/-- CLK_ISL[i] out of reset (03_islands_and_weft.md R113, R75, R940; the power state is HOLD, 05_power_states.md
R165). FREQ is measured, so its value at reset is the model's (assumption 5). -/
def islReset (i : Nat) : Nat :=
  let src := if i = 0 ∨ i = 76 then 2 else if i = 1 ∨ i = 62 ∨ i = 63 ∨ i = 72 ∨ i = 73 ∨ i = 74 then 1 else 0
  let on := if i = 0 ∨ i = 1 ∨ i = 63 ∨ i = 73 ∨ i = 76 then 1 else 0
  src * 2 ^ 12 + on * 2 ^ 14 + i / 10 * 2 ^ 20 + i % 10 * 2 ^ 24

/-- The registers whose reset word is a function of their index, or comes from a rule outside their table. SUP_RAIL is live:
every rail is within range at power-on (assumption 5). SYS_RSTCAUSE reads POR alone at the first power-up
(04_staged_start.md R124). -/
def indexedReset (o : Nat) : Option Nat :=
  if o = 0x10000 then some 0xFFFF
  else if o = 0x14 then some 1
  else if 0x20100 ≤ o ∧ o < 0x20234 then some (islReset ((o - 0x20100) / 4))
  else if 0x30400 ≤ o ∧ o < 0x30580 then some (1 + (o - 0x30400) / 4 * 0x100)
  else if 0xB0100 ≤ o ∧ o < 0xB0500 ∧ o % 0x40 = 4 then some ((o - 0xB0100) / 0x40 * 16 + 6 * 2 ^ 16 + 48 * 2 ^ 24)
  else if 0x400100 ≤ o ∧ o < 0x400200 ∧ o % 0x20 = 0 then some ([2, 4, 8, 16, 32, 64, 160, 1024].getD ((o - 0x400100) / 0x20) 0)
  else if o = 0xA0008 then some 4
  else if 0xA0100 ≤ o ∧ o < 0xA0300 ∧ o % 0x20 = 8 then some 4
  else if 0x80100 ≤ o ∧ o < 0x80140 ∧ o % 0x10 = 0 then some 1
  else if 0x80300 ≤ o ∧ o < 0x80380 ∧ o % 0x20 = 0 then some 0x0FFF0004
  else if 0x80400 ≤ o ∧ o < 0x804C0 then
    (match o % 16 with | 0 => some 0x28 | 4 => some 0x01900046 | 8 => some 0x02BC005A | _ => some 0x03E80069)
  else none

/-- What a register reads out of reset. -/
def resetWord (o : Nat) : Word :=
  match indexedReset o with
  | some v => BitVec.ofNat 32 v
  | none =>
    match regSpec o with
    | some t => BitVec.ofNat 32 t.reset
    | none => 0

end Sys2Proof.Machine
end

