-- ==== Sys2Proof/Machine/State.lean ====
section
/-!
DEFINITION. The state of the SZ4816: every register (a sparse file keyed by BAR0 offset), every memory, and for each
block the state that no register shows (Machine/Blocks.lean). All of it is plain data.
-/
namespace Sys2Proof.Machine

/-- Why the machine stops in a fault. There is no reason: where the spec calls an outcome unpredictable it confines it to a scope and
says that all outside goes on (00_scope.md R27, R28, R938), so the command completes, free values stand for what the spec leaves
open (Machine/Unpredictable.lean, assumption 3), and no command ends a run. Safe: nothing raises a fault. -/
inductive Fault
deriving DecidableEq, Repr

/-- Why the machine has no meaning for a command. -/
inductive Refusal
  /-- The command has no meaning in this model yet. Raised by the dispatch alone. Safe. -/
  | notModelled (mnemonic : String)
deriving DecidableEq, Repr

/-- The state of the SZ4816. -/
structure State where
  /-- Commands that wait, first in first out. -/
  pending : List Instr
  /-- The free-value counter (the model's own: assumption 4). -/
  free : Nat
  /-- The register file: words by BAR0 offset, absent while they hold their value out of reset. -/
  regs : SMap Word
  /-- The latest read response of each agent, by agent ID. -/
  resp : SMap Word
  /-- What the device has put on its links and pins, oldest first. -/
  out : List Output
  /-- Split pairs: the high word captured for each agent (00_scope.md R15), by agent ID * 2^26 + offset. -/
  capHi : SMap (Option Word)
  /-- Split pairs: the low word held for each agent (R16). -/
  heldLo : SMap (Option Word)
  /-- Captured read times (18_audio_path.md R661, R668), by agent ID * 64 + ring. -/
  rcap : SMap Nat
  /-- Packet memory, 16 MiB, by BAR2 offset (10_buffers_and_locks.md R364). -/
  pkt : Mem
  /-- The fuses as they are blown, as the device read them at its latest reset, and the burn in progress. -/
  fuses : Fuses
  held : Fuses
  burn : Burn
  clk : Clk
  sys : Sys
  vnr : Vnr
  mqy : Mqy
  prt : Prt
  prs : Prs
  bpm : Bpm
  locks : SMap Lock
  dst : Dst
  whl : Whl
  fwd : Fwd
  hif : Hif
  evt : Evt
  aud : Aud
  safe : Safe
  pws : Pws
  cal : Cal
  jrn : Jrn
  thm : Thm
  ist : Ist
  dgn : Dgn
  tap : Tap
  ply : Ply
deriving DecidableEq, Repr

/-- The state right after PORN is released: in reset still, waiting for RESET_END (04_staged_start.md R123). -/
def State.reset : State :=
  { pending := [], free := 0, regs := [], resp := [], out := [], capHi := [], heldLo := [], rcap := [], pkt := [],
    fuses := Fuses.reset, held := Fuses.reset, burn := .none, clk := Clk.reset, sys := Sys.reset, vnr := Vnr.reset, mqy := Mqy.reset, prt := Prt.reset, prs := Prs.reset,
    bpm := Bpm.reset, locks := [], dst := Dst.reset, whl := Whl.reset, fwd := Fwd.reset, hif := Hif.reset,
    evt := Evt.reset, aud := Aud.reset, safe := Safe.reset, pws := Pws.reset, cal := Cal.reset, jrn := Jrn.reset, thm := Thm.reset, ist := Ist.reset, dgn := Dgn.reset, tap := Tap.reset,
    ply := Ply.reset }

end Sys2Proof.Machine
end

