-- ==== Sys2Proof/Machine/Ops.lean ====
section
/-!
DEFINITION. The named operations every meaning is written over: registers and their fields, device time, causes and
notices, free values, and the islands' state.
-/
namespace Sys2Proof.Machine

/-- What a command answers. -/
abbrev Out := Host.Outcome State Fault Refusal

/-! Registers (00_scope.md R10, R18). -/

/-- Bits lo to lo + n - 1 of a word. -/
def wget (w : Word) (lo n : Nat) : Nat := (w.extractLsb' lo n).toNat

/-- A word with bits lo to lo + n - 1 replaced. -/
def wset (w : Word) (lo n v : Nat) : Word :=
  (w &&& ~~~(BitVec.ofNat 32 ((2 ^ n - 1) <<< lo))) ||| BitVec.ofNat 32 ((v % 2 ^ n) <<< lo)

/-- The register word in force at a BAR0 offset. -/
def State.rd (s : State) (o : Nat) : Word := mget resetWord s.regs o

/-- The state with a register word set. -/
def State.wr (s : State) (o : Nat) (v : Word) : State := { s with regs := mput resetWord s.regs o v }

/-- A field of a register. -/
def State.get (s : State) (f : Fld) : Nat := wget (s.rd f.off) f.lo f.w

/-- The state with a field set (its value modulo the field's width). -/
def State.set (s : State) (f : Fld) (v : Nat) : State := s.wr f.off (wset (s.rd f.off) f.lo f.w v)

/-- A one-bit field as a truth value. -/
def State.flag (s : State) (f : Fld) : Bool := s.get f ≠ 0

/-- The state with a counter register raised, saturating at 0xFFFF_FFFF. -/
def State.bump (s : State) (o : Nat) (n : Nat := 1) : State :=
  s.wr o (BitVec.ofNat 32 (satAdd 0xFFFFFFFF (s.rd o).toNat n))

/-- A 64-bit quantity in two registers, low word first. -/
def State.rd64 (s : State) (o : Nat) : Nat := (s.rd o).toNat + 2 ^ 32 * (s.rd (o + 4)).toNat

/-- The state with a 64-bit quantity set. -/
def State.wr64 (s : State) (o v : Nat) : State :=
  (s.wr o (BitVec.ofNat 32 v)).wr (o + 4) (BitVec.ofNat 32 (v / 2 ^ 32))

/-- Removes every register of a range of offsets from the file: they read their values out of reset again. -/
def State.resetRegs (s : State) (base len : Nat) : State :=
  { s with regs := s.regs.filter fun e => !(decide (base ≤ e.1) && decide (e.1 < base + len)) }

/-! Free values. -/

/-- A fresh value that the spec leaves open, and the state with the counter advanced. -/
def State.draw (s : State) (kind : Nat) : Nat × State :=
  (Config.free kind s.free, { s with free := s.free + 1 })

/-! Elements of the state's maps. -/

def State.thread (s : State) (tid : Nat) : Thread := mget (fun _ => Thread.reset) s.whl.threads tid

def State.setThread (s : State) (tid : Nat) (t : Thread) : State :=
  { s with whl.threads := mput (fun _ => Thread.reset) s.whl.threads tid t }

def State.core (s : State) (n : Nat) : Core := mget (fun _ => Core.reset) s.whl.cores n

def State.setCore (s : State) (n : Nat) (c : Core) : State :=
  { s with whl.cores := mput (fun _ => Core.reset) s.whl.cores n c }

def State.panel (s : State) (p : Nat) : Panel := mget (fun _ => Panel.reset) s.mqy.panels p

def State.setPanel (s : State) (p : Nat) (x : Panel) : State :=
  { s with mqy.panels := mput (fun _ => Panel.reset) s.mqy.panels p x }

def State.port (s : State) (p : Nat) : Port := mget (fun _ => Port.reset) s.prt.ports p

def State.setPort (s : State) (p : Nat) (x : Port) : State :=
  { s with prt.ports := mput (fun _ => Port.reset) s.prt.ports p x }

def State.lock (s : State) (n : Nat) : Lock := mget (fun _ => Lock.reset) s.locks n

def State.setLock (s : State) (n : Nat) (x : Lock) : State :=
  { s with locks := mput (fun _ => Lock.reset) s.locks n x }

/-- Packet memory, by BAR2 offset. -/
def State.setPkt (s : State) (m : Mem) : State := { s with pkt := m }

/-! Device time (03_islands_and_weft.md). -/

/-- AO's count of device time in ns. -/
def State.now (s : State) : Nat := s.clk.timeFx / 2 ^ 32

/-- An island's TNOW in ns (R101). -/
def State.tnow (s : State) (i : Nat) : Nat := ((s.clk.bcast : Int) + mget (fun _ => 0) s.clk.ahead i).toNat

/-- Device time in µs, truncated and saturating at 0xFFFF_FFFF (04_staged_start.md R164). -/
def State.nowUs (s : State) : Nat := satAdd 0xFFFFFFFF (s.now / 1000) 0

/-! Islands (03_islands_and_weft.md R75, R96). -/

/-- The rails that feed an island, as a mask (26_signals_package_electrical.md R904, R916). -/
def feedMask (i : Nat) : Nat :=
  if i = 0 ∨ i = 76 then 4
  else if i = 1 ∨ i = 62 ∨ i = 63 ∨ i = 72 ∨ i = 73 ∨ i = 74 then 34
  else 1

/-- An island's rails have come into range since the latest reset (R912). -/
def State.fed (s : State) (i : Nat) : Bool := decide (s.sys.railSeen &&& feedMask i = feedMask i)

/-- An island has power and the device is out of reset. -/
def State.powered (s : State) (i : Nat) : Bool := s.flag (R.CLK_ISL_ON i) && !s.sys.resetting && s.fed i

/-- An island's clock and power are on and its oscillator has not stopped; AO runs on from its watchdog FRO (R97). -/
def State.live (s : State) (i : Nat) : Bool := s.powered i && (!s.flag (R.CLK_ISL_STOP i) || decide (i = 0))

/-- The island stalls: its PLL, not the AUD/PWS PLL, has lost lock and has not relocked (R939). -/
def State.stalled (s : State) (i : Nat) : Bool :=
  (decide (i = 62) && bitOf s.clk.stall 1) || (decide (i = 63) && bitOf s.clk.stall 2) || (decide (i = 74) && bitOf s.clk.stall 3)

/-- An island runs. -/
def State.up (s : State) (i : Nat) : Bool := s.live i && !s.stalled i

def islAO : Nat := 0
def islSAFE : Nat := 1
def islWHL (n : Nat) : Nat := 2 + n
def islDST : Nat := 50
def islPRS : Nat := 51
def islBPM : Nat := 52
def islPKM (b : Nat) : Nat := 53 + b
def islTBL : Nat := 61
def islPRT : Nat := 62
def islHIF : Nat := 63
def islMQY (p : Nat) : Nat := 64 + p
def islAUD : Nat := 72
def islPWS : Nat := 73
def islPLY : Nat := 74
def islIST : Nat := 75
def islJRN : Nat := 76

/-- The device is halted (05_power_states.md R190). -/
def State.halted (s : State) : Bool := s.flag R.SYS_HALT_HALTED

def State.stage (s : State) : Nat := s.get R.SYS_STAGE_STAGE

/-- SYS_PSTATE.STATE: 1 HOLD, 2 FULL, 3 QUIET, 4 NET, 5 STANDBY (never read), 6 SERVICE. -/
def State.pstate (s : State) : Nat := s.get R.SYS_PSTATE_STATE

/-- Stage 2 has been entered since reset: the stage, or after a halt the image in force, says so (01_device_overview.md R40;
16_host_interface_rings.md R622). -/
def stage2Entered (s : State) : Bool := decide (s.stage ≥ 2) || (s.halted && decide (s.vnr.full ≠ []))

/-- An output of the device, oldest first. -/
def State.emit (s : State) (o : Output) : State := { s with out := s.out ++ [o] }

/-- What the latest read of an agent returned. -/
def respond (aid : Nat) (v : Word) (s : State) : State := { s with resp := mput (fun _ => 0) s.resp aid v }

/-- The command answers a next state in which nothing has changed: its condition does not hold (assumption 2). -/
def stay (s : State) : Out := .next s

/-! Threads' events and watchdogs (12_whorl_cores_threads.md R455, R456, R462). -/

/-- A thread runs on from a wait in TGET, SLEEP or WAITLK: its watchdog counts from 0. -/
def Thread.wake (now : Nat) (t : Thread) : Thread := { t with st := 1, waitOn := 0, wdogAcc := 0, wdogFrom := now }

/-- Sets an event bit of a thread; a thread asleep with the bit unmasked runs again. -/
def raiseEvent (tid bit : Nat) (s : State) : State :=
  let t := s.thread tid
  let t := { t with evp := t.evp ||| 2 ^ bit }
  s.setThread tid (if t.st = 2 ∧ t.waitOn = 2 ∧ t.evp &&& t.evm ≠ 0 then t.wake (s.tnow (islWHL (tid / 8))) else t)

/-! Notices (17_notices_interrupts.md). -/

/-- The host port is PCIe (04_staged_start.md R128). -/
def State.hostPcie (s : State) : Bool :=
  let b := s.get R.SYS_STRAP_BOOT
  b = 0 || b = 2

/-- The host port is QSPI. -/
def State.hostQspi (s : State) : Bool :=
  let b := s.get R.SYS_STRAP_BOOT
  b = 1 || b = 3

/-- Memory requests of the function may be sent (16_host_interface_rings.md R584). -/
def State.busMaster (s : State) : Bool := s.hif.bme && !s.hif.d3hot && s.flag R.HIF_STAT_LINKUP

/-- A vector is masked, by its own mask or the function's (R640). -/
def State.vecMasked (s : State) (v : Nat) : Bool := s.hif.fmask || mget (fun _ => true) s.hif.vmask v

/-- Sends one message for a vector, or leaves it pending (R640). -/
def sendMsix (v : Nat) (s : State) : State :=
  if s.vecMasked v || !s.busMaster then { s with evt.pba := mput (fun _ => false) s.evt.pba v true }
  else { s with evt.sent := s.evt.sent ++ [v] }

/-- Delivers a source's notice to INTN (R642). -/
def toIntn (n : Nat) (s : State) : State := { s with evt.intn := mput (fun _ => false) s.evt.intn n true }

/-- Delivers one notice of a source by the route in force (R637 to R641). -/
def deliver (n : Nat) (s : State) : State :=
  match s.get (R.EVT_ROUTE_KIND n) with
  | 0 =>
    if !s.hostPcie || !s.hif.msixEn then toIntn n (s.set R.EVT_STAT_MSIXOFF 1)
    else sendMsix (s.get (R.EVT_ROUTE_VECTOR n)) s
  | 1 =>
    let c := s.get (R.EVT_ROUTE_CORE n)
    if (s.core c).svc && s.up (islWHL c) && !(s.core c).patching then
      raiseEvent (8 * c + s.get (R.EVT_ROUTE_THREAD n)) (8 + s.get (R.EVT_ROUTE_INPUT n)) s
    else toIntn n (s.set R.EVT_STAT_REDIR 1)
  | _ => toIntn n s

/-- The sticky bit of a source, as a field of EVT_PEND. -/
def stickyFld (n : Nat) : Fld := ⟨R.EVT_PEND (n / 32), n % 32, 1⟩

/-- A crossing of a source in the event router (R632, R636, R646). -/
def crossEvt (n : Nat) (s : State) : State :=
  if !s.live islHIF then s
  else if s.flag (stickyFld n) then s
  else
    let s := s.set (stickyFld n) 1
    if s.flag (R.EVT_ROUTE_EN n) then deliver n s else s

/-- Outstanding entries of a queue pair, those of a read in flight among them (R592). -/
def Qp.infl (x : Qp) : Nat := x.out.length + (match x.fetch with | some (_, n) => n | none => 0)

/-- The sum of MAXINFL over queue pairs that are not FREE, with the admin queue pair's 16 (R594, R628). -/
def inflBudget (s : State) : Nat :=
  s.hif.qps.foldl (fun n e => if e.1 ≠ 0 ∧ e.2.st ≠ 0 then n + e.2.maxinfl else n) 16

/-- Outstanding entries device-wide. -/
def inflUsed (s : State) : Nat := s.hif.qps.foldl (fun n e => n + e.2.infl) 0

/-- HIF_INFL (16_host_interface_rings.md R628). -/
def inflWord (s : State) : Word := BitVec.ofNat 32 (inflUsed s + inflBudget s * 65536)

/-- The 64 bytes of a snapshot (25_diagnostics_service.md R883). -/
def snapshotBytes (n : Nat) (s : State) : List Byte :=
  let rail (i o : Nat) : Nat := if s.up i then (s.rd o).toNat else 0
  leBytes 8 (s.tnow islSAFE) ++ [BitVec.ofNat 8 n, BitVec.ofNat 8 s.stage, BitVec.ofNat 8 s.pstate, 0]
    ++ leBytes 4 (s.rd R.SUP_VBAT).toNat ++ leBytes 4 (rail islPWS R.PWS_LATCH) ++ leBytes 4 (s.rd R.CLK_NSTAT).toNat
    ++ (List.range 12).flatMap (fun z => leBytes 2 (s.get (R.THM_ZREAD_T z)))
    ++ leBytes 4 (if s.up islDST then s.dst.tasks.length + (if s.dst.tasks.length = 8192 then 65536 else 0) else 0)
    ++ leBytes 4 (if s.up islHIF then (inflWord s).toNat else 0) ++ leBytes 4 (s.rd R.SYS_HALT).toNat
    ++ leBytes 4 (s.dgn.snapCount + 1)

/-- A DGN cause set by the snapshot itself: it crosses N86 and captures nothing (assumption 10). -/
def snapCause (f : Fld) (s : State) : State :=
  let s := s.set f 1
  if s.flag ⟨f.off + 4, f.lo, f.w⟩ then crossEvt 86 s else s

/-- Captures a snapshot at a crossing (R882). -/
def snapshot (n : Nat) (s : State) : State :=
  if !s.up islSAFE then s
  else if s.dgn.snaps.length < 16 then
    snapCause R.DGN_NSTAT_SNAP
      { s with dgn.snaps := s.dgn.snaps ++ [snapshotBytes n s], dgn.snapCount := (s.dgn.snapCount + 1) % 2 ^ 32 }
  else snapCause R.DGN_NSTAT_SNAPOVF (s.bump R.DGN_CNT_SNAPLOST)

/-- A crossing of source n (R630, R632; snapshots by 25_diagnostics_service.md R882). -/
def crossing (n : Nat) (s : State) : State :=
  let s := crossEvt n s
  if s.flag ⟨R.DGN_SNAP_EN (n / 32), n % 32, 1⟩ then snapshot n s else s

/-! The Ply pair (22_ply_pair.md). -/

/-- PLY_STAT.ROLE: 0 SINGLE, 1 ALONE, 2 LEADER, 3 FOLLOWER (R786). -/
def State.role (s : State) : Nat := s.get R.PLY_STAT_ROLE

def State.leader (s : State) : Bool := decide (s.role = 2)

def State.follower (s : State) : Bool := decide (s.role = 3)

/-- A record goes to the partner while this strand is LEADER (R796); epoch-lane records are counted. -/
def plySend (r : LogRec) (s : State) : State :=
  if !s.leader then s
  else
    let fast := match r with | .vbat _ _ => true | .tdm _ _ => true | .latch _ _ _ => true | .end_ _ _ _ _ => true | _ => false
    let s := s.emit (.ply r)
    if fast then s else { s with ply.sent := s.ply.sent + 1 }

/-- Sources that name a fault class of R45 for the verdict of R811 (assumption 50). -/
def plyFaultSource (n : Nat) : Bool :=
  decide (8 ≤ n ∧ n ≤ 23) || [29, 30, 37, 38, 39, 44, 59, 65, 69].contains n

/-- A fault class's cause was set in this epoch (R811). -/
def plyFault (s : State) : State := if s.role ≥ 2 then { s with ply.faultNow := true } else s

/-- Sets a cause bit of a block's NSTAT register; where the matching NEN bit (the register 4 bytes above) is 1 the
event is a crossing of source n (R629, R630). -/
def cause (f : Fld) (n : Nat) (s : State) : State :=
  let s := s.set f 1
  let s := if plyFaultSource n then plyFault s else s
  if s.flag ⟨f.off + 4, f.lo, f.w⟩ then crossing n s else s

/-- INTN is asserted (R642). SYS_WAKE.CAN that is still set from an earlier STANDBY asserts it at the next STANDBY entry (assumption
173). -/
def State.intnAsserted (s : State) : Bool :=
  s.flag R.SYS_WAKE_CAN && s.pstate = 5 ||
    s.evt.intn.any fun e => e.2 && s.flag (R.EVT_ROUTE_EN e.1) && s.flag (stickyFld e.1)

/-! Which agents are the host (04_staged_start.md R150, 05_power_states.md R171). -/

/-- The access comes from the host through its port. -/
def isHost : Agent → Bool
  | .host => true
  | _ => false

/-- The lock and access agent IDs (10_buffers_and_locks.md R389). -/
def agentId : Agent → Nat
  | .thread n t => 8 * n + t
  | .host => 0x200
  | .panel p _ => 0x208 + p
  | .debug => 0x210

end Sys2Proof.Machine
end

