-- ==== Sys2Proof/Machine/Ply.lean ====
section
/-!
DEFINITION. The parts of the Ply pair that other blocks use: the edge-word digest, request keys and answers, kept buffers,
battery readings, and the comparison of slot closes (22_ply_pair.md R795 to R811).
-/
namespace Sys2Proof.Machine

/-! Digest (R808, R809). -/

/-- PLY_CFG.SETTLE, 1 to 15. -/
def settleEpochs (s : State) : Nat := max 1 (s.get R.PLY_CFG_SETTLE)

/-- The panel that modulates a channel, if any. -/
def panelOfCh (s : State) (c : Nat) : Option Nat :=
  let f := (mget (fun _ => AudCh.reset) s.aud.ch c).modF
  if 1 ≤ f ∧ f ≤ 8 then some (f - 1) else none

/-- The digest omits a channel while its modulator panel is patched, and for SETTLE epochs after the patch or a join (R809). -/
def omitted (s : State) (c : Nat) : Bool :=
  decide (mget (fun _ => 0) s.ply.omits c ≠ 0) ||
    match panelOfCh s c with
    | some p => decide (s.get (R.VNR_PANEL_STAT_STATE p) = 2) && !mget (fun _ => false) s.vnr.rewriting p
    | none => false

/-- A patch of panel p has ended: its channels stay out of the digest for SETTLE epochs. -/
def omitAfterPatch (p : Nat) (s : State) : State :=
  if s.role < 2 then s
  else
    let m := (List.range 16).foldl (fun m c => if panelOfCh s c = some p then mput (fun _ => 0) m c (settleEpochs s) else m) s.ply.omits
    { s with ply.omits := m }

/-- An edge word as 8 bytes: RISE_A, FALL_A, RISE_B, FALL_B (assumption 51). -/
def wordCode (w : Nat × Nat × Nat × Nat) : Nat :=
  w.1 % 65536 + w.2.1 % 65536 * 2 ^ 16 + w.2.2.1 % 65536 * 2 ^ 32 + w.2.2.2 % 65536 * 2 ^ 48

/-- AUD's edge word of a channel's next period enters the epoch's digest (R808). -/
def digestWord (c : Nat) (w : Nat × Nat × Nat × Nat) (s : State) : State :=
  if s.role < 2 then s
  else
    let n := mget (fun _ => 0) s.ply.periods c
    let s := { s with ply.periods := mput (fun _ => 0) s.ply.periods c (n + 1) }
    if omitted s c then s else { s with ply.words := mput (fun _ => none) s.ply.words (n * 16 + c) (some (wordCode w)) }

/-- The digest of the words of the epoch so far, in period order, then channel order. -/
def digestNow (s : State) : Nat :=
  crc32 (s.ply.words.flatMap fun e => match e.2 with | some w => leBytes 8 w | none => [])

/-! Logged requests (R796, R797). -/

/-- The key of an agent's next request. -/
def reqKey (s : State) (aid : Nat) : ReqKey :=
  let n := mget (fun _ => 0) s.ply.reqs aid
  let task := if aid < 384 then (s.thread aid).task.bind fun id => s.dst.tasks.find? fun t => decide (t.id = id) else none
  match task with
  | some t => .task t.pkt.yarn t.seq n
  | none => .agent aid n

def bumpReq (aid : Nat) (s : State) : State :=
  { s with ply.reqs := mput (fun _ => 0) s.ply.reqs aid (mget (fun _ => 0) s.ply.reqs aid + 1) }

/-- A task or a started thread counts its requests from 0. -/
def resetReqs (aid : Nat) (s : State) : State := { s with ply.reqs := mput (fun _ => 0) s.ply.reqs aid 0 }

/-- The LEADER logs the answer of a request. Kinds: 0 buffer allocation, 1 lock read, 2 fetch-and-add, 3 host read. -/
def logAnswer (aid kind : Nat) (v : Word) (s : State) : State :=
  if !s.leader then s else bumpReq aid (plySend (.answer (reqKey s aid) kind v) s)

/-- The FOLLOWER's answer to a request, once it is consumable. -/
def takeAnswer (aid kind : Nat) (s : State) : Option (Word × State) :=
  let k := reqKey s aid
  match s.ply.answers.find? fun e => decide (e.1 = k ∧ e.2.1 = kind) with
  | some e => some (e.2.2, bumpReq aid { s with ply.answers := s.ply.answers.filter fun x => decide (x ≠ e) })
  | none => none

/-! Battery readings (R796, R801). -/

/-- The reading that the gain uses from now on: of a joined pair the one before. -/
def gainReading (v : Nat) (s : State) : State :=
  if s.role < 2 then { s with aud.vbat := some v, ply.vbatNext := none }
  else { s with aud.vbat := s.ply.vbatNext.orElse (fun _ => s.aud.vbat), ply.vbatNext := some v }

/-- A strand's own reading: the LEADER's is logged, the FOLLOWER's own is not used. -/
def ownReading (v : Nat) (s : State) : State :=
  if s.follower then s else plySend (.vbat v (s.get R.SUP_VBAT_SEQ)) (gainReading v s)

/-! Kept buffers (R799). -/

def epochNow (s : State) : Nat := s.rd64 R.PLY_EPOCH_LO

/-- The LEADER keeps an admitted frame's buffer. -/
def keepBuf (k : Nat) (s : State) : State :=
  if !s.leader then s else { s with ply.kept := s.ply.kept ++ [(k, epochNow s, false)] }

def isKept (s : State) (k : Nat) : Bool := s.ply.kept.any fun e => decide (e.1 = k) && !e.2.2

/-- A kept buffer that is freed waits for the FOLLOWER. -/
def markFreed (k : Nat) (s : State) : State :=
  { s with ply.kept := s.ply.kept.map fun e => if e.1 = k ∧ e.2.2 = false then (e.1, e.2.1, true) else e }

/-! Comparison (R810, R811). -/

/-- A mismatch: recorded, and the own verdict formed and sent. -/
def mismatch (epoch : Nat) (s : State) : State :=
  let s := s.wr R.PLY_LAST (BitVec.ofNat 32 epoch)
  let s := cause R.PLY_NSTAT_MISMATCH 33 (s.bump R.PLY_CNT_MISMATCH)
  let v := !(s.ply.faultNow || s.ply.faultPrev)
  { (s.emit (.ply (.verdict v))) with ply.verdict := some v }

/-- A difference is explained: the LEADER's FAULT flag is set, or the own copy was dropped after its own fault. -/
def explained (own lead : CloseRec) : Bool := decide (own = { lead with fault := own.fault }) || lead.fault || own.fault

/-- Compares the closes that both strands have reported for one yarn and SEQ. -/
def compareClose (r : CloseRec) (s : State) : State :=
  let same (x : CloseRec) : Bool := decide (x.yarn = r.yarn ∧ x.seq = r.seq)
  match s.ply.mine.find? same, s.ply.theirs.find? same with
  | some a, some b =>
    let s := { s with ply.mine := s.ply.mine.filter (fun x => !same x), ply.theirs := s.ply.theirs.filter (fun x => !same x) }
    if explained a b then s else mismatch (epochNow s) s
  | _, _ => s

/-- A slot close on this strand: logged by the LEADER, compared by the FOLLOWER (R796, R810). -/
def closed (r : CloseRec) (s : State) : State :=
  if s.leader then plySend (.close r.yarn r.seq r.disp r.mask r.len r.fault) s
  else if s.follower then compareClose r { s with ply.mine := s.ply.mine ++ [r] }
  else s

end Sys2Proof.Machine
end

