-- ==== Sys2Proof/Machine/Pools.lean ====
section
/-!
DEFINITION. Buffer pools and their commands (10_buffers_and_locks.md R364 to R387).
-/
namespace Sys2Proof.Machine

/-- A buffer's key in the tag map: pool and INDEX, the bits of its handle (R369). -/
def bufKey (i idx : Nat) : Nat := i * 2 ^ 18 + idx

def hPool (h : Nat) : Nat := bitsOf h 18 3
def hIndex (h : Nat) : Nat := bitsOf h 0 18

def poolSize (s : State) (i : Nat) : Nat := 64 * s.get (R.BPM_POOL_CFG_SIZE i)
def poolCount (s : State) (i : Nat) : Nat := s.get (R.BPM_POOL_COUNT_N i)
def poolBitmap (s : State) (i : Nat) : Bool := s.flag (R.BPM_POOL_CFG_MODE i)
def poolFree (s : State) (i : Nat) : Nat := s.get (R.BPM_POOL_FREE_N i)
def usedOf (s : State) (o i : Nat) : Nat := s.get (R.BPM_USED_N o i)
def minOf (s : State) (o i : Nat) : Nat := s.get (R.BPM_OWN_MIN_N o i)
/-- The effective cap (R376). -/
def capOf (s : State) (o i : Nat) : Nat := max (s.get (R.BPM_OWN_CAP_N o i)) (minOf s o i)

/-- A buffer's tag byte (R374). -/
def tagOf (s : State) (k : Nat) : Nat := mget (fun _ => 0x40) s.bpm.tags k

def setTag (k v : Nat) (s : State) : State := { s with bpm.tags := mput (fun _ => 0x40) s.bpm.tags k v }

/-- The first byte of a buffer in packet memory (R369). -/
def bufAddr (s : State) (h : Nat) : Nat := s.get (R.BPM_POOL_BASE_OFS (hPool h)) + hIndex h * poolSize s (hPool h)

/-- The reservations of a pool that their owners have not used (R376). -/
def unusedRes (s : State) (i : Nat) : Nat :=
  (List.range 64).foldl (fun a o => a + (minOf s o i - usedOf s o i)) 0

/-- SHARED (R376); 0 while FREE is below the unused reservations (R385). -/
def poolShared (s : State) (i : Nat) : Nat := poolFree s i - unusedRes s i

/-- R377: pool i allows a request of owner o. -/
def poolAllows (s : State) (o i : Nat) : Bool :=
  decide (usedOf s o i < minOf s o i ∧ poolFree s i > 0) ||
    decide (minOf s o i ≤ usedOf s o i ∧ usedOf s o i < capOf s o i ∧ poolShared s i > 0)

/-- The pools in order of buffer size, lower number first among equals (R365). -/
def poolOrder (s : State) : List Nat :=
  let ins (l : List Nat) (i : Nat) : List Nat :=
    l.filter (fun j => decide (poolSize s j ≤ poolSize s i)) ++ [i] ++ l.filter fun j => decide (poolSize s j > poolSize s i)
  (List.range 8).foldl ins []

/-- The pools a request of a length may use, the first choice first (R365, R366). -/
def poolChoices (s : State) (len : Nat) : List Nat :=
  (poolOrder s).filter fun i => decide (max len 1 ≤ poolSize s i)

/-- Evaluates a pool's levels after an operation: crossings of the watermarks and of SHORT (R385 to R387). -/
def poolEval (i : Nat) (s : State) : State :=
  let low := decide (poolFree s i < s.get (R.BPM_POOL_LWM_WM i))
  let high := decide (poolFree s i > s.get (R.BPM_POOL_HWM_WM i))
  let short := decide (poolFree s i < unusedRes s i)
  let l0 := s.flag (R.BPM_POOL_STAT_LOWLVL i)
  let h0 := s.flag (R.BPM_POOL_STAT_HIGHLVL i)
  let s0 := s.flag (R.BPM_POOL_STAT_SHORT i)
  let s := ((s.set (R.BPM_POOL_STAT_LOWLVL i) (b2n low)).set (R.BPM_POOL_STAT_HIGHLVL i) (b2n high)).set
    (R.BPM_POOL_STAT_SHORT i) (b2n short)
  let s := if low && !l0 then cause ⟨R.BPM_NSTAT, i, 1⟩ 62 s else s
  let s := if high && !h0 then cause ⟨R.BPM_NSTAT, 8 + i, 1⟩ 63 s else s
  if short && !s0 then cause R.BPM_NSTAT_SHORT 65 s else s

/-- The live levels after a watermark is written: no crossing (R386). -/
def poolLevels (i : Nat) (s : State) : State :=
  (s.set (R.BPM_POOL_STAT_LOWLVL i) (b2n (poolFree s i < s.get (R.BPM_POOL_LWM_WM i)))).set
    (R.BPM_POOL_STAT_HIGHLVL i) (b2n (poolFree s i > s.get (R.BPM_POOL_HWM_WM i)))

def cacheOf (s : State) (i : Nat) : List Nat := mget (fun _ => []) s.bpm.cache i
def spilledOf (s : State) (i : Nat) : List Nat := mget (fun _ => []) s.bpm.spilled i
def setCache (i : Nat) (l : List Nat) (s : State) : State := { s with bpm.cache := mput (fun _ => []) s.bpm.cache i l }
def setSpilled (i : Nat) (l : List Nat) (s : State) : State :=
  { s with bpm.spilled := mput (fun _ => []) s.bpm.spilled i l }

/-- Indexes of a ring-mode pool that stand in the ring since apply: free, not in the cache, not spilled since. -/
def ringFresh (s : State) (i : Nat) : List Nat :=
  (List.range (poolCount s i)).filter fun x =>
    tagOf s (bufKey i x) = 0x40 && !(cacheOf s i).contains x && !(spilledOf s i).contains x

/-- Takes one index from the ring into the bottom of the cache: the entries of apply first, in an order the spec does
not state (a free value chooses), then spilled entries, oldest first (R371, assumption 12). -/
def ringTake (i : Nat) (s : State) : State :=
  match ringFresh s i with
  | x :: xs =>
    let (v, s) := s.draw 1
    let l := x :: xs
    setCache i (cacheOf s i ++ [l.getD (v % l.length) x]) s
  | [] =>
    match spilledOf s i with
    | x :: xs => setCache i (cacheOf s i ++ [x]) (setSpilled i xs s)
    | [] => s

/-- Takes up to `n` indexes from the ring. -/
def ringRefill (i : Nat) : Nat → State → State
  | 0, s => s
  | n + 1, s => ringRefill i n (ringTake i s)

/-- Charges a buffer to an owner: tag, USED, FREE (R374, R376). -/
def chargeBuf (o i idx tag : Nat) (s : State) : State :=
  let s := setTag (bufKey i idx) tag s
  let s := s.set (R.BPM_USED_N o i) (usedOf s o i + 1)
  poolEval i (s.set (R.BPM_POOL_FREE_N i) (poolFree s i - 1))

/-- The lowest free INDEX (R372). -/
def lowestFree (s : State) (i : Nat) : Nat :=
  ((List.range (poolCount s i)).find? fun x => tagOf s (bufKey i x) = 0x40).getD 0

/-- Picks the buffer to grant: bitmap mode the lowest free INDEX, ring mode the most recently freed of the cache, which
is refilled first when it is empty (R371, R372). -/
def pickBuf (i : Nat) (s : State) : Nat × State :=
  if poolBitmap s i then (lowestFree s i, s)
  else
    let s := if cacheOf s i = [] then ringRefill i 16 s else s
    match cacheOf s i with
    | x :: xs =>
      let s := setCache i xs s
      (x, if xs.length = 16 then { s with bpm.refill := mput (fun _ => false) s.bpm.refill i true } else s)
    | [] => (0, s)

/-- Grants a buffer of pool i to owner o. -/
def grantBuf (o i : Nat) (s : State) : Nat × State :=
  let (idx, s) := pickBuf i s
  (bufKey i idx, chargeBuf o i idx o s)

/-- What a request finds: a pool to grant from, no buffer, or too long for every pool (R366, R367). -/
inductive PoolPick
  | grant (i : Nat)
  | noBuf (first : Nat)
  | tooBig
deriving DecidableEq, Repr

/-- The pool that answers a request; `extra` is the requester's own limit (12_whorl_cores_threads.md R459). -/
def choosePool (s : State) (o len : Nat) (esc : Bool) (extra : Nat → Bool) : PoolPick :=
  match poolChoices s len with
  | [] => .tooBig
  | i :: is =>
    match (if esc then i :: is else [i]).find? fun j => extra j && poolAllows s o j with
    | some j => .grant j
    | none => .noBuf i

/-- A failed request counts against its first-choice pool (R381). -/
def countFail (i : Nat) (s : State) : State :=
  cause ⟨R.BPM_NSTAT, 16 + i, 1⟩ 64 (s.bump (R.BPM_CNT_FAIL i))

/-- A request and its answer: status 0 OK with the handle, 1 NOBUF, 2 TOOBIG (R366, R367, R381, R538). -/
def requestBuf (o len : Nat) (esc : Bool) (extra : Nat → Bool) (s : State) : Nat × Nat × State :=
  match choosePool s o len esc extra with
  | .grant j =>
    let (h, s) := grantBuf o j s
    (0, h, s)
  | .noBuf i => (1, 0, countFail i s)
  | .tooBig => (2, 0, s)

/-- The escalate flag of a port, host queue group or IST (R368). -/
def escBit (s : State) (o : Nat) : Bool :=
  if o < 32 then bitOf (s.rd R.BPM_ESC_LO).toNat o else bitOf (s.rd R.BPM_ESC_HI).toNat (o - 32)

/-- No limit of the requester's own. -/
def noLimit (_ : Nat) : Bool := true

/-- R382: the handle names no buffer. -/
def badHandle (s : State) (h : Nat) : Bool :=
  decide (h ≥ 2 ^ 21) || decide (poolCount s (hPool h) ≤ hIndex h)

def badFree (s : State) : State := cause R.BPM_NSTAT_BADFREE 65 (s.bump R.BPM_CNT_BADFREE)

/-- Puts a freed INDEX on the cache, spilling its 16 oldest entries to the ring at 48 (R371). -/
def cachePush (i idx : Nat) (s : State) : State :=
  let l := idx :: cacheOf s i
  if l.length = 48 then setCache i (l.take 32) (setSpilled i (spilledOf s i ++ (l.drop 32).reverse) s)
  else setCache i l s

/-- Notes the thread group that keeps a buffer; 0 none (11_distaff_and_yarns.md R417). -/
def setThreadKept (k o : Nat) (s : State) : State :=
  { s with bpm.threadKept := mput (fun _ => 0) s.bpm.threadKept k o }

/-- Quarantines a buffer (R384). -/
def quarantine (k : Nat) (s : State) : State :=
  let i := hPool k
  let s := setTag k 0x7F s
  let s := { s with bpm.marked := mput (fun _ => false) s.bpm.marked k false }
  cause R.BPM_NSTAT_QUAR 65 (s.set (R.BPM_POOL_STAT_QUAR i) (s.get (R.BPM_POOL_STAT_QUAR i) + 1))

/-- Returns a charged buffer to its pool, or to quarantine where it is marked (R379, R384). -/
def releaseBuf (owner k : Nat) (s : State) : State :=
  let i := hPool k
  let s := setThreadKept k 0 (s.set (R.BPM_USED_N owner i) (usedOf s owner i - 1))
  if mget (fun _ => false) s.bpm.marked k then poolEval i (quarantine k s)
  else
    let s := setTag k 0x40 s
    let s := if poolBitmap s i then s else cachePush i (hIndex k) s
    poolEval i (s.set (R.BPM_POOL_FREE_N i) (poolFree s i + 1))

/-- Frees the buffer of a handle, or ignores a bad free (R379, R382). -/
def freeBuf (h : Nat) (s : State) : State :=
  if badHandle s h || decide (tagOf s h > 0x3F) then badFree s
  else if isKept s h then markFreed h s
  else releaseBuf (tagOf s h) h s

/-- An uncorrectable word in a buffer marks it: a free buffer is quarantined at once (R384). -/
def markBuf (k : Nat) (s : State) : State :=
  let i := hPool k
  if tagOf s k = 0x40 then
    let s := if poolBitmap s i then s
      else setCache i ((cacheOf s i).filter (· ≠ hIndex k)) (setSpilled i ((spilledOf s i).filter (· ≠ hIndex k)) s)
    poolEval i (quarantine k (s.set (R.BPM_POOL_FREE_N i) (poolFree s i - 1)))
  else if tagOf s k = 0x7F then s
  else { s with bpm.marked := mput (fun _ => false) s.bpm.marked k true }

/-- Lends a free buffer of a bitmap-mode pool to IST (R383); none where no loan is granted. -/
def loanBuf (i idx : Nat) (s : State) : Option State :=
  let fromShared := decide (minOf s 25 i ≤ usedOf s 25 i)
  if poolBitmap s i && decide (idx < poolCount s i) && decide (tagOf s (bufKey i idx) = 0x40) && poolAllows s 25 i
      && (!fromShared || decide (poolShared s i ≥ s.get R.BPM_LOAN_FLOOR)) then
    let s := chargeBuf 25 i idx 0x7E s
    some (s.set (R.BPM_POOL_STAT_LOANED i) (s.get (R.BPM_POOL_STAT_LOANED i) + 1))
  else none

/-- IST returns a loaned buffer (R382, R383). -/
def loanReturn (k : Nat) (s : State) : State :=
  let i := hPool k
  releaseBuf 25 k (s.set (R.BPM_POOL_STAT_LOANED i) (s.get (R.BPM_POOL_STAT_LOANED i) - 1))

/-- The BPM's answer to a requester. -/
def answerBuf (a : BufAns) (s : State) : State := { s with bpm.answers := s.bpm.answers ++ [a] }

def isHostOwner (o : Nat) : Bool := decide (9 ≤ o ∧ o ≤ 16)

/-- On a halt the BPM grants no port or host queue group request (R399). -/
def haltBars (s : State) (o : Nat) : Bool := s.halted && decide (o ≤ 16)

/-- Serves a request of the weft: grants it, lets a host queue group wait, makes it wait for a cache refill, or answers
the failure (R367, R371, R381). -/
def serveBuf (q : BufReq) (s : State) : State :=
  match choosePool s q.owner q.len q.esc noLimit with
  | .grant j =>
    if !poolBitmap s j && decide (cacheOf s j = []) then
      { s with bpm.waiting := mput (fun _ => []) s.bpm.waiting j (mget (fun _ => []) s.bpm.waiting j ++ [q])
               bpm.refill := mput (fun _ => false) s.bpm.refill j true }
    else
      let (h, s) := grantBuf q.owner j s
      answerBuf ⟨q.owner, 0, h⟩ s
  | .noBuf i =>
    let s := countFail i s
    if isHostOwner q.owner then { s with bpm.hostWait := mput (fun _ => none) s.bpm.hostWait q.owner (some q) }
    else answerBuf ⟨q.owner, 1, 0⟩ s
  | .tooBig => answerBuf ⟨q.owner, 2, 0⟩ s

/-- The escalate flag that applies to a request (R368). -/
def reqEsc (s : State) (o : Nat) (esc : Bool) : Bool := if o < 17 ∨ o = 25 then escBit s o else esc

/-- BUFFER_REQUEST (R365 to R369, R381). -/
def execBufferRequest (owner len : Nat) (esc : Bool) (s : State) : Out :=
  if !s.up islBPM || decide (owner ≥ 50) || haltBars s owner then stay s
  else .next (serveBuf ⟨owner, len, reqEsc s owner esc⟩ s)

/-- BUFFER_WAIT_GRANT: a waiting host queue group request is granted once R377 allows it (R381). -/
def execBufferWaitGrant (owner : Nat) (s : State) : Out :=
  match mget (fun _ => none) s.bpm.hostWait owner with
  | none => stay s
  | some q =>
    if !s.up islBPM || haltBars s owner then stay s
    else
      match choosePool s q.owner q.len q.esc noLimit with
      | .grant j =>
        let (h, s) := grantBuf q.owner j { s with bpm.hostWait := mput (fun _ => none) s.bpm.hostWait owner none }
        .next (answerBuf ⟨q.owner, 0, h⟩ s)
      | _ => stay s

/-- CACHE_REFILL_DONE: 16 indexes come in from the ring and the waiting requests proceed (R371). -/
def execCacheRefillDone (pool : Nat) (s : State) : Out :=
  if !s.up islBPM || !mget (fun _ => false) s.bpm.refill pool then stay s
  else
    let qs := mget (fun _ => []) s.bpm.waiting pool
    let s := { s with bpm.refill := mput (fun _ => false) s.bpm.refill pool false
                      bpm.waiting := mput (fun _ => []) s.bpm.waiting pool [] }
    .next (qs.foldl (fun s q => serveBuf q s) (ringRefill pool 16 s))

/-- BUFFER_FREE: any agent that holds a handle frees the buffer (R379, R382, R384, R386). -/
def execBufferFree (handle : Nat) (s : State) : Out :=
  if !s.up islBPM then stay s else .next (freeBuf handle s)

/-- The buffer that an address of packet memory lies in. -/
def bufferAt (s : State) (addr : Nat) : Option Nat :=
  ((List.range 8).find? fun i =>
    let b := s.get (R.BPM_POOL_BASE_OFS i)
    decide (poolSize s i ≠ 0) && decide (b ≤ addr ∧ addr < b + poolCount s i * poolSize s i)).map
    fun i => bufKey i ((addr - s.get (R.BPM_POOL_BASE_OFS i)) / poolSize s i)

/-- Software holds the memory at an offset: it lies in a buffer that is charged to an owner (18_audio_path.md R667). -/
def heldMem (s : State) (a : Nat) : Bool :=
  match bufferAt s a with
  | some k => decide (tagOf s k ≤ 0x3F)
  | none => false

end Sys2Proof.Machine
end

