-- ==== Sys2Proof/Machine/RegField.lean ====
section
/-!
DEFINITION. What the register tables say of a register's bits: which are listed (00_scope.md R23), which fields have limits, and what
a written word puts in force (R18).
-/
namespace Sys2Proof.Machine

/-- Bits of a word under a mask. -/
def maskN (m : Nat) : Word := BitVec.ofNat 32 m

/-- Fields whose out-of-range values take effect as the nearer limit: lowest bit, width, least and greatest value (03_islands_and_weft.md
R113, R114; 08_ports_and_tsn.md R291, R301, R313, R326; 09_parser_classifier.md R363; 10_buffers_and_locks.md R402;
11_distaff_and_yarns.md R406; 12_whorl_cores_threads.md R475; 15_forwarding_learning.md R578; 18_audio_path.md R671, R677, R679,
R683, R701; 19_power_stage_protection.md R708, R712; 21_thermal_fans.md R772, R784; 22_ply_pair.md R825; 25_diagnostics_service.md
R898). -/
def fieldLimits (o : Nat) (v : Word) : List (Nat × Nat × Nat × Nat) :=
  if o = R.CLK_SLOW_THR then [(0, 11, 400, 2047)]
  else if o = R.CLK_CAP then [(0, 11, 400, 1600), (11, 11, 300, 1200), (22, 10, 100, 600)]
  else if o = R.PLY_CFG then [(8, 4, 1, 15)]
  else if 0x80000 ≤ o ∧ o < 0x90000 then
    (if 0x80400 ≤ o ∧ o < 0x804C0 then [(16, 10, 0, 1000)]
    else if [0, 1, 2, 3].any fun k => decide (o = R.THM_NTC_B k) then [(0, 16, 1, 65535)] else [])
  else if 0xA0100 ≤ o ∧ o < 0xA0300 ∧ o % 0x20 = 0 then [(0, 9, 0, 400), (16, 9, 40, 400)]
  else if o = R.AUD_MOD then [(0, 4, 2, 8), (8, 8, 0, 252)]
  else if o = R.AUD_RT then [(0, 16, 6000, 40000)]
  else if 0xB0100 ≤ o ∧ o < 0xB0500 ∧ o % 0x40 = 4 then [(16, 5, 6, 16), (24, 8, 1, 255)]
  else if 0xB0C00 ≤ o ∧ o < 0xB0C80 ∧ o % 0x20 = 0 then [(4, 4, 0, if v.getLsbD 2 then 7 else 15)]
  else if o = R.DGN_UNLK_TO then [(0, 12, 1, 3600)]
  else if o = R.PRT_HOLD then [(0, 14, 10, 10000)]
  else if 0x110000 ≤ o ∧ o < 0x1A0000 then
    (if o % 0x10000 = 0 then [(16, 14, 64, 9216)]
    else if o % 0x10000 = 0x110 then [(0, 32, 1000, 1000000000)]
    else if o = 0x190300 then [(24, 8, 1, 255)]
    else if o = 0x190308 then [(0, 8, 1, 255)] else [])
  else if o = R.PRS_YEL then [(0, 4, 1, 8)]
  else if o = R.FWD_LRN_RATE then [(0, 13, 1, 4096), (16, 13, 1, 4096)]
  else if o = R.FWD_AUD_CTL then [(8, 8, 10, 40), (16, 12, 0, 2928)]
  else if 0x301000 ≤ o ∧ o < 0x304000 then [(12, 4, 0, 12)]
  else if o = R.BPM_HDRM then [(0, 9, 0, 256)]
  else if 0x424000 ≤ o ∧ o < 0x428000 then [(0, 9, 0, 256)]
  else if 0x800000 ≤ o ∧ o < 0xE00000 ∧ (o - 0x800000) % 0x20000 = 0xC then [(0, 16, 1, 65535)]
  else []

/-- The word that a write of v to the register at an offset puts in force (00_scope.md R18; assumption 131): each limited field within
its limits, CLK_TRATE within ±858,993 (03_islands_and_weft.md R104). -/
def inForce (o : Nat) (v : Word) : Word :=
  if o = R.CLK_TRATE then BitVec.ofInt 32 (max (-858993) (min 858993 v.toInt))
  else (fieldLimits o v).foldl (fun w f => wset w f.1 f.2.1 (clampNat f.2.2.1 f.2.2.2 (wget w f.1 f.2.1))) v

/-- The bits that are not reserved in a word of the tables inside PRT: stream identification, stream filter, recovery, VLAN, meter
and stream gate (08_ports_and_tsn.md R302, R318, R319, R322); none outside them. -/
def prtTableMask (o : Nat) : Option Word :=
  if 0x1A0000 ≤ o ∧ o < 0x1A4000 then
    (match o % 16 / 4 with | 0 => some 0xFFFFFFFF | 1 => some 0x9FFFFFFF | 2 => some 0x1FF | _ => some 0)
  else if 0x1B0000 ≤ o ∧ o < 0x1B2000 then some (if o % 8 < 4 then 0x003FFFFF else 0x000101FF)
  else if 0x1C0000 ≤ o ∧ o < 0x1C2000 then some (if o % 8 < 4 then 0x03FF01FF else 0xFFFF0001)
  else if 0x1D0000 ≤ o ∧ o < 0x1D4000 then some 0x01FF01FF
  else if 0x1E0000 ≤ o ∧ o < 0x1E3FE0 then
    (match o % 32 / 4 with | 4 => some 0x10F | 6 => some 0 | 7 => some 0 | _ => some 0xFFFFFFFF)
  else if 0x1E8000 ≤ o ∧ o < 0x1EFE00 then
    let r := o % 0x200
    if r < 0xC ∨ r = 0x10 ∨ r = 0x14 then some 0xFFFFFFFF
    else if r = 0xC then some 0x0001031F
    else if (0x20 ≤ r ∧ r < 0xA0) ∨ (0x100 ≤ r ∧ r < 0x180) then some (if r % 8 < 4 then 0x1F else 0xFFFFFFFF)
    else some 0
  else none

/-- The bits that a register's table lists under an access code that reads; none where the offset is not assigned. -/
def readableBits (o : Nat) : Word :=
  match regSpec o with
  | some t => maskN t.rw ||| maskN t.ro ||| maskN t.w1c ||| maskN t.rc
  | none => (prtTableMask o).getD 0

/-- The bits that a register's table lists under any access code. -/
def listedBits (o : Nat) : Word :=
  match regSpec o with
  | some t => maskN t.rw ||| maskN t.ro ||| maskN t.w1c ||| maskN t.rc ||| maskN t.wo
  | none => (prtTableMask o).getD 0

/-! Dead time (19_power_stage_protection.md R708). -/

/-- The effective dead time in 0.5 ns units. -/
def dtEff (s : State) (c : Nat) : Nat :=
  max (min (s.get (R.PWS_CH_CFG_DT c)) 400) (max (s.get R.PWS_DTFLOOR_DT) 4)

/-- A write of PWS_CH_CFG shows at once in PWS_CH_DTEFF (R708). -/
def showDt (c : Nat) (s : State) : State := s.set (R.PWS_CH_DTEFF_DT c) (dtEff s c)

end Sys2Proof.Machine
end

