-- ==== Sys2Proof/Machine/Unpredictable.lean ====
section
/-!
DEFINITION. Unpredictable outcomes (00_scope.md R25 to R29, R938; 02_guarantees.md R54 to R60). The machine goes on: what lies inside the
outcome's scope takes values that nothing fixes, and everything outside it, with the protected parts, is left as it was. The scopes
block, panel and device stand here; a thread's with the Whorl words and a queue pair's with the rings (assumption 3).
-/
namespace Sys2Proof.Machine

/-- What an unpredictable outcome may leave behind: register words by offset, bytes of a memory by address, frames on the wire, and the
state of each block that no register shows. -/
structure Hidden where
  words : List (Nat × Word)
  bytes : List (Nat × Byte)
  frames : List (Nat × List Byte)
  flitFails : SMap Nat
  slewFx : Int
  ahead : SMap Int
  vnr : Vnr
  mqy : SMap Panel
  prt : Prt
  prs : Prs
  bpm : Bpm
  locks : SMap Lock
  dst : Dst
  core : Core
  threads : SMap Thread
  fwd : Fwd
  qps : SMap Qp
  dmaq : List (Nat × List Byte)
  evt : Evt
  aud : Aud
  cal : Cal
  ist : Ist
  dgn : Dgn
  ply : Ply
  halt : Bool
deriving DecidableEq, Repr, Inhabited

end Sys2Proof.Machine

namespace Sys2Proof.Config

/-- The contents that an unpredictable outcome leaves, by the free-value counter at its use: no rule fixes them. -/
opaque any (draw : Nat) : Sys2Proof.Machine.Hidden

end Sys2Proof.Config

namespace Sys2Proof.Machine

/-- The contents of one unpredictable outcome, and the state with the free-value counter advanced. -/
def State.havoc (s : State) : Hidden × State := (Config.any s.free, { s with free := s.free + 1 })

/-- The range of offsets of the register block, the core's window or the panel's window that an offset lies in (01_device_overview.md
R36, R37): first and length; length 0 outside every block. -/
def blockSpan (o : Nat) : Nat × Nat :=
  if o < 0xE0000 then (o / 0x10000 * 0x10000, 0x10000)
  else if o < 0xF0000 then (0xE0000, 0)
  else if o < 0x100000 then (0xF0000, 0x10000)
  else if o < 0x400000 then (o / 0x100000 * 0x100000, 0x100000)
  else if o < 0x430000 then (o / 0x10000 * 0x10000, 0x10000)
  else if o < 0x800000 then (0x430000, 0)
  else if o < 0xE00000 then (o / 0x20000 * 0x20000, 0x20000)
  else if o < 0x1000000 then (0xE00000, 0)
  else if o < 0x1800000 then (o / 0x100000 * 0x100000, 0x100000)
  else (0x1800000, 0)

/-- Registers that no unpredictable outcome changes, since they are the state of a protected part or a reading of it (R28, R938,
02_guarantees.md R56 to R60): stages, power states and identity, which the SAFE services rest on; supply readings; REFCLK, PLL and
time status and the islands AO, SAFE, PWS and JRN; the fan fuses and the duty in force; the driver's sources, latches, dead-time floor
and effective dead times; SAFE's status and configuration; service access, and CAN FD port 0's line. -/
def walled (o : Nat) : Bool :=
  if o < 0x10000 then !([R.SYS_NSTAT, R.SYS_NEN, R.SYS_TSTAGE1, R.SYS_TSTAGE2, R.SYS_TSTAGE3, R.SYS_PNSTAT, R.SYS_PNEN].contains o)
  else if o < 0x20000 then decide (o = R.SUP_RAIL ∨ o = R.SUP_VBAT ∨ (0x10040 ≤ o ∧ o < 0x10080))
  else if o < 0x30000 then [R.CLK_STAT, R.CLK_TSTAT, R.CLK_ISL 0, R.CLK_ISL 1, R.CLK_ISL 73, R.CLK_ISL 76].contains o
  else if 0x80000 ≤ o ∧ o < 0x90000 then decide (o = R.THM_FUSE ∨ (0x80300 ≤ o ∧ o < 0x80380 ∧ o % 0x20 = 0x10))
  else if 0xA0000 ≤ o ∧ o < 0xB0000 then
    decide (o < 0xA0010 ∨ (0xA0100 ≤ o ∧ o < 0xA0300 ∧ (o % 0x20 = 4 ∨ o % 0x20 = 8)))
  else if 0xC0000 ≤ o ∧ o < 0xD0000 then decide (o = R.SAFE_STAT ∨ 0xC0100 ≤ o)
  else if 0xF0000 ≤ o ∧ o < 0x100000 then decide (o = R.DGN_STAT ∨ (0xF1000 ≤ o ∧ o < 0xF1014))
  else false

/-- One register of a span takes a word that its table allows it to hold: nothing in unlisted bits (R23), limited fields within their
ranges (R938). -/
def freeWord (span : Nat × Nat) (s : State) (e : Nat × Word) : State :=
  if decide (span.1 ≤ e.1 ∧ e.1 < span.1 + span.2) && !walled e.1 && decide (listedBits e.1 ≠ 0)
  then s.wr e.1 (inForce e.1 (e.2 &&& listedBits e.1)) else s

/-- The registers of a span take free words; the effective dead times follow the channels' settings (19_power_stage_protection.md
R708). -/
def freeWords (h : Hidden) (span : Nat × Nat) (s : State) : State :=
  let s := h.words.foldl (freeWord span) s
  if span.1 = 0xA0000 then (List.range 16).foldl (fun s c => showDt c s) s else s

/-- A memory in which the addresses that `may` admits take free bytes. -/
def freeBytes (h : Hidden) (may : Nat → Bool) (m : Mem) : Mem :=
  h.bytes.foldl (fun m e => if may e.1 then m.wr e.1 e.2 else m) m

/-- The state of a block that no register shows, after the outcome. Device time goes on (03_islands_and_weft.md R107); fuses, the PWS
driver, SAFE, the fans and the committed safe record (slots 8 to 15 of the journal and its write port) stand outside every scope
(R28). -/
def freeHidden (h : Hidden) (o : Nat) (s : State) : State :=
  if o < 0x20000 then s
  else if o < 0x30000 then { s with clk.flitFails := h.flitFails, clk.slewFx := h.slewFx, clk.ahead := h.ahead }
  else if o < 0x40000 then { s with evt := { h.evt with sent := s.evt.sent ++ h.evt.sent } }
  else if o < 0x50000 then { s with vnr := h.vnr }
  else if o < 0x60000 then { s with jrn.mem := freeBytes h (fun a => !(decide (0x1000 ≤ a) && decide (a < 0x2000))) s.jrn.mem }
  else if o < 0x70000 then { s with ist := h.ist }
  else if o < 0x80000 then { s with ply := h.ply }
  else if o < 0x90000 then s
  else if o < 0xA0000 then { s with cal := h.cal }
  else if o < 0xB0000 then s
  else if o < 0xC0000 then { s with aud := h.aud }
  else if o < 0xD0000 then s
  else if o < 0xE0000 then { s with hif.qps := h.qps, hif.dmaq := h.dmaq }
  else if o < 0x100000 then
    { s with dgn := { h.dgn with can := mput (fun _ => CanPort.reset) h.dgn.can 0 (mget (fun _ => CanPort.reset) s.dgn.can 0) } }
  else if o < 0x200000 then { s with prt := h.prt, out := s.out ++ h.frames.map fun f => .frame f.1 f.2 }
  else if o < 0x300000 then { s with prs := h.prs }
  else if o < 0x400000 then { s with fwd := { h.fwd with mem := freeBytes h (fun _ => true) s.fwd.mem } }
  else if o < 0x410000 then { s with bpm := h.bpm }
  else if o < 0x420000 then { s with locks := h.locks }
  else if o < 0x800000 then { s with dst := h.dst }
  else if o < 0x1000000 then
    let n := (o - 0x800000) / 0x20000
    (List.range 8).foldl (fun s t => s.setThread (8 * n + t) (mget (fun _ => Thread.reset) h.threads t))
      (s.setCore n { h.core with mem := freeBytes h (fun _ => true) (s.core n).mem })
  else
    let p := (o - 0x1000000) / 0x100000
    let x := s.panel p
    s.setPanel p { mget (fun _ => Panel.reset) h.mqy p with
      claim := x.claim, frames := freeBytes h (fun _ => true) x.frames, bram := freeBytes h (fun _ => true) x.bram }

/-- An unpredictable outcome confined to the block that an offset lies in (R25, R26, R27). -/
def unpredBlock (o : Nat) (s : State) : State :=
  if (blockSpan o).2 = 0 then s
  else
    let (h, s) := s.havoc
    freeHidden h (blockSpan o).1 (freeWords h (blockSpan o) s)

/-- An unpredictable outcome confined to a panel: its logic, block memory, weft ports and mitre outputs. -/
def unpredPanel (p : Nat) (s : State) : State := unpredBlock (0x1000000 + 0x100000 * p) s

/-- An unpredictable outcome confined to a thread: its registers and the packets it holds, whose addresses in packet memory `may` admits;
it may stop (R27, R54). What its supervisor sets and counts, its shares and the contexts parked from it stand. -/
def unpredThread (may : Nat → Bool) (tid : Nat) (s : State) : State :=
  let (h, s) := s.havoc
  let x := s.thread tid
  let y := mget (fun _ => Thread.reset) h.threads tid
  let s := s.setPkt (freeBytes h may s.pkt)
  s.setThread tid { x with
    st := if h.halt then 4 else x.st, pc := y.pc, g := y.g, acc := y.acc, accAge := y.accAge, evm := y.evm, evp := y.evp, form := y.form,
    lform := y.lform, flags := y.flags, q := y.q, werr := y.werr, wflt := y.wflt, yarn := y.yarn, pkh := y.pkh, lkr0 := y.lkr0,
    lkr1 := y.lkr1, tcmp := y.tcmp, armed := y.armed, lookup := y.lookup }

/-- The rings of a queue pair: space, base, bytes. -/
def Qp.rings (x : Qp) : List (Bool × Nat × Nat) :=
  [(x.ringsp, x.sqbase, 32 * 2 ^ x.sqlog), (x.ringsp, x.cqbase, 16 * 2 ^ x.cqlog)]

/-- An unpredictable outcome confined to a queue pair: its rings, descriptors and completions, and the host memory it addresses; it may
stop in ERROR until it is re-created (R27, R54). Its share of the device's descriptors stands. -/
def unpredQueue (q : Nat) (s : State) : State :=
  let (h, s) := s.havoc
  let x := mget (fun _ => Qp.reset) s.hif.qps q
  let y := mget (fun _ => Qp.reset) h.qps q
  let ring (a : Nat) : Bool := x.ringsp && x.rings.any fun r => decide (r.2.1 ≤ a ∧ a < r.2.1 + r.2.2 ∧ a < 0xD00000)
  let free (i : Nat) (e : QEntry) : QEntry :=
    let f := y.out.getD i e
    if e.bufWait || e.pkt.isSome then e else { e with bytes := f.bytes, result := f.result, posted := e.posted && f.result.isNone }
  let s := s.setPkt (freeBytes h ring s.pkt)
  { s with hif.mem := freeBytes h (fun _ => true) s.hif.mem
           hif.qps := mput (fun _ => Qp.reset) s.hif.qps q { x with
             st := if h.halt then 3 else x.st, head := y.head % 2 ^ x.sqlog, tail := y.tail % 2 ^ x.sqlog,
             written := y.written, released := min y.released y.written,
             out := x.out.zipIdx.map fun e => free e.2 e.1 } }

/-- The first offset of every block, core window and panel window. -/
def blockBases : List Nat :=
  (List.range 14).map (0x10000 * ·) ++ [0xF0000, 0x100000, 0x200000, 0x300000, 0x400000, 0x410000, 0x420000]
    ++ (List.range 48).map (fun n => 0x800000 + 0x20000 * n) ++ (List.range 8).map fun p => 0x1000000 + 0x100000 * p

/-- An unpredictable outcome of device scope: any function of the device, up to a halt. -/
def unpredDevice (s : State) : State :=
  let (h, s) := s.havoc
  let s := blockBases.foldl (fun s b => unpredBlock b s) s
  let s := s.setPkt (freeBytes h (fun a => decide (a < 0x1000000)) s.pkt)
  if h.halt then s.set R.SYS_HALT_HALTED 1 else s

/-- The scope of an unchecked error in a queue pair's rings or descriptors (16_host_interface_rings.md R624). -/
inductive Scope
  | queue
  | device
deriving DecidableEq, Repr

/-- The outcome of such an error. -/
def unpredIn (c : Scope) (q : Nat) (s : State) : State :=
  match c with
  | .queue => unpredQueue q s
  | .device => unpredDevice s

end Sys2Proof.Machine
end

