-- ==== Sys2Proof/Machine/RegAccess.lean ====
section
/-!
DEFINITION. What a register access does by its access code alone (00_scope.md R17 to R26).
-/
namespace Sys2Proof.Machine

/-- A write by access code: RW bits take the value, a 1 clears a W1C bit, all other bits ignore it. A 1 in a reserved bit
has the unpredictable outcome of R25. -/
def codeWrite (o : Nat) (v : Word) (s : State) : Out :=
  match regSpec o with
  | none => .next s
  | some t =>
    if v &&& ~~~(listedBits o) ≠ 0 then .next (unpredBlock o s)
    else
      let old := s.rd o
      let v := inForce o v
      .next (s.wr o ((old &&& ~~~(maskN t.rw) &&& ~~~(v &&& maskN t.w1c)) ||| (v &&& maskN t.rw)))

/-- A read by access code: WO and reserved bits read 0, RC bits are cleared (R18, R19, R23). -/
def codeRead (o : Nat) (s : State) : Word × State :=
  match regSpec o with
  | none => (0, s)
  | some t =>
    let w := s.rd o
    let v := w &&& (maskN t.rw ||| maskN t.ro ||| maskN t.w1c ||| maskN t.rc)
    (v, if t.rc = 0 then s else s.wr o (w &&& ~~~(maskN t.rc)))

end Sys2Proof.Machine
end

