-- ==== Sys2Proof/Machine/Access.lean ====
section
/-!
DEFINITION. What stands between an agent and a register: reset, STANDBY, an island without power, and the mirroring of host
accesses in a joined Ply pair (01_device_overview.md R30, R36 to R39; 05_power_states.md R183; 22_ply_pair.md R805 to R807).
-/
namespace Sys2Proof.Machine

/-- The island that serves a BAR0 offset; none outside every block. -/
def blockIsland (o : Nat) : Option Nat :=
  if o < 0x30000 then some islAO
  else if o < 0x50000 then some islHIF
  else if o < 0x60000 then some islJRN
  else if o < 0x70000 then some islIST
  else if o < 0x80000 then some islPLY
  else if o < 0x90000 then some islAO
  else if o < 0xA0000 then some islAUD
  else if o < 0xB0000 then some islPWS
  else if o < 0xC0000 then some islAUD
  else if o < 0xD0000 then some islSAFE
  else if o < 0xE0000 then some islHIF
  else if o < 0xF0000 then none
  else if o < 0x100000 then some islSAFE
  else if o < 0x200000 then some islPRT
  else if o < 0x300000 then some islPRS
  else if o < 0x400000 then some islTBL
  else if o < 0x420000 then some islBPM
  else if o < 0x430000 then some islDST
  else if o < 0x800000 then none
  else if o < 0xE00000 then some (islWHL ((o - 0x800000) / 0x20000))
  else if o < 0x1000000 then none
  else if o < 0x1800000 then some (islMQY ((o - 0x1000000) / 0x100000))
  else none

/-- BAR0 is reachable: no reset, no STANDBY (R183). -/
def State.bar0 (s : State) : Bool := !s.sys.resetting && decide (s.pstate ≠ 5)

/-- The block at an offset answers accesses (R39). A core or panel whose oscillator has stopped still answers
(07_marquetry_fabric.md R278, 12_whorl_cores_threads.md R471). -/
def blockUp (s : State) (o : Nat) : Bool :=
  match blockIsland o with
  | some i => if (2 ≤ i ∧ i < 50) ∨ (64 ≤ i ∧ i < 72) then s.powered i else s.up i
  | none => false

/-- A host access to the offset is mirrored while joined (R805); a RESET command is not (R822). -/
def mirrored (o : Nat) : Bool :=
  decide (o < 0x10000) || decide (o = 0x40060 ∨ o = 0x40080 ∨ o = 0x40084) || (decide (0x40200 ≤ o) && decide (o ≤ 0x40220)) ||
    (decide (0x90000 ≤ o) && decide (o < 0xC0000)) || (decide (0xD0000 ≤ o) && decide (o < 0xE0000)) ||
    (decide (0x200000 ≤ o) && decide (o < 0x430000)) || decide (0x800000 ≤ o)

/-- A strand of a joined pair has received a mirrored access from its host: the LEADER holds it for the next epoch boundary, the
FOLLOWER ignores and counts it (R806, R807). -/
def mirrorAcc (acc : HostAcc) (s : State) : State :=
  if s.follower then s.bump R.PLY_CNT_FOLWR
  else plySend (.host acc) { s with ply.hostq := s.ply.hostq ++ [acc] }

/-- Whether the register at an offset acts on a write by an agent (R150, R171, R237, R710, R758, R783, R786, R835, R856, R879,
R891). Thread control registers have their own rule (R468). -/
def mayWrite (a : Agent) (o : Nat) : Bool :=
  let host := isHost a
  let soft := match a with | .host => true | .thread _ _ => true | _ => false
  if o < 0x10000 then host || decide (o ≠ R.SYS_STAGE_CMD ∧ o ≠ R.SYS_UNCLAMP ∧ o ≠ R.SYS_PSTATE_CMD)
  else if o < 0x40000 then true
  else if o < 0x50000 then
    host || decide (o ≠ R.VNR_ROLL_CMD ∧ o ≠ R.VNR_PATCH_CMD ∧ o ≠ R.VNR_KEYPROG_CMD ∧ o < 0x41000)
  else if o < 0x60000 then soft || decide (o ≠ R.JRN_WCMD ∧ ¬(0x50200 ≤ o ∧ o < 0x50400))
  else if o < 0x70000 then host || decide (o ≠ R.IST_CTL ∧ o ≠ R.IST_REQ ∧ o ≠ R.IST_REQ_STAT)
  else if o < 0x80000 then host || decide (o ≠ R.PLY_CFG ∧ o ≠ R.PLY_CMD ∧ o ≠ R.PLY_PORTMODE)
  else if o < 0x90000 then
    host || (decide (o ≠ R.THM_SBUS_CMD) && (match regSpec o with | some t => decide (t.rw = 0) | none => true))
  else if o < 0xA0000 then host || decide (o ≠ R.CAL_TRIM ∧ ¬(0x90100 ≤ o ∧ o < 0x90500 ∧ o % 0x40 = 0x18))
  else if o < 0xB0000 then host || decide (o ≠ R.PWS_CLR ∧ ¬(0xA0100 ≤ o ∧ o < 0xA0300 ∧ o % 0x20 = 0))
  else if o < 0xF0000 then true
  else if o < 0xF1000 then
    if o = R.DGN_LC_CMD ∨ (R.DGN_FPROG_SEL ≤ o ∧ o ≤ R.DGN_FPROG_CMD) ∨ o = R.DGN_UNLK_TO then host
    else if o = R.DGN_UNLK_CMD ∨ (R.DGN_UNLK_PUB 0 ≤ o ∧ o < 0xF0100) then soft
    else true
  else if o < 0x100000 then (match a with | .panel _ _ => false | _ => true)
  else true

/-- A word has a 1 in a bit that the register's table does not list; a lock takes any value (R391). -/
def reservedBits (o : Nat) (v : Word) : Bool :=
  ((regSpec o).isSome || (prtTableMask o).isSome) && !(decide (0x410000 ≤ o) && decide (o < 0x411000)) &&
    decide (v &&& ~~~(listedBits o) ≠ 0)

/-- A write that has reached the block: ignored from an agent that the register does not act on, unpredictable within the block
with a 1 in a reserved bit (R25), and otherwise its effect `k`. -/
def blockAct (a : Agent) (o : Nat) (v : Word) (k : State → Out) (s : State) : Out :=
  if !mayWrite a o then stay s else if reservedBits o v then .next (unpredBlock o s) else k s

/-- The agent can make the access at all: a host through a host port, whose BARs are decoded outside D3hot (04_staged_start.md R128,
16_host_interface_rings.md R584) and whose HIF has not stopped; a thread of a core that has power; a panel whose outputs are not held, on a port that may issue
requests and has fewer than 16 outstanding (07_marquetry_fabric.md R263, R273); the debug port while debug access is open (25_diagnostics_service.md R897). -/
def decodes (a : Agent) (s : State) : Bool :=
  match a with
  | .host => (s.hostPcie || s.hostQspi) && !s.hif.d3hot && !s.flag (R.CLK_ISL_STOP islHIF)
  | .thread n t => decide (n < 48) && decide (t < 8) && s.powered (islWHL n)
  | .panel p k => decide (p < 8) && decide (k < 4) && s.up (islMQY p) && !s.flag (R.MQY_STAT_OUT_HELD p)
      && s.flag (R.MQY_PORT_INI_EN p k) && decide ((mget (fun _ => []) (s.panel p).issued k).length < 16)
  | .debug => s.flag R.DGN_STAT_DBGOPEN

/-! Accesses that wait (03_islands_and_weft.md R90, R939). -/

/-- A panel has a request of the host that it has not answered. -/
def hostOwed (s : State) : Bool :=
  s.mqy.panels.any fun e =>
    e.2.stallWait.any (isHost ·.agent) || e.2.ports.any fun q => q.2.queue.any (isHost ·.agent) || q.2.waiting.any (isHost ·.agent)

/-- The island that serves the offset stalls. -/
def blockStalls (s : State) (o : Nat) : Bool :=
  match blockIsland o with
  | some i => s.stalled i
  | none => false

/-- HIF cannot issue the host's next access: an earlier one has had no response, or HIF itself stalls (R90, R939). -/
def hostHeld (s : State) : Bool := s.stalled islHIF || hostOwed s || s.clk.wait.any (isHost ·.agent)

/-- An access by an agent to the offset waits. -/
def weftHeld (a : Agent) (o : Nat) (s : State) : Bool := blockStalls s o || (isHost a && hostHeld s)

/-- The access waits its turn. -/
def weftWait (q : PanelAccess) (s : State) : State := { s with clk.wait := s.clk.wait ++ [q] }

/-- A write by an agent of a word to an offset, with its effect `k` where the write reaches the block now. -/
def access (a : Agent) (o : Nat) (v : Word) (k : State → Out) (s : State) : Out :=
  if !decodes a s || !s.bar0 then stay s
  else if weftHeld a o s then .next (weftWait ⟨a, true, o, v⟩ s)
  else if !blockUp s o then stay s
  else if isHost a && decide (s.role ≥ 2) && mirrored o && !(decide (o = R.SYS_PSTATE_CMD) && decide (wget v 0 3 = 6)) then
    .next (mirrorAcc (.write o 15 v) s)
  else blockAct a o v k s

/-- A read of the offset has a side effect that R805 mirrors. -/
def sideRead (o : Nat) : Bool :=
  mirrored o && !(decide (0x90000 ≤ o) && decide (o < 0xB0000)) &&
    match regSpec o with | some t => decide (t.rc ≠ 0) | none => false

/-- A read by an agent; the LEADER logs what a host read with a side effect returns, the FOLLOWER's host gets 0 and no effect
(R806, R807). -/
def accessRead (a : Agent) (o : Nat) (k : State → Word × State) (s : State) : Word × State :=
  if !s.bar0 || !blockUp s o then (0, s)
  else if isHost a && sideRead o && s.follower then (0, s.bump R.PLY_CNT_FOLWR)
  else
    let (v, s) := k s
    (v, if isHost a && sideRead o then logAnswer 0x200 3 v s else s)

/-- A read by an agent, with the response it gets. -/
def readRow (a : Agent) (o : Nat) (k : State → Word × State) (s : State) : Out :=
  if !decodes a s then stay s
  else if s.bar0 && weftHeld a o s then .next (weftWait ⟨a, false, o, 0⟩ s)
  else
    let (v, s) := accessRead a o k s
    .next (respond (agentId a) v s)

/-! Split pairs (00_scope.md R15, R16). -/

/-- The key of an agent's use of a pair, named by the offset of its low half. -/
def pairKey (a : Agent) (lo : Nat) : Nat := agentId a * 2 ^ 26 + lo

/-- The high word that the agent's read of the low half captured. -/
def captured (a : Agent) (lo : Nat) (s : State) : Option Word := mget (fun _ => none) s.capHi (pairKey a lo)

def setCap (a : Agent) (lo : Nat) (h : Option Word) (s : State) : State :=
  { s with capHi := mput (fun _ => none) s.capHi (pairKey a lo) h }

/-- The low word that the agent holds for a writable pair. -/
def heldOf (a : Agent) (lo : Nat) (s : State) : Option Word := mget (fun _ => none) s.heldLo (pairKey a lo)

def setHeld (a : Agent) (lo : Nat) (h : Option Word) (s : State) : State :=
  { s with heldLo := mput (fun _ => none) s.heldLo (pairKey a lo) h }

/-- A read of a half of a pair, `live` reading a half as it is: a low read captures the high half, a high read returns the capture
if the agent's last access to the pair was a low read (R15). -/
def pairRead (a : Agent) (lo : Nat) (hi : Bool) (live : Nat → State → Word × State) (s : State) : Word × State :=
  if hi then
    match captured a lo s with
    | some h => (h, setCap a lo none s)
    | none => live (lo + 4) s
  else
    let (h, s) := live (lo + 4) s
    let (l, s) := live lo s
    (l, setCap a lo (some h) s)

/-- A write of a high half: `k` with the low word that the agent holds, which is used up, or else the one in force (R16). -/
def pairWrite (a : Agent) (lo : Nat) (cur : Word) (k : Word → State → State) (s : State) : State :=
  k ((heldOf a lo s).getD cur) (setHeld a lo none (setCap a lo none s))

end Sys2Proof.Machine
end

