-- ==== Sys2Proof/Machine/Pws.lean ====
section
/-!
DEFINITION. The power-stage interface: gate drive, fault latches, battery line, output-disable and gate ownership
(19_power_stage_protection.md R703 to R737).
-/
namespace Sys2Proof.Machine

def State.pch (s : State) (c : Nat) : PwsCh := mget (fun _ => PwsCh.reset) s.pws.ch c

def State.setPch (s : State) (c : Nat) (x : PwsCh) : State :=
  { s with pws.ch := mput (fun _ => PwsCh.reset) s.pws.ch c x }

/-! Dead time and blanking (R708, R712). -/

def blankEff (s : State) (c : Nat) : Nat := clampNat 40 400 (s.get (R.PWS_CH_CFG_BLANK c))

/-- A dead time in edge steps, rounded up: 0.5 ns is 12.288 steps (R688, R706). -/
def dtSteps (dt : Nat) : Nat := (dt * 12288 + 999) / 1000

/-! Legs within a period (R681, R706). -/

/-- The level transitions that an edge word makes, with the level it starts from: 0 to P steps. -/
def legMoves (lvl : Bool) (rise fall p : Nat) : List (Nat × Bool) :=
  let start := decide (rise > fall ∧ fall > 0) || decide (rise = 0 ∧ fall > 0)
  (if start ≠ lvl then [(0, start)] else []) ++
    (if rise < fall then
      (if rise > 0 then [(rise, true)] else []) ++ (if fall < p then [(fall, false)] else [])
    else if rise > fall then
      (if fall > 0 then [(fall, false)] else []) ++ (if rise < p then [(rise, true)] else [])
    else [])

/-- The instant at which the gate that the leg's level calls for turns on. -/
def Leg.onAt (l : Leg) (dt : Nat) : Int := l.since + dtSteps dt

/-- A leg after one transition. -/
def Leg.move (dt : Nat) (l : Leg) (m : Nat × Bool) : Leg :=
  { lvl := m.2, since := m.1, lastOn := if l.onAt dt < m.1 then l.onAt dt else l.lastOn }

/-- A leg at instant t of the period. -/
def Leg.upTo (dt t : Nat) (l : Leg) (ms : List (Nat × Bool)) : Leg :=
  let l := (ms.filter fun m => decide (m.1 ≤ t)).foldl (Leg.move dt) l
  if l.onAt dt ≤ t then { l with lastOn := l.onAt dt } else l

/-- The same leg counted from the next period's start. -/
def Leg.shift (p : Nat) (l : Leg) : Leg := { l with since := l.since - p, lastOn := l.lastOn - p }

/-- Leg A (false) or B (true) of a channel at instant t of its current period. -/
def PwsCh.legAt (x : PwsCh) (b : Bool) (t : Nat) : Leg :=
  let l := if b then x.legB else x.legA
  let (r, f) := if x.drive = 1 then (0, 0) else if b then (x.rb, x.fb) else (x.ra, x.fa)
  l.upTo x.dt t (legMoves l.lvl r f x.per)

/-- A leg's gates: high side in bit 1, low side in bit 0; never both (R707). -/
def Leg.gates (l : Leg) (dt t : Nat) : Nat := if l.onAt dt ≤ t then (if l.lvl then 2 else 1) else 0

/-- The four gates of a channel at instant t, GD4c in bit 0 to GD4c+3 in bit 3 (R33, R703). -/
def PwsCh.gatesAt (x : PwsCh) (t : Nat) : Nat :=
  let code (g : Nat) : Nat := g / 2 % 2 + g % 2 * 2
  match x.second with
  | some (b, g) => if b then code g * 4 else code g
  | none =>
    if x.drive = 0 then 0
    else code ((x.legAt false t).gates x.dt t) + code ((x.legAt true t).gates x.dt t) * 4

/-! Driver states (R704). -/

def srcOf (s : State) (c : Nat) : Nat := s.get (R.PWS_CH_STAT_SRC c)

def latched (s : State) (c : Nat) : Bool := s.flag (R.PWS_CH_STAT_LATCHED c)

def active (s : State) (c : Nat) : Bool := s.flag (R.PWS_CH_STAT_ACTIVE c)

/-- A SAFE service plays on a channel (R136, R137). -/
def safePlays (s : State) (c : Nat) : Bool :=
  decide (c < 4) && ((decide (s.safe.ann ≠ .none) && bitOf s.safe.mask c) ||
    (s.safe.ecall && decide ((s.rd (R.SAFE_CFG 4)).toNat / 2 ^ (8 * c) % 256 ≠ 0xFF)))

/-- A channel that waited on SAFE counts its boundaries from the moment SAFE goes idle on it (04_staged_start.md R156). -/
def handIdle (s : State) : State :=
  let s := (List.range 4).foldl (fun s c =>
    if mget (fun _ => false) s.sys.handWait c && !safePlays s c then
      { s with sys.handWait := mput (fun _ => false) s.sys.handWait c false
               sys.handLeft := mput (fun _ => 0) s.sys.handLeft c 3 }
    else s) s
  s.set R.SYS_STAGE_HOPEND (b2n (decide (s.sys.handWait ≠ [])))

/-- The output-disable is in force (R728). -/
def State.aoDisabled (s : State) : Bool := s.pws.disReset || s.pws.disRef || s.pws.disPll || s.pws.disOsc

/-- All four gates of a channel go low at once. -/
def gatesLow (c : Nat) (s : State) : State := s.setPch c { s.pch c with drive := 0, second := none }

/-- Shows the output-disable, and drives every gate low while it is in force (R704 row 1, R705, R728). -/
def disableShow (s : State) : State :=
  let s := s.set R.PWS_STAT_AODIS (b2n s.aoDisabled)
  if s.aoDisabled then (List.range 16).foldl (fun s c => gatesLow c s) s else s

/-- The output-disable begins for a stopped oscillator, for good (R97, R728). -/
def disableOsc (s : State) : State := disableShow { s with pws.disOsc := true }

/-- The output-disable begins on a REFCLK loss (R98). -/
def disableRef (s : State) : State := disableShow { s with pws.disRef := true }

/-- The output-disable begins on an AUD/PWS PLL lock loss (R939). -/
def disablePll (s : State) : State := disableShow { s with pws.disPll := true }

/-! Latching (R718 to R720). -/

/-- Latches a channel with its causes: those acted on and those present within 20 ns (R720). -/
def latch (c causes : Nat) (s : State) : State :=
  let n := s.get (R.PWS_CH_FLT_COUNT c)
  let s := s.wr (R.PWS_CH_FLT c) (BitVec.ofNat 32 (causes % 256 + satAdd 255 n 1 * 256))
  let s := s.wr64 (R.PWS_CH_FTIME_LO c) (s.tnow islPWS)
  let s := plySend (.latch c causes false) ((s.set (R.PWS_CH_STAT_LATCHED c) 1).set ⟨R.PWS_LATCH, c, 1⟩ 1)
  cause (R.PWS_CH_NSTAT_LATCH c) (8 + c) s

/-- All four gates low at once, and the latch (R719). -/
def latchAll (c causes : Nat) (s : State) : State := latch c causes (gatesLow c s)

/-- A single-leg fault: the faulted leg goes low and the other leg holds its gates for one dead time (R718). A second
action before step 2 of R718 has run turns everything off (R719). -/
def latchLeg (c : Nat) (legB : Bool) (t causes : Nat) (s : State) : State :=
  let x := s.pch c
  let g := if x.drive = 0 then 0 else (x.legAt (!legB) t).gates x.dt t
  latch c causes (s.setPch c { x with drive := 0, second := some (!legB, g) })

/-- A second action on the leg that still holds, before step 2 of R718 (R719): its cause joins the record (R720). -/
def secondAction (c causes : Nat) (s : State) : State :=
  let s := gatesLow c s
  s.set ⟨R.PWS_CH_FLT c, 0, 8⟩ (s.get ⟨R.PWS_CH_FLT c, 0, 8⟩ ||| causes)

/-- A leg's blanking window, with the 20 ns filter after it, is over at instant t (R712, R713). -/
def outsideBlank (x : PwsCh) (b : Bool) (t : Nat) : Bool :=
  decide (((x.blank : Int) + 20) * 24576 ≤ ((t : Int) - (x.legAt b t).lastOn) * 1000)

/-- The device acts on a channel's fault inputs: the channel is active and this strand owns the gates (R716, R733). -/
def actsOn (s : State) (c : Nat) : Bool :=
  s.up islPWS && decide (c < 16) && active s c && s.flag R.PWS_STAT_OWNER

/-- OVERCURRENT_DETECT: OCA, OCB or both have been asserted for 20 ns outside blanking, at instant t of the channel's
period; `also` are the causes present within the 20 ns that follow (R713, R716, R718 to R720). -/
def execOvercurrentDetect (c : Nat) (legA legB : Bool) (t also : Nat) (s : State) : Out :=
  if !s.up islPWS || decide (c ≥ 16) then stay s
  else
    let s1 := (s.set (R.PWS_CH_STAT_OCA c) (b2n legA ||| s.get (R.PWS_CH_STAT_OCA c))).set (R.PWS_CH_STAT_OCB c)
      (b2n legB ||| s.get (R.PWS_CH_STAT_OCB c))
    let x := s.pch c
    let a := legA && (outsideBlank x false t)
    let b := legB && (outsideBlank x true t)
    let code := b2n a + 2 * b2n b
    if !actsOn s c || code = 0 then .next s1
    else if latched s c then
      match x.second with
      | some (held, _) => .next (if (if held then b else a) then secondAction c code s1 else s1)
      | none => .next s1
    else if a && b then .next (latchAll c (code ||| also) s1)
    else .next (latchLeg c b t (code ||| also) s1)

/-- HOC_ASSERT: all four gates low within 40 ns and the latch, blanking included (R714, R716, R719). -/
def execHocAssert (c _t also : Nat) (s : State) : Out :=
  if !s.up islPWS || decide (c ≥ 16) then stay s
  else
    let s := s.set (R.PWS_CH_STAT_HOC c) 1
    if !actsOn s c then .next s
    else if latched s c then .next (if (s.pch c).second = none then s else secondAction c 4 s)
    else .next (latchAll c (4 ||| also) s)

/-- GATE_MISMATCH: gate ball 0 to 3 of the channel reads another level than PWS drives, for 20 ns (R715, R718). -/
def execGateMismatch (c gate t also : Nat) (s : State) : Out :=
  if !actsOn s c || decide (gate ≥ 4) then stay s
  else
    let b := decide (gate ≥ 2)
    let code := if b then 16 else 8
    let x := s.pch c
    let s := s.set (R.PWS_CH_STAT_GFB c) (x.gatesAt t ^^^ 2 ^ gate)
    if latched s c then
      match x.second with
      | some (held, _) => .next (if held = b then secondAction c code s else s)
      | none => .next s
    else .next (latchLeg c b t (code ||| also) s)

/-- SHOOT_THROUGH: both gate balls of one leg read high for 20 ns (R715, R719). -/
def execShootThrough (c : Nat) (legB : Bool) (t also : Nat) (s : State) : Out :=
  if !actsOn s c then stay s
  else
    let code := if legB then 64 else 32
    let s := s.set (R.PWS_CH_STAT_GFB c) ((s.pch c).gatesAt t ||| (if legB then 12 else 3))
    if latched s c then .next (if (s.pch c).second = none then s else secondAction c code s)
    else .next (latchAll c (code ||| also) s)

/-- SECOND_LEG_TURNOFF: step 2 of R718. -/
def execSecondLegTurnoff (c : Nat) (s : State) : Out :=
  if (s.pch c).second = none then stay s else .next (gatesLow c s)

/-! Clearing (R721, R722). -/

/-- A channel's latch is cleared, with the levels recorded at it. -/
def unlatch (c : Nat) (s : State) : State :=
  ((s.set (R.PWS_CH_STAT_LATCHED c) 0).set ⟨R.PWS_LATCH, c, 1⟩ 0).set ⟨R.PWS_CH_STAT c, 4, 8⟩ 0

/-- Clears one channel's latch, or refuses it; `quiet`: its fault inputs and gate balls all read low at the write. -/
def clearOne (quiet : Nat) (s : State) (c : Nat) : State :=
  if !latched s c then s
  else if bitOf quiet c then plySend (.latch c 0 true) (unlatch c s)
  else cause (R.PWS_CH_NSTAT_REFUSED c) (8 + c) (s.set ⟨R.PWS_CLRSTAT, c, 1⟩ 1)

/-- A keyed write of PWS_CLR: the live fault inputs and gate pads come with the write. -/
def latchClear (v : Word) (quiet : Nat) (s : State) : State :=
  if wget v 24 8 ≠ 0x5A then s
  else
    let s := s.set R.PWS_CLRSTAT_REFUSED 0
    ((List.range 16).filter fun c => v.getLsbD c).foldl (clearOne quiet) s

/-- Latch clear through the host port only (R710). -/
def execLatchClear (a : Agent) (v : Word) (quiet : Nat) (s : State) : Out :=
  access a R.PWS_CLR v (fun s => .next (latchClear v quiet s)) s

/-! Battery line (R724 to R727). -/

/-- The shown reading: at most 43,200 mV (R724). -/
def vbatClip (mv : Nat) : Nat := min mv 43200

/-- The load-dump hold begins: N02, counted, shown (R725, R726). -/
def holdBegin (s : State) : State :=
  let s := { s with pws.hold := true, pws.below := 0 }
  let s := (s.set R.PWS_STAT_LDHOLD 1).bump R.PWS_CNT_LDHOLD
  cause R.SUP_VNSTAT_LDUMP 2 s

/-- The hold's rule on one reading (R725). -/
def holdReading (v : Nat) (s : State) : State :=
  if !s.pws.hold then (if v > 32000 then holdBegin s else s)
  else
    let n := if v < 30000 then s.pws.below + 1 else 0
    if n ≥ 8 then { (s.set R.PWS_STAT_LDHOLD 0) with pws.hold := false, pws.below := 0 }
    else { s with pws.below := n }

/-- The dip rule on one reading (R727). -/
def dipReading (v : Nat) (s : State) : State :=
  let lvl := s.get R.SUP_VDIP_MV
  let was := if s.pws.seen then decide (s.get R.SUP_VBAT_MV ≥ lvl) else true
  if decide (v < lvl) && was then cause R.SUP_VNSTAT_DIP 1 s else s

/-- The reading becomes SUP_VBAT and moves the minimum and maximum (R724, R737). -/
def showReading (v : Nat) (s : State) : State :=
  let s := (s.set R.SUP_VBAT_MV v).set R.SUP_VBAT_SEQ (s.get R.SUP_VBAT_SEQ + 1)
  let s := s.set R.SUP_VBAT_MIN_MV (min (s.get R.SUP_VBAT_MIN_MV) v)
  ownReading v { (s.set R.SUP_VBAT_MAX_MV (max (s.get R.SUP_VBAT_MAX_MV) v)) with
    pws.seen := true, safe.vbat := some v }

/-- One battery-line reading. -/
def vbatReading (mv : Nat) (s : State) : State :=
  let v := vbatClip mv
  holdReading v (showReading v (dipReading v s))

/-- VBAT_READING (R724 to R727). -/
def execVbatReading (mv : Nat) (s : State) : Out := if s.sys.resetting then stay s else .next (vbatReading mv s)

/-! Ownership (R730, R732). -/

/-- This strand's OWN line: strand A (PLYROLE 1) drives PLY_OWNA, strand B (PLYROLE 2) PLY_OWNB (R730). -/
def ownLine (v : Bool) (s : State) : State :=
  match s.get R.SYS_STRAP_PLYROLE with
  | 1 => s.set R.PWS_STAT_OWNA (b2n v)
  | 2 => s.set R.PWS_STAT_OWNB (b2n v)
  | _ => s

/-- OWNERSHIP_TAKE: the first period boundary after the grant raises the OWN line; the gates stay low through the period
that follows, and each channel's next boundary starts its edge words (R732). In STANDBY AO keeps the line (22_ply_pair.md R793). -/
def execOwnershipTake (s : State) : Out :=
  if !s.pws.grant || !s.up islPWS || decide (s.pstate = 5) then stay s
  else .next ((ownLine true s).set R.PWS_STAT_OWNER 1 |> fun s => { s with pws.grant := false })

/-- Gives up ownership: all gates low and the OWN line low together (R732). -/
def ownershipDrop (s : State) : State :=
  let s := (List.range 16).foldl (fun s c => gatesLow c s) s
  { ((ownLine false s).set R.PWS_STAT_OWNER 0) with pws.grant := false }

end Sys2Proof.Machine
end

