-- ==== Sys2Proof/Machine/Aud.lean ====
section
/-!
DEFINITION. The audio path of AUD: sample rings, concealment, media clock, gain, modulators, capture rings, talker and
listener contexts, TDM ports (18_audio_path.md R650 to R688).
-/
namespace Sys2Proof.Machine

def State.ach (s : State) (c : Nat) : AudCh := mget (fun _ => AudCh.reset) s.aud.ch c

def State.setAch (s : State) (c : Nat) (x : AudCh) : State :=
  { s with aud.ch := mput (fun _ => AudCh.reset) s.aud.ch c x }

/-- AUD runs: it is on, and the AUD/PWS PLL has not stopped it (R698, R699). -/
def audRuns (s : State) : Bool := s.up islAUD && s.flag R.AUD_STAT_RUN && decide (s.aud.stopped = none)

/-- A signed 32-bit number. -/
def sint (w : Word) : Int := w.toInt

/-- The word of an integer, modulo 2^32. -/
def wordOf (i : Int) : Word := BitVec.ofInt 32 i

/-! Packet memory as AUD sees it: BAR2 offsets wrap at 16 MiB (R943), and the frame reserve takes no write (R667). -/

def pktRd32 (s : State) (a : Nat) : Word :=
  BitVec.ofNat 32 (leNat ((List.range 4).map fun i => s.pkt.rd ((a + i) % 2 ^ 24)))

def pktWrByte (s : State) (a : Nat) (b : Byte) : State :=
  let a := a % 2 ^ 24
  if a ≥ 0xD00000 then s else s.setPkt (s.pkt.wr a b)

def pktWrBytes (a : Nat) (bs : List Byte) (s : State) : State :=
  (bs.zipIdx).foldl (fun s p => pktWrByte s (a + p.2) p.1) s

def pktWr32 (a : Nat) (w : Word) (s : State) : State := pktWrBytes a (leBytes 4 w.toNat) s

/-! Channel sample rings (R656 to R664). -/

/-- The log of a ring's size, held to 6 to 16 (R656, R667, R701). -/
def ringLog (v : Nat) : Nat := clampNat 6 16 v

def chLog (s : State) (c : Nat) : Nat := ringLog (s.get (R.AUD_CH_CFG_LOG c))

/-- The address of a ring position (R656). -/
def ringAddr (base log : Nat) (p : Word) : Nat := base / 64 * 64 + 4 * (p.toNat % 2 ^ log)

def chSample (s : State) (c : Nat) : Word :=
  pktRd32 s (ringAddr (s.get (R.AUD_CH_BASE_BASE c)) (chLog s c) (s.rd (R.AUD_CH_RPOS c)))

/-- How far the writer is ahead, signed (R660). -/
def chLead (s : State) (c : Nat) : Int := sint (s.rd (R.AUD_CH_WPOS c) - s.rd (R.AUD_CH_RPOS c))

def chAvailable (s : State) (c : Nat) : Bool := decide (chLead s c > 0) && decide (chSample s c ≠ 0x80000000)

/-- Shows the overrun condition; its beginning is an N80 cause (R660). -/
def ovrCheck (c : Nat) (s : State) : State :=
  let now := decide (chLead s c > 2 ^ chLog s c)
  let was := s.flag (R.AUD_CH_STAT_OVR c)
  let s := s.set (R.AUD_CH_STAT_OVR c) (b2n now)
  if now && !was then cause R.AUD_NSTAT_OVR 80 s else s

def fadeLen (s : State) (c : Nat) : Nat := max 1 (s.get (R.AUD_CH_CFG_FADE c))

/-- Plays the sample at RPOS, with the fade-in that follows concealment (R662). -/
def playSample (c : Nat) (s : State) : State :=
  let x := s.ach c
  let f := fadeLen s c
  let v := sint (chSample s c)
  let out := if x.fade = 0 ∨ x.fade > f then v else (v * x.fade).tdiv f
  let s := s.set (R.AUD_CH_STAT_CONC c) 0
  s.setAch c { x with x := out, last := out, played := true, conc := 0,
                      fade := if x.fade = 0 ∨ x.fade ≥ f then 0 else x.fade + 1 }

/-- Conceals one sample (R662, R663). -/
def concealSample (c : Nat) (s : State) : State :=
  let x := s.ach c
  let f := fadeLen s c
  let j := x.conc + 1
  let out := if j ≤ f then (x.last * ((f : Int) - j)).tdiv f else 0
  let s := (s.setAch c { x with x := out, conc := j, fade := 1 }).bump (R.AUD_CH_CONC c)
  if x.played && decide (x.conc = 0) then
    cause ⟨R.AUD_NSTAT, c, 1⟩ 80 (s.set (R.AUD_CH_STAT_CONC c) 1)
  else s

/-- One ring-rate instant of a channel (R659, R660, R662). -/
def ringInstant (c : Nat) (s : State) : State :=
  let x := s.ach c
  let start := s.rd64 (R.AUD_CH_TSTART_LO c)
  let s :=
    if x.armed && (decide (start = 0) || decide (start ≤ s.tnow islAUD)) then
      (s.setAch c { x with armed := false }).set (R.AUD_CH_STAT_PLAYING c) 1
    else s
  if !s.flag (R.AUD_CH_STAT_PLAYING c) then s
  else
    let s := if chAvailable s c then playSample c s else concealSample c s
    let s := s.setAch c { s.ach c with rtime := s.tnow islAUD, conv := Config.convIn (s.ach c).conv (s.ach c).x }
    ovrCheck c (s.wr (R.AUD_CH_RPOS c) (s.rd (R.AUD_CH_RPOS c) + 1))

/-- Stops a channel whose EN was written 0 (R659). -/
def chStop (c : Nat) (s : State) : State :=
  if (s.ach c).stopping then
    let s := (s.set (R.AUD_CH_STAT_PLAYING c) 0).set (R.AUD_CH_STAT_CONC c) 0
    s.setAch c { s.ach c with stopping := false, armed := false, x := 0 }
  else s

/-- Writes EN: 1 arms, 0 stops at the next internal sample (R659). -/
def chEnable (c : Nat) (en : Bool) (s : State) : State :=
  let was := s.flag (R.AUD_CH_CTL_EN c)
  let x := s.ach c
  if en && !was then
    let s := s.set (R.AUD_CH_CTL_EN c) 1
    let s := s.set (R.AUD_CH_STAT_PLAYING c) 0
    s.setAch c { x with armed := true, stopping := false, played := false, conc := 0, fade := 0, last := 0, x := 0,
                        rtime := 0 }
  else if !en && was then ((s.set (R.AUD_CH_CTL_EN c) 0).set (R.AUD_CH_STAT_PLAYING c) 0).setAch c { x with armed := false, stopping := true }
  else s

/-- WPOS_WRITE (R658, R660). -/
def wposWrite (c : Nat) (v : Word) (s : State) : State := ovrCheck c (s.wr (R.AUD_CH_WPOS c) v)

def execWposWrite (a : Agent) (c : Nat) (v : Word) (s : State) : Out :=
  if decide (c ≥ 16) then stay s else access a (R.AUD_CH_WPOS c) v (fun s => .next (wposWrite c v s)) s

/-- A write of AUD_CH_RPOS: ignored while EN is 1 (R659, R660). -/
def rposWrite (c : Nat) (v : Word) (s : State) : State :=
  if s.flag (R.AUD_CH_CTL_EN c) then s else ovrCheck c (s.wr (R.AUD_CH_RPOS c) v)

/-- CHANNEL_ARM (R659). -/
def execChannelArm (a : Agent) (c : Nat) (s : State) : Out :=
  if decide (c ≥ 16) then stay s else access a (R.AUD_CH_CTL c) 1 (fun s => .next (chEnable c true s)) s

/-- CHANNEL_DISABLE (R659). -/
def execChannelDisable (a : Agent) (c : Nat) (s : State) : Out :=
  if decide (c ≥ 16) then stay s else access a (R.AUD_CH_CTL c) 0 (fun s => .next (chEnable c false s)) s

/-- What the latest read of an agent returned. -/
def answer (a : Agent) (v : Word) (s : State) : State :=
  { s with resp := mput (fun _ => 0) s.resp (agentId a) v }

/-- A read of AUD_CH_RPOS captures the read time of the previous position for the agent (R661). -/
def rposRead (a : Agent) (c : Nat) (s : State) : Word × State :=
  (s.rd (R.AUD_CH_RPOS c),
    { s with rcap := mput (fun _ => 0) s.rcap (agentId a * 64 + c) (s.ach c).rtime })

def execRposRead (a : Agent) (c : Nat) (s : State) : Out :=
  if decide (c ≥ 16) then stay s else readRow a (R.AUD_CH_RPOS c) (rposRead a c) s

/-! Media clock (R652 to R655; 03_islands_and_weft.md R110, R111). -/

/-- The ratio minus 1 in units of 2^-32 (R655); a joined pair's is the one logged (22_ply_pair.md R796). -/
def dpllR (s : State) : Int := sint (s.ply.ratioNow.getD (s.rd R.AUD_DPLL_RATIO))

/-- 300 ppm in units of 2^-32: the loop's ratio keeps within it (03_islands_and_weft.md R110). -/
abbrev dpllSpan : Nat := 1288490

/-- A reference input: the loop takes a new ratio within ±300 ppm and a phase error, which the spec does not fix, and holds no more. -/
def dpllTrack (s : State) : State :=
  let (r, s) := s.draw 4
  let (e, s) := s.draw 5
  let s := (s.wr R.AUD_DPLL_RATIO (wordOf ((r % (2 * dpllSpan + 1) : Nat) - (dpllSpan : Int)))).wr R.AUD_DPLL_PHERR (BitVec.ofNat 32 e)
  s.set R.AUD_DPLL_STAT_HOLD 0

/-- ns of CRFINT media samples at the ratio in force (R653); the media sample rate is 48 kHz times the ratio. -/
def crfInterval (s : State) : Nat :=
  let n := s.get R.AUD_DPLL_CRFINT_N
  ((n : Int) * 10 ^ 9 * 2 ^ 32 / (48000 * (2 ^ 32 + dpllR s))).toNat

/-- A CRF timestamp (R653). -/
def crfTimestamp (v : Word) (s : State) : State :=
  if s.get R.AUD_DPLL_CFG_SRC ≠ 1 then s
  else
    let acquire (s : State) : State :=
      let s := dpllTrack s
      { s with aud.pred := some ((v.toNat + crfInterval s) % 2 ^ 32), aud.discards := 0 }
    match s.aud.pred with
    | none => acquire s
    | some p =>
      let d := sint (v - BitVec.ofNat 32 p)
      if -10000 ≤ d ∧ d ≤ 10000 then acquire s
      else
        let s := s.set R.AUD_DPLL_STAT_REJECT (satAdd 255 (s.get R.AUD_DPLL_STAT_REJECT) 1)
        let n := s.aud.discards + 1
        if n ≥ 8 then { s with aud.pred := none, aud.discards := 0 }
        else { s with aud.pred := some ((p + crfInterval s) % 2 ^ 32), aud.discards := n }

def execCrfTimestamp (a : Agent) (v : Word) (s : State) : Out :=
  if !audRuns s then stay s else access a R.AUD_DPLL_CRF v (fun s => .next (crfTimestamp v s)) s

/-- A TDM port that SRC names is in master mode: no reference (R652). -/
def srcIsMaster (s : State) : Bool :=
  let r := s.get R.AUD_DPLL_CFG_SRC
  decide (3 ≤ r ∧ r ≤ 6) && s.flag (R.AUD_TDM_CFG_MASTER (r - 3))

/-- After a write that may name a master port as reference (R652). -/
def srcCheck (s : State) : State := if srcIsMaster s then cause R.AUD_NSTAT_CFGERR 82 s else s

/-- DPLL_REFERENCE_TIMEOUT: 10 ms without input (R654, R111). -/
def execDpllReferenceTimeout (s : State) : Out :=
  if !audRuns s || decide (s.get R.AUD_DPLL_CFG_SRC = 0) || s.flag R.AUD_DPLL_STAT_HOLD then stay s
  else .next (cause R.AUD_NSTAT_UNLOCK 82 ((s.set R.AUD_DPLL_STAT_HOLD 1).set R.AUD_DPLL_STAT_LOCK 0))

/-- DPLL_LOCK: the phase error has stayed below 100 ns for 1 s (R654; 03_islands_and_weft.md R110). -/
def execDpllLock (s : State) : Out :=
  if !audRuns s || decide (s.get R.AUD_DPLL_CFG_SRC = 0) || s.flag R.AUD_DPLL_STAT_HOLD || s.flag R.AUD_DPLL_STAT_LOCK
      || srcIsMaster s || decide ((sint (s.rd R.AUD_DPLL_PHERR)).natAbs ≥ 100) then stay s
  else .next (cause R.AUD_NSTAT_LOCK 82 (s.set R.AUD_DPLL_STAT_LOCK 1))

/-- DPLL_LOCK_LOSS (R654). -/
def execDpllLockLoss (s : State) : Out :=
  if !audRuns s || !s.flag R.AUD_DPLL_STAT_LOCK then stay s
  else .next (cause R.AUD_NSTAT_UNLOCK 82 (s.set R.AUD_DPLL_STAT_LOCK 0))

/-- One internal sample of the media clock: a 96 kHz tick, and whether it is a 48 kHz one (R655). -/
def mediaTick (s : State) : Bool × Bool × State :=
  let s := if s.get R.AUD_DPLL_CFG_SRC = 2 then dpllTrack s else s
  let ph := s.aud.mphase + (2 ^ 32 + dpllR s).toNat
  if ph ≥ 2 ^ 33 then
    (true, s.aud.mtick % 2 = 0, { s with aud.mphase := ph - 2 ^ 33, aud.mtick := s.aud.mtick + 1 })
  else (false, false, { s with aud.mphase := ph })

/-- A channel's ring-rate instant falls in this internal sample (R656). -/
def chTick (s : State) (c : Nat) (t96 t48 : Bool) : Bool :=
  match s.get (R.AUD_CH_CFG_RATE c) with
  | 0 => t48
  | 1 => t96
  | _ => true

/-! Gain (R677). -/

/-- VNOM as it takes effect. -/
def vnomEff (v : Nat) : Nat := clampNat 6000 40000 v

/-- One internal sample of the gain law: from G, the reading and the settings to (G, E), in units of 2^-48. -/
def gainLaw (g : Nat) (vbat : Option Nat) (vnom rel : Nat) : Nat × Nat :=
  match vbat with
  | none => (fxOne, fxOne)
  | some v =>
    let v := max v 1000
    let n := vnomEff vnom
    let target := min fxOne (fxOne * v / n)
    let g := if target ≤ g then target else min target (g * gainStep rel / fxOne)
    (g, min fxOne (g * n / v))

/-- The gain stage of AUD, with its report in AUD_RT_GAIN. -/
def gainSample (s : State) : State :=
  let (g, e) := gainLaw s.aud.g s.aud.vbat (s.get R.AUD_RT_VNOM) (s.get R.AUD_RT_REL)
  let e := if s.flag R.AUD_RT_EN then e else fxOne
  let s := { s with aud.g := g, aud.e := e }
  (s.set R.AUD_RT_GAIN_G (min 0xFFFF (g / 2 ^ 33))).set R.AUD_RT_GAIN_E (min 0xFFFF (e / 2 ^ 33))

/-! The channel path from conversion to clip (R650, R676 to R678). -/

/-- The clip limit in Q1.31 (R678, R683). -/
def modLimit (s : State) : Int := min 252 (s.get R.AUD_MOD_MAXMOD) * 2 ^ 23

/-- Clips to a limit. -/
def clipTo (lim v : Int) : Int := if v > lim then lim else if v < -lim then -lim else v

/-- Stage 2: 192 kHz rings pass through; any other output is the converter's, whose coefficients the spec leaves open (R676, R944),
but a channel that plays nothing, or has faded to 0, gives 0 (20_live_calibration.md R754). -/
def convertSample (s : State) (c : Nat) : Int :=
  let x := s.ach c
  if !s.flag (R.AUD_CH_STAT_PLAYING c) then 0
  else if s.get (R.AUD_CH_CFG_RATE c) ≥ 2 then x.x
  else if x.conc > fadeLen s c then 0
  else clipTo (2 ^ 31 - 1) (Config.convOut x.conv s.aud.mphase)

/-- One step of the pilot's common register (20_live_calibration.md R942). -/
def lfsrStep (v : Nat) : Nat := (v * 2 + b2n (bitOf v 14 != bitOf v 13)) % 2 ^ 15

/-- `n` steps. -/
def lfsrSteps : Nat → Nat → Nat
  | 0, v => v
  | n + 1, v => lfsrSteps n (lfsrStep v)

/-- Where channel c's sequence stands at the sample whose step starts from the common register `v` (20_live_calibration.md R738, R942). -/
def pilotRegister (v c : Nat) : Nat := lfsrSteps (2048 * c + 1) v

/-- The pilot of channel c, where PEN is 1 and the device is not in QUIET; the filter's coefficients are open (20_live_calibration.md
R739, R942; assumption 171). -/
def pilotSample (s : State) (c : Nat) : Int :=
  if s.flag ⟨R.CAL_CTL, c, 1⟩ && decide (s.pstate ≠ 3) then Config.pilot (pilotRegister s.cal.lfsr c) else 0

/-- Stages 2 to 5 of a channel, the pilot among them (R677, R678; 20_live_calibration.md R739). -/
def pathSample (c : Nat) (s : State) : State :=
  let st3 := (convertSample s c * s.aud.e).tdiv fxOne
  let sum := st3 + pilotSample s c
  let m := clipTo (modLimit s) sum
  let s := s.setAch c { s.ach c with st3 := st3, m := m }
  if m ≠ sum then s.bump (R.AUD_CH_CLIP c) else s

/-! Modulators (R679 to R687). -/

/-- The carrier factor K in force (R679). -/
def carrierK (s : State) : Nat := clampNat 2 8 (wget s.aud.modw 0 4)

/-- The length of period j of an internal sample, in steps (R679). -/
def periodLen (k j : Nat) : Nat := 128000 * (j + 1) / k - 128000 * j / k

/-- One leg of the hard modulator over a period of P steps: its centred window, with a high time that the noise shaper quantises to whole
steps, and the shaper's next state (R682). -/
def hardLeg (state p : Nat) (m : Int) : Nat × Nat × Nat :=
  let (h, next) := Config.shape state (p * (2 ^ 31 + m))
  let h := h % (p + 1)
  ((p - h) / 2, (p - h) / 2 + h, next)

/-- The hard modulator's edge word of channel c: leg B takes −m, or in AD mode mirrors leg A (R682). -/
def hardWord (c p : Nat) (s : State) : (Nat × Nat × Nat × Nat) × State :=
  let x := s.ach c
  let (r, f, sa) := hardLeg x.shapeA p x.m
  if x.cfg.getLsbD 2 then ((r, f, f, r), s.setAch c { x with shapeA := sa })
  else
    let (rb, fb, sb) := hardLeg x.shapeB p (-x.m)
    ((r, f, rb, fb), s.setAch c { x with shapeA := sa, shapeB := sb })

/-- The panel of a fabric channel, if MOD in force names one (R685, R686). -/
def modPanel (x : AudCh) : Option Nat := if 1 ≤ x.modF ∧ x.modF ≤ 8 then some (x.modF - 1) else none

/-- A panel's modulator link returns words: powered, loaded, unclamped and not stalled (R685). -/
def panelServes (s : State) (p : Nat) : Bool :=
  s.up (islMQY p) && !s.flag (R.MQY_STAT_OUT_HELD p) && !s.flag (R.MQY_STAT_RST_HELD p) && !(s.panel p).stall && !(s.panel p).stopped
    && !mget (fun _ => false) s.vnr.moved p

/-- The fields of a 64-bit edge word, if none exceeds P (R685). -/
def fabFields (w p : Nat) : Option (Nat × Nat × Nat × Nat) :=
  let f (i : Nat) : Nat := bitsOf w (16 * i) 16
  if f 0 ≤ p ∧ f 1 ≤ p ∧ f 2 ≤ p ∧ f 3 ≤ p then some (f 0, f 1, f 2, f 3) else none

/-- Counts a substitution (R685). -/
def fabMiss (c : Nat) (s : State) : State := cause R.AUD_NSTAT_FABMISS 82 (s.bump (R.AUD_CH_FABMISS c))

/-- What AUD presents on a fabric channel's lane at the start of period j: the period after next (R685). -/
def laneShow (c k j : Nat) (s : State) : State :=
  let x := s.ach c
  let n := (j + 2) % k
  s.setAch c { x with lane := (modPanel x).map fun _ => (x.m, periodLen k n, n, (s.aud.samples + (j + 2) / k) % 2 ^ 16) }

/-- The edge word of a channel's next AUD period (R682, R684, R685). -/
def audWord (c p : Nat) (s : State) : (Nat × Nat × Nat × Nat) × State :=
  let x := s.ach c
  let (hard, s) := hardWord c p s
  let s := s.setAch c { s.ach c with fab := none }
  match modPanel x with
  | none => (hard, s.set (R.AUD_CH_STAT_HARD c) 1)
  | some q =>
    match (if panelServes s q then x.fab.bind (fabFields · p) else none) with
    | some w => (w, s.set (R.AUD_CH_STAT_HARD c) 0)
    | none => (hard, fabMiss c (s.set (R.AUD_CH_STAT_HARD c) 1))

/-- FABRIC_EDGE_WORD: a panel returns the word of a channel's next period in time, or returns none (R685). -/
def execFabricEdgeWord (c : Nat) (w : Option Nat) (s : State) : Out :=
  let x := s.ach c
  if !audRuns s || decide (c ≥ 16) || decide (modPanel x = none) then stay s
  else .next (s.setAch c { x with fab := w })

/-! Listener watch (R665). -/

/-- A write of AUD_LW_SEEN: an entry that AUD_LW_CFG has set up watches from then on, and the live loss clears. -/
def listenerSeen (n : Nat) (s : State) : State :=
  let s := s.set ⟨R.AUD_LW_STAT, n, 1⟩ 0
  { s with aud.watch := mput (fun _ => false) s.aud.watch n (mget (fun _ => false) s.aud.lwSet n) }

def execListenerSeen (a : Agent) (n : Nat) (s : State) : Out :=
  if decide (n ≥ 32) then stay s else access a (R.AUD_LW_SEEN n) 1 (fun s => .next (listenerSeen n s)) s

/-- LISTENER_TIMEOUT: TIMEOUT µs have passed without a SEEN write (R665). -/
def execListenerTimeout (n : Nat) (s : State) : Out :=
  if !audRuns s || decide (n ≥ 32) || !mget (fun _ => false) s.aud.watch n
      || decide (s.get (R.AUD_LW_CFG_TIMEOUT n) = 0) || s.flag ⟨R.AUD_LW_STAT, n, 1⟩ then stay s
  else .next (cause R.AUD_NSTAT_LSTNLOSS 81 ((s.set ⟨R.AUD_LW_LOSS, n, 1⟩ 1).set ⟨R.AUD_LW_STAT, n, 1⟩ 1))

/-! Capture rings and talker streams (R667 to R670). -/

/-- Where a capture ring's source comes from. -/
inductive CapSrc
  | tdm (p slot : Nat)
  | tap (c : Nat)
  | off
deriving DecidableEq, Repr

/-- A TDM port's slot count as it takes effect (R671). -/
def tdmSlots (s : State) (p : Nat) : Nat :=
  min (s.get (R.AUD_TDM_CFG_SLOTS p) + 1) (if s.flag (R.AUD_TDM_CFG_RATE p) then 8 else 16)

def capSrc (s : State) (k : Nat) : CapSrc :=
  let v := s.get (R.AUD_CAP_CFG_SRC k)
  if v < 64 then (if v % 16 < tdmSlots s (v / 16) then .tdm (v / 16) (v % 16) else .off)
  else if v < 80 then .tap (v - 64) else .off

def capLog (s : State) (k : Nat) : Nat := ringLog (s.get (R.AUD_CAP_CFG_LOG k))

/-- AUD writes one sample of a capture ring (R667, R668). A ring outside memory that software holds is unpredictable within the
device. -/
def capWrite (k : Nat) (w : Word) (s : State) : State :=
  if !s.flag (R.AUD_CAP_CFG_EN k) then s
  else
    let p := s.rd (R.AUD_CAP_WPOS k)
    let log := capLog s k
    let a := ringAddr (s.get (R.AUD_CAP_BASE_BASE k)) log p % 2 ^ 24
    let s := if a ≥ 0xD00000 || heldMem s a then pktWr32 a w s else unpredDevice s
    let s := { s with aud.capTime := mput (fun _ => 0) s.aud.capTime (k * 2 ^ 16 + p.toNat % 2 ^ log) (s.tnow islAUD) }
    s.wr (R.AUD_CAP_WPOS k) (p + 1)

/-- The capture rings of a feedback tap: m converted to the ring's rate, a value the spec leaves open (R667, R944). -/
def tapCapture (t96 t48 : Bool) (k : Nat) (s : State) : State :=
  match capSrc s k with
  | .tap _ =>
    if (if s.flag (R.AUD_CAP_CFG_RATE k) then t96 else t48) then
      let (v, s) := s.draw 10
      capWrite k (BitVec.ofNat 32 v) s
    else s
  | _ => s

/-- The capture time of the position before the next one; at position 0 the spec names none (R668). -/
def capTimeOf (k : Nat) (p : Word) (s : State) : Nat × State :=
  if p = 0 then s.draw 26 else (mget (fun _ => 0) s.aud.capTime (k * 2 ^ 16 + (p - 1).toNat % 2 ^ capLog s k), s)

/-- CAPTURE_WPOS_READ (R668): the next position, and the capture time of the one before it. -/
def capWposRead (a : Agent) (k : Nat) (s : State) : Word × State :=
  let p := s.rd (R.AUD_CAP_WPOS k)
  let (t, s) := capTimeOf k p s
  (p, { s with rcap := mput (fun _ => 0) s.rcap (agentId a * 64 + 16 + k) t })

def execCaptureWposRead (a : Agent) (k : Nat) (s : State) : Out :=
  if decide (k ≥ 16) then stay s else readRow a (R.AUD_CAP_WPOS k) (capWposRead a k) s

/-- EN of a capture ring is set: its position starts at 0 (R668). -/
def capStart (k : Nat) (s : State) : State := s.wr (R.AUD_CAP_WPOS k) 0

/-- The rings a talker context names; rings beyond CAP15 are not used (R669). -/
def talkRings (s : State) (k : Nat) : List Nat :=
  (List.range (s.get (R.AUD_TALK_CFG_NCH k) + 1)).filterMap fun i =>
    let r := s.get (R.AUD_TALK_CFG_CAP k) + i
    if r < 16 then some r else none

def talkSpp (s : State) (k : Nat) : Nat := clampNat 1 64 (s.get (R.AUD_TALK_CFG_SPP k))

/-- A ring's source rate: 1 for 96 kHz. -/
def capRate (s : State) (k : Nat) : Option Bool :=
  match capSrc s k with
  | .tdm p _ => some (s.flag (R.AUD_TDM_CFG_RATE p))
  | .tap _ => some (s.flag (R.AUD_CAP_CFG_RATE k))
  | .off => none

/-- The rings of a context share one source rate (R669). -/
def talkOneRate (s : State) (k : Nat) : Bool :=
  let rs := (talkRings s k).filterMap (capRate s)
  rs.all (· = true) || rs.all (· = false)

def talkPosOf (s : State) (k : Nat) : Nat := mget (fun _ => 0) s.aud.talkPos k
def talkSeqOf (s : State) (k : Nat) : Nat := mget (fun _ => 0) s.aud.talkSeq k

def setTalk (k pos seq : Nat) (s : State) : State :=
  { s with aud.talkPos := mput (fun _ => 0) s.aud.talkPos k (pos % 2 ^ 32)
           aud.talkSeq := mput (fun _ => 0) s.aud.talkSeq k (seq % 256) }

/-- Setting EN restarts the named rings at position 0 and clears POS and SEQ (R669). -/
def talkStart (k : Nat) (s : State) : State :=
  setTalk k 0 0 ((talkRings s k).foldl (fun s r => capStart r s) s)

/-- TALKER_ENABLE: unpredictable within the block where the rings differ in rate (R669). -/
def execTalkerEnable (a : Agent) (k : Nat) (s : State) : Out :=
  if decide (k ≥ 8) || s.flag (R.AUD_TALK_CFG_EN k) then stay s
  else
    access a (R.AUD_TALK_CFG k) (s.rd (R.AUD_TALK_CFG k) ||| 0x80000000)
      (fun s => if !talkOneRate s k then .next (unpredBlock (R.AUD_TALK_CFG k) s) else .next (talkStart k (s.set (R.AUD_TALK_CFG_EN k) 1))) s

/-- The rings' next position, modulo 2^32: the least advanced one (R670). -/
def talkHave (s : State) (k : Nat) : Word :=
  match talkRings s k with
  | [] => 0
  | r :: rs =>
    rs.foldl (fun w q => let v := s.rd (R.AUD_CAP_WPOS q); if sint (v - w) < 0 then v else w) (s.rd (R.AUD_CAP_WPOS r))

/-- The smallest ring of a context. -/
def talkLog (s : State) (k : Nat) : Nat := (talkRings s k).foldl (fun l r => min l (capLog s r)) 16

/-- A read of AUD_TALK_NEXT (R670). -/
def talkNext (k : Nat) (s : State) : Word × State :=
  let spp := talkSpp s k
  let have_ := talkHave s k
  let lag := sint (have_ - BitVec.ofNat 32 (talkPosOf s k))
  let lim : Int := 2 ^ talkLog s k - spp
  let skip : Nat := if lag > lim then ((lag - lim + spp - 1) / spp).toNat else 0
  let s := if skip = 0 then s else setTalk k (talkPosOf s k + skip * spp) (talkSeqOf s k + skip) s
  let pos := talkPosOf s k
  if !s.flag (R.AUD_TALK_CFG_EN k) || decide (talkRings s k = []) ||
      decide (sint (have_ - BitVec.ofNat 32 pos) < spp) then (0, s)
  else
    let r := (talkRings s k).headD 0
    let t := mget (fun _ => 0) s.aud.capTime (r * 2 ^ 16 + pos % 2 ^ capLog s r)
    let s := s.wr (R.AUD_TALK_TS k) (BitVec.ofNat 32 (t + (s.rd (R.AUD_TALK_OFS k)).toNat))
    let v := BitVec.ofNat 32 (talkSeqOf s k + pos % 2 ^ 16 * 256 + 2 ^ 31)
    (v, setTalk k (pos + spp) (talkSeqOf s k + 1) s)

/-- TALKER_NEXT_READ (R670). -/
def execTalkerNextRead (a : Agent) (k : Nat) (s : State) : Out :=
  if decide (k ≥ 8) then stay s else readRow a (R.AUD_TALK_NEXT k) (talkNext k) s

/-! TDM ports (R671 to R675). -/

def State.tdm (s : State) (p : Nat) : Tdm := mget (fun _ => Tdm.reset) s.aud.tdm p

def State.setTdm (s : State) (p : Nat) (x : Tdm) : State :=
  { s with aud.tdm := mput (fun _ => Tdm.reset) s.aud.tdm p x }

/-- Writes one frame to the capture rings of a port: the slot's word, or zeros. -/
def tdmCapture (p : Nat) (slots : List Word) (s : State) : State :=
  (List.range 16).foldl (fun s k =>
    match capSrc s k with
    | .tdm q sl => if q = p then capWrite k (slots.getD sl 0) s else s
    | _ => s) s

/-- One frame on the capture rings: an own one, logged by a LEADER. On a FOLLOWER it is only the instant at which the LEADER's frame
for the one before is due: a missing one is repeated (22_ply_pair.md R796, R801; assumption 167). -/
def tdmTake (p : Nat) (slots : List Word) (s : State) : State :=
  let x := s.tdm p
  if !s.follower then plySend (.tdm p slots) (tdmCapture p slots (s.setTdm p { x with last := slots, owed := false }))
  else if x.owed then tdmCapture p x.last s
  else s.setTdm p { x with owed := true }

/-- The LEADER's frame (22_ply_pair.md R796). -/
def tdmLogged (p : Nat) (slots : List Word) (s : State) : State :=
  tdmCapture p slots (s.setTdm p { s.tdm p with last := slots, owed := false })

def tdmTxLog (s : State) (p : Nat) : Nat := clampNat 4 12 (s.get (R.AUD_TDM_CFG_TXLOG p))

/-- Sends one transmit frame, or zeros where none is available (R674). -/
def tdmSend (p : Nat) (s : State) : State :=
  if !s.flag (R.AUD_TDM_CFG_TXEN p) then s
  else
    let n := tdmSlots s p
    let r := s.rd (R.AUD_TDM_TXRPOS p)
    let x := s.tdm p
    let avail := decide (sint (s.rd (R.AUD_TDM_TXWPOS p) - r) > 0)
    let base := s.get (R.AUD_TDM_TXBASE_BASE p) / 64 * 64 + 4 * n * (r.toNat % 2 ^ tdmTxLog s p)
    let ws := (List.range n).map fun i => if avail then pktRd32 s (base + 4 * i) else 0
    let s := (s.emit (.tdm p ws)).wr (R.AUD_TDM_TXRPOS p) (r + 1)
    if avail then s.setTdm p { x with sent := true }
    else
      let s := (s.bump (R.AUD_TDM_TXUND p)).setTdm p { x with sent := false }
      if x.sent then cause R.AUD_NSTAT_TXUNDER 81 s else s

/-- A received frame: a slave frame of another length is discarded (R672); sync returns after two good ones (R673). -/
def tdmReceive (p bclks : Nat) (slots : List Word) (s : State) : State :=
  let x := s.tdm p
  let good := s.flag (R.AUD_TDM_CFG_MASTER p) || decide (bclks = 32 * tdmSlots s p)
  let s := if x.lost then s else tdmTake p (if good then slots else []) s
  let x := s.tdm p
  if !good then ((s.bump (R.AUD_TDM_BADFRM p)).setTdm p { x with good := 0 })
  else
    let n := min 2 (x.good + 1)
    let s := if s.get R.AUD_DPLL_CFG_SRC = p + 3 && !s.flag (R.AUD_TDM_CFG_MASTER p) then dpllTrack s else s
    if n ≥ 2 && !s.flag (R.AUD_TDM_CFG_MASTER p) then
      (s.set (R.AUD_TDM_STAT_SYNC p) 1).setTdm p { x with good := n, lost := false }
    else s.setTdm p { x with good := n }

/-- AUD's part of one TDM frame. -/
def tdmFrame (p bclks : Nat) (slots : List Word) (s : State) : State :=
  if !audRuns s || !s.flag (R.AUD_TDM_CFG_EN p) then s
  else
    let s := tdmReceive p bclks slots s
    if s.follower then s else tdmSend p s

/-- AUD's part of a loss of frame sync (R673). -/
def tdmLoss (p : Nat) (s : State) : State :=
  if !audRuns s || !s.flag (R.AUD_TDM_CFG_EN p) || s.flag (R.AUD_TDM_CFG_MASTER p) || !s.flag (R.AUD_TDM_STAT_SYNC p)
  then s
  else
    let s := (s.set (R.AUD_TDM_STAT_SYNC p) 0).setTdm p { s.tdm p with good := 0, lost := true }
    cause R.AUD_NSTAT_TDMLOSS 81 s

/-- While a slave port has lost sync its capture rings advance with zeros at the nominal rate (R673). -/
def tdmIdle (p : Nat) (s : State) : State :=
  let every := if s.flag (R.AUD_TDM_CFG_RATE p) then 2 else 4
  if (s.tdm p).lost && s.flag (R.AUD_TDM_CFG_EN p) && decide (s.aud.samples % every = 0) then tdmTake p [] s else s

/-! Register writes with rules of their own (R675, R680, R943). -/

/-- A write of AUD_CH_CFG: RATE and LOG are locked while EN is 1 (R943), MODE and PHASE in Stage 3 (R680). A write that
leaves the fields as they are is no write of them (R680; for R943 DEDUCED, assumption 21). -/
def chCfgWrite (c : Nat) (v : Word) (s : State) : State :=
  let old := s.rd (R.AUD_CH_CFG c)
  let v := inForce (R.AUD_CH_CFG c) v
  let keep (w : Word) (lo n : Nat) : Word := wset w lo n (wget old lo n)
  let lockRing := s.flag (R.AUD_CH_CTL_EN c) && decide (wget v 0 2 ≠ wget old 0 2 ∨ wget v 16 5 ≠ wget old 16 5)
  let lockMod := decide (s.stage = 3) && decide (wget v 2 1 ≠ wget old 2 1 ∨ wget v 4 4 ≠ wget old 4 4)
  let v1 := if lockRing then keep (keep v 0 2) 16 5 else v
  let v2 := if lockMod then keep (keep v1 2 1) 4 4 else v1
  let s := ovrCheck c (s.wr (R.AUD_CH_CFG c) v2)
  if lockRing || lockMod then cause R.AUD_NSTAT_CFGERR 82 s else s

/-- A write of AUD_CH_BASE (R943). -/
def chBaseWrite (c : Nat) (v : Word) (s : State) : State :=
  if s.flag (R.AUD_CH_CTL_EN c) then cause R.AUD_NSTAT_CFGERR 82 s
  else s.wr (R.AUD_CH_BASE c) (v &&& 0x00FFFFFF)

/-- A write of AUD_MOD (R680, R683). -/
def audModWrite (v : Word) (s : State) : State :=
  let old := s.rd R.AUD_MOD
  let v := inForce R.AUD_MOD v
  if decide (s.stage = 3) && decide (wget v 0 4 ≠ wget old 0 4) then
    cause R.AUD_NSTAT_CFGERR 82 (s.wr R.AUD_MOD (wset (v &&& 0xFF0F) 0 4 (wget old 0 4)))
  else s.wr R.AUD_MOD (v &&& 0xFF0F)

/-- The safe configuration enables pass-through (R675, R689). -/
def safeEcallCfg (s : State) : Bool := (s.rd (R.SAFE_CFG 0)).getLsbD 9

/-- A write of AUD_TDM_CFG (R652, R675). -/
def tdmCfgWrite (p : Nat) (v : Word) (s : State) : State :=
  let v := inForce (R.AUD_TDM_CFG p) v &&& 0x001F01F7
  if decide (p = 0) && safeEcallCfg s && v.getLsbD 1 then
    cause R.AUD_NSTAT_CFGERR 82 (s.wr (R.AUD_TDM_CFG p) (wset v 1 1 0))
  else srcCheck (s.wr (R.AUD_TDM_CFG p) v)

/-- A write of AUD_LW_CFG: the entry watches again from the next SEEN write (R665). -/
def lwCfgWrite (n : Nat) (v : Word) (s : State) : State :=
  { (s.wr (R.AUD_LW_CFG n) (v &&& 0xFFFF)) with aud.watch := mput (fun _ => false) s.aud.watch n false
                                                aud.lwSet := mput (fun _ => false) s.aud.lwSet n true }

/-! Start and stop (R698, R699). -/

/-- AUD starts: from reset values, the shapers and the pilot register cleared (R682, R942). -/
def audStart (s : State) : State :=
  let s := s.set R.AUD_STAT_RUN 1
  let s := { s with aud := { Aud.reset with modw := s.rd R.AUD_MOD }, cal := { Cal.reset with lfsr := 0x7FFF } }
  (List.range 16).foldl (fun s c => s.setAch c { AudCh.reset with cfg := s.rd (R.AUD_CH_CFG c) }) s

/-- The AUD/PWS PLL loses lock: AUD stops; a running trim returns to PENDING and windows are abandoned (R699,
20_live_calibration.md R760). -/
def audHaltPll (s : State) : State :=
  if !audRuns s then s
  else { (s.set R.AUD_STAT_RUN 0) with aud.stopped := some (s.tnow islAUD) }

/-- The ring samples that device time shows to have elapsed for a channel (R699). -/
def ringElapsed (s : State) (c ns : Nat) : Nat :=
  let n := match s.get (R.AUD_CH_CFG_RATE c) with
    | 0 => ((ns : Int) * 48000 * (2 ^ 32 + dpllR s) / (2 ^ 32 * 10 ^ 9)).toNat
    | 1 => ((ns : Int) * 96000 * (2 ^ 32 + dpllR s) / (2 ^ 32 * 10 ^ 9)).toNat
    | _ => ns * 192000 / 10 ^ 9
  n

/-- Relock: each enabled channel's RPOS catches up, and it resumes with a fade-in (R699). -/
def audRelock (s : State) : State :=
  match s.aud.stopped with
  | none => s
  | some t =>
    let ns := s.tnow islAUD - t
    let s := { (s.set R.AUD_STAT_RUN 1) with aud.stopped := none }
    (List.range 16).foldl (fun s c =>
      if s.flag (R.AUD_CH_STAT_PLAYING c) then
        let s := s.wr (R.AUD_CH_RPOS c) (s.rd (R.AUD_CH_RPOS c) + BitVec.ofNat 32 (ringElapsed s c ns))
        ovrCheck c (s.setAch c { s.ach c with fade := 1 })
      else s) s

end Sys2Proof.Machine
end

