-- ==== Sys2Proof/Machine/Jrn.lean ====
section
/-!
DEFINITION. The journal memory and its commands (24_journal_memory.md R846 to R870).
-/
namespace Sys2Proof.Machine

/-! Regions and slots (R846 to R848). -/

/-- A region's slots: first and one past the last; none for a reserved code. -/
def jrnSlots : Nat → Option (Nat × Nat)
  | 0 => some (0, 8)
  | 1 => some (8, 16)
  | 2 => some (16, 528)
  | 3 => some (528, 1552)
  | 4 => some (1552, 4096)
  | _ => none

/-- The region a slot lies in. -/
def jrnRegion (slot : Nat) : Nat :=
  if slot < 8 then 0 else if slot < 16 then 1 else if slot < 528 then 2 else if slot < 1552 then 3 else 4


/-- COMMIT for a sequence number, as eight bytes (R847). -/
def jrnCommit (seq : Nat) : List Byte := leBytes 4 0x4A52434D ++ leBytes 4 (seq ^^^ 0xFFFFFFFF)

/-- A parsed slot (R847). -/
structure JSlot where
  slot : Nat
  magic : Bool
  region : Nat
  id : Nat
  len : Nat
  seq : Nat
  committed : Bool
  ecc : Bool
  data : List Byte
deriving DecidableEq, Repr

/-- A slot's bytes, its uncorrectable words in view (R848). -/
def jrnParse (bad : SMap Bool) (mem : Mem) (slot : Nat) : JSlot :=
  let bs := mem.rdBytes (512 * slot) 512
  let ecc := (List.range 64).any fun w => mget (fun _ => false) bad (64 * slot + w)
  let magic := decide (leNat (sliceOf bs 0 2) = 0x4A52)
  let region := leNat (sliceOf bs 2 1)
  let seq := leNat (sliceOf bs 8 4)
  let crcOk := decide (leNat (sliceOf bs 12 4) = crc32 (sliceOf bs 0 12 ++ sliceOf bs 16 488))
  let commitOk := decide (sliceOf bs 504 8 = jrnCommit seq)
  { slot := slot, magic := magic, region := region, id := leNat (sliceOf bs 4 2), len := leNat (sliceOf bs 6 2),
    seq := seq, committed := magic && decide (region = jrnRegion slot) && crcOk && commitOk && !ecc, ecc := ecc,
    data := bs }

/-- The slots that hold anything, each once, in rising order; every other slot reads as zeros and holds no record. -/
def jrnUsed (s : State) : List Nat :=
  let step (l : List Nat) (k : Nat) : List Nat := if l.contains k then l else l ++ [k]
  let l := s.jrn.mem.foldl (fun l e => step l (e.1 / 512)) []
  s.jrn.bad.foldl (fun l e => step l (e.1 / 64)) l

/-- Every slot that holds anything, parsed. -/
def jrnAll (s : State) : List JSlot := (jrnUsed s).map fun k => jrnParse s.jrn.bad s.jrn.mem k

/-- The slot with the highest SEQ among some. -/
def highestSeq : List JSlot → Option JSlot
  | [] => none
  | x :: xs =>
    match highestSeq xs with
    | some y => if x.seq ≥ y.seq then some x else some y
    | none => some x

/-- The current record of a logical record (R848). -/
def jrnCurrent (all : List JSlot) (region id : Nat) : Option JSlot :=
  highestSeq (all.filter fun x => x.committed && decide (x.region = region ∧ x.id = id))

/-! Clips (R849, R851). -/

def clipGen (x : JSlot) : Nat := leNat (sliceOf x.data 16 2)
def clipParts (x : JSlot) : Nat := leNat (sliceOf x.data 18 2)

/-- The committed parts of a clip. -/
def clipSlots (all : List JSlot) (k : Nat) : List JSlot :=
  all.filter fun x => x.committed && decide (x.region = 4 ∧ x.id / 8192 = k)

/-- Part p of generation g with n parts, the highest SEQ. -/
def clipPart (ps : List JSlot) (g n p : Nat) : Option JSlot :=
  highestSeq (ps.filter fun x => decide (x.id % 8192 = p ∧ clipGen x = g ∧ clipParts x = n))

/-- Generation g with n parts is complete (R851). -/
def clipComplete (ps : List JSlot) (g n : Nat) : Bool :=
  decide (1 ≤ n ∧ n ≤ 8192) && (List.range n).all fun p => (clipPart ps g n p).isSome

/-- The highest complete generation of a clip, with its number of parts. -/
def clipBest (all : List JSlot) (k : Nat) : Option (Nat × Nat) :=
  let ps := clipSlots all k
  (ps.filter fun x => clipComplete ps (clipGen x) (clipParts x)).foldl
    (fun b x => match b with
      | some (g, n) => if clipGen x > g then some (clipGen x, clipParts x) else some (g, n)
      | none => some (clipGen x, clipParts x)) none

/-- A clip's PCM samples (16 bits at 24 kHz), or none where it is absent (R849, R851). -/
def clipPcm (s : State) (k : Nat) : Option (List Nat) :=
  let all := jrnAll s
  match clipBest all k with
  | none => none
  | some (g, n) =>
    some ((List.range n).flatMap fun p =>
      match clipPart (clipSlots all k) g n p with
      | some x => (List.range ((x.len - 8) / 2)).map fun i => leNat (sliceOf x.data (24 + 2 * i) 2)
      | none => [])

/-- What a read by ID returns (R864). -/
def jrnFind (all : List JSlot) (region id : Nat) : Option JSlot :=
  if region = 4 then
    match clipBest all (id / 8192) with
    | some (g, n) => clipPart (clipSlots all (id / 8192)) g n (id % 8192)
    | none => none
  else jrnCurrent all region id

/-! Writing (R852 to R858). -/

/-- A slot that holds something is free (R853). -/
def jrnFree (all : List JSlot) (x : JSlot) : Bool :=
  !x.committed ||
    !(decide ((jrnCurrent all x.region x.id).map (·.slot) = some x.slot) ||
      (decide (x.region = 4) &&
        match clipBest all (x.id / 8192) with
        | some (g, _) => decide (clipGen x ≥ g)
        | none => false))

/-- SEQ of a slot for the choice: an empty slot counts as the lowest. -/
def jrnChoiceSeq (x : JSlot) : Nat := if x.magic then x.seq else 0

/-- The free slot with the lowest SEQ, or an empty slot, ties to the lowest number (R852). -/
def jrnChoose (s : State) (region : Nat) : Option Nat :=
  match jrnSlots region with
  | none => none
  | some (a, b) =>
    let all := jrnAll s
    let used := jrnUsed s
    let empty := ((List.range (b - a)).map (a + ·)).find? fun k => !used.contains k
    let cands := (all.filter fun x => decide (a ≤ x.slot ∧ x.slot < b) && jrnFree all x).map
      fun x => (jrnChoiceSeq x, x.slot)
    let cands := match empty with
      | some k => cands ++ [(0, k)]
      | none => cands
    (cands.foldl (fun b x => match b with
      | some (q, k) => if x.1 < q ∨ (x.1 = q ∧ x.2 < k) then some x else some (q, k)
      | none => some x) none).map (·.2)

/-- Groups bytes into 64-bit words from an address. -/
def jrnWords : Nat → List Byte → List (Nat × List Byte)
  | a, b0 :: b1 :: b2 :: b3 :: b4 :: b5 :: b6 :: b7 :: bs => (a, [b0, b1, b2, b3, b4, b5, b6, b7]) :: jrnWords (a + 8) bs
  | _, _ => []

/-- The words of a write, in the order of R852: payload, header, COMMIT. -/
def jrnPlan (slot seq : Nat) (r : JRec) : List (Nat × List Byte) :=
  let pay := (r.data ++ List.replicate 488 0).take 488
  let head := leBytes 2 0x4A52 ++ [BitVec.ofNat 8 r.region, 0] ++ leBytes 2 r.id ++ leBytes 2 r.data.length ++ leBytes 4 seq
  let crc := leBytes 4 (crc32 (head ++ pay))
  jrnWords (512 * slot + 16) pay ++ jrnWords (512 * slot) (head ++ crc) ++ [(512 * slot + 504, jrnCommit seq)]

/-- Starts a write into a chosen slot with the next SEQ (R852 step 1). -/
def jrnStart (r : JRec) (slot : Nat) (device : Bool) (s : State) : State :=
  let seq := (s.rd R.JRN_SEQ).toNat
  let s := s.wr R.JRN_SEQ (BitVec.ofNat 32 (seq + 1))
  { s with jrn.cur := some { slot := slot, words := jrnPlan slot seq r, device := device } }

/-- Writes one 64-bit word; a written word is correctable again. -/
def jrnPut (s : State) (w : Nat × List Byte) : State :=
  { s with jrn.mem := s.jrn.mem.wrBytes w.1 w.2
           jrn.bad := mput (fun _ => false) s.jrn.bad (w.1 / 8) false }

/-- A refused write (R855). -/
def jrnRefuse (status : Nat) (s : State) : State :=
  cause R.JRN_NSTAT_REFUSED 41 (s.set R.JRN_WSTAT_STATUS status)

def jrnEarly (s : State) : Bool := s.flag R.JRN_STAT_EARLY

/-- Starts the next device write if nothing stands against it (R850, R161, R857). -/
def jrnNextDevice (s : State) : State :=
  match s.jrn.cur, s.jrn.due with
  | none, r :: rs =>
    if jrnEarly s || !s.flag R.JRN_STAT_SCANDONE then s
    else
      match jrnChoose s r.region with
      | some k => jrnStart r k true { s with jrn.due := rs }
      | none => { s with jrn.due := rs }
  | _, _ => s

/-- The device issues a write of its own; refused by the early warning, it is issued again once that clears. -/
def jrnDevice (r : JRec) (s : State) : State := jrnNextDevice { s with jrn.due := s.jrn.due ++ [r] }

/-- An agent's write starts: FULL where no slot is free (R855). -/
def jrnAgentStart (r : JRec) (s : State) : State :=
  match jrnChoose s r.region with
  | some k => jrnStart r k false s
  | none => jrnRefuse 4 (s.set R.JRN_WSTAT_BUSY 0)

/-- The agent may act on JRN_WCMD and JRN_STAGE (R856). -/
def jrnActs : Agent → Bool
  | .host => true
  | .thread _ _ => true
  | _ => false

/-- The ID and LEN are in range for an agent's write of a region (R846, R855). -/
def jrnIdOk (region id len : Nat) : Bool :=
  decide (len ≤ 488) &&
    match region with
    | 0 => decide (id = 0)
    | 2 => decide (id ≤ 255)
    | 3 => decide (id ≤ 510)
    | 4 => true
    | _ => false

/-- The staged payload. -/
def jrnStaged (s : State) (len : Nat) : List Byte :=
  ((List.range 122).flatMap fun w => leBytes 4 (s.rd (R.JRN_STAGE w)).toNat).take len

/-- A write of JRN_WCMD (R852, R855, R856, R863, R866). -/
def jrnWrite (a : Agent) (v : Word) (s : State) : State :=
  if !jrnActs a then s
  else if s.flag R.JRN_WSTAT_BUSY then s.set R.JRN_WSTAT_LOST 1
  else
    let region := wget v 0 3
    let len := wget v 4 9
    let id := wget v 16 16
    if !s.flag R.JRN_STAT_SCANDONE then jrnRefuse 3 s
    else if jrnEarly s then jrnRefuse 1 s
    else if decide (region = 0) && (!s.flag R.JRN_STAT_SUNLK || !isHost a) then jrnRefuse 2 s
    else if !jrnIdOk region id len then jrnRefuse 3 s
    else if s.jrn.cur = none && decide (jrnChoose s region = none) then jrnRefuse 4 s
    else if (s.rd R.JRN_SEQ).toNat ≥ 0xFFFFFF00 then jrnRefuse 5 s
    else
      let s := if region = 0 then s.set R.JRN_STAT_SUNLK 0 else s
      let s := (s.set R.JRN_WSTAT_BUSY 1).set R.JRN_WSTAT_STATUS 0
      let r : JRec := { region := region, id := id, data := jrnStaged s len }
      if s.jrn.cur = none then jrnAgentStart r s else { s with jrn.next := some r }

/-- JOURNAL_WRITE. -/
def execJournalWrite (a : Agent) (v : Word) (s : State) : Out :=
  access a R.JRN_WCMD v (fun s => .next (jrnWrite a v s)) s

/-- Ends the write in progress: its words are written, and an agent's write is reported (R852). -/
def jrnFinish (w : JWrite) (s : State) : State :=
  let s := { (w.words.foldl jrnPut s) with jrn.cur := none }
  if w.device then s
  else
    let s := ((s.set R.JRN_WSTAT_BUSY 0).set R.JRN_WSTAT_STATUS 0).set R.JRN_WSTAT_SLOT w.slot
    cause R.JRN_NSTAT_DONE 41 s

/-- The waiting agent's write, then a due device write, starts. -/
def jrnAdvance (s : State) : State :=
  match s.jrn.cur, s.jrn.next with
  | none, some r => jrnAgentStart r { s with jrn.next := none }
  | _, _ => jrnNextDevice s

/-- JOURNAL_COMMIT (R852 steps 2 to 4). -/
def execJournalCommit (s : State) : Out :=
  match s.jrn.cur with
  | none => stay s
  | some w => .next (jrnAdvance (jrnFinish w s))

/-- Commits everything in progress before power goes, in STANDBY or RESET (R860). -/
def jrnSettle (s : State) : State :=
  let s := match s.jrn.cur with
    | some w => jrnFinish w s
    | none => s
  match s.jrn.next with
  | some r =>
    let s := jrnAgentStart r { s with jrn.next := none }
    match s.jrn.cur with
    | some w => jrnFinish w s
    | none => s
  | none => s

/-- A supply collapse during a write: `n` of its words have been written, each whole (R858, R859). -/
def jrnCollapse (n : Nat) (s : State) : State :=
  match s.jrn.cur with
  | some w => { ((w.words.take n).foldl jrnPut s) with jrn.cur := none, jrn.next := none, jrn.due := [] }
  | none => { s with jrn.next := none, jrn.due := [] }

/-! The recovery scan (R861, R862). -/

/-- A slot that is torn (R862). -/
def jrnTorn (all : List JSlot) (x : JSlot) : Bool :=
  x.magic && !x.committed &&
    match jrnCurrent all x.region x.id with
    | some y => decide (x.seq > y.seq)
    | none => true

/-- The scan's results. -/
def jrnScan (s : State) : State :=
  let all := jrnAll s
  let ecc := (all.filter (·.ecc)).length
  let next := all.foldl (fun m x => if x.magic && decide (x.seq + 1 > m) then x.seq + 1 else m) 1
  let s := (s.set R.JRN_SCAN_COMMITTED (all.filter (·.committed)).length).set R.JRN_SCAN_TORN (all.filter (jrnTorn all)).length
  let s := (s.set R.JRN_SCAN_ECC_SLOTS ecc).wr R.JRN_SEQ (BitVec.ofNat 32 (min next 0xFFFFFFFF))
  let s := s.set R.JRN_STAT_SCANDONE 1
  let s := cause R.JRN_NSTAT_SCAN 40 s
  if ecc ≠ 0 then cause R.JRN_NSTAT_ECC 40 s else s

/-- JOURNAL_SCAN_DONE; `ecc` are the uncorrectable words that the scan meets (R861, R862, 04_staged_start.md R133). -/
def execJournalScanDone (ecc : List Nat) (s : State) : Out :=
  if !s.up islJRN || s.flag R.JRN_STAT_SCANDONE then stay s
  else
    let s := { s with jrn.bad := ecc.foldl (fun m k => if k < 262144 then mput (fun _ => false) m k true else m) s.jrn.bad }
    .next (jrnNextDevice (jrnScan s))

/-! Reading (R863 to R865). -/

def jrnFill (slot : Nat) (bs : List Byte) (s : State) : State :=
  let s := (List.range 128).foldl (fun s w => s.wr (R.JRN_RBUF w) (BitVec.ofNat 32 (leNat (sliceOf bs (4 * w) 4)))) s
  (s.set R.JRN_RSTAT_STATUS 0).set R.JRN_RSTAT_SLOT slot

/-- A write of JRN_RCMD with MODE 0 (R863, R864). -/
def jrnReadRecord (v : Word) (s : State) : State :=
  let found := if s.flag R.JRN_STAT_SCANDONE then jrnFind (jrnAll s) (wget v 0 3) (wget v 16 16) else none
  match found with
  | some x => jrnFill x.slot x.data s
  | none => s.set R.JRN_RSTAT_STATUS 1

/-- A slot's bytes as MODE 1 shows them: the spec gives no value for an uncorrectable word (R864). -/
def jrnShown (k : Nat) (bs : List Byte) (s : State) : List Byte × State :=
  let (v, s) := s.draw 29
  ((List.range 64).flatMap fun w =>
    if mget (fun _ => false) s.jrn.bad (64 * k + w) then leBytes 8 (v / 2 ^ (64 * w)) else sliceOf bs (8 * w) 8, s)

/-- A write of JRN_RCMD with MODE 1 (R863, R864). -/
def jrnReadSlot (v : Word) (s : State) : State :=
  let k := wget v 16 12
  let x := jrnParse s.jrn.bad s.jrn.mem k
  if !s.flag R.JRN_STAT_SCANDONE then s.set R.JRN_RSTAT_STATUS 1
  else if x.ecc then
      let (bs, s) := jrnShown k x.data s
      (jrnFill k bs s).set R.JRN_RSTAT_STATUS 2
    else jrnFill k x.data s

/-- JOURNAL_READ_RECORD. -/
def execJournalReadRecord (a : Agent) (v : Word) (s : State) : Out :=
  if v.getLsbD 3 then stay s else access a R.JRN_RCMD v (fun s => .next (jrnReadRecord v s)) s

/-- JOURNAL_READ_SLOT. -/
def execJournalReadSlot (a : Agent) (v : Word) (s : State) : Out :=
  if !v.getLsbD 3 then stay s else access a R.JRN_RCMD v (fun s => .next (jrnReadSlot v s)) s

/-! The safe window (R866). -/

/-- A write of JRN_SUNLK; the second word comes within 10 ms of the first, on JRN's device time. -/
def sunlkWrite (a : Agent) (v : Word) (s : State) : State :=
  if !isHost a then { s with jrn.half := none }
  else if v = 0x5AFE0001 then { s with jrn.half := some (s.tnow islJRN) }
  else
    let open_ := decide (v = 0x5AFE0002) && s.flag R.DGN_STAT_UNLOCKED &&
      (match s.jrn.half with | some t => decide (s.tnow islJRN ≤ t + 10000000) | none => false)
    let s := { s with jrn.half := none }
    if open_ then s.set R.JRN_STAT_SUNLK 1 else s

/-- SAFE_UNLOCK_WRITE. -/
def execSafeUnlockWrite (a : Agent) (v : Word) (s : State) : Out :=
  access a R.JRN_SUNLK v (fun s => .next (sunlkWrite a v s)) s

/-- SAFE_WINDOW_TIMEOUT: 100 ms after opening (R866). -/
def execSafeWindowTimeout (s : State) : Out :=
  if !s.flag R.JRN_STAT_SUNLK then stay s else .next (s.set R.JRN_STAT_SUNLK 0)

end Sys2Proof.Machine
end

