-- ==== Sys2Proof/Machine/Fwd.lean ====
section
/-!
DEFINITION. Forwarding tables: the FDB, learning, aging, longest-prefix match, table commands and the auditor
(15_forwarding_learning.md R544 to R579).
-/
namespace Sys2Proof.Machine

/-! Table memory and uncorrectable words (R544, R574). -/

def tblBytes (s : State) (o n : Nat) : List Byte := s.fwd.mem.rdBytes o n

/-- The uncorrectable words among the bytes o to o + n - 1. -/
def badWords (s : State) (o n : Nat) : List Nat :=
  ((List.range ((o + n + 7) / 8 - o / 8)).map (o / 8 + ·)).filter fun w => mget (fun _ => false) s.fwd.bad w

/-- Pushes an event; a full FIFO loses it (R573, R574). -/
def pushEvent (off kind : Nat) (s : State) : State :=
  if s.fwd.events.length ≥ 32 then s.set R.FWD_AUD_STAT_OVF 1
  else { s with fwd.events := s.fwd.events ++ [off % 2 ^ 22 + kind * 2 ^ 28 + 2 ^ 31] }

/-- A reader meets an uncorrectable word: one event for each word (R574). -/
def meetBad (s : State) (w : Nat) : State :=
  if mget (fun _ => false) s.fwd.told w then s
  else
    let s := { s with fwd.told := mput (fun _ => false) s.fwd.told w true }
    cause R.FWD_NSTAT_ECC 60 (pushEvent (8 * w) 2 s)

def meetAll (ws : List Nat) (s : State) : State := ws.foldl meetBad s

/-- Writes bytes of table memory; a written word is correctable again. -/
def tblWrite (o : Nat) (bs : List Byte) (s : State) : State :=
  let ws := (List.range ((o + bs.length + 7) / 8 - o / 8)).map (o / 8 + ·)
  { s with fwd.mem := s.fwd.mem.wrBytes o bs
           fwd.bad := ws.foldl (fun m w => mput (fun _ => false) m w false) s.fwd.bad
           fwd.told := ws.foldl (fun m w => mput (fun _ => false) m w false) s.fwd.told }

/-! The forwarding database (R546 to R548). -/

/-- The 13-bit index of a key in a way (R546). -/
def fdbSlot (mac : List Byte) (vid w : Nat) : Nat :=
  w * 8192 + crc32 (mac.take 6 ++ [BitVec.ofNat 8 vid, BitVec.ofNat 8 (vid / 256 % 16 + w * 16)]) % 8192

def fdbOff (idx : Nat) : Nat := 0x24000 + 16 * idx

def fdbBytes (s : State) (idx : Nat) : List Byte := tblBytes s (fdbOff idx) 16

def fdbBad (s : State) (idx : Nat) : List Nat := badWords s (fdbOff idx) 16

/-- Fields of an entry (R547). -/
def fdbMac (e : List Byte) : List Byte := e.take 6
def fdbTag (e : List Byte) : Nat := leNat (sliceOf e 6 2)
def fdbVid (e : List Byte) : Nat := fdbTag e % 4096
def fdbValid (e : List Byte) : Bool := bitOf (fdbTag e) 12
def fdbStatic (e : List Byte) : Bool := bitOf (fdbTag e) 13
def fdbLearned (e : List Byte) : Bool := bitOf (fdbTag e) 14
def fdbMask (e : List Byte) : Nat := leNat (sliceOf e 8 2) % 512
def fdbHit (e : List Byte) : Bool := bitOf (leNat (sliceOf e 10 1)) 0
def fdbUser (e : List Byte) : Nat := leNat (sliceOf e 12 4)

/-- An entry's bytes. -/
def fdbMake (mac : List Byte) (tag mask : Nat) (hit : Bool) (user : Nat) : List Byte :=
  (mac ++ List.replicate 6 0).take 6 ++ leBytes 2 tag ++ leBytes 2 mask ++ [BitVec.ofNat 8 (b2n hit), 0] ++ leBytes 4 user

/-- The lowest way whose entry matches a key (R548). -/
def fdbFind (s : State) (mac : List Byte) (vid : Nat) : Option Nat :=
  ((List.range 4).map (fdbSlot mac vid)).find? fun i =>
    let e := fdbBytes s i
    (fdbBad s i).isEmpty && fdbValid e && decide (fdbMac e = mac.take 6) && decide (fdbVid e = vid)

/-- The lowest invalid or uncorrectable way of a key. -/
def fdbRoom (s : State) (mac : List Byte) (vid : Nat) : Option Nat :=
  ((List.range 4).map (fdbSlot mac vid)).find? fun i => !(fdbBad s i).isEmpty || !fdbValid (fdbBytes s i)

/-- The uncorrectable words that a search of a key passes. -/
def fdbPassed (s : State) (mac : List Byte) (vid : Nat) : List Nat :=
  ((List.range 4).map (fdbSlot mac vid)).flatMap (fdbBad s)

/-! Learning (R549 to R553). -/

def lrnRate (s : State) : Nat := clampNat 1 4096 (s.get R.FWD_LRN_RATE_PER_S)
def lrnBurst (s : State) : Nat := clampNat 1 4096 (s.get R.FWD_LRN_RATE_BURST)

/-- The learn bucket now, in units of 10^-9 token (R551). -/
def lrnTokens (s : State) : Nat :=
  let cap := lrnBurst s * 10 ^ 9
  match s.fwd.bucket with
  | none => cap
  | some (n, t) => min cap (n + (s.tnow islTBL - t) * lrnRate s)

/-- The bucket as it has filled until now, at the rate in force so far (R551). -/
def lrnSettle (s : State) : State := { s with fwd.bucket := some (lrnTokens s, s.tnow islTBL) }

/-- Shows the head record and the count (R553). -/
def lrnShow (s : State) : State :=
  let (w0, w1, w2, w3) := s.fwd.learn.headD (0, 0, 0, 0)
  let put (k w : Nat) (s : State) : State := s.wr (R.FWD_LRN_REC k) (BitVec.ofNat 32 w)
  put 3 w3 (put 2 w2 (put 1 w1 (put 0 w0 (s.set R.FWD_LRN_STAT_COUNT s.fwd.learn.length))))

/-- Pushes a learn record: KIND 1 NEW, 2 MOVE, 3 AGED (R553). -/
def pushLearn (mac : List Byte) (vid idx port kind : Nat) (s : State) : State :=
  let rec_ := (leNat (sliceOf mac 0 4), leNat (sliceOf mac 4 2) + vid * 2 ^ 16,
    idx + port * 2 ^ 16 + kind * 2 ^ 24 + 2 ^ 31, (s.fwd.pushed + 1) % 2 ^ 32)
  let s := plySend (.learn ([rec_.1, rec_.2.1, rec_.2.2.1, rec_.2.2.2].map (BitVec.ofNat 32))) s
  let s := { s with fwd.learn := s.fwd.learn ++ [rec_], fwd.pushed := (s.fwd.pushed + 1) % 2 ^ 32 }
  cause R.FWD_NSTAT_LEARN 58 (lrnShow s)

/-- A learn write that the bucket and the FIFO let through (R551, R552). -/
def learnWrite (idx : Nat) (e mac : List Byte) (vid port kind : Nat) (s : State) : State :=
  let n := lrnTokens s
  if n < 10 ^ 9 then s.bump R.FWD_CNT_LRNRATE
  else if s.fwd.learn.length ≥ 256 then s.bump R.FWD_CNT_LRNFIFO
  else
    let s := { s with fwd.bucket := some (n - 10 ^ 9, s.tnow islTBL) }
    let s := s.bump (if kind = 1 then R.FWD_CNT_LRN else R.FWD_CNT_MOVE)
    pushLearn mac vid idx port kind (tblWrite (fdbOff idx) e s)

/-- Learning is enabled for a frame (R549). -/
def learns (s : State) (port : Nat) (mac : List Byte) (vid : Nat) : Bool :=
  s.flag R.FWD_LRN_CTL_EN && !s.follower && bitOf (s.get R.FWD_LRN_CTL_PORTS) port && (s.rd (R.FWD_LRN_VLAN (vid / 32))).getLsbD (vid % 32)
    && !(mac.headD 0).getLsbD 0 && decide (leNat mac ≠ 0)

/-- Sets HIT of an entry. -/
def setHit (idx : Nat) (hit : Bool) (s : State) : State :=
  { s with fwd.mem := s.fwd.mem.wr (fdbOff idx + 10) (BitVec.ofNat 8 (b2n hit)) }

/-- A source lookup (R549, R550). -/
def sourceLookup (port : Nat) (mac : List Byte) (vid : Nat) (s : State) : State :=
  let s := meetAll (fdbPassed s mac vid) s
  let on := learns s port mac vid
  match fdbFind s mac vid with
  | some i =>
    let e := fdbBytes s i
    if fdbMask e = 2 ^ port then setHit i true s
    else if fdbStatic e then s.bump R.FWD_CNT_STATMOVE
    else if on && s.flag R.FWD_LRN_CTL_MOVE then
      learnWrite i (fdbMake mac (fdbTag e) (2 ^ port) true (fdbUser e)) mac vid port 2 s
    else setHit i true s
  | none =>
    if !on then s
    else
      match fdbRoom s mac vid with
      | some i => learnWrite i (fdbMake mac (vid + 2 ^ 12 + 2 ^ 14) (2 ^ port) true 0) mac vid port 1 s
      | none => cause R.FWD_NSTAT_FULL 61 (s.bump R.FWD_CNT_LRNFULL)

/-- SOURCE_LOOKUP: the next admitted frame's source (R549, R568). -/
def execSourceLookup (s : State) : Out :=
  match s.fwd.srcq with
  | [] => stay s
  | (port, mac, vid) :: q =>
    let s := { s with fwd.srcq := q }
    if !s.up islTBL || s.halted then .next s else .next (sourceLookup port mac vid s)

/-- LEARN_POP (R553). -/
def learnPop (s : State) : State := lrnShow { s with fwd.learn := s.fwd.learn.drop 1 }

def execLearnPop (a : Agent) (s : State) : Out := access a R.FWD_LRN_POP 1 (fun s => .next (learnPop s)) s

/-! Aging (R554). -/

/-- One visit of the ager to an entry. -/
def agerVisit (idx : Nat) (s : State) : State :=
  let bad := fdbBad s idx
  let e := fdbBytes s idx
  if !bad.isEmpty then meetAll bad s
  else if !fdbValid e || fdbStatic e then s
  else if fdbHit e then setHit idx false s
  else if s.fwd.learn.length ≥ 256 then s
  else
    let s := tblWrite (fdbOff idx) (fdbMake (fdbMac e) (fdbTag e - 2 ^ 12) (fdbMask e) false (fdbUser e)) s
    pushLearn (fdbMac e) (fdbVid e) idx 0 3 (s.bump R.FWD_CNT_AGED)

/-- A LEARN record makes the same FDB change on the FOLLOWER (22_ply_pair.md R796). -/
def learnApply (w : List Word) (s : State) : State :=
  let w0 := w.getD 0 0; let w1 := w.getD 1 0; let w2 := w.getD 2 0
  let mac := leBytes 4 w0.toNat ++ leBytes 2 (wget w1 0 16)
  let vid := wget w1 16 12
  let idx := wget w2 0 15
  let port := wget w2 16 4
  let kind := wget w2 24 2
  let e := fdbBytes s idx
  let e' := if kind = 1 then fdbMake mac (vid + 2 ^ 12 + 2 ^ 14) (2 ^ port) true 0
    else if kind = 2 then fdbMake mac (fdbTag e) (2 ^ port) true (fdbUser e)
    else fdbMake (fdbMac e) (fdbTag e - 2 ^ 12) (fdbMask e) false (fdbUser e)
  pushLearn mac vid idx port kind (tblWrite (fdbOff idx) e' s)

/-- AGER_VISIT (R554, R555, R576). -/
def execAgerVisit (idx : Nat) (s : State) : Out :=
  if !s.up islTBL || s.halted || s.follower || decide (s.get R.FWD_AGE_SEC = 0) || decide (idx ≥ 32768) then stay s
  else .next (agerVisit idx s)

/-! Longest-prefix match (R556 to R561). -/

/-- A lookup's result: LKR0, LKR1 and the uncorrectable words it passed, or an unpredictable one (R560). -/
inductive LookRes
  | ok (lkr0 lkr1 : Nat) (bad : List Nat)
  | unpredictable
deriving DecidableEq, Repr

/-- A miss, with ERR if a word was passed over (R561). -/
def lookMiss (bad : List Nat) : LookRes := .ok (if bad.isEmpty then 0 else 2 ^ 30) 0 bad

def lookHit (l0 l1 : Nat) (bad : List Nat) : LookRes := .ok (l0 + 2 ^ 31 + (if bad.isEmpty then 0 else 2 ^ 30)) l1 bad

/-- A thread's FDB lookup (R548, R561). -/
def lookFdb (s : State) (mac : List Byte) (vid : Nat) : LookRes :=
  let ways := (List.range 4).map (fdbSlot mac vid)
  match fdbFind s mac vid with
  | some i =>
    let e := fdbBytes s i
    let bad := (ways.takeWhile (· ≠ i)).flatMap (fdbBad s)
    lookHit (fdbMask e + b2n (fdbStatic e) * 2 ^ 12 + b2n (fdbLearned e) * 2 ^ 13) (fdbUser e) bad
  | none => lookMiss (ways.flatMap (fdbBad s))

def routeOff (r : Nat) : Nat := 0xA4000 + 16 * r

/-- The uncorrectable words of a route (R574). -/
def routeBad (s : State) (v6 : Bool) (r : Nat) : List Nat := badWords s (routeOff r) (if v6 then 32 else 16)

/-- A key masked to its first L bits. -/
def maskBits : Nat → List Byte → List Byte
  | _, [] => []
  | l, b :: bs => (if l ≥ 8 then b else b &&& BitVec.ofNat 8 (0xFF00 / 2 ^ l % 256)) :: maskBits (l - 8) bs

def routeBytes (s : State) (r : Nat) : List Byte := tblBytes s (routeOff r) 16

def routePrefix (s : State) (v6 : Bool) (r : Nat) : List Byte :=
  if v6 then routeBytes s (r + 1) else sliceOf (routeBytes s r) 8 4

/-- A route equals what a slot stands for (R558 step 3). -/
def routeIs (s : State) (inst : Nat) (v6 : Bool) (key : List Byte) (l r : Nat) : Bool :=
  let e := routeBytes s r
  let b := leNat (sliceOf e 13 1)
  bitOf b 7 && decide (bitOf b 6 = v6) && decide (b % 4 = inst) && decide (leNat (sliceOf e 12 1) = l)
    && decide (maskBits l (routePrefix s v6 r) = maskBits l key)

def routeResult (s : State) (r : Nat) (bad : List Nat) : LookRes :=
  let e := routeBytes s r
  lookHit (leNat (sliceOf e 0 4) % 2 ^ 30) (leNat (sliceOf e 4 4)) bad

/-- One bucket's slots in order (R558). -/
def hashSlots (s : State) (inst : Nat) (v6 : Bool) (key : List Byte) (l bucket tag : Nat) :
    List Nat → List Nat → Option (Option Nat × List Nat)
  | [], bad => some (none, bad)
  | k :: ks, bad =>
    let o := bucket + 4 * k
    let w := leNat (tblBytes s o 4)
    let r := w % 2 ^ 15
    if mget (fun _ => false) s.fwd.bad (o / 8) then hashSlots s inst v6 key l bucket tag ks (bad ++ [o / 8])
    else if !bitOf w 15 || decide (w / 2 ^ 16 ≠ tag) then hashSlots s inst v6 key l bucket tag ks bad
    else if v6 && decide (r % 2 = 1) then none
    else if !(routeBad s v6 r).isEmpty then hashSlots s inst v6 key l bucket tag ks (bad ++ routeBad s v6 r)
    else if routeIs s inst v6 key l r then some (some r, bad)
    else hashSlots s inst v6 key l bucket tag ks bad

/-- The lengths of a family whose filter bit is 1, longest first. -/
def hashLengths (s : State) (i : Nat) (v6 : Bool) : List Nat :=
  let n := if v6 then 129 else 33
  ((List.range n).reverse).filter fun l =>
    (s.rd (R.FWD_LFILT i ((if v6 then 2 else 0) + l / 32))).getLsbD (l % 32)

/-- The 24-byte hash input (R558 step 1). -/
def hashInput (inst : Nat) (v6 : Bool) (key : List Byte) (l : Nat) : List Byte :=
  (maskBits l key ++ List.replicate 16 0).take 16 ++ [BitVec.ofNat 8 l, BitVec.ofNat 8 (inst + b2n v6 * 128)]
    ++ List.replicate 6 0

def hashWalk (s : State) (i : Nat) (v6 : Bool) (key : List Byte) : List Nat → List Nat → LookRes
  | [], bad => lookMiss bad
  | l :: ls, bad =>
    let base := s.get (if v6 then R.FWD_LEN6_BASE i l else R.FWD_LEN4_BASE i l)
    let log := min 12 (s.get (if v6 then R.FWD_LEN6_LOG i l else R.FWD_LEN4_LOG i l))
    let h := crc32 (hashInput i v6 key l)
    let bucket := 0x124000 + 0x400 * base + 64 * (h % (16 * 2 ^ log))
    if base > 2927 ∨ base + 2 ^ log > 2928 then .unpredictable
    else
      match hashSlots s i v6 key l bucket (h / 2 ^ 16) (List.range 16) bad with
      | none => .unpredictable
      | some (some r, bad) => routeResult s r bad
      | some (none, bad) => hashWalk s i v6 key ls bad

/-- A route's own words fit the lookup that a trie leads to it: instance, family and prefix (R559, R560). -/
def routeFits (s : State) (inst : Nat) (v6 : Bool) (key : List Byte) (r : Nat) : Bool :=
  let e := routeBytes s r
  let b := leNat (sliceOf e 13 1)
  let len := leNat (sliceOf e 12 1)
  decide (bitOf b 6 = v6) && decide (b % 4 = inst) && decide (maskBits len (routePrefix s v6 r) = maskBits len key)

/-- What stage 8 returns for the best route of a walk: an invalid route, and an IPv6 prefix longer than 64 bits, never match; a route
that the trie contradicts is unpredictable (R559, R560; assumption 175). -/
def trieRoute (s : State) (inst : Nat) (v6 : Bool) (key : List Byte) (best : Option Nat) (bad : List Nat) : LookRes :=
  match best with
  | none => lookMiss bad
  | some r =>
    let e := routeBytes s r
    if v6 && decide (r % 2 = 1) then .unpredictable
    else if !(routeBad s v6 r).isEmpty then lookMiss (bad ++ routeBad s v6 r)
    else if !bitOf (leNat (sliceOf e 13 1)) 7 || (v6 && decide (leNat (sliceOf e 12 1) > 64)) then lookMiss bad
    else if !routeFits s inst v6 key r then .unpredictable
    else routeResult s r bad

/-- The trie walk from an entry's offset through the remaining index bytes; `best` is the last valid route (R559). -/
def trieWalk (s : State) (done : Option Nat → List Nat → LookRes) : Nat → List Byte → Option Nat → List Nat → LookRes
  | o, ks, best, bad =>
    if mget (fun _ => false) s.fwd.bad (o / 8) then done best (bad ++ [o / 8])
    else
      let w := leNat (tblBytes s o 4)
      let best := if bitOf w 15 then some (w % 2 ^ 15) else best
      let node := bitsOf w 16 12
      match ks with
      | [] => done best bad
      | k :: ks =>
        if !bitOf w 30 then done best bad
        else if node > 2927 then .unpredictable
        else trieWalk s done (0x124000 + 0x400 * node + 4 * k.toNat) ks best bad
  termination_by structural _ ks => ks

/-- A route lookup in instance i (R556 to R561). -/
def lookRoute (s : State) (i : Nat) (v6 : Bool) (key : List Byte) : LookRes :=
  if !s.flag (R.FWD_INST_EN i) then lookMiss []
  else if s.flag (R.FWD_INST_MODE i) then
    let root := s.get (if v6 then R.FWD_ROOT_ROOT6 i else R.FWD_ROOT_ROOT4 i)
    if !s.flag (if v6 then R.FWD_ROOT_V6 i else R.FWD_ROOT_V4 i) then lookMiss []
    else if root + 256 > 2928 then .unpredictable
    else
      trieWalk s (trieRoute s i v6 key) (0x124000 + 0x400 * root + 4 * beNat (key.take 2)) ((key.drop 2).take (if v6 then 6 else 2)) none []
  else hashWalk s i v6 key (hashLengths s i v6) []

/-! Commands (R564 to R569). -/

def fwdStage (s : State) : List Byte := (List.range 16).flatMap fun w => leBytes 4 (s.rd (R.FWD_STAGE w)).toNat

def cmdEnd (status : Nat) (s : State) : State := (s.set R.FWD_CSTAT_STATUS status).set R.FWD_CSTAT_REPLACED 0

def lineOf (s : State) : Nat := 64 * s.get R.FWD_ADDR_LINE

/-- WRITE (R564, R566). -/
def fwdWrite (s : State) : State :=
  let o := lineOf s
  if o < 0x24000 then cmdEnd 3 s
  else
    let be := (s.rd R.FWD_STAGE_BE_LO).toNat + 2 ^ 32 * (s.rd R.FWD_STAGE_BE_HI).toNat
    let st := fwdStage s
    cmdEnd 0 ((List.range 64).foldl (fun s i => if bitOf be i then tblWrite (o + i) [st.getD i 0] s else s) s)

/-- READ (R564). -/
def fwdRead (s : State) : State :=
  let o := lineOf s
  let s := meetAll (badWords s o 64) s
  let bs := tblBytes s o 64
  cmdEnd 0 ((List.range 16).foldl (fun s w => s.wr (R.FWD_STAGE w) (BitVec.ofNat 32 (leNat (sliceOf bs (4 * w) 4)))) s)

/-- FDB_INSERT (R564). -/
def fdbInsert (s : State) : State :=
  let e := (fwdStage s).take 16
  let (mac, vid) := (fdbMac e, fdbVid e)
  let s := meetAll (fdbPassed s mac vid) s
  match fdbFind s mac vid with
  | some i => ((cmdEnd 0 (tblWrite (fdbOff i) e s)).set R.FWD_CSTAT_REPLACED 1).set R.FWD_CSTAT_INDEX i
  | none =>
    match fdbRoom s mac vid with
    | some i => (cmdEnd 0 (tblWrite (fdbOff i) e s)).set R.FWD_CSTAT_INDEX i
    | none => cause R.FWD_NSTAT_FULL 61 (cmdEnd 1 s)

/-- FDB_DELETE (R564). -/
def fdbDelete (s : State) : State :=
  let e := (fwdStage s).take 8
  let s := meetAll (fdbPassed s (fdbMac e) (fdbVid e)) s
  match fdbFind s (fdbMac e) (fdbVid e) with
  | some i => cmdEnd 0 (tblWrite (fdbOff i) (List.replicate 16 0) s)
  | none => cmdEnd 2 s

/-- FDB_FLUSH starts (R564, R565). -/
def fdbFlush (s : State) : State :=
  { ((cmdEnd 0 s).set R.FWD_CSTAT_BUSY 1) with fwd.flush := some (s.rd (R.FWD_STAGE 0)).toNat }

/-- An entry that a flush clears. -/
def flushHits (w : Nat) (e : List Byte) : Bool :=
  fdbValid e && decide (fdbMask e &&& w % 512 ≠ 0) && (!bitOf w 28 || decide (fdbVid e = bitsOf w 16 12))
    && (bitOf w 29 || !fdbStatic e)

/-- The FDB entries that hold anything. -/
def fdbUsed (s : State) : List Nat :=
  s.fwd.mem.foldl (fun l e =>
    if 0x24000 ≤ e.1 ∧ e.1 < 0xA4000 ∧ !l.contains ((e.1 - 0x24000) / 16) then l ++ [(e.1 - 0x24000) / 16] else l) []

/-- A command while no other is in progress; else it is ignored and LOST is set (R567). -/
def fwdCmd (f : State → State) (s : State) : State := if s.flag R.FWD_CSTAT_BUSY then s.set R.FWD_CSTAT_LOST 1 else f s

/-- FWD_WRITE. -/
def execFwdWrite (a : Agent) (s : State) : Out := access a R.FWD_CMD 1 (fun s => .next (fwdCmd fwdWrite s)) s

/-- FWD_READ. -/
def execFwdRead (a : Agent) (s : State) : Out := access a R.FWD_CMD 2 (fun s => .next (fwdCmd fwdRead s)) s

/-- FDB_INSERT. -/
def execFdbInsert (a : Agent) (s : State) : Out := access a R.FWD_CMD 3 (fun s => .next (fwdCmd fdbInsert s)) s

/-- FDB_DELETE. -/
def execFdbDelete (a : Agent) (s : State) : Out := access a R.FWD_CMD 4 (fun s => .next (fwdCmd fdbDelete s)) s

/-- FDB_FLUSH. -/
def execFdbFlush (a : Agent) (s : State) : Out := access a R.FWD_CMD 5 (fun s => .next (fwdCmd fdbFlush s)) s

/-- FDB_FLUSH_DONE: every entry the flush names is cleared (R564, R565). -/
def execFdbFlushDone (s : State) : Out :=
  match s.fwd.flush with
  | none => stay s
  | some w =>
    let s := (fdbUsed s).foldl (fun s i =>
      if !(fdbBad s i).isEmpty then meetAll (fdbBad s i) s
      else if flushHits w (fdbBytes s i) then tblWrite (fdbOff i) (List.replicate 16 0) s else s) s
    .next { (s.set R.FWD_CSTAT_BUSY 0) with fwd.flush := none }

/-- A write of FWD_CMD by its operation code (R564). -/
def fwdCmdWrite (op : Nat) (s : State) : State :=
  match op with
  | 1 => fwdCmd fwdWrite s
  | 2 => fwdCmd fwdRead s
  | 3 => fwdCmd fdbInsert s
  | 4 => fwdCmd fdbDelete s
  | 5 => fwdCmd fdbFlush s
  | _ => fwdCmd (fun s => s) s

/-! Events (R575). -/

/-- A read of FWD_EVT removes and returns the head event. -/
def evtPop (s : State) : Word × State :=
  (BitVec.ofNat 32 (s.fwd.events.headD 0), { s with fwd.events := s.fwd.events.drop 1 })

/-- FWD_EVENT_READ. -/
def execFwdEventRead (a : Agent) (s : State) : Out :=
  readRow a R.FWD_EVT evtPop s

/-! The auditor (R570 to R573). -/

/-- The enabled regions as ranges of table memory, in sweep order (R571). -/
def auditRegions (s : State) : List (Nat × Nat) :=
  let on (i : Nat) : Bool := bitOf (s.get R.FWD_AUD_CTL_REGIONS) i
  (if on 0 then [(0, 0x24000)] else []) ++ (if on 1 then [(0x24000, 0xA4000)] else [])
    ++ (if on 2 then [(0xA4000, 0x124000)] else [])
    ++ (if on 3 then [(0x124000, 0x124000 + 0x400 * min 2928 (s.get R.FWD_AUD_CTL_NBLK))] else [])

/-- The first line at or after an offset that the sweep visits; none at its end. -/
def auditNext (s : State) (o : Nat) : Option Nat :=
  ((auditRegions s).find? fun r => decide (o < r.2 ∧ r.1 < r.2)).map fun r => max o r.1

/-- The shadow copy of a line (R570). -/
def shadowLine (s : State) (o : Nat) : List Byte :=
  let base := (s.get R.FWD_AUD_SHBASE_LO_BASE) * 4096 + 2 ^ 32 * (s.rd R.FWD_AUD_SHBASE_HI).toNat
  if s.flag R.FWD_AUD_CTL_SPACE then s.hif.mem.rdBytes (base + o) 64
  else (List.range 64).map fun i => s.pkt.rd ((base + o + i) % 2 ^ 24)

/-- A line as the auditor sees it: the HIT byte of FDB entries is ignored (R571). -/
def auditView (o : Nat) (bs : List Byte) : List Byte :=
  if 0x24000 ≤ o ∧ o < 0xA4000 then bs.zipIdx.map fun p => if p.2 % 16 = 10 then 0 else p.1 else bs

/-- The first 64-bit word in which a line differs from its shadow. -/
def auditDiff (s : State) (o : Nat) : Option Nat :=
  let a := auditView o (tblBytes s o 64)
  let b := auditView o (shadowLine s o)
  ((List.range 8).find? fun k => decide (sliceOf a (8 * k) 8 ≠ sliceOf b (8 * k) 8)).map fun k => o + 8 * k

/-- A record in the learn FIFO names an entry of the line (R572). -/
def lineNamed (s : State) (o : Nat) : Bool :=
  s.fwd.learn.any fun r => decide (fdbOff (r.2.2.1 % 2 ^ 15) / 64 = o / 64)

def auditOn (s : State) : Bool := s.up islTBL && !s.halted && s.flag R.FWD_AUD_CTL_EN

/-- AUDIT_SWEEP_START (R571). -/
def execAuditSweepStart (s : State) : Out :=
  if !auditOn s || s.fwd.audit.running then stay s
  else
    .next { (s.set R.FWD_AUD_STAT_RUN 1) with
      fwd.audit := { s.fwd.audit with running := true, pos := 0, deferred := [] } }

/-- One line's comparison: uncorrectable words are ECC events; a difference waits for its recheck (R572, R574). -/
def auditLine (o : Nat) (s : State) : State :=
  let bad := badWords s o 64
  if !bad.isEmpty then meetAll bad s
  else if (auditDiff s o).isSome then { s with fwd.audit.recheck := s.fwd.audit.recheck ++ [o] }
  else s

/-- AUDIT_LINE_COMPARE: the sweep's next line, deferred lines last (R571, R572). -/
def execAuditLineCompare (s : State) : Out :=
  if !auditOn s || !s.fwd.audit.running then stay s
  else
    match auditNext s s.fwd.audit.pos with
    | some o =>
      let s := { s with fwd.audit.pos := o + 64 }
      .next (if lineNamed s o then { s with fwd.audit.deferred := s.fwd.audit.deferred ++ [o] } else auditLine o s)
    | none =>
      match s.fwd.audit.deferred with
      | [] => stay s
      | o :: os =>
        let s := { s with fwd.audit.deferred := os }
        .next (if lineNamed s o then s.bump R.FWD_AUD_SKIP else auditLine o s)

/-- AUDIT_RECHECK: a line that differed is compared again, and reported if it differs still (R572, R573). -/
def execAuditRecheck (s : State) : Out :=
  match s.fwd.audit.recheck with
  | [] => stay s
  | o :: os =>
    if !auditOn s then stay s
    else
      let s := { s with fwd.audit.recheck := os }
      match (badWords s o 64).isEmpty, auditDiff s o with
      | false, _ => .next (meetAll (badWords s o 64) s)
      | true, none => .next s
      | true, some w => .next (cause ⟨R.FWD_NSTAT, 1, 1⟩ 59 (pushEvent w 1 s))

/-- AUDIT_SWEEP_END: the sweep ends, or (`late`) its period has passed without its end (R571). -/
def execAuditSweepEnd (late : Bool) (s : State) : Out :=
  if !s.fwd.audit.running then stay s
  else if late then .next (cause ⟨R.FWD_NSTAT, 1, 1⟩ 59 (s.set R.FWD_AUD_STAT_LATE 1))
  else if (auditNext s s.fwd.audit.pos).isSome || !s.fwd.audit.deferred.isEmpty then stay s
  else
    let s := (s.set R.FWD_AUD_STAT_RUN 0).set R.FWD_AUD_STAT_SWEEPS (s.get R.FWD_AUD_STAT_SWEEPS + 1)
    .next { s with fwd.audit.running := false }

/-- Writes an entry of a TABLES section (R569). -/
def tableEntry (o : Nat) (body : List Byte) (s : State) : State := tblWrite o (body.take 64) s

end Sys2Proof.Machine
end

