-- ==== Sys2Proof/Machine/Prs.lean ====
section
/-!
DEFINITION. The parser and classifier, and the rule commands (09_parser_classifier.md R327 to R363).
-/
namespace Sys2Proof.Machine

/-! The parser (R327 to R335). A frame is its bytes from the destination address, without the FCS. -/

/-- A field of the match key: where it starts, and its bytes with the mask of each (R336). -/
structure KeyPart where
  off : Nat
  bytes : List Nat
  masks : List Nat
deriving DecidableEq, Repr

/-- What the parser has found. -/
structure Parsed where
  parts : List KeyPart
  vcnt : Nat
  rtag : Option Nat
  flags : Nat
  l3off : Nat
  l4off : Nat
  ovid : Option Nat
  pcp : Option Nat
  /-- The offset of the EtherType after all tags and any R-TAG. -/
  l2 : Nat
deriving DecidableEq, Repr

/-- The flags of R332, by bit. -/
abbrev fRTAG : Nat := 2
abbrev fAVTP : Nat := 3
abbrev fGPTP : Nat := 4
abbrev fARP : Nat := 5
abbrev fIPV4 : Nat := 6
abbrev fIPV6 : Nat := 7
abbrev fFRAG : Nat := 8
abbrev fL3BAD : Nat := 9
abbrev fTCP : Nat := 10
abbrev fUDP : Nat := 11
abbrev fICMP : Nat := 12
abbrev fDOIP : Nat := 13
abbrev fTRUNC : Nat := 14
abbrev fL4BAD : Nat := 15

def Parsed.flag (p : Parsed) (b : Nat) : Parsed := { p with flags := p.flags ||| 2 ^ b }

def Parsed.put (p : Parsed) (off : Nat) (bytes masks : List Nat) : Parsed := { p with parts := p.parts ++ [⟨off, bytes, masks⟩] }

/-- A field of whole bytes, in network order. -/
def Parsed.putN (p : Parsed) (off : Nat) (bs : List Byte) : Parsed :=
  p.put off (bs.map (·.toNat)) (bs.map fun _ => 255)

/-- The byte at an offset of the window. -/
def at_ (d : List Byte) (o : Nat) : Nat := (d.getD o 0).toNat

def at16 (d : List Byte) (o : Nat) : Nat := at_ d o * 256 + at_ d (o + 1)

/-- A TPID that opens a VLAN tag (R328). -/
def isTpid (t : Nat) : Bool := decide (t = 0x8100) || decide (t = 0x88A8)

/-- A header of k bytes at offset q has been cut: its flags (R330, R334; assumption 166). -/
def headerCut (bad n q k : Nat) (p : Parsed) : Parsed :=
  let p := if q + k > n then p.flag bad else p
  if q + k > 256 then p.flag fTRUNC else p

/-- L4 parsing at offset q for protocol `proto`; `n` is the frame's length (R328, R330, R334). -/
def parseL4 (d : List Byte) (n proto q : Nat) (p : Parsed) : Parsed :=
  let has (k : Nat) : Bool := decide (q + k ≤ d.length)
  let doip (p : Parsed) : Parsed := if at16 d q = 13400 ∨ at16 d (q + 2) = 13400 then p.flag fDOIP else p
  let v6 := bitOf p.flags fIPV6
  if proto = 6 then
    if !has 13 then headerCut fL4BAD n q 20 p
    else
      let off := at_ d (q + 12) / 16
      if off < 5 then p.flag fL4BAD
      else if !has (4 * off) then headerCut fL4BAD n q (4 * off) p
      else
        doip { (((p.flag fTCP).putN 56 (sliceOf d q 2)).putN 58 (sliceOf d (q + 2) 2)).putN 60 (sliceOf d (q + 13) 1) with
          l4off := q }
  else if proto = 17 then
    if !has 8 then headerCut fL4BAD n q 8 p
    else doip { ((p.flag fUDP).putN 56 (sliceOf d q 2)).putN 58 (sliceOf d (q + 2) 2) with l4off := q }
  else if (proto = 1 && !v6) || (proto = 58 && v6) then
    if !has 4 then headerCut fL4BAD n q 4 p
    else { (p.flag fICMP).putN 56 (sliceOf d q 2) with l4off := q }
  else p

/-- IPv4 at offset q (R328, R333, R334). -/
def parseV4 (d : List Byte) (n q : Nat) (p : Parsed) : Parsed :=
  let p := { p.flag fIPV4 with l3off := q }
  if q + 20 > d.length then headerCut fL3BAD n q 20 p
  else
    let ihl := at_ d q % 16
    let total := at16 d (q + 2)
    if at_ d q / 16 ≠ 4 ∨ ihl < 5 ∨ total < 4 * ihl ∨ total > n - q then p.flag fL3BAD
    else if q + 4 * ihl > d.length then p.flag fTRUNC
    else
      let z : List Nat := List.replicate 12 0
      let adr (o : Nat) : List Nat := (sliceOf d o 4).map (·.toNat) ++ z
      let full : List Nat := List.replicate 16 255
      let p := ((p.put 22 [at_ d (q + 9)] [255]).put 23 [at_ d (q + 1) / 4] [63]).put 24 (adr (q + 12)) full
      let p := p.put 40 (adr (q + 16)) full
      if at16 d (q + 6) % 0x4000 ≠ 0 then p.flag fFRAG else parseL4 d n (at_ d (q + 9)) (q + 4 * ihl) p

/-- The next headers that are IPv6 extension headers outside the four that the parser follows (R334). -/
def otherExt (h : Nat) : Bool := [50, 51, 135, 139, 140, 253, 254].contains h

/-- The chain of extension headers: at most two are followed; how it ends (R328, R333, R334). -/
def parseExt (d : List Byte) (n : Nat) : Nat → Nat → Nat → Parsed → Parsed
  | fuel, h, q, p =>
    if h = 0 ∨ h = 43 ∨ h = 44 ∨ h = 60 then
      let p := if h = 44 then p.flag fFRAG else p
      match fuel with
      | 0 => (p.put 22 [h] [255]).flag fL4BAD
      | fuel + 1 =>
        let len := if h = 44 then 8 else (at_ d (q + 1) + 1) * 8
        if q + 8 > d.length ∨ q + len > d.length then p.flag fTRUNC
        else parseExt d n fuel (at_ d q) (q + len) p
    else
      let p := p.put 22 [h] [255]
      if otherExt h then p.flag fL4BAD else if bitOf p.flags fFRAG then p else parseL4 d n h q p
  termination_by structural fuel => fuel

/-- IPv6 at offset q. -/
def parseV6 (d : List Byte) (n q : Nat) (p : Parsed) : Parsed :=
  let p := { p.flag fIPV6 with l3off := q }
  if q + 40 > d.length then headerCut fL3BAD n q 40 p
  else if at_ d q / 16 ≠ 6 ∨ at16 d (q + 4) > n - q - 40 then p.flag fL3BAD
  else
    let p := p.put 23 [(at_ d q % 16 * 16 + at_ d (q + 1) / 16) / 4] [63]
    parseExt d n 2 (at_ d (q + 6)) (q + 40) ((p.putN 24 (sliceOf d (q + 8) 16)).putN 40 (sliceOf d (q + 24) 16))

/-- ARP at offset q: IPv4 over Ethernet only (R328). -/
def parseArp (d : List Byte) (q : Nat) (p : Parsed) : Parsed :=
  if q + 8 > d.length then p.flag fTRUNC
  else if (sliceOf d q 6).map (·.toNat) ≠ [0, 1, 8, 0, 6, 4] then p
  else
    let p := { p.flag fARP with l3off := q }
    if q + 28 > d.length then p.flag fTRUNC
    else
      let adr (o : Nat) : List Nat := (sliceOf d o 4).map (·.toNat) ++ List.replicate 12 0
      let full : List Nat := List.replicate 16 255
      (p.put 24 (adr (q + 14)) full).put 40 (adr (q + 24)) full

/-- AVTP at offset q: the common header, with the stream ID where sv is 1 (R328, R336). -/
def parseAvtp (d : List Byte) (q : Nat) (p : Parsed) : Parsed :=
  let p := p.flag fAVTP
  if q + 2 > d.length then p.flag fTRUNC
  else if at_ d (q + 1) < 128 then p.put 32 [at_ d q] [255]
  else if q + 12 > d.length then p.flag fTRUNC
  else (p.put 32 [at_ d q] [255]).putN 24 (sliceOf d (q + 4) 8)

/-- What an EtherType at offset o names (R328). -/
def parseL3 (d : List Byte) (n o : Nat) (p : Parsed) : Parsed :=
  let et := at16 d o
  let q := o + 2
  let p := { p with l2 := o }
  if et < 0x600 then p
  else
    let p := p.putN 18 (sliceOf d o 2)
    if et = 0x22F0 then parseAvtp d q p
    else if et = 0x88F7 then
      let p := p.flag fGPTP
      if q + 34 > d.length then p.flag fTRUNC else p.put 32 [at_ d q % 16] [255]
    else if et = 0x0806 then parseArp d q p
    else if et = 0x0800 then parseV4 d n q p
    else if et = 0x86DD then parseV6 d n q p
    else p

/-- An R-TAG at offset o, if one is there (R328). -/
def parseRtag (d : List Byte) (n o : Nat) (p : Parsed) : Parsed :=
  if at16 d o = 0xF1C1 then
    let p := { p.flag fRTAG with rtag := some o }
    if o + 8 > d.length then p.flag fTRUNC else parseL3 d n (o + 6) p
  else parseL3 d n o p

/-- The VLAN tags; a third one stops the parser (R328, R329). -/
def parseTags (d : List Byte) (n : Nat) : Nat → Nat → Parsed → Parsed
  | fuel, o, p =>
    if o + 2 > d.length then p.flag fTRUNC
    else if isTpid (at16 d o) then
      match fuel with
      | 0 => { p with l2 := o }
      | fuel + 1 =>
        if o + 4 > d.length then ({ p with vcnt := p.vcnt + 1 }).flag fTRUNC
        else
          let t := at16 d (o + 2)
          let p := if p.vcnt = 0 then { p with ovid := some (t % 4096), pcp := some (t / 8192) }
            else p.put 4 [t % 256, t / 256 % 16] [255, 15]
          parseTags d n fuel (o + 4) { p with vcnt := p.vcnt + 1 }
    else parseRtag d n o p
  termination_by structural fuel => fuel

/-- Parses a frame received on a port (9: host-submitted), with the port's PVID and PCP for frames that lack their own
(R302, R327 to R336). -/
def parseFrame (frame : List Byte) (port : Nat) (dflt : Option (Nat × Nat)) : Parsed :=
  let d := frame.take 256
  let p0 : Parsed := { parts := [], vcnt := 0, rtag := none, flags := 0, l3off := 0xFF, l4off := 0xFF, ovid := none,
                       pcp := none, l2 := 12 }
  let mac (o : Nat) : List Byte := (sliceOf d o 6 ++ List.replicate 6 0).take 6
  let p := ((p0.put 0 [port] [15]).putN 6 (mac 0)).putN 12 (mac 6)
  let p := parseTags d frame.length 2 12 p
  let p := match dflt with
    | some (pvid, pcp) =>
      { p with ovid := some (match p.ovid with | some v => if v = 0 then pvid else v | none => pvid)
               pcp := some (p.pcp.getD pcp) }
    | none => p
  let p := match p.ovid, p.pcp with
    | some v, some c => (p.put 1 [c] [7]).put 2 [v % 256, v / 256] [255, 15]
    | _, _ => p
  let p := p.put 1 [p.vcnt * 8] [24]
  let p := { p with flags := p.flags + p.vcnt }
  p.put 20 [p.flags % 256, p.flags / 256] [255, 255]

/-- The key byte at i (R336, R337). -/
def keyByte (p : Parsed) (i : Nat) : Nat :=
  p.parts.foldl (fun v f => if f.off ≤ i ∧ i < f.off + f.bytes.length then v ||| f.bytes.getD (i - f.off) 0 else v) 0

/-- The bits of key byte i that present fields hold. -/
def presentMask (p : Parsed) (i : Nat) : Nat :=
  p.parts.foldl (fun v f => if f.off ≤ i ∧ i < f.off + f.masks.length then v ||| f.masks.getD (i - f.off) 0 else v) 0

/-- The bits of key byte i that some field of R336 holds; bytes 61 to 63 count whole. -/
def fieldMask (i : Nat) : Nat :=
  if i = 0 then 15 else if i = 1 then 31 else if i = 3 ∨ i = 5 then 15 else if i = 23 then 63 else 255

/-! Rules (R338 to R346, R359). -/

/-- The rule entries that hold anything, in rising order. -/
def rulesUsed (s : State) : List Nat :=
  s.fwd.mem.foldl (fun l e => if e.1 < 0x24000 ∧ !l.contains (e.1 / 144) then l ++ [e.1 / 144] else l) []

/-- A rule matches a parsed frame (R338, R340). -/
def ruleMatches (s : State) (p : Parsed) (e : List Byte) (r : Nat) : Bool :=
  bitOf (at_ e 0x80) 0 && bitOf (s.get R.PRS_GRP_EN_EN) (r / 64) &&
    (List.range 64).all fun i =>
      let m := at_ e (0x40 + i)
      decide (m &&& (fieldMask i - (fieldMask i &&& presentMask p i)) = 0) && (decide (i < 61) || decide (m = 0))
        && decide (m &&& at_ e i = m &&& keyByte p i)

/-- The matching rules in priority order with their actions, and the uncorrectable words met (R341, R359). -/
def matchRules (s : State) (p : Parsed) : List (Nat × Nat × Nat) :=
  (rulesUsed s).filterMap fun r =>
    let e := tblBytes s (144 * r) 144
    if (badWords s (144 * r) 144).isEmpty && ruleMatches s p e r then
      some (r, leNat (sliceOf e 0x80 4), leNat (sliceOf e 0x84 4))
    else none

/-- The first matching rule whose action bit b is set. -/
def setter (ms : List (Nat × Nat × Nat)) (b : Nat) : Option (Nat × Nat × Nat) := ms.find? fun m => bitOf m.2.1 b

/-- What classification decides. -/
structure Verdict where
  drop : Bool
  noMatch : Bool
  cls : Nat
  colour : Nat
  yarn : Nat
  hq : Nat
  hqen : Bool
  qrule : Nat
  qdef : Bool
deriving DecidableEq, Repr

/-- Class, colour and queue (R342 to R344, R346). What the queue setting of a rule with QKIND 2 does has no rule: `free` says whether
it drops the frame, and else which yarn it names (assumption 161). -/
def decideOutputs (s : State) (port : Nat) (p : Parsed) (ms : List (Nat × Nat × Nat)) (free : Nat) : Verdict :=
  let cls := match setter ms 1 with
    | some m => bitsOf m.2.1 8 4
    | none =>
      match (if s.flag (R.PRS_PORT_DEF_PCPCLASS port) then p.pcp else none) with
      | some c => c
      | none => s.get (R.PRS_PORT_DEF_CLASS port)
  let colour := match setter ms 2 with
    | some m => bitsOf m.2.1 12 2
    | none => s.get (R.PRS_PORT_DEF_COLOUR port)
  match setter ms 3 with
  | some m =>
    let hq := bitsOf m.2.2 16 10
    let qkind := bitsOf m.2.1 4 2
    { drop := decide (qkind = 1) || (decide (qkind = 2) && bitOf free 0) || decide (colour = 2), noMatch := false, cls := cls, colour := colour,
      yarn := if qkind = 2 then free / 2 % 4096 else m.2.2 % 4096, hq := hq, hqen := bitOf m.2.2 31 && decide (hq ≠ 0), qrule := m.1, qdef := false }
  | none =>
    let d := s.flag (R.PRS_PORT_DEF_DROP port)
    { drop := d || decide (colour = 2), noMatch := d, cls := cls, colour := colour,
      yarn := s.get (R.PRS_PORT_DEF_YARN port), hq := 0, hqen := false, qrule := 0, qdef := true }

/-- The traffic class of a class (R345). -/
def tcOf (s : State) (cls : Nat) : Nat :=
  bitsOf (if cls < 8 then (s.rd R.PRS_TCMAP_LO).toNat else (s.rd R.PRS_TCMAP_HI).toNat) (3 * (cls % 8)) 3

/-- Counts what the parser has flagged (R362, R363). -/
def countParse (p : Parsed) (s : State) : State :=
  let s := if bitOf p.flags fTRUNC then cause R.PRS_NSTAT_TRUNC 57 (s.bump R.PRS_CNT_TRUNC) else s
  let s := if bitOf p.flags fL3BAD || bitOf p.flags fL4BAD then cause R.PRS_NSTAT_BAD 57 (s.bump R.PRS_CNT_BAD) else s
  if bitOf p.flags fFRAG then s.bump R.PRS_CNT_FRAG else s

/-- Classifies a parsed frame: counters, rule hits, uncorrectable rules, and the verdict (R338 to R346, R359). -/
def classify (port : Nat) (p : Parsed) (s : State) : Verdict × State :=
  let s := countParse p s
  let s := (rulesUsed s).foldl (fun s r => meetAll (badWords s (144 * r) 144) s) s
  let ms := matchRules s p
  let s := ms.foldl (fun s m => s.bump (R.PRS_HIT m.1)) s
  let (free, s) := match setter ms 3 with
    | some m => if bitsOf m.2.1 4 2 = 2 then s.draw 36 else (0, s)
    | none => (0, s)
  let v := decideOutputs s port p ms free
  (v, if v.noMatch then cause R.PRS_NSTAT_NOMATCH 57 (s.bump R.PRS_CNT_NOMATCH) else s)

/-! Rule commands (R353 to R357). -/

def ruleBusy (s : State) : Bool := s.flag R.PRS_RSTAT_BUSY

/-- A write that is ignored while a command is in progress (R355). -/
def ruleLost (s : State) : State := cause R.PRS_NSTAT_LOST 56 (s.set R.PRS_RSTAT_LOST 1)

def prsStage (s : State) : List Byte := (List.range 36).flatMap fun w => leBytes 4 (s.rd (R.PRS_STAGE w)).toNat

/-- Starts a command that will write 144 bytes to a rule (R353). -/
def ruleStart (idx : Nat) (body : List Byte) (s : State) : State :=
  { (s.set R.PRS_RSTAT_BUSY 1) with prs.cmd := some (idx, body) }

/-- A staged entry holds a reserved encoding or a 1 in a reserved bit (R339). -/
def ruleReserved (e : List Byte) : Bool :=
  let a0 := leNat (sliceOf e 0x80 4)
  decide (bitsOf a0 4 2 = 3) || decide (bitsOf a0 12 2 = 3) || decide (a0 &&& (2 ^ 32 - 1 - 0x3F3F) ≠ 0)
    || decide (leNat (sliceOf e 0x84 4) &&& (2 ^ 32 - 1 - 0x83FF0FFF) ≠ 0) || decide (leNat (sliceOf e 0x88 8) ≠ 0)

/-- A write of PRS_RCMD (R353, R355, R363). -/
def rcmdWrite (v : Word) (s : State) : State :=
  if ruleBusy s then ruleLost s
  else
    match wget v 12 2 with
    | 1 => ruleStart (wget v 0 10) (prsStage s) s
    | 2 => ruleStart (wget v 0 10) (List.replicate 144 0) s
    | _ => s

/-- RULE_WRITE: OP is WRITE. A staged entry with a reserved encoding is unpredictable within the block (R26, R339). -/
def execRuleWrite (a : Agent) (v : Word) (s : State) : Out :=
  if decide (wget v 12 2 ≠ 1) then stay s
  else
    access a R.PRS_RCMD v
      (fun s => if !ruleBusy s && ruleReserved (prsStage s) then .next (unpredBlock R.PRS_RCMD s) else .next (rcmdWrite v s)) s

/-- RULE_INVALIDATE: OP is INVALIDATE. -/
def execRuleInvalidate (a : Agent) (v : Word) (s : State) : Out :=
  if decide (wget v 12 2 ≠ 2) then stay s else access a R.PRS_RCMD v (fun s => .next (rcmdWrite v s)) s

/-- RULE_CMD_DONE: the command takes effect between two packets (R353, R354). -/
def execRuleCmdDone (s : State) : Out :=
  match s.prs.cmd with
  | none => stay s
  | some (i, body) =>
    let s := { (tblWrite (144 * i) body s) with prs.cmd := none }
    .next (cause R.PRS_NSTAT_RULE 56 ((s.wr (R.PRS_HIT i) 0).set R.PRS_RSTAT_BUSY 0))

/-- GROUP_ENABLE_WRITE (R356). -/
def execGroupEnableWrite (a : Agent) (v : Word) (s : State) : Out :=
  access a R.PRS_GRP_EN v (fun s => .next (s.wr R.PRS_GRP_EN (v &&& 0xFFFF))) s

end Sys2Proof.Machine
end

