-- ==== Sys2Proof/Machine/Egress.lean ====
section
/-!
DEFINITION. The egress side of the ports: link state, gate control lists, shapers, egress queues, transmission, flushes and
egress timestamps (02_guarantees.md R66 to R69, 08_ports_and_tsn.md R287 to R296, R304 to R317).
-/
namespace Sys2Proof.Machine

/-! Links (R287 to R290, R295, R296). -/

/-- T0 is port 8. -/
abbrev portT0 : Nat := 8

/-- A SPEED value that a port supports (R290); T0 ignores the field. -/
def speedOk (p v : Nat) : Bool :=
  if p = portT0 then true
  else if p < 2 then decide (v ≤ 3)
  else decide (v = 0 ∨ v = 4 ∨ v = 5)

/-- A port's line rate in kb/s. -/
def portRate (s : State) (p : Nat) : Nat :=
  if p = portT0 then 10000
  else match s.get (R.PRT_STAT_SPEED p) with
    | 1 => 10000000
    | 2 => 5000000
    | 3 => 2500000
    | 4 => 1000000
    | _ => 100000

/-- The port is link-up: enabled, and declared up (R295, R296). -/
def linkUp (s : State) (p : Nat) : Bool :=
  s.up islPRT && decide (p < 9) && s.flag (R.PRT_CFG_EN p) && s.flag (R.PRT_STAT_LINK p)

/-- PLCA is on at T0: a node ID is set (R293). -/
def plcaOn (s : State) : Bool := decide (s.get (R.PRT_PLCA_CTL_NODEID portT0) ≠ 255)

/-- PRT_PLCA_STAT.BEACON follows the link and the node: the coordinator sends beacons while T0 is up, and any other node hears
them from its first opportunity on (R293, R326; assumption 162). -/
def plcaShow (s : State) : State :=
  if !linkUp s portT0 || !plcaOn s then s.set (R.PRT_PLCA_STAT_BEACON portT0) 0
  else if s.get (R.PRT_PLCA_CTL_NODEID portT0) = 0 then s.set (R.PRT_PLCA_STAT_BEACON portT0) 1
  else s

/-- Declares a port link-down: N48 where it was up (R295). -/
def linkDown (p : Nat) (s : State) : State :=
  if s.flag (R.PRT_STAT_LINK p) then
    let s := cause R.PRT_NSTAT_LINK 48 (s.set (R.PRT_STAT_LINK p) 0)
    if p = portT0 then plcaShow s else s
  else s

/-- LINK_DOWN: a cause of R295 has come. -/
def execLinkDown (p : Nat) (s : State) : Out :=
  if !s.up islPRT || decide (p ≥ 9) then stay s else .next (linkDown p s)

/-- LINK_UP: 1 ms of continuous good state at a speed (as PRT_CFG.SPEED codes it; 0: an S-port PHY that reports 10 Mb/s or
half duplex) (R288 to R290, R295). -/
def linkGood (p speed : Nat) (s : State) : State :=
  let cfg := s.get (R.PRT_CFG_SPEED p)
  let s := s.setPort p { s.port p with linkFault := decide (2 ≤ p ∧ p ≠ portT0 ∧ speed = 0) }
  if !speedOk p cfg then linkDown p (s.set (R.PRT_STAT_BADMODE p) 1)
  else
    let v := if p = portT0 then 0 else if cfg = 0 then speed else cfg
    if p ≠ portT0 ∧ (!speedOk p v ∨ v = 0 ∨ (2 ≤ p ∧ speed = 0)) then linkDown p (s.set (R.PRT_STAT_BADMODE p) 1)
    else
      let s := ((s.set (R.PRT_STAT_BADMODE p) 0).set (R.PRT_STAT_SPEED p) v).setPort p
        { s.port p with noOpportunity := false }
      let s := if s.flag (R.PRT_STAT_LINK p) then s else cause R.PRT_NSTAT_LINK 48 (s.set (R.PRT_STAT_LINK p) 1)
      if p = portT0 then plcaShow s else s

def execLinkUp (p speed : Nat) (s : State) : Out :=
  if !s.up islPRT || decide (p ≥ 9) || !s.flag (R.PRT_CFG_EN p) || decide (s.get R.IST_BIST_STAT_STATE = 1) then stay s
  else .next (linkGood p speed s)

/-- A write of PRT_CFG: EN and SPEED act on the link at once (R290, R296). BADMODE stands while the PHY's report does (R289). -/
def prtCfgWrite (p : Nat) (v : Word) (s : State) : State :=
  let s := s.wr (R.PRT_CFG p) (inForce (R.PRT_CFG p) v &&& 0x3FFF000F)
  if !speedOk p (s.get (R.PRT_CFG_SPEED p)) then linkDown p (s.set (R.PRT_STAT_BADMODE p) 1)
  else
    let s := s.set (R.PRT_STAT_BADMODE p) (b2n (s.port p).linkFault)
    if !s.flag (R.PRT_CFG_EN p) then linkDown p s else
    let c := s.get (R.PRT_CFG_SPEED p)
    if s.flag (R.PRT_STAT_LINK p) && decide (c ≠ 0) && decide (p ≠ portT0) then s.set (R.PRT_STAT_SPEED p) c
    else if p = portT0 then plcaShow s else s

/-! Gate control lists (R311 to R315). -/

/-- The length of a list's cycle (R313). -/
def GateList.cyc (l : GateList) : Nat := clampNat 1000 1000000000 l.cycle

/-- The entry in force at an offset in the cycle: the last one holds to the cycle's end (R313). -/
def gateWalk : List (Nat × Nat) → Nat → Nat → Nat
  | [], _, i => i
  | [_], _, i => i
  | (_, d) :: es, off, i => if off < d then i else gateWalk es (off - d) (i + 1)

/-- The entries that run in a cycle of some length: those that begin within it; the last of them holds (R313). -/
def gateTrim : List (Nat × Nat) → Nat → List (Nat × Nat)
  | [], _ => []
  | (g, d) :: es, left => if d ≥ left then [(g, d)] else (g, d) :: gateTrim es (left - d)

/-- A list's entries that run in a cycle. -/
def GateList.runs (l : GateList) : List (Nat × Nat) := gateTrim l.entries l.cyc

/-- Where a list stands at device time `now`: the start of the cycle and the entry (R313, R315). -/
def GateList.at_ (l : GateList) (start now : Nat) : Nat × Nat :=
  let st := start + (now - start) / l.cyc * l.cyc
  (st, gateWalk l.runs (now - st) 0)

/-- The end of the cycle that begins at `start`: a pending change cuts it at ConfigChangeTime, or extends it up to there where what
remains past it is at most EXT and no whole cycle (R312). -/
def GateRun.cycleEnd (g : GateRun) (l : GateList) (ext start : Nat) : Nat :=
  let e := start + l.cyc
  if g.pend.isSome && (decide (g.cct ≤ e) || (decide (g.cct - e ≤ ext) && decide (g.cct - e < l.cyc))) then g.cct else e

/-- The word 0 of the entry in force. -/
def GateRun.word (g : GateRun) : Option Nat := (g.oper.bind fun l => l.entries[g.entry]?).map (·.1)

/-- ConfigChangeTime for a base and a cycle (R312). -/
def configTime (base cycle now : Nat) : Nat :=
  let c := clampNat 1000 1000000000 cycle
  if base > now then base else base + ((now - base) / c + 1) * c

/-- The run once the pending list is installed (R312). -/
def GateRun.install (g : GateRun) (now : Nat) : GateRun :=
  match g.pend with
  | none => g
  | some l =>
    let (st, e) := l.at_ g.cct now
    { oper := some l, entry := e, start := st, pend := none, cct := g.cct }

/-- The run advanced to `now`, at most to a ConfigChangeTime. In a last cycle that EXT extends, the cycle's last entry holds (R312,
R313). -/
def GateRun.advance (g : GateRun) (ext now : Nat) : GateRun :=
  match g.oper with
  | none => g
  | some l =>
    let now := if g.pend.isSome then min now g.cct else now
    let (st, e) := l.at_ g.start now
    if st > g.start && decide (g.cycleEnd l ext (st - l.cyc) > st) then
      { g with start := st - l.cyc, entry := gateWalk l.runs (now - (st - l.cyc)) 0 }
    else { g with start := st, entry := e }

/-- How long a cycle's entries keep bit c open from `off` in the cycle, for what is left of the cycle (R308). -/
def openFor (c : Nat) : List (Nat × Nat) → Nat → Nat → Nat
  | [], left, _ => left
  | [(g, _)], left, _ => if bitOf g c then left else 0
  | (g, d) :: es, left, off =>
    if off ≥ d then openFor c es left (off - d)
    else if !bitOf g c then 0
    else
      let r := d - off
      if r ≥ left then left else r + openFor c es (left - r) 0

/-- Qbv is enabled on a port and an oper list has entries. -/
def gatedBy (s : State) (p : Nat) : Option GateList :=
  if !s.flag (R.PRT_TAS_CTL_EN p) then none
  else (s.port p).tas.oper.bind fun l => if l.entries = [] then none else some l

/-- Queue c's gate is open (R311). -/
def gateOpen (s : State) (p c : Nat) : Bool :=
  match gatedBy s p with
  | none => true
  | some _ => match (s.port p).tas.word with
    | some w => bitOf w c
    | none => true

/-- Nanoseconds for which queue c's gate stays open; none where no gate closes it. -/
def gateLeft (s : State) (p c : Nat) : Option Nat :=
  (gatedBy s p).map fun l =>
    let g := (s.port p).tas
    let now := s.tnow islPRT
    openFor c l.runs (g.cycleEnd l (s.rd (R.PRT_TAS_EXT p)).toNat g.start - now) (now - g.start)

/-! The credit-based shaper (R309, R310). -/

/-- A queue's credit in units of 10^-6 bit. -/
def creditOf (s : State) (p c : Nat) : Int := mget (fun _ => 0) (s.port p).credit c

/-- One shaped queue's credit after `dt` ns. -/
def creditStep (s : State) (p dt : Nat) (c : Nat) (v : Int) : Int :=
  let x := s.port p
  let slope : Int := s.get (R.PRT_CBS_SLOPE_SLOPE p c)
  let sending := match x.tx with | some (q, _) => decide (q = c) | none => false
  let waits := mget (fun _ => []) x.eq c ≠ []
  let hi := sgn 32 (s.rd (R.PRT_CBS_HI p c)).toNat * 1000000
  let lo := sgn 32 (s.rd (R.PRT_CBS_LO p c)).toNat * 1000000
  if !gateOpen s p c then v
  else
    let w := if sending then v + (slope - portRate s p) * dt else if waits then v + slope * dt else v
    let w := if w > hi then hi else if w < lo then lo else w
    if !waits && !sending && decide (w > 0) then 0 else w

/-- Brings every credit of a port up to the present. -/
def creditNow (p : Nat) (s : State) : State :=
  let x := s.port p
  let now := s.tnow islPRT
  let dt := now - x.creditAt
  let cr := (List.range 8).foldl (fun m c =>
    mput (fun _ => 0) m c (if bitOf (s.get (R.PRT_CBS_EN_EN p)) c then creditStep s p dt c (creditOf s p c) else 0)) x.credit
  s.setPort p { x with credit := cr, creditAt := now }

/-! The registers of the gate control lists (R311, R312, R325). -/

/-- Shows a run's entry and installed list in the port's registers. -/
def tasShow (p : Nat) (s : State) : State :=
  let g := (s.port p).tas
  let s := (s.set (R.PRT_TAS_STAT_ENTRY p) g.entry).set (R.PRT_TAS_STAT_PENDING p) (b2n g.pend.isSome)
  s

/-- Shows the oper list (R325). -/
def tasOperShow (p : Nat) (s : State) : State :=
  match (s.port p).tas.oper with
  | none => s
  | some l => (List.range 256).foldl (fun s i =>
      let e := l.entries.getD i (0, 0)
      (s.wr (R.PRT_GCL_OPER p i) (BitVec.ofNat 32 e.1)).wr (R.PRT_GCL_OPER p i + 4) (BitVec.ofNat 32 e.2)) s

/-- The admin list of a port as its registers hold it. -/
def tasAdmin (s : State) (p : Nat) : GateList :=
  { base := s.rd64 (R.PRT_TAS_BASE_LO p), cycle := (s.rd (R.PRT_TAS_CYCLE p)).toNat,
    entries := (List.range (min 256 (s.rd (R.PRT_TAS_LEN p)).toNat)).map fun i =>
      ((s.rd (R.PRT_GCL_ADMIN p i)).toNat, (s.rd (R.PRT_GCL_ADMIN p i + 4)).toNat) }

/-- The intervals of a list as they take effect: how long one below 8 ns lasts has no rule (R311, R322; assumption 163). -/
def gateIntervals : List (Nat × Nat) → State → List (Nat × Nat) × State
  | [], s => ([], s)
  | (g, d) :: es, s =>
    let (v, s) := if d < 8 then s.draw 37 else (d, s)
    let (r, s) := gateIntervals es s
    ((g, v % 2 ^ 32) :: r, s)

/-- An admin entry of a port with a reserved OP (R311). -/
def tasReserved (s : State) (p : Nat) : Bool := (tasAdmin s p).entries.any fun e => decide (bitsOf e.1 8 3 ≥ 3)

/-- A write of PRT_TAS_CTL: EN, and CHANGE schedules the admin list (R312). -/
def tasCtlWrite (p : Nat) (v : Word) (s : State) : State :=
  let s := (creditNow p s).wr (R.PRT_TAS_CTL p) (v &&& 1)
  if !v.getLsbD 1 then s
  else
    let l := tasAdmin s p
    let (es, s) := gateIntervals l.entries s
    let l := { l with entries := es }
    let t := configTime l.base l.cycle (s.tnow islPRT)
    let g := (s.port p).tas
    let s := (s.setPort p { s.port p with tas := { g with pend := some l, cct := t } }).wr64 (R.PRT_TAS_CCT_LO p) t
    tasShow p s

/-- TAS_CHANGE: a write of PRT_TAS_CTL with CHANGE = 1. -/
def execTasChange (a : Agent) (p : Nat) (v : Word) (s : State) : Out :=
  if decide (p ≥ 9) || !v.getLsbD 1 then stay s
  else
    access a (R.PRT_TAS_CTL p) v
      (fun s => if tasReserved s p then .next (unpredBlock (R.PRT_TAS_CTL p) s) else .next (tasCtlWrite p v s)) s

/-! Egress queues (R306) and released buffers. -/

def egQueue (s : State) (p c : Nat) : List EgFrame := mget (fun _ => []) (s.port p).eq c

def setEgQueue (p c : Nat) (l : List EgFrame) (s : State) : State :=
  s.setPort p { s.port p with eq := mput (fun _ => []) (s.port p).eq c l }

/-- Frames queued on a port. -/
def egTotal (s : State) (p : Nat) : Nat := ((List.range 8).map fun c => (egQueue s p c).length).foldl (· + ·) 0

/-- A port's queue has room for a frame (R306). -/
def egRoom (s : State) (p c : Nat) : Bool :=
  decide (egTotal s p < s.get (R.PRT_EQ_LIM_TOTAL p)) && decide ((egQueue s p c).length < s.get (R.PRT_EQ_LIM_PERQ p))

/-- A copy of a frame is gone: with the last one the device frees the buffer, and the sender's QUSED falls
(12_whorl_cores_threads.md R460). -/
def copyGone (f : EgFrame) (s : State) : State :=
  let n := mget (fun _ => 0) s.prt.refs f.handle
  if n ≤ 1 then
    let s := freeBuf f.handle { s with prt.refs := mput (fun _ => 0) s.prt.refs f.handle 0 }
    match f.sender with
    | some t => s.setThread t { s.thread t with qused := (s.thread t).qused - 1 }
    | none => s
  else { s with prt.refs := mput (fun _ => 0) s.prt.refs f.handle (n - 1) }

/-- A port's counted drop: the counter and N51 (assumption 30). -/
def portDrop (cnt : Nat) (s : State) : State := cause R.PRT_NSTAT_DROP 51 (s.bump cnt)

/-- Places one copy of a released frame; a link-down port drops it on arrival (R66, R306). -/
def egPlace (p c : Nat) (f : EgFrame) (s : State) : State :=
  if !linkUp s p then copyGone f (portDrop (R.PRT_CNT_LDROP p) s)
  else setEgQueue p c (egQueue s p c ++ [f]) (creditNow p s)

/-- Places a released frame on the ports of a mask, all copies together. -/
def egPlaceAll (mask c : Nat) (f : EgFrame) (s : State) : State :=
  let ps := (List.range 9).filter fun p => bitOf mask p
  let s := { s with prt.refs := mput (fun _ => 0) s.prt.refs f.handle ps.length }
  ps.foldl (fun s p => egPlace p c f s) s

/-! Flushes (R66, R68, R323). -/

/-- Counts and frees flushed frames. -/
def flushFrames (p : Nat) (fs : List EgFrame) (s : State) : State :=
  if fs = [] then s
  else cause R.PRT_NSTAT_FLUSH 50 (fs.foldl (fun s f => copyGone f (s.bump (R.PRT_CNT_FLUSH p))) s)

/-- Flushes one egress queue, the frame that it has in transmission or held included where `all` says so. -/
def flushQueue (p c : Nat) (all : Bool) (s : State) : State :=
  let x := s.port p
  let t := match x.tx with | some (q, f) => if all && q = c then [f] else [] | none => []
  let h := match x.held with | some (q, f, _) => if q = c then [f] else [] | none => []
  let fs := egQueue s p c ++ t ++ h
  let s := s.setPort p { x with eq := mput (fun _ => []) x.eq c [], tx := if t = [] then x.tx else none,
                                held := if h = [] then x.held else none }
  flushFrames p fs s

/-- Flushes a port's eight queues. -/
def flushPort (p : Nat) (s : State) : State := (List.range 8).foldl (fun s c => flushQueue p c true s) (creditNow p s)

/-- LINK_DOWN_FLUSH: the port has been link-down for 10 ms (R66). -/
def execLinkDownFlush (p : Nat) (s : State) : Out :=
  if !s.up islPRT || decide (p ≥ 9) || linkUp s p then stay s else .next (flushPort p s)

/-- T0_OPPORTUNITY_TIMEOUT: T0 counts as link-down (R66, R295). -/
def execT0OpportunityTimeout (s : State) : Out :=
  if !linkUp s portT0 then stay s
  else .next (linkDown portT0 (s.setPort portT0 { s.port portT0 with noOpportunity := true }))

/-- A queue holds a frame: queued, or preempted. -/
def holdsFrame (s : State) (p q : Nat) : Bool :=
  decide (egQueue s p q ≠ []) || (match (s.port p).held with | some (c, _, _) => decide (c = q) | none => false)

/-- EGRESS_STALL_FLUSH: queue q has held frames and transmitted none for 10 ms (R68). -/
def execEgressStallFlush (p q : Nat) (s : State) : Out :=
  if !s.up islPRT || decide (p ≥ 9) || decide (q ≥ 8) || !holdsFrame s p q then stay s
  else .next (flushQueue p q false (creditNow p s))

/-! The bytes sent (R302, R307, R321). -/

/-- Removes `n` bytes at offset o. -/
def cutBytes (o n : Nat) (d : List Byte) : List Byte := d.take o ++ d.drop (o + n)

/-- The offset of the EtherType after a frame's VLAN tags. -/
def tagsEnd (d : List Byte) : Nat := if isTpid (at16 d 12) then (if isTpid (at16 d 16) then 20 else 16) else 12

/-- The egress tagging of a frame (R302, R307). Its VLAN is its own outer tag's, else the one it took at ingress. A port in UNTAG of
that VLAN sends it untagged; any other sends it tagged, with a C-tag where it has no tag (assumption 164). -/
def egTag (s : State) (p : Nat) (f : EgFrame) (d : List Byte) : List Byte :=
  let tagged := isTpid (at16 d 12)
  let raw := at16 d 14 % 4096
  let v := if tagged && decide (raw ≠ 0) then raw else f.vid
  if v = 0 then d
  else if (s.rd (0x1D0000 + 4 * v)).getLsbD (16 + p) then (if tagged then cutBytes 12 4 d else d)
  else if !tagged then d.take 12 ++ beBytes 2 0x8100 ++ beBytes 2 (f.pcp % 8 * 8192 + v) ++ d.drop 12
  else if raw = 0 then d.take 14 ++ beBytes 2 (at16 d 14 + v) ++ d.drop 16
  else d

/-- The frame as the port sends it: with its R-TAG, then with the tag that the VLAN table gives it (R302, R307, R321). -/
def egBytes (s : State) (p : Nat) (f : EgFrame) : List Byte :=
  let d := s.pkt.rdBytes (bufAddr s f.handle + f.doff) f.len
  egTag s p f (match f.rtag with
    | some n => d.take (tagsEnd d) ++ beBytes 2 0xF1C1 ++ [0, 0] ++ beBytes 2 n ++ d.drop (tagsEnd d)
    | none => d)

/-! Preemption (R316, R317). -/

/-- 802.3br is active on a port. -/
def fpActive (s : State) (p : Nat) : Bool :=
  decide (p < 2) && s.flag (R.PRT_FP_CTL_EN p) && (s.flag (R.PRT_FP_CTL_NOVERIFY p) || decide (s.get (R.PRT_FP_STAT_VERIFY p) = 2))

def preemptable (s : State) (p c : Nat) : Bool := fpActive s p && bitOf (s.get (R.PRT_FP_CTL_PMASK p)) c

/-- A write of PRT_FP_CTL: EN starts the verify procedure unless NOVERIFY is set. -/
def fpCtlWrite (p : Nat) (v : Word) (s : State) : State :=
  let was := s.flag (R.PRT_FP_CTL_EN p)
  let s := s.wr (R.PRT_FP_CTL p) (v &&& 0xFF33)
  if !v.getLsbD 0 then s.set (R.PRT_FP_STAT_VERIFY p) 0
  else if v.getLsbD 1 then s
  else if was && decide (s.get (R.PRT_FP_STAT_VERIFY p) ≠ 0) then s
  else s.set (R.PRT_FP_STAT_VERIFY p) 1

/-- FP_VERIFY_DONE: the verify procedure ends (R316). -/
def execFpVerifyDone (p : Nat) (ok : Bool) (s : State) : Out :=
  if !s.up islPRT || decide (p ≥ 2) || decide (s.get (R.PRT_FP_STAT_VERIFY p) ≠ 1) then stay s
  else .next (s.set (R.PRT_FP_STAT_VERIFY p) (if ok then 2 else 3))

/-- The bytes of the fragment in transmission that have gone out by now. -/
def fragBytes (s : State) (p : Nat) : Nat := (s.tnow islPRT - (s.port p).txAt) * portRate s p / 8000000

/-- The bytes of a frame that have gone out by now, in this fragment and earlier ones. -/
def sentBytes (s : State) (p : Nat) : Nat := (s.port p).txSent + fragBytes s p

/-- The frame in transmission can be cut here: it is preemptable, and the fragment sent and the remainder reach the
minimum fragment (R316). -/
def canCut (s : State) (p : Nat) : Bool :=
  match (s.port p).tx with
  | some (c, f) =>
    let m := (1 + s.get (R.PRT_FP_CTL_ADDFRAG p)) * 64
    preemptable s p c && (s.port p).held.isNone && decide (m ≤ fragBytes s p)
      && decide (sentBytes s p + m ≤ (egBytes s p f).length + 4)
  | none => false

/-! Transmission (R307, R308, R790). -/

/-- Wire time of a frame with preamble and inter-packet gap, in ns rounded up. -/
def wireNs (s : State) (p len : Nat) : Nat := ((len + 24) * 8000000 + portRate s p - 1) / portRate s p

/-- A queue may start its head frame (R308, R316, R317). -/
def eligible (s : State) (p c : Nat) : Bool :=
  match egQueue s p c with
  | [] => false
  | f :: _ =>
    gateOpen s p c && (!bitOf (s.get (R.PRT_CBS_EN_EN p)) c || decide (creditOf s p c ≥ 0))
      && (match gateLeft s p c with | none => true | some t => decide (wireNs s p (egBytes s p f).length ≤ t))
      && !(preemptable s p c && ((s.port p).holdMac || (s.port p).held.isSome))

/-- The highest eligible queue. -/
def pickQueue (s : State) (p : Nat) (ok : Nat → Bool) : Option Nat :=
  ((List.range 8).reverse).find? fun c => ok c && eligible s p c

/-- The egress timestamp of a frame whose transmission starts now: its timestamp point, the end of the SFD, is 64 bit times away
(R303, R304). -/
def egStamp (s : State) (p : Nat) : Nat :=
  (((s.tnow islPRT + 64000000 / portRate s p : Nat) : Int) + sgn 16 (s.get (R.PRT_TS_ADJ_EGR p))).toNat % 2 ^ 64

/-- Starts the head frame of a queue. -/
def startFrame (p c : Nat) (s : State) : State :=
  match egQueue s p c with
  | [] => s
  | f :: fs =>
    let s := setEgQueue p c fs s
    s.setPort p { s.port p with tx := some (c, { f with stamp := egStamp s p }), txAt := s.tnow islPRT, txSent := 0, collisions := 0 }

/-- The frame that waits to continue goes on: a preempted one, or one that a collision ended, from its start. -/
def resumeFrame (p : Nat) (s : State) : State :=
  let x := s.port p
  match x.held with
  | some (c, f, n) =>
    s.setPort p { x with tx := some (c, if n = 0 then { f with stamp := egStamp s p } else f), held := none, txAt := s.tnow islPRT,
                         txSent := n }
  | none => s

/-- T0 may start a frame: with PLCA off at any time (CSMA/CD), with PLCA on in a transmit opportunity of its own, which takes up to BURST
more frames, each within the burst timer of the one before (R293, R294). -/
def t0May (s : State) (opp : Bool) : Bool :=
  let x := s.port portT0
  !plcaOn s || opp || (decide (x.burst > 0) && decide (s.tnow islPRT - x.burstAt ≤ 100 * s.get (R.PRT_PLCA_CTL_BTMR portT0)))

/-- T0 uses its opportunity, or yields it: what is left of the burst. -/
def t0Uses (opp : Bool) (s : State) : State :=
  let x := s.port portT0
  let n := if !plcaOn s || x.tx.isNone then 0 else if opp then s.get (R.PRT_PLCA_CTL_BURST portT0) else x.burst - 1
  s.setPort portT0 { x with burst := n, burstAt := s.tnow islPRT, noOpportunity := if opp then false else x.noOpportunity }

/-- TRANSMIT_SELECTION (R308, R309, R316). -/
def transmitSelect (p : Nat) (s : State) : State :=
  let s := creditNow p s
  let x := s.port p
  match x.tx with
  | some (q, f) =>
    if canCut s p then
      match pickQueue s p fun c => !preemptable s p c with
      | some c => startFrame p c (s.setPort p { x with tx := none, held := some (q, f, sentBytes s p) })
      | none => s
    else s
  | none =>
    match pickQueue s p fun _ => true with
    | some c => startFrame p c s
    | none => if x.holdMac then s else resumeFrame p s

/-- T0's transmission selection: a frame that met a collision goes first (R293, R294). -/
def t0Select (opp : Bool) (s : State) : State :=
  let x := s.port portT0
  if x.tx.isSome || !t0May s opp then s
  else
    let s := if opp && plcaOn s then s.set (R.PRT_PLCA_STAT_BEACON portT0) 1 else s
    t0Uses opp (if x.held.isSome then resumeFrame portT0 (creditNow portT0 s) else transmitSelect portT0 s)

/-- TRANSMIT_SELECTION; `opp`: on T0 with PLCA on, a transmit opportunity of its own begins. -/
def execTransmitSelection (p : Nat) (s : State) (opp : Bool := false) : Out :=
  if !linkUp s p then stay s else .next (if p = portT0 then t0Select opp s else transmitSelect p s)

/-- GATE_ENTRY_ADVANCE: the entry in force for PRT's TNOW takes effect (R313, R315, R317). -/
def gateAdvance (p : Nat) (s : State) : State :=
  let s := creditNow p s
  let x := s.port p
  let g := x.tas.advance (s.rd (R.PRT_TAS_EXT p)).toNat (s.tnow islPRT)
  let hold := match g.word with
    | some w => if !fpActive s p then false else if bitsOf w 8 3 = 1 then true else if bitsOf w 8 3 = 2 then false else x.holdMac
    | none => false
  tasShow p (s.setPort p { x with tas := g, holdMac := hold })

/-- GATE_ENTRY_ADVANCE on a port. -/
def gateEntryAdvanceAct (p : Nat) (s : State) : Out :=
  if !s.up islPRT || decide (p ≥ 9) || (gatedBy s p).isNone then stay s else .next (gateAdvance p s)

/-- TAS_CONFIG_CHANGE on a port: at ConfigChangeTime the admin list becomes the oper list (R312). -/
def tasConfigChangeAct (p : Nat) (s : State) : Out :=
  let g := (s.port p).tas
  if !s.up islPRT || decide (p ≥ 9) || g.pend.isNone || decide (s.tnow islPRT < g.cct) then stay s
  else
    let s := creditNow p s
    let s := s.setPort p { s.port p with tas := g.install (s.tnow islPRT) }
    .next (cause R.PRT_NSTAT_TAS 52 (tasOperShow p (tasShow p (gateAdvance p s))))

/-- The strand transmits on this port (22_ply_pair.md R790). -/
def strandSends (s : State) (p : Nat) : Bool := !s.flag ⟨R.PLY_PORTMODE, p, 1⟩ || s.flag R.PWS_STAT_OWNER

/-- Pushes a frame's tag and egress timestamp (R304). -/
def pushTxts (p tag t : Nat) (s : State) : State :=
  let x := s.port p
  if x.txts.length ≥ 16 then s.set (R.PRT_TXTS_STAT_OVF p) 1
  else
    let s := s.setPort p { x with txts := x.txts ++ [(tag, t)] }
    cause R.PRT_NSTAT_TXTS 49 (s.set (R.PRT_TXTS_STAT_COUNT p) (s.port p).txts.length)

/-- T0's frame has met a collision: it waits to be sent again, and with the 16th in a row it is dropped (R294). -/
def t0Collide (s : State) : State :=
  let s := creditNow portT0 s
  let x := s.port portT0
  match x.tx with
  | none => s
  | some (c, f) =>
    if x.collisions ≥ 15 then
      copyGone f (portDrop (R.PRT_CNT_TXERR portT0) (s.setPort portT0 { x with tx := none, collisions := 0 }))
    else s.setPort portT0 { x with tx := none, held := some (c, f, 0), collisions := x.collisions + 1 }

/-- The frame in transmission ends (R304, R314). The timestamp of its timestamp point enters the FIFO now (assumption 165). -/
def frameTxDone (p : Nat) (s : State) : State :=
  let s := creditNow p s
  match (s.port p).tx with
  | none => s
  | some (_, f) =>
    let s := s.setPort p { s.port p with tx := none, txSent := 0, burstAt := s.tnow islPRT }
    let s := if strandSends s p then s.emit (.frame p (egBytes s p f)) else s
    let s := match f.tag with | some g => pushTxts p g f.stamp s | none => s
    copyGone f s

/-- FRAME_TX_DONE; `collided`: on T0 with PLCA off, the transmission has met a collision. -/
def execFrameTxDone (p : Nat) (s : State) (collided : Bool := false) : Out :=
  if !linkUp s p || (s.port p).tx.isNone then stay s
  else if !collided then .next (frameTxDone p s)
  else if p = portT0 && !plcaOn s then .next (t0Collide s)
  else stay s

/-- TXTS_TAG_READ: a read of PRT_TXTS_TAG removes the head entry (R304). -/
def txtsRead (p : Nat) (s : State) : Word × State :=
  let x := s.port p
  match x.txts with
  | [] => (0, s)
  | (g, t) :: q =>
    let s := (s.setPort p { x with txts := q }).set (R.PRT_TXTS_STAT_COUNT p) q.length
    (BitVec.ofNat 32 (g % 2 ^ 16 + 2 ^ 31), s.wr64 (R.PRT_TXTS_LO p) t)

def execTxtsTagRead (a : Agent) (p : Nat) (s : State) : Out :=
  if decide (p ≥ 9) then stay s else readRow a (R.PRT_TXTS_TAG p) (txtsRead p) s

end Sys2Proof.Machine
end

