-- ==== Sys2Proof/Machine/Ingress.lean ====
section
/-!
DEFINITION. The ingress side of the ports: the steps of R297, stream identification, filters, gates, meters and 802.1CB
recovery, the admission queues, and the MDIO master (08_ports_and_tsn.md R291 to R303, R318 to R324).
-/
namespace Sys2Proof.Machine

/-! The stream tables (R318 to R322): words of the register file at their offsets. -/

/-- The offset of a byte of a stream table's entry: base within PRT, entry size, entry. -/
def strOff (base size h : Nat) : Nat := 0x100000 + base + size * h

/-- Bits lo to lo + n - 1 of a stream table entry, n at most 32. -/
def strBits (s : State) (o lo n : Nat) : Nat :=
  bitsOf ((s.rd (o + lo / 32 * 4)).toNat + 2 ^ 32 * (s.rd (o + lo / 32 * 4 + 4)).toNat) (lo % 32) n

def identOff (h : Nat) : Nat := strOff 0xA0000 16 h
def filterOff (h : Nat) : Nat := strOff 0xB0000 8 h
def recovOff (h : Nat) : Nat := strOff 0xC0000 8 h
def meterOff (m : Nat) : Nat := strOff 0xE0000 32 m
def sgateOff (g : Nat) : Nat := strOff 0xE8000 0x200 g

/-- Stream handles whose identification entry holds anything, in rising order. -/
def handlesUsed (s : State) : List Nat :=
  s.regs.foldl (fun l e =>
    if 0x1A0000 ≤ e.1 ∧ e.1 < 0x1A4000 ∧ !l.contains ((e.1 - 0x1A0000) / 16) then l ++ [(e.1 - 0x1A0000) / 16] else l) []

/-- An identification entry matches a frame (R318). -/
def identMatches (s : State) (p vid : Nat) (d : List Byte) (h : Nat) : Bool :=
  let e := leBytes 4 (s.rd (identOff h)).toNat ++ leBytes 4 (s.rd (identOff h + 4)).toNat
  let w := leNat (sliceOf e 6 2)
  let mac := if bitOf w 12 then sliceOf d 6 6 else sliceOf d 0 6
  bitOf w 15 && decide (sliceOf e 0 6 = mac) && decide (w % 4096 = vid) && bitOf (strBits s (identOff h) 64 9) p

/-- The stream handle of a frame; where several entries match, which one is open (assumption 31). -/
def streamOf (p vid : Nat) (d : List Byte) (s : State) : Option Nat × State :=
  match (handlesUsed s).filter (identMatches s p vid d) with
  | [] => (none, s)
  | [h] => (some h, s)
  | h :: hs =>
    let (v, s) := s.draw 15
    (some ((h :: hs).getD (v % (hs.length + 1)) h), s)

/-! Stream gates (R319, R322). -/

def State.sgate (s : State) (g : Nat) : GateRun := mget (fun _ => GateRun.reset) s.prt.sgates g

def State.setSgate (s : State) (g : Nat) (x : GateRun) : State :=
  { s with prt.sgates := mput (fun _ => GateRun.reset) s.prt.sgates g x }

/-- Brings a gate's list up to PRT's TNOW: a pending list whose time has come is installed, and N52 raised (R312, R322). -/
def sgateNow (g : Nat) (s : State) : State :=
  let x := s.sgate g
  let now := s.tnow islPRT
  if x.pend.isSome && decide (x.cct ≤ now) then
    let y := x.install now
    let o := sgateOff g
    let es := (y.oper.map (·.entries)).getD []
    let s := (List.range 16).foldl (fun s i =>
      let e := es.getD i (0, 0)
      (s.wr (o + 0x100 + 8 * i) (BitVec.ofNat 32 e.1)).wr (o + 0x104 + 8 * i) (BitVec.ofNat 32 e.2)) (s.setSgate g y)
    cause R.PRT_NSTAT_TAS 52 (s.set ⟨o + 0xC, 16, 1⟩ 0)
  else s.setSgate g (x.advance 0 now)

/-- Every stream gate whose list waits for a ConfigChangeTime, or runs. -/
def sgatesUsed (s : State) : List Nat := s.prt.sgates.map (·.1)

/-- A gate's admin list. -/
def sgateAdmin (s : State) (g : Nat) : GateList :=
  let o := sgateOff g
  { base := s.rd64 o, cycle := (s.rd (o + 8)).toNat,
    entries := (List.range (min 16 (s.get ⟨o + 0xC, 0, 5⟩))).map fun i =>
      ((s.rd (o + 0x20 + 8 * i)).toNat, (s.rd (o + 0x24 + 8 * i)).toNat) }

/-- A write of a gate's control word (R322). -/
def sgateCtlWrite (g : Nat) (v : Word) (s : State) : State :=
  let s := sgateNow g s
  let o := sgateOff g
  let s := s.wr (o + 0xC) ((v &&& 0x11F) ||| (s.rd (o + 0xC) &&& 0x10000))
  if !v.getLsbD 9 then s
  else
    let l := sgateAdmin s g
    let (es, s) := gateIntervals l.entries s
    let l := { l with entries := es }
    let t := configTime l.base l.cycle (s.tnow islPRT)
    ((s.setSgate g { s.sgate g with pend := some l, cct := t }).wr64 (o + 0x10) t).set ⟨o + 0xC, 16, 1⟩ 1

/-- STREAM_GATE_CHANGE: a write with CHANGE = 1. -/
def execStreamGateChange (a : Agent) (g : Nat) (v : Word) (s : State) : Out :=
  if decide (g ≥ 63) || !v.getLsbD 9 then stay s
  else access a (sgateOff g + 0xC) v (fun s => .next (sgateCtlWrite g v s)) s

/-- A gate's state for a frame: open, and the IPV it sets (R322). -/
def sgateState (s : State) (g : Nat) : Bool × Option Nat :=
  if !s.flag ⟨sgateOff g + 0xC, 8, 1⟩ then (true, none)
  else match (s.sgate g).word with
    | none => (true, none)
    | some w => (bitOf w 0, if bitOf w 4 then some (bitsOf w 1 3) else none)

/-! Meters (R319, R322). -/

/-- A meter's full buckets. -/
def meterFull (s : State) (m : Nat) : Meter :=
  { c := (s.rd (meterOff m + 8)).toNat * 8000000, e := (s.rd (meterOff m + 12)).toNat * 8000000, at_ := s.tnow islPRT }

/-- A meter's buckets; one that nothing has written or used is full. -/
def meterOf (s : State) (m : Nat) : Meter := (mget (fun _ => none) s.prt.meters m).getD (meterFull s m)

def setMeter (m : Nat) (x : Meter) (s : State) : State :=
  { s with prt.meters := mput (fun _ => none) s.prt.meters m (some x) }

/-- The two-rate three-colour algorithm: tokens to the present, then the frame's colour (0 green, 1 yellow, 2 red). -/
def meterRun (s : State) (m colour len : Nat) : Nat × Meter :=
  let o := meterOff m
  let cfg := (s.rd (o + 16)).toNat
  let x := meterOf s m
  let now := s.tnow islPRT
  let dt := now - x.at_
  let cbs := (s.rd (o + 8)).toNat * 8000000
  let ebs := (s.rd (o + 12)).toNat * 8000000
  let c := x.c + (s.rd o).toNat * dt
  let past := if bitOf cfg 0 then c - cbs else 0
  let c := min cbs c
  let e := min ebs (x.e + (s.rd (o + 4)).toNat * dt + past)
  let bits := len * 8000000
  let inC := if bitOf cfg 1 then colour else 0
  if inC = 0 ∧ bits ≤ c then (0, { c := c - bits, e := e, at_ := now })
  else if inC ≤ 1 ∧ bits ≤ e then (1, { c := c, e := e - bits, at_ := now })
  else (2, { c := c, e := e, at_ := now })

/-- Meters a frame: its colour, and whether the meter drops it. -/
def meterFrame (m colour len : Nat) (s : State) : Nat × Bool × State :=
  let o := meterOff m
  let cfg := (s.rd (o + 16)).toNat
  let (r, x) := meterRun s m colour len
  let r := if bitOf cfg 8 then 2 else r
  let s := setMeter m x s
  let s := if r = 2 then s.bump (o + 20) else s
  let s := if r = 2 && bitOf cfg 3 then s.set ⟨o + 16, 8, 1⟩ 1 else s
  let worst := max r colour
  (worst, decide (worst = 2) || (decide (worst = 1) && bitOf cfg 2), s)

/-- A write of a word of a meter's entry (R322). -/
def meterWrite (m i : Nat) (v : Word) (s : State) : State :=
  let s := s.wr (meterOff m + 4 * i) (if i = 4 then v &&& 0x10F else if i < 4 ∨ i = 5 then v else 0)
  if i < 4 then setMeter m (meterFull s m) s else s

/-! Filters (R319). -/

/-- The outcome of step 6. -/
structure Policed where
  drop : Bool
  colour : Nat
  ipv : Option Nat
deriving DecidableEq, Repr

def isBlocked (s : State) (h : Nat) : Bool := mget (fun _ => false) s.prt.blocked h

/-- Step 6 for a frame of handle h and length n, FCS included (R319). MAXSDU is compared with that length (assumption 32). -/
def police (h n colour : Nat) (s : State) : Policed × State :=
  let o := filterOff h
  let sdu := strBits s o 0 16
  let g := strBits s o 16 6
  let m := strBits s o 32 9
  let past := decide (sdu ≠ 0 ∧ n > sdu)
  if isBlocked s h || past then
    ({ drop := true, colour := colour, ipv := none },
      if past && decide (strBits s o 48 1 = 1) then { s with prt.blocked := mput (fun _ => false) s.prt.blocked h true } else s)
  else
    let s := if g = 63 then s else sgateNow g s
    let (opn, ipv) := if g = 63 then (true, none) else sgateState s g
    if !opn then ({ drop := true, colour := colour, ipv := none }, s)
    else if m = 511 then ({ drop := false, colour := colour, ipv := ipv }, s)
    else
      let (c, d, s) := meterFrame m colour n s
      ({ drop := d, colour := c, ipv := ipv }, s)

/-- A write of a word of a stream filter; BLOCK written 0 ends a blocking (R319). -/
def filterWrite (h i : Nat) (v : Word) (s : State) : State :=
  let s := s.wr (filterOff h + 4 * i) (if i = 0 then v &&& 0x003FFFFF else v &&& 0x000101FF)
  if i = 1 && !v.getLsbD 16 then { s with prt.blocked := mput (fun _ => false) s.prt.blocked h false } else s

/-! 802.1CB (R320 to R322). -/

def recReset : Recovery := { any := true, last := 0, hist := [] }

def State.recov (s : State) (h : Nat) : Recovery := mget (fun _ => recReset) s.prt.recov h

def State.setRecov (s : State) (h : Nat) (x : Recovery) : State :=
  { s with prt.recov := mput (fun _ => recReset) s.prt.recov h x }

/-- Recovery: whether the frame is dropped, and the function's new history. A number outside the vector's range is dropped
too, as in IEEE 802.1CB (assumption 33). -/
def recover (alg : Bool) (hist seq : Nat) (x : Recovery) : Bool × Recovery :=
  if x.any then (false, { any := false, last := seq, hist := [seq] })
  else if alg then (decide (seq = x.last), { x with last := seq })
  else
    let d := sgn 16 (seq + 65536 - x.last)
    if d ≥ hist ∨ d ≤ -(hist : Int) then (true, x)
    else if x.hist.contains seq then (true, x)
    else
      let last := if d > 0 then seq else x.last
      let h := (seq :: x.hist).filter fun q => decide (sgn 16 (last + 65536 - q) < hist)
      (false, { any := false, last := last, hist := h })

/-- Step 7: dropped, and whether the R-TAG is to be removed (R320). -/
def recoverFrame (h seq : Nat) (s : State) : Bool × Bool × State :=
  let o := recovOff h
  if strBits s o 0 1 = 0 then (false, false, s)
  else
    let (d, x) := recover (decide (strBits s o 1 1 = 1)) (clampNat 2 32 (strBits s o 2 6)) seq (s.recov h)
    (d, decide (strBits s o 8 1 = 1), s.setRecov h x)

/-- Handles with bit `b` of their recovery and generation entry set, other than h. -/
def othersWith (s : State) (h b : Nat) : Nat :=
  s.regs.foldl (fun n e =>
    if 0x1C0000 ≤ e.1 ∧ e.1 < 0x1C2000 ∧ e.1 % 8 = b / 32 * 4 ∧ (e.1 - 0x1C0000) / 8 ≠ h ∧ e.2.getLsbD (b % 32) then n + 1 else n) 0

/-- A write of a word of a recovery and generation entry (R322). -/
def recovWrite (h i : Nat) (v : Word) (s : State) : State :=
  let o := recovOff h + 4 * i
  let old := s.rd o
  let v := if i = 0 then wset (wset (v &&& 0x03FF01FF) 2 6 (clampNat 2 32 (wget v 2 6))) 16 10 (clampNat 1 1000 (wget v 16 10))
    else v &&& 0xFFFF0001
  let v := if v.getLsbD 0 && decide (othersWith s h (32 * i) ≥ 256) then v &&& 0xFFFFFFFE else v
  let s := s.wr o v
  if i = 0 && (v.getLsbD 0 || decide ((v ^^^ old) &&& 0xFF ≠ 0)) then s.setRecov h recReset else s

/-- RECOVERY_RESET_TIMEOUT: the reset timer has passed without a frame (R320). -/
def execRecoveryResetTimeout (h : Nat) (s : State) : Out :=
  if !s.up islPRT || decide (h ≥ 1024) || decide (strBits s (recovOff h) 0 1 = 0) || (s.recov h).any then stay s
  else .next (cause R.PRT_NSTAT_CB 54 (s.setRecov h recReset))

/-- The number that sequence generation gives a released frame of a handle (R321). -/
def genSeq (h : Nat) (s : State) : Option Nat × State :=
  let o := recovOff h + 4
  if !(s.rd o).getLsbD 0 then (none, s)
  else
    let n := wget (s.rd o) 16 16
    (some n, s.set ⟨o, 16, 16⟩ (n + 1))

/-! Port VLAN rules (R302). -/

/-- The VLAN table's word of a VLAN; VLANs 0 and 4,095 have no members. -/
def vlanWord (s : State) (v : Nat) : Word := s.rd (0x1D0000 + 4 * v)

def vlanMember (s : State) (v p : Nat) : Bool := decide (v ≠ 0) && decide (v ≠ 4095) && (vlanWord s v).getLsbD p

/-- Step 4 admits the frame: `raw` is its outer tag's VLAN ID, `vid` the VLAN ID it takes. -/
def vlanAdmits (s : State) (p : Nat) (raw : Option Nat) (vid : Nat) : Bool :=
  let tagged := match raw with | some v => decide (v ≠ 0) | none => false
  (match s.get (R.PRT_VLAN_ACCEPT p) with | 1 => tagged | 2 => !tagged | _ => true)
    && (!s.flag (R.PRT_VLAN_IFILT p) || vlanMember s vid p)

/-! Ingress (R297). -/

/-- Step 1 (R291, R292): the counter of the drop, if any; `n` counts the FCS. -/
def macCheck (s : State) (p n : Nat) (fcsErr : Bool) (d : List Byte) : Option Nat :=
  if fcsErr || decide (n < 64) || decide (n > clampNat 64 9216 (s.get (R.PRT_CFG_MAXFRM p))) then some (R.PRT_CNT_RXERR p)
  else if at16 d 12 = 0x8808 then some (R.PRT_CNT_PAUSE p)
  else none

def admQueue (s : State) (p tc : Nat) : List Pkt := mget (fun _ => []) (s.port p).adm tc

def setAdm (p tc : Nat) (l : List Pkt) (s : State) : State :=
  s.setPort p { s.port p with adm := mput (fun _ => []) (s.port p).adm tc l }

/-- A drop after step 3: the buffer goes back. -/
def dropPkt (cnt h : Nat) (s : State) : State := portDrop cnt (freeBuf h s)

/-- Step 8: the packet enters its admission queue, or finds it full (R300). -/
def enqueuePkt (k : Pkt) (s : State) : State :=
  let q := admQueue s k.port k.qc
  if q.length ≥ 64 then dropPkt (R.PRT_CNT_HOLD k.port) k.handle s else setAdm k.port k.qc (q ++ [k]) s

/-- The R-TAG is taken out of the frame (R320), and the offsets behind it follow (assumption 34). -/
def stripRtag (o : Nat) (d : List Byte) (k : Pkt) (s : State) : Pkt × State :=
  let d' := cutBytes o 6 d
  let down (x : Nat) : Nat := if x = 0xFF ∨ x < o + 6 then x else x - 6
  ({ k with len := d'.length, l3off := down k.l3off, l4off := down k.l4off },
    s.setPkt (s.pkt.wrBytes (bufAddr s k.handle + k.doff) d'))

/-- Steps 6 to 8 for a classified frame. -/
def streamSteps (d : List Byte) (r : Parsed) (k : Pkt) (s : State) : State :=
  let (st, s) := streamOf k.port k.vid d s
  match st with
  | none => enqueuePkt k s
  | some h =>
    let (pol, s) := police h (d.length + 4) k.colour s
    if pol.drop then cause R.PRT_NSTAT_PSFP 53 (dropPkt (R.PRT_CNT_PSFP k.port) k.handle s)
    else
      let k := { k with colour := pol.colour, qc := pol.ipv.getD k.tc, stream := some h }
      match r.rtag with
      | none => enqueuePkt k s
      | some o =>
        let (dup, strip, s) := recoverFrame h (at16 d (o + 4)) s
        if dup then dropPkt (R.PRT_CNT_DUP k.port) k.handle s
        else if strip then
          let (k, s) := stripRtag o d k s
          enqueuePkt k s
        else enqueuePkt k s

/-- The packet that a frame becomes. -/
def mkPkt (p h len doff t : Nat) (r : Parsed) (v : Verdict) (tc : Nat) : Pkt :=
  { port := p, handle := h, len := len, doff := doff, tstamp := t, flags := r.flags, l3off := r.l3off, l4off := r.l4off,
    yarn := v.yarn, cls := v.cls, tc := tc, qc := tc, colour := v.colour, hq := v.hq, hqen := v.hqen, qrule := v.qrule, qdef := v.qdef,
    vid := r.ovid.getD 0, pcp := r.pcp.getD 0, stream := none, sub := none }

/-- Steps 4 and 5 of a frame stored in buffer h. -/
def classifySteps (p h doff t : Nat) (d : List Byte) (s : State) : State :=
  let raw := (parseFrame d p none).ovid
  let r := parseFrame d p (some (s.get (R.PRT_VLAN_PVID p), s.get (R.PRT_VLAN_PCP p)))
  if !vlanAdmits s p raw (r.ovid.getD 0) then dropPkt (R.PRT_CNT_VLAN p) h s
  else
    let (v, s) := classify p r s
    if v.drop then dropPkt (R.PRT_CNT_RULE p) h s
    else streamSteps d r (mkPkt p h d.length doff t r v (tcOf s v.cls)) s

/-- Step 3 and what follows for a frame with its ingress timestamp. -/
def takeFrame (p t : Nat) (d : List Byte) (s : State) : State :=
  if haltBars s p then portDrop (R.PRT_CNT_NOBUF p) s
  else
    let hdrm := s.get R.BPM_HDRM_PORT
    let (st, h, s) := requestBuf p (d.length + 4 + hdrm) (escBit s p) noLimit s
    if st ≠ 0 then portDrop (R.PRT_CNT_NOBUF p) s
    else classifySteps p h hdrm t d (s.setPkt (s.pkt.wrBytes (bufAddr s h + hdrm) d))

/-- The bytes of a port's ingress FIFO (R298). -/
def fifoSize (p : Nat) : Nat := if p < 2 then 32768 else if p < 8 then 8192 else 4096

/-- The bytes that wait in it, each frame with its FCS. -/
def fifoUsed (s : State) (p : Nat) : Nat := ((s.port p).fifo.map fun e => e.2.length + 4).foldl (· + ·) 0

/-- Classification has caught up: the frames that wait in a port's ingress FIFO go on, in order. -/
def drainFifo (p : Nat) (s : State) : State :=
  (s.port p).fifo.foldl (fun s e => takeFrame p e.1 e.2 s)
    (if (s.port p).fifo = [] then s else s.setPort p { s.port p with fifo := [] })

/-- The ingress FIFOs of every port drain. -/
def drainFifos (s : State) : State := if s.up islPRT then (List.range 9).foldl (fun s p => drainFifo p s) s else s

/-- A frame received on a port: its bytes without the FCS, whether its FCS is wrong, and whether classification runs slower than the
frames arrive, so that it waits in the ingress FIFO (R298). -/
def receiveFrame (p : Nat) (d : List Byte) (fcsErr slow : Bool) (s : State) : State :=
  match macCheck s p (d.length + 4) fcsErr d with
  | some cnt => portDrop cnt s
  | none =>
    let t := (((s.tnow islPRT : Int) + sgn 16 (s.get (R.PRT_TS_ADJ_ING p))) % 2 ^ 64).toNat
    if !slow then takeFrame p t d (drainFifo p s)
    else if fifoUsed s p + d.length + 4 > fifoSize p then portDrop (R.PRT_CNT_OVF p) s
    else s.setPort p { s.port p with fifo := (s.port p).fifo ++ [(t, d)] }

/-- FRAME_RECEIVE (R291 to R303, R318 to R320; 18_audio_path.md R666). -/
def execFrameReceive (p : Nat) (data : List Byte) (fcsErr slow : Bool) (s : State) : Out :=
  if !linkUp s p then stay s else .next (receiveFrame p data fcsErr slow s)

/-- ADMISSION_HOLD_TIMEOUT: the head has waited PRT_HOLD.US (R301, R72). -/
def execAdmissionHoldTimeout (p tc : Nat) (s : State) : Out :=
  match admQueue s p tc with
  | [] => stay s
  | k :: q =>
    if !s.up islPRT || s.follower then stay s else .next (dropPkt (R.PRT_CNT_HOLD p) k.handle (setAdm p tc q s))

/-! Device time and the gate lists (R312, R315, R319). -/

/-- A forward step reaches PRT: it is no time that passes for credits, buckets and fragments, and every list takes the position of the
new time (R106, R309, R315, R319). -/
def prtStepped (d : Nat) (s : State) : State :=
  let s := (List.range 9).foldl (fun s p =>
    let x := s.port p
    s.setPort p { x with creditAt := x.creditAt + d, txAt := x.txAt + d, burstAt := x.burstAt + d }) s
  let s := { s with prt.meters := s.prt.meters.map fun e => (e.1, e.2.map fun m => { m with at_ := m.at_ + d }) }
  let s := (List.range 9).foldl (fun s p => if (gatedBy s p).isNone then s else gateAdvance p s) s
  (sgatesUsed s).foldl (fun s g => sgateNow g s) s

/-- TAS_CONFIG_CHANGE: a port's list, or from 9 on a stream gate's (R312, R319). -/
def execTasConfigChange (p : Nat) (s : State) : Out :=
  if p < 9 then tasConfigChangeAct p s
  else if !s.up islPRT || decide (p - 9 ≥ 63) then stay s
  else .next (sgateNow (p - 9) s)

/-- GATE_ENTRY_ADVANCE: a port's list, or from 9 on a stream gate's (R313, R319). -/
def execGateEntryAdvance (p : Nat) (s : State) : Out :=
  if p < 9 then gateEntryAdvanceAct p s
  else if !s.up islPRT || decide (p - 9 ≥ 63) then stay s
  else .next (sgateNow (p - 9) s)

/-! The MDIO master (R324). -/

/-- An MDIO frame is in progress. -/
def mdioBusy (s : State) : Bool := s.flag R.PRT_MDIO_CMD_BUSY

/-- A write of PRT_MDIO_CMD: starts a frame, or is lost while one is in progress. -/
def mdioCmd (v : Word) (s : State) : State :=
  if mdioBusy s then s.set R.PRT_MDIO_CFG_LOST 1
  else
    let op := wget v 0 3
    let d := if op = 0 ∨ op = 4 ∨ op = 5 then s.rd R.PRT_MDIO_DATA &&& 0xFFFF else 0
    (s.wr R.PRT_MDIO_CMD ((v &&& 0x1FFF) ||| 0x80000000)).emit (.mdio op (wget v 3 5) (wget v 8 5) d)

/-- The command's OP is `op`. -/
def mdioOp (op : Nat) (a : Agent) (v : Word) (s : State) : Out :=
  if decide (wget v 0 3 ≠ op) then stay s else access a R.PRT_MDIO_CMD v (fun s => .next (mdioCmd v s)) s

def execMdioC22Write (a : Agent) (v : Word) (s : State) : Out := mdioOp 0 a v s
def execMdioC22Read (a : Agent) (v : Word) (s : State) : Out := mdioOp 1 a v s
def execMdioC45Address (a : Agent) (v : Word) (s : State) : Out := mdioOp 4 a v s
def execMdioC45Write (a : Agent) (v : Word) (s : State) : Out := mdioOp 5 a v s
def execMdioC45Read (a : Agent) (v : Word) (s : State) : Out := mdioOp 6 a v s
def execMdioC45ReadIncrement (a : Agent) (v : Word) (s : State) : Out := mdioOp 7 a v s

/-- MDIO_FRAME_DONE: BUSY clears, read data is held, N55. -/
def execMdioFrameDone (data : Word) (s : State) : Out :=
  if !s.up islPRT || !s.flag R.PRT_MDIO_CMD_BUSY then stay s
  else
    let op := s.get R.PRT_MDIO_CMD_OP
    let s := if op = 1 ∨ op = 6 ∨ op = 7 then s.wr R.PRT_MDIO_DATA (data &&& 0xFFFF) else s
    .next (cause R.PRT_NSTAT_MDIO 55 (s.set R.PRT_MDIO_CMD_BUSY 0))

end Sys2Proof.Machine
end

