-- ==== Sys2Proof/Machine/HifCore.lean ====
section
/-!
DEFINITION. Queue pairs as the rest of the device meets them: their registers, completions in order, DMA writes, delivery of
a packet to a posted RECV (16_host_interface_rings.md R584, R590 to R601, R605, R614, R615).
-/
namespace Sys2Proof.Machine

def State.qp (s : State) (q : Nat) : Qp := mget (fun _ => Qp.reset) s.hif.qps q

def State.setQp (s : State) (q : Nat) (x : Qp) : State :=
  { s with hif.qps := mput (fun _ => Qp.reset) s.hif.qps q x }

/-- Completion slots that can still be reserved (R597). -/
def Qp.freeSlots (x : Qp) : Nat := 2 ^ x.cqlog - (x.written - x.released) - x.infl

/-- HIF_QP_STAT (R628). -/
def Qp.stat (x : Qp) : Word :=
  BitVec.ofNat 32 (x.st + b2n (decide (x.infl = 0)) * 4 + b2n x.kind * 8 + x.group * 16
    + b2n (decide (x.written > x.released)) * 128 + b2n x.ringsp * 256 + x.infl * 65536)

/-- The start of the host's region of packet memory (R590). -/
def pkmFree (s : State) : Nat := s.get R.HIF_PKM_FREE_OFS

/-- Writes bytes to a host address, once requests may be sent; packet memory at once, but for the frame reserve (R584, R590). -/
def dmaWrite (pkm : Bool) (a : Nat) (bs : List Byte) (s : State) : State :=
  if bs = [] then s
  else if pkm then s.setPkt (s.pkt.wrBytes a (bs.take (0xD00000 - a)))
  else if s.busMaster then { s with hif.mem := s.hif.mem.wrBytes a bs }
  else { s with hif.dmaq := s.hif.dmaq ++ [(a, bs)] }

/-- The 16 bytes of a completion entry (R605). -/
def cqeBytes (q : Nat) (x : Qp) (e : QEntry) (st r0 r1 : Nat) : List Byte :=
  leBytes 4 r0 ++ leBytes 4 r1 ++ leBytes 2 ((e.idx + 1) % 2 ^ x.sqlog) ++ sliceOf e.bytes 4 2 ++ leBytes 2 q
    ++ [BitVec.ofNat 8 st, BitVec.ofNat 8 (1 - x.written / 2 ^ x.cqlog % 2)]

/-- A queue pair's completions may be written: no halt, and a host ring needs Bus Master Enable (R584, R621). -/
def cqOpen (s : State) (x : Qp) : Bool := !s.halted && (x.ringsp || s.busMaster)

/-- Writes the completions that stand at the head of a queue pair's outstanding entries, each with its notice (R599, R600). -/
def cqFlush (q : Nat) : Nat → State → State
  | 0, s => s
  | n + 1, s =>
    let x := s.qp q
    if !cqOpen s x then s
    else
      match x.out with
      | [] => s
      | e :: es =>
        match e.result with
        | none => s
        | some (st, r0, r1) =>
          let a := x.cqbase + 16 * (x.written % 2 ^ x.cqlog)
          let s := dmaWrite x.ringsp a (cqeBytes q x e st r0 r1) s
          let s := s.setQp q { x with out := es, written := x.written + 1 }
          cqFlush q n (crossing (72 + x.group) s)

/-- The entry of ring index `idx` is done (R599). -/
def entryDone (q idx st r0 r1 : Nat) (s : State) : State :=
  let x := s.qp q
  let es := x.out.map fun e =>
    if e.idx = idx ∧ e.result = none then { e with result := some (st, r0, r1), posted := false, bufWait := false, pkt := none } else e
  let s := s.setQp q { x with out := es }
  cqFlush q es.length s

/-- An unpredictable outcome confined to a queue pair; completions that it leaves at the head are written. -/
def queueHavoc (q : Nat) (s : State) : State :=
  let s := unpredQueue q s
  cqFlush q (s.qp q).out.length s

/-- Resumes what waited for Bus Master Enable: data first, then completions (R584, R600). -/
def dmaResume (s : State) : State :=
  if !s.busMaster then s
  else
    let s := { s with hif.mem := s.hif.dmaq.foldl (fun (m : Mem) (w : Nat × List Byte) => m.wrBytes w.1 w.2) s.hif.mem, hif.dmaq := [] }
    (s.hif.qps.map fun (e : Nat × Qp) => e.1).foldl (fun s q => cqFlush q (s.qp q).out.length s) s

/-- A transfer in packet memory that leaves the host's region (R590, R624). -/
def outsideRegion (s : State) (a n : Nat) : Bool := decide (n ≠ 0) && (decide (a < pkmFree s) || decide (a + n > 0xD00000))

/-- The oldest posted RECV of an RX queue pair. -/
def postedRecv (x : Qp) : Option QEntry := if x.kind && decide (x.st ≠ 0) then x.out.find? (·.posted) else none

/-- Delivers a released packet to its queue pair: `len` and `doff` as at release (R614, R615). A RECV's buffer outside the host's region
has an outcome of device scope besides (R624). -/
def hostDeliver (k : Pkt) (s : State) : State :=
  let x := s.qp k.hq
  match (if s.halted || s.follower then none else postedRecv x) with
  | none => (freeBuf k.handle (s.bump R.DST_CNT_RELDROP)).bump R.HIF_CNT_RXDROP
  | some e =>
    let pkm := bitOf (leNat (sliceOf e.bytes 6 1)) 0
    let a := leNat (sliceOf e.bytes 8 8)
    let cap := leNat (sliceOf e.bytes 16 4)
    let n := min k.len cap
    let bad := pkm && outsideRegion s a n
    let s := dmaWrite pkm a (s.pkt.rdBytes (bufAddr s k.handle + k.doff) n) s
    let s := freeBuf k.handle s
    let s := if bad then unpredDevice s else s
    entryDone k.hq e.idx (if k.len > cap || decide (cap = 0) then 3 else 0)
      (k.len % 65536 + k.port * 65536 + k.tc * 2 ^ 20 + k.colour * 2 ^ 23) (k.tstamp % 2 ^ 32) s

end Sys2Proof.Machine
end

