-- ==== Sys2Proof/Machine/Locks.lean ====
section
/-!
DEFINITION. Lock registers and atomic counters (10_buffers_and_locks.md R388 to R398).
-/
namespace Sys2Proof.Machine

/-- Reads of a lock that arrive in one cycle: a free lock goes to the lowest agent ID (R388, R390). -/
def lockReads (n : Nat) (aids : List Nat) (s : State) : State :=
  let l := s.lock n
  if l.held then aids.foldl (fun s a => respond a 0 s) s
  else
    match aids with
    | [] => s
    | a :: as =>
      let win := as.foldl min a
      let s := s.setLock n { l with held := true, owner := win, told := false }
      (a :: as).foldl (fun s x => respond x (if x = win then 1 else 0) s) s

/-- The LOCK event of lock n's release at a waiter: a thread that waits on it in WAITLK consumes the event and runs; in any
other case, its wait being parked, the event stays pending (12_whorl_cores_threads.md R455, R456). -/
def wakeWaiter (n : Nat) (s : State) (tid : Nat) : State :=
  let t := s.thread tid
  if t.st = 2 ∧ t.waitOn = 3 ∧ t.waitLock = some n then
    s.setThread tid { t.wake (s.tnow (islWHL (tid / 8))) with waitLock := none }
  else s.setThread tid { t with evp := t.evp ||| 4 }

/-- Frees a lock and wakes every waiter on it (R391, R392). -/
def lockFree (n : Nat) (s : State) : State :=
  (s.lock n).waiters.foldl (wakeWaiter n) (s.setLock n Lock.reset)

/-- Records the lock and agent of an N66 cause (R391, R395). -/
def lockCause (f : Fld) (n aid : Nat) (s : State) : State :=
  cause f 66 ((s.set R.LCK_LAST_LOCK n).set R.LCK_LAST_AGENT aid)

/-- A write of a lock (R391). -/
def lockWrite (n aid : Nat) (s : State) : State :=
  let l := s.lock n
  if !l.held then lockCause R.LCK_NSTAT_FREEREL n aid s
  else if l.owner = aid then lockFree n s
  else lockCause R.LCK_NSTAT_FOREIGN n aid (lockFree n s)

/-- Releases every lock whose owner ID the predicate names (R393, 12_whorl_cores_threads.md R469). -/
def releaseLocks (who : Nat → Bool) (s : State) : State :=
  (List.range 512).foldl (fun s n => if (s.lock n).held && who (s.lock n).owner then lockFree n s else s) s

/-- Removes a thread's WAITLK registration (R392). -/
def dropWaiter (tid : Nat) (s : State) : State :=
  match (s.thread tid).waitLock with
  | none => s
  | some n =>
    let l := s.lock n
    let s := s.setLock n { l with waiters := l.waiters.filter (· ≠ tid) }
    s.setThread tid { s.thread tid with waitLock := none }

/-- A thread holds some lock (11_distaff_and_yarns.md R423). -/
def holdsLock (s : State) (tid : Nat) : Bool := s.locks.any fun e => e.2.held && e.2.owner = tid

/-- Fetch-and-add on a counter: the old value, and the state with the addend added modulo 2^32 (R397). -/
def fetchAdd (k : Nat) (v : Word) (s : State) : Word × State :=
  let o := s.rd (R.LCK_CTR k)
  (o, s.wr (R.LCK_CTR k) (o + v))

/-- An agent's fetch-and-add (R397): the LEADER logs its answer, the FOLLOWER's agent takes the logged one, its host none
(22_ply_pair.md R797, R806, R807). -/
def addLoad (a : Agent) (k : Nat) (v : Word) (s : State) : State :=
  let aid := agentId a
  if !s.up islBPM then respond aid 0 s
  else if s.follower then
    if isHost a then respond aid 0 (s.bump R.PLY_CNT_FOLWR)
    else
      match takeAnswer aid 2 s with
      | none => s
      | some (w, s) => respond aid w (fetchAdd k v s).2
  else
    let (w, s) := fetchAdd k v s
    respond aid w (logAnswer aid 2 w s)

/-- A FOLLOWER's reader takes the logged answer (22_ply_pair.md R797): the lock goes to it where the answer is 1. -/
def lockFollow (n : Nat) (s : State) (a : Agent) : State :=
  if isHost a then respond 0x200 0 (s.bump R.PLY_CNT_FOLWR)
  else
    let aid := agentId a
    match takeAnswer aid 1 s with
    | none => s
    | some (v, s) =>
      respond aid v (if v = 1 then s.setLock n { s.lock n with held := true, owner := aid, told := false } else s)

/-- Reads of a lock by agents in one cycle, with the answers of a LEADER logged (22_ply_pair.md R797, R806). -/
def lockLoads (n : Nat) (as : List Agent) (s : State) : State :=
  if s.follower then as.foldl (lockFollow n) s
  else
    (as.map agentId).foldl (fun s x => logAnswer x 1 (mget (fun _ => 0) s.resp x) s) (lockReads n (as.map agentId) s)

/-- LOCK_READ: reads of LCK_n, with any others that arrive in the same cycle, of the agents that can make them (R388, R390, R396;
16_host_interface_rings.md R584). A host whose access waits reads later; a block without power answers 0 (01_device_overview.md R39). -/
def execLockRead (a : Agent) (n : Nat) (others : List Agent) (s : State) : Out :=
  let as := (a :: others).filter fun b => decodes b s
  if decide (n ≥ 512) then stay s
  else if !s.bar0 || !blockUp s (R.LCK n) then .next (as.foldl (fun s b => respond (agentId b) 0 s) s)
  else
    let held := as.filter fun b => weftHeld b (R.LCK n) s
    let s := held.foldl (fun s b => weftWait ⟨b, false, R.LCK n, 0⟩ s) s
    .next (lockLoads n (as.filter fun b => !held.contains b) s)

/-- LOCK_RELEASE: a write of any value to LCK_n (R391). -/
def execLockRelease (a : Agent) (n : Nat) (s : State) : Out :=
  if decide (n ≥ 512) then stay s else access a (R.LCK n) 0 (fun s => .next (lockWrite n (agentId a) s)) s

/-- LOCK_HOLD_TIMEOUT: a lock held longer than LCK_HOLDMAX (R395). -/
def execLockHoldTimeout (n : Nat) (s : State) : Out :=
  let l := s.lock n
  if !s.up islBPM || !l.held || l.told || s.get R.LCK_HOLDMAX_US = 0 then stay s
  else .next (lockCause R.LCK_NSTAT_LONGHOLD n l.owner (s.setLock n { l with told := true }))

end Sys2Proof.Machine
end

