-- ==== Sys2Proof/Machine/Distaff.lean ====
section
/-!
DEFINITION. Distaff: admission, ready lists, dispatch, pre-emption, stealing, the reorder engine, core removal and the
scheduling trace (11_distaff_and_yarns.md R404 to R445).
-/
namespace Sys2Proof.Machine

/-! Yarns and cores (R406, R413, R420). -/

def yarnLimit (s : State) (y : Nat) : Nat := min 256 (s.get (R.DST_YCFG_LIMIT y))

/-- INFLIGHT[y] (R406). -/
def inflight (s : State) (y : Nat) : Nat := (s.dst.tasks.filter fun t => decide (t.pkt.yarn = y)).length

def yarnMask (s : State) (y : Nat) : Nat := mget (fun _ => 0) s.dst.mask y

def lastCore (s : State) (y : Nat) : Nat := mget (fun _ => 63) s.dst.last y

def setLast (y n : Nat) (s : State) : State := { s with dst.last := mput (fun _ => 63) s.dst.last y n }

/-- A core is in service (R413, R420). -/
def inService (s : State) (n : Nat) : Bool := decide (n < 48) && (s.core n).svc && !(s.core n).patching && s.up (islWHL n)

/-- The cores of a mask that are in service, in rising order. -/
def serving (s : State) (mask : Nat) : List Nat := (List.range 48).filter fun n => bitOf mask n && inService s n

/-- The effective core set of a yarn (R420). -/
def effSet (s : State) (y : Nat) : List Nat :=
  match serving s (yarnMask s y) with
  | [] => serving s (s.rd64 R.DST_SPARE_LO)
  | l => l

/-- A thread may take tasks (R413). -/
def thrEligible (s : State) (n t : Nat) : Bool :=
  decide (1 ≤ t ∧ t < 8) && inService s n && bitOf (s.get (R.DST_CORE_TMASK n)) t

/-- An eligible thread is idle: it waits in TGET and holds no task (R414). -/
def thrIdle (s : State) (n t : Nat) : Bool :=
  let x := s.thread (8 * n + t)
  thrEligible s n t && decide (x.st = 2 ∧ x.waitOn = 1 ∧ x.task = none)

def coreIdle (s : State) (n : Nat) : Bool := (List.range 8).any (thrIdle s n)

/-- QUEUED tasks on a core. -/
def queuedOn (s : State) (n : Nat) : Nat := (s.dst.tasks.filter fun t => decide (t.st = .queued ∧ t.core = n)).length

/-- The core with the fewest QUEUED tasks; ties go to the lowest number. -/
def fewest (s : State) : List Nat → Option Nat
  | [] => none
  | n :: ns =>
    match fewest s ns with
    | none => some n
    | some m => some (if queuedOn s n ≤ queuedOn s m then n else m)

/-- Steps 2 and 3 of R419. -/
def chooseCore (s : State) (set : List Nat) : Option Nat :=
  match fewest s (set.filter (coreIdle s)) with
  | some n => some n
  | none => fewest s set

/-- The core of a task at admission (R419). -/
def placeCore (s : State) (y : Nat) : Option Nat :=
  let set := effSet s y
  let l := lastCore s y
  if set.contains l && (coreIdle s l || decide (queuedOn s l < s.get R.DST_AFF_DEPTH)) then some l else chooseCore s set

/-! The scheduling trace (R437 to R441). -/

/-- The trace's 16-byte record as a number. -/
def traceWord (now y kind seq core thr prio arg : Nat) : Nat :=
  now % 2 ^ 64 + (y % 4096 + kind * 4096) * 2 ^ 64 + seq % 65536 * 2 ^ 80 + core % 64 * 2 ^ 96
    + (thr % 8 + prio % 8 * 16) * 2 ^ 104 + arg % 65536 * 2 ^ 112

def setTrace (i v : Nat) (s : State) : State :=
  { s with dst.trace := mput (fun _ => 0) s.dst.trace i v }

/-- Records lost (R440). -/
def traceLost (n : Nat) (s : State) : State := s.bump R.DST_TRC_LOST n

def traceFull (s : State) : State := cause R.DST_NSTAT_TRCFULL 67 s

/-- Copies the finished block of 256 records to the stream buffer, or discards it (R438, R439). -/
def traceBlock (first : Nat) (s : State) : State :=
  let len := s.get R.DST_TRC_SLEN_BLOCKS
  let swr := s.rd R.DST_TRC_SWR
  if len = 0 ∨ (swr - s.rd R.DST_TRC_SRD).toNat = len then traceFull (traceLost 256 s)
  else
    let a := s.get R.DST_TRC_SBASE_OFS * 4096 + swr.toNat % len * 4096
    let bs := (List.range 256).flatMap fun i => leBytes 16 (mget (fun _ => 0) s.dst.trace ((first + i) % 32768))
    (s.setPkt (s.pkt.wrBytes a bs)).wr R.DST_TRC_SWR (swr + 1)

/-- Writes one trace record, if its kind and yarn are traced. Kinds: 0 ADMIT, 1 DISPATCH, 2 PARK, 3 RESUME, 4 STEAL, 5 DONE,
6 CLOSE, 7 DROP, 8 REMAP (R437, R438). -/
def traceRec (kind y seq core thr prio arg : Nat) (s : State) : State :=
  let mode := s.get R.DST_TRC_CTL_MODE
  let n := s.dst.trcCount
  if mode = 0 || !bitOf (s.get R.DST_TRC_CTL_KINDS) kind || decide (y < s.get R.DST_TRC_YRNG_LO)
      || decide (y > s.get R.DST_TRC_YRNG_HI) then s
  else if mode = 1 && decide (n ≥ 32768) then traceLost 1 s
  else
    let s := setTrace (n % 32768) (traceWord (s.tnow islDST) y kind seq core thr prio arg) s
    let s := { s with dst.trcCount := n + 1 }
    let s := s.set R.DST_TRC_WPTR_IDX ((n + 1) % 32768)
    if mode ≤ 2 then (if n + 1 = 32768 then traceFull s else s)
    else if (n + 1) % 256 = 0 then traceBlock (n + 1 - 256) s else s

/-- A trace record of a task. -/
def traceTask (kind arg : Nat) (t : Task) (s : State) : State :=
  traceRec kind t.pkt.yarn t.seq t.core t.thr t.prio arg s

/-- TRACE_RECORD_SELECT: DST_TRC_DATA then shows the record's words (R441). -/
def traceSelect (v : Word) (s : State) : State := s.wr R.DST_TRC_RIDX (v &&& 0x7FFF)

/-- Word k of the selected record (R441). -/
def traceData (s : State) (k : Nat) : Word :=
  BitVec.ofNat 32 (mget (fun _ => 0) s.dst.trace (s.get R.DST_TRC_RIDX_IDX) / 2 ^ (32 * k))

def execTraceRecordSelect (a : Agent) (v : Word) (s : State) : Out :=
  access a R.DST_TRC_RIDX v (fun s => .next (traceSelect v s)) s

/-- A write of DST_TRC_CTL; a change of MODE clears the trace (R441). -/
def traceCtlWrite (v : Word) (s : State) : State :=
  let was := s.get R.DST_TRC_CTL_MODE
  let s := s.wr R.DST_TRC_CTL (v &&& 0x1FF03)
  if wget v 0 2 = was then s
  else (((({ s with dst.trace := [], dst.trcCount := 0 }).wr R.DST_TRC_WPTR 0).wr R.DST_TRC_SWR 0).wr R.DST_TRC_SRD 0)

/-- TRACE_MODE_CHANGE: a write of DST_TRC_CTL that changes MODE. -/
def execTraceModeChange (a : Agent) (v : Word) (s : State) : Out :=
  if decide (wget v 0 2 = s.get R.DST_TRC_CTL_MODE) then stay s
  else access a R.DST_TRC_CTL v (fun s => .next (traceCtlWrite v s)) s

/-! Tasks. -/

def taskOf (s : State) (id : Nat) : Option Task := s.dst.tasks.find? fun t => decide (t.id = id)

def setTask (t : Task) (s : State) : State :=
  { s with dst.tasks := s.dst.tasks.map fun x => if x.id = t.id then t else x }

/-- A task becomes DONE with disposition DROP (R405, R426). -/
def dropTask (arg : Nat) (t : Task) (s : State) : State :=
  traceTask 7 arg t (setTask { t with st := .done, disp := 2 } s)

/-- The same, counted in DST_CNT_TASKDROP (R426, R433). -/
def loseTask (arg id : Nat) (s : State) : State :=
  match taskOf s id with
  | none => s
  | some t => dropTask arg { t with fault := true } (s.bump R.DST_CNT_TASKDROP)

/-- A thread loses its running task and every task parked from it (R426). -/
def loseTasks (arg tid : Nat) (s : State) : State :=
  let t := s.thread tid
  let ids := t.task.toList ++ t.parked.map (·.task)
  let s := ids.foldl (fun s i => loseTask arg i s) s
  s.setThread tid { s.thread tid with task := none, parked := [] }

/-! Admission (R407 to R411, R419; 09_parser_classifier.md R347, R348). -/

/-- What admission answers for a packet. -/
inductive Admit
  | ok (core : Nat)
  | wait
  /-- A yellow packet that the fill rule refuses (R347). -/
  | yellow
  /-- No core can serve the yarn (R410). -/
  | noServ
deriving DecidableEq, Repr

def admitCheck (s : State) (k : Pkt) : Admit :=
  let lim := yarnLimit s k.yarn
  let n := inflight s k.yarn
  match placeCore s k.yarn with
  | none => .noServ
  | some c =>
    if lim = 0 then .noServ
    else if k.colour = 1 ∧ k.port < 9 ∧ s.get R.PRS_YEL_FILL < 8 ∧ n ≥ s.get R.PRS_YEL_FILL * lim / 8 then .yellow
    else if n ≥ lim ∨ s.dst.tasks.length ≥ 8192 then .wait
    else .ok c

/-- Crossings at a yarn's limit and at the window's (R408). -/
def boundCheck (y : Nat) (s : State) : State :=
  let s := if inflight s y = yarnLimit s y then cause R.DST_NSTAT_YBOUND 68 (s.set R.DST_LAST_YARN y) else s
  if s.dst.tasks.length = 8192 then cause R.DST_NSTAT_WFULL 68 s else s

def nextSeq (s : State) (y : Nat) : Nat := mget (fun _ => 0) s.dst.nextSeq y

/-- The classification result of a task (09_parser_classifier.md R351). -/
def resultBytes (t : Task) : List Byte :=
  let k := t.pkt
  leBytes 4 (k.flags % 65536 + k.l3off % 256 * 65536 + k.l4off % 256 * 2 ^ 24)
    ++ leBytes 4 (k.yarn % 4096 + k.cls % 16 * 4096 + k.tc % 8 * 65536 + k.colour % 4 * 2 ^ 19 + k.port % 16 * 2 ^ 21)
    ++ leBytes 4 (t.seq % 65536 + k.hq % 1024 * 65536 + b2n k.hqen * 2 ^ 26)
    ++ leBytes 4 (k.qrule % 1024 + b2n k.qdef * 1024 + k.vid % 4096 * 65536)

/-- The LEADER's ADMIT record of a task, with the frame itself where it is host-submitted; its buffer is kept
(22_ply_pair.md R796, R799). -/
def admitLog (t : Task) (s : State) : State :=
  if !s.leader then s
  else
    let d := s.pkt.rdBytes (bufAddr s t.pkt.handle + t.pkt.doff) t.pkt.len
    let s := if t.pkt.port = 9 then plySend (.body d) s else s
    keepBuf t.pkt.handle (plySend (.admitted t.pkt.port t.pkt.len (crc32 d) (resultBytes t) t.pkt.tstamp) s)

/-- Admits a packet to a core's ready list with a sequence number (R404, R411, R419, R348), and queues its source lookup
(15_forwarding_learning.md R549). -/
def admitWith (k : Pkt) (core seq : Nat) (s : State) : State :=
  let y := k.yarn
  let t : Task := { id := s.dst.nextId, pkt := k, seq := seq, prio := s.get (R.DST_YCFG_PRIO y), st := .queued,
                    core := core, thr := 0, disp := 2, mask := 0, tag := none, fault := false }
  let s := { s with dst.tasks := s.dst.tasks ++ [t], dst.nextId := s.dst.nextId + 1
                    dst.nextSeq := mput (fun _ => 0) s.dst.nextSeq y ((seq + 1) % 65536) }
  let s := if k.port < 9 then
      { s with fwd.srcq := s.fwd.srcq ++ [(k.port, s.pkt.rdBytes (bufAddr s k.handle + k.doff + 6) 6, k.vid)] }
    else s
  boundCheck y (traceTask 0 0 t (setLast y core (admitLog t s)))

/-- Admits a packet with the yarn's next sequence number. -/
def admitPkt (k : Pkt) (core : Nat) (s : State) : State :=
  admitWith (if k.port = 9 then { k with tstamp := s.tnow islDST } else k) core (nextSeq s k.yarn) s

/-- A packet that no core can serve (R410). -/
def noServ (k : Pkt) (s : State) : State :=
  cause R.DST_NSTAT_NOSERV 68 ((freeBuf k.handle (s.bump R.DST_CNT_NOSERV)).set R.DST_LAST_YARN k.yarn)

/-- The packet of a queue pair's SEND that waits for admission (11_distaff_and_yarns.md R409, 16_host_interface_rings.md R613). -/
def sendWaiting (s : State) (q : Nat) : Option (QEntry × Pkt) :=
  (s.qp q).out.findSome? fun e => e.pkt.map fun k => (e, k)

/-- The LEADER holds 512 KiB of log that has not been sent (22_ply_pair.md R800). -/
def logFull (s : State) : Bool := s.leader && decide (s.get R.PLY_LAG_KIB ≥ 512)

/-- Admission is open: DST is on, the device has not halted, and the epoch log is not full (R436, R800). -/
def admitOpen (s : State) : Bool := s.up islDST && !s.halted && !logFull s

/-- The packet at the head of port p's admission queue `sel`, or with p = 9 the SEND that queue pair `sel` holds. -/
def admitHead (s : State) (p sel : Nat) : Option Pkt := if p = 9 then (sendWaiting s sel).map (·.2) else (admQueue s p sel).head?

/-- A refused head still waits. -/
def stillRefused (s : State) (e : Nat × Nat × Nat) : Bool := decide ((admitHead s e.1 e.2.1).map (·.handle) = some e.2.2)

/-- A bound refuses a head: it keeps its place before later packets of its yarn (R409, R432). -/
def refuseHead (p sel handle : Nat) (s : State) : State :=
  let l := s.dst.refused.filter (stillRefused s)
  { s with dst.refused := if l.contains (p, sel, handle) then l else l ++ [(p, sel, handle)] }

/-- Another head of yarn y has been refused before the packet of (p, sel), and waits: it goes first (R432; assumption 169). -/
def behindRefused (s : State) (p sel y : Nat) : Bool :=
  (s.dst.refused.takeWhile fun e => decide ((e.1, e.2.1) ≠ (p, sel))).any fun e =>
    stillRefused s e && ((admitHead s e.1 e.2.1).any fun k => decide (k.yarn = y))

/-- Admission of a strand that computes from its own inputs: the head of port p's admission queue `sel`, or with p = 9 the SEND that
queue pair `sel` holds for admission (R407 to R410, R432, R613). -/
def packetAdmit (p sel : Nat) (s : State) : Out :=
  if !admitOpen s then stay s
  else if p = 9 then
    match sendWaiting s sel with
    | none => stay s
    | some (e, k) =>
      match admitCheck s k with
      | .ok c =>
        if behindRefused s p sel k.yarn then stay s else
        let t := s.tnow islDST
        let q := nextSeq s k.yarn
        .next (entryDone sel e.idx 0 (q + k.yarn * 65536) (t % 2 ^ 32) (admitPkt k c s))
      | .noServ => .next (entryDone sel e.idx 2 0 0 (noServ k s))
      | _ => .next (refuseHead p sel k.handle s)
  else
    match admQueue s p sel with
    | [] => stay s
    | k :: q =>
      match admitCheck s k with
      | .ok c => if behindRefused s p sel k.yarn then stay s else .next (admitPkt k c (setAdm p sel q s))
      | .noServ => .next (noServ k (setAdm p sel q s))
      | .yellow => .next (dropPkt (R.PRT_CNT_HOLD p) k.handle (setAdm p sel q s))
      | .wait => .next (refuseHead p sel k.handle s)

/-! Delivery, dispatch and pre-emption (R412 to R416, R423 to R425; 13_whorl_isa_model.md R513 to R515). -/

/-- The task record (R416). -/
def taskRecord (t : Task) : List Byte :=
  resultBytes t ++ leBytes 4 t.pkt.handle ++ leBytes 2 t.pkt.len ++ leBytes 2 t.pkt.doff ++ leBytes 8 t.pkt.tstamp

/-- Writes bytes of a core's local memory; a whole 8-byte word that is written is poisoned no more
(12_whorl_cores_threads.md R450). -/
def coreWrite (n a : Nat) (bs : List Byte) (s : State) : State :=
  let c := s.core n
  let full := (List.range (bs.length / 8 + 2)).filterMap fun i =>
    let w := a / 8 + i
    if a ≤ 8 * w ∧ 8 * w + 8 ≤ a + bs.length then some w else none
  s.setCore n { c with mem := c.mem.wrBytes a bs, poison := full.foldl (fun m w => mput (fun _ => false) m w false) c.poison }

/-- Delivers a task to a thread: the record, PKH and YARN; the thread leaves TGET (R414 to R416). -/
def deliverTask (t : Task) (n thr : Nat) (s : State) : State :=
  let tid := 8 * n + thr
  let t := { t with st := .running, core := n, thr := thr }
  let s := setTask t (coreWrite n (0xFF00 + 32 * thr) (taskRecord t) s)
  let x := s.thread tid
  let s := s.setThread tid { x.wake (s.tnow (islWHL n)) with
    task := some t.id, pkh := BitVec.ofNat 32 t.pkt.handle, yarn := BitVec.ofNat 32 t.pkt.yarn }
  traceTask 1 0 t (resetReqs tid s)

/-- The QUEUED task at the head of a core's highest non-empty ready list (R412). -/
def headTask (s : State) (n : Nat) : Option Task :=
  (s.dst.tasks.filter fun t => decide (t.st = .queued ∧ t.core = n)).foldl (fun b t =>
    match b with
    | none => some t
    | some u => if t.prio > u.prio then some t else some u) none

/-- The context that pre-emption saves (13_whorl_isa_model.md R513). -/
def Thread.context (now : Nat) (x : Thread) (id : Nat) : Context :=
  { g := x.g, acc := x.acc, lkr0 := x.lkr0, lkr1 := x.lkr1, evm := x.evm, tcmp := x.tcmp, form := x.form, lform := x.lform,
    rets := x.rets, flags := x.flags, q := x.q, werr := x.werr, wflt := x.wflt, yarn := x.yarn, pkh := x.pkh, pc := x.pc, task := id,
    tgetPc := x.tgetPc, tgetForm := x.tgetForm, tgetG14 := x.tgetG14, tgetG15 := x.tgetG15, tgetEvm := x.tgetEvm,
    st := x.st, waitOn := x.waitOn, waitLock := x.waitLock,
    wdog := x.wdogAcc + (if x.st = 1 then now - x.wdogFrom else 0) }

/-- The context in which a pre-empting task starts (13_whorl_isa_model.md R514). -/
def Thread.fresh (x : Thread) : Thread :=
  { x with pc := x.tgetPc, form := x.tgetForm, g := mput (fun _ => 0) (mput (fun _ => 0) [] 14 x.tgetG14) 15 x.tgetG15,
           evm := x.tgetEvm, acc := 0, accAge := 4, lkr0 := 0, lkr1 := 0, lookup := none, tcmp := tcmpNever,
           tcmpHeld := none, armed := false, lform := false, rets := [], flags := ⟨false, false, false, false⟩, q := false,
           werr := false, wflt := false, waitLock := none }

/-- The parked context comes back whole (R425, 13_whorl_isa_model.md R515): a wait whose event has come ends at once, and
the restored TCMP is evaluated. -/
def Thread.restore (now : Nat) (x : Thread) (c : Context) : Thread :=
  let x := { x with g := c.g, acc := c.acc, accAge := 4, lkr0 := c.lkr0, lkr1 := c.lkr1, lookup := none, evm := c.evm,
                    tcmp := c.tcmp, tcmpHeld := none, form := c.form, lform := c.lform, rets := c.rets, flags := c.flags, q := c.q,
                    werr := c.werr, wflt := c.wflt, yarn := c.yarn, pkh := c.pkh, pc := c.pc, task := some c.task,
                    tgetPc := c.tgetPc, tgetForm := c.tgetForm, tgetG14 := c.tgetG14, tgetG15 := c.tgetG15,
                    tgetEvm := c.tgetEvm, st := c.st, waitOn := c.waitOn, waitLock := c.waitLock, wdogAcc := c.wdog,
                    wdogFrom := now }
  let x := if x.tcmp ≤ now then { x with evp := x.evp ||| 8, armed := false } else { x with armed := x.tcmp ≠ tcmpNever }
  if x.st = 2 ∧ x.waitOn = 2 ∧ x.evp &&& x.evm ≠ 0 then x.wake now
  else if x.st = 2 ∧ x.waitOn = 3 ∧ bitOf x.evp 2 then { x.wake now with evp := x.evp - 4, waitLock := none }
  else x

/-- Parked contexts of a core (R423). -/
def parkedOn (s : State) (n : Nat) : Nat :=
  ((List.range 8).map fun t => (s.thread (8 * n + t)).parked.length).foldl (· + ·) 0

/-- The priority of the task that a thread runs, if it may be pre-empted for one of priority `prio` (R423). A thread that
waits on the weft is at no word boundary: the decision waits for its response (assumption 40). -/
def victimPrio (s : State) (n prio t : Nat) : Option Nat :=
  let x := s.thread (8 * n + t)
  if thrEligible s n t && decide (x.parked = []) && !holdsLock s (8 * n + t) && decide (x.st = 1 ∨ (x.st = 2 ∧ x.waitOn ≠ 4)) then
    match x.task.bind (taskOf s) with
    | some u => if u.prio < prio then some u.prio else none
    | none => none
  else none

/-- The victim: the lowest running priority, then the highest thread number (R423). -/
def victim (s : State) (n prio : Nat) : Option Nat :=
  ((List.range 8).foldl (fun b t =>
    match victimPrio s n prio t, b with
    | some p, some (_, q) => if p ≤ q then some (t, p) else b
    | some p, none => some (t, p)
    | none, _ => b) (none : Option (Nat × Nat))).map (·.1)

/-- A lookup's result arrives: LKR0, LKR1 and EVP.LKUP (13_whorl_isa_model.md R510; 15_forwarding_learning.md R561). Tables that R560
leaves unchecked have an unpredictable outcome, confined to the FWD block: its state and its answer are free. -/
def completeLookup (tid : Nat) (s : State) : State :=
  let x := s.thread tid
  match x.lookup with
  | none => s
  | some (tbl, key) =>
    let r := if tbl = 0 then lookFdb s (key.take 6) (leNat (sliceOf key 6 2) % 4096)
      else if tbl ≤ 4 then lookRoute s (tbl - 1) false (key.take 4) else lookRoute s (tbl - 5) true key
    match r with
    | .unpredictable =>
      let (l0, s) := (unpredBlock 0x300000 s).draw 34
      let (l1, s) := s.draw 34
      raiseEvent tid 1 (s.setThread tid { x with lookup := none, lkr0 := BitVec.ofNat 32 l0, lkr1 := BitVec.ofNat 32 l1 })
    | .ok l0 l1 bad =>
      raiseEvent tid 1 ((meetAll bad s).setThread tid
        { x with lookup := none, lkr0 := BitVec.ofNat 32 l0, lkr1 := BitVec.ofNat 32 l1 })

/-- LOOKUP_RESULT. -/
def execLookupResult (tid : Nat) (s : State) : Out :=
  if (s.thread tid).lookup.isNone || !s.up islTBL then stay s
  else .next (completeLookup tid s)

/-- Parks a victim's task and delivers the new one (R424). -/
def preempt (t : Task) (n thr : Nat) (s : State) : State :=
  let tid := 8 * n + thr
  let x := s.thread tid
  match x.task.bind (taskOf s) with
  | none => s
  | some u =>
    let s := traceTask 2 0 u (setTask { u with st := .parked } (s.bump R.DST_CNT_PREEMPT))
    let c := x.context (s.tnow (islWHL n)) u.id
    deliverTask t n thr (s.setThread tid { x.fresh with parked := c :: x.parked })

/-- DST dispatches: it is on and the device has not halted (R436). -/
def dstRuns (s : State) : Bool := s.up islDST && !s.halted

/-- TASK_DISPATCH: thread `thr` of core n takes the head task, idle or as the victim of R423. -/
def execTaskDispatch (n thr : Nat) (s : State) : Out :=
  if !dstRuns s || !inService s n then stay s
  else
    match headTask s n with
    | none => stay s
    | some t =>
      if thrIdle s n thr then .next (deliverTask t n thr s)
      else if !coreIdle s n && decide (parkedOn s n < 2) && decide (victim s n t.prio = some thr) then
        .next (preempt t n thr (completeLookup (8 * n + thr) s))
      else stay s

/-- TASK_STEAL: a task of yarn y has been QUEUED on one core for STEAL µs (R421). -/
def execTaskSteal (y seq : Nat) (s : State) : Out :=
  match s.dst.tasks.find? fun t => decide (t.pkt.yarn = y ∧ t.seq = seq ∧ t.st = .queued) with
  | none => stay s
  | some t =>
    if !dstRuns s || decide (s.get R.DST_AFF_STEAL = 0) || decide ((effSet s y).length ≤ 1) then stay s
    else
      match chooseCore s ((effSet s y).filter (· ≠ t.core)) with
      | none => stay s
      | some c =>
        let t := { t with core := c }
        .next (traceTask 4 0 t (setTask t s))

/-! The end of a task and the reorder engine (R417, R425 to R428). -/

/-- A thread has completed the task it ran: a QUEUED task of higher priority than the parked one runs first, else the
parked one resumes (R425). -/
def resumeParked (tid : Nat) (s : State) : State :=
  let x := s.thread tid
  match x.parked with
  | [] => s
  | c :: cs =>
    let p := match taskOf s c.task with | some t => t.prio | none => 0
    let next := (headTask s (tid / 8)).filter fun t => decide (t.prio > p) && dstRuns s && thrEligible s (tid / 8) (tid % 8)
    match next with
    | some t => deliverTask t (tid / 8) (tid % 8) (s.setThread tid x.fresh)
    | none =>
      let s := match taskOf s c.task with
        | some t => traceTask 3 0 t (setTask { t with st := .running } s)
        | none => s
      s.setThread tid { x.restore (s.tnow (islWHL (tid / 8))) c with parked := cs }

/-- The oldest task of a yarn. -/
def oldestOf (s : State) (y : Nat) : Option Task := s.dst.tasks.find? fun t => decide (t.pkt.yarn = y)

/-- The named ports of a TX that is DONE all have room; a link-down one takes its copy (R428, R306). -/
def txRoom (s : State) (t : Task) : Bool :=
  (List.range 9).all fun p => !bitOf t.mask p || !linkUp s p || egRoom s p t.pkt.qc

/-- The task leaves the table (R428). -/
def closeTask (t : Task) (s : State) : State :=
  let s := closed ⟨t.pkt.yarn, t.seq, t.disp, t.mask, t.pkt.len, t.fault⟩ (traceTask 6 (t.disp + t.mask * 4) t s)
  { s with dst.tasks := s.dst.tasks.filter fun u => decide (u.id ≠ t.id) }

/-- Places a TX frame on its ports: the sequence number of its stream is one for all of them (R428, R321). -/
def releaseTx (t : Task) (s : State) : State :=
  let (rt, s) := match t.pkt.stream with
    | some h => genSeq h s
    | none => (none, s)
  egPlaceAll t.mask t.pkt.qc
    { handle := t.pkt.handle, len := t.pkt.len, doff := t.pkt.doff, tag := t.tag, stamp := 0, rtag := rt, vid := t.pkt.vid,
      pcp := t.pkt.pcp, sender := none } s

/-- The LEADER has closed the same task as dropped after a fault (22_ply_pair.md R810). -/
def faultClosed (s : State) (t : Task) : Bool :=
  s.follower && s.ply.theirs.any fun r => decide (r.yarn = t.pkt.yarn ∧ r.seq = t.seq) && r.fault

/-- A task acts as DROP at release: disposition DROP, TX with an empty mask, HOST without HQEN (R417), or a packet whose buffer
holds an uncorrectable word (10_buffers_and_locks.md R384, 02_guarantees.md R49). -/
def actsDrop (s : State) (t : Task) : Bool :=
  faultClosed s t || (decide (t.disp ≠ 3) && mget (fun _ => false) s.bpm.marked t.pkt.handle) || decide (t.disp = 2) ||
    (decide (t.disp = 0) && decide (t.mask = 0)) || (decide (t.disp = 1) && !t.pkt.hqen)

/-- SLOT_CLOSE: the oldest task of yarn y is DONE and its release conditions hold (R427, R428, R69). -/
def execSlotClose (y : Nat) (s : State) : Out :=
  if !dstRuns s then stay s
  else
    match oldestOf s y with
    | none => stay s
    | some t =>
      if t.st ≠ .done then stay s
      else if actsDrop s t then
        let s := if t.disp = 1 then s.bump R.DST_CNT_RELDROP else s
        let s := if t.disp = 2 then s else traceTask 7 2 t s
        .next (closeTask t (freeBuf t.pkt.handle s))
      else if t.disp = 0 then (if txRoom s t then .next (closeTask t (releaseTx t s)) else stay s)
      else if t.disp = 1 then .next (closeTask t (hostDeliver t.pkt s))
      else .next (closeTask t s)

/-- Disposition DONE of a running task: frame length and offset as the slot holds them at TDONE (R417, R539). -/
def finishTask (id disp mask : Nat) (tag : Option Nat) (len doff : Nat) (s : State) : State :=
  match taskOf s id with
  | none => s
  | some t =>
    let t := { t with st := .done, disp := disp, mask := mask, tag := tag, pkt := { t.pkt with len := len, doff := doff } }
    let s := traceTask 5 (disp + mask * 4) t (setTask t s)
    if disp = 2 then traceTask 7 2 t s else s

/-! Core removal (R433, R434) and configuration (R444, R445). -/

/-- A QUEUED task of a core that leaves moves to another core of its yarn's set; with none it is dropped (assumption 41). -/
def remapTask (s : State) (t : Task) : State :=
  match chooseCore s (effSet s t.pkt.yarn) with
  | some c =>
    let t := { t with core := c }
    traceTask 8 0 t (setTask t s)
  | none => loseTask 1 t.id s

/-- DST's steps for the cores `ns`, which have left service (R433). -/
def dstCoresLeave (ns : List Nat) (s : State) : State :=
  let s := ns.foldl (fun s n => (List.range 8).foldl (fun s t => loseTasks 1 (8 * n + t) s) s) s
  let s := (s.dst.tasks.filter fun t => decide (t.st = .queued) && ns.contains t.core).foldl remapTask s
  let s := { s with dst.last := s.dst.last.filter fun e => !ns.contains e.2 }
  cause R.DST_NSTAT_REMAP 68 s

/-- A write of DST_YCFG (R444). -/
def ycfgWrite (y : Nat) (v : Word) (s : State) : State := s.wr (R.DST_YCFG y) (inForce (R.DST_YCFG y) v &&& 0x71FF)

def execYarnLimitWrite (a : Agent) (y : Nat) (v : Word) (s : State) : Out :=
  if decide (y ≥ 4096) then stay s else access a (R.DST_YCFG y) v (fun s => .next (ycfgWrite y v s)) s

/-- A write of DST_YMASK_HI with the low half that is held: the mask of DST_YSEL's yarn (R445). -/
def ymaskWrite (lo hi : Word) (s : State) : State :=
  { s with dst.mask := mput (fun _ => 0) s.dst.mask (s.get R.DST_YSEL_YARN) (lo.toNat + hi.toNat % 65536 * 2 ^ 32) }

/-- The low word of DST_YMASK in force: that of the yarn that DST_YSEL selects. -/
def ymaskLo (s : State) : Word := BitVec.ofNat 32 (yarnMask s (s.get R.DST_YSEL_YARN))

def execYarnMaskWrite (a : Agent) (v : Word) (s : State) : Out :=
  access a R.DST_YMASK_HI v (fun s => .next (pairWrite a R.DST_YMASK_LO (ymaskLo s) (fun lo => ymaskWrite lo v) s)) s

end Sys2Proof.Machine
end

