-- ==== Sys2Proof/Machine/Thm.lean ====
section
/-!
DEFINITION. Thermal zones, the sensor bus and the fans (21_thermal_fans.md R763 to R785).
-/
namespace Sys2Proof.Machine

/-! Readings (R763 to R766, R771, R773). -/

/-- The hottest code, 200 degrees (R764). -/
abbrev hottest : Int := 3200

def clipTemp (t : Int) : Int := if t > hottest then hottest else if t < -1024 then -1024 else t

/-- The series of atanh in units of 2^-64, from the highest of its 40 terms. -/
def atanhFx (y : Nat) : Nat :=
  (List.range 40).foldl (fun acc i => 2 ^ 64 / (2 * (40 - i) - 1) + y * y / 2 ^ 64 * acc / 2 ^ 64) 0 * y / 2 ^ 64

abbrev ln2Fx : Nat := 12786308645202655660

/-- The natural logarithm of num / den in units of 2^-64, both positive. -/
def lnFx (num den : Nat) : Int :=
  let a := Nat.log2 num
  let b := Nat.log2 den
  let (n, d) := (num * 2 ^ b, den * 2 ^ a)
  let k : Int := (a : Int) - b
  let part (n d : Nat) : Int := 2 * (atanhFx ((n - d) * 2 ^ 64 / (n + d)) : Int)
  if n ≥ d then k * ln2Fx + part n d else k * ln2Fx - part d n

/-- The NTC formula of R765 in units of 1/16 degree, rounded to the nearest; none where it gives no temperature. -/
def ntcTemp (code rpu r25 beta : Nat) : Option Int :=
  if rpu = 0 ∨ r25 = 0 ∨ code = 0 ∨ code ≥ 4096 then none
  else
    let inv : Int := 2 ^ 64 * 100 / 29815 + lnFx (rpu * code) ((4096 - code) * r25) / (max beta 1 : Nat)
    if inv ≤ 0 then none
    else some ((2 ^ 64 * 32 * 100 / inv - 27315 * 32 + 100) / 200)

def zoneHasDie (z : Nat) : Bool := decide (z < 4)

def zoneOn (s : State) (z : Nat) : Bool := decide (z < 12) && (decide (z < 4) || s.flag (R.THM_ZCFG_EN z))

/-- A curve point's temperature in units of 1/16 degree, made rising (R772). -/
def zoneT (s : State) (z : Nat) : Nat → Int
  | 0 => sgn 8 (s.get (R.THM_ZPT_TEMP z 0)) * 16
  | k + 1 => max (sgn 8 (s.get (R.THM_ZPT_TEMP z (k + 1))) * 16) (zoneT s z k)

def zoneDuty (s : State) (z k : Nat) : Nat := min 1000 (s.get (R.THM_ZPT_DUTY z k))

/-- The demand of a zone at reading t (R772). -/
def demandAt (s : State) (z : Nat) (t : Int) : Nat :=
  if t ≤ zoneT s z 0 then zoneDuty s z 0
  else
    match [0, 1, 2].find? fun k => decide (zoneT s z k < t ∧ t ≤ zoneT s z (k + 1)) with
    | some k =>
      let a : Int := zoneDuty s z k
      let b : Int := zoneDuty s z (k + 1)
      (a + (b - a) * (t - zoneT s z k) / (zoneT s z (k + 1) - zoneT s z k)).toNat
    | none => zoneDuty s z 3

def zoneReading (s : State) (z : Nat) : Int := sgn 16 (s.get (R.THM_ZREAD_T z))

/-- Puts a reading in place; rising above T'3 is a crossing (R764, R773). -/
def putReading (z : Nat) (t : Int) (s : State) : State :=
  let was := zoneReading s z
  let s := s.set (R.THM_ZREAD_T z) (unsgn 16 t)
  if was ≤ zoneT s z 3 ∧ zoneT s z 3 < t then cause ⟨R.THM_NSTAT, z, 1⟩ 28 s else s

def cntOf (m : SMap Nat) (z : Nat) : Nat := mget (fun _ => 0) m z

/-- The zone reads the hottest code from now on (R771). -/
def zoneFault (z : Nat) (s : State) : State :=
  if s.flag (R.THM_ZREAD_FAULT z) then s
  else
    let s := putReading z hottest (s.set (R.THM_ZREAD_FAULT z) 1)
    cause ⟨R.THM_NSTAT, 12 + z, 1⟩ 29 s

/-- One reading of a zone: a temperature, or a bad one (R771). -/
def zoneUpdate (z : Nat) (r : Option Int) (s : State) : State :=
  let s := s.set (R.THM_ZREAD_SEQ z) (s.get (R.THM_ZREAD_SEQ z) + 1)
  match r with
  | none =>
    let n := cntOf s.thm.bad z + 1
    let s := { s with thm.bad := mput (fun _ => 0) s.thm.bad z n, thm.good := mput (fun _ => 0) s.thm.good z 0 }
    if n ≥ 3 then zoneFault z s else s
  | some t =>
    let n := cntOf s.thm.good z + 1
    let s := { s with thm.good := mput (fun _ => 0) s.thm.good z n, thm.bad := mput (fun _ => 0) s.thm.bad z 0 }
    if s.flag (R.THM_ZREAD_FAULT z) && decide (n < 3) then s
    else putReading z (clipTemp t) (s.set (R.THM_ZREAD_FAULT z) 0)

/-- An NTC conversion: open and shorted codes count as bad; a formula without a result gives an open value (R765, R766). -/
def ntcReading (z code : Nat) (s : State) : State :=
  let k := z - 4
  let s := s.set (R.THM_NTC_CODE_CODE k) code
  if code ≥ 4064 ∨ code ≤ 32 then zoneUpdate z none s
  else
    match ntcTemp code (s.get (R.THM_NTC_R_RPU k)) (s.get (R.THM_NTC_R_R25 k)) (s.get (R.THM_NTC_B_BETA k)) with
    | some t => zoneUpdate z (some t) s
    | none =>
      let (v, s) := s.draw 13
      zoneUpdate z (some (sgn 16 v)) s

/-- ZONE_READING (R764 to R766, R771, R773). -/
def execZoneReading (z : Nat) (raw : ZoneRaw) (s : State) : Out :=
  if s.sys.resetting || decide (z ≥ 8) || !zoneOn s z then stay s
  else
    match raw with
    | .die t => if z < 4 then .next (zoneUpdate z (some t) s) else stay s
    | .ntc code => if z < 4 then stay s else .next (ntcReading z (code % 4096) s)
    | .failed => .next (zoneUpdate z none s)

/-! The sensor bus (R767 to R770). -/

/-- The SMBus PEC: CRC-8 with polynomial x^8 + x^2 + x + 1. -/
def pecByte (c : Nat) (b : Byte) : Nat :=
  (List.range 8).foldl (fun c _ => if c ≥ 128 then (c * 2 % 256) ^^^ 7 else c * 2) (c ^^^ b.toNat)

def pec (bs : List Byte) : Nat := bs.foldl pecByte 0

/-- The temperature that a read's bytes give, if they are acceptable (R767, R768). -/
def sbusDecode (s : State) (z : Nat) (bs : List Byte) : Option Int :=
  let adr := s.get (R.THM_ZCFG_ADDR z)
  let pecOn := s.flag R.THM_SBUS_CFG_PEC
  let head : List Byte := [BitVec.ofNat 8 (2 * adr), BitVec.ofNat 8 (s.get (R.THM_ZCFG_REG z)), BitVec.ofNat 8 (2 * adr + 1)]
  match bs with
  | b0 :: b1 :: rest =>
    if pecOn && decide (rest.map (·.toNat) ≠ [pec (head ++ [b0, b1])]) then none
    else if s.flag (R.THM_ZCFG_FMT z) then some (sgn 8 b0.toNat * 16)
    else some ((sgn 16 (b0.toNat * 256 + b1.toNat) + 8) / 16)
  | _ => none

/-- SBUS_READ: the bytes read, or none where a byte was not acknowledged or SCL stayed low (R767, R768, R771). -/
def execSbusRead (z : Nat) (data : Option (List Byte)) (s : State) : Out :=
  if s.sys.resetting || decide (z < 8 ∨ 12 ≤ z) || !zoneOn s z || s.flag R.THM_SBUS_STAT_FAILED then stay s
  else
    match data.bind (sbusDecode s z) with
    | some t =>
      .next (zoneUpdate z (some t) { s with thm.sbusFails := mput (fun _ => 0) s.thm.sbusFails z 0 })
    | none => .next (zoneUpdate z none { s with thm.sbusFails := mput (fun _ => 0) s.thm.sbusFails z (cntOf s.thm.sbusFails z + 1) })

/-- The bus is declared failed: every enabled SBUS zone is a failed sensor (R770). -/
def busFail (s : State) : State :=
  let s := cause R.THM_NSTAT_BUSFAIL 31 (s.set R.THM_SBUS_STAT_FAILED 1)
  ((List.range 4).map (8 + ·)).foldl (fun s z => if zoneOn s z then zoneFault z s else s) s

/-- SBUS_RECOVERY: SDA reads high after at most nine clocks, or the recovery fails (R769, R770). -/
def execSbusRecovery (ok : Bool) (s : State) : Out :=
  if s.sys.resetting || s.flag R.THM_SBUS_STAT_FAILED then stay s
  else
    let s := s.set R.THM_SBUS_STAT_RECOV (satAdd 255 (s.get R.THM_SBUS_STAT_RECOV) 1)
    let s := cause R.THM_NSTAT_RECOVER 31 s
    if ok then .next s
    else
      let fs := (s.thm.recovFails.filter fun t => decide (s.now - t ≤ 100000000)) ++ [s.now]
      if fs.length ≥ 3 then .next (busFail { s with thm.recovFails := [] }) else .next { s with thm.recovFails := fs }

/-- A write of THM_SBUS_CMD (R770, R783). -/
def sbusCmd (a : Agent) (v : Word) (s : State) : State :=
  if isHost a && decide (wget v 24 8 = 0x5A) && s.flag R.THM_SBUS_STAT_FAILED then
    { (s.set R.THM_SBUS_STAT_FAILED 0) with thm.recovFails := [] }
  else s

/-- SBUS_RESTART. -/
def execSbusRestart (a : Agent) (v : Word) (s : State) : Out := access a R.THM_SBUS_CMD v (fun s => .next (sbusCmd a v s)) s

/-! Fans (R774 to R781). -/

def State.fan (s : State) (f : Nat) : Fan := mget (fun _ => Fan.reset) s.thm.fans f

def State.setFan (s : State) (f : Nat) (x : Fan) : State :=
  { s with thm.fans := mput (fun _ => Fan.reset) s.thm.fans f x }

def minDuty (s : State) : Nat := min 1000 (s.get R.THM_FUSE_MINDUTY)

/-- ZONE-MAX: the largest demand among the enabled zones of ZMASK, and the zone that gives it (R776). -/
def zoneMax (s : State) (f : Nat) : Nat × Nat :=
  let zs := (List.range 12).filter fun z => zoneOn s z && bitOf (s.get (R.THM_FAN_CFG_ZMASK f)) z
  zs.foldl (fun b z => let d := demandAt s z (zoneReading s z); if d > b.1 then (d, z) else b)
    (0, zs.headD 0)

/-- RPM from the tach interval in µs; 0 where no edge has come within the stall time (R778, R781). -/
def fanRpm (s : State) (f t : Nat) : Nat :=
  if !s.flag (R.THM_FAN_CFG_TACHEN f) || decide (t = 0) then 0
  else 60000000 / ((s.get (R.THM_FAN_CFG_PULSES f) + 1) * t)

/-- One step of the proportional-integral loop (R777). -/
def fanLoop (s : State) (f rpm : Nat) (x : Fan) : Fan :=
  let e : Int := (s.get (R.THM_FAN_TGT_TARGET f) : Int) - rpm
  let x := if x.loop then x else { x with loop := true, u := s.get (R.THM_FAN_STAT_DUTY f) * 1024, e := e }
  let u := x.u + s.get (R.THM_FAN_GAIN_KP f) * (e - x.e) + s.get (R.THM_FAN_GAIN_KI f) * e
  let lo : Int := minDuty s * 1024
  { x with u := if u > 1024000 then 1024000 else if u < lo then lo else u, e := e }

/-- One fan's update with its tach interval (R775 to R781). -/
def fanUpdate (f t : Nat) (s : State) : State :=
  let rpm := fanRpm s f t
  let (shown, s) := if rpm ≤ 65535 then (rpm, s) else s.draw 14
  let s := s.set (R.THM_FAN_RPM_RPM f) shown
  let x := s.fan f
  if s.flag (R.THM_FAN_STAT_STALL f) then
    let n := if rpm ≥ s.get (R.THM_FAN_MINRPM_MINRPM f) then x.good + 1 else 0
    if n ≥ 10 then
      ((s.set (R.THM_FAN_STAT_STALL f) 0).set (R.THM_FAN_STAT_DUTY f) 1000).setFan f { x with good := 0, loop := false }
    else (s.set (R.THM_FAN_STAT_DUTY f) 1000).setFan f { x with good := n }
  else
    let (d, z) := zoneMax s f
    let s := s.set (R.THM_FAN_STAT_ZONE f) z
    if s.flag (R.THM_FAN_CFG_MODE f) && s.flag (R.THM_FAN_CFG_TACHEN f) then
      let x := fanLoop s f rpm x
      (s.setFan f x).set (R.THM_FAN_STAT_DUTY f) (max (minDuty s) (max (x.u.toNat / 1024) d))
    else (s.setFan f { x with loop := false }).set (R.THM_FAN_STAT_DUTY f) (max (minDuty s) d)

/-- FAN_UPDATE: every fan, with the µs between its last two falling tach edges (0: none within the stall time). -/
def execFanUpdate (tach : List Nat) (s : State) : Out :=
  if s.sys.resetting then stay s
  else .next ((List.range 4).foldl (fun s f => fanUpdate f (tach.getD f 0) s) s)

/-- FAN_STALL: no falling edge for STO, or for 1 s, from 2 s after Stage 0 entry on (R779, R781; assumption 168). -/
def execFanStall (f : Nat) (s : State) : Out :=
  if s.sys.resetting || decide (f ≥ 4) || decide (s.now < 2000000000) || !s.flag (R.THM_FAN_CFG_TACHEN f) || s.flag (R.THM_FAN_STAT_STALL f) then stay s
  else
    let s := ((s.set (R.THM_FAN_STAT_STALL f) 1).set (R.THM_FAN_STAT_DUTY f) 1000).set (R.THM_FAN_RPM_RPM f) 0
    .next (cause ⟨R.THM_NSTAT, 24 + f, 1⟩ 30 (s.setFan f { s.fan f with good := 0, loop := false }))

/-- A write of THM_ZCFG: Z0 to Z3 stay enabled; a disabled zone reads 0, and an SBUS zone enabled on a failed bus is a failed sensor
(R763, R764, R770). -/
def zcfgWrite (z : Nat) (v : Word) (s : State) : State :=
  let v := if z < 4 then v ||| 1 else v
  let s := s.wr (R.THM_ZCFG z) (v &&& 0x1FFFF)
  if v.getLsbD 0 then (if 8 ≤ z ∧ z < 12 ∧ s.flag R.THM_SBUS_STAT_FAILED = true then zoneFault z s else s)
  else
    let s := s.wr (R.THM_ZREAD z) 0
    { s with thm.bad := mput (fun _ => 0) s.thm.bad z 0, thm.good := mput (fun _ => 0) s.thm.good z 0 }

end Sys2Proof.Machine
end

