-- ==== Sys2Proof/Machine/Evt.lean ====
section
/-!
DEFINITION. The event router: levels, reads that re-arm, software notices, route writes, and MSI-X messages that wait
(17_notices_interrupts.md R629 to R648).
-/
namespace Sys2Proof.Machine

/-! Levels (R631; 19_power_stage_protection.md R726, R727). -/

/-- Enabled causes of an NSTAT register under a mask; its NEN register follows it. -/
def lvlBits (s : State) (o mask : Nat) : Bool := decide (s.rd o &&& s.rd (o + 4) &&& BitVec.ofNat 32 mask ≠ 0)

/-- Enabled causes with a live level: field widths of one bit, the live levels as a mask. -/
def lvlLive (s : State) (nen lo live : Nat) : Bool := decide ((s.rd nen).toNat / 2 ^ lo &&& live ≠ 0)

/-- One bit for each pool, from a field of BPM_POOL_STAT. -/
def poolBits (s : State) (f : Nat → Fld) : Nat := (List.range 8).foldl (fun a i => a + b2n (s.flag (f i)) * 2 ^ i) 0

/-- The latest battery reading is below SUP_VDIP.MV. -/
def dipLevel (s : State) : Bool := s.pws.seen && decide (s.get R.SUP_VBAT_MV < s.get R.SUP_VDIP_MV)

/-- One of a block's per-panel or per-channel NSTAT registers. -/
def anyOf (n : Nat) (f : Nat → Bool) : Bool := (List.range n).any f

/-- Live states behind N05: rails below their minimum for which LOW is reported, and the early warning (26_signals_package_electrical.md R915,
R917). -/
def railLevels (s : State) : Nat :=
  let removed := if s.pstate = 5 then 0xFC19 else 0
  (List.range 16).foldl (fun a i =>
    a + b2n (!bitOf (s.rd R.SUP_RAIL).toNat i && bitOf s.sys.railSeen i && !bitOf removed i) * 2 ^ i)
    (s.get R.SUP_EWSTAT_EW * 2 ^ 16)

/-! Live states behind causes (assumption 133). -/

/-- Bit z: zone z works and its reading is above T'3 (21_thermal_fans.md R773). -/
def hotZones (s : State) : Nat :=
  (List.range 12).foldl (fun a z => a + b2n (zoneOn s z && decide (zoneReading s z > zoneT s z 3)) * 2 ^ z) 0

/-- Bit z: THM_ZREAD[z].FAULT (21_thermal_fans.md R771). -/
def faultZones (s : State) : Nat := (List.range 12).foldl (fun a z => a + s.get (R.THM_ZREAD_FAULT z) * 2 ^ z) 0

/-- A yarn is at its LIMIT (11_distaff_and_yarns.md R408, R443). -/
def anyBound (s : State) : Bool := s.dst.tasks.any fun t => decide (inflight s t.pkt.yarn = yarnLimit s t.pkt.yarn)

/-- Bit c: channel c conceals; bit 16: some channel's ring is overrun (18_audio_path.md R660, R663). -/
def channelLevels (s : State) : Nat :=
  (List.range 16).foldl (fun a c => a + s.get (R.AUD_CH_STAT_CONC c) * 2 ^ c) 0 +
    b2n (anyOf 16 fun c => s.flag (R.AUD_CH_STAT_OVR c)) * 2 ^ 16

/-- A core is short of idle cycles (23_in_service_test.md R827). -/
def anyShort (s : State) : Bool := decide (s.rd R.IST_SHORT_LO ≠ 0) || decide (s.rd R.IST_SHORT_HI ≠ 0)

/-- The level of a source whose island has power (R629, R631). Sources without a cause register read 0; N06 shows
SYS_RSTCAUSE (assumption 76). -/
def rawLevel (s : State) (n : Nat) : Bool :=
  if n = 0 then lvlBits s R.SYS_NSTAT 0x1F
  else if n = 1 then s.flag ⟨R.SUP_VNSTAT + 4, 0, 1⟩ && dipLevel s
  else if n = 2 then s.flag ⟨R.SUP_VNSTAT + 4, 1, 1⟩ && s.pws.hold
  else if n = 3 then lvlBits s R.SYS_PNSTAT 3
  else if n = 4 then lvlBits s R.CLK_NSTAT 0x7F
  else if n = 5 then lvlLive s R.SUP_NEN 0 (railLevels s)
  else if n = 6 then decide (s.rd R.SYS_RSTCAUSE ≠ 0)
  else if n = 7 then false
  else if n < 24 then lvlBits s (R.PWS_CH_NSTAT (n - 8)) 3
  else if n < 28 then lvlBits s R.CAL_NSTAT (2 ^ (n - 24))
  else if n = 28 then lvlLive s (R.THM_NSTAT + 4) 0 (hotZones s)
  else if n = 29 then lvlLive s (R.THM_NSTAT + 4) 12 (faultZones s)
  else if n = 30 then lvlBits s R.THM_NSTAT 0xF000000
  else if n = 31 then lvlBits s R.THM_NSTAT 0x30000000
  else if n = 32 then lvlBits s R.PLY_NSTAT 3
  else if n = 33 then lvlBits s R.PLY_NSTAT 0xC
  else if n = 34 then lvlBits s R.PLY_NSTAT 0x70
  else if n = 35 then lvlBits s R.PLY_NSTAT 0x180
  else if n = 36 then lvlBits s R.IST_NSTAT 0x45 || lvlLive s (R.IST_NSTAT + 4) 1 (b2n (anyShort s))
  else if n = 37 then lvlBits s R.IST_NSTAT 8
  else if n = 38 then lvlBits s R.IST_NSTAT 0x10
  else if n = 39 then lvlBits s R.IST_NSTAT 0x20
  else if n = 40 then lvlBits s R.JRN_NSTAT 3
  else if n = 41 then lvlBits s R.JRN_NSTAT 0xC
  else if n < 44 then lvlBits s R.VNR_NSTAT (2 ^ (n - 42))
  else if n = 44 then anyOf 8 fun p => s.powered (islMQY p) && lvlBits s (R.MQY_NSTAT p) 1
  else if n = 45 then anyOf 8 fun p => s.powered (islMQY p) && lvlBits s (R.MQY_NSTAT p) 2
  else if n = 46 then anyOf 8 fun p => s.powered (islMQY p) && lvlBits s (R.MQY_NSTAT p) 0x1C
  else if n = 47 then anyOf 8 fun p => s.powered (islMQY p) && lvlBits s (R.MQY_NSTAT p) 0x20
  else if n < 56 then lvlBits s R.PRT_NSTAT (2 ^ (n - 48))
  else if n = 56 then lvlBits s R.PRS_NSTAT 3
  else if n = 57 then lvlBits s R.PRS_NSTAT 0x1C
  else if n < 62 then lvlBits s R.FWD_NSTAT (2 ^ (n - 58))
  else if n = 62 then lvlLive s (R.BPM_NSTAT + 4) 0 (poolBits s R.BPM_POOL_STAT_LOWLVL)
  else if n = 63 then lvlLive s (R.BPM_NSTAT + 4) 8 (poolBits s R.BPM_POOL_STAT_HIGHLVL)
  else if n = 64 then lvlBits s R.BPM_NSTAT 0xFF0000
  else if n = 65 then lvlBits s R.BPM_NSTAT 0x3000000 || lvlLive s (R.BPM_NSTAT + 4) 26 (b2n (poolBits s R.BPM_POOL_STAT_SHORT ≠ 0))
  else if n = 66 then lvlBits s R.LCK_NSTAT 7
  else if n = 67 then lvlBits s R.DST_NSTAT 1
  else if n = 68 then lvlBits s R.DST_NSTAT 0x18 || lvlLive s (R.DST_NSTAT + 4) 1 (b2n (decide (s.dst.tasks.length = 8192)) + 2 * b2n (anyBound s))
  else if n = 69 then lvlBits s (R.WHL_NSTAT 0) 1
  else if n = 70 then lvlBits s (R.WHL_NSTAT 0) 6
  else if n = 71 then s.halted
  else if n < 80 then false
  else if n = 80 then lvlLive s (R.AUD_NSTAT + 4) 0 (channelLevels s)
  else if n = 81 then lvlBits s R.AUD_NSTAT 0xE0000
  else if n = 82 then lvlBits s R.AUD_NSTAT 0xF00000
  else if n = 83 then lvlBits s R.SAFE_NSTAT 0x1F
  else if n = 84 then lvlBits s R.DGN_NSTAT 0xF
  else if n = 85 then lvlBits s R.DGN_NSTAT 0x3F0
  else if n = 86 then lvlBits s R.DGN_NSTAT 0xC00
  else if n = 87 then lvlBits s R.DGN_NSTAT 0xF000
  else false

/-- The island that owns a source. -/
def sourceIsland (n : Nat) : Nat :=
  if n < 8 then islAO
  else if n < 24 then islPWS
  else if n < 28 then islAUD
  else if n < 32 then islAO
  else if n < 36 then islPLY
  else if n < 40 then islIST
  else if n < 42 then islJRN
  else if n < 44 then islHIF
  else if n < 48 then islAO
  else if n < 56 then islPRT
  else if n < 58 then islPRS
  else if n < 62 then islTBL
  else if n < 67 then islBPM
  else if n < 69 then islDST
  else if n < 72 then islAO
  else if n < 80 then islHIF
  else if n < 83 then islAUD
  else if n < 88 then islSAFE
  else islHIF

/-- The level bit of a source: 0 while its island is off. -/
def levelOf (s : State) (n : Nat) : Bool := s.up (sourceIsland n) && rawLevel s n

/-! Reads (R634). -/

/-- A read of EVT_SRC[n]: sticky and level; the sticky bit clears. -/
def srcRead (n : Nat) (s : State) : Word × State :=
  (BitVec.ofNat 32 (s.get (stickyFld n) + 2 * b2n (levelOf s n)), s.set (stickyFld n) 0)

/-- NOTICE_SOURCE_READ. -/
def execNoticeSourceRead (a : Agent) (n : Nat) (s : State) : Out :=
  if decide (n ≥ 96) then stay s else readRow a (R.EVT_SRC n) (srcRead n) s

/-! Writes (R630, R636 to R638). -/

/-- A write of EVT_SWRAISE: bit k crosses N88 + k. -/
def swRaise (v : Word) (s : State) : Out :=
  if v &&& 0xFFFFFF00#32 ≠ 0 then .next (unpredBlock R.EVT_SWRAISE s)
  else .next ((List.range 8).foldl (fun s k => if v.getLsbD k then crossing (88 + k) s else s) s)

/-- SOFTWARE_RAISE. -/
def execSoftwareRaise (a : Agent) (v : Word) (s : State) : Out := access a R.EVT_SWRAISE v (swRaise v) s

/-- A destination R637 and R649 allow: the fields a KIND does not use are ignored. -/
def routeAllowed (v : Word) : Bool :=
  match wget v 1 2 with
  | 0 => decide (wget v 8 7 < 96)
  | 1 => decide (wget v 16 6 < 48)
  | k => decide (k = 2)

/-- A write of EVT_ROUTE[n]; a reserved bit or encoding is the outcome of 00_scope.md R25 and R26. -/
def routeWrite (n : Nat) (v : Word) (s : State) : Out :=
  if v &&& ~~~0x773F7F07#32 ≠ 0 || !routeAllowed v then .next (unpredBlock (R.EVT_ROUTE n) s)
  else
    let was := s.flag (R.EVT_ROUTE_EN n)
    let s := s.wr (R.EVT_ROUTE n) v
    .next (if !was && v.getLsbD 0 && s.flag (stickyFld n) then deliver n s else s)

/-- ROUTE_ENABLE_WRITE. -/
def execRouteEnableWrite (a : Agent) (n : Nat) (v : Word) (s : State) : Out :=
  if decide (n ≥ 96) then stay s else access a (R.EVT_ROUTE n) v (routeWrite n v) s

/-! MSI-X (R640; 16_host_interface_rings.md R581, R584). -/

/-- Sends the message of every pending vector that nothing holds back. -/
def msixFlush (s : State) : State :=
  (List.range 96).foldl (fun s v =>
    if mget (fun _ => false) s.evt.pba v && !s.vecMasked v && s.busMaster && s.hif.msixEn then
      { s with evt.pba := mput (fun _ => false) s.evt.pba v false, evt.sent := s.evt.sent ++ [v] }
    else s) s

/-- MSIX_UNMASK: a vector's mask clears, its table entry holding an address and data; or with no vector the function's mask
clears and MSI-X Enable is 1. -/
def execMsixUnmask (vec : Option Nat) (addr data : Nat) (s : State) : Out :=
  if !s.up islHIF || !s.hostPcie || !s.flag R.HIF_STAT_LINKUP || s.hif.d3hot then stay s
  else
    match vec with
    | none => .next (msixFlush { s with hif.fmask := false, hif.msixEn := true })
    | some v =>
      if v ≥ 96 then stay s
      else
        let t := [(0, addr), (1, addr / 2 ^ 32), (2, data)].foldl
          (fun (m : SMap Word) w => mput (fun _ => 0) m (4 * v + w.1) (BitVec.ofNat 32 w.2)) s.hif.vtab
        .next (msixFlush { s with hif.vtab := t, hif.vmask := mput (fun _ => true) s.hif.vmask v false })

end Sys2Proof.Machine
end

