-- ==== Sys2Proof/Machine/Cal.lean ====
section
/-!
DEFINITION. Live calibration: the pilot, sense inputs, correlator windows, speaker detection and offset trims
(20_live_calibration.md R738 to R762, R942).
-/
namespace Sys2Proof.Machine

def State.cch (s : State) (c : Nat) : CalCh := mget (fun _ => CalCh.reset) s.cal.ch c

def State.setCch (s : State) (c : Nat) (x : CalCh) : State :=
  { s with cal.ch := mput (fun _ => CalCh.reset) s.cal.ch c x }

/-! The pilot sequence (R738, R942). -/

/-- Channel c's chip at the sample whose step starts from the common register `v`: true for +1 (R942). -/
def pilotChip (v c : Nat) : Bool := bitOf (pilotRegister v c) 0

/-! Driven channels and windows (R743, R744). -/

/-- A channel's output carries AUD edge words with the pilot: row 5 of R704 with source AUD; on a strand that does not own
the gates, the owner's words, which are its own in lockstep. -/
def driven (s : State) (c : Nat) : Bool :=
  decide (srcOf s c = 2) && decide (s.pstate ≠ 3) &&
    (decide ((s.pch c).drive = 2) ||
      (!s.flag R.PWS_STAT_OWNER && decide (s.get R.SYS_STRAP_PLYROLE ≠ 0) && active s c && !latched s c && !s.pws.hold
        && !s.aoDisabled))

/-- A window of the channel starts at this internal sample (R743). -/
def windowStarts (n c : Nat) : Bool := decide (n ≥ 24000 * c) && decide ((n - 24000 * c) % 384000 = 0)

/-- The window boundary: the window that ends awaits its results, and a new one opens (R743, R746). -/
def windowBoundary (c : Nat) (s : State) : State :=
  let x := s.cch c
  if windowStarts s.aud.samples c then
    s.setCch c { x with ended := x.open_ || x.ended, open_ := s.flag R.CAL_CTL_EN, bad := false }
  else s

/-- Abandons the window in progress where this sample forbids it (R744). -/
def windowCheck (c : Nat) (clipped : Bool) (s : State) : State :=
  let x := s.cch c
  if x.open_ && (x.bad || clipped || !driven s c || !s.flag ⟨R.CAL_CTL, c, 1⟩ || s.flag (R.CAL_CH_STAT_SENSEFAIL c)) then
    (s.setCch c { x with open_ := false, bad := false }).bump (R.CAL_CH_ABANDON c)
  else s

/-! Sense samples (R740 to R742). -/

/-- The top 16 bits of a corrected 24-bit sample; a value that the subtraction takes out of range is open. -/
def senseTop (raw ofs : Int) (s : State) : Nat × State :=
  let v := (raw - ofs * 256) / 256
  if -32768 ≤ v ∧ v < 32768 then (unsgn 16 v, s)
  else
    let (d, s) := s.draw 11
    (d % 2 ^ 16, s)

/-- A decimated sample at full scale carries 64 identical bits. -/
def senseFull (raw : Int) : Bool := decide (raw ≥ 2 ^ 23 - 1) || decide (raw ≤ -(2 ^ 23))

/-- The channel's pair of decimated samples (R741, R742). -/
def senseSample (c : Nat) (i v : Int) (s : State) : State :=
  let (ti, s) := senseTop i (sgn 16 (s.get (R.CAL_CH_OFS_I c))) s
  let (tv, s) := senseTop v (sgn 16 (s.get (R.CAL_CH_OFS_V c))) s
  let s := s.wr (R.CAL_CH_LIVE c) (BitVec.ofNat 32 (ti + tv * 2 ^ 16))
  let x := s.cch c
  let x := { x with stuckI := x.stuckI && senseFull i, stuckV := x.stuckV && senseFull v }
  (s.setCch c x).set (R.CAL_CH_STAT_SENSEFAIL c) (b2n (x.stuckI || x.stuckV))

/-! Trims (R753 to R757). -/

/-- One internal sample of the trim state, with the uncorrected pair (R754 to R756). -/
def trimSample (c : Nat) (raw : Option (Int × Int)) (s : State) : State :=
  let x := s.cch c
  let quiet := driven s c && decide ((s.ach c).st3 = 0)
  match s.get (R.CAL_CH_STAT_TRIM c) with
  | 1 => s.setCch c { x with silent := if quiet then x.silent + 1 else 0 }
  | 2 =>
    if !quiet then (s.setCch c { x with silent := 0, n := 0, sumI := 0, sumV := 0 }).set (R.CAL_CH_STAT_TRIM c) 1
    else
      match raw with
      | none => s
      | some (i, v) =>
        if x.n < 3840 then s.setCch c { x with n := x.n + 1, sumI := x.sumI + i, sumV := x.sumV + v } else s
  | _ => s

/-- TRIM_REQUEST or TRIM_CANCEL for one channel (R753). -/
def trimOne (v : Word) (s : State) (c : Nat) : State :=
  let t := s.get (R.CAL_CH_STAT_TRIM c)
  let x := s.cch c
  let dl := decide (wget v 16 8 ≠ 0)
  if wget v 24 8 = 0x5A then
    if t = 1 ∨ t = 2 then s.setCch c { x with deadline := dl }
    else (s.setCch c { x with deadline := dl, silent := 0, n := 0, sumI := 0, sumV := 0 }).set (R.CAL_CH_STAT_TRIM c) 1
  else if wget v 24 8 = 0xC5 then
    if t = 1 ∨ t = 2 then (s.setCch c { x with deadline := false }).set (R.CAL_CH_STAT_TRIM c) 5 else s
  else s

/-- A write of CAL_TRIM (R753, R758). -/
def trimWrite (a : Agent) (v : Word) (s : State) : State :=
  if !isHost a then s else ((List.range 16).filter fun c => v.getLsbD c).foldl (trimOne v) s

/-- TRIM_REQUEST: KEY is 0x5A. -/
def execTrimRequest (a : Agent) (v : Word) (s : State) : Out :=
  if decide (wget v 24 8 ≠ 0x5A) then stay s else access a R.CAL_TRIM v (fun s => .next (trimWrite a v s)) s

/-- TRIM_CANCEL: KEY is 0xC5. -/
def execTrimCancel (a : Agent) (v : Word) (s : State) : Out :=
  if decide (wget v 24 8 ≠ 0xC5) then stay s else access a R.CAL_TRIM v (fun s => .next (trimWrite a v s)) s

/-- TRIM_START: a pending channel has been driven and silent for 9,600 samples (R754). -/
def execTrimStart (c : Nat) (s : State) : Out :=
  let x := s.cch c
  if !audRuns s || decide (c ≥ 16) || decide (s.get (R.CAL_CH_STAT_TRIM c) ≠ 1) || decide (x.silent < 9600) then stay s
  else .next ((s.setCch c { x with n := 0, sumI := 0, sumV := 0 }).set (R.CAL_CH_STAT_TRIM c) 2)

/-- A 16-bit code held to its range. -/
def sat16 (v : Int) : Nat := unsgn 16 (if v > 32767 then 32767 else if v < -32768 then -32768 else v)

/-- TRIM_DONE: the means become the offsets (R755). -/
def execTrimDone (c : Nat) (s : State) : Out :=
  let x := s.cch c
  if !audRuns s || decide (c ≥ 16) || decide (s.get (R.CAL_CH_STAT_TRIM c) ≠ 2) || decide (x.n < 3840) then stay s
  else
    let old := s.rd (R.CAL_CH_OFS c)
    let s := (s.set (R.CAL_CH_OFS_I c) (sat16 (x.sumI / 983040))).set (R.CAL_CH_OFS_V c) (sat16 (x.sumV / 983040))
    let bad := x.bad || decide (s.rd (R.CAL_CH_OFS c) ≠ old)
    let s := (s.setCch c { x with bad := bad, deadline := false }).set (R.CAL_CH_STAT_TRIM c) 3
    .next (cause R.CAL_NSTAT_TRIM 27 s)

/-- TRIM_DEADLINE (R757). -/
def execTrimDeadline (c : Nat) (s : State) : Out :=
  let x := s.cch c
  let t := s.get (R.CAL_CH_STAT_TRIM c)
  if !s.up islAUD || decide (c ≥ 16) || !x.deadline || !(decide (t = 1) || decide (t = 2)) then stay s
  else .next (cause R.CAL_NSTAT_TRIM 27 ((s.setCch c { x with deadline := false }).set (R.CAL_CH_STAT_TRIM c) 4))

/-- A host write of CAL_CH_OFS (R744, R758). -/
def ofsWrite (a : Agent) (c : Nat) (v : Word) (s : State) : State :=
  if !isHost a || decide (s.get (R.CAL_CH_STAT_TRIM c) = 2) then s
  else if s.rd (R.CAL_CH_OFS c) = v then s
  else (s.wr (R.CAL_CH_OFS c) v).setCch c { s.cch c with bad := true }

/-- VALID and SEQ return to 0, and the results read 0 with them (R749). -/
def dropResults (s : State) (c : Nat) : State :=
  let s := (s.set (R.CAL_CH_SEQ_SEQ c) 0).set (R.CAL_CH_SEQ_VALID c) 0
  let s := (((s.wr (R.CAL_CH_GAIN c) 0).wr (R.CAL_CH_DRIFT c) 0).wr (R.CAL_CH_ZLO c) 0).wr (R.CAL_CH_ZHI c) 0
  s.setCch c { s.cch c with open_ := false, ended := false, bad := false }

/-- A write of CAL_CTL (R749). -/
def calCtlWrite (v : Word) (s : State) : State :=
  let s := s.wr R.CAL_CTL (v &&& 0x1FFFF)
  if v.getLsbD 16 then s
  else (List.range 16).foldl dropResults s

/-! Publication (R745 to R751). -/

/-- The speaker evaluation of one flag: counts, and whether the flag rises or falls (R750). -/
def spkEval (hit : Bool) (n c : Nat) : Nat × Nat := if hit then (n + 1, 0) else (0, c + 1)

/-- OPEN and SHORT after a published window (R750). -/
def speakerEval (c mag : Nat) (s : State) : State :=
  let x := s.cch c
  let (on, oc) := spkEval (decide (mag > s.get R.CAL_THR_OPEN * 10)) x.openN x.openC
  let (sn, sc) := spkEval (decide (mag < s.get R.CAL_THR_SHORT * 10)) x.shortN x.shortC
  let s := s.setCch c { x with openN := on, openC := oc, shortN := sn, shortC := sc }
  let flag (n cl : Nat) (f g : Fld) (s : State) : State :=
    let was := s.flag f
    if n ≥ 2 ∧ !was then cause R.CAL_NSTAT_SPK 25 ((s.set f 1).set g 1)
    else if cl ≥ 2 then (s.set f 0).set g 0
    else s
  flag sn sc (R.CAL_CH_STAT_SHORT c) ⟨R.CAL_SPK, 16 + c, 1⟩
    (flag on oc (R.CAL_CH_STAT_OPEN c) ⟨R.CAL_SPK, c, 1⟩ s)

/-- The magnitude of a signed 16-bit code. -/
def mag16 (v : Nat) : Nat := (sgn 16 v).natAbs

/-- GAINLIM and DRIFTLIM after a published window (R751). -/
def limitEval (c gain di dv : Nat) (s : State) : State :=
  let gl := decide (((gain : Int) - 32768).natAbs * 1000 > s.get R.CAL_LIM_GAIN_LIM * 32768)
  let dl := decide (mag16 di > s.get R.CAL_LIM_DRIFT_LIM) || decide (mag16 dv > s.get R.CAL_LIM_DRIFT_LIM)
  let rise := (gl && !s.flag (R.CAL_CH_STAT_GAINLIM c)) || (dl && !s.flag (R.CAL_CH_STAT_DRIFTLIM c))
  let s := (s.set (R.CAL_CH_STAT_GAINLIM c) (b2n gl)).set (R.CAL_CH_STAT_DRIFTLIM c) (b2n dl)
  if rise then cause R.CAL_NSTAT_LIMIT 26 s else s

/-- Publishes a window's results (R746, R747, R750, R751). -/
def calPublish (c gain qual di dv zlo zhi : Nat) (s : State) : State :=
  let s := (s.set (R.CAL_CH_GAIN_GAIN c) gain).set (R.CAL_CH_GAIN_QUAL c) qual
  let s := (s.set (R.CAL_CH_DRIFT_I c) di).set (R.CAL_CH_DRIFT_V c) dv
  let s := (s.wr (R.CAL_CH_ZLO c) (BitVec.ofNat 32 zlo)).wr (R.CAL_CH_ZHI c) (BitVec.ofNat 32 zhi)
  let low := decide (qual < s.get R.CAL_LIM_QMIN)
  let s := (s.set (R.CAL_CH_SEQ_SEQ c) (s.get (R.CAL_CH_SEQ_SEQ c) + 1)).set (R.CAL_CH_SEQ_VALID c) 1
  let s := cause R.CAL_NSTAT_RESULT 24 (s.set (R.CAL_CH_SEQ_LOWQ c) (b2n low))
  let s := if low then s else speakerEval c (zlo % 2 ^ 20) s
  limitEval c gain di dv s

/-- CAL_WINDOW_END: a window that was not abandoned publishes what the engine has measured (R745, R746). -/
def execCalWindowEnd (c gain qual driftI driftV zlo zhi : Nat) (s : State) : Out :=
  let x := s.cch c
  if !audRuns s || decide (c ≥ 16) || !x.ended || !s.flag R.CAL_CTL_EN then stay s
  else .next (calPublish c gain qual driftI driftV zlo zhi (s.setCch c { x with ended := false }))

/-- SENSE_STUCK: a stream (true: VSEN) has carried 1,024 identical bits (R742). -/
def execSenseStuck (c : Nat) (volt : Bool) (s : State) : Out :=
  if !audRuns s || decide (c ≥ 16) then stay s
  else
    let x := s.cch c
    let x := if volt then { x with stuckV := true } else { x with stuckI := true }
    .next ((s.setCch c x).set (R.CAL_CH_STAT_SENSEFAIL c) 1)

/-! Reading (R748). -/

/-- The result registers of a channel, in the order GAIN, DRIFT, ZLO, ZHI, STAT. -/
def calResults (s : State) (c : Nat) : List Word :=
  [s.rd (R.CAL_CH_GAIN c), s.rd (R.CAL_CH_DRIFT c), s.rd (R.CAL_CH_ZLO c), s.rd (R.CAL_CH_ZHI c), s.rd (R.CAL_CH_STAT c)]

/-- A read of CAL_CH_SEQ captures the results for the agent (R748). -/
def calSeqRead (a : Agent) (c : Nat) (s : State) : Word × State :=
  (s.rd (R.CAL_CH_SEQ c),
    { s with cal.cap := mput (fun _ => []) s.cal.cap (agentId a * 16 + c) (calResults s c) })

/-- CAL_SEQ_READ. -/
def execCalSeqRead (a : Agent) (c : Nat) (s : State) : Out :=
  if decide (c ≥ 16) then stay s else readRow a (R.CAL_CH_SEQ c) (calSeqRead a c) s

/-- A read of one of the captured registers (index 0 to 4) by an agent: its capture if it has one, else the live value. -/
def calResultRead (s : State) (a : Agent) (c i : Nat) : Word :=
  ((mget (fun _ => []) s.cal.cap (agentId a * 16 + c)).getD i ((calResults s c).getD i 0))

/-- Any other access of the agent to the channel window ends its capture (R748). -/
def calOtherAccess (a : Agent) (c : Nat) (s : State) : State :=
  { s with cal.cap := mput (fun _ => []) s.cal.cap (agentId a * 16 + c) [] }

/-- AUD/PWS PLL lock lost: windows are abandoned and running trims wait again (R760). -/
def calPllLost (s : State) : State :=
  (List.range 16).foldl (fun s c =>
    let x := s.cch c
    let s := if x.open_ then s.bump (R.CAL_CH_ABANDON c) else s
    let s := s.setCch c { x with open_ := false, bad := false, silent := 0, n := 0, sumI := 0, sumV := 0 }
    if s.get (R.CAL_CH_STAT_TRIM c) = 2 then s.set (R.CAL_CH_STAT_TRIM c) 1 else s) s

end Sys2Proof.Machine
end

