-- ==== Sys2Proof/Machine/Safe.lean ====
section
/-!
DEFINITION. The SAFE chime path: its configuration, commands, announcements, pass-through and the safe modulator
(18_audio_path.md R689 to R697, R702).
-/
namespace Sys2Proof.Machine

/-! Configuration (R689, R690). -/

/-- The ROM default configuration (R690). -/
def safeDefault : List Byte :=
  [0x22, 0x00] ++ leBytes 4 0x5A0 ++ leBytes 4 0x5A0 ++ leBytes 4 0x7FF ++ [1, 12, 0xFF, 0xFF, 0xFF, 0xFF, 0x70, 0]
    ++ leBytes 2 13500 ++ List.replicate 40 0

/-- Some field of a configuration holds a reserved value (R690). -/
def safeBad (bs : List Byte) : Bool :=
  let b (i : Nat) : Nat := (bs.getD i 0).toNat
  let id (o : Nat) : Nat := leNat (sliceOf bs o 4)
  let lim := if b 1 % 2 = 1 then 2 ^ 29 else 2 ^ 11
  let slots := b 20 / 16 + 1
  let vnom := leNat (sliceOf bs 22 2)
  decide (bs.length ≠ 64) || decide (b 0 % 16 ≥ 4) || decide (b 0 / 16 ≥ 4) || decide (b 1 ≥ 4)
    || decide (id 2 ≥ lim) || decide (id 6 ≥ lim) || decide (id 10 ≥ lim) || decide (b 14 ≥ 2)
    || (List.range 4).any (fun c => decide (b (16 + c) ≠ 0xFF ∧ b (16 + c) ≥ slots))
    || decide (b 20 % 16 ≥ 2) || decide (b 20 % 2 = 1 ∧ slots > 8) || decide (vnom < 6000) || decide (vnom > 40000)
    || (bs.drop 24).any (fun x => decide (x ≠ 0))

/-- Writes the configuration in force to SAFE_CFG. -/
def safePut (bs : List Byte) (s : State) : State :=
  (List.range 16).foldl (fun s w => s.wr (R.SAFE_CFG w) (BitVec.ofNat 32 (leNat (sliceOf bs (4 * w) 4)))) s

/-- SAFE applies the committed safe record, or the ROM default (R689, R690; 04_staged_start.md R134, R135). -/
def safeApply (s : State) : State :=
  match jrnCurrent (jrnAll s) 0 0 with
  | some x =>
    let bs := sliceOf x.data 16 64
    if safeBad bs then ((safePut safeDefault s).set R.SYS_STAGE_SREC 1).set R.SAFE_STAT_DEFAULT 1
    else ((safePut bs s).set R.SYS_STAGE_SREC 0).set R.SAFE_STAT_DEFAULT 0
  | none => ((safePut safeDefault s).set R.SYS_STAGE_SREC 1).set R.SAFE_STAT_DEFAULT 1

/-- A byte of the configuration in force. -/
def cfgByte (s : State) (i : Nat) : Nat := (s.rd (R.SAFE_CFG (i / 4))).toNat / 2 ^ (8 * (i % 4)) % 256

/-- A 32-bit field of it. -/
def cfg32 (s : State) (i : Nat) : Nat := cfgByte s i + 256 * (cfgByte s (i + 1) + 256 * (cfgByte s (i + 2) + 256 * cfgByte s (i + 3)))

def cfgVnom (s : State) : Nat := cfgByte s 22 + 256 * cfgByte s 23

/-! Tones (R693). -/

/-- The bursts of a tone: frequency in Hz, samples on, samples off, at 192 kHz. -/
def tonePattern : Nat → List (Nat × Nat × Nat)
  | 0 => [(1000, 28800, 0)]
  | 1 => [(1000, 28800, 28800), (1000, 28800, 28800), (1000, 28800, 28800)]
  | 2 => [(750, 96000, 0)]
  | 3 => (List.range 10).map fun _ => (2000, 9600, 9600)
  | 4 => [(1500, 38400, 0), (1000, 38400, 0)]
  | 5 => [(440, 192000, 0)]
  | 6 => (List.range 4).map fun _ => (2500, 19200, 76800)
  | 7 => (List.range 4).flatMap fun _ => [(800, 48000, 0), (600, 48000, 0)]
  | _ => []

def toneLength (i : Nat) : Nat := (tonePattern i).foldl (fun n b => n + b.2.1 + b.2.2) 0

/-- A burst's sample n in Q1.31: a sine 6 dB below full scale within its ramps of 5 ms (960 samples). -/
def burstSample (f on n : Nat) : Int :=
  if n ≥ on then 0
  else
    let r := if n < 960 then rampFx n 960 else if on - n ≤ 960 then rampFx (on - n) 960 else fxOne
    sinFx (f * n) 192000 * 141071664912914 / fxOne * r / fxOne / 2 ^ 17

/-- The tone at a sample. -/
def toneAt : List (Nat × Nat × Nat) → Nat → Int
  | [], _ => 0
  | (f, on, off) :: bs, n => if n < on + off then burstSample f on n else toneAt bs (n - (on + off))

/-! Samples (R694 to R696). -/

/-- Samples of one play of the announcement. -/
def annLength (s : State) : Nat :=
  match s.safe.ann with
  | .none => 0
  | .tone => toneLength s.safe.index
  | .clip => 8 * s.safe.clipLen

/-- The announcement's sample in Q1.31; the interpolation of a clip is one that the spec leaves open (R694). -/
def annSample (s : State) : Int × State :=
  match s.safe.ann with
  | .none => (0, s)
  | .tone => (toneAt (tonePattern s.safe.index) s.safe.pos, s)
  | .clip =>
    if s.safe.pos ≥ annLength s then (0, s)
    else
      let (v, s) := s.draw 12
      (sgn 16 v * 2 ^ 16, s)

/-- An attenuation: the larger of two, in half decibels (R695). -/
def attenuate (v : Int) (a b : Nat) : Int := (v * attenFx (max a b)).tdiv fxOne

/-- The pass-through sample of a channel (R696). -/
def ecallSample (s : State) (c : Nat) : Int :=
  let slot := cfgByte s (16 + c)
  if s.safe.ecall && decide (slot ≠ 0xFF) && s.flag R.SAFE_STAT_TDM0SYNC then sint (s.safe.slots.getD slot 0) else 0

/-- The clip limit of SAFE, 0.9375 in Q1.31 (R695, R697). -/
abbrev safeLimit : Int := 2013265920

/-- One internal sample of SAFE: the gain law, the sum of each channel, and the announcement's position (R693 to R697). -/
def safeSample (s : State) : State :=
  let (g, e) := gainLaw s.safe.g s.safe.vbat (cfgVnom s) 20
  let s := { s with safe.g := g }
  let (ann, s) := annSample s
  let s := (List.range 4).foldl (fun s c =>
    let a := if bitOf s.safe.mask c then attenuate ann s.safe.atten (cfgByte s 15) else 0
    let p := attenuate (ecallSample s c) (cfgByte s 21) (cfgByte s 15)
    { s with safe.m := mput (fun _ => 0) s.safe.m c (clipTo safeLimit ((a + p) * e / fxOne)) }) s
  if decide (s.safe.ann = .none) then s
  else
    let n := annLength s
    if s.safe.pos + 1 < n ∨ s.safe.left = 0 then { s with safe.pos := min n (s.safe.pos + 1) }
    else { s with safe.pos := 0, safe.left := if s.safe.left = 255 then 255 else s.safe.left - 1 }

/-- Rounds a step position given in units of 2^-33 steps to the nearest multiple of 16 steps, a tie up (R697). -/
def round16 (x : Int) : Nat := ((x + 8 * 2 ^ 33) / (16 * 2 ^ 33) * 16).toNat

/-- The safe modulator's edge word of a channel for a period of P steps: the ideal BD edges, rounded (R697). -/
def safeWord (m : Int) (p : Nat) : Nat × Nat × Nat × Nat :=
  let q : Int := p
  (round16 (q * (2 ^ 31 - m)), round16 (q * (3 * 2 ^ 31 + m)), round16 (q * (2 ^ 31 + m)), round16 (q * (3 * 2 ^ 31 - m)))

/-- The carrier factor of SAFE: 384 kHz or 768 kHz (R689). -/
def safeK (s : State) : Nat := if cfgByte s 14 % 2 = 1 then 4 else 2

/-! Commands (R691, R692, R695). -/

/-- SAFE owns channels 0 to 3 (R692): SAFE_STAT.OWN. -/
def safeOwns (s : State) : Bool := decide (s.get R.SAFE_STAT_OWN ≠ 0)

/-- A rejected or refused command (R691, R695). -/
def safeReject (s : State) : State := cause R.SAFE_NSTAT_BADCMD 83 (s.bump R.SAFE_CNT_BADCMD)

def annShow (s : State) : State := s.set R.SAFE_STAT_ANN (b2n (decide (s.safe.ann ≠ .none)))

/-- Ends the announcement. -/
def annStop (s : State) : State := annShow { s with safe.ann := .none, safe.pos := 0, safe.left := 0, safe.mask := 0 }

/-- Starts an announcement. -/
def annStart (k : Announce) (index atten mask rep len : Nat) (s : State) : State :=
  annShow { s with safe.ann := k, safe.index := index, safe.atten := atten, safe.mask := mask, safe.left := rep,
                   safe.pos := 0, safe.clipLen := len }

/-- TONE while SAFE owns the channels: replaces what plays (R695). -/
def safeTone (index atten mask rep : Nat) (s : State) : State := annStart .tone index atten mask rep 0 s

/-- CLIP: refused while a tone plays; an absent clip plays nothing (R694, R695). -/
def safeClip (index atten mask rep : Nat) (s : State) : State :=
  if s.safe.ann = .tone then safeReject s
  else
    match clipPcm s index with
    | none => cause R.SAFE_NSTAT_CLIPERR 83 s
    | some pcm => annStart .clip index atten mask rep pcm.length s

/-- ECALL_START and ECALL_STOP (R695). -/
def safeEcall (on : Bool) (s : State) : State :=
  cause R.SAFE_NSTAT_ECALL 83 { (s.set R.SAFE_STAT_ECALL (b2n on)) with safe.ecall := on }

/-- A command's bytes are acceptable (R691). -/
def safeAccepts (s : State) (f : List Byte) : Bool :=
  let b (i : Nat) : Nat := (f.getD i 0).toNat
  decide (f.length ≥ 5) &&
    match b 0 with
    | 1 => decide (b 1 < 8) && decide (b 3 % 16 ≠ 0)
    | 2 => decide (b 1 < 8) && decide (b 3 % 16 ≠ 0)
    | 3 => safeEcallCfg s
    | 4 => safeEcallCfg s
    | 5 => true
    | _ => false

/-- SAFE_LAST shows bytes 0 to 4 of the latest command frame; the spec gives no value for bytes that a short frame lacks
(R691, R702). -/
def safeRecord (f : List Byte) (s : State) : State :=
  let (v, s) := if f.length < 5 then s.draw 27 else (0, s)
  let last := sliceOf f 0 5 ++ leBytes (5 - f.length) v
  (s.wr R.SAFE_LAST_LO (BitVec.ofNat 32 (leNat (sliceOf last 0 4)))).set R.SAFE_LAST_HI_B4 (leNat (sliceOf last 4 1))

/-- A command frame on CAN FD port 0 (R691, R692, R695). -/
def safeCommand (f : List Byte) (s : State) : State :=
  let b (i : Nat) : Nat := (f.getD i 0).toNat
  let s := (safeRecord f s).bump R.SAFE_CNT_CMD
  if !safeAccepts s f then safeReject s
  else if !safeOwns s then cause R.SAFE_NSTAT_CMD 83 s
  else
    match b 0 with
    | 1 => safeTone (b 1) (b 2) (b 3 % 16) (b 4) s
    | 2 => safeClip (b 1) (b 2) (b 3 % 16) (b 4) s
    | 3 => safeEcall true s
    | 4 => safeEcall false s
    | _ => annStop s

/-- SAFE receives frames: from Stage 1 entry (25_diagnostics_service.md R880). -/
def safeListens (s : State) : Bool := s.up islSAFE && decide (s.stage ≥ 1)

/-! Services in STANDBY (05_power_states.md R165, R166, R184; 19_power_stage_protection.md R736). -/

/-- A SAFE service is in progress. -/
def safeServes (s : State) : Bool := decide (s.safe.ann ≠ .none) || s.safe.ecall

/-- PWS loses power in STANDBY: its latches, fault fields and times stay, its other registers take their values out of reset, and all
gates are low. -/
def pwsOff (s : State) : State :=
  let s := (s.wr R.PWS_CLRSTAT 0).wr R.PWS_CNT_LDHOLD 0
  let s := (List.range 16).foldl (fun s c =>
    let s := ((s.wr (R.PWS_CH_NSTAT c) 0).wr (R.PWS_CH_NEN c) (resetWord (R.PWS_CH_NEN c)))
    let s := (s.set (R.PWS_CH_CFG_DT c) (wget (s.rd R.PWS_DEF) 0 9)).set (R.PWS_CH_CFG_BLANK c) (wget (s.rd R.PWS_DEF) 16 9)
    showDt c (gatesLow c s)) s
  s.set (R.CLK_ISL_ON islPWS) 0

/-- In STANDBY, PWS has power and the AUD/PWS PLL runs for the length of a SAFE service, and only then. -/
def standbyPws (s : State) : State :=
  if s.pstate ≠ 5 then s
  else if safeServes s then s.set (R.CLK_ISL_ON islPWS) 1
  else (if s.flag (R.CLK_ISL_ON islPWS) then pwsOff s else s).set R.CLK_STAT_AUDPLL_LOCK 0

/-- The AUD/PWS PLL is switched off. -/
def audPllOff (s : State) : Bool := decide (s.pstate = 5) && !s.flag (R.CLK_ISL_ON islPWS)

/-- SAFE serves a command frame. -/
def safeServe (f : List Byte) (s : State) : State := standbyPws (handIdle (safeCommand f s))

/-- SAFE takes a command frame; in STANDBY it holds the frame while REFCLK is absent (05_power_states.md R184). -/
def safeTake (f : List Byte) (s : State) : State :=
  if decide (s.pstate = 5) && !s.flag R.CLK_STAT_REFCLK_OK then { s with safe.waiting := s.safe.waiting ++ [f] }
  else safeServe f s

/-- REFCLK is present: SAFE serves the frames it holds. -/
def safeResume (s : State) : State :=
  s.safe.waiting.foldl (fun s f => safeServe f s) { s with safe.waiting := [] }

/-- SAFE_TONE: a command frame with CMD 1; `data` are its bytes from byte 1 on. -/
def execSafeTone (data : List Byte) (s : State) : Out :=
  if !safeListens s then stay s else .next (safeTake (1 :: data) s)

/-- SAFE_CLIP: CMD 2. -/
def execSafeClip (data : List Byte) (s : State) : Out :=
  if !safeListens s then stay s else .next (safeTake (2 :: data) s)

/-- ECALL_START: CMD 3. -/
def execEcallStart (data : List Byte) (s : State) : Out :=
  if !safeListens s then stay s else .next (safeTake (3 :: data) s)

/-- ECALL_STOP: CMD 4. -/
def execEcallStop (data : List Byte) (s : State) : Out :=
  if !safeListens s then stay s else .next (safeTake (4 :: data) s)

/-- SAFE_STOP: CMD 5. -/
def execSafeStop (data : List Byte) (s : State) : Out :=
  if !safeListens s then stay s else .next (safeTake (5 :: data) s)

/-! TDM0 as SAFE receives it (R675, R696). -/

/-- The slot count of the safe configuration. -/
def safeSlots (s : State) : Nat := cfgByte s 20 / 16 + 1

/-- SAFE's part of a TDM0 frame. -/
def safeTdm (bclks : Nat) (slots : List Word) (s : State) : State :=
  if !safeEcallCfg s || !safeListens s then s
  else if bclks ≠ 32 * safeSlots s then { s with safe.good := 0, safe.slots := [] }
  else
    let n := min 2 (s.safe.good + 1)
    let s := { s with safe.good := n, safe.slots := slots }
    if n ≥ 2 then s.set R.SAFE_STAT_TDM0SYNC 1 else s

/-- SAFE's part of a loss of TDM0 sync (R696). -/
def safeTdmLoss (s : State) : State :=
  if !s.flag R.SAFE_STAT_TDM0SYNC then s
  else
    let s := { (s.set R.SAFE_STAT_TDM0SYNC 0) with safe.good := 0, safe.slots := [] }
    if s.safe.ecall then cause R.SAFE_NSTAT_TDM0LOSS 83 s else s

/-- TDM_FRAME: a frame of port p with its BCLK count and slots (R667, R672 to R674, R696). -/
def execTdmFrame (p bclks : Nat) (slots : List Word) (s : State) : Out :=
  if decide (p ≥ 4) || s.sys.resetting then stay s
  else
    let s := if p = 0 then safeTdm bclks slots s else s
    .next (tdmFrame p bclks slots s)

/-- TDM_SYNC_LOSS: four frame times without FS (R673, R696). -/
def execTdmSyncLoss (p : Nat) (s : State) : Out :=
  if decide (p ≥ 4) || s.sys.resetting then stay s
  else
    let s := if p = 0 then safeTdmLoss s else s
    .next (tdmLoss p s)

end Sys2Proof.Machine
end

