-- ==== Sys2Proof/Machine/Handover.lean ====
section
/-!
DEFINITION. A channel's PWM period boundary, its handover between SAFE, AUD and HELD, the internal sample, and the end of
an announcement and of the output-disable (04_staged_start.md R155 to R158, 05_power_states.md R179, 18_audio_path.md
R650, R679 to R687, 19_power_stage_protection.md R704 to R706, R716, R728, R729).
-/
namespace Sys2Proof.Machine

/-! Sources (R704). -/

/-- A channel's source: 0 HELD, 1 SAFE, 2 AUD, with its reports in PWS, AUD and SAFE. -/
def setSrc (c v : Nat) (s : State) : State :=
  let s := s.set (R.PWS_CH_STAT_SRC c) v
  let s := s.set ⟨R.AUD_STAT, c, 1⟩ (b2n (decide (v = 2)))
  if c < 4 then s.set ⟨R.SAFE_STAT, c, 1⟩ (b2n (decide (v = 1))) else s

/-- The owner a channel has outside AUD: SAFE for channels 0 to 3, HELD for the rest. -/
def homeSrc (c : Nat) : Nat := if c < 4 then 1 else 0

def handLeft (s : State) (c : Nat) : Nat := mget (fun _ => 0) s.sys.handLeft c

def gatesOut (s : State) (c : Nat) : Bool := mget (fun _ => false) s.sys.gatesOut c

/-- Enters a stage: the stage field, its time, and N00 (04_staged_start.md R115, R163). -/
def enterStage (n : Nat) (s : State) : State :=
  let s := s.set R.SYS_STAGE_STAGE n
  let s := if n = 0 then s else s.wr (R.SYS_TSTAGE1 + 4 * (n - 1)) (BitVec.ofNat 32 s.nowUs)
  cause R.SYS_NSTAT_STAGE 0 s

/-- The stage falls without being entered from below: no entry time is written (05_power_states.md R173, R179). -/
def fallStage (n : Nat) (s : State) : State := cause R.SYS_NSTAT_STAGE 0 (s.set R.SYS_STAGE_STAGE n)

/-- A channel completes its AUD period: its gates go low and SAFE or HELD owns it; with the last one the stage falls to 2
where the power state keeps it (05_power_states.md R173, R179). -/
def channelReturn (c : Nat) (s : State) : State :=
  let s := setSrc c (homeSrc c) (gatesLow c s)
  let s := { s with sys.gatesOut := mput (fun _ => false) s.sys.gatesOut c false }
  if decide (s.sys.gatesOut = []) && decide (s.stage = 3) && decide (s.get R.SYS_PSTATE_TARGET ≠ 6) && decide (s.pstate ≠ 6) then
    fallStage 2 s else s

/-- GATES_RETURN_TO_SAFE (05_power_states.md R179). -/
def execGatesReturnToSafe (c : Nat) (s : State) : Out :=
  if !gatesOut s c then stay s else .next (channelReturn c s)

/-- Starts the return of every AUD channel, and cancels every handover that has not happened (05_power_states.md R179). -/
def gatesGiveBack (s : State) : State :=
  let s := { s with sys.weaving := false, sys.weaveForce := false, sys.handLeft := [], sys.handWait := [] }
  let s := s.set R.SYS_STAGE_HOPEND 0
  (List.range 16).foldl (fun s c =>
    if srcOf s c = 2 then { s with sys.gatesOut := mput (fun _ => false) s.sys.gatesOut c true } else s) s

/-- A channel passes to AUD; with the last one the device enters Stage 3 (04_staged_start.md R155 to R157). -/
def channelPass (c : Nat) (waited : Bool) (s : State) : State :=
  let s := setSrc c 2 s
  let s := { s with sys.handLeft := mput (fun _ => 0) s.sys.handLeft c 0 }
  let s := if waited then cause R.SYS_NSTAT_HANDOVER 0 s else s
  if (List.range 16).all fun c => decide (srcOf s c = 2) then
    enterStage 3 { s with sys.weaving := false, sys.weaveForce := false, sys.waited := [] }
  else s

/-- SAFE is still in a PWM period on the channel, which it completes (04_staged_start.md R156). -/
def safeDrives (s : State) (c : Nat) : Bool := decide (srcOf s c = 1) && decide ((s.pch c).drive ≠ 0)

/-- One boundary of the channel's own AUD period in the count that an accepted WEAVE started; a pass waits while SAFE completes a period
(04_staged_start.md R155, R156; assumption 122). -/
def handStep (c : Nat) (s : State) : State :=
  match handLeft s c with
  | 0 => s
  | 1 => if safeDrives s c then s else channelPass c (mget (fun _ => false) s.sys.waited c) s
  | n + 1 => { s with sys.handLeft := mput (fun _ => 0) s.sys.handLeft c n }

/-! Driver state of the period that starts (R704, R705, R716). -/

/-- The channel is active (R704): SAFE that a WEAVE with FORCE has taken plays no more (04_staged_start.md R156). -/
def wantsActive (s : State) (c : Nat) : Bool :=
  decide (srcOf s c = 2) || (decide (srcOf s c = 1) && safePlays s c && !(s.sys.weaveForce && decide (handLeft s c ≠ 0)))

/-- The AUD settings that take effect at a period boundary (R686). -/
def takeMod (c : Nat) (s : State) : State :=
  let m := s.get (R.AUD_CH_CFG_MOD c)
  s.setAch c { s.ach c with modF := if m ≤ 8 then m else 0 }

/-- The words AUD makes for the period: in shadow too, where PWS discards them (R684, 04_staged_start.md R115). The
modulators are stopped in QUIET (R698). -/
def audShadow (c p : Nat) (s : State) : (Nat × Nat × Nat × Nat) × State :=
  if audRuns s && decide (s.pstate ≠ 3) then
    let (w, s) := audWord c p (takeMod c s)
    (w, digestWord c w (laneShow c (carrierK s) ((s.pch c).j % carrierK s) s))
  else ((0, 0, 0, 0), s)

/-- The legs as the period that ends leaves them, counted from the start of the next. Legs whose gates were all low count
as just turned off at the boundary: either gate turns on one dead time after it (R706). -/
def legsNext (x : PwsCh) : Leg × Leg :=
  if x.drive = 0 then ({ Leg.reset with since := 0 }, { Leg.reset with since := 0 })
  else ((x.legAt false x.per).shift x.per, (x.legAt true x.per).shift x.per)

/-- Starts a period of P steps at a place of its internal sample, with an edge word in a driver state. -/
def startPeriod (c p at_ drive : Nat) (w : Nat × Nat × Nat × Nat) (s : State) : State :=
  let x := s.pch c
  let dt := dtEff s c
  let l := legsNext x
  s.setPch c { x with drive := drive, per := p, start := at_, ra := w.1, fa := w.2.1, rb := w.2.2.1, fb := w.2.2.2, legA := l.1, legB := l.2,
                      dt := dt, blank := blankEff s c }

/-- Rows 1 to 6 of R704 for the period that starts. -/
def drivePeriod (c p at_ : Nat) (aud : Nat × Nat × Nat × Nat) (s : State) : State :=
  let act := wantsActive s c
  let s := s.set (R.PWS_CH_STAT_ACTIVE c) (b2n act)
  if s.aoDisabled || latched s c || !s.flag R.PWS_STAT_OWNER || !act then startPeriod c p at_ 0 (0, 0, 0, 0) (gatesLow c s)
  else if s.pws.hold then startPeriod c p at_ 1 (0, 0, 0, 0) s
  else if srcOf s c = 2 then startPeriod c p at_ 2 aud s
  else startPeriod c p at_ 2 (safeWord (mget (fun _ => 0) s.safe.m c) p) s

/-- Where period j of a channel with a PHASE starts within its internal sample, in steps (18_audio_path.md R679, R687). -/
def periodStart (k j phase : Nat) : Nat := 128000 * j / k + phase * 128000 / (16 * k)

/-- A channel that becomes active with HOC asserted latches with cause START and does not start (R716). -/
def startLatch (c : Nat) (hoc : Bool) (s : State) : State :=
  let s := s.set (R.PWS_CH_STAT_HOC c) (b2n hoc)
  if hoc && !active s c && wantsActive s c && !latched s c && s.flag R.PWS_STAT_OWNER then latchAll c 128 s else s

/-- A boundary of the channel's own AUD PWM period, with its K and PHASE (18_audio_path.md R679, R687): returns and handovers fall on it,
and AUD makes the period's edge words, in shadow while SAFE drives the channel (04_staged_start.md R155; 05_power_states.md R179). -/
def periodBoundary (c : Nat) (hoc : Bool) (s : State) : State :=
  let s := if gatesOut s c then channelReturn c s else s
  let s := handStep c s
  let s := if srcOf s c = 1 then s else startLatch c hoc s
  let k := carrierK s
  let j := (s.pch c).j % k
  let p := periodLen k j
  let (w, s) := audShadow c p s
  let s := if srcOf s c = 1 then s else drivePeriod c p (periodStart k j (wget (s.ach c).cfg 4 4)) w s
  s.setPch c { s.pch c with j := (j + 1) % k }

/-- A boundary of SAFE's period on one of channels 0 to 3, at SAFE's own carrier (18_audio_path.md R689, R697). -/
def safeBoundary (c : Nat) (hoc : Bool) (s : State) : State :=
  let s := startLatch c hoc s
  let k := safeK s
  let j := mget (fun _ => 0) s.safe.j c % k
  let s := drivePeriod c (periodLen k j) (periodStart k j c) (0, 0, 0, 0) s
  { s with safe.j := mput (fun _ => 0) s.safe.j c ((j + 1) % k) }

/-- PWM_PERIOD_BOUNDARY: `safe`: of SAFE's period on the channel, which is none while SAFE does not own it; else of the channel's AUD
period. `hoc` is the channel's HOC input at the boundary. -/
def execPwmPeriodBoundary (c : Nat) (hoc : Bool) (s : State) (safe : Bool := false) : Out :=
  if !s.up islPWS || decide (c ≥ 16) then stay s
  else if !safe then .next (periodBoundary c hoc s)
  else if srcOf s c = 1 then .next (safeBoundary c hoc s)
  else stay s

/-- HANDOVER: the third boundary after the accepted WEAVE (04_staged_start.md R155). -/
def execHandover (c : Nat) (s : State) : Out :=
  if !s.up islPWS || decide (handLeft s c ≠ 1) then stay s
  else .next (periodBoundary c (s.flag (R.PWS_CH_STAT_HOC c)) s)

/-! The internal sample (R650). -/

/-- One channel's part of an internal sample: a stop, the ring instant, conversion to clip, and the calibration that
follows it (R650, R659; 20_live_calibration.md R741 to R756). -/
def channelSample (t96 t48 : Bool) (sense : List (Nat × Nat)) (s : State) (c : Nat) : State :=
  let s := chStop c (s.setAch c { s.ach c with cfg := s.rd (R.AUD_CH_CFG c) })
  let s := if chTick s c t96 t48 then ringInstant c s else s
  let clips := s.rd (R.AUD_CH_CLIP c)
  let s := pathSample c s
  let s := windowCheck c (decide (s.rd (R.AUD_CH_CLIP c) ≠ clips)) s
  match sense[c]? with
  | none => trimSample c none s
  | some (i, v) => trimSample c (some (sgn 24 i, sgn 24 v)) (senseSample c (sgn 24 i) (sgn 24 v) s)

/-- AUD's internal sample: `sense` are the decimated 24-bit codes of ISEN and VSEN, by channel; a channel it does not name
keeps its sense values and averages. -/
def audSample (sense : List (Nat × Nat)) (s : State) : State :=
  let s := { s with aud.modw := s.rd R.AUD_MOD }
  let s := (List.range 16).foldl (fun s c => windowBoundary c s) s
  let (t96, t48, s) := mediaTick s
  let s := gainSample s
  let s := (List.range 16).foldl (channelSample t96 t48 sense) s
  let s := (List.range 16).foldl (fun s k => tapCapture t96 t48 k s) s
  let s := (List.range 4).foldl (fun s p => tdmIdle p s) s
  { s with aud.samples := s.aud.samples + 1
           cal.lfsr := lfsrStep s.cal.lfsr }

/-- INTERNAL_SAMPLE: AUD's sample where it runs, and SAFE's where it is on. -/
def execInternalSample (sense : List (Nat × Nat)) (s : State) : Out :=
  let s1 := if audRuns s then audSample sense s else s
  .next (if safeListens s1 && s1.flag R.CLK_STAT_AUDPLL_LOCK then safeSample s1 else s1)

/-- ANNOUNCEMENT_END: the pattern or clip and its repeats have ended (R693). -/
def execAnnouncementEnd (s : State) : Out :=
  if decide (s.safe.ann = .none) || decide (s.safe.left ≠ 0) || decide (s.safe.pos < annLength s) then stay s
  else .next (standbyPws (handIdle (annStop s)))

/-- OUTPUT_DISABLE_END: the AUD/PWS PLL has been locked for 100 µs (R728, R729, R699). -/
def execOutputDisableEnd (s : State) : Out :=
  if !s.flag R.CLK_STAT_REFCLK_OK || !s.flag R.CLK_STAT_AUDPLL_LOCK || !(s.pws.disRef || s.pws.disPll) then stay s
  else .next (audRelock (disableShow { s with pws.disRef := false, pws.disPll := false }))

end Sys2Proof.Machine
end

