-- ==== Sys2Proof/Machine/Crypto.lean ====
section
/-!
DEFINITION. SHA-256 (FIPS 180-4) and the verification of ECDSA P-256 signatures (FIPS 186-4), as the image signature and
the service unlock use them (06_veneer_image.md R195, 25_diagnostics_service.md R887).
-/
namespace Sys2Proof.Machine

/-! SHA-256 over 32-bit words held as numbers. -/

def shaMod (x : Nat) : Nat := x % 2 ^ 32

/-- A 32-bit word rotated right. -/
def shaRotr (n x : Nat) : Nat := (x >>> n) ||| shaMod (x <<< (32 - n))

def shaNot (x : Nat) : Nat := 0xFFFFFFFF ^^^ x

/-- The largest root of at most `b` more bits: r grows while its k-th power stays within x. -/
def rootBits (k x : Nat) : Nat → Nat → Nat
  | 0, r => r
  | b + 1, r => rootBits k x b (if (r + 2 ^ b) ^ k ≤ x then r + 2 ^ b else r)

/-- The first 32 bits of the fraction of a k-th root. -/
def rootFraction (k p : Nat) : Nat := shaMod (rootBits k (p * 2 ^ (32 * k)) 37 0)

def firstPrimes : List Nat :=
  [2, 3, 5, 7, 11, 13, 17, 19, 23, 29, 31, 37, 41, 43, 47, 53, 59, 61, 67, 71, 73, 79, 83, 89, 97, 101, 103, 107, 109, 113, 127, 131]
    ++ [137, 139, 149, 151, 157, 163, 167, 173, 179, 181, 191, 193, 197, 199, 211, 223, 227, 229, 233, 239, 241, 251, 257, 263, 269,
        271, 277, 281, 283, 293, 307, 311]

/-- The round constants: fractions of the cube roots of the first 64 primes. -/
def shaK : List Nat := firstPrimes.map (rootFraction 3)

/-- The eight working words. -/
structure Sha where
  a : Nat
  b : Nat
  c : Nat
  d : Nat
  e : Nat
  f : Nat
  g : Nat
  h : Nat
deriving DecidableEq, Repr

/-- The words before the first block: fractions of the square roots of the first eight primes. -/
def shaInit : Sha :=
  let r (i : Nat) : Nat := rootFraction 2 (firstPrimes.getD i 0)
  { a := r 0, b := r 1, c := r 2, d := r 3, e := r 4, f := r 5, g := r 6, h := r 7 }

/-- One round with K_t + W_t. -/
def shaRound (x : Sha) (kw : Nat) : Sha :=
  let s1 := shaRotr 6 x.e ^^^ shaRotr 11 x.e ^^^ shaRotr 25 x.e
  let ch := (x.e &&& x.f) ^^^ (shaNot x.e &&& x.g)
  let t1 := x.h + s1 + ch + kw
  let s0 := shaRotr 2 x.a ^^^ shaRotr 13 x.a ^^^ shaRotr 22 x.a
  let maj := (x.a &&& x.b) ^^^ (x.a &&& x.c) ^^^ (x.b &&& x.c)
  { a := shaMod (t1 + s0 + maj), b := x.a, c := x.b, d := x.c, e := shaMod (x.d + t1), f := x.e, g := x.f, h := x.g }

/-- The rounds over the constants, with the message schedule as a sliding window of 16 words. -/
def shaRounds : List Nat → List Nat → Sha → Sha
  | [], _, x => x
  | k :: ks, w, x =>
    let w0 := w.headD 0
    let w1 := w.getD 1 0
    let w14 := w.getD 14 0
    let s0 := shaRotr 7 w1 ^^^ shaRotr 18 w1 ^^^ (w1 >>> 3)
    let s1 := shaRotr 17 w14 ^^^ shaRotr 19 w14 ^^^ (w14 >>> 10)
    shaRounds ks (w.drop 1 ++ [shaMod (w0 + s0 + w.getD 9 0 + s1)]) (shaRound x (k + w0))

/-- One 64-byte block. -/
def shaBlock (x : Sha) (bs : List Byte) : Sha :=
  let w := (List.range 16).map fun i => beNat (sliceOf bs (4 * i) 4)
  let y := shaRounds shaK w x
  { a := shaMod (x.a + y.a), b := shaMod (x.b + y.b), c := shaMod (x.c + y.c), d := shaMod (x.d + y.d),
    e := shaMod (x.e + y.e), f := shaMod (x.f + y.f), g := shaMod (x.g + y.g), h := shaMod (x.h + y.h) }

def shaBlocks : Nat → List Byte → Sha → Sha
  | 0, _, x => x
  | n + 1, bs, x => shaBlocks n (bs.drop 64) (shaBlock x (bs.take 64))

/-- The padded message. -/
def shaPad (bs : List Byte) : List Byte :=
  bs ++ 0x80#8 :: List.replicate ((119 - bs.length % 64) % 64) 0#8 ++ beBytes 8 (8 * bs.length)

/-- SHA-256, as 32 bytes in network order. -/
def sha256 (bs : List Byte) : List Byte :=
  let m := shaPad bs
  let x := shaBlocks (m.length / 64) m shaInit
  [x.a, x.b, x.c, x.d, x.e, x.f, x.g, x.h].flatMap (beBytes 4)

/-! P-256. A point is its affine coordinates; none is the point at infinity. -/

def p256P : Nat := 0xffffffff00000001000000000000000000000000ffffffffffffffffffffffff
def p256N : Nat := 0xffffffff00000000ffffffffffffffffbce6faada7179e84f3b9cac2fc632551
def p256B : Nat := 0x5ac635d8aa3a93e7b3ebbd55769886bc651d06b0cc53b0f63bce3c3e27d2604b
def p256G : Nat × Nat :=
  (0x6b17d1f2e12c4247f8bce6e563a440f277037d812deb33a0f4a13945d898c296,
   0x4fe342e2fe1a7f9b8ee7eb4a7c0f9e162bce33576b315ececbb6406837bf51f5)

/-- x to the power e modulo m, over n bits of e. -/
def powMod (m x : Nat) : Nat → Nat → Nat
  | 0, _ => 1
  | n + 1, e =>
    let r := powMod m (x * x % m) n (e / 2)
    if e % 2 = 1 then r * x % m else r

/-- The inverse modulo a prime below 2^256. -/
def invMod (m x : Nat) : Nat := powMod m x 256 (m - 2)

def subP (a b : Nat) : Nat := (a + p256P - b % p256P) % p256P

/-- The sum with slope l. -/
def p256Chord (l : Nat) (a b : Nat × Nat) : Nat × Nat :=
  let x := subP (subP (l * l) a.1) b.1
  (x, subP (l * subP a.1 x) a.2)

def p256Add : Option (Nat × Nat) → Option (Nat × Nat) → Option (Nat × Nat)
  | none, q => q
  | p, none => p
  | some a, some b =>
    if a.1 = b.1 then
      if (a.2 + b.2) % p256P = 0 then none
      else some (p256Chord ((3 * a.1 * a.1 + 3 * (p256P - 1)) * invMod p256P (2 * a.2) % p256P) a b)
    else some (p256Chord (subP b.2 a.2 * invMod p256P (subP b.1 a.1) % p256P) a b)

/-- k times a point, over n bits of k. -/
def p256Mul : Nat → Nat → Option (Nat × Nat) → Option (Nat × Nat)
  | 0, _, _ => none
  | n + 1, k, p =>
    let r := p256Mul n (k / 2) (p256Add p p)
    if k % 2 = 1 then p256Add r p else r

/-- The 64 bytes of a public key name a point on the curve. -/
def onP256 (pub : List Byte) : Bool :=
  let x := beNat (sliceOf pub 0 32)
  let y := beNat (sliceOf pub 32 32)
  decide (x < p256P) && decide (y < p256P) && decide (y * y % p256P = (x * x * x + (p256P - 3) * x + p256B) % p256P)

/-- An ECDSA P-256 signature (r, then s) over a SHA-256 digest is valid under a public key. -/
def ecdsaOk (pub sig digest : List Byte) : Bool :=
  let r := beNat (sliceOf sig 0 32)
  let t := beNat (sliceOf sig 32 32)
  onP256 pub && decide (0 < r ∧ r < p256N) && decide (0 < t ∧ t < p256N) &&
    (let w := invMod p256N t
     let u1 := beNat digest * w % p256N
     let u2 := r * w % p256N
     match p256Add (p256Mul 256 u1 (some p256G)) (p256Mul 256 u2 (some (beNat (sliceOf pub 0 32), beNat (sliceOf pub 32 32)))) with
     | none => false
     | some q => decide (q.1 % p256N = r))

end Sys2Proof.Machine
end

