-- ==== Sys2Proof/Machine/Image.lean ====
section
/-!
DEFINITION. The veneer image: header, section directory, and what the loader checks (06_veneer_image.md R192 to R203, R208,
R224).
-/
namespace Sys2Proof.Machine

/-! Header fields (R192). -/

abbrev Image := List Byte

def imgField (m : Image) (o n : Nat) : Nat := leNat (sliceOf m o n)

def imgLen (m : Image) : Nat := imgField m 8 4
def imgCount (m : Image) : Nat := imgField m 0xC 2
def imgFlags (m : Image) : Nat := imgField m 0xE 2
def imgVer (m : Image) : Nat := imgField m 0x10 4
def imgRoll (m : Image) : Nat := imgField m 0x14 2
def imgBase (m : Image) : List Byte := sliceOf m 0x20 32
def imgKey (m : Image) : List Byte := sliceOf m 0x40 64

/-- The bytes of the flash from an offset on, as far as one run goes. -/
def flashFrom (f : Flash) (o : Nat) : List Byte :=
  match f.find? fun e => decide (e.1 ≤ o ∧ o < e.1 + e.2.length) with
  | some e => e.2.drop (o - e.1)
  | none => []

/-- The image digest: SHA-256 of bytes 0 to IMG_LEN - 65 (R195). -/
def imgDigest (m : Image) : List Byte := sha256 (m.take (imgLen m - 64))

/-- The signature. -/
def imgSig (m : Image) : List Byte := sliceOf m (imgLen m - 64) 64

/-- A directory entry (R193). -/
structure Section where
  typ : Nat
  target : Nat
  off : Nat
  len : Nat
  rsvd : Nat
deriving DecidableEq, Repr

def imgSections (m : Image) : List Section :=
  (List.range (imgCount m)).map fun k =>
    let o := 0x100 + 16 * k
    { typ := imgField m o 2, target := imgField m (o + 2) 2, off := imgField m (o + 4) 4, len := imgField m (o + 8) 4,
      rsvd := imgField m (o + 12) 4 }

/-- Section types (R196). -/
abbrev tCLOCK : Nat := 0x01
abbrev tPOOLS : Nat := 0x02
abbrev tOWNERS : Nat := 0x03
abbrev tCORES : Nat := 0x04
abbrev tTHREADS : Nat := 0x05
abbrev tRULES : Nat := 0x06
abbrev tTABLES : Nat := 0x07
abbrev tNOTICES : Nat := 0x08
abbrev tAUDIO : Nat := 0x09
abbrev tMITRE : Nat := 0x0A
abbrev tPANEL : Nat := 0x0B
abbrev tBRAM : Nat := 0x0C
abbrev tCODE : Nat := 0x0D
abbrev tMETA : Nat := 0x0F

/-- LENGTH is within R196. -/
def sectLenOk (t n : Nat) : Bool :=
  let rep (base unit lo hi : Nat) : Bool :=
    decide (n ≥ base) && decide ((n - base) % unit = 0) && decide (lo ≤ (n - base) / unit) && decide ((n - base) / unit ≤ hi)
  if t = tCLOCK then decide (n = 16)
  else if t = tPOOLS then decide (n = 128)
  else if t = tOWNERS then decide (n = 4096)
  else if t = tCORES then rep 16 16 1 4096
  else if t = tTHREADS then rep 0 16 1 384
  else if t = tRULES then rep 0 148 1 1024
  else if t = tTABLES then rep 0 68 1 (2 ^ 32)
  else if t = tNOTICES then decide (n = 384)
  else if t = tAUDIO then decide (n = 32)
  else if t = tMITRE then decide (n = 656)
  else if t = tPANEL then decide (n = 327680)
  else if t = tBRAM then decide (1 ≤ n ∧ n ≤ 65536)
  else if t = tCODE then decide (32 ≤ n ∧ n ≤ 32 + 65280)
  else if t = tMETA then decide (16 ≤ n ∧ n ≤ 256)
  else false

/-- TARGET is in range for its type (R193, R196). -/
def sectTargetOk (t k : Nat) : Bool :=
  if t = tPANEL ∨ t = tBRAM then decide (k < 8) else if t = tCODE then decide (k < 48) else decide (k = 0)

/-- The next multiple of 64. -/
def align64 (n : Nat) : Nat := (n + 63) / 64 * 64

/-- Sections stand one after the other from an offset, in ascending (TYPE, TARGET) order, and end by a limit (R194). -/
def sectOrderOk (lim : Nat) : Nat → Option (Nat × Nat) → List Section → Bool
  | _, _, [] => true
  | at_, prev, x :: xs =>
    let rising : Bool := match prev with
      | none => true
      | some (t, k) => decide (t < x.typ) || (decide (t = x.typ) && decide (k < x.target))
    rising && decide (x.off = at_) && decide (x.off + x.len ≤ lim) &&
      sectOrderOk lim (align64 (x.off + x.len)) (some (x.typ, x.target)) xs

def countOf (xs : List Section) (t : Nat) : Nat := (xs.filter fun x => decide (x.typ = t)).length

/-- The counts of R196 in a full image. -/
def fullCountsOk (xs : List Section) : Bool :=
  ([tCLOCK, tPOOLS, tOWNERS, tCORES, tNOTICES, tAUDIO, tMITRE, tMETA].all fun t => decide (countOf xs t = 1)) &&
    [tTHREADS, tRULES, tTABLES].all fun t => decide (countOf xs t ≤ 1)

/-- The counts of a patch image (R224): a panel patch, or a core patch. -/
def patchCountsOk (xs : List Section) : Bool :=
  match xs with
  | [a] => decide (a.typ = tPANEL) || decide (a.typ = tCODE)
  | [a, b] => decide (a.typ = tPANEL) && decide (b.typ = tBRAM) && decide (a.target = b.target)
  | _ => false

/-- The key hash fuses in force, as a digest (R203, R207). -/
def keyMatches (s : State) (pub : List Byte) : Bool :=
  decide (s.held.key ≠ 0) && decide (leNat (sha256 pub) = s.held.key)

/-- The checks of R203 but the signature. -/
def imageOk (patch : Bool) (m : Image) (s : State) : Bool :=
  let xs := imgSections m
  decide (imgField m 0 4 = 0x52454E56) && decide (imgField m 4 2 = 1) && decide (imgField m 6 2 = 0x100) &&
    decide (imgLen m % 64 = 0) && decide (imgLen m ≤ 25165824) && decide (1 ≤ imgCount m ∧ imgCount m ≤ 255) &&
    decide (imgFlags m = b2n patch) && decide (imgField m 0x16 10 = 0) && decide (imgRoll m ≤ 192) &&
    xs.all (fun x => sectLenOk x.typ x.len && sectTargetOk x.typ x.target && decide (x.rsvd = 0)) &&
    (if patch then patchCountsOk xs else fullCountsOk xs) &&
    decide (64 ≤ imgLen m) && sectOrderOk (imgLen m - 64) (align64 (0x100 + 16 * imgCount m)) none xs &&
    keyMatches s (imgKey m) && onP256 (imgKey m) && decide (imgRoll m ≥ s.fuses.roll)

/-- The signature verifies (R195), with the rollback check of the verify phase (04_staged_start.md R141). -/
def signatureOk (m : Image) (s : State) : Bool :=
  ecdsaOk (imgKey m) (imgSig m) (imgDigest m) && decide (imgRoll m ≥ s.fuses.roll)

/-- Bytes that the source must have delivered before the header and directory can be checked. -/
def headerArrived (m : Image) : Bool := decide (m.length ≥ 0x100) && decide (m.length ≥ 0x100 + 16 * imgCount m)

/-- The whole image has arrived. -/
def imageArrived (m : Image) : Bool := headerArrived m && decide (m.length ≥ imgLen m)

/-- A section's bytes. -/
def sectBytes (m : Image) (x : Section) : List Byte := sliceOf m x.off x.len

/-- The bytes of the section of a type and target. -/
def sectOf (m : Image) (t k : Nat) : Option (List Byte) :=
  ((imgSections m).find? fun x => decide (x.typ = t ∧ x.target = k)).map (sectBytes m)

/-- The bytes of a section, or none at all where the image has no such section. -/
def sectData (m : Image) (t k : Nat) : List Byte := (sectOf m t k).getD []

/-- A field of a section. -/
def secField (bs : List Byte) (o n : Nat) : Nat := leNat (sliceOf bs o n)

/-- The word that shows bytes 4i to 4i + 3 of a digest, byte 4i in bits 7:0 (R235). -/
def digestWordAt (d : List Byte) (i : Nat) : Word := BitVec.ofNat 32 (leNat (sliceOf d (4 * i) 4))

/-- VNR_DIGEST as bytes. -/
def loadedDigest (s : State) : List Byte := (List.range 8).flatMap fun i => leBytes 4 (s.rd (R.VNR_DIGEST i)).toNat

end Sys2Proof.Machine
end

