-- ==== Sys2Proof/Machine/Fabric.lean ====
section
/-!
DEFINITION. What a panel's frames configure and what its logic then does: cells, carry chains, wide multiplexers, flip-flops and block
memory (07_marquetry_fabric.md R238 to R254). The panel routing model, with its track numbers, and the bits of the border frames are
Nirden's tools' (R254): each is a constant that nothing fixes (assumption 147).
-/
namespace Sys2Proof.Machine

/-- A block memory or weft port signal that the border brings to the logic. -/
inductive Pin
  | ball (u : Nat)
  | memOut (blk : Nat) (portB : Bool) (bit : Nat)
  | memErr (blk : Nat) (portB : Bool)
  | reqValid (k : Nat)
  | reqWrite (k : Nat)
  | reqAddr (k bit : Nat)
  | reqData (k bit : Nat)
  | rspValid (k : Nat)
  | rspBusy (k : Nat)
  | rspData (k bit : Nat)
deriving DecidableEq, Repr, Inhabited

/-- What drives a routing track: nothing, a cell's LUT output a or b, its FF0 or FF1, its carry output, or a border signal. -/
inductive Net
  | low
  | lut (x y : Nat) (b : Bool)
  | ff (x y : Nat) (b : Bool)
  | cout (x y : Nat)
  | pin (p : Pin)
deriving DecidableEq, Repr, Inhabited

/-- A border input that a track drives: the panel reset network, a mitre cell's output value or enable, a pin of a block memory port. -/
inductive Sink
  | reset
  | ballOut (u : Nat)
  | ballEn (u : Nat)
  | memEn (blk : Nat) (portB : Bool)
  | memWe (blk : Nat) (portB : Bool)
  | memAddr (blk : Nat) (portB : Bool) (bit : Nat)
  | memIn (blk : Nat) (portB : Bool) (bit : Nat)
deriving DecidableEq, Repr, Inhabited

end Sys2Proof.Machine

namespace Sys2Proof.Config
open Sys2Proof.Machine

/-- The panel routing model: what a 13-bit select of the cell (x, y) names. -/
opaque track (x y sel : Nat) : Net

/-- What the border frames connect to a border input. -/
opaque sink (border : List (BitVec 8)) (k : Sink) : Net

/-- The width of a block memory port that the border frames choose, as the power of 2 of its bytes, modulo 4 (R248). -/
opaque memWidth (border : List (BitVec 8)) (blk : Nat) (portB : Bool) : Nat

end Sys2Proof.Config

namespace Sys2Proof.Machine

/-! The 24 bytes of a cell (R253, R254). -/

/-- The bytes of cell (x, y): column x starts at frame 1 + 24 x. -/
def cellBytes (f : Mem) (x y : Nat) : List Byte := f.rdBytes (128 * (1 + 24 * x) + 24 * y) 24

def cellTruth (f : Mem) (x y : Nat) : Nat := leNat (sliceOf (cellBytes f x y) 0 8)

/-- Byte 8: FF0_SRC, FF1_SRC, FF0_INIT, FF1_INIT, CE_USE, SPLIT, CARRY, JOIN from bit 0 up. -/
def cellFlag (f : Mem) (x y i : Nat) : Bool := bitOf (leNat (sliceOf (cellBytes f x y) 8 1)) i

def ffSrc (f : Mem) (x y : Nat) (b : Bool) : Bool := cellFlag f x y (b2n b)
def ffInit (f : Mem) (x y : Nat) (b : Bool) : Bool := cellFlag f x y (2 + b2n b)
def ceUse (f : Mem) (x y : Nat) : Bool := cellFlag f x y 4
def cellSplit (f : Mem) (x y : Nat) : Bool := cellFlag f x y 5
def cellCarry (f : Mem) (x y : Nat) : Bool := cellFlag f x y 6
def cellJoin (f : Mem) (x y : Nat) : Bool := cellFlag f x y 7

/-- ISEL: select k of nine, LUT inputs 0 to 5, DX (6), DY (7) and the clock enable (8). -/
def cellSel (f : Mem) (x y k : Nat) : Nat := bitsOf (leNat (sliceOf (cellBytes f x y) 9 15)) (13 * k) 13

/-- The size of the wide-multiplexer group that a cell belongs to: the largest of 8, 4 and 2 adjacent joined cells from a row that is a
multiple of it; 1 outside every group (R241). -/
def joinSize (f : Mem) (x y : Nat) : Nat :=
  let whole (g : Nat) : Bool := (List.range g).all fun j => cellJoin f x (y / g * g + j)
  if whole 8 then 8 else if whole 4 then 4 else if whole 2 then 2 else 1

/-! Signals (R239 to R241). -/

/-- A flip-flop's value: its INIT value or, where it is listed, the other. -/
def ffVal (p : Panel) (x y : Nat) (b : Bool) : Bool :=
  ffInit p.frames x y b != mget (fun _ => false) p.ff (2 * (128 * x + y) + b2n b)

/-- The number of a signal, for what a combinational loop gives it. -/
def netKey : Net → Nat
  | .low => 0
  | .lut x y b => 1 + 6 * (128 * x + y) + b2n b
  | .ff x y b => 3 + 6 * (128 * x + y) + b2n b
  | .cout x y => 5 + 6 * (128 * x + y)
  | .pin _ => 6

/-- A signal's level. `pins` gives the border's signals. A cell in a carry chain adds two bits and the carry of the cell below: its
functions a and b, or with one function the LUT output and DX; output a is the sum. The lowest cell of a wide-multiplexer group of g
cells gives as output a the function of the cell that the DX inputs of the group's lowest cells number. A combinational loop takes a
level that nothing fixes (02_guarantees.md R54; assumption 147). -/
def netVal (p : Panel) (pins : Pin → Bool) (loop : Nat) : Nat → Net → Bool
  | 0, n => bitOf loop (netKey n)
  | _ + 1, .low => false
  | _ + 1, .pin q => pins q
  | _ + 1, .ff x y b => ffVal p x y b
  | n + 1, .cout x y =>
    let f := p.frames
    let inp (y k : Nat) : Bool := netVal p pins loop n (Config.track x y (cellSel f x y k))
    let idx := (List.range 6).foldl (fun a k => a + b2n (inp y k) * 2 ^ k) 0
    let split := cellSplit f x y
    let a := bitOf (cellTruth f x y) (if split then idx % 32 else idx)
    let b := if split then bitOf (cellTruth f x y) (32 + idx % 32) else inp y 6
    let c := decide (y > 0) && cellCarry f x (y - 1) && netVal p pins loop n (.cout x (y - 1))
    (a && b) || (a && c) || (b && c)
  | n + 1, .lut x y b2 =>
    let f := p.frames
    let inp (y k : Nat) : Bool := netVal p pins loop n (Config.track x y (cellSel f x y k))
    let fn (y : Nat) (b : Bool) : Bool :=
      let idx := (List.range 6).foldl (fun a k => a + b2n (inp y k) * 2 ^ k) 0
      bitOf (cellTruth f x y) (if cellSplit f x y then idx % 32 + 32 * b2n b else idx)
    let g := joinSize f x y
    if b2 then fn y true
    else if cellCarry f x y then
      let b := if cellSplit f x y then fn y true else inp y 6
      let c := decide (y > 0) && cellCarry f x (y - 1) && netVal p pins loop n (.cout x (y - 1))
      (fn y false != b) != c
    else if g > 1 ∧ y % g = 0 then
      let k := b2n (inp y 6) + (if g ≥ 4 then 2 * b2n (inp (y + 1) 6) else 0) + (if g ≥ 8 then 4 * b2n (inp (y + 2) 6) else 0)
      fn (y + k) false
    else fn y false

/-- Signals on the longest path without a loop: three for each of 12,288 cells. -/
def netDepth : Nat := 40000

/-- The bytes of the border frames, 2,305 to 2,559. -/
def borderBytes (f : Mem) : List Byte := f.rdBytes (128 * 2305) (128 * 255)

/-- The level that the logic presents at a border input. -/
def sinkVal (p : Panel) (pins : Pin → Bool) (loop : Nat) (k : Sink) : Bool :=
  netVal p pins loop netDepth (Config.sink (borderBytes p.frames) k)

/-- A number presented on some border inputs, bit 0 first. -/
def sinkNum (p : Panel) (pins : Pin → Bool) (loop n : Nat) (k : Nat → Sink) : Nat :=
  (List.range n).foldl (fun a i => a + b2n (sinkVal p pins loop (k i)) * 2 ^ i) 0

/-! One edge of the panel clock (R239, R244, R248, R249, R273). -/

/-- The next value of a flip-flop: INIT under the panel reset network, its own value without its clock enable, or its source. -/
def ffNext (p : Panel) (pins : Pin → Bool) (loop : Nat) (reset : Bool) (x y : Nat) (b : Bool) : Bool :=
  let f := p.frames
  let inp (k : Nat) : Bool := netVal p pins loop netDepth (Config.track x y (cellSel f x y k))
  if reset then ffInit f x y b
  else if ceUse f x y && !inp 8 then ffVal p x y b
  else if ffSrc f x y b then inp (6 + b2n b)
  else netVal p pins loop netDepth (.lut x y b)

/-- The flip-flops after the edge. -/
def ffEdge (p : Panel) (pins : Pin → Bool) (loop : Nat) : SMap Bool :=
  let reset := sinkVal p pins loop .reset
  (List.range 24576).foldl (fun m i =>
    let (x, y, b) := (i / 256, i / 2 % 128, decide (i % 2 = 1))
    mput (fun _ => false) m i (ffNext p pins loop reset x y b != ffInit p.frames x y b)) []

/-- What a block memory port does at the edge: disabled, or an access of 2^w bytes at a byte address of block memory, with the
data that it writes, if any. -/
structure MemOp where
  blk : Nat
  portB : Bool
  addr : Nat
  w : Nat
  data : Option Nat
deriving DecidableEq, Repr

/-- The access that the logic asks of a port; writes are suppressed under the write-enable hold (R273). -/
def bramOp (p : Panel) (pins : Pin → Bool) (loop : Nat) (held : Bool) (j : Nat) (portB : Bool) : Option MemOp :=
  if !sinkVal p pins loop (.memEn j portB) then none
  else
    let w := Config.memWidth (borderBytes p.frames) j portB % 4
    let a := sinkNum p pins loop (11 - w) (.memAddr j portB)
    some { blk := j, portB := portB, addr := 2048 * j + a * 2 ^ w, w := w
           data := if !held && sinkVal p pins loop (.memWe j portB) then some (sinkNum p pins loop (8 * 2 ^ w) (.memIn j portB)) else none }

/-- The accesses of one edge: port B first, so that the write of port A takes effect (R249). Port B belongs to user logic while the
block's BRAM_WIN bit is 0 (R248). -/
def memOps (p : Panel) (pins : Pin → Bool) (loop : Nat) (held : Bool) (win : Word) : List MemOp :=
  ((List.range 32).filter fun j => !win.getLsbD j).filterMap (fun j => bramOp p pins loop held j true)
    ++ (List.range 32).filterMap fun j => bramOp p pins loop held j false

/-- A port's output after its access: the data it writes, or what stood there before the edge (R249). -/
def MemOp.out (m : Mem) (o : MemOp) : Nat := o.data.getD (leNat (m.rdBytes o.addr (2 ^ o.w)))

/-- Block memory after one access. -/
def MemOp.write (m : Mem) (o : MemOp) : Mem :=
  match o.data with
  | some v => m.wrBytes o.addr (leBytes (2 ^ o.w) v)
  | none => m

/-- A panel after one edge of its clock. `rst` and `we` are its reset and write-enable holds. -/
def clockPanel (pins : Pin → Bool) (loop : Nat) (win : Word) (rst we : Bool) (p : Panel) : Panel :=
  let ops := memOps p pins loop we win
  let key (o : MemOp) : Nat := 2 * o.blk + b2n o.portB
  { p with ff := if rst then [] else ffEdge p pins loop
           bram := ops.foldl MemOp.write p.bram
           bout := ops.foldl (fun m o => mput (fun _ => 0) m (key o) (o.out p.bram)) p.bout
           berr := ops.foldl (fun m o => mput (fun _ => false) m (key o) false) p.berr }

end Sys2Proof.Machine
end

