-- ==== Sys2Proof/Machine/Mqy.lean ====
section
/-!
DEFINITION. Fabric panels: holds, stalls, weft ports, block memory, mitre cells and the border page (07_marquetry_fabric.md R248 to
R286). What the logic presents at a weft port comes with the commands.
-/
namespace Sys2Proof.Machine

def panelPort (s : State) (p k : Nat) : PanelPort := mget (fun _ => PanelPort.reset) (s.panel p).ports k

def setPanelPort (p k : Nat) (x : PanelPort) (s : State) : State :=
  (s.setPanel p { s.panel p with ports := mput (fun _ => PanelPort.reset) (s.panel p).ports k x }).set
    (R.MQY_PORT_QUEUED p k) x.queue.length

def outHeld (s : State) (p : Nat) : Bool := s.flag (R.MQY_STAT_OUT_HELD p)
def rstHeld (s : State) (p : Nat) : Bool := s.flag (R.MQY_STAT_RST_HELD p)

/-- The panel's clock source: MQY_STAT.SRC, and CLK_ISL.SRC (R243; 03_islands_and_weft.md R75, R113). -/
def setPanelSrc (p : Nat) (pll : Bool) (s : State) : State :=
  (s.set (R.MQY_STAT_SRC p) (b2n pll)).set (R.CLK_ISL_SRC (islMQY p)) (b2n pll)

/-! What the border brings to the logic, and what the logic drives onto the balls (R248, R260, R265 to R271). -/

/-- The border's signals as panel p's logic sees them. -/
def panelPins (s : State) (p : Nat) : Pin → Bool
  | .ball u => mget (fun _ => false) s.mqy.level (40 * (p / 2) + u)
  | .memOut j b i => bitOf (mget (fun _ => 0) (s.panel p).bout (2 * j + b2n b)) i
  | .memErr j b => mget (fun _ => false) (s.panel p).berr (2 * j + b2n b)
  | .reqValid k => decide ((panelPort s p k).queue ≠ [])
  | .reqWrite k => (panelPort s p k).queue.head?.any (·.write)
  | .reqAddr k i => (panelPort s p k).queue.head?.any fun q => bitOf q.off i
  | .reqData k i => (panelPort s p k).queue.head?.any fun q => q.data.getLsbD i
  | .rspValid k => (mget (fun _ => none) (s.panel p).rsp k).isSome
  | .rspBusy k => (mget (fun _ => none) (s.panel p).rsp k).any (·.2)
  | .rspData k i => (mget (fun _ => none) (s.panel p).rsp k).any fun r => r.1.getLsbD i

/-- A panel is configured, its clock runs, and it is not being rewritten. -/
def panelRuns (s : State) (p : Nat) : Bool :=
  s.up (islMQY p) && !s.flag (R.MQY_STAT_EMPTY p) && !(s.panel p).stall

/-- The panel that a bank ball belongs to after claim resolution (R267). -/
def ballOwner (s : State) (bank u : Nat) : Option Nat :=
  [2 * bank, 2 * bank + 1].find? fun q => bitOf (s.rd64 (R.MQY_UIO_OWN_LO q)) u

/-- What panel q's logic drives onto bank ball u: a level, or nothing. -/
def logicDrive (s : State) (q loop u : Nat) : Option Bool :=
  let x := s.panel q
  if panelRuns s q && sinkVal x (panelPins s q) loop (.ballEn u) then some (sinkVal x (panelPins s q) loop (.ballOut u)) else none

/-- What a mitre cell drives at the park value `park` (R270). -/
def parkDrive (x : Panel) (u : Nat) : Nat → Option Bool
  | 0 => if bitOf x.keep (40 + u) then some (bitOf x.keep u) else none
  | 1 => some false
  | 2 => some true
  | _ => none

/-- What the device drives onto bank ball u: the owner's logic or, under its output hold, the park value; a ball without an owner stays at
its park value, high impedance where that is "keep" (R267, R268, R270). -/
def ballDrive (s : State) (bank loop u : Nat) : Option Bool :=
  let park := wget (mget (fun _ => 0) s.mqy.mitre (4 + 40 * bank + u)) 0 2
  if !s.mqy.mitreOn then none
  else
    match ballOwner s bank u with
    | some q => if outHeld s q then parkDrive (s.panel q) u park else logicDrive s q loop u
    | none => parkDrive Panel.reset u park

/-- The level of a ball: what the device drives or, where it drives nothing, what the board drives; where the board drives nothing
either, its pull or the level that its bus-keeper holds (R268, R270; 06_veneer_image.md R197). What the board does is free. -/
def ballLevel (s : State) (bank loop board u : Nat) : Bool :=
  match ballDrive s bank loop u with
  | some v => v
  | none =>
    if bitOf board (40 + u) then bitOf board u
    else
      match if s.mqy.mitreOn then wget (mget (fun _ => 0) s.mqy.mitre (4 + 40 * bank + u)) 2 2 else 0 with
      | 1 => true
      | 2 => false
      | 3 => mget (fun _ => false) s.mqy.level (40 * bank + u)
      | _ => bitOf board (80 + u)

/-- The levels of a bank's balls at this instant. -/
def refreshBank (bank : Nat) (s : State) : State :=
  let (loop, s) := s.draw 32
  let (board, s) := s.draw 17
  { s with mqy.level := (List.range 40).foldl (fun m u => mput (fun _ => false) m (40 * bank + u) (ballLevel s bank loop board u)) s.mqy.level }

/-- One clock edge of every panel that runs: the balls' levels reach the logic, then its flip-flops and block memory ports act. -/
def clockPanels (s : State) : State :=
  let s := (List.range 4).foldl (fun s b => if panelRuns s (2 * b) || panelRuns s (2 * b + 1) then refreshBank b s else s) s
  (List.range 8).foldl (fun s p =>
    if !panelRuns s p then s
    else
      let (loop, s) := s.draw 32
      s.setPanel p (clockPanel (panelPins s p) loop (s.rd (R.MQY_BRAM_WIN p)) (rstHeld s p) (s.flag (R.MQY_STAT_WE_HELD p)) (s.panel p))) s

/-! Holds (R270, R273 to R277). -/

/-- The output hold: balls parked at "keep" hold the value and enable that the logic drives at this instant (R270). -/
def holdOut (p : Nat) (s : State) : State :=
  if outHeld s p then s
  else
    let (loop, s) := s.draw 32
    let drive (u : Nat) : Nat :=
      match logicDrive s p loop u with
      | some v => b2n v * 2 ^ u + 2 ^ (40 + u)
      | none => 0
    (s.setPanel p { s.panel p with keep := (List.range 40).foldl (fun a u => a + drive u) 0 }).set (R.MQY_STAT_OUT_HELD p) 1

/-- A clamp: the three holds in order (R277); every flip-flop takes its INIT value, and responses to the logic's requests become stale
(R264, R273). -/
def clampPanel (p : Nat) (s : State) : State :=
  let s := ((holdOut p s).set (R.MQY_STAT_WE_HELD p) 1).set (R.MQY_STAT_RST_HELD p) 1
  s.setPanel p { s.panel p with ff := [], gen := (s.panel p).gen + 1 }

/-- One unclamp step of a panel (R276). -/
def unclampPanel (step p : Nat) (s : State) : State :=
  match step with
  | 1 => s.set (R.MQY_STAT_OUT_HELD p) 0
  | 2 => s.set (R.MQY_STAT_WE_HELD p) 0
  | _ => s.set (R.MQY_STAT_RST_HELD p) 0

/-- VNR_PANEL_STAT.STATE: 0 EMPTY, 1 LOADED, 2 PATCHING, 3 FAILED. -/
def panelState (s : State) (p : Nat) : Nat := s.get (R.VNR_PANEL_STAT_STATE p)

def setPanelState (p v : Nat) (s : State) : State := s.set (R.VNR_PANEL_STAT_STATE p) v

/-! Completion with PANEL_BUSY (R262, R265, R279, R280). -/

/-- A response leaves for the panel logic that made a request: the oldest such request of its port that waits takes it; a request
answered on arrival has it at once (R265; assumption 150). -/
def answerPanel (p k : Nat) (q : PanelAccess) (busy : Bool) (s : State) : State :=
  let x := s.panel p
  let v := mget (fun _ => 0) s.resp (0x208 + p)
  let is := mget (fun _ => []) x.issued k
  match is.findIdx? fun i => decide (i.req = q) && i.ans.isNone with
  | some i =>
    s.setPanel p { x with issued := mput (fun _ => []) x.issued k (is.modify i fun e => { e with ans := some (v, busy) }) }
  | none => s.setPanel p { x with rsp := mput (fun _ => none) x.rsp k (some (v, busy)) }

/-- A request of a thread or a panel is answered: a thread's read, or the oldest such write, waits for the response only (R265). -/
def markReq (p : Nat) (q : PanelAccess) (w : ReqWait) (s : State) : State :=
  match q.agent with
  | .thread n t =>
    let tid := 8 * n + t
    let x := s.thread tid
    if q.write then
      let a := 0x21000000 + 0x100000 * p + q.off
      match x.writes.findIdx? fun e => decide (e = (a, ReqWait.atPanel)) with
      | some i => s.setThread tid { x with writes := x.writes.set i (a, w) }
      | none => s
    else
      match x.read with
      | some r => if r.wait = .atPanel then s.setThread tid { x with read := some { r with wait := w } } else s
      | none => s
  | .panel pp k => answerPanel pp k q (decide (w = .busy)) s
  | _ => s

/-- What an agent's request that completes with PANEL_BUSY returns: a read 0, a write nothing. -/
def busyAnswer (p : Nat) (s : State) (q : PanelAccess) : State :=
  markReq p q .busy (if q.write then s else respond (agentId q.agent) 0 s)

/-- N46 for a stall, once per stall (R280). -/
def stallNotice (p : Nat) (s : State) : State :=
  if (s.panel p).stallTold then s.set (R.MQY_NSTAT_BUSY p) 1
  else cause (R.MQY_NSTAT_BUSY p) 46 (s.setPanel p { s.panel p with stallTold := true })

/-- Requests complete with PANEL_BUSY by a stall. -/
def stallBusy (p : Nat) (qs : List PanelAccess) (s : State) : State :=
  if qs = [] then s else stallNotice p ((qs.foldl (busyAnswer p) s).bump (R.MQY_BUSY_CNT p) qs.length)

/-- A stall begins: every request in a port queue completes with PANEL_BUSY; those that the border had left unacknowledged behind a full
queue wait on the stall (R278 to R280). -/
def stallBegin (p : Nat) (s : State) : State :=
  if (s.panel p).stall then s
  else
    let qs := (List.range 4).flatMap fun k => (panelPort s p k).queue
    let ws := (List.range 4).flatMap fun k => (panelPort s p k).waiting
    let s := (List.range 4).foldl (fun s k => setPanelPort p k { panelPort s p k with queue := [], waiting := [] } s) s
    stallBusy p qs (s.setPanel p { s.panel p with stall := true, stallAt := s.now, stallOld := false, stallTold := false, stallWait := ws })

/-- The stall is 100 µs old: device time says so, or a request has waited as long on it (R280). -/
def stallAged (s : State) (p : Nat) : Bool := (s.panel p).stallOld || decide ((s.panel p).stallAt + 100000 ≤ s.now)

/-! The panel window (R248, R250, R257 to R260, R274, R285). -/

def bramOpen (s : State) (p off : Nat) : Bool := (s.rd (R.MQY_BRAM_WIN p)).getLsbD (off % 65536 / 2048)

def bramWord (s : State) (p off : Nat) : Word := BitVec.ofNat 32 (leNat ((s.panel p).bram.rdBytes (off % 65536 / 4 * 4) 4))

def bramWrite (p off : Nat) (v : Word) (s : State) : State :=
  s.setPanel p { s.panel p with bram := (s.panel p).bram.wrBytes (off % 65536 / 4 * 4) (leBytes 4 v.toNat) }

/-- MQY_UIO_IN: the levels of the bank's balls (R271, R285). -/
def uioIn (p : Nat) (s : State) : Nat × State :=
  let s := refreshBank (p / 2) s
  ((List.range 40).foldl (fun a u => a + b2n (mget (fun _ => false) s.mqy.level (40 * (p / 2) + u)) * 2 ^ u) 0, s)

/-- Requests of panel p's port k that await their response. -/
def outstanding (s : State) (p k : Nat) : Nat := (mget (fun _ => []) (s.panel p).issued k).length

/-- A word of the border page as it is. -/
def borderWord (p o : Nat) (s : State) : Word × State :=
  if o = R.MQY_UIO_IN_LO p ∨ o = R.MQY_UIO_IN_HI p then
    let (v, s) := uioIn p s
    (BitVec.ofNat 32 (if o = R.MQY_UIO_IN_LO p then v else v / 2 ^ 32), s)
  else if R.MQY_PORT p 0 ≤ o ∧ o < R.MQY_PORT p 4 then
    (wset (s.rd o) 16 5 (outstanding s p ((o - R.MQY_PORT p 0) / 4)), s)
  else codeRead o s

/-- A read of the border page; UIO_IN and UIO_OWN are split pairs (R285; 00_scope.md R15). -/
def borderRead (a : Agent) (p off : Nat) (s : State) : Word × State :=
  let o := 0x1000000 + 0x100000 * p + off
  if off = 0x10 ∨ off = 0x18 then pairRead a o false (borderWord p) s
  else if off = 0x14 ∨ off = 0x1C then pairRead a (o - 4) true (borderWord p) s
  else borderWord p o s

/-- A request into the panel's window that the border acknowledges: the border's own registers, block memory, or a port's queue. -/
def panelServed (p : Nat) (q : PanelAccess) (s : State) : Out :=
  let aid := agentId q.agent
  if q.off < 0x1000 then
    if q.write then codeWrite (0x1000000 + 0x100000 * p + q.off / 4 * 4) q.data s
    else
      let (v, s) := borderRead q.agent p (q.off / 4 * 4) s
      .next (respond aid v s)
  else if 0x10000 ≤ q.off ∧ q.off < 0x20000 then
    if q.write then .next (if bramOpen s p q.off then bramWrite p q.off q.data s else s)
    else .next (respond aid (if bramOpen s p q.off then bramWord s p q.off else 0) s)
  else if 0x80000 ≤ q.off ∧ q.off < 0x100000 then
    let k := (q.off - 0x80000) / 0x20000
    let x := panelPort s p k
    let zero (s : State) : State := if q.write then s else respond aid 0 s
    if rstHeld s p then .next (zero (s.bump (R.MQY_DROP_CNT p)))
    else if !s.flag (R.MQY_PORT_TGT_EN p k) then .next (zero s)
    else if s.flag (R.MQY_PORT_FAILFAST p k) then .next (busyAnswer p (s.bump (R.MQY_TMO_CNT p)) q)
    else if x.queue.length < 16 then .next (setPanelPort p k { x with queue := x.queue ++ [q] } s)
    else .next (setPanelPort p k { x with waiting := x.waiting ++ [q] } s)
  else .next (if q.write then s else respond aid 0 s)

/-- The panel has not answered the request yet. -/
def panelHas (p : Nat) (q : PanelAccess) (s : State) : Bool :=
  (s.panel p).stallWait.contains q ||
    (List.range 4).any fun k => (panelPort s p k).queue.contains q || (panelPort s p k).waiting.contains q

/-- A panel's request that its destination has not answered is outstanding at the port that issued it (R263). -/
def noteIssue (q : PanelAccess) (s : State) : State :=
  match q.agent with
  | .panel pp k =>
    let x := s.panel pp
    s.setPanel pp { x with issued := mput (fun _ => []) x.issued k (mget (fun _ => []) x.issued k ++ [{ req := q, gen := x.gen, ans := none }]) }
  | _ => s

/-- The same, with what the requester learns of it. -/
def panelAccept (p : Nat) (q : PanelAccess) (s : State) : Out :=
  match panelServed p q s with
  | .next s => .next (if panelHas p q s then s else markReq p q .ready s)
  | r => r

/-- A request into the panel's window (R274, R279, R280); a panel that has no power answers at once (01_device_overview.md R39). -/
def panelRequest (p : Nat) (q : PanelAccess) (s : State) : Out :=
  let x := s.panel p
  if !s.powered (islMQY p) then .next (markReq p q .ready (if q.write then s else respond (agentId q.agent) 0 s))
  else if x.stall then
    .next (if stallAged s p then stallBusy p [q] s else noteIssue q (s.setPanel p { x with stallWait := x.stallWait ++ [q] }))
  else
    match panelServed p q s with
    | .next s => .next (if panelHas p q s then noteIssue q s else markReq p q .ready s)
    | r => r

/-- Requests in turn. -/
def panelServe (p : Nat) : List PanelAccess → State → Out
  | [], s => .next s
  | q :: qs, s =>
    match panelAccept p q s with
    | .next s => panelServe p qs s
    | r => r

/-- A stall ends: requests that still wait are served normally (R280). -/
def stallEnd (p : Nat) (s : State) : Out :=
  let qs := (s.panel p).stallWait
  panelServe p qs (s.setPanel p { s.panel p with stall := false, stallOld := false, stallTold := false, stallWait := [] })

/-! Commands. -/

/-- PANEL_REQUEST: a request for weft port k's user range, or through it for any part of the window. -/
def execPanelRequest (p _k : Nat) (req : PanelAccess) (s : State) : Out :=
  if decide (p ≥ 8) then stay s else panelRequest p req s

/-- PANEL_RESPONSE: customer logic answers the oldest queued request of port k (R260). The accesses that this lets go on follow
(Machine/HostPort.lean). -/
def panelResponseAct (p k : Nat) (data : Word) (s : State) : Out :=
  let x := panelPort s p k
  match x.queue with
  | [] => stay s
  | q :: qs =>
    if !s.up (islMQY p) || rstHeld s p then stay s
    else
      let s := markReq p q .ready (if q.write then s else respond (agentId q.agent) data s)
      .next (match x.waiting with
        | [] => setPanelPort p k { x with queue := qs } s
        | w :: ws => setPanelPort p k { x with queue := qs ++ [w], waiting := ws } s)

/-- PANEL_REQUEST_TIMEOUT: a request has been unanswered for 100 µs (R262). Requests that the full queue left unacknowledged
then find the port failing fast. The accesses that this lets go on follow (Machine/HostPort.lean). -/
def panelRequestTimeoutAct (p k : Nat) (s : State) : Out :=
  let x := panelPort s p k
  if x.queue = [] || !s.up (islMQY p) then stay s
  else
    let qs := x.queue ++ x.waiting
    let s := (qs.foldl (busyAnswer p) s).bump (R.MQY_TMO_CNT p) qs.length
    let s := (setPanelPort p k { x with queue := [], waiting := [] } s).set (R.MQY_PORT_FAILFAST p k) 1
    .next (cause (R.MQY_NSTAT_TIMEOUT p) 46 s)

/-- PORT_READY_ASSERT (R262). -/
def execPortReadyAssert (p k : Nat) (s : State) : Out :=
  if decide (p ≥ 8) || decide (k ≥ 4) || !s.flag (R.MQY_PORT_FAILFAST p k) then stay s
  else .next (s.set (R.MQY_PORT_FAILFAST p k) 0)

/-- STALL_REQUEST_TIMEOUT: the oldest request has waited for 100 µs, so a stall that began before it is as old (R280). The
accesses that this lets go on follow (Machine/HostPort.lean). -/
def stallRequestTimeoutAct (p : Nat) (s : State) : Out :=
  let x := s.panel p
  match x.stallWait with
  | [] => stay s
  | q :: qs =>
    if !x.stall then stay s else .next (stallBusy p [q] (s.setPanel p { x with stallWait := qs, stallOld := true }))

/-- BRAM_ECC_ERROR: a read of the byte address in block memory, by port A or B, finds an error: a single-bit error is corrected and
counted; a double-bit error sets the reading port's error flag and is recorded (R250). -/
def execBramEccError (p addr : Nat) (s : State) (portB single : Bool := false) : Out :=
  if !s.up (islMQY p) || decide (p ≥ 8) || decide (addr ≥ 65536) then stay s
  else if single then .next (s.bump (R.MQY_ECC_CNT p))
  else
    let x := s.panel p
    let s := s.setPanel p { x with berr := mput (fun _ => false) x.berr (2 * (addr / 2048) + b2n portB) true }
    .next (cause (R.MQY_NSTAT_ECC2 p) 45 (s.wr (R.MQY_ECC_ADDR p) (BitVec.ofNat 32 (2 ^ 31 + addr))))

/-- USER_NOTICE (R284). -/
def execUserNotice (p : Nat) (s : State) : Out :=
  if !s.up (islMQY p) || decide (p ≥ 8) then stay s else .next (cause (R.MQY_NSTAT_USER p) 47 s)

/-- BORDER_RESPONSE: the response to the oldest answered request of port k reaches the border, which accepts every response. One
whose request was issued by logic that has since been clamped or rewritten is discarded and counted; another reaches the logic with its
status (R264, R265). -/
def execBorderResponse (p k : Nat) (s : State) : Out :=
  let x := s.panel p
  let is := mget (fun _ => []) x.issued k
  match is.findIdx? fun i => i.ans.isSome with
  | none => stay s
  | some i =>
    let e := is.getD i default
    let s := s.setPanel p { x with issued := mput (fun _ => []) x.issued k (is.eraseIdx i) }
    if e.gen ≠ x.gen || rstHeld s p then .next (s.bump (R.MQY_DROP_CNT p))
    else .next (s.setPanel p { s.panel p with rsp := mput (fun _ => none) x.rsp k e.ans })

/-! Frame 0 and ball ownership (R255, R256, R267). -/

/-- A reserved encoding or bit of frame 0 is set (R256). -/
def frame0Bad (f : List Byte) : Bool :=
  let b (i : Nat) : Nat := (f.getD i 0).toNat
  decide (b 0 ≥ 3) || decide (leNat (sliceOf f 2 2) ≠ 0) || decide (leNat (f.drop 13) ≠ 0)

/-- Settles which panel of a bank owns a ball that both claim (R267). -/
def resolveClaims (b : Nat) (s : State) : State :=
  let e := 2 * b
  let o := e + 1
  let both := (s.panel e).claim &&& (s.panel o).claim
  let s := (s.wr64 (R.MQY_UIO_OWN_LO e) (s.panel e).claim).wr64 (R.MQY_UIO_OWN_LO o) ((s.panel o).claim ^^^ both)
  if both ≠ 0 then cause (R.MQY_NSTAT_CLAIM o) 46 s else s

/-- The control frame takes effect. One with a reserved encoding or bit has an unpredictable outcome within the panel (R256). -/
def applyFrame0 (p : Nat) (f : List Byte) (s : State) : State :=
  let s := if frame0Bad f then unpredPanel p s else s
  let b (i : Nat) : Nat := (f.getD i 0).toNat
  let s := (s.set (R.MQY_STAT_DIV p) (b 0 % 4)).set (R.MQY_STAT_EMPTY p) 0
  let s := s.wr (R.MQY_BRAM_WIN p) (BitVec.ofNat 32 (leNat (sliceOf f 4 4)))
  let s := (List.range 4).foldl (fun s k =>
    (s.set (R.MQY_PORT_TGT_EN p k) (bitsOf (b 1) k 1)).set (R.MQY_PORT_INI_EN p k) (bitsOf (b 1) (4 + k) 1)) s
  s.setPanel p { s.panel p with claim := leNat (sliceOf f 8 5) }

end Sys2Proof.Machine
end

