-- ==== Sys2Proof/Machine/Threads.lean ====
section
/-!
DEFINITION. Threads: faults and their notification, escalation, watchdogs, timers, control, shares, retirement of a core,
the halt and the start of a core's threads (12_whorl_cores_threads.md R450 to R473).
-/
namespace Sys2Proof.Machine

/-! The root supervisor and notification (R466, R467, R472). WHL_ROOT, WHL_NSTAT and WHL_NEN are one set of registers, which
the model keeps in core 0's window. -/

def rootCore (s : State) : Nat := s.get (R.WHL_ROOT_CORE 0)

/-- SUPER at the root supervisor (R455). -/
def raiseSuper (s : State) : State := raiseEvent (8 * rootCore s) 5 s

/-- A fault or escalation that reaches the host (R466, R467). -/
def escHost (s : State) : State := cause (R.WHL_NSTAT_ESCHOST 0) 70 s

/-- The root supervisor is FAULTED, STOPPED or HELD. -/
def rootGone (s : State) : Bool :=
  let st := (s.thread (8 * rootCore s)).st
  decide (st = 5 ∨ st = 4 ∨ st = 0)

/-- The notification of a fault (R466). -/
def notifyFault (tid : Nat) (s : State) : State :=
  let n := tid / 8
  let s := s.set ⟨R.WHL_CFLT n, tid % 8, 1⟩ 1
  if tid % 8 ≠ 0 then raiseEvent (8 * n) 4 s
  else if n = rootCore s then cause (R.WHL_NSTAT_ROOTFLT 0) 69 s
  else if rootGone s then escHost s
  else raiseSuper s

/-- Records a fault: cause, PC and address (R465 step 2). -/
def recordFault (cause_ : Nat) (addr : Word) (t : Thread) : Thread :=
  { t with fltCause := cause_, fltCount := satAdd 255 t.fltCount 1, fltPc := t.pc, flta := addr }

/-- A thread stops in a state: its outstanding read, fence and WAITLK registration go (R392, R465, R469). -/
def haltThread (st : Nat) (tid : Nat) (s : State) : State :=
  let s := dropWaiter tid s
  s.setThread tid { s.thread tid with st := st, waitOn := 0, read := none, fencing := false, storeErr := none }

/-- A fault of a thread (R465). -/
def threadFault (tid cause_ : Nat) (addr : Word) (s : State) : State :=
  let s := s.setThread tid (recordFault cause_ addr (s.thread tid))
  let s := haltThread 5 tid (loseTasks 0 tid s)
  let s := s.setThread tid { s.thread tid with esc := 0 }
  notifyFault tid (if cause_ = 0x10 then plyFault s else s)

/-! Watchdogs (R462, R463). -/

/-- A thread's watchdog counts: it is in RUN, or in WAIT on a weft read; not while it waits for a logged answer
(22_ply_pair.md R798). -/
def Thread.counts (x : Thread) : Bool :=
  decide (x.st = 1 ∨ (x.st = 2 ∧ x.waitOn = 4)) && !(match x.read with | some r => r.logged | none => false)

/-- The watchdog count in ns. -/
def wdogCount (s : State) (tid : Nat) : Nat :=
  let x := s.thread tid
  if x.counts then x.wdogAcc + (s.tnow (islWHL (tid / 8)) - x.wdogFrom) else x.wdogAcc

def wdogLimit (x : Thread) : Nat := if x.wdogUnits = 0 then 1000000 else x.wdogUnits * 100000

/-- WATCHDOG_EXPIRY. -/
def execWatchdogExpiry (tid : Nat) (s : State) : Out :=
  let x := s.thread tid
  if decide (tid ≥ 384) || !x.counts || decide (wdogCount s tid < wdogLimit x) then stay s else .next (threadFault tid 0x10 0 s)

/-- ESCALATION_TIMEOUT: a child fault has been unhandled for WHL_ESC_TO (R467). -/
def execEscalationTimeout (tid : Nat) (s : State) : Out :=
  let x := s.thread tid
  if decide (tid ≥ 384) || decide (x.st ≠ 5) || decide (tid % 8 = 0) || decide (x.esc ≠ 0) then stay s
  else .next (raiseSuper ((s.setThread tid { x with esc := 1 }).set (R.WHL_CERR_ESC (tid / 8)) 1))

/-- HOST_ESCALATION_TIMEOUT: a further WHL_ESC_TO for a child, the first for a core supervisor (R467). -/
def execHostEscalationTimeout (tid : Nat) (s : State) : Out :=
  let x := s.thread tid
  if decide (tid ≥ 384) || decide (x.st ≠ 5) || decide (x.esc ≠ if tid % 8 = 0 then 0 else 1) then stay s
  else .next (escHost (s.setThread tid { x with esc := 2 }))

/-! Timers and signals (R455, R457). -/

/-- A write of TCMP (R457). -/
def tcmpWrite (tid v : Nat) (s : State) : State :=
  let now := s.tnow (islWHL (tid / 8))
  let x := s.thread tid
  let x := { x with tcmp := v, tcmpHeld := none, evp := x.evp &&& 0xFFF7, armed := decide (v ≠ tcmpNever ∧ now < v) }
  let s := s.setThread tid x
  if v ≤ now then raiseEvent tid 3 s else s

/-- TIMER_EXPIRY. -/
def execTimerExpiry (tid : Nat) (s : State) : Out :=
  let x := s.thread tid
  if !x.armed || decide (s.tnow (islWHL (tid / 8)) < x.tcmp) then stay s
  else .next (raiseEvent tid 3 (s.setThread tid { x with armed := false }))

/-- THREAD_SIGNAL: a write of WHL_TSIG by any agent. -/
def execThreadSignal (a : Agent) (tid : Nat) (s : State) : Out :=
  if decide (tid ≥ 384) then stay s else access a (R.WHL_TSIG (tid / 8) (tid % 8)) 1 (fun s => .next (raiseEvent tid 6 s)) s

/-! Control (R468 to R470). -/

/-- The agent may write the control registers of a thread (R468). The debug port counts as the host. -/
def mayControl (s : State) (a : Agent) (tid : Nat) : Bool :=
  match a with
  | .host => true
  | .debug => true
  | .panel _ _ => false
  | .thread m u =>
    let root := decide (m = rootCore s ∧ u = 0)
    if tid % 8 = 0 then root && decide (tid ≠ 8 * m) else (decide (u = 0) && decide (m = tid / 8)) || root

/-- A control write that is not permitted (R468). -/
def refuseControl (tid : Nat) (s : State) : State := s.set (R.WHL_CERR_AUTH (tid / 8)) 1

/-- Registers at RESTART and at apply (R470, R509, R512, R519). -/
def Thread.fromStart (now : Nat) (x : Thread) (pc : Nat) (form : Bool) : Thread :=
  { Thread.reset with
    st := 1, pc := pc, form := form, wdogFrom := now, fltCause := x.fltCause, fltCount := x.fltCount, fltPc := x.fltPc,
    flta := x.flta, tpc := x.tpc, wdogUnits := x.wdogUnits, qshare := x.qshare, qused := x.qused, bshare := x.bshare,
    bused := x.bused, dynamicShares := x.dynamicShares, entry := x.entry, entryForm := x.entryForm, start := x.start,
    writes := x.writes }

/-- A thread starts at an address in a form. -/
def startThread (tid pc : Nat) (form : Bool) (s : State) : State :=
  let s := s.setThread tid ((s.thread tid).fromStart (s.tnow (islWHL (tid / 8))) pc form)
  resetReqs tid (s.set ⟨R.WHL_CFLT (tid / 8), tid % 8, 1⟩ 0)

/-- STOP (R469). -/
def threadStop (tid : Nat) (rellk : Bool) (s : State) : State :=
  if (s.thread tid).st = 0 then (if rellk then releaseLocks (· = tid) s else s)
  else
    let s := haltThread 4 tid (loseTasks 0 tid s)
    let s := s.set ⟨R.WHL_CFLT (tid / 8), tid % 8, 1⟩ 0
    if rellk then releaseLocks (· = tid) s else s

/-- RESTART (R469). -/
def threadRestart (tid : Nat) (v : Word) (s : State) : State :=
  let s := dropWaiter tid (loseTasks 0 tid s)
  let s := if v.getLsbD 4 then releaseLocks (· = tid) s else s
  let x := s.thread tid
  if v.getLsbD 5 then startThread tid x.tpc (v.getLsbD 6) s else startThread tid x.entry x.entryForm s

/-- A write of WHL_TCTL: a command to a thread of a core not in service is ignored. -/
def tctlWrite (a : Agent) (tid : Nat) (v : Word) (s : State) : State :=
  if !mayControl s a tid then refuseControl tid s
  else if !inService s (tid / 8) || s.halted then s
  else
    match wget v 0 2 with
    | 1 => threadStop tid (v.getLsbD 4) s
    | 2 => threadRestart tid v s
    | _ => s

/-- THREAD_STOP: a write of WHL_TCTL with CMD = STOP. -/
def execThreadStop (a : Agent) (tid : Nat) (v : Word) (s : State) : Out :=
  if decide (tid ≥ 384) || decide (wget v 0 2 ≠ 1) then stay s
  else access a (R.WHL_TCTL (tid / 8) (tid % 8)) v (fun s => .next (tctlWrite a tid v s)) s

/-- THREAD_RESTART: a write of WHL_TCTL with CMD = RESTART. -/
def execThreadRestart (a : Agent) (tid : Nat) (v : Word) (s : State) : Out :=
  if decide (tid ≥ 384) || decide (wget v 0 2 ≠ 2) then stay s
  else access a (R.WHL_TCTL (tid / 8) (tid % 8)) v (fun s => .next (tctlWrite a tid v s)) s

/-- A write of WHL_TPC, WHL_TWDOG, WHL_TQSH, WHL_TBSH or WHL_TBUSED, by register offset in the thread's group (R458, R461,
R463, R468). Shares are fixed while static. -/
def ctlWrite (a : Agent) (tid o : Nat) (v : Word) (s : State) : State :=
  let x := s.thread tid
  let bytes (m : SMap Nat) (d base : Nat) : SMap Nat :=
    (List.range 4).foldl (fun m k => mput (fun _ => d) m (base + k) (wget v (8 * k) 8)) m
  let share (y : Thread) : State := if x.dynamicShares then s.setThread tid y else s.set (R.WHL_CERR_SHARE (tid / 8)) 1
  if !mayControl s a tid then refuseControl tid s
  else if o = 0x04 then s.setThread tid { x with tpc := wget v 0 16 }
  else if o = 0x14 then s.setThread tid { x with wdogUnits := wget v 0 16 }
  else if o = 0x18 then share { x with qshare := wget v 0 10 }
  else if o = 0x200 then share { x with bshare := bytes x.bshare 255 0 }
  else if o = 0x204 then share { x with bshare := bytes x.bshare 255 4 }
  else if o = 0x208 then s.setThread tid { x with bused := bytes x.bused 0 0 }
  else if o = 0x20C then s.setThread tid { x with bused := bytes x.bused 0 4 }
  else s

/-- What a thread's registers read (R475), by the same offsets, with TSTATE 0x08, TFLT 0x0C and TFLTA 0x10. -/
def ctlRead (s : State) (tid o : Nat) : Word :=
  let x := s.thread tid
  let bytes (m : SMap Nat) (d base : Nat) : Word :=
    BitVec.ofNat 32 ((List.range 4).foldl (fun a k => a + mget (fun _ => d) m (base + k) % 256 * 2 ^ (8 * k)) 0)
  if o = 0x04 then BitVec.ofNat 32 x.tpc
  else if o = 0x08 then BitVec.ofNat 32 (x.st + (if x.st = 2 then x.waitOn * 16 else 0) + x.pc % 65536 * 65536)
  else if o = 0x0C then BitVec.ofNat 32 (x.fltCause + x.fltCount * 256 + x.fltPc % 65536 * 65536)
  else if o = 0x10 then x.flta
  else if o = 0x14 then BitVec.ofNat 32 (x.wdogUnits + min 65535 (wdogCount s tid / 100000) * 65536)
  else if o = 0x18 then BitVec.ofNat 32 (x.qshare + min 1023 x.qused * 65536)
  else if o = 0x200 then bytes x.bshare 255 0
  else if o = 0x204 then bytes x.bshare 255 4
  else if o = 0x208 then bytes x.bused 0 0
  else if o = 0x20C then bytes x.bused 0 4
  else 0

/-! Local memory through the WHL window (R450, R453, R471). -/

/-- A write of a word of core n's local memory: unpredictable within the block where the core is in service, but for its own
threads (R453). -/
def lmWindowWrite (a : Agent) (n off : Nat) (v : Word) (s : State) : Out :=
  let own := match a with | .thread m _ => decide (m = n) | _ => false
  if s.flag (R.WHL_CSTAT_RETIRED n) then stay s
  else if inService s n && !own then .next (unpredBlock (0x800000 + 0x20000 * n) s)
  else .next (coreWrite n (off / 4 * 4) (leBytes 4 v.toNat) s)

/-- A read of a word of core n's local memory: 0 once the core is retired (R471). -/
def lmWindowRead (s : State) (n off : Nat) : Word :=
  if s.flag (R.WHL_CSTAT_RETIRED n) then 0 else BitVec.ofNat 32 (leNat ((s.core n).mem.rdBytes (off / 4 * 4) 4))

/-- LOCAL_MEMORY_WINDOW_WRITE: a narrow write is ignored (00_scope.md R13, 13_whorl_isa_model.md R485). -/
def execLocalMemoryWindowWrite (a : Agent) (n off be : Nat) (v : Word) (s : State) : Out :=
  if decide (n ≥ 48) || decide (off ≥ 65536) || decide (be ≠ 15) then stay s
  else access a (0x810000 + 0x20000 * n + off) v (lmWindowWrite a n off v) s

/-! Retirement, halt and start (R454, R458, R471 to R473). -/

/-- Every thread of a core that runs or waits stops with a cause, and where the core leaves service (0x13) a FAULTED one too; a HELD
thread was never started (R471, R473; assumption 170). -/
def stopCore (cause_ n : Nat) (s : State) : State :=
  (List.range 8).foldl (fun s t =>
    let tid := 8 * n + t
    let x := s.thread tid
    if x.st = 1 ∨ x.st = 2 ∨ x.st = 3 ∨ (x.st = 5 ∧ cause_ = 0x13) then
      (haltThread 4 tid (s.setThread tid (recordFault cause_ 0 x))).set ⟨R.WHL_CFLT n, t, 1⟩ 0
    else s) s

/-- The root role passes on when its core leaves service (R472). -/
def rootMove (n : Nat) (s : State) : State :=
  if rootCore s ≠ n then s
  else
    match (List.range 48).find? fun m => decide (m ≠ n) && inService s m with
    | none => s
    | some m =>
      let s := ((s.set (R.WHL_ROOT_CORE 0) m).set (R.WHL_CSTAT_ROOT n) 0).set (R.WHL_CSTAT_ROOT m) 1
      raiseSuper (cause (R.WHL_NSTAT_ROOTMOVE 0) 70 s)

/-- The locks of a core's threads are released (10_buffers_and_locks.md R393). -/
def coreLocks (n : Nat) (s : State) : State := releaseLocks (fun o => decide (o < 384) && decide (o / 8 = n)) s

/-- A thread of a core that takes a program is held until it starts; the packets that it holds are dropped as congestion
(06_veneer_image.md R230). -/
def holdThread (tid : Nat) (s : State) : State :=
  let s := dropWaiter tid (loseTasks 1 tid s)
  s.setThread tid { (s.thread tid).fromStart 0 0 false with st := 0 }

/-- Shows SVC (R475). -/
def setSvc (n : Nat) (v : Bool) (s : State) : State :=
  (s.setCore n { s.core n with svc := v }).set (R.WHL_CSTAT_SVC n) (b2n v)

/-- A core leaves service for good (R471). -/
def retireCore (n : Nat) (s : State) : State :=
  if (s.core n).retired then s
  else
    let s := coreLocks n (dstCoresLeave [n] (setSvc n false (stopCore 0x13 n s)))
    let s := (s.setCore n { s.core n with retired := true }).set (R.WHL_CSTAT_RETIRED n) 1
    raiseSuper (rootMove n s)

/-- The halt stops every thread (R473). -/
def haltCores (s : State) : State := (List.range 48).foldl (fun s n => stopCore 0x14 n s) s

/-- A core enters service: thread 0 runs, and every thread whose CODE START bit is 1 (R454). -/
def startCore (n : Nat) (s : State) : State :=
  (List.range 8).foldl (fun s t =>
    let x := s.thread (8 * n + t)
    if t = 0 || x.start then startThread (8 * n + t) x.entry x.entryForm s else s) (setSvc n true s)

end Sys2Proof.Machine
end

