-- ==== Sys2Proof/Machine/Apply.lean ====
section
/-!
DEFINITION. The power of islands, and what each section of an image does when it is placed and when it is applied
(05_power_states.md R165, R168; 06_veneer_image.md R197 to R205, R217 to R220; 10_buffers_and_locks.md R370).
-/
namespace Sys2Proof.Machine

/-! Islands' power (05_power_states.md R165, R168). -/

/-- PLYROLE names a strand. -/
def State.isStrand (s : State) : Bool := decide (s.get R.SYS_STRAP_PLYROLE = 1 ∨ s.get R.SYS_STRAP_PLYROLE = 2)

/-- Core n is in the effective NET list (R191). -/
def netListed (s : State) (n : Nat) : Bool := bitOf (s.rd64 R.SYS_NETCORE_LO) n

/-- An island has power in a state: 1 HOLD, 2 FULL, 3 QUIET, 4 NET, 5 STANDBY (PWS during a SAFE service), 6 SERVICE; 7 stands for a load in HOLD, which
powers every island of FULL but AUD until it ends (R167). -/
def poweredIn (s : State) (st i : Nat) : Bool :=
  if i = islAO ∨ i = islSAFE ∨ i = islJRN then true
  else if st = 5 then decide (i = islPWS) && safeServes s
  else if i = islHIF ∨ i = islPWS then true
  else if i = islPLY then s.isStrand
  else if st = 1 then false
  else if st = 4 then
    if i < 50 then netListed s (i - 2) else !(decide (64 ≤ i ∧ i ≤ 72))
  else if st = 7 then decide (i ≠ islAUD)
  else true

/-- Core n's window and state out of reset; retirement stands until device reset (12_whorl_cores_threads.md R471), and the
registers that every window shows stay. -/
def coreOff (n : Nat) (s : State) : State :=
  let root := s.rd (R.WHL_ROOT 0)
  let ns := s.rd (R.WHL_NSTAT 0)
  let ne := s.rd (R.WHL_NEN 0)
  let ret := (s.core n).retired
  let s := s.resetRegs (0x800000 + 0x20000 * n) 0x20000
  let s := ((s.wr (R.WHL_ROOT 0) root).wr (R.WHL_NSTAT 0) ns).wr (R.WHL_NEN 0) ne
  let s := (s.setCore n { Core.reset with retired := ret }).set (R.WHL_CSTAT_RETIRED n) (b2n ret)
  (List.range 8).foldl (fun s t => s.setThread (8 * n + t) Thread.reset) s

/-- A panel out of reset; the I/O ring keeps what parked balls hold (07_marquetry_fabric.md R272). -/
def panelOff (p : Nat) (s : State) : State :=
  (s.setPanel p { Panel.reset with keep := (s.panel p).keep, stopped := (s.panel p).stopped,
                                   stall := (s.panel p).stopped }).resetRegs (0x1000000 + 0x100000 * p) 0x100000

/-- An island goes back to its values out of reset; AO holds the level of PLY_ALIVE_O (22_ply_pair.md R793). -/
def islandReset (i : Nat) (s : State) : State :=
  let s := { s with clk.ahead := mput (fun _ => 0) s.clk.ahead i 0 }
  if i < 2 then s
  else if i < 50 then coreOff (i - 2) s
  else if i = islDST then { s.resetRegs 0x420000 0x10000 with dst := Dst.reset }
  else if i = islPRS then { s.resetRegs 0x200000 0x100000 with prs := Prs.reset }
  else if i = islBPM then { s.resetRegs 0x400000 0x20000 with bpm := Bpm.reset, locks := [] }
  else if i < 61 then s.setPkt (s.pkt.clear (0x200000 * (i - 53)) 0x200000)
  else if i = islTBL then { s.resetRegs 0x300000 0x100000 with fwd := Fwd.reset }
  else if i = islPRT then { s.resetRegs 0x100000 0x100000 with prt := Prt.reset }
  else if i = islHIF then
    { (s.resetRegs 0xD0000 0x10000).resetRegs 0x30000 0x20000 with
      hif := { Hif.reset with mem := s.hif.mem }, evt := Evt.reset, vnr := Vnr.reset }
  else if i < 72 then panelOff (i - 64) s
  else if i = islAUD then { (s.resetRegs 0x90000 0x10000).resetRegs 0xB0000 0x10000 with aud := Aud.reset, cal := Cal.reset }
  else if i = islPLY then { s.resetRegs 0x70000 0x10000 with ply := { Ply.reset with aliveOut := s.ply.aliveOut } }
  else if i = islIST then { s.resetRegs 0x60000 0x10000 with ist := Ist.reset }
  else s

/-- An island gains power. AUD starts as soon as it has it (18_audio_path.md R698). -/
def islandOn (i : Nat) (s : State) : State :=
  let s := s.set (R.CLK_ISL_ON i) 1
  if i = islAUD then audStart s else s

/-- An island loses power; PWS keeps its latches (19_power_stage_protection.md R736). -/
def islandOff (i : Nat) (s : State) : State :=
  if i = islPWS then pwsOff s else (islandReset i s).set (R.CLK_ISL_ON i) 0

/-- Gives every island the power that a state gives it. -/
def setPower (st : Nat) (s : State) : State :=
  (List.range 77).foldl (fun s i =>
    if poweredIn s st i && !s.flag (R.CLK_ISL_ON i) then islandOn i s
    else if !poweredIn s st i && s.flag (R.CLK_ISL_ON i) then islandOff i s
    else s) s

/-- Every island that a load needs has its rails (26_signals_package_electrical.md R912). -/
def allFed (s : State) : Bool := (List.range 77).all fun i => s.fed i || (decide (i = islPLY) && !s.isStrand)

/-! The layout of packet memory (10_buffers_and_locks.md R370, 06_veneer_image.md R205). -/

/-- A pool as its POOLS entry gives it. -/
structure PoolDef where
  size : Nat
  bitmap : Bool
  count : Nat
  low : Nat
  high : Nat
deriving DecidableEq, Repr

def poolDefs (m : Image) : List PoolDef :=
  let b := sectData m tPOOLS 0
  (List.range 8).map fun i =>
    { size := secField b (16 * i) 2, bitmap := bitOf (secField b (16 * i + 2) 1) 0, count := secField b (16 * i + 4) 4,
      low := secField b (16 * i + 8) 4, high := secField b (16 * i + 12) 4 }

def align4k (n : Nat) : Nat := (n + 4095) / 4096 * 4096

/-- Bytes of a pool's free store. -/
def PoolDef.store (d : PoolDef) : Nat := if d.bitmap then (d.count + 63) / 64 * 8 else 4 * d.count

/-- Pool bases from an offset, and the offset after the last. -/
def layoutBases : List PoolDef → Nat → List Nat × Nat
  | [], o => ([], o)
  | d :: ds, o =>
    let a := align4k o
    let (l, e) := layoutBases ds (a + 64 * d.size * d.count)
    (a :: l, e)

/-- Free stores and tag arrays from an offset, and the offset after the last. -/
def layoutStores : List PoolDef → Nat → List (Nat × Nat) × Nat
  | [], o => ([], o)
  | d :: ds, o =>
    let f := align64 o
    let t := align64 (f + d.store)
    let (l, e) := layoutStores ds (t + d.count)
    ((f, t) :: l, e)

/-- The whole layout: bases, free stores with tag arrays, and its end. -/
def poolLayout (ds : List PoolDef) : List Nat × List (Nat × Nat) × Nat :=
  let (bs, e) := layoutBases ds 0
  let (fs, e) := layoutStores ds (align4k e)
  (bs, fs, e)

/-! Values that the loader does not check (R204). A section outside the ranges of R197 to R200, or sections that contradict
one another, is a host error of device scope. -/

def entriesOf (b : List Byte) (base unit : Nat) : List (List Byte) :=
  (List.range ((b.length - base) / unit)).map fun k => sliceOf b (base + unit * k) unit

/-- The sum of the owners' minima in pool i is at most its COUNT (10_buffers_and_locks.md R378). -/
def minimaOk (m : Image) (i : Nat) : Bool :=
  let own := sectData m tOWNERS 0
  decide (((List.range 64).map fun o => secField own (64 * o + 8 * i) 4).sum ≤ secField (sectData m tPOOLS 0) (16 * i + 4) 4)

def poolsOk (m : Image) : Bool :=
  let b := sectData m tPOOLS 0
  let ds := poolDefs m
  (List.range 8).all (minimaOk m) &&
  (entriesOf b 0 16).all (fun e => decide (secField e 2 2 ≤ 1)) &&
    ds.all (fun d => decide (1 ≤ d.size ∧ d.size ≤ 1024) && decide (d.count ≤ (if d.bitmap then 65536 else 0x3FFFF))) &&
    decide ((poolLayout ds).2.2 ≤ 0xD00000)

/-- Cores that the image loads, as a mask. -/
def codeMask (m : Image) : Nat := (List.range 48).foldl (fun a n => if (sectOf m tCODE n).isSome then a + 2 ^ n else a) 0

def coresOk (m : Image) : Bool :=
  let b := sectData m tCORES 0
  let ys := entriesOf b 16 16
  decide (secField b 6 10 = 0) && (ys.map fun e => secField e 0 2).Nodup &&
    ys.all fun e =>
      decide (secField e 0 2 < 4096) && decide (1 ≤ secField e 2 2) && decide (secField e 4 2 ≤ 7)
        && decide (secField e 6 2 = 0) && decide (secField e 14 2 = 0) && decide (secField e 8 8 &&& codeMask m ≠ 0)

def threadsOk (m : Image) : Bool :=
  let es := entriesOf (sectData m tTHREADS 0) 0 16
  (es.map fun e => secField e 0 2).Nodup &&
    es.all fun e =>
      decide (secField e 0 1 < 48) && decide (secField e 1 1 < 8) && decide (secField e 2 2 ≤ 1) &&
        bitOf (codeMask m) (secField e 0 1) && decide (secField e 4 2 < 1024)

def memSectionsOk (m : Image) : Bool :=
  ((entriesOf (sectData m tRULES 0) 0 148).all fun e => decide (secField e 0 4 < 1024) && !ruleReserved (e.drop 4)) &&
    (entriesOf (sectData m tTABLES 0) 0 68).all fun e =>
      decide (secField e 0 4 % 64 = 0) && decide (0x24000 ≤ secField e 0 4) && decide (secField e 0 4 ≤ 0x3FFFC0)

/-- A route word with no reserved bit and no reserved KIND (17_notices_interrupts.md R637, R648). -/
def routeOk (w : Nat) : Bool := decide (BitVec.ofNat 32 w &&& ~~~0x773F7F07#32 = 0) && decide (w / 2 % 4 ≠ 3)

def ioSectionsOk (m : Image) : Bool :=
  decide (secField (sectData m tCLOCK 0) 7 9 = 0) &&
    ((entriesOf (sectData m tNOTICES 0) 0 4).all fun e => routeOk (leNat e)) &&
    decide (secField (sectData m tAUDIO 0) 2 2 = 0) && decide (secField (sectData m tAUDIO 0) 20 12 = 0) &&
    ((List.range 164).all fun k =>
      let w := secField (sectData m tMITRE 0) (4 * k) 4
      if k < 4 then decide (w < 2) else decide (w < 128) && decide (w / 32 ≠ 3)) &&
    (List.range 48).all fun n => (List.range 8).all fun t => decide (secField (sectData m tCODE n) (4 * t) 4 < 2 ^ 18)

/-- Every value of the image's sections is one that R197 to R200 give a meaning. -/
def sectionsOk (m : Image) : Bool := poolsOk m && coresOk m && threadsOk m && memSectionsOk m && ioSectionsOk m

/-! Placing sections while they stream (04_staged_start.md R141, 06_veneer_image.md R198, R199, R219). -/

/-- The first byte of panel p's reserve slot (R217). -/
def slotAddr (p : Nat) : Nat := 0xD00000 + 0x50000 * p

/-- Frames into the panel. -/
def writeFrames (p : Nat) (f : List Byte) (s : State) : State :=
  s.setPanel p { s.panel p with frames := Mem.wrBytes [] 0 f }

/-- Frames into the reserve slot, with their CRC. -/
def fillSlot (p : Nat) (f : List Byte) (s : State) : State :=
  (s.setPkt (s.pkt.wrBytes (slotAddr p) f)).wr (R.VNR_PANEL_CRC p) (BitVec.ofNat 32 (crc32 f))

/-- The frames that a slot holds. -/
def slotFrames (s : State) (p : Nat) : List Byte := s.pkt.rdBytes (slotAddr p) 327680

/-- A PANEL section as it streams; a panel without one has an empty slot and a CRC of 0 (R219, R234). -/
def placePanel (m : Image) (s : State) (p : Nat) : State :=
  match sectOf m tPANEL p with
  | some f => fillSlot p f (writeFrames p f s)
  | none => s.wr (R.VNR_PANEL_CRC p) 0

/-- A BRAM section; the rest of the block memory is cleared. -/
def placeBram (m : Image) (s : State) (p : Nat) : State :=
  match sectOf m tBRAM p with
  | some b => s.setPanel p { s.panel p with bram := Mem.wrBytes [] 0 b }
  | none => s

/-- A CODE section: program and thread entries; the rest of local memory is cleared. -/
def placeCode (m : Image) (s : State) (n : Nat) : State :=
  match sectOf m tCODE n with
  | none => s
  | some b =>
    let s := s.setCore n { s.core n with mem := Mem.wrBytes [] 0 (b.drop 32), poison := [] }
    (List.range 8).foldl (fun s t =>
      let w := secField b (4 * t) 4
      s.setThread (8 * n + t) { s.thread (8 * n + t) with
        entry := w % 65536, entryForm := bitOf w 16, start := bitOf w 17, pc := w % 65536, form := bitOf w 16 }) s

/-- RULES and TABLES entries (R200; 15_forwarding_learning.md R569). -/
def placeTables (m : Image) (s : State) : State :=
  let s := (entriesOf (sectData m tRULES 0) 0 148).foldl (fun s e => tblWrite (144 * secField e 0 4) (e.drop 4) s) s
  (entriesOf (sectData m tTABLES 0) 0 68).foldl (fun s e => tblWrite (secField e 0 4) (e.drop 4) s) s

/-- Every section that has a destination in a memory. -/
def placeImage (m : Image) (s : State) : State :=
  let s := (List.range 8).foldl (placePanel m) s
  let s := (List.range 8).foldl (placeBram m) s
  placeTables m ((List.range 48).foldl (placeCode m) s)

/-! Applying the fixed-layout sections (R197, R202). -/

/-- CLOCK: a value outside a field's range takes effect as the nearer end, as a write does (03_islands_and_weft.md R114; assumption
155). -/
def applyClock (m : Image) (s : State) : State :=
  let b := sectData m tCLOCK 0
  ((s.set R.CLK_CAP_WHL_MHZ (clampNat 400 1600 (secField b 0 2))).set R.CLK_CAP_SVC_MHZ (clampNat 300 1200 (secField b 2 2))).set
    R.CLK_CAP_MQY_MHZ (clampNat 100 600 (secField b 4 2))

/-- A panel runs from the AUD/PWS PLL (R197, R201). -/
def panelPll (m : Image) (p : Nat) : Bool :=
  bitOf (secField (sectData m tCLOCK 0) 6 1) p || (sliceOf (sectData m tAUDIO 0) 4 16).any fun x => decide (x.toNat = p + 1)

/-- POOLS and OWNERS: the layout, every buffer free (10_buffers_and_locks.md R364, R370, R376; R590). -/
def applyPools (m : Image) (s : State) : State :=
  let ds := poolDefs m
  let (bs, fs, e) := poolLayout ds
  let own := sectData m tOWNERS 0
  let s := { s with bpm := Bpm.reset }
  let s := (List.range 8).foldl (fun s i =>
    let d := ds.getD i ⟨1, false, 0, 0, 0⟩
    let ft := fs.getD i (0, 0)
    let s := (s.set (R.BPM_POOL_CFG_SIZE i) d.size).set (R.BPM_POOL_CFG_MODE i) (b2n d.bitmap)
    let s := (s.set (R.BPM_POOL_COUNT_N i) d.count).set (R.BPM_POOL_FREE_N i) d.count
    let s := ((s.set (R.BPM_POOL_BASE_OFS i) (bs.getD i 0)).set (R.BPM_POOL_FSTORE_OFS i) ft.1).set (R.BPM_POOL_TAGS_OFS i) ft.2
    let s := (s.set (R.BPM_POOL_LWM_WM i) (min d.low 0x3FFFF)).set (R.BPM_POOL_HWM_WM i) (min d.high 0x3FFFF)
    let s := (List.range 64).foldl (fun s o =>
      ((s.set (R.BPM_OWN_MIN_N o i) (min 0x3FFFF (secField own (64 * o + 8 * i) 4))).set (R.BPM_OWN_CAP_N o i)
        (min 0x3FFFF (secField own (64 * o + 8 * i + 4) 4))).set (R.BPM_USED_N o i) 0) s
    poolLevels i s) s
  s.set R.HIF_PKM_FREE_OFS (align4k e)

/-- CORES: the effective NET list and the yarns (R197, R199). -/
def applyCores (m : Image) (s : State) : State :=
  let b := sectData m tCORES 0
  let s := s.wr64 R.SYS_NETCORE_LO (secField b 0 8 &&& codeMask m)
  (entriesOf b 16 16).foldl (fun s e =>
    let y := secField e 0 2
    let s := (s.set (R.DST_YCFG_LIMIT y) (min 256 (secField e 2 2))).set (R.DST_YCFG_PRIO y) (secField e 4 2)
    { s with dst.mask := mput (fun _ => 0) s.dst.mask y (secField e 8 8) }) s

/-- THREADS entries of some cores (12_whorl_cores_threads.md R458). -/
def applyThreads (m : Image) (which : Nat → Bool) (s : State) : State :=
  (entriesOf (sectData m tTHREADS 0) 0 16).foldl (fun s e =>
    let n := secField e 0 1
    let tid := 8 * n + secField e 1 1
    if !which n then s
    else s.setThread tid { s.thread tid with
      dynamicShares := bitOf (secField e 2 1) 0, qshare := secField e 4 2, wdogUnits := secField e 6 2,
      bshare := (List.range 8).foldl (fun a i => mput (fun _ => 255) a i (secField e (8 + i) 1)) [] }) s

/-- DST_CORE[n].TMASK out of reset: the START bits of threads 1 to 7 (11_distaff_and_yarns.md R413). -/
def applyTmask (m : Image) (n : Nat) (s : State) : State :=
  let b := sectData m tCODE n
  s.set (R.DST_CORE_TMASK n) (((List.range 7).map (· + 1)).foldl (fun a t => a + b2n (bitOf (secField b (4 * t) 4) 17) * 2 ^ t) 0)

/-- NOTICES (17_notices_interrupts.md R646). -/
def applyNotices (m : Image) (s : State) : State :=
  (List.range 96).foldl (fun s n => s.wr (R.EVT_ROUTE n) (BitVec.ofNat 32 (secField (sectData m tNOTICES 0) (4 * n) 4))) s

/-- AUDIO (R197; 18_audio_path.md R686). -/
def applyAudio (m : Image) (s : State) : State :=
  let b := sectData m tAUDIO 0
  let s := s.set R.AUD_MOD_K (clampNat 2 8 (secField b 0 2 / 192))
  let s := { s with aud.modw := s.rd R.AUD_MOD }
  (List.range 16).foldl (fun s c => s.set (R.AUD_CH_CFG_MOD c) (secField b (4 + c) 1)) s

/-- MITRE (07_marquetry_fabric.md R268). -/
def applyMitre (m : Image) (s : State) : State :=
  let b := sectData m tMITRE 0
  { s with mqy.mitre := (List.range 164).foldl (fun a k => mput (fun _ => 0) a k (BitVec.ofNat 32 (secField b (4 * k) 4))) []
           mqy.mitreOn := true }

/-! Panels (06_veneer_image.md R219, R220; 07_marquetry_fabric.md R255, R267, R275). -/

/-- A panel's readback CRC: what the command reports, else the golden CRC. -/
def readbackOf (rb : List (Nat × Nat)) (s : State) (p : Nat) : Nat :=
  match rb.find? fun e => decide (e.1 = p) with
  | some e => e.2
  | none => (s.rd (R.VNR_PANEL_CRC p)).toNat

/-- A panel with a PANEL section comes up clamped: its control frame takes effect, and it is LOADED, or FAILED where the
readback differs. -/
def bringPanel (m : Image) (rb : List (Nat × Nat)) (s : State) (p : Nat) : State :=
  let s := clampPanel p (setPanelSrc p (panelPll m p) s)
  match sectOf m tPANEL p with
  | none => (setPanelState p 0 s).set (R.MQY_STAT_EMPTY p) 1
  | some f =>
    let s := applyFrame0 p (f.take 128) s
    if readbackOf rb s p = (s.rd (R.VNR_PANEL_CRC p)).toNat then setPanelState p 1 s
    else cause R.VNR_NSTAT_PANEL 43 (setPanelState p 3 s)

/-- Every panel, and the balls they claim. -/
def bringPanels (m : Image) (rb : List (Nat × Nat)) (s : State) : State :=
  (List.range 4).foldl (fun s b => resolveClaims b s) ((List.range 8).foldl (bringPanel m rb) s)

/-! The apply phase as a whole (04_staged_start.md R141). -/

/-- The cores of a set start: those with a CODE section, neither retired nor stopped. -/
def startCores (m : Image) (which : Nat → Bool) (s : State) : State :=
  (List.range 48).foldl (fun s n =>
    if which n && bitOf (codeMask m) n && !(s.core n).retired && s.up (islWHL n) then startCore n (applyTmask m n s) else s) s

/-- Everything that apply does before the cores start. -/
def applySections (m : Image) (rb : List (Nat × Nat)) (s : State) : State :=
  let s := applyClock m s
  let s := applyPools m s
  let s := applyCores m s
  let s := applyThreads m (fun _ => true) s
  let s := applyMitre m (applyAudio m (applyNotices m s))
  bringPanels m rb s

end Sys2Proof.Machine
end

