-- ==== Sys2Proof/Machine/Reset.lean ====
section
/-!
DEFINITION. Reset, the end of reset, and Stage 1 entry (04_staged_start.md R117 to R138; 05_power_states.md R183, R185, R188;
06_veneer_image.md R209 to R211; 25_diagnostics_service.md R884 to R886, R894).
-/
namespace Sys2Proof.Machine

/-! Fuses (R207, R884, R886). -/

/-- A programmed field (R886). -/
def fuseField (f : Fuses) (code : Nat) : Word := mget (fun _ => 0) f.prog code

/-- A supply collapse, or a reset, during a burn: each bit is blown or not; the rollback count and the lifecycle state are
the old or the next (R211, R885, R886, R941). -/
def burnCollapse (s : State) : State :=
  let (v, s) := match s.burn with
    | .none => (0, s)
    | _ => s.draw 18
  let s := match s.burn with
    | .none => s
    | .key bits => { s with fuses.key := s.fuses.key ||| (bits &&& v) }
    | .roll tgt => { s with fuses.roll := if v % 2 = 1 ∧ s.fuses.roll < tgt then s.fuses.roll + 1 else s.fuses.roll }
    | .lc tgt => { s with fuses.lc := if v % 2 = 1 then tgt else s.fuses.lc }
    | .prog code bits =>
      { s with fuses.prog := mput (fun _ => 0) s.fuses.prog code (fuseField s.fuses code ||| (bits &&& BitVec.ofNat 32 v)) }
  { s with burn := .none }

/-- Debug access is open in a lifecycle state (R884, R897). -/
def lcOpen (lc : Nat) : Bool := decide (lc = 0 ∨ lc = 3)

/-- The registers that show fuses, or take their value out of reset from them. -/
def loadFuses (s : State) : State :=
  let f := s.held
  let s := (List.range 8).foldl (fun s i => s.wr (R.VNR_KEYHASH i) (BitVec.ofNat 32 (f.key / 2 ^ (32 * i)))) s
  let s := (s.set R.VNR_ROLL_FUSE f.roll).set R.DGN_STAT_LC f.lc
  let s := (s.set R.DGN_STAT_DBGOPEN (b2n (lcOpen f.lc))).wr64 R.DGN_UID_LO f.uid
  let floor := (fuseField f 2).toNat % 512
  let s := s.set R.PWS_DTFLOOR_DT (max 4 floor)
  let pdef := fuseField f 3 &&& 0x01FF01FF
  let s := s.wr R.PWS_DEF pdef
  let s := (List.range 16).foldl (fun s c =>
    let s := (s.set (R.PWS_CH_CFG_DT c) (wget pdef 0 9)).set (R.PWS_CH_CFG_BLANK c) (wget pdef 16 9)
    showDt c s) s
  let thm := fuseField f 4 &&& 0x000FF3FF
  let s := s.wr R.THM_FUSE thm
  let s := (List.range 4).foldl (fun s k => s.set (R.THM_FAN_CFG_TACHEN k) (wget thm (12 + k) 1)) s
  (List.range 4).foldl (fun s k => s.set (R.THM_ZCFG_EN (4 + k)) (wget thm (16 + k) 1)) s

/-! Reset (R119 to R124, R188). -/

/-- The device goes into reset. What stays: the fuses, the journal, host memory, the test access port, the rails, SYS_RSTCAUSE with the cause
added, SYS_WAKE, and after RESET the straps. -/
def deviceReset (bits : Word) (keepStraps : Bool) (s : State) : State :=
  let s := burnCollapse s
  let z := State.reset
  let ok := (s.rd R.SUP_RAIL).toNat
  let t := { z with
    pending := s.pending, free := s.free, out := s.out, fuses := s.fuses, held := s.fuses
    jrn := { Jrn.reset with mem := s.jrn.mem, bad := s.jrn.bad }
    hif := { Hif.reset with mem := s.hif.mem }
    tap := s.tap
    sys := { z.sys with keepStraps := keepStraps, railSeen := ok } }
  let t := (t.wr R.SYS_RSTCAUSE (s.rd R.SYS_RSTCAUSE ||| bits)).wr R.SYS_WAKE (s.rd R.SYS_WAKE)
  let t := (List.range 16).foldl (fun t i => t.wr (R.SUP_RAILV i) (s.rd (R.SUP_RAILV i))) (t.wr R.SUP_RAIL (s.rd R.SUP_RAIL))
  let t := if keepStraps then t.wr R.SYS_STRAP (s.rd R.SYS_STRAP) else t
  loadFuses t

/-- SYS_RSTCAUSE bits (R164). -/
def rstPORN : Word := 2
def rstBOR : Word := 4
def rstHOST : Word := 8
def rstDBG : Word := 16

/-- What a reset leaves of the journal write in progress: a number of its words that the spec does not fix are written, each
whole (24_journal_memory.md R858, R859). -/
def journalCut (s : State) : State :=
  match s.jrn.cur with
  | some w =>
    let (v, s) := s.draw 19
    jrnCollapse (v % (w.words.length + 1)) s
  | none => jrnCollapse 0 s

/-- PORN_FALL: a low pulse of some ns; `taken`: whether the device takes a pulse between 1 µs and 10 µs; `released`: PORN is
high again (R119, R120, R122). -/
def execPornFall (ns : Nat) (taken released : Bool) (s : State) : Out :=
  if ns < 1000 || (ns < 10000 && !taken) then stay s
  else
    let s := deviceReset rstPORN false (journalCut s)
    .next { s with sys.pornLow := !released }

/-- BROWN_OUT: a dip of VDD_AO below its threshold of some ns; `taken`: whether a dip between 0.5 µs and 2 µs resets;
`retained`: VDD_AO stayed above its retention level (R123, R124). A dip that does not reset lies outside the ratings; nothing
is said of it but R55. -/
def execBrownOut (ns : Nat) (taken retained : Bool) (s : State) : Out :=
  if ns < 500 || (ns < 2000 && !taken) then stay s
  else
    let s := deviceReset rstBOR false (journalCut s)
    .next (if retained then s else s.wr R.SYS_RSTCAUSE 1)

/-! The end of reset: Stage 0 (R123, R125, R128 to R131; 17_notices_interrupts.md R629). -/

/-- Samples the straps. -/
def sampleStraps (boot plyrole : Nat) (svcen : Bool) (s : State) : State :=
  let s := (s.set R.SYS_STRAP_BOOT boot).set R.SYS_STRAP_PLYROLE plyrole
  (s.set R.SYS_STRAP_SVCEN (b2n svcen)).set R.SYS_STRAP_BAD (b2n (decide (boot % 8 ≥ 6) || decide (plyrole % 4 = 3)))

/-- What Stage 0 shows of the straps: host port, PLY, SVCEN (R128 to R130). -/
def showStraps (s : State) : State :=
  let s := s.set R.HIF_STAT_PORT (if s.hostPcie then 0 else if s.hostQspi then 1 else 2)
  let s := s.set R.DGN_STAT_SVCEN (s.get R.SYS_STRAP_SVCEN)
  if s.isStrand then (s.set (R.CLK_ISL_ON islPLY) 1).set R.PLY_STAT_ROLE 1 else s

/-- The fans run at the fuse minimum duty (R131). -/
def fansMin (s : State) : State := (List.range 4).foldl (fun s f => s.set (R.THM_FAN_STAT_DUTY f) (minDuty s)) s

/-- RESET_END: PORN is high and VDD_AO and VDDIO_AO have held for 1 ms; board-test reset ends only by PORN or power
(25_diagnostics_service.md R894). REFCLK has not been declared present, so the time source is UNREF (R138). -/
def execResetEnd (boot plyrole : Nat) (svcen : Bool) (s : State) : Out :=
  if !s.sys.resetting || s.sys.boardTest || decide ((s.rd R.SUP_RAIL).toNat &&& 0x84 ≠ 0x84) then stay s
  else
    let s := { s with sys.resetting := false, sys.pornLow := false }
    let s := if s.sys.keepStraps then s else sampleStraps boot plyrole svcen s
    let s := { showStraps s with sys.keepStraps := false }
    let s := disableShow (fansMin (s.set R.CLK_TSTAT_STATE 3))
    .next (if s.rd R.SYS_RSTCAUSE = 0 then s else crossing 6 s)

/-! Stage 1 (R115, R134 to R139; 22_ply_pair.md R817). -/

/-- A load starts (R139, R141, R145); the islands of FULL get power (05_power_states.md R167). -/
def startLoad (push strap : Bool) (s : State) : State :=
  let s := { s with sys.load := .wake, sys.loadPush := push, sys.loadStrap := strap, sys.loadRetry := false,
                    sys.flashAwake := true, vnr.img := [] }
  let s := (s.set R.SYS_STAGE_LOADING 1).set R.SYS_STAGE_FALLBACK 0
  setPower 7 (if push then s.wr R.VNR_PUSH_STAT 0 else s)

/-- CAN port 0 runs as the safe configuration says (25_diagnostics_service.md R872, R877); port 1 is disabled until it is
enabled. -/
def canSafe (s : State) : State :=
  let nbr := cfgByte s 0 % 16
  let dbr := cfgByte s 0 / 16
  let brp := 2 ^ (5 - nbr)
  let nom := (brp - 1) + 14 * 2 ^ 8 + 3 * 2 ^ 16 + 3 * 2 ^ 24
  let data := if dbr = 3 then 10 * 2 ^ 8 + 3 * 2 ^ 16 + 3 * 2 ^ 24
    else (if dbr = 1 then 3 else 1) + 13 * 2 ^ 8 + 4 * 2 ^ 16 + 3 * 2 ^ 24
  let s := (s.wr (R.CAN_BT_NOM 0) (BitVec.ofNat 32 nom)).wr (R.CAN_BT_DATA 0) (BitVec.ofNat 32 data)
  let s := (s.set (R.CAN_TDC_EN 0) (b2n (decide (dbr ≥ 2)))).set (R.CAN_TDC_OFS 0) (if dbr = 3 then 12 else 15)
  let s := ((s.set (R.CAN_CTL_EN 0) 1).set (R.CAN_CTL_FDOE 0) (b2n (decide (dbr ≠ 0)))).set (R.CAN_CTL_AUTOREC 0) 1
  s.set (R.CAN_STAT_STATE 0) 0

/-- STAGE1_ENTRY; `partnerOwn`: the partner's OWN line reads high. The scan is done, REFCLK is present, the AUD/PWS PLL is
locked, and SAFE applies the safe record. The output-disable of reset ends, and SAFE owns channels 0 to 3. -/
def execStage1Entry (partnerOwn : Bool) (s : State) : Out :=
  if s.sys.resetting || decide (s.stage ≠ 0) || !s.flag R.JRN_STAT_SCANDONE || !s.flag R.CLK_STAT_REFCLK_OK
      || !s.flag R.CLK_STAT_AUDPLL_LOCK || !s.up islSAFE || !s.up islPWS then stay s
  else
    let s := canSafe (safeApply s)
    let s := (List.range 4).foldl (fun s c => setSrc c 1 s) s
    let s := disableShow { s with pws.disReset := false, ply.aliveSeen := false }
    let s := enterStage 1 s
    let s :=
      if !s.isStrand then s.set R.PWS_STAT_OWNER 1
      else if decide (s.get R.SYS_STRAP_PLYROLE = 1) && !partnerOwn then { s with pws.grant := true }
      else s
    let b := s.get R.SYS_STRAP_BOOT
    .next (if decide (b = 2 ∨ b = 3 ∨ b = 4) then startLoad false true s else s)

end Sys2Proof.Machine
end

