-- ==== Sys2Proof/Machine/Load.lean ====
section
/-!
DEFINITION. The Stage 2 load and the push window (04_staged_start.md R139 to R149, R161; 06_veneer_image.md R203, R208, R212 to
R220).
-/
namespace Sys2Proof.Machine

/-! Refusals and failures (R140, R144 to R148, R154). -/

/-- A refused stage command: its code in CMDERR, and N00. -/
def stageRefuse (err : Nat) (s : State) : State := cause R.SYS_NSTAT_CMDERR 0 (s.set R.SYS_STAGE_CMDERR err)

/-- Clears everything that a load placed; what it powered goes off again (R144). -/
def loadClear (s : State) : State :=
  let s := (List.range 8).foldl (fun s p => (s.wr (R.VNR_PANEL_STAT p) 0).wr (R.VNR_PANEL_CRC p) 0) s
  setPower 1 { s with sys.load := .idle, vnr.img := [] }

/-- A load ends without Stage 2. -/
def loadDrop (err : Nat) (s : State) : State := ((loadClear s).set R.SYS_STAGE_LOADING 0).set R.SYS_STAGE_CMDERR err

/-- A load fails: N00, and for a strap-started load the fallback copy after an authentication failure of the primary (R145), or
a restart once the PLLs have relocked (R148). -/
def loadFail (err : Nat) (s : State) : State :=
  let again := s.sys.loadStrap && decide (err = 4) && !s.flag R.SYS_STAGE_FALLBACK
  let retry := s.sys.loadStrap && decide (err = 5)
  let fb := s.get R.SYS_STAGE_FALLBACK
  let s := cause R.SYS_NSTAT_LOADFAIL 0 (loadDrop err s)
  if again then (startLoad false true s).set R.SYS_STAGE_FALLBACK 1
  else { (s.set R.SYS_STAGE_FALLBACK fb) with sys.loadRetry := retry }

/-- The halt abandons a load (R154). -/
def loadHalt (s : State) : State :=
  let s := { s with sys.loadRetry := false }
  if s.sys.load = .idle then s else loadDrop 7 s

/-- REFCLK is lost (R148). -/
def loadClock (s : State) : State := if s.sys.load = .idle then s else loadFail 5 s

/-- The PLLs have relocked: a strap-started load restarts from the primary image (R148). -/
def loadRestart (s : State) : State :=
  if s.sys.loadRetry && decide (s.pstate = 1) && !s.flag R.SYS_PSTATE_TRANS && s.flag R.CLK_STAT_AUDPLL_LOCK && s.flag R.CLK_STAT_PRTPLL_LOCK && s.flag R.CLK_STAT_HIFPLL_LOCK then
    startLoad false true s
  else s

/-! WARP (R139, R140, R154). -/

/-- A WARP write; it acts from the host only (R139, assumption 53), and from HOLD alone (05_power_states.md R173, R175, R187). Where
several refusals hold, HALTED comes before all, then STRAP, BUSY, ORDER (assumption 156). -/
def warpWrite (a : Agent) (push : Bool) (s : State) : State :=
  let b := s.get R.SYS_STRAP_BOOT
  if !isHost a then s
  else if s.halted then stageRefuse 7 s
  else if b ≠ 0 ∧ b ≠ 1 then stageRefuse 3 s
  else if s.flag R.SYS_STAGE_LOADING || s.flag R.SYS_PSTATE_TRANS then stageRefuse 2 s
  else if s.stage ≠ 1 ∨ s.pstate ≠ 1 then stageRefuse 1 s
  else startLoad push false (s.set R.SYS_STAGE_CMDERR 0)

def execWarp (a : Agent) (push : Bool) (s : State) : Out := 
  access a R.SYS_STAGE_CMD (BitVec.ofNat 32 (1 + 16 * b2n push)) (fun s => .next (warpWrite a push s)) s

/-! The phases (R141). -/

/-- The flash offset of the image that a load reads: the fallback copy's, or the primary's (R145; 06_veneer_image.md R212). -/
def flashBase (s : State) : Nat := if s.flag R.SYS_STAGE_FALLBACK then 0x2000000 else 0

/-- LOAD_WAKE_DONE: `flash` is what the flash holds, none where it does not answer or has no octal DDR mode (R146;
16_host_interface_rings.md R625). The load waits for the rails of its islands, and for the host's flash command in progress
(16_host_interface_rings.md R626). -/
def execLoadWakeDone (flash : Option Flash) (s : State) : Out :=
  let check (m : Image) (s : State) : Out :=
    .next (if imageOk false m s then { s with vnr.img := m, sys.load := .stream } else loadFail 4 s)
  if s.sys.load ≠ .wake || !allFed s || (!s.sys.loadPush && s.flag R.HIF_XSPI_STAT_BUSY) then stay s
  else if s.sys.loadPush then (if headerArrived s.vnr.img then check s.vnr.img s else stay s)
  else
    match flash with
    | none => .next (loadFail 6 s)
    | some f => check (flashFrom f (flashBase s)) s

/-- LOAD_STREAM_DONE. -/
def execLoadStreamDone (s : State) : Out :=
  let m := s.vnr.img
  if s.sys.load ≠ .stream || !imageArrived m then stay s
  else
    let m := m.take (imgLen m)
    .next { placeImage m s with vnr.img := m, sys.load := .verify }

/-- LOAD_VERIFY_DONE. -/
def execLoadVerifyDone (s : State) : Out :=
  if s.sys.load ≠ .verify then stay s
  else .next (if signatureOk s.vnr.img s then { s with sys.load := .apply } else loadFail 4 s)

/-- The image metadata record (R216; 24_journal_memory.md R849). -/
def metaRecord (s : State) : JRec :=
  let m := s.vnr.full
  let t := sectData m tMETA 0
  { region := 1, id := 0
    data := imgDigest m ++ leBytes 4 (imgVer m) ++ leBytes 2 (imgRoll m)
      ++ [BitVec.ofNat 8 (b2n s.sys.loadPush), BitVec.ofNat 8 (s.get R.SYS_STAGE_FALLBACK)]
      ++ leBytes 32 s.held.key ++ leBytes 4 t.length ++ t }

/-- The VNR registers of the loaded image (R235, R236). -/
def showImage (m : Image) (s : State) : State :=
  let d := imgDigest m
  let s := (s.set R.VNR_STAT_LOADED 1).set R.VNR_STAT_PATCHED 0
  let s := (s.wr R.VNR_IMG_VER (BitVec.ofNat 32 (imgVer m))).set R.VNR_ROLL_IMAGE (imgRoll m)
  (List.range 8).foldl (fun s i => s.wr (R.VNR_DIGEST i) (digestWordAt d i)) s

/-- A transition ends: SYS_PSTATE, then DONE and N03 (05_power_states.md R178). -/
def transDone (st : Nat) (s : State) : State :=
  let s := ((s.set R.SYS_PSTATE_STATE st).set R.SYS_PSTATE_TRANS 0).set R.SYS_PSTATE_TARGET 0
  cause R.SYS_PNSTAT_DONE 3 s

/-- Apply ends: Stage 2, FULL, the metadata record (R141, R142, R161). -/
def enterStage2 (rb : List (Nat × Nat)) (s : State) : State :=
  let m := s.vnr.img
  let s := setPower 2 { s with sys.load := .idle, vnr.full := m, vnr.img := [], vnr.patched := [] }
  let s := showImage m (startCores m (fun _ => true) (applySections m rb s))
  let s := jrnDevice (metaRecord s) (s.set R.SYS_STAGE_LOADING 0)
  transDone 2 (enterStage 2 s)

/-- LOAD_APPLY_DONE: `readback` are panels whose readback CRC is known to differ or agree. An image whose sections contradict
one another has an unpredictable outcome of device scope (R204). -/
def execLoadApplyDone (readback : List (Nat × Nat)) (s : State) : Out :=
  if s.sys.load ≠ .apply then stay s
  else if sectionsOk s.vnr.img then .next (enterStage2 readback s)
  else .next (unpredDevice (enterStage2 readback s))

/-! The push window (R213, R237). -/

/-- A push transfer is open. -/
def pushOpen (s : State) : Bool :=
  (decide (s.sys.load ≠ .idle) && s.sys.loadPush) || (s.sys.netLoad && s.sys.netPush) ||
    (decide (s.vnr.patch = .staging) && s.vnr.patchPush)

/-- More words are expected: the image's length is not known yet, or not reached. -/
def pushWants (s : State) : Bool := decide (s.vnr.img.length < 12) || decide (s.vnr.img.length < imgLen s.vnr.img)

/-- A word appended to the image. -/
def pushWrite (a : Agent) (v : Word) (s : State) : State :=
  if !isHost a || !pushOpen s || !pushWants s then s
  else
    let o := s.vnr.img.length
    let s := if decide (s.vnr.patch = .staging) && decide (o < 0x80000) then s.setPkt (s.pkt.wrBytes (0xF80000 + o) (leBytes 4 v.toNat)) else s
    let s := { s with vnr.img := s.vnr.img ++ leBytes 4 v.toNat }
    s.set R.VNR_PUSH_STAT_COUNT s.vnr.img.length

def execPushWord (a : Agent) (v : Word) (s : State) : Out := access a (R.VNR_PUSH 0) v (fun s => .next (pushWrite a v s)) s

end Sys2Proof.Machine
end

