-- ==== Sys2Proof/Machine/Ist.lean ====
section
/-!
DEFINITION. In-service test: idle shares, logic slices, scrub, march tests, requested tests and the SERVICE BIST
(23_in_service_test.md R826 to R845).
-/
namespace Sys2Proof.Machine

/-! Requests and results (R835 to R839). -/

/-- IST has power and Stage 2 has been entered, outside SERVICE; a halt ends none of this (R826, R840, R842). -/
def istRuns (s : State) : Bool := s.up islIST && stage2Entered s && decide (s.pstate ≠ 6)

/-- QUEUED shows the occupied entries. -/
def istShow (s : State) : State := s.set R.IST_REQ_STAT_QUEUED (s.ist.reqs.length + s.ist.results.length)

/-- A result as IST_RES shows it. -/
def istWord (tag kind target status : Nat) : Nat := tag % 16 + kind % 8 * 16 + target % 256 * 256 + status * 65536 + 2 ^ 31

/-- A request has its result (R837). -/
def istResult (tag kind target status : Nat) (s : State) : State :=
  cause R.IST_NSTAT_REQDONE 36 { s with ist.results := s.ist.results ++ [istWord tag kind target status] }

/-- A queued request completes. -/
def istFinish (status : Nat) (s : State) (r : IstReq) : State :=
  istResult r.tag r.kind r.target status { s with ist.reqs := s.ist.reqs.erase r }

/-- Every request that a predicate names completes with one status. -/
def istFinishAll (status : Nat) (which : IstReq → Bool) (s : State) : State :=
  (s.ist.reqs.filter which).foldl (istFinish status) s

/-- A halt or a transition ends every request (R840, R841). -/
def istAbort (s : State) : State := istFinishAll 6 (fun _ => true) s

/-- The island of a scrub region has power (R829, R830). -/
def regionUp (s : State) : Nat → Bool
  | 0 => (List.range 8).all fun b => s.up (islPKM b)
  | 1 => s.up islTBL
  | 2 => (List.range 48).any fun n => s.up (islWHL n)
  | 3 => s.up islDST
  | _ => (List.range 8).any fun p => s.up (islMQY p)

/-- A resource is not in service (R837, status NOTSVC). -/
def istNotSvc (s : State) (kind target : Nat) : Bool :=
  match kind with
  | 1 => !inService s target
  | 2 => !s.up (islMQY target) || decide (panelState s target = 0) || decide (panelState s target = 3)
  | 3 => decide (s.get (R.CLK_LINK_STATE target) = 2)
  | 4 => decide (poolCount s target = 0) || s.follower || !s.up islBPM
  | _ => !regionUp s target

/-- A request names nothing that can be tested (R837, status INVAL; a ring-mode pool of no buffers is NOTSVC, assumption 193). -/
def istInval (s : State) (kind target : Nat) : Bool :=
  match kind with
  | 1 => decide (target ≥ 48)
  | 2 => decide (target ≥ 8)
  | 3 => decide (target ≥ 142)
  | 4 => decide (target ≥ 8) || (decide (poolCount s target ≠ 0) && !poolBitmap s target)
  | 5 => decide (target ≥ 5)
  | _ => true

/-- Requests whose resource has left service (R837). -/
def istCheck (s : State) : State := istFinishAll 4 (fun r => istNotSvc s r.kind r.target) s

/-- The request for a resource that runs: the first of its queue (R836). -/
def istHead (s : State) (kind target : Nat) : Option IstReq :=
  s.ist.reqs.find? fun r => decide (r.kind = kind ∧ r.target = target)

/-- Replaces a request. -/
def istUpdate (r r' : IstReq) (s : State) : State :=
  { s with ist.reqs := s.ist.reqs.map fun x => if x = r then r' else x }

/-- A test of a resource has ended that began at an instant: one that began after the acceptance satisfies the request at the head
(R836). -/
def istTested (kind target began : Nat) (fail : Bool) (s : State) : State :=
  match istHead s kind target with
  | some r =>
    if r.at_ ≤ began then istFinish (if fail || r.did.contains 1 then 2 else 1) s r
    else s
  | none => s

/-- A write of IST_REQ (R835). A request for a core starts its pass at slice 0. -/
def istReqWrite (a : Agent) (v : Word) (s : State) : State :=
  let kind := wget v 0 3
  let target := wget v 4 8
  let tag := wget v 12 4
  let ms := wget v 16 16
  if !isHost a || decide (kind = 0) || !stage2Entered s then s
  else if s.ist.reqs.length + s.ist.results.length ≥ 16 then s.set R.IST_REQ_STAT_LOST 1
  else if istInval s kind target then istShow (istResult tag kind target 5 s)
  else if istNotSvc s kind target then istShow (istResult tag kind target 4 s)
  else
    let now := s.tnow islIST
    let r : IstReq := { kind := kind, target := target, tag := tag, at_ := now,
                        due := now + (if ms = 0 then 1000 else ms) * 1000000, did := [] }
    let s := if kind = 1 && (istHead s kind target).isNone then { s with ist.slices := mput (fun _ => 0) s.ist.slices target 0 } else s
    istShow { s with ist.reqs := s.ist.reqs ++ [r] }

/-- A write of IST_REQ of one KIND. -/
def istRequest (kind : Nat) (a : Agent) (v : Word) (s : State) : Out :=
  if decide (wget v 0 3 ≠ kind) then stay s else access a R.IST_REQ v (fun s => .next (istReqWrite a v s)) s

def execIstReqCore (a : Agent) (v : Word) (s : State) : Out := istRequest 1 a v s
def execIstReqPanel (a : Agent) (v : Word) (s : State) : Out := istRequest 2 a v s
def execIstReqLink (a : Agent) (v : Word) (s : State) : Out := istRequest 3 a v s
def execIstReqPool (a : Agent) (v : Word) (s : State) : Out := istRequest 4 a v s
def execIstReqScrub (a : Agent) (v : Word) (s : State) : Out := istRequest 5 a v s

/-- IST_REQUEST_DEADLINE: the deadline of the request in queue position `i` has passed (R837). -/
def execIstRequestDeadline (i : Nat) (s : State) : Out :=
  match s.ist.reqs[i]? with
  | none => stay s
  | some r => if decide (s.tnow islIST < r.due) then stay s else .next (istFinish 3 s r)

/-- A read of IST_RES (R839). -/
def istResRead (s : State) : Word × State :=
  match s.ist.results with
  | [] => (0, s)
  | w :: ws => (BitVec.ofNat 32 w, istShow { s with ist.results := ws })

/-- IST_RESULT_READ. -/
def execIstResultRead (a : Agent) (s : State) : Out :=
  readRow a R.IST_RES istResRead s

/-! Idle shares (R827). -/

/-- One core's window: its idle share in units of 0.1%. -/
def idleShare (n share : Nat) (s : State) : State :=
  let short := decide (share < 50)
  let s := (s.set (R.IST_CORE_IDLE n) share).set (R.IST_CORE_SHORT n) (b2n short)
  let s := s.set ⟨R.IST_SHORT_LO + 4 * (n / 32), n % 32, 1⟩ (b2n short)
  if short then cause R.IST_NSTAT_SHORT 36 s else s

/-- IDLE_WINDOW_END: the measured idle share of each core, by number, in units of 0.1%. -/
def execIdleWindowEnd (shares : List Nat) (s : State) : Out :=
  if !istRuns s then stay s
  else .next ((List.range 48).foldl (fun s n =>
    match shares[n]? with
    | some v => if inService s n then idleShare n (min v 1000) s else s
    | none => s) s)

/-! Logic slices (R828, R838). -/

/-- A core's slice has ended: at the 24th the pass ends. -/
def sliceEnd (n : Nat) (s : State) : State :=
  let k := mget (fun _ => 0) s.ist.slices n + 1
  if k < 24 then { s with ist.slices := mput (fun _ => 0) s.ist.slices n k }
  else
    let s := { s with ist.slices := mput (fun _ => 0) s.ist.slices n 0 }
    let s := s.set (R.IST_CORE_PASSES n) (s.get (R.IST_CORE_PASSES n) + 1)
    istTested 1 n (s.tnow islIST) false s

/-- A core has a permanent logic fault. -/
def logicFault (n : Nat) (s : State) : State :=
  let s := cause R.IST_NSTAT_LOGIC 38 (retireCore n s)
  istCheck (istFinishAll 2 (fun r => decide (r.kind = 1 ∧ r.target = n)) s)

/-- LOGIC_SLICE_END: `miss`: the signature differs; `again`: so does that of the second run. -/
def execLogicSliceEnd (n : Nat) (miss again : Bool) (s : State) : Out :=
  if !istRuns s || !inService s n || s.halted || (!bitOf (s.get R.IST_CTL_EN) 1 && (istHead s 1 n).isNone) then stay s
  else if miss && again then .next (logicFault n s)
  else .next (sliceEnd n (if miss then s.bump R.IST_CNT_TRANS else s))

/-! Scrub (R829, R830). -/

/-- Records a failing word (R830, R832). -/
def memFail (region inst addr : Nat) (march : Bool) (s : State) : State :=
  let s := (s.set R.IST_MEM_LAST_REGION region).set R.IST_MEM_LAST_MARCH (b2n march)
  let s := (s.set R.IST_MEM_LAST_INST inst).set R.IST_MEM_LAST_VALID 1
  cause R.IST_NSTAT_MEM 37 (s.wr R.IST_MEM_ADDR (BitVec.ofNat 32 addr))

/-- Drops a port's copies of the packet in a buffer: in the egress queues, in transmission and preempted. -/
def dropCopies (h p : Nat) (s : State) : State :=
  let gone := ((List.range 8).flatMap (egQueue s p)).filter fun f => decide (f.handle = h)
  let x := s.port p
  let t := match x.tx with | some (_, f) => if f.handle = h then [f] else [] | none => []
  let k := match x.held with | some (_, f, _) => if f.handle = h then [f] else [] | none => []
  let s := (List.range 8).foldl (fun s c => setEgQueue p c ((egQueue s p c).filter fun f => decide (f.handle ≠ h)) s) s
  let s := s.setPort p { s.port p with tx := if t = [] then x.tx else none, held := if k = [] then x.held else none }
  (gone ++ t ++ k).foldl (fun s f => copyGone f s) s

/-- Drops the packet that stands in a buffer, where no thread holds it: in an admission queue, on its way out of a port, or QUEUED
(02_guarantees.md R49). A packet that a thread holds is dropped at its release. -/
def dropInBuffer (h : Nat) (s : State) : State :=
  let s := (List.range 9).foldl (fun s p => (List.range 8).foldl (fun s c =>
    let gone := (admQueue s p c).filter fun k => decide (k.handle = h)
    gone.foldl (fun s k => freeBuf k.handle s) (setAdm p c ((admQueue s p c).filter fun k => decide (k.handle ≠ h)) s))
    (dropCopies h p s)) s
  (s.dst.tasks.filter fun t => decide (t.st = .queued ∧ t.pkt.handle = h)).foldl (fun s t => dropTask 0 t s) s

/-- The owner's action for an uncorrectable word (R830). -/
def ownerAction (region inst addr : Nat) (s : State) : State :=
  match region with
  | 0 =>
    if addr ≥ 0xD00000 then
      let p := (addr - 0xD00000) / 0x50000
      if p < 8 then cause R.VNR_NSTAT_PANEL 43 (s.set (R.VNR_PANEL_STAT_RSV_LOST p) 1) else s
    else
      match bufferAt s addr with
      | some k => dropInBuffer k (markBuf k s)
      | none => s
  | 1 => meetBad { s with fwd.bad := mput (fun _ => false) s.fwd.bad (addr / 8) true } (addr / 8)
  | 2 =>
    let s := s.setCore inst { s.core inst with poison := mput (fun _ => false) (s.core inst).poison (addr / 8) true }
    let s := (s.set (R.WHL_ECC_ADDR_ADDR inst) (addr / 8 * 8)).set (R.WHL_ECC_ADDR_VALID inst) 1
    raiseEvent (8 * inst) 4 (s.set (R.WHL_CERR_ECC2 inst) 1)
  | 3 => traceLost 1 (setTrace (addr / 16) 0 s)
  | _ => cause (R.MQY_NSTAT_ECC2 inst) 45 (s.wr (R.MQY_ECC_ADDR inst) (BitVec.ofNat 32 (2 ^ 31 + addr)))

/-- A correction that a register of the region counts besides IST_CNT_CORR: a core's local memory, a panel's block memory
(02_guarantees.md R45, 07_marquetry_fabric.md R250). -/
def correctedAt (region inst : Nat) (s : State) : State :=
  match region with
  | 2 => s.bump (R.WHL_ECC_CNT inst)
  | 4 => s.bump (R.MQY_ECC_CNT inst)
  | _ => s

/-- The word lies in a region's memory and its island has power; quarantined buffers are skipped, and block memory whose port B
belongs to user logic (R829; 07_marquetry_fabric.md R251). -/
def scrubbed (s : State) (region inst addr : Nat) : Bool :=
  match region with
  | 0 => decide (addr < 2 ^ 24) && s.up (islPKM inst) && decide (inst = addr / 2 ^ 21) &&
      (match bufferAt s addr with | some k => decide (tagOf s k ≠ 0x7F) | none => true)
  | 1 => decide (addr < 2 ^ 22) && s.up islTBL
  | 2 => decide (addr < 2 ^ 16) && decide (inst < 48) && s.up (islWHL inst)
  | 3 => decide (addr < 2 ^ 19) && s.up islDST
  | 4 => decide (addr < 2 ^ 16) && decide (inst < 8) && s.up (islMQY inst) &&
      (s.rd (R.MQY_BRAM_WIN inst)).getLsbD (addr / 2048)
  | _ => false

/-- A requested sweep has met a fault. -/
def sweepFault (region : Nat) (s : State) : State :=
  match istHead s 5 region with
  | some r => istUpdate r { r with did := [1] } s
  | none => s

/-- A sweep of a region has ended after some ns (R834, R836). -/
def sweepEnd (region ns : Nat) (s : State) : State :=
  let s := if region = 0 then s.wr R.IST_SCRUB_PASS (s.rd R.IST_SCRUB_PASS + 1) else s
  let s := if ns ≤ 2000000000 then s.set R.IST_LATE_SCRUB 0 else s
  istTested 5 region (s.tnow islIST - ns) false s

/-- SCRUB_READ: a scrub read of the word at a byte offset of a region, in bank, core or panel `inst`; `stale`: an agent writes
the word before a corrected one goes back, which is then discarded and counted all the same (R829; assumption 192); `sweep`: the read ends a sweep that has taken so many ns. -/
def execScrubRead (region inst addr : Nat) (err : FlitError) (_stale : Bool) (sweep : Option Nat) (s : State) : Out :=
  if !istRuns s || !scrubbed s region inst addr || (!bitOf (s.get R.IST_CTL_EN) 0 && (istHead s 5 region).isNone) then stay s
  else
    let s := match err with
      | .none => s
      | .single => correctedAt region inst (s.bump R.IST_CNT_CORR)
      | .double => sweepFault region (ownerAction region inst addr (memFail region inst addr false (s.bump R.IST_CNT_UNCORR)))
    .next (match sweep with
      | some ns => sweepEnd region ns s
      | none => s)

/-! March tests (R831 to R833). -/

/-- Segments of a buffer. -/
def bufSegs (s : State) (i : Nat) : Nat := (poolSize s i + 2047) / 2048

/-- A segment of a pool's requested march is done: 2 and above name segments, 1 a fault. -/
def marched (i idx seg : Nat) (fail : Bool) (s : State) : State :=
  match istHead s 4 i with
  | none => s
  | some r =>
    let did := r.did ++ [2 + idx * 32 + seg] ++ (if fail then [1] else [])
    let r' := { r with did := did }
    let all := (List.range (poolCount s i)).all fun x => decide (tagOf s (bufKey i x) = 0x7F) ||
      (List.range (bufSegs s i)).all fun g => did.contains (2 + x * 32 + g)
    let s := istUpdate r r' s
    if all then istFinish (if did.contains 1 then 2 else 1) s r' else s

/-- MARCH_SEGMENT: the march of segment `seg` of buffer `idx` of pool `i`; `fail`: the packet memory offset of a failing word. -/
def execMarchSegment (i idx seg : Nat) (fail : Option Nat) (s : State) : Out :=
  if !istRuns s || !s.up islBPM || s.halted || s.follower || decide (i ≥ 8) || decide (seg ≥ bufSegs s i)
      || (!bitOf (s.get R.IST_CTL_EN) 2 && (istHead s 4 i).isNone) then stay s
  else
    match loanBuf i idx s with
    | none => stay s
    | some s =>
      let k := bufKey i idx
      let a := bufAddr s k + 2048 * seg
      let s := s.setPkt (s.pkt.clear a (min 2048 (poolSize s i - 2048 * seg)))
      let s := s.bump R.IST_CNT_MARCH
      .next (match fail with
        | none => marched i idx seg false (loanReturn k s)
        | some o => marched i idx seg true (loanReturn k (memFail 0 (o / 2 ^ 21) o true (markBuf k s))))

/-! Overrun (R834). -/

/-- IST_LATE: a sweep has not ended within 2 s, or with `readback` a panel's next pass has not started within 26 ms. -/
def execIstLate (readback : Bool) (s : State) : Out :=
  if !istRuns s then stay s
  else .next (cause R.IST_NSTAT_LATE 36 (s.set (if readback then R.IST_LATE_READBACK else R.IST_LATE_SCRUB) 1))

/-- A panel's readback pass has ended after some ns (R834, R836). -/
def passEnd (p ns : Nat) (fail : Bool) (s : State) : State :=
  let s := if ns ≤ 12000000 then s.set R.IST_LATE_READBACK 0 else cause R.IST_NSTAT_LATE 36 (s.set R.IST_LATE_READBACK 1)
  istTested 2 p (s.tnow islIST - ns) fail s

/-- A loop test of one direction of a link has ended; a requested test needs both (R836). -/
def loopEnd (k : Nat) (back fail : Bool) (s : State) : State :=
  match istHead s 3 k with
  | none => s
  | some r =>
    let did := if r.did.contains (2 + b2n back) then r.did else r.did ++ [2 + b2n back]
    if fail then istFinish 2 s r
    else if did.contains 2 && did.contains 3 then istFinish 1 s r
    else istUpdate r { r with did := did } s

/-! SERVICE BIST (R842, R843). -/

/-- What the BIST destroys: every SRAM reads 0, every panel is EMPTY and clamped; the tested islands have their values out of
reset (assumption 65). -/
def bistDestroy (s : State) : State :=
  let s := (List.range 8).foldl (fun s p =>
    let s := clampPanel p s
    let s := s.setPanel p { s.panel p with bram := [], frames := [], claim := 0 }
    ((setPanelState p 0 s).set (R.MQY_STAT_EMPTY p) 1).wr (R.VNR_PANEL_CRC p) 0) s
  let s := (List.range 48).foldl (fun s n => coreOff n s) s
  let s := [islDST, islPRS, islBPM, islTBL, islPRT].foldl (fun s i => islandReset i s) s
  s.setPkt []

/-- Failed resources. -/
def bistCount (cores res : Nat) : Nat := ((List.range 48).filter (bitOf cores)).length + ((List.range 30).filter (bitOf res)).length

/-- The resources of IST_BIST_RES. -/
def bistMask : Nat := 0x3FFF03FF

/-- BIST_DONE: failed cores, and failed resources in the layout of IST_BIST_RES. -/
def execBistDone (cores res : Nat) (s : State) : Out :=
  if !s.up islIST || decide (s.get R.IST_BIST_STAT_STATE ≠ 1) then stay s
  else
    let r := res &&& bistMask
    let s := bistDestroy s
    let s := ((s.wr R.IST_BIST_CORE_LO (BitVec.ofNat 32 cores)).set R.IST_BIST_CORE_HI_CORE (cores / 2 ^ 32)).wr R.IST_BIST_RES (BitVec.ofNat 32 r)
    let s := (s.set R.IST_BIST_STAT_FAILS (min 255 (bistCount cores r))).set R.IST_BIST_STAT_STATE 2
    .next (cause R.IST_NSTAT_BIST 36 s)

end Sys2Proof.Machine
end

