-- ==== Sys2Proof/Machine/Power.lean ====
section
/-!
DEFINITION. Unclamp and WEAVE, the power-state commands and their transitions, the return from NET, and what STANDBY does
(04_staged_start.md R150 to R157; 05_power_states.md R165 to R191).
-/
namespace Sys2Proof.Machine

/-! Unclamp (R150 to R154; 07_marquetry_fabric.md R276). -/

def doneBit (s : State) (n : Nat) : Bool := bitOf (s.get R.SYS_UNCLAMP_DONE) (n - 1)

/-- A transition into or out of NET is in progress. -/
def netTrans (s : State) : Bool := s.flag R.SYS_PSTATE_TRANS && (decide (s.get R.SYS_PSTATE_TARGET = 4) || decide (s.pstate = 4))

/-- A write of SYS_UNCLAMP.STEP. -/
def unclampWrite (a : Agent) (n : Nat) (s : State) : State :=
  if !isHost a || decide (n = 0) then s
  else if s.halted then stageRefuse 7 s
  else if s.stage < 2 || decide (s.pstate = 4) || netTrans s then stageRefuse 1 s
  else if doneBit s n || decide (s.sys.unclamp = n) then s
  else if decide (n > 1) && !doneBit s (n - 1) then stageRefuse 1 s
  else { (s.set R.SYS_STAGE_CMDERR 0) with sys.unclamp := n }

def execUnclampOutputs (a : Agent) (s : State) : Out := access a R.SYS_UNCLAMP 1 (fun s => .next (unclampWrite a 1 s)) s
def execUnclampWriteEnables (a : Agent) (s : State) : Out := access a R.SYS_UNCLAMP 2 (fun s => .next (unclampWrite a 2 s)) s
def execUnclampResets (a : Agent) (s : State) : Out := access a R.SYS_UNCLAMP 3 (fun s => .next (unclampWrite a 3 s)) s

/-- UNCLAMP_STEP_DONE: the step reaches every LOADED panel, then its DONE bit and N00. -/
def execUnclampStepDone (s : State) : Out :=
  let n := s.sys.unclamp
  if n = 0 then stay s
  else
    let s := (List.range 8).foldl (fun s p => if panelState s p = 1 then unclampPanel n p s else s) s
    let s := { s with sys.unclamp := 0 }
    .next (cause R.SYS_NSTAT_UNCLAMP 0 (s.set R.SYS_UNCLAMP_DONE (s.get R.SYS_UNCLAMP_DONE ||| 2 ^ (n - 1))))

/-- Every panel is clamped and the DONE bits are clear (R154, R181). -/
def clampAll (s : State) : State :=
  let s := (List.range 8).foldl (fun s p => clampPanel p s) s
  { (s.set R.SYS_UNCLAMP_DONE 0) with sys.unclamp := 0 }

/-! WEAVE (R153 to R157). -/

/-- One channel's part of an accepted WEAVE: it counts its boundaries, or waits on SAFE. -/
def weaveChannel (force : Bool) (s : State) (c : Nat) : State :=
  let count (s : State) : State := { s with sys.handLeft := mput (fun _ => 0) s.sys.handLeft c 3,
                                            sys.handWait := mput (fun _ => false) s.sys.handWait c false }
  if srcOf s c = 2 || decide (handLeft s c ≠ 0) then s
  else if !safePlays s c || force then count s
  else { s with sys.handWait := mput (fun _ => false) s.sys.handWait c true, sys.waited := mput (fun _ => false) s.sys.waited c true }

/-- An accepted WEAVE. -/
def weaveStart (force : Bool) (s : State) : State :=
  let s := { s with sys.weaving := true, sys.weaveForce := s.sys.weaveForce || force }
  let s := (List.range 16).foldl (weaveChannel force) s
  s.set R.SYS_STAGE_HOPEND (b2n (decide (s.sys.handWait ≠ [])))

/-- A WEAVE write: where a BUSY and an ORDER case both hold, BUSY is reported (assumption 157). -/
def weaveWrite (a : Agent) (force : Bool) (s : State) : State :=
  if !isHost a then s
  else if s.halted then stageRefuse 7 s
  else if s.flag R.SYS_PSTATE_TRANS || s.flag R.SYS_STAGE_LOADING then stageRefuse 2 s
  else if s.get R.SYS_UNCLAMP_DONE ≠ 7 then stageRefuse 1 s
  else if s.pstate ≠ 2 then stageRefuse 1 s
  else
    let s := s.set R.SYS_STAGE_CMDERR 0
    if s.stage = 3 then s else weaveStart force s

def execWeave (a : Agent) (force : Bool) (s : State) : Out := 
  access a R.SYS_STAGE_CMD (BitVec.ofNat 32 (2 + 32 * b2n force)) (fun s => .next (weaveWrite a force s)) s

/-- A write of SYS_STAGE_CMD (R164). -/
def stageCmdWrite (a : Agent) (v : Word) (s : State) : State :=
  match wget v 0 2 with
  | 1 => warpWrite a (v.getLsbD 4) s
  | 2 => weaveWrite a (v.getLsbD 5) s
  | _ => s

/-! Power-state commands (R171 to R178). -/

/-- A refused power-state command. -/
def powerRefuse (err : Nat) (s : State) : State := cause R.SYS_PNSTAT_REFUSED 3 (s.set R.SYS_PSTATE_PCMDERR err)

/-- The commands of R173, by state and target. -/
def powerAllowed (st target : Nat) : Bool :=
  match target with
  | 2 => decide (st = 3 ∨ st = 4)
  | 3 => decide (st = 2 ∨ st = 4)
  | 4 => decide (st = 2 ∨ st = 3)
  | 5 => decide (1 ≤ st ∧ st ≤ 4)
  | 6 => decide (1 ≤ st ∧ st ≤ 4)
  | _ => false

/-- Core n stays in NET. -/
def netStays (s : State) (n : Nat) : Bool := netListed s n

/-- NET entry (R181, 06_veneer_image.md R223, R234; 11_distaff_and_yarns.md R433): the cores outside the list leave service,
the panels are clamped, the frame reserve is cleared, patches end. -/
def netEnter (s : State) : State :=
  let ns := (List.range 48).filter fun n => !netStays s n && (s.core n).svc
  let s := ns.foldl (fun s n => setSvc n false (stopCore 0x13 n s)) s
  let s := if ns.isEmpty then s else dstCoresLeave ns s
  let s := ns.foldl (fun s n => rootMove n (coreLocks n s)) s
  let s := clampAll s
  let s := { s with vnr.rewriting := [], vnr.moved := [] }
  (s.setPkt (s.pkt.clear 0xD00000 0x300000)).set R.VNR_STAT_PATCHED 0

/-- The effects of an accepted command; SYS_PSTATE shows the transition, and IST's requests end (23_in_service_test.md R841). -/
def transStart (target : Nat) (push : Bool) (s : State) : State :=
  let st := s.pstate
  let s := istAbort { s with sys.loadRetry := false }
  let s := ((s.set R.SYS_PSTATE_PCMDERR 0).set R.SYS_PSTATE_TRANS 1).set R.SYS_PSTATE_TARGET target
  let s := if s.stage = 3 || s.sys.weaving then gatesGiveBack s else s
  if target = 4 then netEnter s
  else if st = 4 ∧ (target = 2 ∨ target = 3) then
    let s := { s with sys.netLoad := true, sys.netPush := push, vnr.img := [] }
    if push then s.wr R.VNR_PUSH_STAT 0 else s
  else s

/-- RESET: a PORN reset that keeps the straps, once a journal write in progress has committed (R186, R188). -/
def powerReset (s : State) : State := deviceReset rstHOST true (jrnSettle s)

/-- A write of SYS_PSTATE_CMD, by its checks in order (R172 to R176, R187; 06_veneer_image.md R227; 22_ply_pair.md R822). -/
def powerWrite (a : Agent) (cmd key : Nat) (push : Bool) (s : State) : State :=
  let target := if cmd ≤ 5 then cmd + 1 else 0
  if !isHost a || decide (cmd = 0) then s
  else if key ≠ 0x5A then powerRefuse 7 s
  else if cmd = 6 then powerReset s
  else if s.halted then powerRefuse 3 s
  else if s.flag R.SYS_PSTATE_TRANS || s.flag R.SYS_STAGE_LOADING || s.flag R.VNR_PATCH_STAT_BUSY then powerRefuse 2 s
  else if cmd = 5 && !s.flag R.DGN_STAT_UNLOCKED then powerRefuse 4 s
  else if !powerAllowed s.pstate target || (decide (cmd = 5) && decide (s.role ≥ 2)) then powerRefuse 1 s
  else transStart target push s

/-- The word a power command is written as (R191). -/
def powerWord (cmd key : Nat) (push : Bool) : Word := BitVec.ofNat 32 (cmd + b2n push * 16 + key % 256 * 2 ^ 24)

/-- A power command as a write of SYS_PSTATE_CMD. -/
def powerCmd (a : Agent) (cmd key : Nat) (push : Bool) (s : State) : Out :=
  access a R.SYS_PSTATE_CMD (powerWord cmd key push) (fun s => .next (powerWrite a cmd (key % 256) push s)) s

def execPowerFull (a : Agent) (push : Bool) (key : Nat) (s : State) : Out := powerCmd a 1 key push s
def execPowerQuiet (a : Agent) (push : Bool) (key : Nat) (s : State) : Out := powerCmd a 2 key push s
def execPowerNet (a : Agent) (key : Nat) (s : State) : Out := powerCmd a 3 key false s
def execPowerStandby (a : Agent) (key : Nat) (s : State) : Out := powerCmd a 4 key false s
def execPowerService (a : Agent) (key : Nat) (s : State) : Out := powerCmd a 5 key false s
def execPowerReset (a : Agent) (key : Nat) (s : State) : Out := powerCmd a 6 key false s

/-! The end of a transition (R165, R168, R173, R178, R183 to R187). -/

/-- STANDBY: the journal settles, every island but AO, SAFE and JRN goes off, PWS and its PLL too between SAFE services, and the stage
falls to 1 (R165, R184, R186). -/
def enterStandby (s : State) : State :=
  let s := setPower 5 (jrnSettle s)
  standbyPws (transDone 5 (if s.stage = 1 then s else fallStage 1 s))

/-- Core n has its full image's program back at a return from NET: it comes from off, or a patch had reloaded it (R182;
06_veneer_image.md R234; assumption 158). -/
def returns (s : State) (n : Nat) : Bool := !netListed s n || s.vnr.patched.contains n

/-- The threads of a core that takes a program again stop, with what they hold (06_veneer_image.md R230). -/
def holdCore (n : Nat) (s : State) : State := (List.range 8).foldl (fun s t => holdThread (8 * n + t) s) (coreLocks n s)

/-- The islands that NET had switched off come back, with the sections that configure them (R168, R182; 06_veneer_image.md R223). -/
def bringBack (m : Image) (rb : List (Nat × Nat)) (st : Nat) (s : State) : State :=
  let back := (List.range 48).filter (returns s)
  let s := setPower st (back.foldl (fun s n => holdCore n s) s)
  let s := (List.range 8).foldl (placeBram m) ((List.range 8).foldl (placePanel m) s)
  let s := back.foldl (placeCode m) s
  let s := bringPanels m rb (applyThreads m back.contains (applyAudio m s))
  startCores m back.contains { s with vnr.patched := [] }

/-- SERVICE: islands that return get their sections again, and the BIST runs with every port link-down (R168, R187; 23_in_service_test.md R842;
assumptions 60 and 194). -/
def enterService (s : State) : State :=
  let m := s.vnr.full
  let s := if s.pstate = 4 ∧ m ≠ [] then bringBack m [] 6 s else setPower 6 s
  let s := (List.range 9).foldl (fun s p => linkDown p s) s
  transDone 6 (s.set R.IST_BIST_STAT_STATE 1)

/-- POWER_TRANSITION_DONE: every channel has its gates back, and the transition's bound has run. -/
def execPowerTransitionDone (s : State) : Out :=
  if !s.flag R.SYS_PSTATE_TRANS || s.sys.netLoad || decide (s.sys.gatesOut ≠ []) then stay s
  else
    match s.get R.SYS_PSTATE_TARGET with
    | 2 => .next (transDone 2 (setPower 2 s))
    | 3 => .next (transDone 3 (setPower 3 s))
    | 4 => .next (transDone 4 (setPower 4 s))
    | 5 => .next (enterStandby s)
    | 6 => .next (enterService s)
    | _ => stay s

/-! The return from NET (R168, R182; 06_veneer_image.md R218, R223). -/

/-- A reload that ends without a return: the device stays in NET. Such an end is a refusal: REFUSED alone (R178; assumption 160). -/
def netFail (err : Nat) (s : State) : State :=
  let s := (s.set R.SYS_PSTATE_TRANS 0).set R.SYS_PSTATE_TARGET 0
  powerRefuse err { s with sys.netLoad := false, vnr.img := [] }

/-- The panels, and the cores outside the NET list, come back. VNR_PANEL_STAT.RSV_LOST and REWRITES keep their values (assumption 159). -/
def netReturn (m : Image) (rb : List (Nat × Nat)) (s : State) : State :=
  let target := s.get R.SYS_PSTATE_TARGET
  transDone target (bringBack m rb target { s with sys.netLoad := false, vnr.img := [] })

/-- NET_RELOAD_DONE: `flash` is what the flash holds, none where it is silent; `readback` as at a load. -/
def execNetReloadDone (flash : Option Flash) (readback : List (Nat × Nat)) (s : State) : Out :=
  let run (m : Image) : Out :=
    let m := m.take (imgLen m)
    if imageArrived m && imageOk false m s && signatureOk m s && decide (imgDigest m = loadedDigest s) then
      .next (netReturn m readback s)
    else .next (netFail 5 s)
  if !s.sys.netLoad || (!s.sys.netPush && s.flag R.HIF_XSPI_STAT_BUSY) then stay s
  else if s.sys.netPush then (if imageArrived s.vnr.img then run s.vnr.img else stay s)
  else
    match flash with
    | none => .next (netFail 6 s)
    | some f => run (flashFrom f (flashBase s))

/-- REFCLK is lost during a reload (R182). -/
def netClock (s : State) : State := if s.sys.netLoad then netFail 8 s else s

/-- A halt ends a transition (R177). -/
def transHalt (s : State) : State :=
  if !s.flag R.SYS_PSTATE_TRANS then s
  else { ((s.set R.SYS_PSTATE_TRANS 0).set R.SYS_PSTATE_TARGET 0) with sys.netLoad := false, vnr.img := [] }

/-! Wake in STANDBY (R185; 18_audio_path.md R689). -/

/-- The safe record names the frame as a wake frame: WAKE_ID under WAKE_MASK, of the format that IDE gives. -/
def wakeMatch (s : State) (id : Nat) (ext : Bool) : Bool :=
  decide (ext = bitOf (cfgByte s 1) 0) && decide (id &&& cfg32 s 10 = cfg32 s 6 &&& cfg32 s 10)

/-- STANDBY_WAKE_FRAME: a frame received on CAN FD port 0. -/
def execStandbyWakeFrame (id : Nat) (ext : Bool) (_data : List Byte) (s : State) : Out :=
  if decide (s.pstate ≠ 5) || s.sys.resetting || !wakeMatch s id ext then stay s else .next (s.set R.SYS_WAKE_CAN 1)

end Sys2Proof.Machine
end

