-- ==== Sys2Proof/Machine/Patch.lean ====
section
/-!
DEFINITION. Veneer patches, reserve rewrites, the push timeout, and the fuses of the image (06_veneer_image.md R207 to R234, R941;
07_marquetry_fabric.md R278 to R283).
-/
namespace Sys2Proof.Machine

/-! Starting a patch (R225, R226, R237). -/

/-- A refused START changes ERR alone. -/
def patchRefuse (err : Nat) (s : State) : State := s.set R.VNR_PATCH_STAT_ERR err

/-- A patch or a reserve rewrite is in progress. -/
def rewritesBusy (s : State) : Bool := s.flag R.VNR_PATCH_STAT_BUSY || decide (s.vnr.rewriting ≠ [])

/-- A write of VNR_PATCH_CMD. -/
def patchWrite (a : Agent) (v : Word) (s : State) : State :=
  if !isHost a || decide (wget v 0 2 ≠ 1) || decide (wget v 24 8 ≠ 0x5A) then s
  else if decide (s.stage < 2) || s.halted || !(decide (s.pstate = 2) || decide (s.pstate = 3)) then patchRefuse 1 s
  else if rewritesBusy s || s.flag R.SYS_PSTATE_TRANS || s.flag R.SYS_STAGE_LOADING then patchRefuse 2 s
  else
    let push := v.getLsbD 4
    let s := (s.set R.VNR_PATCH_STAT_BUSY 1).set R.VNR_PATCH_STAT_ERR 0
    let s := { s with vnr.patch := .staging, vnr.patchPush := push, vnr.patchErr := 0, vnr.readFails := 0, vnr.img := [] }
    if push then s.wr R.VNR_PUSH_STAT 0 else s

def execPatchStart (a : Agent) (v : Word) (s : State) : Out :=
  access a R.VNR_PATCH_CMD v (fun s => .next (patchWrite a v s)) s

/-! Panels under patch or rewrite (R228; 07_marquetry_fabric.md R278). -/

/-- Steps 1 and 2: the panel's channels move to the hard modulator, the panel is clamped and stalls. -/
def panelTake (p : Nat) (s : State) : State :=
  let s := { s with vnr.moved := mput (fun _ => false) s.vnr.moved p true
                    vnr.panelWas := mput (fun _ => 0) s.vnr.panelWas p (panelState s p) }
  setPanelState p 2 (stallBegin p (clampPanel p s))

/-- The holds of the unclamp steps that the device has passed are released (R276). -/
def panelSteps (p : Nat) (s : State) : State :=
  [1, 2, 3].foldl (fun s n => if doneBit s n then unclampPanel n p s else s) s

/-- Steps 5 and 6, and the end of the stall: the panel has a state again. -/
def panelRelease (p st : Nat) (s : State) : Out :=
  let s := setPanelState p st s
  let s := if st = 1 then panelSteps p (resolveClaims (p / 2) (applyFrame0 p ((s.panel p).frames.rdBytes 0 128) s)) else s
  let s := { s with vnr.moved := mput (fun _ => false) s.vnr.moved p false }
  if (s.panel p).stopped then .next s else stallEnd p s

/-! The patch's phases (R224, R228 to R230, R232). -/

/-- Phase `ending` with an outcome. -/
def patchEnding (err : Nat) (s : State) : State := { s with vnr.patch := .ending, vnr.patchErr := err }

/-- The patch's target. -/
def patchTarget (s : State) : Nat := s.get R.VNR_PATCH_STAT_TARGET

/-- KIND and TARGET show what a patch image is for, once its header has passed (R236). -/
def patchShow (m : Image) (s : State) : State :=
  match (imgSections m).head? with
  | none => s
  | some x => (s.set R.VNR_PATCH_STAT_KIND (b2n (decide (x.typ = tCODE)))).set R.VNR_PATCH_STAT_TARGET x.target

def patchIsCore (s : State) : Bool := s.flag R.VNR_PATCH_STAT_KIND

/-- The image is checked; its own errors by R203 and R224. -/
def patchCheck (m : Image) (s : State) : Nat :=
  if !imageArrived m || !imageOk true m s then 3
  else if imgBase m ≠ loadedDigest s then 5
  else if !signatureOk m s then 3
  else 0

/-- Step 1 of a core patch: the yarns move, the core counts as out of service (R230). -/
def corePatchBegin (n : Nat) (s : State) : State :=
  let s := rootMove n (setSvc n false (s.setCore n { s.core n with patching := true }))
  let s := (s.dst.tasks.filter fun t => decide (t.st = .queued ∧ t.core = n)).foldl remapTask s
  let s := { s with dst.last := s.dst.last.filter fun e => decide (e.2 ≠ n) }
  istCheck (cause R.DST_NSTAT_REMAP 68 s)

/-- The apply sequence begins; on a panel whose oscillator has stopped the patch is abandoned (07_marquetry_fabric.md R281). -/
def patchApply (m : Image) (s : State) : State :=
  match (imgSections m).head? with
  | none => patchEnding 3 s
  | some x =>
    if x.typ = tCODE then corePatchBegin x.target { s with vnr.patch := .core }
    else if (s.panel x.target).stopped then setPanelState x.target 3 (patchEnding 7 s)
    else writeFrames x.target (sectBytes m x) (panelTake x.target { s with vnr.patch := .panel })

/-- Where a patch image starts in the flash (R225); a FOLLOWER takes a pushed image from its LEADER. -/
def patchBase (s : State) : Nat := if s.vnr.patchPush then 0 else (s.rd R.VNR_PATCH_FOFS).toNat

/-- PATCH_VERIFY_DONE: `flash` is what the flash holds, none where it is silent (what the LEADER sends, on a FOLLOWER); `partnerErr` is the
partner's error, 0 where it has verified (22_ply_pair.md R823). The flash is read once the host's flash command in progress has ended
(16_host_interface_rings.md R626). -/
def execPatchVerifyDone (flash : Option Flash) (partnerErr : Nat) (s : State) : Out :=
  let push := s.vnr.patchPush && !s.follower
  if decide (s.vnr.patch ≠ .staging) || (push && !imageArrived s.vnr.img) || (!s.vnr.patchPush && s.flag R.HIF_XSPI_STAT_BUSY) then stay s
  else
    match (if push then some s.vnr.img else flash.map fun f => flashFrom f (patchBase s)) with
    | none => .next (patchEnding 4 s)
    | some m =>
      let m := m.take (imgLen m)
      let s := { (s.setPkt (s.pkt.wrBytes 0xF80000 (m.take 0x80000))) with vnr.img := m }
      let own := patchCheck m s
      let s := if imageArrived m && imageOk true m s then patchShow m s else s
      let err := if s.role < 2 then own else if partnerErr ≠ 0 && (s.follower || decide (own = 0)) then partnerErr else own
      .next (if err = 0 then patchApply m s else patchEnding err s)

/-- PATCH_READBACK_DONE: the CRC that the readback of the panel gives (R228, R229). -/
def execPatchReadbackDone (crc partnerErr : Nat) (s : State) : Out :=
  let p := patchTarget s
  if s.vnr.patch ≠ .panel then stay s
  else
    let f := sectData s.vnr.img tPANEL p
    let bad := decide (crc ≠ (crc32 f)) || (decide (s.role ≥ 2) && decide (partnerErr ≠ 0))
    if bad then
      if s.vnr.readFails = 0 && decide (partnerErr = 0) then .next { s with vnr.readFails := 1 }
      else .next (patchEnding 6 (writeFrames p (slotFrames s p) s))
    else
      let s := placeBram s.vnr.img (fillSlot p f s) p
      .next (patchEnding 0 (s.set (R.VNR_PANEL_STAT_RSV_LOST p) 0))

/-- CORE_PATCH_IDLE_TIMEOUT: steps 2 to 5 of a core patch. -/
def execCorePatchIdleTimeout (s : State) : Out :=
  let n := patchTarget s
  if s.vnr.patch ≠ .core then stay s
  else
    let s := placeCode s.vnr.img (holdCore n s) n
    let s := { (s.setCore n { s.core n with patching := false }) with vnr.patched := n :: s.vnr.patched.filter (· ≠ n) }
    .next (patchEnding 0 (if (s.core n).retired || !s.up (islWHL n) then s else startCore n s))

/-- BUSY clears, ERR shows the outcome, N42. -/
def patchReport (s : State) : State :=
  let err := s.vnr.patchErr
  let s := (s.set R.VNR_PATCH_STAT_BUSY 0).set R.VNR_PATCH_STAT_ERR err
  let s := if err = 0 then s.set R.VNR_STAT_PATCHED 1 else s
  let s := if patchIsCore s then s else omitAfterPatch (patchTarget s) s
  cause R.VNR_NSTAT_PATCH 42 { s with vnr.patch := .idle, vnr.img := [] }

/-- PATCH_END. -/
def execPatchEnd (s : State) : Out :=
  let p := patchTarget s
  if s.vnr.patch ≠ .ending then stay s
  else if !patchIsCore s && decide (panelState s p = 2) && (decide (s.vnr.patchErr = 0) || decide (s.vnr.patchErr = 6)) then
    let st := if s.vnr.patchErr = 0 then 1 else mget (fun _ => 0) s.vnr.panelWas p
    match panelRelease p st s with
    | .next s => .next (patchReport s)
    | r => r
  else .next (patchReport s)

/-- A patch is abandoned, ERR = ABORTED; a panel that it was writing is FAILED (R232; 07_marquetry_fabric.md R281;
assumption 70). -/
def patchAbort (s : State) : State :=
  if s.vnr.patch = .idle then s
  else
    let t := patchTarget s
    let s := if patchIsCore s || decide (panelState s t ≠ 2) then s
      else { (setPanelState t 3 s) with vnr.moved := mput (fun _ => false) s.vnr.moved t false }
    let s := if s.vnr.patch = .core then s.setCore t { s.core t with patching := false } else s
    patchReport { s with vnr.patchErr := 7 }

/-- A patch of panel p is in progress: the header that has arrived, or VNR_PATCH_STAT, names it. -/
def patchOn (s : State) (p : Nat) : Bool :=
  match s.vnr.patch with
  | .idle => false
  | .core => false
  | .staging => headerArrived s.vnr.img && (imgSections s.vnr.img).head?.any fun x => decide (x.typ = tPANEL) && decide (x.target = p)
  | _ => !patchIsCore s && decide (patchTarget s = p)

/-! Upsets and rewrites (R221, R222; 07_marquetry_fabric.md R283). -/

/-- A panel's frames differ from its CRC: N44, then its rewrite, or FAILED where its slot is lost. -/
def panelUpset (p : Nat) (s : State) : State :=
  let s := cause (R.MQY_NSTAT_READBACK p) 44 s
  if s.flag (R.VNR_PANEL_STAT_RSV_LOST p) then cause R.VNR_NSTAT_PANEL 43 (setPanelState p 3 (clampPanel p s))
  else
    let s := { (panelTake p s) with vnr.rewriting := mput (fun _ => false) s.vnr.rewriting p true }
    writeFrames p (slotFrames s p) s

/-- READBACK_PASS_DONE: a pass over panel p has ended with a CRC after some ns. It runs on IST's clock, whether the panel's runs or not
(07_marquetry_fabric.md R283). -/
def execReadbackPassDone (p crc ns : Nat) (s : State) : Out :=
  if !s.up islIST || !s.powered (islMQY p) || decide (p ≥ 8) || decide (panelState s p ≠ 1) || decide (s.pstate = 6)
      || (!bitOf (s.get R.IST_CTL_EN) 3 && (istHead s 2 p).isNone) then stay s
  else
    let bad := decide (crc ≠ (s.rd (R.VNR_PANEL_CRC p)).toNat)
    let s := passEnd p ns bad s
    .next (if bad then istCheck (panelUpset p s) else s)

/-- RESERVE_REWRITE_DONE: the rewrite, at the panel's clock, and its readback give a CRC; one that differs is repeated (assumption 58). -/
def execReserveRewriteDone (p crc : Nat) (s : State) : Out :=
  if !mget (fun _ => false) s.vnr.rewriting p || !s.up (islMQY p) || decide (crc ≠ (s.rd (R.VNR_PANEL_CRC p)).toNat) then stay s
  else
    let s := { s with vnr.rewriting := mput (fun _ => false) s.vnr.rewriting p false }
    let s := s.set (R.VNR_PANEL_STAT_REWRITES p) (satAdd 255 (s.get (R.VNR_PANEL_STAT_REWRITES p)) 1)
    panelRelease p 1 (cause R.VNR_NSTAT_PANEL 43 s)

/-! The push window's timeout (R215). -/

/-- PUSH_TIMEOUT: no word for 1 s. -/
def execPushTimeout (s : State) : Out :=
  if !pushOpen s || !pushWants s then stay s
  else if s.sys.load ≠ .idle then .next (loadFail 6 s)
  else if s.sys.netLoad then .next (netFail 6 s)
  else .next (patchEnding 4 s)

/-! Fuses of the image (R207 to R211, R941). -/

def burning (s : State) : Bool := decide (s.burn ≠ .none)

def earlyWarn (s : State) : Bool := s.flag R.SUP_EWSTAT_EW

/-- The key to program, as VNR_KEYPROG holds it. -/
def keyStaged (s : State) : Nat := leNat ((List.range 8).flatMap fun i => leBytes 4 (s.rd (R.VNR_KEYPROG i)).toNat)

/-- A write of VNR_KEYPROG_CMD. -/
def keyprogWrite (a : Agent) (v : Word) (s : State) : State :=
  let refuse (e : Nat) : State := s.set R.VNR_KEYPROG_STAT_ERR e
  if !isHost a || decide (v ≠ 0xA5) || decide (s.fuses.key ≠ 0) then s
  else if s.held.lc ≠ 0 then refuse 1
  else if burning s then refuse 2
  else if earlyWarn s then refuse 3
  else
    let s := ((s.set R.VNR_KEYPROG_STAT_ERR 0).set R.VNR_KEYPROG_STAT_DONE 0).set R.VNR_KEYPROG_STAT_BUSY 1
    { s with burn := .key (keyStaged s) }

def execKeyprogBurn (a : Agent) (v : Word) (s : State) : Out :=
  access a R.VNR_KEYPROG_CMD v (fun s => .next (keyprogWrite a v s)) s

/-- KEYPROG_BURN_DONE. The new key takes effect at the next reset. -/
def execKeyprogBurnDone (s : State) : Out :=
  match s.burn with
  | .key bits =>
    let s := { s with fuses.key := s.fuses.key ||| bits, burn := .none }
    .next ((s.set R.VNR_KEYPROG_STAT_BUSY 0).set R.VNR_KEYPROG_STAT_DONE 1)
  | _ => stay s

/-- A write of VNR_ROLL_CMD (R210). -/
def rollWrite (a : Agent) (v : Word) (s : State) : State :=
  let refuse (e : Nat) : State := s.set R.VNR_ROLL_STAT_ERR e
  let tgt := min (wget v 0 8) (s.get R.VNR_ROLL_IMAGE)
  if !isHost a || decide (wget v 24 8 ≠ 0x5A) then s
  else if s.stage < 2 then refuse 1
  else if burning s then refuse 2
  else if earlyWarn s then refuse 3
  else
    let s := s.set R.VNR_ROLL_STAT_ERR 0
    if tgt ≤ s.fuses.roll then s else { (s.set R.VNR_ROLL_STAT_BUSY 1) with burn := .roll tgt }

def execRollbackAdvance (a : Agent) (v : Word) (s : State) : Out :=
  access a R.VNR_ROLL_CMD v (fun s => .next (rollWrite a v s)) s

/-- ROLLBACK_BURN_DONE: the burn of one bit ends, and with the last one the whole burn: the count rises one bit at a time. -/
def execRollbackBurnDone (s : State) : Out :=
  match s.burn with
  | .roll tgt =>
    let n := min tgt (s.fuses.roll + 1)
    let s := { s with fuses.roll := n, held.roll := n }.set R.VNR_ROLL_FUSE n
    .next (if n = tgt then { (s.set R.VNR_ROLL_STAT_BUSY 0) with burn := .none } else s)
  | _ => stay s

end Sys2Proof.Machine
end

