-- ==== Sys2Proof/Machine/Halt.lean ====
section
/-!
DEFINITION. The halt on a malformed descriptor (16_host_interface_rings.md R621 to R623).
-/
namespace Sys2Proof.Machine

/-- The DTC record of a halt (24_journal_memory.md R849, R850). -/
def haltRecord (s : State) : JRec :=
  { region := 3, id := 511
    data := leBytes 8 s.now ++ leBytes 4 (s.rd R.SYS_HALT).toNat ++ leBytes 4 (s.rd R.HIF_HALT_FMT).toNat
      ++ leBytes 4 (s.rd R.HIF_HALT_IDX).toNat }

/-- A join in progress ends with ABORTED (22_ply_pair.md R819). -/
def joinAbort (s : State) : State :=
  let p := s.get R.PLY_JOIN_STAT_PHASE
  if p = 0 ∨ p = 5 then s
  else cause R.PLY_NSTAT_JOIN 35 ((s.set R.PLY_JOIN_STAT_PHASE 0).set R.PLY_JOIN_STAT_ERR 5)

/-- A strand that stops PLY_ALIVE drives its gates and its OWN line low (22_ply_pair.md R792, R794). -/
def plyStop (s : State) : State := if s.role = 0 then s else ownershipDrop s

/-- The halt tells the partner (R621; 22_ply_pair.md R792, R794, R819). -/
def plyHalt (s : State) : State := if s.role = 0 then s else plyStop (joinAbort (s.emit (.ply .halt)))

/-- Egress of every port is flushed (08_ports_and_tsn.md R323). -/
def haltPorts (s : State) : State := if s.up islPRT then (List.range 9).foldl (fun s p => flushPort p s) s else s

/-- The stage reads 1, the gates go back (R621; 05_power_states.md R179). The fall counts as the entry of a stage: SYS_NSTAT.STAGE and
N00 (assumption 152). -/
def haltStage (s : State) : State :=
  let s := gatesGiveBack s
  if s.stage = 1 then s else fallStage 1 s

/-- What the device does at a halt, once SYS_HALT shows it. -/
def haltActions (s : State) : State :=
  let s := transHalt (loadHalt (istAbort s))
  let s := clampAll (haltCores s)
  let s := haltPorts (haltStage s)
  plyHalt (jrnDevice (haltRecord s) (crossing 71 s))

/-- The device halts on the entry of ring index `idx` of queue pair q with a format word. A panel under patch is FAILED, and its
stall ends with the patch (assumption 70). -/
def haltDevice (q fmt idx : Nat) (s : State) : Out :=
  let s := ((s.set R.SYS_HALT_HALTED 1).set R.SYS_HALT_QP q).wr R.HIF_HALT_FMT (BitVec.ofNat 32 fmt)
  let s := s.set R.HIF_HALT_IDX_INDEX idx
  let t := patchTarget s
  let stalled := decide (s.vnr.patch ≠ .idle) && !patchIsCore s && decide (panelState s t = 2) && !(s.panel t).stopped
  let s := haltActions (patchAbort s)
  if stalled then stallEnd t s else .next s

end Sys2Proof.Machine
end

