-- ==== Sys2Proof/Machine/Hif.lean ====
section
/-!
DEFINITION. Queue pairs and their commands: doorbells, fetch, descriptors, destruction, the admin queue pair, function-level
reset and Bus Master Enable (16_host_interface_rings.md R580 to R624).
-/
namespace Sys2Proof.Machine

/-! Entries (R602 to R604, R620). -/

/-- A field of a descriptor. -/
def QEntry.fld (e : QEntry) (o n : Nat) : Nat := leNat (sliceOf e.bytes o n)

def QEntry.op (e : QEntry) : Nat := e.fld 0 1

/-- Nothing has been done with the entry yet. -/
def QEntry.fresh (e : QEntry) : Bool := !e.posted && !e.bufWait && e.pkt.isNone && e.result.isNone

/-- The entry waits for a buffer or for admission. -/
def QEntry.waits (e : QEntry) : Bool := e.bufWait || e.pkt.isSome

/-- The oldest entry that has not been acted on. -/
def nextEntry (x : Qp) : Option QEntry := x.out.find? (·.fresh)

/-- A SEND of the queue pair waits (R613). -/
def sendStops (x : Qp) : Bool := x.out.any (·.waits)

/-- The opcode is defined for the queue pair's kind. -/
def opDefined (q : Nat) (x : Qp) (op : Nat) : Bool :=
  decide (op = 1) || (if q = 0 then decide (2 ≤ op ∧ op ≤ 4) else if x.kind then decide (op = 0x11) else decide (op = 0x10))

/-- The format word passes its check. -/
def fmtOk (q : Nat) (x : Qp) (w : Nat) : Bool :=
  decide (w / 256 % 256 = 0xA5) && decide (w / 65536 = 0) && opDefined q x (w % 256)

/-- The first descriptor of queue pair q that stands ready has an opcode. -/
def readyOp (s : State) (q op : Nat) : Option QEntry :=
  match nextEntry (s.qp q) with
  | some e => if e.op = op && !s.halted && decide ((s.qp q).st ≠ 0) && !sendStops (s.qp q) then some e else none
  | none => none

/-- Changes an outstanding entry. -/
def setEntry (q idx : Nat) (f : QEntry → QEntry) (s : State) : State :=
  let x := s.qp q
  s.setQp q { x with out := x.out.map fun e => if e.idx = idx && e.result.isNone then f e else e }

/-! Doorbells (R595, R596, R601, R622, R624). -/

/-- A write of HIF_DB_SQ[q]. -/
def sqDoorbell (a : Agent) (q : Nat) (v : Word) (s : State) : Out :=
  let x := s.qp q
  let t := wget v 0 12
  let d := 2 ^ x.sqlog
  if !isHost a || s.halted then .next s
  else if x.st ≠ 1 then .next (s.bump R.HIF_CNT_DBLOST)
  else if t ≥ d || decide ((t + d - x.tail) % d > d - 1 - (x.tail + d - x.head) % d) then .next (queueHavoc q s)
  else .next (s.setQp q { x with tail := t })

/-- SQ_DOORBELL. -/
def execSqDoorbell (a : Agent) (q : Nat) (v : Word) (s : State) : Out :=
  if q ≥ 1024 then stay s else access a (R.HIF_DB_SQ q) v (sqDoorbell a q v) s

/-- A write of HIF_DB_CQ[q]: a head equal to the one in force releases nothing (assumption 72). -/
def cqDoorbell (a : Agent) (q : Nat) (v : Word) (s : State) : Out :=
  let x := s.qp q
  let h := wget v 0 12
  let d := 2 ^ x.cqlog
  let n := (h + d - x.released % d) % d
  if !isHost a || s.halted || decide (x.st = 0) then .next s
  else if h ≥ d || decide (n > x.written - x.released) then .next (queueHavoc q s)
  else .next (s.setQp q { x with released := x.released + n })

/-- CQ_DOORBELL. -/
def execCqDoorbell (a : Agent) (q : Nat) (v : Word) (s : State) : Out :=
  if q ≥ 1024 then stay s else access a (R.HIF_DB_CQ q) v (cqDoorbell a q v) s

/-! Fetch (R597, R598, R616, R620). -/

/-- Entries that one read may fetch now. -/
def fetchCount (x : Qp) : Nat :=
  let d := 2 ^ x.sqlog
  min (min 8 ((x.tail + d - x.head) % d)) (min (d - x.head) (min (x.maxinfl - x.infl) x.freeSlots))

/-- PCIe tags in use: each read of a ring in host memory that has not come back holds one; the read of a SEND's data comes back in
HOST_SEND or SEND_DATA_ERROR itself (02_guarantees.md R62). -/
def tagsUsed (s : State) : Nat := (s.hif.qps.filter fun e => e.2.fetch.isSome && !e.2.ringsp).length

/-- A ring may be read now; a read of host memory needs one of 256 tags (R581, R597). -/
def fetchOpen (s : State) (x : Qp) : Bool :=
  decide (x.st = 1) && x.fetch.isNone && !s.halted && !s.follower && !sendStops x && (x.ringsp || (s.busMaster && decide (tagsUsed s < 256)))

/-- The ring does not lie where it must (R590, R624). -/
def ringFault (s : State) (x : Qp) : Option Scope :=
  if !x.ringsp && !s.hostPcie then some .queue
  else if x.ringsp && (outsideRegion s x.sqbase (32 * 2 ^ x.sqlog) || outsideRegion s x.cqbase (16 * 2 ^ x.cqlog)) then some .device
  else none

/-- Takes ring entries: the head moves on. -/
def fetchTake (q n : Nat) (s : State) : State :=
  let x := s.qp q
  s.setQp q { x with fetch := some (x.head, n), head := (x.head + n) % 2 ^ x.sqlog }

/-- DESCRIPTOR_FETCH. -/
def execDescriptorFetch (q : Nat) (s : State) : Out :=
  let x := s.qp q
  let n := fetchCount x
  if !s.up islHIF || !fetchOpen s x || decide (n = 0) then stay s
  else
    match ringFault s x with
    | some c => .next (unpredIn c q (fetchTake q n s))
    | none => .next (fetchTake q n s)

/-- Entries of a read that have arrived are checked in order, up to the first malformed one; the others become outstanding. -/
def checkEntries (q : Nat) : Nat → Nat → List Byte → State → Out
  | 0, _, _, s => .next s
  | n + 1, idx, bs, s =>
    let x := s.qp q
    let w := leNat (bs.take 4)
    if !fmtOk q x w then haltDevice q w idx s
    else
      let e : QEntry := { idx := idx, bytes := bs.take 32, posted := false, bufWait := false, pkt := none, result := none }
      checkEntries q n (idx + 1) (bs.drop 32) (s.setQp q { x with out := x.out ++ [e] })

/-- The entries of a read reach the queue pair. -/
def fetchArrive (q : Nat) (data : List Byte) (s : State) : Out :=
  let x := s.qp q
  match x.fetch with
  | none => .next s
  | some (i, n) => checkEntries q n i data (s.setQp q { x with fetch := none })

/-- A mirrored descriptor read, as both strands apply it (22_ply_pair.md R805, R806). -/
def descApply (q : Nat) (data : List Byte) (s : State) : Out :=
  if decide (s.halted) || decide ((s.qp q).st = 0) then .next s
  else fetchArrive q data (if (s.qp q).fetch.isSome then s else fetchTake q (data.length / 32) s)

/-- The read failed (R616). -/
def fetchFailed (q : Nat) (s : State) : State :=
  let x := s.qp q
  let s := (s.setQp q { x with fetch := none, st := 3 }).bump R.HIF_CNT_DMAERR
  crossing (72 + x.group) s

/-- FETCH_COMPLETE: the entries' bytes, or none where the read failed. -/
def execFetchComplete (q : Nat) (data : Option (List Byte)) (s : State) : Out :=
  let x := s.qp q
  match x.fetch with
  | none => stay s
  | some (i, n) =>
    if s.halted then stay s
    else if x.ringsp then fetchArrive q (s.pkt.rdBytes (x.sqbase + 32 * i) (32 * n)) s
    else
      match data with
      | none => .next (fetchFailed q s)
      | some bs =>
        if bs.length ≠ 32 * n then stay s
        else if s.leader then .next (mirrorAcc (.desc q bs) s)
        else fetchArrive q bs s

/-! Admin commands (R607 to R611, R617 to R619). -/

/-- NOP_DESCRIPTOR. -/
def execNopDescriptor (q : Nat) (s : State) : Out :=
  match readyOp s q 1 with
  | none => stay s
  | some e => .next (entryDone q e.idx 0 0 0 s)

def ringsMeet (a b : Bool × Nat × Nat) : Bool :=
  decide (a.1 = b.1) && decide (a.2.1 < b.2.1 + b.2.2) && decide (b.2.1 < a.2.1 + a.2.2)

/-- The geometry of a queue pair is one that R624 leaves unchecked. -/
def geometryFault (s : State) (q : Nat) (x : Qp) : Option Scope :=
  let others := (s.hif.qps.filter fun e => decide (e.1 ≠ q ∧ e.2.st ≠ 0)).flatMap fun e => e.2.rings
  if !(decide (4 ≤ x.sqlog ∧ x.sqlog ≤ 12) && decide (4 ≤ x.cqlog ∧ x.cqlog ≤ 12)) then some .queue
  else if decide (x.sqbase % 64 ≠ 0) || decide (x.cqbase % 64 ≠ 0) then some .queue
  else if x.rings.any (fun a => others.any (ringsMeet a)) || ringsMeet (x.rings.getD 0 (false, 0, 0)) (x.rings.getD 1 (false, 0, 0)) then
    some .queue
  else if x.ringsp && (s.pkt.rdBytes x.cqbase (16 * 2 ^ x.cqlog)).any (fun b => decide (b ≠ 0)) then some .queue
  else ringFault s x

/-- The queue pairs whose rings overlap queue pair q's (R624). -/
def ringOverlaps (s : State) (q : Nat) (x : Qp) : List Nat :=
  (s.hif.qps.filter fun e => decide (e.1 ≠ q ∧ e.2.st ≠ 0) && x.rings.any fun a => e.2.rings.any (ringsMeet a)).map fun e => e.1

/-- A queue pair comes into being; a geometry that R624 leaves unchecked has the outcome of its scope, at every queue pair involved. -/
def openQp (q : Nat) (x : Qp) (s : State) : State :=
  match geometryFault s q x with
  | none => s.setQp q x
  | some c => unpredIn c q ((ringOverlaps s q x).foldl (fun s r => unpredQueue r s) (s.setQp q x))

/-- The queue pair that a CREATE_QP describes. -/
def createdQp (e : QEntry) : Qp :=
  { Qp.reset with
    st := 1, kind := bitOf (e.fld 25 1) 0, ringsp := bitOf (e.fld 25 1) 1, group := bitsOf (e.fld 25 1) 4 3,
    sqbase := e.fld 8 8, cqbase := e.fld 16 8, sqlog := e.fld 24 1 % 16, cqlog := e.fld 24 1 / 16, maxinfl := e.fld 26 1 + 1 }

/-- The queue pair a CREATE_QP names: the lowest FREE one for 0. -/
def createId (s : State) (e : QEntry) : Option Nat :=
  let id := e.fld 6 2 % 1024
  if id ≠ 0 then some id
  else ((List.range 1023).map (· + 1)).find? fun q => decide ((s.qp q).st = 0)

/-- CREATE_QP. -/
def execCreateQp (s : State) : Out :=
  match readyOp s 0 2 with
  | none => stay s
  | some e =>
    let done (st : Nat) : Out := .next (entryDone 0 e.idx st 0 0 s)
    if s.stage < 2 then done 0x0B
    else
      match createId s e with
      | none => done 0x0A
      | some q =>
        let x := createdQp e
        if (s.qp q).st ≠ 0 then done 0x08
        else if inflBudget s + x.maxinfl > 4096 then done 0x0A
        else .next (entryDone 0 e.idx 0 q 0 (openQp q x s))

/-- The host queue group's waiting buffer request goes, where the entry waits for it. -/
def dropWait (x : Qp) (e : QEntry) (s : State) : State :=
  if e.bufWait then
    { s with bpm.hostWait := mput (fun _ => none) s.bpm.hostWait (9 + x.group) none
             bpm.answers := s.bpm.answers.filter fun a => decide (a.owner ≠ 9 + x.group) }
  else s

/-- The buffer that a BPM answer has brought to a waiting entry, and a SEND's packet, go back to their pool. -/
def dropSend (x : Qp) (s : State) (e : QEntry) : State :=
  let s := match (if e.bufWait then s.bpm.answers.find? fun a => decide (a.owner = 9 + x.group ∧ a.status = 0) else none) with
    | some a => freeBuf a.handle s
    | none => s
  let s := dropWait x e s
  match e.pkt with
  | some k => freeBuf k.handle s
  | none => s

/-- Entries that an ABORT ends. -/
def abortCount (x : Qp) : Nat := (x.out.filter fun e => e.result.isNone).length

/-- ABORT: every outstanding entry completes with ABORTED, and the queue pair is FREE (R617). -/
def abortQp (q : Nat) (s : State) : State :=
  let x := s.qp q
  let s := (x.out.filter fun e => e.result.isNone).foldl (dropSend x) s
  let x := s.qp q
  let out := x.out.map fun e => if e.result.isNone then { e with result := some (1, 0, 0), posted := false, bufWait := false, pkt := none } else e
  (cqFlush q out.length (s.setQp q { x with out := out, fetch := none })).setQp q Qp.reset

/-- A DESTROY_QP of a mode that stands ready, with the queue pair it names. -/
def destroyEntry (s : State) (drain : Bool) : Option (QEntry × Nat) :=
  match readyOp s 0 3 with
  | some e => if bitOf (e.fld 6 2) 15 = drain then some (e, e.fld 6 2 % 1024) else none
  | none => none

/-- DESTROY_QP_ABORT: it runs once a read in flight has come back and completions may be written (assumption 73). -/
def execDestroyQpAbort (s : State) : Out :=
  match destroyEntry s false with
  | none => stay s
  | some (e, q) =>
    let x := s.qp q
    if decide (q = 0) || decide (x.st = 0) then .next (entryDone 0 e.idx 9 0 0 s)
    else if x.fetch.isSome || (decide (x.out ≠ []) && !cqOpen s x) then stay s
    else .next (entryDone 0 e.idx 0 (abortCount x) 0 (abortQp q s))

/-- DESTROY_QP_DRAIN. -/
def execDestroyQpDrain (s : State) : Out :=
  match destroyEntry s true with
  | none => stay s
  | some (e, q) =>
    let x := s.qp q
    if decide (q = 0) || decide (x.st = 0) then .next (entryDone 0 e.idx 9 0 0 s)
    else .next (entryDone 0 e.idx 0 0 0 (s.setQp q { x with st := 2 }))

/-- DRAIN_IDLE. -/
def execDrainIdle (q : Nat) (s : State) : Out :=
  let x := s.qp q
  if decide (x.st ≠ 2) || decide (x.infl ≠ 0) then stay s else .next (s.setQp q Qp.reset)

/-- QUERY_QP. -/
def execQueryQp (s : State) : Out :=
  match readyOp s 0 4 with
  | none => stay s
  | some e =>
    let q := e.fld 6 2 % 1024
    let x := s.qp q
    if decide (q ≠ 0) && decide (x.st = 0) then .next (entryDone 0 e.idx 9 0 0 s)
    else .next (entryDone 0 e.idx 0 x.stat.toNat (x.head + x.written % 2 ^ x.cqlog * 65536) s)

/-! SEND and RECV (R612 to R616, R624; 09_parser_classifier.md R336; 10_buffers_and_locks.md R366 to R368, R381). -/

def QEntry.pkm (e : QEntry) : Bool := bitOf (e.fld 6 1) 0
def QEntry.addr (e : QEntry) : Nat := e.fld 8 8
def QEntry.len (e : QEntry) : Nat := e.fld 16 4

/-- An unchecked error of a SEND or RECV. -/
def dataFault (s : State) (e : QEntry) (send : Bool) : Option Scope :=
  if !e.pkm && !s.hostPcie then some .queue
  else if send && decide (e.len < 14) then some .queue
  else if e.pkm && outsideRegion s e.addr e.len then some .device
  else none

/-- The outcome of such an error: the entry ends, with a completion that nothing fixes. -/
def dataHavoc (c : Scope) (q : Nat) (e : QEntry) (s : State) : State :=
  let (f, s) := s.draw 33
  entryDone q e.idx (f % 256) (f / 256) (f / 2 ^ 40) (unpredIn c q s)

/-- Steps 2 and 3: the frame is in its buffer and is classified as PORT 9; a packet then waits for admission. -/
def sendFrame (q : Nat) (e : QEntry) (h : Nat) (d : List Byte) (s : State) : State :=
  let hdrm := s.get R.BPM_HDRM_PORT
  let s := s.setPkt (s.pkt.wrBytes (bufAddr s h + hdrm) d)
  let r := parseFrame d 9 none
  let (v, s) := classify 9 r s
  if v.drop then entryDone q e.idx 2 0 0 (freeBuf h s)
  else
    let k := { mkPkt 9 h d.length hdrm (s.tnow islPRS) r v (tcOf s v.cls) with sub := some (q, e.fld 4 2) }
    setEntry q e.idx (fun e => { e with bufWait := false, pkt := some k }) s

/-- The data of a SEND. -/
def sendData (s : State) (e : QEntry) (data : List Byte) : List Byte :=
  if e.pkm then s.pkt.rdBytes e.addr e.len else data.take e.len

/-- The BPM's answer to a waiting SEND. -/
def takeBufAns (o : Nat) (s : State) : Option (BufAns × State) :=
  match s.bpm.answers.find? fun a => decide (a.owner = o) with
  | some a => some (a, { s with bpm.answers := s.bpm.answers.erase a })
  | none => none

/-- A SEND goes on with the BPM's answer, or waits for it. -/
def sendGo (q : Nat) (e : QEntry) (data : List Byte) (s : State) : State :=
  match takeBufAns (9 + (s.qp q).group) s with
  | none => setEntry q e.idx (fun e => { e with bufWait := true }) s
  | some (a, s) =>
    if a.status = 2 then entryDone q e.idx 4 0 0 s
    else sendFrame q e a.handle (sendData s e data) s

/-- HOST_SEND: the SEND that stands ready, or the one that waits for its buffer; `data` are the bytes a PCIe read brings. -/
def execHostSend (q : Nat) (data : List Byte) (s : State) : Out :=
  let x := s.qp q
  let o := 9 + x.group
  if s.halted || !s.up islBPM || !s.up islPRS then stay s
  else
    match x.out.find? (·.bufWait) with
    | some e => if (takeBufAns o s).isNone then stay s else .next (sendGo q e data s)
    | none =>
      match readyOp s q 0x10 with
      | none => stay s
      | some e =>
        if !e.pkm && (!s.busMaster || decide (data.length < e.len)) then stay s
        else if (mget (fun _ => none) s.bpm.hostWait o).isSome then stay s
        else
          match dataFault s e true with
          | some c => .next (dataHavoc c q e s)
          | none => .next (sendGo q e data (serveBuf ⟨o, e.len + s.get R.BPM_HDRM_PORT, escBit s o⟩ s))

/-- RECV: a fetched RECV is posted. -/
def execRecv (q : Nat) (s : State) : Out :=
  match readyOp s q 0x11 with
  | none => stay s
  | some e =>
    let s := setEntry q e.idx (fun e => { e with posted := true }) s
    .next (if !e.pkm && !s.hostPcie then queueHavoc q s else s)

/-- SEND_DATA_ERROR: the PCIe read of a SEND's data fails; its buffer, if it has one, goes back (R616). -/
def execSendDataError (q : Nat) (s : State) : Out :=
  let x := s.qp q
  match (x.out.find? (·.bufWait)).orElse (fun _ => readyOp s q 0x10) with
  | none => stay s
  | some e =>
    if e.pkm || s.halted || (e.bufWait && (takeBufAns (9 + x.group) s).isNone) then stay s
    else .next (entryDone q e.idx 5 0 0 ((dropSend x s e).bump R.HIF_CNT_DMAERR))

/-! The admin queue pair (R591, R619, R628). -/

/-- A write of HIF_AQ_CFG: while EN reads 1 fields [8:0] are kept. -/
def aqCfgWrite (v : Word) (s : State) : Out :=
  let on := s.flag R.HIF_AQ_CFG_EN
  if v &&& 0x7FFFFE00#32 ≠ 0 then .next (unpredBlock R.HIF_AQ_CFG s)
  else if on then .next (if v.getLsbD 31 then s else (abortQp 0 s).set R.HIF_AQ_CFG_EN 0)
  else if !v.getLsbD 31 then .next (s.wr R.HIF_AQ_CFG v)
  else
    let s := s.wr R.HIF_AQ_CFG v
    let x : Qp := { Qp.reset with st := 1, ringsp := v.getLsbD 8, sqlog := wget v 0 4, cqlog := wget v 4 4,
                                  sqbase := s.rd64 R.HIF_AQ_SQBASE_LO, cqbase := s.rd64 R.HIF_AQ_CQBASE_LO }
    .next (openQp 0 x s)

/-- ADMIN_QUEUE_ENABLE: a write of HIF_AQ_CFG that sets EN. -/
def execAdminQueueEnable (a : Agent) (v : Word) (s : State) : Out :=
  if !v.getLsbD 31 || s.flag R.HIF_AQ_CFG_EN then stay s else access a R.HIF_AQ_CFG v (aqCfgWrite v) s

/-- ADMIN_QUEUE_DISABLE: a write of HIF_AQ_CFG that clears EN. -/
def execAdminQueueDisable (a : Agent) (v : Word) (s : State) : Out :=
  if v.getLsbD 31 || !s.flag R.HIF_AQ_CFG_EN then stay s else access a R.HIF_AQ_CFG v (aqCfgWrite v) s

/-! Function-level reset, link, Bus Master Enable (R581, R583, R584, R623). -/

/-- The SENDs of a queue pair give their buffers back. -/
def discardQp (s : State) (q : Nat) : State := (s.qp q).out.foldl (dropSend (s.qp q)) s

/-- A function-level reset, a hot reset or a loss of link; HIF_PKM_FREE keeps what R590 gives it (assumption 74). Held _LO values and
captured _HI words of HIF's pairs stay (assumption 148). -/
def functionReset (linkUp : Bool) (s : State) : State :=
  let s := (s.hif.qps.map fun (e : Nat × Qp) => e.1).foldl discardQp s
  let stat := s.rd R.HIF_STAT
  let fmt := s.rd R.HIF_HALT_FMT
  let idx := s.rd R.HIF_HALT_IDX
  let pkm := s.rd R.HIF_PKM_FREE
  let s := { (s.resetRegs 0xD0000 0x10000) with hif := { Hif.reset with mem := s.hif.mem }, evt.pba := [] }
  let s := ((s.wr R.HIF_HALT_FMT fmt).wr R.HIF_HALT_IDX idx).wr R.HIF_PKM_FREE pkm
  let s := (s.wr R.HIF_STAT stat).set R.HIF_STAT_BME 0
  if linkUp then s else ((s.set R.HIF_STAT_LINKUP 0).set R.HIF_STAT_SPEED 0).set R.HIF_STAT_WIDTH 0

/-- FUNCTION_LEVEL_RESET: an FLR leaves the link up; a hot reset, PERST or a loss of link does not. -/
def execFunctionLevelReset (linkUp : Bool) (s : State) : Out :=
  if !s.up islHIF || !s.hostPcie || !s.flag R.HIF_STAT_LINKUP then stay s else .next (functionReset linkUp s)

/-- BUS_MASTER_CHANGE: Bus Master Enable and D3hot as configuration writes leave them. -/
def execBusMasterChange (bme d3hot : Bool) (s : State) : Out :=
  if !s.up islHIF || !s.hostPcie || !s.flag R.HIF_STAT_LINKUP then stay s
  else
    let s := { (s.set R.HIF_STAT_BME (b2n bme)) with hif.bme := bme, hif.d3hot := d3hot }
    .next (msixFlush (dmaResume s))

/-- PCIE_LINK_UP: the link trains at a speed (1 2.5, 2 5, 3 8 GT/s) and width (1 ×1, 2 ×2). -/
def execPcieLinkUp (speed width : Nat) (s : State) : Out :=
  if !s.up islHIF || !s.hostPcie || !s.flag R.CLK_STAT_HIFPLL_LOCK || !(decide (1 ≤ speed ∧ speed ≤ 3) && decide (1 ≤ width ∧ width ≤ 2)) then
    stay s
  else .next (((s.set R.HIF_STAT_LINKUP 1).set R.HIF_STAT_SPEED speed).set R.HIF_STAT_WIDTH width)

/-! Host flash commands (R626, R628). -/

/-- A load, a NET reload or a patch reads the flash. -/
def flashBusy (s : State) : Bool :=
  (decide (s.sys.load ≠ .idle) && !s.sys.loadPush) || (s.sys.netLoad && !s.sys.netPush) ||
    (decide (s.vnr.patch = .staging) && !s.vnr.patchPush)

/-- A write of HIF_XSPI_CTL: reserved encodings are the outcome of 00_scope.md R26; GO acts from the host, one command at a
time (assumption 75). -/
def xspiCtlWrite (a : Agent) (v : Word) (s : State) : Out :=
  if v &&& 0x7C000000#32 ≠ 0 || decide (wget v 9 2 = 3) || decide (wget v 16 9 > 256) then
    .next (unpredBlock R.HIF_XSPI_CTL s)
  else
    let s := s.wr R.HIF_XSPI_CTL (v &&& 0x03FFFFFF#32)
    if !v.getLsbD 31 || !isHost a || s.flag R.HIF_XSPI_STAT_BUSY then .next s
    else if flashBusy s then .next (s.set R.HIF_XSPI_STAT_REFUSED 1)
    else .next (s.set R.HIF_XSPI_STAT_BUSY 1)

/-- XSPI_GO. -/
def execXspiGo (a : Agent) (v : Word) (s : State) : Out :=
  if !v.getLsbD 31 then stay s else access a R.HIF_XSPI_CTL v (xspiCtlWrite a v) s

/-- The command buffer's bytes. -/
def xspiBuf (s : State) (n : Nat) : List Byte :=
  ((List.range 64).flatMap fun w => leBytes 4 (s.rd (R.HIF_XSPI_BUF w)).toNat).take n

/-- Puts bytes at the start of the command buffer. -/
def xspiFill (bs : List Byte) (s : State) : State :=
  let all := bs ++ (xspiBuf s 256).drop bs.length
  (List.range 64).foldl (fun s w => s.wr (R.HIF_XSPI_BUF w) (BitVec.ofNat 32 (leNat (sliceOf all (4 * w) 4)))) s

/-- XSPI_CMD_DONE: `data` is what a read brings; a write has sent the buffer to the flash. -/
def execXspiCmdDone (data : List Byte) (s : State) : Out :=
  let ctl := s.rd R.HIF_XSPI_CTL
  let n := wget ctl 16 9
  if !s.flag R.HIF_XSPI_STAT_BUSY then stay s
  else
    let s := s.set R.HIF_XSPI_STAT_BUSY 0
    if ctl.getLsbD 25 then .next (s.emit (.xspi ctl (s.rd R.HIF_XSPI_ADDR) (xspiBuf s n)))
    else .next (xspiFill (data.take n) (s.emit (.xspi ctl (s.rd R.HIF_XSPI_ADDR) [])))

/-! AtomicOp (R582). -/

/-- ATOMIC_OP: `add32`: a 32-bit FetchAdd; `bar0`: to BAR0. -/
def execAtomicOp (add32 bar0 : Bool) (off : Nat) (v : Word) (s : State) : Out :=
  let k := (off - R.LCK_CTR 0) / 4
  if !s.up islHIF || !s.hostPcie || !s.flag R.HIF_STAT_LINKUP || s.hif.d3hot || !s.bar0 then stay s
  else if !add32 || !bar0 || decide (off < R.LCK_CTR 0) || decide (k ≥ 128) || decide (off % 4 ≠ 0) then .next (s.bump R.HIF_CNT_UR)
  else
    .next (addLoad .host k v s)

end Sys2Proof.Machine
end

