-- ==== Sys2Proof/Machine/Clk.lean ====
section
/-!
DEFINITION. The weft's links, island oscillators, REFCLK and the PLLs, and device time (03_islands_and_weft.md R92 to R109,
R939).
-/
namespace Sys2Proof.Machine

/-! Links (R87, R92 to R95). -/

/-- The link that leaves router site n in a direction (0 east, 1 west, 2 north, 3 south), and the site beyond it (R113). -/
def linkFrom (n d : Nat) : Option (Nat × Nat) :=
  let row := n / 10
  let col := n % 10
  match d with
  | 0 => if col < 9 then some (9 * row + col, n + 1) else none
  | 1 => if col > 0 then some (9 * row + col - 1, n - 1) else none
  | 2 => if row > 0 then some (72 + 10 * (row - 1) + col, n - 10) else none
  | _ => if row < 7 then some (72 + 10 * row + col, n + 10) else none

/-- A link that is not retired. -/
def linkLives (s : State) (k : Nat) : Bool := decide (s.get (R.CLK_LINK_STATE k) ≠ 2)

/-- The odd-even turn rule: at even columns nothing turns from east to north or south, at odd columns nothing turns from north
or south to west, and nothing reverses (assumption 77). -/
def turnOk (n was d : Nat) : Bool :=
  if was = d then true
  else if was < 2 ∧ d < 2 ∨ was ≥ 2 ∧ d ≥ 2 then false
  else if was = 0 then decide (n % 2 = 1)
  else if d = 1 then decide (n % 2 = 0)
  else true

/-- Hops that extend a set of (site, direction of arrival), coded 4 * site + direction. -/
def hopsOn (s : State) (seen : List Nat) : List Nat :=
  seen.flatMap fun x => (List.range 4).filterMap fun d =>
    match linkFrom (x / 4) d with
    | some (k, m) => if linkLives s k && turnOk (x / 4) (x % 4) d then some (4 * m + d) else none
    | none => none

/-- Sites and directions reached within a number of hops. -/
def reachBy (s : State) : Nat → List Nat → List Nat
  | 0, seen => seen
  | n + 1, seen => reachBy s n (seen ++ (hopsOn s seen).eraseDups.filter fun x => !seen.contains x)

/-- The sites that a turn-legal detour reaches from a site. -/
def detours (s : State) (a : Nat) : List Nat := (reachBy s 80 ((List.range 4).map fun d => 4 * a + d)).map (· / 4)

/-- The dimension-order route from a site is whole: along the row, then along the column. -/
def straight (s : State) : Nat → Nat → Nat → Bool
  | 0, a, b => decide (a = b)
  | n + 1, a, b =>
    if a = b then true
    else
      let d := if a % 10 < b % 10 then 0 else if a % 10 > b % 10 then 1 else if a > b then 2 else 3
      match linkFrom a d with
      | some (k, m) => linkLives s k && straight s n m b
      | none => false

/-- The islands that have no path from island a. -/
def cutOff (s : State) (a : Nat) : List Nat :=
  let ds := detours s a
  (List.range 77).filter fun b => !(ds.contains b || straight s 20 a b)

/-! Stopped oscillators (R96, R97; 07_marquetry_fabric.md R277, R278, R281; 19_power_stage_protection.md R728; 22_ply_pair.md R792,
R794). -/

/-- What the device does for a stopped island. -/
def stopActs (i : Nat) (s : State) : State :=
  if i = 0 then { s with clk.aoWatchdog := true }
  else if i < 2 ∨ i = islAUD ∨ i = islPWS then plyStop (disableOsc s)
  else if i < 50 then retireCore (i - 2) s
  else if 64 ≤ i ∧ i < 72 then
    let p := i - 64
    let s := stallBegin p (clampPanel p s)
    let s := s.setPanel p { s.panel p with stopped := true }
    let s := { s with vnr.rewriting := mput (fun _ => false) s.vnr.rewriting p false }
    if patchOn s p then setPanelState p 3 (patchAbort s) else s
  else s

/-- An island is treated as stopped from now on, its power on or off: STOP clears only at device reset (R95, R113, R939). -/
def oscStop (i : Nat) (s : State) : State :=
  if i ≥ 77 || s.flag (R.CLK_ISL_STOP i) then s
  else istCheck (stopActs i (cause R.CLK_NSTAT_OSC_STOP 4 (s.set (R.CLK_ISL_STOP i) 1)))

/-- An island that has power has lost its oscillator. -/
def oscLost (i : Nat) (s : State) : State := if s.flag (R.CLK_ISL_ON i) then oscStop i s else s

/-- OSC_STOP. -/
def execOscStop (i : Nat) (s : State) : Out := if s.sys.resetting then stay s else .next (oscLost i s)

/-- Nothing of a link's two channels is in flight, and no loop test of it is due: its flits have taken a detour (R88). -/
def linkEmpty (k : Nat) (s : State) : State :=
  let wipe (m : SMap Nat) : SMap Nat := m.filter fun e => decide (e.1 / 4 ≠ k)
  { s with clk.credits := wipe s.clk.credits, clk.flitWait := wipe s.clk.flitWait
           clk.flitFails := s.clk.flitFails.filter fun e => decide (e.1 / 2 ≠ k)
           clk.loopLeft := mput (fun _ => 0) s.clk.loopLeft k 0 }

/-- A link is retired: N39, and what it cuts off is treated as stopped (R94, R95). -/
def retireLink (k : Nat) (s : State) : State :=
  let s := linkEmpty k (s.set (R.CLK_LINK_STATE k) 2)
  let s := s.set R.CLK_WEFT_STAT_RETIRED (s.get R.CLK_WEFT_STAT_RETIRED + 1)
  let s := istCheck (cause R.IST_NSTAT_LINK 39 s)
  if (List.range 77).any fun a => decide (cutOff s a ≠ []) then
    let s := cause R.IST_NSTAT_LINK 39 (s.set R.CLK_WEFT_STAT_PARTITION 1)
    (cutOff s 0).foldl (fun s i => oscStop i s) s
  else s

/-- A replay is asked for on a link. -/
def replay (k : Nat) (s : State) : State :=
  (s.bump R.CLK_WEFT_RETRY).set (R.CLK_LINK_RETRIES k) (satAdd 255 (s.get (R.CLK_LINK_RETRIES k)) 1)

/-- Credits of a class that a channel's sender has spent, and flits of it that the sender holds for want of one (R84). -/
def creditsUsed (s : State) (x : Nat) : Nat := mget (fun _ => 0) s.clk.credits x

def setCredits (x n : Nat) (s : State) : State := { s with clk.credits := mput (fun _ => 0) s.clk.credits x n }

def flitsHeld (s : State) (x : Nat) : Nat := mget (fun _ => 0) s.clk.flitWait x

def setFlitsHeld (x n : Nat) (s : State) : State := { s with clk.flitWait := mput (fun _ => 0) s.clk.flitWait x n }

/-- The sender puts a flit on the channel: the one that waits longest, if one does, with a credit of its class (R84; 02_guarantees.md R62,
R74). -/
def flitSend (x : Nat) (s : State) : State := setFlitsHeld x (flitsHeld s x - 1) (setCredits x (creditsUsed s x + 1) s)

/-- An attempt of the flit on channel c of link k, as its receiver finds it (R92, R93): four in a row that fail make the link SUSPECT, and
both of its channels are loop-tested. -/
def flitAttempt (k c : Nat) (err : FlitError) (s : State) : State :=
  let fails (n : Nat) (s : State) : State := { s with clk.flitFails := mput (fun _ => 0) s.clk.flitFails c n }
  match err with
  | .none => fails 0 s
  | .single => fails 0 (s.bump R.CLK_WEFT_CORR)
  | .double =>
    let n := mget (fun _ => 0) s.clk.flitFails c + 1
    let s := replay k s
    if n < 4 then fails n s
    else
      let s := linkEmpty k (istCheck (s.set (R.CLK_LINK_STATE k) 1))
      { s with clk.loopLeft := mput (fun _ => 0) s.clk.loopLeft k 3 }

/-- WEFT_FLIT_RECEIVE: an attempt of a flit of one class on one direction of link k, once the receiver has returned some credits of that
class. A flit that no credit is left for stays with its sender; a replay goes on the credit of its first attempt (R84, R92, R93). -/
def execWeftFlitReceive (k : Nat) (back : Bool) (err : FlitError) (s : State) (resp : Bool := false) (returned : Nat := 0) : Out :=
  let c := 2 * k + b2n back
  let x := 2 * c + b2n resp
  if s.sys.resetting || decide (k ≥ 142) || decide (s.get (R.CLK_LINK_STATE k) ≠ 0) then stay s
  else
    let s := setCredits x (creditsUsed s x - returned) s
    if mget (fun _ => 0) s.clk.flitFails c ≠ 0 then .next (flitAttempt k c err s)
    else if creditsUsed s x ≥ 4 then .next (setFlitsHeld x (flitsHeld s x + 1) s)
    else .next (flitAttempt k c err (flitSend x s))

/-- A channel's loop test passes. A SUSPECT link is OK once both of its channels have passed (assumption 153). -/
def loopPassed (k : Nat) (back : Bool) (s : State) : State :=
  let m := mget (fun _ => 0) s.clk.loopLeft k
  let left := if bitOf m (b2n back) then m - 2 ^ b2n back else m
  let s := { s with clk.loopLeft := mput (fun _ => 0) s.clk.loopLeft k left }
  if left = 0 then s.set (R.CLK_LINK_STATE k) 0 else s

/-- LINK_LOOP_TEST_DONE: the loop test of one direction of link k has ended: the test of a SUSPECT link, or one of IST's
(R93, R94; 23_in_service_test.md R836). A SUSPECT link is OK again once the tests of both its directions have passed (assumption
153). -/
def execLinkLoopTestDone (k : Nat) (back pass : Bool) (s : State) : Out :=
  let st := s.get (R.CLK_LINK_STATE k)
  let ist := istRuns s && (bitOf (s.get R.IST_CTL_EN) 4 || (istHead s 3 k).isSome)
  if s.sys.resetting || decide (k ≥ 142) || decide (st = 2) || (decide (st = 0) && !ist) then stay s
  else
    let s := if ist then loopEnd k back (!pass) s else s
    .next (if pass then loopPassed k back s else retireLink k s)

/-! The time source (R109). -/

/-- CLK_TSTAT.STATE changes: N04. -/
def timeState (v : Nat) (s : State) : State :=
  if s.get R.CLK_TSTAT_STATE = v then s else cause R.CLK_NSTAT_TSTATE 4 (s.set R.CLK_TSTAT_STATE v)

/-- A discipline write. -/
def disciplined (s : State) : State :=
  let s := { s with clk.disc := .within }
  if s.get R.CLK_TSTAT_STATE = 3 then s else timeState 1 s

/-- HOLDOVER_TIMEOUT: CLK_HOLD_TO has passed since the last discipline write. -/
def execHoldoverTimeout (s : State) : Out :=
  if s.sys.resetting || decide (s.clk.disc ≠ .within) then stay s
  else
    let s := { s with clk.disc := .expired }
    .next (if s.get R.CLK_TSTAT_STATE = 1 then timeState 2 s else s)

/-! REFCLK and the PLLs (R98 to R100, R939). PLLs: 0 AUD/PWS, 1 port serdes, 2 HIF, 3 Ply serdes. -/

/-- A PLL's lock bit. -/
def pllLock : Nat → Fld
  | 0 => R.CLK_STAT_AUDPLL_LOCK
  | 1 => R.CLK_STAT_PRTPLL_LOCK
  | 2 => R.CLK_STAT_HIFPLL_LOCK
  | _ => R.CLK_STAT_PLYPLL_LOCK

/-- The AUD/PWS PLL is out of lock: AUD stops, its calibration windows end, and the strand stops PLY_ALIVE. -/
def audioStops (s : State) : State := plyStop (if audRuns s then calPllLost (audHaltPll s) else s)

/-- AO declares REFCLK lost. -/
def refclkLost (s : State) : State :=
  let s := (List.range 4).foldl (fun s k => s.set (pllLock k) 0) (s.set R.CLK_STAT_REFCLK_OK 0)
  let s := timeState 3 (cause R.CLK_NSTAT_REFCLK_LOSS 4 s)
  netClock (loadClock (audioStops (disableRef s)))

/-- REFCLK_LOSS. -/
def execRefclkLoss (s : State) : Out :=
  if s.sys.resetting || !s.flag R.CLK_STAT_REFCLK_OK then stay s else .next (refclkLost s)

/-- REFCLK_PRESENT. -/
def execRefclkPresent (s : State) : Out :=
  if s.sys.resetting || s.flag R.CLK_STAT_REFCLK_OK || !bitOf (s.rd R.SUP_RAIL).toNat 5 then stay s
  else
    let s := { s.set R.CLK_STAT_REFCLK_OK 1 with clk.refSeen := true }
    .next (safeResume (timeState (match s.clk.disc with | .never => 0 | .within => 1 | .expired => 2) s))

/-- The islands of a PLL other than the AUD/PWS PLL stall while it relocks (R939). -/
def pllStall (k : Nat) (on : Bool) (s : State) : State :=
  if k = 0 then s else { s with clk.stall := if bitOf s.clk.stall k = on then s.clk.stall else if on then s.clk.stall + 2 ^ k else s.clk.stall - 2 ^ k }

/-- PLL_LOCK, but for the accesses that it lets go on (Machine/HostPort.lean). -/
def pllLockAct (k : Nat) (s : State) : Out :=
  if s.sys.resetting || decide (k ≥ 4) || !s.flag R.CLK_STAT_REFCLK_OK || s.flag (pllLock k)
      || (decide (k = 3) && !s.isStrand) || (decide (k = 0) && audPllOff s) then stay s
  else .next (loadRestart (pllStall k false (s.set (pllLock k) 1)))

/-- PLL_UNLOCK. -/
def execPllUnlock (k : Nat) (s : State) : Out :=
  if s.sys.resetting || decide (k ≥ 4) || !s.flag R.CLK_STAT_REFCLK_OK || !s.flag (pllLock k) then stay s
  else
    let s := cause R.CLK_NSTAT_PLL_UNLOCK 4 (s.set (pllLock k) 0)
    .next (if k = 0 then audioStops (disablePll s) else pllStall k true s)

/-- The islands that a PLL clocks (R75; 06_veneer_image.md R197). -/
def pllIslands (s : State) : Nat → List Nat
  | 0 => [islSAFE, islAUD, islPWS] ++ ((List.range 8).filter fun p => decide (s.vnr.full ≠ []) && panelPll s.vnr.full p).map islMQY
  | 1 => [islPRT]
  | 2 => [islHIF]
  | _ => [islPLY]

/-- PLL_RELOCK_TIMEOUT: 200 µs have passed since the PLL lost lock or REFCLK returned: its islands do not stall, they have
stopped. The accesses that this lets go on follow (Machine/HostPort.lean). -/
def pllRelockTimeoutAct (k : Nat) (s : State) : Out :=
  if s.sys.resetting || decide (k ≥ 4) || !s.flag R.CLK_STAT_REFCLK_OK || s.flag (pllLock k) || (decide (k = 0) && audPllOff s) then stay s
  else .next ((pllIslands s k).foldl (fun s i => oscStop i s) (pllStall k false s))

/-- REFCLK_FREQ_ERROR. -/
def execRefclkFreqError (s : State) : Out :=
  if s.sys.resetting || !s.flag R.CLK_STAT_REFCLK_OK then stay s else .next (cause R.CLK_NSTAT_REFCLK_FREQ 4 s)

/-! Slow islands (R80, R113). -/

def slowThr (s : State) : Nat := max 400 (s.get R.CLK_SLOW_THR_MHZ)

/-- SLOW_THRESHOLD_CROSS: the frequency of core n's island has fallen to some MHz. -/
def execSlowThresholdCross (n mhz : Nat) (s : State) : Out :=
  if decide (n ≥ 48) || !s.up (islWHL n) || decide (mhz ≥ slowThr s) then stay s
  else .next (cause R.CLK_NSTAT_SLOW 4 (s.set (R.CLK_ISL_SLOW (islWHL n)) 1))

/-- SLOW_CLEAR: it has been at or above the threshold for 1 ms. -/
def execSlowClear (n : Nat) (s : State) : Out :=
  if decide (n ≥ 48) || !s.up (islWHL n) then stay s else .next (s.set (R.CLK_ISL_SLOW (islWHL n)) 0)

/-! Device time (R101, R103 to R108). -/

/-- The rate in force: a written value beyond ±200 ppm counts as the nearer limit (R104). -/
def timeRate (s : State) : Int := max (-858993) (min 858993 (sgn 32 (s.rd R.CLK_TRATE).toNat))

/-- What 1 µs of REFCLK advances device time by, in 2^-32 ns, without the slew. -/
def timeStep1 (s : State) : Int := 1000 * (2 ^ 32 + timeRate s)

/-- The part of the slew that is applied in that µs: 1,000 ppm of what passes, up to what remains (R105). -/
def slewStep (s : State) : Int :=
  let d := 2 ^ 32 + timeRate s
  max (-d) (min d s.clk.slewFx)

/-- The calibrated rate of an island's copy: the ns it advances in 1 µs; nominal before any broadcast. -/
def islandRate (s : State) (i : Nat) : Nat := mget (fun _ => 1000) s.clk.rate i

/-- An island's TNOW up to the next broadcast and at it: its copy runs on at its calibrated rate, at half of it while ahead; the
broadcast never steps it back (R101). -/
def islandTime (s : State) (now : Nat) (missed : Bool) (i : Nat) : Int :=
  let a := mget (fun _ => 0) s.clk.ahead i
  let t : Int := (s.clk.bcast : Int) + a + ((if a > 0 then islandRate s i / 2 else islandRate s i) : Nat)
  (if missed then t else max t now) - now

/-- TIME_BROADCAST: 1 µs of the time base has passed; the islands in `missed` do not receive the message and keep the rate they last
calibrated (R103). A forward step between two broadcasts is no part of the rate that the islands calibrate from them (assumption 154). -/
def execTimeBroadcast (missed : List Nat) (s : State) : Out :=
  if s.sys.resetting then stay s
  else
    let adv := timeStep1 s + slewStep s
    let fx := ((s.clk.timeFx : Int) + adv).toNat
    let now := fx / 2 ^ 32
    let ahead := (List.range 77).foldl (fun m i => mput (fun _ => 0) m i (islandTime s now (missed.contains i) i)) []
    let rate := (List.range 77).foldl (fun m i => if missed.contains i then m else mput (fun _ => 1000) m i (adv / 2 ^ 32).toNat) s.clk.rate
    let jump := (islandTime s now (missed.contains islPRT) islPRT - islandTime s now true islPRT).toNat
    let s := { s with clk.slewFx := s.clk.slewFx - slewStep s, clk.timeFx := fx, clk.bcast := now, clk.rate := rate, clk.ahead := ahead }
    let s := if jump ≤ 1 || !s.up islPRT then s else prtStepped jump s
    .next ((List.range 77).foldl (fun s i => if missed.contains i then s else s.set (R.CLK_ISL_TLOST i) 0) s)

/-- TIME_MESSAGE_TIMEOUT: island i has received no message for 3 µs (R103). -/
def execTimeMessageTimeout (i : Nat) (s : State) : Out :=
  if decide (i ≥ 77) || !s.up i then stay s else .next (s.set (R.CLK_ISL_TLOST i) 1)

/-- A write of CLK_TRATE. -/
def rateWrite (v : Word) (s : State) : State := disciplined (s.wr R.CLK_TRATE (inForce R.CLK_TRATE v))

def execTimeRateWrite (a : Agent) (v : Word) (s : State) : Out := access a R.CLK_TRATE v (fun s => .next (rateWrite v s)) s

/-- A write of CLK_TSLEW: the remainder is replaced, within ±1,000,000 ns (R105). -/
def slewWrite (v : Word) (s : State) : State :=
  disciplined { s with clk.slewFx := max (-1000000) (min 1000000 (sgn 32 v.toNat)) * 2 ^ 32 }

/-- A read of CLK_TSLEW: what remains, truncated toward zero. -/
def slewRead (s : State) : Word := BitVec.ofInt 32 (s.clk.slewFx.tdiv (2 ^ 32))

def execTimeSlewWrite (a : Agent) (v : Word) (s : State) : Out := access a R.CLK_TSLEW v (fun s => .next (slewWrite v s)) s

/-- A forward step (R106). -/
def timeStep (lo hi : Word) (s : State) : State :=
  let n := lo.toNat + 2 ^ 32 * hi.toNat
  let s := (s.wr R.CLK_TSTEP_LO lo).wr R.CLK_TSTEP_HI hi
  if n = 0 then s
  else disciplined (cause R.CLK_NSTAT_TSTEP 4 { s with clk.timeFx := s.clk.timeFx + n * 2 ^ 32 })

/-- A write of CLK_TSTEP_HI with the low word that the agent holds (R106). -/
def stepWrite (a : Agent) (hi : Word) (s : State) : State :=
  pairWrite a R.CLK_TSTEP_LO (s.rd R.CLK_TSTEP_LO) (fun lo => timeStep lo hi) s

def execTimeStep (a : Agent) (hi : Word) (s : State) : Out := access a R.CLK_TSTEP_HI hi (fun s => .next (stepWrite a hi s)) s

end Sys2Proof.Machine
end

