-- ==== Sys2Proof/Machine/Dgn.lean ====
section
/-!
DEFINITION. Diagnostics and service access: the CAN FD controllers, fault snapshots, lifecycle and fuses, the service unlock, and
the test access port but for its debug accesses (25_diagnostics_service.md R871 to R897).
-/
namespace Sys2Proof.Machine

/-! The CAN FD controllers (R871 to R880). -/

def State.can (s : State) (n : Nat) : CanPort := mget (fun _ => CanPort.reset) s.dgn.can n

def State.setCan (s : State) (n : Nat) (x : CanPort) : State :=
  { s with dgn.can := mput (fun _ => CanPort.reset) s.dgn.can n x }

/-- A controller runs: from Stage 1 on; in STANDBY port 0 alone (R880). -/
def canRuns (s : State) (n : Nat) : Bool :=
  decide (n < 2) && s.up islSAFE && decide (s.stage ≥ 1) && (decide (n = 0) || decide (s.pstate ≠ 5)) && s.flag (R.CAN_CTL_EN n)

/-- Agents whose writes act on the CAN registers (R879). -/
def canActs : Agent → Bool
  | .panel _ _ => false
  | _ => true

/-- One of the per-port pairs of DGN_NSTAT. -/
def canCause (lo src n : Nat) (s : State) : State := cause ⟨R.DGN_NSTAT, lo + n, 1⟩ src s

/-- Bytes that a data length code stands for (R876). -/
def dlcBytes (f : CanFrame) : Nat :=
  if f.rtr then 0
  else if f.dlc ≤ 8 ∨ !f.fdf then min 8 f.dlc
  else [12, 16, 20, 24, 32, 48, 64].getD (f.dlc - 9) 64

/-- A frame's data bytes, past the DLC length 0. -/
def canData (f : CanFrame) : List Byte := (f.data ++ List.replicate 64 0).take (dlcBytes f)

/-- Words 0 to 17 of a frame. -/
def canWords (f : CanFrame) : List Word :=
  let d := canData f ++ List.replicate 64 0
  [BitVec.ofNat 32 (f.id % 2 ^ 29 + b2n f.ide * 2 ^ 29 + b2n f.rtr * 2 ^ 30),
   BitVec.ofNat 32 (f.dlc % 16 + b2n f.fdf * 16 + b2n f.brs * 32 + b2n f.esi * 64)]
    ++ (List.range 16).map fun i => BitVec.ofNat 32 (leNat (sliceOf d (4 * i) 4))

/-- The lowest enabled filter that matches (R876). -/
def canFilter (s : State) (n : Nat) (f : CanFrame) : Option Nat :=
  (List.range 32).find? fun k =>
    s.flag (R.CAN_FLT_ID_EN n k) && decide (f.ide = s.flag (R.CAN_FLT_ID_IDE n k)) &&
      decide (f.id &&& s.get (R.CAN_FLT_MASK_MASK n k) = s.get (R.CAN_FLT_ID_ID n k) &&& s.get (R.CAN_FLT_MASK_MASK n k))

/-- Shows the FIFO's fill. -/
def canShow (n : Nat) (s : State) : State := s.set (R.CAN_RXCNT_COUNT n) (s.can n).rx.length

/-- A matching frame enters the receive FIFO, with the time of its start of frame. -/
def canStore (n k t : Nat) (f : CanFrame) (s : State) : State :=
  let x := s.can n
  if x.rx.length ≥ 64 then canCause 8 85 n (s.bump (R.CAN_CNT_RXLOST n))
  else
    let w := canWords f
    let e := w.set 1 (w.getD 1 0 ||| BitVec.ofNat 32 (k * 2 ^ 16 + 2 ^ 31))
    let s := canShow n (s.setCan n { x with rx := x.rx ++ [e ++ [BitVec.ofNat 32 t, BitVec.ofNat 32 (t / 2 ^ 32)]] })
    if x.rx = [] then canCause 4 85 n s else s

/-- Error active or passive, by the counters (R877, ISO 11898-1). -/
def canLevel (n : Nat) (s : State) : State :=
  if s.get (R.CAN_STAT_STATE n) ≥ 2 then s
  else s.set (R.CAN_STAT_STATE n) (b2n (decide (s.get (R.CAN_STAT_TEC n) > 127) || decide (s.get (R.CAN_STAT_REC n) > 127)))

/-- Bus-off (R877). -/
def busOff (n : Nat) (s : State) : State :=
  if s.get (R.CAN_STAT_STATE n) = 2 then s
  else
    let s := s.setCan n { s.can n with recovering := s.flag (R.CAN_CTL_AUTOREC n) }
    canCause 0 84 n (s.set (R.CAN_STAT_STATE n) 2)

/-- The receive error counter after a frame: one more after an error; after a success one less, or within 119 to 127 if it stood
above 127 (ISO 11898-1; assumption 81). -/
def canRec (n : Nat) (ok : Bool) (s : State) : State :=
  let r := s.get (R.CAN_STAT_REC n)
  if !ok then canLevel n (s.set (R.CAN_STAT_REC n) (satAdd 255 r 1))
  else if r > 127 then
    let (v, s) := s.draw 21
    canLevel n (s.set (R.CAN_STAT_REC n) (119 + v % 9))
  else s.set (R.CAN_STAT_REC n) (r - 1)

/-- What SAFE does with a frame on port 0: a wake frame, and a command frame (R874; 18_audio_path.md R691). -/
def safeOffer (f : CanFrame) (s : State) : State :=
  let s := if decide (s.pstate = 5) && wakeMatch s f.id f.ide then s.set R.SYS_WAKE_CAN 1 else s
  if !f.rtr && decide (f.ide = bitOf (cfgByte s 1) 0) && decide (f.id = cfg32 s 2) then safeTake (canData f) s else s

/-- CAN_FRAME_RECEIVE: a frame on port n, whose start of frame lay some ns back; `ok`: without error. With FD operation off an
FD frame is a protocol exception (R871). -/
def execCanFrameReceive (n : Nat) (f : CanFrame) (ago : Nat) (ok : Bool) (s : State) : Out :=
  if !canRuns s n || (f.fdf && !s.flag (R.CAN_CTL_FDOE n)) then stay s
  else if !ok then .next (canRec n false s)
  else
    let s := if n = 0 then safeOffer f s else s
    let s := canRec n true s
    .next (match canFilter s n f with
      | some k => canStore n k (s.tnow islSAFE - ago) f s
      | none => s)

/-- A write of CAN_TXREQ (R875, R880). -/
def txReq (a : Agent) (n : Nat) (v : Word) (s : State) : State :=
  if !canActs a || s.follower then s else s.set (R.CAN_TXPEND_BUF n) (s.get (R.CAN_TXPEND_BUF n) ||| wget v 0 16)

def execCanTxRequest (a : Agent) (n : Nat) (v : Word) (s : State) : Out :=
  if n ≥ 2 then stay s else access a (R.CAN_TXREQ n) v (fun s => .next (txReq a n v s)) s

/-- A write of CAN_TXABORT; `sent` is the buffer whose frame has started, 16 for none. -/
def txAbort (a : Agent) (n : Nat) (v : Word) (sent : Nat) (s : State) : State :=
  if !canActs a then s
  else
    let m := wget v 0 16 &&& s.get (R.CAN_TXPEND_BUF n)
    let live := if sent < 16 then m &&& 2 ^ sent else 0
    let s := s.setCan n { s.can n with aborts := (s.can n).aborts ||| live }
    s.set (R.CAN_TXPEND_BUF n) (s.get (R.CAN_TXPEND_BUF n) ^^^ (m ^^^ live))

def execCanTxAbort (a : Agent) (n : Nat) (v : Word) (sent : Nat) (s : State) : Out :=
  if n ≥ 2 then stay s else access a (R.CAN_TXABORT n) v (fun s => .next (txAbort a n v sent s)) s

/-- The order in which arbitration prefers frames: a buffer's arbitration field as it goes over the bus, lowest first. -/
def arbKey (s : State) (n b : Nat) : Nat :=
  let w := s.rd (R.CAN_TXBUF n b 0)
  let id := wget w 0 29
  let fdf := (s.rd (R.CAN_TXBUF n b 1)).getLsbD 4
  let rtr := b2n (w.getLsbD 30 && !fdf)
  if w.getLsbD 29 then id / 2 ^ 18 * 2 ^ 21 + 3 * 2 ^ 19 + id % 2 ^ 18 * 2 + rtr
  else id % 2 ^ 11 * 2 ^ 21 + rtr * 2 ^ 20

/-- The buffer that is sent first among some. -/
def txFirst (s : State) (n : Nat) (mask : Nat) : Option Nat :=
  ((List.range 16).filter (bitOf mask)).foldl (fun best b =>
    match best with
    | none => some b
    | some c => if arbKey s n b < arbKey s n c then some b else some c) none

/-- The words of a transmit buffer. -/
def txWords (s : State) (n b : Nat) : List Word := (List.range 18).map fun w => s.rd (R.CAN_TXBUF n b w)

/-- A failed attempt: an abort that waits for it takes effect. -/
def txFailed (n b : Nat) (s : State) : State :=
  if !bitOf (s.can n).aborts b then s
  else (s.setCan n { s.can n with aborts := (s.can n).aborts ^^^ 2 ^ b }).set (R.CAN_TXPEND_BUF n) (s.get (R.CAN_TXPEND_BUF n) ^^^ 2 ^ b)

/-- A sent frame. -/
def txSent (n b : Nat) (s : State) : State :=
  let s := (s.emit (.can n (txWords s n b))).set (R.CAN_TXPEND_BUF n) (s.get (R.CAN_TXPEND_BUF n) ^^^ 2 ^ b)
  let x := s.can n
  let s := s.setCan n { x with aborts := if bitOf x.aborts b then x.aborts ^^^ 2 ^ b else x.aborts }
  let s := canLevel n (s.set (R.CAN_STAT_TEC n) (s.get (R.CAN_STAT_TEC n) - 1))
  canCause 6 85 n (s.set (R.CAN_TXDONE_BUF n) (s.get (R.CAN_TXDONE_BUF n) ||| 2 ^ b))

/-- An error during transmission: eight more; above 255 bus-off (R877, ISO 11898-1). -/
def txError (n b : Nat) (s : State) : State :=
  let t := s.get (R.CAN_STAT_TEC n) + 8
  let s := txFailed n b (s.set (R.CAN_STAT_TEC n) (min 255 t))
  if t > 255 then busOff n s else canLevel n s

/-- CAN_TX_DONE: the attempt of the buffer that goes first has ended; buffers in `late` were requested after it began. -/
def execCanTxDone (n late : Nat) (res : CanEnd) (s : State) : Out :=
  let p := s.get (R.CAN_TXPEND_BUF n)
  if !canRuns s n || s.follower || decide (s.get (R.CAN_STAT_STATE n) ≥ 2) || (decide (n = 1) && s.flag (R.CAN_CTL_MON 1)) then stay s
  else
    match txFirst s n (p ^^^ (p &&& late)) with
    | none => stay s
    | some b =>
      .next (match res with
        | .ok => txSent n b s
        | .lost => txFailed n b s
        | .error => txError n b s)

/-- A write of CAN_RXPOP. -/
def rxPop (a : Agent) (n : Nat) (s : State) : State :=
  if !canActs a then s else canShow n (s.setCan n { s.can n with rx := (s.can n).rx.drop 1 })

def execCanRxPop (a : Agent) (n : Nat) (v : Word) (s : State) : Out :=
  if n ≥ 2 then stay s else access a (R.CAN_RXPOP n) v (fun s => .next (rxPop a n s)) s

/-- What CAN_RXHEAD shows. -/
def rxHead (s : State) (n w : Nat) : Word := ((s.can n).rx.headD []).getD w 0

/-- CAN_BUS_OFF: the transmit error counter has passed 255. -/
def execCanBusOff (n : Nat) (s : State) : Out := if !canRuns s n then stay s else .next (busOff n s)

/-- A write of CAN_CTL: port 1's alone acts; REC, or AUTOREC, lets a recovery start (R872, R877). Enabling starts error active with
counters at 0 (assumption 81). -/
def canCtlWrite (a : Agent) (n : Nat) (v : Word) (s : State) : State :=
  if !canActs a || decide (n = 0) then s
  else
    let was := s.flag (R.CAN_CTL_EN n)
    let s := s.wr (R.CAN_CTL n) (v &&& 0xF)
    let s :=
      if !v.getLsbD 0 then (s.setCan n { s.can n with recovering := false }).set (R.CAN_STAT_STATE n) 3
      else if !was then ((s.set (R.CAN_STAT_TEC n) 0).set (R.CAN_STAT_REC n) 0).set (R.CAN_STAT_STATE n) 0
      else s
    if (v.getLsbD 3 || v.getLsbD 4) && decide (s.get (R.CAN_STAT_STATE n) = 2) then s.setCan n { s.can n with recovering := true } else s

/-- CAN_RECOVERY_REQUEST: a write of CAN_CTL with REC. -/
def execCanRecoveryRequest (a : Agent) (n : Nat) (v : Word) (s : State) : Out :=
  if decide (n ≥ 2) || !v.getLsbD 4 then stay s else access a (R.CAN_CTL n) v (fun s => .next (canCtlWrite a n v s)) s

/-- CAN_RECOVERY_DONE: 128 occurrences of 11 recessive bits have been seen. -/
def execCanRecoveryDone (n : Nat) (s : State) : Out :=
  if !canRuns s n || decide (s.get (R.CAN_STAT_STATE n) ≠ 2) || !(s.can n).recovering then stay s
  else
    let s := ((s.set (R.CAN_STAT_TEC n) 0).set (R.CAN_STAT_REC n) 0).set (R.CAN_STAT_TXDOM n) 0
    .next ((s.setCan n { s.can n with recovering := false }).set (R.CAN_STAT_STATE n) 0)

/-- CAN_TX_DOMINANT_TIMEOUT (R878). -/
def execCanTxDominantTimeout (n : Nat) (s : State) : Out :=
  if decide (n ≥ 2) || !s.up islSAFE || decide (s.stage = 0) then stay s
  else
    let s := canCause 2 84 n (s.set (R.CAN_STAT_TXDOM n) 1)
    .next (if canRuns s n then busOff n s else s)

/-- A FOLLOWER's pending requests are cancelled (R880). -/
def canFollower (s : State) : State :=
  (List.range 2).foldl (fun s n => (s.setCan n { s.can n with aborts := 0 }).wr (R.CAN_TXPEND n) 0) s

/-- A write of a bit timing or delay compensation register: port 1's, while it is disabled (R872, R873). -/
def canTimeWrite (a : Agent) (n o : Nat) (v : Word) (s : State) : Out :=
  if !canActs a || decide (n = 0) || s.flag (R.CAN_CTL_EN n) then .next s else codeWrite o v s

/-- A write into a transmit buffer: ignored while it is pending (R875). -/
def txBufWrite (a : Agent) (n b o : Nat) (v : Word) (s : State) : Out :=
  if !canActs a || bitOf (s.get (R.CAN_TXPEND_BUF n)) b then .next s else codeWrite o v s

/-! Snapshots (R882, R883). -/

/-- SNAPSHOT_CAPTURE: a crossing of source n with its bit in DGN_SNAP_EN set. -/
def execSnapshotCapture (n : Nat) (s : State) : Out :=
  if decide (n ≥ 96) || !s.flag ⟨R.DGN_SNAP_EN (n / 32), n % 32, 1⟩ then stay s else .next (snapshot n s)

def snapPop (s : State) : State := { s with dgn.snaps := s.dgn.snaps.drop 1 }

/-- SNAPSHOT_POP: a write of DGN_SNAP_POP. -/
def execSnapshotPop (a : Agent) (v : Word) (s : State) : Out := access a R.DGN_SNAP_POP v (fun s => .next (snapPop s)) s

/-- What DGN_SNAP_HEAD shows. -/
def snapHead (s : State) (w : Nat) : Word := BitVec.ofNat 32 (leNat (sliceOf (s.dgn.snaps.headD []) (4 * w) 4))

/-! Lifecycle and fuses (R884 to R886). -/

/-- The service key hash fuse. -/
def svcKey (s : State) : List Byte := (List.range 8).flatMap fun i => leBytes 4 (fuseField s.held (5 + i)).toNat

def svcKeyBlank (s : State) : Bool := (svcKey s).all fun b => decide (b = 0)

/-- The lifecycle state after one step, with the TARGET that asks for it. -/
def lcNext : Nat → Option (Nat × Nat)
  | 0 => some (1, 1)
  | 1 => some (2, 3)
  | _ => none

/-- A write of DGN_LC_CMD; where several refusals hold, R885's table gives the order (assumption 172). -/
def lcWrite (a : Agent) (v : Word) (s : State) : State :=
  let refuse (e : Nat) : State := s.set R.DGN_FSTAT_ERR e
  if !isHost a || decide (wget v 24 8 ≠ 0x5A) then s
  else
    match lcNext s.held.lc with
    | none => refuse 1
    | some (t, tgt) =>
      if wget v 0 2 ≠ t then refuse 1
      else if decide (t = 1) && svcKeyBlank s then refuse 4
      else if decide (t = 2) && !s.flag R.DGN_STAT_UNLOCKED then refuse 5
      else if burning s then refuse 2
      else if earlyWarn s then refuse 3
      else { ((s.set R.DGN_FSTAT_ERR 0).set R.DGN_FSTAT_BUSY 1) with burn := .lc tgt }

def execLifecycleAdvance (a : Agent) (v : Word) (s : State) : Out := access a R.DGN_LC_CMD v (fun s => .next (lcWrite a v s)) s

/-- The bits that a field code uses; none for a reserved code. -/
def fuseMask : Nat → Option Word
  | 0 => some 0xFFFFFFFF
  | 1 => some 0xFFFF
  | 2 => some 0x1FF
  | 3 => some 0x01FF01FF
  | 4 => some 0x000FF3FF
  | 13 => some 0x7FF
  | c => if c < 13 then some 0xFFFFFFFF else none

/-- A write of DGN_FPROG_CMD; where several refusals hold, LOCKED comes first, then BUSY, SUPPLY, ORDER (assumption 172). -/
def fprogWrite (a : Agent) (v : Word) (s : State) : State :=
  let refuse (e : Nat) : State := s.set R.DGN_FSTAT_ERR e
  let code := s.get R.DGN_FPROG_SEL_SEL
  if !isHost a || decide (wget v 24 8 ≠ 0x5A) then s
  else if s.held.lc ≠ 0 then refuse 5
  else if burning s then refuse 2
  else if earlyWarn s then refuse 3
  else
    match fuseMask code with
    | none => refuse 1
    | some m =>
      { ((s.set R.DGN_FSTAT_ERR 0).set R.DGN_FSTAT_BUSY 1) with burn := .prog code (s.rd R.DGN_FPROG_DATA &&& m) }

def execFuseProgram (a : Agent) (v : Word) (s : State) : Out := access a R.DGN_FPROG_CMD v (fun s => .next (fprogWrite a v s)) s

/-- FUSE_BURN_DONE: new values take effect at the next reset. -/
def execFuseBurnDone (s : State) : Out :=
  let done (s : State) : Out := .next (cause R.DGN_NSTAT_FUSE 87 (s.set R.DGN_FSTAT_BUSY 0))
  match s.burn with
  | .lc tgt => done { s with fuses.lc := tgt, burn := .none }
  | .prog code bits =>
    done { s with fuses.prog := mput (fun _ => 0) s.fuses.prog code (fuseField s.fuses code ||| bits), burn := .none }
  | _ => stay s

/-! The service unlock (R887 to R891). -/

/-- Agents whose writes act on DGN_UNLK_CMD, PUB and SIG (R891). -/
def unlkActs : Agent → Bool
  | .host => true
  | .thread _ _ => true
  | _ => false

/-- DGN_STAT.DBGOPEN (R897). -/
def showOpen (s : State) : State :=
  let field := decide (s.held.lc = 1) && s.flag R.DGN_STAT_UNLOCKED && s.flag R.DGN_STAT_SVCEN
  s.set R.DGN_STAT_DBGOPEN (b2n (lcOpen s.held.lc || field))

/-- Seconds that an unlock runs (R898). -/
def unlockSecs (s : State) : Nat := clampNat 1 3600 (s.get R.DGN_UNLK_TO_SEC)

/-- What DGN_UNLK_LEFT shows: seconds of device time (assumption 83). -/
def unlockLeft (s : State) : Word :=
  if s.flag R.DGN_STAT_UNLOCKED then BitVec.ofNat 32 ((s.dgn.unlockEnd - s.now + 999999999) / 1000000000) else 0

/-- The unlock starts, or its timer restarts. -/
def unlockBegin (s : State) : State :=
  let was := s.flag R.DGN_STAT_UNLOCKED
  let s := { s with dgn.unlockEnd := s.now + unlockSecs s * 1000000000 }
  let s := ((s.set R.DGN_UNLK_STAT_UNLOCKED 1).set R.DGN_STAT_UNLOCKED 1).set R.DGN_UNLK_STAT_FAILS 0
  let s := showOpen s
  if was then s else cause R.DGN_NSTAT_UNLOCK 87 s

/-- The unlock ends: debug access and the safe window close (R890; 24_journal_memory.md R866). -/
def unlockOver (s : State) : State :=
  if !s.flag R.DGN_STAT_UNLOCKED then s
  else
    let s := showOpen ((s.set R.DGN_UNLK_STAT_UNLOCKED 0).set R.DGN_STAT_UNLOCKED 0)
    cause R.DGN_NSTAT_LOCK 87 (s.set R.JRN_STAT_SUNLK 0)

/-- The message that the tester signs (R887). -/
def unlockMsg (s : State) : List Byte :=
  (List.range 4).flatMap (fun i => leBytes 4 (s.rd (R.DGN_CHAL i)).toNat) ++ leBytes 8 s.held.uid
    ++ [BitVec.ofNat 8 s.held.lc, 1]

/-- A failure (R889). -/
def unlockFail (err : Nat) (s : State) : State :=
  let n := min 3 (s.get R.DGN_UNLK_STAT_FAILS + 1)
  let s := (s.set R.DGN_UNLK_STAT_FAILS n).set R.DGN_UNLK_STAT_ERR err
  cause R.DGN_NSTAT_UNLKFAIL 87 { s with dgn.wait := s.dgn.wait || decide (n = 3) }

/-- CHALLENGE: sixteen random bytes. -/
def challenge (s : State) : State :=
  if s.dgn.wait then s.set R.DGN_UNLK_STAT_ERR 2
  else
    let s := (List.range 4).foldl (fun s i =>
      let (v, s) := s.draw 22
      s.wr (R.DGN_CHAL i) (BitVec.ofNat 32 v)) s
    { ((s.set R.DGN_UNLK_STAT_ERR 0).set R.DGN_UNLK_STAT_CHALRDY 1) with dgn.chal := .live }

/-- VERIFY (assumption 82). -/
def verify (s : State) : State :=
  let was := s.dgn.chal
  let pub := (List.range 16).flatMap fun i => leBytes 4 (s.rd (R.DGN_UNLK_PUB i)).toNat
  let sig := (List.range 16).flatMap fun i => leBytes 4 (s.rd (R.DGN_UNLK_SIG i)).toNat
  let s := { s.set R.DGN_UNLK_STAT_CHALRDY 0 with dgn.chal := .none }
  match was with
  | .none => s.set R.DGN_UNLK_STAT_ERR 1
  | .expired => unlockFail 6 s
  | .live =>
    if svcKeyBlank s then s.set R.DGN_UNLK_STAT_ERR 3
    else if sha256 pub ≠ svcKey s then unlockFail 4 s
    else if !ecdsaOk pub sig (sha256 (unlockMsg s)) then unlockFail 5 s
    else unlockBegin (s.set R.DGN_UNLK_STAT_ERR 0)

/-- A write of DGN_UNLK_CMD. -/
def unlkWrite (a : Agent) (v : Word) (s : State) : State :=
  if !unlkActs a || decide (wget v 24 8 ≠ 0x5A) then s
  else
    match wget v 0 2 with
    | 1 => challenge s
    | 2 => verify s
    | 3 => unlockOver (s.set R.DGN_UNLK_STAT_ERR 0)
    | _ => s

/-- UNLOCK_CHALLENGE, UNLOCK_VERIFY and SERVICE_LOCK: writes of DGN_UNLK_CMD with CMD 1, 2 and 3. -/
def execUnlockChallenge (a : Agent) (v : Word) (s : State) : Out :=
  if wget v 0 2 ≠ 1 then stay s else access a R.DGN_UNLK_CMD v (fun s => .next (unlkWrite a v s)) s

def execUnlockVerify (a : Agent) (v : Word) (s : State) : Out :=
  if wget v 0 2 ≠ 2 then stay s else access a R.DGN_UNLK_CMD v (fun s => .next (unlkWrite a v s)) s

def execServiceLock (a : Agent) (v : Word) (s : State) : Out :=
  if wget v 0 2 ≠ 3 then stay s else access a R.DGN_UNLK_CMD v (fun s => .next (unlkWrite a v s)) s

/-- UNLOCK_TIMEOUT. -/
def execUnlockTimeout (s : State) : Out := if !s.flag R.DGN_STAT_UNLOCKED then stay s else .next (unlockOver s)

/-- CHALLENGE_EXPIRY: 60 s after it was drawn. -/
def execChallengeExpiry (s : State) : Out := if s.dgn.chal ≠ .live then stay s else .next { s with dgn.chal := .expired }

/-- UNLOCK_WAIT_END: 10 s after the third failure. -/
def execUnlockWaitEnd (s : State) : Out := if !s.dgn.wait then stay s else .next { s with dgn.wait := false }

/-! The test access port (R892 to R896, R908). -/

/-- The port runs: VDD_AO and VDDIO_GEN are within range. -/
def tapRuns (s : State) : Bool := decide ((s.rd R.SUP_RAIL).toNat &&& 0x204 = 0x204)

/-- An instruction becomes current; `cap` is what its data register captures. -/
def tapLoad (ir cap : Nat) (s : State) : State := { s with tap.ir := ir, tap.cap := cap }

/-- Board-test reset (R894). -/
def boardTest (s : State) : State :=
  let s := deviceReset 0 false (journalCut s)
  { s with sys.boardTest := true }

/-- An instruction that drives the balls from the boundary-scan cells. -/
def tapDrive (ir pins : Nat) (s : State) : Out := if !tapRuns s then stay s else .next (boardTest (tapLoad ir pins s))

/-- EXTEST and the others; `pins` are the levels that the boundary-scan register captures, in its order. -/
def execExtest (pins : Nat) (s : State) : Out := tapDrive 0x00 pins s
def execClamp (s : State) : Out := tapDrive 0x04 0 s
def execHighz (s : State) : Out := tapDrive 0x05 0 s
def execExtestPulse (pins : Nat) (s : State) : Out := tapDrive 0x06 pins s
def execExtestTrain (pins : Nat) (s : State) : Out := tapDrive 0x07 pins s

/-- The IDCODE register (R893). -/
def idcode (s : State) : Nat := 0x14816001 + (fuseField s.held 13).toNat % 2 ^ 11 * 2

def execIdcode (s : State) : Out := if !tapRuns s then stay s else .next (tapLoad 0x01 (idcode s) s)

/-- SAMPLE_PRELOAD: the levels captured, and the values loaded into the cells. -/
def execSamplePreload (pins cells : Nat) (s : State) : Out :=
  if !tapRuns s then stay s else .next { tapLoad 0x02 pins s with tap.cells := cells }

def execBypass (s : State) : Out := if !tapRuns s then stay s else .next (tapLoad 0x3F 0 s)

/-- What a Capture-DR of the debug register loads (R896). -/
def debugCapture (s : State) : Nat :=
  s.tap.data.toNat + b2n s.tap.done * 2 ^ 64 + b2n (s.flag R.DGN_STAT_DBGOPEN) * 2 ^ 65 + b2n s.tap.err * 2 ^ 66

def execDbgacc (s : State) : Out := if !tapRuns s then stay s else .next (tapLoad 0x20 (debugCapture s) s)

/-- GO or RST while debug access is closed: the next capture shows ERR. -/
def debugClosed (s : State) : State :=
  let s := { s with tap.err := true, tap.done := false }
  { s with tap.cap := debugCapture s }

/-- DEBUG_RESET: an Update-DR with RST. It takes no device out of STANDBY (05_power_states.md R183). -/
def execDebugReset (s : State) : Out :=
  if !tapRuns s || decide (s.tap.ir ≠ 0x20) || decide (s.pstate = 5) then stay s
  else if s.sys.resetting || !s.flag R.DGN_STAT_DBGOPEN then .next (debugClosed s)
  else .next (deviceReset rstDBG false (journalCut s))

/-- TAP_RESET. -/
def execTapReset (s : State) : Out := .next { s with tap := Tap.reset }

end Sys2Proof.Machine
end

