-- ==== Sys2Proof/Machine/Sup.lean ====
section
/-!
DEFINITION. Supply rails and the early warning (26_signals_package_electrical.md R910 to R918).
-/
namespace Sys2Proof.Machine

/-- A user I/O bank runs at 3.3 V: VIO of its MITRE entry, after apply (R910). -/
def bankHigh (s : State) (b : Nat) : Bool := s.mqy.mitreOn && (mget (fun _ => 0) s.mqy.mitre b).getLsbD 0

/-- The operating range and the reset threshold of a rail, in mV (R910). -/
def railRange (s : State) : Nat → Nat × Nat × Nat
  | 0 => (550, 800, 500)
  | 1 => (776, 824, 720)
  | 2 => (776, 824, 720)
  | 3 => (873, 927, 800)
  | 4 => (1746, 1854, 1600)
  | 5 => (1746, 1854, 1600)
  | 6 => (1746, 1854, 1600)
  | 7 => (3135, 3465, 2850)
  | 8 => (3135, 3465, 2850)
  | 9 => (3135, 3465, 2850)
  | 10 => (1710, 1890, 1550)
  | 11 => (3135, 3465, 2850)
  | i => if bankHigh s (i - 12) then (3135, 3465, 2850) else (1710, 1890, 1550)

/-- The rail is within range. -/
def railOk (s : State) (i : Nat) : Bool := bitOf (s.rd R.SUP_RAIL).toNat i

/-- LOW is reported for a rail (R914, R915). -/
def lowTold (s : State) (i : Nat) : Bool := bitOf s.sys.railSeen i && !(decide (s.pstate = 5) && bitOf 0xFC19 i)

/-- A rail reads some mV and is, or is not, within range. -/
def railShow (i mv : Nat) (ok : Bool) (s : State) : State :=
  (s.set (R.SUP_RAILV_MV i) mv).set ⟨R.SUP_RAIL, i, 1⟩ (b2n ok)

/-- A rail has fallen below its minimum (R915). -/
def railLow (i mv : Nat) (s : State) : State :=
  let told := railOk s i && lowTold s i && !s.sys.resetting
  let s := railShow i mv false s
  if told then cause ⟨R.SUP_NSTAT, i, 1⟩ 5 s else s

/-- RAIL_LOW: rail i has fallen to some mV. -/
def execRailLow (i mv : Nat) (s : State) : Out :=
  if decide (i ≥ 16) || !railOk s i || decide (mv ≥ (railRange s i).1) then stay s else .next (railLow i mv s)

/-- The islands that a rail feeds, and whose fall below the reset threshold stops them (R904, R916). -/
def railIslands (s : State) (i : Nat) : List Nat :=
  let panels := if i = 5 then (pllIslands s 0).filter fun k => decide (64 ≤ k ∧ k < 72) else []
  (List.range 77).filter (fun k => bitOf (feedMask k) i) ++ panels

/-- RAIL_COLLAPSE: rail i, not VDD_AO, has fallen below its reset threshold after it had been within range (R916). A fall of
VDDA_PLL also stops the PLLs and the REFCLK receiver. -/
def execRailCollapse (i mv : Nat) (s : State) : Out :=
  if decide (i ≥ 16) || decide (i = 2) || decide (mv ≥ (railRange s i).2.2) || !bitOf s.sys.railSeen i then stay s
  else
    let s := railLow i mv s
    if s.sys.resetting then .next s
    else
      let s := (railIslands s i).foldl (fun s k => oscStop k s) s
      .next (if i = 5 && s.flag R.CLK_STAT_REFCLK_OK then refclkLost s else s)

/-- RAIL_IN_RANGE: rail i has risen to some mV within its range; the islands it feeds leave their reset (R912). -/
def execRailInRange (i mv : Nat) (s : State) : Out :=
  let r := railRange s i
  if decide (i ≥ 16) || decide (mv < r.1) || decide (mv > r.2.1) then stay s
  else .next (railShow i mv true { s with sys.railSeen := s.sys.railSeen ||| 2 ^ i })

/-! The early warning (R917). -/

/-- The battery-line term. -/
def ewVbat (s : State) : Bool :=
  s.pws.seen && decide (s.get R.SUP_EWV_MV ≠ 0) && decide (s.get R.SUP_VBAT_MV < s.get R.SUP_EWV_MV)

/-- The terms of the early warning; JRN_STAT.EARLY mirrors it. -/
def ewShow (vio vbat : Bool) (s : State) : State :=
  let ew := b2n (vio || vbat)
  (((s.set R.SUP_EWSTAT_VIO (b2n vio)).set R.SUP_EWSTAT_VBAT (b2n vbat)).set R.SUP_EWSTAT_EW ew).set R.JRN_STAT_EARLY ew

/-- EARLY_WARNING: `vio`: VDDIO_AO is below 3.15 V. -/
def execEarlyWarning (vio : Bool) (s : State) : Out :=
  if s.sys.resetting || !(vio || ewVbat s) then stay s
  else
    let was := earlyWarn s
    let s := ewShow vio (ewVbat s) s
    .next (if was then s else cause R.SUP_NSTAT_EW 5 s)

/-- EARLY_WARNING_CLEAR: VDDIO_AO is at or above 3.15 V, and no battery-line term stands; device writes that were refused are
issued again (04_staged_start.md R161; 24_journal_memory.md R850). -/
def execEarlyWarningClear (s : State) : Out :=
  if s.sys.resetting || !earlyWarn s || ewVbat s then stay s else .next (jrnNextDevice (ewShow false false s))

end Sys2Proof.Machine
end

