-- ==== Sys2Proof/Machine/PlyRole.lean ====
section
/-!
DEFINITION. Roles of a Ply pair, the start of a join, DETACH, and the loss of the partner as far as it needs no log
(22_ply_pair.md R786, R787, R812, R816 to R820).
-/
namespace Sys2Proof.Machine

/-- A strand's role changes (R786; PLY_NSTAT.ROLE, N35). A FOLLOWER's CAN ports end their transmissions, and its queued POOL tests
end (R789; 23_in_service_test.md R835). -/
def setRole (r : Nat) (s : State) : State :=
  if s.role = r then s
  else
    let s := cause R.PLY_NSTAT_ROLE 35 (s.set R.PLY_STAT_ROLE r)
    let s := { s with ply := { s.ply with ratioNow := none, ratios := [] } }
    if r = 3 then istCheck (canFollower s) else s

/-- The log that a strand holds is gone. -/
def dropLog (s : State) : State :=
  let s := { s with ply := { s.ply with log := [], closed := [], bodies := [], answers := [], asked := false, mine := [], theirs := [],
                                        verdict := none } }
  s.set R.PLY_LAG_EPOCHS 0

/-- The LEADER discards its unsent log and frees the buffers that it kept for its partner (R816). -/
def dropKept (s : State) : State :=
  let freed := s.ply.kept.filter fun e => e.2.2
  let s := (s.set R.PLY_LAG_KIB 0).set R.PLY_JOIN_STAT_PHASE 0
  freed.foldl (fun s e => freeBuf e.1 s) { s with ply.kept := [] }

/-- A strand leaves the pair: it stops PLY_ALIVE, drives its gates and its OWN line low, and is ALONE (R811, R813, R820). -/
def plyLeave (s : State) : State :=
  let s := plyStop (dropLog (if s.leader then dropKept s else s))
  setRole 1 { (s.set R.PLY_JOIN_STAT_PHASE 0) with ply.still := true }

/-! Joins (R818, R819). -/

def joinPhase (s : State) : Nat := s.get R.PLY_JOIN_STAT_PHASE

/-- This strand owns the gates. -/
def plyOwner (s : State) : Bool := s.flag R.PWS_STAT_OWNER

/-- A join starts: lanes retired before it count again, and PLY_ALIVE may run (R791, R811). -/
def joinStart (s : State) : State :=
  { (s.wr R.PLY_JOIN_STAT 1) with ply := { s.ply with still := false, retired := 0 } }

/-- A join fails: both strands are ALONE, with ownership unchanged (R819). -/
def joinFail (err : Nat) (s : State) : State :=
  let s := dropLog (if s.leader then dropKept s else s)
  let s := (s.set R.PLY_JOIN_STAT_PHASE 0).set R.PLY_JOIN_STAT_ERR err
  setRole 1 (cause R.PLY_NSTAT_JOIN 35 s)

/-- A JOIN command: refused with ORDER during a join, while joined, or on a strand that does not own. -/
def joinCmd (s : State) : State :=
  if s.role ≠ 1 || decide (joinPhase s ≠ 0) || !plyOwner s then s.set R.PLY_JOIN_STAT_ERR 1 else joinStart s

/-- A DETACH command: the FOLLOWER leaves; a LEADER tells its partner (R820). -/
def detachCmd (s : State) : State :=
  if s.follower then plyLeave s else if s.leader then s.emit (.ply .detach) else s

/-- A write of PLY_CMD (R818, R820). -/
def plyCmdWrite (v : Word) (s : State) : State :=
  if wget v 24 8 ≠ 0x5A then s
  else match wget v 0 2 with
    | 1 => joinCmd s
    | 2 => detachCmd s
    | _ => s

/-- PLY_JOIN: a write of PLY_CMD with CMD = JOIN and KEY = 0x5A. -/
def execPlyJoin (a : Agent) (v : Word) (s : State) : Out :=
  if decide (wget v 24 8 ≠ 0x5A) || decide (wget v 0 2 ≠ 1) then stay s
  else access a R.PLY_CMD v (fun s => .next (plyCmdWrite v s)) s

/-- PLY_DETACH: a write of PLY_CMD with CMD = DETACH and KEY = 0x5A; `partner`: the LEADER tells of the one it has received. -/
def execPlyDetach (a : Agent) (v : Word) (partner : Bool) (s : State) : Out :=
  if partner then (if s.follower then .next (plyLeave s) else stay s)
  else if decide (wget v 24 8 ≠ 0x5A) || decide (wget v 0 2 ≠ 2) then stay s
  else access a R.PLY_CMD v (fun s => .next (plyCmdWrite v s)) s

/-! The sidebands (R791 to R793, R813, R817). -/

/-- PLY_ALIVE runs: the strand is not halted, reset, output-disabled or still (R792). -/
def aliveRuns (s : State) : Bool :=
  decide (1 ≤ s.role) && s.up islPLY && !s.halted && !s.aoDisabled && !s.ply.still && decide (s.stage ≥ 1)

/-- PLY_ALIVE_TOGGLE, at a multiple of 10 µs; `edge`: the partner's line has shown an edge since the one before. -/
def execPlyAliveToggle (edge : Bool) (s : State) : Out :=
  if s.role = 0 || !s.up islPLY then stay s
  else
    let s := if edge then { (s.set R.PLY_STAT_ALIVE_IN 1) with ply.aliveSeen := true } else s
    .next (if aliveRuns s then { s with ply.aliveOut := !s.ply.aliveOut } else s)

/-- PLY_LINK_UP: `lanes` lanes are up, retired lanes apart. -/
def execPlyLinkUp (lanes : Nat) (s : State) : Out :=
  if s.role = 0 || !s.up islPLY || !s.flag R.CLK_STAT_PLYPLL_LOCK || decide (lanes = 0) then stay s
  else .next (s.set R.PLY_STAT_LANES (min lanes (2 - min 2 s.ply.retired)))

/-- PLY_LANE_FAIL: one lane is retired until the next join (R791). -/
def execPlyLaneFail (s : State) : Out :=
  let n := s.get R.PLY_STAT_LANES
  if s.role = 0 || !s.up islPLY || decide (n ≠ 2) then stay s
  else .next { (s.set R.PLY_STAT_LANES 1) with ply.retired := 1 }

/-- PLY_LINK_DOWN: a join fails with LINK; a FOLLOWER leaves, ownership unchanged (R791, R819). -/
def execPlyLinkDown (s : State) : Out :=
  if s.role = 0 || !s.up islPLY || decide (s.get R.PLY_STAT_LANES = 0) then stay s
  else
    let s := cause R.PLY_NSTAT_LINK 34 (s.set R.PLY_STAT_LANES 0)
    let p := joinPhase s
    .next (if 1 ≤ p ∧ p ≤ 4 then joinFail 3 s else if s.follower then plyLeave s else s)

/-- OWN_CONTENTION: both OWN lines high; the strand with PLYROLE 0b10 yields (R813). -/
def execOwnContention (s : State) : Out :=
  if s.get R.SYS_STRAP_PLYROLE ≠ 2 || !plyOwner s || !s.up islPLY then stay s
  else .next (cause R.PLY_NSTAT_CONTEND 34 ((plyLeave s).set R.PLY_CAUSE_CAUSE 4))

/-- FORMATION_TIMEOUT: 50 ms after Stage 1 entry strand B has seen no edge of PLY_ALIVE; `owna`: the level of PLY_OWNA (R817). -/
def execFormationTimeout (owna : Bool) (s : State) : Out :=
  if s.get R.SYS_STRAP_PLYROLE ≠ 2 || decide (s.stage < 1) || s.ply.aliveSeen || owna || plyOwner s || s.role ≠ 1 || !s.up islPLY then stay s
  else .next { s with pws.grant := true }

end Sys2Proof.Machine
end

