-- ==== Sys2Proof/Machine/Bus.lean ====
section
/-!
DEFINITION. Every register access as its block performs it: what a read of any offset returns and does, and what a write of any
offset does (00_scope.md R10 to R26, 01_device_overview.md R36 to R39).
-/
namespace Sys2Proof.Machine

/-! Split pairs (R15, R16). -/

/-- The offset is the low half of a split pair outside the panels. Which pairs count is the model's choice where the spec does not say
(assumption 151): every _LO and _HI pair that holds one 64-bit number, time, address or mask, IST_BIST_CORE among them; WHL_TBSH and
WHL_TBUSED, eight bytes each of one pool's share, and PRS_TCMAP, eight fields of one code point's class each, are words of their own. -/
def pairLo (o : Nat) : Bool :=
  [0x58, 0x20010, 0x20018, 0x400010, 0x420014, 0x420044, 0x300020, 0x300088, 0xD0010, 0xD0018, 0xC0010, 0x70020, 0x60010,
    0x60204, 0xF0010].contains o
    || decide (0xA0100 ≤ o ∧ o < 0xA0300 ∧ o % 0x20 = 0x10)
    || decide (0xB0100 ≤ o ∧ o < 0xB0500 ∧ (o % 0x40 = 0x14 ∨ o % 0x40 = 0x1C))
    || decide (0xB0600 ≤ o ∧ o < 0xB0800 ∧ o % 0x20 = 0xC)
    || decide (0x110000 ≤ o ∧ o < 0x1A0000 ∧ (o % 0x10000 = 0x1C ∨ o % 0x10000 = 0x108 ∨ o % 0x10000 = 0x120))
    || decide (0x1E8000 ≤ o ∧ o < 0x1EFE00 ∧ (o % 0x200 = 0 ∨ o % 0x200 = 0x10))

/-- The pair is writable. -/
def pairRw (lo : Nat) : Bool :=
  [0x20018, 0x400010, 0x420014, 0x420044, 0x300020, 0x300088, 0xD0010, 0xD0018].contains lo
    || decide (0xB0100 ≤ lo ∧ lo < 0xB0500 ∧ lo % 0x40 = 0x1C)
    || decide (0x110000 ≤ lo ∧ lo < 0x1A0000 ∧ lo % 0x10000 = 0x108)
    || decide (0x1E8000 ≤ lo ∧ lo < 0x1EFE00 ∧ lo % 0x200 = 0)

/-- The low half of the pair that an offset is a half of. -/
def pairOf (o : Nat) : Option Nat :=
  if pairLo o then some o else if decide (4 ≤ o) && pairLo (o - 4) then some (o - 4) else none

/-! Reads. -/

/-- Bits lo to lo + 31 of a time that a read captured for the agent. -/
def capturedTime (a : Agent) (k : Nat) (hi : Bool) (s : State) : Word :=
  let t := mget (fun _ => 0) s.rcap (agentId a * 64 + k)
  BitVec.ofNat 32 (if hi then t / 2 ^ 32 else t)

/-- EVT registers (17_notices_interrupts.md R644). -/
def evtRead (o : Nat) (s : State) : Word × State :=
  if 0x30100 ≤ o ∧ o < 0x30280 then srcRead ((o - 0x30100) / 4) s
  else if 0x30020 ≤ o ∧ o < 0x3002C then
    let w := (o - 0x30020) / 4
    (BitVec.ofNat 32 ((List.range 32).foldl (fun n j => n + b2n (levelOf s (32 * w + j)) * 2 ^ j) 0), s)
  else if o = R.EVT_INTN then
    (BitVec.ofNat 32 (b2n s.intnAsserted + 2 * b2n (s.flag R.SYS_WAKE_CAN && decide (s.pstate = 5))), s)
  else codeRead o s

/-- The PLL that clocks an island, if one does (R75). -/
def islandPll (s : State) (i : Nat) : Option Nat :=
  if i = islPRT then some 1
  else if i = islHIF then some 2
  else if i = islPLY then some 3
  else if i = islSAFE ∨ i = islAUD ∨ i = islPWS then some 0
  else if 64 ≤ i ∧ i < 72 ∧ s.get (R.CLK_ISL_SRC i) = 1 then some 0
  else none

/-- The nominal frequency of an island on a PLL, in MHz (R75). -/
def pllMhz (i : Nat) : Nat :=
  if i = islPRT ∨ i = islPLY then 625 else if i = islHIF then 500 else if i = islAUD ∨ i = islPWS then 1536 else 192

/-- The lowest frequency and the cap in force of a DTO island's range, in MHz (R75, R77). -/
def dtoRange (s : State) (i : Nat) : Nat × Nat :=
  if 2 ≤ i ∧ i < 50 then (400, s.get R.CLK_CAP_WHL_MHZ)
  else if 64 ≤ i ∧ i < 72 then (100, s.get R.CLK_CAP_MQY_MHZ)
  else (300, s.get R.CLK_CAP_SVC_MHZ)

/-- A running island's frequency in MHz (R75 to R77). A locked PLL fixes it; an FRO has one value within its ±1% for good; a DTO follows
its rail, never above its cap and, while the core rail is within its ratings, never below its range: `free` is what it happens to be. -/
def islandFreq (s : State) (i free : Nat) : Nat :=
  match islandPll s i with
  | some k => if s.flag (pllLock k) then pllMhz i else free % 4096
  | none =>
    if i = islAO then 99 + Config.free 31 0 % 3
    else if i = islJRN then 198 + Config.free 31 76 % 5
    else
      let (lo, cap) := dtoRange s i
      if railOk s 0 then clampNat lo cap free else min cap free

/-- CLK registers: device time, the slew's remainder, and measured frequencies, 0 while an island is off or stopped (R113; assumption 80). -/
def clkRead (o : Nat) (s : State) : Word × State :=
  if o = R.CLK_TNOW_LO then (BitVec.ofNat 32 s.now, s)
  else if o = R.CLK_TNOW_HI then (BitVec.ofNat 32 (s.now / 2 ^ 32), s)
  else if o = R.CLK_TSLEW then (slewRead s, s)
  else if 0x20100 ≤ o ∧ o < 0x20234 then
    let i := (o - 0x20100) / 4
    let (w, s) := codeRead o s
    if s.live i && !s.flag (R.CLK_ISL_STOP i) then
      let (f, s) := s.draw 20
      (wset w 0 12 (islandFreq s i f), s)
    else (wset w 0 12 0, s)
  else codeRead o s

/-- DST registers that show live state (11_distaff_and_yarns.md R439 to R443). -/
def dstRead (o : Nat) (s : State) : Word × State :=
  if o = R.DST_STAT then
    (BitVec.ofNat 32 (s.dst.tasks.length + b2n (decide (s.dst.tasks.length = 8192)) * 65536), s)
  else if 0x420200 ≤ o ∧ o < 0x4202C0 then
    let n := (o - 0x420200) / 4
    (BitVec.ofNat 32 (s.get (R.DST_CORE_TMASK n) + b2n (inService s n) * 256 + b2n (s.core n).retired * 512 + min 3 (parkedOn s n) * 4096), s)
  else if 0x420110 ≤ o ∧ o < 0x420120 then (traceData s ((o - 0x420110) / 4), s)
  else if 0x420300 ≤ o ∧ o < 0x4203C0 then (BitVec.ofNat 32 (queuedOn s ((o - 0x420300) / 4)), s)
  else if 0x428000 ≤ o ∧ o < 0x42C000 then
    let y := (o - 0x428000) / 4
    (BitVec.ofNat 32 (inflight s y + lastCore s y % 64 * 65536 + b2n (decide (yarnLimit s y ≠ 0 ∧ inflight s y = yarnLimit s y)) * 2 ^ 31), s)
  else if o = R.DST_YMASK_LO then (ymaskLo s, s)
  else if o = R.DST_YMASK_HI then (BitVec.ofNat 32 (yarnMask s (s.get R.DST_YSEL_YARN) / 2 ^ 32), s)
  else codeRead o s

/-- BPM and LCK registers (10_buffers_and_locks.md R388, R394, R399 to R402). -/
def poolRead (a : Agent) (o : Nat) (s : State) : Word × State :=
  if 0x410000 ≤ o ∧ o < 0x410800 then
    let s := lockLoads ((o - 0x410000) / 4) [a] s
    (mget (fun _ => 0) s.resp (agentId a), s)
  else if 0x411000 ≤ o ∧ o < 0x411800 then
    let l := s.lock ((o - 0x411000) / 4)
    (BitVec.ofNat 32 (b2n l.held + l.waiters.length * 16 + l.owner * 65536), s)
  else if 0x400100 ≤ o ∧ o < 0x400200 ∧ o % 0x20 = 0x18 then
    (BitVec.ofNat 32 (poolShared s ((o - 0x400100) / 0x20)), s)
  else codeRead o s

/-- WHL registers of one core's window (12_whorl_cores_threads.md R453, R471, R474, R475). WHL_ROOT, WHL_NSTAT and WHL_NEN are one set
that every window shows. -/
def whlRead (o : Nat) (s : State) : Word × State :=
  let n := (o - 0x800000) / 0x20000
  let r := (o - 0x800000) % 0x20000
  if r ≥ 0x10000 then (lmWindowRead s n (r - 0x10000), s)
  else if r = 0x10 ∨ r = 0x20 ∨ r = 0x24 then codeRead (0x800000 + r) s
  else if 0x40 ≤ r ∧ r < 0x140 then (ctlRead s (8 * n + (r - 0x40) / 0x20) ((r - 0x40) % 0x20), s)
  else if 0x200 ≤ r ∧ r < 0x280 then (ctlRead s (8 * n + (r - 0x200) / 0x10) (0x200 + r % 0x10), s)
  else codeRead o s

/-- AUD and CAL registers (18_audio_path.md R661, R668, R670; 20_live_calibration.md R748). -/
def audRead (a : Agent) (o : Nat) (s : State) : Word × State :=
  if 0xB0100 ≤ o ∧ o < 0xB0500 then
    let c := (o - 0xB0100) / 0x40
    if o % 0x40 = 0x10 then rposRead a c s
    else if o % 0x40 = 0x14 then (capturedTime a c false s, s)
    else if o % 0x40 = 0x18 then (capturedTime a c true s, s)
    else codeRead o s
  else if 0xB0600 ≤ o ∧ o < 0xB0800 then
    let k := (o - 0xB0600) / 0x20
    if o % 0x20 = 8 then capWposRead a k s
    else if o % 0x20 = 0xC then (capturedTime a (16 + k) false s, s)
    else if o % 0x20 = 0x10 then (capturedTime a (16 + k) true s, s)
    else codeRead o s
  else if 0xB0800 ≤ o ∧ o < 0xB0880 ∧ o % 0x10 = 8 then talkNext ((o - 0xB0800) / 0x10) s
  else codeRead o s

/-- PWS registers: the fault inputs and gate pads of PWS_CH_STAT are live ball levels, which are the board's
(19_power_stage_protection.md R715, R735). -/
def pwsRead (o : Nat) (s : State) : Word × State :=
  if 0xA0100 ≤ o ∧ o < 0xA0300 ∧ o % 0x20 = 4 then
    let (w, s) := codeRead o s
    let (v, s) := s.draw 28
    (w &&& ~~~0xF70#32 ||| BitVec.ofNat 32 v &&& 0xF70#32, s)
  else codeRead o s

def calRead (a : Agent) (o : Nat) (s : State) : Word × State :=
  if 0x90100 ≤ o ∧ o < 0x90500 then
    let c := (o - 0x90100) / 0x40
    let r := o % 0x40
    if r = 0 then calSeqRead a c s
    else if 4 ≤ r ∧ r ≤ 0x14 then (calResultRead s a c (r / 4 - 1), s)
    else codeRead o (calOtherAccess a c s)
  else codeRead o s

/-- DGN and CAN registers (25_diagnostics_service.md R876, R882, R898, R899). CAN_STAT.TXDOM is the live level of the pad (R878), which is
the board's too. -/
def dgnRead (o : Nat) (s : State) : Word × State :=
  if o = R.DGN_UNLK_LEFT then (unlockLeft s, s)
  else if o = R.DGN_SNAP_STAT then (BitVec.ofNat 32 s.dgn.snaps.length, s)
  else if 0xF0140 ≤ o ∧ o < 0xF0180 then (snapHead s ((o - 0xF0140) / 4), s)
  else if 0xF1000 ≤ o ∧ o < 0xF3000 ∧ 0x200 ≤ o % 0x1000 ∧ o % 0x1000 < 0x250 then
    (rxHead s ((o - 0xF1000) / 0x1000) ((o % 0x1000 - 0x200) / 4), s)
  else if o = R.CAN_STAT 0 ∨ o = R.CAN_STAT 1 then
    let (w, s) := codeRead o s
    let (v, s) := s.draw 30
    (wset w 2 1 v, s)
  else codeRead o s

/-- HIF registers (16_host_interface_rings.md R628). -/
def hifRead (o : Nat) (s : State) : Word × State :=
  if o = R.HIF_INFL then (inflWord s, s)
  else if 0xD1000 ≤ o ∧ o < 0xD2000 then ((s.qp ((o - 0xD1000) / 4)).stat, s)
  else codeRead o s

/-- PRT registers, and the tables inside PRT (08_ports_and_tsn.md R322, R325). -/
def prtRead (o : Nat) (s : State) : Word × State :=
  if 0x110000 ≤ o ∧ o < 0x1A0000 ∧ o % 0x10000 = 0x18 then txtsRead ((o - 0x110000) / 0x10000) s
  else if (prtTableMask o).isSome then
    let s := if 0x1E8000 ≤ o ∧ o < 0x1EFE00 then sgateNow ((o - 0x1E8000) / 0x200) s else s
    (s.rd o, s)
  else codeRead o s

/-- What a read by an agent of the register at an offset returns and does; the block answers, and no split pair is involved. -/
def regRead (a : Agent) (o : Nat) (s : State) : Word × State :=
  if o < 0x10000 then codeRead o s
  else if o < 0x20000 then
    (if o = R.SUP_VBAT_MIN then (s.rd o, s.wr o 0xFFFF) else codeRead o s)
  else if o < 0x30000 then clkRead o s
  else if o < 0x40000 then evtRead o s
  else if o < 0x50000 then codeRead o s
  else if o < 0x60000 then
    let (w, s) := codeRead o s
    (if o = R.JRN_STAT then wset w 1 1 (b2n (jrnEarly s)) else w, s)
  else if o < 0x70000 then (if o = R.IST_RES then istResRead s else codeRead o s)
  else if o < 0x80000 then
    let (w, s) := codeRead o s
    (if o = R.PLY_STAT then wset w 2 1 (s.get R.PWS_STAT_OWNER) else w, s)
  else if o < 0x90000 then codeRead o s
  else if o < 0xA0000 then calRead a o s
  else if o < 0xB0000 then pwsRead o s
  else if o < 0xC0000 then audRead a o s
  else if o < 0xD0000 then codeRead o s
  else if o < 0xE0000 then hifRead o s
  else if o < 0x100000 then dgnRead o s
  else if o < 0x200000 then prtRead o s
  else if o < 0x300000 then
    (if 0x210000 ≤ o ∧ o < 0x250000 then
      (if o % 0x100 < 0x90 then BitVec.ofNat 32 (leNat (tblBytes s ((o - 0x210000) / 0x100 * 144 + o % 0x100) 4)) else 0, s)
    else codeRead o s)
  else if o < 0x400000 then (if o = R.FWD_EVT then evtPop s else codeRead o s)
  else if o < 0x420000 then poolRead a o s
  else if o < 0x430000 then dstRead o s
  else if 0x800000 ≤ o ∧ o < 0xE00000 then whlRead o s
  else codeRead o s

/-- What a read by an agent of an offset outside the panels returns and does. -/
def blockRead (a : Agent) (o : Nat) (s : State) : Word × State :=
  match pairOf o with
  | some lo => pairRead a lo (decide (o ≠ lo)) (regRead a) s
  | none => regRead a o s

/-- A read of any BAR0 offset by an agent: its response is in `resp`, unless a panel's customer logic has yet to give it
(07_marquetry_fabric.md R257, R260). -/
def busRead (a : Agent) (o : Nat) (s : State) : Out :=
  let o := o / 4 * 4
  if 0x1000000 ≤ o ∧ o < 0x1800000 then
    let p := (o - 0x1000000) / 0x100000
    if !decodes a s then stay s
    else if !s.bar0 then .next (respond (agentId a) 0 s)
    else if weftHeld a o s then .next (weftWait ⟨a, false, o, 0⟩ s)
    else if isHost a && sideRead o && s.follower then .next (respond (agentId a) 0 (s.bump R.PLY_CNT_FOLWR))
    else
      match panelRequest p ⟨a, false, o % 0x100000, 0⟩ s with
      | .next s => .next (if isHost a && sideRead o then logAnswer 0x200 3 (mget (fun _ => 0) s.resp 0x200) s else s)
      | r => r
  else readRow a o (blockRead a o) s

/-! Writes. -/

/-- SYS and VNR writes (04_staged_start.md R163, 05_power_states.md R190, 06_veneer_image.md R235). -/
def sysWrite (a : Agent) (o : Nat) (v : Word) (s : State) : Out :=
  if o = R.SYS_STAGE_CMD then .next (stageCmdWrite a v s)
  else if o = R.SYS_UNCLAMP then .next (unclampWrite a (wget v 0 2) s)
  else if o = R.SYS_PSTATE_CMD then .next (powerWrite a (wget v 0 3) (wget v 24 8) (v.getLsbD 4) s)
  else codeWrite o v s

def vnrWrite (a : Agent) (o : Nat) (v : Word) (s : State) : Out :=
  if o = R.VNR_ROLL_CMD then .next (rollWrite a v s)
  else if o = R.VNR_PATCH_CMD then .next (patchWrite a v s)
  else if o = R.VNR_KEYPROG_CMD then .next (keyprogWrite a v s)
  else if 0x40200 ≤ o ∧ o < 0x40220 then .next (if s.fuses.key ≠ 0 then s else s.wr o v)
  else if 0x41000 ≤ o ∧ o < 0x42000 then .next (pushWrite a v s)
  else codeWrite o v s

/-- JRN writes (24_journal_memory.md R856, R870). -/
def jrnRegWrite (a : Agent) (o : Nat) (v : Word) (s : State) : Out :=
  if o = R.JRN_WCMD then .next (jrnWrite a v s)
  else if o = R.JRN_RCMD then .next (if v.getLsbD 3 then jrnReadSlot v s else jrnReadRecord v s)
  else if o = R.JRN_SUNLK then .next (sunlkWrite a v s)
  else if 0x50200 ≤ o ∧ o < 0x503E8 then
    (if s.flag R.JRN_WSTAT_BUSY then .next (s.set R.JRN_WSTAT_LOST 1) else codeWrite o v s)
  else codeWrite o v s

/-- CAL writes (20_live_calibration.md R749, R755, R758). -/
def calWrite (a : Agent) (o : Nat) (v : Word) (s : State) : Out :=
  if o = R.CAL_CTL then .next (calCtlWrite v s)
  else if o = R.CAL_TRIM then .next (trimWrite a v s)
  else if 0x90100 ≤ o ∧ o < 0x90500 then
    let c := (o - 0x90100) / 0x40
    let s := calOtherAccess a c s
    if o % 0x40 = 0x18 then .next (ofsWrite a c v s) else codeWrite o v s
  else codeWrite o v s

/-- PWS writes (19_power_stage_protection.md R708, R712, R722). Whether a channel's fault inputs are low at a write of PWS_CLR is the
board's: a free value here, an operand of LATCH_CLEAR. -/
def pwsWrite (o : Nat) (v : Word) (s : State) : Out :=
  if o = R.PWS_CLR then
    let (q, s) := s.draw 23
    .next (latchClear v q s)
  else if 0xA0100 ≤ o ∧ o < 0xA0300 ∧ o % 0x20 = 0 then
    match codeWrite o v s with
    | .next s => .next (showDt ((o - 0xA0100) / 0x20) s)
    | r => r
  else codeWrite o v s

/-- A write of AUD_CAP_CFG or AUD_TALK_CFG: setting EN starts the ring or the context (18_audio_path.md R668, R669). -/
def capCfgWrite (k : Nat) (v : Word) (s : State) : Out :=
  let was := s.flag (R.AUD_CAP_CFG_EN k)
  match codeWrite (R.AUD_CAP_CFG k) v s with
  | .next s => .next (if v.getLsbD 31 && !was then capStart k s else s)
  | r => r

def talkCfgWrite (k : Nat) (v : Word) (s : State) : Out :=
  let was := s.flag (R.AUD_TALK_CFG_EN k)
  match codeWrite (R.AUD_TALK_CFG k) v s with
  | .next s =>
    if v.getLsbD 31 && !was then (if talkOneRate s k then .next (talkStart k s) else .next (unpredBlock (R.AUD_TALK_CFG k) s)) else .next s
  | r => r

/-- AUD writes (18_audio_path.md R652 to R675, R680, R943). -/
def audWrite (o : Nat) (v : Word) (s : State) : Out :=
  if o = R.AUD_MOD then .next (audModWrite v s)
  else if o = R.AUD_DPLL_CFG then
    match codeWrite o v s with
    | .next s => .next (srcCheck s)
    | r => r
  else if o = R.AUD_DPLL_CRF then .next (if audRuns s then crfTimestamp v s else s)
  else if 0xB0500 ≤ o ∧ o < 0xB0580 then .next (lwCfgWrite ((o - 0xB0500) / 4) v s)
  else if 0xB0580 ≤ o ∧ o < 0xB0600 then .next (listenerSeen ((o - 0xB0580) / 4) s)
  else if 0xB0100 ≤ o ∧ o < 0xB0500 then
    let c := (o - 0xB0100) / 0x40
    if o % 0x40 = 0 then .next (chEnable c (v.getLsbD 0) s)
    else if o % 0x40 = 4 then (if wget v 0 2 = 3 then .next (unpredBlock o s) else .next (chCfgWrite c v s))
    else if o % 0x40 = 8 then .next (chBaseWrite c v s)
    else if o % 0x40 = 0xC then .next (wposWrite c v s)
    else if o % 0x40 = 0x10 then .next (rposWrite c v s)
    else codeWrite o v s
  else if 0xB0600 ≤ o ∧ o < 0xB0800 ∧ o % 0x20 = 0 then capCfgWrite ((o - 0xB0600) / 0x20) v s
  else if 0xB0800 ≤ o ∧ o < 0xB0880 ∧ o % 0x10 = 0 then talkCfgWrite ((o - 0xB0800) / 0x10) v s
  else if 0xB0C00 ≤ o ∧ o < 0xB0C80 ∧ o % 0x20 = 0 then .next (tdmCfgWrite ((o - 0xB0C00) / 0x20) v s)
  else codeWrite o v s

/-- HIF writes (16_host_interface_rings.md R595, R601, R619, R626). -/
def hifWrite (a : Agent) (o : Nat) (v : Word) (s : State) : Out :=
  if o = R.HIF_AQ_CFG then aqCfgWrite v s
  else if o = R.HIF_XSPI_CTL then xspiCtlWrite a v s
  else if 0xD2000 ≤ o ∧ o < 0xD4000 then
    (if o % 8 = 0 then sqDoorbell a ((o - 0xD2000) / 8) v s else cqDoorbell a ((o - 0xD2000) / 8) v s)
  else codeWrite o v s

/-- DGN and CAN writes (25_diagnostics_service.md R872 to R891). A write of CAN_TXABORT through the bus finds no frame that has
started; CAN_TX_ABORT names one. -/
def canWrite (a : Agent) (o : Nat) (v : Word) (s : State) : Out :=
  let n := (o - 0xF1000) / 0x1000
  let r := o % 0x1000
  if r = 0 then .next (canCtlWrite a n v s)
  else if 4 ≤ r ∧ r ≤ 0xC then canTimeWrite a n o v s
  else if r = 0x14 then .next (txReq a n v s)
  else if r = 0x1C then .next (txAbort a n v 16 s)
  else if r = 0x28 then .next (rxPop a n s)
  else if 0x400 ≤ r ∧ r < 0x880 then txBufWrite a n ((r - 0x400) / 0x48) o v s
  else if canActs a then codeWrite o v s
  else .next s

def dgnWrite (a : Agent) (o : Nat) (v : Word) (s : State) : Out :=
  if o = R.DGN_LC_CMD then .next (lcWrite a v s)
  else if o = R.DGN_FPROG_CMD then .next (fprogWrite a v s)
  else if o = R.DGN_UNLK_CMD then .next (unlkWrite a v s)
  else if o = R.DGN_SNAP_POP then .next (snapPop s)
  else if 0xF1000 ≤ o ∧ o < 0xF3000 then canWrite a o v s
  else codeWrite o v s

/-- Writes into the tables inside PRT (08_ports_and_tsn.md R302, R318, R319, R322). -/
def prtTableWrite (o : Nat) (v : Word) (s : State) : Out :=
  if o < 0x1B0000 then .next (s.wr o v)
  else if o < 0x1C0000 then .next (filterWrite ((o - 0x1B0000) / 8) (o % 8 / 4) v s)
  else if o < 0x1D0000 then .next (recovWrite ((o - 0x1C0000) / 8) (o % 8 / 4) v s)
  else if o < 0x1E0000 then .next (s.wr o v)
  else if o < 0x1E8000 then .next (meterWrite ((o - 0x1E0000) / 32) (o % 32 / 4) v s)
  else
    let r := o % 0x200
    if r = 0xC then .next (sgateCtlWrite ((o - 0x1E8000) / 0x200) v s)
    else if r = 8 then .next (s.wr o (BitVec.ofNat 32 (clampNat 1000 1000000000 v.toNat)))
    else if 0x20 ≤ r ∧ r < 0xA0 then .next (s.wr o v)
    else .next s

/-- PRT writes (08_ports_and_tsn.md R290 to R325). -/
def prtWrite (o : Nat) (v : Word) (s : State) : Out :=
  let p := (o - 0x110000) / 0x10000
  let r := o % 0x10000
  if (prtTableMask o).isSome then prtTableWrite o v s
  else if o = R.PRT_MDIO_CMD then
    (if !mdioBusy s && decide (wget v 0 3 = 2 ∨ wget v 0 3 = 3) then .next (unpredBlock o s) else .next (mdioCmd v s))
  else if o < 0x110000 then codeWrite o v s
  else if r = 0 then .next (prtCfgWrite p v s)
  else if r = 8 then (if wget v 16 2 = 3 then .next (unpredBlock o s) else codeWrite o v s)
  else if 0x40 ≤ r ∧ r ≤ 0xA0 then codeWrite o v (creditNow p s)
  else if o = R.PRT_PLCA_CTL portT0 then
    match codeWrite o v s with
    | .next s => .next (plcaShow s)
    | r => r
  else if r = 0x100 then
    (if v.getLsbD 1 && tasReserved s p then .next (unpredBlock o s) else .next (tasCtlWrite p v s))
  else if r = 0x200 ∧ p < 2 then .next (fpCtlWrite p v s)
  else if 0x1000 ≤ r ∧ r < 0x1800 ∧ r % 8 = 0 ∧ wget v 8 3 ≥ 3 then .next (unpredBlock o s)
  else codeWrite o v s

/-- PRS and FWD writes (09_parser_classifier.md R353 to R357; 15_forwarding_learning.md R553, R564, R567). -/
def prsWrite (o : Nat) (v : Word) (s : State) : Out :=
  if o = R.PRS_RCMD then
    (if !ruleBusy s && decide (wget v 12 2 = 1) && ruleReserved (prsStage s) then .next (unpredBlock o s) else .next (rcmdWrite v s))
  else if 0x201000 ≤ o ∧ o < 0x201090 then (if ruleBusy s then .next (ruleLost s) else codeWrite o v s)
  else if 0x200040 ≤ o ∧ o < 0x200080 ∧ wget v 16 2 = 3 ∧ (regSpec o).isSome then .next (unpredBlock o s)
  else codeWrite o v s

def fwdRegWrite (o : Nat) (v : Word) (s : State) : Out :=
  if o = R.FWD_CMD then .next (fwdCmdWrite (wget v 0 3) s)
  else if o = R.FWD_LRN_POP then .next (learnPop s)
  else if o = R.FWD_LRN_RATE then codeWrite o v (lrnSettle s)
  else if (o = R.FWD_ADDR ∨ (0x304000 ≤ o ∧ o < 0x304040)) ∧ s.flag R.FWD_CSTAT_BUSY then .next (s.set R.FWD_CSTAT_LOST 1)
  else codeWrite o v s

/-- BPM and LCK writes (10_buffers_and_locks.md R386, R391). -/
def poolWrite (a : Agent) (o : Nat) (v : Word) (s : State) : Out :=
  if 0x410000 ≤ o ∧ o < 0x410800 then .next (lockWrite ((o - 0x410000) / 4) (agentId a) s)
  else if 0x400200 ≤ o ∧ o < 0x400240 then
    match codeWrite o v s with
    | .next s => .next (poolLevels ((o - 0x400200) / 8) s)
    | r => r
  else codeWrite o v s

/-- DST writes (11_distaff_and_yarns.md R418, R438 to R445). -/
def dstWrite (o : Nat) (v : Word) (s : State) : Out :=
  if o = R.DST_TRC_RIDX then .next (traceSelect v s)
  else if o = R.DST_TRC_CTL then .next (traceCtlWrite v s)
  else if 0x424000 ≤ o ∧ o < 0x428000 then .next (ycfgWrite ((o - 0x424000) / 4) v s)
  else codeWrite o v s

/-- WHL writes (12_whorl_cores_threads.md R453, R455, R458, R463, R468, R469). -/
def whlWrite (a : Agent) (o : Nat) (v : Word) (s : State) : Out :=
  let n := (o - 0x800000) / 0x20000
  let r := (o - 0x800000) % 0x20000
  if r ≥ 0x10000 then lmWindowWrite a n (r - 0x10000) v s
  else if r = 0x20 ∨ r = 0x24 then codeWrite (0x800000 + r) v s
  else if 0x40 ≤ r ∧ r < 0x140 then
    let tid := 8 * n + (r - 0x40) / 0x20
    let q := (r - 0x40) % 0x20
    if q = 0 then .next (tctlWrite a tid v s)
    else if q = 0x1C then .next (raiseEvent tid 6 s)
    else .next (ctlWrite a tid q v s)
  else if 0x200 ≤ r ∧ r < 0x280 then .next (ctlWrite a (8 * n + (r - 0x200) / 0x10) (0x200 + r % 0x10) v s)
  else codeWrite o v s

/-- EVT and CLK writes (17_notices_interrupts.md R636, R638; 03_islands_and_weft.md R104, R105). -/
def evtWrite (o : Nat) (v : Word) (s : State) : Out :=
  if o = R.EVT_SWRAISE then swRaise v s
  else if 0x30400 ≤ o ∧ o < 0x30580 then routeWrite ((o - 0x30400) / 4) v s
  else codeWrite o v s

def clkWrite (o : Nat) (v : Word) (s : State) : Out :=
  if o = R.CLK_TRATE then .next (rateWrite v s)
  else if o = R.CLK_TSLEW then .next (slewWrite v s)
  else codeWrite o v s

/-- THM writes (21_thermal_fans.md R763, R770). -/
def thmWrite (a : Agent) (o : Nat) (v : Word) (s : State) : Out :=
  if o = R.THM_SBUS_CMD then .next (sbusCmd a v s)
  else if 0x80100 ≤ o ∧ o < 0x801C0 ∧ o % 0x10 = 0 then .next (zcfgWrite ((o - 0x80100) / 0x10) v s)
  else codeWrite o v s

/-- The effect of a write on the register at an offset outside the panels; no half of a writable pair. -/
def regWrite (a : Agent) (o : Nat) (v : Word) (s : State) : Out :=
  if o < 0x10000 then sysWrite a o v s
  else if o < 0x20000 then codeWrite o v s
  else if o < 0x30000 then clkWrite o v s
  else if o < 0x40000 then evtWrite o v s
  else if o < 0x50000 then vnrWrite a o v s
  else if o < 0x60000 then jrnRegWrite a o v s
  else if o < 0x70000 then (if o = R.IST_REQ then .next (istReqWrite a v s) else codeWrite o v s)
  else if o < 0x80000 then (if o = R.PLY_CMD then .next (plyCmdWrite v s) else codeWrite o v s)
  else if o < 0x90000 then thmWrite a o v s
  else if o < 0xA0000 then calWrite a o v s
  else if o < 0xB0000 then pwsWrite o v s
  else if o < 0xC0000 then audWrite o v s
  else if o < 0xD0000 then codeWrite o v s
  else if o < 0xE0000 then hifWrite a o v s
  else if o < 0x100000 then dgnWrite a o v s
  else if o < 0x200000 then prtWrite o v s
  else if o < 0x300000 then prsWrite o v s
  else if o < 0x400000 then fwdRegWrite o v s
  else if o < 0x420000 then poolWrite a o v s
  else if o < 0x430000 then dstWrite o v s
  else if 0x800000 ≤ o ∧ o < 0xE00000 then whlWrite a o v s
  else codeWrite o v s

/-- Writes to the staged byte enables are ignored while a table command is in progress (15_forwarding_learning.md R567). -/
def pairBusy (lo : Nat) (s : State) : Bool := decide (lo = R.FWD_STAGE_BE_LO) && s.flag R.FWD_CSTAT_BUSY

/-- Writes to the admin queue pair's bases are ignored while it is enabled (16_host_interface_rings.md R628). -/
def pairFixed (lo : Nat) (s : State) : Bool :=
  decide (lo = R.HIF_AQ_SQBASE_LO ∨ lo = R.HIF_AQ_CQBASE_LO) && s.flag R.HIF_AQ_CFG_EN

/-- A writable pair takes both halves (R16). -/
def pairCommit (lo : Nat) (l h : Word) (s : State) : State :=
  if lo = R.CLK_TSTEP_LO then timeStep l h s
  else if lo = R.DST_YMASK_LO then ymaskWrite l h s
  else (s.wr lo l).wr (lo + 4) h

/-- The effect of a write by an agent at an offset outside the panels. -/
def blockWrite (a : Agent) (o : Nat) (v : Word) (s : State) : Out :=
  match pairOf o with
  | none => regWrite a o v s
  | some lo =>
    if !pairRw lo || pairFixed lo s then .next (setCap a lo none s)
    else if pairBusy lo s then .next (setCap a lo none (s.set R.FWD_CSTAT_LOST 1))
    else if o = lo then .next (setHeld a lo (some v) (setCap a lo none s))
    else .next (pairWrite a lo (if lo = R.DST_YMASK_LO then ymaskLo s else s.rd lo) (fun l => pairCommit lo l v) s)

/-- The effect of a write by an agent at any offset. -/
def anyWrite (a : Agent) (o : Nat) (v : Word) (s : State) : Out :=
  if 0x1000000 ≤ o ∧ o < 0x1800000 then panelRequest ((o - 0x1000000) / 0x100000) ⟨a, true, o % 0x100000, v⟩ s
  else blockWrite a o v s

/-- A write of a word to any BAR0 offset by an agent. -/
def busWrite (a : Agent) (o : Nat) (v : Word) (s : State) : Out :=
  let o := o / 4 * 4
  if 0x1000000 ≤ o ∧ o < 0x1800000 ∧ (s.panel ((o - 0x1000000) / 0x100000)).stall then
    (if !decodes a s || !s.bar0 then stay s
    else if weftHeld a o s then .next (weftWait ⟨a, true, o, v⟩ s)
    else if isHost a && decide (s.role ≥ 2) then .next (mirrorAcc (.write o 15 v) s)
    else anyWrite a o v s)
  else access a o v (anyWrite a o v) s

/-- A mirrored register write, at the epoch boundary at which both strands apply it (22_ply_pair.md R806). -/
def mirrorWrite (o : Nat) (v : Word) (s : State) : Out :=
  if !s.bar0 || !blockUp s o then stay s else blockAct .host o v (anyWrite .host o v) s

/-! The rows (00_scope.md). -/

/-- A write with byte enables: a narrow or unaligned one is ignored (R13; 13_whorl_isa_model.md R485). -/
def wordWrite (a : Agent) (off be : Nat) (v : Word) (s : State) : Out :=
  if be ≠ 15 ∨ off % 4 ≠ 0 then stay s else busWrite a off v s

/-- One access after another. -/
def andThen (r : Out) (k : State → Out) : Out :=
  match r with
  | .next s => k s
  | r => r

/-- REGISTER_WRITE; `next` is the second register of a host transaction that covers two, with its byte enables and data: two 32-bit
writes, the lower address first (R14). -/
def execRegisterWrite (a : Agent) (off be : Nat) (v : Word) (s : State) (next : Option (Nat × Word) := none) : Out :=
  match next with
  | none => wordWrite a off be v s
  | some (be', v') => if isHost a then andThen (wordWrite a off be v s) (wordWrite a (off + 4) be' v') else stay s

/-- A host read that covers two adjacent registers: two 32-bit reads, the lower address first; the bytes stand in `hif.rdata` (R14). -/
def wideRead (off : Nat) (s : State) : Out :=
  andThen (busRead .host off s) fun s =>
    let lo := mget (fun _ => 0) s.resp (agentId .host)
    andThen (busRead .host (off + 4) s) fun s =>
      .next { s with hif.rdata := leBytes 4 lo.toNat ++ leBytes 4 (mget (fun _ => 0) s.resp (agentId .host)).toNat }

/-- A read of one register, or `wide` of the host, of two. -/
def spanRead (a : Agent) (off : Nat) (wide : Bool) (s : State) : Out :=
  if !wide then busRead a off s else if isHost a then wideRead off s else stay s

/-- SPLIT_LO_READ; `wide`: with the high half in the same transaction. -/
def execSplitLoRead (a : Agent) (off : Nat) (s : State) (wide : Bool := false) : Out :=
  if !pairLo off && !decide (0x1000000 ≤ off ∧ off < 0x1800000 ∧ (off % 0x100000 = 0x10 ∨ off % 0x100000 = 0x18)) then stay s
  else spanRead a off wide s

/-- SPLIT_LO_WRITE. -/
def execSplitLoWrite (a : Agent) (off be : Nat) (v : Word) (s : State) : Out :=
  if be ≠ 15 ∨ !pairLo off || !pairRw off then stay s else busWrite a off v s

/-- SPLIT_HI_WRITE. -/
def execSplitHiWrite (a : Agent) (off be : Nat) (v : Word) (s : State) : Out :=
  if be ≠ 15 ∨ off < 4 ∨ off % 4 ≠ 0 ∨ !pairLo (off - 4) || !pairRw (off - 4) then stay s else busWrite a off v s

/-- Where the word of an offset is kept: WHL_NSTAT is one register that every core's window shows (12_whorl_cores_threads.md, WHL registers). -/
def sharedOff (o : Nat) : Nat :=
  if 0x800000 ≤ o ∧ o < 0xE00000 ∧ (o - 0x800000) % 0x20000 = 0x20 then 0x800020 else o

/-- RC registers that show the state of a queue, a counter or the sticky bits and hold no word of their own: an event that coincides
with the read is a command of its own and comes after it. -/
def rcShown (o : Nat) : Bool :=
  decide (0x110000 ≤ o ∧ o < 0x1A0000 ∧ o % 0x10000 = 0x18) || decide (0x30100 ≤ o ∧ o < 0x30280) || decide (0xB0800 ≤ o ∧ o < 0xB0880)
    || [R.FWD_EVT, R.SUP_VBAT_MIN, R.IST_RES].contains o

/-- RC_READ: `ev` is what events in the same cycle put into the RC field: the next read returns it (R20); `wide`: with the register
after it in the same transaction (R14, R19). -/
def execRcRead (a : Agent) (off : Nat) (ev : Word) (s : State) (wide : Bool := false) : Out :=
  match regSpec off with
  | none => stay s
  | some t =>
    if t.rc = 0 then stay s
    else
      match spanRead a off wide s with
      | .next s => .next (if s.bar0 && blockUp s off && !rcShown off then s.wr off (s.rd off ||| (ev &&& maskN t.rc)) else s)
      | r => r

/-- W1C_WRITE: bits that events of the same cycle set stay set (R22). -/
def execW1cWrite (a : Agent) (off be : Nat) (v ev : Word) (s : State) : Out :=
  match regSpec off with
  | none => stay s
  | some t =>
    if be ≠ 15 ∨ t.w1c = 0 then stay s
    else
      match busWrite a off v s with
      | .next s => .next (if s.bar0 && blockUp s off then s.wr (sharedOff off) (s.rd (sharedOff off) ||| (ev &&& maskN t.w1c)) else s)
      | r => r

/-- DEBUG_ACCESS: an Update-DR with GO while DBGACC is current; with debug access closed it sets ERR (25_diagnostics_service.md R896). -/
def execDebugAccess (write : Bool) (addr : Nat) (v : Word) (s : State) : Out :=
  if !tapRuns s || decide (s.tap.ir ≠ 0x20) then stay s
  else if s.sys.resetting || !s.flag R.DGN_STAT_DBGOPEN then .next (debugClosed s)
  else
    match (if write then busWrite .debug (addr % 2 ^ 26) v s else busRead .debug (addr % 2 ^ 26) s) with
    | .next s =>
      let d := if write then s.tap.data else mget (fun _ => 0) s.resp 0x210
      let s := { s with tap := { s.tap with data := d, done := true, err := false } }
      .next { s with tap.cap := debugCapture s }
    | r => r

end Sys2Proof.Machine
end

