-- ==== Sys2Proof/Machine/Bar2.lean ====
section
/-!
DEFINITION. Packet memory as hosts, the debug port and Whorl loads see it (01_device_overview.md R40, 02_guarantees.md R54; 06_veneer_image.md
R218; 10_buffers_and_locks.md R370 to R374), and the QSPI host port (16_host_interface_rings.md R585 to R589).
-/
namespace Sys2Proof.Machine

/-- Packet memory answers: Stage 2 has been entered and every bank has power (R40). -/
def pktOpen (s : State) : Bool := s.bar0 && stage2Entered s && (List.range 8).all fun b => s.powered (islPKM b)

/-- The pool whose tag array holds an offset. -/
def tagPool (s : State) (o : Nat) : Option Nat :=
  (List.range 8).find? fun i => decide (s.get (R.BPM_POOL_TAGS_OFS i) ≤ o ∧ o < s.get (R.BPM_POOL_TAGS_OFS i) + poolCount s i)

/-- The bytes of a pool's free store (R370). -/
def storeLen (s : State) (i : Nat) : Nat := if poolBitmap s i then (poolCount s i + 63) / 64 * 8 else 4 * poolCount s i

/-- The pool whose free store holds an offset. -/
def storePool (s : State) (o : Nat) : Option Nat :=
  (List.range 8).find? fun i => decide (s.get (R.BPM_POOL_FSTORE_OFS i) ≤ o ∧ o < s.get (R.BPM_POOL_FSTORE_OFS i) + storeLen s i)

/-- A byte of packet memory: a tag (R374), a byte of a bitmap, whose bit b is 1 while buffer b is free (R372), a byte of a ring,
whose order is not stated (assumption 12), or a stored byte. -/
def pktByte (o : Nat) (s : State) : Byte × State :=
  match tagPool s o with
  | some i => (BitVec.ofNat 8 (tagOf s (bufKey i (o - s.get (R.BPM_POOL_TAGS_OFS i)))), s)
  | none =>
    match storePool s o with
    | none => (s.pkt.rd o, s)
    | some i =>
      if poolBitmap s i then
        let b := 8 * (o - s.get (R.BPM_POOL_FSTORE_OFS i))
        (BitVec.ofNat 8 ((List.range 8).foldl
          (fun a j => a + b2n (decide (b + j < poolCount s i) && decide (tagOf s (bufKey i (b + j)) = 0x40)) * 2 ^ j) 0), s)
      else
        let (f, s) := s.draw 1
        (BitVec.ofNat 8 f, s)

/-- `n` bytes of packet memory from an offset upward, modulo 16 MiB. -/
def pktView : Nat → Nat → State → List Byte × State
  | _, 0, s => ([], s)
  | o, n + 1, s =>
    let (b, s) := pktByte (o % 2 ^ 24) s
    let (bs, s) := pktView (o + 1) n s
    (b :: bs, s)

/-- A read by the host through BAR2: zeros while packet memory does not answer (R40). -/
def bar2Read (o n : Nat) (s : State) : List Byte × State :=
  if pktOpen s then pktView o n s else (List.replicate n 0, s)

/-- The host must leave the byte alone: it lies in a buffer of another owner, or in a pool's free store or tags (R54). -/
def foreignByte (s : State) (o : Nat) : Bool :=
  (tagPool s o).isSome || (storePool s o).isSome ||
    match bufferAt s o with
    | some k => decide (tagOf s k ≠ 0x40) && !isHostOwner (tagOf s k)
    | none => false

/-- The effect of a BAR2 write: the frame reserve ignores it (R218). -/
def bar2Store (o : Nat) (bs : List Byte) (s : State) : Out :=
  let o := o % 2 ^ 24
  let bs := bs.take (0xD00000 - o)
  if !pktOpen s then stay s
  else if (List.range bs.length).any fun j => foreignByte s (o + j) then .next (unpredDevice s)
  else .next (s.setPkt (s.pkt.wrBytes o bs))

/-- A BAR2 write by the host: mirrored in a joined pair (22_ply_pair.md R805). -/
def bar2Write (o : Nat) (bs : List Byte) (s : State) : Out :=
  if !decodes .host s || !pktOpen s then stay s
  else if s.role ≥ 2 then .next (mirrorAcc (.bar2 o bs) s)
  else bar2Store o bs s

/-- HOST_BAR2_WRITE, by the host, or over the weft by a panel's logic, which reaches what the weft reaches (07_marquetry_fabric.md R263);
wrong logic writes where its panel has it write (assumption 149). -/
def execHostBar2Write (off : Nat) (data : List Byte) (s : State) (a : Agent := .host) : Out :=
  match a with
  | .host => bar2Write off data s
  | .panel _ _ =>
    if !decodes a s || !pktOpen s then stay s
    else .next (s.setPkt (s.pkt.wrBytes (off % 2 ^ 24) (data.take (0xD00000 - off % 2 ^ 24))))
  | _ => stay s

/-- HOST_BAR2_READ: the bytes stand in `hif.rdata`; a panel's logic gets the first four. -/
def execHostBar2Read (off len : Nat) (s : State) (a : Agent := .host) : Out :=
  if !decodes a s || s.sys.resetting then stay s
  else
    match a with
    | .host =>
      let (bs, s) := bar2Read off len s
      .next { s with hif.rdata := bs }
    | .panel p k =>
      let (bs, s) := bar2Read off 4 s
      .next (s.setPanel p { s.panel p with rsp := mput (fun _ => none) (s.panel p).rsp k (some (BitVec.ofNat 32 (leNat bs), false)) })
    | _ => stay s

/-! QSPI. -/

/-- The port takes transactions: selected, and out of reset (R580). -/
def qspiRuns (s : State) : Bool := s.hostQspi && !s.sys.resetting && s.up islHIF

/-- The host's read has had no response: a panel's customer logic, or a stall, has it, or it waits for HIF. -/
def readOwed (s : State) : Bool := hostOwed s || s.clk.wait.any (isHost ·.agent)

/-- Reads words from consecutive addresses, as far as their blocks have answered (R585, R586). -/
def qspiRead (addr : Nat) : Nat → List Word → State → Out
  | 0, ws, s => .next { (s.emit (.qspi ws)) with hif.qspi := some ⟨false, addr, []⟩ }
  | n + 1, ws, s =>
    let a := addr / 4 * 4
    match a / 2 ^ 28 % 16 with
    | 0 =>
      let o := a % 2 ^ 26
      match busRead .host o s with
      | .next s =>
        if readOwed s then .next { (s.emit (.qspi ws)) with hif.qspi := some ⟨false, addr, []⟩ }
        else qspiRead (addr + 4) n (ws ++ [mget (fun _ => 0) s.resp 0x200]) s
      | r => r
    | 1 =>
      let (bs, s) := bar2Read (a % 2 ^ 24) 4 s
      qspiRead (addr + 4) n (ws ++ [BitVec.ofNat 32 (leNat bs)]) s
    | _ => qspiRead (addr + 4) n (ws ++ [0]) s

/-- QSPI_READ: 1 to 64 words. -/
def execQspiRead (addr n : Nat) (s : State) : Out :=
  if !qspiRuns s || s.hif.qspi.isSome || decide (n = 0 ∨ n > 64) then stay s else qspiRead addr n [] s

/-- One complete word of a WRITE (R587). -/
def qspiWord (addr : Nat) (bs : List Byte) (s : State) : Out :=
  let a := addr / 4 * 4
  match a / 2 ^ 28 % 16 with
  | 0 => busWrite .host (a % 2 ^ 26) (BitVec.ofNat 32 (leNat bs)) s
  | 1 => bar2Write (a % 2 ^ 24) bs s
  | _ => stay s

/-- The words of a WRITE in order; a word received in part is kept until QSPI_CSN rises (R589). -/
def qspiWrite (addr : Nat) : Nat → List Byte → State → Out
  | 0, bs, s => .next { s with hif.qspi := some ⟨true, addr, bs⟩ }
  | n + 1, bs, s =>
    match qspiWord addr (bs.take 4) s with
    | .next s => qspiWrite (addr + 4) n (bs.drop 4) s
    | r => r

/-- QSPI_WRITE: the bytes received after the address, 64 words at most. -/
def execQspiWrite (addr : Nat) (data : List Byte) (s : State) : Out :=
  if !qspiRuns s || s.hif.qspi.isSome || decide (data.length > 256) then stay s
  else qspiWrite addr (data.length / 4) data s

/-- QSPI_ID: one word, SYS_ID. -/
def execQspiId (s : State) : Out :=
  if !qspiRuns s || s.hif.qspi.isSome then stay s
  else .next { (s.emit (.qspi [s.rd R.SYS_ID])) with hif.qspi := some ⟨false, 0, []⟩ }

/-- QSPI_CSN_RISE: the transaction ends; a word received in part is discarded. -/
def execQspiCsnRise (s : State) : Out :=
  if !qspiRuns s then stay s else .next { s with hif.qspi := none }

end Sys2Proof.Machine
end

