-- ==== Sys2Proof/Machine/HostPort.lean ====
section
/-!
DEFINITION. Accesses that wait for an earlier response of HIF, or for an island that stalls, and the rows that end a wait
(03_islands_and_weft.md R90, R939; 07_marquetry_fabric.md R257 to R265, R280).
-/
namespace Sys2Proof.Machine

/-- A thread's write that waited for a stalled block has its acknowledgement on the way. -/
def ackWrite (q : PanelAccess) (s : State) : State :=
  match q.agent with
  | .thread n t =>
    let tid := 8 * n + t
    let x := s.thread tid
    match x.writes.findIdx? fun e => decide (e = (0x20000000 + q.off, ReqWait.atPanel)) with
    | some i => s.setThread tid { x with writes := x.writes.set i (0x20000000 + q.off, .ready) }
    | none => s
  | _ => s

/-- An access whose turn has come: it is made, or goes on waiting. -/
def serveAccess (q : PanelAccess) (s : State) : State :=
  let n := s.clk.wait.length
  match (if q.write then busWrite q.agent q.off q.data s else busRead q.agent q.off s) with
  | .next t => if q.write && decide (t.clk.wait.length = n) then ackWrite q t else t
  | _ => s

/-- The waiting accesses in the order in which they came, as far as responses and stalls allow. -/
def drain (s : State) : State := s.clk.wait.foldl (fun s q => serveAccess q s) { s with clk.wait := [] }

/-- What a row leaves, with the accesses that it lets go on. -/
def drained (r : Out) : Out :=
  match r with
  | .next s => .next (drain s)
  | r => r

/-- PANEL_RESPONSE. -/
def execPanelResponse (p k : Nat) (data : Word) (s : State) : Out := drained (panelResponseAct p k data s)

/-- PANEL_REQUEST_TIMEOUT. -/
def execPanelRequestTimeout (p k : Nat) (s : State) : Out := drained (panelRequestTimeoutAct p k s)

/-- STALL_REQUEST_TIMEOUT. -/
def execStallRequestTimeout (p : Nat) (s : State) : Out := drained (stallRequestTimeoutAct p s)

/-- PLL_LOCK. -/
def execPllLock (k : Nat) (s : State) : Out := drained (pllLockAct k s)

/-- PLL_RELOCK_TIMEOUT. -/
def execPllRelockTimeout (k : Nat) (s : State) : Out := drained (pllRelockTimeoutAct k s)

/-- What passes while no command waits: an edge of every panel's clock, frames that wait for classification, and accesses whose wait has
ended (assumption 1). -/
def idle (s : State) : State := drain (drainFifos (clockPanels s))

end Sys2Proof.Machine
end

