-- ==== Sys2Proof/Machine/PlyCmd.lean ====
section
/-!
DEFINITION. The epoch input log, epoch boundaries, verdicts, joins and partner loss of a Ply pair (22_ply_pair.md R795 to R816,
R818, R819).
-/
namespace Sys2Proof.Machine

/-! Mirrored accesses (R806). -/

/-- A held access takes effect. -/
def applyAcc (acc : HostAcc) (s : State) : Out :=
  match acc with
  | .write o _ v => mirrorWrite o v s
  | .bar2 o bs => bar2Store o bs s
  | .desc q bs => descApply q bs s

/-- Held accesses take effect in order. -/
def applyAccs : List HostAcc → State → Out
  | [], s => .next s
  | a :: as, s =>
    match applyAcc a s with
    | .next s => applyAccs as s
    | r => r

/-- Every held access takes effect. -/
def applyHeld (s : State) : Out := applyAccs s.ply.hostq { s with ply.hostq := [] }

/-! Consumption (R796 to R799). -/

/-- A packet's frame as it stands in its buffer. -/
def pktData (s : State) (k : Pkt) : List Byte := s.pkt.rdBytes (bufAddr s k.handle + k.doff) k.len

/-- A frame that an ADMIT names. -/
def named (len fcs : Nat) (d : List Byte) : Bool := decide (d.length = len) && decide (crc32 d = fcs)

/-- The oldest frame in port p's ingress that an ADMIT names, with its traffic class. -/
def ownFrame (s : State) (p len fcs : Nat) : Option (Nat × Pkt) :=
  let all := (List.range 8).flatMap fun tc =>
    ((admQueue s p tc).filter fun k => named len fcs (pktData s k)).map fun k => (tc, k)
  all.foldl (fun b e =>
    match b with
    | none => some e
    | some x => if e.2.tstamp < x.2.tstamp then some e else some x) none

/-- The LEADER's classification result for a packet (R796; 09_parser_classifier.md R351). -/
def withResult (k : Pkt) (p ts : Nat) (res : List Byte) : Pkt :=
  let w (i : Nat) : Nat := leNat (sliceOf res (4 * i) 4)
  { k with port := p, tstamp := ts, flags := bitsOf (w 0) 0 16, l3off := bitsOf (w 0) 16 8, l4off := bitsOf (w 0) 24 8,
           yarn := bitsOf (w 1) 0 12, cls := bitsOf (w 1) 12 4, tc := bitsOf (w 1) 16 3, qc := if k.qc = k.tc then bitsOf (w 1) 16 3 else k.qc,
           colour := bitsOf (w 1) 19 2, hq := bitsOf (w 2) 16 10, hqen := bitOf (w 2) 26, qrule := bitsOf (w 3) 0 10, qdef := bitOf (w 3) 10,
           vid := bitsOf (w 3) 16 12 }

/-- The SEQ of a classification result. -/
def resultSeq (res : List Byte) : Nat := leNat (sliceOf res 8 2)

/-- The queue pair and entry of the host-submitted frame of a length that comes next. -/
def nextSend (s : State) (len : Nat) : Option (Nat × QEntry) :=
  s.hif.qps.findSome? fun (e : Nat × Qp) =>
    (e.2.out.find? fun x => x.fresh && decide (x.op = 0x10 ∧ x.len = len) && !e.2.kind && decide (e.1 ≠ 0)).map fun x => (e.1, x)

/-- A body that an ADMIT names. -/
def bodyOf (s : State) (len fcs : Nat) : Option (List Byte) := s.ply.bodies.find? (named len fcs)

/-- A buffer for a body, charged as the LEADER's frame was: to the port, or to the host queue group of the entry. -/
def bodyPkt (p len : Nat) (d : List Byte) (s : State) : Option (Pkt × State) :=
  let owner := if p = 9 then 9 + (match nextSend s len with | some e => (s.qp e.1).group | none => 0) else p
  let hdrm := s.get R.BPM_HDRM_PORT
  let (st, h, s) := requestBuf owner (len + hdrm + (if p = 9 then 0 else 4)) (escBit s owner) noLimit s
  if st ≠ 0 then none
  else
    let s := s.setPkt (s.pkt.wrBytes (bufAddr s h + hdrm) d)
    let dflt := if p = 9 then none else some (s.get (R.PRT_VLAN_PVID p), s.get (R.PRT_VLAN_PCP p))
    let r := parseFrame d p dflt
    let (st, s) := if p = 9 then (none, s) else streamOf p (r.ovid.getD 0) d s
    some ({ port := p, handle := h, len := len, doff := hdrm, tstamp := 0, flags := 0, l3off := 0, l4off := 0, yarn := 0, cls := 0,
            tc := 0, qc := 0, colour := 0, hq := 0, hqen := false, qrule := 0, qdef := false, vid := 0, pcp := r.pcp.getD 0, stream := st,
            sub := none },
          { s with ply := { s.ply with bodies := s.ply.bodies.erase d, asked := false } })

/-- The frame of an ADMIT: the FOLLOWER's own copy, or a body (R799). -/
def admitFrame (p len fcs : Nat) (s : State) : Option (Pkt × State) :=
  match (if p = 9 then none else ownFrame s p len fcs) with
  | some (tc, k) => some (k, setAdm p tc ((admQueue s p tc).erase k) s)
  | none => (bodyOf s len fcs).bind fun d => bodyPkt p len d s

/-- The entry of a host-submitted frame is done (16_host_interface_rings.md R613). -/
def admitSend (len yarn seq t : Nat) (s : State) : State :=
  match nextSend s len with
  | some (q, e) => entryDone q e.idx 0 (seq + yarn * 65536) (t % 2 ^ 32) s
  | none => s

/-- An ADMIT record on the FOLLOWER: its own copy is admitted with the LEADER's result and timestamp. None: it waits, for its frame
or at the bounds of R407. -/
def admitRecord (p len fcs : Nat) (res : List Byte) (ts : Nat) (s : State) : Option State :=
  if !s.up islDST || s.halted then none
  else
    let y := (withResult default9 p ts res).yarn
    if inflight s y ≥ yarnLimit s y ∨ s.dst.tasks.length ≥ 8192 then none
    else
      (admitFrame p len fcs s).map fun (k, s) =>
        let k := withResult k p ts res
        match placeCore s y with
        | none => noServ k s
        | some c =>
          let s := admitWith k c (resultSeq res) s
          if p = 9 then admitSend len y (resultSeq res) ts s else s
where
  /-- A packet with nothing known of it. -/
  default9 : Pkt :=
    { port := 9, handle := 0, len := 0, doff := 0, tstamp := 0, flags := 0, l3off := 0, l4off := 0, yarn := 0, cls := 0,
      tc := 0, qc := 0, colour := 0, hq := 0, hqen := false, qrule := 0, qdef := false, vid := 0, pcp := 0, stream := none, sub := none }

/-- One record is consumed; none where it waits. The ratio of an epoch has been taken at its END. -/
def consumeRec (r : LogRec) (s : State) : Option Out :=
  match r with
  | .admitted p len fcs res ts => (admitRecord p len fcs res ts s).map .next
  | .body d => some (.next { s with ply.bodies := s.ply.bodies ++ [d] })
  | .answer key kind v => some (.next { s with ply.answers := s.ply.answers ++ [(key, kind, v)] })
  | .learn w => some (.next (learnApply w s))
  | .host acc => some (.next { s with ply.hostq := s.ply.hostq ++ [acc] })
  | .close y seq disp mask len fault =>
    let c : CloseRec := ⟨y, seq, disp, mask, len, fault⟩
    some (.next (compareClose c { s with ply.theirs := s.ply.theirs ++ [c] }))
  | .end_ _ _ _ _ => some (applyHeld (s.set R.PLY_LAG_EPOCHS (s.get R.PLY_LAG_EPOCHS - 1)))
  | _ => some (.next s)

/-- Consumes closed epochs in order, up to a record that waits; `skip` passes over the records that would wait (R815). -/
def consume (skip : Bool) : Nat → State → Out
  | 0, s => .next s
  | n + 1, s =>
    match s.ply.closed with
    | [] => .next s
    | r :: _ =>
      let next (s : State) : Out := consume skip n { s with ply.closed := s.ply.closed.drop 1 }
      match consumeRec r s with
      | none => if skip then next s else .next s
      | some (.next s) => next s
      | some o => o

def consumeAll (skip : Bool) (s : State) : Out := consume skip s.ply.closed.length s

/-- The ADMIT that consumption waits on. -/
def waitingAdmit (s : State) : Option (Nat × Nat × Nat) :=
  match s.ply.closed with
  | .admitted p len fcs _ _ :: _ => some (p, len, fcs)
  | _ => none

/-! Leaving the pair (R811, R812, R815, R816). -/

/-- The admin queue pair of a survivor fetches where HIF_AQ_CFG.EN is 1 (R812; 16_host_interface_rings.md R619). -/
def survivorHif (s : State) : Out :=
  let regs := [R.HIF_AQ_CFG, R.HIF_AQ_SQBASE_LO, R.HIF_AQ_SQBASE_LO + 4, R.HIF_AQ_CQBASE_LO, R.HIF_AQ_CQBASE_LO + 4].map fun o => (o, s.rd o)
  let bme := s.hif.bme
  let cfg := s.rd R.HIF_AQ_CFG
  let s := functionReset true s
  let s := { (s.set R.HIF_STAT_BME (b2n bme)) with hif.bme := bme }
  if cfg.getLsbD 31 then aqCfgWrite cfg ((regs.drop 1).foldl (fun s (e : Nat × Word) => s.wr e.1 e.2) s) else .next s

/-- The survivor of a partner loss with a cause (R812): 1 ALIVE, 2 HALT, 3 VERDICT. -/
def partnerLost (why : Nat) (s : State) : Out :=
  let was := s.role
  let s := cause R.PLY_NSTAT_LOSS 32 ((s.set R.PLY_CAUSE_CAUSE why).set R.PLY_STAT_ALIVE_IN 0)
  let s := if 1 ≤ joinPhase s ∧ joinPhase s ≤ 4 then joinFail 5 s else s
  let r := if was = 3 then consumeAll true s else .next s
  match r with
  | .next s =>
    let s := dropLog (if s.leader then dropKept s else s)
    let s := setRole 1 (s.set R.PLY_JOIN_STAT_PHASE 0)
    let s := if plyOwner s then s else cause R.PLY_NSTAT_TAKEOVER 32 { s with pws.grant := true }
    if was = 3 then survivorHif s else .next s
  | r => r

/-- PARTNER_LOSS: 20 µs without an edge of PLY_ALIVE, or the partner's halt signal. -/
def execPartnerLoss (halt : Bool) (s : State) : Out :=
  if s.role = 0 || !s.up islPLY || s.halted || !(halt || s.flag R.PLY_STAT_ALIVE_IN) then stay s
  else partnerLost (if halt then 2 else 1) s

/-- The own verdict: passes where no fault class's cause was set in this epoch or the one before (R811). -/
def ownVerdict (s : State) : Bool := !(s.ply.faultNow || s.ply.faultPrev)

/-- VERDICT: the partner's verdict, or none in time. A LEADER that learns of the mismatch by it forms and sends its own. -/
def execVerdict (partner : Option Bool) (s : State) : Out :=
  if s.role < 2 || (s.ply.verdict.isNone && (s.follower || partner.isNone)) then stay s
  else
    let own := s.ply.verdict.getD (ownVerdict s)
    let s := if s.ply.verdict.isNone then s.emit (.ply (.verdict own)) else s
    let other := partner.getD false
    let (lead, foll) := if s.leader then (own, other) else (other, own)
    let s := { s with ply.verdict := none }
    let s := if lead && foll then cause R.PLY_NSTAT_DIVERGE 33 s else s
    let leaderOut := !lead && foll
    if s.leader = leaderOut then .next (plyLeave s) else partnerLost 3 s

/-! Epoch boundaries (R795, R798 to R800, R806, R808). -/

/-- The LEADER closes its epoch: the ratio, then END. -/
def leaderEnd (s : State) : State :=
  let ratio := s.rd R.AUD_DPLL_RATIO
  let s := plySend (.dpll ratio) s
  let s := s.emit (.ply (.end_ (epochNow s) s.ply.sent (digestNow s) s.now))
  { (s.emit .plySync) with ply := { s.ply with sent := 0, ratios := s.ply.ratios ++ [(2, ratio)] } }

/-- Ratios come one boundary nearer; one whose boundary this is applies (R796). -/
def ratioStep (s : State) : State :=
  let l := s.ply.ratios.map fun e => (e.1 - 1, e.2)
  let now := (l.find? fun e => decide (e.1 = 0)).map (·.2)
  { s with ply := { s.ply with ratios := l.filter (fun e => decide (e.1 ≠ 0)), ratioNow := now.orElse fun _ => s.ply.ratioNow } }

/-- What every strand does at a boundary: the epoch's digest is complete, the next epoch starts empty. -/
def epochTurn (s : State) : State :=
  let own := if s.follower then [(digestNow s, s.now)] else []
  let s := s.wr64 R.PLY_EPOCH_LO (epochNow s + 1)
  { s with ply := { s.ply with
      digests := s.ply.digests ++ own
      words := []
      periods := []
      faultPrev := s.ply.faultNow
      faultNow := false
      omits := (s.ply.omits.map fun e => (e.1, e.2 - 1)).filter fun e => decide (e.2 ≠ 0)
      settle := s.ply.settle - 1 } }

/-- The LEADER frees the kept buffers of epochs that the FOLLOWER has consumed (R799). -/
def freeKept (consumed : Nat) (s : State) : State :=
  let gone := s.ply.kept.filter fun e => decide (e.2.1 ≤ consumed)
  let s := { s with ply.kept := s.ply.kept.filter fun e => decide (e.2.1 > consumed) }
  (gone.filter fun e => e.2.2).foldl (fun s e => freeBuf e.1 s) s

/-- The LEADER's unsent log (R800). -/
def unsent (kib : Nat) (s : State) : State :=
  let was := s.get R.PLY_LAG_KIB
  let s := s.set R.PLY_LAG_KIB (min 512 kib)
  if kib ≥ 512 ∧ was < 512 then cause R.PLY_NSTAT_LOGFULL 34 s else s

/-- EPOCH_BOUNDARY, after 48 internal samples: `kib` of the LEADER's log are unsent, its partner has consumed the epochs up to
`consumed`. -/
def execEpochBoundary (kib : Nat) (consumed : Option Nat) (s : State) : Out :=
  if s.role = 0 || !s.up islPLY || decide (s.stage < 2) then stay s
  else
    let s := ratioStep s
    let s := if s.leader then leaderEnd s else s
    let s := epochTurn s
    let s := if s.leader then unsent kib (match consumed with | some n => freeKept n s | none => s) else s
    if s.follower then .next s else applyHeld s

/-! Records that arrive (R796). -/

/-- The FOLLOWER receives an epoch-lane record. -/
def logRec (r : LogRec) (s : State) : Out :=
  if !s.follower || !s.up islPLY then stay s else .next { s with ply.log := s.ply.log ++ [r] }

def execLogAdmit (port len fcs : Nat) (res : List Byte) (tstamp : Nat) (s : State) : Out := logRec (.admitted port len fcs res tstamp) s
def execLogAnswer (key : ReqKey) (kind : Nat) (v : Word) (s : State) : Out := logRec (.answer key kind v) s
def execLogLearn (w : List Word) (s : State) : Out := logRec (.learn w) s
def execLogHost (acc : HostAcc) (s : State) : Out := logRec (.host acc) s
def execLogClose (yarn seq disp mask len : Nat) (fault : Bool) (s : State) : Out := logRec (.close yarn seq disp mask len fault) s
def execLogDpll (ratio : Word) (s : State) : Out := logRec (.dpll ratio) s

/-- LOG_BODY: a body of the epoch's log, or the answer to a fetch (R799). -/
def execLogBody (data : List Byte) (s : State) : Out :=
  match (if s.ply.asked then waitingAdmit s else none) with
  | some (_, len, fcs) =>
    if s.follower && s.up islPLY && named len fcs data then consumeAll false { s with ply.bodies := s.ply.bodies ++ [data] }
    else logRec (.body data) s
  | none => logRec (.body data) s

/-- The FOLLOWER steers its device time to the LEADER's at the boundary, without a step (R795). -/
def steer (lead own : Nat) (s : State) : State :=
  { s with clk.slewFx := max (-1000000) (min 1000000 ((lead : Int) - (own : Int))) * 2 ^ 32 }

/-- LOG_END closes an epoch once every record of it is here: its ratio is taken, its digest is compared, and it is consumed. -/
def execLogEnd (epoch count digest time : Nat) (s : State) : Out :=
  if !s.follower || !s.up islPLY || decide (s.ply.log.length ≠ count) then stay s
  else
    match s.ply.digests with
    | [] => stay s
    | (own, at_) :: ds =>
      let ratios := s.ply.log.filterMap fun r => match r with | .dpll v => some (2, v) | _ => none
      let s := { s with ply := { s.ply with
        closed := s.ply.closed ++ s.ply.log ++ [LogRec.end_ epoch count digest time]
        log := []
        digests := ds
        ratios := s.ply.ratios ++ ratios } }
      let s := steer time at_ (s.set R.PLY_LAG_EPOCHS (s.get R.PLY_LAG_EPOCHS + 1))
      consumeAll false (if own = digest then s else mismatch epoch s)

/-- LOG_VBAT: the reading is used one sample later than an own one (R796). -/
def execLogVbat (mv _seq : Nat) (s : State) : Out := if !s.follower then stay s else .next (gainReading mv s)

/-- LOG_TDM. -/
def execLogTdm (p : Nat) (slots : List Word) (s : State) : Out :=
  if !s.follower || decide (p ≥ 4) then stay s else .next (tdmLogged p slots s)

/-- LOG_LATCH: the non-owner sets or clears the same latch (R814). -/
def execLogLatch (c causes : Nat) (clear : Bool) (s : State) : Out :=
  if plyOwner s || s.role = 0 || decide (c ≥ 16) then stay s
  else .next (if clear then unlatch c s else latchAll c causes s)

/-! Frames (R799). -/

/-- The frame that a fetch names, in a buffer that the LEADER keeps. -/
def keptFrame (s : State) (len fcs : Nat) : Option (List Byte) :=
  (s.ply.kept.map fun e => s.pkt.rdBytes (bufAddr s e.1 + s.get R.BPM_HDRM_PORT) len).find? (named len fcs)

/-- FRAME_FETCH_REQUEST: the FOLLOWER asks for the frame that the log has named for 1 ms; the LEADER answers the request. -/
def execFrameFetchRequest (port len fcs : Nat) (s : State) : Out :=
  if s.follower then
    match waitingAdmit s with
    | some (p, l, f) =>
      if s.ply.asked || decide ((p, l, f) ≠ (port, len, fcs)) then stay s
      else .next { ((s.emit (.ply (.fetch port len fcs))).bump R.PLY_CNT_FETCH) with ply.asked := true }
    | none => stay s
  else if s.leader then
    match keptFrame s len fcs with
    | some d => .next (s.emit (.ply (.body d)))
    | none => stay s
  else stay s

/-- UNNAMED_FRAME_DROP: the i-th packet of a FOLLOWER's admission queue has waited 10 ms; it counts as congestion. -/
def execUnnamedFrameDrop (p tc i : Nat) (s : State) : Out :=
  match (admQueue s p tc)[i]? with
  | none => stay s
  | some k =>
    if !s.follower || decide (p ≥ 9) then stay s
    else .next (dropPkt (R.PRT_CNT_HOLD p) k.handle (setAdm p tc ((admQueue s p tc).eraseIdx i) s))

/-- PACKET_ADMIT: the FOLLOWER goes on with its log; any other strand admits from its own inputs (R798; 11_distaff_and_yarns.md
R407 to R410). -/
def execPacketAdmit (p sel : Nat) (s : State) : Out := if s.follower then consumeAll false s else packetAdmit p sel s

/-! Joins (R818, R819). -/

/-- The joiner meets CHECK: Stage 2 or 3, FULL, not halted. -/
def joinerReady (s : State) : Bool := decide (s.stage ≥ 2) && decide (s.pstate = 2) && !s.halted

/-- The offset belongs to a block that CUTOVER carries. -/
def cutBlock (o : Nat) : Bool :=
  decide (0x90000 ≤ o ∧ o < 0xA0000) || decide (0xB0000 ≤ o ∧ o < 0xC0000) || decide (0x200000 ≤ o ∧ o < 0x430000) ||
    decide (0x800000 ≤ o ∧ o < 0xE00000)

/-- Cells put into a memory. -/
def putCells (cells m : Mem) : Mem := cells.foldl (fun (m : Mem) (e : Nat × BitVec 8) => m.wr e.1 e.2) m

/-- The joiner's packet memory: the LEADER's, but for its own frame reserve. -/
def cutPkt (img own : Mem) : Mem := putCells (img.filter fun e => decide (e.1 < 0xD00000)) (own.filter fun e => decide (e.1 ≥ 0xD00000))

/-- A core as CUTOVER leaves it: retirement is the joiner's own. -/
def cutCores (img own : SMap Core) : SMap Core :=
  (List.range 48).foldl (fun m n =>
    mput (fun _ => Core.reset) m n { mget (fun _ => Core.reset) img n with retired := (mget (fun _ => Core.reset) own n).retired }) []

/-- The joiner takes over what COPY and CUTOVER carry. -/
def takeCut (img : CutState) (s : State) : State :=
  let regs := (img.regs.filter fun e => cutBlock e.1).foldl (fun m (e : Nat × Word) => mput resetWord m e.1 e.2)
    (s.regs.filter fun e => !cutBlock e.1)
  let s := { s with regs := regs, pkt := cutPkt img.pkt s.pkt, whl := { img.whl with cores := cutCores img.whl.cores s.whl.cores }
                    bpm := img.bpm, locks := img.locks, dst := img.dst, prs := img.prs, fwd := { img.fwd with mem := putCells img.fwd.mem [] }, aud := img.aud, cal := img.cal }
  (List.range 8).foldl (fun s p => s.setPanel p { s.panel p with bram := mget (fun _ => []) img.brams p }) s

/-- The joiner unclamps its panels in three steps and sets each channel's source to AUD (04_staged_start.md R151, R157). -/
def joinerSettle (s : State) : State :=
  let step (s : State) (n : Nat) : State :=
    if doneBit s n then s
    else
      let s := (List.range 8).foldl (fun s p => if panelState s p = 1 then unclampPanel n p s else s) s
      cause R.SYS_NSTAT_UNCLAMP 0 (s.set R.SYS_UNCLAMP_DONE (s.get R.SYS_UNCLAMP_DONE ||| 2 ^ (n - 1)))
  let s := [1, 2, 3].foldl step { s with sys.unclamp := 0 }
  let s := (List.range 16).foldl (fun s c => setSrc c 2 s) s
  if s.stage < 3 then enterStage 3 s else s

/-- The epoch log of the new pair starts empty; every channel is out of the digest for SETTLE epochs (R809). -/
def logStart (s : State) : State :=
  let n := settleEpochs s
  { s with ply := { s.ply with
      log := [], closed := [], bodies := [], answers := [], asked := false, hostq := [], mine := [], theirs := [], words := []
      periods := [], digests := [], verdict := none, sent := 0, kept := [], reqs := [], vbatNext := none, settle := n
      omits := (List.range 16).map fun c => (c, n) } }

/-- CUTOVER ends: the owner is LEADER, the joiner FOLLOWER (assumption 88). -/
def cutover (img : CutState) (s : State) : State :=
  let s := s.set R.PLY_JOIN_STAT_PHASE 4
  if plyOwner s then setRole 2 (logStart s) else setRole 3 (joinerSettle (logStart (takeCut img s)))

/-- A join starts without a command: on the owner with AUTOJOIN, once both strands have entered Stage 2; on the joiner with its
owner. -/
def joinBegins (s : State) : Bool :=
  s.role = 1 && (!plyOwner s || (s.flag R.PLY_CFG_AUTOJOIN && decide (s.stage ≥ 2)))

/-- One COPY pass has ended. -/
def copyPass (left : Nat) (late : Bool) (s : State) : State :=
  let n := min 255 (s.get R.PLY_JOIN_STAT_PASSES + 1)
  let s := s.set R.PLY_JOIN_STAT_PASSES n
  if left ≤ 256 then s.set R.PLY_JOIN_STAT_PHASE 3 else if decide (n ≥ 64) || late then joinFail 4 s else s

/-- JOIN_PHASE_DONE. -/
def execJoinPhaseDone (res : JoinStep) (s : State) : Out :=
  if s.role = 0 || !s.up islPLY then stay s
  else
    match joinPhase s, res with
    | 0, .check _ _ => if joinBegins s then .next (joinStart s) else stay s
    | 1, .check same ready =>
      .next (if decide (s.get R.PLY_STAT_LANES = 0) || !ready || (!plyOwner s && !joinerReady s) then joinFail 1 s
        else if !same then joinFail 2 s else s.set R.PLY_JOIN_STAT_PHASE 2)
    | 2, .copy left late => .next (copyPass left late s)
    | 3, .cutover img => .next (cutover img s)
    | 4, .settle =>
      if s.ply.settle ≠ 0 then stay s else .next (cause R.PLY_NSTAT_JOIN 35 (s.set R.PLY_JOIN_STAT_PHASE 5))
    | _, _ => stay s

end Sys2Proof.Machine
end

