-- ==== Sys2Proof/Machine/WhlDecode.lean ====
section
/-!
DEFINITION. The encodings of the Whorl instruction set: stream form, paired form, and the operations they decode to
(13_whorl_isa_model.md R491 to R501; 14_whorl_isa_catalogue.md R520 to R542).
-/
namespace Sys2Proof.Machine

/-- The operations of the catalogue. PLD and PST are loads and stores with the packet flag. -/
inductive WOp
  | mov | add | adc | sub | sbc | and | or | xor | bic | shl | shr | sar | ror | min | max | minu | maxu | cmp | tst
  | clz | bswap | sextb | sexth | zextb | zexth | neg | not | movi | movhi | addi | andi | ori | xori | shli | shri
  | sari | rori | cmpi | tsti | extu | ins | br | call | bc | bf | j | jl | jx | jxl | rtx | bnz | dbnz | ldb | ldbu
  | ldh | ldhu | ldw | stb | sth | stw | ldhn | ldhun | ldwn | sthn | stwn | push | pop | mul | mulu | mac | macu | msu
  | rdacc | qadd | qsub | qshl | qabs | qneg | tget | tdone | send | balloc | bfree | waitlk | fadd | sleep | lkup
  | nop | mfs | mts | fence | trap
deriving DecidableEq, Repr

/-- A decoded instruction or operation. -/
structure Insn where
  op : WOp
  rd : Nat
  ra : Nat
  rb : Nat
  /-- The immediate as the instruction extends it; a branch's displacement in bytes. -/
  imm : Int
  /-- FN, or cc of BC and BF. -/
  fn : Nat
  /-- The word sets the flags that its table marks (R523). -/
  setf : Bool
  /-- Packet-relative (R487). -/
  pkt : Bool
  /-- The base update of a short load or store: 0 none, 1 increment, 2 decrement (R531). -/
  upd : Nat
  /-- The C prefix's condition (R493). -/
  cond : Option Nat
  /-- ILL by R479 or R520, which a failed condition keeps from being raised (R495). -/
  late : Bool
deriving DecidableEq, Repr

/-- What a word decodes to. -/
inductive Dec
  | one (i : Insn)
  /-- Two short operations, slot A first (R497). -/
  | two (a b : Insn)
  | ill
  /-- A two-slot word with bit 15 set (R498). -/
  | bit15
  /-- The bytes end before the instruction does. -/
  | more
deriving DecidableEq, Repr

/-! What the catalogue says of each operation. -/

/-- The register fields that an operation uses: rd, ra, rb (R520). -/
def roles : WOp → Bool × Bool × Bool
  | .nop | .br | .call | .bf | .rtx | .push | .pop | .tget | .sleep | .fence | .trap => (false, false, false)
  | .movi | .bnz | .dbnz | .mfs | .rdacc => (true, false, false)
  | .cmp | .tst | .bc | .mul | .mulu | .mac | .macu | .msu | .tdone => (false, true, true)
  | .cmpi | .tsti | .j | .jl | .jx | .jxl | .bfree | .waitlk | .lkup | .mts => (false, true, false)
  | .add | .adc | .sub | .sbc | .and | .or | .xor | .bic | .shl | .shr | .sar | .ror | .min | .max | .minu | .maxu
  | .qadd | .qsub | .send | .fadd => (true, true, true)
  | _ => (true, true, false)

/-- The immediate is sign-extended (R521, R531). -/
def immSigned : WOp → Bool
  | .movi | .addi | .cmpi | .br | .call | .bnz | .dbnz | .ldb | .ldbu | .ldh | .ldhu | .ldw | .stb | .sth | .stw
  | .ldhn | .ldhun | .ldwn | .sthn | .stwn => true
  | _ => false

/-- Special registers that MTS may not name (R478, R479). -/
def sregReadOnly (n : Nat) : Bool := decide (n ≥ 17 ∨ n = 5 ∨ n = 6 ∨ n = 10 ∨ (12 ≤ n ∧ n ≤ 16))

/-- The bits of an immediate, as encoded, that the instruction does not use are 0, and a special register exists (R479, R520, R521). -/
def immOk (op : WOp) (raw : Nat) : Bool :=
  match op with
  | .mfs => decide (raw < 17)
  | .mts => decide (raw < 17) && !sregReadOnly raw
  | .rdacc => decide (raw < 64)
  | .extu | .ins => decide (raw / 8192 = 0 ∧ raw / 32 % 8 = 0)
  | .push | .pop => decide (raw < 65536)
  | .trap => decide (raw < 256)
  | _ => true

/-- The FN values that the catalogue names (R528, R537, R539, R541). -/
def fnOk (op : WOp) (fn : Nat) : Bool :=
  match op with
  | .jx | .jxl | .balloc => decide (fn < 2)
  | .tdone => decide (fn < 8)
  | .lkup => decide (fn < 9)
  | _ => decide (fn = 0)

/-- An ALU operation of R525 and R527 that sets flags where the word says so (R522, R523). -/
def flagOp : WOp → Bool
  | .mov | .add | .adc | .sub | .sbc | .and | .or | .xor | .bic | .shl | .shr | .sar | .ror | .min | .max | .minu | .maxu
  | .clz | .bswap | .sextb | .sexth | .neg | .not | .movi | .addi | .andi | .ori | .xori | .shli | .shri | .sari | .rori
  | .extu | .ins => true
  | _ => false

/-- An operation that always sets flags (R523). -/
def flagAlways : WOp → Bool
  | .cmp | .tst | .cmpi | .tsti => true
  | _ => false

/-- A load or store that accepts P (R522). -/
def memOp : WOp → Bool
  | .ldb | .ldbu | .ldh | .ldhu | .ldw | .stb | .sth | .stw => true
  | _ => false

/-- The same access in network order (R483, R522). -/
def netOp : WOp → Option WOp
  | .ldh => some .ldhn
  | .ldhu => some .ldhun
  | .ldw => some .ldwn
  | .sth => some .sthn
  | .stw => some .stwn
  | _ => none

/-- An operation that accepts C (R522). -/
def condOp (op : WOp) : Bool :=
  flagOp op || flagAlways op || memOp op ||
    match op with
    | .mul | .mulu | .mac | .macu | .msu | .rdacc | .qadd | .qsub | .qshl | .qabs | .qneg | .br | .j | .jx | .rtx | .mfs | .mts => true
    | _ => false

/-! Stream form (R491 to R496). -/

/-- Operand formats (R492). -/
inductive SFmt
  | z | r | rr | ri | b
deriving DecidableEq, Repr

/-- The stream opcodes of the ALU tables and of control transfers (R525, R527, R528). -/
def streamAlu : List (Nat × WOp × SFmt) :=
  [(0x01, .nop, .z), (0x02, .mov, .r), (0x03, .movi, .ri), (0x04, .mfs, .ri), (0x05, .mts, .ri), (0x10, .add, .rr), (0x11, .adc, .rr),
   (0x12, .sub, .rr), (0x13, .sbc, .rr), (0x14, .and, .rr), (0x15, .or, .rr), (0x16, .xor, .rr), (0x17, .bic, .rr), (0x18, .shl, .rr),
   (0x19, .shr, .rr), (0x1A, .sar, .rr), (0x1B, .ror, .rr), (0x1C, .min, .rr), (0x1D, .max, .rr), (0x1E, .minu, .rr),
   (0x1F, .maxu, .rr), (0x20, .cmp, .r), (0x21, .tst, .r), (0x22, .clz, .r), (0x23, .bswap, .r), (0x24, .sextb, .r),
   (0x25, .sexth, .r), (0x26, .neg, .r), (0x27, .not, .r), (0x30, .addi, .ri), (0x31, .andi, .ri), (0x32, .ori, .ri),
   (0x33, .xori, .ri), (0x34, .shli, .ri), (0x35, .shri, .ri), (0x36, .sari, .ri), (0x37, .rori, .ri), (0x38, .cmpi, .ri),
   (0x39, .tsti, .ri), (0x3A, .extu, .ri), (0x3B, .ins, .ri)]

/-- The other stream opcodes (R528, R531, R533, R537, R542). -/
def streamRest : List (Nat × WOp × SFmt) :=
  [(0x40, .mul, .r), (0x41, .mulu, .r), (0x42, .mac, .r), (0x43, .macu, .r), (0x44, .msu, .r), (0x45, .rdacc, .ri),
   (0x46, .qadd, .rr), (0x47, .qsub, .rr), (0x48, .qshl, .ri), (0x49, .qabs, .r), (0x4A, .qneg, .r), (0x50, .ldb, .ri),
   (0x51, .ldbu, .ri), (0x52, .ldh, .ri), (0x53, .ldhu, .ri), (0x54, .ldw, .ri), (0x58, .stb, .ri), (0x59, .sth, .ri),
   (0x5A, .stw, .ri), (0x5C, .push, .ri), (0x5D, .pop, .ri), (0x60, .br, .b), (0x61, .call, .b), (0x62, .j, .r), (0x63, .jl, .r),
   (0x64, .jx, .rr), (0x65, .jxl, .rr), (0x66, .rtx, .z), (0x80, .tget, .z), (0x81, .tdone, .rr), (0x82, .send, .rr),
   (0x83, .balloc, .rr), (0x84, .bfree, .r), (0x85, .waitlk, .r), (0x86, .fadd, .rr), (0x87, .sleep, .z), (0x88, .lkup, .rr),
   (0x90, .fence, .z), (0x91, .trap, .ri)]

def streamOp (b : Nat) : Option (WOp × SFmt) := ((streamAlu ++ streamRest).find? fun e => decide (e.1 = b)).map (·.2)

/-- The prefixes of an instruction: immediate width in bytes, S, P, N, C. -/
structure Prefixes where
  width : Option Nat
  s : Bool
  p : Bool
  n : Bool
  c : Option Nat
  count : Nat
deriving DecidableEq, Repr

def noPrefix : Prefixes := { width := none, s := false, p := false, n := false, c := none, count := 0 }

/-- One prefix byte more; none where it is reserved, a fourth, or a second of its class (R493, R494). -/
def addPrefix (x : Prefixes) (b : Nat) : Option Prefixes :=
  let x1 := { x with count := x.count + 1 }
  if x.count ≥ 3 then none
  else if b = 0xF1 then (if x.width.isSome then none else some { x1 with width := some 2 })
  else if b = 0xF2 then (if x.width.isSome then none else some { x1 with width := some 4 })
  else if b = 0xF4 then (if x.s then none else some { x1 with s := true })
  else if b = 0xF5 then (if x.p then none else some { x1 with p := true })
  else if b = 0xF6 then (if x.n then none else some { x1 with n := true })
  else if b ≥ 0xF8 then (if x.c.isSome then none else some { x1 with c := some (b - 0xF8) })
  else none

/-- The instruction accepts its prefixes (R522). -/
def prefixesOk (x : Prefixes) (op : WOp) (f : SFmt) : Bool :=
  (x.width.isNone || decide (f = .ri ∨ f = .b)) && (!x.s || flagOp op) && (!x.p || memOp op) && (!x.n || (netOp op).isSome) &&
    (x.c.isNone || condOp op)

/-- An immediate of `n` bits as an instruction extends it. -/
def extend (op : WOp) (n raw : Nat) : Int := if immSigned op then sgn n raw else raw

/-- Gives the register fields in the order of the encoding to rd, ra, rb; the fourth component says that a field left over is not 0
(R520). -/
def assign (op : WOp) (fs : List Nat) : Nat × Nat × Nat × Bool :=
  let (a, b, c) := roles op
  let (rd, fs) := if a then (fs.headD 0, fs.drop 1) else (0, fs)
  let (ra, fs) := if b then (fs.headD 0, fs.drop 1) else (0, fs)
  let (rb, fs) := if c then (fs.headD 0, fs.drop 1) else (0, fs)
  (rd, ra, rb, fs.any (· ≠ 0))

/-- The instruction of an opcode, its prefixes and its operand bytes. -/
def streamInsn (x : Prefixes) (op : WOp) (f : SFmt) (bs : List Nat) : Dec × Nat :=
  let immN := match f with | .ri => x.width.getD 1 | .b => x.width.getD 1 | _ => 0
  let regN := match f with | .r => 1 | .rr => 2 | .ri => 1 | _ => 0
  if bs.length < regN + immN then (.more, 0)
  else
    let r0 := bs.headD 0
    let r1 := (bs.drop 1).headD 0
    let fs := match f with
      | .r | .ri => [r0 / 16, r0 % 16]
      | .rr => [r0 / 16, r0 % 16, r1 / 16]
      | _ => []
    let fn := if f = .rr then r1 % 16 else 0
    let raw := ((bs.drop regN).take immN).foldr (fun b a => b + 256 * a) 0
    let (rd, ra, rb, ovr) := assign op fs
    if !fnOk op fn then (.ill, 0)
    else
      let opN := if x.n then (netOp op).getD op else op
      (.one { op := opN, rd := rd, ra := ra, rb := rb, imm := extend op (8 * immN) raw, fn := fn, setf := x.s || flagAlways op,
              pkt := x.p, upd := 0, cond := x.c, late := ovr || !immOk op raw }, regN + immN)

/-- Decodes a stream-form instruction; the second component is its length. -/
def streamDecode : Prefixes → List Nat → Dec × Nat
  | _, [] => (.more, 0)
  | x, b :: bs =>
    if b ≥ 0xF0 then
      match addPrefix x b with
      | none => (.ill, 0)
      | some y => streamDecode y bs
    else
      match streamOp b with
      | none => (.ill, 0)
      | some (op, f) =>
        if !prefixesOk x op f then (.ill, 0)
        else
          let (d, n) := streamInsn x op f bs
          (d, x.count + 1 + n)

/-! Paired form (R497 to R501). -/

/-- Layouts of a long operation (R500). -/
inductive LFmt
  | lr | li | lb | lc
deriving DecidableEq, Repr

/-- The LOPs of the ALU, multiply and saturating tables (R525, R527, R533). -/
def longAlu : List (Nat × WOp × LFmt) :=
  [(0x01, .add, .lr), (0x02, .adc, .lr), (0x03, .sub, .lr), (0x04, .sbc, .lr), (0x05, .and, .lr), (0x06, .or, .lr), (0x07, .xor, .lr),
   (0x08, .bic, .lr), (0x09, .shl, .lr), (0x0A, .shr, .lr), (0x0B, .sar, .lr), (0x0C, .ror, .lr), (0x0D, .min, .lr), (0x0E, .max, .lr),
   (0x0F, .minu, .lr), (0x10, .maxu, .lr), (0x11, .cmp, .lr), (0x12, .tst, .lr), (0x13, .clz, .lr), (0x14, .bswap, .lr),
   (0x15, .sextb, .lr), (0x16, .sexth, .lr), (0x17, .neg, .lr), (0x18, .not, .lr), (0x19, .mov, .lr), (0x20, .addi, .li),
   (0x21, .andi, .li), (0x22, .ori, .li), (0x23, .xori, .li), (0x24, .shli, .li), (0x25, .shri, .li), (0x26, .sari, .li),
   (0x27, .rori, .li), (0x28, .cmpi, .li), (0x29, .tsti, .li), (0x2A, .extu, .li), (0x2B, .ins, .li), (0x2C, .movi, .li),
   (0x2D, .movhi, .li), (0x30, .mul, .lr), (0x31, .mulu, .lr), (0x32, .mac, .lr), (0x33, .macu, .lr), (0x34, .msu, .lr),
   (0x35, .rdacc, .li), (0x36, .qadd, .lr), (0x37, .qsub, .lr), (0x38, .qshl, .li), (0x39, .qabs, .lr), (0x3A, .qneg, .lr)]

/-- The other LOPs but PLD, PST, PUSH and POP (R528, R531, R537, R542). -/
def longRest : List (Nat × WOp × LFmt) :=
  [(0x40, .ldb, .li), (0x41, .ldbu, .li), (0x42, .ldh, .li), (0x43, .ldhu, .li), (0x44, .ldw, .li), (0x45, .stb, .li), (0x46, .sth, .li),
   (0x47, .stw, .li), (0x48, .ldhn, .li), (0x49, .ldhun, .li), (0x4A, .ldwn, .li), (0x4B, .sthn, .li), (0x4C, .stwn, .li),
   (0x50, .br, .lb), (0x51, .call, .lb), (0x52, .bc, .lc), (0x53, .bf, .lc), (0x54, .j, .lr), (0x55, .jl, .lr), (0x56, .jx, .lr),
   (0x57, .jxl, .lr), (0x58, .rtx, .lr), (0x60, .tget, .lr), (0x61, .tdone, .lr), (0x62, .send, .lr), (0x63, .balloc, .lr),
   (0x64, .bfree, .lr), (0x65, .waitlk, .lr), (0x66, .fadd, .lr), (0x67, .sleep, .lr), (0x68, .lkup, .lr), (0x70, .mfs, .li),
   (0x71, .mts, .li), (0x72, .fence, .lr), (0x73, .trap, .li)]

def longOp (b : Nat) : Option (WOp × LFmt) := ((longAlu ++ longRest).find? fun e => decide (e.1 = b)).map (·.2)

/-- Packet-relative loads and stores by KIND (R531). -/
def pktKind (store : Bool) (k : Nat) : Option WOp :=
  if store then (match k with | 0 => some .stb | 2 => some .sth | 4 => some .stw | 5 => some .sthn | 7 => some .stwn | _ => none)
  else (match k with
    | 0 => some .ldb | 1 => some .ldbu | 2 => some .ldh | 3 => some .ldhu | 4 => some .ldw | 5 => some .ldhn | 6 => some .ldhun
    | _ => some .ldwn)

/-- A register field that an operation does not use is not 0 (R520). -/
def spare (op : WOp) (rd ra rb : Nat) : Bool :=
  let (a, b, c) := roles op
  (!a && decide (rd ≠ 0)) || (!b && decide (ra ≠ 0)) || (!c && decide (rb ≠ 0))

/-- A long operation (R500). -/
def longDecode (w : Nat) : Dec :=
  let lop := bitsOf w 24 7
  let rd := bitsOf w 20 4
  let ra := bitsOf w 16 4
  let rb := bitsOf w 12 4
  let imm := bitsOf w 0 16
  let mk (op : WOp) (i : Insn) (bad : Bool) : Dec := if bad then .ill else .one { i with op := op }
  let z : Insn := { op := .nop, rd := 0, ra := 0, rb := 0, imm := 0, fn := 0, setf := false, pkt := false, upd := 0, cond := none, late := false }
  if lop = 0x4D ∨ lop = 0x4E then
    match pktKind (lop = 0x4E) (bitsOf imm 13 3) with
    | some op => .one { z with op := op, rd := rd, ra := ra, imm := imm % 8192, pkt := true }
    | none => .ill
  else if lop = 0x4F then mk (if ra = 0 then .push else .pop) { z with imm := imm } (decide (rd ≠ 0 ∨ ra > 1))
  else
    match longOp lop with
    | none => .ill
    | some (op, .lr) =>
      let fn := w % 4096
      let alu := flagOp op || flagAlways op
      mk op { z with rd := rd, ra := ra, rb := rb, fn := if alu then 0 else fn, setf := flagAlways op || (alu && bitOf fn 11) }
        (spare op rd ra rb || (if alu then decide (fn % 2048 ≠ 0) else !fnOk op fn))
    | some (op, .li) =>
      mk op { z with rd := rd, ra := ra, imm := extend op 16 imm, setf := flagAlways op } (spare op rd ra 0 || !immOk op imm)
    | some (op, .lb) => mk op { z with imm := 4 * sgn 24 (w % 2 ^ 24) } false
    | some (op, .lc) =>
      mk op { z with ra := rd, rb := ra, fn := bitsOf w 13 3, imm := 4 * sgn 13 (w % 8192) } (spare op 0 rd ra)

/-- The short operations in SR layout with their SOP and X (R525, R528, R531, R533). In a short operation rd is also the first source. -/
def shortSr (sop x : Nat) : Option WOp :=
  match sop, x with
  | 0x00, 0 => some .mov | 0x01, 0 => some .add | 0x02, 0 => some .sub | 0x03, 0 => some .and | 0x04, 0 => some .or
  | 0x05, 0 => some .xor | 0x0B, 0 => some .min | 0x0B, 1 => some .minu | 0x0C, 0 => some .max | 0x0C, 1 => some .maxu
  | 0x0D, 0 => some .neg | 0x0E, 0 => some .sextb | 0x0E, 1 => some .sexth | 0x0E, 2 => some .zextb | 0x0E, 3 => some .zexth
  | 0x10, 0 => some .mul | 0x10, 1 => some .mulu | 0x11, 0 => some .mac | 0x11, 1 => some .macu | 0x12, 0 => some .msu
  | 0x14, 0 => some .qadd | 0x15, 0 => some .qsub | 0x17, 0 => some .qabs
  | _, _ => none

/-- The short operations in SI layout. -/
def shortSi (sop : Nat) : Option WOp :=
  match sop with
  | 0x06 => some .addi | 0x07 => some .movi | 0x08 => some .shli | 0x09 => some .shri | 0x0A => some .sari | 0x0F => some .andi
  | 0x13 => some .rdacc | 0x16 => some .qshl
  | _ => none

/-- A short operation; none where it is not defined or not allowed in its slot (R499). A base is an operand of its own; a short
branch counts words. -/
def shortDecode (slotB : Bool) (v : Nat) : Option Insn :=
  let sop := bitsOf v 10 5
  let rd := bitsOf v 6 4
  let ra := bitsOf v 2 4
  let x := v % 4
  let imm := v % 64
  let z : Insn := { op := .nop, rd := rd, ra := 0, rb := 0, imm := 0, fn := 0, setf := false, pkt := false, upd := 0, cond := none, late := false }
  if v = 0 then some { z with op := .nop, rd := 0 }
  else if 0x18 ≤ sop ∧ sop ≤ 0x1B then
    (if slotB || decide (x = 3) then none
    else some { z with op := (match sop with | 0x18 => .ldh | 0x19 => .ldw | 0x1A => .sth | _ => .stw), ra := ra, upd := x })
  else if sop = 0x1C ∨ sop = 0x1D then
    (if !slotB then none else some { z with op := if sop = 0x1C then .bnz else .dbnz, imm := 4 * sgn 6 imm })
  else if sop = 0x1E then (if !slotB || decide (rd ≠ 0 ∨ x ≠ 0) then none else some { z with op := .j, ra := ra, rd := 0 })
  else
    match shortSi sop with
    | some op => some { z with op := op, ra := if op = .movi ∨ op = .rdacc then 0 else rd, imm := extend op 6 imm }
    | none =>
      match shortSr sop x with
      | none => none
      | some op =>
        match roles op with
        | (false, _, _) => some { z with op := op, rd := 0, ra := rd, rb := ra }
        | (_, _, true) => some { z with op := op, ra := rd, rb := ra }
        | _ => some { z with op := op, ra := ra }

/-- A paired-form word (R497, R498). -/
def pairedDecode (w : Nat) : Dec :=
  if !bitOf w 31 then longDecode w
  else if bitOf w 15 then .bit15
  else
    match shortDecode false (bitsOf w 16 15), shortDecode true (bitsOf w 0 15) with
    | some a, some b => .two a b
    | _, _ => .ill

/-- Decodes the bytes at a thread's PC in its form: FORM 0 stream, 1 paired. The second component is the word's length. -/
def wordDecode (form : Bool) (bs : List Byte) : Dec × Nat :=
  if form then (if bs.length < 4 then (.more, 0) else (pairedDecode (leNat (bs.take 4)), 4))
  else streamDecode noPrefix (bs.map (·.toNat))

/-! Dependence in a two-slot word (R503, R536). -/

/-- The registers that a short operation reads and writes, g0 apart; the accumulator is 16. -/
def shortReads (i : Insn) : List Nat :=
  (match i.op with
  | .nop | .movi => []
  | .rdacc => [16]
  | .mac | .macu | .msu => [i.ra, i.rb, 16]
  | .sth | .stw | .bnz | .dbnz => [i.rd, i.ra]
  | _ => [i.ra, i.rb]).filter (· ≠ 0)

def shortWrites (slotB : Bool) (i : Insn) : List Nat :=
  let acc : List Nat := match i.op with
    | .mul | .mulu | .mac | .macu | .msu => [16]
    | .rdacc | .qadd | .qsub | .qshl | .qabs => if slotB then [] else [16]
    | _ => []
  let rd : List Nat := match i.op with
    | .nop | .mul | .mulu | .mac | .macu | .msu | .sth | .stw | .bnz | .j => []
    | _ => [i.rd]
  ((rd ++ if i.upd = 0 then [] else [i.ra]).filter (· ≠ 0)) ++ acc

/-- Slot B reads or writes a register that slot A writes. -/
def dependent (a b : Insn) : Bool :=
  (shortWrites false a).any fun r => (shortReads b).contains r || (shortWrites true b).contains r

end Sys2Proof.Machine
end

