-- ==== Sys2Proof/Machine/WhlAlu.lean ====
section
/-!
DEFINITION. What Whorl arithmetic computes: results, flags, the accumulator and saturation (14_whorl_isa_catalogue.md R523 to R527,
R533 to R535), and the conditions of R493.
-/
namespace Sys2Proof.Machine

/-- A general register of a thread; g0 reads as 0 (13_whorl_isa_model.md R476). -/
def Thread.reg (x : Thread) (n : Nat) : Word := if n = 0 then 0 else mget (fun _ => 0) x.g n

/-- A thread with a general register written; a write to g0 is discarded (R476). -/
def Thread.setReg (x : Thread) (n : Nat) (v : Word) : Thread :=
  if n = 0 then x else { x with g := mput (fun _ => 0) x.g n v }

/-- The conditions of R493. -/
def condHolds (cc : Nat) (f : Flags) : Bool :=
  match cc with
  | 0 => f.z
  | 1 => !f.z
  | 2 => f.n != f.v
  | 3 => f.n == f.v
  | 4 => !f.c
  | 5 => f.c
  | 6 => f.n
  | _ => f.v

/-- N and Z of a result (R523). -/
def nz (v : Word) (f : Flags) : Flags := { f with n := v.msb, z := decide (v = 0) }

/-- The sum of two words and a carry, with N, Z, C and V (R523). -/
def addWith (a b : Word) (c : Bool) : Word × Flags :=
  let n := a.toNat + b.toNat + b2n c
  let v := BitVec.ofNat 32 n
  (v, { n := v.msb, z := decide (v = 0), c := decide (2 ^ 32 ≤ n), v := (a.msb == b.msb) && (a.msb != v.msb) })

/-- A difference less (1 − C): C = 1 means no borrow. -/
def subWith (a b : Word) (c : Bool) : Word × Flags := addWith a (~~~b) c

/-- A shift left by 0 to 255 with the last bit shifted out (R526). -/
def shlWith (a : Word) (n : Nat) (f : Flags) : Word × Flags :=
  let v := a <<< n
  (v, { nz v f with c := if n = 0 then f.c else decide (n ≤ 32) && a.getLsbD (32 - n) })

def shrWith (a : Word) (n : Nat) (f : Flags) : Word × Flags :=
  let v := a >>> n
  (v, { nz v f with c := if n = 0 then f.c else a.getLsbD (n - 1) })

def sarWith (a : Word) (n : Nat) (f : Flags) : Word × Flags :=
  let v := a.sshiftRight n
  (v, { nz v f with c := if n = 0 then f.c else if n ≤ 32 then a.getLsbD (n - 1) else a.msb })

def rorWith (a : Word) (n : Nat) (f : Flags) : Word × Flags :=
  let v := a.rotateRight (n % 32)
  (v, { nz v f with c := if n % 32 = 0 then f.c else v.msb })

/-- The number of leading zero bits, 0 to 32. -/
def leadingZeros (a : Word) : Nat := ((List.range 32).find? fun i => a.getLsbD (31 - i)).getD 32

/-- The byte order reversed. -/
def byteSwap (n v : Nat) : Nat := leNat (leBytes n v).reverse

/-- EXTU and INS: p and w of an immediate (R527). -/
def bitField (imm : Nat) : Nat × Nat := (imm % 32, imm / 256 % 32 + 1)

/-- The low w bits set. -/
def lowMask (w : Nat) : Word := BitVec.ofNat 32 (2 ^ w - 1)

/-- What an ALU operation computes from its sources a and b (a register or the immediate), its destination's old value d and the
flags; none for any other operation (R525 to R527). -/
def aluOut (op : WOp) (a b d : Word) (f : Flags) : Option (Word × Flags) :=
  let plain (v : Word) : Option (Word × Flags) := some (v, nz v f)
  match op with
  | .mov => plain a
  | .movi => plain b
  | .movhi => some (b <<< 16 ||| (a &&& 0xFFFF), f)
  | .add | .addi => some (addWith a b false)
  | .adc => some (addWith a b f.c)
  | .sub | .cmp | .cmpi => some (subWith a b true)
  | .sbc => some (subWith a b f.c)
  | .neg => some (subWith 0 a true)
  | .and | .andi | .tst | .tsti => plain (a &&& b)
  | .or | .ori => plain (a ||| b)
  | .xor | .xori => plain (a ^^^ b)
  | .bic => plain (a &&& ~~~b)
  | .not => plain (~~~a)
  | .shl => some (shlWith a (wget b 0 8) f)
  | .shr => some (shrWith a (wget b 0 8) f)
  | .sar => some (sarWith a (wget b 0 8) f)
  | .ror | .rori => some (rorWith a (wget b 0 5) f)
  | .shli => some (shlWith a (wget b 0 5) f)
  | .shri => some (shrWith a (wget b 0 5) f)
  | .sari => some (sarWith a (wget b 0 5) f)
  | .min => plain (if a.toInt ≤ b.toInt then a else b)
  | .max => plain (if a.toInt ≤ b.toInt then b else a)
  | .minu => plain (if a.toNat ≤ b.toNat then a else b)
  | .maxu => plain (if a.toNat ≤ b.toNat then b else a)
  | .clz => plain (BitVec.ofNat 32 (leadingZeros a))
  | .bswap => plain (BitVec.ofNat 32 (byteSwap 4 a.toNat))
  | .sextb => plain ((a.extractLsb' 0 8).signExtend 32)
  | .sexth => plain ((a.extractLsb' 0 16).signExtend 32)
  | .zextb => plain (a &&& 0xFF)
  | .zexth => plain (a &&& 0xFFFF)
  | .extu => let (p, w) := bitField b.toNat; plain ((a >>> p) &&& lowMask w)
  | .ins =>
    let (p, w) := bitField b.toNat
    let m := lowMask w <<< p
    plain ((d &&& ~~~m) ||| ((a <<< p) &&& m))
  | _ => none

/-- An ALU operation writes its rd. -/
def aluWrites (op : WOp) : Bool := !flagAlways op

/-! The accumulator (R533 to R535; 13_whorl_isa_model.md R506). -/

/-- A value of the 72-bit accumulator. -/
def acc72 (v : Int) : Nat := unsgn 72 v

/-- What a multiply-class operation leaves in the accumulator; none for any other (R533, R535). -/
def mulOut (op : WOp) (a b : Word) (acc : Nat) : Option Nat :=
  match op with
  | .mul => some (acc72 (a.toInt * b.toInt))
  | .mulu => some (acc72 (a.toNat * b.toNat : Nat))
  | .mac => some (acc72 (sgn 72 acc + a.toInt * b.toInt))
  | .macu => some (acc72 (sgn 72 acc + (a.toNat * b.toNat : Nat)))
  | .msu => some (acc72 (sgn 72 acc - a.toInt * b.toInt))
  | _ => none

/-- sat32: the clipped value, and whether it clipped. -/
def sat32 (v : Int) : Word × Bool :=
  if v > 2147483647 then (0x7FFFFFFF, true) else if v < -2147483648 then (0x80000000, true) else (BitVec.ofInt 32 v, false)

/-- round(acc, sh) (R534). -/
def accRound (acc sh : Nat) : Int :=
  if sh = 0 then sgn 72 acc else (sgn 72 acc + 2 ^ (sh - 1)) / (2 ^ sh : Nat)

/-- What a saturating operation computes before sat32; none for any other (R533). -/
def satOut (op : WOp) (a b : Word) (acc : Nat) : Option Int :=
  match op with
  | .rdacc => some (accRound acc (wget b 0 6))
  | .qadd => some (a.toInt + b.toInt)
  | .qsub => some (a.toInt - b.toInt)
  | .qshl => some (a.toInt * (2 ^ wget b 0 5 : Nat))
  | .qabs => some (if a.toInt < 0 then -a.toInt else a.toInt)
  | .qneg => some (-a.toInt)
  | _ => none

end Sys2Proof.Machine
end

