-- ==== Sys2Proof/Machine/WhlMem.lean ====
section
/-!
DEFINITION. The address space of a Whorl thread: fetches, loads and stores in local memory, packet memory and the registers
(12_whorl_cores_threads.md R446 to R453; 13_whorl_isa_model.md R483 to R490).
-/
namespace Sys2Proof.Machine

/-- The targets of a thread address (R451). -/
inductive Target
  | localMem
  | packet
  | regs
  | none
deriving DecidableEq, Repr

def targetOf (a : Nat) : Target :=
  if a < 0x10000 then .localMem
  else if 0x10000000 ≤ a ∧ a < 0x11000000 then .packet
  else if 0x20000000 ≤ a ∧ a < 0x24000000 then .regs
  else .none

/-- The thread as an agent. -/
def threadAgent (tid : Nat) : Agent := .thread (tid / 8) (tid % 8)

/-- A poisoned 8-byte word among bytes of a core's local memory: its address (R450). -/
def poisoned (s : State) (n a len : Nat) : Option Nat :=
  ((List.range len).find? fun i => mget (fun _ => false) (s.core n).poison ((a + i) / 8)).map (a + ·)

/-! Fetch (R446, R450, R452). -/

/-- What a fetch at a thread's PC finds. -/
inductive Fetched
  | word (d : Dec) (code : List Byte)
  /-- The fetch faults the thread: cause and address. -/
  | bad (cause addr : Nat)
deriving DecidableEq, Repr

/-- Fetches the word at a PC of core n in a form: code lies in local memory. -/
def fetchWord (s : State) (n pc : Nat) (form : Bool) : Fetched :=
  if pc ≥ 0x10000 then .bad 0x12 pc
  else
    let bs := (s.core n).mem.rdBytes pc (min 11 (0x10000 - pc))
    match wordDecode form bs with
    | (.more, _) => .bad 0x12 0x10000
    | (d, len) =>
      match poisoned s n pc (max 1 len) with
      | some a => .bad 0x11 a
      | none => .word d (bs.take len)

/-! Values of an access (R483, R485). -/

/-- The access size, sign extension and byte order of a load or store; none for any other operation. -/
def memShape : WOp → Option (Nat × Bool × Bool)
  | .ldb => some (1, true, false)
  | .ldbu | .stb => some (1, false, false)
  | .ldh => some (2, true, false)
  | .ldhu | .sth => some (2, false, false)
  | .ldw | .stw => some (4, false, false)
  | .ldhn => some (2, true, true)
  | .ldhun | .sthn => some (2, false, true)
  | .ldwn | .stwn => some (4, false, true)
  | _ => none

def isStore : WOp → Bool
  | .stb | .sth | .stw | .sthn | .stwn => true
  | _ => false

/-- The register value of a load of `size` bytes, given as a number, least significant byte first. -/
def loadValue (size : Nat) (signed net : Bool) (v : Nat) : Word :=
  let v := if net then byteSwap size v else v % 2 ^ (8 * size)
  if signed then BitVec.ofInt 32 (sgn (8 * size) v) else BitVec.ofNat 32 v

/-- The bytes that a store puts at its address. -/
def storeBytes (size : Nat) (net : Bool) (v : Word) : List Byte :=
  if net then (leBytes size v.toNat).reverse else leBytes size v.toNat

/-- The buffer base of a packet-relative access; none where PKH faults the thread (R487). -/
def pktBase (s : State) (h : Word) : Option Nat :=
  if badHandle s h.toNat || decide (poolCount s (hPool h.toNat) = 0) then none else some (0x10000000 + bufAddr s h.toNat)

/-! Loads over the weft (R449, R485, R488). -/

/-- The offset of a register address in a panel's window, with the panel. -/
def panelAddr (a : Nat) : Option (Nat × Nat) :=
  if 0x21000000 ≤ a ∧ a < 0x21800000 then some ((a - 0x21000000) / 0x100000, (a - 0x21000000) % 0x100000) else none

/-- A load's request leaves the thread: a panel gets it now; any other destination reads when it answers. -/
def loadIssue (tid a : Nat) (s : State) : Out :=
  match panelAddr a with
  | some (p, off) => panelRequest p ⟨threadAgent tid, false, off / 4 * 4, 0⟩ s
  | none => .next s

/-- The answer to a load comes to the thread's response, a register word whole; none while the block stalls (03_islands_and_weft.md R939),
or while a FOLLOWER's lock read waits for its logged answer (22_ply_pair.md R798). -/
def loadAnswer (tid a size : Nat) (s : State) : Option Out :=
  if targetOf a = .packet then
    let (bs, s) := if pktOpen s then pktView (a - 0x10000000) size s else ([], s)
    some (.next (respond tid (BitVec.ofNat 32 (leNat bs)) s))
  else if (panelAddr a).isSome then some (.next s)
  else
    let o := (a - 0x20000000) / 4 * 4
    if s.bar0 && blockStalls s o then none
    else if s.follower && decide (0x410000 ≤ o ∧ o < 0x410800) && (takeAnswer tid 1 s).isNone then none
    else some (busRead (threadAgent tid) o s)

/-- The bytes of a load from the response. -/
def loadPick (a size : Nat) (w : Word) : Nat :=
  if targetOf a = .regs then w.toNat / 2 ^ (8 * (a % 4)) % 2 ^ (8 * size) else w.toNat % 2 ^ (8 * size)

/-- The answer is the LEADER's to give: a lock read of a FOLLOWER. -/
def loadLogged (s : State) (a : Nat) : Bool := s.follower && decide (0x20410000 ≤ a ∧ a < 0x20410800)

/-! Stores (R449, R453, R485; 06_veneer_image.md R218; 02_guarantees.md R54). -/

/-- The owner ID of a thread's group (10_buffers_and_locks.md R375). -/
def threadOwner (tid : Nat) : Nat := 26 + tid / 16

/-- The packets a thread holds: of the task it runs, and of those parked from it. -/
def heldPackets (s : State) (tid : Nat) : List Nat :=
  let x := s.thread tid
  (x.task.toList ++ x.parked.map (·.task)).filterMap fun id => (taskOf s id).map (·.pkt.handle)

/-- A buffer is the thread's own: charged to its group, of a packet it holds, or of one that a thread of its group has kept. -/
def ownBuffer (s : State) (tid k : Nat) : Bool :=
  decide (tagOf s k = threadOwner tid) ||
    (decide (tagOf s k ≤ 0x3F) &&
      ((heldPackets s tid).contains k || decide (mget (fun _ => 0) s.bpm.threadKept k = threadOwner tid)))

/-- The byte lies outside the thread's own buffers (02_guarantees.md R54; assumption 117). -/
def foreignToThread (s : State) (tid o : Nat) : Bool :=
  match bufferAt s o with
  | some k => !ownBuffer s tid k
  | none => true

/-- A byte of packet memory that an unpredictable outcome of thread scope may change: it lies in a packet that the thread holds. -/
def inHeldPacket (s : State) (tid o : Nat) : Bool :=
  match bufferAt s o with
  | some k => (heldPackets s tid).contains k
  | none => false

/-- The outcome of an error confined to the thread (R54). -/
def threadHavoc (tid : Nat) (s : State) : State := unpredThread (inHeldPacket s tid) tid s

/-- A posted write of a thread awaits its acknowledgement. -/
def postWrite (tid a : Nat) (w : ReqWait) (s : State) : State :=
  s.setThread tid { s.thread tid with writes := (s.thread tid).writes ++ [(a, w)] }

/-- A store of bytes by a thread. A store narrower than a word in the BAR0 range is ignored. -/
def storeAt (tid a : Nat) (bs : List Byte) (s : State) : Out :=
  match targetOf a with
  | .localMem => .next (coreWrite (tid / 8) a bs s)
  | .packet =>
    let o := a - 0x10000000
    let s := postWrite tid a .ready s
    if !pktOpen s || decide (o ≥ 0xD00000) then .next s
    else if (List.range bs.length).any fun j => foreignToThread s tid (o + j) then .next (unpredDevice s)
    else .next (s.setPkt (s.pkt.wrBytes o bs))
  | .regs =>
    if bs.length ≠ 4 then .next (postWrite tid a .ready s)
    else
      let v := BitVec.ofNat 32 (leNat bs)
      match panelAddr a with
      | some (p, off) => panelRequest p ⟨threadAgent tid, true, off, v⟩ (postWrite tid a .atPanel s)
      | none =>
        let o := a - 0x20000000
        busWrite (threadAgent tid) o v (postWrite tid a (if s.bar0 && blockStalls s o then .atPanel else .ready) s)
  | .none => .next s

/-- Stores in order. -/
def storeAll (tid : Nat) : List (Nat × Word) → State → Out
  | [], s => .next s
  | (a, v) :: ws, s =>
    match storeAt tid a (leBytes 4 v.toNat) s with
    | .next s => storeAll tid ws s
    | r => r

/-! Buffers and shares (R459; 14_whorl_isa_catalogue.md R538). -/

/-- The thread's own share allows a buffer of pool i. -/
def shareAllows (s : State) (tid i : Nat) : Bool :=
  let x := s.thread tid
  let b := mget (fun _ => 255) x.bshare i
  decide (b = 255) || decide (mget (fun _ => 0) x.bused i < b)

def setBused (tid i v : Nat) (s : State) : State :=
  s.setThread tid { s.thread tid with bused := mput (fun _ => 0) (s.thread tid).bused i v }

/-- BUSED shows 8 bits a pool; a grant raises it. -/
def busedUp (tid h : Nat) (s : State) : State :=
  setBused tid (hPool h) (min 255 (mget (fun _ => 0) (s.thread tid).bused (hPool h) + 1)) s

/-- The thread gives up a buffer that is charged to its group. -/
def busedDown (tid h : Nat) (s : State) : State :=
  if badHandle s h || decide (tagOf s h ≠ threadOwner tid) then s
  else setBused tid (hPool h) (mget (fun _ => 0) (s.thread tid).bused (hPool h) - 1) s

/-- A FOLLOWER's pool gives the buffer that the LEADER's did (22_ply_pair.md R796). -/
def takeBuf (o h : Nat) (s : State) : State :=
  let i := hPool h
  let x := hIndex h
  let s := if poolBitmap s i then s
    else setCache i ((cacheOf s i).filter (· ≠ x)) (setSpilled i ((spilledOf s i).filter (· ≠ x)) s)
  chargeBuf o i x o s

/-- BALLOC: the handle, or 0x8000_0000 + status, comes to the thread's response; none while a FOLLOWER waits for its answer. -/
def ballocAnswer (tid len : Nat) (esc : Bool) (s : State) : Option Out :=
  let o := threadOwner tid
  if !s.up islBPM then none
  else if s.follower then
    (takeAnswer tid 0 s).map fun (v, s) =>
      .next (respond tid v (if v.msb || badHandle s v.toNat then s else busedUp tid v.toNat (takeBuf o v.toNat s)))
  else
    let (st, h, s) := requestBuf o len esc (shareAllows s tid) s
    let v : Word := if st = 0 then BitVec.ofNat 32 h else BitVec.ofNat 32 (2 ^ 31 + st)
    some (.next (respond tid v (logAnswer tid 0 v (if st = 0 then busedUp tid h s else s))))

/-- FADD: the counter's old value comes to the thread's response (10_buffers_and_locks.md R397). -/
def faddAnswer (tid k : Nat) (v : Word) (s : State) : Option Out :=
  if !s.up islBPM || (s.follower && (takeAnswer tid 2 s).isNone) then none else some (.next (addLoad (threadAgent tid) k v s))

/-- A frame that reaches beyond its buffer, or has none (14_whorl_isa_catalogue.md R540). -/
def beyondBuffer (s : State) (h len doff : Nat) : Bool := badHandle s h || decide (poolSize s (hPool h) < len + doff)

/-- SEND: its status comes to the thread's response (R460, R540). -/
def sendAnswer (tid : Nat) (dst h fr : Word) (s : State) : Option Out :=
  let p := wget dst 0 4
  let c := wget dst 8 3
  let len := wget fr 0 16
  let doff := wget fr 16 16
  let x := s.thread tid
  if !s.up islPRT then none
  else if p > 8 then some (.next (respond tid 4 s))
  else if x.qused ≥ x.qshare ∨ !egRoom s p c then some (.next (respond tid 3 s))
  else if beyondBuffer s h.toNat len doff then
    let (v, s) := (unpredDevice s).draw 35
    some (.next (respond tid (BitVec.ofNat 32 v) s))
  else
    let s := busedDown tid h.toNat s
    let s := s.setThread tid { s.thread tid with qused := (s.thread tid).qused + 1 }
    let f : EgFrame := { handle := h.toNat, len := len, doff := doff, tag := none, stamp := 0, rtag := none, vid := 0, pcp := 0,
                         sender := some tid }
    some (.next (respond tid 0 (egPlaceAll (2 ^ p) c f s)))

end Sys2Proof.Machine
end

