-- ==== Sys2Proof/Machine/WhlExec.lean ====
section
/-!
DEFINITION. The execution of a Whorl word: special registers, each operation's effect, words with weft requests, two-slot words,
and the issue of a word (13_whorl_isa_model.md R476 to R519; 14_whorl_isa_catalogue.md R525 to R543).
-/
namespace Sys2Proof.Machine

/-- A weft request that holds a word (12_whorl_cores_threads.md R449; 14_whorl_isa_catalogue.md R524). -/
inductive Need
  | load (addr size : Nat)
  | balloc (len : Nat) (esc : Bool)
  | fadd (k : Nat) (v : Word)
  | send (dst h fr : Word)

/-- What an operation does, once its operands are read. -/
inductive Act
  | fault (cause addr : Nat)
  /-- Of thread scope (13_whorl_isa_model.md R480). -/
  | unpredictable
  | wait (n : Need)
  | run (f : State → Out)

/-- The operation changes its thread only. -/
def onThread (tid : Nat) (f : Thread → Thread) : Act := .run fun s => .next (s.setThread tid (f (s.thread tid)))

/-- The operation changes the state without a fault. -/
def onState (f : State → State) : Act := .run fun s => .next (f s)

/-- A thread address. -/
def addr32 (v : Int) : Nat := unsgn 32 v

/-! Special registers (13_whorl_isa_model.md R478 to R482). -/

/-- TSTAT (R480). -/
def tstatWord (x : Thread) : Word :=
  BitVec.ofNat 32 (b2n x.form + 2 * b2n x.lform + 16 * b2n x.flags.n + 32 * b2n x.flags.z + 64 * b2n x.flags.c + 128 * b2n x.flags.v
    + 256 * b2n x.q + 512 * b2n x.werr + 1024 * b2n x.wflt)

/-- A thread with TSTAT written; FORM is unchanged (R479). -/
def setTstat (v : Word) (x : Thread) : Thread :=
  { x with lform := v.getLsbD 1, flags := ⟨v.getLsbD 4, v.getLsbD 5, v.getLsbD 6, v.getLsbD 7⟩, q := v.getLsbD 8, werr := v.getLsbD 9,
           wflt := v.getLsbD 10 }

/-- Reads of the accumulator's three registers (R478). -/
def accPart (acc n : Nat) : Word :=
  if n = 0 then BitVec.ofNat 32 acc
  else if n = 1 then BitVec.ofNat 32 (acc / 2 ^ 32)
  else BitVec.ofInt 32 (sgn 8 (acc / 2 ^ 64))

/-- A special register as MFS reads it; the accumulator within three words of a multiply-class word and a lookup's result before its
event are free values (R507, R510). -/
def sregRead (tid n : Nat) (s : State) : Word × State :=
  let x := s.thread tid
  let now := s.tnow (islWHL (tid / 8))
  let free (kind : Nat) : Word × State := let (v, s) := s.draw kind; (BitVec.ofNat 32 v, s)
  match n with
  | 0 | 1 | 2 => if x.accAge < 4 then free 24 else (accPart x.acc n, s)
  | 3 => (BitVec.ofNat 32 x.tcmp, s)
  | 4 => (BitVec.ofNat 32 (x.tcmp / 2 ^ 32), s)
  | 5 => (BitVec.ofNat 32 now, s.setThread tid { x with tnowCap := some (BitVec.ofNat 32 (now / 2 ^ 32)) })
  | 6 =>
    match x.tnowCap with
    | some h => (h, s.setThread tid { x with tnowCap := none })
    | none => (BitVec.ofNat 32 (now / 2 ^ 32), s)
  | 7 => (BitVec.ofNat 32 x.evp, s)
  | 8 => (BitVec.ofNat 32 x.evm, s)
  | 9 => (tstatWord x, s)
  | 10 => (x.yarn, s)
  | 11 => (x.pkh, s)
  | 12 => if x.lookup.isSome then free 25 else (x.lkr0, s)
  | 13 => if x.lookup.isSome then free 25 else (x.lkr1, s)
  | 14 => (ctlRead s tid 0x0C, s)
  | 15 => (x.flta, s)
  | _ => (BitVec.ofNat 32 (tid % 8 + tid / 8 * 256 + tid * 65536), s)

/-- A bit of a special register that is reserved: EVP and EVM bit 7 and above 15, TSTAT outside its fields (R480). -/
def sregReserved (n : Nat) : Word :=
  match n with
  | 7 | 8 => 0xFFFF0080
  | 9 => 0xFFFFF80C
  | _ => 0

/-- MTS of a value (R478, R479, R481, R482). Writing the accumulator is a multiply-class operation (R506). -/
def sregWrite (tid n : Nat) (v : Word) : Act :=
  if v &&& sregReserved n ≠ 0 then .unpredictable
  else
    match n with
    | 0 => onThread tid fun x => { x with acc := x.acc / 2 ^ 32 * 2 ^ 32 + v.toNat, accAge := 0 }
    | 1 => onThread tid fun x => { x with acc := x.acc / 2 ^ 64 * 2 ^ 64 + v.toNat * 2 ^ 32 + x.acc % 2 ^ 32, accAge := 0 }
    | 2 => onThread tid fun x => { x with acc := wget v 0 8 * 2 ^ 64 + x.acc % 2 ^ 64, accAge := 0 }
    | 3 => onThread tid fun x => { x with tcmpHeld := some v }
    | 4 => onState fun s =>
      let x := s.thread tid
      tcmpWrite tid (v.toNat * 2 ^ 32 + (match x.tcmpHeld with | some l => l.toNat | none => x.tcmp % 2 ^ 32)) s
    | 7 => onThread tid fun x => { x with evp := x.evp - (x.evp &&& v.toNat) }
    | 8 => onThread tid fun x => { x with evm := v.toNat }
    | 9 => onThread tid (setTstat v)
    | _ => onThread tid fun x => { x with pkh := v }

/-! Loads, stores and the stack (R531, R532). -/

/-- The computed address of a load or store; a short operation's base as it is. -/
def memAddr (i : Insn) (x : Thread) : Nat := addr32 ((x.reg i.ra).toNat + (if i.upd ≠ 0 then 0 else i.imm))

/-- The fault of an access of `size` bytes at an address: ADDR, then ALIGN, then ECC for a local load (R484, R517;
12_whorl_cores_threads.md R450, R452). -/
def accessFault (s : State) (tid a size : Nat) (load : Bool) : Option (Nat × Nat) :=
  if targetOf a = .none then some (0x12, a)
  else if a % size ≠ 0 then some (2, a)
  else if load && targetOf a = .localMem then (poisoned s (tid / 8) a size).map fun b => (0x11, b)
  else none

/-- The base register after a short load or store (R531). -/
def baseUpdate (i : Insn) (size : Nat) (base : Word) (x : Thread) : Thread :=
  match i.upd with
  | 1 => x.setReg i.ra (base + BitVec.ofNat 32 size)
  | 2 => x.setReg i.ra (base - BitVec.ofNat 32 size)
  | _ => x

/-- A load or store (R483 to R488). A destination that is also the base keeps the loaded value. -/
def memAct (i : Insn) (shape : Nat × Bool × Bool) (tid : Nat) (x : Thread) (got : List Word) (s : State) : Act :=
  let (size, signed, net) := shape
  let base := x.reg i.ra
  let dest (v : Nat) (y : Thread) : Thread := (baseUpdate i size base y).setReg i.rd (loadValue size signed net v)
  match (if i.pkt then (pktBase s x.pkh).map fun b => addr32 ((memAddr i x + b : Nat)) else some (memAddr i x)) with
  | none => .fault 0x12 (memAddr i x)
  | some a =>
    match accessFault s tid a size (!isStore i.op) with
    | some (c, b) => .fault c b
    | none =>
      if isStore i.op then
        .run fun s =>
          match storeAt tid a (storeBytes size net (x.reg i.rd)) s with
          | .next s => .next (s.setThread tid (baseUpdate i size base (s.thread tid)))
          | r => r
      else if targetOf a = .localMem then onThread tid (dest (leNat ((s.core (tid / 8)).mem.rdBytes a size)))
      else
        match got with
        | w :: _ => onThread tid (dest (loadPick a size w))
        | [] => .wait (.load a size)

/-- The registers that a mask names, in ascending order (R532). -/
def maskRegs (imm : Int) : List Nat := (List.range 16).filter fun n => decide (n ≠ 0) && bitOf (unsgn 32 imm) n

/-- The words of a PUSH or POP lie in the map and in one piece of it that needs no check but this, and are aligned; otherwise the
fault (R532). The FLTA of a misaligned sp is sp. -/
def stackFault (s : State) (tid sp lo : Nat) (n : Nat) (load : Bool) : Option (Nat × Nat) :=
  match (List.range n).find? fun k => decide (targetOf ((lo + 4 * k) % 2 ^ 32) = .none) with
  | some k => some (0x12, (lo + 4 * k) % 2 ^ 32)
  | none =>
    if sp % 4 ≠ 0 then some (2, sp)
    else if load then
      (List.range n).findSome? fun k =>
        let a := (lo + 4 * k) % 2 ^ 32
        if targetOf a = .localMem then (poisoned s (tid / 8) a 4).map fun b => (0x11, b) else none
    else none

/-- PUSH: the registers as they stood, in ascending order from the new sp. -/
def pushAct (i : Insn) (tid : Nat) (x : Thread) (s : State) : Act :=
  let rs := maskRegs i.imm
  let sp := (x.reg 14).toNat
  let lo := addr32 ((sp : Int) - 4 * rs.length)
  match stackFault s tid sp lo rs.length false with
  | some (c, a) => .fault c a
  | none =>
    .run fun s =>
      match storeAll tid ((List.range rs.length).map fun k => ((lo + 4 * k) % 2 ^ 32, x.reg (rs.getD k 0))) s with
      | .next s => .next (s.setThread tid ((s.thread tid).setReg 14 (BitVec.ofNat 32 lo)))
      | r => r

/-- The words of a POP: each from local memory, or the next answer of the weft; the address that still waits. -/
def popWords (s : State) (n : Nat) : List Nat → List Word → List Word × Option Nat
  | [], _ => ([], none)
  | a :: as, got =>
    if targetOf a = .localMem then
      let (ws, r) := popWords s n as got
      (BitVec.ofNat 32 (leNat ((s.core n).mem.rdBytes a 4)) :: ws, r)
    else
      match got with
      | [] => ([], some a)
      | w :: gs =>
        let (ws, r) := popWords s n as gs
        (w :: ws, r)

/-- POP: a named g14 is loaded and discarded. -/
def popAct (i : Insn) (tid : Nat) (x : Thread) (got : List Word) (s : State) : Act :=
  let rs := maskRegs i.imm
  let sp := (x.reg 14).toNat
  match stackFault s tid sp sp rs.length true with
  | some (c, a) => .fault c a
  | none =>
    match popWords s (tid / 8) ((List.range rs.length).map fun k => (sp + 4 * k) % 2 ^ 32) got with
    | (_, some a) => .wait (.load a 4)
    | (ws, none) =>
      onThread tid fun y =>
        ((rs.zip ws).foldl (fun y e => if e.1 = 14 then y else y.setReg e.1 e.2) y).setReg 14 (BitVec.ofNat 32 (sp + 4 * rs.length))

/-! Control transfers (R528 to R530; 13_whorl_isa_model.md R504). -/

/-- The address a branch reaches from the word at `pc`. -/
def branchTo (pc : Nat) (d : Int) : Nat := addr32 (pc + d)

/-- The target of J and JL (R529). -/
def jumpTo (x : Thread) (v : Word) : Nat := if x.form then v.toNat / 4 * 4 else v.toNat

/-- A thread that goes to an address in a form, and links where it does (R504, R529). -/
def goTo (a : Nat) (form : Bool) (link : Option Nat) (lform : Bool) (y : Thread) : Thread :=
  let y := match link with | some l => y.setReg 15 (BitVec.ofNat 32 l) | none => y
  { y with pc := a, form := form, lform := lform }

/-- The returns a thread owes after a JXL: the routine that executes it has one more, and has executed a JXL itself (R530). -/
def jxlRets (x : Thread) (link : Nat) : List (Nat × Bool × Bool) :=
  (link, x.form, false) :: (match x.rets with | (l, f, _) :: rs => (l, f, true) :: rs | [] => [])

/-- An RTX does not return by what its routine was reached with, and the routine executed a JXL in between (R530). -/
def rtxLost (x : Thread) : Bool :=
  match x.rets with
  | (l, f, nested) :: _ => nested && (decide ((x.reg 15).toNat ≠ l) || decide (x.lform ≠ f))
  | [] => false

/-- A form change to an address that paired form does not allow (R504). -/
def formFault (form : Bool) (a : Nat) (act : Act) : Act := if form && decide (a % 4 ≠ 0) then .fault 3 a else act

/-- A control transfer from the word at `pc`, with the next word at `next`; none for any other operation. -/
def ctlAct (i : Insn) (tid pc next : Nat) (x : Thread) : Option Act :=
  let go (a : Nat) (link : Option Nat) : Act := onThread tid (goTo a x.form link x.lform)
  let stayHere : Act := onThread tid id
  match i.op with
  | .br => some (go (branchTo pc i.imm) none)
  | .call => some (go (branchTo pc i.imm) (some next))
  | .bc => some (if condHolds i.fn (subWith (x.reg i.ra) (x.reg i.rb) true).2 then go (branchTo pc i.imm) none else stayHere)
  | .bf => some (if condHolds i.fn x.flags then go (branchTo pc i.imm) none else stayHere)
  | .j => some (go (jumpTo x (x.reg i.ra)) none)
  | .jl => some (go (jumpTo x (x.reg i.ra)) (some next))
  | .jx =>
    let a := (x.reg i.ra).toNat
    some (formFault (decide (i.fn = 1)) a (onThread tid (goTo a (decide (i.fn = 1)) none x.lform)))
  | .jxl =>
    let a := (x.reg i.ra).toNat
    some (formFault (decide (i.fn = 1)) a (onThread tid fun y => { goTo a (decide (i.fn = 1)) (some next) x.form y with rets := jxlRets x next }))
  | .rtx =>
    let a := (x.reg 15).toNat
    some (if rtxLost x then .unpredictable
      else formFault x.lform a (onThread tid fun y => { goTo a x.lform none x.lform y with rets := x.rets.drop 1 }))
  | .bnz => some (if x.reg i.rd ≠ 0 then go (branchTo pc i.imm) none else stayHere)
  | .dbnz =>
    let v := x.reg i.rd - 1
    some (onThread tid fun y =>
      let y := y.setReg i.rd v
      -- g0 reads as 0, so its decrement leaves 0xFFFF_FFFF, which is discarded, and branches.
      if v ≠ 0 then goTo (branchTo pc i.imm) x.form none x.lform y else y)
  | _ => none

/-! Tasks, buffers, locks and lookups (R537 to R541). -/

/-- The watchdog counts from 0 where a thread enters TGET, SLEEP or WAITLK (12_whorl_cores_threads.md R462). -/
def Thread.rest (x : Thread) (on now : Nat) : Thread := { x with st := 2, waitOn := on, wdogAcc := 0, wdogFrom := now }

/-- A task that its thread leaves by TGET closes as DROP (R539). -/
def closeHeld (tid : Nat) (s : State) : State :=
  match (s.thread tid).task with
  | none => s
  | some id =>
    let s := match taskOf s id with
      | some t => dropTask 0 t (s.bump R.DST_CNT_TASKDROP)
      | none => s
    s.setThread tid { s.thread tid with task := none, yarn := 0, pkh := 0 }

/-- TGET: a held task closes first; a task parked from the thread then resumes (R539; 11_distaff_and_yarns.md R425). -/
def tgetAct (tid next : Nat) (x : Thread) : Act :=
  onState fun s =>
    let held := x.task.isSome
    let s := closeHeld tid s
    let now := s.tnow (islWHL (tid / 8))
    let y := s.thread tid
    if held && decide (y.parked ≠ []) then resumeParked tid s
    else s.setThread tid { y.rest 1 now with tgetPc := next, tgetForm := x.form, tgetG14 := x.reg 14, tgetG15 := x.reg 15, tgetEvm := x.evm }

/-- TDONE (R539; 11_distaff_and_yarns.md R417, R425; 12_whorl_cores_threads.md R459). -/
def tdoneAct (i : Insn) (tid : Nat) (x : Thread) (s : State) : Act :=
  match x.task with
  | none => .fault 7 0
  | some id =>
    let slot := 0xFF00 + 32 * (tid % 8)
    let len := leNat ((s.core (tid / 8)).mem.rdBytes (slot + 20) 2)
    let doff := leNat ((s.core (tid / 8)).mem.rdBytes (slot + 22) 2)
    let disp := i.fn % 4
    .run fun s =>
      match taskOf s id with
      | none => .next s
      | some t =>
        if beyondBuffer s t.pkt.handle len doff then .next (unpredDevice s)
        else
          let s := if disp = 3 then setThreadKept t.pkt.handle (threadOwner tid) s else busedDown tid x.pkh.toNat s
          let tag := if bitOf i.fn 2 then some (wget (x.reg i.rb) 0 16) else none
          let s := finishTask id disp (wget (x.reg i.ra) 0 9) tag len doff s
          let y := s.thread tid
          .next (resumeParked tid (s.setThread tid { y with task := none, yarn := 0, pkh := if disp = 3 then y.pkh else 0 }))

/-- SLEEP (12_whorl_cores_threads.md R456). -/
def sleepAct (tid : Nat) : Act :=
  onState fun s =>
    let now := s.tnow (islWHL (tid / 8))
    let x := s.thread tid
    s.setThread tid (if x.evp &&& x.evm ≠ 0 then { x with wdogAcc := 0, wdogFrom := now } else x.rest 2 now)

/-- WAITLK: a LOCK event that is pending, or a free lock, ends the wait at once (R455, R456; 10_buffers_and_locks.md R392). -/
def waitlkAct (tid n : Nat) : Act :=
  onState fun s =>
    let now := s.tnow (islWHL (tid / 8))
    let x := s.thread tid
    if bitOf x.evp 2 then s.setThread tid { x with evp := x.evp - 4, wdogAcc := 0, wdogFrom := now }
    else
      let l := s.lock n
      if !l.held then s.setThread tid { x with wdogAcc := 0, wdogFrom := now }
      else (s.setLock n { l with waiters := l.waiters ++ [tid] }).setThread tid { x.rest 3 now with waitLock := some n }

/-- LKUP: the key is copied at once (R541). -/
def lkupAct (tbl tid a : Nat) (s : State) : Act :=
  let n := if tbl = 0 then 8 else if tbl ≤ 4 then 4 else 16
  if a + n > 0x10000 then .fault 0x12 a
  else if a % 8 ≠ 0 then .fault 2 a
  else
    match poisoned s (tid / 8) a n with
    | some b => .fault 0x11 b
    | none =>
      let key := (s.core (tid / 8)).mem.rdBytes a n
      onThread tid fun x => { x with evp := x.evp - (x.evp &&& 2), lookup := some (tbl, key) }

/-- BFREE: posted (R537; 12_whorl_cores_threads.md R459). -/
def bfreeAct (tid : Nat) (h : Word) : Act :=
  onState fun s => freeBuf h.toNat (busedDown tid h.toNat (postWrite tid 0 .ready s))

/-- FENCE (R543; 12_whorl_cores_threads.md R462). -/
def fenceAct (tid : Nat) (x : Thread) : Act :=
  if x.writes = [] then onThread tid id else onThread tid fun y => { y with st := 2, waitOn := 4, fencing := true }

/-- A system operation; none for any other. -/
def sysAct (i : Insn) (tid next : Nat) (x : Thread) (got : List Word) (s : State) : Option Act :=
  let answered (n : Need) : Act :=
    match got with
    | w :: _ => onThread tid fun y => y.setReg i.rd w
    | [] => .wait n
  match i.op with
  | .nop => some (onThread tid id)
  | .mfs => some (onState fun s =>
      let (v, s) := sregRead tid (unsgn 32 i.imm) s
      s.setThread tid ((s.thread tid).setReg i.rd v))
  | .mts => some (sregWrite tid (unsgn 32 i.imm) (x.reg i.ra))
  | .fence => some (fenceAct tid x)
  | .trap => some (.fault 8 (unsgn 32 i.imm))
  | .tget => some (tgetAct tid next x)
  | .tdone => some (tdoneAct i tid x s)
  | .send => some (answered (.send (x.reg i.rd) (x.reg i.ra) (x.reg i.rb)))
  | .balloc => some (answered (.balloc (x.reg i.ra).toNat (bitOf i.fn 0)))
  | .bfree => some (bfreeAct tid (x.reg i.ra))
  | .waitlk => some (waitlkAct tid (wget (x.reg i.ra) 0 9))
  | .fadd => some (answered (.fadd (wget (x.reg i.ra) 0 7) (x.reg i.rb)))
  | .sleep => some (sleepAct tid)
  | .lkup => some (lkupAct i.fn tid (x.reg i.ra).toNat s)
  | .push => some (pushAct i tid x s)
  | .pop => some (popAct i tid x got s)
  | _ => none

/-! Any operation. -/

/-- The second source of an ALU, multiply or saturating operation: its immediate, where its encoding has one. -/
def operandB (i : Insn) (x : Thread) : Word := if (roles i.op).2.2 then x.reg i.rb else BitVec.ofInt 32 i.imm

/-- A saturating operation, or RDACC, whose accumulator within three words of a multiply-class word is a free value (R534;
13_whorl_isa_model.md R507). -/
def satAct (i : Insn) (tid : Nat) (x : Thread) : Act :=
  .run fun s =>
    let (acc, s) := if i.op = .rdacc ∧ x.accAge < 4 then (let (v, s) := s.draw 24; (v % 2 ^ 72, s)) else (x.acc, s)
    let (v, c) := sat32 ((satOut i.op (x.reg i.ra) (operandB i x) acc).getD 0)
    let y := (s.thread tid).setReg i.rd v
    .next (s.setThread tid { y with q := y.q || c })

/-- What an operation at `pc` does, its operands as the thread x holds them; `got` are the answers of its weft requests so far. -/
def opAct (i : Insn) (tid pc next : Nat) (x : Thread) (got : List Word) (s : State) : Act :=
  if (match i.cond with | some cc => !condHolds cc x.flags | none => false) then onThread tid id
  else if i.late then .fault 1 0
  else
    let b := operandB i x
    match aluOut i.op (x.reg i.ra) b (x.reg i.rd) x.flags with
    | some (v, f) =>
      onThread tid fun y =>
        let y := if aluWrites i.op then y.setReg i.rd v else y
        if i.setf then { y with flags := f } else y
    | none =>
      match mulOut i.op (x.reg i.ra) b x.acc with
      | some v => onThread tid fun y => { y with acc := v, accAge := 0 }
      | none =>
        if (satOut i.op (x.reg i.ra) b x.acc).isSome then satAct i tid x
        else
          match memShape i.op with
          | some sh => memAct i sh tid x got s
          | none =>
            match ctlAct i tid pc next x with
            | some a => a
            | none => (sysAct i tid next x got s).getD (.fault 1 0)

/-! Words (13_whorl_isa_model.md R502, R508; 12_whorl_cores_threads.md R465). -/

/-- A thread one word later: the age of the latest multiply-class word counts on (R507, R508). -/
def Thread.nextWord (x : Thread) : Thread := { x with accAge := min 4 (x.accAge + 1) }

/-- The thread goes on past the word, running; the watchdog of one that waited for a logged answer counts on from now. -/
def wordDone (tid next : Nat) (s : State) : State :=
  let x := s.thread tid
  let held := match x.read with | some r => r.logged | none => false
  s.setThread tid { x.nextWord with
    pc := next, st := 1, waitOn := 0, read := none, wdogFrom := if held then s.tnow (islWHL (tid / 8)) else x.wdogFrom }

/-- The answer to a request is the LEADER's to give (22_ply_pair.md R796, R798). -/
def needLogged (s : State) : Need → Bool
  | .load a _ => loadLogged s a
  | .balloc _ _ => s.follower
  | .fadd _ _ => s.follower
  | .send _ _ _ => false

/-- A word waits for a weft request, which leaves the thread. -/
def wordWait (tid : Nat) (code : List Byte) (got : List Word) (n : Need) (s : State) : Out :=
  let x := s.thread tid
  let log := needLogged s n
  let wait : ReqWait := match n with | .load a _ => if (panelAddr a).isSome then .atPanel else .ready | _ => .ready
  let acc := wdogCount s tid
  let s := s.setThread tid { x with st := 2, waitOn := 4, read := some ⟨code, got, wait, log⟩, wdogAcc := acc
                                    wdogFrom := s.tnow (islWHL (tid / 8)) }
  match n with
  | .load a _ => loadIssue tid a s
  | _ => .next s

/-- The act of a word, and its next address: both slots read their operands before either writes, slot A's results come first, and a
fault of either keeps both from completing (R502). -/
def wordAct (tid : Nat) (code : List Byte) (got : List Word) (s : State) : Act × Nat :=
  let x := (s.thread tid).nextWord
  let (d, len) := wordDecode x.form code
  let next := (x.pc + len) % 2 ^ 32
  match d with
  | .one i => (opAct i tid x.pc next x got s, next)
  | .two a b =>
    if dependent a b then (.unpredictable, next)
    else
      match opAct a tid x.pc next x got s, opAct b tid x.pc next x [] s with
      | .run f, .run g => (.run fun s => match f s with | .next s => g s | r => r, next)
      | .run _, r => (r, next)
      | .wait _, .fault c b => (.fault c b, next)
      | r, _ => (r, next)
  | .bit15 => (.unpredictable, next)
  | _ => (.fault 1 0, next)

/-- Executes a word as far as its weft requests allow. -/
def runWord (tid : Nat) (code : List Byte) (got : List Word) (s : State) : Out :=
  match wordAct tid code got s with
  | (.fault c a, _) => .next (threadFault tid c (BitVec.ofNat 32 a) s)
  | (.unpredictable, _) => .next (threadHavoc tid s)
  | (.wait n, _) => wordWait tid code got n s
  | (.run f, next) => f (wordDone tid next s)

/-! Issue (12_whorl_cores_threads.md R447, R448). -/

/-- The thread issues: RUN, on a core that is on and in service, or that a patch lets run on to idle (06_veneer_image.md R230), with the
device not halted. -/
def canIssue (s : State) (tid : Nat) : Bool :=
  decide (tid < 384) && decide ((s.thread tid).st = 1) && s.up (islWHL (tid / 8)) && (inService s (tid / 8) || (s.core (tid / 8)).patching) && !s.halted

/-- The command that a word is the meaning of. -/
inductive Row
  | op (w : WOp)
  /-- PLD and PST. -/
  | packet (store : Bool)
  | pair
  | undefined
deriving DecidableEq, Repr

/-- An instruction that a row names. -/
def rowIs (r : Row) (i : Insn) : Bool :=
  match r with
  | .op w => decide (i.op = w) && !i.pkt
  | .packet st => i.pkt && decide (isStore i.op = st)
  | _ => false

/-- A word is of a row: a single instruction or operation; of a two-slot word the one operation beside a NOP, or the word itself; a word
that faults with ILL. -/
def fits (r : Row) (d : Dec) : Bool :=
  match r, d with
  | .undefined, .ill => true
  | .undefined, .one i => i.late
  | .pair, .two _ _ => true
  | .pair, .bit15 => true
  | r, .one i => rowIs r i
  | r, .two a b => (rowIs r a && decide (b.op = .nop)) || (rowIs r b && decide (a.op = .nop))
  | _, _ => false

/-- A thread issues the word at its PC, where it is of the row; a store error that has come faults it first (R489). -/
def issue (r : Row) (tid : Nat) (s : State) : Out :=
  let x := s.thread tid
  if !canIssue s tid then stay s
  else
    match x.storeErr with
    | some a => .next (threadFault tid 5 (BitVec.ofNat 32 a) s)
    | none =>
      match fetchWord s (tid / 8) x.pc x.form with
      | .bad c a => if r = .undefined then .next (threadFault tid c (BitVec.ofNat 32 a) s) else stay s
      | .word d code => if fits r d then runWord tid code [] s else stay s

/-! Responses (R488 to R490, R543). -/

/-- The answer to a request that can be answered: it stands in the thread's response. -/
def needAnswer (tid : Nat) (n : Need) (s : State) : Option Out :=
  match n with
  | .load a size => loadAnswer tid a size s
  | .balloc len esc => ballocAnswer tid len esc s
  | .fadd k v => faddAnswer tid k v s
  | .send dst h fr => sendAnswer tid dst h fr s

/-- A word goes on with one more answer. -/
def wordAnswer (tid : Nat) (r : WeftRead) (w : Word) (s : State) : Out := runWord tid r.code (r.got ++ [w]) s

/-- A weft read completes with PANEL_BUSY (R488). -/
def readBusy (tid a : Nat) (r : WeftRead) (s : State) : Out :=
  let x := s.thread tid
  if x.wflt then .next (threadFault tid 4 (BitVec.ofNat 32 a) s) else wordAnswer tid r 0 (s.setThread tid { x with werr := true })

/-- The destination's action for an uncorrectable word that a load met: BPM's for packet memory (13_whorl_isa_model.md R490;
10_buffers_and_locks.md R384). Another block's is in its own rows. -/
def readEcc (a : Nat) (s : State) : State :=
  if targetOf a = .packet then ownerAction 0 ((a - 0x10000000) / 2 ^ 21) (a - 0x10000000) s else s

/-- WEFT_READ_RESPONSE; `ecc`: the destination reports uncorrectable data. -/
def execWeftReadResponse (tid : Nat) (ecc : Bool) (s : State) : Out :=
  let x := s.thread tid
  match x.read with
  | none => stay s
  | some r =>
    if decide (x.st ≠ 2 ∨ x.waitOn ≠ 4) || decide (r.wait = .atPanel) || s.halted then stay s
    else
      match (wordAct tid r.code r.got s).1 with
      | .wait n =>
        let a := match n with | .load a _ => a | _ => 0
        if r.wait = .busy then readBusy tid a r s
        else
          match needAnswer tid n s with
          | none => stay s
          | some (.next t) =>
            match n with
            | .load _ _ =>
              if ecc then .next (threadFault tid 6 (BitVec.ofNat 32 a) (readEcc a t))
              else wordAnswer tid r (mget (fun _ => 0) t.resp tid) t
            | _ => wordAnswer tid r (mget (fun _ => 0) t.resp tid) t
          | some o => o
      | _ => stay s

/-- WEFT_STORE_RESPONSE: the i-th outstanding write of a thread completes (R489; 03_islands_and_weft.md R86). -/
def execWeftStoreResponse (tid i : Nat) (s : State) : Out :=
  let x := s.thread tid
  match x.writes[i]? with
  | none => stay s
  | some (a, w) =>
    if w = .atPanel then stay s
    else
      let x := { x with writes := x.writes.eraseIdx i }
      if w = .busy ∧ (x.st = 1 ∨ x.st = 2) then
        let s := s.setThread tid { x with werr := true }
        if !x.wflt then .next s
        else if x.st = 1 then .next (threadFault tid 5 (BitVec.ofNat 32 a) s)
        else .next (s.setThread tid { s.thread tid with storeErr := some a })
      else .next (s.setThread tid x)

/-- FENCE_COMPLETE: every earlier write has completed. -/
def execFenceComplete (tid : Nat) (s : State) : Out :=
  let x := s.thread tid
  if !x.fencing || decide (x.writes ≠ []) || s.halted then stay s
  else .next (s.setThread tid { x with st := 1, waitOn := 0, fencing := false })

end Sys2Proof.Machine
end

