-- ==== Sys2Proof/Machine/Whl.lean ====
section
/-!
DEFINITION. The Whorl instructions: what each command of the catalogue does with the thread that issues it, numbered 8n + t
(14_whorl_isa_catalogue.md R525 to R542). A command has an effect where the word at the thread's PC is of its row.
-/
namespace Sys2Proof.Machine

/-- PAIRED_WORD: two short operations as one word (13_whorl_isa_model.md R497 to R503). -/
def execPairedWord (tid : Nat) (s : State) : Out := issue .pair tid s

/-- UNDEFINED_OPCODE: a word that faults with ILL, or that cannot be fetched (13_whorl_isa_model.md R491, R494, R500;
12_whorl_cores_threads.md R450, R452). -/
def execUndefinedOpcode (tid : Nat) (s : State) : Out := issue .undefined tid s

/-- WAITLK: registers on a lock and sleeps until it is released. (R392) -/
def execWaitlk (tid : Nat) (s : State) : Out := issue (.op .waitlk) tid s

/-- SLEEP: waits until an unmasked event is pending. (R456) -/
def execSleep (tid : Nat) (s : State) : Out := issue (.op .sleep) tid s

/-- MOV: copies a register. (R525) -/
def execMov (tid : Nat) (s : State) : Out := issue (.op .mov) tid s

/-- ADD: adds two registers. (R525) -/
def execAdd (tid : Nat) (s : State) : Out := issue (.op .add) tid s

/-- ADC: adds two registers and carry. (R525) -/
def execAdc (tid : Nat) (s : State) : Out := issue (.op .adc) tid s

/-- SUB: subtracts two registers. (R525) -/
def execSub (tid : Nat) (s : State) : Out := issue (.op .sub) tid s

/-- SBC: subtracts with borrow. (R525) -/
def execSbc (tid : Nat) (s : State) : Out := issue (.op .sbc) tid s

/-- AND: bitwise AND of two registers. (R525) -/
def execAnd (tid : Nat) (s : State) : Out := issue (.op .and) tid s

/-- OR: bitwise OR of two registers. (R525) -/
def execOr (tid : Nat) (s : State) : Out := issue (.op .or) tid s

/-- XOR: bitwise XOR of two registers. (R525) -/
def execXor (tid : Nat) (s : State) : Out := issue (.op .xor) tid s

/-- BIC: bit clear of two registers. (R525) -/
def execBic (tid : Nat) (s : State) : Out := issue (.op .bic) tid s

/-- SHL: shifts left by a register amount. (R526) -/
def execShl (tid : Nat) (s : State) : Out := issue (.op .shl) tid s

/-- SHR: shifts right with zero fill by a register amount. (R526) -/
def execShr (tid : Nat) (s : State) : Out := issue (.op .shr) tid s

/-- SAR: shifts right with sign fill by a register amount. (R526) -/
def execSar (tid : Nat) (s : State) : Out := issue (.op .sar) tid s

/-- ROR: rotates right by a register amount. (R525) -/
def execRor (tid : Nat) (s : State) : Out := issue (.op .ror) tid s

/-- MIN: signed minimum. (R525) -/
def execMin (tid : Nat) (s : State) : Out := issue (.op .min) tid s

/-- MAX: signed maximum. (R525) -/
def execMax (tid : Nat) (s : State) : Out := issue (.op .max) tid s

/-- MINU: unsigned minimum. (R525) -/
def execMinu (tid : Nat) (s : State) : Out := issue (.op .minu) tid s

/-- MAXU: unsigned maximum. (R525) -/
def execMaxu (tid : Nat) (s : State) : Out := issue (.op .maxu) tid s

/-- CMP: sets flags from a register subtraction. (R525) -/
def execCmp (tid : Nat) (s : State) : Out := issue (.op .cmp) tid s

/-- TST: sets flags from a register AND. (R525) -/
def execTst (tid : Nat) (s : State) : Out := issue (.op .tst) tid s

/-- CLZ: counts leading zeros. (R525) -/
def execClz (tid : Nat) (s : State) : Out := issue (.op .clz) tid s

/-- BSWAP: reverses byte order. (R525) -/
def execBswap (tid : Nat) (s : State) : Out := issue (.op .bswap) tid s

/-- SEXTB: sign-extends a byte. (R525) -/
def execSextb (tid : Nat) (s : State) : Out := issue (.op .sextb) tid s

/-- SEXTH: sign-extends a half-word. (R525) -/
def execSexth (tid : Nat) (s : State) : Out := issue (.op .sexth) tid s

/-- ZEXTB: zero-extends a byte, short operation only. (R525) -/
def execZextb (tid : Nat) (s : State) : Out := issue (.op .zextb) tid s

/-- ZEXTH: zero-extends a half-word, short operation only. (R525) -/
def execZexth (tid : Nat) (s : State) : Out := issue (.op .zexth) tid s

/-- NEG: negates a register. (R525) -/
def execNeg (tid : Nat) (s : State) : Out := issue (.op .neg) tid s

/-- NOT: inverts a register. (R525) -/
def execNot (tid : Nat) (s : State) : Out := issue (.op .not) tid s

/-- MOVI: loads an immediate. (R527) -/
def execMovi (tid : Nat) (s : State) : Out := issue (.op .movi) tid s

/-- MOVHI: loads an immediate into the high half. (R527) -/
def execMovhi (tid : Nat) (s : State) : Out := issue (.op .movhi) tid s

/-- ADDI: adds an immediate. (R527) -/
def execAddi (tid : Nat) (s : State) : Out := issue (.op .addi) tid s

/-- ANDI: aNDs an immediate. (R527) -/
def execAndi (tid : Nat) (s : State) : Out := issue (.op .andi) tid s

/-- ORI: oRs an immediate. (R527) -/
def execOri (tid : Nat) (s : State) : Out := issue (.op .ori) tid s

/-- XORI: xORs an immediate. (R527) -/
def execXori (tid : Nat) (s : State) : Out := issue (.op .xori) tid s

/-- SHLI: shifts left by an immediate. (R527) -/
def execShli (tid : Nat) (s : State) : Out := issue (.op .shli) tid s

/-- SHRI: shifts right with zero fill by an immediate. (R527) -/
def execShri (tid : Nat) (s : State) : Out := issue (.op .shri) tid s

/-- SARI: shifts right with sign fill by an immediate. (R527) -/
def execSari (tid : Nat) (s : State) : Out := issue (.op .sari) tid s

/-- RORI: rotates right by an immediate. (R527) -/
def execRori (tid : Nat) (s : State) : Out := issue (.op .rori) tid s

/-- CMPI: sets flags from subtraction of an immediate. (R527) -/
def execCmpi (tid : Nat) (s : State) : Out := issue (.op .cmpi) tid s

/-- TSTI: sets flags from AND with an immediate. (R527) -/
def execTsti (tid : Nat) (s : State) : Out := issue (.op .tsti) tid s

/-- EXTU: extracts an unsigned bit field. (R527) -/
def execExtu (tid : Nat) (s : State) : Out := issue (.op .extu) tid s

/-- INS: inserts a bit field. (R527) -/
def execIns (tid : Nat) (s : State) : Out := issue (.op .ins) tid s

/-- BR: branches by a displacement. (R528) -/
def execBr (tid : Nat) (s : State) : Out := issue (.op .br) tid s

/-- CALL: branches and writes the link register. (R529) -/
def execCall (tid : Nat) (s : State) : Out := issue (.op .call) tid s

/-- BC: branches if a condition on a register comparison holds. (R528) -/
def execBc (tid : Nat) (s : State) : Out := issue (.op .bc) tid s

/-- BF: branches if a condition on the flags holds. (R528) -/
def execBf (tid : Nat) (s : State) : Out := issue (.op .bf) tid s

/-- J: jumps to a register target. (R529) -/
def execJ (tid : Nat) (s : State) : Out := issue (.op .j) tid s

/-- JL: jumps to a register target and links. (R529) -/
def execJl (tid : Nat) (s : State) : Out := issue (.op .jl) tid s

/-- JX: jumps to a register target and sets the instruction form. (R504) -/
def execJx (tid : Nat) (s : State) : Out := issue (.op .jx) tid s

/-- JXL: jumps, sets the form and saves the return address and form. (R504) -/
def execJxl (tid : Nat) (s : State) : Out := issue (.op .jxl) tid s

/-- RTX: returns to lk in the form held by LFORM. (R504) -/
def execRtx (tid : Nat) (s : State) : Out := issue (.op .rtx) tid s

/-- BNZ: branches if a register is non-zero. (R528) -/
def execBnz (tid : Nat) (s : State) : Out := issue (.op .bnz) tid s

/-- DBNZ: decrements a register and branches if non-zero. (R528) -/
def execDbnz (tid : Nat) (s : State) : Out := issue (.op .dbnz) tid s

/-- LDB: loads a sign-extended byte. (R531) -/
def execLdb (tid : Nat) (s : State) : Out := issue (.op .ldb) tid s

/-- LDBU: loads a zero-extended byte. (R531) -/
def execLdbu (tid : Nat) (s : State) : Out := issue (.op .ldbu) tid s

/-- LDH: loads a sign-extended half-word. (R531) -/
def execLdh (tid : Nat) (s : State) : Out := issue (.op .ldh) tid s

/-- LDHU: loads a zero-extended half-word. (R531) -/
def execLdhu (tid : Nat) (s : State) : Out := issue (.op .ldhu) tid s

/-- LDW: loads a word. (R531) -/
def execLdw (tid : Nat) (s : State) : Out := issue (.op .ldw) tid s

/-- STB: stores a byte. (R531) -/
def execStb (tid : Nat) (s : State) : Out := issue (.op .stb) tid s

/-- STH: stores a half-word. (R531) -/
def execSth (tid : Nat) (s : State) : Out := issue (.op .sth) tid s

/-- STW: stores a word. (R531) -/
def execStw (tid : Nat) (s : State) : Out := issue (.op .stw) tid s

/-- LDHN: loads a sign-extended half-word in network order. (R531) -/
def execLdhn (tid : Nat) (s : State) : Out := issue (.op .ldhn) tid s

/-- LDHUN: loads a zero-extended half-word in network order. (R531) -/
def execLdhun (tid : Nat) (s : State) : Out := issue (.op .ldhun) tid s

/-- LDWN: loads a word in network order. (R531) -/
def execLdwn (tid : Nat) (s : State) : Out := issue (.op .ldwn) tid s

/-- STHN: stores a half-word in network order. (R531) -/
def execSthn (tid : Nat) (s : State) : Out := issue (.op .sthn) tid s

/-- STWN: stores a word in network order. (R531) -/
def execStwn (tid : Nat) (s : State) : Out := issue (.op .stwn) tid s

/-- PLD: loads packet-relative from the buffer PKH names. (R531) -/
def execPld (tid : Nat) (s : State) : Out := issue (.packet false) tid s

/-- PST: stores packet-relative into the buffer PKH names. (R531) -/
def execPst (tid : Nat) (s : State) : Out := issue (.packet true) tid s

/-- PUSH: pushes named registers onto the stack. (R532) -/
def execPush (tid : Nat) (s : State) : Out := issue (.op .push) tid s

/-- POP: pops named registers from the stack. (R532) -/
def execPop (tid : Nat) (s : State) : Out := issue (.op .pop) tid s

/-- MUL: signed product into the accumulator. (R533) -/
def execMul (tid : Nat) (s : State) : Out := issue (.op .mul) tid s

/-- MULU: unsigned product into the accumulator. (R533) -/
def execMulu (tid : Nat) (s : State) : Out := issue (.op .mulu) tid s

/-- MAC: adds a signed product to the accumulator. (R533) -/
def execMac (tid : Nat) (s : State) : Out := issue (.op .mac) tid s

/-- MACU: adds an unsigned product to the accumulator. (R533) -/
def execMacu (tid : Nat) (s : State) : Out := issue (.op .macu) tid s

/-- MSU: subtracts a signed product from the accumulator. (R533) -/
def execMsu (tid : Nat) (s : State) : Out := issue (.op .msu) tid s

/-- RDACC: reads the accumulator rounded, shifted and saturated. (R534) -/
def execRdacc (tid : Nat) (s : State) : Out := issue (.op .rdacc) tid s

/-- QADD: saturating add. (R533) -/
def execQadd (tid : Nat) (s : State) : Out := issue (.op .qadd) tid s

/-- QSUB: saturating subtract. (R533) -/
def execQsub (tid : Nat) (s : State) : Out := issue (.op .qsub) tid s

/-- QSHL: saturating shift left. (R533) -/
def execQshl (tid : Nat) (s : State) : Out := issue (.op .qshl) tid s

/-- QABS: saturating absolute value. (R535) -/
def execQabs (tid : Nat) (s : State) : Out := issue (.op .qabs) tid s

/-- QNEG: saturating negate. (R535) -/
def execQneg (tid : Nat) (s : State) : Out := issue (.op .qneg) tid s

/-- TGET: waits for a task, first closing any held task as DROP. (R539) -/
def execTget (tid : Nat) (s : State) : Out := issue (.op .tget) tid s

/-- TDONE: ends the current task with a disposition and resumes any parked task. (R539) -/
def execTdone (tid : Nat) (s : State) : Out := issue (.op .tdone) tid s

/-- SEND: places a buffer directly in an egress queue, or returns FULL or INVAL. (R540) -/
def execSend (tid : Nat) (s : State) : Out := issue (.op .send) tid s

/-- BALLOC: requests a buffer and returns its handle or a failure status. (R538) -/
def execBalloc (tid : Nat) (s : State) : Out := issue (.op .balloc) tid s

/-- BFREE: frees a buffer by handle, posted. (R537) -/
def execBfree (tid : Nat) (s : State) : Out := issue (.op .bfree) tid s

/-- FADD: fetch-and-add on an atomic counter. (R537) -/
def execFadd (tid : Nat) (s : State) : Out := issue (.op .fadd) tid s

/-- LKUP: starts a table lookup from an aligned key in local memory. (R541) -/
def execLkup (tid : Nat) (s : State) : Out := issue (.op .lkup) tid s

/-- NOP: does nothing. (R542) -/
def execNop (tid : Nat) (s : State) : Out := issue (.op .nop) tid s

/-- MFS: copies a special register into a general register. (R542) -/
def execMfs (tid : Nat) (s : State) : Out := issue (.op .mfs) tid s

/-- MTS: copies a general register into a special register. (R542) -/
def execMts (tid : Nat) (s : State) : Out := issue (.op .mts) tid s

/-- FENCE: waits for every earlier weft write of the thread to complete. (R542) -/
def execFence (tid : Nat) (s : State) : Out := issue (.op .fence) tid s

/-- TRAP: faults the thread with cause TRAP and a code. (R542) -/
def execTrap (tid : Nat) (s : State) : Out := issue (.op .trap) tid s

end Sys2Proof.Machine
end

