-- ==== Sys2Proof/Machine/Dispatch.lean ====
section
/-!
DEFINITION. The dispatch: one arm for each command, each a direct call of that command's meaning.
-/
namespace Sys2Proof.Machine

def exec (i : Instr) (s : State) : Host.Outcome State Fault Refusal :=
  match i with
  | .registerWrite a off be v next => Sys2Proof.Machine.execRegisterWrite a off be v s next
  | .splitLoRead a off wide => Sys2Proof.Machine.execSplitLoRead a off s wide
  | .splitLoWrite a off be v => Sys2Proof.Machine.execSplitLoWrite a off be v s
  | .splitHiWrite a off be v => Sys2Proof.Machine.execSplitHiWrite a off be v s
  | .rcRead a off ev wide => Sys2Proof.Machine.execRcRead a off ev s wide
  | .w1cWrite a off be v ev => Sys2Proof.Machine.execW1cWrite a off be v ev s
  | .hostBar2Write off data a => Sys2Proof.Machine.execHostBar2Write off data s a
  | .hostBar2Read off len a => Sys2Proof.Machine.execHostBar2Read off len s a
  | .linkDownFlush p => Sys2Proof.Machine.execLinkDownFlush p s
  | .t0OpportunityTimeout => Sys2Proof.Machine.execT0OpportunityTimeout s
  | .egressStallFlush p q => Sys2Proof.Machine.execEgressStallFlush p q s
  | .weftFlitReceive k back err resp returned => Sys2Proof.Machine.execWeftFlitReceive k back err s resp returned
  | .linkLoopTestDone k back pass => Sys2Proof.Machine.execLinkLoopTestDone k back pass s
  | .oscStop isl => Sys2Proof.Machine.execOscStop isl s
  | .refclkLoss => Sys2Proof.Machine.execRefclkLoss s
  | .refclkPresent => Sys2Proof.Machine.execRefclkPresent s
  | .pllLock k => Sys2Proof.Machine.execPllLock k s
  | .pllUnlock k => Sys2Proof.Machine.execPllUnlock k s
  | .pllRelockTimeout k => Sys2Proof.Machine.execPllRelockTimeout k s
  | .refclkFreqError => Sys2Proof.Machine.execRefclkFreqError s
  | .slowThresholdCross n mhz => Sys2Proof.Machine.execSlowThresholdCross n mhz s
  | .slowClear n => Sys2Proof.Machine.execSlowClear n s
  | .timeBroadcast missed => Sys2Proof.Machine.execTimeBroadcast missed s
  | .timeMessageTimeout isl => Sys2Proof.Machine.execTimeMessageTimeout isl s
  | .timeRateWrite a v => Sys2Proof.Machine.execTimeRateWrite a v s
  | .timeSlewWrite a v => Sys2Proof.Machine.execTimeSlewWrite a v s
  | .timeStep a hi => Sys2Proof.Machine.execTimeStep a hi s
  | .holdoverTimeout => Sys2Proof.Machine.execHoldoverTimeout s
  | .pornFall ns taken released => Sys2Proof.Machine.execPornFall ns taken released s
  | .brownOut ns taken retained => Sys2Proof.Machine.execBrownOut ns taken retained s
  | .resetEnd boot plyrole svcen => Sys2Proof.Machine.execResetEnd boot plyrole svcen s
  | .stage1Entry partnerOwn => Sys2Proof.Machine.execStage1Entry partnerOwn s
  | .warp a push => Sys2Proof.Machine.execWarp a push s
  | .loadWakeDone flash => Sys2Proof.Machine.execLoadWakeDone flash s
  | .loadStreamDone => Sys2Proof.Machine.execLoadStreamDone s
  | .loadVerifyDone => Sys2Proof.Machine.execLoadVerifyDone s
  | .loadApplyDone readback => Sys2Proof.Machine.execLoadApplyDone readback s
  | .unclampOutputs a => Sys2Proof.Machine.execUnclampOutputs a s
  | .unclampWriteEnables a => Sys2Proof.Machine.execUnclampWriteEnables a s
  | .unclampResets a => Sys2Proof.Machine.execUnclampResets a s
  | .unclampStepDone => Sys2Proof.Machine.execUnclampStepDone s
  | .weave a force => Sys2Proof.Machine.execWeave a force s
  | .handover c => Sys2Proof.Machine.execHandover c s
  | .powerFull a push key => Sys2Proof.Machine.execPowerFull a push key s
  | .powerQuiet a push key => Sys2Proof.Machine.execPowerQuiet a push key s
  | .powerNet a key => Sys2Proof.Machine.execPowerNet a key s
  | .powerStandby a key => Sys2Proof.Machine.execPowerStandby a key s
  | .powerService a key => Sys2Proof.Machine.execPowerService a key s
  | .powerReset a key => Sys2Proof.Machine.execPowerReset a key s
  | .powerTransitionDone => Sys2Proof.Machine.execPowerTransitionDone s
  | .netReloadDone flash readback => Sys2Proof.Machine.execNetReloadDone flash readback s
  | .gatesReturnToSafe c => Sys2Proof.Machine.execGatesReturnToSafe c s
  | .standbyWakeFrame id ext data => Sys2Proof.Machine.execStandbyWakeFrame id ext data s
  | .pushWord a v => Sys2Proof.Machine.execPushWord a v s
  | .pushTimeout => Sys2Proof.Machine.execPushTimeout s
  | .keyprogBurn a v => Sys2Proof.Machine.execKeyprogBurn a v s
  | .keyprogBurnDone => Sys2Proof.Machine.execKeyprogBurnDone s
  | .rollbackAdvance a v => Sys2Proof.Machine.execRollbackAdvance a v s
  | .rollbackBurnDone => Sys2Proof.Machine.execRollbackBurnDone s
  | .patchStart a v => Sys2Proof.Machine.execPatchStart a v s
  | .patchVerifyDone flash partnerErr => Sys2Proof.Machine.execPatchVerifyDone flash partnerErr s
  | .patchReadbackDone crc partnerErr => Sys2Proof.Machine.execPatchReadbackDone crc partnerErr s
  | .corePatchIdleTimeout => Sys2Proof.Machine.execCorePatchIdleTimeout s
  | .patchEnd => Sys2Proof.Machine.execPatchEnd s
  | .reserveRewriteDone p crc => Sys2Proof.Machine.execReserveRewriteDone p crc s
  | .panelRequest p k req => Sys2Proof.Machine.execPanelRequest p k req s
  | .panelResponse p k data => Sys2Proof.Machine.execPanelResponse p k data s
  | .panelRequestTimeout p k => Sys2Proof.Machine.execPanelRequestTimeout p k s
  | .portReadyAssert p k => Sys2Proof.Machine.execPortReadyAssert p k s
  | .stallRequestTimeout p => Sys2Proof.Machine.execStallRequestTimeout p s
  | .bramEccError p addr portB single => Sys2Proof.Machine.execBramEccError p addr s portB single
  | .userNotice p => Sys2Proof.Machine.execUserNotice p s
  | .readbackPassDone p crc ns => Sys2Proof.Machine.execReadbackPassDone p crc ns s
  | .frameReceive p data fcsErr slow => Sys2Proof.Machine.execFrameReceive p data fcsErr slow s
  | .admissionHoldTimeout p tc => Sys2Proof.Machine.execAdmissionHoldTimeout p tc s
  | .linkDown p => Sys2Proof.Machine.execLinkDown p s
  | .linkUp p speed => Sys2Proof.Machine.execLinkUp p speed s
  | .transmitSelection p opp => Sys2Proof.Machine.execTransmitSelection p s opp
  | .frameTxDone p collided => Sys2Proof.Machine.execFrameTxDone p s collided
  | .txtsTagRead a p => Sys2Proof.Machine.execTxtsTagRead a p s
  | .tasChange a p v => Sys2Proof.Machine.execTasChange a p v s
  | .tasConfigChange p => Sys2Proof.Machine.execTasConfigChange p s
  | .gateEntryAdvance p => Sys2Proof.Machine.execGateEntryAdvance p s
  | .streamGateChange a g v => Sys2Proof.Machine.execStreamGateChange a g v s
  | .fpVerifyDone p ok => Sys2Proof.Machine.execFpVerifyDone p ok s
  | .recoveryResetTimeout h => Sys2Proof.Machine.execRecoveryResetTimeout h s
  | .mdioC22Write a v => Sys2Proof.Machine.execMdioC22Write a v s
  | .mdioC22Read a v => Sys2Proof.Machine.execMdioC22Read a v s
  | .mdioC45Address a v => Sys2Proof.Machine.execMdioC45Address a v s
  | .mdioC45Write a v => Sys2Proof.Machine.execMdioC45Write a v s
  | .mdioC45Read a v => Sys2Proof.Machine.execMdioC45Read a v s
  | .mdioC45ReadIncrement a v => Sys2Proof.Machine.execMdioC45ReadIncrement a v s
  | .mdioFrameDone data => Sys2Proof.Machine.execMdioFrameDone data s
  | .ruleWrite a v => Sys2Proof.Machine.execRuleWrite a v s
  | .ruleInvalidate a v => Sys2Proof.Machine.execRuleInvalidate a v s
  | .ruleCmdDone => Sys2Proof.Machine.execRuleCmdDone s
  | .groupEnableWrite a v => Sys2Proof.Machine.execGroupEnableWrite a v s
  | .bufferRequest owner len esc => Sys2Proof.Machine.execBufferRequest owner len esc s
  | .bufferWaitGrant owner => Sys2Proof.Machine.execBufferWaitGrant owner s
  | .cacheRefillDone pool => Sys2Proof.Machine.execCacheRefillDone pool s
  | .bufferFree handle => Sys2Proof.Machine.execBufferFree handle s
  | .lockRead a n others => Sys2Proof.Machine.execLockRead a n others s
  | .lockRelease a n => Sys2Proof.Machine.execLockRelease a n s
  | .lockHoldTimeout n => Sys2Proof.Machine.execLockHoldTimeout n s
  | .atomicOp add32 bar0 off v => Sys2Proof.Machine.execAtomicOp add32 bar0 off v s
  | .packetAdmit p sel => Sys2Proof.Machine.execPacketAdmit p sel s
  | .sourceLookup => Sys2Proof.Machine.execSourceLookup s
  | .taskDispatch n thr => Sys2Proof.Machine.execTaskDispatch n thr s
  | .taskSteal y seq => Sys2Proof.Machine.execTaskSteal y seq s
  | .slotClose y => Sys2Proof.Machine.execSlotClose y s
  | .traceRecordSelect a v => Sys2Proof.Machine.execTraceRecordSelect a v s
  | .traceModeChange a v => Sys2Proof.Machine.execTraceModeChange a v s
  | .yarnLimitWrite a y v => Sys2Proof.Machine.execYarnLimitWrite a y v s
  | .yarnMaskWrite a v => Sys2Proof.Machine.execYarnMaskWrite a v s
  | .watchdogExpiry tid => Sys2Proof.Machine.execWatchdogExpiry tid s
  | .escalationTimeout tid => Sys2Proof.Machine.execEscalationTimeout tid s
  | .hostEscalationTimeout tid => Sys2Proof.Machine.execHostEscalationTimeout tid s
  | .threadStop a tid v => Sys2Proof.Machine.execThreadStop a tid v s
  | .threadRestart a tid v => Sys2Proof.Machine.execThreadRestart a tid v s
  | .threadSignal a tid => Sys2Proof.Machine.execThreadSignal a tid s
  | .timerExpiry tid => Sys2Proof.Machine.execTimerExpiry tid s
  | .localMemoryWindowWrite a n off be v => Sys2Proof.Machine.execLocalMemoryWindowWrite a n off be v s
  | .weftReadResponse tid ecc => Sys2Proof.Machine.execWeftReadResponse tid ecc s
  | .weftStoreResponse tid k => Sys2Proof.Machine.execWeftStoreResponse tid k s
  | .lookupResult tid => Sys2Proof.Machine.execLookupResult tid s
  | .fenceComplete tid => Sys2Proof.Machine.execFenceComplete tid s
  | .pairedWord tid => Sys2Proof.Machine.execPairedWord tid s
  | .mov tid => Sys2Proof.Machine.execMov tid s
  | .add tid => Sys2Proof.Machine.execAdd tid s
  | .adc tid => Sys2Proof.Machine.execAdc tid s
  | .sub tid => Sys2Proof.Machine.execSub tid s
  | .sbc tid => Sys2Proof.Machine.execSbc tid s
  | .and tid => Sys2Proof.Machine.execAnd tid s
  | .or tid => Sys2Proof.Machine.execOr tid s
  | .xor tid => Sys2Proof.Machine.execXor tid s
  | .bic tid => Sys2Proof.Machine.execBic tid s
  | .shl tid => Sys2Proof.Machine.execShl tid s
  | .shr tid => Sys2Proof.Machine.execShr tid s
  | .sar tid => Sys2Proof.Machine.execSar tid s
  | .ror tid => Sys2Proof.Machine.execRor tid s
  | .min tid => Sys2Proof.Machine.execMin tid s
  | .max tid => Sys2Proof.Machine.execMax tid s
  | .minu tid => Sys2Proof.Machine.execMinu tid s
  | .maxu tid => Sys2Proof.Machine.execMaxu tid s
  | .cmp tid => Sys2Proof.Machine.execCmp tid s
  | .tst tid => Sys2Proof.Machine.execTst tid s
  | .clz tid => Sys2Proof.Machine.execClz tid s
  | .bswap tid => Sys2Proof.Machine.execBswap tid s
  | .sextb tid => Sys2Proof.Machine.execSextb tid s
  | .sexth tid => Sys2Proof.Machine.execSexth tid s
  | .zextb tid => Sys2Proof.Machine.execZextb tid s
  | .zexth tid => Sys2Proof.Machine.execZexth tid s
  | .neg tid => Sys2Proof.Machine.execNeg tid s
  | .not tid => Sys2Proof.Machine.execNot tid s
  | .movi tid => Sys2Proof.Machine.execMovi tid s
  | .movhi tid => Sys2Proof.Machine.execMovhi tid s
  | .addi tid => Sys2Proof.Machine.execAddi tid s
  | .andi tid => Sys2Proof.Machine.execAndi tid s
  | .ori tid => Sys2Proof.Machine.execOri tid s
  | .xori tid => Sys2Proof.Machine.execXori tid s
  | .shli tid => Sys2Proof.Machine.execShli tid s
  | .shri tid => Sys2Proof.Machine.execShri tid s
  | .sari tid => Sys2Proof.Machine.execSari tid s
  | .rori tid => Sys2Proof.Machine.execRori tid s
  | .cmpi tid => Sys2Proof.Machine.execCmpi tid s
  | .tsti tid => Sys2Proof.Machine.execTsti tid s
  | .extu tid => Sys2Proof.Machine.execExtu tid s
  | .ins tid => Sys2Proof.Machine.execIns tid s
  | .br tid => Sys2Proof.Machine.execBr tid s
  | .call tid => Sys2Proof.Machine.execCall tid s
  | .bc tid => Sys2Proof.Machine.execBc tid s
  | .bf tid => Sys2Proof.Machine.execBf tid s
  | .j tid => Sys2Proof.Machine.execJ tid s
  | .jl tid => Sys2Proof.Machine.execJl tid s
  | .jx tid => Sys2Proof.Machine.execJx tid s
  | .jxl tid => Sys2Proof.Machine.execJxl tid s
  | .rtx tid => Sys2Proof.Machine.execRtx tid s
  | .bnz tid => Sys2Proof.Machine.execBnz tid s
  | .dbnz tid => Sys2Proof.Machine.execDbnz tid s
  | .ldb tid => Sys2Proof.Machine.execLdb tid s
  | .ldbu tid => Sys2Proof.Machine.execLdbu tid s
  | .ldh tid => Sys2Proof.Machine.execLdh tid s
  | .ldhu tid => Sys2Proof.Machine.execLdhu tid s
  | .ldw tid => Sys2Proof.Machine.execLdw tid s
  | .stb tid => Sys2Proof.Machine.execStb tid s
  | .sth tid => Sys2Proof.Machine.execSth tid s
  | .stw tid => Sys2Proof.Machine.execStw tid s
  | .ldhn tid => Sys2Proof.Machine.execLdhn tid s
  | .ldhun tid => Sys2Proof.Machine.execLdhun tid s
  | .ldwn tid => Sys2Proof.Machine.execLdwn tid s
  | .sthn tid => Sys2Proof.Machine.execSthn tid s
  | .stwn tid => Sys2Proof.Machine.execStwn tid s
  | .pld tid => Sys2Proof.Machine.execPld tid s
  | .pst tid => Sys2Proof.Machine.execPst tid s
  | .push tid => Sys2Proof.Machine.execPush tid s
  | .pop tid => Sys2Proof.Machine.execPop tid s
  | .mul tid => Sys2Proof.Machine.execMul tid s
  | .mulu tid => Sys2Proof.Machine.execMulu tid s
  | .mac tid => Sys2Proof.Machine.execMac tid s
  | .macu tid => Sys2Proof.Machine.execMacu tid s
  | .msu tid => Sys2Proof.Machine.execMsu tid s
  | .rdacc tid => Sys2Proof.Machine.execRdacc tid s
  | .qadd tid => Sys2Proof.Machine.execQadd tid s
  | .qsub tid => Sys2Proof.Machine.execQsub tid s
  | .qshl tid => Sys2Proof.Machine.execQshl tid s
  | .qabs tid => Sys2Proof.Machine.execQabs tid s
  | .qneg tid => Sys2Proof.Machine.execQneg tid s
  | .tget tid => Sys2Proof.Machine.execTget tid s
  | .tdone tid => Sys2Proof.Machine.execTdone tid s
  | .send tid => Sys2Proof.Machine.execSend tid s
  | .balloc tid => Sys2Proof.Machine.execBalloc tid s
  | .bfree tid => Sys2Proof.Machine.execBfree tid s
  | .waitlk tid => Sys2Proof.Machine.execWaitlk tid s
  | .fadd tid => Sys2Proof.Machine.execFadd tid s
  | .sleep tid => Sys2Proof.Machine.execSleep tid s
  | .lkup tid => Sys2Proof.Machine.execLkup tid s
  | .nop tid => Sys2Proof.Machine.execNop tid s
  | .mfs tid => Sys2Proof.Machine.execMfs tid s
  | .mts tid => Sys2Proof.Machine.execMts tid s
  | .fence tid => Sys2Proof.Machine.execFence tid s
  | .trap tid => Sys2Proof.Machine.execTrap tid s
  | .agerVisit idx => Sys2Proof.Machine.execAgerVisit idx s
  | .fwdWrite a => Sys2Proof.Machine.execFwdWrite a s
  | .fwdRead a => Sys2Proof.Machine.execFwdRead a s
  | .fdbInsert a => Sys2Proof.Machine.execFdbInsert a s
  | .fdbDelete a => Sys2Proof.Machine.execFdbDelete a s
  | .fdbFlush a => Sys2Proof.Machine.execFdbFlush a s
  | .fdbFlushDone => Sys2Proof.Machine.execFdbFlushDone s
  | .learnPop a => Sys2Proof.Machine.execLearnPop a s
  | .fwdEventRead a => Sys2Proof.Machine.execFwdEventRead a s
  | .auditSweepStart => Sys2Proof.Machine.execAuditSweepStart s
  | .auditLineCompare => Sys2Proof.Machine.execAuditLineCompare s
  | .auditRecheck => Sys2Proof.Machine.execAuditRecheck s
  | .auditSweepEnd late => Sys2Proof.Machine.execAuditSweepEnd late s
  | .sqDoorbell a q v => Sys2Proof.Machine.execSqDoorbell a q v s
  | .cqDoorbell a q v => Sys2Proof.Machine.execCqDoorbell a q v s
  | .descriptorFetch q => Sys2Proof.Machine.execDescriptorFetch q s
  | .fetchComplete q data => Sys2Proof.Machine.execFetchComplete q data s
  | .nopDescriptor q => Sys2Proof.Machine.execNopDescriptor q s
  | .createQp => Sys2Proof.Machine.execCreateQp s
  | .destroyQpAbort => Sys2Proof.Machine.execDestroyQpAbort s
  | .destroyQpDrain => Sys2Proof.Machine.execDestroyQpDrain s
  | .drainIdle q => Sys2Proof.Machine.execDrainIdle q s
  | .queryQp => Sys2Proof.Machine.execQueryQp s
  | .hostSend q data => Sys2Proof.Machine.execHostSend q data s
  | .recv q => Sys2Proof.Machine.execRecv q s
  | .sendDataError q => Sys2Proof.Machine.execSendDataError q s
  | .adminQueueEnable a v => Sys2Proof.Machine.execAdminQueueEnable a v s
  | .adminQueueDisable a v => Sys2Proof.Machine.execAdminQueueDisable a v s
  | .functionLevelReset linkUp => Sys2Proof.Machine.execFunctionLevelReset linkUp s
  | .busMasterChange bme d3hot => Sys2Proof.Machine.execBusMasterChange bme d3hot s
  | .qspiRead addr n => Sys2Proof.Machine.execQspiRead addr n s
  | .qspiWrite addr data => Sys2Proof.Machine.execQspiWrite addr data s
  | .qspiId => Sys2Proof.Machine.execQspiId s
  | .qspiCsnRise => Sys2Proof.Machine.execQspiCsnRise s
  | .xspiGo a v => Sys2Proof.Machine.execXspiGo a v s
  | .xspiCmdDone data => Sys2Proof.Machine.execXspiCmdDone data s
  | .noticeSourceRead a n => Sys2Proof.Machine.execNoticeSourceRead a n s
  | .softwareRaise a v => Sys2Proof.Machine.execSoftwareRaise a v s
  | .routeEnableWrite a n v => Sys2Proof.Machine.execRouteEnableWrite a n v s
  | .msixUnmask vec addr data => Sys2Proof.Machine.execMsixUnmask vec addr data s
  | .internalSample sense => Sys2Proof.Machine.execInternalSample sense s
  | .pwmPeriodBoundary c hoc safe => Sys2Proof.Machine.execPwmPeriodBoundary c hoc s safe
  | .wposWrite a c v => Sys2Proof.Machine.execWposWrite a c v s
  | .channelArm a c => Sys2Proof.Machine.execChannelArm a c s
  | .channelDisable a c => Sys2Proof.Machine.execChannelDisable a c s
  | .rposRead a c => Sys2Proof.Machine.execRposRead a c s
  | .crfTimestamp a v => Sys2Proof.Machine.execCrfTimestamp a v s
  | .dpllReferenceTimeout => Sys2Proof.Machine.execDpllReferenceTimeout s
  | .dpllLock => Sys2Proof.Machine.execDpllLock s
  | .listenerSeen a n => Sys2Proof.Machine.execListenerSeen a n s
  | .listenerTimeout n => Sys2Proof.Machine.execListenerTimeout n s
  | .captureWposRead a k => Sys2Proof.Machine.execCaptureWposRead a k s
  | .talkerEnable a k => Sys2Proof.Machine.execTalkerEnable a k s
  | .talkerNextRead a k => Sys2Proof.Machine.execTalkerNextRead a k s
  | .tdmFrame p bclks slots => Sys2Proof.Machine.execTdmFrame p bclks slots s
  | .tdmSyncLoss p => Sys2Proof.Machine.execTdmSyncLoss p s
  | .fabricEdgeWord c w => Sys2Proof.Machine.execFabricEdgeWord c w s
  | .safeTone data => Sys2Proof.Machine.execSafeTone data s
  | .safeClip data => Sys2Proof.Machine.execSafeClip data s
  | .ecallStart data => Sys2Proof.Machine.execEcallStart data s
  | .ecallStop data => Sys2Proof.Machine.execEcallStop data s
  | .safeStop data => Sys2Proof.Machine.execSafeStop data s
  | .announcementEnd => Sys2Proof.Machine.execAnnouncementEnd s
  | .vbatReading mv => Sys2Proof.Machine.execVbatReading mv s
  | .overcurrentDetect c legA legB t also => Sys2Proof.Machine.execOvercurrentDetect c legA legB t also s
  | .hocAssert c t also => Sys2Proof.Machine.execHocAssert c t also s
  | .gateMismatch c gate t also => Sys2Proof.Machine.execGateMismatch c gate t also s
  | .shootThrough c legB t also => Sys2Proof.Machine.execShootThrough c legB t also s
  | .secondLegTurnoff c => Sys2Proof.Machine.execSecondLegTurnoff c s
  | .latchClear a v quiet => Sys2Proof.Machine.execLatchClear a v quiet s
  | .outputDisableEnd => Sys2Proof.Machine.execOutputDisableEnd s
  | .ownershipTake => Sys2Proof.Machine.execOwnershipTake s
  | .calWindowEnd c gain qual driftI driftV zlo zhi => Sys2Proof.Machine.execCalWindowEnd c gain qual driftI driftV zlo zhi s
  | .senseStuck c volt => Sys2Proof.Machine.execSenseStuck c volt s
  | .calSeqRead a c => Sys2Proof.Machine.execCalSeqRead a c s
  | .trimRequest a v => Sys2Proof.Machine.execTrimRequest a v s
  | .trimCancel a v => Sys2Proof.Machine.execTrimCancel a v s
  | .trimStart c => Sys2Proof.Machine.execTrimStart c s
  | .trimDone c => Sys2Proof.Machine.execTrimDone c s
  | .trimDeadline c => Sys2Proof.Machine.execTrimDeadline c s
  | .zoneReading z raw => Sys2Proof.Machine.execZoneReading z raw s
  | .sbusRead z data => Sys2Proof.Machine.execSbusRead z data s
  | .sbusRecovery ok => Sys2Proof.Machine.execSbusRecovery ok s
  | .sbusRestart a v => Sys2Proof.Machine.execSbusRestart a v s
  | .fanUpdate tach => Sys2Proof.Machine.execFanUpdate tach s
  | .fanStall f => Sys2Proof.Machine.execFanStall f s
  | .partnerLoss halt => Sys2Proof.Machine.execPartnerLoss halt s
  | .plyLinkDown => Sys2Proof.Machine.execPlyLinkDown s
  | .epochBoundary kib consumed => Sys2Proof.Machine.execEpochBoundary kib consumed s
  | .logAdmit port len fcs res tstamp => Sys2Proof.Machine.execLogAdmit port len fcs res tstamp s
  | .logBody data => Sys2Proof.Machine.execLogBody data s
  | .logAnswer key kind v => Sys2Proof.Machine.execLogAnswer key kind v s
  | .logLearn w => Sys2Proof.Machine.execLogLearn w s
  | .logHost acc => Sys2Proof.Machine.execLogHost acc s
  | .logClose yarn seq disp mask len fault => Sys2Proof.Machine.execLogClose yarn seq disp mask len fault s
  | .logDpll ratio => Sys2Proof.Machine.execLogDpll ratio s
  | .logEnd epoch count digest time => Sys2Proof.Machine.execLogEnd epoch count digest time s
  | .logVbat mv seq => Sys2Proof.Machine.execLogVbat mv seq s
  | .logTdm p slots => Sys2Proof.Machine.execLogTdm p slots s
  | .logLatch c causes clear => Sys2Proof.Machine.execLogLatch c causes clear s
  | .verdict partner => Sys2Proof.Machine.execVerdict partner s
  | .frameFetchRequest port len fcs => Sys2Proof.Machine.execFrameFetchRequest port len fcs s
  | .unnamedFrameDrop p tc idx => Sys2Proof.Machine.execUnnamedFrameDrop p tc idx s
  | .ownContention => Sys2Proof.Machine.execOwnContention s
  | .formationTimeout owna => Sys2Proof.Machine.execFormationTimeout owna s
  | .plyJoin a v => Sys2Proof.Machine.execPlyJoin a v s
  | .plyDetach a v partner => Sys2Proof.Machine.execPlyDetach a v partner s
  | .joinPhaseDone res => Sys2Proof.Machine.execJoinPhaseDone res s
  | .idleWindowEnd shares => Sys2Proof.Machine.execIdleWindowEnd shares s
  | .logicSliceEnd n miss again => Sys2Proof.Machine.execLogicSliceEnd n miss again s
  | .scrubRead region inst addr err stale sweep => Sys2Proof.Machine.execScrubRead region inst addr err stale sweep s
  | .marchSegment inst idx seg fail => Sys2Proof.Machine.execMarchSegment inst idx seg fail s
  | .istReqCore a v => Sys2Proof.Machine.execIstReqCore a v s
  | .istReqPanel a v => Sys2Proof.Machine.execIstReqPanel a v s
  | .istReqLink a v => Sys2Proof.Machine.execIstReqLink a v s
  | .istReqPool a v => Sys2Proof.Machine.execIstReqPool a v s
  | .istReqScrub a v => Sys2Proof.Machine.execIstReqScrub a v s
  | .istRequestDeadline req => Sys2Proof.Machine.execIstRequestDeadline req s
  | .istResultRead a => Sys2Proof.Machine.execIstResultRead a s
  | .bistDone cores res => Sys2Proof.Machine.execBistDone cores res s
  | .journalWrite a v => Sys2Proof.Machine.execJournalWrite a v s
  | .journalCommit => Sys2Proof.Machine.execJournalCommit s
  | .journalScanDone ecc => Sys2Proof.Machine.execJournalScanDone ecc s
  | .journalReadRecord a v => Sys2Proof.Machine.execJournalReadRecord a v s
  | .journalReadSlot a v => Sys2Proof.Machine.execJournalReadSlot a v s
  | .safeUnlockWrite a v => Sys2Proof.Machine.execSafeUnlockWrite a v s
  | .safeWindowTimeout => Sys2Proof.Machine.execSafeWindowTimeout s
  | .earlyWarning vio => Sys2Proof.Machine.execEarlyWarning vio s
  | .earlyWarningClear => Sys2Proof.Machine.execEarlyWarningClear s
  | .canFrameReceive n f ago ok => Sys2Proof.Machine.execCanFrameReceive n f ago ok s
  | .canTxRequest a n v => Sys2Proof.Machine.execCanTxRequest a n v s
  | .canTxAbort a n v sent => Sys2Proof.Machine.execCanTxAbort a n v sent s
  | .canTxDone n late res => Sys2Proof.Machine.execCanTxDone n late res s
  | .canRxPop a n v => Sys2Proof.Machine.execCanRxPop a n v s
  | .canBusOff n => Sys2Proof.Machine.execCanBusOff n s
  | .canRecoveryRequest a n v => Sys2Proof.Machine.execCanRecoveryRequest a n v s
  | .canRecoveryDone n => Sys2Proof.Machine.execCanRecoveryDone n s
  | .canTxDominantTimeout n => Sys2Proof.Machine.execCanTxDominantTimeout n s
  | .snapshotCapture n => Sys2Proof.Machine.execSnapshotCapture n s
  | .snapshotPop a v => Sys2Proof.Machine.execSnapshotPop a v s
  | .lifecycleAdvance a v => Sys2Proof.Machine.execLifecycleAdvance a v s
  | .fuseProgram a v => Sys2Proof.Machine.execFuseProgram a v s
  | .fuseBurnDone => Sys2Proof.Machine.execFuseBurnDone s
  | .unlockChallenge a v => Sys2Proof.Machine.execUnlockChallenge a v s
  | .unlockVerify a v => Sys2Proof.Machine.execUnlockVerify a v s
  | .serviceLock a v => Sys2Proof.Machine.execServiceLock a v s
  | .unlockTimeout => Sys2Proof.Machine.execUnlockTimeout s
  | .challengeExpiry => Sys2Proof.Machine.execChallengeExpiry s
  | .unlockWaitEnd => Sys2Proof.Machine.execUnlockWaitEnd s
  | .extest pins => Sys2Proof.Machine.execExtest pins s
  | .idcode => Sys2Proof.Machine.execIdcode s
  | .samplePreload pins cells => Sys2Proof.Machine.execSamplePreload pins cells s
  | .clamp => Sys2Proof.Machine.execClamp s
  | .highz => Sys2Proof.Machine.execHighz s
  | .extestPulse pins => Sys2Proof.Machine.execExtestPulse pins s
  | .extestTrain pins => Sys2Proof.Machine.execExtestTrain pins s
  | .dbgacc => Sys2Proof.Machine.execDbgacc s
  | .bypass => Sys2Proof.Machine.execBypass s
  | .debugAccess write addr v => Sys2Proof.Machine.execDebugAccess write addr v s
  | .debugReset => Sys2Proof.Machine.execDebugReset s
  | .tapReset => Sys2Proof.Machine.execTapReset s
  | .railLow rail mv => Sys2Proof.Machine.execRailLow rail mv s
  | .railCollapse rail mv => Sys2Proof.Machine.execRailCollapse rail mv s
  | .railInRange rail mv => Sys2Proof.Machine.execRailInRange rail mv s
  | .dpllLockLoss => Sys2Proof.Machine.execDpllLockLoss s
  | .plyLaneFail => Sys2Proof.Machine.execPlyLaneFail s
  | .plyLinkUp lanes => Sys2Proof.Machine.execPlyLinkUp lanes s
  | .pcieLinkUp speed width => Sys2Proof.Machine.execPcieLinkUp speed width s
  | .istLate readback => Sys2Proof.Machine.execIstLate readback s
  | .undefinedOpcode tid => Sys2Proof.Machine.execUndefinedOpcode tid s
  | .plyAliveToggle edge => Sys2Proof.Machine.execPlyAliveToggle edge s
  | .borderResponse p k => Sys2Proof.Machine.execBorderResponse p k s

end Sys2Proof.Machine
end

