-- ==== Sys2Proof/Machine/Step.lean ====
section
/-!
DEFINITION. One step: the command at the front of the queue is carried out; on an empty queue the block idles
(assumption 1).
-/
namespace Sys2Proof.Machine

/-- The state with other waiting commands. -/
def State.withPending (s : State) (q : List Instr) : State := { s with pending := q }

/-- Takes the command at the front of the queue and carries it out over the queue's rest; on an empty queue a tick
passes (assumption 1). -/
def step (s : State) : Host.Outcome State Fault Refusal :=
  match s.pending with
  | [] => .next (idle s)
  | c :: q => exec c (s.withPending q)

/-- The state with the command that a word of the opcode table spells in front of its queue; the table gives no row
bits, so no word spells one and the state is unchanged (assumption 1). -/
def State.withFetchWord (s : State) (nbits w : Nat) : State :=
  match Sys2Proof.decodeTableWord nbits w with
  | some c => s.withPending (c :: s.pending)
  | none => s

end Sys2Proof.Machine
end

