-- ==== Sys2Proof/Machine/Balls.lean ====
section
/-!
DEFINITION. What the device drives onto its signal balls, in reset, in board-test reset and in operation (04_staged_start.md R120 to
R122; 26_signals_package_electrical.md R903, R906, R907, R922).
-/
namespace Sys2Proof.Machine

/-- The signal balls by function (R903). -/
inductive Ball
  | gd (n : Nat)
  | oca (c : Nat) | ocb (c : Nat) | hoc (c : Nat)
  | isen (c : Nat) | vsen (c : Nat) | snsClk
  | vbatSense | ntc (k : Nat) | vrefNtc
  | fanPwm (f : Nat) | fanTach (f : Nat)
  | sbusScl | sbusSda
  | canTx (n : Nat) | canRx (n : Nat)
  | porn | intn
  | strap (i : Nat)
  | plyAliveO | plyAliveI | plySync | plyOwnA | plyOwnB
  | tdmBclk (p : Nat) | tdmFs (p : Nat) | tdmDin (p : Nat) | tdmDout (p : Nat)
  | mdc | mdio
  | tck | trstn | tms | tdi | tdo
  | pciePerstn
  | qspiCsn | qspiSck | qspiIo (i : Nat)
  | xspiCsn | xspiSck | xspiDqs | xspiIo (i : Nat) | xspiRstn
  | uio (u : Nat)
  | refclk
  | pcieTx (l : Nat) | pcieRx (l : Nat)
  | portTx (p : Nat) | portRx (p : Nat)
  | plyTx (l : Nat) | plyRx (l : Nat)
  | t1s
deriving DecidableEq, Repr

/-- What the device does with a ball: driver off (or released, or an input), a level, a PWM duty in per-mille, electrical idle, or the
pattern of the function that owns it. -/
inductive Drive
  | off
  | low
  | high
  | pwm (duty : Nat)
  | idle
  | signal
deriving DecidableEq, Repr

/-- An internal pull. -/
inductive Pull
  | none
  | up
  | down
deriving DecidableEq, Repr

/-- A level as a drive. -/
def Drive.level (v : Bool) : Drive := if v then .high else .low

/-- The rail that a ball's group is referred to (R903, R910). -/
def Ball.rail : Ball → Nat
  | .gd _ | .oca _ | .ocb _ | .hoc _ | .isen _ | .vsen _ | .snsClk => 8
  | .vbatSense | .ntc _ | .vrefNtc => 6
  | .fanPwm _ | .fanTach _ | .sbusScl | .sbusSda | .canTx _ | .canRx _ | .porn | .intn | .strap _ => 7
  | .plyAliveO | .plyAliveI | .plySync | .plyOwnA | .plyOwnB => 7
  | .tdmBclk _ | .tdmFs _ | .tdmDin _ | .tdmDout _ | .mdc | .mdio | .tck | .trstn | .tms | .tdi | .tdo | .pciePerstn => 9
  | .qspiCsn | .qspiSck | .qspiIo _ | .xspiCsn | .xspiSck | .xspiDqs | .xspiIo _ | .xspiRstn => 10
  | .uio u => 12 + u / 40
  | .refclk => 5
  | .pcieTx _ | .pcieRx _ | .portTx _ | .portRx _ | .plyTx _ | .plyRx _ => 3
  | .t1s => 11

/-- The internal pull of a ball while its rail is within range; a user ball has that of its mitre cell after apply (R906, R907;
06_veneer_image.md R197). -/
def ballPull (s : State) (b : Ball) : Pull :=
  if !railOk s b.rail then .none
  else
    match b with
    | .gd _ | .isen _ | .vsen _ | .snsClk | .porn | .strap _ | .plyAliveO | .plyAliveI | .plySync | .plyOwnA | .plyOwnB => .down
    | .tdmBclk _ | .tdmFs _ | .tdmDin _ | .tdmDout _ | .mdc | .tck | .trstn => .down
    | .xspiSck | .xspiDqs | .xspiIo _ | .xspiRstn => .down
    | .oca _ | .ocb _ | .hoc _ | .fanPwm _ | .fanTach _ | .canTx _ | .canRx _ | .mdio | .tms | .tdi | .qspiCsn | .xspiCsn => .up
    | .uio u =>
      if !s.mqy.mitreOn then .none
      else
        match wget (mget (fun _ => 0) s.mqy.mitre (4 + u)) 2 2 with
        | 1 => .up
        | 2 => .down
        | _ => .none
    | _ => .none

/-- What a ball does in board-test reset: gates low, fans at full speed, every other ball as the boundary-scan cells drive it, or high
impedance under HIGHZ (25_diagnostics_service.md R894). -/
def boardTestDrive (s : State) : Ball → Drive
  | .gd _ => .low
  | .fanPwm _ => .high
  | _ => if s.tap.ir = 0x05 then .off else .signal

/-- A TDM port drives its balls: AUD runs, the port is enabled, and the strand is no FOLLOWER (22_ply_pair.md R789). -/
def tdmDrives (s : State) (p : Nat) : Bool := audRuns s && s.flag (R.AUD_TDM_CFG_EN p) && !s.follower

/-- A strand's OWN line (19_power_stage_protection.md R730). -/
def ownDrive (s : State) (role : Nat) (level : Bool) : Drive := if s.get R.SYS_STRAP_PLYROLE = role then .level level else .off

/-- What the device does with a ball out of reset (R906). -/
def runDrive (s : State) : Ball → Drive
  | .gd n => if (s.pch (n / 4)).drive = 0 ∧ (s.pch (n / 4)).second = none then .low else .signal
  | .snsClk => if audRuns s then .signal else .low
  | .vrefNtc => .high
  | .fanPwm f => .pwm (s.get (R.THM_FAN_STAT_DUTY f))
  | .sbusScl | .sbusSda =>
    if !s.flag R.THM_SBUS_STAT_FAILED && (List.range 4).any (fun k => zoneOn s (8 + k)) then .signal else .off
  | .canTx n => if canRuns s n && decide (s.get (R.CAN_STAT_STATE n) < 2) && !(decide (n = 1) && s.flag (R.CAN_CTL_MON 1)) then .signal else .high
  | .intn => if s.intnAsserted then .low else .off
  | .plyAliveO => .level (s.ply.aliveOut && s.isStrand)
  | .plySync => if s.leader then .signal else .off
  | .plyOwnA => ownDrive s 1 (s.flag R.PWS_STAT_OWNA)
  | .plyOwnB => ownDrive s 2 (s.flag R.PWS_STAT_OWNB)
  | .tdmBclk p | .tdmFs p => if tdmDrives s p && s.flag (R.AUD_TDM_CFG_MASTER p) then .signal else .off
  | .tdmDout p => if tdmDrives s p then .signal else .off
  | .mdc => if s.flag R.PRT_MDIO_CMD_BUSY then .signal else .low
  | .mdio => if s.flag R.PRT_MDIO_CMD_BUSY then .signal else .off
  | .xspiCsn => if s.flag R.HIF_XSPI_STAT_BUSY then .signal else .high
  | .xspiSck => if s.flag R.HIF_XSPI_STAT_BUSY then .signal else .low
  | .xspiDqs | .xspiIo _ => if s.flag R.HIF_XSPI_STAT_BUSY then .signal else .off
  | .xspiRstn => .level s.sys.flashAwake
  | .uio u =>
    match ballDrive s (u / 40) (s.draw 32).1 (u % 40) with
    | some v => .level v
    | none => .off
  | .pcieTx _ => if s.flag R.HIF_STAT_LINKUP && s.hostPcie then .signal else .idle
  | .portTx p => if linkUp s p then .signal else .idle
  | .plyTx l => if l < s.get R.PLY_STAT_LANES then .signal else .idle
  | .t1s => if s.up islPRT && s.flag (R.PRT_CFG_EN portT0) then .signal else .off
  | _ => .off

/-- What the device does with a ball: nothing while its rail is out of range or the device is in reset, where pulls alone hold GD low
and the fan balls at full speed (04_staged_start.md R120 to R122; R906). -/
def ballState (s : State) (b : Ball) : Drive :=
  if !railOk s b.rail then .off
  else if s.sys.boardTest then boardTestDrive s b
  else if s.sys.resetting then .off
  else runDrive s b

/-- The level of the PORN ball: low from the fall that resets the device to its release (04_staged_start.md R119, R122). -/
def pornBall (s : State) : Bool := !s.sys.pornLow

/-- The Slot Clock Configuration bit of the PCIe function's Link Status register: the device uses its own reference clock (R922). -/
def slotClockConfig (_ : State) : Bool := false

end Sys2Proof.Machine
end

