-- ==== Sys2Proof/WellFormed.lean ====
section
/-!
DEFINITION. Well-formed commands: each operand lies in the range that the spec gives the thing it names. Operands with no
stated range (data, lengths, times) are free.
-/
namespace Sys2Proof

/-- The agent exists: 48 cores of 8 threads, 8 fabric panels, one host, one debug port (01_device_overview.md R31). -/
def agentOk : Agent → Bool
  | .thread n t => decide (n < 48) && decide (t < 8)
  | .panel p k => decide (p < 8) && decide (k < 4)
  | .host => true
  | .debug => true

/-- The word offset lies in BAR0 (00_scope.md R6). -/
def offOk (off : Nat) : Bool := decide (off < 2 ^ 26) && decide (off % 4 = 0)

/-- The CAN frame has a data length code, an identifier and data of the standard's sizes (25_diagnostics_service.md R876). -/
def canFrameOk (f : CanFrame) : Bool :=
  decide (f.id < if f.ide then 2 ^ 29 else 2 ^ 11) && decide (f.dlc < 16) && decide (f.data.length ≤ if f.fdf then 64 else 8)

/-- The operands of a command lie in their ranges. -/
def Instr.wf : Instr → Bool
  | .registerWrite a off be _ next => agentOk a && offOk off && decide (be < 16) && next.all fun n => decide (n.1 < 16)
  | .splitLoWrite a off be _ | .splitHiWrite a off be _ | .w1cWrite a off be _ _ => agentOk a && offOk off && decide (be < 16)
  | .splitLoRead a off _ | .rcRead a off _ _ => agentOk a && offOk off
  | .hostBar2Write off _ a | .hostBar2Read off _ a => agentOk a && decide (off < 33554432)
  | .linkDownFlush p | .frameReceive p _ _ _ | .linkDown p | .linkUp p _ | .transmitSelection p _ | .frameTxDone p _ => decide (p < 9)
  | .tasConfigChange p | .gateEntryAdvance p => decide (p < 72)
  | .egressStallFlush p q => decide (p < 9) && decide (q < 8)
  | .weftFlitReceive k _ _ _ _ | .linkLoopTestDone k _ _ => decide (k < 142)
  | .oscStop isl | .timeMessageTimeout isl => decide (isl < 77)
  | .pllLock k | .pllUnlock k | .pllRelockTimeout k => decide (k < 4)
  | .slowThresholdCross n _ | .slowClear n | .logicSliceEnd n _ _ => decide (n < 48)
  | .timeRateWrite a _ | .timeSlewWrite a _ | .timeStep a _ | .warp a _ | .unclampOutputs a | .unclampWriteEnables a
  | .unclampResets a | .weave a _ | .pushWord a _ | .keyprogBurn a _ | .rollbackAdvance a _ | .patchStart a _
  | .mdioC22Write a _ | .mdioC22Read a _ | .mdioC45Address a _ | .mdioC45Write a _ | .mdioC45Read a _
  | .mdioC45ReadIncrement a _ | .ruleWrite a _ | .ruleInvalidate a _ | .groupEnableWrite a _
  | .traceRecordSelect a _ | .traceModeChange a _ | .yarnMaskWrite a _ | .fwdWrite a | .fwdRead a | .fdbInsert a
  | .fdbDelete a | .fdbFlush a | .learnPop a | .fwdEventRead a | .adminQueueEnable a _ | .adminQueueDisable a _
  | .xspiGo a _ | .softwareRaise a _ | .crfTimestamp a _ | .latchClear a _ _ | .trimRequest a _ | .trimCancel a _
  | .sbusRestart a _ | .plyJoin a _ | .plyDetach a _ _ | .istReqCore a _ | .istReqPanel a _ | .istReqLink a _
  | .istReqPool a _ | .istReqScrub a _ | .istResultRead a | .journalWrite a _ | .journalReadRecord a _
  | .journalReadSlot a _ | .safeUnlockWrite a _ | .snapshotPop a _ | .lifecycleAdvance a _ | .fuseProgram a _
  | .unlockChallenge a _ | .unlockVerify a _ | .serviceLock a _ => agentOk a
  | .resetEnd boot _ _ => decide (boot < 16)
  | .handover c | .gatesReturnToSafe c | .pwmPeriodBoundary c _ _ | .fabricEdgeWord c _ | .overcurrentDetect c _ _ _ _
  | .hocAssert c _ _ | .shootThrough c _ _ _ | .secondLegTurnoff c | .calWindowEnd c _ _ _ _ _ _ | .senseStuck c _
  | .trimStart c | .trimDone c | .trimDeadline c | .logLatch c _ _ => decide (c < 16)
  | .powerFull a _ key | .powerQuiet a _ key | .powerNet a key | .powerStandby a key | .powerService a key
  | .powerReset a key => agentOk a && decide (key < 256)
  | .reserveRewriteDone p _ | .stallRequestTimeout p | .userNotice p | .readbackPassDone p _ _ => decide (p < 8)
  | .panelRequest p k req => decide (p < 8) && decide (k < 4) && agentOk req.agent && decide (req.off < 0x100000)
  | .panelResponse p k _ | .panelRequestTimeout p k | .portReadyAssert p k | .borderResponse p k => decide (p < 8) && decide (k < 4)
  | .bramEccError p addr _ _ => decide (p < 8) && decide (addr < 65536)
  | .admissionHoldTimeout p tc | .unnamedFrameDrop p tc _ => decide (p < 9) && decide (tc < 8)
  | .txtsTagRead a p | .tasChange a p _ => agentOk a && decide (p < 9)
  | .streamGateChange a g _ => agentOk a && decide (g < 63)
  | .fpVerifyDone p _ => decide (p < 2)
  | .recoveryResetTimeout h => decide (h < 1024)
  | .bufferRequest owner _ _ | .bufferWaitGrant owner => decide (owner < 50)
  | .cacheRefillDone pool => decide (pool < 8)
  | .lockRead a n others => agentOk a && others.all agentOk && decide (n < 512)
  | .lockRelease a n => agentOk a && decide (n < 512)
  | .lockHoldTimeout n => decide (n < 512)
  | .packetAdmit p _ => decide (p < 10)
  | .taskDispatch n thr => decide (n < 48) && decide (thr < 8)
  | .taskSteal y _ | .slotClose y => decide (y < 4096)
  | .yarnLimitWrite a y _ => agentOk a && decide (y < 4096)
  | .watchdogExpiry tid | .escalationTimeout tid | .hostEscalationTimeout tid | .timerExpiry tid
  | .weftReadResponse tid _ | .weftStoreResponse tid _ | .lookupResult tid | .fenceComplete tid | .pairedWord tid
  | .mov tid | .add tid | .adc tid | .sub tid | .sbc tid | .and tid | .or tid | .xor tid | .bic tid | .shl tid
  | .shr tid | .sar tid | .ror tid | .min tid | .max tid | .minu tid | .maxu tid | .cmp tid | .tst tid | .clz tid
  | .bswap tid | .sextb tid | .sexth tid | .zextb tid | .zexth tid | .neg tid | .not tid | .movi tid | .movhi tid
  | .addi tid | .andi tid | .ori tid | .xori tid | .shli tid | .shri tid | .sari tid | .rori tid | .cmpi tid
  | .tsti tid | .extu tid | .ins tid | .br tid | .call tid | .bc tid | .bf tid | .j tid | .jl tid | .jx tid
  | .jxl tid | .rtx tid | .bnz tid | .dbnz tid | .ldb tid | .ldbu tid | .ldh tid | .ldhu tid | .ldw tid | .stb tid
  | .sth tid | .stw tid | .ldhn tid | .ldhun tid | .ldwn tid | .sthn tid | .stwn tid | .pld tid | .pst tid
  | .push tid | .pop tid | .mul tid | .mulu tid | .mac tid | .macu tid | .msu tid | .rdacc tid | .qadd tid
  | .qsub tid | .qshl tid | .qabs tid | .qneg tid | .tget tid | .tdone tid | .send tid | .balloc tid | .bfree tid
  | .waitlk tid | .fadd tid | .sleep tid | .lkup tid | .nop tid | .mfs tid | .mts tid | .fence tid | .trap tid
  | .undefinedOpcode tid => decide (tid < 384)
  | .threadStop a tid _ | .threadRestart a tid _ | .threadSignal a tid => agentOk a && decide (tid < 384)
  | .localMemoryWindowWrite a n off be _ => agentOk a && decide (n < 48) && decide (off < 65536) && decide (be < 16)
  | .agerVisit idx => decide (idx < 32768)
  | .sqDoorbell a q _ | .cqDoorbell a q _ => agentOk a && decide (q < 1024)
  | .descriptorFetch q | .fetchComplete q _ | .nopDescriptor q | .drainIdle q | .hostSend q _ | .recv q
  | .sendDataError q => decide (q < 1024)
  | .noticeSourceRead a n | .routeEnableWrite a n _ => agentOk a && decide (n < 96)
  | .wposWrite a c _ | .channelArm a c | .channelDisable a c | .rposRead a c | .calSeqRead a c => agentOk a && decide (c < 16)
  | .listenerSeen a n => agentOk a && decide (n < 32)
  | .listenerTimeout n => decide (n < 32)
  | .captureWposRead a k => agentOk a && decide (k < 16)
  | .talkerEnable a k | .talkerNextRead a k => agentOk a && decide (k < 8)
  | .tdmFrame p _ _ | .tdmSyncLoss p | .logTdm p _ => decide (p < 4)
  | .gateMismatch c gate _ _ => decide (c < 16) && decide (gate < 4)
  | .zoneReading z _ => decide (z < 8)
  | .sbusRead z _ => decide (8 ≤ z) && decide (z < 12)
  | .fanStall f => decide (f < 4)
  | .logAdmit port _ _ _ _ | .frameFetchRequest port _ _ => decide (port < 10)
  | .logClose yarn _ _ _ _ _ => decide (yarn < 4096)
  | .marchSegment inst _ _ _ => decide (inst < 8)
  | .canFrameReceive n f _ _ => decide (n < 2) && canFrameOk f
  | .canTxRequest a n _ | .canTxAbort a n _ _ | .canRxPop a n _ | .canRecoveryRequest a n _ => agentOk a && decide (n < 2)
  | .canTxDone n _ _ | .canBusOff n | .canRecoveryDone n | .canTxDominantTimeout n => decide (n < 2)
  | .snapshotCapture n => decide (n < 96)
  | .railLow rail _ | .railCollapse rail _ | .railInRange rail _ => decide (rail < 16)
  | .plyLinkUp lanes => decide (lanes < 3)
  | .t0OpportunityTimeout | .refclkLoss | .refclkPresent | .refclkFreqError | .timeBroadcast _ | .holdoverTimeout
  | .pornFall _ _ _ | .brownOut _ _ _ | .stage1Entry _ | .loadWakeDone _ | .loadStreamDone | .loadVerifyDone
  | .loadApplyDone _ | .unclampStepDone | .powerTransitionDone | .netReloadDone _ _ | .standbyWakeFrame _ _ _
  | .pushTimeout | .keyprogBurnDone | .rollbackBurnDone | .patchVerifyDone _ _ | .patchReadbackDone _ _
  | .corePatchIdleTimeout | .patchEnd | .mdioFrameDone _ | .ruleCmdDone | .bufferFree _ | .atomicOp _ _ _ _
  | .sourceLookup | .fdbFlushDone | .auditSweepStart | .auditLineCompare | .auditRecheck | .auditSweepEnd _
  | .createQp | .destroyQpAbort | .destroyQpDrain | .queryQp | .functionLevelReset _ | .busMasterChange _ _
  | .qspiRead _ _ | .qspiWrite _ _ | .qspiId | .qspiCsnRise | .xspiCmdDone _ | .msixUnmask _ _ _ | .internalSample _
  | .dpllReferenceTimeout | .dpllLock | .safeTone _ | .safeClip _ | .ecallStart _ | .ecallStop _ | .safeStop _
  | .announcementEnd | .vbatReading _ | .outputDisableEnd | .ownershipTake | .sbusRecovery _
  | .fanUpdate _ | .partnerLoss _ | .plyLinkDown | .epochBoundary _ _ | .logBody _ | .logAnswer _ _ _ | .logLearn _
  | .logHost _ | .logDpll _ | .logEnd _ _ _ _ | .logVbat _ _ | .verdict _ | .ownContention | .formationTimeout _
  | .joinPhaseDone _ | .idleWindowEnd _ | .scrubRead _ _ _ _ _ _ | .istRequestDeadline _ | .bistDone _ _
  | .journalCommit | .journalScanDone _ | .safeWindowTimeout | .earlyWarning _ | .earlyWarningClear | .fuseBurnDone
  | .unlockTimeout | .challengeExpiry | .unlockWaitEnd | .extest _ | .idcode | .samplePreload _ _ | .clamp | .highz
  | .extestPulse _ | .extestTrain _ | .dbgacc | .bypass | .debugAccess _ _ _ | .debugReset | .tapReset
  | .dpllLockLoss | .plyLaneFail | .pcieLinkUp _ _ | .istLate _ | .plyAliveToggle _ => true

end Sys2Proof
end

