-- ==== Sys2Proof/Safety.lean ====
section
/-!
DEFINITION. What counts as a sound state and as a safe step, in the terms the statements use.
-/
namespace Sys2Proof.Machine

/-- The registers and the memories of the device are in their canonical form: addresses strictly rising, and no entry equal
to what an unlisted address reads as, so that equal memories are equal data. -/
def State.canonical (s : State) : Bool :=
  mwf resetWord s.regs && s.pkt.wf && s.fwd.mem.wf && s.jrn.mem.wf && s.hif.mem.wf

/-- Every waiting command has its operands in range. -/
def State.queueOk (s : State) : Bool := s.pending.all Instr.wf

/-- The invariant of a run: memories canonical, waiting commands well-formed. -/
def State.sound (s : State) : Bool := s.canonical && s.queueOk

/-- A step that goes on to a next state: no fault, nothing refused. -/
def safeStep (s : State) : Bool :=
  match step s with
  | .next _ => true
  | .fault _ => false
  | .refused _ => false

/-! When an access has its effect (00_scope.md R18, R25; 01_device_overview.md R36 to R39; 22_ply_pair.md R805). -/

/-- A write by an agent of a word to an offset acts on its register now: BAR0 answers, the block has power and does not stall, HIF
holds it behind no earlier access of the host, no joined pair holds it for an epoch boundary, the register acts on this agent, and no
reserved bit is 1. -/
def reaches (a : Agent) (o : Nat) (v : Word) (s : State) : Bool :=
  decodes a s && s.bar0 && blockUp s o && !weftHeld a o s
    && !(isHost a && decide (s.role ≥ 2) && mirrored o && !(decide (o = R.SYS_PSTATE_CMD) && decide (wget v 0 3 = 6)))
    && mayWrite a o && !reservedBits o v

/-- The same without regard to reserved bits, and no stalled panel holds the write. -/
def lands (a : Agent) (o : Nat) (v : Word) (s : State) : Bool :=
  decodes a s && s.bar0 && blockUp s o && !weftHeld a o s
    && !(isHost a && decide (s.role ≥ 2) && mirrored o && !(decide (o = R.SYS_PSTATE_CMD) && decide (wget v 0 3 = 6)))
    && mayWrite a o && !(decide (0x1000000 ≤ o) && (s.panel ((o - 0x1000000) / 0x100000)).stall)

/-- A read by an agent of an offset finds its register: BAR0 answers, the block has power and does not stall, HIF holds it behind no
earlier access of the host, and no FOLLOWER withholds the read. -/
def readable (a : Agent) (o : Nat) (s : State) : Bool :=
  decodes a s && s.bar0 && blockUp s o && !weftHeld a o s && !(isHost a && sideRead o && s.follower)

/-- What a read answers when it finds its register: the word in the agent's response, and the state after the read's side effects,
logged by a LEADER for its host (22_ply_pair.md R807). -/
def readDone (a : Agent) (o : Nat) (r : Word × State) : State :=
  respond (agentId a) r.1 (if isHost a && sideRead o then logAnswer 0x200 3 r.1 r.2 else r.2)

/-! Registers that only their access codes govern (00_scope.md R18 to R26). -/

/-- Offsets of the SYS, SUP, CLK, IST, PLY and SAFE blocks that are half of no split pair and whose writes no rule but their
access codes gives an effect: all but the stage, unclamp and power-state commands, the rate and slew of the time, the
in-service test request and the Ply command. -/
def codeWritten (o : Nat) : Bool :=
  (pairOf o).isNone && (decide (o < 0x30000) || (decide (0x60000 ≤ o) && decide (o < 0x80000)) || (decide (0xC0000 ≤ o) && decide (o < 0xD0000)))
    && !([R.SYS_STAGE_CMD, R.SYS_UNCLAMP, R.SYS_PSTATE_CMD, R.CLK_TRATE, R.CLK_TSLEW, R.IST_REQ, R.PLY_CMD].contains o)

/-- Offsets of the SYS, SUP, IST, PLY and SAFE blocks that are half of no split pair and whose reads no rule but their access codes
gives an effect or a value: all but the lowest battery voltage, the in-service test result and the Ply status. -/
def codeReads (o : Nat) : Bool :=
  (pairOf o).isNone && (decide (o < 0x20000) || (decide (0x60000 ≤ o) && decide (o < 0x80000)) || (decide (0xC0000 ≤ o) && decide (o < 0xD0000)))
    && !([R.SUP_VBAT_MIN, R.IST_RES, R.PLY_STAT].contains o)

/-- Bit b of a register after a write of v, by the access code of the bit: RW takes the value, a 1 clears W1C, any other keeps. -/
def codeBit (t : RegSpec) (old v : Word) (b : Nat) : Bool :=
  if t.rw.testBit b then v.getLsbD b else if t.w1c.testBit b && v.getLsbD b then false else old.getLsbD b

/-! Families of commands, for the statements of what a command leaves as it was. -/

/-- Every register outside the blocks `own` of 64 KiB reads in t as in s. -/
def regsKept (own : Nat → Bool) (s t : State) : Prop := ∀ o, own (o / 0x10000) = false → t.rd o = s.rd o

/-- Weft flits, oscillator frequency events and the settings of device time. -/
def clockCommand : Instr → Bool
  | .weftFlitReceive .. | .refclkFreqError | .slowThresholdCross .. | .slowClear ..
  | .timeMessageTimeout .. | .holdoverTimeout | .timeRateWrite .. | .timeSlewWrite .. => true
  | _ => false

/-- Unclamping. -/
def unclampCommand : Instr → Bool
  | .unclampOutputs .. | .unclampWriteEnables .. | .unclampResets .. | .weave .. => true
  | _ => false

/-- Fuses. -/
def fuseCommand : Instr → Bool
  | .keyprogBurn .. | .keyprogBurnDone | .rollbackAdvance .. | .rollbackBurnDone | .fuseProgram .. | .lifecycleAdvance ..
  | .fuseBurnDone => true
  | _ => false

/-- Supply rails. -/
def supplyCommand : Instr → Bool
  | .railLow .. | .railInRange .. => true
  | _ => false

/-- The MDIO master. -/
def mdioCommand : Instr → Bool
  | .mdioC22Write .. | .mdioC22Read .. | .mdioC45Address .. | .mdioC45Write .. | .mdioC45Read .. | .mdioC45ReadIncrement ..
  | .mdioFrameDone .. => true
  | _ => false

/-- Links, transmission selection, gates and stream recovery. -/
def portCommand : Instr → Bool
  | .t0OpportunityTimeout | .linkUp .. | .linkDown .. | .transmitSelection .. | .txtsTagRead .. | .tasChange ..
  | .tasConfigChange .. | .gateEntryAdvance .. | .fpVerifyDone .. | .recoveryResetTimeout .. | .streamGateChange .. => true
  | _ => false

/-- Panel events. -/
def panelCommand : Instr → Bool
  | .panelResponse .. | .panelRequestTimeout .. | .portReadyAssert .. | .stallRequestTimeout .. | .bramEccError ..
  | .userNotice .. | .borderResponse .. => true
  | _ => false

/-- Buffer pools. -/
def poolCommand : Instr → Bool
  | .bufferRequest .. | .bufferWaitGrant .. | .cacheRefillDone .. | .bufferFree .. => true
  | _ => false

/-- Locks. -/
def lockCommand : Instr → Bool
  | .lockRead .. | .lockRelease .. | .lockHoldTimeout .. => true
  | _ => false

/-- Distaff settings and trace. -/
def yarnCommand : Instr → Bool
  | .traceRecordSelect .. | .traceModeChange .. | .yarnLimitWrite .. | .yarnMaskWrite .. => true
  | _ => false

/-- Thread timers and events. -/
def threadCommand : Instr → Bool
  | .timerExpiry .. | .threadSignal .. | .localMemoryWindowWrite .. | .fenceComplete .. | .escalationTimeout ..
  | .hostEscalationTimeout .. => true
  | _ => false

/-- Parser rules. -/
def ruleCommand : Instr → Bool
  | .ruleWrite .. | .ruleInvalidate .. | .groupEnableWrite .. => true
  | _ => false

/-- Forwarding tables. -/
def tableCommand : Instr → Bool
  | .fwdWrite .. | .fwdRead .. | .fdbInsert .. | .fdbDelete .. | .fdbFlush .. | .fdbFlushDone | .learnPop ..
  | .fwdEventRead .. | .sourceLookup | .agerVisit .. | .auditSweepStart | .auditLineCompare | .auditRecheck
  | .auditSweepEnd .. => true
  | _ => false

/-- Doorbells, descriptor reads and the serial ports. -/
def ringCommand : Instr → Bool
  | .sqDoorbell .. | .cqDoorbell .. | .descriptorFetch .. | .drainIdle .. | .recv .. | .xspiGo .. | .xspiCmdDone .. | .qspiId
  | .qspiCsnRise | .pcieLinkUp .. | .hostBar2Read .. => true
  | _ => false

/-- Notices. -/
def noticeCommand : Instr → Bool
  | .noticeSourceRead .. | .softwareRaise .. | .routeEnableWrite .. | .msixUnmask .. => true
  | _ => false

/-- The audio path but for its rings' own traffic. -/
def audioCommand : Instr → Bool
  | .wposWrite .. | .channelArm .. | .channelDisable .. | .rposRead .. | .crfTimestamp .. | .dpllReferenceTimeout | .dpllLock
  | .dpllLockLoss | .listenerSeen .. | .listenerTimeout .. | .captureWposRead .. | .talkerEnable .. | .talkerNextRead ..
  | .fabricEdgeWord .. => true
  | _ => false

/-- SAFE's announcements and emergency calls. -/
def announceCommand : Instr → Bool
  | .safeTone .. | .safeClip .. | .ecallStart .. | .ecallStop .. | .safeStop .. | .announcementEnd => true
  | _ => false

/-- Power-stage faults. -/
def stageCommand : Instr → Bool
  | .overcurrentDetect .. | .hocAssert .. | .gateMismatch .. | .shootThrough .. | .secondLegTurnoff .. | .latchClear ..
  | .formationTimeout .. | .ownershipTake => true
  | _ => false

/-- The calibration engine. -/
def calCommand : Instr → Bool
  | .calWindowEnd .. | .senseStuck .. | .calSeqRead .. | .trimRequest .. | .trimCancel .. | .trimStart .. | .trimDone ..
  | .trimDeadline .. => true
  | _ => false

/-- Thermal zones and fans. -/
def thermalCommand : Instr → Bool
  | .zoneReading .. | .sbusRead .. | .sbusRecovery .. | .sbusRestart .. | .fanUpdate .. | .fanStall .. => true
  | _ => false

/-- Requests of the in-service test. -/
def testCommand : Instr → Bool
  | .istReqCore .. | .istReqPanel .. | .istReqLink .. | .istReqPool .. | .istReqScrub .. | .istRequestDeadline ..
  | .istResultRead .. | .istLate .. | .idleWindowEnd .. => true
  | _ => false

/-- The journal and the early warning. -/
def journalCommand : Instr → Bool
  | .journalWrite .. | .journalCommit | .journalScanDone .. | .journalReadRecord .. | .journalReadSlot ..
  | .safeUnlockWrite .. | .safeWindowTimeout | .earlyWarning .. | .earlyWarningClear => true
  | _ => false

/-- The CAN ports, snapshots and service access. -/
def canCommand : Instr → Bool
  | .canTxRequest .. | .canTxAbort .. | .canTxDone .. | .canRxPop .. | .canBusOff .. | .canRecoveryRequest ..
  | .canRecoveryDone .. | .canTxDominantTimeout .. | .snapshotCapture .. | .snapshotPop .. | .unlockChallenge ..
  | .unlockVerify .. | .serviceLock .. | .unlockTimeout | .challengeExpiry | .unlockWaitEnd => true
  | _ => false

/-- The pair's log and its link. -/
def pairCommand : Instr → Bool
  | .logAdmit .. | .logAnswer .. | .logLearn .. | .logHost .. | .logClose .. | .logDpll .. | .frameFetchRequest ..
  | .plyLinkUp .. | .plyLaneFail | .plyAliveToggle .. => true
  | _ => false

/-- The test access port's instructions that reset nothing. -/
def tapCommand : Instr → Bool
  | .idcode | .samplePreload .. | .dbgacc | .bypass => true
  | _ => false

/-- Events of the stage, of the gates' sources, of the pair's ownership and of other faults. -/
def latchKeeper : Instr → Bool
  | .unclampOutputs .. | .unclampWriteEnables .. | .unclampResets .. | .unclampStepDone | .weave .. | .handover ..
  | .gatesReturnToSafe .. | .pwmPeriodBoundary .. | .outputDisableEnd | .ownershipTake | .formationTimeout ..
  | .secondLegTurnoff .. | .overcurrentDetect .. | .hocAssert .. | .gateMismatch .. | .shootThrough .. | .vbatReading .. => true
  | _ => false

/-! A Whorl word that executes (12_whorl_cores_threads.md R447, R448; 13_whorl_isa_model.md R489, R493, R495). -/

/-- The NOP of a slot. -/
def slotNop : Insn :=
  { op := .nop, rd := 0, ra := 0, rb := 0, imm := 0, fn := 0, setf := false, pkt := false, upd := 0, cond := none, late := false }

/-- A word is the instruction `i` alone, or `i` beside a NOP. -/
def alone (i : Insn) : Dec → Bool
  | .one j => decide (j = i)
  | .two a b => (decide (a = i) && decide (b = slotNop)) || (decide (b = i) && decide (a = slotNop))
  | _ => false

/-- A thread issues the word at its PC now: it runs on a core in service, no store error comes first, and the word's bytes `code` decode,
in its form, to the instruction `i` alone. -/
def ready (s : State) (tid : Nat) (i : Insn) (code : List Byte) : Bool :=
  canIssue s tid && decide ((s.thread tid).storeErr = none) && (s.thread tid).read.isNone &&
    (match fetchWord s (tid / 8) (s.thread tid).pc (s.thread tid).form with
    | .word d c => decide (c = code) && alone i d && decide (wordDecode (s.thread tid).form code = (d, code.length))
    | .bad _ _ => false)

/-- The instruction executes: its condition, where it has one, holds, and nothing of it is ILL. -/
def runs (i : Insn) (x : Thread) : Bool :=
  !i.late && (match i.cond with | some cc => condHolds cc x.flags | none => true)

/-- The address of the word after one of the bytes `code`. -/
def pcAfter (x : Thread) (code : List Byte) : Nat := (x.pc + code.length) % 2 ^ 32

/-- A thread past a word of the bytes `code` that has changed nothing else. -/
def pastWord (x : Thread) (code : List Byte) : Thread := { x.nextWord with pc := pcAfter x code, st := 1, waitOn := 0, read := none }

/-- The Whorl commands that a single instruction is the meaning of: the thread, and the row. -/
def wordRow : Instr → Option (Nat × Row)
  | .waitlk tid => some (tid, .op .waitlk)
  | .sleep tid => some (tid, .op .sleep)
  | .mov tid => some (tid, .op .mov)
  | .add tid => some (tid, .op .add)
  | .adc tid => some (tid, .op .adc)
  | .sub tid => some (tid, .op .sub)
  | .sbc tid => some (tid, .op .sbc)
  | .and tid => some (tid, .op .and)
  | .or tid => some (tid, .op .or)
  | .xor tid => some (tid, .op .xor)
  | .bic tid => some (tid, .op .bic)
  | .shl tid => some (tid, .op .shl)
  | .shr tid => some (tid, .op .shr)
  | .sar tid => some (tid, .op .sar)
  | .ror tid => some (tid, .op .ror)
  | .min tid => some (tid, .op .min)
  | .max tid => some (tid, .op .max)
  | .minu tid => some (tid, .op .minu)
  | .maxu tid => some (tid, .op .maxu)
  | .cmp tid => some (tid, .op .cmp)
  | .tst tid => some (tid, .op .tst)
  | .clz tid => some (tid, .op .clz)
  | .bswap tid => some (tid, .op .bswap)
  | .sextb tid => some (tid, .op .sextb)
  | .sexth tid => some (tid, .op .sexth)
  | .zextb tid => some (tid, .op .zextb)
  | .zexth tid => some (tid, .op .zexth)
  | .neg tid => some (tid, .op .neg)
  | .not tid => some (tid, .op .not)
  | .movi tid => some (tid, .op .movi)
  | .movhi tid => some (tid, .op .movhi)
  | .addi tid => some (tid, .op .addi)
  | .andi tid => some (tid, .op .andi)
  | .ori tid => some (tid, .op .ori)
  | .xori tid => some (tid, .op .xori)
  | .shli tid => some (tid, .op .shli)
  | .shri tid => some (tid, .op .shri)
  | .sari tid => some (tid, .op .sari)
  | .rori tid => some (tid, .op .rori)
  | .cmpi tid => some (tid, .op .cmpi)
  | .tsti tid => some (tid, .op .tsti)
  | .extu tid => some (tid, .op .extu)
  | .ins tid => some (tid, .op .ins)
  | .br tid => some (tid, .op .br)
  | .call tid => some (tid, .op .call)
  | .bc tid => some (tid, .op .bc)
  | .bf tid => some (tid, .op .bf)
  | .j tid => some (tid, .op .j)
  | .jl tid => some (tid, .op .jl)
  | .jx tid => some (tid, .op .jx)
  | .jxl tid => some (tid, .op .jxl)
  | .rtx tid => some (tid, .op .rtx)
  | .bnz tid => some (tid, .op .bnz)
  | .dbnz tid => some (tid, .op .dbnz)
  | .ldb tid => some (tid, .op .ldb)
  | .ldbu tid => some (tid, .op .ldbu)
  | .ldh tid => some (tid, .op .ldh)
  | .ldhu tid => some (tid, .op .ldhu)
  | .ldw tid => some (tid, .op .ldw)
  | .stb tid => some (tid, .op .stb)
  | .sth tid => some (tid, .op .sth)
  | .stw tid => some (tid, .op .stw)
  | .ldhn tid => some (tid, .op .ldhn)
  | .ldhun tid => some (tid, .op .ldhun)
  | .ldwn tid => some (tid, .op .ldwn)
  | .sthn tid => some (tid, .op .sthn)
  | .stwn tid => some (tid, .op .stwn)
  | .pld tid => some (tid, .packet false)
  | .pst tid => some (tid, .packet true)
  | .push tid => some (tid, .op .push)
  | .pop tid => some (tid, .op .pop)
  | .mul tid => some (tid, .op .mul)
  | .mulu tid => some (tid, .op .mulu)
  | .mac tid => some (tid, .op .mac)
  | .macu tid => some (tid, .op .macu)
  | .msu tid => some (tid, .op .msu)
  | .rdacc tid => some (tid, .op .rdacc)
  | .qadd tid => some (tid, .op .qadd)
  | .qsub tid => some (tid, .op .qsub)
  | .qshl tid => some (tid, .op .qshl)
  | .qabs tid => some (tid, .op .qabs)
  | .qneg tid => some (tid, .op .qneg)
  | .tget tid => some (tid, .op .tget)
  | .tdone tid => some (tid, .op .tdone)
  | .send tid => some (tid, .op .send)
  | .balloc tid => some (tid, .op .balloc)
  | .bfree tid => some (tid, .op .bfree)
  | .fadd tid => some (tid, .op .fadd)
  | .lkup tid => some (tid, .op .lkup)
  | .nop tid => some (tid, .op .nop)
  | .mfs tid => some (tid, .op .mfs)
  | .mts tid => some (tid, .op .mts)
  | .fence tid => some (tid, .op .fence)
  | .trap tid => some (tid, .op .trap)
  | _ => none

end Sys2Proof.Machine
end

