-- ==== Sys2Proof/Certificates/Slice0/Obligations.lean ====
section
/-!
DEFINITION. The statements about the machine, for the provers. A statement with several clauses is their conjunction; each clause names the
conditions on state and operands under which its command goes on, and what the next state holds.
-/
open Sys2Proof Sys2Proof.Machine

/-- O1. What register writes, split pairs, read-clear reads, write-one-to-clear writes and debug accesses do. A whole-word write that
  reaches a register of the SYS, SUP, CLK, IST, PLY or SAFE block which no rule but its access codes governs sets RW bits, clears W1C
  bits written as 1 and leaves every other bit, every other register, the time, the queue and the free-value counter as they were; a
  write of an unassigned offset there and a narrow or misaligned write change nothing; a read of a low half captures the high half for
  its agent; a write of a low half of a writable pair is held for its agent, replaces the value held before and changes no register; a
  write of the high half of an EVT, HIF or PRT pair puts the held low word (the one in force where none is held) and the high word in
  force and uses the held word up; a read of an RC field returns it and leaves only the coincident events; a W1C write clears the bits
  written as 1 except where an event coincides; a debug access with debug open reads or writes as the debug agent, with DONE set and
  ERR clear; and a host transaction that covers two registers is the write of the lower followed by the write of the upper.
  (00_scope.md R13, 00_scope.md R14, 00_scope.md R15, 00_scope.md R16, 00_scope.md R17, 00_scope.md R18, 00_scope.md R20, 00_scope.md R22,
  25_diagnostics_service.md R896) -/
def Obligations.RegisterCommandsComplete : Prop :=
  (∀ (s : State) (a : Agent) (off be : Nat) (v : Word) (c : RegSpec), be = 15 → reaches a off v s = true → off % 4 = 0 →
   codeWritten off = true → regSpec off = some c → ∃ t, exec (.registerWrite a off be v none) s = .next t ∧ ∀ b : Fin 32,
   (t.rd off).getLsbD b = codeBit c (s.rd off) (inForce off v) b ∧ t = s.wr off (t.rd off)) ∧
  (∀ (s : State) (a : Agent) (off be : Nat) (v : Word), be = 15 → reaches a off v s = true → off % 4 = 0 → codeWritten off = true →
   regSpec off = none → ∃ t, exec (.registerWrite a off be v none) s = .next t ∧ t = s) ∧
  (∀ (s : State) (a : Agent) (off be : Nat) (v : Word), be ≠ 15 ∨ off % 4 ≠ 0 → ∃ t, exec (.registerWrite a off be v none) s = .next t ∧
   t = s) ∧
  (∀ (s : State) (a : Agent) (off : Nat), pairLo off = true → readable a off s = true → ∃ t,
   exec (.splitLoRead a off false) s = .next t ∧ mget (fun _ => 0) t.resp (agentId a) = (regRead a off (regRead a (off + 4) s).2).1 ∧
   captured a off t = some (regRead a (off + 4) s).1) ∧
  (∀ (s : State) (a : Agent) (off be : Nat) (v : Word), be = 15 → reaches a off v s = true → pairLo off = true →
   pairRw off = true → pairBusy off s = false → pairFixed off s = false → ∃ t, exec (.splitLoWrite a off be v) s = .next t ∧
   heldOf a off t = some v ∧ t.regs = s.regs) ∧
  (∀ (s : State) (a : Agent) (off be : Nat) (v : Word), be = 15 → 4 ≤ off → off % 4 = 0 → reaches a off v s = true →
   pairLo (off - 4) = true → pairRw (off - 4) = true → pairBusy (off - 4) s = false → pairFixed (off - 4) s = false →
   off - 4 ≠ R.CLK_TSTEP_LO → off - 4 ≠ R.DST_YMASK_LO → ∃ t, exec (.splitHiWrite a off be v) s = .next t ∧ t.rd off = v ∧
   t.rd (off - 4) = (heldOf a (off - 4) s).getD (s.rd (off - 4)) ∧ heldOf a (off - 4) t = none) ∧
  (∀ (s : State) (a : Agent) (off : Nat) (ev : Word) (c : RegSpec), off % 4 = 0 → codeReads off = true → regSpec off = some c →
   c.rc ≠ 0 → readable a off s = true → ∃ t, exec (.rcRead a off ev false) s = .next t ∧ ∀ b : Fin 32, c.rc.testBit b.val = true →
   (mget (fun _ => 0) t.resp (agentId a)).getLsbD b = (s.rd off).getLsbD b ∧ (t.rd off).getLsbD b = ev.getLsbD b) ∧
  (∀ (s : State) (a : Agent) (off be : Nat) (v ev : Word) (c : RegSpec), be = 15 → reaches a off v s = true →
   codeWritten off = true → off % 4 = 0 → regSpec off = some c → c.w1c ≠ 0 → ∃ t, exec (.w1cWrite a off be v ev) s = .next t ∧
   ∀ b : Fin 32, c.w1c.testBit b.val = true → (t.rd off).getLsbD b = (((s.rd off).getLsbD b && !v.getLsbD b) || ev.getLsbD b)) ∧
  (∀ (s : State) (addr : Nat) (v : Word), tapRuns s = true → s.tap.ir = 0x20 → s.sys.resetting = false →
   s.flag R.DGN_STAT_DBGOPEN = true → addr % 4 = 0 → addr < 0x1000000 → pairOf addr = none → readable .debug addr s = true → ∃ t,
   exec (.debugAccess false addr v) s = .next t ∧ t.tap.data = (regRead .debug addr s).1 ∧ t.tap.done = true ∧ t.tap.err = false) ∧
  (∀ (s : State) (addr : Nat) (v : Word) (c : RegSpec), tapRuns s = true → s.tap.ir = 0x20 → s.sys.resetting = false →
   s.flag R.DGN_STAT_DBGOPEN = true → addr % 4 = 0 → codeWritten addr = true → regSpec addr = some c →
   reaches .debug addr v s = true → ∃ t, exec (.debugAccess true addr v) s = .next t ∧ ∀ b : Fin 32,
   (t.rd addr).getLsbD b = codeBit c (s.rd addr) (inForce addr v) b ∧ t.tap.done = true ∧ t.tap.err = false) ∧
  (∀ (s : State) (a : Agent) (off be be' : Nat) (v w : Word) (t : State), isHost a = true →
   exec (.registerWrite a off be v none) s = .next t →
   exec (.registerWrite a off be v (some (be', w))) s = exec (.registerWrite a (off + 4) be' w none) t)

/-- O2. What link errors, loop tests, stopped oscillators, PLL and REFCLK events do. Each clause says under which conditions a command
  of the weft's links, of island oscillators, of REFCLK or of a PLL completes, and the next state it answers: a flit counts its
  corrections and replays, a link takes its state, an island is declared stopped, lock bits and causes read as the rules say.
  (03_islands_and_weft.md) -/
def Obligations.LinkAndOscillatorEventsComplete : Prop :=
  (∀ (s : State) (k n : Nat) (back resp : Bool), s.sys.resetting = false → k < 142 → s.get (R.CLK_LINK_STATE k) = 0 →
   mget (fun _ => 0) s.clk.flitFails (2 * k + b2n back) = 0 → creditsUsed s (2 * (2 * k + b2n back) + b2n resp) - n < 4 → ∃ t,
   exec (.weftFlitReceive k back .none resp n) s = .next t ∧ t.regs = s.regs ∧
   mget (fun _ => 0) t.clk.flitFails (2 * k + b2n back) = 0 ∧
   creditsUsed t (2 * (2 * k + b2n back) + b2n resp) = creditsUsed s (2 * (2 * k + b2n back) + b2n resp) - n + 1) ∧
  (∀ (s : State) (k n : Nat) (back resp : Bool) (e : FlitError), s.sys.resetting = false → k < 142 →
   s.get (R.CLK_LINK_STATE k) = 0 → mget (fun _ => 0) s.clk.flitFails (2 * k + b2n back) = 0 →
   4 ≤ creditsUsed s (2 * (2 * k + b2n back) + b2n resp) - n → ∃ t, exec (.weftFlitReceive k back e resp n) s = .next t ∧
   t.regs = s.regs ∧ flitsHeld t (2 * (2 * k + b2n back) + b2n resp) = flitsHeld s (2 * (2 * k + b2n back) + b2n resp) + 1 ∧
   creditsUsed t (2 * (2 * k + b2n back) + b2n resp) = creditsUsed s (2 * (2 * k + b2n back) + b2n resp) - n) ∧
  (∀ (s : State) (k n : Nat) (back resp : Bool), s.sys.resetting = false → k < 142 → s.get (R.CLK_LINK_STATE k) = 0 →
   (mget (fun _ => 0) s.clk.flitFails (2 * k + b2n back) ≠ 0 ∨ creditsUsed s (2 * (2 * k + b2n back) + b2n resp) - n < 4) → ∃ t,
   exec (.weftFlitReceive k back .single resp n) s = .next t ∧
   t.rd R.CLK_WEFT_CORR = BitVec.ofNat 32 (satAdd 0xFFFFFFFF (s.rd R.CLK_WEFT_CORR).toNat 1) ∧
   mget (fun _ => 0) t.clk.flitFails (2 * k + b2n back) = 0) ∧
  (∀ (s : State) (k n : Nat) (back resp : Bool), s.sys.resetting = false → k < 142 → s.get (R.CLK_LINK_STATE k) = 0 →
   (mget (fun _ => 0) s.clk.flitFails (2 * k + b2n back) ≠ 0 ∨ creditsUsed s (2 * (2 * k + b2n back) + b2n resp) - n < 4) →
   mget (fun _ => 0) s.clk.flitFails (2 * k + b2n back) < 3 → ∃ t,
   exec (.weftFlitReceive k back .double resp n) s = .next t ∧
   t.rd R.CLK_WEFT_RETRY = BitVec.ofNat 32 (satAdd 0xFFFFFFFF (s.rd R.CLK_WEFT_RETRY).toNat 1) ∧ t.get (R.CLK_LINK_STATE k) = 0 ∧
   mget (fun _ => 0) t.clk.flitFails (2 * k + b2n back) = mget (fun _ => 0) s.clk.flitFails (2 * k + b2n back) + 1) ∧
  (∀ (s : State) (k n : Nat) (back resp : Bool), s.sys.resetting = false → k < 142 → s.get (R.CLK_LINK_STATE k) = 0 →
   mget (fun _ => 0) s.clk.flitFails (2 * k + b2n back) = 3 → ∃ t, exec (.weftFlitReceive k back .double resp n) s = .next t ∧
   t.get (R.CLK_LINK_STATE k) = 1 ∧ mget (fun _ => 0) t.clk.loopLeft k = 3) ∧
  (∀ (s : State) (k : Nat) (back : Bool), s.sys.resetting = false → k < 142 → s.get (R.CLK_LINK_STATE k) = 1 → s.stage < 2 →
   mget (fun _ => 0) s.clk.loopLeft k = 2 ^ b2n back → ∃ t, exec (.linkLoopTestDone k back true) s = .next t ∧
   t.regs = (s.set (R.CLK_LINK_STATE k) 0).regs) ∧
  (∀ (s : State) (k : Nat) (back : Bool), s.sys.resetting = false → k < 142 → s.get (R.CLK_LINK_STATE k) = 1 → s.stage < 2 →
   mget (fun _ => 0) s.clk.loopLeft k = 3 → ∃ t, exec (.linkLoopTestDone k back true) s = .next t ∧ t.regs = s.regs ∧
   mget (fun _ => 0) t.clk.loopLeft k = 2 ^ b2n (!back)) ∧
  (∀ (s : State) (k : Nat) (back : Bool), s.sys.resetting = false → k < 142 → s.get (R.CLK_LINK_STATE k) = 1 → s.stage < 2 → ∃ t,
   exec (.linkLoopTestDone k back false) s = .next t ∧ t = retireLink k s) ∧
  (∀ (s : State) (isl : Nat), s.sys.resetting = false → isl < 77 → s.flag (R.CLK_ISL_ON isl) = true →
   s.flag (R.CLK_ISL_STOP isl) = false → ∃ t, exec (.oscStop isl) s = .next t ∧
   t = istCheck (stopActs isl (cause R.CLK_NSTAT_OSC_STOP 4 (s.set (R.CLK_ISL_STOP isl) 1)))) ∧
  (∀ (s : State), s.sys.resetting = false → s.flag R.CLK_STAT_REFCLK_OK = true → ∃ t, exec (.refclkLoss) s = .next t ∧
   t = refclkLost s) ∧
  (∀ (s : State), s.sys.resetting = false → s.flag R.CLK_STAT_REFCLK_OK = false → bitOf (s.rd R.SUP_RAIL).toNat 5 = true →
   s.safe.waiting = [] → ∃ t, exec (.refclkPresent) s = .next t ∧ t.flag R.CLK_STAT_REFCLK_OK = true ∧ t.clk.refSeen = true ∧
   t.get R.CLK_TSTAT_STATE = (match s.clk.disc with | .never => 0 | .within => 1 | .expired => 2)) ∧
  (∀ (s : State), s.sys.resetting = false → s.flag R.CLK_STAT_REFCLK_OK = true → ∃ t, exec (.refclkFreqError) s = .next t ∧
   t.get R.CLK_NSTAT_REFCLK_FREQ = 1) ∧
  (∀ (s : State) (k : Nat), s.sys.resetting = false → k < 4 → s.flag R.CLK_STAT_REFCLK_OK = true → s.flag (pllLock k) = false →
   (k = 3 → s.isStrand = true) → (k = 0 → audPllOff s = false) → ∃ t, exec (.pllLock k) s = .next t ∧
   t = drain (loadRestart (pllStall k false (s.set (pllLock k) 1)))) ∧
  (∀ (s : State) (k : Nat), s.sys.resetting = false → k < 4 → s.flag R.CLK_STAT_REFCLK_OK = true → s.flag (pllLock k) = true → ∃ t,
   exec (.pllUnlock k) s = .next t ∧
   t = (if k = 0 then audioStops (disablePll (cause R.CLK_NSTAT_PLL_UNLOCK 4 (s.set (pllLock k) 0))) else pllStall k true (cause R.CLK_NSTAT_PLL_UNLOCK 4 (s.set (pllLock k) 0)))) ∧
  (∀ (s : State) (k : Nat), s.sys.resetting = false → k < 4 → s.flag R.CLK_STAT_REFCLK_OK = true → s.flag (pllLock k) = false →
   (k = 0 → audPllOff s = false) → ∃ t, exec (.pllRelockTimeout k) s = .next t ∧
   t = drain ((pllIslands s k).foldl (fun u i => oscStop i u) (pllStall k false s))) ∧
  (∀ (s : State) (n mhz : Nat), n < 48 → s.up (islWHL n) = true → mhz < slowThr s → ∃ t,
   exec (.slowThresholdCross n mhz) s = .next t ∧ t.get (R.CLK_ISL_SLOW (islWHL n)) = 1 ∧ t.get R.CLK_NSTAT_SLOW = 1) ∧
  (∀ (s : State) (n : Nat), n < 48 → s.up (islWHL n) = true → ∃ t, exec (.slowClear n) s = .next t ∧
   t = s.set (R.CLK_ISL_SLOW (islWHL n)) 0)

/-- O3. What the commands of device time do. TIME_BROADCAST advances device time by 1000 ns at the rate in force, plus or minus the slew
  of this microsecond, which leaves the slew's remainder; a missed message shows in TLOST; a rate, a slew and a forward step take effect
  and count as discipline writes; the hold-over timeout turns a disciplined time source into HOLDOVER. (03_islands_and_weft.md R101,
  03_islands_and_weft.md R103, 03_islands_and_weft.md R104, 03_islands_and_weft.md R105, 03_islands_and_weft.md R106,
  03_islands_and_weft.md R109) -/
def Obligations.DeviceTimeCommandsComplete : Prop :=
  (∀ (s : State) (missed : List Nat), s.sys.resetting = false → ∃ t, exec (.timeBroadcast missed) s = .next t ∧
   t.clk.timeFx = ((s.clk.timeFx : Int) + (timeStep1 s + slewStep s)).toNat ∧ t.clk.slewFx = s.clk.slewFx - slewStep s ∧
   t.clk.bcast = t.clk.timeFx / 2 ^ 32) ∧
  (∀ (s : State) (isl : Nat), isl < 77 → s.up isl = true → ∃ t, exec (.timeMessageTimeout isl) s = .next t ∧
   t = s.set (R.CLK_ISL_TLOST isl) 1) ∧
  (∀ (s : State), s.sys.resetting = false → s.clk.disc = .within → ∃ t, exec (.holdoverTimeout) s = .next t ∧
   t.clk.disc = .expired ∧ t.get R.CLK_TSTAT_STATE = (if s.get R.CLK_TSTAT_STATE = 1 then 2 else s.get R.CLK_TSTAT_STATE)) ∧
  (∀ (s : State) (a : Agent) (v : Word), reaches a R.CLK_TRATE v s = true → ∃ t, exec (.timeRateWrite a v) s = .next t ∧
   t.rd R.CLK_TRATE = inForce R.CLK_TRATE v ∧ t.clk.disc = .within) ∧
  (∀ (s : State) (a : Agent) (v : Word), reaches a R.CLK_TSLEW v s = true → ∃ t, exec (.timeSlewWrite a v) s = .next t ∧
   t.clk.slewFx = max (-1000000) (min 1000000 v.toInt) * 2 ^ 32 ∧ t.clk.disc = .within) ∧
  (∀ (s : State) (a : Agent) (hi : Word), reaches a R.CLK_TSTEP_HI hi s = true → ∃ t, exec (.timeStep a hi) s = .next t ∧
   t.clk.timeFx = s.clk.timeFx + (((heldOf a R.CLK_TSTEP_LO s).getD (s.rd R.CLK_TSTEP_LO)).toNat + 2 ^ 32 * hi.toNat) * 2 ^ 32 ∧
   t.rd R.CLK_TSTEP_HI = hi)

/-- O4. What resets, their end, and Stage 1 entry leave. A PORN pulse and a brown-out long enough (between the two limits: as the device
  takes them, an operand) put the device into reset, with the cause kept and the fuses read; the end of reset leaves reset, samples the
  straps unless they were kept, and declares no time reference; Stage 1 entry ends the output-disable of reset and enters Stage 1; a
  load started by strap follows as the boot straps say. (04_staged_start.md R119, 04_staged_start.md R123, 04_staged_start.md R125,
  04_staged_start.md R134) -/
def Obligations.ResetCommandsComplete : Prop :=
  (∀ (s : State) (ns : Nat) (taken released : Bool), 1000 ≤ ns → (ns < 10000 → taken = true) → ∃ t,
   exec (.pornFall ns taken released) s = .next t ∧ t.sys.resetting = true ∧ t.sys.pornLow = !released ∧ t.held = t.fuses ∧
   t.pending = s.pending) ∧
  (∀ (s : State) (ns : Nat) (taken retained : Bool), 500 ≤ ns → (ns < 2000 → taken = true) → ∃ t,
   exec (.brownOut ns taken retained) s = .next t ∧ t.sys.resetting = true ∧ t.held = t.fuses ∧
   (retained = false → t.rd R.SYS_RSTCAUSE = 1)) ∧
  (∀ (s : State) (boot plyrole : Nat) (svcen : Bool), s.sys.resetting = true → s.sys.boardTest = false →
   (s.rd R.SUP_RAIL).toNat &&& 0x84 = 0x84 → ∃ t, exec (.resetEnd boot plyrole svcen) s = .next t ∧ t.sys.resetting = false ∧
   t.sys.pornLow = false ∧ t.sys.keepStraps = false ∧ t.get R.CLK_TSTAT_STATE = 3 ∧
   (s.sys.keepStraps = false → t.get R.SYS_STRAP_BOOT = boot % 8 ∧ t.get R.SYS_STRAP_PLYROLE = plyrole % 4)) ∧
  (∀ (s : State) (partnerOwn : Bool), s.sys.resetting = false → s.stage = 0 → s.flag R.JRN_STAT_SCANDONE = true →
   s.flag R.CLK_STAT_REFCLK_OK = true → s.flag R.CLK_STAT_AUDPLL_LOCK = true → s.up islSAFE = true → s.up islPWS = true → ∃ t,
   exec (.stage1Entry partnerOwn) s = .next t ∧
   (s.get R.SYS_STRAP_BOOT < 2 → t.stage = 1 ∧ t.pws.disReset = false ∧ t.sys.load = s.sys.load))

/-- O5. What WARP, the phases of a Stage 2 load and the push window do. An accepted WARP starts a load; each phase passes to the next
  where its check holds and otherwise the load fails with the code of that check; apply ends in Stage 2 and FULL; a word written to an
  open push window is appended to the image; a push that stays silent for 1 s fails what it feeds. (04_staged_start.md R139,
  04_staged_start.md R140, 04_staged_start.md R141, 04_staged_start.md R144, 04_staged_start.md R146, 06_veneer_image.md R203,
  06_veneer_image.md R208, 06_veneer_image.md R213, 06_veneer_image.md R215) -/
def Obligations.LoadCommandsComplete : Prop :=
  (∀ (s : State) (push : Bool), reaches .host R.SYS_STAGE_CMD (BitVec.ofNat 32 (1 + 16 * b2n push)) s = true → s.halted = false →
   s.get R.SYS_STRAP_BOOT < 2 → s.flag R.SYS_STAGE_LOADING = false → s.flag R.SYS_PSTATE_TRANS = false → s.stage = 1 → s.pstate = 1 →
   ∃ t, exec (.warp .host push) s = .next t ∧
   t = startLoad push false (s.set R.SYS_STAGE_CMDERR 0)) ∧
  (∀ (s : State) (f : Flash) (m : List Byte), s.sys.load = .wake → allFed s = true → s.sys.loadPush = false →
   s.flag R.HIF_XSPI_STAT_BUSY = false → m = flashFrom f (if s.flag R.SYS_STAGE_FALLBACK then 0x2000000 else 0) → ∃ t,
   exec (.loadWakeDone (some f)) s = .next t ∧
   t = (if imageOk false m s then { s with vnr.img := m, sys.load := .stream } else loadFail 4 s)) ∧
  (∀ (s : State), s.sys.load = .wake → allFed s = true → s.sys.loadPush = false → s.flag R.HIF_XSPI_STAT_BUSY = false → ∃ t, exec (.loadWakeDone none) s = .next t ∧
   t = loadFail 6 s) ∧
  (∀ (s : State) (flash : Option Flash), s.sys.load = .wake → allFed s = true → s.sys.loadPush = true →
   headerArrived s.vnr.img = true → ∃ t, exec (.loadWakeDone flash) s = .next t ∧
   t = (if imageOk false s.vnr.img s then { s with sys.load := .stream } else loadFail 4 s)) ∧
  (∀ (s : State), s.sys.load = .stream → imageArrived s.vnr.img = true → ∃ t, exec (.loadStreamDone) s = .next t ∧
   t.sys.load = .verify ∧ t.vnr.img = s.vnr.img.take (imgLen s.vnr.img)) ∧
  (∀ (s : State), s.sys.load = .verify → ∃ t, exec (.loadVerifyDone) s = .next t ∧
   t = (if signatureOk s.vnr.img s then { s with sys.load := .apply } else loadFail 4 s)) ∧
  (∀ (s : State) (readback : List (Nat × Nat)), s.sys.load = .apply → sectionsOk s.vnr.img = true → ∃ t,
   exec (.loadApplyDone readback) s = .next t ∧ t.stage = 2 ∧ t.pstate = 2 ∧ t.flag R.SYS_PSTATE_TRANS = false) ∧
  (∀ (s : State) (v : Word), reaches .host (R.VNR_PUSH 0) v s = true → pushOpen s = true → pushWants s = true → ∃ t,
   exec (.pushWord .host v) s = .next t ∧ t.vnr.img = s.vnr.img ++ leBytes 4 v.toNat ∧
   t.get R.VNR_PUSH_STAT_COUNT = (s.vnr.img.length + 4) % 2 ^ R.VNR_PUSH_STAT_COUNT.w) ∧
  (∀ (s : State), pushOpen s = true → pushWants s = true → ∃ t, exec (.pushTimeout) s = .next t ∧
   t = (if s.sys.load ≠ .idle then loadFail 6 s else if s.sys.netLoad then netFail 6 s else patchEnding 4 s))

/-- O6. What unclamp, WEAVE and the channels' boundaries do. An unclamp step that is due starts and, when done, shows its bit; an
  accepted WEAVE starts the handover of each channel; a channel at its third boundary takes part in Stage 3, a channel that gives its
  gates back drives them low and goes to its own source, and every PWM period boundary advances the channel's period.
  (04_staged_start.md R150, 04_staged_start.md R151, 04_staged_start.md R155, 04_staged_start.md R156, 04_staged_start.md R157,
  05_power_states.md R179, 19_power_stage_protection.md R704) -/
def Obligations.StageCommandsComplete : Prop :=
  (∀ (s : State), reaches .host R.SYS_UNCLAMP 1 s = true → s.halted = false → 2 ≤ s.stage → s.pstate ≠ 4 → netTrans s = false →
   doneBit s 1 = false → s.sys.unclamp ≠ 1 → ∃ t, exec (.unclampOutputs .host) s = .next t ∧ t.sys.unclamp = 1 ∧
   t.get R.SYS_STAGE_CMDERR = 0) ∧
  (∀ (s : State), reaches .host R.SYS_UNCLAMP 2 s = true → s.halted = false → 2 ≤ s.stage → s.pstate ≠ 4 → netTrans s = false →
   doneBit s 2 = false → s.sys.unclamp ≠ 2 → doneBit s 1 = true → ∃ t, exec (.unclampWriteEnables .host) s = .next t ∧
   t.sys.unclamp = 2 ∧ t.get R.SYS_STAGE_CMDERR = 0) ∧
  (∀ (s : State), reaches .host R.SYS_UNCLAMP 3 s = true → s.halted = false → 2 ≤ s.stage → s.pstate ≠ 4 → netTrans s = false →
   doneBit s 3 = false → s.sys.unclamp ≠ 3 → doneBit s 2 = true → ∃ t, exec (.unclampResets .host) s = .next t ∧
   t.sys.unclamp = 3 ∧ t.get R.SYS_STAGE_CMDERR = 0) ∧
  (∀ (s : State), 1 ≤ s.sys.unclamp → s.sys.unclamp ≤ 3 → ∃ t, exec (.unclampStepDone) s = .next t ∧ t.sys.unclamp = 0 ∧
   t.get R.SYS_NSTAT_UNCLAMP = 1) ∧
  (∀ (s : State) (force : Bool), reaches .host R.SYS_STAGE_CMD (BitVec.ofNat 32 (2 + 32 * b2n force)) s = true → s.halted = false →
   s.flag R.SYS_PSTATE_TRANS = false → s.flag R.SYS_STAGE_LOADING = false → s.get R.SYS_UNCLAMP_DONE = 7 → s.pstate = 2 →
   s.stage = 2 → ∃ t, exec (.weave .host force) s = .next t ∧ t.sys.weaving = true ∧
   t.flag R.SYS_STAGE_HOPEND = decide (t.sys.handWait ≠ [])) ∧
  (∀ (s : State) (c : Nat), s.up islPWS = true → handLeft s c = 1 → ∃ t, exec (.handover c) s = .next t ∧
   t = periodBoundary c (s.flag (R.PWS_CH_STAT_HOC c)) s) ∧
  (∀ (s : State) (c : Nat), gatesOut s c = true → c < 16 → ∃ t, exec (.gatesReturnToSafe c) s = .next t ∧ srcOf t c = homeSrc c ∧
   gatesOut t c = false) ∧
  (∀ (s : State) (c : Nat) (hoc : Bool), s.up islPWS = true → c < 16 → ∃ t,
   exec (.pwmPeriodBoundary c hoc false) s = .next t ∧ t = periodBoundary c hoc s) ∧
  (∀ (s : State) (c : Nat) (hoc : Bool), s.up islPWS = true → c < 16 → srcOf s c = 1 → ∃ t,
   exec (.pwmPeriodBoundary c hoc true) s = .next t ∧ t = safeBoundary c hoc s)

/-- O7. What the power-state commands and the end of a transition do. An accepted power-state command starts its transition, a RESET
  resets the device with its straps kept; when the channels have their gates back and the bound has run, the transition ends in its
  target state, with DONE reported; a reload from NET returns to the target state or fails with its code; in STANDBY a wake frame sets
  SYS_WAKE. (05_power_states.md R171, 05_power_states.md R173, 05_power_states.md R178, 05_power_states.md R182, 05_power_states.md
  R185, 05_power_states.md R188) -/
def Obligations.PowerCommandsComplete : Prop :=
  (∀ (s : State) (push : Bool), reaches .host R.SYS_PSTATE_CMD (powerWord 1 0x5A push) s = true → s.halted = false →
   s.flag R.SYS_PSTATE_TRANS = false → s.flag R.SYS_STAGE_LOADING = false → s.flag R.VNR_PATCH_STAT_BUSY = false →
   powerAllowed s.pstate 2 = true → ∃ t, exec (.powerFull .host push 0x5A) s = .next t ∧ t = transStart 2 push s) ∧
  (∀ (s : State) (push : Bool), reaches .host R.SYS_PSTATE_CMD (powerWord 2 0x5A push) s = true → s.halted = false →
   s.flag R.SYS_PSTATE_TRANS = false → s.flag R.SYS_STAGE_LOADING = false → s.flag R.VNR_PATCH_STAT_BUSY = false →
   powerAllowed s.pstate 3 = true → ∃ t, exec (.powerQuiet .host push 0x5A) s = .next t ∧ t = transStart 3 push s) ∧
  (∀ (s : State), reaches .host R.SYS_PSTATE_CMD (powerWord 3 0x5A false) s = true → s.halted = false →
   s.flag R.SYS_PSTATE_TRANS = false → s.flag R.SYS_STAGE_LOADING = false → s.flag R.VNR_PATCH_STAT_BUSY = false →
   powerAllowed s.pstate 4 = true → ∃ t, exec (.powerNet .host 0x5A) s = .next t ∧ t = transStart 4 false s) ∧
  (∀ (s : State), reaches .host R.SYS_PSTATE_CMD (powerWord 4 0x5A false) s = true → s.halted = false →
   s.flag R.SYS_PSTATE_TRANS = false → s.flag R.SYS_STAGE_LOADING = false → s.flag R.VNR_PATCH_STAT_BUSY = false →
   powerAllowed s.pstate 5 = true → ∃ t, exec (.powerStandby .host 0x5A) s = .next t ∧ t = transStart 5 false s) ∧
  (∀ (s : State), reaches .host R.SYS_PSTATE_CMD (powerWord 5 0x5A false) s = true → s.halted = false →
   s.flag R.SYS_PSTATE_TRANS = false → s.flag R.SYS_STAGE_LOADING = false → s.flag R.VNR_PATCH_STAT_BUSY = false →
   powerAllowed s.pstate 6 = true → s.flag R.DGN_STAT_UNLOCKED = true → s.role < 2 → ∃ t,
   exec (.powerService .host 0x5A) s = .next t ∧ t = transStart 6 false s) ∧
  (∀ (s : State), reaches .host R.SYS_PSTATE_CMD (powerWord 6 0x5A false) s = true → ∃ t,
   exec (.powerReset .host 0x5A) s = .next t ∧ t = deviceReset rstHOST true (jrnSettle s) ∧ t.sys.resetting = true ∧
   t.sys.keepStraps = true) ∧
  (∀ (s : State), s.flag R.SYS_PSTATE_TRANS = true → s.sys.netLoad = false → s.sys.gatesOut = [] → 2 ≤ s.get R.SYS_PSTATE_TARGET →
   s.get R.SYS_PSTATE_TARGET ≤ 6 → ∃ t, exec (.powerTransitionDone) s = .next t ∧ t.pstate = s.get R.SYS_PSTATE_TARGET ∧
   t.flag R.SYS_PSTATE_TRANS = false ∧ t.get R.SYS_PSTATE_TARGET = 0 ∧ t.get R.SYS_PNSTAT_DONE = 1) ∧
  (∀ (s : State) (f : Flash) (m : List Byte) (readback : List (Nat × Nat)), s.sys.netLoad = true → s.sys.netPush = false →
   s.flag R.HIF_XSPI_STAT_BUSY = false → m = flashFrom f (flashBase s) → ∃ t,
   exec (.netReloadDone (some f) readback) s = .next t ∧
   t = (if imageArrived (m.take (imgLen m)) && imageOk false (m.take (imgLen m)) s && signatureOk (m.take (imgLen m)) s && decide (imgDigest (m.take (imgLen m)) = loadedDigest s) then netReturn (m.take (imgLen m)) readback s else netFail 5 s)) ∧
  (∀ (s : State) (readback : List (Nat × Nat)), s.sys.netLoad = true → s.sys.netPush = false →
   s.flag R.HIF_XSPI_STAT_BUSY = false → ∃ t, exec (.netReloadDone none readback) s = .next t ∧ t = netFail 6 s) ∧
  (∀ (s : State) (id : Nat) (ext : Bool) (data : List Byte), s.pstate = 5 → s.sys.resetting = false → wakeMatch s id ext = true →
   ∃ t, exec (.standbyWakeFrame id ext data) s = .next t ∧ t = s.set R.SYS_WAKE_CAN 1)

/-- O8. What a patch, its phases, a readback pass and a reserve rewrite do. An accepted START opens staging; verification goes on to the
  apply sequence of a core or a panel, or ends with its error; a panel whose readback agrees has its slot filled; a core past its idle
  time is loaded and started; the end reports BUSY, ERR and N42; a readback pass that agrees ends its pass, one that differs starts a
  rewrite; a rewrite counts and returns the panel. (06_veneer_image.md R222, 06_veneer_image.md R225, 06_veneer_image.md R226,
  06_veneer_image.md R228, 06_veneer_image.md R230, 06_veneer_image.md R232) -/
def Obligations.PatchCommandsComplete : Prop :=
  (∀ (s : State) (v : Word), reaches .host R.VNR_PATCH_CMD v s = true → wget v 0 2 = 1 → wget v 24 8 = 0x5A → 2 ≤ s.stage →
   s.halted = false → s.pstate = 2 ∨ s.pstate = 3 → rewritesBusy s = false → s.flag R.SYS_PSTATE_TRANS = false →
   s.flag R.SYS_STAGE_LOADING = false → ∃ t, exec (.patchStart .host v) s = .next t ∧ t.vnr.patch = .staging ∧
   t.vnr.patchPush = v.getLsbD 4 ∧ t.flag R.VNR_PATCH_STAT_BUSY = true ∧ t.get R.VNR_PATCH_STAT_ERR = 0) ∧
  (∀ (s : State) (e : Nat), s.vnr.patch = .staging → s.vnr.patchPush = false → s.flag R.HIF_XSPI_STAT_BUSY = false →
   ∃ t, exec (.patchVerifyDone none e) s = .next t ∧
   t = patchEnding 4 s) ∧
  (∀ (s : State) (f : Flash) (m : List Byte) (e : Nat), s.vnr.patch = .staging → s.vnr.patchPush = false → s.role < 2 →
   s.flag R.HIF_XSPI_STAT_BUSY = false → m = flashFrom f (s.rd R.VNR_PATCH_FOFS).toNat →
   patchCheck (m.take (imgLen m)) { (s.setPkt (s.pkt.wrBytes 0xF80000 ((m.take (imgLen m)).take 0x80000))) with vnr.img := m.take (imgLen m) } ≠ 0 →
   ∃ t, exec (.patchVerifyDone (some f) e) s = .next t ∧ t.vnr.patch = .ending ∧
   t.vnr.patchErr = patchCheck (m.take (imgLen m)) { (s.setPkt (s.pkt.wrBytes 0xF80000 ((m.take (imgLen m)).take 0x80000))) with vnr.img := m.take (imgLen m) }) ∧
  (∀ (s : State) (crc e : Nat), s.vnr.patch = .panel → s.role < 2 → crc = crc32 (sectData s.vnr.img tPANEL (patchTarget s)) → ∃ t,
   exec (.patchReadbackDone crc e) s = .next t ∧ t.vnr.patch = .ending ∧ t.vnr.patchErr = 0) ∧
  (∀ (s : State) (crc : Nat), s.vnr.patch = .panel → crc ≠ crc32 (sectData s.vnr.img tPANEL (patchTarget s)) → ∃ t,
   exec (.patchReadbackDone crc 0) s = .next t ∧
   t = (if s.vnr.readFails = 0 then { s with vnr.readFails := 1 } else patchEnding 6 (writeFrames (patchTarget s) (slotFrames s (patchTarget s)) s))) ∧
  (∀ (s : State), s.vnr.patch = .core → ∃ t, exec (.corePatchIdleTimeout) s = .next t ∧ t.vnr.patch = .ending ∧ t.vnr.patchErr = 0) ∧
  (∀ (s : State), s.vnr.patch = .ending → patchIsCore s = true ∨ panelState s (patchTarget s) ≠ 2 → ∃ t,
   exec (.patchEnd) s = .next t ∧ t.vnr.patch = .idle ∧ t.flag R.VNR_PATCH_STAT_BUSY = false ∧ t.get R.VNR_NSTAT_PATCH = 1) ∧
  (∀ (s : State) (p crc ns : Nat), s.up islIST = true → s.up (islMQY p) = true → p < 8 → panelState s p = 1 → s.pstate ≠ 6 →
   bitOf (s.get R.IST_CTL_EN) 3 = true ∨ (istHead s 2 p).isSome = true → ∃ t, exec (.readbackPassDone p crc ns) s = .next t ∧
   t = (if crc ≠ (s.rd (R.VNR_PANEL_CRC p)).toNat then istCheck (panelUpset p (passEnd p ns true s)) else passEnd p ns false s)) ∧
  (∀ (s : State) (p crc : Nat), mget (fun _ => false) s.vnr.rewriting p = true → crc = (s.rd (R.VNR_PANEL_CRC p)).toNat → p < 8 →
   s.up (islMQY p) = true → ∃ t, exec (.reserveRewriteDone p crc) s = .next t ∧ mget (fun _ => false) t.vnr.rewriting p = false ∧
   t.get (R.VNR_PANEL_STAT_REWRITES p) = satAdd 255 (s.get (R.VNR_PANEL_STAT_REWRITES p)) 1 ∧ t.get R.VNR_NSTAT_PANEL = 1)

/-- O9. What the key and rollback burns do. An accepted key burn stages the words of VNR_KEYPROG and shows BUSY; its end blows them into
  the key fuses, which take effect at the next reset. An accepted rollback advance burns towards the smaller of its count and the
  image's; each bit burnt shows a count one higher, in force at once, and the last one ends it. (06_veneer_image.md R207, 06_veneer_image.md R209, 06_veneer_image.md R210,
  06_veneer_image.md R941) -/
def Obligations.FuseCommandsComplete : Prop :=
  (∀ (s : State), reaches .host R.VNR_KEYPROG_CMD 0xA5 s = true → s.fuses.key = 0 → s.held.lc = 0 → burning s = false →
   earlyWarn s = false → ∃ t, exec (.keyprogBurn .host 0xA5) s = .next t ∧ t.burn = .key (keyStaged s) ∧
   t.flag R.VNR_KEYPROG_STAT_BUSY = true ∧ t.get R.VNR_KEYPROG_STAT_ERR = 0 ∧ t.fuses = s.fuses) ∧
  (∀ (s : State) (bits : Nat), s.burn = .key bits → ∃ t, exec (.keyprogBurnDone) s = .next t ∧ t.fuses.key = s.fuses.key ||| bits ∧
   t.burn = .none ∧ t.held = s.held ∧ t.flag R.VNR_KEYPROG_STAT_DONE = true ∧ t.flag R.VNR_KEYPROG_STAT_BUSY = false) ∧
  (∀ (s : State) (v : Word), reaches .host R.VNR_ROLL_CMD v s = true → wget v 24 8 = 0x5A → 2 ≤ s.stage → burning s = false →
   earlyWarn s = false → ∃ t, exec (.rollbackAdvance .host v) s = .next t ∧ t.get R.VNR_ROLL_STAT_ERR = 0 ∧
   (s.fuses.roll < min (wget v 0 8) (s.get R.VNR_ROLL_IMAGE) → t.burn = .roll (min (wget v 0 8) (s.get R.VNR_ROLL_IMAGE)) ∧ t.flag R.VNR_ROLL_STAT_BUSY = true) ∧
   t.fuses = s.fuses) ∧
  (∀ (s : State) (tgt : Nat), s.burn = .roll tgt → s.fuses.roll < tgt → tgt ≤ 192 → ∃ t, exec (.rollbackBurnDone) s = .next t ∧
   t.fuses.roll = s.fuses.roll + 1 ∧ t.held.roll = s.fuses.roll + 1 ∧ t.get R.VNR_ROLL_FUSE = s.fuses.roll + 1 ∧
   (s.fuses.roll + 1 < tgt → t.burn = .roll tgt ∧ t.flag R.VNR_ROLL_STAT_BUSY = s.flag R.VNR_ROLL_STAT_BUSY) ∧
   (s.fuses.roll + 1 = tgt → t.burn = .none ∧ t.flag R.VNR_ROLL_STAT_BUSY = false))

/-- O10. What requests at a panel, their answers and timeouts, and its notices do. A request to a stalled panel waits, one to a panel
  without power reads 0; the oldest request of a port is answered in order; an unanswered one turns the port to failing fast and counts,
  until the port is ready again; a stall too old completes its oldest request with PANEL_BUSY; block-memory errors and user notices set
  their causes; a stale response is discarded and counted. At an edge of the panel clock every flip-flop takes its source, keeps its
  value without its clock enable or takes INIT under the reset network; under the reset hold all stand at INIT, and under the
  write-enable hold block memory keeps its bytes. (07_marquetry_fabric.md R239, 07_marquetry_fabric.md R250, 07_marquetry_fabric.md R260,
  07_marquetry_fabric.md R262, 07_marquetry_fabric.md R264, 07_marquetry_fabric.md R273, 07_marquetry_fabric.md R274,
  07_marquetry_fabric.md R279, 07_marquetry_fabric.md R280, 07_marquetry_fabric.md R284) -/
def Obligations.PanelCommandsComplete : Prop :=
  (∀ (s : State) (p k : Nat) (req : PanelAccess), p < 8 → s.powered (islMQY p) = true → (s.panel p).stall = true →
   stallAged s p = false → ∃ t, exec (.panelRequest p k req) s = .next t ∧
   (t.panel p).stallWait = (s.panel p).stallWait ++ [req] ∧ t.regs = s.regs) ∧
  (∀ (s : State) (p k : Nat) (req : PanelAccess), p < 8 → s.powered (islMQY p) = true → (s.panel p).stall = true →
   stallAged s p = true → ∃ t, exec (.panelRequest p k req) s = .next t ∧ t = stallBusy p [req] s ∧
   t.get (R.MQY_NSTAT_BUSY p) = 1) ∧
  (∀ (s : State) (p k : Nat) (req : PanelAccess), p < 8 → s.powered (islMQY p) = false → ∃ t,
   exec (.panelRequest p k req) s = .next t ∧ t = markReq p req .ready (if req.write then s else respond (agentId req.agent) 0 s)) ∧
  (∀ (s : State) (p k j : Nat) (req : PanelAccess), p < 8 → s.powered (islMQY p) = true → (s.panel p).stall = false → k < 4 →
   isHost req.agent = true → 0x80000 + 0x20000 * k ≤ req.off → req.off < 0xA0000 + 0x20000 * k → rstHeld s p = false →
   s.flag (R.MQY_PORT_TGT_EN p k) = true → s.flag (R.MQY_PORT_FAILFAST p k) = false → (panelPort s p k).queue.length < 16 → ∃ t,
   exec (.panelRequest p j req) s = .next t ∧
   t = setPanelPort p k { panelPort s p k with queue := (panelPort s p k).queue ++ [req] } s) ∧
  (∀ (s : State) (p k : Nat) (data : Word) (q : PanelAccess) (qs : List PanelAccess), (panelPort s p k).queue = q :: qs →
   (panelPort s p k).waiting = [] → q.write = false → isHost q.agent = true → s.up (islMQY p) = true → rstHeld s p = false →
   s.clk.wait = [] → ∃ t, exec (.panelResponse p k data) s = .next t ∧ (panelPort t p k).queue = qs ∧
   mget (fun _ => 0) t.resp (agentId q.agent) = data) ∧
  (∀ (s : State) (p k : Nat), p < 8 → k < 4 → (panelPort s p k).queue ≠ [] → s.up (islMQY p) = true → s.clk.wait = [] → ∃ t,
   exec (.panelRequestTimeout p k) s = .next t ∧ (panelPort t p k).queue = [] ∧ (panelPort t p k).waiting = [] ∧
   t.flag (R.MQY_PORT_FAILFAST p k) = true ∧ t.get (R.MQY_NSTAT_TIMEOUT p) = 1) ∧
  (∀ (s : State) (p k : Nat), p < 8 → k < 4 → s.flag (R.MQY_PORT_FAILFAST p k) = true → ∃ t,
   exec (.portReadyAssert p k) s = .next t ∧ t = s.set (R.MQY_PORT_FAILFAST p k) 0) ∧
  (∀ (s : State) (p : Nat) (q : PanelAccess) (qs : List PanelAccess), (s.panel p).stallWait = q :: qs → (s.panel p).stall = true →
   ∃ t, exec (.stallRequestTimeout p) s = .next t ∧
   t = drain (stallBusy p [q] (s.setPanel p { s.panel p with stallWait := qs, stallOld := true }))) ∧
  (∀ (s : State) (p addr : Nat) (portB : Bool), s.up (islMQY p) = true → p < 8 → addr < 65536 → ∃ t,
   exec (.bramEccError p addr portB false) s = .next t ∧ t.get (R.MQY_NSTAT_ECC2 p) = 1 ∧
   t.rd (R.MQY_ECC_ADDR p) = BitVec.ofNat 32 (2 ^ 31 + addr) ∧
   mget (fun _ => false) (t.panel p).berr (2 * (addr / 2048) + b2n portB) = true) ∧
  (∀ (s : State) (p addr : Nat) (portB : Bool), s.up (islMQY p) = true → p < 8 → addr < 65536 → ∃ t,
   exec (.bramEccError p addr portB true) s = .next t ∧ t = s.bump (R.MQY_ECC_CNT p)) ∧
  (∀ (s : State) (p : Nat), s.up (islMQY p) = true → p < 8 → ∃ t, exec (.userNotice p) s = .next t ∧
   t.get (R.MQY_NSTAT_USER p) = 1) ∧
  (∀ (s : State) (p k : Nat) (e : Issue) (es : List Issue), mget (fun _ => []) (s.panel p).issued k = e :: es →
   e.ans.isSome = true → (e.gen ≠ (s.panel p).gen ∨ rstHeld s p = true) → ∃ t, exec (.borderResponse p k) s = .next t ∧
   t.rd (R.MQY_DROP_CNT p) = BitVec.ofNat 32 (satAdd 0xFFFFFFFF (s.rd (R.MQY_DROP_CNT p)).toNat 1) ∧
   mget (fun _ => []) (t.panel p).issued k = es ∧ (t.panel p).rsp = (s.panel p).rsp) ∧
  (∀ (s : State) (p k : Nat) (e : Issue) (es : List Issue), mget (fun _ => []) (s.panel p).issued k = e :: es →
   e.ans.isSome = true → e.gen = (s.panel p).gen → rstHeld s p = false → ∃ t, exec (.borderResponse p k) s = .next t ∧
   t.regs = s.regs ∧ mget (fun _ => []) (t.panel p).issued k = es ∧ mget (fun _ => none) (t.panel p).rsp k = e.ans) ∧
  (∀ (x : Panel) (pins : Pin → Bool) (loop : Nat) (win : Word) (we : Bool) (i j : Nat) (b : Bool), i < 96 → j < 128 →
   ffVal (clockPanel pins loop win false we x) i j b = ffNext x pins loop (sinkVal x pins loop .reset) i j b ∧
   ffVal (clockPanel pins loop win true we x) i j b = ffInit x.frames i j b) ∧
  (∀ (x : Panel) (pins : Pin → Bool) (loop : Nat) (win : Word) (rst : Bool),
   (clockPanel pins loop win rst true x).bram = x.bram)

/-- O11. What link events, received and transmitted frames, gate lists and holds do at a port. Each clause gives a port command its
  conditions and the state that follows: frames are received and transmitted by link-up ports alone, a hold that times out drops the
  head frame, link events show LINK and N48, flushes empty the queues they name, gate lists are scheduled and installed, the verify
  procedure ends with its result, a recovery function without frames resets. (08_ports_and_tsn.md R291, 08_ports_and_tsn.md R295,
  08_ports_and_tsn.md R301, 08_ports_and_tsn.md R312, 08_ports_and_tsn.md R316, 08_ports_and_tsn.md R320, 08_ports_and_tsn.md R322,
  02_guarantees.md R66, 02_guarantees.md R68) -/
def Obligations.PortCommandsComplete : Prop :=
  (∀ (s : State) (p : Nat) (data : List Byte) (fcsErr slow : Bool), linkUp s p = true → ∃ t,
   exec (.frameReceive p data fcsErr slow) s = .next t ∧ t = receiveFrame p data fcsErr slow s) ∧
  (∀ (s : State) (p : Nat) (data : List Byte), linkUp s p = true → macCheck s p (data.length + 4) false data = none →
   fifoUsed s p + data.length + 4 ≤ fifoSize p → ∃ t, exec (.frameReceive p data false true) s = .next t ∧ t.regs = s.regs ∧
   fifoUsed t p = fifoUsed s p + data.length + 4) ∧
  (∀ (s : State) (p tc : Nat) (k : Pkt) (q : List Pkt), admQueue s p tc = k :: q → s.up islPRT = true → s.follower = false → ∃ t,
   exec (.admissionHoldTimeout p tc) s = .next t ∧ t = dropPkt (R.PRT_CNT_HOLD p) k.handle (setAdm p tc q s)) ∧
  (∀ (s : State) (p : Nat), s.up islPRT = true → p < 9 → s.flag (R.PRT_STAT_LINK p) = true → ∃ t, exec (.linkDown p) s = .next t ∧
   t.flag (R.PRT_STAT_LINK p) = false ∧ t.get R.PRT_NSTAT_LINK = 1) ∧
  (∀ (s : State) (p speed : Nat), s.up islPRT = true → p < 8 → s.flag (R.PRT_CFG_EN p) = true → s.get (R.PRT_CFG_SPEED p) = 0 →
   s.get R.IST_BIST_STAT_STATE ≠ 1 → speedOk p 0 = true → speedOk p speed = true → speed ≠ 0 → ∃ t, exec (.linkUp p speed) s = .next t ∧
   t.flag (R.PRT_STAT_LINK p) = true ∧ t.get (R.PRT_STAT_SPEED p) = speed % 2 ^ (R.PRT_STAT_SPEED p).w ∧
   t.flag (R.PRT_STAT_BADMODE p) = false) ∧
  (∀ (s : State) (p : Nat), s.up islPRT = true → p < 9 → linkUp s p = false → ∃ t, exec (.linkDownFlush p) s = .next t ∧
   t = flushPort p s) ∧
  (∀ (s : State), linkUp s portT0 = true → ∃ t, exec (.t0OpportunityTimeout) s = .next t ∧
   t.flag (R.PRT_STAT_LINK portT0) = false ∧ (t.port portT0).noOpportunity = true) ∧
  (∀ (s : State) (p q : Nat), s.up islPRT = true → p < 9 → q < 8 → holdsFrame s p q = true → ∃ t,
   exec (.egressStallFlush p q) s = .next t ∧ t = flushQueue p q false (creditNow p s)) ∧
  (∀ (s : State) (p : Nat) (opp : Bool), linkUp s p = true → p ≠ portT0 → ∃ t,
   exec (.transmitSelection p opp) s = .next t ∧ t = transmitSelect p s) ∧
  (∀ (s : State) (opp : Bool), linkUp s portT0 = true → ∃ t, exec (.transmitSelection portT0 opp) s = .next t ∧
   t = t0Select opp s) ∧
  (∀ (s : State) (p : Nat), linkUp s p = true → (s.port p).tx.isSome = true → ∃ t, exec (.frameTxDone p false) s = .next t ∧
   t = frameTxDone p s) ∧
  (∀ (s : State), linkUp s portT0 = true → (s.port portT0).tx.isSome = true → plcaOn s = false → ∃ t,
   exec (.frameTxDone portT0 true) s = .next t ∧ t = t0Collide s) ∧
  (∀ (s : State) (p : Nat) (ok : Bool), s.up islPRT = true → p < 2 → s.get (R.PRT_FP_STAT_VERIFY p) = 1 → ∃ t,
   exec (.fpVerifyDone p ok) s = .next t ∧ t.get (R.PRT_FP_STAT_VERIFY p) = (if ok then 2 else 3)) ∧
  (∀ (s : State) (a : Agent) (p : Nat) (v : Word), p < 9 → v.getLsbD 1 = true → reaches a (R.PRT_TAS_CTL p) v s = true →
   tasReserved s p = false → ∃ t, exec (.tasChange a p v) s = .next t ∧ t = tasCtlWrite p v s) ∧
  (∀ (s : State) (p : Nat), s.up islPRT = true → p < 9 → (gatedBy s p).isSome = true → ∃ t,
   exec (.gateEntryAdvance p) s = .next t ∧ t = gateAdvance p s) ∧
  (∀ (s : State) (p : Nat), s.up islPRT = true → p < 9 → (s.port p).tas.pend.isSome = true → (s.port p).tas.cct ≤ s.tnow islPRT →
   ∃ t, exec (.tasConfigChange p) s = .next t ∧ t.get R.PRT_NSTAT_TAS = 1) ∧
  (∀ (s : State) (g : Nat), s.up islPRT = true → g < 63 → ∃ t, exec (.tasConfigChange (9 + g)) s = .next t ∧ t = sgateNow g s) ∧
  (∀ (s : State) (g : Nat), s.up islPRT = true → g < 63 → ∃ t, exec (.gateEntryAdvance (9 + g)) s = .next t ∧ t = sgateNow g s) ∧
  (∀ (s : State) (a : Agent) (g : Nat) (v : Word), g < 63 → v.getLsbD 9 = true → reaches a (sgateOff g + 0xC) v s = true → ∃ t,
   exec (.streamGateChange a g v) s = .next t ∧ t = sgateCtlWrite g v s) ∧
  (∀ (s : State) (h : Nat), s.up islPRT = true → h < 1024 → strBits s (recovOff h) 0 1 = 1 → (s.recov h).any = false → ∃ t,
   exec (.recoveryResetTimeout h) s = .next t ∧ t.get R.PRT_NSTAT_CB = 1 ∧ t.recov h = recReset) ∧
  (∀ (s : State) (a : Agent) (p : Nat), p < 9 → readable a (R.PRT_TXTS_TAG p) s = true → ∃ t, exec (.txtsTagRead a p) s = .next t ∧
   t = readDone a (R.PRT_TXTS_TAG p) (txtsRead p s))

/-- O12. What an MDIO frame and its end do. A write of PRT_MDIO_CMD with an operation starts its frame while none is in progress: BUSY
  reads 1 beside the fields written. The end of the frame clears BUSY, keeps the data of a read and sets N55's cause.
  (08_ports_and_tsn.md) -/
def Obligations.MdioCommandsComplete : Prop :=
  (∀ (s : State) (a : Agent) (v : Word), wget v 0 3 = 0 → reaches a R.PRT_MDIO_CMD v s = true →
   s.flag R.PRT_MDIO_CMD_BUSY = false → ∃ t, exec (.mdioC22Write a v) s = .next t ∧
   t.rd R.PRT_MDIO_CMD = (v &&& 0x1FFF) ||| 0x80000000) ∧
  (∀ (s : State) (a : Agent) (v : Word), wget v 0 3 = 1 → reaches a R.PRT_MDIO_CMD v s = true →
   s.flag R.PRT_MDIO_CMD_BUSY = false → ∃ t, exec (.mdioC22Read a v) s = .next t ∧
   t.rd R.PRT_MDIO_CMD = (v &&& 0x1FFF) ||| 0x80000000) ∧
  (∀ (s : State) (a : Agent) (v : Word), wget v 0 3 = 4 → reaches a R.PRT_MDIO_CMD v s = true →
   s.flag R.PRT_MDIO_CMD_BUSY = false → ∃ t, exec (.mdioC45Address a v) s = .next t ∧
   t.rd R.PRT_MDIO_CMD = (v &&& 0x1FFF) ||| 0x80000000) ∧
  (∀ (s : State) (a : Agent) (v : Word), wget v 0 3 = 5 → reaches a R.PRT_MDIO_CMD v s = true →
   s.flag R.PRT_MDIO_CMD_BUSY = false → ∃ t, exec (.mdioC45Write a v) s = .next t ∧
   t.rd R.PRT_MDIO_CMD = (v &&& 0x1FFF) ||| 0x80000000) ∧
  (∀ (s : State) (a : Agent) (v : Word), wget v 0 3 = 6 → reaches a R.PRT_MDIO_CMD v s = true →
   s.flag R.PRT_MDIO_CMD_BUSY = false → ∃ t, exec (.mdioC45Read a v) s = .next t ∧
   t.rd R.PRT_MDIO_CMD = (v &&& 0x1FFF) ||| 0x80000000) ∧
  (∀ (s : State) (a : Agent) (v : Word), wget v 0 3 = 7 → reaches a R.PRT_MDIO_CMD v s = true →
   s.flag R.PRT_MDIO_CMD_BUSY = false → ∃ t, exec (.mdioC45ReadIncrement a v) s = .next t ∧
   t.rd R.PRT_MDIO_CMD = (v &&& 0x1FFF) ||| 0x80000000) ∧
  (∀ (s : State) (data : Word), s.up islPRT = true → s.flag R.PRT_MDIO_CMD_BUSY = true → ∃ t,
   exec (.mdioFrameDone data) s = .next t ∧ t.flag R.PRT_MDIO_CMD_BUSY = false ∧ t.get R.PRT_NSTAT_MDIO = 1 ∧
   (s.get R.PRT_MDIO_CMD_OP = 1 ∨ s.get R.PRT_MDIO_CMD_OP = 6 ∨ s.get R.PRT_MDIO_CMD_OP = 7 → t.rd R.PRT_MDIO_DATA = data &&& 0xFFFF))

/-- O13. What rule commands, buffer requests and locks do. A rule command starts and, when done, places its entry and clears its hit
  count; group enables take their bits; a buffer request is served from the pools, a waiting one once its pool allows it, and a freed
  buffer goes back; a lock is read, released by a write, and reported once when it is held too long. (09_parser_classifier.md R353,
  09_parser_classifier.md R354, 09_parser_classifier.md R356, 10_buffers_and_locks.md R365, 10_buffers_and_locks.md R371,
  10_buffers_and_locks.md R377, 10_buffers_and_locks.md R379, 10_buffers_and_locks.md R381, 10_buffers_and_locks.md R391,
  10_buffers_and_locks.md R395) -/
def Obligations.RuleAndBufferCommandsComplete : Prop :=
  (∀ (s : State) (a : Agent) (v : Word), wget v 12 2 = 1 → reaches a R.PRS_RCMD v s = true → ruleBusy s = false →
   ruleReserved (prsStage s) = false → ∃ t, exec (.ruleWrite a v) s = .next t ∧ t = ruleStart (wget v 0 10) (prsStage s) s) ∧
  (∀ (s : State) (a : Agent) (v : Word), wget v 12 2 = 2 → reaches a R.PRS_RCMD v s = true → ruleBusy s = false → ∃ t,
   exec (.ruleInvalidate a v) s = .next t ∧ t = ruleStart (wget v 0 10) (List.replicate 144 0) s) ∧
  (∀ (s : State) (i : Nat) (body : List Byte), s.prs.cmd = some (i, body) → i < 1024 → ∃ t, exec (.ruleCmdDone) s = .next t ∧
   t.flag R.PRS_RSTAT_BUSY = false ∧ t.rd (R.PRS_HIT i) = 0 ∧ t.prs.cmd = none ∧ t.fwd = (tblWrite (144 * i) body s).fwd) ∧
  (∀ (s : State) (a : Agent) (v : Word), reaches a R.PRS_GRP_EN v s = true → ∃ t, exec (.groupEnableWrite a v) s = .next t ∧
   t = s.wr R.PRS_GRP_EN (v &&& 0xFFFF)) ∧
  (∀ (s : State) (owner len : Nat) (esc : Bool), s.up islBPM = true → owner < 50 → haltBars s owner = false → ∃ t,
   exec (.bufferRequest owner len esc) s = .next t ∧ t = serveBuf ⟨owner, len, reqEsc s owner esc⟩ s) ∧
  (∀ (s : State) (owner j : Nat) (q : BufReq), mget (fun _ => none) s.bpm.hostWait owner = some q → s.up islBPM = true →
   haltBars s owner = false → choosePool s q.owner q.len q.esc noLimit = .grant j → ∃ t,
   exec (.bufferWaitGrant owner) s = .next t ∧
   t = answerBuf ⟨q.owner, 0, (grantBuf q.owner j { s with bpm.hostWait := mput (fun _ => none) s.bpm.hostWait owner none }).1⟩ (grantBuf q.owner j { s with bpm.hostWait := mput (fun _ => none) s.bpm.hostWait owner none }).2) ∧
  (∀ (s : State) (pool : Nat), s.up islBPM = true → mget (fun _ => false) s.bpm.refill pool = true →
   mget (fun _ => []) s.bpm.waiting pool = [] → ∃ t, exec (.cacheRefillDone pool) s = .next t ∧
   t = ringRefill pool 16 { s with bpm.refill := mput (fun _ => false) s.bpm.refill pool false, bpm.waiting := mput (fun _ => []) s.bpm.waiting pool [] }) ∧
  (∀ (s : State) (h : Nat), s.up islBPM = true → ∃ t, exec (.bufferFree h) s = .next t ∧ t = freeBuf h s) ∧
  (∀ (s : State) (a : Agent) (n : Nat) (others : List Agent), s.bar0 = true → s.up islBPM = true → n < 512 → ∃ t,
   exec (.lockRead a n others) s = .next t ∧ t = lockLoads n ((a :: others).filter fun b => decodes b s) s) ∧
  (∀ (s : State) (a : Agent) (n : Nat), n < 512 → reaches a (R.LCK n) 0 s = true → ∃ t, exec (.lockRelease a n) s = .next t ∧
   t = lockWrite n (agentId a) s) ∧
  (∀ (s : State) (n : Nat), n < 512 → s.up islBPM = true → (s.lock n).held = true → (s.lock n).told = false →
   s.get R.LCK_HOLDMAX_US ≠ 0 → ∃ t, exec (.lockHoldTimeout n) s = .next t ∧ (t.lock n).told = true ∧ (t.lock n).held = true ∧
   t.get R.LCK_NSTAT_LONGHOLD = 1 ∧ t.get R.LCK_LAST_LOCK = n)

/-- O14. What dispatch, stealing, the slots and the trace do. An idle thread takes the head task of its core; a task that has waited
  long enough moves to another core; the oldest task of a yarn closes once it is done and its release conditions hold; yarn limits and
  masks take what is written; a trace record is selected and a change of the trace's mode clears it. (11_distaff_and_yarns.md R412,
  11_distaff_and_yarns.md R414, 11_distaff_and_yarns.md R421, 11_distaff_and_yarns.md R428, 11_distaff_and_yarns.md R441,
  11_distaff_and_yarns.md R444, 11_distaff_and_yarns.md R445) -/
def Obligations.DistaffCommandsComplete : Prop :=
  (∀ (s : State) (n thr : Nat) (k : Task), dstRuns s = true → inService s n = true → headTask s n = some k →
   thrIdle s n thr = true → ∃ t, exec (.taskDispatch n thr) s = .next t ∧ t = deliverTask k n thr s) ∧
  (∀ (s : State) (y seq c : Nat) (k : Task),
   (s.dst.tasks.find? fun u => decide (u.pkt.yarn = y ∧ u.seq = seq ∧ u.st = .queued)) = some k → dstRuns s = true →
   s.get R.DST_AFF_STEAL ≠ 0 → 1 < (effSet s y).length → chooseCore s ((effSet s y).filter (· ≠ k.core)) = some c → ∃ t,
   exec (.taskSteal y seq) s = .next t ∧ t = traceTask 4 0 { k with core := c } (setTask { k with core := c } s)) ∧
  (∀ (s : State) (y : Nat) (k : Task), dstRuns s = true → oldestOf s y = some k → k.st = .done → k.disp = 2 → ∃ t,
   exec (.slotClose y) s = .next t ∧ t = closeTask k (freeBuf k.pkt.handle s)) ∧
  (∀ (s : State) (y : Nat) (k : Task), dstRuns s = true → oldestOf s y = some k → k.st = .done → actsDrop s k = false →
   k.disp = 0 → txRoom s k = true → ∃ t, exec (.slotClose y) s = .next t ∧ t = closeTask k (releaseTx k s)) ∧
  (∀ (s : State) (y : Nat) (k : Task), dstRuns s = true → oldestOf s y = some k → k.st = .done → actsDrop s k = false →
   k.disp = 3 → ∃ t, exec (.slotClose y) s = .next t ∧ t = closeTask k s) ∧
  (∀ (s : State) (a : Agent) (y : Nat) (v : Word), y < 4096 → reaches a (R.DST_YCFG y) v s = true → ∃ t,
   exec (.yarnLimitWrite a y v) s = .next t ∧ t = s.wr (R.DST_YCFG y) (inForce (R.DST_YCFG y) v &&& 0x71FF)) ∧
  (∀ (s : State) (a : Agent) (v : Word), reaches a R.DST_YMASK_HI v s = true → ∃ t, exec (.yarnMaskWrite a v) s = .next t ∧
   mget (fun _ => 0) t.dst.mask (s.get R.DST_YSEL_YARN) = ((heldOf a R.DST_YMASK_LO s).getD (ymaskLo s)).toNat + v.toNat % 65536 * 2 ^ 32 ∧
   heldOf a R.DST_YMASK_LO t = none) ∧
  (∀ (s : State) (a : Agent) (v : Word), reaches a R.DST_TRC_RIDX v s = true → ∃ t, exec (.traceRecordSelect a v) s = .next t ∧
   t.rd R.DST_TRC_RIDX = v &&& 0x7FFF ∧
   (dstRead (R.DST_TRC_DATA 0) t).1 = BitVec.ofNat 32 (mget (fun _ => 0) s.dst.trace (wget v 0 15))) ∧
  (∀ (s : State) (a : Agent) (v : Word), wget v 0 2 ≠ s.get R.DST_TRC_CTL_MODE → reaches a R.DST_TRC_CTL v s = true → ∃ t,
   exec (.traceModeChange a v) s = .next t ∧ t.dst.trace = [] ∧ t.dst.trcCount = 0 ∧ t.rd R.DST_TRC_WPTR = 0 ∧
   t.rd R.DST_TRC_CTL = v &&& 0x1FF03)

/-- O15. What thread control, timers, watchdogs, escalation and the local memory window do. A watchdog at its limit faults its thread;
  an unhandled fault escalates to the core supervisor and then to the host; an armed timer raises its event once its time has come; a
  signal raises the thread's event; STOP and RESTART act on a thread of a core in service; a word written through the window lands in
  local memory, and a lookup's result in LKR. (12_whorl_cores_threads.md R453, 12_whorl_cores_threads.md R457, 12_whorl_cores_threads.md
  R462, 12_whorl_cores_threads.md R467, 12_whorl_cores_threads.md R468, 13_whorl_isa_model.md R510) -/
def Obligations.ThreadControlCommandsComplete : Prop :=
  (∀ (s : State) (tid : Nat), tid < 384 → (s.thread tid).counts = true → wdogLimit (s.thread tid) ≤ wdogCount s tid → ∃ t,
   exec (.watchdogExpiry tid) s = .next t ∧ t = threadFault tid 0x10 0 s) ∧
  (∀ (s : State) (tid : Nat), tid < 384 → (s.thread tid).st = 5 → tid % 8 ≠ 0 → (s.thread tid).esc = 0 → ∃ t,
   exec (.escalationTimeout tid) s = .next t ∧
   t = raiseSuper ((s.setThread tid { s.thread tid with esc := 1 }).set (R.WHL_CERR_ESC (tid / 8)) 1)) ∧
  (∀ (s : State) (tid : Nat), tid < 384 → (s.thread tid).st = 5 → (s.thread tid).esc = (if tid % 8 = 0 then 0 else 1) → ∃ t,
   exec (.hostEscalationTimeout tid) s = .next t ∧ t = escHost (s.setThread tid { s.thread tid with esc := 2 })) ∧
  (∀ (s : State) (tid : Nat), (s.thread tid).armed = true → (s.thread tid).tcmp ≤ s.tnow (islWHL (tid / 8)) → ∃ t,
   exec (.timerExpiry tid) s = .next t ∧ (t.thread tid).armed = false ∧ bitOf (t.thread tid).evp 3 = true) ∧
  (∀ (s : State) (a : Agent) (tid : Nat), tid < 384 → reaches a (R.WHL_TSIG (tid / 8) (tid % 8)) 1 s = true → ∃ t,
   exec (.threadSignal a tid) s = .next t ∧ t = raiseEvent tid 6 s ∧ bitOf (t.thread tid).evp 6 = true) ∧
  (∀ (s : State) (a : Agent) (tid : Nat) (v : Word), tid < 384 → wget v 0 2 = 1 →
   reaches a (R.WHL_TCTL (tid / 8) (tid % 8)) v s = true → mayControl s a tid = true → inService s (tid / 8) = true →
   s.halted = false → ∃ t, exec (.threadStop a tid v) s = .next t ∧ t = threadStop tid (v.getLsbD 4) s) ∧
  (∀ (s : State) (a : Agent) (tid : Nat) (v : Word), tid < 384 → wget v 0 2 = 2 →
   reaches a (R.WHL_TCTL (tid / 8) (tid % 8)) v s = true → mayControl s a tid = true → inService s (tid / 8) = true →
   s.halted = false → ∃ t, exec (.threadRestart a tid v) s = .next t ∧ t = threadRestart tid v s) ∧
  (∀ (s : State) (a : Agent) (n off : Nat) (v : Word), n < 48 → off < 65536 → reaches a (0x810000 + 0x20000 * n + off) v s = true →
   s.flag (R.WHL_CSTAT_RETIRED n) = false → inService s n = false → ∃ t, exec (.localMemoryWindowWrite a n off 15 v) s = .next t ∧
   t = coreWrite n (off / 4 * 4) (leBytes 4 v.toNat) s) ∧
  (∀ (s : State) (n thr off : Nat) (v : Word), n < 48 → off < 65536 →
   reaches (.thread n thr) (0x810000 + 0x20000 * n + off) v s = true → s.flag (R.WHL_CSTAT_RETIRED n) = false → ∃ t,
   exec (.localMemoryWindowWrite (.thread n thr) n off 15 v) s = .next t ∧ t = coreWrite n (off / 4 * 4) (leBytes 4 v.toNat) s) ∧
  (∀ (s : State) (tid : Nat), (s.thread tid).lookup.isSome = true → s.up islTBL = true → ∃ t,
   exec (.lookupResult tid) s = .next t ∧ t = completeLookup tid s ∧ (t.thread tid).lookup = none)

/-- O16. What moves, bitwise operations, selections, extensions and bit fields do. A thread that issues one of these instructions goes
  on past its word with the result in rd, and, where the word sets flags, N and Z of the result with C and V as they were; nothing else
  of the device changes. TST and TSTI set the flags alone, MOVHI the register alone. A result for g0 is discarded.
  (13_whorl_isa_model.md R476, 13_whorl_isa_model.md R495, 14_whorl_isa_catalogue.md R522, 14_whorl_isa_catalogue.md R523,
  14_whorl_isa_catalogue.md R525, 14_whorl_isa_catalogue.md R527) -/
def Obligations.WhorlLogicCommandsComplete : Prop :=
  (∀ e ∈ ([(.mov, .mov, fun x i => x.reg i.ra), (.movi, .movi, fun _ i => .ofInt 32 i.imm),
   (.and, .and, fun x i => x.reg i.ra &&& x.reg i.rb), (.or, .or, fun x i => x.reg i.ra ||| x.reg i.rb),
   (.xor, .xor, fun x i => x.reg i.ra ^^^ x.reg i.rb), (.bic, .bic, fun x i => x.reg i.ra &&& ~~~(x.reg i.rb)),
   (.not, .not, fun x i => ~~~(x.reg i.ra)), (.andi, .andi, fun x i => x.reg i.ra &&& .ofInt 32 i.imm),
   (.ori, .ori, fun x i => x.reg i.ra ||| .ofInt 32 i.imm), (.xori, .xori, fun x i => x.reg i.ra ^^^ .ofInt 32 i.imm),
   (.min, .min, fun x i => if (x.reg i.ra).toInt ≤ (x.reg i.rb).toInt then x.reg i.ra else x.reg i.rb),
   (.max, .max, fun x i => if (x.reg i.ra).toInt ≤ (x.reg i.rb).toInt then x.reg i.rb else x.reg i.ra),
   (.minu, .minu, fun x i => if (x.reg i.ra).toNat ≤ (x.reg i.rb).toNat then x.reg i.ra else x.reg i.rb),
   (.maxu, .maxu, fun x i => if (x.reg i.ra).toNat ≤ (x.reg i.rb).toNat then x.reg i.rb else x.reg i.ra),
   (.clz, .clz, fun x i => .ofNat 32 (leadingZeros (x.reg i.ra))),
   (.bswap, .bswap, fun x i => .ofNat 32 (beNat (leBytes 4 (x.reg i.ra).toNat))),
   (.sextb, .sextb, fun x i => .ofInt 32 (sgn 8 (x.reg i.ra).toNat)),
   (.sexth, .sexth, fun x i => .ofInt 32 (sgn 16 (x.reg i.ra).toNat)),
   (.zextb, .zextb, fun x i => .ofNat 32 ((x.reg i.ra).toNat % 256)),
   (.zexth, .zexth, fun x i => .ofNat 32 ((x.reg i.ra).toNat % 65536)),
   (.extu, .extu, fun x i => .ofNat 32 ((x.reg i.ra).toNat / 2 ^ (unsgn 32 i.imm % 32) % 2 ^ (unsgn 32 i.imm / 256 % 32 + 1)))] : List ((Nat → Instr) × WOp × (Thread → Insn → Word))),
   ∀ (s : State) (tid : Nat) (i : Insn) (code : List Byte), let x := s.thread tid; ready s tid i code = true → runs i x = true →
   i.op = e.2.1 → i.pkt = false → ∃ t, exec (e.1 tid) s = .next t ∧
   t = s.setThread tid { (pastWord x code).setReg i.rd (e.2.2 x i) with flags := if i.setf then ⟨(e.2.2 x i).msb, decide (e.2.2 x i = 0),
   x.flags.c, x.flags.v⟩ else x.flags }) ∧
  (∀ e ∈ ([(.tst, .tst, fun x i => x.reg i.ra &&& x.reg i.rb),
   (.tsti, .tsti, fun x i => x.reg i.ra &&& .ofInt 32 i.imm)] : List ((Nat → Instr) × WOp × (Thread → Insn → Word))),
   ∀ (s : State) (tid : Nat) (i : Insn) (code : List Byte), let x := s.thread tid; ready s tid i code = true → runs i x = true →
   i.op = e.2.1 → i.pkt = false → i.setf = true → ∃ t, exec (e.1 tid) s = .next t ∧
   t = s.setThread tid { pastWord x code with flags := ⟨(e.2.2 x i).msb, decide (e.2.2 x i = 0), x.flags.c, x.flags.v⟩ }) ∧
  (∀ (s : State) (tid : Nat) (i : Insn) (code : List Byte), let x := s.thread tid; ready s tid i code = true → runs i x = true →
   i.op = .movhi → i.pkt = false → i.setf = false → ∃ t, exec (.movhi tid) s = .next t ∧
   t = s.setThread tid ((pastWord x code).setReg i.rd ((BitVec.ofInt 32 i.imm <<< 16) ||| (x.reg i.ra &&& 0xFFFF)))) ∧
  (∀ (s : State) (tid : Nat) (i : Insn) (code : List Byte), let x := s.thread tid; let p := unsgn 32 i.imm % 32;
   let m : Word := .ofNat 32 ((2 ^ (unsgn 32 i.imm / 256 % 32 + 1) - 1) * 2 ^ p);
   let v := (x.reg i.rd &&& ~~~m) ||| ((x.reg i.ra <<< p) &&& m); ready s tid i code = true → runs i x = true → i.op = .ins →
   i.pkt = false → ∃ t, exec (.ins tid) s = .next t ∧
   t = s.setThread tid { (pastWord x code).setReg i.rd v with flags := if i.setf then ⟨v.msb, decide (v = 0),
   x.flags.c, x.flags.v⟩ else x.flags })

/-- O17. What additions, subtractions and comparisons do, with their flags. An addition or subtraction leaves the low 32 bits of its
  exact sum in rd, a difference being the sum with the inverted subtrahend and a carry in; where the word sets flags, N and Z are the
  result's, C is the carry out, and V says that the signed sum does not fit in 32 bits. CMP and CMPI set the flags alone. The thread
  goes on past its word; nothing else of the device changes. (14_whorl_isa_catalogue.md R523, 14_whorl_isa_catalogue.md R525,
  14_whorl_isa_catalogue.md R527) -/
def Obligations.WhorlSumCommandsComplete : Prop :=
  (∀ e ∈ ([(.add, .add, fun x i => (x.reg i.ra, x.reg i.rb, false)),
   (.addi, .addi, fun x i => (x.reg i.ra, .ofInt 32 i.imm, false)), (.adc, .adc, fun x i => (x.reg i.ra, x.reg i.rb, x.flags.c)),
   (.sub, .sub, fun x i => (x.reg i.ra, ~~~(x.reg i.rb), true)), (.sbc, .sbc, fun x i => (x.reg i.ra, ~~~(x.reg i.rb), x.flags.c)),
   (.neg, .neg, fun x i => (0, ~~~(x.reg i.ra), true))] : List ((Nat → Instr) × WOp × (Thread → Insn → Word × Word × Bool))),
   ∀ (s : State) (tid : Nat) (i : Insn) (code : List Byte), let x := s.thread tid; ready s tid i code = true → runs i x = true →
   i.op = e.2.1 → i.pkt = false → ∃ t, exec (e.1 tid) s = .next t ∧ let r := e.2.2 x i;
   let n := r.1.toNat + r.2.1.toNat + b2n r.2.2; let v : Word := .ofNat 32 n;
   t = s.setThread tid { (pastWord x code).setReg i.rd v with flags := if i.setf then ⟨v.msb, decide (v = 0), decide (2 ^ 32 ≤ n),
   decide (v.toInt ≠ r.1.toInt + r.2.1.toInt + b2n r.2.2)⟩ else x.flags }) ∧
  (∀ e ∈ ([(.cmp, .cmp, fun x i => (x.reg i.ra, ~~~(x.reg i.rb), true)),
   (.cmpi, .cmpi, fun x i => (x.reg i.ra, ~~~(BitVec.ofInt 32 i.imm), true))] : List ((Nat → Instr) × WOp × (Thread → Insn → Word × Word × Bool))),
   ∀ (s : State) (tid : Nat) (i : Insn) (code : List Byte), let x := s.thread tid; ready s tid i code = true → runs i x = true →
   i.op = e.2.1 → i.pkt = false → i.setf = true → ∃ t, exec (e.1 tid) s = .next t ∧ let r := e.2.2 x i;
   let n := r.1.toNat + r.2.1.toNat + b2n r.2.2; let v : Word := .ofNat 32 n;
   t = s.setThread tid { pastWord x code with flags := ⟨v.msb, decide (v = 0), decide (2 ^ 32 ≤ n),
   decide (v.toInt ≠ r.1.toInt + r.2.1.toInt + b2n r.2.2)⟩ })

/-- O18. What shifts and rotations do, with their flags. A shift by 0 to 255, or an immediate one by 0 to 31, leaves in rd its source
  multiplied by, or divided by, the power of two, a rotation the bits that leave it at the other end; where the word sets flags, N and Z
  are the result's, V is unchanged and C is the last bit shifted out, or unchanged for a count of 0. The thread goes on past its word;
  nothing else of the device changes. (14_whorl_isa_catalogue.md R523, 14_whorl_isa_catalogue.md R526, 14_whorl_isa_catalogue.md R527)
  -/
def Obligations.WhorlShiftCommandsComplete : Prop :=
  (∀ e ∈ ([(.shl, .shl, fun x i => (.ofNat 32 ((x.reg i.ra).toNat * 2 ^ ((x.reg i.rb).toNat % 256)), if (x.reg i.rb).toNat % 256 = 0 then x.flags.c else decide ((x.reg i.ra).toNat * 2 ^ ((x.reg i.rb).toNat % 256) / 2 ^ 32 % 2 = 1))),
   (.shr, .shr, fun x i => (.ofNat 32 ((x.reg i.ra).toNat / 2 ^ ((x.reg i.rb).toNat % 256)), if (x.reg i.rb).toNat % 256 = 0 then x.flags.c else decide ((x.reg i.ra).toNat / 2 ^ ((x.reg i.rb).toNat % 256 - 1) % 2 = 1))),
   (.sar, .sar, fun x i => (.ofInt 32 ((x.reg i.ra).toInt / 2 ^ ((x.reg i.rb).toNat % 256)), if (x.reg i.rb).toNat % 256 = 0 then x.flags.c else decide ((x.reg i.ra).toInt / 2 ^ ((x.reg i.rb).toNat % 256 - 1) % 2 = 1))),
   (.ror, .ror, fun x i => (.ofNat 32 ((x.reg i.ra).toNat / 2 ^ ((x.reg i.rb).toNat % 32) + (x.reg i.ra).toNat * 2 ^ (32 - (x.reg i.rb).toNat % 32)), if (x.reg i.rb).toNat % 32 = 0 then x.flags.c else decide ((x.reg i.ra).toNat / 2 ^ ((x.reg i.rb).toNat % 32 - 1) % 2 = 1))),
   (.shli, .shli, fun x i => (.ofNat 32 ((x.reg i.ra).toNat * 2 ^ (unsgn 32 i.imm % 32)), if unsgn 32 i.imm % 32 = 0 then x.flags.c else decide ((x.reg i.ra).toNat * 2 ^ (unsgn 32 i.imm % 32) / 2 ^ 32 % 2 = 1))),
   (.shri, .shri, fun x i => (.ofNat 32 ((x.reg i.ra).toNat / 2 ^ (unsgn 32 i.imm % 32)), if unsgn 32 i.imm % 32 = 0 then x.flags.c else decide ((x.reg i.ra).toNat / 2 ^ (unsgn 32 i.imm % 32 - 1) % 2 = 1))),
   (.sari, .sari, fun x i => (.ofInt 32 ((x.reg i.ra).toInt / 2 ^ (unsgn 32 i.imm % 32)), if unsgn 32 i.imm % 32 = 0 then x.flags.c else decide ((x.reg i.ra).toInt / 2 ^ (unsgn 32 i.imm % 32 - 1) % 2 = 1))),
   (.rori, .rori, fun x i => (.ofNat 32 ((x.reg i.ra).toNat / 2 ^ (unsgn 32 i.imm % 32) + (x.reg i.ra).toNat * 2 ^ (32 - unsgn 32 i.imm % 32)), if unsgn 32 i.imm % 32 = 0 then x.flags.c else decide ((x.reg i.ra).toNat / 2 ^ (unsgn 32 i.imm % 32 - 1) % 2 = 1)))] : List ((Nat → Instr) × WOp × (Thread → Insn → Word × Bool))),
   ∀ (s : State) (tid : Nat) (i : Insn) (code : List Byte), let x := s.thread tid; ready s tid i code = true → runs i x = true →
   i.op = e.2.1 → i.pkt = false → ∃ t, exec (e.1 tid) s = .next t ∧
   t = s.setThread tid { (pastWord x code).setReg i.rd (e.2.2 x i).1 with flags := if i.setf then ⟨(e.2.2 x i).1.msb, decide ((e.2.2 x i).1 = 0),
   (e.2.2 x i).2, x.flags.v⟩ else x.flags })

/-- O19. What multiply-accumulate and saturating operations do. A multiply-class instruction leaves its exact product, or the
  accumulator with the product added or subtracted, in the 72-bit accumulator modulo 2^72 and changes no flag; a saturating operation,
  and RDACC four or more words after the latest multiply-class one, leaves its exact result held to 32 signed bits in rd and makes Q
  sticky where that changed it. The thread goes on past its word; nothing else of the device changes. (13_whorl_isa_model.md R506,
  13_whorl_isa_model.md R507, 14_whorl_isa_catalogue.md R533, 14_whorl_isa_catalogue.md R534, 14_whorl_isa_catalogue.md R535) -/
def Obligations.WhorlMultiplyCommandsComplete : Prop :=
  (∀ e ∈ ([(.mul, .mul, fun x i => (x.reg i.ra).toInt * (x.reg i.rb).toInt),
   (.mulu, .mulu, fun x i => (((x.reg i.ra).toNat * (x.reg i.rb).toNat : Nat) : Int)),
   (.mac, .mac, fun x i => sgn 72 x.acc + (x.reg i.ra).toInt * (x.reg i.rb).toInt),
   (.macu, .macu, fun x i => sgn 72 x.acc + (((x.reg i.ra).toNat * (x.reg i.rb).toNat : Nat) : Int)),
   (.msu, .msu, fun x i => sgn 72 x.acc - (x.reg i.ra).toInt * (x.reg i.rb).toInt)] : List ((Nat → Instr) × WOp × (Thread → Insn → Int))),
   ∀ (s : State) (tid : Nat) (i : Insn) (code : List Byte), let x := s.thread tid; ready s tid i code = true → runs i x = true →
   i.op = e.2.1 → i.pkt = false → ∃ t, exec (e.1 tid) s = .next t ∧
   t = s.setThread tid { pastWord x code with acc := unsgn 72 (e.2.2 x i), accAge := 0 }) ∧
  (∀ e ∈ ([(.qadd, .qadd, fun x i => (x.reg i.ra).toInt + (x.reg i.rb).toInt),
   (.qsub, .qsub, fun x i => (x.reg i.ra).toInt - (x.reg i.rb).toInt),
   (.qshl, .qshl, fun x i => (x.reg i.ra).toInt * 2 ^ (unsgn 32 i.imm % 32)),
   (.qabs, .qabs, fun x i => (((x.reg i.ra).toInt.natAbs : Nat) : Int)),
   (.qneg, .qneg, fun x i => -(x.reg i.ra).toInt)] : List ((Nat → Instr) × WOp × (Thread → Insn → Int))),
   ∀ (s : State) (tid : Nat) (i : Insn) (code : List Byte), let x := s.thread tid; ready s tid i code = true → runs i x = true →
   i.op = e.2.1 → i.pkt = false → ∃ t, exec (e.1 tid) s = .next t ∧ let n := e.2.2 x i;
   let v : Int := max (-2 ^ 31) (min (2 ^ 31 - 1) n);
   t = s.setThread tid { (pastWord x code).setReg i.rd (.ofInt 32 v) with q := x.q || decide (v ≠ n) }) ∧
  (∀ e ∈ ([(.rdacc, .rdacc, fun x i => (sgn 72 x.acc + (if unsgn 32 i.imm % 64 = 0 then 0 else 2 ^ (unsgn 32 i.imm % 64 - 1))) / 2 ^ (unsgn 32 i.imm % 64))] : List ((Nat → Instr) × WOp × (Thread → Insn → Int))),
   ∀ (s : State) (tid : Nat) (i : Insn) (code : List Byte), let x := s.thread tid; ready s tid i code = true → runs i x = true →
   i.op = e.2.1 → i.pkt = false → 3 ≤ x.accAge → ∃ t, exec (e.1 tid) s = .next t ∧ let n := e.2.2 x i;
   let v : Int := max (-2 ^ 31) (min (2 ^ 31 - 1) n);
   t = s.setThread tid { (pastWord x code).setReg i.rd (.ofInt 32 v) with q := x.q || decide (v ≠ n) })

/-- O20. What branches, calls, jumps and changes of form do. BR goes to its target and CALL also links; BC, BF, BNZ and DBNZ go to it if
  their condition holds and to the next word if not, DBNZ with its register one less; J and JL go to a register's address with the low
  bits cleared in paired form; JX, JXL and RTX also set the form, which in paired form needs an aligned target. Nothing else of the
  device changes. (13_whorl_isa_model.md R493, 13_whorl_isa_model.md R504, 14_whorl_isa_catalogue.md R523, 14_whorl_isa_catalogue.md
  R528, 14_whorl_isa_catalogue.md R529, 14_whorl_isa_catalogue.md R530) -/
def Obligations.WhorlControlCommandsComplete : Prop :=
  (∀ (s : State) (tid : Nat) (i : Insn) (code : List Byte), let x := s.thread tid; ready s tid i code = true → runs i x = true →
   i.op = .br → i.pkt = false → ∃ t, exec (.br tid) s = .next t ∧
   t = s.setThread tid { pastWord x code with pc := unsgn 32 ((x.pc : Int) + i.imm) }) ∧
  (∀ (s : State) (tid : Nat) (i : Insn) (code : List Byte), let x := s.thread tid; ready s tid i code = true → runs i x = true →
   i.op = .call → i.pkt = false → ∃ t, exec (.call tid) s = .next t ∧
   t = s.setThread tid { (pastWord x code).setReg 15 (.ofNat 32 (pcAfter x code)) with pc := unsgn 32 ((x.pc : Int) + i.imm) }) ∧
  (∀ (s : State) (tid : Nat) (i : Insn) (code : List Byte), let x := s.thread tid; ready s tid i code = true → runs i x = true →
   i.op = .bc → i.pkt = false → ∃ t, exec (.bc tid) s = .next t ∧
   t = s.setThread tid { pastWord x code with pc := if condHolds i.fn (subWith (x.reg i.ra) (x.reg i.rb) true).2 then unsgn 32 ((x.pc : Int) + i.imm) else pcAfter x code }) ∧
  (∀ (s : State) (tid : Nat) (i : Insn) (code : List Byte), let x := s.thread tid; ready s tid i code = true → runs i x = true →
   i.op = .bf → i.pkt = false → ∃ t, exec (.bf tid) s = .next t ∧
   t = s.setThread tid { pastWord x code with pc := if condHolds i.fn x.flags then unsgn 32 ((x.pc : Int) + i.imm) else pcAfter x code }) ∧
  (∀ (s : State) (tid : Nat) (i : Insn) (code : List Byte), let x := s.thread tid; ready s tid i code = true → runs i x = true →
   i.op = .bnz → i.pkt = false → ∃ t, exec (.bnz tid) s = .next t ∧
   t = s.setThread tid { pastWord x code with pc := if x.reg i.rd ≠ 0 then unsgn 32 ((x.pc : Int) + i.imm) else pcAfter x code }) ∧
  (∀ (s : State) (tid : Nat) (i : Insn) (code : List Byte), let x := s.thread tid; ready s tid i code = true → runs i x = true →
   i.op = .dbnz → i.pkt = false → ∃ t, exec (.dbnz tid) s = .next t ∧
   t = s.setThread tid { (pastWord x code).setReg i.rd (x.reg i.rd - 1) with pc := if x.reg i.rd ≠ 1 then unsgn 32 ((x.pc : Int) + i.imm) else pcAfter x code }) ∧
  (∀ (s : State) (tid : Nat) (i : Insn) (code : List Byte), let x := s.thread tid; ready s tid i code = true → runs i x = true →
   i.op = .j → i.pkt = false → ∃ t, exec (.j tid) s = .next t ∧
   t = s.setThread tid { pastWord x code with pc := if x.form then (x.reg i.ra).toNat / 4 * 4 else (x.reg i.ra).toNat }) ∧
  (∀ (s : State) (tid : Nat) (i : Insn) (code : List Byte), let x := s.thread tid; ready s tid i code = true → runs i x = true →
   i.op = .jl → i.pkt = false → ∃ t, exec (.jl tid) s = .next t ∧
   t = s.setThread tid { (pastWord x code).setReg 15 (.ofNat 32 (pcAfter x code)) with pc := if x.form then (x.reg i.ra).toNat / 4 * 4 else (x.reg i.ra).toNat }) ∧
  (∀ (s : State) (tid : Nat) (i : Insn) (code : List Byte), let x := s.thread tid; ready s tid i code = true → runs i x = true →
   i.op = .jx → i.pkt = false → (i.fn = 1 → (x.reg i.ra).toNat % 4 = 0) → ∃ t, exec (.jx tid) s = .next t ∧
   t = s.setThread tid { pastWord x code with pc := (x.reg i.ra).toNat, form := decide (i.fn = 1) }) ∧
  (∀ (s : State) (tid : Nat) (i : Insn) (code : List Byte), let x := s.thread tid; ready s tid i code = true → runs i x = true →
   i.op = .jxl → i.pkt = false → (i.fn = 1 → (x.reg i.ra).toNat % 4 = 0) → ∃ t, exec (.jxl tid) s = .next t ∧
   t = s.setThread tid { (pastWord x code).setReg 15 (.ofNat 32 (pcAfter x code)) with pc := (x.reg i.ra).toNat, form := decide (i.fn = 1), lform := x.form, rets := jxlRets x (pcAfter x code) }) ∧
  (∀ (s : State) (tid : Nat) (i : Insn) (code : List Byte), let x := s.thread tid; ready s tid i code = true → runs i x = true →
   i.op = .rtx → i.pkt = false → rtxLost x = false → (x.lform = true → (x.reg 15).toNat % 4 = 0) → ∃ t, exec (.rtx tid) s = .next t ∧
   t = s.setThread tid { pastWord x code with pc := (x.reg 15).toNat, form := x.lform, rets := x.rets.drop 1 })

/-- O21. What loads, stores, PUSH and POP do. An aligned load from local memory brings its bytes, in the order it names and extended as
  it says, to rd, an aligned store puts the register's bytes into local memory, and a short form moves its base past the access; PUSH
  writes the named registers below the stack pointer in ascending order, POP brings them back; a packet-relative store goes to the
  buffer that PKH names as a posted write, and a packet-relative load leaves the thread as a weft request. Nothing else of the device
  changes. (12_whorl_cores_threads.md R451, 13_whorl_isa_model.md R483, 13_whorl_isa_model.md R484, 13_whorl_isa_model.md R485,
  13_whorl_isa_model.md R487, 14_whorl_isa_catalogue.md R531, 14_whorl_isa_catalogue.md R532) -/
def Obligations.WhorlMemoryCommandsComplete : Prop :=
  (∀ e ∈ ([(.ldb, .ldb, (1, true, false)), (.ldbu, .ldbu, (1, false, false)), (.ldh, .ldh, (2, true, false)),
   (.ldhu, .ldhu, (2, false, false)), (.ldw, .ldw, (4, false, false)), (.ldhn, .ldhn, (2, true, true)),
   (.ldhun, .ldhun, (2, false, true)), (.ldwn, .ldwn, (4, false, true))] : List ((Nat → Instr) × WOp × (Nat × Bool × Bool))),
   ∀ (s : State) (tid : Nat) (i : Insn) (code : List Byte) (a : Nat), let x := s.thread tid; ready s tid i code = true →
   runs i x = true → i.op = e.2.1 → i.pkt = false →
   (a : Int) = (((x.reg i.ra).toNat : Int) + (if i.upd = 0 then i.imm else 0)) % 2 ^ 32 → a + e.2.2.1 ≤ 0x10000 → a % e.2.2.1 = 0 →
   poisoned s (tid / 8) a e.2.2.1 = none → ∃ t, exec (e.1 tid) s = .next t ∧ let b := (s.core (tid / 8)).mem.rdBytes a e.2.2.1;
   let n := if e.2.2.2.2 then beNat b else leNat b;
   t = s.setThread tid (((if i.upd = 1 then (pastWord x code).setReg i.ra (x.reg i.ra + .ofNat 32 e.2.2.1) else if i.upd = 2 then (pastWord x code).setReg i.ra (x.reg i.ra - .ofNat 32 e.2.2.1) else pastWord x code)).setReg i.rd (if e.2.2.2.1 then .ofInt 32 (sgn (8 * e.2.2.1) n) else .ofNat 32 n))) ∧
  (∀ e ∈ ([(.stb, .stb, (1, false)), (.sth, .sth, (2, false)), (.stw, .stw, (4, false)), (.sthn, .sthn, (2, true)),
   (.stwn, .stwn, (4, true))] : List ((Nat → Instr) × WOp × (Nat × Bool))),
   ∀ (s : State) (tid : Nat) (i : Insn) (code : List Byte) (a : Nat), let x := s.thread tid; ready s tid i code = true →
   runs i x = true → i.op = e.2.1 → i.pkt = false →
   (a : Int) = (((x.reg i.ra).toNat : Int) + (if i.upd = 0 then i.imm else 0)) % 2 ^ 32 → a + e.2.2.1 ≤ 0x10000 → a % e.2.2.1 = 0 →
   ∃ t, exec (e.1 tid) s = .next t ∧ let b := leBytes e.2.2.1 (x.reg i.rd).toNat;
   t = (coreWrite (tid / 8) a (if e.2.2.2 then b.reverse else b) s).setThread tid (if i.upd = 1 then (pastWord x code).setReg i.ra (x.reg i.ra + .ofNat 32 e.2.2.1) else if i.upd = 2 then (pastWord x code).setReg i.ra (x.reg i.ra - .ofNat 32 e.2.2.1) else pastWord x code)) ∧
  (∀ (s : State) (tid : Nat) (i : Insn) (code : List Byte) (rs : List Nat) (lo : Nat), let x := s.thread tid;
   ready s tid i code = true → runs i x = true → i.op = .push → i.pkt = false →
   rs = (List.range 16).filter (fun n => decide (n ≠ 0) && bitOf (unsgn 32 i.imm) n) → lo + 4 * rs.length = (x.reg 14).toNat →
   (x.reg 14).toNat ≤ 0x10000 → (x.reg 14).toNat % 4 = 0 → ∃ t, exec (.push tid) s = .next t ∧
   t = (((List.range rs.length).map (fun k => (lo + 4 * k, x.reg (rs.getD k 0)))).foldl (fun (u : State) w => coreWrite (tid / 8) w.1 (leBytes 4 w.2.toNat) u) s).setThread tid ((pastWord x code).setReg 14 (.ofNat 32 lo))) ∧
  (∀ (s : State) (tid : Nat) (i : Insn) (code : List Byte) (rs : List Nat), let x := s.thread tid; ready s tid i code = true →
   runs i x = true → i.op = .pop → i.pkt = false →
   rs = (List.range 16).filter (fun n => decide (n ≠ 0) && bitOf (unsgn 32 i.imm) n) → (x.reg 14).toNat + 4 * rs.length ≤ 0x10000 →
   (x.reg 14).toNat % 4 = 0 → poisoned s (tid / 8) (x.reg 14).toNat (4 * rs.length) = none → ∃ t, exec (.pop tid) s = .next t ∧
   t = s.setThread tid (((List.range rs.length).foldl (fun (y : Thread) k => if rs.getD k 0 = 14 then y else y.setReg (rs.getD k 0) (.ofNat 32 (leNat ((s.core (tid / 8)).mem.rdBytes ((x.reg 14).toNat + 4 * k) 4)))) (pastWord x code)).setReg 14 (x.reg 14 + .ofNat 32 (4 * rs.length)))) ∧
  (∀ (s : State) (tid : Nat) (i : Insn) (code : List Byte) (a b : Nat), let x := s.thread tid; ready s tid i code = true →
   runs i x = true → i.op = .stw → i.pkt = true → pktBase s x.pkh = some b → a = (memAddr i x + b) % 2 ^ 32 → 0x10000000 ≤ a →
   a + 4 ≤ 0x10D00000 → a % 4 = 0 → pktOpen s = true →
   (List.range 4).any (fun j => foreignToThread s tid (a - 0x10000000 + j)) = false → i.upd = 0 → ∃ t, exec (.pst tid) s = .next t ∧
   t = ((postWrite tid a .ready (s.setThread tid (pastWord x code))).setPkt (s.pkt.wrBytes (a - 0x10000000) (leBytes 4 (x.reg i.rd).toNat)))) ∧
  (∀ (s : State) (tid : Nat) (i : Insn) (code : List Byte) (a b : Nat), let x := s.thread tid; ready s tid i code = true →
   runs i x = true → i.op = .ldw → i.pkt = true → pktBase s x.pkh = some b → a = (memAddr i x + b) % 2 ^ 32 → 0x10000000 ≤ a →
   a + 4 ≤ 0x11000000 → a % 4 = 0 → s.follower = false → ∃ t, exec (.pld tid) s = .next t ∧ (t.thread tid).st = 2 ∧
   (t.thread tid).waitOn = 4 ∧ (t.thread tid).read = some { code := code, got := [], wait := .ready, logged := false } ∧
   t.pkt = s.pkt)

/-- O22. What the system instructions do. NOP goes on; MFS and MTS copy a special register; FENCE goes on with no write outstanding and
  else waits; TRAP faults its thread with its code; TGET waits for a task and TDONE ends one; SLEEP and WAITLK wait or go on; LKUP
  starts its lookup with the key as it stands; BFREE frees its buffer as a posted write; BALLOC, FADD and SEND send their request over
  the weft, which holds the word until its response; a word that no encoding names faults with ILL. (10_buffers_and_locks.md R392,
  12_whorl_cores_threads.md R456, 13_whorl_isa_model.md R478, 13_whorl_isa_model.md R479, 14_whorl_isa_catalogue.md R537,
  14_whorl_isa_catalogue.md R538, 14_whorl_isa_catalogue.md R539, 14_whorl_isa_catalogue.md R540, 14_whorl_isa_catalogue.md R541,
  14_whorl_isa_catalogue.md R542, 14_whorl_isa_catalogue.md R543) -/
def Obligations.WhorlSystemCommandsComplete : Prop :=
  (∀ (s : State) (tid : Nat) (i : Insn) (code : List Byte), let x := s.thread tid; ready s tid i code = true → runs i x = true →
   i.op = .nop → i.pkt = false → ∃ t, exec (.nop tid) s = .next t ∧ t = s.setThread tid (pastWord x code)) ∧
  (∀ (s : State) (tid : Nat) (i : Insn) (code : List Byte), let x := s.thread tid; ready s tid i code = true → runs i x = true →
   i.op = .mfs → i.pkt = false → 3 ≤ x.accAge → unsgn 32 i.imm ∉ [5, 6, 12, 13, 14] → unsgn 32 i.imm < 17 → ∃ t,
   exec (.mfs tid) s = .next t ∧
   t = s.setThread tid (((pastWord x code)).setReg i.rd (match unsgn 32 i.imm with | 0 => accPart x.acc 0 | 1 => accPart x.acc 1 | 2 => accPart x.acc 2 | 3 => .ofNat 32 x.tcmp | 4 => .ofNat 32 (x.tcmp / 2 ^ 32) | 7 => .ofNat 32 x.evp | 8 => .ofNat 32 x.evm | 9 => tstatWord x | 10 => x.yarn | 11 => x.pkh | 15 => x.flta | _ => .ofNat 32 (tid % 8 + tid / 8 * 256 + tid * 65536)))) ∧
  (∀ (s : State) (tid : Nat) (i : Insn) (code : List Byte), let x := s.thread tid; ready s tid i code = true → runs i x = true →
   i.op = .mts → i.pkt = false → unsgn 32 i.imm ∈ [3, 8, 9, 11] → x.reg i.ra &&& sregReserved (unsgn 32 i.imm) = 0 → ∃ t,
   exec (.mts tid) s = .next t ∧
   t = s.setThread tid (match unsgn 32 i.imm with | 3 => { (pastWord x code) with tcmpHeld := some (x.reg i.ra) } | 8 => { (pastWord x code) with evm := (x.reg i.ra).toNat } | 9 => setTstat (x.reg i.ra) ((pastWord x code)) | _ => { (pastWord x code) with pkh := x.reg i.ra })) ∧
  (∀ (s : State) (tid : Nat) (i : Insn) (code : List Byte), let x := s.thread tid; ready s tid i code = true → runs i x = true →
   i.op = .mts → i.pkt = false → unsgn 32 i.imm < 3 → ∃ t, exec (.mts tid) s = .next t ∧
   t = s.setThread tid { (pastWord x code) with accAge := 0, acc := (match unsgn 32 i.imm with | 0 => x.acc / 2 ^ 32 * 2 ^ 32 + (x.reg i.ra).toNat | 1 => x.acc / 2 ^ 64 * 2 ^ 64 + (x.reg i.ra).toNat * 2 ^ 32 + x.acc % 2 ^ 32 | _ => (x.reg i.ra).toNat % 256 * 2 ^ 64 + x.acc % 2 ^ 64) }) ∧
  (∀ (s : State) (tid : Nat) (i : Insn) (code : List Byte), let x := s.thread tid; ready s tid i code = true → runs i x = true →
   i.op = .fence → i.pkt = false → ∃ t, exec (.fence tid) s = .next t ∧ (x.writes = [] → t = s.setThread tid (pastWord x code)) ∧
   (x.writes ≠ [] → t = s.setThread tid { pastWord x code with st := 2, waitOn := 4, fencing := true })) ∧
  (∀ (s : State) (tid : Nat) (i : Insn) (code : List Byte), let x := s.thread tid; ready s tid i code = true → runs i x = true →
   i.op = .trap → i.pkt = false → ∃ t, exec (.trap tid) s = .next t ∧ t = threadFault tid 8 (.ofInt 32 i.imm) s) ∧
  (∀ (s : State) (tid : Nat) (i : Insn) (code : List Byte), let x := s.thread tid; ready s tid i code = true → runs i x = true →
   i.op = .tget → i.pkt = false → x.task = none → ∃ t, exec (.tget tid) s = .next t ∧
   t = s.setThread tid { ((pastWord x code)).rest 1 (s.tnow (islWHL (tid / 8))) with tgetPc := pcAfter x code, tgetForm := x.form, tgetG14 := x.reg 14, tgetG15 := x.reg 15, tgetEvm := x.evm }) ∧
  (∀ (s : State) (tid : Nat) (i : Insn) (code : List Byte) (d : Nat) (k : Task), let x := s.thread tid; ready s tid i code = true →
   runs i x = true → i.op = .tdone → i.pkt = false → x.task = some d → taskOf s d = some k → x.parked = [] →
   beyondBuffer s k.pkt.handle (leNat ((s.core (tid / 8)).mem.rdBytes (0xFF00 + 32 * (tid % 8) + 20) 2)) (leNat ((s.core (tid / 8)).mem.rdBytes (0xFF00 + 32 * (tid % 8) + 22) 2)) = false →
   ∃ t, exec (.tdone tid) s = .next t ∧ (t.thread tid).task = none ∧ (t.thread tid).yarn = 0 ∧
   (t.thread tid).pkh = (if i.fn % 4 = 3 then x.pkh else 0) ∧ (t.thread tid).pc = pcAfter x code) ∧
  (∀ (s : State) (tid : Nat) (i : Insn) (code : List Byte), let x := s.thread tid; ready s tid i code = true → runs i x = true →
   i.op = .sleep → i.pkt = false → ∃ t, exec (.sleep tid) s = .next t ∧
   t = s.setThread tid (if x.evp &&& x.evm ≠ 0 then { (pastWord x code) with wdogAcc := 0, wdogFrom := s.tnow (islWHL (tid / 8)) } else ((pastWord x code)).rest 2 (s.tnow (islWHL (tid / 8))))) ∧
  (∀ (s : State) (tid : Nat) (i : Insn) (code : List Byte), let x := s.thread tid; ready s tid i code = true → runs i x = true →
   i.op = .waitlk → i.pkt = false → ∃ t, exec (.waitlk tid) s = .next t ∧
   (bitOf x.evp 2 = false → (s.lock ((x.reg i.ra).toNat % 512)).held = false → t = s.setThread tid { (pastWord x code) with wdogAcc := 0, wdogFrom := s.tnow (islWHL (tid / 8)) }) ∧
   (bitOf x.evp 2 = true → t = s.setThread tid { (pastWord x code) with evp := x.evp - 4, wdogAcc := 0, wdogFrom := s.tnow (islWHL (tid / 8)) }) ∧
   (bitOf x.evp 2 = false → (s.lock ((x.reg i.ra).toNat % 512)).held = true → t.thread tid = { ((pastWord x code)).rest 3 (s.tnow (islWHL (tid / 8))) with waitLock := some ((x.reg i.ra).toNat % 512) })) ∧
  (∀ (s : State) (tid : Nat) (i : Insn) (code : List Byte) (n : Nat), let x := s.thread tid; ready s tid i code = true →
   runs i x = true → i.op = .lkup → i.pkt = false → n = (if i.fn = 0 then 8 else if i.fn ≤ 4 then 4 else 16) →
   (x.reg i.ra).toNat + n ≤ 0x10000 → (x.reg i.ra).toNat % 8 = 0 → poisoned s (tid / 8) (x.reg i.ra).toNat n = none → ∃ t,
   exec (.lkup tid) s = .next t ∧
   t = s.setThread tid { (pastWord x code) with evp := x.evp - (x.evp &&& 2), lookup := some (i.fn, (s.core (tid / 8)).mem.rdBytes (x.reg i.ra).toNat n) }) ∧
  (∀ (s : State) (tid : Nat) (i : Insn) (code : List Byte), let x := s.thread tid; ready s tid i code = true → runs i x = true →
   i.op = .bfree → i.pkt = false → ∃ t, exec (.bfree tid) s = .next t ∧
   t = freeBuf (x.reg i.ra).toNat (busedDown tid (x.reg i.ra).toNat (postWrite tid 0 .ready (s.setThread tid (pastWord x code))))) ∧
  (∀ (s : State) (tid : Nat) (i : Insn) (code : List Byte), let x := s.thread tid; ready s tid i code = true → runs i x = true →
   i.op = .balloc → i.pkt = false → ∃ t, exec (.balloc tid) s = .next t ∧ (t.thread tid).st = 2 ∧ (t.thread tid).waitOn = 4 ∧
   (t.thread tid).read = some { code := code, got := [], wait := .ready, logged := s.follower } ∧ t.regs = s.regs ∧ t.bpm = s.bpm) ∧
  (∀ (s : State) (tid : Nat) (i : Insn) (code : List Byte), let x := s.thread tid; ready s tid i code = true → runs i x = true →
   i.op = .fadd → i.pkt = false → ∃ t, exec (.fadd tid) s = .next t ∧ (t.thread tid).st = 2 ∧ (t.thread tid).waitOn = 4 ∧
   (t.thread tid).read = some { code := code, got := [], wait := .ready, logged := s.follower } ∧ t.regs = s.regs ∧ t.bpm = s.bpm) ∧
  (∀ (s : State) (tid : Nat) (i : Insn) (code : List Byte), let x := s.thread tid; ready s tid i code = true → runs i x = true →
   i.op = .send → i.pkt = false → ∃ t, exec (.send tid) s = .next t ∧ (t.thread tid).st = 2 ∧ (t.thread tid).waitOn = 4 ∧
   (t.thread tid).read = some { code := code, got := [], wait := .ready, logged := false } ∧ t.regs = s.regs ∧ t.bpm = s.bpm) ∧
  (∀ (s : State) (tid : Nat) (code : List Byte), canIssue s tid = true → (s.thread tid).storeErr = none →
   fetchWord s (tid / 8) (s.thread tid).pc (s.thread tid).form = .word .ill code →
   ((wordDecode (s.thread tid).form code).1 = .ill ∨ (wordDecode (s.thread tid).form code).1 = .more) → ∃ t,
   exec (.undefinedOpcode tid) s = .next t ∧ t = threadFault tid 1 0 s)

/-- O23. What two-slot words and the weft's responses do. Two independent register operations in one word both take their operands from
  before the word and both write their results; a response lets the word that waited for it go on, FADD with the counter's old value in
  rd; a write's response takes it off the thread's list, with WERR where it was not taken; a fence ends once no write is left.
  (13_whorl_isa_model.md R488, 13_whorl_isa_model.md R489, 13_whorl_isa_model.md R502, 14_whorl_isa_catalogue.md R524,
  14_whorl_isa_catalogue.md R537, 14_whorl_isa_catalogue.md R543) -/
def Obligations.WhorlWordCommandsComplete : Prop :=
  (∀ (s : State) (tid : Nat) (a b : Insn) (code : List Byte) (va vb : Word) (fa fb : Flags), let x := s.thread tid;
   canIssue s tid = true → x.storeErr = none → x.read.isNone = true → fetchWord s (tid / 8) x.pc x.form = .word (.two a b) code →
   wordDecode x.form code = (.two a b, code.length) → dependent a b = false → runs a x = true → runs b x = true → a.setf = false →
   b.setf = false → aluOut a.op (x.reg a.ra) (operandB a x) (x.reg a.rd) x.flags = some (va, fa) →
   aluOut b.op (x.reg b.ra) (operandB b x) (x.reg b.rd) x.flags = some (vb, fb) → aluWrites a.op = true → aluWrites b.op = true →
   ∃ t, exec (.pairedWord tid) s = .next t ∧ t = s.setThread tid (((pastWord x code).setReg a.rd va).setReg b.rd vb)) ∧
  (∀ (s : State) (tid k : Nat) (r : WeftRead) (i : Insn), let x := s.thread tid; x.read = some r → x.st = 2 → x.waitOn = 4 →
   r.wait = .ready → r.got = [] → s.halted = false → wordDecode x.form r.code = (.one i, r.code.length) → i.op = .fadd →
   runs i x = true → k = (x.reg i.ra).toNat % 128 → s.up islBPM = true → s.role < 2 → ∃ t,
   exec (.weftReadResponse tid false) s = .next t ∧
   t = (addLoad (threadAgent tid) k (x.reg i.rb) s).setThread tid ((pastWord x r.code).setReg i.rd (mget (fun _ => 0) (addLoad (threadAgent tid) k (x.reg i.rb) s).resp tid))) ∧
  (∀ (s : State) (tid n b : Nat) (w : ReqWait), (s.thread tid).writes[n]? = some (b, w) → w = .ready → ∃ t,
   exec (.weftStoreResponse tid n) s = .next t ∧
   t = s.setThread tid { s.thread tid with writes := (s.thread tid).writes.eraseIdx n }) ∧
  (∀ (s : State) (tid n b : Nat), (s.thread tid).writes[n]? = some (b, .busy) → (s.thread tid).st = 1 →
   (s.thread tid).wflt = false → ∃ t, exec (.weftStoreResponse tid n) s = .next t ∧
   t = s.setThread tid { s.thread tid with writes := (s.thread tid).writes.eraseIdx n, werr := true }) ∧
  (∀ (s : State) (tid : Nat), (s.thread tid).fencing = true → (s.thread tid).writes = [] → s.halted = false → ∃ t,
   exec (.fenceComplete tid) s = .next t ∧ t = s.setThread tid { s.thread tid with st := 1, waitOn := 0, fencing := false })

/-- O24. What learning, the ager, the table commands, the events and the auditor do. Each clause gives a command of the forwarding
  tables its conditions and what follows: a source lookup that finds its own port sets HIT, a learn pop removes the head record, the
  ager clears HIT, WRITE refuses the instance lines with status 3, DELETE of a key no entry holds ends with status 2, INSERT of a held
  key replaces it, a flush is busy until it is done, an event read takes the head event, the auditor starts, visits lines, rechecks and
  ends its sweep. (15_forwarding_learning.md R549, 15_forwarding_learning.md R553, 15_forwarding_learning.md R554,
  15_forwarding_learning.md R564, 15_forwarding_learning.md R565, 15_forwarding_learning.md R566, 15_forwarding_learning.md R571,
  15_forwarding_learning.md R572, 15_forwarding_learning.md R573, 15_forwarding_learning.md R575) -/
def Obligations.ForwardingCommandsComplete : Prop :=
  (∀ (s : State) (port vid i : Nat) (mac : List Byte) (q : List (Nat × List Byte × Nat)), s.fwd.srcq = (port, mac, vid) :: q →
   s.up islTBL = true → s.halted = false → fdbPassed s mac vid = [] → fdbFind s mac vid = some i →
   fdbMask (fdbBytes s i) = 2 ^ port → ∃ t, exec (.sourceLookup) s = .next t ∧ t = setHit i true { s with fwd.srcq := q }) ∧
  (∀ (s : State) (a : Agent), reaches a R.FWD_LRN_POP 1 s = true → ∃ t, exec (.learnPop a) s = .next t ∧ t = learnPop s ∧
   t.fwd.learn = s.fwd.learn.drop 1) ∧
  (∀ (s : State) (i : Nat), s.up islTBL = true → s.halted = false → s.follower = false → s.get R.FWD_AGE_SEC ≠ 0 → i < 32768 →
   fdbBad s i = [] → fdbValid (fdbBytes s i) = true → fdbStatic (fdbBytes s i) = false → fdbHit (fdbBytes s i) = true → ∃ t,
   exec (.agerVisit i) s = .next t ∧ t = setHit i false s) ∧
  (∀ (s : State) (a : Agent), reaches a R.FWD_CMD 1 s = true → s.flag R.FWD_CSTAT_BUSY = false → ∃ t,
   exec (.fwdWrite a) s = .next t ∧ (lineOf s < 0x24000 → t.get R.FWD_CSTAT_STATUS = 3) ∧
   (0x24000 ≤ lineOf s → t.get R.FWD_CSTAT_STATUS = 0) ∧ (lineOf s < 0x24000 → t.fwd = s.fwd)) ∧
  (∀ (s : State) (a : Agent), reaches a R.FWD_CMD 2 s = true → s.flag R.FWD_CSTAT_BUSY = false → ∃ t,
   exec (.fwdRead a) s = .next t ∧ t = fwdRead s ∧ t.get R.FWD_CSTAT_STATUS = 0) ∧
  (∀ (s : State) (a : Agent) (i : Nat), reaches a R.FWD_CMD 3 s = true → s.flag R.FWD_CSTAT_BUSY = false →
   fdbPassed s (fdbMac ((fwdStage s).take 16)) (fdbVid ((fwdStage s).take 16)) = [] →
   fdbFind s (fdbMac ((fwdStage s).take 16)) (fdbVid ((fwdStage s).take 16)) = some i → ∃ t, exec (.fdbInsert a) s = .next t ∧
   t.get R.FWD_CSTAT_STATUS = 0 ∧ t.get R.FWD_CSTAT_REPLACED = 1 ∧ t.fwd = (tblWrite (fdbOff i) ((fwdStage s).take 16) s).fwd) ∧
  (∀ (s : State) (a : Agent), reaches a R.FWD_CMD 4 s = true → s.flag R.FWD_CSTAT_BUSY = false →
   fdbPassed s (fdbMac ((fwdStage s).take 8)) (fdbVid ((fwdStage s).take 8)) = [] →
   fdbFind s (fdbMac ((fwdStage s).take 8)) (fdbVid ((fwdStage s).take 8)) = none → ∃ t, exec (.fdbDelete a) s = .next t ∧
   t.get R.FWD_CSTAT_STATUS = 2 ∧ t.fwd = s.fwd) ∧
  (∀ (s : State) (a : Agent), reaches a R.FWD_CMD 5 s = true → s.flag R.FWD_CSTAT_BUSY = false → ∃ t,
   exec (.fdbFlush a) s = .next t ∧ t.flag R.FWD_CSTAT_BUSY = true ∧ t.get R.FWD_CSTAT_STATUS = 0 ∧
   t.fwd.flush = some (s.rd (R.FWD_STAGE 0)).toNat) ∧
  (∀ (s : State), s.fwd.flush ≠ none → ∃ t, exec (.fdbFlushDone) s = .next t ∧ t.flag R.FWD_CSTAT_BUSY = false ∧ t.fwd.flush = none) ∧
  (∀ (s : State) (a : Agent), readable a R.FWD_EVT s = true → ∃ t, exec (.fwdEventRead a) s = .next t ∧
   t = readDone a R.FWD_EVT (evtPop s)) ∧
  (∀ (s : State), auditOn s = true → s.fwd.audit.running = false → ∃ t, exec (.auditSweepStart) s = .next t ∧
   t.fwd.audit.running = true ∧ t.fwd.audit.pos = 0 ∧ t.fwd.audit.deferred = [] ∧ t.flag R.FWD_AUD_STAT_RUN = true) ∧
  (∀ (s : State) (o : Nat), auditOn s = true → s.fwd.audit.running = true → auditNext s s.fwd.audit.pos = some o → ∃ t,
   exec (.auditLineCompare) s = .next t ∧ t.fwd.audit.pos = o + 64 ∧
   (lineNamed s o = true → t.fwd.audit.deferred = s.fwd.audit.deferred ++ [o])) ∧
  (∀ (s : State) (o w : Nat) (os : List Nat), s.fwd.audit.recheck = o :: os → auditOn s = true → auditDiff s o = some w → ∃ t,
   exec (.auditRecheck) s = .next t ∧ t.fwd.audit.recheck = os ∧ t.get ⟨R.FWD_NSTAT, 1, 1⟩ = 1) ∧
  (∀ (s : State), s.fwd.audit.running = true → auditNext s s.fwd.audit.pos = none → s.fwd.audit.deferred = [] → ∃ t,
   exec (.auditSweepEnd false) s = .next t ∧ t.fwd.audit.running = false ∧ t.flag R.FWD_AUD_STAT_RUN = false ∧
   t.get R.FWD_AUD_STAT_SWEEPS = (s.get R.FWD_AUD_STAT_SWEEPS + 1) % 2 ^ R.FWD_AUD_STAT_SWEEPS.w) ∧
  (∀ (s : State), s.fwd.audit.running = true → ∃ t, exec (.auditSweepEnd true) s = .next t ∧ t.flag R.FWD_AUD_STAT_LATE = true ∧
   t.get ⟨R.FWD_NSTAT, 1, 1⟩ = 1 ∧ t.fwd = s.fwd)

/-- O25. What doorbells, descriptor reads and the descriptors themselves do. A doorbell moves the tail or releases completion slots, a
  read takes entries at the head, a failed read puts the queue pair in ERROR, the descriptor that stands ready completes or is posted as
  its opcode says, CREATE_QP makes the queue pair it describes, DESTROY_QP aborts or drains, an idle draining queue pair is FREE, and
  writes of the admin queue's configuration enable and disable it. (16_host_interface_rings.md R595, 16_host_interface_rings.md R596,
  16_host_interface_rings.md R597, 16_host_interface_rings.md R607, 16_host_interface_rings.md R609, 16_host_interface_rings.md R611,
  16_host_interface_rings.md R612, 16_host_interface_rings.md R614, 16_host_interface_rings.md R616, 16_host_interface_rings.md R617,
  16_host_interface_rings.md R618, 16_host_interface_rings.md R619) -/
def Obligations.QueueCommandsComplete : Prop :=
  (∀ (s : State) (a : Agent) (q : Nat) (v : Word), q < 1024 → isHost a = true → reaches a (R.HIF_DB_SQ q) v s = true →
   s.halted = false → (s.qp q).st = 1 → wget v 0 12 < 2 ^ (s.qp q).sqlog →
   (wget v 0 12 + 2 ^ (s.qp q).sqlog - (s.qp q).tail) % 2 ^ (s.qp q).sqlog ≤ 2 ^ (s.qp q).sqlog - 1 - ((s.qp q).tail + 2 ^ (s.qp q).sqlog - (s.qp q).head) % 2 ^ (s.qp q).sqlog →
   ∃ t, exec (.sqDoorbell a q v) s = .next t ∧ t = s.setQp q { s.qp q with tail := wget v 0 12 }) ∧
  (∀ (s : State) (a : Agent) (q : Nat) (v : Word), q < 1024 → isHost a = true → reaches a (R.HIF_DB_CQ q) v s = true →
   s.halted = false → (s.qp q).st ≠ 0 → wget v 0 12 < 2 ^ (s.qp q).cqlog →
   (wget v 0 12 + 2 ^ (s.qp q).cqlog - (s.qp q).released % 2 ^ (s.qp q).cqlog) % 2 ^ (s.qp q).cqlog ≤ (s.qp q).written - (s.qp q).released →
   ∃ t, exec (.cqDoorbell a q v) s = .next t ∧
   t = s.setQp q { s.qp q with released := (s.qp q).released + (wget v 0 12 + 2 ^ (s.qp q).cqlog - (s.qp q).released % 2 ^ (s.qp q).cqlog) % 2 ^ (s.qp q).cqlog }) ∧
  (∀ (s : State) (q : Nat), s.up islHIF = true → fetchOpen s (s.qp q) = true → fetchCount (s.qp q) ≠ 0 →
   ringFault s (s.qp q) = none → ∃ t, exec (.descriptorFetch q) s = .next t ∧
   t = s.setQp q { s.qp q with fetch := some ((s.qp q).head, fetchCount (s.qp q)), head := ((s.qp q).head + fetchCount (s.qp q)) % 2 ^ (s.qp q).sqlog }) ∧
  (∀ (s : State) (q : Nat) (x : Nat × Nat), (s.qp q).fetch = some x → s.halted = false → (s.qp q).ringsp = false → ∃ t,
   exec (.fetchComplete q none) s = .next t ∧ t = fetchFailed q s ∧ (t.qp q).fetch = none ∧ (t.qp q).st = 3) ∧
  (∀ (s : State) (q i : Nat) (bs : List Byte), (s.qp q).fetch = some (i, 1) → s.halted = false → (s.qp q).ringsp = false →
   s.leader = false → bs.length = 32 → fmtOk q (s.qp q) (leNat (bs.take 4)) = true → ∃ t,
   exec (.fetchComplete q (some bs)) s = .next t ∧ (t.qp q).fetch = none ∧
   (t.qp q).out = (s.qp q).out ++ [{ idx := i, bytes := bs, posted := false, bufWait := false, pkt := none, result := none }]) ∧
  (∀ (s : State) (q : Nat) (e : QEntry), readyOp s q 1 = some e → ∃ t, exec (.nopDescriptor q) s = .next t ∧
   t = entryDone q e.idx 0 0 0 s) ∧
  (∀ (s : State) (e : QEntry) (q : Nat), readyOp s 0 2 = some e → 2 ≤ s.stage → createId s e = some q → (s.qp q).st = 0 →
   inflBudget s + (createdQp e).maxinfl ≤ 4096 → geometryFault s q (createdQp e) = none → ∃ t, exec (.createQp) s = .next t ∧
   t = entryDone 0 e.idx 0 q 0 (s.setQp q (createdQp e))) ∧
  (∀ (s : State) (e : QEntry) (q : Nat), destroyEntry s false = some (e, q) → q ≠ 0 → (s.qp q).st ≠ 0 → (s.qp q).fetch = none →
   (s.qp q).out = [] → ∃ t, exec (.destroyQpAbort) s = .next t ∧ t = entryDone 0 e.idx 0 0 0 (abortQp q s)) ∧
  (∀ (s : State) (e : QEntry) (q : Nat), destroyEntry s true = some (e, q) → q ≠ 0 → (s.qp q).st ≠ 0 → ∃ t,
   exec (.destroyQpDrain) s = .next t ∧ t = entryDone 0 e.idx 0 0 0 (s.setQp q { s.qp q with st := 2 })) ∧
  (∀ (s : State) (q : Nat), (s.qp q).st = 2 → (s.qp q).infl = 0 → ∃ t, exec (.drainIdle q) s = .next t ∧ t = s.setQp q Qp.reset ∧
   (t.qp q).st = 0) ∧
  (∀ (s : State) (e : QEntry) (q : Nat), readyOp s 0 4 = some e → q = e.fld 6 2 % 1024 → (s.qp q).st ≠ 0 → ∃ t,
   exec (.queryQp) s = .next t ∧
   t = entryDone 0 e.idx 0 (s.qp q).stat.toNat ((s.qp q).head + (s.qp q).written % 2 ^ (s.qp q).cqlog * 65536) s) ∧
  (∀ (s : State) (q : Nat) (data : List Byte) (e : QEntry) (a : BufAns), s.halted = false → s.up islBPM = true →
   s.up islPRS = true → (s.qp q).out.find? (·.bufWait) = some e →
   s.bpm.answers.find? (fun b => decide (b.owner = 9 + (s.qp q).group)) = some a → a.status ≠ 2 → ∃ t,
   exec (.hostSend q data) s = .next t ∧
   t = sendFrame q e a.handle (sendData s e data) { s with bpm.answers := s.bpm.answers.erase a }) ∧
  (∀ (s : State) (q : Nat) (e : QEntry), readyOp s q 17 = some e → (e.pkm || s.hostPcie) = true → ∃ t, exec (.recv q) s = .next t ∧
   t = setEntry q e.idx (fun e => { e with posted := true }) s) ∧
  (∀ (s : State) (q : Nat) (e : QEntry), readyOp s q 16 = some e → (s.qp q).out.find? (·.bufWait) = none → e.pkm = false →
   e.bufWait = false → e.pkt = none → ∃ t, exec (.sendDataError q) s = .next t ∧
   t = entryDone q e.idx 5 0 0 (s.bump R.HIF_CNT_DMAERR)) ∧
  (∀ (s : State) (a : Agent) (v : Word), v.getLsbD 31 = true → s.flag R.HIF_AQ_CFG_EN = false → reaches a R.HIF_AQ_CFG v s = true →
   v &&& 0x7FFFFE00 = 0 →
   geometryFault (s.wr R.HIF_AQ_CFG v) 0 { Qp.reset with st := 1, ringsp := v.getLsbD 8, sqlog := wget v 0 4, cqlog := wget v 4 4, sqbase := s.rd64 R.HIF_AQ_SQBASE_LO, cqbase := s.rd64 R.HIF_AQ_CQBASE_LO } = none →
   ∃ t, exec (.adminQueueEnable a v) s = .next t ∧ t.flag R.HIF_AQ_CFG_EN = true ∧ (t.qp 0).st = 1) ∧
  (∀ (s : State) (a : Agent) (v : Word), v.getLsbD 31 = false → s.flag R.HIF_AQ_CFG_EN = true → reaches a R.HIF_AQ_CFG v s = true →
   v &&& 0x7FFFFE00 = 0 → ∃ t, exec (.adminQueueDisable a v) s = .next t ∧ t = (abortQp 0 s).set R.HIF_AQ_CFG_EN 0)

/-- O26. What the host's links, its flash commands and its direct accesses do. A function-level reset, a change of bus mastering and a
  trained link act on the function's state; a flash command is busy until it is done; an unsupported AtomicOp is counted and changes
  nothing else, and a FetchAdd on a lock counter adds; BAR2 reads and writes reach packet memory; the QSPI port reads SYS_ID, and a
  transaction ends when QSPI_CSN rises. (01_device_overview.md R40, 16_host_interface_rings.md R581, 16_host_interface_rings.md R582,
  16_host_interface_rings.md R584, 16_host_interface_rings.md R585, 16_host_interface_rings.md R589, 16_host_interface_rings.md R623,
  16_host_interface_rings.md R626) -/
def Obligations.HostPortCommandsComplete : Prop :=
  (∀ (s : State) (up : Bool), s.up islHIF = true → s.hostPcie = true → s.flag R.HIF_STAT_LINKUP = true → ∃ t,
   exec (.functionLevelReset up) s = .next t ∧ t = functionReset up s ∧ t.hif.qps = []) ∧
  (∀ (s : State) (bme d3 : Bool), s.up islHIF = true → s.hostPcie = true → s.flag R.HIF_STAT_LINKUP = true → ∃ t,
   exec (.busMasterChange bme d3) s = .next t ∧ t.hif.bme = bme ∧ t.hif.d3hot = d3) ∧
  (∀ (s : State) (speed width : Nat), s.up islHIF = true → s.hostPcie = true → s.flag R.CLK_STAT_HIFPLL_LOCK = true → 1 ≤ speed →
   speed ≤ 3 → 1 ≤ width → width ≤ 2 → ∃ t, exec (.pcieLinkUp speed width) s = .next t ∧ t.flag R.HIF_STAT_LINKUP = true ∧
   t.get R.HIF_STAT_SPEED = speed ∧ t.get R.HIF_STAT_WIDTH = width) ∧
  (∀ (s : State) (a : Agent) (v : Word), v.getLsbD 31 = true → isHost a = true → reaches a R.HIF_XSPI_CTL v s = true →
   v &&& 0x7C000000 = 0 → wget v 9 2 ≠ 3 → wget v 16 9 ≤ 256 → s.flag R.HIF_XSPI_STAT_BUSY = false → ∃ t,
   exec (.xspiGo a v) s = .next t ∧ (flashBusy s = true → t.flag R.HIF_XSPI_STAT_REFUSED = true) ∧
   (flashBusy s = false → t.flag R.HIF_XSPI_STAT_BUSY = true) ∧ t.rd R.HIF_XSPI_CTL = v &&& 0x03FFFFFF) ∧
  (∀ (s : State) (data : List Byte), s.flag R.HIF_XSPI_STAT_BUSY = true → (s.rd R.HIF_XSPI_CTL).getLsbD 25 = true → ∃ t,
   exec (.xspiCmdDone data) s = .next t ∧ t.flag R.HIF_XSPI_STAT_BUSY = false ∧
   t.out = s.out ++ [.xspi (s.rd R.HIF_XSPI_CTL) (s.rd R.HIF_XSPI_ADDR) (xspiBuf s (wget (s.rd R.HIF_XSPI_CTL) 16 9))]) ∧
  (∀ (s : State) (add32 bar0 : Bool) (off : Nat) (v : Word), s.up islHIF = true → s.hostPcie = true →
   s.flag R.HIF_STAT_LINKUP = true → s.hif.d3hot = false → s.bar0 = true → (add32 && bar0) = false → ∃ t,
   exec (.atomicOp add32 bar0 off v) s = .next t ∧ t = s.bump R.HIF_CNT_UR) ∧
  (∀ (s : State) (off k : Nat) (v : Word), s.up islHIF = true → s.hostPcie = true → s.flag R.HIF_STAT_LINKUP = true →
   s.hif.d3hot = false → s.bar0 = true → k < 128 → off = R.LCK_CTR 0 + 4 * k → ∃ t, exec (.atomicOp true true off v) s = .next t ∧
   t = addLoad .host k v s) ∧
  (∀ (s : State) (off : Nat) (data : List Byte), decodes .host s = true → pktOpen s = true → s.role < 2 →
   off + data.length ≤ 0xD00000 → (List.range data.length).any (fun j => foreignByte s (off + j)) = false → ∃ t,
   exec (.hostBar2Write off data .host) s = .next t ∧ t = s.setPkt (s.pkt.wrBytes off data)) ∧
  (∀ (s : State) (off len : Nat), decodes .host s = true → s.sys.resetting = false → ∃ t,
   exec (.hostBar2Read off len .host) s = .next t ∧ t.hif.rdata = (bar2Read off len s).1 ∧
   (pktOpen s = false → t.hif.rdata = List.replicate len 0) ∧ t.pkt = s.pkt) ∧
  (∀ (s : State) (addr : Nat), qspiRuns s = true → s.hif.qspi = none → addr / 2 ^ 28 % 16 = 2 → ∃ t,
   exec (.qspiRead addr 1) s = .next t ∧ t.out = s.out ++ [.qspi [0]]) ∧
  (∀ (s : State) (addr : Nat), qspiRuns s = true → s.hif.qspi = none → addr / 2 ^ 28 % 16 = 1 → pktOpen s = false → ∃ t,
   exec (.qspiRead addr 1) s = .next t ∧ t.out = s.out ++ [.qspi [0]]) ∧
  (∀ (s : State) (addr : Nat) (data : List Byte), qspiRuns s = true → s.hif.qspi = none → data.length < 4 → ∃ t,
   exec (.qspiWrite addr data) s = .next t ∧ t = { s with hif.qspi := some ⟨true, addr, data⟩ }) ∧
  (∀ (s : State) (addr : Nat) (data : List Byte), qspiRuns s = true → s.hif.qspi = none → data.length = 4 →
   addr / 2 ^ 28 % 16 = 1 → addr % 4 = 0 → addr % 2 ^ 24 + 4 ≤ 0xD00000 → decodes .host s = true → pktOpen s = true → s.role < 2 →
   (List.range 4).any (fun j => foreignByte s (addr % 2 ^ 24 + j)) = false → ∃ t, exec (.qspiWrite addr data) s = .next t ∧
   t.pkt = s.pkt.wrBytes (addr % 2 ^ 24) data) ∧
  (∀ (s : State), qspiRuns s = true → s.hif.qspi = none → ∃ t, exec (.qspiId) s = .next t ∧
   t.out = s.out ++ [.qspi [s.rd R.SYS_ID]]) ∧
  (∀ (s : State), qspiRuns s = true → ∃ t, exec (.qspiCsnRise) s = .next t ∧ t = { s with hif.qspi := none })

/-- O27. What a source's read, software notices, route writes and an unmasked vector do. A read of a source returns its sticky bit and
  its level and clears the sticky bit; a software raise crosses the notices whose bits are 1; a route takes the value written, and a
  source found enabled with its sticky bit set is delivered; clearing a vector's mask unmasks it and sends what was pending.
  (17_notices_interrupts.md R630, 17_notices_interrupts.md R634, 17_notices_interrupts.md R636, 17_notices_interrupts.md R640) -/
def Obligations.NoticeCommandsComplete : Prop :=
  (∀ (s : State) (a : Agent) (n : Nat), n < 96 → readable a (R.EVT_SRC n) s = true → ∃ t,
   exec (.noticeSourceRead a n) s = .next t ∧
   t = readDone a (R.EVT_SRC n) (BitVec.ofNat 32 (s.get (stickyFld n) + 2 * b2n (levelOf s n)), s.set (stickyFld n) 0)) ∧
  (∀ (s : State) (a : Agent) (v : Word), reaches a R.EVT_SWRAISE v s = true → v &&& 0xFFFFFF00 = 0 → ∃ t,
   exec (.softwareRaise a v) s = .next t ∧ t = (List.range 8).foldl (fun u k => if v.getLsbD k then crossing (88 + k) u else u) s) ∧
  (∀ (s : State) (a : Agent) (n : Nat) (v : Word), n < 96 → reaches a (R.EVT_ROUTE n) v s = true → v &&& 0x88C080F8 = 0 →
   (wget v 1 2 = 0 → wget v 8 7 < 96) → (wget v 1 2 = 1 → wget v 16 6 < 48) → wget v 1 2 ≠ 3 → ∃ t,
   exec (.routeEnableWrite a n v) s = .next t ∧
   ((s.flag (R.EVT_ROUTE_EN n) = true ∨ v.getLsbD 0 = false ∨ s.flag (stickyFld n) = false) → t = s.wr (R.EVT_ROUTE n) v) ∧
   (s.flag (R.EVT_ROUTE_EN n) = false → v.getLsbD 0 = true → s.flag (stickyFld n) = true → t = deliver n (s.wr (R.EVT_ROUTE n) v))) ∧
  (∀ (s : State) (addr data : Nat), s.up islHIF = true → s.hostPcie = true → s.flag R.HIF_STAT_LINKUP = true →
   s.hif.d3hot = false → ∃ t, exec (.msixUnmask none addr data) s = .next t ∧ t.hif.fmask = false ∧ t.hif.msixEn = true) ∧
  (∀ (s : State) (k addr data : Nat), s.up islHIF = true → s.hostPcie = true → s.flag R.HIF_STAT_LINKUP = true →
   s.hif.d3hot = false → k < 96 → ∃ t, exec (.msixUnmask (some k) addr data) s = .next t ∧
   mget (fun _ => true) t.hif.vmask k = false ∧ t.hif.fmask = s.hif.fmask)

/-- O28. What audio channels, the media clock, listeners, capture and talkers do. A position written moves WPOS, arming and disabling a
  channel set and clear EN, position reads answer the position, the media clock's lock and loss show LOCK and HOLD with their causes, an
  edge word reaches its channel, a listener's loss shows in its bits, a talker that is enabled restarts its rings, a TDM frame and a
  loss of sync act on their port, and an internal sample advances AUD. (18_audio_path.md R654, 18_audio_path.md R658, 18_audio_path.md
  R659, 18_audio_path.md R665, 18_audio_path.md R667, 18_audio_path.md R669, 18_audio_path.md R670, 18_audio_path.md R673,
  18_audio_path.md R685, 18_audio_path.md R943) -/
def Obligations.AudioCommandsComplete : Prop :=
  (∀ (s : State) (a : Agent) (c : Nat) (v : Word), c < 16 → reaches a (R.AUD_CH_WPOS c) v s = true → ∃ t,
   exec (.wposWrite a c v) s = .next t ∧ t.rd (R.AUD_CH_WPOS c) = v) ∧
  (∀ (s : State) (a : Agent) (c : Nat), c < 16 → reaches a (R.AUD_CH_CTL c) 1 s = true → ∃ t, exec (.channelArm a c) s = .next t ∧
   t.flag (R.AUD_CH_CTL_EN c) = true ∧
   (s.flag (R.AUD_CH_CTL_EN c) = false → (t.ach c).armed = true ∧ t.flag (R.AUD_CH_STAT_PLAYING c) = false)) ∧
  (∀ (s : State) (a : Agent) (c : Nat), c < 16 → reaches a (R.AUD_CH_CTL c) 0 s = true → ∃ t,
   exec (.channelDisable a c) s = .next t ∧ t.flag (R.AUD_CH_CTL_EN c) = false ∧
   (s.flag (R.AUD_CH_CTL_EN c) = true → (t.ach c).stopping = true)) ∧
  (∀ (s : State) (a : Agent) (c : Nat), c < 16 → readable a (R.AUD_CH_RPOS c) s = true → ∃ t, exec (.rposRead a c) s = .next t ∧
   t = readDone a (R.AUD_CH_RPOS c) (rposRead a c s)) ∧
  (∀ (s : State) (a : Agent) (v : Word), audRuns s = true → reaches a R.AUD_DPLL_CRF v s = true → s.get R.AUD_DPLL_CFG_SRC = 1 →
   s.aud.pred = none → ∃ t, exec (.crfTimestamp a v) s = .next t ∧
   t.aud.pred = some ((v.toNat + crfInterval (dpllTrack s)) % 2 ^ 32) ∧ t.aud.discards = 0) ∧
  (∀ (s : State), audRuns s = true → s.get R.AUD_DPLL_CFG_SRC ≠ 0 → s.flag R.AUD_DPLL_STAT_HOLD = false → ∃ t,
   exec (.dpllReferenceTimeout) s = .next t ∧ t.flag R.AUD_DPLL_STAT_HOLD = true ∧ t.flag R.AUD_DPLL_STAT_LOCK = false ∧
   t.get R.AUD_NSTAT_UNLOCK = 1) ∧
  (∀ (s : State), audRuns s = true → s.get R.AUD_DPLL_CFG_SRC ≠ 0 → s.flag R.AUD_DPLL_STAT_HOLD = false →
   s.flag R.AUD_DPLL_STAT_LOCK = false → srcIsMaster s = false → (sint (s.rd R.AUD_DPLL_PHERR)).natAbs < 100 → ∃ t, exec (.dpllLock) s = .next t ∧
   t.flag R.AUD_DPLL_STAT_LOCK = true ∧ t.get R.AUD_NSTAT_LOCK = 1) ∧
  (∀ (s : State), audRuns s = true → s.flag R.AUD_DPLL_STAT_LOCK = true → ∃ t, exec (.dpllLockLoss) s = .next t ∧
   t.flag R.AUD_DPLL_STAT_LOCK = false ∧ t.get R.AUD_NSTAT_UNLOCK = 1) ∧
  (∀ (s : State) (c : Nat) (w : Option Nat), audRuns s = true → c < 16 → modPanel (s.ach c) ≠ none → ∃ t,
   exec (.fabricEdgeWord c w) s = .next t ∧ (t.ach c).fab = w) ∧
  (∀ (s : State) (a : Agent) (n : Nat), n < 32 → reaches a (R.AUD_LW_SEEN n) 1 s = true → ∃ t,
   exec (.listenerSeen a n) s = .next t ∧ t.flag ⟨R.AUD_LW_STAT, n, 1⟩ = false ∧
   mget (fun _ => false) t.aud.watch n = mget (fun _ => false) s.aud.lwSet n) ∧
  (∀ (s : State) (n : Nat), audRuns s = true → n < 32 → mget (fun _ => false) s.aud.watch n = true →
   s.get (R.AUD_LW_CFG_TIMEOUT n) ≠ 0 → s.flag ⟨R.AUD_LW_STAT, n, 1⟩ = false → ∃ t, exec (.listenerTimeout n) s = .next t ∧
   t.flag ⟨R.AUD_LW_STAT, n, 1⟩ = true ∧ t.flag ⟨R.AUD_LW_LOSS, n, 1⟩ = true ∧ t.get R.AUD_NSTAT_LSTNLOSS = 1) ∧
  (∀ (s : State) (a : Agent) (k : Nat), k < 16 → readable a (R.AUD_CAP_WPOS k) s = true → ∃ t,
   exec (.captureWposRead a k) s = .next t ∧ t = readDone a (R.AUD_CAP_WPOS k) (capWposRead a k s)) ∧
  (∀ (s : State) (a : Agent) (k : Nat), k < 8 → s.flag (R.AUD_TALK_CFG_EN k) = false →
   reaches a (R.AUD_TALK_CFG k) (s.rd (R.AUD_TALK_CFG k) ||| 0x80000000) s = true → talkOneRate s k = true → ∃ t,
   exec (.talkerEnable a k) s = .next t ∧ t.flag (R.AUD_TALK_CFG_EN k) = true ∧ talkPosOf t k = 0 ∧ talkSeqOf t k = 0) ∧
  (∀ (s : State) (a : Agent) (k : Nat), k < 8 → readable a (R.AUD_TALK_NEXT k) s = true → ∃ t,
   exec (.talkerNextRead a k) s = .next t ∧ t = readDone a (R.AUD_TALK_NEXT k) (talkNext k s)) ∧
  (∀ (s : State) (p bclks : Nat) (slots : List Word), 1 ≤ p → p < 4 → s.sys.resetting = false → audRuns s = true →
   s.flag (R.AUD_TDM_CFG_EN p) = true → s.follower = false → ∃ t, exec (.tdmFrame p bclks slots) s = .next t ∧
   t = tdmSend p (tdmReceive p bclks slots s)) ∧
  (∀ (s : State) (p : Nat), 1 ≤ p → p < 4 → s.sys.resetting = false → audRuns s = true → s.flag (R.AUD_TDM_CFG_EN p) = true →
   s.flag (R.AUD_TDM_CFG_MASTER p) = false → s.flag (R.AUD_TDM_STAT_SYNC p) = true → ∃ t, exec (.tdmSyncLoss p) s = .next t ∧
   t.flag (R.AUD_TDM_STAT_SYNC p) = false ∧ t.get R.AUD_NSTAT_TDMLOSS = 1) ∧
  (∀ (s : State) (sense : List (Nat × Nat)), audRuns s = true → safeListens s = false → ∃ t,
   exec (.internalSample sense) s = .next t ∧ t = audSample sense s)

/-- O29. What the SAFE block's commands and the end of an announcement do. While SAFE owns the channels, an acceptable TONE, a CLIP of a
  clip present and an e-call command start what they name with the operands' index, attenuation and channels, STOP ends the
  announcement, and the announcement that has played its repeats ends. (18_audio_path.md R690, 18_audio_path.md R691, 18_audio_path.md
  R692, 18_audio_path.md R693, 18_audio_path.md R694, 18_audio_path.md R695, 05_power_states.md R184) -/
def Obligations.SafeServiceCommandsComplete : Prop :=
  (∀ (s : State) (data : List Byte), safeListens s = true → s.pstate ≠ 5 → safeAccepts s (1 :: data) = true → safeOwns s = true →
   ∃ t, exec (.safeTone data) s = .next t ∧ t.safe.ann = .tone ∧ t.safe.index = (data.getD 0 0).toNat ∧
   t.safe.atten = (data.getD 1 0).toNat ∧ t.safe.mask = (data.getD 2 0).toNat % 16 ∧ t.safe.left = (data.getD 3 0).toNat ∧
   t.safe.pos = 0) ∧
  (∀ (s : State) (data : List Byte) (pcm : List Nat), safeListens s = true → s.pstate ≠ 5 → safeAccepts s (2 :: data) = true →
   safeOwns s = true → s.safe.ann ≠ .tone → clipPcm s (data.getD 0 0).toNat = some pcm → ∃ t, exec (.safeClip data) s = .next t ∧
   t.safe.ann = .clip ∧ t.safe.index = (data.getD 0 0).toNat ∧ t.safe.clipLen = pcm.length ∧ t.safe.pos = 0) ∧
  (∀ (s : State) (data : List Byte), safeListens s = true → s.pstate ≠ 5 → safeAccepts s (3 :: data) = true → safeOwns s = true →
   ∃ t, exec (.ecallStart data) s = .next t ∧ t.safe.ecall = true ∧ t.flag R.SAFE_STAT_ECALL = true ∧ t.get R.SAFE_NSTAT_ECALL = 1) ∧
  (∀ (s : State) (data : List Byte), safeListens s = true → s.pstate ≠ 5 → safeAccepts s (4 :: data) = true → safeOwns s = true →
   ∃ t, exec (.ecallStop data) s = .next t ∧ t.safe.ecall = false ∧ t.flag R.SAFE_STAT_ECALL = false ∧ t.get R.SAFE_NSTAT_ECALL = 1) ∧
  (∀ (s : State) (data : List Byte), safeListens s = true → s.pstate ≠ 5 → safeAccepts s (5 :: data) = true → safeOwns s = true →
   ∃ t, exec (.safeStop data) s = .next t ∧ t.safe.ann = .none ∧ t.safe.left = 0 ∧ t.flag R.SAFE_STAT_ANN = false) ∧
  (∀ (s : State), s.safe.ann ≠ .none → s.safe.left = 0 → annLength s ≤ s.safe.pos → ∃ t, exec (.announcementEnd) s = .next t ∧
   t.safe.ann = .none ∧ t.flag R.SAFE_STAT_ANN = false)

/-- O30. What faults, latch clears, battery readings, the output-disable's end and ownership do. A fault that the device acts on latches
  its channel with every gate of the faulted leg low, at once in both legs for a hard overcurrent, both overcurrents or a shoot-through;
  the second leg turns off; a keyed clear with quiet inputs unlatches; a reading shows in SUP_VBAT; the output-disable ends with REFCLK
  and the PLL; ownership is taken after its grant. (19_power_stage_protection.md R712, 19_power_stage_protection.md R713,
  19_power_stage_protection.md R714, 19_power_stage_protection.md R715, 19_power_stage_protection.md R718, 19_power_stage_protection.md
  R719, 19_power_stage_protection.md R721, 19_power_stage_protection.md R724, 19_power_stage_protection.md R725,
  19_power_stage_protection.md R728, 19_power_stage_protection.md R732) -/
def Obligations.PowerStageCommandsComplete : Prop :=
  (∀ (s : State) (c tt also : Nat) (la lb : Bool), actsOn s c = true → latched s c = false →
   ((la && outsideBlank (s.pch c) false tt) || (lb && outsideBlank (s.pch c) true tt)) = true → ∃ t,
   exec (.overcurrentDetect c la lb tt also) s = .next t ∧ t.flag (R.PWS_CH_STAT_LATCHED c) = true ∧ (t.pch c).drive = 0 ∧
   ((la && outsideBlank (s.pch c) false tt) = true → (lb && outsideBlank (s.pch c) true tt) = true → (t.pch c).second = none)) ∧
  (∀ (s : State) (c tt also : Nat), actsOn s c = true → latched s c = false → ∃ t, exec (.hocAssert c tt also) s = .next t ∧
   t.flag (R.PWS_CH_STAT_LATCHED c) = true ∧ (t.pch c).drive = 0 ∧ (t.pch c).second = none ∧ t.flag (R.PWS_CH_STAT_HOC c) = true) ∧
  (∀ (s : State) (c g tt also : Nat), actsOn s c = true → latched s c = false → g < 4 → ∃ t,
   exec (.gateMismatch c g tt also) s = .next t ∧ t.flag (R.PWS_CH_STAT_LATCHED c) = true ∧ (t.pch c).drive = 0 ∧
   ((t.pch c).second.map (·.1)) = some (decide (g < 2))) ∧
  (∀ (s : State) (c tt also : Nat) (b : Bool), actsOn s c = true → latched s c = false → ∃ t,
   exec (.shootThrough c b tt also) s = .next t ∧ t.flag (R.PWS_CH_STAT_LATCHED c) = true ∧ (t.pch c).drive = 0 ∧
   (t.pch c).second = none) ∧
  (∀ (s : State) (c : Nat), (s.pch c).second ≠ none → ∃ t, exec (.secondLegTurnoff c) s = .next t ∧ t = gatesLow c s ∧
   (t.pch c).second = none ∧ (t.pch c).drive = 0) ∧
  (∀ (s : State) (a : Agent) (v : Word) (quiet : Nat), reaches a R.PWS_CLR v s = true → wget v 24 8 = 0x5A → ∃ t,
   exec (.latchClear a v quiet) s = .next t ∧
   t = ((List.range 16).filter fun c => v.getLsbD c).foldl (clearOne quiet) (s.set R.PWS_CLRSTAT_REFUSED 0)) ∧
  (∀ (s : State) (mv : Nat), s.sys.resetting = false → ∃ t, exec (.vbatReading mv) s = .next t ∧
   t.get R.SUP_VBAT_MV = min mv 43200 ∧ t.get R.SUP_VBAT_SEQ = (s.get R.SUP_VBAT_SEQ + 1) % 2 ^ R.SUP_VBAT_SEQ.w ∧
   t.get R.SUP_VBAT_MIN_MV = min (s.get R.SUP_VBAT_MIN_MV) (min mv 43200) ∧ (32000 < mv → t.pws.hold = true)) ∧
  (∀ (s : State), s.flag R.CLK_STAT_REFCLK_OK = true → s.flag R.CLK_STAT_AUDPLL_LOCK = true →
   (s.pws.disRef || s.pws.disPll) = true → ∃ t, exec (.outputDisableEnd) s = .next t ∧
   t = audRelock (disableShow { s with pws.disRef := false, pws.disPll := false })) ∧
  (∀ (s : State), s.pws.grant = true → s.up islPWS = true → s.pstate ≠ 5 → ∃ t, exec (.ownershipTake) s = .next t ∧
   t.flag R.PWS_STAT_OWNER = true ∧ t.pws.grant = false)

/-- O31. What trims, windows, stuck streams and result reads do. A keyed request puts the named channels' trims in the pending state and
  a keyed cancel ends them; a pending trim starts after 9,600 silent samples, is done after 3,840 sums with the mean as the offset, and
  fails at its deadline; a window's end publishes its results with a new SEQ; a stuck stream shows SENSEFAIL; a read of SEQ captures the
  channel's results for its agent. (20_live_calibration.md R742, 20_live_calibration.md R745, 20_live_calibration.md R746,
  20_live_calibration.md R748, 20_live_calibration.md R753, 20_live_calibration.md R754, 20_live_calibration.md R755,
  20_live_calibration.md R757) -/
def Obligations.CalibrationCommandsComplete : Prop :=
  (∀ (s : State) (a : Agent) (v : Word), isHost a = true → wget v 24 8 = 0x5A → reaches a R.CAL_TRIM v s = true → ∃ t,
   exec (.trimRequest a v) s = .next t ∧ t = ((List.range 16).filter fun c => v.getLsbD c).foldl (trimOne v) s) ∧
  (∀ (s : State) (a : Agent) (v : Word), isHost a = true → wget v 24 8 = 0xC5 → reaches a R.CAL_TRIM v s = true → ∃ t,
   exec (.trimCancel a v) s = .next t ∧ t = ((List.range 16).filter fun c => v.getLsbD c).foldl (trimOne v) s) ∧
  (∀ (s : State) (c : Nat), audRuns s = true → c < 16 → s.get (R.CAL_CH_STAT_TRIM c) = 1 → 9600 ≤ (s.cch c).silent → ∃ t,
   exec (.trimStart c) s = .next t ∧ (t.get (R.CAL_CH_STAT_TRIM c)) = 2 ∧ (t.cch c).n = 0 ∧ (t.cch c).sumI = 0 ∧ (t.cch c).sumV = 0) ∧
  (∀ (s : State) (c : Nat), audRuns s = true → c < 16 → s.get (R.CAL_CH_STAT_TRIM c) = 2 → 3840 ≤ (s.cch c).n → ∃ t,
   exec (.trimDone c) s = .next t ∧ (t.get (R.CAL_CH_STAT_TRIM c)) = 3 ∧
   t.get (R.CAL_CH_OFS_I c) = sat16 ((s.cch c).sumI / 983040) ∧ t.get (R.CAL_CH_OFS_V c) = sat16 ((s.cch c).sumV / 983040) ∧
   t.get R.CAL_NSTAT_TRIM = 1) ∧
  (∀ (s : State) (c : Nat), s.up islAUD = true → c < 16 → (s.cch c).deadline = true →
   (s.get (R.CAL_CH_STAT_TRIM c) = 1 ∨ s.get (R.CAL_CH_STAT_TRIM c) = 2) → ∃ t, exec (.trimDeadline c) s = .next t ∧
   (t.get (R.CAL_CH_STAT_TRIM c)) = 4 ∧ t.get R.CAL_NSTAT_TRIM = 1) ∧
  (∀ (s : State) (c gain qual di dv zlo zhi : Nat), audRuns s = true → c < 16 → (s.cch c).ended = true →
   s.flag R.CAL_CTL_EN = true → ∃ t, exec (.calWindowEnd c gain qual di dv zlo zhi) s = .next t ∧
   t.get (R.CAL_CH_GAIN_GAIN c) = gain % 2 ^ (R.CAL_CH_GAIN_GAIN c).w ∧ t.flag (R.CAL_CH_SEQ_VALID c) = true ∧
   t.get (R.CAL_CH_SEQ_SEQ c) = (s.get (R.CAL_CH_SEQ_SEQ c) + 1) % 2 ^ (R.CAL_CH_SEQ_SEQ c).w ∧ t.get R.CAL_NSTAT_RESULT = 1) ∧
  (∀ (s : State) (c : Nat) (v : Bool), audRuns s = true → c < 16 → ∃ t, exec (.senseStuck c v) s = .next t ∧
   t.flag (R.CAL_CH_STAT_SENSEFAIL c) = true ∧ ((t.cch c).stuckV = (v || (s.cch c).stuckV)) ∧
   ((t.cch c).stuckI = (!v || (s.cch c).stuckI))) ∧
  (∀ (s : State) (a : Agent) (c : Nat), c < 16 → readable a (R.CAL_CH_SEQ c) s = true → ∃ t, exec (.calSeqRead a c) s = .next t ∧
   t = readDone a (R.CAL_CH_SEQ c) (s.rd (R.CAL_CH_SEQ c), { s with cal.cap := mput (fun _ => []) s.cal.cap (agentId a * 16 + c) (calResults s c) }))

/-- O32. What zone readings, the sensor bus and the fans do. A die reading and the decoded bytes of a sensor read update their zone, an
  unreadable one counts towards its fault; a recovery counts and raises its cause, and three failures fail the bus; a keyed restart
  brings a failed bus back; every fan's update shows its speed; a stalled fan runs at full duty. (21_thermal_fans.md R764,
  21_thermal_fans.md R767, 21_thermal_fans.md R768, 21_thermal_fans.md R770, 21_thermal_fans.md R771, 21_thermal_fans.md R774,
  21_thermal_fans.md R779) -/
def Obligations.ThermalCommandsComplete : Prop :=
  (∀ (s : State) (z : Nat) (c : Int), s.sys.resetting = false → z < 4 → ∃ t, exec (.zoneReading z (.die c)) s = .next t ∧
   t = zoneUpdate z (some c) s ∧ t.get (R.THM_ZREAD_SEQ z) = (s.get (R.THM_ZREAD_SEQ z) + 1) % 2 ^ (R.THM_ZREAD_SEQ z).w) ∧
  (∀ (s : State) (z : Nat), s.sys.resetting = false → zoneOn s z = true → ∃ t, exec (.zoneReading z .failed) s = .next t ∧
   t = zoneUpdate z none s ∧ cntOf t.thm.bad z = cntOf s.thm.bad z + 1) ∧
  (∀ (s : State) (z : Nat) (d : List Byte) (c : Int), s.sys.resetting = false → 8 ≤ z → z < 12 → zoneOn s z = true →
   s.flag R.THM_SBUS_STAT_FAILED = false → sbusDecode s z d = some c → ∃ t, exec (.sbusRead z (some d)) s = .next t ∧
   t = zoneUpdate z (some c) { s with thm.sbusFails := mput (fun _ => 0) s.thm.sbusFails z 0 }) ∧
  (∀ (s : State) (z : Nat), s.sys.resetting = false → 8 ≤ z → z < 12 → zoneOn s z = true → s.flag R.THM_SBUS_STAT_FAILED = false →
   ∃ t, exec (.sbusRead z none) s = .next t ∧
   t = zoneUpdate z none { s with thm.sbusFails := mput (fun _ => 0) s.thm.sbusFails z (cntOf s.thm.sbusFails z + 1) }) ∧
  (∀ (s : State) (ok : Bool), s.sys.resetting = false → s.flag R.THM_SBUS_STAT_FAILED = false → ∃ t,
   exec (.sbusRecovery ok) s = .next t ∧ t.get R.THM_SBUS_STAT_RECOV = min 255 (s.get R.THM_SBUS_STAT_RECOV + 1) ∧
   t.get R.THM_NSTAT_RECOVER = 1) ∧
  (∀ (s : State) (a : Agent) (v : Word), isHost a = true → wget v 24 8 = 0x5A → s.flag R.THM_SBUS_STAT_FAILED = true →
   reaches a R.THM_SBUS_CMD v s = true → ∃ t, exec (.sbusRestart a v) s = .next t ∧ t.flag R.THM_SBUS_STAT_FAILED = false ∧
   t.thm.recovFails = []) ∧
  (∀ (s : State) (tach : List Nat), s.sys.resetting = false → ∃ t, exec (.fanUpdate tach) s = .next t ∧
   t = (List.range 4).foldl (fun u f => Machine.fanUpdate f (tach.getD f 0) u) s) ∧
  (∀ (s : State) (f : Nat), s.sys.resetting = false → f < 4 → 2000000000 ≤ s.now → s.flag (R.THM_FAN_CFG_TACHEN f) = true →
   s.flag (R.THM_FAN_STAT_STALL f) = false → ∃ t, exec (.fanStall f) s = .next t ∧ t.flag (R.THM_FAN_STAT_STALL f) = true ∧
   t.get (R.THM_FAN_STAT_DUTY f) = 1000 ∧ t.get (R.THM_FAN_RPM_RPM f) = 0 ∧ t.get ⟨R.THM_NSTAT, 24 + f, 1⟩ = 1)

/-- O33. What joining, leaving, the sidebands and the loss of a partner do. A keyed JOIN starts a join on an ALONE owner, DETACH makes a
  FOLLOWER leave and a LEADER tell its partner; PLY_ALIVE toggles while it runs; lanes come up, one is retired, and a lost link shows
  N34; strand B yields on contention and takes ownership on a formation timeout; a survivor is ALONE with the cause recorded; a verdict
  makes the strand at fault leave; each phase of a join ends in the next. (22_ply_pair.md R786, 22_ply_pair.md R791, 22_ply_pair.md
  R792, 22_ply_pair.md R812, 22_ply_pair.md R813, 22_ply_pair.md R816, 22_ply_pair.md R817, 22_ply_pair.md R818, 22_ply_pair.md R819,
  22_ply_pair.md R820) -/
def Obligations.PairRoleCommandsComplete : Prop :=
  (∀ (s : State) (a : Agent) (v : Word), wget v 24 8 = 0x5A → wget v 0 2 = 1 → reaches a R.PLY_CMD v s = true → s.role = 1 →
   joinPhase s = 0 → plyOwner s = true → ∃ t, exec (.plyJoin a v) s = .next t ∧ t = joinStart s ∧ joinPhase t = 1) ∧
  (∀ (s : State) (a : Agent) (v : Word), wget v 24 8 = 0x5A → wget v 0 2 = 2 → reaches a R.PLY_CMD v s = true → ∃ t,
   exec (.plyDetach a v false) s = .next t ∧ (s.follower = true → t = plyLeave s) ∧
   (s.leader = true → t.out = s.out ++ [.ply .detach])) ∧
  (∀ (s : State) (a : Agent) (v : Word), s.follower = true → ∃ t, exec (.plyDetach a v true) s = .next t ∧ t = plyLeave s ∧
   t.role = 1) ∧
  (∀ (s : State) (e : Bool), s.role ≠ 0 → s.up islPLY = true → aliveRuns s = true → ∃ t, exec (.plyAliveToggle e) s = .next t ∧
   t.ply.aliveOut = !s.ply.aliveOut ∧ (e = true → t.flag R.PLY_STAT_ALIVE_IN = true)) ∧
  (∀ (s : State) (n : Nat), s.role ≠ 0 → s.up islPLY = true → s.flag R.CLK_STAT_PLYPLL_LOCK = true → n ≠ 0 → ∃ t,
   exec (.plyLinkUp n) s = .next t ∧ t = s.set R.PLY_STAT_LANES (min n (2 - min 2 s.ply.retired))) ∧
  (∀ (s : State), s.role ≠ 0 → s.up islPLY = true → s.get R.PLY_STAT_LANES = 2 → ∃ t, exec (.plyLaneFail) s = .next t ∧
   t.get R.PLY_STAT_LANES = 1 ∧ t.ply.retired = 1) ∧
  (∀ (s : State), s.role ≠ 0 → s.up islPLY = true → s.get R.PLY_STAT_LANES ≠ 0 → ∃ t, exec (.plyLinkDown) s = .next t ∧
   t.get R.PLY_STAT_LANES = 0 ∧ t.get R.PLY_NSTAT_LINK = 1 ∧ ((1 ≤ joinPhase s ∧ joinPhase s ≤ 4) → t.get R.PLY_JOIN_STAT_ERR = 3)) ∧
  (∀ (s : State), s.get R.SYS_STRAP_PLYROLE = 2 → s.role ≠ 0 → plyOwner s = true → s.up islPLY = true → ∃ t, exec (.ownContention) s = .next t ∧
   t.get R.PLY_CAUSE_CAUSE = 4 ∧ t.get R.PLY_NSTAT_CONTEND = 1 ∧ t.role = 1 ∧ plyOwner t = false) ∧
  (∀ (s : State), s.get R.SYS_STRAP_PLYROLE = 2 → 1 ≤ s.stage → s.ply.aliveSeen = false → plyOwner s = false → s.role = 1 →
   s.up islPLY = true → ∃ t, exec (.formationTimeout false) s = .next t ∧ t = { s with pws.grant := true }) ∧
  (∀ (s : State) (h : Bool), s.role ≠ 0 → s.role ≠ 3 → s.up islPLY = true → s.halted = false →
   (h || s.flag R.PLY_STAT_ALIVE_IN) = true → ∃ t, exec (.partnerLoss h) s = .next t ∧
   t.get R.PLY_CAUSE_CAUSE = (if h then 2 else 1) ∧ t.role = 1 ∧ t.get R.PLY_NSTAT_LOSS = 1 ∧
   (plyOwner s = false → t.pws.grant = true)) ∧
  (∀ (s : State), 2 ≤ s.role → s.ply.verdict = some false → ∃ t, exec (.verdict (some true)) s = .next t ∧
   t = plyLeave { s with ply.verdict := none }) ∧
  (∀ (s : State) (x y : Bool), s.role ≠ 0 → s.up islPLY = true → joinPhase s = 0 → joinBegins s = true → ∃ t,
   exec (.joinPhaseDone (.check x y)) s = .next t ∧ t = joinStart s) ∧
  (∀ (s : State), s.role ≠ 0 → s.up islPLY = true → joinPhase s = 1 → s.get R.PLY_STAT_LANES ≠ 0 → plyOwner s = true → ∃ t,
   exec (.joinPhaseDone (.check true true)) s = .next t ∧ t = s.set R.PLY_JOIN_STAT_PHASE 2) ∧
  (∀ (s : State) (l : Nat) (late : Bool), s.role ≠ 0 → s.up islPLY = true → joinPhase s = 2 → ∃ t,
   exec (.joinPhaseDone (.copy l late)) s = .next t ∧ t = copyPass l late s) ∧
  (∀ (s : State) (img : CutState), s.role ≠ 0 → s.up islPLY = true → joinPhase s = 3 → plyOwner s = true → ∃ t,
   exec (.joinPhaseDone (.cutover img)) s = .next t ∧ t.role = 2 ∧ joinPhase t = 4) ∧
  (∀ (s : State), s.role ≠ 0 → s.up islPLY = true → joinPhase s = 4 → s.ply.settle = 0 → ∃ t,
   exec (.joinPhaseDone .settle) s = .next t ∧ joinPhase t = 5 ∧ t.get R.PLY_NSTAT_JOIN = 1)

/-- O34. What epoch boundaries, the log's records and admissions do. A boundary closes an epoch; a record that reaches the FOLLOWER
  joins its log, a battery reading, a TDM frame and a latch act at once, and END closes an epoch of which every record has come; a
  FOLLOWER asks for a frame and the LEADER answers; an unnamed frame is dropped; a packet at the head of its queue is admitted.
  (11_distaff_and_yarns.md R407, 11_distaff_and_yarns.md R410, 22_ply_pair.md R795, 22_ply_pair.md R796, 22_ply_pair.md R798,
  22_ply_pair.md R799, 22_ply_pair.md R805, 22_ply_pair.md R806, 22_ply_pair.md R808, 22_ply_pair.md R814) -/
def Obligations.PairLogCommandsComplete : Prop :=
  (∀ (s : State) (k : Nat) (n : Option Nat), s.role = 1 → s.up islPLY = true → 2 ≤ s.stage → s.ply.hostq = [] → ∃ t,
   exec (.epochBoundary k n) s = .next t ∧ t.ply.words = [] ∧ t.ply.periods = [] ∧ t.ply.faultPrev = s.ply.faultNow ∧
   t.ply.faultNow = false ∧ t.rd64 R.PLY_EPOCH_LO = (epochNow s + 1) % 2 ^ 64) ∧
  (∀ (s : State) (p l f ts : Nat) (r : List Byte), s.follower = true → s.up islPLY = true → ∃ t,
   exec (.logAdmit p l f r ts) s = .next t ∧ t = { s with ply.log := s.ply.log ++ [.admitted p l f r ts] }) ∧
  (∀ (s : State) (k : ReqKey) (n : Nat) (v : Word), s.follower = true → s.up islPLY = true → ∃ t,
   exec (.logAnswer k n v) s = .next t ∧ t = { s with ply.log := s.ply.log ++ [.answer k n v] }) ∧
  (∀ (s : State) (w : List Word), s.follower = true → s.up islPLY = true → ∃ t, exec (.logLearn w) s = .next t ∧
   t = { s with ply.log := s.ply.log ++ [.learn w] }) ∧
  (∀ (s : State) (x : HostAcc), s.follower = true → s.up islPLY = true → ∃ t, exec (.logHost x) s = .next t ∧
   t = { s with ply.log := s.ply.log ++ [.host x] }) ∧
  (∀ (s : State) (y q d m l : Nat) (f : Bool), s.follower = true → s.up islPLY = true → ∃ t,
   exec (.logClose y q d m l f) s = .next t ∧ t = { s with ply.log := s.ply.log ++ [.close y q d m l f] }) ∧
  (∀ (s : State) (v : Word), s.follower = true → s.up islPLY = true → ∃ t, exec (.logDpll v) s = .next t ∧
   t = { s with ply.log := s.ply.log ++ [.dpll v] }) ∧
  (∀ (s : State) (d : List Byte), s.follower = true → s.up islPLY = true → s.ply.asked = false → ∃ t,
   exec (.logBody d) s = .next t ∧ t = { s with ply.log := s.ply.log ++ [.body d] }) ∧
  (∀ (s : State) (e n d b x : Nat) (ds : List (Nat × Nat)), s.follower = true → s.up islPLY = true → s.ply.log = [] → n = 0 →
   s.ply.closed = [] → s.ply.hostq = [] → s.ply.digests = (d, x) :: ds → ∃ t, exec (.logEnd e n d b) s = .next t ∧
   t.ply.closed = [] ∧ t.ply.digests = ds ∧ t.clk.slewFx = max (-1000000) (min 1000000 ((b : Int) - (x : Int))) * 2 ^ 32) ∧
  (∀ (s : State) (mv q : Nat), s.follower = true → ∃ t, exec (.logVbat mv q) s = .next t ∧ t.ply.vbatNext = some mv ∧
   t.aud.vbat = s.ply.vbatNext.orElse (fun _ => s.aud.vbat)) ∧
  (∀ (s : State) (p : Nat) (w : List Word), s.follower = true → p < 4 → ∃ t, exec (.logTdm p w) s = .next t ∧ t = tdmLogged p w s) ∧
  (∀ (s : State) (c k : Nat) (x : Bool), plyOwner s = false → s.role ≠ 0 → c < 16 → ∃ t, exec (.logLatch c k x) s = .next t ∧
   t.flag (R.PWS_CH_STAT_LATCHED c) = !x) ∧
  (∀ (s : State) (p l f : Nat), s.follower = true → waitingAdmit s = some (p, l, f) → s.ply.asked = false → ∃ t,
   exec (.frameFetchRequest p l f) s = .next t ∧ t.ply.asked = true ∧ t.out = s.out ++ [.ply (.fetch p l f)]) ∧
  (∀ (s : State) (p l f : Nat) (d : List Byte), s.leader = true → keptFrame s l f = some d → ∃ t,
   exec (.frameFetchRequest p l f) s = .next t ∧ t.out = s.out ++ [.ply (.body d)]) ∧
  (∀ (s : State) (p tc i : Nat) (k : Pkt), s.follower = true → p < 9 → (admQueue s p tc)[i]? = some k → ∃ t,
   exec (.unnamedFrameDrop p tc i) s = .next t ∧
   t = dropPkt (R.PRT_CNT_HOLD p) k.handle (setAdm p tc ((admQueue s p tc).eraseIdx i) s)) ∧
  (∀ (s : State) (p tc c : Nat) (k : Pkt) (q : List Pkt), s.follower = false → admitOpen s = true → p ≠ 9 →
   admQueue s p tc = k :: q → admitCheck s k = .ok c → behindRefused s p tc k.yarn = false → ∃ t, exec (.packetAdmit p tc) s = .next t ∧
   t = admitPkt k c (setAdm p tc q s))

/-- O35. What test requests, slices, scrubs, marches, overruns and the BIST do. A request of a resource in service joins the queue with
  its deadline and completes at that deadline with status 3; a result read takes the head result; a window's end shows the idle shares;
  slices count towards a pass and a repeated miss retires the core; a scrub counts what it corrects and what it cannot; a march clears
  its segment; an overrun shows its bit; the end of the BIST shows what failed. (23_in_service_test.md R827, 23_in_service_test.md R828,
  23_in_service_test.md R829, 23_in_service_test.md R830, 23_in_service_test.md R831, 23_in_service_test.md R834, 23_in_service_test.md
  R836, 23_in_service_test.md R837, 23_in_service_test.md R842) -/
def Obligations.TestCommandsComplete : Prop :=
  (∀ (s : State) (a : Agent) (v : Word), isHost a = true → wget v 0 3 = 1 → reaches a R.IST_REQ v s = true → 2 ≤ s.stage →
   s.ist.reqs.length + s.ist.results.length < 16 → istInval s 1 (wget v 4 8) = false → istNotSvc s 1 (wget v 4 8) = false → ∃ t,
   exec (.istReqCore a v) s = .next t ∧
   t.ist.reqs = s.ist.reqs ++ [{ kind := 1, target := wget v 4 8, tag := wget v 12 4, at_ := s.tnow islIST, due := s.tnow islIST + (if wget v 16 16 = 0 then 1000 else wget v 16 16) * 1000000, did := [] }] ∧
   t.get R.IST_REQ_STAT_QUEUED = s.ist.reqs.length + 1 + s.ist.results.length) ∧
  (∀ (s : State) (a : Agent) (v : Word), isHost a = true → wget v 0 3 = 2 → reaches a R.IST_REQ v s = true → 2 ≤ s.stage →
   s.ist.reqs.length + s.ist.results.length < 16 → istInval s 2 (wget v 4 8) = false → istNotSvc s 2 (wget v 4 8) = false → ∃ t,
   exec (.istReqPanel a v) s = .next t ∧
   t.ist.reqs = s.ist.reqs ++ [{ kind := 2, target := wget v 4 8, tag := wget v 12 4, at_ := s.tnow islIST, due := s.tnow islIST + (if wget v 16 16 = 0 then 1000 else wget v 16 16) * 1000000, did := [] }] ∧
   t.get R.IST_REQ_STAT_QUEUED = s.ist.reqs.length + 1 + s.ist.results.length) ∧
  (∀ (s : State) (a : Agent) (v : Word), isHost a = true → wget v 0 3 = 3 → reaches a R.IST_REQ v s = true → 2 ≤ s.stage →
   s.ist.reqs.length + s.ist.results.length < 16 → istInval s 3 (wget v 4 8) = false → istNotSvc s 3 (wget v 4 8) = false → ∃ t,
   exec (.istReqLink a v) s = .next t ∧
   t.ist.reqs = s.ist.reqs ++ [{ kind := 3, target := wget v 4 8, tag := wget v 12 4, at_ := s.tnow islIST, due := s.tnow islIST + (if wget v 16 16 = 0 then 1000 else wget v 16 16) * 1000000, did := [] }] ∧
   t.get R.IST_REQ_STAT_QUEUED = s.ist.reqs.length + 1 + s.ist.results.length) ∧
  (∀ (s : State) (a : Agent) (v : Word), isHost a = true → wget v 0 3 = 4 → reaches a R.IST_REQ v s = true → 2 ≤ s.stage →
   s.ist.reqs.length + s.ist.results.length < 16 → istInval s 4 (wget v 4 8) = false → istNotSvc s 4 (wget v 4 8) = false → ∃ t,
   exec (.istReqPool a v) s = .next t ∧
   t.ist.reqs = s.ist.reqs ++ [{ kind := 4, target := wget v 4 8, tag := wget v 12 4, at_ := s.tnow islIST, due := s.tnow islIST + (if wget v 16 16 = 0 then 1000 else wget v 16 16) * 1000000, did := [] }] ∧
   t.get R.IST_REQ_STAT_QUEUED = s.ist.reqs.length + 1 + s.ist.results.length) ∧
  (∀ (s : State) (a : Agent) (v : Word), isHost a = true → wget v 0 3 = 5 → reaches a R.IST_REQ v s = true → 2 ≤ s.stage →
   s.ist.reqs.length + s.ist.results.length < 16 → istInval s 5 (wget v 4 8) = false → istNotSvc s 5 (wget v 4 8) = false → ∃ t,
   exec (.istReqScrub a v) s = .next t ∧
   t.ist.reqs = s.ist.reqs ++ [{ kind := 5, target := wget v 4 8, tag := wget v 12 4, at_ := s.tnow islIST, due := s.tnow islIST + (if wget v 16 16 = 0 then 1000 else wget v 16 16) * 1000000, did := [] }] ∧
   t.get R.IST_REQ_STAT_QUEUED = s.ist.reqs.length + 1 + s.ist.results.length) ∧
  (∀ (s : State) (i : Nat) (r : IstReq), s.ist.reqs[i]? = some r → r.due ≤ s.tnow islIST → ∃ t,
   exec (.istRequestDeadline i) s = .next t ∧ t.ist.reqs = s.ist.reqs.erase r ∧
   t.ist.results = s.ist.results ++ [istWord r.tag r.kind r.target 3] ∧ t.get R.IST_NSTAT_REQDONE = 1) ∧
  (∀ (s : State) (a : Agent), readable a R.IST_RES s = true → ∃ t, exec (.istResultRead a) s = .next t ∧
   t = readDone a R.IST_RES (istResRead s)) ∧
  (∀ (s : State) (shares : List Nat), istRuns s = true → ∃ t, exec (.idleWindowEnd shares) s = .next t ∧
   t = (List.range 48).foldl (fun u n => match shares[n]? with | some v => if inService u n then idleShare n (min v 1000) u else u | none => u) s) ∧
  (∀ (s : State) (n : Nat) (miss again : Bool), istRuns s = true → inService s n = true → s.halted = false →
   bitOf (s.get R.IST_CTL_EN) 1 = true → ∃ t, exec (.logicSliceEnd n miss again) s = .next t ∧
   t = (if miss && again then logicFault n s else sliceEnd n (if miss then s.bump R.IST_CNT_TRANS else s))) ∧
  (∀ (s : State) (r i ad : Nat) (st : Bool), istRuns s = true → scrubbed s r i ad = true → bitOf (s.get R.IST_CTL_EN) 0 = true →
   ∃ t, exec (.scrubRead r i ad .single st none) s = .next t ∧ t = correctedAt r i (s.bump R.IST_CNT_CORR)) ∧
  (∀ (s : State) (r i ad : Nat) (st : Bool), istRuns s = true → scrubbed s r i ad = true → bitOf (s.get R.IST_CTL_EN) 0 = true →
   ∃ t, exec (.scrubRead r i ad .double st none) s = .next t ∧
   t = sweepFault r (ownerAction r i ad (memFail r i ad false (s.bump R.IST_CNT_UNCORR)))) ∧
  (∀ (s : State) (i x g : Nat) (u : State), istRuns s = true → s.up islBPM = true → s.halted = false → s.follower = false → i < 8 →
   g < bufSegs s i → bitOf (s.get R.IST_CTL_EN) 2 = true → loanBuf i x s = some u → ∃ t,
   exec (.marchSegment i x g none) s = .next t ∧
   t = marched i x g false (loanReturn (bufKey i x) ((u.setPkt (u.pkt.clear (bufAddr u (bufKey i x) + 2048 * g) (min 2048 (poolSize u i - 2048 * g)))).bump R.IST_CNT_MARCH))) ∧
  (∀ (s : State) (rb : Bool), istRuns s = true → ∃ t, exec (.istLate rb) s = .next t ∧
   t.flag (if rb then R.IST_LATE_READBACK else R.IST_LATE_SCRUB) = true ∧ t.get R.IST_NSTAT_LATE = 1) ∧
  (∀ (s : State) (cores res : Nat), s.up islIST = true → s.get R.IST_BIST_STAT_STATE = 1 → ∃ t,
   exec (.bistDone cores res) s = .next t ∧ t.get R.IST_BIST_STAT_STATE = 2 ∧ t.rd R.IST_BIST_CORE_LO = BitVec.ofNat 32 cores ∧
   t.rd R.IST_BIST_RES = BitVec.ofNat 32 (res &&& bistMask) ∧ t.get R.IST_NSTAT_BIST = 1 ∧ t.pkt = [])

/-- O36. What journal writes, their commit, the scan, reads and the SAFE window do. An accepted write starts, busy and with the next
  sequence number; a commit writes its words and reports an agent's record; the scan counts the records and shows SCANDONE; a record
  read finds its record or reports that there is none, a slot read returns the slot; the window's first word is remembered, the second
  opens it while the device is unlocked, and it closes after its time. (24_journal_memory.md R852, 24_journal_memory.md R854,
  24_journal_memory.md R855, 24_journal_memory.md R861, 24_journal_memory.md R863, 24_journal_memory.md R864, 24_journal_memory.md R865,
  24_journal_memory.md R866) -/
def Obligations.JournalCommandsComplete : Prop :=
  (∀ (s : State) (a : Agent) (v : Word) (k : Nat), jrnActs a = true → reaches a R.JRN_WCMD v s = true →
   s.flag R.JRN_WSTAT_BUSY = false → s.flag R.JRN_STAT_SCANDONE = true → jrnEarly s = false → wget v 0 3 ≠ 0 →
   jrnIdOk (wget v 0 3) (wget v 16 16) (wget v 4 9) = true → s.jrn.cur = none → jrnChoose s (wget v 0 3) = some k →
   (s.rd R.JRN_SEQ).toNat < 0xFFFFFF00 → ∃ t, exec (.journalWrite a v) s = .next t ∧ t.flag R.JRN_WSTAT_BUSY = true ∧
   t.get R.JRN_WSTAT_STATUS = 0 ∧ t.rd R.JRN_SEQ = s.rd R.JRN_SEQ + 1 ∧ t.jrn.cur.map (·.slot) = some k) ∧
  (∀ (s : State) (w : JWrite), s.jrn.cur = some w → w.device = false → s.jrn.next = none → s.jrn.due = [] → ∃ t,
   exec (.journalCommit) s = .next t ∧ t.flag R.JRN_WSTAT_BUSY = false ∧ t.get R.JRN_WSTAT_STATUS = 0 ∧
   t.get R.JRN_WSTAT_SLOT = w.slot % 2 ^ R.JRN_WSTAT_SLOT.w ∧ t.jrn.mem = (w.words.foldl jrnPut s).jrn.mem ∧ t.jrn.cur = none ∧
   t.get R.JRN_NSTAT_DONE = 1) ∧
  (∀ (s : State) (ecc : List Nat), s.up islJRN = true → s.flag R.JRN_STAT_SCANDONE = false → s.jrn.due = [] → ∃ t,
   exec (.journalScanDone ecc) s = .next t ∧ t.flag R.JRN_STAT_SCANDONE = true ∧ t.get R.JRN_NSTAT_SCAN = 1 ∧ t.jrn.mem = s.jrn.mem) ∧
  (∀ (s : State) (a : Agent) (v : Word), v.getLsbD 3 = false → reaches a R.JRN_RCMD v s = true →
   s.flag R.JRN_STAT_SCANDONE = true → ∃ t, exec (.journalReadRecord a v) s = .next t ∧
   (jrnFind (jrnAll s) (wget v 0 3) (wget v 16 16) = none → t = s.set R.JRN_RSTAT_STATUS 1) ∧
   (∀ x ∈ (jrnFind (jrnAll s) (wget v 0 3) (wget v 16 16)).toList, t = jrnFill x.slot x.data s)) ∧
  (∀ (s : State) (a : Agent) (v : Word), v.getLsbD 3 = true → reaches a R.JRN_RCMD v s = true → s.flag R.JRN_STAT_SCANDONE = true →
   (jrnParse s.jrn.bad s.jrn.mem (wget v 16 12)).ecc = false → ∃ t, exec (.journalReadSlot a v) s = .next t ∧
   t = jrnFill (wget v 16 12) (jrnParse s.jrn.bad s.jrn.mem (wget v 16 12)).data s) ∧
  (∀ (s : State) (a : Agent) (v : Word), isHost a = true → reaches a R.JRN_SUNLK v s = true → v = 0x5AFE0001 → ∃ t,
   exec (.safeUnlockWrite a v) s = .next t ∧ t = { s with jrn.half := some (s.tnow islJRN) }) ∧
  (∀ (s : State) (a : Agent) (v : Word) (b : Nat), isHost a = true → reaches a R.JRN_SUNLK v s = true → v = 0x5AFE0002 →
   s.flag R.DGN_STAT_UNLOCKED = true → s.jrn.half = some b → s.tnow islJRN ≤ b + 10000000 → ∃ t,
   exec (.safeUnlockWrite a v) s = .next t ∧ t.flag R.JRN_STAT_SUNLK = true ∧ t.jrn.half = none) ∧
  (∀ (s : State), s.flag R.JRN_STAT_SUNLK = true → ∃ t, exec (.safeWindowTimeout) s = .next t ∧ t = s.set R.JRN_STAT_SUNLK 0)

/-- O37. What CAN frames, requests, aborts, bus-off and recovery do. A frame that a filter of port 1 matches enters its receive FIFO and
  one that none matches changes the counters alone; a request sets pending bits and an abort clears those not started; the end of an
  attempt sends the frame that goes first, or leaves it; a pop removes the head; bus-off and recovery move STATE; a stuck transmitter
  shows TXDOM. (25_diagnostics_service.md R872, 25_diagnostics_service.md R873, 25_diagnostics_service.md R874,
  25_diagnostics_service.md R875, 25_diagnostics_service.md R876, 25_diagnostics_service.md R877, 25_diagnostics_service.md R878,
  25_diagnostics_service.md R880) -/
def Obligations.CanCommandsComplete : Prop :=
  (∀ (s : State) (f : CanFrame) (ago k : Nat), canRuns s 1 = true → (f.fdf = false ∨ s.flag (R.CAN_CTL_FDOE 1) = true) →
   canFilter s 1 f = some k → (s.can 1).rx.length < 64 → ∃ t, exec (.canFrameReceive 1 f ago true) s = .next t ∧
   (t.can 1).rx.length = (s.can 1).rx.length + 1 ∧ t.get (R.CAN_RXCNT_COUNT 1) = (s.can 1).rx.length + 1) ∧
  (∀ (s : State) (n ago : Nat) (f : CanFrame), canRuns s n = true → (f.fdf = false ∨ s.flag (R.CAN_CTL_FDOE n) = true) → ∃ t,
   exec (.canFrameReceive n f ago false) s = .next t ∧ t.get (R.CAN_STAT_REC n) = min 255 (s.get (R.CAN_STAT_REC n) + 1) ∧
   t.dgn.can = s.dgn.can) ∧
  (∀ (s : State) (a : Agent) (n : Nat) (v : Word), n < 2 → canActs a = true → reaches a (R.CAN_TXREQ n) v s = true →
   s.follower = false → ∃ t, exec (.canTxRequest a n v) s = .next t ∧
   t.get (R.CAN_TXPEND_BUF n) = (s.get (R.CAN_TXPEND_BUF n) ||| wget v 0 16)) ∧
  (∀ (s : State) (a : Agent) (n k : Nat) (v : Word), n < 2 → canActs a = true → reaches a (R.CAN_TXABORT n) v s = true → 16 ≤ k →
   ∃ t, exec (.canTxAbort a n v k) s = .next t ∧
   t.get (R.CAN_TXPEND_BUF n) = s.get (R.CAN_TXPEND_BUF n) ^^^ (wget v 0 16 &&& s.get (R.CAN_TXPEND_BUF n))) ∧
  (∀ (s : State) (n late b : Nat) (r : CanEnd), canRuns s n = true → s.follower = false → s.get (R.CAN_STAT_STATE n) < 2 →
   (n = 1 → s.flag (R.CAN_CTL_MON 1) = false) →
   txFirst s n (s.get (R.CAN_TXPEND_BUF n) ^^^ (s.get (R.CAN_TXPEND_BUF n) &&& late)) = some b → ∃ t,
   exec (.canTxDone n late r) s = .next t ∧
   t = (match r with | .ok => txSent n b s | .lost => txFailed n b s | .error => txError n b s)) ∧
  (∀ (s : State) (a : Agent) (n : Nat) (v : Word), n < 2 → canActs a = true → reaches a (R.CAN_RXPOP n) v s = true → ∃ t,
   exec (.canRxPop a n v) s = .next t ∧ (t.can n).rx = (s.can n).rx.drop 1) ∧
  (∀ (s : State) (n : Nat), canRuns s n = true → s.get (R.CAN_STAT_STATE n) ≠ 2 → ∃ t, exec (.canBusOff n) s = .next t ∧
   t.get (R.CAN_STAT_STATE n) = 2 ∧ t.get ⟨R.DGN_NSTAT, n, 1⟩ = 1 ∧ (t.can n).recovering = s.flag (R.CAN_CTL_AUTOREC n)) ∧
  (∀ (s : State) (a : Agent) (v : Word), v.getLsbD 4 = true → v.getLsbD 0 = true → canActs a = true →
   reaches a (R.CAN_CTL 1) v s = true → s.flag (R.CAN_CTL_EN 1) = true → s.get (R.CAN_STAT_STATE 1) = 2 → ∃ t,
   exec (.canRecoveryRequest a 1 v) s = .next t ∧ (t.can 1).recovering = true ∧ t.rd (R.CAN_CTL 1) = v &&& 0xF) ∧
  (∀ (s : State) (n : Nat), canRuns s n = true → s.get (R.CAN_STAT_STATE n) = 2 → (s.can n).recovering = true → ∃ t,
   exec (.canRecoveryDone n) s = .next t ∧ t.get (R.CAN_STAT_STATE n) = 0 ∧ t.get (R.CAN_STAT_TEC n) = 0 ∧
   t.get (R.CAN_STAT_REC n) = 0 ∧ (t.can n).recovering = false) ∧
  (∀ (s : State) (n : Nat), n < 2 → s.up islSAFE = true → s.stage ≠ 0 → ∃ t, exec (.canTxDominantTimeout n) s = .next t ∧
   t.get (R.CAN_STAT_TXDOM n) = 1 ∧ t.get ⟨R.DGN_NSTAT, 2 + n, 1⟩ = 1 ∧ (canRuns s n = true → t.get (R.CAN_STAT_STATE n) = 2))

/-- O38. What snapshots, lifecycle and fuse programming and the service unlock do. An enabled source captures a snapshot and a pop
  removes the head; a lifecycle advance and a fuse program that nothing refuses start a burn, whose end sets the new fuse value; a
  challenge is drawn and becomes live, a verified answer unlocks, LOCK and the timeout end the unlock, a challenge expires and the wait
  ends. (25_diagnostics_service.md R882, 25_diagnostics_service.md R883, 25_diagnostics_service.md R884, 25_diagnostics_service.md R885,
  25_diagnostics_service.md R886, 25_diagnostics_service.md R887, 25_diagnostics_service.md R888, 25_diagnostics_service.md R889,
  25_diagnostics_service.md R890) -/
def Obligations.ServiceAccessCommandsComplete : Prop :=
  (∀ (s : State) (n : Nat), n < 96 → s.flag ⟨R.DGN_SNAP_EN (n / 32), n % 32, 1⟩ = true → ∃ t,
   exec (.snapshotCapture n) s = .next t ∧ t = snapshot n s) ∧
  (∀ (s : State) (a : Agent) (v : Word), reaches a R.DGN_SNAP_POP v s = true → ∃ t, exec (.snapshotPop a v) s = .next t ∧
   t = { s with dgn.snaps := s.dgn.snaps.drop 1 }) ∧
  (∀ (s : State) (a : Agent) (v : Word) (k g : Nat), reaches a R.DGN_LC_CMD v s = true → isHost a = true → wget v 24 8 = 0x5A →
   lcNext s.held.lc = some (k, g) → wget v 0 2 = k → (k = 1 → svcKeyBlank s = false) →
   (k = 2 → s.flag R.DGN_STAT_UNLOCKED = true) → burning s = false → earlyWarn s = false → ∃ t,
   exec (.lifecycleAdvance a v) s = .next t ∧ t.burn = .lc g ∧ t.flag R.DGN_FSTAT_BUSY = true ∧ t.get R.DGN_FSTAT_ERR = 0 ∧
   t.held = s.held ∧ t.fuses = s.fuses) ∧
  (∀ (s : State) (a : Agent) (v m : Word), reaches a R.DGN_FPROG_CMD v s = true → isHost a = true → wget v 24 8 = 0x5A →
   s.held.lc = 0 → burning s = false → earlyWarn s = false → fuseMask (s.get R.DGN_FPROG_SEL_SEL) = some m → ∃ t,
   exec (.fuseProgram a v) s = .next t ∧ t.burn = .prog (s.get R.DGN_FPROG_SEL_SEL) (s.rd R.DGN_FPROG_DATA &&& m) ∧
   t.flag R.DGN_FSTAT_BUSY = true ∧ t.get R.DGN_FSTAT_ERR = 0 ∧ t.fuses = s.fuses) ∧
  (∀ (s : State) (g : Nat), s.burn = .lc g → ∃ t, exec (.fuseBurnDone) s = .next t ∧ t.fuses.lc = g ∧ t.burn = .none ∧
   t.flag R.DGN_FSTAT_BUSY = false ∧ t.get R.DGN_NSTAT_FUSE = 1 ∧ t.held = s.held) ∧
  (∀ (s : State) (c : Nat) (w : Word), s.burn = .prog c w → ∃ t, exec (.fuseBurnDone) s = .next t ∧
   fuseField t.fuses c = fuseField s.fuses c ||| w ∧ t.burn = .none ∧ t.flag R.DGN_FSTAT_BUSY = false ∧
   t.get R.DGN_NSTAT_FUSE = 1 ∧ t.held = s.held) ∧
  (∀ (s : State) (a : Agent) (v : Word), reaches a R.DGN_UNLK_CMD v s = true → unlkActs a = true → wget v 24 8 = 0x5A →
   wget v 0 2 = 1 → s.dgn.wait = false → ∃ t, exec (.unlockChallenge a v) s = .next t ∧ t.dgn.chal = .live ∧
   t.flag R.DGN_UNLK_STAT_CHALRDY = true ∧ t.get R.DGN_UNLK_STAT_ERR = 0) ∧
  (∀ (s : State) (a : Agent) (v : Word), reaches a R.DGN_UNLK_CMD v s = true → unlkActs a = true → wget v 24 8 = 0x5A →
   wget v 0 2 = 2 → ∃ t, exec (.unlockVerify a v) s = .next t ∧ t = verify s ∧ t.flag R.DGN_UNLK_STAT_CHALRDY = false ∧
   t.dgn.chal = .none) ∧
  (∀ (s : State) (a : Agent) (v : Word), reaches a R.DGN_UNLK_CMD v s = true → unlkActs a = true → wget v 24 8 = 0x5A →
   wget v 0 2 = 3 → ∃ t, exec (.serviceLock a v) s = .next t ∧ t = unlockOver (s.set R.DGN_UNLK_STAT_ERR 0) ∧
   t.flag R.DGN_STAT_UNLOCKED = false) ∧
  (∀ (s : State), s.flag R.DGN_STAT_UNLOCKED = true → ∃ t, exec (.unlockTimeout) s = .next t ∧ t.flag R.DGN_STAT_UNLOCKED = false ∧
   t.flag R.DGN_UNLK_STAT_UNLOCKED = false ∧ t.flag R.JRN_STAT_SUNLK = false ∧ t.get R.DGN_NSTAT_LOCK = 1) ∧
  (∀ (s : State), s.dgn.chal = .live → ∃ t, exec (.challengeExpiry) s = .next t ∧ t = { s with dgn.chal := .expired }) ∧
  (∀ (s : State), s.dgn.wait = true → ∃ t, exec (.unlockWaitEnd) s = .next t ∧ t = { s with dgn.wait := false })

/-- O39. What the instructions of the test access port do. Each instruction becomes current with what its data register captures; those
  that drive the balls hold the device in board-test reset; the others leave the device as it is; RST of the debug register resets the
  device while debug access is open; a reset of the port restores its own registers alone. (25_diagnostics_service.md R892,
  25_diagnostics_service.md R893, 25_diagnostics_service.md R894, 25_diagnostics_service.md R895, 25_diagnostics_service.md R896) -/
def Obligations.TapCommandsComplete : Prop :=
  (∀ (s : State) (k : Nat), tapRuns s = true → ∃ t, exec (.extest k) s = .next t ∧ t.tap.ir = 0 ∧ t.tap.cap = k ∧
   t.sys.boardTest = true ∧ t.sys.resetting = true) ∧
  (∀ (s : State), tapRuns s = true → ∃ t, exec (.clamp) s = .next t ∧ t.tap.ir = 4 ∧ t.tap.cap = 0 ∧ t.sys.boardTest = true ∧
   t.sys.resetting = true) ∧
  (∀ (s : State), tapRuns s = true → ∃ t, exec (.highz) s = .next t ∧ t.tap.ir = 5 ∧ t.tap.cap = 0 ∧ t.sys.boardTest = true ∧
   t.sys.resetting = true) ∧
  (∀ (s : State) (k : Nat), tapRuns s = true → ∃ t, exec (.extestPulse k) s = .next t ∧ t.tap.ir = 6 ∧ t.tap.cap = k ∧
   t.sys.boardTest = true ∧ t.sys.resetting = true) ∧
  (∀ (s : State) (k : Nat), tapRuns s = true → ∃ t, exec (.extestTrain k) s = .next t ∧ t.tap.ir = 7 ∧ t.tap.cap = k ∧
   t.sys.boardTest = true ∧ t.sys.resetting = true) ∧
  (∀ (s : State), tapRuns s = true → ∃ t, exec (.idcode) s = .next t ∧ t = tapLoad 1 (Machine.idcode s) s) ∧
  (∀ (s : State) (k c : Nat), tapRuns s = true → ∃ t, exec (.samplePreload k c) s = .next t ∧
   t = { tapLoad 2 k s with tap.cells := c }) ∧
  (∀ (s : State), tapRuns s = true → ∃ t, exec (.bypass) s = .next t ∧ t = tapLoad 0x3F 0 s) ∧
  (∀ (s : State), tapRuns s = true → ∃ t, exec (.dbgacc) s = .next t ∧ t = tapLoad 0x20 (debugCapture s) s) ∧
  (∀ (s : State), tapRuns s = true → s.tap.ir = 0x20 → s.sys.resetting = false → s.flag R.DGN_STAT_DBGOPEN = true →
   s.pstate ≠ 5 → ∃ t, exec (.debugReset) s = .next t ∧ t = deviceReset rstDBG false (journalCut s) ∧ t.sys.resetting = true) ∧
  (∀ (s : State), ∃ t, exec (.tapReset) s = .next t ∧ t = { s with tap := Tap.reset })

/-- O40. What the rails and the early warning do. A rail that falls below its minimum shows its voltage and reads out of range, with the
  cause while LOW is reported; a collapse also stops what it feeds; a rail in range reads so; the early warning shows its terms with its
  cause when it begins, and clears once neither term stands. (26_signals_package_electrical.md R912, 26_signals_package_electrical.md
  R914, 26_signals_package_electrical.md R915, 26_signals_package_electrical.md R916, 26_signals_package_electrical.md R917) -/
def Obligations.SupplyCommandsComplete : Prop :=
  (∀ (s : State) (i mv : Nat), i < 16 → railOk s i = true → mv < (railRange s i).1 → ∃ t, exec (.railLow i mv) s = .next t ∧
   t.flag ⟨R.SUP_RAIL, i, 1⟩ = false ∧ t.get (R.SUP_RAILV_MV i) = mv % 2 ^ (R.SUP_RAILV_MV i).w ∧
   (lowTold s i = true → s.sys.resetting = false → t.get ⟨R.SUP_NSTAT, i, 1⟩ = 1)) ∧
  (∀ (s : State) (i mv : Nat), i < 16 → i ≠ 2 → i ≠ 5 → s.sys.resetting = false → mv < (railRange s i).2.2 →
   bitOf s.sys.railSeen i = true → ∃ t, exec (.railCollapse i mv) s = .next t ∧
   t = (railIslands s i).foldl (fun u k => Machine.oscStop k u) (Machine.railLow i mv s)) ∧
  (∀ (s : State) (i mv : Nat), i < 16 → (railRange s i).1 ≤ mv → mv ≤ (railRange s i).2.1 → ∃ t,
   exec (.railInRange i mv) s = .next t ∧ t.flag ⟨R.SUP_RAIL, i, 1⟩ = true ∧
   t.get (R.SUP_RAILV_MV i) = mv % 2 ^ (R.SUP_RAILV_MV i).w ∧ t.sys.railSeen = (s.sys.railSeen ||| 2 ^ i)) ∧
  (∀ (s : State) (vio : Bool), s.sys.resetting = false → (vio || ewVbat s) = true → ∃ t, exec (.earlyWarning vio) s = .next t ∧
   t.flag R.SUP_EWSTAT_EW = true ∧ t.flag R.JRN_STAT_EARLY = true ∧ (earlyWarn s = false → t.get R.SUP_NSTAT_EW = 1)) ∧
  (∀ (s : State), s.sys.resetting = false → earlyWarn s = true → ewVbat s = false → s.jrn.due = [] → ∃ t,
   exec (.earlyWarningClear) s = .next t ∧ t.flag R.SUP_EWSTAT_EW = false ∧ t.flag R.SUP_EWSTAT_VIO = false ∧
   t.flag R.JRN_STAT_EARLY = false)

/-- O41. A step runs the command at the front of the queue. For every command c and state s whose queue is c followed by q, a step is
  exec of c on s with the queue q; on an empty queue the step lets the panels' user clocks make one edge, the ingress FIFOs drain and
  the accesses that wait go on (the model's choice, log entry 1). (INDEX.md,
  95_what_each_step_holds.md) -/
def Obligations.StepRunsTheFrontCommand : Prop :=
  (∀ (s : State) (c : Instr) (q : List Instr), s.pending = c :: q → step s = exec c (s.withPending q)) ∧
  (∀ (s : State), s.pending = [] → step s = .next (idle s))

/-- O42. A step takes one command and uses no free value twice. Every step goes on to a next state; there the queue is the old queue without
  its front command, and the counter that free values are drawn by (the model's own field, log entry 4) has not gone back. (INDEX.md,
  95_what_each_step_holds.md) -/
def Obligations.StepTakesOneCommand : Prop :=
  (∀ (s : State), ∃ t, step s = .next t ∧ t.pending = s.pending.tail ∧ s.free ≤ t.free)

/-- O43. The state after reset is sound and holds the table's reset values. At reset registers and memories are in their canonical form
  and no command waits; the device is in reset with no stage, CLK_NEN, CLK_HOLD_TO, CLK_SLOW_THR and CLK_CAP hold their tables' reset
  words, SYS_RSTCAUSE reads POR alone, and every gate of the power stage is low. In device reset, with the balls' rails within range, the gate drivers are off and pulled
  low, the fan PWM drivers are off and pulled high, and INTN is released. The empty queue is the model's (log entry 1).
  (03_islands_and_weft.md R112, 04_staged_start.md R120, 04_staged_start.md R123, 04_staged_start.md R124,
  19_power_stage_protection.md R734) -/
def Obligations.ResetIsSound : Prop :=
  (∀ (s : State), s = State.reset → s.sound = true ∧ s.pending = [] ∧ s.sys.resetting = true ∧ s.stage = 0 ∧
   s.rd R.CLK_NEN = 0x7F ∧ s.rd R.CLK_HOLD_TO = 0x7D0 ∧ s.rd R.CLK_SLOW_THR = 0x320 ∧ s.rd R.CLK_CAP = 0x96258640 ∧
   s.rd R.SYS_RSTCAUSE = 1 ∧ ∀ c : Fin 16, (s.pch c.val).drive = 0 ∧ s.flag (R.PWS_CH_STAT_LATCHED c.val) = false) ∧
  (∀ (s : State) (n : Nat), s.sys.resetting = true → s.sys.boardTest = false → railOk s 8 = true → railOk s 7 = true →
   ballState s (.gd n) = .off ∧ ballPull s (.gd n) = .down ∧ ballState s (.fanPwm n) = .off ∧ ballPull s (.fanPwm n) = .up ∧
   ballState s .intn = .off)

/-- O44. Every step keeps a sound state sound. For every sound state (registers and memories canonical: addresses strictly rising and no
  entry equal to what an unlisted address reads as; every waiting command with its operands in range), if a step goes on, the next state
  is sound. That the state after reset is sound is ResetIsSound. The canonical form is the model's. (INDEX.md,
  95_what_each_step_holds.md) -/
def Obligations.StepKeepsSound : Prop :=
  (∀ (s : State) (t : State), s.sound = true → step s = .next t → t.sound = true)

/-- O45. A write with fewer than four byte enables changes nothing. A register write, a write of either half of a split pair or a write
  of a write-one-to-clear register with fewer than four byte enables, by any agent, at any offset, goes on with the state as it was and
  without an error; so does a transaction that covers two registers where both have fewer than four. (stated: 00_scope.md R13) -/
def Obligations.NarrowWritesAreIgnored : Prop :=
  (∀ (s : State) (a : Agent) (off be : Nat) (v ev : Word) (nx : Option (Nat × Word)), be ≠ 15 → (∀ e, nx = some e → e.1 ≠ 15) →
   exec (.registerWrite a off be v nx) s = .next s ∧
   exec (.splitLoWrite a off be v) s = .next s ∧ exec (.splitHiWrite a off be v) s = .next s ∧
   exec (.w1cWrite a off be v ev) s = .next s)

/-- O46. The outcome of a 1 in a reserved bit is confined to the register's block. For every register, a whole-word write that lands on it
  (its agent decodes BAR0, its block has power and does not stall, no joined pair or earlier access holds the write, and the register
  acts on this agent) with a 1 in a bit that its table leaves reserved goes on to a next state: every register outside the block reads as
  before, and so does every register of a protected part but the effective dead times, which follow their channels' settings; the queue,
  packet memory, the fuses, SAFE, the power-stage driver, the fans, CAN FD port 0 and the committed safe record (slots 8 to 15 of the
  journal) are as they were, and the state of every block but the register's own. Inside the block the values are free (the model's
  choice of form: log entry 3). (stated: 00_scope.md R25) -/
def Obligations.ReservedBitWritesStayInTheBlock : Prop :=
  (∀ (s : State) (a : Agent) (off : Nat) (v : Word), off % 4 = 0 → lands a off v s = true → reservedBits off v = true → ∃ t,
   exec (.registerWrite a off 15 v none) s = .next t ∧
   (∀ o, ¬((blockSpan off).1 ≤ o ∧ o < (blockSpan off).1 + (blockSpan off).2) → t.rd o = s.rd o) ∧
   (∀ o, walled o = true → (∀ c < 16, o ≠ 0xA0108 + 0x20 * c) → t.rd o = s.rd o) ∧
   t.pending = s.pending ∧ t.pkt = s.pkt ∧ t.fuses = s.fuses ∧ t.held = s.held ∧ t.burn = s.burn ∧ t.sys = s.sys ∧ t.safe = s.safe ∧
   t.pws = s.pws ∧ t.thm = s.thm ∧ t.tap = s.tap ∧ t.can 0 = s.can 0 ∧
   (∀ b, 0x1000 ≤ b → b < 0x2000 → t.jrn.mem.rd b = s.jrn.mem.rd b) ∧
   (off / 0x10000 ≠ 2 → t.clk = s.clk) ∧ (off / 0x10000 ≠ 3 → t.evt = s.evt) ∧ (off / 0x10000 ≠ 4 → t.vnr = s.vnr) ∧
   (off / 0x10000 ≠ 5 → t.jrn = s.jrn) ∧ (off / 0x10000 ≠ 6 → t.ist = s.ist) ∧ (off / 0x10000 ≠ 7 → t.ply = s.ply) ∧
   (off / 0x10000 ≠ 9 → t.cal = s.cal) ∧ (off / 0x10000 ≠ 11 → t.aud = s.aud) ∧ (off / 0x10000 ≠ 13 → t.hif = s.hif) ∧
   (off / 0x10000 ≠ 15 → t.dgn = s.dgn) ∧ (off / 0x100000 ≠ 1 → t.prt = s.prt ∧ t.out = s.out) ∧
   (off / 0x100000 ≠ 2 → t.prs = s.prs) ∧ (off / 0x100000 ≠ 3 → t.fwd = s.fwd) ∧ (off / 0x10000 ≠ 64 → t.bpm = s.bpm) ∧
   (off / 0x10000 ≠ 65 → t.locks = s.locks) ∧ (off / 0x10000 ≠ 66 → t.dst = s.dst) ∧
   (off < 0x800000 ∨ 0x1000000 ≤ off → t.whl = s.whl) ∧ (off < 0x1000000 → t.mqy = s.mqy))

/-- O47. A W1C write clears its bits, keeps coincident events and touches no EVT state. A whole-word write that lands on a register with
  W1C bits, with no reserved bit set, changes that register alone: a bit that an event of the same cycle sets is set, other W1C bits
  written as 1 are cleared, RW bits take the value and the rest stay. The event router's state and, for a register outside EVT, every
  EVT register stay as they were: no sticky bit is cleared and nothing crosses. (stated: 00_scope.md R22, 17_notices_interrupts.md R635)
  -/
def Obligations.W1cWritesClearCauses : Prop :=
  (∀ (s : State) (a : Agent) (off : Nat) (v ev : Word) (c : RegSpec), off % 4 = 0 → lands a off v s = true →
   reservedBits off v = false → regSpec off = some c → c.w1c ≠ 0 → ∃ t, exec (.w1cWrite a off 15 v ev) s = .next t ∧
   t = s.wr (sharedOff off) (t.rd (sharedOff off)) ∧
   (∀ b : Fin 32, (t.rd (sharedOff off)).getLsbD b = ((c.w1c.testBit b.val && ev.getLsbD b) || codeBit c (s.rd (sharedOff off)) v b)) ∧
   t.evt = s.evt ∧ (off / 0x10000 ≠ 3 → regsKept (fun k => decide (k ≠ 3)) s t))

/-- O48. Power-state commands and the power stage's registers act on the host alone. A write of SYS_PSTATE_CMD, each of its commands,
  and a write of PWS_CH_CFG of any channel or of PWS_CLR by a Whorl thread, a fabric panel or the debug port leave the state as it was,
  in every state of the device. What they do for the host is stated with their commands. (stated: 05_power_states.md R171,
  19_power_stage_protection.md R710) -/
def Obligations.OnlyTheHostCommandsPowerAndStage : Prop :=
  (∀ (s : State) (a : Agent) (v : Word) (w : Bool) (k c q : Nat), isHost a = false → c < 16 →
   exec (.registerWrite a R.SYS_PSTATE_CMD 15 v none) s = .next s ∧ exec (.powerFull a w k) s = .next s ∧
   exec (.powerQuiet a w k) s = .next s ∧ exec (.powerNet a k) s = .next s ∧ exec (.powerStandby a k) s = .next s ∧
   exec (.powerService a k) s = .next s ∧ exec (.powerReset a k) s = .next s ∧
   exec (.registerWrite a (R.PWS_CH_CFG c) 15 v none) s = .next s ∧ exec (.registerWrite a R.PWS_CLR 15 v none) s = .next s ∧
   exec (.latchClear a v q) s = .next s)

/-- O49. While a table command is in progress, writes of its registers are ignored and counted as lost. While FWD_CSTAT.BUSY is 1, every
  write that reaches FWD_CMD, FWD_ADDR, FWD_STAGE or either half of FWD_STAGE_BE changes nothing but FWD_CSTAT.LOST, which is set. While
  PRS_RSTAT.BUSY is 1, every write that reaches PRS_STAGE or PRS_RCMD changes nothing but setting PRS_RSTAT.LOST and PRS_NSTAT.LOST and
  raising N56. (stated: 15_forwarding_learning.md R567, 09_parser_classifier.md R355) -/
def Obligations.BusyTablesIgnoreWrites : Prop :=
  (∀ (s : State) (a : Agent) (off : Nat) (v : Word),
   off = R.FWD_CMD ∨ off = R.FWD_ADDR ∨ off = R.FWD_STAGE_BE_LO ∨ off = R.FWD_STAGE_BE_HI ∨ ∃ k : Fin 16, off = R.FWD_STAGE k.val →
   reaches a off v s = true → s.flag R.FWD_CSTAT_BUSY = true →
   exec (.registerWrite a off 15 v none) s = .next (s.set R.FWD_CSTAT_LOST 1)) ∧
  (∀ (s : State) (a : Agent), reaches a R.FWD_CMD 5 s = true → s.flag R.FWD_CSTAT_BUSY = true →
   exec (.fdbFlush a) s = .next (s.set R.FWD_CSTAT_LOST 1)) ∧
  (∀ (s : State) (a : Agent) (off : Nat) (v : Word), off = R.PRS_RCMD ∨ ∃ k : Fin 36, off = R.PRS_STAGE k.val →
   reaches a off v s = true → s.flag R.PRS_RSTAT_BUSY = true →
   exec (.registerWrite a off 15 v none) s = .next (cause R.PRS_NSTAT_LOST 56 (s.set R.PRS_RSTAT_LOST 1)))

/-- O50. A read of a free lock takes it, a read of a held lock changes nothing, and one of two readers wins. On a strand that is no
  FOLLOWER, a read of any of the 512 locks answers 1 and leaves the lock held by the reader, with every other lock as it was, when the
  lock was free; it answers 0 and changes no lock when the lock was held; a LEADER logs the answer. When two different agents read one
  free lock in the same cycle, exactly one of them gets 1 and the other 0. (stated: 10_buffers_and_locks.md R388, 00_scope.md R21) -/
def Obligations.LockReadAcquires : Prop :=
  (∀ (s : State) (a : Agent) (n : Nat), n < 512 → s.bar0 = true → s.up islBPM = true → decodes a s = true → s.follower = false →
   (s.lock n).held = false → ∃ t, exec (.lockRead a n []) s = .next t ∧ mget (fun _ => 0) t.resp (agentId a) = 1 ∧
   (t.lock n).held = true ∧ (t.lock n).owner = agentId a ∧ (∀ m : Fin 512, m.val ≠ n → t.lock m.val = s.lock m.val) ∧
   { t with resp := s.resp, locks := s.locks, ply := s.ply, out := s.out, regs := s.regs } = s) ∧
  (∀ (s : State) (a : Agent) (n : Nat), n < 512 → s.bar0 = true → s.up islBPM = true → decodes a s = true → s.follower = false →
   (s.lock n).held = true → ∃ t, exec (.lockRead a n []) s = .next t ∧ mget (fun _ => 0) t.resp (agentId a) = 0 ∧
   t.locks = s.locks ∧ { t with resp := s.resp, ply := s.ply, out := s.out, regs := s.regs } = s) ∧
  (∀ (s : State) (a b : Agent) (n : Nat), n < 512 → s.bar0 = true → s.up islBPM = true → decodes a s = true → s.follower = false →
   decodes b s = true → agentId a ≠ agentId b → (s.lock n).held = false → ∃ t, exec (.lockRead a n [b]) s = .next t ∧
   ((mget (fun _ => 0) t.resp (agentId a) = 1 ∧ mget (fun _ => 0) t.resp (agentId b) = 0) ∨ (mget (fun _ => 0) t.resp (agentId a) = 0 ∧ mget (fun _ => 0) t.resp (agentId b) = 1)))

/-- O51. Stage changes, source changes and further faults never clear a latch. A latched channel stays latched over unclamping, a weave,
  a handover, the return of the gates, a PWM period, the end of the output disable, the ownership changes of a strand, the off-going of
  a second leg, a battery reading, and any further fault of any channel. (19_power_stage_protection.md R721,
  19_power_stage_protection.md R720) -/
def Obligations.LatchesOutlastStageAndFaultEvents : Prop :=
  (∀ (s : State) (i : Instr) (t : State) (c : Nat), i.wf = true → c < 16 → latchKeeper i = true →
   s.flag (R.PWS_CH_STAT_LATCHED c) = true → exec i s = .next t → t.flag (R.PWS_CH_STAT_LATCHED c) = true)

/-- O52. An instruction whose condition fails only moves its thread past the word. For every instruction of the stream form: a thread
  that issues a word whose C prefix names a condition that the flags do not meet goes on past the word, with the word counted as issued;
  no register, flag, accumulator, memory or any other state changes and no exception is raised. (13_whorl_isa_model.md R495,
  13_whorl_isa_model.md R493) -/
def Obligations.WhorlFailedConditionsSkip : Prop :=
  (∀ (s : State) (c : Instr) (tid : Nat) (r : Row) (i : Insn) (code : List Byte) (cc : Nat), wordRow c = some (tid, r) →
   ready s tid i code = true → rowIs r i = true → i.cond = some cc → condHolds cc (s.thread tid).flags = false →
   exec c s = .next (s.setThread tid (pastWord (s.thread tid) code)))

/-- O53. What clock, unclamp, fuse and supply commands leave as it was. Every state that a command of these families leads to differs
  from the one before only in the named state of its blocks and in the registers of the blocks named. A notice it raises may reach the
  event router (EVT), the snapshot log (DGN), the event bits of a waiting thread and the pair's note of a fault class; a host access of
  a joined LEADER waits in the pair's log; an access that an earlier one or a stalled block holds waits its turn; free values may be
  drawn. (03_islands_and_weft.md R83, 04_staged_start.md R151, 07_marquetry_fabric.md R238, 26_signals_package_electrical.md R912) -/
def Obligations.ClockStartAndSupplyFrames : Prop :=
  (∀ (s : State) (i : Instr) (t : State), i.wf = true → clockCommand i = true → exec i s = .next t →
   { t with regs := s.regs, clk := s.clk, ist := s.ist, out := s.out, evt := s.evt, dgn := s.dgn, whl := s.whl, ply := s.ply } = s ∧
   regsKept (fun k => [2, 3, 6, 7, 15].contains k) s t) ∧
  (∀ (s : State) (missed : List Nat) (t : State), exec (.timeBroadcast missed) s = .next t →
   { t with regs := s.regs, clk := s.clk, prt := s.prt, evt := s.evt, dgn := s.dgn, whl := s.whl, ply := s.ply } = s ∧
   regsKept (fun k => [2, 3, 15].contains k || decide (16 ≤ k ∧ k ≤ 31)) s t) ∧
  (∀ (s : State) (i : Instr) (t : State), i.wf = true → unclampCommand i = true → exec i s = .next t →
   { t with regs := s.regs, clk.wait := s.clk.wait, sys := s.sys, out := s.out, evt := s.evt, dgn := s.dgn, whl := s.whl, ply := s.ply } = s ∧
   regsKept (fun k => [0, 3, 7, 15].contains k) s t) ∧
  (∀ (s : State) (i : Instr) (t : State), i.wf = true → fuseCommand i = true → exec i s = .next t →
   { t with regs := s.regs, free := s.free, clk.wait := s.clk.wait, vnr := s.vnr, burn := s.burn, fuses := s.fuses, held := s.held, out := s.out, evt := s.evt, dgn := s.dgn, whl := s.whl, ply := s.ply } = s ∧
   regsKept (fun k => [3, 4, 7, 15].contains k) s t) ∧
  (∀ (s : State) (i : Instr) (t : State), i.wf = true → supplyCommand i = true → exec i s = .next t →
   { t with regs := s.regs, sys := s.sys, evt := s.evt, dgn := s.dgn, whl := s.whl, ply := s.ply } = s ∧
   regsKept (fun k => [1, 3, 15].contains k) s t)

/-- O54. What MDIO, port, panel and parser-rule commands leave as it was. Every state that a command of these families leads to differs
  from the one before only in the named state of its blocks and in the registers of the blocks named: packet memory, buffers, tables,
  threads' registers, audio and power stage stay. A notice it raises may reach the event router (EVT), the snapshot log (DGN), the event
  bits of a waiting thread and the pair's note of a fault class; a host access of a joined LEADER waits in the pair's log; an access
  that an earlier one or a stalled block holds waits its turn; free values may be drawn. (08_ports_and_tsn.md R323,
  07_marquetry_fabric.md R261, 09_parser_classifier.md R353) -/
def Obligations.PortPanelAndParserFrames : Prop :=
  (∀ (s : State) (i : Instr) (t : State), i.wf = true → mdioCommand i = true → exec i s = .next t →
   { t with regs := s.regs, free := s.free, clk.wait := s.clk.wait, prt := s.prt, out := s.out, evt := s.evt, dgn := s.dgn, whl := s.whl, ply := s.ply } = s ∧
   regsKept (fun k => [3, 7, 16, 15].contains k) s t) ∧
  (∀ (s : State) (i : Instr) (t : State), i.wf = true → portCommand i = true → exec i s = .next t →
   { t with regs := s.regs, free := s.free, clk.wait := s.clk.wait, prt := s.prt, out := s.out, resp := s.resp, evt := s.evt, dgn := s.dgn, whl := s.whl, ply := s.ply } = s ∧
   regsKept (fun k => [3, 7, 15].contains k || decide (16 ≤ k ∧ k ≤ 31)) s t) ∧
  (∀ (s : State) (i : Instr) (t : State), i.wf = true → panelCommand i = true → exec i s = .next t → ∃ u,
   { u with regs := s.regs, mqy := s.mqy, resp := s.resp, evt := s.evt, dgn := s.dgn, whl := s.whl, ply := s.ply } = s ∧
   regsKept (fun k => [3, 15].contains k || decide (256 ≤ k ∧ k ≤ 383)) s u ∧ (t = u ∨ t = drain u)) ∧
  (∀ (s : State) (i : Instr) (t : State), i.wf = true → ruleCommand i = true → exec i s = .next t →
   { t with regs := s.regs, free := s.free, clk.wait := s.clk.wait, prs := s.prs, fwd := s.fwd, out := s.out, evt := s.evt, dgn := s.dgn, whl := s.whl, ply := s.ply } = s ∧
   regsKept (fun k => [3, 7, 15].contains k || decide (32 ≤ k ∧ k ≤ 47)) s t)

/-- O55. What buffer, lock, yarn, thread-event, pair-log and test-port commands leave as it was. Every state that a command of these
  families leads to differs from the one before only in the named state of its blocks and in the registers of the blocks named: packet
  memory stays. A notice it raises may reach the event router (EVT), the snapshot log (DGN), the event bits of a waiting thread and the
  pair's note of a fault class; a host access of a joined LEADER waits in the pair's log; an access that an earlier one or a stalled
  block holds waits its turn; free values may be drawn. (10_buffers_and_locks.md R388, 11_distaff_and_yarns.md R418,
  12_whorl_cores_threads.md R455, 22_ply_pair.md R797, 25_diagnostics_service.md R895) -/
def Obligations.BufferLockAndThreadFrames : Prop :=
  (∀ (s : State) (i : Instr) (t : State), i.wf = true → poolCommand i = true → exec i s = .next t →
   { t with regs := s.regs, bpm := s.bpm, free := s.free, evt := s.evt, dgn := s.dgn, whl := s.whl, ply := s.ply } = s ∧
   regsKept (fun k => [3, 7, 15].contains k || decide (64 ≤ k)) s t) ∧
  (∀ (s : State) (i : Instr) (t : State), i.wf = true → lockCommand i = true → exec i s = .next t →
   { t with regs := s.regs, clk.wait := s.clk.wait, locks := s.locks, resp := s.resp, out := s.out, evt := s.evt, dgn := s.dgn, whl := s.whl, ply := s.ply } = s ∧
   regsKept (fun k => [3, 7, 65, 15].contains k) s t) ∧
  (∀ (s : State) (i : Instr) (t : State), i.wf = true → yarnCommand i = true → exec i s = .next t →
   { t with regs := s.regs, free := s.free, clk.wait := s.clk.wait, dst := s.dst, heldLo := s.heldLo, capHi := s.capHi, out := s.out, ply := s.ply } = s ∧
   regsKept (fun k => [7, 66].contains k) s t) ∧
  (∀ (s : State) (i : Instr) (t : State), i.wf = true → threadCommand i = true → exec i s = .next t →
   { t with regs := s.regs, free := s.free, clk.wait := s.clk.wait, out := s.out, evt := s.evt, dgn := s.dgn, whl := s.whl, ply := s.ply } = s ∧
   regsKept (fun k => [3, 7, 15].contains k || decide (128 ≤ k ∧ k ≤ 223)) s t) ∧
  (∀ (s : State) (i : Instr) (t : State), i.wf = true → pairCommand i = true → exec i s = .next t →
   { t with regs := s.regs, ply := s.ply, out := s.out } = s ∧ regsKept (fun k => [7].contains k) s t) ∧
  (∀ (s : State) (i : Instr) (t : State), i.wf = true → tapCommand i = true → exec i s = .next t →
   { t with regs := s.regs, tap := s.tap } = s ∧ regsKept (fun _ => false) s t)

/-- O56. What forwarding, ring and notice commands leave as it was. Every state that a command of these families leads to differs from
  the one before only in the named state of its blocks and in the registers of the blocks named: packet memory stays outside the rings
  of queue pairs. A descriptor read whose ring fault has device scope stands apart. A notice it raises may reach the event router (EVT),
  the snapshot log (DGN), the event bits of a waiting thread and the pair's note of a fault class; a host access of a joined LEADER
  waits in the pair's log; an access that an earlier one or a stalled block holds waits its turn; free values may be drawn.
  (15_forwarding_learning.md R564, 16_host_interface_rings.md R595, 17_notices_interrupts.md R634) -/
def Obligations.TableRingAndNoticeFrames : Prop :=
  (∀ (s : State) (i : Instr) (t : State), i.wf = true → tableCommand i = true → exec i s = .next t →
   { t with regs := s.regs, clk.wait := s.clk.wait, fwd := s.fwd, resp := s.resp, out := s.out, evt := s.evt, dgn := s.dgn, whl := s.whl, ply := s.ply } = s ∧
   regsKept (fun k => [3, 7, 48, 15].contains k) s t) ∧
  (∀ (s : State) (i : Instr) (t : State), i.wf = true → ringCommand i = true →
   (∀ q, i = .descriptorFetch q → ringFault s (s.qp q) ≠ some .device) → exec i s = .next t →
   { t with regs := s.regs, free := s.free, clk.wait := s.clk.wait, hif := s.hif, mqy := s.mqy, pkt := s.pkt, out := s.out, evt := s.evt, dgn := s.dgn, whl := s.whl, ply := s.ply } = s ∧
   regsKept (fun k => [3, 7, 13, 15].contains k) s t ∧
   (∀ a, (∀ q, (s.qp q).rings.any (fun r => r.1 && decide (r.2.1 ≤ a ∧ a < r.2.1 + r.2.2)) = false) → t.pkt.rd a = s.pkt.rd a)) ∧
  (∀ (s : State) (i : Instr) (t : State), i.wf = true → noticeCommand i = true → exec i s = .next t →
   { t with regs := s.regs, free := s.free, clk.wait := s.clk.wait, hif := s.hif, resp := s.resp, out := s.out, evt := s.evt, dgn := s.dgn, whl := s.whl, ply := s.ply } = s ∧
   regsKept (fun k => [3, 7, 15].contains k) s t)

/-- O57. What audio, SAFE and power-stage commands leave as it was. Every state that a command of these families leads to differs from
  the one before only in the named state of its blocks and in the registers of the blocks named: no audio command writes a channel ring
  in packet memory, and no fault of the power stage changes an audio register. The end of an announcement in STANDBY switches the
  stage's island off. A notice it raises may reach the event router (EVT), the snapshot log (DGN), the event bits of a waiting thread
  and the pair's note of a fault class; a host access of a joined LEADER waits in the pair's log; an access that an earlier one or a
  stalled block holds waits its turn; free values may be drawn. (18_audio_path.md R657, 19_power_stage_protection.md R719,
  18_audio_path.md R667) -/
def Obligations.AudioSafeAndStageFrames : Prop :=
  (∀ (s : State) (i : Instr) (t : State), i.wf = true → audioCommand i = true → exec i s = .next t →
   { t with regs := s.regs, free := s.free, clk.wait := s.clk.wait, aud := s.aud, rcap := s.rcap, resp := s.resp, out := s.out, evt := s.evt, dgn := s.dgn, whl := s.whl, ply := s.ply } = s ∧
   regsKept (fun k => [3, 7, 11, 15].contains k) s t) ∧
  (∀ (s : State) (i : Instr) (t : State), i.wf = true → announceCommand i = true → exec i s = .next t →
   { t with regs := s.regs, safe := s.safe, sys := s.sys, pws := s.pws, evt := s.evt, dgn := s.dgn, whl := s.whl, ply := s.ply } = s ∧
   regsKept (fun k => [0, 2, 3, 10, 12, 15].contains k) s t ∧
   (s.pstate ≠ 5 → t.pws = s.pws ∧ regsKept (fun k => [0, 3, 12, 15].contains k) s t)) ∧
  (∀ (s : State) (i : Instr) (t : State), i.wf = true → stageCommand i = true → exec i s = .next t →
   { t with regs := s.regs, free := s.free, clk.wait := s.clk.wait, pws := s.pws, out := s.out, evt := s.evt, dgn := s.dgn, whl := s.whl, ply := s.ply } = s ∧
   regsKept (fun k => [3, 7, 10, 15].contains k) s t)

/-- O58. The calibration engine changes no sample, gate, latch, gain or power state. Every state that a command of the calibration
  engine leads to differs from the one before only in the engine's own state and registers (block 9): samples and gains (the audio path
  and its registers), gates and latches (the power stage and its registers) and the power state (SYS) stay as they were. A notice it
  raises may reach the event router (EVT), the snapshot log (DGN), the event bits of a waiting thread and the pair's note of a fault
  class; a host access of a joined LEADER waits in the pair's log; an access that an earlier one or a stalled block holds waits its
  turn; free values may be drawn. (stated: 20_live_calibration.md R752) -/
def Obligations.CalibrationChangesNothingElse : Prop :=
  (∀ (s : State) (i : Instr) (t : State), i.wf = true → calCommand i = true → exec i s = .next t →
   { t with regs := s.regs, free := s.free, clk.wait := s.clk.wait, cal := s.cal, resp := s.resp, out := s.out, evt := s.evt, dgn := s.dgn, whl := s.whl, ply := s.ply } = s ∧
   regsKept (fun k => [3, 7, 9, 15].contains k) s t)

/-- O59. What thermal, in-service test, journal, CAN and service commands leave as it was. Every state that a command of these families
  leads to differs from the one before only in the named state of its blocks and in the registers of the blocks named. A notice it
  raises may reach the event router (EVT), the snapshot log (DGN), the event bits of a waiting thread and the pair's note of a fault
  class; a host access of a joined LEADER waits in the pair's log; an access that an earlier one or a stalled block holds waits its
  turn; free values may be drawn. (21_thermal_fans.md R771, 23_in_service_test.md R835, 24_journal_memory.md R852,
  25_diagnostics_service.md R876) -/
def Obligations.TestJournalAndServiceFrames : Prop :=
  (∀ (s : State) (i : Instr) (t : State), i.wf = true → thermalCommand i = true → exec i s = .next t →
   { t with regs := s.regs, free := s.free, clk.wait := s.clk.wait, thm := s.thm, out := s.out, evt := s.evt, dgn := s.dgn, whl := s.whl, ply := s.ply } = s ∧
   regsKept (fun k => [3, 7, 8, 15].contains k) s t) ∧
  (∀ (s : State) (i : Instr) (t : State), i.wf = true → testCommand i = true → exec i s = .next t →
   { t with regs := s.regs, free := s.free, clk.wait := s.clk.wait, ist := s.ist, resp := s.resp, out := s.out, evt := s.evt, dgn := s.dgn, whl := s.whl, ply := s.ply } = s ∧
   regsKept (fun k => [3, 6, 7, 15].contains k) s t) ∧
  (∀ (s : State) (i : Instr) (t : State), i.wf = true → journalCommand i = true → exec i s = .next t →
   { t with regs := s.regs, free := s.free, clk.wait := s.clk.wait, jrn := s.jrn, out := s.out, evt := s.evt, dgn := s.dgn, whl := s.whl, ply := s.ply } = s ∧
   regsKept (fun k => [1, 3, 5, 7, 15].contains k) s t) ∧
  (∀ (s : State) (i : Instr) (t : State), i.wf = true → canCommand i = true → exec i s = .next t →
   { t with regs := s.regs, free := s.free, clk.wait := s.clk.wait, out := s.out, evt := s.evt, dgn := s.dgn, whl := s.whl, ply := s.ply } = s ∧
   regsKept (fun k => [3, 5, 7, 15].contains k) s t)

/-- O60. Every command completes. In every state and for every operands, each of the commands answers a next state: it never faults and
  is never refused. The queue's rest is as it was, and the counter that free values are drawn by (the model's own field, log entry 4) has
  not gone back. What each command does there is stated with it. (INDEX.md, 95_what_each_step_holds.md) -/
def Obligations.EveryCommandCompletes : Prop :=
  (∀ (c : Instr) (s : State), ∃ t, exec c s = .next t ∧ t.pending = s.pending ∧ s.free ≤ t.free)
end

