-- ==== Sys2Proof/Laws/SMap.lean ====
section
/-!
SUPPORT. Sparse maps: reading after writing, and the canonical form that every operation keeps.
-/
namespace Sys2Proof.Machine

theorem mget_merase {α : Type} (d : Nat → α) (m : SMap α) (k j : Nat) :
    mget d (merase m k) j = if j = k then d j else mget d m j := by
  induction m with
  | nil => simp [merase, mget]
  | cons e m ih =>
    obtain ⟨i, v⟩ := e
    by_cases h : i = k
    · subst h
      simp only [merase, if_true, ih, mget]
      by_cases hj : j = i
      · simp [hj]
      · simp [hj, Ne.symm hj]
    · by_cases hj : i = j
      · subst hj; simp [merase, mget, h]
      · simp [merase, mget, h, hj, ih]

theorem mget_minsert {α : Type} (d : Nat → α) (m : SMap α) (k : Nat) (v : α) (j : Nat) (h : ∀ e ∈ m, e.1 ≠ k) :
    mget d (minsert m k v) j = if j = k then v else mget d m j := by
  induction m with
  | nil =>
    by_cases hj : j = k
    · simp [minsert, mget, hj]
    · simp [minsert, mget, hj, Ne.symm hj]
  | cons e m ih =>
    obtain ⟨i, w⟩ := e
    have hi : i ≠ k := h (i, w) (by simp)
    have hm : ∀ e ∈ m, e.1 ≠ k := fun e he => h e (by simp [he])
    by_cases hk : k < i
    · by_cases hj : j = k
      · simp [minsert, mget, hk, hj]
      · simp [minsert, mget, hk, hj, Ne.symm hj]
    · by_cases hj : i = j
      · subst hj; simp [minsert, mget, hk, hi]
      · simp [minsert, mget, hk, hj, ih hm]

theorem merase_ne {α : Type} (m : SMap α) (k : Nat) : ∀ e ∈ merase m k, e.1 ≠ k := by
  induction m with
  | nil => simp [merase]
  | cons e m ih =>
    obtain ⟨i, v⟩ := e
    by_cases h : i = k
    · simpa [merase, h] using ih
    · intro e he
      simp only [merase, h, if_false, List.mem_cons] at he
      rcases he with rfl | he
      · exact h
      · exact ih e he

/-- A read after a write: the written key gives the value, every other key what it gave. -/
theorem mget_mput {α : Type} [DecidableEq α] (d : Nat → α) (m : SMap α) (k : Nat) (v : α) (j : Nat) :
    mget d (mput d m k v) j = if j = k then v else mget d m j := by
  unfold mput
  by_cases hv : v = d k
  · rw [if_pos hv, mget_merase]
    by_cases hj : j = k
    · subst hj; simp [hv]
    · simp [hj]
  · rw [if_neg hv, mget_minsert d _ k v j (merase_ne m k), mget_merase]
    by_cases hj : j = k <;> simp [hj]

@[simp] theorem mget_mput_self {α : Type} [DecidableEq α] (d : Nat → α) (m : SMap α) (k : Nat) (v : α) :
    mget d (mput d m k v) k = v := by simp [mget_mput]

theorem mget_mput_ne {α : Type} [DecidableEq α] (d : Nat → α) (m : SMap α) (k : Nat) (v : α) (j : Nat) (h : j ≠ k) :
    mget d (mput d m k v) j = mget d m j := by simp [mget_mput, h]

theorem mem_merase {α : Type} (m : SMap α) (k : Nat) (e : Nat × α) (h : e ∈ merase m k) : e ∈ m := by
  induction m with
  | nil => simp [merase] at h
  | cons f m ih =>
    obtain ⟨i, v⟩ := f
    by_cases hi : i = k
    · rw [merase, if_pos hi] at h; exact List.mem_cons_of_mem _ (ih h)
    · rw [merase, if_neg hi, List.mem_cons] at h
      rcases h with rfl | h
      · simp
      · exact List.mem_cons_of_mem _ (ih h)

theorem mem_minsert {α : Type} (m : SMap α) (k : Nat) (v : α) (e : Nat × α) (h : e ∈ minsert m k v) : e = (k, v) ∨ e ∈ m := by
  induction m with
  | nil => simp [minsert] at h; exact .inl h
  | cons f m ih =>
    obtain ⟨i, w⟩ := f
    by_cases hk : k < i
    · simp only [minsert, hk, if_true, List.mem_cons] at h ⊢; exact h
    · simp only [minsert, hk, if_false, List.mem_cons] at h ⊢
      rcases h with h | h
      · exact .inr (.inl h)
      · rcases ih h with h | h
        · exact .inl h
        · exact .inr (.inr h)

theorem mrising_cons {α : Type} (i : Nat) (v : α) (m : SMap α) :
    mrising ((i, v) :: m) = true ↔ (∀ e ∈ m, i < e.1) ∧ mrising m = true := by
  simp [mrising]

theorem mrising_merase {α : Type} (m : SMap α) (k : Nat) (h : mrising m = true) : mrising (merase m k) = true := by
  induction m with
  | nil => exact h
  | cons f m ih =>
    obtain ⟨i, v⟩ := f
    rw [mrising_cons] at h
    by_cases hi : i = k
    · rw [merase, if_pos hi]; exact ih h.2
    · rw [merase, if_neg hi, mrising_cons]
      exact ⟨fun e he => h.1 e (mem_merase m k e he), ih h.2⟩

theorem mrising_minsert {α : Type} (m : SMap α) (k : Nat) (v : α) (h : mrising m = true) (hk : ∀ e ∈ m, e.1 ≠ k) :
    mrising (minsert m k v) = true := by
  induction m with
  | nil => simp [minsert, mrising]
  | cons f m ih =>
    obtain ⟨i, w⟩ := f
    have hi : i ≠ k := hk (i, w) (by simp)
    rw [mrising_cons] at h
    by_cases hlt : k < i
    · rw [minsert, if_pos hlt, mrising_cons, mrising_cons]
      refine ⟨fun e he => ?_, h⟩
      rcases List.mem_cons.1 he with rfl | he
      · exact hlt
      · exact Nat.lt_trans hlt (h.1 e he)
    · rw [minsert, if_neg hlt, mrising_cons]
      refine ⟨fun e he => ?_, ih h.2 fun e he => hk e (by simp [he])⟩
      rcases mem_minsert m k v e he with rfl | he
      · exact Nat.lt_of_le_of_ne (Nat.le_of_not_lt hlt) hi
      · exact h.1 e he

/-- A write keeps the canonical form. -/
theorem mwf_mput {α : Type} [DecidableEq α] (d : Nat → α) (m : SMap α) (k : Nat) (v : α) (h : mwf d m = true) :
    mwf d (mput d m k v) = true := by
  simp only [mwf, Bool.and_eq_true, List.all_eq_true, decide_eq_true_eq] at h ⊢
  unfold mput
  by_cases hv : v = d k
  · rw [if_pos hv]
    exact ⟨mrising_merase m k h.1, fun e he => h.2 e (mem_merase m k e he)⟩
  · rw [if_neg hv]
    refine ⟨mrising_minsert _ k v (mrising_merase m k h.1) (merase_ne m k), fun e he => ?_⟩
    rcases mem_minsert _ k v e he with rfl | he
    · exact hv
    · exact h.2 e (mem_merase m k e he)

theorem mrising_filter {α : Type} (p : Nat × α → Bool) (m : SMap α) (h : mrising m = true) : mrising (m.filter p) = true := by
  induction m with
  | nil => exact h
  | cons f m ih =>
    obtain ⟨i, v⟩ := f
    rw [mrising_cons] at h
    by_cases hp : p (i, v) = true
    · rw [List.filter_cons_of_pos hp, mrising_cons]
      exact ⟨fun e he => h.1 e (List.mem_filter.1 he).1, ih h.2⟩
    · rw [List.filter_cons_of_neg hp]; exact ih h.2

/-- Removing entries keeps the canonical form. -/
theorem mwf_filter {α : Type} [DecidableEq α] (d : Nat → α) (p : Nat × α → Bool) (m : SMap α) (h : mwf d m = true) :
    mwf d (m.filter p) = true := by
  simp only [mwf, Bool.and_eq_true, List.all_eq_true, decide_eq_true_eq] at h ⊢
  exact ⟨mrising_filter p m h.1, fun e he => h.2 e (List.mem_filter.1 he).1⟩

@[simp] theorem mwf_nil {α : Type} [DecidableEq α] (d : Nat → α) : mwf d ([] : SMap α) = true := rfl

theorem mwf_foldl_mput {α : Type} [DecidableEq α] (d : Nat → α) (l m : SMap α) (h : mwf d m = true) :
    mwf d (l.foldl (fun m e => mput d m e.1 e.2) m) = true := by
  induction l generalizing m with
  | nil => exact h
  | cons e l ih => exact ih _ (mwf_mput d m e.1 e.2 h)

/-! Memories of bytes. -/

theorem Mem.rd_wr (m : Mem) (a b : Nat) (v : BitVec 8) : (m.wr a v).rd b = if b = a then v else m.rd b := mget_mput _ _ _ _ _

theorem Mem.wf_wr (m : Mem) (a : Nat) (v : BitVec 8) (h : m.wf = true) : (m.wr a v).wf = true := mwf_mput _ _ _ _ h

theorem Mem.wf_wrBytes (m : Mem) (a : Nat) (bs : List (BitVec 8)) (h : m.wf = true) : (m.wrBytes a bs).wf = true := by
  induction bs generalizing m a with
  | nil => exact h
  | cons b bs ih => exact ih _ _ (Mem.wf_wr m a b h)

theorem Mem.wf_foldl_wr (l m : Mem) (h : m.wf = true) : (l.foldl (fun (m : Mem) (e : Nat × BitVec 8) => m.wr e.1 e.2) m).wf = true :=
  mwf_foldl_mput _ _ _ h

theorem Mem.wf_clear (m : Mem) (a n : Nat) (h : m.wf = true) : (m.clear a n).wf = true := mwf_filter _ _ _ h

/-- Every byte after writing a run of bytes: the run's bytes inside it, what was there outside. -/
theorem Mem.rd_wrBytes (m : Mem) (a : Nat) (bs : List (BitVec 8)) (b : Nat) :
    (m.wrBytes a bs).rd b = if a ≤ b ∧ b < a + bs.length then bs.getD (b - a) 0 else m.rd b := by
  induction bs generalizing m a with
  | nil => rw [if_neg (by simp)]; rfl
  | cons c bs ih =>
    rw [Mem.wrBytes, ih, Mem.rd_wr]
    by_cases h : b = a
    · subst h; rw [if_neg (by omega), if_pos rfl, if_pos (by simp)]; simp
    · by_cases h1 : a + 1 ≤ b ∧ b < a + 1 + bs.length
      · rw [if_pos h1, if_pos (by simp only [List.length_cons]; omega)]
        obtain ⟨n, hn⟩ : ∃ n, b - a = n + 1 := ⟨b - a - 1, by omega⟩
        rw [hn, show b - (a + 1) = n by omega]; rfl
      · rw [if_neg h1, if_neg h, if_neg (by simp only [List.length_cons]; omega)]

end Sys2Proof.Machine
end

