-- ==== Sys2Proof/Laws/Reg.lean ====
section
/-!
SUPPORT. Registers and their fields: reading after writing.
-/
namespace Sys2Proof.Machine

theorem wget_bit (w : Word) (lo n i : Nat) : (wget w lo n).testBit i = (decide (i < n) && w.getLsbD (lo + i)) := by
  unfold wget
  rw [BitVec.testBit_toNat, BitVec.getLsbD_extractLsb']

theorem mask_bit (lo n i : Nat) (hi : i < 32) :
    (BitVec.ofNat 32 ((2 ^ n - 1) <<< lo)).getLsbD i = (decide (lo ≤ i) && decide (i < lo + n)) := by
  rw [BitVec.getLsbD_ofNat]
  simp only [Nat.testBit_shiftLeft, Nat.testBit_two_pow_sub_one, hi, decide_true, Bool.true_and]
  by_cases h : lo ≤ i
  · simp [h]; omega
  · simp [h]

theorem value_bit (lo n v i : Nat) (hi : i < 32) :
    (BitVec.ofNat 32 ((v % 2 ^ n) <<< lo)).getLsbD i = (decide (lo ≤ i) && decide (i < lo + n) && v.testBit (i - lo)) := by
  rw [BitVec.getLsbD_ofNat]
  simp only [Nat.testBit_shiftLeft, Nat.testBit_mod_two_pow, hi, decide_true, Bool.true_and]
  by_cases h : lo ≤ i
  · have : (i - lo < n) = (i < lo + n) := by apply propext; omega
    simp [h, this]
  · simp [h]

/-- A word with a field set: the field's bits are the value's, the others as they were. -/
theorem wset_bit (w : Word) (lo n v i : Nat) (hi : i < 32) :
    (wset w lo n v).getLsbD i = if lo ≤ i ∧ i < lo + n then v.testBit (i - lo) else w.getLsbD i := by
  unfold wset
  rw [BitVec.getLsbD_or, BitVec.getLsbD_and, BitVec.getLsbD_not, mask_bit lo n i hi, value_bit lo n v i hi]
  by_cases h : lo ≤ i ∧ i < lo + n
  · simp [h]
  · by_cases h1 : lo ≤ i
    · have h2 : ¬ i < lo + n := fun h2 => h ⟨h1, h2⟩
      simp [h1, h2, hi]
    · simp [h1, hi]

/-- A field reads what was set into it. -/
theorem wget_wset (w : Word) (lo n v : Nat) (h : lo + n ≤ 32) : wget (wset w lo n v) lo n = v % 2 ^ n := by
  apply Nat.eq_of_testBit_eq
  intro i
  rw [wget_bit, Nat.testBit_mod_two_pow]
  by_cases hi : i < n
  · rw [wset_bit _ _ _ _ _ (by omega)]; simp [hi]
  · simp [hi]

/-- A field set elsewhere leaves a field as it was. -/
theorem wget_wset_ne (w : Word) (lo n lo' n' v : Nat) (h : lo' + n' ≤ 32) (hd : lo' + n' ≤ lo ∨ lo + n ≤ lo') :
    wget (wset w lo n v) lo' n' = wget w lo' n' := by
  apply Nat.eq_of_testBit_eq
  intro i
  rw [wget_bit, wget_bit]
  by_cases hi : i < n'
  · rw [wset_bit _ _ _ _ _ (by omega), if_neg (by omega)]
  · simp [hi]

/-! Registers of the state. -/

theorem State.rd_wr (s : State) (o : Nat) (v : Word) (p : Nat) : (s.wr o v).rd p = if p = o then v else s.rd p := mget_mput _ _ _ _ _

@[simp] theorem State.rd_wr_self (s : State) (o : Nat) (v : Word) : (s.wr o v).rd o = v := by simp [State.rd_wr]

theorem State.rd_wr_ne (s : State) (o : Nat) (v : Word) (p : Nat) (h : p ≠ o) : (s.wr o v).rd p = s.rd p := by simp [State.rd_wr, h]

theorem State.rd_set (s : State) (f : Fld) (v p : Nat) :
    (s.set f v).rd p = if p = f.off then wset (s.rd f.off) f.lo f.w v else s.rd p := State.rd_wr _ _ _ _

theorem State.rd_set_ne (s : State) (f : Fld) (v p : Nat) (h : p ≠ f.off) : (s.set f v).rd p = s.rd p := State.rd_wr_ne _ _ _ _ h

/-- A field reads what was set into it. -/
theorem State.get_set (s : State) (f : Fld) (v : Nat) (h : f.lo + f.w ≤ 32) : (s.set f v).get f = v % 2 ^ f.w := by
  unfold State.get
  rw [State.rd_set, if_pos rfl, wget_wset _ _ _ _ h]

/-- A field of another register is as it was. -/
theorem State.get_set_off (s : State) (f g : Fld) (v : Nat) (h : g.off ≠ f.off) : (s.set f v).get g = s.get g := by
  unfold State.get
  rw [State.rd_set_ne _ _ _ _ h]

/-- A field beside the one that was set is as it was. -/
theorem State.get_set_bits (s : State) (f g : Fld) (v : Nat) (hg : g.lo + g.w ≤ 32) (h : g.lo + g.w ≤ f.lo ∨ f.lo + f.w ≤ g.lo) :
    (s.set f v).get g = s.get g := by
  unfold State.get
  rw [State.rd_set]
  split
  · rename_i h1; rw [wget_wset_ne _ _ _ _ _ _ hg h, h1]
  · rfl

theorem State.get_wr_ne (s : State) (o : Nat) (v : Word) (g : Fld) (h : g.off ≠ o) : (s.wr o v).get g = s.get g := by
  unfold State.get
  rw [State.rd_wr_ne _ _ _ _ h]

theorem State.flag_set (s : State) (f : Fld) (v : Nat) (h : f.lo + 1 ≤ 32) (hw : f.w = 1) : (s.set f v).flag f = decide (v % 2 = 1) := by
  unfold State.flag
  rw [State.get_set _ _ _ (by omega), hw]
  rcases Nat.mod_two_eq_zero_or_one v with h | h <;> simp [h]

end Sys2Proof.Machine
end

