-- ==== Sys2Proof/Laws/Cause.lean ====
section
/-!
SUPPORT. All that a crossing can change (17_notices_interrupts.md R630 to R642; 25_diagnostics_service.md R882): the event router's state
and its registers, the diagnostic log's, the waiting threads' event bits, and the pair's note of a fault class.
-/
namespace Sys2Proof.Machine

/-- No register that a crossing writes. -/
def quietReg (o : Nat) : Bool := decide (o < 0x30000) || (decide (0x30020 ≤ o) && decide (o < 0xF0000)) || decide (0xF1000 ≤ o)

/-- State t follows from state s by what crossings change. -/
structure Crosses (s t : State) : Prop where
  rd : ∀ o, quietReg o = true → t.rd o = s.rd o
  rest : { t with regs := s.regs, evt := s.evt, dgn := s.dgn, whl := s.whl, ply := s.ply } = s
  cores : t.whl.cores = s.whl.cores
  ply : { t.ply with faultNow := s.ply.faultNow } = s.ply

theorem Crosses.refl (s : State) : Crosses s s := ⟨fun _ _ => rfl, rfl, rfl, rfl⟩

theorem Crosses.trans {s t u : State} (h : Crosses s t) (k : Crosses t u) : Crosses s u := by
  refine ⟨fun o q => (k.rd o q).trans (h.rd o q), ?_, k.cores.trans h.cores, ?_⟩
  · have a := h.rest
    have b := k.rest
    rw [← b] at a
    exact a
  · have a := h.ply
    have b := k.ply
    rw [← b] at a
    exact a

theorem Crosses.ite {s a b : State} {c : Prop} [Decidable c] (ha : Crosses s a) (hb : Crosses s b) : Crosses s (if c then a else b) := by
  split
  · exact ha
  · exact hb

/-- A write of one of the router's or the log's registers. -/
theorem Crosses.wr {s t : State} (h : Crosses s t) (o : Nat) (v : Word) (q : quietReg o = false) : Crosses s (t.wr o v) := by
  refine h.trans ⟨fun p hp => State.rd_wr_ne _ _ _ _ ?_, rfl, rfl, rfl⟩
  rintro rfl
  rw [q] at hp
  cases hp

theorem Crosses.set {s t : State} (h : Crosses s t) (f : Fld) (v : Nat) (q : quietReg f.off = false) : Crosses s (t.set f v) := h.wr _ _ q

theorem crosses_setThread {s t : State} (tid : Nat) (x : Thread) (h : Crosses s t) : Crosses s (t.setThread tid x) :=
  h.trans ⟨fun _ _ => rfl, rfl, rfl, rfl⟩

theorem crosses_raiseEvent {s t : State} (tid bit : Nat) (h : Crosses s t) : Crosses s (raiseEvent tid bit t) :=
  crosses_setThread _ _ h

theorem crosses_sendMsix {s t : State} (v : Nat) (h : Crosses s t) : Crosses s (sendMsix v t) := by
  unfold sendMsix
  refine Crosses.ite ?_ ?_ <;> exact h.trans ⟨fun _ _ => rfl, rfl, rfl, rfl⟩

theorem crosses_toIntn {s t : State} (n : Nat) (h : Crosses s t) : Crosses s (toIntn n t) :=
  h.trans ⟨fun _ _ => rfl, rfl, rfl, rfl⟩

theorem crosses_deliver {s t : State} (n : Nat) (h : Crosses s t) : Crosses s (deliver n t) := by
  unfold deliver
  split
  · exact Crosses.ite (crosses_toIntn _ (h.set _ _ (by decide))) (crosses_sendMsix _ h)
  · exact Crosses.ite (crosses_raiseEvent _ _ h) (crosses_toIntn _ (h.set _ _ (by decide)))
  · exact crosses_toIntn _ h

theorem sticky_loud {n : Nat} (hn : n < 96) : quietReg (stickyFld n).off = false := by
  have h : n / 32 < 3 := by omega
  have e : ∀ k < 3, quietReg (R.EVT_PEND k) = false := by decide
  exact e _ h

theorem crosses_crossEvt {s t : State} {n : Nat} (hn : n < 96) (h : Crosses s t) : Crosses s (crossEvt n t) := by
  unfold crossEvt
  exact Crosses.ite h (Crosses.ite h (Crosses.ite (crosses_deliver _ (h.set _ _ (sticky_loud hn))) (h.set _ _ (sticky_loud hn))))

theorem crosses_snapCause {s t : State} (f : Fld) (hf : quietReg f.off = false) (h : Crosses s t) : Crosses s (snapCause f t) :=
  Crosses.ite (crosses_crossEvt (by decide) (h.set _ _ hf)) (h.set _ _ hf)

theorem crosses_snapshot {s t : State} (n : Nat) (h : Crosses s t) : Crosses s (snapshot n t) := by
  unfold snapshot
  refine Crosses.ite h (Crosses.ite (crosses_snapCause _ (by decide) (h.trans ⟨fun _ _ => rfl, rfl, rfl, rfl⟩))
    (crosses_snapCause _ (by decide) (h.wr _ _ (by decide))))

/-- All that a crossing can change. -/
theorem crosses_crossing {s t : State} {n : Nat} (hn : n < 96) (h : Crosses s t) : Crosses s (crossing n t) :=
  Crosses.ite (crosses_snapshot _ (crosses_crossEvt hn h)) (crosses_crossEvt hn h)

theorem crosses_plyFault {s t : State} (h : Crosses s t) : Crosses s (plyFault t) :=
  Crosses.ite (h.trans ⟨fun _ _ => rfl, rfl, rfl, rfl⟩) h

/-- All that a cause can change, beside its own bit. -/
theorem cause_crosses (f : Fld) {n : Nat} (s : State) (hn : n < 96) : Crosses (s.set f 1) (cause f n s) := by
  have h : Crosses (s.set f 1) (if plyFaultSource n then plyFault (s.set f 1) else s.set f 1) :=
    Crosses.ite (crosses_plyFault (Crosses.refl _)) (Crosses.refl _)
  exact Crosses.ite (crosses_crossing hn h) h

/-! What a crossing leaves as it was. -/

theorem Crosses.pending {s t : State} (h : Crosses s t) : t.pending = s.pending := by rw [← h.rest]

theorem Crosses.free {s t : State} (h : Crosses s t) : t.free = s.free := by rw [← h.rest]

theorem Crosses.resp {s t : State} (h : Crosses s t) : t.resp = s.resp := by rw [← h.rest]

theorem Crosses.out {s t : State} (h : Crosses s t) : t.out = s.out := by rw [← h.rest]

theorem Crosses.capHi {s t : State} (h : Crosses s t) : t.capHi = s.capHi := by rw [← h.rest]

theorem Crosses.heldLo {s t : State} (h : Crosses s t) : t.heldLo = s.heldLo := by rw [← h.rest]

theorem Crosses.rcap {s t : State} (h : Crosses s t) : t.rcap = s.rcap := by rw [← h.rest]

theorem Crosses.pkt {s t : State} (h : Crosses s t) : t.pkt = s.pkt := by rw [← h.rest]

theorem Crosses.fuses {s t : State} (h : Crosses s t) : t.fuses = s.fuses := by rw [← h.rest]

theorem Crosses.held {s t : State} (h : Crosses s t) : t.held = s.held := by rw [← h.rest]

theorem Crosses.burn {s t : State} (h : Crosses s t) : t.burn = s.burn := by rw [← h.rest]

theorem Crosses.clk {s t : State} (h : Crosses s t) : t.clk = s.clk := by rw [← h.rest]

theorem Crosses.sys {s t : State} (h : Crosses s t) : t.sys = s.sys := by rw [← h.rest]

theorem Crosses.vnr {s t : State} (h : Crosses s t) : t.vnr = s.vnr := by rw [← h.rest]

theorem Crosses.mqy {s t : State} (h : Crosses s t) : t.mqy = s.mqy := by rw [← h.rest]

theorem Crosses.prt {s t : State} (h : Crosses s t) : t.prt = s.prt := by rw [← h.rest]

theorem Crosses.prs {s t : State} (h : Crosses s t) : t.prs = s.prs := by rw [← h.rest]

theorem Crosses.bpm {s t : State} (h : Crosses s t) : t.bpm = s.bpm := by rw [← h.rest]

theorem Crosses.locks {s t : State} (h : Crosses s t) : t.locks = s.locks := by rw [← h.rest]

theorem Crosses.dst {s t : State} (h : Crosses s t) : t.dst = s.dst := by rw [← h.rest]

theorem Crosses.fwd {s t : State} (h : Crosses s t) : t.fwd = s.fwd := by rw [← h.rest]

theorem Crosses.hif {s t : State} (h : Crosses s t) : t.hif = s.hif := by rw [← h.rest]

theorem Crosses.aud {s t : State} (h : Crosses s t) : t.aud = s.aud := by rw [← h.rest]

theorem Crosses.safe {s t : State} (h : Crosses s t) : t.safe = s.safe := by rw [← h.rest]

theorem Crosses.pws {s t : State} (h : Crosses s t) : t.pws = s.pws := by rw [← h.rest]

theorem Crosses.cal {s t : State} (h : Crosses s t) : t.cal = s.cal := by rw [← h.rest]

theorem Crosses.jrn {s t : State} (h : Crosses s t) : t.jrn = s.jrn := by rw [← h.rest]

theorem Crosses.thm {s t : State} (h : Crosses s t) : t.thm = s.thm := by rw [← h.rest]

theorem Crosses.ist {s t : State} (h : Crosses s t) : t.ist = s.ist := by rw [← h.rest]

theorem Crosses.tap {s t : State} (h : Crosses s t) : t.tap = s.tap := by rw [← h.rest]

/-! The same of a cause, for simp. -/

section
variable (f : Fld) (n : Nat) (s : State) (hn : n < 96)
include hn

@[simp] theorem cause_pending : (cause f n s).pending = s.pending := (cause_crosses f s hn).pending

@[simp] theorem cause_free : (cause f n s).free = s.free := (cause_crosses f s hn).free

@[simp] theorem cause_resp : (cause f n s).resp = s.resp := (cause_crosses f s hn).resp

@[simp] theorem cause_out : (cause f n s).out = s.out := (cause_crosses f s hn).out

@[simp] theorem cause_capHi : (cause f n s).capHi = s.capHi := (cause_crosses f s hn).capHi

@[simp] theorem cause_heldLo : (cause f n s).heldLo = s.heldLo := (cause_crosses f s hn).heldLo

@[simp] theorem cause_rcap : (cause f n s).rcap = s.rcap := (cause_crosses f s hn).rcap

@[simp] theorem cause_pkt : (cause f n s).pkt = s.pkt := (cause_crosses f s hn).pkt

@[simp] theorem cause_fuses : (cause f n s).fuses = s.fuses := (cause_crosses f s hn).fuses

@[simp] theorem cause_held : (cause f n s).held = s.held := (cause_crosses f s hn).held

@[simp] theorem cause_burn : (cause f n s).burn = s.burn := (cause_crosses f s hn).burn

@[simp] theorem cause_clk : (cause f n s).clk = s.clk := (cause_crosses f s hn).clk

@[simp] theorem cause_sys : (cause f n s).sys = s.sys := (cause_crosses f s hn).sys

@[simp] theorem cause_vnr : (cause f n s).vnr = s.vnr := (cause_crosses f s hn).vnr

@[simp] theorem cause_mqy : (cause f n s).mqy = s.mqy := (cause_crosses f s hn).mqy

@[simp] theorem cause_prt : (cause f n s).prt = s.prt := (cause_crosses f s hn).prt

@[simp] theorem cause_prs : (cause f n s).prs = s.prs := (cause_crosses f s hn).prs

@[simp] theorem cause_bpm : (cause f n s).bpm = s.bpm := (cause_crosses f s hn).bpm

@[simp] theorem cause_locks : (cause f n s).locks = s.locks := (cause_crosses f s hn).locks

@[simp] theorem cause_dst : (cause f n s).dst = s.dst := (cause_crosses f s hn).dst

@[simp] theorem cause_fwd : (cause f n s).fwd = s.fwd := (cause_crosses f s hn).fwd

@[simp] theorem cause_hif : (cause f n s).hif = s.hif := (cause_crosses f s hn).hif

@[simp] theorem cause_aud : (cause f n s).aud = s.aud := (cause_crosses f s hn).aud

@[simp] theorem cause_safe : (cause f n s).safe = s.safe := (cause_crosses f s hn).safe

@[simp] theorem cause_pws : (cause f n s).pws = s.pws := (cause_crosses f s hn).pws

@[simp] theorem cause_cal : (cause f n s).cal = s.cal := (cause_crosses f s hn).cal

@[simp] theorem cause_jrn : (cause f n s).jrn = s.jrn := (cause_crosses f s hn).jrn

@[simp] theorem cause_thm : (cause f n s).thm = s.thm := (cause_crosses f s hn).thm

@[simp] theorem cause_ist : (cause f n s).ist = s.ist := (cause_crosses f s hn).ist

@[simp] theorem cause_tap : (cause f n s).tap = s.tap := (cause_crosses f s hn).tap

@[simp] theorem cause_cores : (cause f n s).whl.cores = s.whl.cores := (cause_crosses f s hn).cores

theorem cause_rd (o : Nat) (q : quietReg o = true) : (cause f n s).rd o = (s.set f 1).rd o := (cause_crosses f s hn).rd o q

theorem cause_get (g : Fld) (q : quietReg g.off = true) : (cause f n s).get g = (s.set f 1).get g := by
  unfold State.get
  rw [cause_rd f n s hn _ q]

/-- A field of another register is as it was. -/
theorem cause_get_off (g : Fld) (q : quietReg g.off = true) (h : g.off ≠ f.off) : (cause f n s).get g = s.get g := by
  rw [cause_get f n s hn g q, State.get_set_off _ _ _ _ h]

/-- The cause's own bit is set. -/
theorem cause_get_self (q : quietReg f.off = true) (h : f.lo + 1 ≤ 32) (hw : f.w = 1) : (cause f n s).get f = 1 := by
  rw [cause_get f n s hn f q, State.get_set _ _ _ (by omega), hw]; rfl

end

end Sys2Proof.Machine
end

