-- ==== Sys2Proof/Laws/Keeps.lean ====
section
/-!
SUPPORT. What every command keeps: the queue of waiting commands, the canonical form of registers and memories, and the order of the
free-value counter. One lemma for each operation says that it keeps them; the other files of this kind go through the model file by
file.
-/
namespace Sys2Proof.Machine

/-- State t follows from state s by operations that leave the queue alone, keep the memories canonical and use no free value
twice. -/
structure Keeps (s t : State) : Prop where
  pending : t.pending = s.pending
  free : s.free ≤ t.free
  canonical : s.canonical = true → t.canonical = true

/-- The answer is a next state, and the same holds of it. -/
def KeepsO (s : State) (o : Out) : Prop := ∃ t, o = .next t ∧ Keeps s t

/-- The same of an optional state. -/
def KeepsM (s : State) (o : Option State) : Prop := ∀ t, o = some t → Keeps s t

/-- The same of an optional answer. -/
def KeepsMO (s : State) (o : Option Out) : Prop := ∀ r, o = some r → KeepsO s r

/-- The same of an optional pair whose second part is a state. -/
def KeepsMP {α : Type} (s : State) (o : Option (α × State)) : Prop := ∀ p, o = some p → Keeps s p.2

theorem Keeps.refl (s : State) : Keeps s s := ⟨rfl, Nat.le_refl _, id⟩

theorem Keeps.trans {s t u : State} (h : Keeps s t) (k : Keeps t u) : Keeps s u :=
  ⟨k.pending.trans h.pending, Nat.le_trans h.free k.free, fun c => k.canonical (h.canonical c)⟩

/-- An update of other fields. -/
theorem Keeps.same {s t : State} {xresp : SMap Word} {xout : List Output} {xcapHi : SMap (Option Word)} {xheldLo : SMap (Option
    Word)} {xrcap : SMap Nat} {xfuses : Fuses} {xheld : Fuses} {xburn : Burn} {xclk : Clk} {xsys : Sys} {xvnr : Vnr} {xmqy : Mqy}
    {xprt : Prt} {xprs : Prs} {xbpm : Bpm} {xlocks : SMap Lock} {xdst : Dst} {xwhl : Whl} {xfwd : Fwd} {xhif : Hif} {xevt : Evt}
    {xaud : Aud} {xsafe : Safe} {xpws : Pws} {xcal : Cal} {xjrn : Jrn} {xthm : Thm} {xist : Ist} {xdgn : Dgn} {xtap : Tap} {xply :
    Ply}
    (h : Keeps s t) (hw : xfwd.mem = t.fwd.mem) (hj : xjrn.mem = t.jrn.mem) (hh : xhif.mem = t.hif.mem) :
    Keeps s (State.mk t.pending t.free t.regs xresp xout xcapHi xheldLo xrcap t.pkt xfuses xheld xburn xclk xsys xvnr xmqy xprt
    xprs xbpm xlocks xdst xwhl xfwd xhif xevt xaud xsafe xpws xcal xjrn xthm xist xdgn xtap xply) := by
  refine h.trans ⟨rfl, Nat.le_refl _, fun c => ?_⟩
  simpa only [State.canonical, hw, hj, hh] using c

/-- An update that may write memories, keeping their form. -/
theorem Keeps.mems {s t : State} {xregs : SMap Word} {xpkt : Mem} {xresp : SMap Word} {xout : List Output} {xcapHi : SMap (Option
    Word)} {xheldLo : SMap (Option Word)} {xrcap : SMap Nat} {xfuses : Fuses} {xheld : Fuses} {xburn : Burn} {xclk : Clk} {xsys :
    Sys} {xvnr : Vnr} {xmqy : Mqy} {xprt : Prt} {xprs : Prs} {xbpm : Bpm} {xlocks : SMap Lock} {xdst : Dst} {xwhl : Whl} {xfwd :
    Fwd} {xhif : Hif} {xevt : Evt} {xaud : Aud} {xsafe : Safe} {xpws : Pws} {xcal : Cal} {xjrn : Jrn} {xthm : Thm} {xist : Ist}
    {xdgn : Dgn} {xtap : Tap} {xply : Ply} (h : Keeps s t)
    (hr : mwf resetWord t.regs = true → mwf resetWord xregs = true) (hk : t.pkt.wf = true → xpkt.wf = true)
    (hw : t.fwd.mem.wf = true → xfwd.mem.wf = true) (hj : t.jrn.mem.wf = true → xjrn.mem.wf = true)
    (hh : t.hif.mem.wf = true → xhif.mem.wf = true) :
    Keeps s (State.mk t.pending t.free xregs xresp xout xcapHi xheldLo xrcap xpkt xfuses xheld xburn xclk xsys xvnr xmqy xprt xprs
    xbpm xlocks xdst xwhl xfwd xhif xevt xaud xsafe xpws xcal xjrn xthm xist xdgn xtap xply) := by
  refine h.trans ⟨rfl, Nat.le_refl _, fun c => ?_⟩
  simp only [State.canonical, Bool.and_eq_true] at c ⊢
  exact ⟨⟨⟨⟨hr c.1.1.1.1, hk c.1.1.1.2⟩, hw c.1.1.2⟩, hj c.1.2⟩, hh c.2⟩

theorem KeepsO.next {s t : State} (h : Keeps s t) : KeepsO s (.next t) := ⟨t, rfl, h⟩

theorem KeepsO.fault (s : State) (f : Fault) : KeepsO s (.fault f) := nomatch f

theorem KeepsO.stay {s t : State} (h : Keeps s t) : KeepsO s (stay t) := KeepsO.next h

theorem KeepsM.none (s : State) : KeepsM s none := by intro u e; cases e

theorem KeepsM.some {s t : State} (h : Keeps s t) : KeepsM s (some t) := by intro u e; cases e; exact h

theorem KeepsMO.none (s : State) : KeepsMO s none := by intro u e; cases e

theorem KeepsMO.some {s : State} {r : Out} (h : KeepsO s r) : KeepsMO s (some r) := by intro u e; cases e; exact h

theorem Keeps.ofPair {α : Type} {s t : State} {p : α × State} {a : α} (e : p = (a, t)) (h : Keeps s p.2) : Keeps s t := by
  subst e; exact h

theorem Keeps.ofPair2 {α β : Type} {s t : State} {p : α × β × State} {a : α} {b : β} (e : p = (a, b, t)) (h : Keeps s p.2.2) :
    Keeps s t := by
  subst e; exact h

theorem Keeps.ofM {s t : State} {o : Option State} (e : o = Option.some t) (h : KeepsM s o) : Keeps s t := h t e

theorem Keeps.ofO {s t : State} {o : Out} (e : o = .next t) (h : KeepsO s o) : Keeps s t := by
  obtain ⟨u, hu, hk⟩ := h
  rw [hu] at e
  cases e
  exact hk

theorem KeepsMP.none {α : Type} (s : State) : KeepsMP s (none : Option (α × State)) := by intro u e; cases e

theorem KeepsMP.some {α : Type} {s : State} {p : α × State} (h : Keeps s p.2) : KeepsMP s (some p) := by
  intro u e; cases e; exact h

theorem Keeps.ofMP {α : Type} {s t : State} {o : Option (α × State)} {a : α} (e : o = Option.some (a, t)) (h : KeepsMP s o) :
    Keeps s t := h _ e

theorem KeepsO.ofMO {s : State} {o : Option Out} {r : Out} (e : o = Option.some r) (h : KeepsMO s o) : KeepsO s r := h _ e

theorem keeps_ite {s a b : State} {c : Prop} [Decidable c] (ha : Keeps s a) (hb : Keeps s b) : Keeps s (if c then a else b) := by
  split
  · exact ha
  · exact hb

theorem keepsP_ite {α : Type} {s : State} {a b : α × State} {c : Prop} [Decidable c] (ha : Keeps s a.2) (hb : Keeps s b.2) :
    Keeps s (if c then a else b).2 := by
  split
  · exact ha
  · exact hb

theorem keepsO_ite {s : State} {a b : Out} {c : Prop} [Decidable c] (ha : KeepsO s a) (hb : KeepsO s b) :
    KeepsO s (if c then a else b) := by
  split
  · exact ha
  · exact hb

theorem keeps_foldl {α : Type} {s : State} (f : State → α → State) (l : List α) (t : State) (h : Keeps s t)
    (hf : ∀ u x, Keeps s u → Keeps s (f u x)) : Keeps s (l.foldl f t) := by
  induction l generalizing t with
  | nil => exact h
  | cons x l ih => exact ih _ (hf t x h)

/-! The operations of Machine/Ops.lean. -/

theorem keeps_wr {s t : State} (o : Nat) (v : Word) (h : Keeps s t) : Keeps s (t.wr o v) := by
  refine h.trans ⟨rfl, Nat.le_refl _, fun c => ?_⟩
  simp only [State.canonical, Bool.and_eq_true] at c ⊢
  exact ⟨⟨⟨⟨mwf_mput _ _ _ _ c.1.1.1.1, c.1.1.1.2⟩, c.1.1.2⟩, c.1.2⟩, c.2⟩

theorem keeps_resetRegs {s t : State} (b n : Nat) (h : Keeps s t) : Keeps s (t.resetRegs b n) := by
  refine h.trans ⟨rfl, Nat.le_refl _, fun c => ?_⟩
  simp only [State.canonical, Bool.and_eq_true] at c ⊢
  exact ⟨⟨⟨⟨mwf_filter _ _ _ c.1.1.1.1, c.1.1.1.2⟩, c.1.1.2⟩, c.1.2⟩, c.2⟩

theorem keeps_set {s t : State} (f : Fld) (v : Nat) (h : Keeps s t) : Keeps s (t.set f v) := keeps_wr _ _ h

theorem keeps_draw {s t : State} (k : Nat) (h : Keeps s t) : Keeps s (t.draw k).2 :=
  h.trans ⟨rfl, Nat.le_succ _, fun c => c⟩

theorem keeps_setPkt {s t : State} (m : Mem) (h : Keeps s t) (hm : t.pkt.wf = true → m.wf = true) : Keeps s (t.setPkt m) := by
  refine h.trans ⟨rfl, Nat.le_refl _, fun c => ?_⟩
  simp only [State.canonical, Bool.and_eq_true] at c ⊢
  exact ⟨⟨⟨⟨c.1.1.1.1, hm c.1.1.1.2⟩, c.1.1.2⟩, c.1.2⟩, c.2⟩

theorem keeps_pkt_wrBytes {s t : State} (a : Nat) (bs : List Byte) (h : Keeps s t) : Keeps s (t.setPkt (t.pkt.wrBytes a bs)) :=
  keeps_setPkt _ h (Mem.wf_wrBytes _ _ _)

theorem keeps_pkt_wr {s t : State} (a : Nat) (b : Byte) (h : Keeps s t) : Keeps s (t.setPkt (t.pkt.wr a b)) :=
  keeps_setPkt _ h (Mem.wf_wr _ _ _)

theorem keeps_pkt_clear {s t : State} (a n : Nat) (h : Keeps s t) : Keeps s (t.setPkt (t.pkt.clear a n)) :=
  keeps_setPkt _ h (Mem.wf_clear _ _ _)

theorem keeps_pkt_nil {s t : State} (h : Keeps s t) : Keeps s (t.setPkt []) := keeps_setPkt _ h fun _ => rfl

end Sys2Proof.Machine
end

