-- ==== Sys2Proof/Laws/KeepsOps.lean ====
section
/-!
SUPPORT. What Machine/Ops.lean keeps (Laws/Keeps.lean).
-/
namespace Sys2Proof.Machine
set_option linter.unusedTactic false
set_option linter.unreachableTactic false
set_option linter.unusedVariables false

theorem keeps_bump (o : Nat) (n : Nat) {s t : State} (hk : Keeps s t) : Keeps s (State.bump t o n) := by
  unfold State.bump
  repeat' first
    | with_reducible first | assumption | apply keeps_wr

theorem keeps_wr64 (o v : Nat) {s t : State} (hk : Keeps s t) : Keeps s (State.wr64 t o v) := by
  unfold State.wr64
  repeat' first
    | with_reducible first | assumption | apply keeps_wr

theorem keeps_setThread (tid : Nat) (t : Thread) {s u0 : State} (hk : Keeps s u0) : Keeps s (State.setThread u0 tid t) := by
  unfold State.setThread
  repeat' first
    | with_reducible assumption
    | with_reducible refine fun _ => ?_
    | with_reducible fail_if_no_progress (refine Keeps.same ?_ rfl rfl rfl)
    | ((try lift_lets); intro x; first | (refine (fun hx : Keeps s x => ?_) ?_; (on_goal 1 => clear_value x); (on_goal 2 => subst x)) | (have hf : ∀ a, x a = x a := fun _ => rfl; clear hf; subst x) | clear_value x | subst x)
    | beta_reduce

theorem keeps_setCore (n : Nat) (c : Core) {s t : State} (hk : Keeps s t) : Keeps s (State.setCore t n c) := by
  unfold State.setCore
  repeat' first
    | with_reducible assumption
    | with_reducible refine fun _ => ?_
    | with_reducible fail_if_no_progress (refine Keeps.same ?_ rfl rfl rfl)
    | ((try lift_lets); intro x; first | (refine (fun hx : Keeps s x => ?_) ?_; (on_goal 1 => clear_value x); (on_goal 2 => subst x)) | (have hf : ∀ a, x a = x a := fun _ => rfl; clear hf; subst x) | clear_value x | subst x)
    | beta_reduce

theorem keeps_setPanel (p : Nat) (x : Panel) {s t : State} (hk : Keeps s t) : Keeps s (State.setPanel t p x) := by
  unfold State.setPanel
  repeat' first
    | with_reducible assumption
    | with_reducible refine fun _ => ?_
    | with_reducible fail_if_no_progress (refine Keeps.same ?_ rfl rfl rfl)
    | ((try lift_lets); intro x; first | (refine (fun hx : Keeps s x => ?_) ?_; (on_goal 1 => clear_value x); (on_goal 2 => subst x)) | (have hf : ∀ a, x a = x a := fun _ => rfl; clear hf; subst x) | clear_value x | subst x)
    | beta_reduce

theorem keeps_setPort (p : Nat) (x : Port) {s t : State} (hk : Keeps s t) : Keeps s (State.setPort t p x) := by
  unfold State.setPort
  repeat' first
    | with_reducible assumption
    | with_reducible refine fun _ => ?_
    | with_reducible fail_if_no_progress (refine Keeps.same ?_ rfl rfl rfl)
    | ((try lift_lets); intro x; first | (refine (fun hx : Keeps s x => ?_) ?_; (on_goal 1 => clear_value x); (on_goal 2 => subst x)) | (have hf : ∀ a, x a = x a := fun _ => rfl; clear hf; subst x) | clear_value x | subst x)
    | beta_reduce

theorem keeps_setLock (n : Nat) (x : Lock) {s t : State} (hk : Keeps s t) : Keeps s (State.setLock t n x) := by
  unfold State.setLock
  repeat' first
    | with_reducible assumption
    | with_reducible refine fun _ => ?_
    | with_reducible fail_if_no_progress (refine Keeps.same ?_ rfl rfl rfl)
    | ((try lift_lets); intro x; first | (refine (fun hx : Keeps s x => ?_) ?_; (on_goal 1 => clear_value x); (on_goal 2 => subst x)) | (have hf : ∀ a, x a = x a := fun _ => rfl; clear hf; subst x) | clear_value x | subst x)
    | beta_reduce

theorem keeps_emit (o : Output) {s t : State} (hk : Keeps s t) : Keeps s (State.emit t o) := by
  unfold State.emit
  repeat' first
    | with_reducible assumption
    | with_reducible fail_if_no_progress (refine Keeps.same ?_ rfl rfl rfl)
    | ((try lift_lets); intro x; first | (refine (fun hx : Keeps s x => ?_) ?_; (on_goal 1 => clear_value x); (on_goal 2 => subst x)) | (have hf : ∀ a, x a = x a := fun _ => rfl; clear hf; subst x) | clear_value x | subst x)

theorem keeps_respond (aid : Nat) (v : Word) {s t : State} (hk : Keeps s t) : Keeps s (respond aid v t) := by
  unfold respond
  repeat' first
    | with_reducible assumption
    | with_reducible refine fun _ => ?_
    | with_reducible fail_if_no_progress (refine Keeps.same ?_ rfl rfl rfl)
    | ((try lift_lets); intro x; first | (refine (fun hx : Keeps s x => ?_) ?_; (on_goal 1 => clear_value x); (on_goal 2 => subst x)) | (have hf : ∀ a, x a = x a := fun _ => rfl; clear hf; subst x) | clear_value x | subst x)
    | beta_reduce

theorem keeps_stay {s t : State} (hk : Keeps s t) : KeepsO s (stay t) := by
  unfold stay
  repeat' first
    | with_reducible first | assumption | apply KeepsO.next | apply KeepsO.fault | apply KeepsO.stay

theorem keeps_raiseEvent (tid bit : Nat) {s t : State} (hk : Keeps s t) : Keeps s (raiseEvent tid bit t) := by
  unfold raiseEvent
  repeat' first
    | with_reducible first | assumption | apply keeps_setThread
    | with_reducible fail_if_no_progress (refine Keeps.same ?_ rfl rfl rfl)
    | ((try lift_lets); intro x; first | (refine (fun hx : Keeps s x => ?_) ?_; (on_goal 1 => clear_value x); (on_goal 2 => subst x)) | (have hf : ∀ a, x a = x a := fun _ => rfl; clear hf; subst x) | clear_value x | subst x)
    | with_reducible first | refine keeps_ite ?_ ?_ | refine keepsO_ite ?_ ?_
    | split

theorem keeps_sendMsix (v : Nat) {s t : State} (hk : Keeps s t) : Keeps s (sendMsix v t) := by
  unfold sendMsix
  repeat' first
    | with_reducible assumption
    | with_reducible refine fun _ => ?_
    | with_reducible fail_if_no_progress (refine Keeps.same ?_ rfl rfl rfl)
    | ((try lift_lets); intro x; first | (refine (fun hx : Keeps s x => ?_) ?_; (on_goal 1 => clear_value x); (on_goal 2 => subst x)) | (have hf : ∀ a, x a = x a := fun _ => rfl; clear hf; subst x) | clear_value x | subst x)
    | with_reducible first | refine keeps_ite ?_ ?_ | refine keepsO_ite ?_ ?_
    | split
    | beta_reduce

theorem keeps_toIntn (n : Nat) {s t : State} (hk : Keeps s t) : Keeps s (toIntn n t) := by
  unfold toIntn
  repeat' first
    | with_reducible assumption
    | with_reducible refine fun _ => ?_
    | with_reducible fail_if_no_progress (refine Keeps.same ?_ rfl rfl rfl)
    | ((try lift_lets); intro x; first | (refine (fun hx : Keeps s x => ?_) ?_; (on_goal 1 => clear_value x); (on_goal 2 => subst x)) | (have hf : ∀ a, x a = x a := fun _ => rfl; clear hf; subst x) | clear_value x | subst x)
    | beta_reduce

theorem keeps_deliver (n : Nat) {s t : State} (hk : Keeps s t) : Keeps s (deliver n t) := by
  unfold deliver
  repeat' first
    | with_reducible first | assumption | apply keeps_toIntn | apply keeps_set | apply keeps_sendMsix | apply keeps_raiseEvent
    | with_reducible fail_if_no_progress (refine Keeps.same ?_ rfl rfl rfl)
    | ((try lift_lets); intro x; first | (refine (fun hx : Keeps s x => ?_) ?_; (on_goal 1 => clear_value x); (on_goal 2 => subst x)) | (have hf : ∀ a, x a = x a := fun _ => rfl; clear hf; subst x) | (have hf : (x : Hif) = x := rfl; clear hf; subst x) | clear_value x | subst x)
    | with_reducible first | refine keeps_ite ?_ ?_ | refine keepsO_ite ?_ ?_
    | split
    | with_reducible first | refine Keeps.ofPair (by assumption) ?_ | refine Keeps.ofPair2 (by assumption) ?_ | refine Keeps.ofM (by assumption) ?_ | refine Keeps.ofMP (by assumption) ?_ | refine KeepsO.ofMO (by assumption) ?_ | refine Keeps.ofO (by assumption) ?_
    | dsimp (zeta := false) only
    | dsimp only

theorem keeps_crossEvt (n : Nat) {s t : State} (hk : Keeps s t) : Keeps s (crossEvt n t) := by
  unfold crossEvt
  repeat' first
    | with_reducible first | assumption | apply keeps_set | apply keeps_deliver
    | ((try lift_lets); intro x; first | (refine (fun hx : Keeps s x => ?_) ?_; (on_goal 1 => clear_value x); (on_goal 2 => subst x)) | (have hf : ∀ a, x a = x a := fun _ => rfl; clear hf; subst x) | clear_value x | subst x)
    | with_reducible first | refine keeps_ite ?_ ?_ | refine keepsO_ite ?_ ?_
    | split

theorem keeps_snapCause (f : Fld) {s t : State} (hk : Keeps s t) : Keeps s (snapCause f t) := by
  unfold snapCause
  repeat' first
    | with_reducible first | assumption | apply keeps_set | apply keeps_crossEvt
    | ((try lift_lets); intro x; first | (refine (fun hx : Keeps s x => ?_) ?_; (on_goal 1 => clear_value x); (on_goal 2 => subst x)) | (have hf : ∀ a, x a = x a := fun _ => rfl; clear hf; subst x) | clear_value x | subst x)
    | with_reducible first | refine keeps_ite ?_ ?_ | refine keepsO_ite ?_ ?_
    | split

theorem keeps_snapshot (n : Nat) {s t : State} (hk : Keeps s t) : Keeps s (snapshot n t) := by
  unfold snapshot
  repeat' first
    | with_reducible first | assumption | apply keeps_snapCause | apply keeps_bump
    | with_reducible fail_if_no_progress (refine Keeps.same ?_ rfl rfl rfl)
    | ((try lift_lets); intro x; first | (refine (fun hx : Keeps s x => ?_) ?_; (on_goal 1 => clear_value x); (on_goal 2 => subst x)) | (have hf : ∀ a, x a = x a := fun _ => rfl; clear hf; subst x) | clear_value x | subst x)
    | with_reducible first | refine keeps_ite ?_ ?_ | refine keepsO_ite ?_ ?_
    | split

theorem keeps_crossing (n : Nat) {s t : State} (hk : Keeps s t) : Keeps s (crossing n t) := by
  unfold crossing
  repeat' first
    | with_reducible first | assumption | apply keeps_crossEvt | apply keeps_snapshot
    | ((try lift_lets); intro x; first | (refine (fun hx : Keeps s x => ?_) ?_; (on_goal 1 => clear_value x); (on_goal 2 => subst x)) | (have hf : ∀ a, x a = x a := fun _ => rfl; clear hf; subst x) | clear_value x | subst x)
    | with_reducible first | refine keeps_ite ?_ ?_ | refine keepsO_ite ?_ ?_
    | split

theorem keeps_plySend (r : LogRec) {s t : State} (hk : Keeps s t) : Keeps s (plySend r t) := by
  unfold plySend
  repeat' first
    | with_reducible first | assumption | apply keeps_latch | apply keeps_emit
    | with_reducible fail_if_no_progress (refine Keeps.same ?_ rfl rfl rfl)
    | ((try lift_lets); intro x; first | (refine (fun hx : Keeps s x => ?_) ?_; (on_goal 1 => clear_value x); (on_goal 2 => subst x)) | (have hf : ∀ a, x a = x a := fun _ => rfl; clear hf; subst x) | clear_value x | subst x)
    | with_reducible first | refine keeps_ite ?_ ?_ | refine keepsO_ite ?_ ?_
    | split
    | with_reducible first | refine Keeps.ofPair (by assumption) ?_ | refine Keeps.ofPair2 (by assumption) ?_ | refine Keeps.ofM (by assumption) ?_ | refine Keeps.ofMP (by assumption) ?_ | refine KeepsO.ofMO (by assumption) ?_ | refine Keeps.ofO (by assumption) ?_
    | dsimp (zeta := false) only
    | dsimp only

theorem keeps_plyFault {s t : State} (hk : Keeps s t) : Keeps s (plyFault t) := by
  unfold plyFault
  repeat' first
    | with_reducible assumption
    | with_reducible fail_if_no_progress (refine Keeps.same ?_ rfl rfl rfl)
    | ((try lift_lets); intro x; first | (refine (fun hx : Keeps s x => ?_) ?_; (on_goal 1 => clear_value x); (on_goal 2 => subst x)) | (have hf : ∀ a, x a = x a := fun _ => rfl; clear hf; subst x) | clear_value x | subst x)
    | with_reducible first | refine keeps_ite ?_ ?_ | refine keepsO_ite ?_ ?_
    | split

theorem keeps_cause (f : Fld) (n : Nat) {s t : State} (hk : Keeps s t) : Keeps s (cause f n t) := by
  unfold cause
  repeat' first
    | with_reducible first | assumption | apply keeps_set | apply keeps_plyFault | apply keeps_crossing
    | ((try lift_lets); intro x; first | (refine (fun hx : Keeps s x => ?_) ?_; (on_goal 1 => clear_value x); (on_goal 2 => subst x)) | (have hf : ∀ a, x a = x a := fun _ => rfl; clear hf; subst x) | clear_value x | subst x)
    | with_reducible first | refine keeps_ite ?_ ?_ | refine keepsO_ite ?_ ?_
    | split

end Sys2Proof.Machine
end

