-- ==== Sys2Proof/Laws/KeepsPly.lean ====
section
/-!
SUPPORT. What Machine/Ply.lean keeps (Laws/Keeps.lean).
-/
namespace Sys2Proof.Machine
set_option linter.unusedTactic false
set_option linter.unreachableTactic false
set_option linter.unusedVariables false

theorem keeps_omitAfterPatch (p : Nat) {s t : State} (hk : Keeps s t) : Keeps s (omitAfterPatch p t) := by
  unfold omitAfterPatch
  repeat' first
    | with_reducible first | assumption | apply keeps_foldl
    | with_reducible refine fun _ => ?_
    | with_reducible fail_if_no_progress (refine Keeps.same ?_ rfl rfl rfl)
    | ((try lift_lets); intro x; first | (refine (fun hx : Keeps s x => ?_) ?_; (on_goal 1 => clear_value x); (on_goal 2 => subst x)) | (have hf : ∀ a, x a = x a := fun _ => rfl; clear hf; subst x) | clear_value x | subst x)
    | with_reducible first | refine keeps_ite ?_ ?_ | refine keepsO_ite ?_ ?_
    | split
    | with_reducible first | refine Keeps.ofPair (by assumption) ?_ | refine Keeps.ofPair2 (by assumption) ?_ | refine Keeps.ofM (by assumption) ?_ | refine Keeps.ofMP (by assumption) ?_ | refine KeepsO.ofMO (by assumption) ?_ | refine Keeps.ofO (by assumption) ?_
    | beta_reduce

theorem keeps_digestWord (c : Nat) (w : Nat × Nat × Nat × Nat) {s t : State} (hk : Keeps s t) : Keeps s (digestWord c w t) := by
  unfold digestWord
  repeat' first
    | with_reducible assumption
    | with_reducible refine fun _ => ?_
    | with_reducible fail_if_no_progress (refine Keeps.same ?_ rfl rfl rfl)
    | ((try lift_lets); intro x; first | (refine (fun hx : Keeps s x => ?_) ?_; (on_goal 1 => clear_value x); (on_goal 2 => subst x)) | (have hf : ∀ a, x a = x a := fun _ => rfl; clear hf; subst x) | clear_value x | subst x)
    | with_reducible first | refine keeps_ite ?_ ?_ | refine keepsO_ite ?_ ?_
    | split
    | with_reducible first | refine Keeps.ofPair (by assumption) ?_ | refine Keeps.ofPair2 (by assumption) ?_ | refine Keeps.ofM (by assumption) ?_ | refine Keeps.ofMP (by assumption) ?_ | refine KeepsO.ofMO (by assumption) ?_ | refine Keeps.ofO (by assumption) ?_
    | beta_reduce

theorem keeps_bumpReq (aid : Nat) {s t : State} (hk : Keeps s t) : Keeps s (bumpReq aid t) := by
  unfold bumpReq
  repeat' first
    | with_reducible assumption
    | with_reducible refine fun _ => ?_
    | with_reducible fail_if_no_progress (refine Keeps.same ?_ rfl rfl rfl)
    | ((try lift_lets); intro x; first | (refine (fun hx : Keeps s x => ?_) ?_; (on_goal 1 => clear_value x); (on_goal 2 => subst x)) | (have hf : ∀ a, x a = x a := fun _ => rfl; clear hf; subst x) | clear_value x | subst x)
    | beta_reduce

theorem keeps_resetReqs (aid : Nat) {s t : State} (hk : Keeps s t) : Keeps s (resetReqs aid t) := by
  unfold resetReqs
  repeat' first
    | with_reducible assumption
    | with_reducible refine fun _ => ?_
    | with_reducible fail_if_no_progress (refine Keeps.same ?_ rfl rfl rfl)
    | ((try lift_lets); intro x; first | (refine (fun hx : Keeps s x => ?_) ?_; (on_goal 1 => clear_value x); (on_goal 2 => subst x)) | (have hf : ∀ a, x a = x a := fun _ => rfl; clear hf; subst x) | clear_value x | subst x)
    | beta_reduce

theorem keeps_logAnswer (aid kind : Nat) (v : Word) {s t : State} (hk : Keeps s t) : Keeps s (logAnswer aid kind v t) := by
  unfold logAnswer
  repeat' first
    | with_reducible first | assumption | apply keeps_bumpReq | apply keeps_plySend | apply keeps_answer
    | with_reducible first | refine keeps_ite ?_ ?_ | refine keepsO_ite ?_ ?_
    | split

theorem keeps_takeAnswer (aid kind : Nat) {s t : State} (hk : Keeps s t) : KeepsMP s (takeAnswer aid kind t) := by
  unfold takeAnswer
  repeat' first
    | with_reducible first | assumption | apply KeepsMP.some | apply KeepsMP.none | apply keeps_bumpReq
    | with_reducible refine fun _ => ?_
    | with_reducible fail_if_no_progress (refine Keeps.same ?_ rfl rfl rfl)
    | ((try lift_lets); intro x; first | (refine (fun hx : Keeps s x => ?_) ?_; (on_goal 1 => clear_value x); (on_goal 2 => subst x)) | (have hf : ∀ a, x a = x a := fun _ => rfl; clear hf; subst x) | clear_value x | subst x)
    | split
    | with_reducible first | refine Keeps.ofPair (by assumption) ?_ | refine Keeps.ofPair2 (by assumption) ?_ | refine Keeps.ofM (by assumption) ?_ | refine Keeps.ofMP (by assumption) ?_ | refine KeepsO.ofMO (by assumption) ?_ | refine Keeps.ofO (by assumption) ?_
    | beta_reduce
    | dsimp (zeta := false) only
    | dsimp only

theorem keeps_gainReading (v : Nat) {s t : State} (hk : Keeps s t) : Keeps s (gainReading v t) := by
  unfold gainReading
  repeat' first
    | with_reducible assumption
    | with_reducible refine fun _ => ?_
    | with_reducible fail_if_no_progress (refine Keeps.same ?_ rfl rfl rfl)
    | ((try lift_lets); intro x; first | (refine (fun hx : Keeps s x => ?_) ?_; (on_goal 1 => clear_value x); (on_goal 2 => subst x)) | (have hf : ∀ a, x a = x a := fun _ => rfl; clear hf; subst x) | clear_value x | subst x)
    | with_reducible first | refine keeps_ite ?_ ?_ | refine keepsO_ite ?_ ?_
    | split
    | with_reducible first | refine Keeps.ofPair (by assumption) ?_ | refine Keeps.ofPair2 (by assumption) ?_ | refine Keeps.ofM (by assumption) ?_ | refine Keeps.ofMP (by assumption) ?_ | refine KeepsO.ofMO (by assumption) ?_ | refine Keeps.ofO (by assumption) ?_
    | beta_reduce

theorem keeps_ownReading (v : Nat) {s t : State} (hk : Keeps s t) : Keeps s (ownReading v t) := by
  unfold ownReading
  repeat' first
    | with_reducible first | assumption | apply keeps_plySend | apply keeps_gainReading
    | with_reducible first | refine keeps_ite ?_ ?_ | refine keepsO_ite ?_ ?_
    | split

theorem keeps_keepBuf (k : Nat) {s t : State} (hk : Keeps s t) : Keeps s (keepBuf k t) := by
  unfold keepBuf
  repeat' first
    | with_reducible assumption
    | with_reducible fail_if_no_progress (refine Keeps.same ?_ rfl rfl rfl)
    | ((try lift_lets); intro x; first | (refine (fun hx : Keeps s x => ?_) ?_; (on_goal 1 => clear_value x); (on_goal 2 => subst x)) | (have hf : ∀ a, x a = x a := fun _ => rfl; clear hf; subst x) | clear_value x | subst x)
    | with_reducible first | refine keeps_ite ?_ ?_ | refine keepsO_ite ?_ ?_
    | split

theorem keeps_markFreed (k : Nat) {s t : State} (hk : Keeps s t) : Keeps s (markFreed k t) := by
  unfold markFreed
  repeat' first
    | with_reducible assumption
    | with_reducible refine fun _ => ?_
    | with_reducible fail_if_no_progress (refine Keeps.same ?_ rfl rfl rfl)
    | ((try lift_lets); intro x; first | (refine (fun hx : Keeps s x => ?_) ?_; (on_goal 1 => clear_value x); (on_goal 2 => subst x)) | (have hf : ∀ a, x a = x a := fun _ => rfl; clear hf; subst x) | clear_value x | subst x)
    | with_reducible first | refine keeps_ite ?_ ?_ | refine keepsO_ite ?_ ?_
    | split
    | beta_reduce

theorem keeps_mismatch (epoch : Nat) {s t : State} (hk : Keeps s t) : Keeps s (mismatch epoch t) := by
  unfold mismatch
  repeat' first
    | with_reducible first | assumption | apply keeps_wr | apply keeps_cause | apply keeps_bump | apply keeps_emit
    | with_reducible fail_if_no_progress (refine Keeps.same ?_ rfl rfl rfl)
    | ((try lift_lets); intro x; first | (refine (fun hx : Keeps s x => ?_) ?_; (on_goal 1 => clear_value x); (on_goal 2 => subst x)) | (have hf : ∀ a, x a = x a := fun _ => rfl; clear hf; subst x) | clear_value x | subst x)
    | with_reducible first | refine Keeps.ofPair (by assumption) ?_ | refine Keeps.ofPair2 (by assumption) ?_ | refine Keeps.ofM (by assumption) ?_ | refine Keeps.ofMP (by assumption) ?_ | refine KeepsO.ofMO (by assumption) ?_ | refine Keeps.ofO (by assumption) ?_

theorem keeps_compareClose (r : CloseRec) {s t : State} (hk : Keeps s t) : Keeps s (compareClose r t) := by
  unfold compareClose
  repeat' first
    | with_reducible first | assumption | apply keeps_mismatch
    | with_reducible refine fun _ => ?_
    | with_reducible fail_if_no_progress (refine Keeps.same ?_ rfl rfl rfl)
    | ((try lift_lets); intro x; first | (refine (fun hx : Keeps s x => ?_) ?_; (on_goal 1 => clear_value x); (on_goal 2 => subst x)) | (have hf : ∀ a, x a = x a := fun _ => rfl; clear hf; subst x) | clear_value x | subst x)
    | with_reducible first | refine keeps_ite ?_ ?_ | refine keepsO_ite ?_ ?_
    | split
    | with_reducible first | refine Keeps.ofPair (by assumption) ?_ | refine Keeps.ofPair2 (by assumption) ?_ | refine Keeps.ofM (by assumption) ?_ | refine Keeps.ofMP (by assumption) ?_ | refine KeepsO.ofMO (by assumption) ?_ | refine Keeps.ofO (by assumption) ?_
    | beta_reduce
    | dsimp (zeta := false) only
    | dsimp only

theorem keeps_closed (r : CloseRec) {s t : State} (hk : Keeps s t) : Keeps s (closed r t) := by
  unfold closed
  repeat' first
    | with_reducible first | assumption | apply keeps_plySend | apply keeps_compareClose
    | with_reducible fail_if_no_progress (refine Keeps.same ?_ rfl rfl rfl)
    | ((try lift_lets); intro x; first | (refine (fun hx : Keeps s x => ?_) ?_; (on_goal 1 => clear_value x); (on_goal 2 => subst x)) | (have hf : ∀ a, x a = x a := fun _ => rfl; clear hf; subst x) | clear_value x | subst x)
    | with_reducible first | refine keeps_ite ?_ ?_ | refine keepsO_ite ?_ ?_
    | split

end Sys2Proof.Machine
end

