-- ==== Sys2Proof/Laws/KeepsUnpredictable.lean ====
section
/-!
SUPPORT. What Machine/Unpredictable.lean keeps (Laws/Keeps.lean): an unpredictable outcome leaves the queue alone and every memory in its
canonical form.
-/
namespace Sys2Proof.Machine

/-- Free bytes keep a memory's form. -/
theorem freeBytes_wf (h : Hidden) (may : Nat → Bool) (m : Mem) (hm : m.wf = true) : (freeBytes h may m).wf = true := by
  have key : ∀ (l : List (Nat × Byte)) (m : Mem), m.wf = true →
      (l.foldl (fun m e => if may e.1 then m.wr e.1 e.2 else m) m).wf = true := by
    intro l
    induction l with
    | nil => exact fun _ hm => hm
    | cons e l ih =>
      intro m hm
      refine ih _ ?_
      dsimp only
      split
      · exact Mem.wf_wr _ _ _ hm
      · exact hm
  exact key _ _ hm

theorem keeps_pkt_free {s t : State} (h : Hidden) (may : Nat → Bool) (hk : Keeps s t) :
    Keeps s (t.setPkt (freeBytes h may t.pkt)) :=
  keeps_setPkt _ hk (freeBytes_wf _ _ _)

theorem keeps_havoc {s t : State} (hk : Keeps s t) : Keeps s t.havoc.2 := hk.trans ⟨rfl, Nat.le_succ _, fun c => c⟩

theorem keeps_showDt (c : Nat) {s t : State} (hk : Keeps s t) : Keeps s (showDt c t) := keeps_set _ _ hk

theorem keeps_freeWord (span : Nat × Nat) (e : Nat × Word) {s t : State} (hk : Keeps s t) : Keeps s (freeWord span t e) := by
  unfold freeWord
  split
  · exact keeps_wr _ _ hk
  · exact hk

theorem keeps_freeWords (h : Hidden) (span : Nat × Nat) {s t : State} (hk : Keeps s t) : Keeps s (freeWords h span t) := by
  have h0 : Keeps s (h.words.foldl (freeWord span) t) := keeps_foldl _ _ _ hk fun u e hu => keeps_freeWord span e hu
  unfold freeWords
  split
  · exact keeps_foldl _ _ _ h0 fun u c hu => keeps_showDt c hu
  · exact h0

theorem keeps_freeHidden (h : Hidden) (o : Nat) {s t : State} (hk : Keeps s t) : Keeps s (freeHidden h o t) := by
  unfold freeHidden
  repeat' first
    | with_reducible refine keeps_ite ?_ ?_
    | with_reducible assumption
    | dsimp only
    | with_reducible exact Keeps.same hk rfl rfl rfl
    | with_reducible exact Keeps.mems hk id id (freeBytes_wf _ _ _) id id
    | with_reducible exact Keeps.mems hk id id id (freeBytes_wf _ _ _) id
    | with_reducible exact keeps_setPanel _ _ hk
    | with_reducible exact keeps_foldl _ _ _ (keeps_setCore _ _ hk) fun u x hu => keeps_setThread _ _ hu

theorem keeps_unpredBlock (o : Nat) {s t : State} (hk : Keeps s t) : Keeps s (unpredBlock o t) := by
  unfold unpredBlock
  split
  · exact hk
  · exact keeps_freeHidden _ _ (keeps_freeWords _ _ (keeps_havoc hk))

theorem keeps_unpredPanel (p : Nat) {s t : State} (hk : Keeps s t) : Keeps s (unpredPanel p t) := keeps_unpredBlock _ hk

theorem keeps_unpredThread (may : Nat → Bool) (tid : Nat) {s t : State} (hk : Keeps s t) : Keeps s (unpredThread may tid t) :=
  keeps_setThread _ _ (keeps_pkt_free _ _ (keeps_havoc hk))

theorem keeps_unpredQueue (q : Nat) {s t : State} (hk : Keeps s t) : Keeps s (unpredQueue q t) := by
  unfold unpredQueue
  dsimp only
  refine Keeps.mems (keeps_pkt_free _ _ (keeps_havoc hk)) id id id id ?_
  intro hm
  dsimp only at hm ⊢
  exact freeBytes_wf _ _ _ hm

theorem keeps_unpredDevice {s t : State} (hk : Keeps s t) : Keeps s (unpredDevice t) := by
  have h0 := keeps_pkt_free t.havoc.1 (fun a => decide (a < 0x1000000))
    (keeps_foldl _ blockBases _ (keeps_havoc hk) fun u b hu => keeps_unpredBlock b hu)
  unfold unpredDevice
  dsimp only
  split
  · exact keeps_set _ _ h0
  · exact h0

theorem keeps_unpredIn (c : Scope) (q : Nat) {s t : State} (hk : Keeps s t) : Keeps s (unpredIn c q t) := by
  cases c
  · exact keeps_unpredQueue q hk
  · exact keeps_unpredDevice hk

end Sys2Proof.Machine
end

