-- ==== Sys2Proof/Laws/KeepsRegAccess.lean ====
section
/-!
SUPPORT. What Machine/RegAccess.lean keeps (Laws/Keeps.lean).
-/
namespace Sys2Proof.Machine
set_option linter.unusedTactic false
set_option linter.unreachableTactic false
set_option linter.unusedVariables false

theorem keeps_codeWrite (o : Nat) (v : Word) {s t : State} (hk : Keeps s t) : KeepsO s (codeWrite o v t) := by
  unfold codeWrite
  repeat' first
    | with_reducible first | assumption | apply keeps_unpredBlock | apply KeepsO.next | apply KeepsO.fault | apply KeepsO.stay | apply keeps_wr
    | with_reducible fail_if_no_progress (refine Keeps.same ?_ rfl rfl rfl)
    | ((try lift_lets); intro x; first | (refine (fun hx : Keeps s x => ?_) ?_; (on_goal 1 => clear_value x); (on_goal 2 => subst x)) | (have hf : ∀ a, x a = x a := fun _ => rfl; clear hf; subst x) | clear_value x | subst x)
    | with_reducible first | refine keeps_ite ?_ ?_ | refine keepsO_ite ?_ ?_
    | split
    | with_reducible first | refine Keeps.ofPair (by assumption) ?_ | refine Keeps.ofPair2 (by assumption) ?_ | refine Keeps.ofM (by assumption) ?_ | refine Keeps.ofMP (by assumption) ?_ | refine KeepsO.ofMO (by assumption) ?_ | refine Keeps.ofO (by assumption) ?_
    | dsimp (zeta := false) only
    | dsimp only

theorem keeps_codeRead (o : Nat) {s t : State} (hk : Keeps s t) : Keeps s (codeRead o t).2 := by
  unfold codeRead
  repeat' first
    | with_reducible first | assumption | apply keeps_wr
    | with_reducible fail_if_no_progress (refine Keeps.same ?_ rfl rfl rfl)
    | ((try lift_lets); intro x; first | (refine (fun hx : Keeps s x => ?_) ?_; (on_goal 1 => clear_value x); (on_goal 2 => subst x)) | (have hf : ∀ a, x a = x a := fun _ => rfl; clear hf; subst x) | clear_value x | subst x)
    | with_reducible first | refine keeps_ite ?_ ?_ | refine keepsO_ite ?_ ?_ | refine keepsP_ite ?_ ?_
    | split
    | with_reducible first | refine Keeps.ofPair (by assumption) ?_ | refine Keeps.ofPair2 (by assumption) ?_ | refine Keeps.ofM (by assumption) ?_ | refine Keeps.ofMP (by assumption) ?_ | refine KeepsO.ofMO (by assumption) ?_ | refine Keeps.ofO (by assumption) ?_
    | dsimp (zeta := false) only
    | dsimp only

end Sys2Proof.Machine
end

