-- ==== Sys2Proof/Laws/KeepsAccess.lean ====
section
/-!
SUPPORT. What Machine/Access.lean keeps (Laws/Keeps.lean).
-/
namespace Sys2Proof.Machine
set_option linter.unusedTactic false
set_option linter.unreachableTactic false
set_option linter.unusedVariables false

theorem keeps_mirrorAcc (acc : HostAcc) {s t : State} (hk : Keeps s t) : Keeps s (mirrorAcc acc t) := by
  unfold mirrorAcc
  repeat' first
    | with_reducible first | assumption | apply keeps_bump | apply keeps_plySend
    | with_reducible fail_if_no_progress (refine Keeps.same ?_ rfl rfl rfl)
    | ((try lift_lets); intro x; first | (refine (fun hx : Keeps s x => ?_) ?_; (on_goal 1 => clear_value x); (on_goal 2 => subst x)) | (have hf : ∀ a, x a = x a := fun _ => rfl; clear hf; subst x) | clear_value x | subst x)
    | with_reducible first | refine keeps_ite ?_ ?_ | refine keepsO_ite ?_ ?_
    | split

theorem keeps_blockAct (a : Agent) (o : Nat) (v : Word) (k : State → Out) {s t : State} (hk : Keeps s t) (h_k : ∀ y, Keeps s y → KeepsO s (k y)) : KeepsO s (blockAct a o v k t) := by
  unfold blockAct
  repeat' first
    | with_reducible first | assumption | apply keeps_unpredBlock | apply KeepsO.next | apply KeepsO.fault | apply KeepsO.stay | apply keeps_stay | apply h_k
    | with_reducible first | refine keeps_ite ?_ ?_ | refine keepsO_ite ?_ ?_
    | split

theorem keeps_weftWait (q : PanelAccess) {s t : State} (hk : Keeps s t) : Keeps s (weftWait q t) := by
  unfold weftWait
  repeat' first
    | with_reducible first | assumption
    | with_reducible refine fun _ => ?_
    | with_reducible fail_if_no_progress (refine Keeps.same ?_ rfl rfl rfl)
    | ((try lift_lets); intro x; first | (refine (fun hx : Keeps s x => ?_) ?_; (on_goal 1 => clear_value x); (on_goal 2 => subst x)) | (have hf : ∀ a, x a = x a := fun _ => rfl; clear hf; subst x) | clear_value x | subst x)
    | with_reducible first | refine keeps_ite ?_ ?_ | refine keepsO_ite ?_ ?_ | refine keepsP_ite ?_ ?_
    | split
    | with_reducible first | refine Keeps.ofPair (by assumption) ?_ | refine Keeps.ofPair2 (by assumption) ?_ | refine Keeps.ofM (by assumption) ?_ | refine Keeps.ofMP (by assumption) ?_ | refine KeepsO.ofMO (by assumption) ?_ | refine Keeps.ofO (by assumption) ?_
    | beta_reduce
    | dsimp (zeta := false) only
    | dsimp only

theorem keeps_access (a : Agent) (o : Nat) (v : Word) (k : State → Out) {s t : State} (hk : Keeps s t) (h_k : ∀ y, Keeps s y → KeepsO s (k y)) : KeepsO s (access a o v k t) := by
  unfold access
  repeat' first
    | with_reducible first | assumption | apply keeps_weftWait | apply KeepsO.next | apply KeepsO.fault | apply KeepsO.stay | apply keeps_stay | apply keeps_mirrorAcc | apply keeps_blockAct | apply h_k
    | with_reducible refine fun _ => ?_
    | with_reducible first | refine keeps_ite ?_ ?_ | refine keepsO_ite ?_ ?_
    | split
    | beta_reduce

theorem keeps_accessRead (a : Agent) (o : Nat) (k : State → Word × State) {s t : State} (hk : Keeps s t) (h_k : ∀ y, Keeps s y → Keeps s (k y).2) : Keeps s (accessRead a o k t).2 := by
  unfold accessRead
  repeat' first
    | with_reducible first | assumption | apply keeps_bump | apply keeps_logAnswer | apply h_k
    | ((try lift_lets); intro x; first | (refine (fun hx : Keeps s x => ?_) ?_; (on_goal 1 => clear_value x); (on_goal 2 => subst x)) | (have hf : ∀ a, x a = x a := fun _ => rfl; clear hf; subst x) | clear_value x | subst x)
    | with_reducible first | refine keeps_ite ?_ ?_ | refine keepsO_ite ?_ ?_ | refine keepsP_ite ?_ ?_
    | split
    | with_reducible first | refine Keeps.ofPair (by assumption) ?_ | refine Keeps.ofPair2 (by assumption) ?_ | refine Keeps.ofM (by assumption) ?_ | refine Keeps.ofMP (by assumption) ?_ | refine KeepsO.ofMO (by assumption) ?_ | refine Keeps.ofO (by assumption) ?_
    | dsimp (zeta := false) only
    | dsimp only

theorem keeps_readRow (a : Agent) (o : Nat) (k : State → Word × State) {s t : State} (hk : Keeps s t) (h_k : ∀ y, Keeps s y → Keeps s (k y).2) : KeepsO s (readRow a o k t) := by
  unfold readRow
  repeat' first
    | with_reducible first | assumption | apply keeps_weftWait | apply KeepsO.next | apply KeepsO.fault | apply KeepsO.stay | apply keeps_stay | apply keeps_accessRead | apply keeps_respond | apply h_k
    | with_reducible refine fun _ => ?_
    | ((try lift_lets); intro x; first | (refine (fun hx : Keeps s x => ?_) ?_; (on_goal 1 => clear_value x); (on_goal 2 => subst x)) | (have hf : ∀ a, x a = x a := fun _ => rfl; clear hf; subst x) | clear_value x | subst x)
    | with_reducible first | refine keeps_ite ?_ ?_ | refine keepsO_ite ?_ ?_
    | split
    | with_reducible first | refine Keeps.ofPair (by assumption) ?_ | refine Keeps.ofPair2 (by assumption) ?_ | refine Keeps.ofM (by assumption) ?_ | refine Keeps.ofMP (by assumption) ?_ | refine KeepsO.ofMO (by assumption) ?_ | refine Keeps.ofO (by assumption) ?_
    | beta_reduce
    | dsimp (zeta := false) only
    | dsimp only

theorem keeps_setCap (a : Agent) (lo : Nat) (h : Option Word) {s t : State} (hk : Keeps s t) : Keeps s (setCap a lo h t) := by
  unfold setCap
  repeat' first
    | with_reducible assumption
    | with_reducible refine fun _ => ?_
    | with_reducible fail_if_no_progress (refine Keeps.same ?_ rfl rfl rfl)
    | ((try lift_lets); intro x; first | (refine (fun hx : Keeps s x => ?_) ?_; (on_goal 1 => clear_value x); (on_goal 2 => subst x)) | (have hf : ∀ a, x a = x a := fun _ => rfl; clear hf; subst x) | clear_value x | subst x)
    | beta_reduce

theorem keeps_setHeld (a : Agent) (lo : Nat) (h : Option Word) {s t : State} (hk : Keeps s t) : Keeps s (setHeld a lo h t) := by
  unfold setHeld
  repeat' first
    | with_reducible assumption
    | with_reducible refine fun _ => ?_
    | with_reducible fail_if_no_progress (refine Keeps.same ?_ rfl rfl rfl)
    | ((try lift_lets); intro x; first | (refine (fun hx : Keeps s x => ?_) ?_; (on_goal 1 => clear_value x); (on_goal 2 => subst x)) | (have hf : ∀ a, x a = x a := fun _ => rfl; clear hf; subst x) | clear_value x | subst x)
    | beta_reduce

theorem keeps_pairRead (a : Agent) (lo : Nat) (hi : Bool) (live : Nat → State → Word × State) {s t : State} (hk : Keeps s t) (h_live : ∀ y0 y, Keeps s y → Keeps s (live y0 y).2) : Keeps s (pairRead a lo hi live t).2 := by
  unfold pairRead
  repeat' first
    | with_reducible first | assumption | apply keeps_setCap | apply h_live
    | with_reducible fail_if_no_progress (refine Keeps.same ?_ rfl rfl rfl)
    | ((try lift_lets); intro x; first | (refine (fun hx : Keeps s x => ?_) ?_; (on_goal 1 => clear_value x); (on_goal 2 => subst x)) | (have hf : ∀ a, x a = x a := fun _ => rfl; clear hf; subst x) | clear_value x | subst x)
    | with_reducible first | refine keeps_ite ?_ ?_ | refine keepsO_ite ?_ ?_ | refine keepsP_ite ?_ ?_
    | split
    | with_reducible first | refine Keeps.ofPair (by assumption) ?_ | refine Keeps.ofPair2 (by assumption) ?_ | refine Keeps.ofM (by assumption) ?_ | refine Keeps.ofMP (by assumption) ?_ | refine KeepsO.ofMO (by assumption) ?_ | refine Keeps.ofO (by assumption) ?_
    | dsimp (zeta := false) only
    | dsimp only

theorem keeps_pairWrite (a : Agent) (lo : Nat) (cur : Word) (k : Word → State → State) {s t : State} (hk : Keeps s t) (h_k : ∀ y0 y, Keeps s y → Keeps s (k y0 y)) : Keeps s (pairWrite a lo cur k t) := by
  unfold pairWrite
  repeat' first
    | with_reducible first | assumption | apply keeps_setHeld | apply keeps_setCap | apply h_k

end Sys2Proof.Machine
end

