-- ==== Sys2Proof/Laws/KeepsPws.lean ====
section
/-!
SUPPORT. What Machine/Pws.lean keeps (Laws/Keeps.lean).
-/
namespace Sys2Proof.Machine
set_option linter.unusedTactic false
set_option linter.unreachableTactic false
set_option linter.unusedVariables false

theorem keeps_setPch (c : Nat) (x : PwsCh) {s t : State} (hk : Keeps s t) : Keeps s (State.setPch t c x) := by
  unfold State.setPch
  repeat' first
    | with_reducible assumption
    | with_reducible refine fun _ => ?_
    | with_reducible fail_if_no_progress (refine Keeps.same ?_ rfl rfl rfl)
    | ((try lift_lets); intro x; first | (refine (fun hx : Keeps s x => ?_) ?_; (on_goal 1 => clear_value x); (on_goal 2 => subst x)) | (have hf : ∀ a, x a = x a := fun _ => rfl; clear hf; subst x) | clear_value x | subst x)
    | beta_reduce

theorem keeps_handIdle {s t : State} (hk : Keeps s t) : Keeps s (handIdle t) := by
  unfold handIdle
  repeat' first
    | with_reducible first | assumption | apply keeps_set | apply keeps_foldl
    | with_reducible refine fun _ => ?_
    | with_reducible fail_if_no_progress (refine Keeps.same ?_ rfl rfl rfl)
    | ((try lift_lets); intro x; first | (refine (fun hx : Keeps s x => ?_) ?_; (on_goal 1 => clear_value x); (on_goal 2 => subst x)) | (have hf : ∀ a, x a = x a := fun _ => rfl; clear hf; subst x) | clear_value x | subst x)
    | with_reducible first | refine keeps_ite ?_ ?_ | refine keepsO_ite ?_ ?_
    | split
    | beta_reduce

theorem keeps_gatesLow (c : Nat) {s t : State} (hk : Keeps s t) : Keeps s (gatesLow c t) := by
  unfold gatesLow
  repeat' first
    | with_reducible first | assumption | apply keeps_setPch
    | with_reducible fail_if_no_progress (refine Keeps.same ?_ rfl rfl rfl)
    | ((try lift_lets); intro x; first | (refine (fun hx : Keeps s x => ?_) ?_; (on_goal 1 => clear_value x); (on_goal 2 => subst x)) | (have hf : ∀ a, x a = x a := fun _ => rfl; clear hf; subst x) | clear_value x | subst x)

theorem keeps_disableShow {s t : State} (hk : Keeps s t) : Keeps s (disableShow t) := by
  unfold disableShow
  repeat' first
    | with_reducible first | assumption | apply keeps_set | apply keeps_gatesLow | apply keeps_foldl
    | with_reducible refine fun _ => ?_
    | ((try lift_lets); intro x; first | (refine (fun hx : Keeps s x => ?_) ?_; (on_goal 1 => clear_value x); (on_goal 2 => subst x)) | (have hf : ∀ a, x a = x a := fun _ => rfl; clear hf; subst x) | clear_value x | subst x)
    | with_reducible first | refine keeps_ite ?_ ?_ | refine keepsO_ite ?_ ?_
    | split
    | beta_reduce

theorem keeps_disableOsc {s t : State} (hk : Keeps s t) : Keeps s (disableOsc t) := by
  unfold disableOsc
  repeat' first
    | with_reducible first | assumption | apply keeps_disableShow
    | with_reducible fail_if_no_progress (refine Keeps.same ?_ rfl rfl rfl)
    | ((try lift_lets); intro x; first | (refine (fun hx : Keeps s x => ?_) ?_; (on_goal 1 => clear_value x); (on_goal 2 => subst x)) | (have hf : ∀ a, x a = x a := fun _ => rfl; clear hf; subst x) | clear_value x | subst x)

theorem keeps_disableRef {s t : State} (hk : Keeps s t) : Keeps s (disableRef t) := by
  unfold disableRef
  repeat' first
    | with_reducible first | assumption | apply keeps_disableShow
    | with_reducible fail_if_no_progress (refine Keeps.same ?_ rfl rfl rfl)
    | ((try lift_lets); intro x; first | (refine (fun hx : Keeps s x => ?_) ?_; (on_goal 1 => clear_value x); (on_goal 2 => subst x)) | (have hf : ∀ a, x a = x a := fun _ => rfl; clear hf; subst x) | clear_value x | subst x)

theorem keeps_disablePll {s t : State} (hk : Keeps s t) : Keeps s (disablePll t) := by
  unfold disablePll
  repeat' first
    | with_reducible first | assumption | apply keeps_disableShow
    | with_reducible fail_if_no_progress (refine Keeps.same ?_ rfl rfl rfl)
    | ((try lift_lets); intro x; first | (refine (fun hx : Keeps s x => ?_) ?_; (on_goal 1 => clear_value x); (on_goal 2 => subst x)) | (have hf : ∀ a, x a = x a := fun _ => rfl; clear hf; subst x) | clear_value x | subst x)

theorem keeps_latch (c causes : Nat) {s t : State} (hk : Keeps s t) : Keeps s (latch c causes t) := by
  unfold latch
  repeat' first
    | with_reducible first | assumption | apply keeps_wr | apply keeps_wr64 | apply keeps_plySend | apply keeps_set | apply keeps_cause
    | ((try lift_lets); intro x; first | (refine (fun hx : Keeps s x => ?_) ?_; (on_goal 1 => clear_value x); (on_goal 2 => subst x)) | (have hf : ∀ a, x a = x a := fun _ => rfl; clear hf; subst x) | clear_value x | subst x)

theorem keeps_latchAll (c causes : Nat) {s t : State} (hk : Keeps s t) : Keeps s (latchAll c causes t) := by
  unfold latchAll
  repeat' first
    | with_reducible first | assumption | apply keeps_latch | apply keeps_gatesLow

theorem keeps_latchLeg (c : Nat) (legB : Bool) (t causes : Nat) {s u0 : State} (hk : Keeps s u0) : Keeps s (latchLeg c legB t causes u0) := by
  unfold latchLeg
  repeat' first
    | with_reducible first | assumption | apply keeps_latch | apply keeps_setPch
    | with_reducible fail_if_no_progress (refine Keeps.same ?_ rfl rfl rfl)
    | ((try lift_lets); intro x; first | (refine (fun hx : Keeps s x => ?_) ?_; (on_goal 1 => clear_value x); (on_goal 2 => subst x)) | (have hf : ∀ a, x a = x a := fun _ => rfl; clear hf; subst x) | clear_value x | subst x)
    | with_reducible first | refine keeps_ite ?_ ?_ | refine keepsO_ite ?_ ?_
    | split
    | with_reducible first | refine Keeps.ofPair (by assumption) ?_ | refine Keeps.ofPair2 (by assumption) ?_ | refine Keeps.ofM (by assumption) ?_ | refine Keeps.ofMP (by assumption) ?_ | refine KeepsO.ofMO (by assumption) ?_ | refine Keeps.ofO (by assumption) ?_

theorem keeps_secondAction (c causes : Nat) {s t : State} (hk : Keeps s t) : Keeps s (secondAction c causes t) := by
  unfold secondAction
  repeat' first
    | with_reducible first | assumption | apply keeps_gatesLow | apply keeps_set
    | ((try lift_lets); intro x; first | (refine (fun hx : Keeps s x => ?_) ?_; (on_goal 1 => clear_value x); (on_goal 2 => subst x)) | (have hf : ∀ a, x a = x a := fun _ => rfl; clear hf; subst x) | clear_value x | subst x)

theorem keeps_execOvercurrentDetect (c : Nat) (legA legB : Bool) (t also : Nat) {s u0 : State} (hk : Keeps s u0) : KeepsO s (execOvercurrentDetect c legA legB t also u0) := by
  unfold execOvercurrentDetect
  repeat' first
    | with_reducible first | assumption | apply KeepsO.next | apply KeepsO.fault | apply KeepsO.stay | apply keeps_stay | apply keeps_set | apply keeps_secondAction | apply keeps_latchAll | apply keeps_latchLeg
    | with_reducible fail_if_no_progress (refine Keeps.same ?_ rfl rfl rfl)
    | ((try lift_lets); intro x; first | (refine (fun hx : Keeps s x => ?_) ?_; (on_goal 1 => clear_value x); (on_goal 2 => subst x)) | (have hf : ∀ a, x a = x a := fun _ => rfl; clear hf; subst x) | clear_value x | subst x)
    | with_reducible first | refine keeps_ite ?_ ?_ | refine keepsO_ite ?_ ?_
    | split
    | with_reducible first | refine Keeps.ofPair (by assumption) ?_ | refine Keeps.ofPair2 (by assumption) ?_ | refine Keeps.ofM (by assumption) ?_ | refine Keeps.ofMP (by assumption) ?_ | refine KeepsO.ofMO (by assumption) ?_ | refine Keeps.ofO (by assumption) ?_
    | dsimp (zeta := false) only
    | dsimp only

theorem keeps_execHocAssert (c _t also : Nat) {s t : State} (hk : Keeps s t) : KeepsO s (execHocAssert c _t also t) := by
  unfold execHocAssert
  repeat' first
    | with_reducible first | assumption | apply KeepsO.next | apply KeepsO.fault | apply KeepsO.stay | apply keeps_stay | apply keeps_set | apply keeps_secondAction | apply keeps_latchAll
    | ((try lift_lets); intro x; first | (refine (fun hx : Keeps s x => ?_) ?_; (on_goal 1 => clear_value x); (on_goal 2 => subst x)) | (have hf : ∀ a, x a = x a := fun _ => rfl; clear hf; subst x) | clear_value x | subst x)
    | with_reducible first | refine keeps_ite ?_ ?_ | refine keepsO_ite ?_ ?_
    | split

theorem keeps_execGateMismatch (c gate t also : Nat) {s u0 : State} (hk : Keeps s u0) : KeepsO s (execGateMismatch c gate t also u0) := by
  unfold execGateMismatch
  repeat' first
    | with_reducible first | assumption | apply KeepsO.next | apply KeepsO.fault | apply KeepsO.stay | apply keeps_stay | apply keeps_set | apply keeps_secondAction | apply keeps_latchLeg
    | with_reducible fail_if_no_progress (refine Keeps.same ?_ rfl rfl rfl)
    | ((try lift_lets); intro x; first | (refine (fun hx : Keeps s x => ?_) ?_; (on_goal 1 => clear_value x); (on_goal 2 => subst x)) | (have hf : ∀ a, x a = x a := fun _ => rfl; clear hf; subst x) | clear_value x | subst x)
    | with_reducible first | refine keeps_ite ?_ ?_ | refine keepsO_ite ?_ ?_
    | split
    | with_reducible first | refine Keeps.ofPair (by assumption) ?_ | refine Keeps.ofPair2 (by assumption) ?_ | refine Keeps.ofM (by assumption) ?_ | refine Keeps.ofMP (by assumption) ?_ | refine KeepsO.ofMO (by assumption) ?_ | refine Keeps.ofO (by assumption) ?_
    | dsimp (zeta := false) only
    | dsimp only

theorem keeps_execShootThrough (c : Nat) (legB : Bool) (t also : Nat) {s u0 : State} (hk : Keeps s u0) : KeepsO s (execShootThrough c legB t also u0) := by
  unfold execShootThrough
  repeat' first
    | with_reducible first | assumption | apply KeepsO.next | apply KeepsO.fault | apply KeepsO.stay | apply keeps_stay | apply keeps_set | apply keeps_secondAction | apply keeps_latchAll
    | ((try lift_lets); intro x; first | (refine (fun hx : Keeps s x => ?_) ?_; (on_goal 1 => clear_value x); (on_goal 2 => subst x)) | (have hf : ∀ a, x a = x a := fun _ => rfl; clear hf; subst x) | clear_value x | subst x)
    | with_reducible first | refine keeps_ite ?_ ?_ | refine keepsO_ite ?_ ?_
    | split

theorem keeps_execSecondLegTurnoff (c : Nat) {s t : State} (hk : Keeps s t) : KeepsO s (execSecondLegTurnoff c t) := by
  unfold execSecondLegTurnoff
  repeat' first
    | with_reducible first | assumption | apply KeepsO.next | apply KeepsO.fault | apply KeepsO.stay | apply keeps_stay | apply keeps_gatesLow
    | with_reducible first | refine keeps_ite ?_ ?_ | refine keepsO_ite ?_ ?_
    | split

theorem keeps_unlatch (c : Nat) {s t : State} (hk : Keeps s t) : Keeps s (unlatch c t) := by
  unfold unlatch
  repeat' first
    | with_reducible first | assumption | apply keeps_set

theorem keeps_clearOne (quiet : Nat) (c : Nat) {s t : State} (hk : Keeps s t) : Keeps s (clearOne quiet t c) := by
  unfold clearOne
  repeat' first
    | with_reducible first | assumption | apply keeps_plySend | apply keeps_latch | apply keeps_unlatch | apply keeps_cause | apply keeps_set
    | with_reducible first | refine keeps_ite ?_ ?_ | refine keepsO_ite ?_ ?_
    | split

theorem keeps_latchClear (v : Word) (quiet : Nat) {s t : State} (hk : Keeps s t) : Keeps s (latchClear v quiet t) := by
  unfold latchClear
  repeat' first
    | with_reducible first | assumption | apply keeps_set | apply keeps_clearOne | apply keeps_foldl
    | with_reducible refine fun _ => ?_
    | ((try lift_lets); intro x; first | (refine (fun hx : Keeps s x => ?_) ?_; (on_goal 1 => clear_value x); (on_goal 2 => subst x)) | (have hf : ∀ a, x a = x a := fun _ => rfl; clear hf; subst x) | clear_value x | subst x)
    | with_reducible first | refine keeps_ite ?_ ?_ | refine keepsO_ite ?_ ?_
    | split
    | beta_reduce

theorem keeps_execLatchClear (a : Agent) (v : Word) (quiet : Nat) {s t : State} (hk : Keeps s t) : KeepsO s (execLatchClear a v quiet t) := by
  unfold execLatchClear
  repeat' first
    | with_reducible first | assumption | apply KeepsO.next | apply KeepsO.fault | apply KeepsO.stay | apply keeps_access | apply keeps_latchClear
    | with_reducible refine fun _ => ?_
    | beta_reduce

theorem keeps_holdBegin {s t : State} (hk : Keeps s t) : Keeps s (holdBegin t) := by
  unfold holdBegin
  repeat' first
    | with_reducible first | assumption | apply keeps_set | apply keeps_bump | apply keeps_cause
    | with_reducible fail_if_no_progress (refine Keeps.same ?_ rfl rfl rfl)
    | ((try lift_lets); intro x; first | (refine (fun hx : Keeps s x => ?_) ?_; (on_goal 1 => clear_value x); (on_goal 2 => subst x)) | (have hf : ∀ a, x a = x a := fun _ => rfl; clear hf; subst x) | clear_value x | subst x)

theorem keeps_holdReading (v : Nat) {s t : State} (hk : Keeps s t) : Keeps s (holdReading v t) := by
  unfold holdReading
  repeat' first
    | with_reducible first | assumption | apply keeps_holdBegin | apply keeps_set
    | with_reducible fail_if_no_progress (refine Keeps.same ?_ rfl rfl rfl)
    | ((try lift_lets); intro x; first | (refine (fun hx : Keeps s x => ?_) ?_; (on_goal 1 => clear_value x); (on_goal 2 => subst x)) | (have hf : ∀ a, x a = x a := fun _ => rfl; clear hf; subst x) | clear_value x | subst x)
    | with_reducible first | refine keeps_ite ?_ ?_ | refine keepsO_ite ?_ ?_
    | split

theorem keeps_dipReading (v : Nat) {s t : State} (hk : Keeps s t) : Keeps s (dipReading v t) := by
  unfold dipReading
  repeat' first
    | with_reducible first | assumption | apply keeps_cause
    | ((try lift_lets); intro x; first | (refine (fun hx : Keeps s x => ?_) ?_; (on_goal 1 => clear_value x); (on_goal 2 => subst x)) | (have hf : ∀ a, x a = x a := fun _ => rfl; clear hf; subst x) | clear_value x | subst x)
    | with_reducible first | refine keeps_ite ?_ ?_ | refine keepsO_ite ?_ ?_
    | split

theorem keeps_showReading (v : Nat) {s t : State} (hk : Keeps s t) : Keeps s (showReading v t) := by
  unfold showReading
  repeat' first
    | with_reducible first | assumption | apply keeps_set | apply keeps_ownReading
    | with_reducible fail_if_no_progress (refine Keeps.same ?_ rfl rfl rfl)
    | ((try lift_lets); intro x; first | (refine (fun hx : Keeps s x => ?_) ?_; (on_goal 1 => clear_value x); (on_goal 2 => subst x)) | (have hf : ∀ a, x a = x a := fun _ => rfl; clear hf; subst x) | clear_value x | subst x)
    | with_reducible first | refine Keeps.ofPair (by assumption) ?_ | refine Keeps.ofPair2 (by assumption) ?_ | refine Keeps.ofM (by assumption) ?_ | refine Keeps.ofMP (by assumption) ?_ | refine KeepsO.ofMO (by assumption) ?_ | refine Keeps.ofO (by assumption) ?_

theorem keeps_vbatReading (mv : Nat) {s t : State} (hk : Keeps s t) : Keeps s (vbatReading mv t) := by
  unfold vbatReading
  repeat' first
    | with_reducible first | assumption | apply keeps_holdReading | apply keeps_showReading | apply keeps_dipReading
    | ((try lift_lets); intro x; first | (refine (fun hx : Keeps s x => ?_) ?_; (on_goal 1 => clear_value x); (on_goal 2 => subst x)) | (have hf : ∀ a, x a = x a := fun _ => rfl; clear hf; subst x) | clear_value x | subst x)

theorem keeps_execVbatReading (mv : Nat) {s t : State} (hk : Keeps s t) : KeepsO s (execVbatReading mv t) := by
  unfold execVbatReading
  repeat' first
    | with_reducible first | assumption | apply KeepsO.next | apply KeepsO.fault | apply KeepsO.stay | apply keeps_stay | apply keeps_vbatReading
    | with_reducible first | refine keeps_ite ?_ ?_ | refine keepsO_ite ?_ ?_
    | split

theorem keeps_ownLine (v : Bool) {s t : State} (hk : Keeps s t) : Keeps s (ownLine v t) := by
  unfold ownLine
  repeat' first
    | with_reducible first | assumption | apply keeps_set
    | with_reducible fail_if_no_progress (refine Keeps.same ?_ rfl rfl rfl)
    | ((try lift_lets); intro x; first | (refine (fun hx : Keeps s x => ?_) ?_; (on_goal 1 => clear_value x); (on_goal 2 => subst x)) | (have hf : ∀ a, x a = x a := fun _ => rfl; clear hf; subst x) | clear_value x | subst x)
    | split
    | with_reducible first | refine Keeps.ofPair (by assumption) ?_ | refine Keeps.ofPair2 (by assumption) ?_ | refine Keeps.ofM (by assumption) ?_ | refine Keeps.ofMP (by assumption) ?_ | refine KeepsO.ofMO (by assumption) ?_ | refine Keeps.ofO (by assumption) ?_
    | dsimp (zeta := false) only
    | dsimp only

theorem keeps_execOwnershipTake {s t : State} (hk : Keeps s t) : KeepsO s (execOwnershipTake t) := by
  unfold execOwnershipTake
  repeat' first
    | with_reducible first | assumption | apply KeepsO.next | apply KeepsO.fault | apply KeepsO.stay | apply keeps_stay | apply keeps_ownLine | apply keeps_set
    | with_reducible refine fun _ => ?_
    | with_reducible fail_if_no_progress (refine Keeps.same ?_ rfl rfl rfl)
    | ((try lift_lets); intro x; first | (refine (fun hx : Keeps s x => ?_) ?_; (on_goal 1 => clear_value x); (on_goal 2 => subst x)) | (have hf : ∀ a, x a = x a := fun _ => rfl; clear hf; subst x) | clear_value x | subst x)
    | with_reducible first | refine keeps_ite ?_ ?_ | refine keepsO_ite ?_ ?_
    | split
    | beta_reduce

theorem keeps_ownershipDrop {s t : State} (hk : Keeps s t) : Keeps s (ownershipDrop t) := by
  unfold ownershipDrop
  repeat' first
    | with_reducible first | assumption | apply keeps_gatesLow | apply keeps_ownLine | apply keeps_set | apply keeps_foldl
    | with_reducible refine fun _ => ?_
    | with_reducible fail_if_no_progress (refine Keeps.same ?_ rfl rfl rfl)
    | ((try lift_lets); intro x; first | (refine (fun hx : Keeps s x => ?_) ?_; (on_goal 1 => clear_value x); (on_goal 2 => subst x)) | (have hf : ∀ a, x a = x a := fun _ => rfl; clear hf; subst x) | clear_value x | subst x)
    | beta_reduce

end Sys2Proof.Machine
end

