-- ==== Sys2Proof/Laws/KeepsAud.lean ====
section
/-!
SUPPORT. What Machine/Aud.lean keeps (Laws/Keeps.lean).
-/
namespace Sys2Proof.Machine
set_option linter.unusedTactic false
set_option linter.unreachableTactic false
set_option linter.unusedVariables false

theorem keeps_setAch (c : Nat) (x : AudCh) {s t : State} (hk : Keeps s t) : Keeps s (State.setAch t c x) := by
  unfold State.setAch
  repeat' first
    | with_reducible assumption
    | with_reducible refine fun _ => ?_
    | with_reducible fail_if_no_progress (refine Keeps.same ?_ rfl rfl rfl)
    | ((try lift_lets); intro x; first | (refine (fun hx : Keeps s x => ?_) ?_; (on_goal 1 => clear_value x); (on_goal 2 => subst x)) | (have hf : ∀ a, x a = x a := fun _ => rfl; clear hf; subst x) | clear_value x | subst x)
    | beta_reduce

theorem keeps_pktWrByte (a : Nat) (b : Byte) {s t : State} (hk : Keeps s t) : Keeps s (pktWrByte t a b) := by
  unfold pktWrByte
  repeat' first
    | with_reducible first | assumption | apply keeps_pkt_free | apply keeps_wr | apply keeps_pkt_wrBytes | apply keeps_pkt_wr | apply keeps_pkt_clear | apply keeps_pkt_nil
    | ((try lift_lets); intro x; first | (refine (fun hx : Keeps s x => ?_) ?_; (on_goal 1 => clear_value x); (on_goal 2 => subst x)) | (have hf : ∀ a, x a = x a := fun _ => rfl; clear hf; subst x) | clear_value x | subst x)
    | with_reducible first | refine keeps_ite ?_ ?_ | refine keepsO_ite ?_ ?_
    | split

theorem keeps_pktWrBytes (a : Nat) (bs : List Byte) {s t : State} (hk : Keeps s t) : Keeps s (pktWrBytes a bs t) := by
  unfold pktWrBytes
  repeat' first
    | with_reducible first | assumption | apply keeps_pktWrByte | apply keeps_foldl
    | with_reducible refine fun _ => ?_
    | beta_reduce

theorem keeps_pktWr32 (a : Nat) (w : Word) {s t : State} (hk : Keeps s t) : Keeps s (pktWr32 a w t) := by
  unfold pktWr32
  repeat' first
    | with_reducible first | assumption | apply keeps_pktWrBytes

theorem keeps_ovrCheck (c : Nat) {s t : State} (hk : Keeps s t) : Keeps s (ovrCheck c t) := by
  unfold ovrCheck
  repeat' first
    | with_reducible first | assumption | apply keeps_set | apply keeps_cause
    | ((try lift_lets); intro x; first | (refine (fun hx : Keeps s x => ?_) ?_; (on_goal 1 => clear_value x); (on_goal 2 => subst x)) | (have hf : ∀ a, x a = x a := fun _ => rfl; clear hf; subst x) | clear_value x | subst x)
    | with_reducible first | refine keeps_ite ?_ ?_ | refine keepsO_ite ?_ ?_
    | split

theorem keeps_playSample (c : Nat) {s t : State} (hk : Keeps s t) : Keeps s (playSample c t) := by
  unfold playSample
  repeat' first
    | with_reducible first | assumption | apply keeps_set | apply keeps_setAch
    | with_reducible fail_if_no_progress (refine Keeps.same ?_ rfl rfl rfl)
    | ((try lift_lets); intro x; first | (refine (fun hx : Keeps s x => ?_) ?_; (on_goal 1 => clear_value x); (on_goal 2 => subst x)) | (have hf : ∀ a, x a = x a := fun _ => rfl; clear hf; subst x) | clear_value x | subst x)
    | with_reducible first | refine keeps_ite ?_ ?_ | refine keepsO_ite ?_ ?_
    | split

theorem keeps_concealSample (c : Nat) {s t : State} (hk : Keeps s t) : Keeps s (concealSample c t) := by
  unfold concealSample
  repeat' first
    | with_reducible first | assumption | apply keeps_setAch | apply keeps_bump | apply keeps_cause | apply keeps_set
    | with_reducible fail_if_no_progress (refine Keeps.same ?_ rfl rfl rfl)
    | ((try lift_lets); intro x; first | (refine (fun hx : Keeps s x => ?_) ?_; (on_goal 1 => clear_value x); (on_goal 2 => subst x)) | (have hf : ∀ a, x a = x a := fun _ => rfl; clear hf; subst x) | clear_value x | subst x)
    | with_reducible first | refine keeps_ite ?_ ?_ | refine keepsO_ite ?_ ?_
    | split

theorem keeps_ringInstant (c : Nat) {s t : State} (hk : Keeps s t) : Keeps s (ringInstant c t) := by
  unfold ringInstant
  repeat' first
    | with_reducible first | assumption | apply keeps_setAch | apply keeps_set | apply keeps_playSample | apply keeps_concealSample | apply keeps_ovrCheck | apply keeps_wr
    | with_reducible fail_if_no_progress (refine Keeps.same ?_ rfl rfl rfl)
    | ((try lift_lets); intro x; first | (refine (fun hx : Keeps s x => ?_) ?_; (on_goal 1 => clear_value x); (on_goal 2 => subst x)) | (have hf : ∀ a, x a = x a := fun _ => rfl; clear hf; subst x) | clear_value x | subst x)
    | with_reducible first | refine keeps_ite ?_ ?_ | refine keepsO_ite ?_ ?_
    | split

theorem keeps_chStop (c : Nat) {s t : State} (hk : Keeps s t) : Keeps s (chStop c t) := by
  unfold chStop
  repeat' first
    | with_reducible first | assumption | apply keeps_set | apply keeps_setAch
    | with_reducible fail_if_no_progress (refine Keeps.same ?_ rfl rfl rfl)
    | ((try lift_lets); intro x; first | (refine (fun hx : Keeps s x => ?_) ?_; (on_goal 1 => clear_value x); (on_goal 2 => subst x)) | (have hf : ∀ a, x a = x a := fun _ => rfl; clear hf; subst x) | clear_value x | subst x)
    | with_reducible first | refine keeps_ite ?_ ?_ | refine keepsO_ite ?_ ?_
    | split

theorem keeps_chEnable (c : Nat) (en : Bool) {s t : State} (hk : Keeps s t) : Keeps s (chEnable c en t) := by
  unfold chEnable
  repeat' first
    | with_reducible first | assumption | apply keeps_set | apply keeps_setAch
    | with_reducible fail_if_no_progress (refine Keeps.same ?_ rfl rfl rfl)
    | ((try lift_lets); intro x; first | (refine (fun hx : Keeps s x => ?_) ?_; (on_goal 1 => clear_value x); (on_goal 2 => subst x)) | (have hf : ∀ a, x a = x a := fun _ => rfl; clear hf; subst x) | clear_value x | subst x)
    | with_reducible first | refine keeps_ite ?_ ?_ | refine keepsO_ite ?_ ?_
    | split

theorem keeps_wposWrite (c : Nat) (v : Word) {s t : State} (hk : Keeps s t) : Keeps s (wposWrite c v t) := by
  unfold wposWrite
  repeat' first
    | with_reducible first | assumption | apply keeps_ovrCheck | apply keeps_wr

theorem keeps_execWposWrite (a : Agent) (c : Nat) (v : Word) {s t : State} (hk : Keeps s t) : KeepsO s (execWposWrite a c v t) := by
  unfold execWposWrite
  repeat' first
    | with_reducible first | assumption | apply KeepsO.next | apply KeepsO.fault | apply KeepsO.stay | apply keeps_stay | apply keeps_access | apply keeps_wposWrite
    | with_reducible refine fun _ => ?_
    | with_reducible first | refine keeps_ite ?_ ?_ | refine keepsO_ite ?_ ?_
    | split
    | beta_reduce

theorem keeps_rposWrite (c : Nat) (v : Word) {s t : State} (hk : Keeps s t) : Keeps s (rposWrite c v t) := by
  unfold rposWrite
  repeat' first
    | with_reducible first | assumption | apply keeps_ovrCheck | apply keeps_wr
    | with_reducible first | refine keeps_ite ?_ ?_ | refine keepsO_ite ?_ ?_
    | split

theorem keeps_execChannelArm (a : Agent) (c : Nat) {s t : State} (hk : Keeps s t) : KeepsO s (execChannelArm a c t) := by
  unfold execChannelArm
  repeat' first
    | with_reducible first | assumption | apply KeepsO.next | apply KeepsO.fault | apply KeepsO.stay | apply keeps_stay | apply keeps_access | apply keeps_chEnable
    | with_reducible refine fun _ => ?_
    | with_reducible first | refine keeps_ite ?_ ?_ | refine keepsO_ite ?_ ?_
    | split
    | beta_reduce

theorem keeps_execChannelDisable (a : Agent) (c : Nat) {s t : State} (hk : Keeps s t) : KeepsO s (execChannelDisable a c t) := by
  unfold execChannelDisable
  repeat' first
    | with_reducible first | assumption | apply KeepsO.next | apply KeepsO.fault | apply KeepsO.stay | apply keeps_stay | apply keeps_access | apply keeps_chEnable
    | with_reducible refine fun _ => ?_
    | with_reducible first | refine keeps_ite ?_ ?_ | refine keepsO_ite ?_ ?_
    | split
    | beta_reduce

theorem keeps_answer (a : Agent) (v : Word) {s t : State} (hk : Keeps s t) : Keeps s (answer a v t) := by
  unfold answer
  repeat' first
    | with_reducible assumption
    | with_reducible refine fun _ => ?_
    | with_reducible fail_if_no_progress (refine Keeps.same ?_ rfl rfl rfl)
    | ((try lift_lets); intro x; first | (refine (fun hx : Keeps s x => ?_) ?_; (on_goal 1 => clear_value x); (on_goal 2 => subst x)) | (have hf : ∀ a, x a = x a := fun _ => rfl; clear hf; subst x) | clear_value x | subst x)
    | beta_reduce

theorem keeps_rposRead (a : Agent) (c : Nat) {s t : State} (hk : Keeps s t) : Keeps s (rposRead a c t).2 := by
  unfold rposRead
  repeat' first
    | with_reducible assumption
    | with_reducible refine fun _ => ?_
    | with_reducible fail_if_no_progress (refine Keeps.same ?_ rfl rfl rfl)
    | ((try lift_lets); intro x; first | (refine (fun hx : Keeps s x => ?_) ?_; (on_goal 1 => clear_value x); (on_goal 2 => subst x)) | (have hf : ∀ a, x a = x a := fun _ => rfl; clear hf; subst x) | clear_value x | subst x)
    | beta_reduce

theorem keeps_execRposRead (a : Agent) (c : Nat) {s t : State} (hk : Keeps s t) : KeepsO s (execRposRead a c t) := by
  unfold execRposRead
  repeat' first
    | with_reducible first | assumption | apply KeepsO.next | apply KeepsO.fault | apply KeepsO.stay | apply keeps_stay | apply keeps_readRow | apply keeps_rposRead
    | with_reducible refine fun _ => ?_
    | with_reducible first | refine keeps_ite ?_ ?_ | refine keepsO_ite ?_ ?_
    | split
    | beta_reduce

theorem keeps_dpllTrack {s t : State} (hk : Keeps s t) : Keeps s (dpllTrack t) := by
  unfold dpllTrack
  repeat' first
    | with_reducible first | assumption | apply keeps_draw | apply keeps_wr | apply keeps_set
    | ((try lift_lets); intro x; first | (refine (fun hx : Keeps s x => ?_) ?_; (on_goal 1 => clear_value x); (on_goal 2 => subst x)) | (have hf : ∀ a, x a = x a := fun _ => rfl; clear hf; subst x) | clear_value x | subst x)
    | split
    | with_reducible first | refine Keeps.ofPair (by assumption) ?_ | refine Keeps.ofPair2 (by assumption) ?_ | refine Keeps.ofM (by assumption) ?_ | refine Keeps.ofMP (by assumption) ?_ | refine KeepsO.ofMO (by assumption) ?_ | refine Keeps.ofO (by assumption) ?_
    | dsimp (zeta := false) only
    | dsimp only

theorem keeps_crfTimestamp (v : Word) {s t : State} (hk : Keeps s t) : Keeps s (crfTimestamp v t) := by
  unfold crfTimestamp
  repeat' first
    | with_reducible first | assumption | apply keeps_dpllTrack | apply keeps_set
    | with_reducible fail_if_no_progress (refine Keeps.same ?_ rfl rfl rfl)
    | ((try lift_lets); intro x; first | (refine (fun hx : Keeps s x => ?_) ?_; (on_goal 1 => clear_value x); (on_goal 2 => subst x)) | (have hf : ∀ a, x a = x a := fun _ => rfl; clear hf; subst x) | clear_value x | subst x)
    | with_reducible first | refine keeps_ite ?_ ?_ | refine keepsO_ite ?_ ?_
    | split
    | with_reducible first | refine Keeps.ofPair (by assumption) ?_ | refine Keeps.ofPair2 (by assumption) ?_ | refine Keeps.ofM (by assumption) ?_ | refine Keeps.ofMP (by assumption) ?_ | refine KeepsO.ofMO (by assumption) ?_ | refine Keeps.ofO (by assumption) ?_
    | dsimp (zeta := false) only
    | dsimp only

theorem keeps_execCrfTimestamp (a : Agent) (v : Word) {s t : State} (hk : Keeps s t) : KeepsO s (execCrfTimestamp a v t) := by
  unfold execCrfTimestamp
  repeat' first
    | with_reducible first | assumption | apply KeepsO.next | apply KeepsO.fault | apply KeepsO.stay | apply keeps_stay | apply keeps_access | apply keeps_crfTimestamp
    | with_reducible refine fun _ => ?_
    | with_reducible first | refine keeps_ite ?_ ?_ | refine keepsO_ite ?_ ?_
    | split
    | beta_reduce

theorem keeps_srcCheck {s t : State} (hk : Keeps s t) : Keeps s (srcCheck t) := by
  unfold srcCheck
  repeat' first
    | with_reducible first | assumption | apply keeps_cause
    | with_reducible first | refine keeps_ite ?_ ?_ | refine keepsO_ite ?_ ?_
    | split

theorem keeps_execDpllReferenceTimeout {s t : State} (hk : Keeps s t) : KeepsO s (execDpllReferenceTimeout t) := by
  unfold execDpllReferenceTimeout
  repeat' first
    | with_reducible first | assumption | apply KeepsO.next | apply KeepsO.fault | apply KeepsO.stay | apply keeps_stay | apply keeps_cause | apply keeps_set
    | with_reducible first | refine keeps_ite ?_ ?_ | refine keepsO_ite ?_ ?_
    | split

theorem keeps_execDpllLock {s t : State} (hk : Keeps s t) : KeepsO s (execDpllLock t) := by
  unfold execDpllLock
  repeat' first
    | with_reducible first | assumption | apply KeepsO.next | apply KeepsO.fault | apply KeepsO.stay | apply keeps_stay | apply keeps_cause | apply keeps_set
    | with_reducible first | refine keeps_ite ?_ ?_ | refine keepsO_ite ?_ ?_
    | split

theorem keeps_execDpllLockLoss {s t : State} (hk : Keeps s t) : KeepsO s (execDpllLockLoss t) := by
  unfold execDpllLockLoss
  repeat' first
    | with_reducible first | assumption | apply KeepsO.next | apply KeepsO.fault | apply KeepsO.stay | apply keeps_stay | apply keeps_cause | apply keeps_set
    | with_reducible first | refine keeps_ite ?_ ?_ | refine keepsO_ite ?_ ?_
    | split

theorem keeps_mediaTick {s t : State} (hk : Keeps s t) : Keeps s (mediaTick t).2.2 := by
  unfold mediaTick
  repeat' first
    | with_reducible first | assumption | apply keeps_dpllTrack
    | with_reducible fail_if_no_progress (refine Keeps.same ?_ rfl rfl rfl)
    | ((try lift_lets); intro x; first | (refine (fun hx : Keeps s x => ?_) ?_; (on_goal 1 => clear_value x); (on_goal 2 => subst x)) | (have hf : ∀ a, x a = x a := fun _ => rfl; clear hf; subst x) | clear_value x | subst x)
    | with_reducible first | refine keeps_ite ?_ ?_ | refine keepsO_ite ?_ ?_ | refine keepsP_ite ?_ ?_
    | split

theorem keeps_gainSample {s t : State} (hk : Keeps s t) : Keeps s (gainSample t) := by
  unfold gainSample
  repeat' first
    | with_reducible first | assumption | apply keeps_set
    | with_reducible fail_if_no_progress (refine Keeps.same ?_ rfl rfl rfl)
    | ((try lift_lets); intro x; first | (refine (fun hx : Keeps s x => ?_) ?_; (on_goal 1 => clear_value x); (on_goal 2 => subst x)) | (have hf : ∀ a, x a = x a := fun _ => rfl; clear hf; subst x) | clear_value x | subst x)
    | with_reducible first | refine keeps_ite ?_ ?_ | refine keepsO_ite ?_ ?_
    | split
    | with_reducible first | refine Keeps.ofPair (by assumption) ?_ | refine Keeps.ofPair2 (by assumption) ?_ | refine Keeps.ofM (by assumption) ?_ | refine Keeps.ofMP (by assumption) ?_ | refine KeepsO.ofMO (by assumption) ?_ | refine Keeps.ofO (by assumption) ?_
    | dsimp (zeta := false) only
    | dsimp only

theorem keeps_pathSample (c : Nat) {s t : State} (hk : Keeps s t) : Keeps s (pathSample c t) := by
  unfold pathSample
  repeat' first
    | with_reducible first | assumption | apply keeps_convertSample | apply keeps_draw | apply keeps_setAch | apply keeps_bump
    | with_reducible fail_if_no_progress (refine Keeps.same ?_ rfl rfl rfl)
    | ((try lift_lets); intro x; first | (refine (fun hx : Keeps s x => ?_) ?_; (on_goal 1 => clear_value x); (on_goal 2 => subst x)) | (have hf : ∀ a, x a = x a := fun _ => rfl; clear hf; subst x) | clear_value x | subst x)
    | with_reducible first | refine keeps_ite ?_ ?_ | refine keepsO_ite ?_ ?_
    | split
    | with_reducible first | refine Keeps.ofPair (by assumption) ?_ | refine Keeps.ofPair2 (by assumption) ?_ | refine Keeps.ofM (by assumption) ?_ | refine Keeps.ofMP (by assumption) ?_ | refine KeepsO.ofMO (by assumption) ?_ | refine Keeps.ofO (by assumption) ?_
    | dsimp (zeta := false) only
    | dsimp only

theorem keeps_hardWord (c p : Nat) {s t : State} (hk : Keeps s t) : Keeps s (hardWord c p t).2 := by
  unfold hardWord
  repeat' first
    | with_reducible first | assumption | apply keeps_setAch
    | with_reducible refine fun _ => ?_
    | with_reducible fail_if_no_progress (refine Keeps.same ?_ rfl rfl rfl)
    | ((try lift_lets); intro x; first | (refine (fun hx : Keeps s x => ?_) ?_; (on_goal 1 => clear_value x); (on_goal 2 => subst x)) | (have hf : ∀ a, x a = x a := fun _ => rfl; clear hf; subst x) | clear_value x | subst x)
    | with_reducible first | refine keeps_ite ?_ ?_ | refine keepsO_ite ?_ ?_ | refine keepsP_ite ?_ ?_
    | split
    | with_reducible first | refine Keeps.ofPair (by assumption) ?_ | refine Keeps.ofPair2 (by assumption) ?_ | refine Keeps.ofM (by assumption) ?_ | refine Keeps.ofMP (by assumption) ?_ | refine KeepsO.ofMO (by assumption) ?_ | refine Keeps.ofO (by assumption) ?_
    | beta_reduce
    | dsimp (zeta := false) only
    | dsimp only

theorem keeps_fabMiss (c : Nat) {s t : State} (hk : Keeps s t) : Keeps s (fabMiss c t) := by
  unfold fabMiss
  repeat' first
    | with_reducible first | assumption | apply keeps_cause | apply keeps_bump

theorem keeps_laneShow (c k j : Nat) {s t : State} (hk : Keeps s t) : Keeps s (laneShow c k j t) := by
  unfold laneShow
  repeat' first
    | with_reducible first | assumption | apply keeps_setAch
    | with_reducible refine fun _ => ?_
    | with_reducible fail_if_no_progress (refine Keeps.same ?_ rfl rfl rfl)
    | ((try lift_lets); intro x; first | (refine (fun hx : Keeps s x => ?_) ?_; (on_goal 1 => clear_value x); (on_goal 2 => subst x)) | (have hf : ∀ a, x a = x a := fun _ => rfl; clear hf; subst x) | clear_value x | subst x)
    | with_reducible first | refine keeps_ite ?_ ?_ | refine keepsO_ite ?_ ?_ | refine keepsP_ite ?_ ?_
    | split
    | with_reducible first | refine Keeps.ofPair (by assumption) ?_ | refine Keeps.ofPair2 (by assumption) ?_ | refine Keeps.ofM (by assumption) ?_ | refine Keeps.ofMP (by assumption) ?_ | refine KeepsO.ofMO (by assumption) ?_ | refine Keeps.ofO (by assumption) ?_
    | beta_reduce
    | dsimp (zeta := false) only
    | dsimp only

theorem keeps_audWord (c p : Nat) {s t : State} (hk : Keeps s t) : Keeps s (audWord c p t).2 := by
  unfold audWord
  repeat' first
    | with_reducible first | assumption | apply keeps_hardWord | apply keeps_setAch | apply keeps_set | apply keeps_fabMiss
    | with_reducible refine fun _ => ?_
    | with_reducible fail_if_no_progress (refine Keeps.same ?_ rfl rfl rfl)
    | ((try lift_lets); intro x; first | (refine (fun hx : Keeps s x => ?_) ?_; (on_goal 1 => clear_value x); (on_goal 2 => subst x)) | (have hf : ∀ a, x a = x a := fun _ => rfl; clear hf; subst x) | clear_value x | subst x)
    | with_reducible first | refine keeps_ite ?_ ?_ | refine keepsO_ite ?_ ?_ | refine keepsP_ite ?_ ?_
    | split
    | with_reducible first | refine Keeps.ofPair (by assumption) ?_ | refine Keeps.ofPair2 (by assumption) ?_ | refine Keeps.ofM (by assumption) ?_ | refine Keeps.ofMP (by assumption) ?_ | refine KeepsO.ofMO (by assumption) ?_ | refine Keeps.ofO (by assumption) ?_
    | beta_reduce
    | dsimp (zeta := false) only
    | dsimp only

theorem keeps_execFabricEdgeWord (c : Nat) (w : Option Nat) {s t : State} (hk : Keeps s t) : KeepsO s (execFabricEdgeWord c w t) := by
  unfold execFabricEdgeWord
  repeat' first
    | with_reducible first | assumption | apply KeepsO.next | apply KeepsO.fault | apply KeepsO.stay | apply keeps_stay | apply keeps_setAch
    | with_reducible fail_if_no_progress (refine Keeps.same ?_ rfl rfl rfl)
    | ((try lift_lets); intro x; first | (refine (fun hx : Keeps s x => ?_) ?_; (on_goal 1 => clear_value x); (on_goal 2 => subst x)) | (have hf : ∀ a, x a = x a := fun _ => rfl; clear hf; subst x) | clear_value x | subst x)
    | with_reducible first | refine keeps_ite ?_ ?_ | refine keepsO_ite ?_ ?_
    | split

theorem keeps_listenerSeen (n : Nat) {s t : State} (hk : Keeps s t) : Keeps s (listenerSeen n t) := by
  unfold listenerSeen
  repeat' first
    | with_reducible first | assumption | apply keeps_set
    | with_reducible refine fun _ => ?_
    | with_reducible fail_if_no_progress (refine Keeps.same ?_ rfl rfl rfl)
    | ((try lift_lets); intro x; first | (refine (fun hx : Keeps s x => ?_) ?_; (on_goal 1 => clear_value x); (on_goal 2 => subst x)) | (have hf : ∀ a, x a = x a := fun _ => rfl; clear hf; subst x) | clear_value x | subst x)
    | beta_reduce

theorem keeps_execListenerSeen (a : Agent) (n : Nat) {s t : State} (hk : Keeps s t) : KeepsO s (execListenerSeen a n t) := by
  unfold execListenerSeen
  repeat' first
    | with_reducible first | assumption | apply KeepsO.next | apply KeepsO.fault | apply KeepsO.stay | apply keeps_stay | apply keeps_access | apply keeps_listenerSeen
    | with_reducible refine fun _ => ?_
    | with_reducible first | refine keeps_ite ?_ ?_ | refine keepsO_ite ?_ ?_
    | split
    | beta_reduce

theorem keeps_execListenerTimeout (n : Nat) {s t : State} (hk : Keeps s t) : KeepsO s (execListenerTimeout n t) := by
  unfold execListenerTimeout
  repeat' first
    | with_reducible first | assumption | apply KeepsO.next | apply KeepsO.fault | apply KeepsO.stay | apply keeps_stay | apply keeps_cause | apply keeps_set
    | with_reducible refine fun _ => ?_
    | with_reducible first | refine keeps_ite ?_ ?_ | refine keepsO_ite ?_ ?_
    | split
    | beta_reduce

theorem keeps_capWrite (k : Nat) (w : Word) {s t : State} (hk : Keeps s t) : Keeps s (capWrite k w t) := by
  unfold capWrite
  repeat' first
    | with_reducible first | assumption | apply keeps_unpredDevice | apply keeps_pktWr32 | apply keeps_wr
    | with_reducible refine fun _ => ?_
    | with_reducible fail_if_no_progress (refine Keeps.same ?_ rfl rfl rfl)
    | ((try lift_lets); intro x; first | (refine (fun hx : Keeps s x => ?_) ?_; (on_goal 1 => clear_value x); (on_goal 2 => subst x)) | (have hf : ∀ a, x a = x a := fun _ => rfl; clear hf; subst x) | clear_value x | subst x)
    | with_reducible first | refine keeps_ite ?_ ?_ | refine keepsO_ite ?_ ?_
    | split
    | beta_reduce

theorem keeps_tapCapture (t96 t48 : Bool) (k : Nat) {s t : State} (hk : Keeps s t) : Keeps s (tapCapture t96 t48 k t) := by
  unfold tapCapture
  repeat' first
    | with_reducible first | assumption | apply keeps_draw | apply keeps_capWrite
    | with_reducible fail_if_no_progress (refine Keeps.same ?_ rfl rfl rfl)
    | ((try lift_lets); intro x; first | (refine (fun hx : Keeps s x => ?_) ?_; (on_goal 1 => clear_value x); (on_goal 2 => subst x)) | (have hf : ∀ a, x a = x a := fun _ => rfl; clear hf; subst x) | clear_value x | subst x)
    | with_reducible first | refine keeps_ite ?_ ?_ | refine keepsO_ite ?_ ?_
    | split
    | with_reducible first | refine Keeps.ofPair (by assumption) ?_ | refine Keeps.ofPair2 (by assumption) ?_ | refine Keeps.ofM (by assumption) ?_ | refine Keeps.ofMP (by assumption) ?_ | refine KeepsO.ofMO (by assumption) ?_ | refine Keeps.ofO (by assumption) ?_
    | dsimp (zeta := false) only
    | dsimp only

theorem keeps_capTimeOf (k : Nat) (p : Word) {s t : State} (hk : Keeps s t) : Keeps s (capTimeOf k p t).2 := by
  unfold capTimeOf
  repeat' first
    | with_reducible first | assumption | apply keeps_draw
    | with_reducible refine fun _ => ?_
    | with_reducible first | refine keeps_ite ?_ ?_ | refine keepsO_ite ?_ ?_ | refine keepsP_ite ?_ ?_
    | split
    | beta_reduce

theorem keeps_capWposRead (a : Agent) (k : Nat) {s t : State} (hk : Keeps s t) : Keeps s (capWposRead a k t).2 := by
  unfold capWposRead
  repeat' first
    | with_reducible first | assumption | apply keeps_capTimeOf
    | with_reducible refine fun _ => ?_
    | with_reducible fail_if_no_progress (refine Keeps.same ?_ rfl rfl rfl)
    | ((try lift_lets); intro x; first | (refine (fun hx : Keeps s x => ?_) ?_; (on_goal 1 => clear_value x); (on_goal 2 => subst x)) | (have hf : ∀ a, x a = x a := fun _ => rfl; clear hf; subst x) | clear_value x | subst x)
    | split
    | with_reducible first | refine Keeps.ofPair (by assumption) ?_ | refine Keeps.ofPair2 (by assumption) ?_ | refine Keeps.ofM (by assumption) ?_ | refine Keeps.ofMP (by assumption) ?_ | refine KeepsO.ofMO (by assumption) ?_ | refine Keeps.ofO (by assumption) ?_
    | beta_reduce
    | dsimp (zeta := false) only
    | dsimp only

theorem keeps_execCaptureWposRead (a : Agent) (k : Nat) {s t : State} (hk : Keeps s t) : KeepsO s (execCaptureWposRead a k t) := by
  unfold execCaptureWposRead
  repeat' first
    | with_reducible first | assumption | apply KeepsO.next | apply KeepsO.fault | apply KeepsO.stay | apply keeps_stay | apply keeps_readRow | apply keeps_capWposRead
    | with_reducible refine fun _ => ?_
    | with_reducible first | refine keeps_ite ?_ ?_ | refine keepsO_ite ?_ ?_
    | split
    | beta_reduce

theorem keeps_capStart (k : Nat) {s t : State} (hk : Keeps s t) : Keeps s (capStart k t) := by
  unfold capStart
  repeat' first
    | with_reducible first | assumption | apply keeps_wr

theorem keeps_setTalk (k pos seq : Nat) {s t : State} (hk : Keeps s t) : Keeps s (setTalk k pos seq t) := by
  unfold setTalk
  repeat' first
    | with_reducible assumption
    | with_reducible refine fun _ => ?_
    | with_reducible fail_if_no_progress (refine Keeps.same ?_ rfl rfl rfl)
    | ((try lift_lets); intro x; first | (refine (fun hx : Keeps s x => ?_) ?_; (on_goal 1 => clear_value x); (on_goal 2 => subst x)) | (have hf : ∀ a, x a = x a := fun _ => rfl; clear hf; subst x) | clear_value x | subst x)
    | beta_reduce

theorem keeps_talkStart (k : Nat) {s t : State} (hk : Keeps s t) : Keeps s (talkStart k t) := by
  unfold talkStart
  repeat' first
    | with_reducible first | assumption | apply keeps_setTalk | apply keeps_capStart | apply keeps_foldl
    | with_reducible refine fun _ => ?_
    | beta_reduce

theorem keeps_execTalkerEnable (a : Agent) (k : Nat) {s t : State} (hk : Keeps s t) : KeepsO s (execTalkerEnable a k t) := by
  unfold execTalkerEnable
  repeat' first
    | with_reducible first | assumption | apply keeps_unpredBlock | apply KeepsO.next | apply KeepsO.fault | apply KeepsO.stay | apply keeps_stay | apply keeps_access | apply keeps_talkStart | apply keeps_set
    | with_reducible refine fun _ => ?_
    | with_reducible first | refine keeps_ite ?_ ?_ | refine keepsO_ite ?_ ?_
    | split
    | beta_reduce

theorem keeps_talkNext (k : Nat) {s t : State} (hk : Keeps s t) : Keeps s (talkNext k t).2 := by
  unfold talkNext
  repeat' first
    | with_reducible first | assumption | apply keeps_setTalk | apply keeps_wr
    | with_reducible refine fun _ => ?_
    | ((try lift_lets); intro x; first | (refine (fun hx : Keeps s x => ?_) ?_; (on_goal 1 => clear_value x); (on_goal 2 => subst x)) | (have hf : ∀ a, x a = x a := fun _ => rfl; clear hf; subst x) | clear_value x | subst x)
    | with_reducible first | refine keeps_ite ?_ ?_ | refine keepsO_ite ?_ ?_ | refine keepsP_ite ?_ ?_
    | split
    | beta_reduce

theorem keeps_execTalkerNextRead (a : Agent) (k : Nat) {s t : State} (hk : Keeps s t) : KeepsO s (execTalkerNextRead a k t) := by
  unfold execTalkerNextRead
  repeat' first
    | with_reducible first | assumption | apply KeepsO.next | apply KeepsO.fault | apply KeepsO.stay | apply keeps_stay | apply keeps_readRow | apply keeps_talkNext
    | with_reducible refine fun _ => ?_
    | with_reducible first | refine keeps_ite ?_ ?_ | refine keepsO_ite ?_ ?_
    | split
    | beta_reduce

theorem keeps_setTdm (p : Nat) (x : Tdm) {s t : State} (hk : Keeps s t) : Keeps s (State.setTdm t p x) := by
  unfold State.setTdm
  repeat' first
    | with_reducible assumption
    | with_reducible refine fun _ => ?_
    | with_reducible fail_if_no_progress (refine Keeps.same ?_ rfl rfl rfl)
    | ((try lift_lets); intro x; first | (refine (fun hx : Keeps s x => ?_) ?_; (on_goal 1 => clear_value x); (on_goal 2 => subst x)) | (have hf : ∀ a, x a = x a := fun _ => rfl; clear hf; subst x) | clear_value x | subst x)
    | beta_reduce

theorem keeps_tdmCapture (p : Nat) (slots : List Word) {s t : State} (hk : Keeps s t) : Keeps s (tdmCapture p slots t) := by
  unfold tdmCapture
  repeat' first
    | with_reducible first | assumption | apply keeps_capWrite | apply keeps_foldl
    | with_reducible refine fun _ => ?_
    | with_reducible fail_if_no_progress (refine Keeps.same ?_ rfl rfl rfl)
    | ((try lift_lets); intro x; first | (refine (fun hx : Keeps s x => ?_) ?_; (on_goal 1 => clear_value x); (on_goal 2 => subst x)) | (have hf : ∀ a, x a = x a := fun _ => rfl; clear hf; subst x) | clear_value x | subst x)
    | with_reducible first | refine keeps_ite ?_ ?_ | refine keepsO_ite ?_ ?_
    | split
    | with_reducible first | refine Keeps.ofPair (by assumption) ?_ | refine Keeps.ofPair2 (by assumption) ?_ | refine Keeps.ofM (by assumption) ?_ | refine Keeps.ofMP (by assumption) ?_ | refine KeepsO.ofMO (by assumption) ?_ | refine Keeps.ofO (by assumption) ?_
    | beta_reduce
    | dsimp (zeta := false) only
    | dsimp only

theorem keeps_tdmTake (p : Nat) (slots : List Word) {s t : State} (hk : Keeps s t) : Keeps s (tdmTake p slots t) := by
  unfold tdmTake
  repeat' first
    | with_reducible first | assumption | apply keeps_plySend | apply keeps_tdmCapture | apply keeps_setTdm
    | with_reducible refine fun _ => ?_
    | with_reducible fail_if_no_progress (refine Keeps.same ?_ rfl rfl rfl)
    | ((try lift_lets); intro x; first | (refine (fun hx : Keeps s x => ?_) ?_; (on_goal 1 => clear_value x); (on_goal 2 => subst x)) | (have hf : ∀ a, x a = x a := fun _ => rfl; clear hf; subst x) | clear_value x | subst x)
    | with_reducible first | refine keeps_ite ?_ ?_ | refine keepsO_ite ?_ ?_ | refine keepsP_ite ?_ ?_
    | split
    | with_reducible first | refine Keeps.ofPair (by assumption) ?_ | refine Keeps.ofPair2 (by assumption) ?_ | refine Keeps.ofM (by assumption) ?_ | refine Keeps.ofMP (by assumption) ?_ | refine KeepsO.ofMO (by assumption) ?_ | refine Keeps.ofO (by assumption) ?_
    | beta_reduce
    | dsimp (zeta := false) only
    | dsimp only

theorem keeps_tdmLogged (p : Nat) (slots : List Word) {s t : State} (hk : Keeps s t) : Keeps s (tdmLogged p slots t) := by
  unfold tdmLogged
  repeat' first
    | with_reducible first | assumption | apply keeps_tdmCapture | apply keeps_setTdm
    | with_reducible refine fun _ => ?_
    | with_reducible fail_if_no_progress (refine Keeps.same ?_ rfl rfl rfl)
    | ((try lift_lets); intro x; first | (refine (fun hx : Keeps s x => ?_) ?_; (on_goal 1 => clear_value x); (on_goal 2 => subst x)) | (have hf : ∀ a, x a = x a := fun _ => rfl; clear hf; subst x) | clear_value x | subst x)
    | with_reducible first | refine keeps_ite ?_ ?_ | refine keepsO_ite ?_ ?_ | refine keepsP_ite ?_ ?_
    | split
    | with_reducible first | refine Keeps.ofPair (by assumption) ?_ | refine Keeps.ofPair2 (by assumption) ?_ | refine Keeps.ofM (by assumption) ?_ | refine Keeps.ofMP (by assumption) ?_ | refine KeepsO.ofMO (by assumption) ?_ | refine Keeps.ofO (by assumption) ?_
    | beta_reduce
    | dsimp (zeta := false) only
    | dsimp only

theorem keeps_tdmSend (p : Nat) {s t : State} (hk : Keeps s t) : Keeps s (tdmSend p t) := by
  unfold tdmSend
  repeat' first
    | with_reducible first | assumption | apply keeps_emit | apply keeps_wr | apply keeps_setTdm | apply keeps_bump | apply keeps_cause
    | with_reducible refine fun _ => ?_
    | with_reducible fail_if_no_progress (refine Keeps.same ?_ rfl rfl rfl)
    | ((try lift_lets); intro x; first | (refine (fun hx : Keeps s x => ?_) ?_; (on_goal 1 => clear_value x); (on_goal 2 => subst x)) | (have hf : ∀ a, x a = x a := fun _ => rfl; clear hf; subst x) | clear_value x | subst x)
    | with_reducible first | refine keeps_ite ?_ ?_ | refine keepsO_ite ?_ ?_
    | split
    | beta_reduce

theorem keeps_tdmReceive (p bclks : Nat) (slots : List Word) {s t : State} (hk : Keeps s t) : Keeps s (tdmReceive p bclks slots t) := by
  unfold tdmReceive
  repeat' first
    | with_reducible first | assumption | apply keeps_tdmTake | apply keeps_plySend | apply keeps_tdmCapture | apply keeps_bump | apply keeps_setTdm | apply keeps_dpllTrack | apply keeps_set
    | with_reducible fail_if_no_progress (refine Keeps.same ?_ rfl rfl rfl)
    | ((try lift_lets); intro x; first | (refine (fun hx : Keeps s x => ?_) ?_; (on_goal 1 => clear_value x); (on_goal 2 => subst x)) | (have hf : ∀ a, x a = x a := fun _ => rfl; clear hf; subst x) | clear_value x | subst x)
    | with_reducible first | refine keeps_ite ?_ ?_ | refine keepsO_ite ?_ ?_
    | split

theorem keeps_tdmFrame (p bclks : Nat) (slots : List Word) {s t : State} (hk : Keeps s t) : Keeps s (tdmFrame p bclks slots t) := by
  unfold tdmFrame
  repeat' first
    | with_reducible first | assumption | apply keeps_tdmReceive | apply keeps_tdmSend
    | ((try lift_lets); intro x; first | (refine (fun hx : Keeps s x => ?_) ?_; (on_goal 1 => clear_value x); (on_goal 2 => subst x)) | (have hf : ∀ a, x a = x a := fun _ => rfl; clear hf; subst x) | clear_value x | subst x)
    | with_reducible first | refine keeps_ite ?_ ?_ | refine keepsO_ite ?_ ?_
    | split

theorem keeps_tdmLoss (p : Nat) {s t : State} (hk : Keeps s t) : Keeps s (tdmLoss p t) := by
  unfold tdmLoss
  repeat' first
    | with_reducible first | assumption | apply keeps_set | apply keeps_setTdm | apply keeps_cause
    | with_reducible fail_if_no_progress (refine Keeps.same ?_ rfl rfl rfl)
    | ((try lift_lets); intro x; first | (refine (fun hx : Keeps s x => ?_) ?_; (on_goal 1 => clear_value x); (on_goal 2 => subst x)) | (have hf : ∀ a, x a = x a := fun _ => rfl; clear hf; subst x) | clear_value x | subst x)
    | with_reducible first | refine keeps_ite ?_ ?_ | refine keepsO_ite ?_ ?_
    | split

theorem keeps_tdmIdle (p : Nat) {s t : State} (hk : Keeps s t) : Keeps s (tdmIdle p t) := by
  unfold tdmIdle
  repeat' first
    | with_reducible first | assumption | apply keeps_tdmTake | apply keeps_tdmCapture
    | ((try lift_lets); intro x; first | (refine (fun hx : Keeps s x => ?_) ?_; (on_goal 1 => clear_value x); (on_goal 2 => subst x)) | (have hf : ∀ a, x a = x a := fun _ => rfl; clear hf; subst x) | clear_value x | subst x)
    | with_reducible first | refine keeps_ite ?_ ?_ | refine keepsO_ite ?_ ?_
    | split

theorem keeps_chCfgWrite (c : Nat) (v : Word) {s t : State} (hk : Keeps s t) : Keeps s (chCfgWrite c v t) := by
  unfold chCfgWrite
  repeat' first
    | with_reducible first | assumption | apply keeps_ovrCheck | apply keeps_wr | apply keeps_cause
    | ((try lift_lets); intro x; first | (refine (fun hx : Keeps s x => ?_) ?_; (on_goal 1 => clear_value x); (on_goal 2 => subst x)) | (have hf : ∀ a, x a = x a := fun _ => rfl; clear hf; subst x) | clear_value x | subst x)
    | with_reducible first | refine keeps_ite ?_ ?_ | refine keepsO_ite ?_ ?_
    | split

theorem keeps_chBaseWrite (c : Nat) (v : Word) {s t : State} (hk : Keeps s t) : Keeps s (chBaseWrite c v t) := by
  unfold chBaseWrite
  repeat' first
    | with_reducible first | assumption | apply keeps_cause | apply keeps_wr
    | with_reducible first | refine keeps_ite ?_ ?_ | refine keepsO_ite ?_ ?_
    | split

theorem keeps_audModWrite (v : Word) {s t : State} (hk : Keeps s t) : Keeps s (audModWrite v t) := by
  unfold audModWrite
  repeat' first
    | with_reducible first | assumption | apply keeps_cause | apply keeps_wr
    | ((try lift_lets); intro x; first | (refine (fun hx : Keeps s x => ?_) ?_; (on_goal 1 => clear_value x); (on_goal 2 => subst x)) | (have hf : ∀ a, x a = x a := fun _ => rfl; clear hf; subst x) | clear_value x | subst x)
    | with_reducible first | refine keeps_ite ?_ ?_ | refine keepsO_ite ?_ ?_
    | split

theorem keeps_tdmCfgWrite (p : Nat) (v : Word) {s t : State} (hk : Keeps s t) : Keeps s (tdmCfgWrite p v t) := by
  unfold tdmCfgWrite
  repeat' first
    | with_reducible first | assumption | apply keeps_cause | apply keeps_wr | apply keeps_srcCheck
    | ((try lift_lets); intro x; first | (refine (fun hx : Keeps s x => ?_) ?_; (on_goal 1 => clear_value x); (on_goal 2 => subst x)) | (have hf : ∀ a, x a = x a := fun _ => rfl; clear hf; subst x) | clear_value x | subst x)
    | with_reducible first | refine keeps_ite ?_ ?_ | refine keepsO_ite ?_ ?_
    | split

theorem keeps_lwCfgWrite (n : Nat) (v : Word) {s t : State} (hk : Keeps s t) : Keeps s (lwCfgWrite n v t) := by
  unfold lwCfgWrite
  repeat' first
    | with_reducible first | assumption | apply keeps_wr
    | with_reducible refine fun _ => ?_
    | with_reducible fail_if_no_progress (refine Keeps.same ?_ rfl rfl rfl)
    | ((try lift_lets); intro x; first | (refine (fun hx : Keeps s x => ?_) ?_; (on_goal 1 => clear_value x); (on_goal 2 => subst x)) | (have hf : ∀ a, x a = x a := fun _ => rfl; clear hf; subst x) | clear_value x | subst x)
    | beta_reduce

theorem keeps_audStart {s t : State} (hk : Keeps s t) : Keeps s (audStart t) := by
  unfold audStart
  repeat' first
    | with_reducible first | assumption | apply keeps_set | apply keeps_foldl | apply keeps_setAch
    | with_reducible refine fun _ => ?_
    | with_reducible fail_if_no_progress (refine Keeps.same ?_ rfl rfl rfl)
    | ((try lift_lets); intro x; first | (refine (fun hx : Keeps s x => ?_) ?_; (on_goal 1 => clear_value x); (on_goal 2 => subst x)) | (have hf : ∀ a, x a = x a := fun _ => rfl; clear hf; subst x) | clear_value x | subst x)
    | with_reducible first | refine keeps_ite ?_ ?_ | refine keepsO_ite ?_ ?_ | refine keepsP_ite ?_ ?_
    | split
    | with_reducible first | refine Keeps.ofPair (by assumption) ?_ | refine Keeps.ofPair2 (by assumption) ?_ | refine Keeps.ofM (by assumption) ?_ | refine Keeps.ofMP (by assumption) ?_ | refine KeepsO.ofMO (by assumption) ?_ | refine Keeps.ofO (by assumption) ?_
    | beta_reduce
    | dsimp (zeta := false) only
    | dsimp only

theorem keeps_audHaltPll {s t : State} (hk : Keeps s t) : Keeps s (audHaltPll t) := by
  unfold audHaltPll
  repeat' first
    | with_reducible first | assumption | apply keeps_set
    | with_reducible fail_if_no_progress (refine Keeps.same ?_ rfl rfl rfl)
    | ((try lift_lets); intro x; first | (refine (fun hx : Keeps s x => ?_) ?_; (on_goal 1 => clear_value x); (on_goal 2 => subst x)) | (have hf : ∀ a, x a = x a := fun _ => rfl; clear hf; subst x) | clear_value x | subst x)
    | with_reducible first | refine keeps_ite ?_ ?_ | refine keepsO_ite ?_ ?_
    | split
    | with_reducible first | refine Keeps.ofPair (by assumption) ?_ | refine Keeps.ofPair2 (by assumption) ?_ | refine Keeps.ofM (by assumption) ?_ | refine Keeps.ofMP (by assumption) ?_ | refine KeepsO.ofMO (by assumption) ?_ | refine Keeps.ofO (by assumption) ?_

theorem keeps_audRelock {s t : State} (hk : Keeps s t) : Keeps s (audRelock t) := by
  unfold audRelock
  repeat' first
    | with_reducible first | assumption | apply keeps_set | apply keeps_wr | apply keeps_ovrCheck | apply keeps_setAch | apply keeps_foldl
    | with_reducible refine fun _ => ?_
    | with_reducible fail_if_no_progress (refine Keeps.same ?_ rfl rfl rfl)
    | ((try lift_lets); intro x; first | (refine (fun hx : Keeps s x => ?_) ?_; (on_goal 1 => clear_value x); (on_goal 2 => subst x)) | (have hf : ∀ a, x a = x a := fun _ => rfl; clear hf; subst x) | clear_value x | subst x)
    | with_reducible first | refine keeps_ite ?_ ?_ | refine keepsO_ite ?_ ?_
    | split
    | with_reducible first | refine Keeps.ofPair (by assumption) ?_ | refine Keeps.ofPair2 (by assumption) ?_ | refine Keeps.ofM (by assumption) ?_ | refine Keeps.ofMP (by assumption) ?_ | refine KeepsO.ofMO (by assumption) ?_ | refine Keeps.ofO (by assumption) ?_
    | beta_reduce
    | dsimp (zeta := false) only
    | dsimp only

end Sys2Proof.Machine
end

