-- ==== Sys2Proof/Laws/KeepsCal.lean ====
section
/-!
SUPPORT. What Machine/Cal.lean keeps (Laws/Keeps.lean).
-/
namespace Sys2Proof.Machine
set_option linter.unusedTactic false
set_option linter.unreachableTactic false
set_option linter.unusedVariables false

theorem keeps_setCch (c : Nat) (x : CalCh) {s t : State} (hk : Keeps s t) : Keeps s (State.setCch t c x) := by
  unfold State.setCch
  repeat' first
    | with_reducible assumption
    | with_reducible refine fun _ => ?_
    | with_reducible fail_if_no_progress (refine Keeps.same ?_ rfl rfl rfl)
    | ((try lift_lets); intro x; first | (refine (fun hx : Keeps s x => ?_) ?_; (on_goal 1 => clear_value x); (on_goal 2 => subst x)) | (have hf : ∀ a, x a = x a := fun _ => rfl; clear hf; subst x) | clear_value x | subst x)
    | beta_reduce

theorem keeps_windowBoundary (c : Nat) {s t : State} (hk : Keeps s t) : Keeps s (windowBoundary c t) := by
  unfold windowBoundary
  repeat' first
    | with_reducible first | assumption | apply keeps_setCch
    | with_reducible fail_if_no_progress (refine Keeps.same ?_ rfl rfl rfl)
    | ((try lift_lets); intro x; first | (refine (fun hx : Keeps s x => ?_) ?_; (on_goal 1 => clear_value x); (on_goal 2 => subst x)) | (have hf : ∀ a, x a = x a := fun _ => rfl; clear hf; subst x) | clear_value x | subst x)
    | with_reducible first | refine keeps_ite ?_ ?_ | refine keepsO_ite ?_ ?_
    | split

theorem keeps_windowCheck (c : Nat) (clipped : Bool) {s t : State} (hk : Keeps s t) : Keeps s (windowCheck c clipped t) := by
  unfold windowCheck
  repeat' first
    | with_reducible first | assumption | apply keeps_setCch | apply keeps_bump
    | with_reducible fail_if_no_progress (refine Keeps.same ?_ rfl rfl rfl)
    | ((try lift_lets); intro x; first | (refine (fun hx : Keeps s x => ?_) ?_; (on_goal 1 => clear_value x); (on_goal 2 => subst x)) | (have hf : ∀ a, x a = x a := fun _ => rfl; clear hf; subst x) | clear_value x | subst x)
    | with_reducible first | refine keeps_ite ?_ ?_ | refine keepsO_ite ?_ ?_
    | split

theorem keeps_senseTop (raw ofs : Int) {s t : State} (hk : Keeps s t) : Keeps s (senseTop raw ofs t).2 := by
  unfold senseTop
  repeat' first
    | with_reducible first | assumption | apply keeps_draw
    | ((try lift_lets); intro x; first | (refine (fun hx : Keeps s x => ?_) ?_; (on_goal 1 => clear_value x); (on_goal 2 => subst x)) | (have hf : ∀ a, x a = x a := fun _ => rfl; clear hf; subst x) | clear_value x | subst x)
    | with_reducible first | refine keeps_ite ?_ ?_ | refine keepsO_ite ?_ ?_ | refine keepsP_ite ?_ ?_
    | split
    | with_reducible first | refine Keeps.ofPair (by assumption) ?_ | refine Keeps.ofPair2 (by assumption) ?_ | refine Keeps.ofM (by assumption) ?_ | refine Keeps.ofMP (by assumption) ?_ | refine KeepsO.ofMO (by assumption) ?_ | refine Keeps.ofO (by assumption) ?_
    | dsimp (zeta := false) only
    | dsimp only

theorem keeps_senseSample (c : Nat) (i v : Int) {s t : State} (hk : Keeps s t) : Keeps s (senseSample c i v t) := by
  unfold senseSample
  repeat' first
    | with_reducible first | assumption | apply keeps_senseTop | apply keeps_wr | apply keeps_setCch | apply keeps_set
    | with_reducible fail_if_no_progress (refine Keeps.same ?_ rfl rfl rfl)
    | ((try lift_lets); intro x; first | (refine (fun hx : Keeps s x => ?_) ?_; (on_goal 1 => clear_value x); (on_goal 2 => subst x)) | (have hf : ∀ a, x a = x a := fun _ => rfl; clear hf; subst x) | clear_value x | subst x)
    | split
    | with_reducible first | refine Keeps.ofPair (by assumption) ?_ | refine Keeps.ofPair2 (by assumption) ?_ | refine Keeps.ofM (by assumption) ?_ | refine Keeps.ofMP (by assumption) ?_ | refine KeepsO.ofMO (by assumption) ?_ | refine Keeps.ofO (by assumption) ?_
    | dsimp (zeta := false) only
    | dsimp only

theorem keeps_trimSample (c : Nat) (raw : Option (Int × Int)) {s t : State} (hk : Keeps s t) : Keeps s (trimSample c raw t) := by
  unfold trimSample
  repeat' first
    | with_reducible first | assumption | apply keeps_setCch | apply keeps_set
    | with_reducible fail_if_no_progress (refine Keeps.same ?_ rfl rfl rfl)
    | ((try lift_lets); intro x; first | (refine (fun hx : Keeps s x => ?_) ?_; (on_goal 1 => clear_value x); (on_goal 2 => subst x)) | (have hf : ∀ a, x a = x a := fun _ => rfl; clear hf; subst x) | clear_value x | subst x)
    | with_reducible first | refine keeps_ite ?_ ?_ | refine keepsO_ite ?_ ?_
    | split
    | with_reducible first | refine Keeps.ofPair (by assumption) ?_ | refine Keeps.ofPair2 (by assumption) ?_ | refine Keeps.ofM (by assumption) ?_ | refine Keeps.ofMP (by assumption) ?_ | refine KeepsO.ofMO (by assumption) ?_ | refine Keeps.ofO (by assumption) ?_
    | dsimp (zeta := false) only
    | dsimp only

theorem keeps_trimOne (v : Word) (c : Nat) {s t : State} (hk : Keeps s t) : Keeps s (trimOne v t c) := by
  unfold trimOne
  repeat' first
    | with_reducible first | assumption | apply keeps_setCch | apply keeps_set
    | with_reducible fail_if_no_progress (refine Keeps.same ?_ rfl rfl rfl)
    | ((try lift_lets); intro x; first | (refine (fun hx : Keeps s x => ?_) ?_; (on_goal 1 => clear_value x); (on_goal 2 => subst x)) | (have hf : ∀ a, x a = x a := fun _ => rfl; clear hf; subst x) | clear_value x | subst x)
    | with_reducible first | refine keeps_ite ?_ ?_ | refine keepsO_ite ?_ ?_
    | split

theorem keeps_trimWrite (a : Agent) (v : Word) {s t : State} (hk : Keeps s t) : Keeps s (trimWrite a v t) := by
  unfold trimWrite
  repeat' first
    | with_reducible first | assumption | apply keeps_trimOne | apply keeps_foldl
    | with_reducible refine fun _ => ?_
    | with_reducible first | refine keeps_ite ?_ ?_ | refine keepsO_ite ?_ ?_
    | split
    | beta_reduce

theorem keeps_execTrimRequest (a : Agent) (v : Word) {s t : State} (hk : Keeps s t) : KeepsO s (execTrimRequest a v t) := by
  unfold execTrimRequest
  repeat' first
    | with_reducible first | assumption | apply KeepsO.next | apply KeepsO.fault | apply KeepsO.stay | apply keeps_stay | apply keeps_access | apply keeps_trimWrite
    | with_reducible refine fun _ => ?_
    | with_reducible first | refine keeps_ite ?_ ?_ | refine keepsO_ite ?_ ?_
    | split
    | beta_reduce

theorem keeps_execTrimCancel (a : Agent) (v : Word) {s t : State} (hk : Keeps s t) : KeepsO s (execTrimCancel a v t) := by
  unfold execTrimCancel
  repeat' first
    | with_reducible first | assumption | apply KeepsO.next | apply KeepsO.fault | apply KeepsO.stay | apply keeps_stay | apply keeps_access | apply keeps_trimWrite
    | with_reducible refine fun _ => ?_
    | with_reducible first | refine keeps_ite ?_ ?_ | refine keepsO_ite ?_ ?_
    | split
    | beta_reduce

theorem keeps_execTrimStart (c : Nat) {s t : State} (hk : Keeps s t) : KeepsO s (execTrimStart c t) := by
  unfold execTrimStart
  repeat' first
    | with_reducible first | assumption | apply KeepsO.next | apply KeepsO.fault | apply KeepsO.stay | apply keeps_stay | apply keeps_setCch | apply keeps_set
    | with_reducible fail_if_no_progress (refine Keeps.same ?_ rfl rfl rfl)
    | ((try lift_lets); intro x; first | (refine (fun hx : Keeps s x => ?_) ?_; (on_goal 1 => clear_value x); (on_goal 2 => subst x)) | (have hf : ∀ a, x a = x a := fun _ => rfl; clear hf; subst x) | clear_value x | subst x)
    | with_reducible first | refine keeps_ite ?_ ?_ | refine keepsO_ite ?_ ?_
    | split

theorem keeps_execTrimDone (c : Nat) {s t : State} (hk : Keeps s t) : KeepsO s (execTrimDone c t) := by
  unfold execTrimDone
  repeat' first
    | with_reducible first | assumption | apply KeepsO.next | apply KeepsO.fault | apply KeepsO.stay | apply keeps_stay | apply keeps_set | apply keeps_setCch | apply keeps_cause
    | with_reducible fail_if_no_progress (refine Keeps.same ?_ rfl rfl rfl)
    | ((try lift_lets); intro x; first | (refine (fun hx : Keeps s x => ?_) ?_; (on_goal 1 => clear_value x); (on_goal 2 => subst x)) | (have hf : ∀ a, x a = x a := fun _ => rfl; clear hf; subst x) | clear_value x | subst x)
    | with_reducible first | refine keeps_ite ?_ ?_ | refine keepsO_ite ?_ ?_
    | split

theorem keeps_execTrimDeadline (c : Nat) {s t : State} (hk : Keeps s t) : KeepsO s (execTrimDeadline c t) := by
  unfold execTrimDeadline
  repeat' first
    | with_reducible first | assumption | apply KeepsO.next | apply KeepsO.fault | apply KeepsO.stay | apply keeps_stay | apply keeps_cause | apply keeps_setCch | apply keeps_set
    | with_reducible fail_if_no_progress (refine Keeps.same ?_ rfl rfl rfl)
    | ((try lift_lets); intro x; first | (refine (fun hx : Keeps s x => ?_) ?_; (on_goal 1 => clear_value x); (on_goal 2 => subst x)) | (have hf : ∀ a, x a = x a := fun _ => rfl; clear hf; subst x) | clear_value x | subst x)
    | with_reducible first | refine keeps_ite ?_ ?_ | refine keepsO_ite ?_ ?_
    | split

theorem keeps_ofsWrite (a : Agent) (c : Nat) (v : Word) {s t : State} (hk : Keeps s t) : Keeps s (ofsWrite a c v t) := by
  unfold ofsWrite
  repeat' first
    | with_reducible first | assumption | apply keeps_wr | apply keeps_setCch
    | with_reducible fail_if_no_progress (refine Keeps.same ?_ rfl rfl rfl)
    | ((try lift_lets); intro x; first | (refine (fun hx : Keeps s x => ?_) ?_; (on_goal 1 => clear_value x); (on_goal 2 => subst x)) | (have hf : ∀ a, x a = x a := fun _ => rfl; clear hf; subst x) | clear_value x | subst x)
    | with_reducible first | refine keeps_ite ?_ ?_ | refine keepsO_ite ?_ ?_
    | split

theorem keeps_dropResults (c : Nat) {s t : State} (hk : Keeps s t) : Keeps s (dropResults t c) := by
  unfold dropResults
  repeat' first
    | with_reducible first | assumption | apply keeps_set | apply keeps_wr | apply keeps_setCch
    | with_reducible fail_if_no_progress (refine Keeps.same ?_ rfl rfl rfl)
    | ((try lift_lets); intro x; first | (refine (fun hx : Keeps s x => ?_) ?_; (on_goal 1 => clear_value x); (on_goal 2 => subst x)) | (have hf : ∀ a, x a = x a := fun _ => rfl; clear hf; subst x) | clear_value x | subst x)

theorem keeps_calCtlWrite (v : Word) {s t : State} (hk : Keeps s t) : Keeps s (calCtlWrite v t) := by
  unfold calCtlWrite
  repeat' first
    | with_reducible first | assumption | apply keeps_wr | apply keeps_dropResults | apply keeps_foldl
    | with_reducible refine fun _ => ?_
    | ((try lift_lets); intro x; first | (refine (fun hx : Keeps s x => ?_) ?_; (on_goal 1 => clear_value x); (on_goal 2 => subst x)) | (have hf : ∀ a, x a = x a := fun _ => rfl; clear hf; subst x) | clear_value x | subst x)
    | with_reducible first | refine keeps_ite ?_ ?_ | refine keepsO_ite ?_ ?_
    | split
    | beta_reduce

theorem keeps_speakerEval (c mag : Nat) {s t : State} (hk : Keeps s t) : Keeps s (speakerEval c mag t) := by
  unfold speakerEval
  repeat' first
    | with_reducible first | assumption | apply keeps_setCch | apply keeps_cause | apply keeps_set
    | with_reducible fail_if_no_progress (refine Keeps.same ?_ rfl rfl rfl)
    | ((try lift_lets); intro x; first | (refine (fun hx : Keeps s x => ?_) ?_; (on_goal 1 => clear_value x); (on_goal 2 => subst x)) | (have hf : ∀ a, x a = x a := fun _ => rfl; clear hf; subst x) | clear_value x | subst x)
    | with_reducible first | refine keeps_ite ?_ ?_ | refine keepsO_ite ?_ ?_
    | split
    | with_reducible first | refine Keeps.ofPair (by assumption) ?_ | refine Keeps.ofPair2 (by assumption) ?_ | refine Keeps.ofM (by assumption) ?_ | refine Keeps.ofMP (by assumption) ?_ | refine KeepsO.ofMO (by assumption) ?_ | refine Keeps.ofO (by assumption) ?_
    | dsimp (zeta := false) only
    | dsimp only

theorem keeps_limitEval (c gain di dv : Nat) {s t : State} (hk : Keeps s t) : Keeps s (limitEval c gain di dv t) := by
  unfold limitEval
  repeat' first
    | with_reducible first | assumption | apply keeps_set | apply keeps_cause
    | ((try lift_lets); intro x; first | (refine (fun hx : Keeps s x => ?_) ?_; (on_goal 1 => clear_value x); (on_goal 2 => subst x)) | (have hf : ∀ a, x a = x a := fun _ => rfl; clear hf; subst x) | clear_value x | subst x)
    | with_reducible first | refine keeps_ite ?_ ?_ | refine keepsO_ite ?_ ?_
    | split

theorem keeps_calPublish (c gain qual di dv zlo zhi : Nat) {s t : State} (hk : Keeps s t) : Keeps s (calPublish c gain qual di dv zlo zhi t) := by
  unfold calPublish
  repeat' first
    | with_reducible first | assumption | apply keeps_set | apply keeps_wr | apply keeps_cause | apply keeps_speakerEval | apply keeps_limitEval
    | ((try lift_lets); intro x; first | (refine (fun hx : Keeps s x => ?_) ?_; (on_goal 1 => clear_value x); (on_goal 2 => subst x)) | (have hf : ∀ a, x a = x a := fun _ => rfl; clear hf; subst x) | clear_value x | subst x)
    | with_reducible first | refine keeps_ite ?_ ?_ | refine keepsO_ite ?_ ?_
    | split

theorem keeps_execCalWindowEnd (c gain qual driftI driftV zlo zhi : Nat) {s t : State} (hk : Keeps s t) : KeepsO s (execCalWindowEnd c gain qual driftI driftV zlo zhi t) := by
  unfold execCalWindowEnd
  repeat' first
    | with_reducible first | assumption | apply KeepsO.next | apply KeepsO.fault | apply KeepsO.stay | apply keeps_stay | apply keeps_calPublish | apply keeps_setCch
    | with_reducible fail_if_no_progress (refine Keeps.same ?_ rfl rfl rfl)
    | ((try lift_lets); intro x; first | (refine (fun hx : Keeps s x => ?_) ?_; (on_goal 1 => clear_value x); (on_goal 2 => subst x)) | (have hf : ∀ a, x a = x a := fun _ => rfl; clear hf; subst x) | clear_value x | subst x)
    | with_reducible first | refine keeps_ite ?_ ?_ | refine keepsO_ite ?_ ?_
    | split

theorem keeps_execSenseStuck (c : Nat) (volt : Bool) {s t : State} (hk : Keeps s t) : KeepsO s (execSenseStuck c volt t) := by
  unfold execSenseStuck
  repeat' first
    | with_reducible first | assumption | apply KeepsO.next | apply KeepsO.fault | apply KeepsO.stay | apply keeps_stay | apply keeps_setCch | apply keeps_set
    | with_reducible fail_if_no_progress (refine Keeps.same ?_ rfl rfl rfl)
    | ((try lift_lets); intro x; first | (refine (fun hx : Keeps s x => ?_) ?_; (on_goal 1 => clear_value x); (on_goal 2 => subst x)) | (have hf : ∀ a, x a = x a := fun _ => rfl; clear hf; subst x) | clear_value x | subst x)
    | with_reducible first | refine keeps_ite ?_ ?_ | refine keepsO_ite ?_ ?_
    | split

theorem keeps_calSeqRead (a : Agent) (c : Nat) {s t : State} (hk : Keeps s t) : Keeps s (calSeqRead a c t).2 := by
  unfold calSeqRead
  repeat' first
    | with_reducible assumption
    | with_reducible refine fun _ => ?_
    | with_reducible fail_if_no_progress (refine Keeps.same ?_ rfl rfl rfl)
    | ((try lift_lets); intro x; first | (refine (fun hx : Keeps s x => ?_) ?_; (on_goal 1 => clear_value x); (on_goal 2 => subst x)) | (have hf : ∀ a, x a = x a := fun _ => rfl; clear hf; subst x) | clear_value x | subst x)
    | beta_reduce

theorem keeps_execCalSeqRead (a : Agent) (c : Nat) {s t : State} (hk : Keeps s t) : KeepsO s (execCalSeqRead a c t) := by
  unfold execCalSeqRead
  repeat' first
    | with_reducible first | assumption | apply KeepsO.next | apply KeepsO.fault | apply KeepsO.stay | apply keeps_stay | apply keeps_readRow | apply keeps_calSeqRead
    | with_reducible refine fun _ => ?_
    | with_reducible first | refine keeps_ite ?_ ?_ | refine keepsO_ite ?_ ?_
    | split
    | beta_reduce

theorem keeps_calOtherAccess (a : Agent) (c : Nat) {s t : State} (hk : Keeps s t) : Keeps s (calOtherAccess a c t) := by
  unfold calOtherAccess
  repeat' first
    | with_reducible assumption
    | with_reducible refine fun _ => ?_
    | with_reducible fail_if_no_progress (refine Keeps.same ?_ rfl rfl rfl)
    | ((try lift_lets); intro x; first | (refine (fun hx : Keeps s x => ?_) ?_; (on_goal 1 => clear_value x); (on_goal 2 => subst x)) | (have hf : ∀ a, x a = x a := fun _ => rfl; clear hf; subst x) | clear_value x | subst x)
    | beta_reduce

theorem keeps_calPllLost {s t : State} (hk : Keeps s t) : Keeps s (calPllLost t) := by
  unfold calPllLost
  repeat' first
    | with_reducible first | assumption | apply keeps_bump | apply keeps_setCch | apply keeps_set | apply keeps_foldl
    | with_reducible refine fun _ => ?_
    | with_reducible fail_if_no_progress (refine Keeps.same ?_ rfl rfl rfl)
    | ((try lift_lets); intro x; first | (refine (fun hx : Keeps s x => ?_) ?_; (on_goal 1 => clear_value x); (on_goal 2 => subst x)) | (have hf : ∀ a, x a = x a := fun _ => rfl; clear hf; subst x) | clear_value x | subst x)
    | with_reducible first | refine keeps_ite ?_ ?_ | refine keepsO_ite ?_ ?_
    | split
    | beta_reduce

end Sys2Proof.Machine
end

