-- ==== Sys2Proof/Laws/KeepsJrn.lean ====
section
/-!
SUPPORT. What Machine/Jrn.lean keeps (Laws/Keeps.lean).
-/
namespace Sys2Proof.Machine
set_option linter.unusedTactic false
set_option linter.unreachableTactic false
set_option linter.unusedVariables false

theorem keeps_jrnStart (r : JRec) (slot : Nat) (device : Bool) {s t : State} (hk : Keeps s t) : Keeps s (jrnStart r slot device t) := by
  unfold jrnStart
  repeat' first
    | with_reducible first | assumption | apply keeps_wr
    | with_reducible fail_if_no_progress (refine Keeps.same ?_ rfl rfl rfl)
    | ((try lift_lets); intro x; first | (refine (fun hx : Keeps s x => ?_) ?_; (on_goal 1 => clear_value x); (on_goal 2 => subst x)) | (have hf : ∀ a, x a = x a := fun _ => rfl; clear hf; subst x) | (have hf : (x : Jrn) = x := rfl; clear hf; subst x) | clear_value x | subst x)
    | with_reducible first | refine Keeps.ofPair (by assumption) ?_ | refine Keeps.ofPair2 (by assumption) ?_ | refine Keeps.ofM (by assumption) ?_ | refine Keeps.ofMP (by assumption) ?_ | refine KeepsO.ofMO (by assumption) ?_ | refine Keeps.ofO (by assumption) ?_

theorem keeps_jrnPut (w : Nat × List Byte) {s t : State} (hk : Keeps s t) : Keeps s (jrnPut t w) :=
  Keeps.mems hk id id id (Mem.wf_wrBytes _ _ _) id

theorem keeps_jrnRefuse (status : Nat) {s t : State} (hk : Keeps s t) : Keeps s (jrnRefuse status t) := by
  unfold jrnRefuse
  repeat' first
    | with_reducible first | assumption | apply keeps_cause | apply keeps_set

theorem keeps_jrnNextDevice {s t : State} (hk : Keeps s t) : Keeps s (jrnNextDevice t) := by
  unfold jrnNextDevice
  repeat' first
    | with_reducible first | assumption | apply keeps_jrnStart
    | with_reducible fail_if_no_progress (refine Keeps.same ?_ rfl rfl rfl)
    | ((try lift_lets); intro x; first | (refine (fun hx : Keeps s x => ?_) ?_; (on_goal 1 => clear_value x); (on_goal 2 => subst x)) | (have hf : ∀ a, x a = x a := fun _ => rfl; clear hf; subst x) | (have hf : (x : Jrn) = x := rfl; clear hf; subst x) | clear_value x | subst x)
    | with_reducible first | refine keeps_ite ?_ ?_ | refine keepsO_ite ?_ ?_
    | split
    | with_reducible first | refine Keeps.ofPair (by assumption) ?_ | refine Keeps.ofPair2 (by assumption) ?_ | refine Keeps.ofM (by assumption) ?_ | refine Keeps.ofMP (by assumption) ?_ | refine KeepsO.ofMO (by assumption) ?_ | refine Keeps.ofO (by assumption) ?_
    | dsimp (zeta := false) only
    | dsimp only

theorem keeps_jrnDevice (r : JRec) {s t : State} (hk : Keeps s t) : Keeps s (jrnDevice r t) := by
  unfold jrnDevice
  repeat' first
    | with_reducible first | assumption | apply keeps_jrnNextDevice
    | with_reducible fail_if_no_progress (refine Keeps.same ?_ rfl rfl rfl)
    | ((try lift_lets); intro x; first | (refine (fun hx : Keeps s x => ?_) ?_; (on_goal 1 => clear_value x); (on_goal 2 => subst x)) | (have hf : ∀ a, x a = x a := fun _ => rfl; clear hf; subst x) | (have hf : (x : Jrn) = x := rfl; clear hf; subst x) | clear_value x | subst x)

theorem keeps_jrnAgentStart (r : JRec) {s t : State} (hk : Keeps s t) : Keeps s (jrnAgentStart r t) := by
  unfold jrnAgentStart
  repeat' first
    | with_reducible first | assumption | apply keeps_jrnStart | apply keeps_jrnRefuse | apply keeps_set
    | with_reducible fail_if_no_progress (refine Keeps.same ?_ rfl rfl rfl)
    | ((try lift_lets); intro x; first | (refine (fun hx : Keeps s x => ?_) ?_; (on_goal 1 => clear_value x); (on_goal 2 => subst x)) | (have hf : ∀ a, x a = x a := fun _ => rfl; clear hf; subst x) | clear_value x | subst x)
    | split
    | with_reducible first | refine Keeps.ofPair (by assumption) ?_ | refine Keeps.ofPair2 (by assumption) ?_ | refine Keeps.ofM (by assumption) ?_ | refine Keeps.ofMP (by assumption) ?_ | refine KeepsO.ofMO (by assumption) ?_ | refine Keeps.ofO (by assumption) ?_
    | dsimp (zeta := false) only
    | dsimp only

theorem keeps_jrnWrite (a : Agent) (v : Word) {s t : State} (hk : Keeps s t) : Keeps s (jrnWrite a v t) := by
  unfold jrnWrite
  repeat' first
    | with_reducible first | assumption | apply keeps_set | apply keeps_jrnRefuse | apply keeps_jrnAgentStart
    | with_reducible fail_if_no_progress (refine Keeps.same ?_ rfl rfl rfl)
    | ((try lift_lets); intro x; first | (refine (fun hx : Keeps s x => ?_) ?_; (on_goal 1 => clear_value x); (on_goal 2 => subst x)) | (have hf : ∀ a, x a = x a := fun _ => rfl; clear hf; subst x) | (have hf : (x : Jrn) = x := rfl; clear hf; subst x) | clear_value x | subst x)
    | with_reducible first | refine keeps_ite ?_ ?_ | refine keepsO_ite ?_ ?_
    | split
    | with_reducible first | refine Keeps.ofPair (by assumption) ?_ | refine Keeps.ofPair2 (by assumption) ?_ | refine Keeps.ofM (by assumption) ?_ | refine Keeps.ofMP (by assumption) ?_ | refine KeepsO.ofMO (by assumption) ?_ | refine Keeps.ofO (by assumption) ?_

theorem keeps_execJournalWrite (a : Agent) (v : Word) {s t : State} (hk : Keeps s t) : KeepsO s (execJournalWrite a v t) := by
  unfold execJournalWrite
  repeat' first
    | with_reducible first | assumption | apply KeepsO.next | apply KeepsO.fault | apply KeepsO.stay | apply keeps_access | apply keeps_jrnWrite
    | with_reducible refine fun _ => ?_
    | beta_reduce

theorem keeps_jrnFinish (w : JWrite) {s t : State} (hk : Keeps s t) : Keeps s (jrnFinish w t) := by
  unfold jrnFinish
  repeat' first
    | with_reducible first | assumption | apply keeps_jrnPut | apply keeps_set | apply keeps_cause | apply keeps_foldl
    | with_reducible refine fun _ => ?_
    | with_reducible fail_if_no_progress (refine Keeps.same ?_ rfl rfl rfl)
    | ((try lift_lets); intro x; first | (refine (fun hx : Keeps s x => ?_) ?_; (on_goal 1 => clear_value x); (on_goal 2 => subst x)) | (have hf : ∀ a, x a = x a := fun _ => rfl; clear hf; subst x) | (have hf : (x : Jrn) = x := rfl; clear hf; subst x) | clear_value x | subst x)
    | with_reducible first | refine keeps_ite ?_ ?_ | refine keepsO_ite ?_ ?_
    | split
    | beta_reduce

theorem keeps_jrnAdvance {s t : State} (hk : Keeps s t) : Keeps s (jrnAdvance t) := by
  unfold jrnAdvance
  repeat' first
    | with_reducible first | assumption | apply keeps_jrnAgentStart | apply keeps_jrnNextDevice
    | with_reducible fail_if_no_progress (refine Keeps.same ?_ rfl rfl rfl)
    | ((try lift_lets); intro x; first | (refine (fun hx : Keeps s x => ?_) ?_; (on_goal 1 => clear_value x); (on_goal 2 => subst x)) | (have hf : ∀ a, x a = x a := fun _ => rfl; clear hf; subst x) | (have hf : (x : Jrn) = x := rfl; clear hf; subst x) | clear_value x | subst x)
    | split
    | with_reducible first | refine Keeps.ofPair (by assumption) ?_ | refine Keeps.ofPair2 (by assumption) ?_ | refine Keeps.ofM (by assumption) ?_ | refine Keeps.ofMP (by assumption) ?_ | refine KeepsO.ofMO (by assumption) ?_ | refine Keeps.ofO (by assumption) ?_
    | dsimp (zeta := false) only
    | dsimp only

theorem keeps_execJournalCommit {s t : State} (hk : Keeps s t) : KeepsO s (execJournalCommit t) := by
  unfold execJournalCommit
  repeat' first
    | with_reducible first | assumption | apply KeepsO.next | apply KeepsO.fault | apply KeepsO.stay | apply keeps_stay | apply keeps_jrnAdvance | apply keeps_jrnFinish
    | with_reducible fail_if_no_progress (refine Keeps.same ?_ rfl rfl rfl)
    | ((try lift_lets); intro x; first | (refine (fun hx : Keeps s x => ?_) ?_; (on_goal 1 => clear_value x); (on_goal 2 => subst x)) | (have hf : ∀ a, x a = x a := fun _ => rfl; clear hf; subst x) | (have hf : (x : Jrn) = x := rfl; clear hf; subst x) | clear_value x | subst x)
    | split
    | with_reducible first | refine Keeps.ofPair (by assumption) ?_ | refine Keeps.ofPair2 (by assumption) ?_ | refine Keeps.ofM (by assumption) ?_ | refine Keeps.ofMP (by assumption) ?_ | refine KeepsO.ofMO (by assumption) ?_ | refine Keeps.ofO (by assumption) ?_
    | dsimp (zeta := false) only
    | dsimp only

theorem keeps_jrnSettle {s t : State} (hk : Keeps s t) : Keeps s (jrnSettle t) := by
  unfold jrnSettle
  repeat' first
    | with_reducible first | assumption | apply keeps_jrnFinish | apply keeps_jrnAgentStart
    | with_reducible fail_if_no_progress (refine Keeps.same ?_ rfl rfl rfl)
    | ((try lift_lets); intro x; first | (refine (fun hx : Keeps s x => ?_) ?_; (on_goal 1 => clear_value x); (on_goal 2 => subst x)) | (have hf : ∀ a, x a = x a := fun _ => rfl; clear hf; subst x) | (have hf : (x : Jrn) = x := rfl; clear hf; subst x) | clear_value x | subst x)
    | split
    | with_reducible first | refine Keeps.ofPair (by assumption) ?_ | refine Keeps.ofPair2 (by assumption) ?_ | refine Keeps.ofM (by assumption) ?_ | refine Keeps.ofMP (by assumption) ?_ | refine KeepsO.ofMO (by assumption) ?_ | refine Keeps.ofO (by assumption) ?_
    | dsimp (zeta := false) only
    | dsimp only

theorem keeps_jrnCollapse (n : Nat) {s t : State} (hk : Keeps s t) : Keeps s (jrnCollapse n t) := by
  unfold jrnCollapse
  repeat' first
    | with_reducible first | assumption | apply keeps_jrnPut | apply keeps_foldl
    | with_reducible refine fun _ => ?_
    | with_reducible fail_if_no_progress (refine Keeps.same ?_ rfl rfl rfl)
    | ((try lift_lets); intro x; first | (refine (fun hx : Keeps s x => ?_) ?_; (on_goal 1 => clear_value x); (on_goal 2 => subst x)) | (have hf : ∀ a, x a = x a := fun _ => rfl; clear hf; subst x) | (have hf : (x : Jrn) = x := rfl; clear hf; subst x) | clear_value x | subst x)
    | split
    | with_reducible first | refine Keeps.ofPair (by assumption) ?_ | refine Keeps.ofPair2 (by assumption) ?_ | refine Keeps.ofM (by assumption) ?_ | refine Keeps.ofMP (by assumption) ?_ | refine KeepsO.ofMO (by assumption) ?_ | refine Keeps.ofO (by assumption) ?_
    | beta_reduce
    | dsimp (zeta := false) only
    | dsimp only

theorem keeps_jrnScan {s t : State} (hk : Keeps s t) : Keeps s (jrnScan t) := by
  unfold jrnScan
  repeat' first
    | with_reducible first | assumption | apply keeps_set | apply keeps_wr | apply keeps_cause | apply keeps_foldl
    | with_reducible refine fun _ => ?_
    | ((try lift_lets); intro x; first | (refine (fun hx : Keeps s x => ?_) ?_; (on_goal 1 => clear_value x); (on_goal 2 => subst x)) | (have hf : ∀ a, x a = x a := fun _ => rfl; clear hf; subst x) | clear_value x | subst x)
    | with_reducible first | refine keeps_ite ?_ ?_ | refine keepsO_ite ?_ ?_
    | split
    | beta_reduce

theorem keeps_execJournalScanDone (ecc : List Nat) {s t : State} (hk : Keeps s t) : KeepsO s (execJournalScanDone ecc t) := by
  unfold execJournalScanDone
  repeat' first
    | with_reducible first | assumption | apply KeepsO.next | apply KeepsO.fault | apply KeepsO.stay | apply keeps_stay | apply keeps_jrnNextDevice | apply keeps_jrnScan | apply keeps_foldl
    | with_reducible refine fun _ => ?_
    | with_reducible fail_if_no_progress (refine Keeps.same ?_ rfl rfl rfl)
    | ((try lift_lets); intro x; first | (refine (fun hx : Keeps s x => ?_) ?_; (on_goal 1 => clear_value x); (on_goal 2 => subst x)) | (have hf : ∀ a, x a = x a := fun _ => rfl; clear hf; subst x) | (have hf : (x : Jrn) = x := rfl; clear hf; subst x) | clear_value x | subst x)
    | with_reducible first | refine keeps_ite ?_ ?_ | refine keepsO_ite ?_ ?_
    | split
    | beta_reduce

theorem keeps_jrnFill (slot : Nat) (bs : List Byte) {s t : State} (hk : Keeps s t) : Keeps s (jrnFill slot bs t) := by
  unfold jrnFill
  repeat' first
    | with_reducible first | assumption | apply keeps_wr | apply keeps_set | apply keeps_foldl
    | with_reducible refine fun _ => ?_
    | ((try lift_lets); intro x; first | (refine (fun hx : Keeps s x => ?_) ?_; (on_goal 1 => clear_value x); (on_goal 2 => subst x)) | (have hf : ∀ a, x a = x a := fun _ => rfl; clear hf; subst x) | clear_value x | subst x)
    | beta_reduce

theorem keeps_jrnReadRecord (v : Word) {s t : State} (hk : Keeps s t) : Keeps s (jrnReadRecord v t) := by
  unfold jrnReadRecord
  repeat' first
    | with_reducible first | assumption | apply keeps_jrnFill | apply keeps_set
    | with_reducible fail_if_no_progress (refine Keeps.same ?_ rfl rfl rfl)
    | ((try lift_lets); intro x; first | (refine (fun hx : Keeps s x => ?_) ?_; (on_goal 1 => clear_value x); (on_goal 2 => subst x)) | (have hf : ∀ a, x a = x a := fun _ => rfl; clear hf; subst x) | clear_value x | subst x)
    | with_reducible first | refine keeps_ite ?_ ?_ | refine keepsO_ite ?_ ?_
    | split
    | with_reducible first | refine Keeps.ofPair (by assumption) ?_ | refine Keeps.ofPair2 (by assumption) ?_ | refine Keeps.ofM (by assumption) ?_ | refine Keeps.ofMP (by assumption) ?_ | refine KeepsO.ofMO (by assumption) ?_ | refine Keeps.ofO (by assumption) ?_
    | dsimp (zeta := false) only
    | dsimp only

theorem keeps_jrnShown (k : Nat) (bs : List Byte) {s t : State} (hk : Keeps s t) : Keeps s (jrnShown k bs t).2 := by
  unfold jrnShown
  repeat' first
    | with_reducible first | assumption | apply keeps_draw
    | with_reducible refine fun _ => ?_
    | ((try lift_lets); intro x; first | (refine (fun hx : Keeps s x => ?_) ?_; (on_goal 1 => clear_value x); (on_goal 2 => subst x)) | (have hf : ∀ a, x a = x a := fun _ => rfl; clear hf; subst x) | (have hf : (x : Jrn) = x := rfl; clear hf; subst x) | clear_value x | subst x)
    | with_reducible first | refine keeps_ite ?_ ?_ | refine keepsO_ite ?_ ?_ | refine keepsP_ite ?_ ?_
    | split
    | with_reducible first | refine Keeps.ofPair (by assumption) ?_ | refine Keeps.ofPair2 (by assumption) ?_ | refine Keeps.ofM (by assumption) ?_ | refine Keeps.ofMP (by assumption) ?_ | refine KeepsO.ofMO (by assumption) ?_ | refine Keeps.ofO (by assumption) ?_
    | beta_reduce
    | dsimp (zeta := false) only
    | dsimp only

theorem keeps_jrnReadSlot (v : Word) {s t : State} (hk : Keeps s t) : Keeps s (jrnReadSlot v t) := by
  unfold jrnReadSlot
  repeat' first
    | with_reducible first | assumption | apply keeps_set | apply keeps_jrnShown | apply keeps_jrnFill
    | ((try lift_lets); intro x; first | (refine (fun hx : Keeps s x => ?_) ?_; (on_goal 1 => clear_value x); (on_goal 2 => subst x)) | (have hf : ∀ a, x a = x a := fun _ => rfl; clear hf; subst x) | (have hf : (x : Jrn) = x := rfl; clear hf; subst x) | clear_value x | subst x)
    | with_reducible first | refine keeps_ite ?_ ?_ | refine keepsO_ite ?_ ?_
    | split
    | with_reducible first | refine Keeps.ofPair (by assumption) ?_ | refine Keeps.ofPair2 (by assumption) ?_ | refine Keeps.ofM (by assumption) ?_ | refine Keeps.ofMP (by assumption) ?_ | refine KeepsO.ofMO (by assumption) ?_ | refine Keeps.ofO (by assumption) ?_
    | dsimp (zeta := false) only
    | dsimp only

theorem keeps_execJournalReadRecord (a : Agent) (v : Word) {s t : State} (hk : Keeps s t) : KeepsO s (execJournalReadRecord a v t) := by
  unfold execJournalReadRecord
  repeat' first
    | with_reducible first | assumption | apply KeepsO.next | apply KeepsO.fault | apply KeepsO.stay | apply keeps_stay | apply keeps_access | apply keeps_jrnReadRecord
    | with_reducible refine fun _ => ?_
    | with_reducible first | refine keeps_ite ?_ ?_ | refine keepsO_ite ?_ ?_
    | split
    | beta_reduce

theorem keeps_execJournalReadSlot (a : Agent) (v : Word) {s t : State} (hk : Keeps s t) : KeepsO s (execJournalReadSlot a v t) := by
  unfold execJournalReadSlot
  repeat' first
    | with_reducible first | assumption | apply KeepsO.next | apply KeepsO.fault | apply KeepsO.stay | apply keeps_stay | apply keeps_access | apply keeps_jrnReadSlot
    | with_reducible refine fun _ => ?_
    | with_reducible first | refine keeps_ite ?_ ?_ | refine keepsO_ite ?_ ?_
    | split
    | beta_reduce

theorem keeps_sunlkWrite (a : Agent) (v : Word) {s t : State} (hk : Keeps s t) : Keeps s (sunlkWrite a v t) := by
  unfold sunlkWrite
  repeat' first
    | with_reducible first | assumption | apply keeps_set
    | with_reducible fail_if_no_progress (refine Keeps.same ?_ rfl rfl rfl)
    | ((try lift_lets); intro x; first | (refine (fun hx : Keeps s x => ?_) ?_; (on_goal 1 => clear_value x); (on_goal 2 => subst x)) | (have hf : ∀ a, x a = x a := fun _ => rfl; clear hf; subst x) | (have hf : (x : Jrn) = x := rfl; clear hf; subst x) | clear_value x | subst x)
    | with_reducible first | refine keeps_ite ?_ ?_ | refine keepsO_ite ?_ ?_
    | split
    | with_reducible first | refine Keeps.ofPair (by assumption) ?_ | refine Keeps.ofPair2 (by assumption) ?_ | refine Keeps.ofM (by assumption) ?_ | refine Keeps.ofMP (by assumption) ?_ | refine KeepsO.ofMO (by assumption) ?_ | refine Keeps.ofO (by assumption) ?_
    | dsimp (zeta := false) only
    | dsimp only

theorem keeps_execSafeUnlockWrite (a : Agent) (v : Word) {s t : State} (hk : Keeps s t) : KeepsO s (execSafeUnlockWrite a v t) := by
  unfold execSafeUnlockWrite
  repeat' first
    | with_reducible first | assumption | apply KeepsO.next | apply KeepsO.fault | apply KeepsO.stay | apply keeps_access | apply keeps_sunlkWrite
    | with_reducible refine fun _ => ?_
    | beta_reduce

theorem keeps_execSafeWindowTimeout {s t : State} (hk : Keeps s t) : KeepsO s (execSafeWindowTimeout t) := by
  unfold execSafeWindowTimeout
  repeat' first
    | with_reducible first | assumption | apply KeepsO.next | apply KeepsO.fault | apply KeepsO.stay | apply keeps_stay | apply keeps_set
    | with_reducible first | refine keeps_ite ?_ ?_ | refine keepsO_ite ?_ ?_
    | split

end Sys2Proof.Machine
end

