-- ==== Sys2Proof/Laws/KeepsSafe.lean ====
section
/-!
SUPPORT. What Machine/Safe.lean keeps (Laws/Keeps.lean).
-/
namespace Sys2Proof.Machine
set_option linter.unusedTactic false
set_option linter.unreachableTactic false
set_option linter.unusedVariables false

theorem keeps_safePut (bs : List Byte) {s t : State} (hk : Keeps s t) : Keeps s (safePut bs t) := by
  unfold safePut
  repeat' first
    | with_reducible first | assumption | apply keeps_wr | apply keeps_foldl
    | with_reducible refine fun _ => ?_
    | beta_reduce

theorem keeps_safeApply {s t : State} (hk : Keeps s t) : Keeps s (safeApply t) := by
  unfold safeApply
  repeat' first
    | with_reducible first | assumption | apply keeps_safePut | apply keeps_set
    | with_reducible fail_if_no_progress (refine Keeps.same ?_ rfl rfl rfl)
    | ((try lift_lets); intro x; first | (refine (fun hx : Keeps s x => ?_) ?_; (on_goal 1 => clear_value x); (on_goal 2 => subst x)) | (have hf : ∀ a, x a = x a := fun _ => rfl; clear hf; subst x) | clear_value x | subst x)
    | with_reducible first | refine keeps_ite ?_ ?_ | refine keepsO_ite ?_ ?_
    | split
    | with_reducible first | refine Keeps.ofPair (by assumption) ?_ | refine Keeps.ofPair2 (by assumption) ?_ | refine Keeps.ofM (by assumption) ?_ | refine Keeps.ofMP (by assumption) ?_ | refine KeepsO.ofMO (by assumption) ?_ | refine Keeps.ofO (by assumption) ?_
    | dsimp (zeta := false) only
    | dsimp only

theorem keeps_annSample {s t : State} (hk : Keeps s t) : Keeps s (annSample t).2 := by
  unfold annSample
  repeat' first
    | with_reducible first | assumption | apply keeps_draw
    | with_reducible fail_if_no_progress (refine Keeps.same ?_ rfl rfl rfl)
    | ((try lift_lets); intro x; first | (refine (fun hx : Keeps s x => ?_) ?_; (on_goal 1 => clear_value x); (on_goal 2 => subst x)) | (have hf : ∀ a, x a = x a := fun _ => rfl; clear hf; subst x) | clear_value x | subst x)
    | with_reducible first | refine keeps_ite ?_ ?_ | refine keepsO_ite ?_ ?_ | refine keepsP_ite ?_ ?_
    | split
    | with_reducible first | refine Keeps.ofPair (by assumption) ?_ | refine Keeps.ofPair2 (by assumption) ?_ | refine Keeps.ofM (by assumption) ?_ | refine Keeps.ofMP (by assumption) ?_ | refine KeepsO.ofMO (by assumption) ?_ | refine Keeps.ofO (by assumption) ?_
    | dsimp (zeta := false) only
    | dsimp only

theorem keeps_safeSample {s t : State} (hk : Keeps s t) : Keeps s (safeSample t) := by
  unfold safeSample
  rcases gainLaw t.safe.g t.safe.vbat (cfgVnom t) 20 with ⟨g, e⟩
  dsimp only
  split
  · exact keeps_foldl _ _ _ (keeps_annSample (Keeps.same hk rfl rfl rfl)) fun x c hx => Keeps.same hx rfl rfl rfl
  · split <;>
      exact Keeps.same (keeps_foldl _ _ _ (keeps_annSample (Keeps.same hk rfl rfl rfl)) fun x c hx => Keeps.same hx rfl rfl rfl)
        rfl rfl rfl

theorem keeps_safeReject {s t : State} (hk : Keeps s t) : Keeps s (safeReject t) := by
  unfold safeReject
  repeat' first
    | with_reducible first | assumption | apply keeps_cause | apply keeps_bump

theorem keeps_annShow {s t : State} (hk : Keeps s t) : Keeps s (annShow t) := by
  unfold annShow
  repeat' first
    | with_reducible first | assumption | apply keeps_set

theorem keeps_annStop {s t : State} (hk : Keeps s t) : Keeps s (annStop t) := by
  unfold annStop
  repeat' first
    | with_reducible first | assumption | apply keeps_annShow
    | with_reducible fail_if_no_progress (refine Keeps.same ?_ rfl rfl rfl)
    | ((try lift_lets); intro x; first | (refine (fun hx : Keeps s x => ?_) ?_; (on_goal 1 => clear_value x); (on_goal 2 => subst x)) | (have hf : ∀ a, x a = x a := fun _ => rfl; clear hf; subst x) | clear_value x | subst x)

theorem keeps_annStart (k : Announce) (index atten mask rep len : Nat) {s t : State} (hk : Keeps s t) : Keeps s (annStart k index atten mask rep len t) := by
  unfold annStart
  repeat' first
    | with_reducible first | assumption | apply keeps_annShow
    | with_reducible fail_if_no_progress (refine Keeps.same ?_ rfl rfl rfl)
    | ((try lift_lets); intro x; first | (refine (fun hx : Keeps s x => ?_) ?_; (on_goal 1 => clear_value x); (on_goal 2 => subst x)) | (have hf : ∀ a, x a = x a := fun _ => rfl; clear hf; subst x) | clear_value x | subst x)

theorem keeps_safeTone (index atten mask rep : Nat) {s t : State} (hk : Keeps s t) : Keeps s (safeTone index atten mask rep t) := by
  unfold safeTone
  repeat' first
    | with_reducible first | assumption | apply keeps_annStart

theorem keeps_safeClip (index atten mask rep : Nat) {s t : State} (hk : Keeps s t) : Keeps s (safeClip index atten mask rep t) := by
  unfold safeClip
  repeat' first
    | with_reducible first | assumption | apply keeps_safeReject | apply keeps_cause | apply keeps_annStart
    | with_reducible fail_if_no_progress (refine Keeps.same ?_ rfl rfl rfl)
    | ((try lift_lets); intro x; first | (refine (fun hx : Keeps s x => ?_) ?_; (on_goal 1 => clear_value x); (on_goal 2 => subst x)) | (have hf : ∀ a, x a = x a := fun _ => rfl; clear hf; subst x) | clear_value x | subst x)
    | with_reducible first | refine keeps_ite ?_ ?_ | refine keepsO_ite ?_ ?_
    | split
    | with_reducible first | refine Keeps.ofPair (by assumption) ?_ | refine Keeps.ofPair2 (by assumption) ?_ | refine Keeps.ofM (by assumption) ?_ | refine Keeps.ofMP (by assumption) ?_ | refine KeepsO.ofMO (by assumption) ?_ | refine Keeps.ofO (by assumption) ?_
    | dsimp (zeta := false) only
    | dsimp only

theorem keeps_safeEcall (on : Bool) {s t : State} (hk : Keeps s t) : Keeps s (safeEcall on t) := by
  unfold safeEcall
  repeat' first
    | with_reducible first | assumption | apply keeps_cause | apply keeps_set
    | with_reducible fail_if_no_progress (refine Keeps.same ?_ rfl rfl rfl)
    | ((try lift_lets); intro x; first | (refine (fun hx : Keeps s x => ?_) ?_; (on_goal 1 => clear_value x); (on_goal 2 => subst x)) | (have hf : ∀ a, x a = x a := fun _ => rfl; clear hf; subst x) | clear_value x | subst x)

theorem keeps_safeRecord (f : List Byte) {s t : State} (hk : Keeps s t) : Keeps s (safeRecord f t) := by
  unfold safeRecord
  repeat' first
    | with_reducible first | assumption | apply keeps_draw | apply keeps_wr | apply keeps_set
    | ((try lift_lets); intro x; first | (refine (fun hx : Keeps s x => ?_) ?_; (on_goal 1 => clear_value x); (on_goal 2 => subst x)) | (have hf : ∀ a, x a = x a := fun _ => rfl; clear hf; subst x) | clear_value x | subst x)
    | with_reducible first | refine keeps_ite ?_ ?_ | refine keepsO_ite ?_ ?_
    | split
    | with_reducible first | refine Keeps.ofPair (by assumption) ?_ | refine Keeps.ofPair2 (by assumption) ?_ | refine Keeps.ofM (by assumption) ?_ | refine Keeps.ofMP (by assumption) ?_ | refine KeepsO.ofMO (by assumption) ?_ | refine Keeps.ofO (by assumption) ?_
    | dsimp (zeta := false) only
    | dsimp only

theorem keeps_safeCommand (f : List Byte) {s t : State} (hk : Keeps s t) : Keeps s (safeCommand f t) := by
  unfold safeCommand
  repeat' first
    | with_reducible first | assumption | apply keeps_safeRecord | apply keeps_bump | apply keeps_safeReject | apply keeps_cause | apply keeps_safeTone | apply keeps_safeClip | apply keeps_safeEcall | apply keeps_annStop
    | with_reducible fail_if_no_progress (refine Keeps.same ?_ rfl rfl rfl)
    | ((try lift_lets); intro x; first | (refine (fun hx : Keeps s x => ?_) ?_; (on_goal 1 => clear_value x); (on_goal 2 => subst x)) | (have hf : ∀ a, x a = x a := fun _ => rfl; clear hf; subst x) | clear_value x | subst x)
    | with_reducible first | refine keeps_ite ?_ ?_ | refine keepsO_ite ?_ ?_
    | split
    | with_reducible first | refine Keeps.ofPair (by assumption) ?_ | refine Keeps.ofPair2 (by assumption) ?_ | refine Keeps.ofM (by assumption) ?_ | refine Keeps.ofMP (by assumption) ?_ | refine KeepsO.ofMO (by assumption) ?_ | refine Keeps.ofO (by assumption) ?_
    | dsimp (zeta := false) only
    | dsimp only

theorem keeps_pwsOff {s t : State} (hk : Keeps s t) : Keeps s (pwsOff t) := by
  unfold pwsOff
  repeat' first
    | with_reducible first | assumption | apply keeps_wr | apply keeps_foldl | apply keeps_set | apply keeps_showDt | apply keeps_gatesLow
    | with_reducible refine fun _ => ?_
    | ((try lift_lets); intro x; first | (refine (fun hx : Keeps s x => ?_) ?_; (on_goal 1 => clear_value x); (on_goal 2 => subst x)) | (have hf : ∀ a, x a = x a := fun _ => rfl; clear hf; subst x) | clear_value x | subst x)
    | with_reducible first | refine keeps_ite ?_ ?_ | refine keepsO_ite ?_ ?_
    | split
    | with_reducible first | refine Keeps.ofPair (by assumption) ?_ | refine Keeps.ofPair2 (by assumption) ?_ | refine Keeps.ofM (by assumption) ?_ | refine Keeps.ofMP (by assumption) ?_ | refine KeepsO.ofMO (by assumption) ?_ | refine Keeps.ofO (by assumption) ?_
    | beta_reduce
    | dsimp (zeta := false) only
    | dsimp only

theorem keeps_standbyPws {s t : State} (hk : Keeps s t) : Keeps s (standbyPws t) := by
  unfold standbyPws
  repeat' first
    | with_reducible first | assumption | apply keeps_set | apply keeps_pwsOff
    | ((try lift_lets); intro x; first | (refine (fun hx : Keeps s x => ?_) ?_; (on_goal 1 => clear_value x); (on_goal 2 => subst x)) | (have hf : ∀ a, x a = x a := fun _ => rfl; clear hf; subst x) | clear_value x | subst x)
    | with_reducible first | refine keeps_ite ?_ ?_ | refine keepsO_ite ?_ ?_
    | split
    | with_reducible first | refine Keeps.ofPair (by assumption) ?_ | refine Keeps.ofPair2 (by assumption) ?_ | refine Keeps.ofM (by assumption) ?_ | refine Keeps.ofMP (by assumption) ?_ | refine KeepsO.ofMO (by assumption) ?_ | refine Keeps.ofO (by assumption) ?_
    | dsimp (zeta := false) only
    | dsimp only

theorem keeps_safeServe (f : List Byte) {s t : State} (hk : Keeps s t) : Keeps s (safeServe f t) := by
  unfold safeServe
  repeat' first
    | with_reducible first | assumption | apply keeps_standbyPws | apply keeps_handIdle | apply keeps_safeCommand
    | ((try lift_lets); intro x; first | (refine (fun hx : Keeps s x => ?_) ?_; (on_goal 1 => clear_value x); (on_goal 2 => subst x)) | (have hf : ∀ a, x a = x a := fun _ => rfl; clear hf; subst x) | clear_value x | subst x)
    | with_reducible first | refine keeps_ite ?_ ?_ | refine keepsO_ite ?_ ?_
    | split
    | with_reducible first | refine Keeps.ofPair (by assumption) ?_ | refine Keeps.ofPair2 (by assumption) ?_ | refine Keeps.ofM (by assumption) ?_ | refine Keeps.ofMP (by assumption) ?_ | refine KeepsO.ofMO (by assumption) ?_ | refine Keeps.ofO (by assumption) ?_
    | dsimp (zeta := false) only
    | dsimp only

theorem keeps_safeTake (f : List Byte) {s t : State} (hk : Keeps s t) : Keeps s (safeTake f t) := by
  unfold safeTake
  repeat' first
    | with_reducible first | assumption | apply keeps_safeServe | apply keeps_handIdle | apply keeps_safeCommand
    | with_reducible fail_if_no_progress (refine Keeps.same ?_ rfl rfl rfl)
    | ((try lift_lets); intro x; first | (refine (fun hx : Keeps s x => ?_) ?_; (on_goal 1 => clear_value x); (on_goal 2 => subst x)) | (have hf : ∀ a, x a = x a := fun _ => rfl; clear hf; subst x) | clear_value x | subst x)
    | with_reducible first | refine keeps_ite ?_ ?_ | refine keepsO_ite ?_ ?_
    | split

theorem keeps_safeResume {s t : State} (hk : Keeps s t) : Keeps s (safeResume t) := by
  unfold safeResume
  repeat' first
    | with_reducible first | assumption | apply keeps_safeServe | apply keeps_handIdle | apply keeps_safeCommand | apply keeps_foldl
    | with_reducible refine fun _ => ?_
    | with_reducible fail_if_no_progress (refine Keeps.same ?_ rfl rfl rfl)
    | ((try lift_lets); intro x; first | (refine (fun hx : Keeps s x => ?_) ?_; (on_goal 1 => clear_value x); (on_goal 2 => subst x)) | (have hf : ∀ a, x a = x a := fun _ => rfl; clear hf; subst x) | clear_value x | subst x)
    | beta_reduce

theorem keeps_execSafeTone (data : List Byte) {s t : State} (hk : Keeps s t) : KeepsO s (execSafeTone data t) := by
  unfold execSafeTone
  repeat' first
    | with_reducible first | assumption | apply KeepsO.next | apply KeepsO.fault | apply KeepsO.stay | apply keeps_stay | apply keeps_safeTake
    | with_reducible first | refine keeps_ite ?_ ?_ | refine keepsO_ite ?_ ?_
    | split

theorem keeps_execSafeClip (data : List Byte) {s t : State} (hk : Keeps s t) : KeepsO s (execSafeClip data t) := by
  unfold execSafeClip
  repeat' first
    | with_reducible first | assumption | apply KeepsO.next | apply KeepsO.fault | apply KeepsO.stay | apply keeps_stay | apply keeps_safeTake
    | with_reducible first | refine keeps_ite ?_ ?_ | refine keepsO_ite ?_ ?_
    | split

theorem keeps_execEcallStart (data : List Byte) {s t : State} (hk : Keeps s t) : KeepsO s (execEcallStart data t) := by
  unfold execEcallStart
  repeat' first
    | with_reducible first | assumption | apply KeepsO.next | apply KeepsO.fault | apply KeepsO.stay | apply keeps_stay | apply keeps_safeTake
    | with_reducible first | refine keeps_ite ?_ ?_ | refine keepsO_ite ?_ ?_
    | split

theorem keeps_execEcallStop (data : List Byte) {s t : State} (hk : Keeps s t) : KeepsO s (execEcallStop data t) := by
  unfold execEcallStop
  repeat' first
    | with_reducible first | assumption | apply KeepsO.next | apply KeepsO.fault | apply KeepsO.stay | apply keeps_stay | apply keeps_safeTake
    | with_reducible first | refine keeps_ite ?_ ?_ | refine keepsO_ite ?_ ?_
    | split

theorem keeps_execSafeStop (data : List Byte) {s t : State} (hk : Keeps s t) : KeepsO s (execSafeStop data t) := by
  unfold execSafeStop
  repeat' first
    | with_reducible first | assumption | apply KeepsO.next | apply KeepsO.fault | apply KeepsO.stay | apply keeps_stay | apply keeps_safeTake
    | with_reducible first | refine keeps_ite ?_ ?_ | refine keepsO_ite ?_ ?_
    | split

theorem keeps_safeTdm (bclks : Nat) (slots : List Word) {s t : State} (hk : Keeps s t) : Keeps s (safeTdm bclks slots t) := by
  unfold safeTdm
  repeat' first
    | with_reducible first | assumption | apply keeps_set
    | with_reducible fail_if_no_progress (refine Keeps.same ?_ rfl rfl rfl)
    | ((try lift_lets); intro x; first | (refine (fun hx : Keeps s x => ?_) ?_; (on_goal 1 => clear_value x); (on_goal 2 => subst x)) | (have hf : ∀ a, x a = x a := fun _ => rfl; clear hf; subst x) | clear_value x | subst x)
    | with_reducible first | refine keeps_ite ?_ ?_ | refine keepsO_ite ?_ ?_
    | split

theorem keeps_safeTdmLoss {s t : State} (hk : Keeps s t) : Keeps s (safeTdmLoss t) := by
  unfold safeTdmLoss
  repeat' first
    | with_reducible first | assumption | apply keeps_set | apply keeps_cause
    | with_reducible fail_if_no_progress (refine Keeps.same ?_ rfl rfl rfl)
    | ((try lift_lets); intro x; first | (refine (fun hx : Keeps s x => ?_) ?_; (on_goal 1 => clear_value x); (on_goal 2 => subst x)) | (have hf : ∀ a, x a = x a := fun _ => rfl; clear hf; subst x) | clear_value x | subst x)
    | with_reducible first | refine keeps_ite ?_ ?_ | refine keepsO_ite ?_ ?_
    | split

theorem keeps_execTdmFrame (p bclks : Nat) (slots : List Word) {s t : State} (hk : Keeps s t) : KeepsO s (execTdmFrame p bclks slots t) := by
  unfold execTdmFrame
  repeat' first
    | with_reducible first | assumption | apply KeepsO.next | apply KeepsO.fault | apply KeepsO.stay | apply keeps_stay | apply keeps_safeTdm | apply keeps_tdmFrame
    | ((try lift_lets); intro x; first | (refine (fun hx : Keeps s x => ?_) ?_; (on_goal 1 => clear_value x); (on_goal 2 => subst x)) | (have hf : ∀ a, x a = x a := fun _ => rfl; clear hf; subst x) | clear_value x | subst x)
    | with_reducible first | refine keeps_ite ?_ ?_ | refine keepsO_ite ?_ ?_
    | split

theorem keeps_execTdmSyncLoss (p : Nat) {s t : State} (hk : Keeps s t) : KeepsO s (execTdmSyncLoss p t) := by
  unfold execTdmSyncLoss
  repeat' first
    | with_reducible first | assumption | apply KeepsO.next | apply KeepsO.fault | apply KeepsO.stay | apply keeps_stay | apply keeps_safeTdmLoss | apply keeps_tdmLoss
    | ((try lift_lets); intro x; first | (refine (fun hx : Keeps s x => ?_) ?_; (on_goal 1 => clear_value x); (on_goal 2 => subst x)) | (have hf : ∀ a, x a = x a := fun _ => rfl; clear hf; subst x) | clear_value x | subst x)
    | with_reducible first | refine keeps_ite ?_ ?_ | refine keepsO_ite ?_ ?_
    | split

end Sys2Proof.Machine
end

