-- ==== Sys2Proof/Laws/KeepsHandover.lean ====
section
/-!
SUPPORT. What Machine/Handover.lean keeps (Laws/Keeps.lean).
-/
namespace Sys2Proof.Machine
set_option linter.unusedTactic false
set_option linter.unreachableTactic false
set_option linter.unusedVariables false

theorem keeps_setSrc (c v : Nat) {s t : State} (hk : Keeps s t) : Keeps s (setSrc c v t) := by
  unfold setSrc
  repeat' first
    | with_reducible first | assumption | apply keeps_set
    | ((try lift_lets); intro x; first | (refine (fun hx : Keeps s x => ?_) ?_; (on_goal 1 => clear_value x); (on_goal 2 => subst x)) | (have hf : ∀ a, x a = x a := fun _ => rfl; clear hf; subst x) | clear_value x | subst x)
    | with_reducible first | refine keeps_ite ?_ ?_ | refine keepsO_ite ?_ ?_
    | split

theorem keeps_enterStage (n : Nat) {s t : State} (hk : Keeps s t) : Keeps s (enterStage n t) := by
  unfold enterStage
  repeat' first
    | with_reducible first | assumption | apply keeps_set | apply keeps_wr | apply keeps_cause
    | ((try lift_lets); intro x; first | (refine (fun hx : Keeps s x => ?_) ?_; (on_goal 1 => clear_value x); (on_goal 2 => subst x)) | (have hf : ∀ a, x a = x a := fun _ => rfl; clear hf; subst x) | clear_value x | subst x)
    | with_reducible first | refine keeps_ite ?_ ?_ | refine keepsO_ite ?_ ?_
    | split

theorem keeps_fallStage (n : Nat) {s t : State} (hk : Keeps s t) : Keeps s (fallStage n t) := by
  unfold fallStage
  repeat' first
    | with_reducible first | assumption | apply keeps_cause | apply keeps_set

theorem keeps_channelReturn (c : Nat) {s t : State} (hk : Keeps s t) : Keeps s (channelReturn c t) := by
  have h : Keeps s (setSrc c (homeSrc c) (gatesLow c t)) := by
    apply keeps_setSrc; apply keeps_gatesLow; exact hk
  unfold channelReturn
  revert h
  generalize setSrc c (homeSrc c) (gatesLow c t) = u
  intro h
  dsimp only
  split
  · exact keeps_fallStage _ (Keeps.same h rfl rfl rfl)
  · exact Keeps.same h rfl rfl rfl

theorem keeps_execGatesReturnToSafe (c : Nat) {s t : State} (hk : Keeps s t) : KeepsO s (execGatesReturnToSafe c t) := by
  unfold execGatesReturnToSafe
  repeat' first
    | with_reducible first | assumption | apply KeepsO.next | apply KeepsO.fault | apply KeepsO.stay | apply keeps_stay | apply keeps_channelReturn
    | with_reducible first | refine keeps_ite ?_ ?_ | refine keepsO_ite ?_ ?_
    | split

theorem keeps_gatesGiveBack {s t : State} (hk : Keeps s t) : Keeps s (gatesGiveBack t) := by
  unfold gatesGiveBack
  repeat' first
    | with_reducible first | assumption | apply keeps_set | apply keeps_foldl
    | with_reducible refine fun _ => ?_
    | with_reducible fail_if_no_progress (refine Keeps.same ?_ rfl rfl rfl)
    | ((try lift_lets); intro x; first | (refine (fun hx : Keeps s x => ?_) ?_; (on_goal 1 => clear_value x); (on_goal 2 => subst x)) | (have hf : ∀ a, x a = x a := fun _ => rfl; clear hf; subst x) | clear_value x | subst x)
    | with_reducible first | refine keeps_ite ?_ ?_ | refine keepsO_ite ?_ ?_
    | split
    | beta_reduce

theorem keeps_channelPass (c : Nat) (waited : Bool) {s t : State} (hk : Keeps s t) : Keeps s (channelPass c waited t) := by
  unfold channelPass
  repeat' first
    | with_reducible first | assumption | apply keeps_setSrc | apply keeps_cause | apply keeps_enterStage
    | with_reducible refine fun _ => ?_
    | with_reducible fail_if_no_progress (refine Keeps.same ?_ rfl rfl rfl)
    | ((try lift_lets); intro x; first | (refine (fun hx : Keeps s x => ?_) ?_; (on_goal 1 => clear_value x); (on_goal 2 => subst x)) | (have hf : ∀ a, x a = x a := fun _ => rfl; clear hf; subst x) | clear_value x | subst x)
    | with_reducible first | refine keeps_ite ?_ ?_ | refine keepsO_ite ?_ ?_
    | split
    | beta_reduce

theorem keeps_handStep (c : Nat) {s t : State} (hk : Keeps s t) : Keeps s (handStep c t) := by
  unfold handStep
  repeat' first
    | with_reducible first | assumption | apply keeps_channelPass
    | with_reducible refine fun _ => ?_
    | with_reducible fail_if_no_progress (refine Keeps.same ?_ rfl rfl rfl)
    | ((try lift_lets); intro x; first | (refine (fun hx : Keeps s x => ?_) ?_; (on_goal 1 => clear_value x); (on_goal 2 => subst x)) | (have hf : ∀ a, x a = x a := fun _ => rfl; clear hf; subst x) | clear_value x | subst x)
    | split
    | with_reducible first | refine Keeps.ofPair (by assumption) ?_ | refine Keeps.ofPair2 (by assumption) ?_ | refine Keeps.ofM (by assumption) ?_ | refine Keeps.ofMP (by assumption) ?_ | refine KeepsO.ofMO (by assumption) ?_ | refine Keeps.ofO (by assumption) ?_
    | beta_reduce
    | dsimp (zeta := false) only
    | dsimp only

theorem keeps_takeMod (c : Nat) {s t : State} (hk : Keeps s t) : Keeps s (takeMod c t) := by
  unfold takeMod
  repeat' first
    | with_reducible first | assumption | apply keeps_setAch
    | with_reducible fail_if_no_progress (refine Keeps.same ?_ rfl rfl rfl)
    | ((try lift_lets); intro x; first | (refine (fun hx : Keeps s x => ?_) ?_; (on_goal 1 => clear_value x); (on_goal 2 => subst x)) | (have hf : ∀ a, x a = x a := fun _ => rfl; clear hf; subst x) | clear_value x | subst x)
    | with_reducible first | refine keeps_ite ?_ ?_ | refine keepsO_ite ?_ ?_
    | split

theorem keeps_audShadow (c p : Nat) {s t : State} (hk : Keeps s t) : Keeps s (audShadow c p t).2 := by
  unfold audShadow
  repeat' first
    | with_reducible first | assumption | apply keeps_laneShow | apply keeps_audWord | apply keeps_takeMod | apply keeps_digestWord
    | ((try lift_lets); intro x; first | (refine (fun hx : Keeps s x => ?_) ?_; (on_goal 1 => clear_value x); (on_goal 2 => subst x)) | (have hf : ∀ a, x a = x a := fun _ => rfl; clear hf; subst x) | clear_value x | subst x)
    | with_reducible first | refine keeps_ite ?_ ?_ | refine keepsO_ite ?_ ?_ | refine keepsP_ite ?_ ?_
    | split
    | with_reducible first | refine Keeps.ofPair (by assumption) ?_ | refine Keeps.ofPair2 (by assumption) ?_ | refine Keeps.ofM (by assumption) ?_ | refine Keeps.ofMP (by assumption) ?_ | refine KeepsO.ofMO (by assumption) ?_ | refine Keeps.ofO (by assumption) ?_
    | dsimp (zeta := false) only
    | dsimp only

theorem keeps_startPeriod (c p at_ drive : Nat) (w : Nat × Nat × Nat × Nat) {s t : State} (hk : Keeps s t) : Keeps s (startPeriod c p at_ drive w t) := by
  unfold startPeriod
  repeat' first
    | with_reducible first | assumption | apply keeps_setPch
    | with_reducible fail_if_no_progress (refine Keeps.same ?_ rfl rfl rfl)
    | ((try lift_lets); intro x; first | (refine (fun hx : Keeps s x => ?_) ?_; (on_goal 1 => clear_value x); (on_goal 2 => subst x)) | (have hf : ∀ a, x a = x a := fun _ => rfl; clear hf; subst x) | clear_value x | subst x)
    | with_reducible first | refine keeps_ite ?_ ?_ | refine keepsO_ite ?_ ?_
    | split
    | with_reducible first | refine Keeps.ofPair (by assumption) ?_ | refine Keeps.ofPair2 (by assumption) ?_ | refine Keeps.ofM (by assumption) ?_ | refine Keeps.ofMP (by assumption) ?_ | refine KeepsO.ofMO (by assumption) ?_ | refine Keeps.ofO (by assumption) ?_
    | dsimp (zeta := false) only
    | dsimp only

theorem keeps_drivePeriod (c p at_ : Nat) (aud : Nat × Nat × Nat × Nat) {s t : State} (hk : Keeps s t) : Keeps s (drivePeriod c p at_ aud t) := by
  unfold drivePeriod
  repeat' first
    | with_reducible first | assumption | apply keeps_set | apply keeps_startPeriod | apply keeps_gatesLow
    | with_reducible refine fun _ => ?_
    | ((try lift_lets); intro x; first | (refine (fun hx : Keeps s x => ?_) ?_; (on_goal 1 => clear_value x); (on_goal 2 => subst x)) | (have hf : ∀ a, x a = x a := fun _ => rfl; clear hf; subst x) | clear_value x | subst x)
    | with_reducible first | refine keeps_ite ?_ ?_ | refine keepsO_ite ?_ ?_
    | split
    | with_reducible first | refine Keeps.ofPair (by assumption) ?_ | refine Keeps.ofPair2 (by assumption) ?_ | refine Keeps.ofM (by assumption) ?_ | refine Keeps.ofMP (by assumption) ?_ | refine KeepsO.ofMO (by assumption) ?_ | refine Keeps.ofO (by assumption) ?_
    | beta_reduce
    | dsimp (zeta := false) only
    | dsimp only

theorem keeps_startLatch (c : Nat) (hoc : Bool) {s t : State} (hk : Keeps s t) : Keeps s (startLatch c hoc t) := by
  unfold startLatch
  repeat' first
    | with_reducible first | assumption | apply keeps_set | apply keeps_latchAll
    | ((try lift_lets); intro x; first | (refine (fun hx : Keeps s x => ?_) ?_; (on_goal 1 => clear_value x); (on_goal 2 => subst x)) | (have hf : ∀ a, x a = x a := fun _ => rfl; clear hf; subst x) | clear_value x | subst x)
    | with_reducible first | refine keeps_ite ?_ ?_ | refine keepsO_ite ?_ ?_
    | split

theorem keeps_periodBoundary (c : Nat) (hoc : Bool) {s t : State} (hk : Keeps s t) : Keeps s (periodBoundary c hoc t) := by
  unfold periodBoundary
  repeat' first
    | with_reducible first | assumption | apply keeps_channelReturn | apply keeps_handStep | apply keeps_startLatch | apply keeps_audShadow | apply keeps_drivePeriod | apply keeps_setPch
    | with_reducible fail_if_no_progress (refine Keeps.same ?_ rfl rfl rfl)
    | ((try lift_lets); intro x; first | (refine (fun hx : Keeps s x => ?_) ?_; (on_goal 1 => clear_value x); (on_goal 2 => subst x)) | (have hf : ∀ a, x a = x a := fun _ => rfl; clear hf; subst x) | clear_value x | subst x)
    | with_reducible first | refine keeps_ite ?_ ?_ | refine keepsO_ite ?_ ?_
    | split
    | with_reducible first | refine Keeps.ofPair (by assumption) ?_ | refine Keeps.ofPair2 (by assumption) ?_ | refine Keeps.ofM (by assumption) ?_ | refine Keeps.ofMP (by assumption) ?_ | refine KeepsO.ofMO (by assumption) ?_ | refine Keeps.ofO (by assumption) ?_
    | dsimp (zeta := false) only
    | dsimp only

theorem keeps_safeBoundary (c : Nat) (hoc : Bool) {s t : State} (hk : Keeps s t) : Keeps s (safeBoundary c hoc t) := by
  unfold safeBoundary
  repeat' first
    | with_reducible first | assumption | apply keeps_startLatch | apply keeps_drivePeriod
    | with_reducible refine fun _ => ?_
    | with_reducible fail_if_no_progress (refine Keeps.same ?_ rfl rfl rfl)
    | ((try lift_lets); intro x; first | (refine (fun hx : Keeps s x => ?_) ?_; (on_goal 1 => clear_value x); (on_goal 2 => subst x)) | (have hf : ∀ a, x a = x a := fun _ => rfl; clear hf; subst x) | clear_value x | subst x)
    | with_reducible first | refine keeps_ite ?_ ?_ | refine keepsO_ite ?_ ?_
    | split
    | with_reducible first | refine Keeps.ofPair (by assumption) ?_ | refine Keeps.ofPair2 (by assumption) ?_ | refine Keeps.ofM (by assumption) ?_ | refine Keeps.ofMP (by assumption) ?_ | refine KeepsO.ofMO (by assumption) ?_ | refine Keeps.ofO (by assumption) ?_
    | beta_reduce
    | dsimp (zeta := false) only
    | dsimp only

theorem keeps_execPwmPeriodBoundary (c : Nat) (hoc safe : Bool) {s t : State} (hk : Keeps s t) : KeepsO s (execPwmPeriodBoundary c hoc t safe) := by
  unfold execPwmPeriodBoundary
  repeat' first
    | with_reducible first | assumption | apply KeepsO.next | apply KeepsO.stay | apply keeps_stay | apply keeps_periodBoundary | apply keeps_safeBoundary
    | ((try lift_lets); intro x; first | (refine (fun hx : Keeps s x => ?_) ?_; (on_goal 1 => clear_value x); (on_goal 2 => subst x)) | (have hf : ∀ a, x a = x a := fun _ => rfl; clear hf; subst x) | clear_value x | subst x)
    | with_reducible first | refine keeps_ite ?_ ?_ | refine keepsO_ite ?_ ?_
    | split
    | with_reducible first | refine Keeps.ofPair (by assumption) ?_ | refine Keeps.ofPair2 (by assumption) ?_ | refine Keeps.ofM (by assumption) ?_ | refine Keeps.ofMP (by assumption) ?_ | refine KeepsO.ofMO (by assumption) ?_ | refine Keeps.ofO (by assumption) ?_
    | dsimp (zeta := false) only
    | dsimp only

theorem keeps_execHandover (c : Nat) {s t : State} (hk : Keeps s t) : KeepsO s (execHandover c t) := by
  unfold execHandover
  repeat' first
    | with_reducible first | assumption | apply KeepsO.next | apply KeepsO.fault | apply KeepsO.stay | apply keeps_stay | apply keeps_periodBoundary
    | with_reducible first | refine keeps_ite ?_ ?_ | refine keepsO_ite ?_ ?_
    | split

theorem keeps_channelSample (t96 t48 : Bool) (sense : List (Nat × Nat)) (c : Nat) {s t : State} (hk : Keeps s t) : Keeps s (channelSample t96 t48 sense t c) := by
  unfold channelSample
  repeat' first
    | with_reducible first | assumption | apply keeps_chStop | apply keeps_setAch | apply keeps_ringInstant | apply keeps_pathSample | apply keeps_windowCheck | apply keeps_trimSample | apply keeps_senseSample
    | with_reducible fail_if_no_progress (refine Keeps.same ?_ rfl rfl rfl)
    | ((try lift_lets); intro x; first | (refine (fun hx : Keeps s x => ?_) ?_; (on_goal 1 => clear_value x); (on_goal 2 => subst x)) | (have hf : ∀ a, x a = x a := fun _ => rfl; clear hf; subst x) | clear_value x | subst x)
    | with_reducible first | refine keeps_ite ?_ ?_ | refine keepsO_ite ?_ ?_
    | split
    | with_reducible first | refine Keeps.ofPair (by assumption) ?_ | refine Keeps.ofPair2 (by assumption) ?_ | refine Keeps.ofM (by assumption) ?_ | refine Keeps.ofMP (by assumption) ?_ | refine KeepsO.ofMO (by assumption) ?_ | refine Keeps.ofO (by assumption) ?_
    | dsimp (zeta := false) only
    | dsimp only

theorem keeps_audSample (sense : List (Nat × Nat)) {s t : State} (hk : Keeps s t) : Keeps s (audSample sense t) := by
  unfold audSample
  repeat' first
    | with_reducible first | assumption | apply keeps_windowBoundary | apply keeps_mediaTick | apply keeps_gainSample | apply keeps_channelSample | apply keeps_tapCapture | apply keeps_tdmIdle | apply keeps_foldl
    | with_reducible refine fun _ => ?_
    | with_reducible fail_if_no_progress (refine Keeps.same ?_ rfl rfl rfl)
    | ((try lift_lets); intro x; first | (refine (fun hx : Keeps s x => ?_) ?_; (on_goal 1 => clear_value x); (on_goal 2 => subst x)) | (have hf : ∀ a, x a = x a := fun _ => rfl; clear hf; subst x) | clear_value x | subst x)
    | split
    | with_reducible first | refine Keeps.ofPair (by assumption) ?_ | refine Keeps.ofPair2 (by assumption) ?_ | refine Keeps.ofM (by assumption) ?_ | refine Keeps.ofMP (by assumption) ?_ | refine KeepsO.ofMO (by assumption) ?_ | refine Keeps.ofO (by assumption) ?_
    | beta_reduce
    | dsimp (zeta := false) only
    | dsimp only

theorem keeps_execInternalSample (sense : List (Nat × Nat)) {s t : State} (hk : Keeps s t) : KeepsO s (execInternalSample sense t) := by
  unfold execInternalSample
  repeat' first
    | with_reducible first | assumption | apply KeepsO.next | apply KeepsO.fault | apply KeepsO.stay | apply keeps_audSample | apply keeps_safeSample
    | ((try lift_lets); intro x; first | (refine (fun hx : Keeps s x => ?_) ?_; (on_goal 1 => clear_value x); (on_goal 2 => subst x)) | (have hf : ∀ a, x a = x a := fun _ => rfl; clear hf; subst x) | clear_value x | subst x)
    | with_reducible first | refine keeps_ite ?_ ?_ | refine keepsO_ite ?_ ?_
    | split

theorem keeps_execAnnouncementEnd {s t : State} (hk : Keeps s t) : KeepsO s (execAnnouncementEnd t) := by
  unfold execAnnouncementEnd
  repeat' first
    | with_reducible first | assumption | apply keeps_standbyPws | apply KeepsO.next | apply KeepsO.fault | apply KeepsO.stay | apply keeps_stay | apply keeps_handIdle | apply keeps_annStop
    | with_reducible first | refine keeps_ite ?_ ?_ | refine keepsO_ite ?_ ?_
    | split

theorem keeps_execOutputDisableEnd {s t : State} (hk : Keeps s t) : KeepsO s (execOutputDisableEnd t) := by
  unfold execOutputDisableEnd
  repeat' first
    | with_reducible first | assumption | apply KeepsO.next | apply KeepsO.fault | apply KeepsO.stay | apply keeps_stay | apply keeps_audRelock | apply keeps_disableShow
    | with_reducible fail_if_no_progress (refine Keeps.same ?_ rfl rfl rfl)
    | ((try lift_lets); intro x; first | (refine (fun hx : Keeps s x => ?_) ?_; (on_goal 1 => clear_value x); (on_goal 2 => subst x)) | (have hf : ∀ a, x a = x a := fun _ => rfl; clear hf; subst x) | clear_value x | subst x)
    | with_reducible first | refine keeps_ite ?_ ?_ | refine keepsO_ite ?_ ?_
    | split

end Sys2Proof.Machine
end

