-- ==== Sys2Proof/Laws/KeepsLocks.lean ====
section
/-!
SUPPORT. What Machine/Locks.lean keeps (Laws/Keeps.lean).
-/
namespace Sys2Proof.Machine
set_option linter.unusedTactic false
set_option linter.unreachableTactic false
set_option linter.unusedVariables false

theorem keeps_lockReads (n : Nat) (aids : List Nat) {s t : State} (hk : Keeps s t) : Keeps s (lockReads n aids t) := by
  unfold lockReads
  repeat' first
    | with_reducible first | assumption | apply keeps_respond | apply keeps_setLock | apply keeps_foldl
    | with_reducible refine fun _ => ?_
    | with_reducible fail_if_no_progress (refine Keeps.same ?_ rfl rfl rfl)
    | ((try lift_lets); intro x; first | (refine (fun hx : Keeps s x => ?_) ?_; (on_goal 1 => clear_value x); (on_goal 2 => subst x)) | (have hf : ∀ a, x a = x a := fun _ => rfl; clear hf; subst x) | clear_value x | subst x)
    | with_reducible first | refine keeps_ite ?_ ?_ | refine keepsO_ite ?_ ?_
    | split
    | with_reducible first | refine Keeps.ofPair (by assumption) ?_ | refine Keeps.ofPair2 (by assumption) ?_ | refine Keeps.ofM (by assumption) ?_ | refine Keeps.ofMP (by assumption) ?_ | refine KeepsO.ofMO (by assumption) ?_ | refine Keeps.ofO (by assumption) ?_
    | beta_reduce
    | dsimp (zeta := false) only
    | dsimp only

theorem keeps_wakeWaiter (n : Nat) (tid : Nat) {s t : State} (hk : Keeps s t) : Keeps s (wakeWaiter n t tid) := by
  unfold wakeWaiter
  repeat' first
    | with_reducible first | assumption | apply keeps_setThread
    | with_reducible fail_if_no_progress (refine Keeps.same ?_ rfl rfl rfl)
    | ((try lift_lets); intro x; first | (refine (fun hx : Keeps s x => ?_) ?_; (on_goal 1 => clear_value x); (on_goal 2 => subst x)) | (have hf : ∀ a, x a = x a := fun _ => rfl; clear hf; subst x) | clear_value x | subst x)
    | with_reducible first | refine keeps_ite ?_ ?_ | refine keepsO_ite ?_ ?_
    | split
    | with_reducible first | refine Keeps.ofPair (by assumption) ?_ | refine Keeps.ofPair2 (by assumption) ?_ | refine Keeps.ofM (by assumption) ?_ | refine Keeps.ofMP (by assumption) ?_ | refine KeepsO.ofMO (by assumption) ?_ | refine Keeps.ofO (by assumption) ?_

theorem keeps_lockFree (n : Nat) {s t : State} (hk : Keeps s t) : Keeps s (lockFree n t) := by
  unfold lockFree
  repeat' first
    | with_reducible first | assumption | apply keeps_wakeWaiter | apply keeps_setLock | apply keeps_foldl
    | with_reducible refine fun _ => ?_
    | beta_reduce

theorem keeps_lockCause (f : Fld) (n aid : Nat) {s t : State} (hk : Keeps s t) : Keeps s (lockCause f n aid t) := by
  unfold lockCause
  repeat' first
    | with_reducible first | assumption | apply keeps_cause | apply keeps_set

theorem keeps_lockWrite (n aid : Nat) {s t : State} (hk : Keeps s t) : Keeps s (lockWrite n aid t) := by
  unfold lockWrite
  repeat' first
    | with_reducible first | assumption | apply keeps_lockCause | apply keeps_lockFree
    | ((try lift_lets); intro x; first | (refine (fun hx : Keeps s x => ?_) ?_; (on_goal 1 => clear_value x); (on_goal 2 => subst x)) | (have hf : ∀ a, x a = x a := fun _ => rfl; clear hf; subst x) | clear_value x | subst x)
    | with_reducible first | refine keeps_ite ?_ ?_ | refine keepsO_ite ?_ ?_
    | split

theorem keeps_releaseLocks (who : Nat → Bool) {s t : State} (hk : Keeps s t) : Keeps s (releaseLocks who t) := by
  unfold releaseLocks
  repeat' first
    | with_reducible first | assumption | apply keeps_lockFree | apply keeps_foldl
    | with_reducible refine fun _ => ?_
    | with_reducible first | refine keeps_ite ?_ ?_ | refine keepsO_ite ?_ ?_
    | split
    | beta_reduce

theorem keeps_dropWaiter (tid : Nat) {s t : State} (hk : Keeps s t) : Keeps s (dropWaiter tid t) := by
  unfold dropWaiter
  repeat' first
    | with_reducible first | assumption | apply keeps_setLock | apply keeps_setThread
    | with_reducible fail_if_no_progress (refine Keeps.same ?_ rfl rfl rfl)
    | ((try lift_lets); intro x; first | (refine (fun hx : Keeps s x => ?_) ?_; (on_goal 1 => clear_value x); (on_goal 2 => subst x)) | (have hf : ∀ a, x a = x a := fun _ => rfl; clear hf; subst x) | clear_value x | subst x)
    | split
    | with_reducible first | refine Keeps.ofPair (by assumption) ?_ | refine Keeps.ofPair2 (by assumption) ?_ | refine Keeps.ofM (by assumption) ?_ | refine Keeps.ofMP (by assumption) ?_ | refine KeepsO.ofMO (by assumption) ?_ | refine Keeps.ofO (by assumption) ?_
    | dsimp (zeta := false) only
    | dsimp only

theorem keeps_fetchAdd (k : Nat) (v : Word) {s t : State} (hk : Keeps s t) : Keeps s (fetchAdd k v t).2 := by
  unfold fetchAdd
  repeat' first
    | with_reducible first | assumption | apply keeps_wr
    | ((try lift_lets); intro x; first | (refine (fun hx : Keeps s x => ?_) ?_; (on_goal 1 => clear_value x); (on_goal 2 => subst x)) | (have hf : ∀ a, x a = x a := fun _ => rfl; clear hf; subst x) | clear_value x | subst x)

theorem keeps_addLoad (a : Agent) (k : Nat) (v : Word) {s t : State} (hk : Keeps s t) : Keeps s (addLoad a k v t) := by
  unfold addLoad
  repeat' first
    | with_reducible first | assumption | apply keeps_respond | apply keeps_bump | apply keeps_takeAnswer | apply keeps_fetchAdd | apply keeps_logAnswer
    | with_reducible fail_if_no_progress (refine Keeps.same ?_ rfl rfl rfl)
    | ((try lift_lets); intro x; first | (refine (fun hx : Keeps s x => ?_) ?_; (on_goal 1 => clear_value x); (on_goal 2 => subst x)) | (have hf : ∀ a, x a = x a := fun _ => rfl; clear hf; subst x) | clear_value x | subst x)
    | with_reducible first | refine keeps_ite ?_ ?_ | refine keepsO_ite ?_ ?_
    | split
    | with_reducible first | refine Keeps.ofPair (by assumption) ?_ | refine Keeps.ofPair2 (by assumption) ?_ | refine Keeps.ofM (by assumption) ?_ | refine Keeps.ofMP (by assumption) ?_ | refine KeepsO.ofMO (by assumption) ?_ | refine Keeps.ofO (by assumption) ?_
    | dsimp (zeta := false) only
    | dsimp only

theorem keeps_lockFollow (n : Nat) (a : Agent) {s t : State} (hk : Keeps s t) : Keeps s (lockFollow n t a) := by
  unfold lockFollow
  repeat' first
    | with_reducible first | assumption | apply keeps_respond | apply keeps_bump | apply keeps_takeAnswer | apply keeps_setLock
    | with_reducible fail_if_no_progress (refine Keeps.same ?_ rfl rfl rfl)
    | ((try lift_lets); intro x; first | (refine (fun hx : Keeps s x => ?_) ?_; (on_goal 1 => clear_value x); (on_goal 2 => subst x)) | (have hf : ∀ a, x a = x a := fun _ => rfl; clear hf; subst x) | clear_value x | subst x)
    | with_reducible first | refine keeps_ite ?_ ?_ | refine keepsO_ite ?_ ?_
    | split
    | with_reducible first | refine Keeps.ofPair (by assumption) ?_ | refine Keeps.ofPair2 (by assumption) ?_ | refine Keeps.ofM (by assumption) ?_ | refine Keeps.ofMP (by assumption) ?_ | refine KeepsO.ofMO (by assumption) ?_ | refine Keeps.ofO (by assumption) ?_
    | dsimp (zeta := false) only
    | dsimp only

theorem keeps_lockLoads (n : Nat) (as : List Agent) {s t : State} (hk : Keeps s t) : Keeps s (lockLoads n as t) := by
  unfold lockLoads
  repeat' first
    | with_reducible first | assumption | apply keeps_lockFollow | apply keeps_logAnswer | apply keeps_lockReads | apply keeps_foldl
    | with_reducible refine fun _ => ?_
    | with_reducible first | refine keeps_ite ?_ ?_ | refine keepsO_ite ?_ ?_
    | split
    | beta_reduce

theorem keeps_execLockRead (a : Agent) (n : Nat) (others : List Agent) {s t : State} (hk : Keeps s t) : KeepsO s (execLockRead a n others t) := by
  unfold execLockRead
  repeat' first
    | with_reducible first | assumption | apply KeepsO.next | apply KeepsO.stay | apply keeps_stay | apply keeps_foldl | apply keeps_respond | apply keeps_weftWait | apply keeps_lockLoads
    | with_reducible refine fun _ => ?_
    | with_reducible fail_if_no_progress (refine Keeps.same ?_ rfl rfl rfl)
    | ((try lift_lets); intro x; first | (refine (fun hx : Keeps s x => ?_) ?_; (on_goal 1 => clear_value x); (on_goal 2 => subst x)) | (have hf : ∀ a, x a = x a := fun _ => rfl; clear hf; subst x) | clear_value x | subst x)
    | with_reducible first | refine keeps_ite ?_ ?_ | refine keepsO_ite ?_ ?_ | refine keepsP_ite ?_ ?_
    | split
    | with_reducible first | refine Keeps.ofPair (by assumption) ?_ | refine Keeps.ofPair2 (by assumption) ?_ | refine Keeps.ofM (by assumption) ?_ | refine Keeps.ofMP (by assumption) ?_ | refine KeepsO.ofMO (by assumption) ?_ | refine Keeps.ofO (by assumption) ?_
    | beta_reduce
    | dsimp (zeta := false) only
    | dsimp only

theorem keeps_execLockRelease (a : Agent) (n : Nat) {s t : State} (hk : Keeps s t) : KeepsO s (execLockRelease a n t) := by
  unfold execLockRelease
  repeat' first
    | with_reducible first | assumption | apply KeepsO.next | apply KeepsO.fault | apply KeepsO.stay | apply keeps_stay | apply keeps_access | apply keeps_lockWrite
    | with_reducible refine fun _ => ?_
    | with_reducible first | refine keeps_ite ?_ ?_ | refine keepsO_ite ?_ ?_
    | split
    | beta_reduce

theorem keeps_execLockHoldTimeout (n : Nat) {s t : State} (hk : Keeps s t) : KeepsO s (execLockHoldTimeout n t) := by
  unfold execLockHoldTimeout
  repeat' first
    | with_reducible first | assumption | apply KeepsO.next | apply KeepsO.fault | apply KeepsO.stay | apply keeps_stay | apply keeps_lockCause | apply keeps_setLock
    | with_reducible fail_if_no_progress (refine Keeps.same ?_ rfl rfl rfl)
    | ((try lift_lets); intro x; first | (refine (fun hx : Keeps s x => ?_) ?_; (on_goal 1 => clear_value x); (on_goal 2 => subst x)) | (have hf : ∀ a, x a = x a := fun _ => rfl; clear hf; subst x) | clear_value x | subst x)
    | with_reducible first | refine keeps_ite ?_ ?_ | refine keepsO_ite ?_ ?_
    | split

end Sys2Proof.Machine
end

