-- ==== Sys2Proof/Laws/KeepsFwd.lean ====
section
/-!
SUPPORT. What Machine/Fwd.lean keeps (Laws/Keeps.lean).
-/
namespace Sys2Proof.Machine
set_option linter.unusedTactic false
set_option linter.unreachableTactic false
set_option linter.unusedVariables false

theorem keeps_pushEvent (off kind : Nat) {s t : State} (hk : Keeps s t) : Keeps s (pushEvent off kind t) := by
  unfold pushEvent
  repeat' first
    | with_reducible first | assumption | apply keeps_set
    | with_reducible fail_if_no_progress (refine Keeps.same ?_ rfl rfl rfl)
    | ((try lift_lets); intro x; first | (refine (fun hx : Keeps s x => ?_) ?_; (on_goal 1 => clear_value x); (on_goal 2 => subst x)) | (have hf : ∀ a, x a = x a := fun _ => rfl; clear hf; subst x) | (have hf : (x : Fwd) = x := rfl; clear hf; subst x) | clear_value x | subst x)
    | with_reducible first | refine keeps_ite ?_ ?_ | refine keepsO_ite ?_ ?_
    | split

theorem keeps_meetBad (w : Nat) {s t : State} (hk : Keeps s t) : Keeps s (meetBad t w) := by
  unfold meetBad
  repeat' first
    | with_reducible first | assumption | apply keeps_cause | apply keeps_pushEvent
    | with_reducible refine fun _ => ?_
    | with_reducible fail_if_no_progress (refine Keeps.same ?_ rfl rfl rfl)
    | ((try lift_lets); intro x; first | (refine (fun hx : Keeps s x => ?_) ?_; (on_goal 1 => clear_value x); (on_goal 2 => subst x)) | (have hf : ∀ a, x a = x a := fun _ => rfl; clear hf; subst x) | (have hf : (x : Fwd) = x := rfl; clear hf; subst x) | clear_value x | subst x)
    | with_reducible first | refine keeps_ite ?_ ?_ | refine keepsO_ite ?_ ?_
    | split
    | beta_reduce

theorem keeps_meetAll (ws : List Nat) {s t : State} (hk : Keeps s t) : Keeps s (meetAll ws t) := by
  unfold meetAll
  repeat' first
    | with_reducible first | assumption | apply keeps_meetBad | apply keeps_foldl
    | with_reducible refine fun _ => ?_
    | beta_reduce

theorem keeps_tblWrite (o : Nat) (bs : List Byte) {s t : State} (hk : Keeps s t) : Keeps s (tblWrite o bs t) :=
  Keeps.mems hk id id (Mem.wf_wrBytes _ _ _) id id

theorem keeps_lrnSettle {s t : State} (hk : Keeps s t) : Keeps s (lrnSettle t) := by
  unfold lrnSettle
  repeat' first
    | with_reducible first | assumption
    | with_reducible refine fun _ => ?_
    | with_reducible fail_if_no_progress (refine Keeps.same ?_ rfl rfl rfl)
    | ((try lift_lets); intro x; first | (refine (fun hx : Keeps s x => ?_) ?_; (on_goal 1 => clear_value x); (on_goal 2 => subst x)) | (have hf : ∀ a, x a = x a := fun _ => rfl; clear hf; subst x) | clear_value x | subst x)
    | with_reducible first | refine keeps_ite ?_ ?_ | refine keepsO_ite ?_ ?_ | refine keepsP_ite ?_ ?_
    | split
    | with_reducible first | refine Keeps.ofPair (by assumption) ?_ | refine Keeps.ofPair2 (by assumption) ?_ | refine Keeps.ofM (by assumption) ?_ | refine Keeps.ofMP (by assumption) ?_ | refine KeepsO.ofMO (by assumption) ?_ | refine Keeps.ofO (by assumption) ?_
    | beta_reduce
    | dsimp (zeta := false) only
    | dsimp only

theorem keeps_lrnShow {s t : State} (hk : Keeps s t) : Keeps s (lrnShow t) := by
  unfold lrnShow
  repeat' first
    | with_reducible first | assumption | apply keeps_wr | apply keeps_set
    | ((try lift_lets); intro x; first | (refine (fun hx : Keeps s x => ?_) ?_; (on_goal 1 => clear_value x); (on_goal 2 => subst x)) | (have hf : ∀ a, x a = x a := fun _ => rfl; clear hf; subst x) | (have hf : (x : Fwd) = x := rfl; clear hf; subst x) | clear_value x | subst x)
    | split
    | with_reducible first | refine Keeps.ofPair (by assumption) ?_ | refine Keeps.ofPair2 (by assumption) ?_ | refine Keeps.ofM (by assumption) ?_ | refine Keeps.ofMP (by assumption) ?_ | refine KeepsO.ofMO (by assumption) ?_ | refine Keeps.ofO (by assumption) ?_
    | dsimp (zeta := false) only
    | dsimp only

theorem keeps_pushLearn (mac : List Byte) (vid idx port kind : Nat) {s t : State} (hk : Keeps s t) : Keeps s (pushLearn mac vid idx port kind t) := by
  unfold pushLearn
  repeat' first
    | with_reducible first | assumption | apply keeps_plySend | apply keeps_cause | apply keeps_lrnShow
    | with_reducible fail_if_no_progress (refine Keeps.same ?_ rfl rfl rfl)
    | ((try lift_lets); intro x; first | (refine (fun hx : Keeps s x => ?_) ?_; (on_goal 1 => clear_value x); (on_goal 2 => subst x)) | (have hf : ∀ a, x a = x a := fun _ => rfl; clear hf; subst x) | (have hf : (x : Fwd) = x := rfl; clear hf; subst x) | clear_value x | subst x)

theorem keeps_learnWrite (idx : Nat) (e mac : List Byte) (vid port kind : Nat) {s t : State} (hk : Keeps s t) : Keeps s (learnWrite idx e mac vid port kind t) := by
  unfold learnWrite
  repeat' first
    | with_reducible first | assumption | apply keeps_bump | apply keeps_pushLearn | apply keeps_tblWrite
    | with_reducible fail_if_no_progress (refine Keeps.same ?_ rfl rfl rfl)
    | ((try lift_lets); intro x; first | (refine (fun hx : Keeps s x => ?_) ?_; (on_goal 1 => clear_value x); (on_goal 2 => subst x)) | (have hf : ∀ a, x a = x a := fun _ => rfl; clear hf; subst x) | (have hf : (x : Fwd) = x := rfl; clear hf; subst x) | clear_value x | subst x)
    | with_reducible first | refine keeps_ite ?_ ?_ | refine keepsO_ite ?_ ?_
    | split
    | with_reducible first | refine Keeps.ofPair (by assumption) ?_ | refine Keeps.ofPair2 (by assumption) ?_ | refine Keeps.ofM (by assumption) ?_ | refine Keeps.ofMP (by assumption) ?_ | refine KeepsO.ofMO (by assumption) ?_ | refine Keeps.ofO (by assumption) ?_

theorem keeps_setHit (idx : Nat) (hit : Bool) {s t : State} (hk : Keeps s t) : Keeps s (setHit idx hit t) :=
  Keeps.mems hk id id (Mem.wf_wr _ _ _) id id

theorem keeps_sourceLookup (port : Nat) (mac : List Byte) (vid : Nat) {s t : State} (hk : Keeps s t) : Keeps s (sourceLookup port mac vid t) := by
  unfold sourceLookup
  repeat' first
    | with_reducible first | assumption | apply keeps_meetAll | apply keeps_setHit | apply keeps_bump | apply keeps_learnWrite | apply keeps_cause
    | with_reducible fail_if_no_progress (refine Keeps.same ?_ rfl rfl rfl)
    | ((try lift_lets); intro x; first | (refine (fun hx : Keeps s x => ?_) ?_; (on_goal 1 => clear_value x); (on_goal 2 => subst x)) | (have hf : ∀ a, x a = x a := fun _ => rfl; clear hf; subst x) | clear_value x | subst x)
    | with_reducible first | refine keeps_ite ?_ ?_ | refine keepsO_ite ?_ ?_
    | split
    | with_reducible first | refine Keeps.ofPair (by assumption) ?_ | refine Keeps.ofPair2 (by assumption) ?_ | refine Keeps.ofM (by assumption) ?_ | refine Keeps.ofMP (by assumption) ?_ | refine KeepsO.ofMO (by assumption) ?_ | refine Keeps.ofO (by assumption) ?_
    | dsimp (zeta := false) only
    | dsimp only

theorem keeps_execSourceLookup {s t : State} (hk : Keeps s t) : KeepsO s (execSourceLookup t) := by
  unfold execSourceLookup
  repeat' first
    | with_reducible first | assumption | apply KeepsO.next | apply KeepsO.fault | apply KeepsO.stay | apply keeps_stay | apply keeps_sourceLookup
    | with_reducible fail_if_no_progress (refine Keeps.same ?_ rfl rfl rfl)
    | ((try lift_lets); intro x; first | (refine (fun hx : Keeps s x => ?_) ?_; (on_goal 1 => clear_value x); (on_goal 2 => subst x)) | (have hf : ∀ a, x a = x a := fun _ => rfl; clear hf; subst x) | (have hf : (x : Fwd) = x := rfl; clear hf; subst x) | clear_value x | subst x)
    | with_reducible first | refine keeps_ite ?_ ?_ | refine keepsO_ite ?_ ?_
    | split
    | with_reducible first | refine Keeps.ofPair (by assumption) ?_ | refine Keeps.ofPair2 (by assumption) ?_ | refine Keeps.ofM (by assumption) ?_ | refine Keeps.ofMP (by assumption) ?_ | refine KeepsO.ofMO (by assumption) ?_ | refine Keeps.ofO (by assumption) ?_
    | dsimp (zeta := false) only
    | dsimp only

theorem keeps_learnPop {s t : State} (hk : Keeps s t) : Keeps s (learnPop t) := by
  unfold learnPop
  repeat' first
    | with_reducible first | assumption | apply keeps_lrnShow
    | with_reducible fail_if_no_progress (refine Keeps.same ?_ rfl rfl rfl)
    | ((try lift_lets); intro x; first | (refine (fun hx : Keeps s x => ?_) ?_; (on_goal 1 => clear_value x); (on_goal 2 => subst x)) | (have hf : ∀ a, x a = x a := fun _ => rfl; clear hf; subst x) | (have hf : (x : Fwd) = x := rfl; clear hf; subst x) | clear_value x | subst x)

theorem keeps_execLearnPop (a : Agent) {s t : State} (hk : Keeps s t) : KeepsO s (execLearnPop a t) := by
  unfold execLearnPop
  repeat' first
    | with_reducible first | assumption | apply KeepsO.next | apply KeepsO.fault | apply KeepsO.stay | apply keeps_access | apply keeps_learnPop
    | with_reducible refine fun _ => ?_
    | beta_reduce

theorem keeps_agerVisit (idx : Nat) {s t : State} (hk : Keeps s t) : Keeps s (agerVisit idx t) := by
  unfold agerVisit
  repeat' first
    | with_reducible first | assumption | apply keeps_meetAll | apply keeps_setHit | apply keeps_tblWrite | apply keeps_pushLearn | apply keeps_bump
    | ((try lift_lets); intro x; first | (refine (fun hx : Keeps s x => ?_) ?_; (on_goal 1 => clear_value x); (on_goal 2 => subst x)) | (have hf : ∀ a, x a = x a := fun _ => rfl; clear hf; subst x) | (have hf : (x : Fwd) = x := rfl; clear hf; subst x) | clear_value x | subst x)
    | with_reducible first | refine keeps_ite ?_ ?_ | refine keepsO_ite ?_ ?_
    | split

theorem keeps_learnApply (w : List Word) {s t : State} (hk : Keeps s t) : Keeps s (learnApply w t) := by
  unfold learnApply
  repeat' first
    | with_reducible first | assumption | apply keeps_pushLearn | apply keeps_tblWrite
    | ((try lift_lets); intro x; first | (refine (fun hx : Keeps s x => ?_) ?_; (on_goal 1 => clear_value x); (on_goal 2 => subst x)) | (have hf : ∀ a, x a = x a := fun _ => rfl; clear hf; subst x) | clear_value x | subst x)
    | with_reducible first | refine keeps_ite ?_ ?_ | refine keepsO_ite ?_ ?_
    | split

theorem keeps_execAgerVisit (idx : Nat) {s t : State} (hk : Keeps s t) : KeepsO s (execAgerVisit idx t) := by
  unfold execAgerVisit
  repeat' first
    | with_reducible first | assumption | apply KeepsO.next | apply KeepsO.fault | apply KeepsO.stay | apply keeps_stay | apply keeps_agerVisit
    | with_reducible first | refine keeps_ite ?_ ?_ | refine keepsO_ite ?_ ?_
    | split

theorem keeps_cmdEnd (status : Nat) {s t : State} (hk : Keeps s t) : Keeps s (cmdEnd status t) := by
  unfold cmdEnd
  repeat' first
    | with_reducible first | assumption | apply keeps_set

theorem keeps_fwdWrite {s t : State} (hk : Keeps s t) : Keeps s (fwdWrite t) := by
  unfold fwdWrite
  repeat' first
    | with_reducible first | assumption | apply keeps_cmdEnd | apply keeps_tblWrite | apply keeps_foldl
    | with_reducible refine fun _ => ?_
    | ((try lift_lets); intro x; first | (refine (fun hx : Keeps s x => ?_) ?_; (on_goal 1 => clear_value x); (on_goal 2 => subst x)) | (have hf : ∀ a, x a = x a := fun _ => rfl; clear hf; subst x) | clear_value x | subst x)
    | with_reducible first | refine keeps_ite ?_ ?_ | refine keepsO_ite ?_ ?_
    | split
    | beta_reduce

theorem keeps_fwdRead {s t : State} (hk : Keeps s t) : Keeps s (fwdRead t) := by
  unfold fwdRead
  repeat' first
    | with_reducible first | assumption | apply keeps_meetAll | apply keeps_cmdEnd | apply keeps_wr | apply keeps_foldl
    | with_reducible refine fun _ => ?_
    | ((try lift_lets); intro x; first | (refine (fun hx : Keeps s x => ?_) ?_; (on_goal 1 => clear_value x); (on_goal 2 => subst x)) | (have hf : ∀ a, x a = x a := fun _ => rfl; clear hf; subst x) | clear_value x | subst x)
    | beta_reduce

theorem keeps_fdbInsert {s t : State} (hk : Keeps s t) : Keeps s (fdbInsert t) := by
  unfold fdbInsert
  repeat' first
    | with_reducible first | assumption | apply keeps_meetAll | apply keeps_cmdEnd | apply keeps_tblWrite | apply keeps_set | apply keeps_cause
    | with_reducible fail_if_no_progress (refine Keeps.same ?_ rfl rfl rfl)
    | ((try lift_lets); intro x; first | (refine (fun hx : Keeps s x => ?_) ?_; (on_goal 1 => clear_value x); (on_goal 2 => subst x)) | (have hf : ∀ a, x a = x a := fun _ => rfl; clear hf; subst x) | clear_value x | subst x)
    | split
    | with_reducible first | refine Keeps.ofPair (by assumption) ?_ | refine Keeps.ofPair2 (by assumption) ?_ | refine Keeps.ofM (by assumption) ?_ | refine Keeps.ofMP (by assumption) ?_ | refine KeepsO.ofMO (by assumption) ?_ | refine Keeps.ofO (by assumption) ?_
    | dsimp (zeta := false) only
    | dsimp only

theorem keeps_fdbDelete {s t : State} (hk : Keeps s t) : Keeps s (fdbDelete t) := by
  unfold fdbDelete
  repeat' first
    | with_reducible first | assumption | apply keeps_meetAll | apply keeps_cmdEnd | apply keeps_tblWrite
    | with_reducible fail_if_no_progress (refine Keeps.same ?_ rfl rfl rfl)
    | ((try lift_lets); intro x; first | (refine (fun hx : Keeps s x => ?_) ?_; (on_goal 1 => clear_value x); (on_goal 2 => subst x)) | (have hf : ∀ a, x a = x a := fun _ => rfl; clear hf; subst x) | clear_value x | subst x)
    | split
    | with_reducible first | refine Keeps.ofPair (by assumption) ?_ | refine Keeps.ofPair2 (by assumption) ?_ | refine Keeps.ofM (by assumption) ?_ | refine Keeps.ofMP (by assumption) ?_ | refine KeepsO.ofMO (by assumption) ?_ | refine Keeps.ofO (by assumption) ?_
    | dsimp (zeta := false) only
    | dsimp only

theorem keeps_fdbFlush {s t : State} (hk : Keeps s t) : Keeps s (fdbFlush t) := by
  unfold fdbFlush
  repeat' first
    | with_reducible first | assumption | apply keeps_cmdEnd | apply keeps_set
    | with_reducible fail_if_no_progress (refine Keeps.same ?_ rfl rfl rfl)
    | ((try lift_lets); intro x; first | (refine (fun hx : Keeps s x => ?_) ?_; (on_goal 1 => clear_value x); (on_goal 2 => subst x)) | (have hf : ∀ a, x a = x a := fun _ => rfl; clear hf; subst x) | (have hf : (x : Fwd) = x := rfl; clear hf; subst x) | clear_value x | subst x)
    | with_reducible first | refine Keeps.ofPair (by assumption) ?_ | refine Keeps.ofPair2 (by assumption) ?_ | refine Keeps.ofM (by assumption) ?_ | refine Keeps.ofMP (by assumption) ?_ | refine KeepsO.ofMO (by assumption) ?_ | refine Keeps.ofO (by assumption) ?_

theorem keeps_fwdCmd (f : State → State) {s t : State} (hk : Keeps s t) (h_f : ∀ y, Keeps s y → Keeps s (f y)) : Keeps s (fwdCmd f t) := by
  unfold fwdCmd
  repeat' first
    | with_reducible first | assumption | apply keeps_set | apply h_f
    | with_reducible first | refine keeps_ite ?_ ?_ | refine keepsO_ite ?_ ?_
    | split

theorem keeps_execFwdWrite (a : Agent) {s t : State} (hk : Keeps s t) : KeepsO s (execFwdWrite a t) := by
  unfold execFwdWrite
  repeat' first
    | with_reducible first | assumption | apply KeepsO.next | apply KeepsO.fault | apply KeepsO.stay | apply keeps_access | apply keeps_fwdCmd | apply keeps_fwdWrite
    | with_reducible refine fun _ => ?_
    | beta_reduce

theorem keeps_execFwdRead (a : Agent) {s t : State} (hk : Keeps s t) : KeepsO s (execFwdRead a t) := by
  unfold execFwdRead
  repeat' first
    | with_reducible first | assumption | apply KeepsO.next | apply KeepsO.fault | apply KeepsO.stay | apply keeps_access | apply keeps_fwdCmd | apply keeps_fwdRead
    | with_reducible refine fun _ => ?_
    | beta_reduce

theorem keeps_execFdbInsert (a : Agent) {s t : State} (hk : Keeps s t) : KeepsO s (execFdbInsert a t) := by
  unfold execFdbInsert
  repeat' first
    | with_reducible first | assumption | apply KeepsO.next | apply KeepsO.fault | apply KeepsO.stay | apply keeps_access | apply keeps_fwdCmd | apply keeps_fdbInsert
    | with_reducible refine fun _ => ?_
    | beta_reduce

theorem keeps_execFdbDelete (a : Agent) {s t : State} (hk : Keeps s t) : KeepsO s (execFdbDelete a t) := by
  unfold execFdbDelete
  repeat' first
    | with_reducible first | assumption | apply KeepsO.next | apply KeepsO.fault | apply KeepsO.stay | apply keeps_access | apply keeps_fwdCmd | apply keeps_fdbDelete
    | with_reducible refine fun _ => ?_
    | beta_reduce

theorem keeps_execFdbFlush (a : Agent) {s t : State} (hk : Keeps s t) : KeepsO s (execFdbFlush a t) := by
  unfold execFdbFlush
  repeat' first
    | with_reducible first | assumption | apply KeepsO.next | apply KeepsO.fault | apply KeepsO.stay | apply keeps_access | apply keeps_fwdCmd | apply keeps_fdbFlush
    | with_reducible refine fun _ => ?_
    | beta_reduce

theorem keeps_execFdbFlushDone {s t : State} (hk : Keeps s t) : KeepsO s (execFdbFlushDone t) := by
  unfold execFdbFlushDone
  repeat' first
    | with_reducible first | assumption | apply keeps_meetAll | apply KeepsO.next | apply KeepsO.fault | apply KeepsO.stay | apply keeps_stay | apply keeps_tblWrite | apply keeps_set | apply keeps_foldl
    | with_reducible refine fun _ => ?_
    | with_reducible fail_if_no_progress (refine Keeps.same ?_ rfl rfl rfl)
    | ((try lift_lets); intro x; first | (refine (fun hx : Keeps s x => ?_) ?_; (on_goal 1 => clear_value x); (on_goal 2 => subst x)) | (have hf : ∀ a, x a = x a := fun _ => rfl; clear hf; subst x) | (have hf : (x : Fwd) = x := rfl; clear hf; subst x) | clear_value x | subst x)
    | with_reducible first | refine keeps_ite ?_ ?_ | refine keepsO_ite ?_ ?_
    | split
    | with_reducible first | refine Keeps.ofPair (by assumption) ?_ | refine Keeps.ofPair2 (by assumption) ?_ | refine Keeps.ofM (by assumption) ?_ | refine Keeps.ofMP (by assumption) ?_ | refine KeepsO.ofMO (by assumption) ?_ | refine Keeps.ofO (by assumption) ?_
    | beta_reduce
    | dsimp (zeta := false) only
    | dsimp only

theorem keeps_fwdCmdWrite (op : Nat) {s t : State} (hk : Keeps s t) : Keeps s (fwdCmdWrite op t) := by
  unfold fwdCmdWrite
  repeat' first
    | with_reducible first | assumption | apply keeps_fwdCmd | apply keeps_fwdWrite | apply keeps_fwdRead | apply keeps_fdbInsert | apply keeps_fdbDelete | apply keeps_fdbFlush
    | with_reducible refine fun _ => ?_
    | with_reducible fail_if_no_progress (refine Keeps.same ?_ rfl rfl rfl)
    | ((try lift_lets); intro x; first | (refine (fun hx : Keeps s x => ?_) ?_; (on_goal 1 => clear_value x); (on_goal 2 => subst x)) | (have hf : ∀ a, x a = x a := fun _ => rfl; clear hf; subst x) | clear_value x | subst x)
    | split
    | with_reducible first | refine Keeps.ofPair (by assumption) ?_ | refine Keeps.ofPair2 (by assumption) ?_ | refine Keeps.ofM (by assumption) ?_ | refine Keeps.ofMP (by assumption) ?_ | refine KeepsO.ofMO (by assumption) ?_ | refine Keeps.ofO (by assumption) ?_
    | beta_reduce
    | dsimp (zeta := false) only
    | dsimp only

theorem keeps_evtPop {s t : State} (hk : Keeps s t) : Keeps s (evtPop t).2 := by
  unfold evtPop
  repeat' first
    | with_reducible assumption
    | with_reducible fail_if_no_progress (refine Keeps.same ?_ rfl rfl rfl)
    | ((try lift_lets); intro x; first | (refine (fun hx : Keeps s x => ?_) ?_; (on_goal 1 => clear_value x); (on_goal 2 => subst x)) | (have hf : ∀ a, x a = x a := fun _ => rfl; clear hf; subst x) | (have hf : (x : Fwd) = x := rfl; clear hf; subst x) | clear_value x | subst x)

theorem keeps_execFwdEventRead (a : Agent) {s t : State} (hk : Keeps s t) : KeepsO s (execFwdEventRead a t) := by
  unfold execFwdEventRead
  repeat' first
    | with_reducible first | assumption | apply KeepsO.next | apply KeepsO.fault | apply KeepsO.stay | apply keeps_readRow | apply keeps_evtPop
    | with_reducible refine fun _ => ?_
    | beta_reduce

theorem keeps_execAuditSweepStart {s t : State} (hk : Keeps s t) : KeepsO s (execAuditSweepStart t) := by
  unfold execAuditSweepStart
  repeat' first
    | with_reducible first | assumption | apply KeepsO.next | apply KeepsO.fault | apply KeepsO.stay | apply keeps_stay | apply keeps_set
    | with_reducible fail_if_no_progress (refine Keeps.same ?_ rfl rfl rfl)
    | ((try lift_lets); intro x; first | (refine (fun hx : Keeps s x => ?_) ?_; (on_goal 1 => clear_value x); (on_goal 2 => subst x)) | (have hf : ∀ a, x a = x a := fun _ => rfl; clear hf; subst x) | (have hf : (x : Fwd) = x := rfl; clear hf; subst x) | clear_value x | subst x)
    | with_reducible first | refine keeps_ite ?_ ?_ | refine keepsO_ite ?_ ?_
    | split

theorem keeps_auditLine (o : Nat) {s t : State} (hk : Keeps s t) : Keeps s (auditLine o t) := by
  unfold auditLine
  repeat' first
    | with_reducible first | assumption | apply keeps_meetAll
    | with_reducible fail_if_no_progress (refine Keeps.same ?_ rfl rfl rfl)
    | ((try lift_lets); intro x; first | (refine (fun hx : Keeps s x => ?_) ?_; (on_goal 1 => clear_value x); (on_goal 2 => subst x)) | (have hf : ∀ a, x a = x a := fun _ => rfl; clear hf; subst x) | (have hf : (x : Fwd) = x := rfl; clear hf; subst x) | clear_value x | subst x)
    | with_reducible first | refine keeps_ite ?_ ?_ | refine keepsO_ite ?_ ?_
    | split

theorem keeps_execAuditLineCompare {s t : State} (hk : Keeps s t) : KeepsO s (execAuditLineCompare t) := by
  unfold execAuditLineCompare
  repeat' first
    | with_reducible first | assumption | apply KeepsO.next | apply KeepsO.fault | apply KeepsO.stay | apply keeps_stay | apply keeps_auditLine | apply keeps_bump
    | with_reducible fail_if_no_progress (refine Keeps.same ?_ rfl rfl rfl)
    | ((try lift_lets); intro x; first | (refine (fun hx : Keeps s x => ?_) ?_; (on_goal 1 => clear_value x); (on_goal 2 => subst x)) | (have hf : ∀ a, x a = x a := fun _ => rfl; clear hf; subst x) | (have hf : (x : Fwd) = x := rfl; clear hf; subst x) | clear_value x | subst x)
    | with_reducible first | refine keeps_ite ?_ ?_ | refine keepsO_ite ?_ ?_
    | split
    | with_reducible first | refine Keeps.ofPair (by assumption) ?_ | refine Keeps.ofPair2 (by assumption) ?_ | refine Keeps.ofM (by assumption) ?_ | refine Keeps.ofMP (by assumption) ?_ | refine KeepsO.ofMO (by assumption) ?_ | refine Keeps.ofO (by assumption) ?_
    | dsimp (zeta := false) only
    | dsimp only

theorem keeps_execAuditRecheck {s t : State} (hk : Keeps s t) : KeepsO s (execAuditRecheck t) := by
  unfold execAuditRecheck
  repeat' first
    | with_reducible first | assumption | apply keeps_meetAll | apply KeepsO.next | apply KeepsO.fault | apply KeepsO.stay | apply keeps_stay | apply keeps_cause | apply keeps_pushEvent
    | with_reducible fail_if_no_progress (refine Keeps.same ?_ rfl rfl rfl)
    | ((try lift_lets); intro x; first | (refine (fun hx : Keeps s x => ?_) ?_; (on_goal 1 => clear_value x); (on_goal 2 => subst x)) | (have hf : ∀ a, x a = x a := fun _ => rfl; clear hf; subst x) | (have hf : (x : Fwd) = x := rfl; clear hf; subst x) | clear_value x | subst x)
    | with_reducible first | refine keeps_ite ?_ ?_ | refine keepsO_ite ?_ ?_
    | split
    | with_reducible first | refine Keeps.ofPair (by assumption) ?_ | refine Keeps.ofPair2 (by assumption) ?_ | refine Keeps.ofM (by assumption) ?_ | refine Keeps.ofMP (by assumption) ?_ | refine KeepsO.ofMO (by assumption) ?_ | refine Keeps.ofO (by assumption) ?_
    | dsimp (zeta := false) only
    | dsimp only

theorem keeps_execAuditSweepEnd (late : Bool) {s t : State} (hk : Keeps s t) : KeepsO s (execAuditSweepEnd late t) := by
  unfold execAuditSweepEnd
  repeat' first
    | with_reducible first | assumption | apply KeepsO.next | apply KeepsO.fault | apply KeepsO.stay | apply keeps_stay | apply keeps_cause | apply keeps_set
    | with_reducible fail_if_no_progress (refine Keeps.same ?_ rfl rfl rfl)
    | ((try lift_lets); intro x; first | (refine (fun hx : Keeps s x => ?_) ?_; (on_goal 1 => clear_value x); (on_goal 2 => subst x)) | (have hf : ∀ a, x a = x a := fun _ => rfl; clear hf; subst x) | (have hf : (x : Fwd) = x := rfl; clear hf; subst x) | clear_value x | subst x)
    | with_reducible first | refine keeps_ite ?_ ?_ | refine keepsO_ite ?_ ?_
    | split

theorem keeps_tableEntry (o : Nat) (body : List Byte) {s t : State} (hk : Keeps s t) : Keeps s (tableEntry o body t) := by
  unfold tableEntry
  repeat' first
    | with_reducible first | assumption | apply keeps_tblWrite

end Sys2Proof.Machine
end

