-- ==== Sys2Proof/Laws/KeepsPools.lean ====
section
/-!
SUPPORT. What Machine/Pools.lean keeps (Laws/Keeps.lean).
-/
namespace Sys2Proof.Machine
set_option linter.unusedTactic false
set_option linter.unreachableTactic false
set_option linter.unusedVariables false

theorem keeps_setTag (k v : Nat) {s t : State} (hk : Keeps s t) : Keeps s (setTag k v t) := by
  unfold setTag
  repeat' first
    | with_reducible assumption
    | with_reducible refine fun _ => ?_
    | with_reducible fail_if_no_progress (refine Keeps.same ?_ rfl rfl rfl)
    | ((try lift_lets); intro x; first | (refine (fun hx : Keeps s x => ?_) ?_; (on_goal 1 => clear_value x); (on_goal 2 => subst x)) | (have hf : ∀ a, x a = x a := fun _ => rfl; clear hf; subst x) | clear_value x | subst x)
    | beta_reduce

theorem keeps_poolEval (i : Nat) {s t : State} (hk : Keeps s t) : Keeps s (poolEval i t) := by
  unfold poolEval
  repeat' first
    | with_reducible first | assumption | apply keeps_set | apply keeps_cause
    | ((try lift_lets); intro x; first | (refine (fun hx : Keeps s x => ?_) ?_; (on_goal 1 => clear_value x); (on_goal 2 => subst x)) | (have hf : ∀ a, x a = x a := fun _ => rfl; clear hf; subst x) | clear_value x | subst x)
    | with_reducible first | refine keeps_ite ?_ ?_ | refine keepsO_ite ?_ ?_
    | split

theorem keeps_poolLevels (i : Nat) {s t : State} (hk : Keeps s t) : Keeps s (poolLevels i t) := by
  unfold poolLevels
  repeat' first
    | with_reducible first | assumption | apply keeps_set

theorem keeps_setCache (i : Nat) (l : List Nat) {s t : State} (hk : Keeps s t) : Keeps s (setCache i l t) := by
  unfold setCache
  repeat' first
    | with_reducible assumption
    | with_reducible refine fun _ => ?_
    | with_reducible fail_if_no_progress (refine Keeps.same ?_ rfl rfl rfl)
    | ((try lift_lets); intro x; first | (refine (fun hx : Keeps s x => ?_) ?_; (on_goal 1 => clear_value x); (on_goal 2 => subst x)) | (have hf : ∀ a, x a = x a := fun _ => rfl; clear hf; subst x) | clear_value x | subst x)
    | beta_reduce

theorem keeps_setSpilled (i : Nat) (l : List Nat) {s t : State} (hk : Keeps s t) : Keeps s (setSpilled i l t) := by
  unfold setSpilled
  repeat' first
    | with_reducible assumption
    | with_reducible refine fun _ => ?_
    | with_reducible fail_if_no_progress (refine Keeps.same ?_ rfl rfl rfl)
    | ((try lift_lets); intro x; first | (refine (fun hx : Keeps s x => ?_) ?_; (on_goal 1 => clear_value x); (on_goal 2 => subst x)) | (have hf : ∀ a, x a = x a := fun _ => rfl; clear hf; subst x) | clear_value x | subst x)
    | beta_reduce

theorem keeps_ringTake (i : Nat) {s t : State} (hk : Keeps s t) : Keeps s (ringTake i t) := by
  unfold ringTake
  repeat' first
    | with_reducible first | assumption | apply keeps_draw | apply keeps_setCache | apply keeps_setSpilled
    | with_reducible fail_if_no_progress (refine Keeps.same ?_ rfl rfl rfl)
    | ((try lift_lets); intro x; first | (refine (fun hx : Keeps s x => ?_) ?_; (on_goal 1 => clear_value x); (on_goal 2 => subst x)) | (have hf : ∀ a, x a = x a := fun _ => rfl; clear hf; subst x) | clear_value x | subst x)
    | split
    | with_reducible first | refine Keeps.ofPair (by assumption) ?_ | refine Keeps.ofPair2 (by assumption) ?_ | refine Keeps.ofM (by assumption) ?_ | refine Keeps.ofMP (by assumption) ?_ | refine KeepsO.ofMO (by assumption) ?_ | refine Keeps.ofO (by assumption) ?_
    | dsimp (zeta := false) only
    | dsimp only

theorem keeps_ringRefill (i : Nat) (x0 : Nat) {s t : State} (hk : Keeps s t) : Keeps s (ringRefill i x0 t) := by
  induction x0 generalizing i t with
  | zero =>
    simp only [ringRefill]
    repeat' first
      | with_reducible apply ih
      | with_reducible first | assumption | apply keeps_ringTake
      | split
  | succ n ih =>
    simp only [ringRefill]
    repeat' first
      | with_reducible apply ih
      | with_reducible first | assumption | apply keeps_ringTake
      | split

theorem keeps_chargeBuf (o i idx tag : Nat) {s t : State} (hk : Keeps s t) : Keeps s (chargeBuf o i idx tag t) := by
  unfold chargeBuf
  repeat' first
    | with_reducible first | assumption | apply keeps_setTag | apply keeps_set | apply keeps_poolEval
    | ((try lift_lets); intro x; first | (refine (fun hx : Keeps s x => ?_) ?_; (on_goal 1 => clear_value x); (on_goal 2 => subst x)) | (have hf : ∀ a, x a = x a := fun _ => rfl; clear hf; subst x) | clear_value x | subst x)

theorem keeps_pickBuf (i : Nat) {s t : State} (hk : Keeps s t) : Keeps s (pickBuf i t).2 := by
  unfold pickBuf
  repeat' first
    | with_reducible first | assumption | apply keeps_ringRefill | apply keeps_setCache
    | with_reducible refine fun _ => ?_
    | with_reducible fail_if_no_progress (refine Keeps.same ?_ rfl rfl rfl)
    | ((try lift_lets); intro x; first | (refine (fun hx : Keeps s x => ?_) ?_; (on_goal 1 => clear_value x); (on_goal 2 => subst x)) | (have hf : ∀ a, x a = x a := fun _ => rfl; clear hf; subst x) | clear_value x | subst x)
    | with_reducible first | refine keeps_ite ?_ ?_ | refine keepsO_ite ?_ ?_ | refine keepsP_ite ?_ ?_
    | split
    | with_reducible first | refine Keeps.ofPair (by assumption) ?_ | refine Keeps.ofPair2 (by assumption) ?_ | refine Keeps.ofM (by assumption) ?_ | refine Keeps.ofMP (by assumption) ?_ | refine KeepsO.ofMO (by assumption) ?_ | refine Keeps.ofO (by assumption) ?_
    | beta_reduce
    | dsimp (zeta := false) only
    | dsimp only

theorem keeps_grantBuf (o i : Nat) {s t : State} (hk : Keeps s t) : Keeps s (grantBuf o i t).2 := by
  unfold grantBuf
  repeat' first
    | with_reducible first | assumption | apply keeps_pickBuf | apply keeps_chargeBuf
    | ((try lift_lets); intro x; first | (refine (fun hx : Keeps s x => ?_) ?_; (on_goal 1 => clear_value x); (on_goal 2 => subst x)) | (have hf : ∀ a, x a = x a := fun _ => rfl; clear hf; subst x) | clear_value x | subst x)
    | split
    | with_reducible first | refine Keeps.ofPair (by assumption) ?_ | refine Keeps.ofPair2 (by assumption) ?_ | refine Keeps.ofM (by assumption) ?_ | refine Keeps.ofMP (by assumption) ?_ | refine KeepsO.ofMO (by assumption) ?_ | refine Keeps.ofO (by assumption) ?_
    | dsimp (zeta := false) only
    | dsimp only

theorem keeps_countFail (i : Nat) {s t : State} (hk : Keeps s t) : Keeps s (countFail i t) := by
  unfold countFail
  repeat' first
    | with_reducible first | assumption | apply keeps_cause | apply keeps_bump

theorem keeps_requestBuf (o len : Nat) (esc : Bool) (extra : Nat → Bool) {s t : State} (hk : Keeps s t) : Keeps s (requestBuf o len esc extra t).2.2 := by
  unfold requestBuf
  repeat' first
    | with_reducible first | assumption | apply keeps_grantBuf | apply keeps_countFail
    | with_reducible fail_if_no_progress (refine Keeps.same ?_ rfl rfl rfl)
    | ((try lift_lets); intro x; first | (refine (fun hx : Keeps s x => ?_) ?_; (on_goal 1 => clear_value x); (on_goal 2 => subst x)) | (have hf : ∀ a, x a = x a := fun _ => rfl; clear hf; subst x) | clear_value x | subst x)
    | split
    | with_reducible first | refine Keeps.ofPair (by assumption) ?_ | refine Keeps.ofPair2 (by assumption) ?_ | refine Keeps.ofM (by assumption) ?_ | refine Keeps.ofMP (by assumption) ?_ | refine KeepsO.ofMO (by assumption) ?_ | refine Keeps.ofO (by assumption) ?_
    | dsimp (zeta := false) only
    | dsimp only

theorem keeps_badFree {s t : State} (hk : Keeps s t) : Keeps s (badFree t) := by
  unfold badFree
  repeat' first
    | with_reducible first | assumption | apply keeps_cause | apply keeps_bump

theorem keeps_cachePush (i idx : Nat) {s t : State} (hk : Keeps s t) : Keeps s (cachePush i idx t) := by
  unfold cachePush
  repeat' first
    | with_reducible first | assumption | apply keeps_setCache | apply keeps_setSpilled
    | ((try lift_lets); intro x; first | (refine (fun hx : Keeps s x => ?_) ?_; (on_goal 1 => clear_value x); (on_goal 2 => subst x)) | (have hf : ∀ a, x a = x a := fun _ => rfl; clear hf; subst x) | clear_value x | subst x)
    | with_reducible first | refine keeps_ite ?_ ?_ | refine keepsO_ite ?_ ?_
    | split

theorem keeps_setThreadKept (k o : Nat) {s t : State} (hk : Keeps s t) : Keeps s (setThreadKept k o t) := by
  unfold setThreadKept
  repeat' first
    | with_reducible first | assumption
    | with_reducible refine fun _ => ?_
    | with_reducible fail_if_no_progress (refine Keeps.same ?_ rfl rfl rfl)
    | ((try lift_lets); intro x; first | (refine (fun hx : Keeps s x => ?_) ?_; (on_goal 1 => clear_value x); (on_goal 2 => subst x)) | (have hf : ∀ a, x a = x a := fun _ => rfl; clear hf; subst x) | clear_value x | subst x)
    | with_reducible first | refine keeps_ite ?_ ?_ | refine keepsO_ite ?_ ?_ | refine keepsP_ite ?_ ?_
    | split
    | with_reducible first | refine Keeps.ofPair (by assumption) ?_ | refine Keeps.ofPair2 (by assumption) ?_ | refine Keeps.ofM (by assumption) ?_ | refine Keeps.ofMP (by assumption) ?_ | refine KeepsO.ofMO (by assumption) ?_ | refine Keeps.ofO (by assumption) ?_
    | beta_reduce
    | dsimp (zeta := false) only
    | dsimp only

theorem keeps_quarantine (k : Nat) {s t : State} (hk : Keeps s t) : Keeps s (quarantine k t) := by
  unfold quarantine
  repeat' first
    | with_reducible first | assumption | apply keeps_setTag | apply keeps_cause | apply keeps_set
    | with_reducible refine fun _ => ?_
    | with_reducible fail_if_no_progress (refine Keeps.same ?_ rfl rfl rfl)
    | ((try lift_lets); intro x; first | (refine (fun hx : Keeps s x => ?_) ?_; (on_goal 1 => clear_value x); (on_goal 2 => subst x)) | (have hf : ∀ a, x a = x a := fun _ => rfl; clear hf; subst x) | clear_value x | subst x)
    | beta_reduce

theorem keeps_releaseBuf (owner k : Nat) {s t : State} (hk : Keeps s t) : Keeps s (releaseBuf owner k t) := by
  unfold releaseBuf
  repeat' first
    | with_reducible first | assumption | apply keeps_setThreadKept | apply keeps_set | apply keeps_poolEval | apply keeps_quarantine | apply keeps_setTag | apply keeps_cachePush
    | with_reducible refine fun _ => ?_
    | ((try lift_lets); intro x; first | (refine (fun hx : Keeps s x => ?_) ?_; (on_goal 1 => clear_value x); (on_goal 2 => subst x)) | (have hf : ∀ a, x a = x a := fun _ => rfl; clear hf; subst x) | clear_value x | subst x)
    | with_reducible first | refine keeps_ite ?_ ?_ | refine keepsO_ite ?_ ?_
    | split
    | beta_reduce

theorem keeps_freeBuf (h : Nat) {s t : State} (hk : Keeps s t) : Keeps s (freeBuf h t) := by
  unfold freeBuf
  repeat' first
    | with_reducible first | assumption | apply keeps_badFree | apply keeps_markFreed | apply keeps_releaseBuf
    | with_reducible first | refine keeps_ite ?_ ?_ | refine keepsO_ite ?_ ?_
    | split

theorem keeps_markBuf (k : Nat) {s t : State} (hk : Keeps s t) : Keeps s (markBuf k t) := by
  unfold markBuf
  repeat' first
    | with_reducible first | assumption | apply keeps_setCache | apply keeps_setSpilled | apply keeps_poolEval | apply keeps_quarantine | apply keeps_set
    | with_reducible refine fun _ => ?_
    | with_reducible fail_if_no_progress (refine Keeps.same ?_ rfl rfl rfl)
    | ((try lift_lets); intro x; first | (refine (fun hx : Keeps s x => ?_) ?_; (on_goal 1 => clear_value x); (on_goal 2 => subst x)) | (have hf : ∀ a, x a = x a := fun _ => rfl; clear hf; subst x) | clear_value x | subst x)
    | with_reducible first | refine keeps_ite ?_ ?_ | refine keepsO_ite ?_ ?_
    | split
    | beta_reduce

theorem keeps_loanBuf (i idx : Nat) {s t : State} (hk : Keeps s t) : KeepsM s (loanBuf i idx t) := by
  unfold loanBuf
  repeat' first
    | with_reducible first | assumption | apply KeepsM.some | apply KeepsM.none | apply keeps_chargeBuf | apply keeps_set
    | ((try lift_lets); intro x; first | (refine (fun hx : Keeps s x => ?_) ?_; (on_goal 1 => clear_value x); (on_goal 2 => subst x)) | (have hf : ∀ a, x a = x a := fun _ => rfl; clear hf; subst x) | clear_value x | subst x)
    | with_reducible first | refine keeps_ite ?_ ?_ | refine keepsO_ite ?_ ?_
    | split
    | with_reducible first | refine Keeps.ofPair (by assumption) ?_ | refine Keeps.ofPair2 (by assumption) ?_ | refine Keeps.ofM (by assumption) ?_ | refine Keeps.ofMP (by assumption) ?_ | refine KeepsO.ofMO (by assumption) ?_ | refine Keeps.ofO (by assumption) ?_

theorem keeps_loanReturn (k : Nat) {s t : State} (hk : Keeps s t) : Keeps s (loanReturn k t) := by
  unfold loanReturn
  repeat' first
    | with_reducible first | assumption | apply keeps_releaseBuf | apply keeps_set
    | ((try lift_lets); intro x; first | (refine (fun hx : Keeps s x => ?_) ?_; (on_goal 1 => clear_value x); (on_goal 2 => subst x)) | (have hf : ∀ a, x a = x a := fun _ => rfl; clear hf; subst x) | clear_value x | subst x)

theorem keeps_answerBuf (a : BufAns) {s t : State} (hk : Keeps s t) : Keeps s (answerBuf a t) := by
  unfold answerBuf
  repeat' first
    | with_reducible assumption
    | with_reducible fail_if_no_progress (refine Keeps.same ?_ rfl rfl rfl)
    | ((try lift_lets); intro x; first | (refine (fun hx : Keeps s x => ?_) ?_; (on_goal 1 => clear_value x); (on_goal 2 => subst x)) | (have hf : ∀ a, x a = x a := fun _ => rfl; clear hf; subst x) | clear_value x | subst x)

theorem keeps_serveBuf (q : BufReq) {s t : State} (hk : Keeps s t) : Keeps s (serveBuf q t) := by
  unfold serveBuf
  repeat' first
    | with_reducible first | assumption | apply keeps_grantBuf | apply keeps_answerBuf | apply keeps_countFail
    | with_reducible refine fun _ => ?_
    | with_reducible fail_if_no_progress (refine Keeps.same ?_ rfl rfl rfl)
    | ((try lift_lets); intro x; first | (refine (fun hx : Keeps s x => ?_) ?_; (on_goal 1 => clear_value x); (on_goal 2 => subst x)) | (have hf : ∀ a, x a = x a := fun _ => rfl; clear hf; subst x) | clear_value x | subst x)
    | with_reducible first | refine keeps_ite ?_ ?_ | refine keepsO_ite ?_ ?_
    | split
    | with_reducible first | refine Keeps.ofPair (by assumption) ?_ | refine Keeps.ofPair2 (by assumption) ?_ | refine Keeps.ofM (by assumption) ?_ | refine Keeps.ofMP (by assumption) ?_ | refine KeepsO.ofMO (by assumption) ?_ | refine Keeps.ofO (by assumption) ?_
    | beta_reduce
    | dsimp (zeta := false) only
    | dsimp only

theorem keeps_execBufferRequest (owner len : Nat) (esc : Bool) {s t : State} (hk : Keeps s t) : KeepsO s (execBufferRequest owner len esc t) := by
  unfold execBufferRequest
  repeat' first
    | with_reducible first | assumption | apply KeepsO.next | apply KeepsO.fault | apply KeepsO.stay | apply keeps_stay | apply keeps_serveBuf
    | with_reducible first | refine keeps_ite ?_ ?_ | refine keepsO_ite ?_ ?_
    | split

theorem keeps_execBufferWaitGrant (owner : Nat) {s t : State} (hk : Keeps s t) : KeepsO s (execBufferWaitGrant owner t) := by
  unfold execBufferWaitGrant
  repeat' first
    | with_reducible first | assumption | apply KeepsO.next | apply KeepsO.fault | apply KeepsO.stay | apply keeps_stay | apply keeps_grantBuf | apply keeps_answerBuf
    | with_reducible refine fun _ => ?_
    | with_reducible fail_if_no_progress (refine Keeps.same ?_ rfl rfl rfl)
    | ((try lift_lets); intro x; first | (refine (fun hx : Keeps s x => ?_) ?_; (on_goal 1 => clear_value x); (on_goal 2 => subst x)) | (have hf : ∀ a, x a = x a := fun _ => rfl; clear hf; subst x) | clear_value x | subst x)
    | with_reducible first | refine keeps_ite ?_ ?_ | refine keepsO_ite ?_ ?_
    | split
    | with_reducible first | refine Keeps.ofPair (by assumption) ?_ | refine Keeps.ofPair2 (by assumption) ?_ | refine Keeps.ofM (by assumption) ?_ | refine Keeps.ofMP (by assumption) ?_ | refine KeepsO.ofMO (by assumption) ?_ | refine Keeps.ofO (by assumption) ?_
    | beta_reduce
    | dsimp (zeta := false) only
    | dsimp only

theorem keeps_execCacheRefillDone (pool : Nat) {s t : State} (hk : Keeps s t) : KeepsO s (execCacheRefillDone pool t) := by
  unfold execCacheRefillDone
  repeat' first
    | with_reducible first | assumption | apply KeepsO.next | apply KeepsO.fault | apply KeepsO.stay | apply keeps_stay | apply keeps_serveBuf | apply keeps_ringRefill | apply keeps_foldl
    | with_reducible refine fun _ => ?_
    | with_reducible fail_if_no_progress (refine Keeps.same ?_ rfl rfl rfl)
    | ((try lift_lets); intro x; first | (refine (fun hx : Keeps s x => ?_) ?_; (on_goal 1 => clear_value x); (on_goal 2 => subst x)) | (have hf : ∀ a, x a = x a := fun _ => rfl; clear hf; subst x) | clear_value x | subst x)
    | with_reducible first | refine keeps_ite ?_ ?_ | refine keepsO_ite ?_ ?_
    | split
    | beta_reduce

theorem keeps_execBufferFree (handle : Nat) {s t : State} (hk : Keeps s t) : KeepsO s (execBufferFree handle t) := by
  unfold execBufferFree
  repeat' first
    | with_reducible first | assumption | apply KeepsO.next | apply KeepsO.fault | apply KeepsO.stay | apply keeps_stay | apply keeps_freeBuf
    | with_reducible first | refine keeps_ite ?_ ?_ | refine keepsO_ite ?_ ?_
    | split

end Sys2Proof.Machine
end

