-- ==== Sys2Proof/Laws/KeepsPrs.lean ====
section
/-!
SUPPORT. What Machine/Prs.lean keeps (Laws/Keeps.lean).
-/
namespace Sys2Proof.Machine
set_option linter.unusedTactic false
set_option linter.unreachableTactic false
set_option linter.unusedVariables false

theorem keeps_countParse (p : Parsed) {s t : State} (hk : Keeps s t) : Keeps s (countParse p t) := by
  unfold countParse
  repeat' first
    | with_reducible first | assumption | apply keeps_cause | apply keeps_bump
    | ((try lift_lets); intro x; first | (refine (fun hx : Keeps s x => ?_) ?_; (on_goal 1 => clear_value x); (on_goal 2 => subst x)) | (have hf : ∀ a, x a = x a := fun _ => rfl; clear hf; subst x) | clear_value x | subst x)
    | with_reducible first | refine keeps_ite ?_ ?_ | refine keepsO_ite ?_ ?_
    | split

theorem keeps_classify (port : Nat) (p : Parsed) {s t : State} (hk : Keeps s t) : Keeps s (classify port p t).2 := by
  unfold classify
  repeat' first
    | with_reducible first | assumption | apply keeps_draw | apply keeps_countParse | apply keeps_meetAll | apply keeps_bump | apply keeps_cause | apply keeps_foldl
    | with_reducible refine fun _ => ?_
    | ((try lift_lets); intro x; first | (refine (fun hx : Keeps s x => ?_) ?_; (on_goal 1 => clear_value x); (on_goal 2 => subst x)) | (have hf : ∀ a, x a = x a := fun _ => rfl; clear hf; subst x) | clear_value x | subst x)
    | with_reducible first | refine keeps_ite ?_ ?_ | refine keepsO_ite ?_ ?_ | refine keepsP_ite ?_ ?_
    | split
    | with_reducible first | refine Keeps.ofPair (by assumption) ?_ | refine Keeps.ofPair2 (by assumption) ?_ | refine Keeps.ofM (by assumption) ?_ | refine Keeps.ofMP (by assumption) ?_ | refine KeepsO.ofMO (by assumption) ?_ | refine Keeps.ofO (by assumption) ?_
    | beta_reduce
    | dsimp (zeta := false) only
    | dsimp only

theorem keeps_ruleLost {s t : State} (hk : Keeps s t) : Keeps s (ruleLost t) := by
  unfold ruleLost
  repeat' first
    | with_reducible first | assumption | apply keeps_cause | apply keeps_set

theorem keeps_ruleStart (idx : Nat) (body : List Byte) {s t : State} (hk : Keeps s t) : Keeps s (ruleStart idx body t) := by
  unfold ruleStart
  repeat' first
    | with_reducible first | assumption | apply keeps_set
    | with_reducible fail_if_no_progress (refine Keeps.same ?_ rfl rfl rfl)
    | ((try lift_lets); intro x; first | (refine (fun hx : Keeps s x => ?_) ?_; (on_goal 1 => clear_value x); (on_goal 2 => subst x)) | (have hf : ∀ a, x a = x a := fun _ => rfl; clear hf; subst x) | clear_value x | subst x)
    | with_reducible first | refine Keeps.ofPair (by assumption) ?_ | refine Keeps.ofPair2 (by assumption) ?_ | refine Keeps.ofM (by assumption) ?_ | refine Keeps.ofMP (by assumption) ?_ | refine KeepsO.ofMO (by assumption) ?_ | refine Keeps.ofO (by assumption) ?_

theorem keeps_rcmdWrite (v : Word) {s t : State} (hk : Keeps s t) : Keeps s (rcmdWrite v t) := by
  unfold rcmdWrite
  repeat' first
    | with_reducible first | assumption | apply keeps_ruleLost | apply keeps_ruleStart
    | with_reducible fail_if_no_progress (refine Keeps.same ?_ rfl rfl rfl)
    | ((try lift_lets); intro x; first | (refine (fun hx : Keeps s x => ?_) ?_; (on_goal 1 => clear_value x); (on_goal 2 => subst x)) | (have hf : ∀ a, x a = x a := fun _ => rfl; clear hf; subst x) | clear_value x | subst x)
    | with_reducible first | refine keeps_ite ?_ ?_ | refine keepsO_ite ?_ ?_
    | split
    | with_reducible first | refine Keeps.ofPair (by assumption) ?_ | refine Keeps.ofPair2 (by assumption) ?_ | refine Keeps.ofM (by assumption) ?_ | refine Keeps.ofMP (by assumption) ?_ | refine KeepsO.ofMO (by assumption) ?_ | refine Keeps.ofO (by assumption) ?_
    | dsimp (zeta := false) only
    | dsimp only

theorem keeps_execRuleWrite (a : Agent) (v : Word) {s t : State} (hk : Keeps s t) : KeepsO s (execRuleWrite a v t) := by
  unfold execRuleWrite
  repeat' first
    | with_reducible first | assumption | apply keeps_unpredBlock | apply KeepsO.next | apply KeepsO.fault | apply KeepsO.stay | apply keeps_stay | apply keeps_access | apply keeps_rcmdWrite
    | with_reducible refine fun _ => ?_
    | with_reducible first | refine keeps_ite ?_ ?_ | refine keepsO_ite ?_ ?_
    | split
    | beta_reduce

theorem keeps_execRuleInvalidate (a : Agent) (v : Word) {s t : State} (hk : Keeps s t) : KeepsO s (execRuleInvalidate a v t) := by
  unfold execRuleInvalidate
  repeat' first
    | with_reducible first | assumption | apply KeepsO.next | apply KeepsO.fault | apply KeepsO.stay | apply keeps_stay | apply keeps_access | apply keeps_rcmdWrite
    | with_reducible refine fun _ => ?_
    | with_reducible first | refine keeps_ite ?_ ?_ | refine keepsO_ite ?_ ?_
    | split
    | beta_reduce

theorem keeps_execRuleCmdDone {s t : State} (hk : Keeps s t) : KeepsO s (execRuleCmdDone t) := by
  unfold execRuleCmdDone
  repeat' first
    | with_reducible first | assumption | apply KeepsO.next | apply KeepsO.fault | apply KeepsO.stay | apply keeps_stay | apply keeps_tblWrite | apply keeps_cause | apply keeps_wr | apply keeps_set
    | with_reducible fail_if_no_progress (refine Keeps.same ?_ rfl rfl rfl)
    | ((try lift_lets); intro x; first | (refine (fun hx : Keeps s x => ?_) ?_; (on_goal 1 => clear_value x); (on_goal 2 => subst x)) | (have hf : ∀ a, x a = x a := fun _ => rfl; clear hf; subst x) | clear_value x | subst x)
    | split
    | with_reducible first | refine Keeps.ofPair (by assumption) ?_ | refine Keeps.ofPair2 (by assumption) ?_ | refine Keeps.ofM (by assumption) ?_ | refine Keeps.ofMP (by assumption) ?_ | refine KeepsO.ofMO (by assumption) ?_ | refine Keeps.ofO (by assumption) ?_
    | dsimp (zeta := false) only
    | dsimp only

theorem keeps_execGroupEnableWrite (a : Agent) (v : Word) {s t : State} (hk : Keeps s t) : KeepsO s (execGroupEnableWrite a v t) := by
  unfold execGroupEnableWrite
  repeat' first
    | with_reducible first | assumption | apply KeepsO.next | apply KeepsO.fault | apply KeepsO.stay | apply keeps_access | apply keeps_wr
    | with_reducible refine fun _ => ?_
    | beta_reduce

end Sys2Proof.Machine
end

