-- ==== Sys2Proof/Laws/KeepsEgress.lean ====
section
/-!
SUPPORT. What Machine/Egress.lean keeps (Laws/Keeps.lean).
-/
namespace Sys2Proof.Machine
set_option linter.unusedTactic false
set_option linter.unreachableTactic false
set_option linter.unusedVariables false

theorem keeps_plcaShow {s t : State} (hk : Keeps s t) : Keeps s (plcaShow t) := by
  unfold plcaShow
  repeat' first
    | with_reducible first | assumption | apply keeps_set
    | with_reducible refine fun _ => ?_
    | with_reducible fail_if_no_progress (refine Keeps.same ?_ rfl rfl rfl)
    | ((try lift_lets); intro x; first | (refine (fun hx : Keeps s x => ?_) ?_; (on_goal 1 => clear_value x); (on_goal 2 => subst x)) | (have hf : ∀ a, x a = x a := fun _ => rfl; clear hf; subst x) | clear_value x | subst x)
    | with_reducible first | refine keeps_ite ?_ ?_ | refine keepsO_ite ?_ ?_ | refine keepsP_ite ?_ ?_
    | split
    | with_reducible first | refine Keeps.ofPair (by assumption) ?_ | refine Keeps.ofPair2 (by assumption) ?_ | refine Keeps.ofM (by assumption) ?_ | refine Keeps.ofMP (by assumption) ?_ | refine KeepsO.ofMO (by assumption) ?_ | refine Keeps.ofO (by assumption) ?_
    | beta_reduce
    | dsimp (zeta := false) only
    | dsimp only

theorem keeps_linkDown (p : Nat) {s t : State} (hk : Keeps s t) : Keeps s (linkDown p t) := by
  unfold linkDown
  repeat' first
    | with_reducible first | assumption | apply keeps_plcaShow | apply keeps_cause | apply keeps_set
    | with_reducible first | refine keeps_ite ?_ ?_ | refine keepsO_ite ?_ ?_
    | split

theorem keeps_execLinkDown (p : Nat) {s t : State} (hk : Keeps s t) : KeepsO s (execLinkDown p t) := by
  unfold execLinkDown
  repeat' first
    | with_reducible first | assumption | apply KeepsO.next | apply KeepsO.fault | apply KeepsO.stay | apply keeps_stay | apply keeps_linkDown
    | with_reducible first | refine keeps_ite ?_ ?_ | refine keepsO_ite ?_ ?_
    | split

theorem keeps_linkGood (p speed : Nat) {s t : State} (hk : Keeps s t) : Keeps s (linkGood p speed t) := by
  unfold linkGood
  repeat' first
    | with_reducible first | assumption | apply keeps_plcaShow | apply keeps_linkDown | apply keeps_set | apply keeps_setPort | apply keeps_cause
    | with_reducible fail_if_no_progress (refine Keeps.same ?_ rfl rfl rfl)
    | ((try lift_lets); intro x; first | (refine (fun hx : Keeps s x => ?_) ?_; (on_goal 1 => clear_value x); (on_goal 2 => subst x)) | (have hf : ∀ a, x a = x a := fun _ => rfl; clear hf; subst x) | clear_value x | subst x)
    | with_reducible first | refine keeps_ite ?_ ?_ | refine keepsO_ite ?_ ?_
    | split

theorem keeps_execLinkUp (p speed : Nat) {s t : State} (hk : Keeps s t) : KeepsO s (execLinkUp p speed t) := by
  unfold execLinkUp
  repeat' first
    | with_reducible first | assumption | apply KeepsO.next | apply KeepsO.fault | apply KeepsO.stay | apply keeps_stay | apply keeps_linkGood
    | with_reducible first | refine keeps_ite ?_ ?_ | refine keepsO_ite ?_ ?_
    | split

theorem keeps_prtCfgWrite (p : Nat) (v : Word) {s t : State} (hk : Keeps s t) : Keeps s (prtCfgWrite p v t) := by
  unfold prtCfgWrite
  repeat' first
    | with_reducible first | assumption | apply keeps_plcaShow | apply keeps_wr | apply keeps_linkDown | apply keeps_set
    | ((try lift_lets); intro x; first | (refine (fun hx : Keeps s x => ?_) ?_; (on_goal 1 => clear_value x); (on_goal 2 => subst x)) | (have hf : ∀ a, x a = x a := fun _ => rfl; clear hf; subst x) | clear_value x | subst x)
    | with_reducible first | refine keeps_ite ?_ ?_ | refine keepsO_ite ?_ ?_
    | split

theorem keeps_creditNow (p : Nat) {s t : State} (hk : Keeps s t) : Keeps s (creditNow p t) := by
  unfold creditNow
  repeat' first
    | with_reducible first | assumption | apply keeps_setPort | apply keeps_foldl
    | with_reducible refine fun _ => ?_
    | with_reducible fail_if_no_progress (refine Keeps.same ?_ rfl rfl rfl)
    | ((try lift_lets); intro x; first | (refine (fun hx : Keeps s x => ?_) ?_; (on_goal 1 => clear_value x); (on_goal 2 => subst x)) | (have hf : ∀ a, x a = x a := fun _ => rfl; clear hf; subst x) | clear_value x | subst x)
    | with_reducible first | refine keeps_ite ?_ ?_ | refine keepsO_ite ?_ ?_
    | split
    | beta_reduce

theorem keeps_tasShow (p : Nat) {s t : State} (hk : Keeps s t) : Keeps s (tasShow p t) := by
  unfold tasShow
  repeat' first
    | with_reducible first | assumption | apply keeps_set
    | ((try lift_lets); intro x; first | (refine (fun hx : Keeps s x => ?_) ?_; (on_goal 1 => clear_value x); (on_goal 2 => subst x)) | (have hf : ∀ a, x a = x a := fun _ => rfl; clear hf; subst x) | clear_value x | subst x)

theorem keeps_tasOperShow (p : Nat) {s t : State} (hk : Keeps s t) : Keeps s (tasOperShow p t) := by
  unfold tasOperShow
  repeat' first
    | with_reducible first | assumption | apply keeps_wr | apply keeps_foldl
    | with_reducible refine fun _ => ?_
    | with_reducible fail_if_no_progress (refine Keeps.same ?_ rfl rfl rfl)
    | ((try lift_lets); intro x; first | (refine (fun hx : Keeps s x => ?_) ?_; (on_goal 1 => clear_value x); (on_goal 2 => subst x)) | (have hf : ∀ a, x a = x a := fun _ => rfl; clear hf; subst x) | clear_value x | subst x)
    | split
    | with_reducible first | refine Keeps.ofPair (by assumption) ?_ | refine Keeps.ofPair2 (by assumption) ?_ | refine Keeps.ofM (by assumption) ?_ | refine Keeps.ofMP (by assumption) ?_ | refine KeepsO.ofMO (by assumption) ?_ | refine Keeps.ofO (by assumption) ?_
    | beta_reduce
    | dsimp (zeta := false) only
    | dsimp only

theorem keeps_gateIntervals (l : List (Nat × Nat)) {s t : State} (hk : Keeps s t) : Keeps s (gateIntervals l t).2 := by
  induction l generalizing t with
  | nil => exact hk
  | cons e es ih =>
    obtain ⟨g, d⟩ := e
    simp only [gateIntervals]
    refine ih ?_
    split
    · exact keeps_draw _ hk
    · exact hk

theorem keeps_tasCtlWrite (p : Nat) (v : Word) {s t : State} (hk : Keeps s t) : Keeps s (tasCtlWrite p v t) := by
  have h0 := keeps_wr (R.PRT_TAS_CTL p) (v &&& 1) (keeps_creditNow p hk)
  have h1 := keeps_gateIntervals (tasAdmin ((creditNow p t).wr (R.PRT_TAS_CTL p) (v &&& 1)) p).entries h0
  unfold tasCtlWrite
  refine keeps_ite h0 ?_
  exact keeps_tasShow _ (keeps_wr64 _ _ (keeps_setPort _ _ h1))

theorem keeps_execTasChange (a : Agent) (p : Nat) (v : Word) {s t : State} (hk : Keeps s t) : KeepsO s (execTasChange a p v t) := by
  unfold execTasChange
  repeat' first
    | with_reducible first | assumption | apply keeps_unpredBlock | apply KeepsO.next | apply KeepsO.fault | apply KeepsO.stay | apply keeps_stay | apply keeps_access | apply keeps_tasCtlWrite
    | with_reducible refine fun _ => ?_
    | with_reducible first | refine keeps_ite ?_ ?_ | refine keepsO_ite ?_ ?_
    | split
    | beta_reduce

theorem keeps_setEgQueue (p c : Nat) (l : List EgFrame) {s t : State} (hk : Keeps s t) : Keeps s (setEgQueue p c l t) := by
  unfold setEgQueue
  repeat' first
    | with_reducible first | assumption | apply keeps_setPort
    | with_reducible refine fun _ => ?_
    | with_reducible fail_if_no_progress (refine Keeps.same ?_ rfl rfl rfl)
    | ((try lift_lets); intro x; first | (refine (fun hx : Keeps s x => ?_) ?_; (on_goal 1 => clear_value x); (on_goal 2 => subst x)) | (have hf : ∀ a, x a = x a := fun _ => rfl; clear hf; subst x) | clear_value x | subst x)
    | beta_reduce

theorem keeps_copyGone (f : EgFrame) {s t : State} (hk : Keeps s t) : Keeps s (copyGone f t) := by
  unfold copyGone
  repeat' first
    | with_reducible first | assumption | apply keeps_freeBuf | apply keeps_setThread
    | with_reducible refine fun _ => ?_
    | with_reducible fail_if_no_progress (refine Keeps.same ?_ rfl rfl rfl)
    | ((try lift_lets); intro x; first | (refine (fun hx : Keeps s x => ?_) ?_; (on_goal 1 => clear_value x); (on_goal 2 => subst x)) | (have hf : ∀ a, x a = x a := fun _ => rfl; clear hf; subst x) | clear_value x | subst x)
    | with_reducible first | refine keeps_ite ?_ ?_ | refine keepsO_ite ?_ ?_
    | split
    | with_reducible first | refine Keeps.ofPair (by assumption) ?_ | refine Keeps.ofPair2 (by assumption) ?_ | refine Keeps.ofM (by assumption) ?_ | refine Keeps.ofMP (by assumption) ?_ | refine KeepsO.ofMO (by assumption) ?_ | refine Keeps.ofO (by assumption) ?_
    | beta_reduce
    | dsimp (zeta := false) only
    | dsimp only

theorem keeps_portDrop (cnt : Nat) {s t : State} (hk : Keeps s t) : Keeps s (portDrop cnt t) := by
  unfold portDrop
  repeat' first
    | with_reducible first | assumption | apply keeps_cause | apply keeps_bump

theorem keeps_egPlace (p c : Nat) (f : EgFrame) {s t : State} (hk : Keeps s t) : Keeps s (egPlace p c f t) := by
  unfold egPlace
  repeat' first
    | with_reducible first | assumption | apply keeps_copyGone | apply keeps_portDrop | apply keeps_setEgQueue | apply keeps_creditNow
    | with_reducible first | refine keeps_ite ?_ ?_ | refine keepsO_ite ?_ ?_
    | split

theorem keeps_egPlaceAll (mask c : Nat) (f : EgFrame) {s t : State} (hk : Keeps s t) : Keeps s (egPlaceAll mask c f t) := by
  unfold egPlaceAll
  repeat' first
    | with_reducible first | assumption | apply keeps_egPlace | apply keeps_foldl
    | with_reducible refine fun _ => ?_
    | with_reducible fail_if_no_progress (refine Keeps.same ?_ rfl rfl rfl)
    | ((try lift_lets); intro x; first | (refine (fun hx : Keeps s x => ?_) ?_; (on_goal 1 => clear_value x); (on_goal 2 => subst x)) | (have hf : ∀ a, x a = x a := fun _ => rfl; clear hf; subst x) | clear_value x | subst x)
    | beta_reduce

theorem keeps_flushFrames (p : Nat) (fs : List EgFrame) {s t : State} (hk : Keeps s t) : Keeps s (flushFrames p fs t) := by
  unfold flushFrames
  repeat' first
    | with_reducible first | assumption | apply keeps_cause | apply keeps_copyGone | apply keeps_bump | apply keeps_foldl
    | with_reducible refine fun _ => ?_
    | with_reducible first | refine keeps_ite ?_ ?_ | refine keepsO_ite ?_ ?_
    | split
    | beta_reduce

theorem keeps_flushQueue (p c : Nat) (all : Bool) {s t : State} (hk : Keeps s t) : Keeps s (flushQueue p c all t) := by
  unfold flushQueue
  repeat' first
    | with_reducible first | assumption | apply keeps_setPort | apply keeps_flushFrames
    | with_reducible refine fun _ => ?_
    | with_reducible fail_if_no_progress (refine Keeps.same ?_ rfl rfl rfl)
    | ((try lift_lets); intro x; first | (refine (fun hx : Keeps s x => ?_) ?_; (on_goal 1 => clear_value x); (on_goal 2 => subst x)) | (have hf : ∀ a, x a = x a := fun _ => rfl; clear hf; subst x) | clear_value x | subst x)
    | with_reducible first | refine keeps_ite ?_ ?_ | refine keepsO_ite ?_ ?_
    | split
    | with_reducible first | refine Keeps.ofPair (by assumption) ?_ | refine Keeps.ofPair2 (by assumption) ?_ | refine Keeps.ofM (by assumption) ?_ | refine Keeps.ofMP (by assumption) ?_ | refine KeepsO.ofMO (by assumption) ?_ | refine Keeps.ofO (by assumption) ?_
    | beta_reduce
    | dsimp (zeta := false) only
    | dsimp only

theorem keeps_flushPort (p : Nat) {s t : State} (hk : Keeps s t) : Keeps s (flushPort p t) := by
  unfold flushPort
  repeat' first
    | with_reducible first | assumption | apply keeps_flushQueue | apply keeps_creditNow | apply keeps_foldl
    | with_reducible refine fun _ => ?_
    | beta_reduce

theorem keeps_execLinkDownFlush (p : Nat) {s t : State} (hk : Keeps s t) : KeepsO s (execLinkDownFlush p t) := by
  unfold execLinkDownFlush
  repeat' first
    | with_reducible first | assumption | apply KeepsO.next | apply KeepsO.fault | apply KeepsO.stay | apply keeps_stay | apply keeps_flushPort
    | with_reducible first | refine keeps_ite ?_ ?_ | refine keepsO_ite ?_ ?_
    | split

theorem keeps_execT0OpportunityTimeout {s t : State} (hk : Keeps s t) : KeepsO s (execT0OpportunityTimeout t) := by
  unfold execT0OpportunityTimeout
  repeat' first
    | with_reducible first | assumption | apply KeepsO.next | apply KeepsO.fault | apply KeepsO.stay | apply keeps_stay | apply keeps_linkDown | apply keeps_setPort
    | with_reducible fail_if_no_progress (refine Keeps.same ?_ rfl rfl rfl)
    | ((try lift_lets); intro x; first | (refine (fun hx : Keeps s x => ?_) ?_; (on_goal 1 => clear_value x); (on_goal 2 => subst x)) | (have hf : ∀ a, x a = x a := fun _ => rfl; clear hf; subst x) | clear_value x | subst x)
    | with_reducible first | refine keeps_ite ?_ ?_ | refine keepsO_ite ?_ ?_
    | split

theorem keeps_execEgressStallFlush (p q : Nat) {s t : State} (hk : Keeps s t) : KeepsO s (execEgressStallFlush p q t) := by
  unfold execEgressStallFlush
  repeat' first
    | with_reducible first | assumption | apply KeepsO.next | apply KeepsO.fault | apply KeepsO.stay | apply keeps_stay | apply keeps_flushQueue | apply keeps_creditNow
    | with_reducible first | refine keeps_ite ?_ ?_ | refine keepsO_ite ?_ ?_
    | split

theorem keeps_fpCtlWrite (p : Nat) (v : Word) {s t : State} (hk : Keeps s t) : Keeps s (fpCtlWrite p v t) := by
  unfold fpCtlWrite
  repeat' first
    | with_reducible first | assumption | apply keeps_wr | apply keeps_set
    | ((try lift_lets); intro x; first | (refine (fun hx : Keeps s x => ?_) ?_; (on_goal 1 => clear_value x); (on_goal 2 => subst x)) | (have hf : ∀ a, x a = x a := fun _ => rfl; clear hf; subst x) | clear_value x | subst x)
    | with_reducible first | refine keeps_ite ?_ ?_ | refine keepsO_ite ?_ ?_
    | split

theorem keeps_execFpVerifyDone (p : Nat) (ok : Bool) {s t : State} (hk : Keeps s t) : KeepsO s (execFpVerifyDone p ok t) := by
  unfold execFpVerifyDone
  repeat' first
    | with_reducible first | assumption | apply KeepsO.next | apply KeepsO.fault | apply KeepsO.stay | apply keeps_stay | apply keeps_set
    | with_reducible first | refine keeps_ite ?_ ?_ | refine keepsO_ite ?_ ?_
    | split

theorem keeps_startFrame (p c : Nat) {s t : State} (hk : Keeps s t) : Keeps s (startFrame p c t) := by
  unfold startFrame
  repeat' first
    | with_reducible first | assumption | apply keeps_setEgQueue | apply keeps_setPort | apply keeps_txSent
    | with_reducible fail_if_no_progress (refine Keeps.same ?_ rfl rfl rfl)
    | ((try lift_lets); intro x; first | (refine (fun hx : Keeps s x => ?_) ?_; (on_goal 1 => clear_value x); (on_goal 2 => subst x)) | (have hf : ∀ a, x a = x a := fun _ => rfl; clear hf; subst x) | clear_value x | subst x)
    | split
    | with_reducible first | refine Keeps.ofPair (by assumption) ?_ | refine Keeps.ofPair2 (by assumption) ?_ | refine Keeps.ofM (by assumption) ?_ | refine Keeps.ofMP (by assumption) ?_ | refine KeepsO.ofMO (by assumption) ?_ | refine Keeps.ofO (by assumption) ?_
    | dsimp (zeta := false) only
    | dsimp only

theorem keeps_resumeFrame (p : Nat) {s t : State} (hk : Keeps s t) : Keeps s (resumeFrame p t) := by
  unfold resumeFrame
  repeat' first
    | with_reducible first | assumption | apply keeps_setPort | apply keeps_txSent
    | with_reducible fail_if_no_progress (refine Keeps.same ?_ rfl rfl rfl)
    | ((try lift_lets); intro x; first | (refine (fun hx : Keeps s x => ?_) ?_; (on_goal 1 => clear_value x); (on_goal 2 => subst x)) | (have hf : ∀ a, x a = x a := fun _ => rfl; clear hf; subst x) | clear_value x | subst x)
    | split
    | with_reducible first | refine Keeps.ofPair (by assumption) ?_ | refine Keeps.ofPair2 (by assumption) ?_ | refine Keeps.ofM (by assumption) ?_ | refine Keeps.ofMP (by assumption) ?_ | refine KeepsO.ofMO (by assumption) ?_ | refine Keeps.ofO (by assumption) ?_
    | dsimp (zeta := false) only
    | dsimp only

theorem keeps_t0Uses (opp : Bool) {s t : State} (hk : Keeps s t) : Keeps s (t0Uses opp t) := by
  unfold t0Uses
  repeat' first
    | with_reducible first | assumption | apply keeps_setPort
    | with_reducible refine fun _ => ?_
    | with_reducible fail_if_no_progress (refine Keeps.same ?_ rfl rfl rfl)
    | ((try lift_lets); intro x; first | (refine (fun hx : Keeps s x => ?_) ?_; (on_goal 1 => clear_value x); (on_goal 2 => subst x)) | (have hf : ∀ a, x a = x a := fun _ => rfl; clear hf; subst x) | clear_value x | subst x)
    | with_reducible first | refine keeps_ite ?_ ?_ | refine keepsO_ite ?_ ?_ | refine keepsP_ite ?_ ?_
    | split
    | with_reducible first | refine Keeps.ofPair (by assumption) ?_ | refine Keeps.ofPair2 (by assumption) ?_ | refine Keeps.ofM (by assumption) ?_ | refine Keeps.ofMP (by assumption) ?_ | refine KeepsO.ofMO (by assumption) ?_ | refine Keeps.ofO (by assumption) ?_
    | beta_reduce
    | dsimp (zeta := false) only
    | dsimp only

theorem keeps_transmitSelect (p : Nat) {s t : State} (hk : Keeps s t) : Keeps s (transmitSelect p t) := by
  unfold transmitSelect
  repeat' first
    | with_reducible first | assumption | apply keeps_creditNow | apply keeps_startFrame | apply keeps_setPort | apply keeps_resumeFrame
    | with_reducible refine fun _ => ?_
    | with_reducible fail_if_no_progress (refine Keeps.same ?_ rfl rfl rfl)
    | ((try lift_lets); intro x; first | (refine (fun hx : Keeps s x => ?_) ?_; (on_goal 1 => clear_value x); (on_goal 2 => subst x)) | (have hf : ∀ a, x a = x a := fun _ => rfl; clear hf; subst x) | clear_value x | subst x)
    | with_reducible first | refine keeps_ite ?_ ?_ | refine keepsO_ite ?_ ?_
    | split
    | with_reducible first | refine Keeps.ofPair (by assumption) ?_ | refine Keeps.ofPair2 (by assumption) ?_ | refine Keeps.ofM (by assumption) ?_ | refine Keeps.ofMP (by assumption) ?_ | refine KeepsO.ofMO (by assumption) ?_ | refine Keeps.ofO (by assumption) ?_
    | beta_reduce
    | dsimp (zeta := false) only
    | dsimp only

theorem keeps_t0Select (opp : Bool) {s t : State} (hk : Keeps s t) : Keeps s (t0Select opp t) := by
  unfold t0Select
  repeat' first
    | with_reducible first | assumption | apply keeps_set | apply keeps_t0Uses | apply keeps_resumeFrame | apply keeps_creditNow | apply keeps_transmitSelect
    | with_reducible refine fun _ => ?_
    | with_reducible fail_if_no_progress (refine Keeps.same ?_ rfl rfl rfl)
    | ((try lift_lets); intro x; first | (refine (fun hx : Keeps s x => ?_) ?_; (on_goal 1 => clear_value x); (on_goal 2 => subst x)) | (have hf : ∀ a, x a = x a := fun _ => rfl; clear hf; subst x) | clear_value x | subst x)
    | with_reducible first | refine keeps_ite ?_ ?_ | refine keepsO_ite ?_ ?_ | refine keepsP_ite ?_ ?_
    | split
    | with_reducible first | refine Keeps.ofPair (by assumption) ?_ | refine Keeps.ofPair2 (by assumption) ?_ | refine Keeps.ofM (by assumption) ?_ | refine Keeps.ofMP (by assumption) ?_ | refine KeepsO.ofMO (by assumption) ?_ | refine Keeps.ofO (by assumption) ?_
    | beta_reduce
    | dsimp (zeta := false) only
    | dsimp only

theorem keeps_execTransmitSelection (p : Nat) (opp : Bool) {s t : State} (hk : Keeps s t) : KeepsO s (execTransmitSelection p t opp) := by
  unfold execTransmitSelection
  repeat' first
    | with_reducible first | assumption | apply KeepsO.next | apply KeepsO.stay | apply keeps_stay | apply keeps_t0Select | apply keeps_transmitSelect
    | with_reducible refine fun _ => ?_
    | with_reducible fail_if_no_progress (refine Keeps.same ?_ rfl rfl rfl)
    | ((try lift_lets); intro x; first | (refine (fun hx : Keeps s x => ?_) ?_; (on_goal 1 => clear_value x); (on_goal 2 => subst x)) | (have hf : ∀ a, x a = x a := fun _ => rfl; clear hf; subst x) | clear_value x | subst x)
    | with_reducible first | refine keeps_ite ?_ ?_ | refine keepsO_ite ?_ ?_ | refine keepsP_ite ?_ ?_
    | split
    | with_reducible first | refine Keeps.ofPair (by assumption) ?_ | refine Keeps.ofPair2 (by assumption) ?_ | refine Keeps.ofM (by assumption) ?_ | refine Keeps.ofMP (by assumption) ?_ | refine KeepsO.ofMO (by assumption) ?_ | refine Keeps.ofO (by assumption) ?_
    | beta_reduce
    | dsimp (zeta := false) only
    | dsimp only

theorem keeps_gateAdvance (p : Nat) {s t : State} (hk : Keeps s t) : Keeps s (gateAdvance p t) := by
  unfold gateAdvance
  repeat' first
    | with_reducible first | assumption | apply keeps_creditNow | apply keeps_tasShow | apply keeps_setPort
    | with_reducible fail_if_no_progress (refine Keeps.same ?_ rfl rfl rfl)
    | ((try lift_lets); intro x; first | (refine (fun hx : Keeps s x => ?_) ?_; (on_goal 1 => clear_value x); (on_goal 2 => subst x)) | (have hf : ∀ a, x a = x a := fun _ => rfl; clear hf; subst x) | clear_value x | subst x)
    | with_reducible first | refine keeps_ite ?_ ?_ | refine keepsO_ite ?_ ?_
    | split
    | with_reducible first | refine Keeps.ofPair (by assumption) ?_ | refine Keeps.ofPair2 (by assumption) ?_ | refine Keeps.ofM (by assumption) ?_ | refine Keeps.ofMP (by assumption) ?_ | refine KeepsO.ofMO (by assumption) ?_ | refine Keeps.ofO (by assumption) ?_
    | dsimp (zeta := false) only
    | dsimp only

theorem keeps_gateEntryAdvanceAct (p : Nat) {s t : State} (hk : Keeps s t) : KeepsO s (gateEntryAdvanceAct p t) := by
  unfold gateEntryAdvanceAct
  repeat' first
    | with_reducible first | assumption | apply KeepsO.next | apply KeepsO.fault | apply KeepsO.stay | apply keeps_stay | apply keeps_gateAdvance
    | with_reducible first | refine keeps_ite ?_ ?_ | refine keepsO_ite ?_ ?_
    | split

theorem keeps_tasConfigChangeAct (p : Nat) {s t : State} (hk : Keeps s t) : KeepsO s (tasConfigChangeAct p t) := by
  unfold tasConfigChangeAct
  repeat' first
    | with_reducible first | assumption | apply KeepsO.next | apply KeepsO.fault | apply KeepsO.stay | apply keeps_stay | apply keeps_creditNow | apply keeps_setPort | apply keeps_cause | apply keeps_tasOperShow | apply keeps_tasShow | apply keeps_gateAdvance
    | with_reducible fail_if_no_progress (refine Keeps.same ?_ rfl rfl rfl)
    | ((try lift_lets); intro x; first | (refine (fun hx : Keeps s x => ?_) ?_; (on_goal 1 => clear_value x); (on_goal 2 => subst x)) | (have hf : ∀ a, x a = x a := fun _ => rfl; clear hf; subst x) | clear_value x | subst x)
    | with_reducible first | refine keeps_ite ?_ ?_ | refine keepsO_ite ?_ ?_
    | split

theorem keeps_pushTxts (p tag t : Nat) {s u0 : State} (hk : Keeps s u0) : Keeps s (pushTxts p tag t u0) := by
  unfold pushTxts
  repeat' first
    | with_reducible first | assumption | apply keeps_set | apply keeps_setPort | apply keeps_cause
    | with_reducible refine fun _ => ?_
    | with_reducible fail_if_no_progress (refine Keeps.same ?_ rfl rfl rfl)
    | ((try lift_lets); intro x; first | (refine (fun hx : Keeps s x => ?_) ?_; (on_goal 1 => clear_value x); (on_goal 2 => subst x)) | (have hf : ∀ a, x a = x a := fun _ => rfl; clear hf; subst x) | clear_value x | subst x)
    | with_reducible first | refine keeps_ite ?_ ?_ | refine keepsO_ite ?_ ?_ | refine keepsP_ite ?_ ?_
    | split
    | with_reducible first | refine Keeps.ofPair (by assumption) ?_ | refine Keeps.ofPair2 (by assumption) ?_ | refine Keeps.ofM (by assumption) ?_ | refine Keeps.ofMP (by assumption) ?_ | refine KeepsO.ofMO (by assumption) ?_ | refine Keeps.ofO (by assumption) ?_
    | beta_reduce
    | dsimp (zeta := false) only
    | dsimp only

theorem keeps_t0Collide {s t : State} (hk : Keeps s t) : Keeps s (t0Collide t) := by
  unfold t0Collide
  repeat' first
    | with_reducible first | assumption | apply keeps_creditNow | apply keeps_copyGone | apply keeps_portDrop | apply keeps_setPort
    | with_reducible refine fun _ => ?_
    | with_reducible fail_if_no_progress (refine Keeps.same ?_ rfl rfl rfl)
    | ((try lift_lets); intro x; first | (refine (fun hx : Keeps s x => ?_) ?_; (on_goal 1 => clear_value x); (on_goal 2 => subst x)) | (have hf : ∀ a, x a = x a := fun _ => rfl; clear hf; subst x) | clear_value x | subst x)
    | with_reducible first | refine keeps_ite ?_ ?_ | refine keepsO_ite ?_ ?_ | refine keepsP_ite ?_ ?_
    | split
    | with_reducible first | refine Keeps.ofPair (by assumption) ?_ | refine Keeps.ofPair2 (by assumption) ?_ | refine Keeps.ofM (by assumption) ?_ | refine Keeps.ofMP (by assumption) ?_ | refine KeepsO.ofMO (by assumption) ?_ | refine Keeps.ofO (by assumption) ?_
    | beta_reduce
    | dsimp (zeta := false) only
    | dsimp only

theorem keeps_frameTxDone (p : Nat) {s t : State} (hk : Keeps s t) : Keeps s (frameTxDone p t) := by
  unfold frameTxDone
  repeat' first
    | with_reducible first | assumption | apply keeps_creditNow | apply keeps_setPort | apply keeps_txSent | apply keeps_emit | apply keeps_pushTxts | apply keeps_copyGone
    | with_reducible refine fun _ => ?_
    | with_reducible fail_if_no_progress (refine Keeps.same ?_ rfl rfl rfl)
    | ((try lift_lets); intro x; first | (refine (fun hx : Keeps s x => ?_) ?_; (on_goal 1 => clear_value x); (on_goal 2 => subst x)) | (have hf : ∀ a, x a = x a := fun _ => rfl; clear hf; subst x) | clear_value x | subst x)
    | with_reducible first | refine keeps_ite ?_ ?_ | refine keepsO_ite ?_ ?_ | refine keepsP_ite ?_ ?_
    | split
    | with_reducible first | refine Keeps.ofPair (by assumption) ?_ | refine Keeps.ofPair2 (by assumption) ?_ | refine Keeps.ofM (by assumption) ?_ | refine Keeps.ofMP (by assumption) ?_ | refine KeepsO.ofMO (by assumption) ?_ | refine Keeps.ofO (by assumption) ?_
    | beta_reduce
    | dsimp (zeta := false) only
    | dsimp only

theorem keeps_execFrameTxDone (p : Nat) (collided : Bool) {s t : State} (hk : Keeps s t) : KeepsO s (execFrameTxDone p t collided) := by
  unfold execFrameTxDone
  repeat' first
    | with_reducible first | assumption | apply KeepsO.next | apply KeepsO.stay | apply keeps_stay | apply keeps_frameTxDone | apply keeps_t0Collide
    | with_reducible refine fun _ => ?_
    | with_reducible fail_if_no_progress (refine Keeps.same ?_ rfl rfl rfl)
    | ((try lift_lets); intro x; first | (refine (fun hx : Keeps s x => ?_) ?_; (on_goal 1 => clear_value x); (on_goal 2 => subst x)) | (have hf : ∀ a, x a = x a := fun _ => rfl; clear hf; subst x) | clear_value x | subst x)
    | with_reducible first | refine keeps_ite ?_ ?_ | refine keepsO_ite ?_ ?_ | refine keepsP_ite ?_ ?_
    | split
    | with_reducible first | refine Keeps.ofPair (by assumption) ?_ | refine Keeps.ofPair2 (by assumption) ?_ | refine Keeps.ofM (by assumption) ?_ | refine Keeps.ofMP (by assumption) ?_ | refine KeepsO.ofMO (by assumption) ?_ | refine Keeps.ofO (by assumption) ?_
    | beta_reduce
    | dsimp (zeta := false) only
    | dsimp only

theorem keeps_txtsRead (p : Nat) {s t : State} (hk : Keeps s t) : Keeps s (txtsRead p t).2 := by
  unfold txtsRead
  repeat' first
    | with_reducible first | assumption | apply keeps_setPort | apply keeps_set | apply keeps_wr64
    | with_reducible fail_if_no_progress (refine Keeps.same ?_ rfl rfl rfl)
    | ((try lift_lets); intro x; first | (refine (fun hx : Keeps s x => ?_) ?_; (on_goal 1 => clear_value x); (on_goal 2 => subst x)) | (have hf : ∀ a, x a = x a := fun _ => rfl; clear hf; subst x) | clear_value x | subst x)
    | split
    | with_reducible first | refine Keeps.ofPair (by assumption) ?_ | refine Keeps.ofPair2 (by assumption) ?_ | refine Keeps.ofM (by assumption) ?_ | refine Keeps.ofMP (by assumption) ?_ | refine KeepsO.ofMO (by assumption) ?_ | refine Keeps.ofO (by assumption) ?_
    | dsimp (zeta := false) only
    | dsimp only

theorem keeps_execTxtsTagRead (a : Agent) (p : Nat) {s t : State} (hk : Keeps s t) : KeepsO s (execTxtsTagRead a p t) := by
  unfold execTxtsTagRead
  repeat' first
    | with_reducible first | assumption | apply KeepsO.next | apply KeepsO.fault | apply KeepsO.stay | apply keeps_stay | apply keeps_readRow | apply keeps_txtsRead
    | with_reducible refine fun _ => ?_
    | with_reducible first | refine keeps_ite ?_ ?_ | refine keepsO_ite ?_ ?_
    | split
    | beta_reduce

end Sys2Proof.Machine
end

