-- ==== Sys2Proof/Laws/KeepsIngress.lean ====
section
/-!
SUPPORT. What Machine/Ingress.lean keeps (Laws/Keeps.lean).
-/
namespace Sys2Proof.Machine
set_option linter.unusedTactic false
set_option linter.unreachableTactic false
set_option linter.unusedVariables false

theorem keeps_streamOf (p vid : Nat) (d : List Byte) {s t : State} (hk : Keeps s t) : Keeps s (streamOf p vid d t).2 := by
  unfold streamOf
  repeat' first
    | with_reducible first | assumption | apply keeps_draw
    | with_reducible fail_if_no_progress (refine Keeps.same ?_ rfl rfl rfl)
    | ((try lift_lets); intro x; first | (refine (fun hx : Keeps s x => ?_) ?_; (on_goal 1 => clear_value x); (on_goal 2 => subst x)) | (have hf : ∀ a, x a = x a := fun _ => rfl; clear hf; subst x) | clear_value x | subst x)
    | split
    | with_reducible first | refine Keeps.ofPair (by assumption) ?_ | refine Keeps.ofPair2 (by assumption) ?_ | refine Keeps.ofM (by assumption) ?_ | refine Keeps.ofMP (by assumption) ?_ | refine KeepsO.ofMO (by assumption) ?_ | refine Keeps.ofO (by assumption) ?_
    | dsimp (zeta := false) only
    | dsimp only

theorem keeps_setSgate (g : Nat) (x : GateRun) {s t : State} (hk : Keeps s t) : Keeps s (State.setSgate t g x) := by
  unfold State.setSgate
  repeat' first
    | with_reducible assumption
    | with_reducible refine fun _ => ?_
    | with_reducible fail_if_no_progress (refine Keeps.same ?_ rfl rfl rfl)
    | ((try lift_lets); intro x; first | (refine (fun hx : Keeps s x => ?_) ?_; (on_goal 1 => clear_value x); (on_goal 2 => subst x)) | (have hf : ∀ a, x a = x a := fun _ => rfl; clear hf; subst x) | clear_value x | subst x)
    | beta_reduce

theorem keeps_sgateNow (g : Nat) {s t : State} (hk : Keeps s t) : Keeps s (sgateNow g t) := by
  unfold sgateNow
  repeat' first
    | with_reducible first | assumption | apply keeps_wr | apply keeps_setSgate | apply keeps_cause | apply keeps_set | apply keeps_foldl
    | with_reducible refine fun _ => ?_
    | ((try lift_lets); intro x; first | (refine (fun hx : Keeps s x => ?_) ?_; (on_goal 1 => clear_value x); (on_goal 2 => subst x)) | (have hf : ∀ a, x a = x a := fun _ => rfl; clear hf; subst x) | clear_value x | subst x)
    | with_reducible first | refine keeps_ite ?_ ?_ | refine keepsO_ite ?_ ?_
    | split
    | beta_reduce

theorem keeps_sgateCtlWrite (g : Nat) (v : Word) {s t : State} (hk : Keeps s t) : Keeps s (sgateCtlWrite g v t) := by
  unfold sgateCtlWrite
  repeat' first
    | with_reducible first | assumption | apply keeps_gateIntervals | apply keeps_sgateNow | apply keeps_wr | apply keeps_setSgate | apply keeps_wr64 | apply keeps_set
    | with_reducible fail_if_no_progress (refine Keeps.same ?_ rfl rfl rfl)
    | ((try lift_lets); intro x; first | (refine (fun hx : Keeps s x => ?_) ?_; (on_goal 1 => clear_value x); (on_goal 2 => subst x)) | (have hf : ∀ a, x a = x a := fun _ => rfl; clear hf; subst x) | clear_value x | subst x)
    | with_reducible first | refine keeps_ite ?_ ?_ | refine keepsO_ite ?_ ?_
    | split
    | with_reducible first | refine Keeps.ofPair (by assumption) ?_ | refine Keeps.ofPair2 (by assumption) ?_ | refine Keeps.ofM (by assumption) ?_ | refine Keeps.ofMP (by assumption) ?_ | refine KeepsO.ofMO (by assumption) ?_ | refine Keeps.ofO (by assumption) ?_

theorem keeps_execStreamGateChange (a : Agent) (g : Nat) (v : Word) {s t : State} (hk : Keeps s t) : KeepsO s (execStreamGateChange a g v t) := by
  unfold execStreamGateChange
  repeat' first
    | with_reducible first | assumption | apply KeepsO.next | apply KeepsO.fault | apply KeepsO.stay | apply keeps_stay | apply keeps_access | apply keeps_sgateCtlWrite
    | with_reducible refine fun _ => ?_
    | with_reducible first | refine keeps_ite ?_ ?_ | refine keepsO_ite ?_ ?_
    | split
    | beta_reduce

theorem keeps_setMeter (m : Nat) (x : Meter) {s t : State} (hk : Keeps s t) : Keeps s (setMeter m x t) := by
  unfold setMeter
  repeat' first
    | with_reducible assumption
    | with_reducible refine fun _ => ?_
    | with_reducible fail_if_no_progress (refine Keeps.same ?_ rfl rfl rfl)
    | ((try lift_lets); intro x; first | (refine (fun hx : Keeps s x => ?_) ?_; (on_goal 1 => clear_value x); (on_goal 2 => subst x)) | (have hf : ∀ a, x a = x a := fun _ => rfl; clear hf; subst x) | clear_value x | subst x)
    | with_reducible first | refine Keeps.ofPair (by assumption) ?_ | refine Keeps.ofPair2 (by assumption) ?_ | refine Keeps.ofM (by assumption) ?_ | refine Keeps.ofMP (by assumption) ?_ | refine KeepsO.ofMO (by assumption) ?_ | refine Keeps.ofO (by assumption) ?_
    | beta_reduce

theorem keeps_meterFrame (m colour len : Nat) {s t : State} (hk : Keeps s t) : Keeps s (meterFrame m colour len t).2.2 := by
  unfold meterFrame
  repeat' first
    | with_reducible first | assumption | apply keeps_setMeter | apply keeps_bump | apply keeps_set
    | ((try lift_lets); intro x; first | (refine (fun hx : Keeps s x => ?_) ?_; (on_goal 1 => clear_value x); (on_goal 2 => subst x)) | (have hf : ∀ a, x a = x a := fun _ => rfl; clear hf; subst x) | clear_value x | subst x)
    | with_reducible first | refine keeps_ite ?_ ?_ | refine keepsO_ite ?_ ?_ | refine keepsP_ite ?_ ?_
    | split
    | with_reducible first | refine Keeps.ofPair (by assumption) ?_ | refine Keeps.ofPair2 (by assumption) ?_ | refine Keeps.ofM (by assumption) ?_ | refine Keeps.ofMP (by assumption) ?_ | refine KeepsO.ofMO (by assumption) ?_ | refine Keeps.ofO (by assumption) ?_
    | dsimp (zeta := false) only
    | dsimp only

theorem keeps_meterWrite (m i : Nat) (v : Word) {s t : State} (hk : Keeps s t) : Keeps s (meterWrite m i v t) := by
  unfold meterWrite
  repeat' first
    | with_reducible first | assumption | apply keeps_wr | apply keeps_setMeter
    | ((try lift_lets); intro x; first | (refine (fun hx : Keeps s x => ?_) ?_; (on_goal 1 => clear_value x); (on_goal 2 => subst x)) | (have hf : ∀ a, x a = x a := fun _ => rfl; clear hf; subst x) | clear_value x | subst x)
    | with_reducible first | refine keeps_ite ?_ ?_ | refine keepsO_ite ?_ ?_
    | split

theorem keeps_police (h n colour : Nat) {s t : State} (hk : Keeps s t) : Keeps s (police h n colour t).2 := by
  unfold police
  repeat' first
    | with_reducible first | assumption | apply keeps_sgateNow | apply keeps_meterFrame
    | with_reducible refine fun _ => ?_
    | with_reducible fail_if_no_progress (refine Keeps.same ?_ rfl rfl rfl)
    | ((try lift_lets); intro x; first | (refine (fun hx : Keeps s x => ?_) ?_; (on_goal 1 => clear_value x); (on_goal 2 => subst x)) | (have hf : ∀ a, x a = x a := fun _ => rfl; clear hf; subst x) | clear_value x | subst x)
    | with_reducible first | refine keeps_ite ?_ ?_ | refine keepsO_ite ?_ ?_ | refine keepsP_ite ?_ ?_
    | split
    | with_reducible first | refine Keeps.ofPair (by assumption) ?_ | refine Keeps.ofPair2 (by assumption) ?_ | refine Keeps.ofM (by assumption) ?_ | refine Keeps.ofMP (by assumption) ?_ | refine KeepsO.ofMO (by assumption) ?_ | refine Keeps.ofO (by assumption) ?_
    | beta_reduce
    | dsimp (zeta := false) only
    | dsimp only

theorem keeps_filterWrite (h i : Nat) (v : Word) {s t : State} (hk : Keeps s t) : Keeps s (filterWrite h i v t) := by
  unfold filterWrite
  repeat' first
    | with_reducible first | assumption | apply keeps_wr
    | with_reducible refine fun _ => ?_
    | with_reducible fail_if_no_progress (refine Keeps.same ?_ rfl rfl rfl)
    | ((try lift_lets); intro x; first | (refine (fun hx : Keeps s x => ?_) ?_; (on_goal 1 => clear_value x); (on_goal 2 => subst x)) | (have hf : ∀ a, x a = x a := fun _ => rfl; clear hf; subst x) | clear_value x | subst x)
    | with_reducible first | refine keeps_ite ?_ ?_ | refine keepsO_ite ?_ ?_
    | split
    | beta_reduce

theorem keeps_setRecov (h : Nat) (x : Recovery) {s t : State} (hk : Keeps s t) : Keeps s (State.setRecov t h x) := by
  unfold State.setRecov
  repeat' first
    | with_reducible assumption
    | with_reducible refine fun _ => ?_
    | with_reducible fail_if_no_progress (refine Keeps.same ?_ rfl rfl rfl)
    | ((try lift_lets); intro x; first | (refine (fun hx : Keeps s x => ?_) ?_; (on_goal 1 => clear_value x); (on_goal 2 => subst x)) | (have hf : ∀ a, x a = x a := fun _ => rfl; clear hf; subst x) | clear_value x | subst x)
    | beta_reduce

theorem keeps_recoverFrame (h seq : Nat) {s t : State} (hk : Keeps s t) : Keeps s (recoverFrame h seq t).2.2 := by
  unfold recoverFrame
  repeat' first
    | with_reducible first | assumption | apply keeps_setRecov
    | ((try lift_lets); intro x; first | (refine (fun hx : Keeps s x => ?_) ?_; (on_goal 1 => clear_value x); (on_goal 2 => subst x)) | (have hf : ∀ a, x a = x a := fun _ => rfl; clear hf; subst x) | clear_value x | subst x)
    | with_reducible first | refine keeps_ite ?_ ?_ | refine keepsO_ite ?_ ?_ | refine keepsP_ite ?_ ?_
    | split
    | with_reducible first | refine Keeps.ofPair (by assumption) ?_ | refine Keeps.ofPair2 (by assumption) ?_ | refine Keeps.ofM (by assumption) ?_ | refine Keeps.ofMP (by assumption) ?_ | refine KeepsO.ofMO (by assumption) ?_ | refine Keeps.ofO (by assumption) ?_
    | dsimp (zeta := false) only
    | dsimp only

theorem keeps_recovWrite (h i : Nat) (v : Word) {s t : State} (hk : Keeps s t) : Keeps s (recovWrite h i v t) := by
  unfold recovWrite
  repeat' first
    | with_reducible first | assumption | apply keeps_wr | apply keeps_setRecov
    | ((try lift_lets); intro x; first | (refine (fun hx : Keeps s x => ?_) ?_; (on_goal 1 => clear_value x); (on_goal 2 => subst x)) | (have hf : ∀ a, x a = x a := fun _ => rfl; clear hf; subst x) | clear_value x | subst x)
    | with_reducible first | refine keeps_ite ?_ ?_ | refine keepsO_ite ?_ ?_
    | split

theorem keeps_execRecoveryResetTimeout (h : Nat) {s t : State} (hk : Keeps s t) : KeepsO s (execRecoveryResetTimeout h t) := by
  unfold execRecoveryResetTimeout
  repeat' first
    | with_reducible first | assumption | apply KeepsO.next | apply KeepsO.fault | apply KeepsO.stay | apply keeps_stay | apply keeps_cause | apply keeps_setRecov
    | with_reducible first | refine keeps_ite ?_ ?_ | refine keepsO_ite ?_ ?_
    | split

theorem keeps_genSeq (h : Nat) {s t : State} (hk : Keeps s t) : Keeps s (genSeq h t).2 := by
  unfold genSeq
  repeat' first
    | with_reducible first | assumption | apply keeps_set
    | ((try lift_lets); intro x; first | (refine (fun hx : Keeps s x => ?_) ?_; (on_goal 1 => clear_value x); (on_goal 2 => subst x)) | (have hf : ∀ a, x a = x a := fun _ => rfl; clear hf; subst x) | clear_value x | subst x)
    | with_reducible first | refine keeps_ite ?_ ?_ | refine keepsO_ite ?_ ?_ | refine keepsP_ite ?_ ?_
    | split
    | with_reducible first | refine Keeps.ofPair (by assumption) ?_ | refine Keeps.ofPair2 (by assumption) ?_ | refine Keeps.ofM (by assumption) ?_ | refine Keeps.ofMP (by assumption) ?_ | refine KeepsO.ofMO (by assumption) ?_ | refine Keeps.ofO (by assumption) ?_

theorem keeps_setAdm (p tc : Nat) (l : List Pkt) {s t : State} (hk : Keeps s t) : Keeps s (setAdm p tc l t) := by
  unfold setAdm
  repeat' first
    | with_reducible first | assumption | apply keeps_setPort
    | with_reducible refine fun _ => ?_
    | with_reducible fail_if_no_progress (refine Keeps.same ?_ rfl rfl rfl)
    | ((try lift_lets); intro x; first | (refine (fun hx : Keeps s x => ?_) ?_; (on_goal 1 => clear_value x); (on_goal 2 => subst x)) | (have hf : ∀ a, x a = x a := fun _ => rfl; clear hf; subst x) | clear_value x | subst x)
    | beta_reduce

theorem keeps_dropPkt (cnt h : Nat) {s t : State} (hk : Keeps s t) : Keeps s (dropPkt cnt h t) := by
  unfold dropPkt
  repeat' first
    | with_reducible first | assumption | apply keeps_portDrop | apply keeps_freeBuf

theorem keeps_enqueuePkt (k : Pkt) {s t : State} (hk : Keeps s t) : Keeps s (enqueuePkt k t) := by
  unfold enqueuePkt
  repeat' first
    | with_reducible first | assumption | apply keeps_dropPkt | apply keeps_setAdm
    | ((try lift_lets); intro x; first | (refine (fun hx : Keeps s x => ?_) ?_; (on_goal 1 => clear_value x); (on_goal 2 => subst x)) | (have hf : ∀ a, x a = x a := fun _ => rfl; clear hf; subst x) | clear_value x | subst x)
    | with_reducible first | refine keeps_ite ?_ ?_ | refine keepsO_ite ?_ ?_
    | split

theorem keeps_stripRtag (o : Nat) (d : List Byte) (k : Pkt) {s t : State} (hk : Keeps s t) : Keeps s (stripRtag o d k t).2 := by
  unfold stripRtag
  repeat' first
    | with_reducible first | assumption | apply keeps_pkt_free | apply keeps_pkt_wrBytes | apply keeps_pkt_wr | apply keeps_pkt_clear | apply keeps_pkt_nil
    | with_reducible fail_if_no_progress (refine Keeps.same ?_ rfl rfl rfl)
    | ((try lift_lets); intro x; first | (refine (fun hx : Keeps s x => ?_) ?_; (on_goal 1 => clear_value x); (on_goal 2 => subst x)) | (have hf : ∀ a, x a = x a := fun _ => rfl; clear hf; subst x) | clear_value x | subst x)
    | with_reducible first | refine keeps_ite ?_ ?_ | refine keepsO_ite ?_ ?_ | refine keepsP_ite ?_ ?_
    | split

theorem keeps_streamSteps (d : List Byte) (r : Parsed) (k : Pkt) {s t : State} (hk : Keeps s t) : Keeps s (streamSteps d r k t) := by
  unfold streamSteps
  repeat' first
    | with_reducible first | assumption | apply keeps_streamOf | apply keeps_enqueuePkt | apply keeps_police | apply keeps_cause | apply keeps_dropPkt | apply keeps_recoverFrame | apply keeps_stripRtag
    | with_reducible fail_if_no_progress (refine Keeps.same ?_ rfl rfl rfl)
    | ((try lift_lets); intro x; first | (refine (fun hx : Keeps s x => ?_) ?_; (on_goal 1 => clear_value x); (on_goal 2 => subst x)) | (have hf : ∀ a, x a = x a := fun _ => rfl; clear hf; subst x) | clear_value x | subst x)
    | with_reducible first | refine keeps_ite ?_ ?_ | refine keepsO_ite ?_ ?_
    | split
    | with_reducible first | refine Keeps.ofPair (by assumption) ?_ | refine Keeps.ofPair2 (by assumption) ?_ | refine Keeps.ofM (by assumption) ?_ | refine Keeps.ofMP (by assumption) ?_ | refine KeepsO.ofMO (by assumption) ?_ | refine Keeps.ofO (by assumption) ?_
    | dsimp (zeta := false) only
    | dsimp only

theorem keeps_classifySteps (p h doff t : Nat) (d : List Byte) {s u0 : State} (hk : Keeps s u0) : Keeps s (classifySteps p h doff t d u0) := by
  unfold classifySteps
  repeat' first
    | with_reducible first | assumption | apply keeps_dropPkt | apply keeps_classify | apply keeps_streamSteps
    | ((try lift_lets); intro x; first | (refine (fun hx : Keeps s x => ?_) ?_; (on_goal 1 => clear_value x); (on_goal 2 => subst x)) | (have hf : ∀ a, x a = x a := fun _ => rfl; clear hf; subst x) | clear_value x | subst x)
    | with_reducible first | refine keeps_ite ?_ ?_ | refine keepsO_ite ?_ ?_
    | split
    | with_reducible first | refine Keeps.ofPair (by assumption) ?_ | refine Keeps.ofPair2 (by assumption) ?_ | refine Keeps.ofM (by assumption) ?_ | refine Keeps.ofMP (by assumption) ?_ | refine KeepsO.ofMO (by assumption) ?_ | refine Keeps.ofO (by assumption) ?_
    | dsimp (zeta := false) only
    | dsimp only

theorem keeps_takeFrame (p t : Nat) (d : List Byte) {s u0 : State} (hk : Keeps s u0) : Keeps s (takeFrame p t d u0) := by
  unfold takeFrame
  repeat' first
    | with_reducible first | assumption | apply keeps_portDrop | apply keeps_requestBuf | apply keeps_classifySteps | apply keeps_pkt_wrBytes | apply keeps_pkt_wr | apply keeps_pkt_clear | apply keeps_pkt_nil | apply keeps_pkt_free
    | with_reducible refine fun _ => ?_
    | with_reducible fail_if_no_progress (refine Keeps.same ?_ rfl rfl rfl)
    | ((try lift_lets); intro x; first | (refine (fun hx : Keeps s x => ?_) ?_; (on_goal 1 => clear_value x); (on_goal 2 => subst x)) | (have hf : ∀ a, x a = x a := fun _ => rfl; clear hf; subst x) | clear_value x | subst x)
    | with_reducible first | refine keeps_ite ?_ ?_ | refine keepsO_ite ?_ ?_ | refine keepsP_ite ?_ ?_
    | split
    | with_reducible first | refine Keeps.ofPair (by assumption) ?_ | refine Keeps.ofPair2 (by assumption) ?_ | refine Keeps.ofM (by assumption) ?_ | refine Keeps.ofMP (by assumption) ?_ | refine KeepsO.ofMO (by assumption) ?_ | refine Keeps.ofO (by assumption) ?_
    | beta_reduce
    | dsimp (zeta := false) only
    | dsimp only

theorem keeps_drainFifo (p : Nat) {s t : State} (hk : Keeps s t) : Keeps s (drainFifo p t) := by
  unfold drainFifo
  repeat' first
    | with_reducible first | assumption | apply keeps_foldl | apply keeps_takeFrame | apply keeps_setPort
    | with_reducible refine fun _ => ?_
    | with_reducible fail_if_no_progress (refine Keeps.same ?_ rfl rfl rfl)
    | ((try lift_lets); intro x; first | (refine (fun hx : Keeps s x => ?_) ?_; (on_goal 1 => clear_value x); (on_goal 2 => subst x)) | (have hf : ∀ a, x a = x a := fun _ => rfl; clear hf; subst x) | clear_value x | subst x)
    | with_reducible first | refine keeps_ite ?_ ?_ | refine keepsO_ite ?_ ?_ | refine keepsP_ite ?_ ?_
    | split
    | with_reducible first | refine Keeps.ofPair (by assumption) ?_ | refine Keeps.ofPair2 (by assumption) ?_ | refine Keeps.ofM (by assumption) ?_ | refine Keeps.ofMP (by assumption) ?_ | refine KeepsO.ofMO (by assumption) ?_ | refine Keeps.ofO (by assumption) ?_
    | beta_reduce
    | dsimp (zeta := false) only
    | dsimp only

theorem keeps_drainFifos {s t : State} (hk : Keeps s t) : Keeps s (drainFifos t) := by
  unfold drainFifos
  repeat' first
    | with_reducible first | assumption | apply keeps_foldl | apply keeps_drainFifo
    | with_reducible refine fun _ => ?_
    | with_reducible fail_if_no_progress (refine Keeps.same ?_ rfl rfl rfl)
    | ((try lift_lets); intro x; first | (refine (fun hx : Keeps s x => ?_) ?_; (on_goal 1 => clear_value x); (on_goal 2 => subst x)) | (have hf : ∀ a, x a = x a := fun _ => rfl; clear hf; subst x) | clear_value x | subst x)
    | with_reducible first | refine keeps_ite ?_ ?_ | refine keepsO_ite ?_ ?_ | refine keepsP_ite ?_ ?_
    | split
    | with_reducible first | refine Keeps.ofPair (by assumption) ?_ | refine Keeps.ofPair2 (by assumption) ?_ | refine Keeps.ofM (by assumption) ?_ | refine Keeps.ofMP (by assumption) ?_ | refine KeepsO.ofMO (by assumption) ?_ | refine Keeps.ofO (by assumption) ?_
    | beta_reduce
    | dsimp (zeta := false) only
    | dsimp only

theorem keeps_receiveFrame (p : Nat) (d : List Byte) (fcsErr ovf : Bool) {s t : State} (hk : Keeps s t) : Keeps s (receiveFrame p d fcsErr ovf t) := by
  unfold receiveFrame
  repeat' first
    | with_reducible first | assumption | apply keeps_takeFrame | apply keeps_drainFifo | apply keeps_setPort | apply keeps_portDrop | apply keeps_requestBuf | apply keeps_classifySteps | apply keeps_pkt_wrBytes | apply keeps_pkt_wr | apply keeps_pkt_clear | apply keeps_pkt_nil
    | with_reducible fail_if_no_progress (refine Keeps.same ?_ rfl rfl rfl)
    | ((try lift_lets); intro x; first | (refine (fun hx : Keeps s x => ?_) ?_; (on_goal 1 => clear_value x); (on_goal 2 => subst x)) | (have hf : ∀ a, x a = x a := fun _ => rfl; clear hf; subst x) | clear_value x | subst x)
    | with_reducible first | refine keeps_ite ?_ ?_ | refine keepsO_ite ?_ ?_
    | split
    | with_reducible first | refine Keeps.ofPair (by assumption) ?_ | refine Keeps.ofPair2 (by assumption) ?_ | refine Keeps.ofM (by assumption) ?_ | refine Keeps.ofMP (by assumption) ?_ | refine KeepsO.ofMO (by assumption) ?_ | refine Keeps.ofO (by assumption) ?_
    | dsimp (zeta := false) only
    | dsimp only

theorem keeps_execFrameReceive (p : Nat) (data : List Byte) (fcsErr ovf : Bool) {s t : State} (hk : Keeps s t) : KeepsO s (execFrameReceive p data fcsErr ovf t) := by
  unfold execFrameReceive
  repeat' first
    | with_reducible first | assumption | apply KeepsO.next | apply KeepsO.fault | apply KeepsO.stay | apply keeps_stay | apply keeps_receiveFrame
    | with_reducible first | refine keeps_ite ?_ ?_ | refine keepsO_ite ?_ ?_
    | split

theorem keeps_execAdmissionHoldTimeout (p tc : Nat) {s t : State} (hk : Keeps s t) : KeepsO s (execAdmissionHoldTimeout p tc t) := by
  unfold execAdmissionHoldTimeout
  repeat' first
    | with_reducible first | assumption | apply KeepsO.next | apply KeepsO.fault | apply KeepsO.stay | apply keeps_stay | apply keeps_dropPkt | apply keeps_setAdm
    | with_reducible fail_if_no_progress (refine Keeps.same ?_ rfl rfl rfl)
    | ((try lift_lets); intro x; first | (refine (fun hx : Keeps s x => ?_) ?_; (on_goal 1 => clear_value x); (on_goal 2 => subst x)) | (have hf : ∀ a, x a = x a := fun _ => rfl; clear hf; subst x) | clear_value x | subst x)
    | with_reducible first | refine keeps_ite ?_ ?_ | refine keepsO_ite ?_ ?_
    | split
    | with_reducible first | refine Keeps.ofPair (by assumption) ?_ | refine Keeps.ofPair2 (by assumption) ?_ | refine Keeps.ofM (by assumption) ?_ | refine Keeps.ofMP (by assumption) ?_ | refine KeepsO.ofMO (by assumption) ?_ | refine Keeps.ofO (by assumption) ?_
    | dsimp (zeta := false) only
    | dsimp only

theorem keeps_prtStepped (d : Nat) {s t : State} (hk : Keeps s t) : Keeps s (prtStepped d t) := by
  unfold prtStepped
  repeat' first
    | with_reducible first | assumption | apply keeps_foldl | apply keeps_setPort | apply keeps_gateAdvance | apply keeps_sgateNow
    | with_reducible refine fun _ => ?_
    | with_reducible fail_if_no_progress (refine Keeps.same ?_ rfl rfl rfl)
    | ((try lift_lets); intro x; first | (refine (fun hx : Keeps s x => ?_) ?_; (on_goal 1 => clear_value x); (on_goal 2 => subst x)) | (have hf : ∀ a, x a = x a := fun _ => rfl; clear hf; subst x) | clear_value x | subst x)
    | with_reducible first | refine keeps_ite ?_ ?_ | refine keepsO_ite ?_ ?_ | refine keepsP_ite ?_ ?_
    | split
    | with_reducible first | refine Keeps.ofPair (by assumption) ?_ | refine Keeps.ofPair2 (by assumption) ?_ | refine Keeps.ofM (by assumption) ?_ | refine Keeps.ofMP (by assumption) ?_ | refine KeepsO.ofMO (by assumption) ?_ | refine Keeps.ofO (by assumption) ?_
    | beta_reduce
    | dsimp (zeta := false) only
    | dsimp only

theorem keeps_execTasConfigChange (p : Nat) {s t : State} (hk : Keeps s t) : KeepsO s (execTasConfigChange p t) := by
  unfold execTasConfigChange
  repeat' first
    | with_reducible first | assumption | apply KeepsO.next | apply KeepsO.stay | apply keeps_tasConfigChangeAct | apply keeps_stay | apply keeps_sgateNow
    | with_reducible refine fun _ => ?_
    | with_reducible fail_if_no_progress (refine Keeps.same ?_ rfl rfl rfl)
    | ((try lift_lets); intro x; first | (refine (fun hx : Keeps s x => ?_) ?_; (on_goal 1 => clear_value x); (on_goal 2 => subst x)) | (have hf : ∀ a, x a = x a := fun _ => rfl; clear hf; subst x) | clear_value x | subst x)
    | with_reducible first | refine keeps_ite ?_ ?_ | refine keepsO_ite ?_ ?_ | refine keepsP_ite ?_ ?_
    | split
    | with_reducible first | refine Keeps.ofPair (by assumption) ?_ | refine Keeps.ofPair2 (by assumption) ?_ | refine Keeps.ofM (by assumption) ?_ | refine Keeps.ofMP (by assumption) ?_ | refine KeepsO.ofMO (by assumption) ?_ | refine Keeps.ofO (by assumption) ?_
    | beta_reduce
    | dsimp (zeta := false) only
    | dsimp only

theorem keeps_execGateEntryAdvance (p : Nat) {s t : State} (hk : Keeps s t) : KeepsO s (execGateEntryAdvance p t) := by
  unfold execGateEntryAdvance
  repeat' first
    | with_reducible first | assumption | apply KeepsO.next | apply KeepsO.stay | apply keeps_gateEntryAdvanceAct | apply keeps_stay | apply keeps_sgateNow
    | with_reducible refine fun _ => ?_
    | with_reducible fail_if_no_progress (refine Keeps.same ?_ rfl rfl rfl)
    | ((try lift_lets); intro x; first | (refine (fun hx : Keeps s x => ?_) ?_; (on_goal 1 => clear_value x); (on_goal 2 => subst x)) | (have hf : ∀ a, x a = x a := fun _ => rfl; clear hf; subst x) | clear_value x | subst x)
    | with_reducible first | refine keeps_ite ?_ ?_ | refine keepsO_ite ?_ ?_ | refine keepsP_ite ?_ ?_
    | split
    | with_reducible first | refine Keeps.ofPair (by assumption) ?_ | refine Keeps.ofPair2 (by assumption) ?_ | refine Keeps.ofM (by assumption) ?_ | refine Keeps.ofMP (by assumption) ?_ | refine KeepsO.ofMO (by assumption) ?_ | refine Keeps.ofO (by assumption) ?_
    | beta_reduce
    | dsimp (zeta := false) only
    | dsimp only

theorem keeps_mdioCmd (v : Word) {s t : State} (hk : Keeps s t) : Keeps s (mdioCmd v t) := by
  unfold mdioCmd
  repeat' first
    | with_reducible first | assumption | apply keeps_emit | apply keeps_set | apply keeps_wr
    | with_reducible first | refine keeps_ite ?_ ?_ | refine keepsO_ite ?_ ?_
    | split

theorem keeps_mdioOp (op : Nat) (a : Agent) (v : Word) {s t : State} (hk : Keeps s t) : KeepsO s (mdioOp op a v t) := by
  unfold mdioOp
  repeat' first
    | with_reducible first | assumption | apply KeepsO.next | apply KeepsO.fault | apply KeepsO.stay | apply keeps_stay | apply keeps_access | apply keeps_mdioCmd
    | with_reducible refine fun _ => ?_
    | with_reducible first | refine keeps_ite ?_ ?_ | refine keepsO_ite ?_ ?_
    | split
    | beta_reduce

theorem keeps_execMdioC22Write (a : Agent) (v : Word) {s t : State} (hk : Keeps s t) : KeepsO s (execMdioC22Write a v t) := by
  unfold execMdioC22Write
  repeat' first
    | with_reducible first | assumption | apply KeepsO.next | apply KeepsO.fault | apply KeepsO.stay | apply keeps_mdioOp

theorem keeps_execMdioC22Read (a : Agent) (v : Word) {s t : State} (hk : Keeps s t) : KeepsO s (execMdioC22Read a v t) := by
  unfold execMdioC22Read
  repeat' first
    | with_reducible first | assumption | apply KeepsO.next | apply KeepsO.fault | apply KeepsO.stay | apply keeps_mdioOp

theorem keeps_execMdioC45Address (a : Agent) (v : Word) {s t : State} (hk : Keeps s t) : KeepsO s (execMdioC45Address a v t) := by
  unfold execMdioC45Address
  repeat' first
    | with_reducible first | assumption | apply KeepsO.next | apply KeepsO.fault | apply KeepsO.stay | apply keeps_mdioOp

theorem keeps_execMdioC45Write (a : Agent) (v : Word) {s t : State} (hk : Keeps s t) : KeepsO s (execMdioC45Write a v t) := by
  unfold execMdioC45Write
  repeat' first
    | with_reducible first | assumption | apply KeepsO.next | apply KeepsO.fault | apply KeepsO.stay | apply keeps_mdioOp

theorem keeps_execMdioC45Read (a : Agent) (v : Word) {s t : State} (hk : Keeps s t) : KeepsO s (execMdioC45Read a v t) := by
  unfold execMdioC45Read
  repeat' first
    | with_reducible first | assumption | apply KeepsO.next | apply KeepsO.fault | apply KeepsO.stay | apply keeps_mdioOp

theorem keeps_execMdioC45ReadIncrement (a : Agent) (v : Word) {s t : State} (hk : Keeps s t) : KeepsO s (execMdioC45ReadIncrement a v t) := by
  unfold execMdioC45ReadIncrement
  repeat' first
    | with_reducible first | assumption | apply KeepsO.next | apply KeepsO.fault | apply KeepsO.stay | apply keeps_mdioOp

theorem keeps_execMdioFrameDone (data : Word) {s t : State} (hk : Keeps s t) : KeepsO s (execMdioFrameDone data t) := by
  unfold execMdioFrameDone
  repeat' first
    | with_reducible first | assumption | apply KeepsO.next | apply KeepsO.fault | apply KeepsO.stay | apply keeps_stay | apply keeps_wr | apply keeps_cause | apply keeps_set
    | ((try lift_lets); intro x; first | (refine (fun hx : Keeps s x => ?_) ?_; (on_goal 1 => clear_value x); (on_goal 2 => subst x)) | (have hf : ∀ a, x a = x a := fun _ => rfl; clear hf; subst x) | clear_value x | subst x)
    | with_reducible first | refine keeps_ite ?_ ?_ | refine keepsO_ite ?_ ?_
    | split

end Sys2Proof.Machine
end

