-- ==== Sys2Proof/Laws/KeepsHifCore.lean ====
section
/-!
SUPPORT. What Machine/HifCore.lean keeps (Laws/Keeps.lean).
-/
namespace Sys2Proof.Machine
set_option linter.unusedTactic false
set_option linter.unreachableTactic false
set_option linter.unusedVariables false

theorem keeps_setQp (q : Nat) (x : Qp) {s t : State} (hk : Keeps s t) : Keeps s (State.setQp t q x) := by
  unfold State.setQp
  repeat' first
    | with_reducible assumption
    | with_reducible refine fun _ => ?_
    | with_reducible fail_if_no_progress (refine Keeps.same ?_ rfl rfl rfl)
    | ((try lift_lets); intro x; first | (refine (fun hx : Keeps s x => ?_) ?_; (on_goal 1 => clear_value x); (on_goal 2 => subst x)) | (have hf : ∀ a, x a = x a := fun _ => rfl; clear hf; subst x) | (have hf : (x : Hif) = x := rfl; clear hf; subst x) | clear_value x | subst x)
    | beta_reduce

theorem keeps_dmaWrite (pkm : Bool) (a : Nat) (bs : List Byte) {s t : State} (hk : Keeps s t) : Keeps s (dmaWrite pkm a bs t) := by
  unfold dmaWrite
  split
  · exact hk
  · split
    · exact keeps_pkt_wrBytes _ _ hk
    · split
      · exact Keeps.mems hk id id id id (Mem.wf_wrBytes _ _ _)
      · exact Keeps.same hk rfl rfl rfl

theorem keeps_cqFlush (q : Nat) (x0 : Nat) {s t : State} (hk : Keeps s t) : Keeps s (cqFlush q x0 t) := by
  induction x0 generalizing q t with
  | zero =>
    simp only [cqFlush]
    repeat' first
      | with_reducible apply ih
      | with_reducible first | assumption | apply keeps_dmaWrite | apply keeps_setQp | apply keeps_crossing
      | with_reducible fail_if_no_progress (refine Keeps.same ?_ rfl rfl rfl)
      | ((try lift_lets); intro x; first | (refine (fun hx : Keeps s x => ?_) ?_; (on_goal 1 => clear_value x); (on_goal 2 => subst x)) | (have hf : ∀ a, x a = x a := fun _ => rfl; clear hf; subst x) | clear_value x | subst x)
      | with_reducible first | refine keeps_ite ?_ ?_ | refine keepsO_ite ?_ ?_
      | split
      | with_reducible first | refine Keeps.ofPair (by assumption) ?_ | refine Keeps.ofPair2 (by assumption) ?_ | refine Keeps.ofM (by assumption) ?_ | refine Keeps.ofMP (by assumption) ?_ | refine KeepsO.ofMO (by assumption) ?_ | refine Keeps.ofO (by assumption) ?_
      | dsimp (zeta := false) only
      | dsimp only
  | succ n ih =>
    simp only [cqFlush]
    repeat' first
      | with_reducible apply ih
      | with_reducible first | assumption | apply keeps_dmaWrite | apply keeps_setQp | apply keeps_crossing
      | with_reducible fail_if_no_progress (refine Keeps.same ?_ rfl rfl rfl)
      | ((try lift_lets); intro x; first | (refine (fun hx : Keeps s x => ?_) ?_; (on_goal 1 => clear_value x); (on_goal 2 => subst x)) | (have hf : ∀ a, x a = x a := fun _ => rfl; clear hf; subst x) | clear_value x | subst x)
      | with_reducible first | refine keeps_ite ?_ ?_ | refine keepsO_ite ?_ ?_
      | split
      | with_reducible first | refine Keeps.ofPair (by assumption) ?_ | refine Keeps.ofPair2 (by assumption) ?_ | refine Keeps.ofM (by assumption) ?_ | refine Keeps.ofMP (by assumption) ?_ | refine KeepsO.ofMO (by assumption) ?_ | refine Keeps.ofO (by assumption) ?_
      | dsimp (zeta := false) only
      | dsimp only

theorem keeps_entryDone (q idx st r0 r1 : Nat) {s t : State} (hk : Keeps s t) : Keeps s (entryDone q idx st r0 r1 t) := by
  unfold entryDone
  repeat' first
    | with_reducible first | assumption | apply keeps_setQp | apply keeps_cqFlush
    | with_reducible refine fun _ => ?_
    | with_reducible fail_if_no_progress (refine Keeps.same ?_ rfl rfl rfl)
    | ((try lift_lets); intro x; first | (refine (fun hx : Keeps s x => ?_) ?_; (on_goal 1 => clear_value x); (on_goal 2 => subst x)) | (have hf : ∀ a, x a = x a := fun _ => rfl; clear hf; subst x) | clear_value x | subst x)
    | with_reducible first | refine keeps_ite ?_ ?_ | refine keepsO_ite ?_ ?_
    | split
    | with_reducible first | refine Keeps.ofPair (by assumption) ?_ | refine Keeps.ofPair2 (by assumption) ?_ | refine Keeps.ofM (by assumption) ?_ | refine Keeps.ofMP (by assumption) ?_ | refine KeepsO.ofMO (by assumption) ?_ | refine Keeps.ofO (by assumption) ?_
    | beta_reduce

theorem keeps_queueHavoc (q : Nat) {s t : State} (hk : Keeps s t) : Keeps s (queueHavoc q t) := by
  unfold queueHavoc
  repeat' first
    | with_reducible first | assumption | apply keeps_unpredQueue | apply keeps_cqFlush
    | ((try lift_lets); intro x; first | (refine (fun hx : Keeps s x => ?_) ?_; (on_goal 1 => clear_value x); (on_goal 2 => subst x)) | (have hf : ∀ a, x a = x a := fun _ => rfl; clear hf; subst x) | clear_value x | subst x)
    | with_reducible first | refine keeps_ite ?_ ?_ | refine keepsO_ite ?_ ?_
    | split
    | with_reducible first | refine Keeps.ofPair (by assumption) ?_ | refine Keeps.ofPair2 (by assumption) ?_ | refine Keeps.ofM (by assumption) ?_ | refine Keeps.ofMP (by assumption) ?_ | refine KeepsO.ofMO (by assumption) ?_ | refine Keeps.ofO (by assumption) ?_
    | dsimp (zeta := false) only
    | dsimp only

theorem keeps_dmaResume {s t : State} (hk : Keeps s t) : Keeps s (dmaResume t) := by
  unfold dmaResume
  split
  · exact hk
  · refine keeps_foldl _ _ _ ?_ fun u q hu => keeps_cqFlush _ _ hu
    refine Keeps.mems hk id id id id fun hm => ?_
    generalize t.hif.dmaq = l at *
    generalize t.hif.mem = m at *
    induction l generalizing m with
    | nil => exact hm
    | cons e l ih => exact ih _ (Mem.wf_wrBytes _ _ _ hm)

theorem keeps_hostDeliver (k : Pkt) {s t : State} (hk : Keeps s t) : Keeps s (hostDeliver k t) := by
  unfold hostDeliver
  repeat' first
    | with_reducible first | assumption | apply keeps_freeBuf | apply keeps_bump | apply keeps_dmaWrite | apply keeps_unpredDevice | apply keeps_entryDone
    | ((try lift_lets); intro x; first | (refine (fun hx : Keeps s x => ?_) ?_; (on_goal 1 => clear_value x); (on_goal 2 => subst x)) | (have hf : ∀ a, x a = x a := fun _ => rfl; clear hf; subst x) | clear_value x | subst x)
    | with_reducible first | refine keeps_ite ?_ ?_ | refine keepsO_ite ?_ ?_
    | split
    | with_reducible first | refine Keeps.ofPair (by assumption) ?_ | refine Keeps.ofPair2 (by assumption) ?_ | refine Keeps.ofM (by assumption) ?_ | refine Keeps.ofMP (by assumption) ?_ | refine KeepsO.ofMO (by assumption) ?_ | refine Keeps.ofO (by assumption) ?_
    | dsimp (zeta := false) only
    | dsimp only

end Sys2Proof.Machine
end

