-- ==== Sys2Proof/Laws/KeepsDistaff.lean ====
section
/-!
SUPPORT. What Machine/Distaff.lean keeps (Laws/Keeps.lean).
-/
namespace Sys2Proof.Machine
set_option linter.unusedTactic false
set_option linter.unreachableTactic false
set_option linter.unusedVariables false

theorem keeps_setLast (y n : Nat) {s t : State} (hk : Keeps s t) : Keeps s (setLast y n t) := by
  unfold setLast
  repeat' first
    | with_reducible assumption
    | with_reducible refine fun _ => ?_
    | with_reducible fail_if_no_progress (refine Keeps.same ?_ rfl rfl rfl)
    | ((try lift_lets); intro x; first | (refine (fun hx : Keeps s x => ?_) ?_; (on_goal 1 => clear_value x); (on_goal 2 => subst x)) | (have hf : ∀ a, x a = x a := fun _ => rfl; clear hf; subst x) | clear_value x | subst x)
    | beta_reduce

theorem keeps_setTrace (i v : Nat) {s t : State} (hk : Keeps s t) : Keeps s (setTrace i v t) := by
  unfold setTrace
  repeat' first
    | with_reducible assumption
    | with_reducible refine fun _ => ?_
    | with_reducible fail_if_no_progress (refine Keeps.same ?_ rfl rfl rfl)
    | ((try lift_lets); intro x; first | (refine (fun hx : Keeps s x => ?_) ?_; (on_goal 1 => clear_value x); (on_goal 2 => subst x)) | (have hf : ∀ a, x a = x a := fun _ => rfl; clear hf; subst x) | clear_value x | subst x)
    | beta_reduce

theorem keeps_traceLost (n : Nat) {s t : State} (hk : Keeps s t) : Keeps s (traceLost n t) := by
  unfold traceLost
  repeat' first
    | with_reducible first | assumption | apply keeps_bump

theorem keeps_traceFull {s t : State} (hk : Keeps s t) : Keeps s (traceFull t) := by
  unfold traceFull
  repeat' first
    | with_reducible first | assumption | apply keeps_cause

theorem keeps_traceBlock (first : Nat) {s t : State} (hk : Keeps s t) : Keeps s (traceBlock first t) := by
  unfold traceBlock
  repeat' first
    | with_reducible first | assumption | apply keeps_pkt_free | apply keeps_traceFull | apply keeps_traceLost | apply keeps_wr | apply keeps_pkt_wrBytes | apply keeps_pkt_wr | apply keeps_pkt_clear | apply keeps_pkt_nil
    | with_reducible refine fun _ => ?_
    | ((try lift_lets); intro x; first | (refine (fun hx : Keeps s x => ?_) ?_; (on_goal 1 => clear_value x); (on_goal 2 => subst x)) | (have hf : ∀ a, x a = x a := fun _ => rfl; clear hf; subst x) | clear_value x | subst x)
    | with_reducible first | refine keeps_ite ?_ ?_ | refine keepsO_ite ?_ ?_
    | split
    | beta_reduce

theorem keeps_traceRec (kind y seq core thr prio arg : Nat) {s t : State} (hk : Keeps s t) : Keeps s (traceRec kind y seq core thr prio arg t) := by
  unfold traceRec
  repeat' first
    | with_reducible first | assumption | apply keeps_traceLost | apply keeps_setTrace | apply keeps_set | apply keeps_traceFull | apply keeps_traceBlock
    | with_reducible fail_if_no_progress (refine Keeps.same ?_ rfl rfl rfl)
    | ((try lift_lets); intro x; first | (refine (fun hx : Keeps s x => ?_) ?_; (on_goal 1 => clear_value x); (on_goal 2 => subst x)) | (have hf : ∀ a, x a = x a := fun _ => rfl; clear hf; subst x) | clear_value x | subst x)
    | with_reducible first | refine keeps_ite ?_ ?_ | refine keepsO_ite ?_ ?_
    | split

theorem keeps_traceTask (kind arg : Nat) (t : Task) {s u0 : State} (hk : Keeps s u0) : Keeps s (traceTask kind arg t u0) := by
  unfold traceTask
  repeat' first
    | with_reducible first | assumption | apply keeps_traceRec

theorem keeps_traceSelect (v : Word) {s t : State} (hk : Keeps s t) : Keeps s (traceSelect v t) := by
  unfold traceSelect
  repeat' first
    | with_reducible first | assumption | apply keeps_wr

theorem keeps_execTraceRecordSelect (a : Agent) (v : Word) {s t : State} (hk : Keeps s t) : KeepsO s (execTraceRecordSelect a v t) := by
  unfold execTraceRecordSelect
  repeat' first
    | with_reducible first | assumption | apply KeepsO.next | apply KeepsO.fault | apply KeepsO.stay | apply keeps_access | apply keeps_traceSelect
    | with_reducible refine fun _ => ?_
    | beta_reduce

theorem keeps_traceCtlWrite (v : Word) {s t : State} (hk : Keeps s t) : Keeps s (traceCtlWrite v t) := by
  unfold traceCtlWrite
  repeat' first
    | with_reducible first | assumption | apply keeps_wr
    | with_reducible fail_if_no_progress (refine Keeps.same ?_ rfl rfl rfl)
    | ((try lift_lets); intro x; first | (refine (fun hx : Keeps s x => ?_) ?_; (on_goal 1 => clear_value x); (on_goal 2 => subst x)) | (have hf : ∀ a, x a = x a := fun _ => rfl; clear hf; subst x) | clear_value x | subst x)
    | with_reducible first | refine keeps_ite ?_ ?_ | refine keepsO_ite ?_ ?_
    | split

theorem keeps_execTraceModeChange (a : Agent) (v : Word) {s t : State} (hk : Keeps s t) : KeepsO s (execTraceModeChange a v t) := by
  unfold execTraceModeChange
  repeat' first
    | with_reducible first | assumption | apply KeepsO.next | apply KeepsO.fault | apply KeepsO.stay | apply keeps_stay | apply keeps_access | apply keeps_traceCtlWrite
    | with_reducible refine fun _ => ?_
    | with_reducible first | refine keeps_ite ?_ ?_ | refine keepsO_ite ?_ ?_
    | split
    | beta_reduce

theorem keeps_setTask (t : Task) {s u0 : State} (hk : Keeps s u0) : Keeps s (setTask t u0) := by
  unfold setTask
  repeat' first
    | with_reducible assumption
    | with_reducible refine fun _ => ?_
    | with_reducible fail_if_no_progress (refine Keeps.same ?_ rfl rfl rfl)
    | ((try lift_lets); intro x; first | (refine (fun hx : Keeps s x => ?_) ?_; (on_goal 1 => clear_value x); (on_goal 2 => subst x)) | (have hf : ∀ a, x a = x a := fun _ => rfl; clear hf; subst x) | clear_value x | subst x)
    | with_reducible first | refine keeps_ite ?_ ?_ | refine keepsO_ite ?_ ?_
    | split
    | beta_reduce

theorem keeps_dropTask (arg : Nat) (t : Task) {s u0 : State} (hk : Keeps s u0) : Keeps s (dropTask arg t u0) := by
  unfold dropTask
  repeat' first
    | with_reducible first | assumption | apply keeps_traceTask | apply keeps_setTask
    | with_reducible fail_if_no_progress (refine Keeps.same ?_ rfl rfl rfl)
    | ((try lift_lets); intro x; first | (refine (fun hx : Keeps s x => ?_) ?_; (on_goal 1 => clear_value x); (on_goal 2 => subst x)) | (have hf : ∀ a, x a = x a := fun _ => rfl; clear hf; subst x) | clear_value x | subst x)

theorem keeps_loseTask (arg id : Nat) {s t : State} (hk : Keeps s t) : Keeps s (loseTask arg id t) := by
  unfold loseTask
  repeat' first
    | with_reducible first | assumption | apply keeps_dropTask | apply keeps_bump
    | with_reducible fail_if_no_progress (refine Keeps.same ?_ rfl rfl rfl)
    | ((try lift_lets); intro x; first | (refine (fun hx : Keeps s x => ?_) ?_; (on_goal 1 => clear_value x); (on_goal 2 => subst x)) | (have hf : ∀ a, x a = x a := fun _ => rfl; clear hf; subst x) | clear_value x | subst x)
    | split
    | with_reducible first | refine Keeps.ofPair (by assumption) ?_ | refine Keeps.ofPair2 (by assumption) ?_ | refine Keeps.ofM (by assumption) ?_ | refine Keeps.ofMP (by assumption) ?_ | refine KeepsO.ofMO (by assumption) ?_ | refine Keeps.ofO (by assumption) ?_
    | dsimp (zeta := false) only
    | dsimp only

theorem keeps_loseTasks (arg tid : Nat) {s t : State} (hk : Keeps s t) : Keeps s (loseTasks arg tid t) := by
  unfold loseTasks
  repeat' first
    | with_reducible first | assumption | apply keeps_loseTask | apply keeps_setThread | apply keeps_foldl
    | with_reducible refine fun _ => ?_
    | with_reducible fail_if_no_progress (refine Keeps.same ?_ rfl rfl rfl)
    | ((try lift_lets); intro x; first | (refine (fun hx : Keeps s x => ?_) ?_; (on_goal 1 => clear_value x); (on_goal 2 => subst x)) | (have hf : ∀ a, x a = x a := fun _ => rfl; clear hf; subst x) | clear_value x | subst x)
    | beta_reduce

theorem keeps_boundCheck (y : Nat) {s t : State} (hk : Keeps s t) : Keeps s (boundCheck y t) := by
  unfold boundCheck
  repeat' first
    | with_reducible first | assumption | apply keeps_cause | apply keeps_set
    | ((try lift_lets); intro x; first | (refine (fun hx : Keeps s x => ?_) ?_; (on_goal 1 => clear_value x); (on_goal 2 => subst x)) | (have hf : ∀ a, x a = x a := fun _ => rfl; clear hf; subst x) | clear_value x | subst x)
    | with_reducible first | refine keeps_ite ?_ ?_ | refine keepsO_ite ?_ ?_
    | split

theorem keeps_admitLog (t : Task) {s u0 : State} (hk : Keeps s u0) : Keeps s (admitLog t u0) := by
  unfold admitLog
  repeat' first
    | with_reducible first | assumption | apply keeps_plySend | apply keeps_keepBuf
    | ((try lift_lets); intro x; first | (refine (fun hx : Keeps s x => ?_) ?_; (on_goal 1 => clear_value x); (on_goal 2 => subst x)) | (have hf : ∀ a, x a = x a := fun _ => rfl; clear hf; subst x) | clear_value x | subst x)
    | with_reducible first | refine keeps_ite ?_ ?_ | refine keepsO_ite ?_ ?_
    | split

theorem keeps_admitWith (k : Pkt) (core seq : Nat) {s t : State} (hk : Keeps s t) : Keeps s (admitWith k core seq t) := by
  unfold admitWith
  repeat' first
    | with_reducible first | assumption | apply keeps_boundCheck | apply keeps_traceTask | apply keeps_setLast | apply keeps_admitLog
    | with_reducible refine fun _ => ?_
    | with_reducible fail_if_no_progress (refine Keeps.same ?_ rfl rfl rfl)
    | ((try lift_lets); intro x; first | (refine (fun hx : Keeps s x => ?_) ?_; (on_goal 1 => clear_value x); (on_goal 2 => subst x)) | (have hf : ∀ a, x a = x a := fun _ => rfl; clear hf; subst x) | (have hf : (x : Fwd) = x := rfl; clear hf; subst x) | clear_value x | subst x)
    | with_reducible first | refine keeps_ite ?_ ?_ | refine keepsO_ite ?_ ?_
    | split
    | beta_reduce

theorem keeps_admitPkt (k : Pkt) (core : Nat) {s t : State} (hk : Keeps s t) : Keeps s (admitPkt k core t) := by
  unfold admitPkt
  repeat' first
    | with_reducible first | assumption | apply keeps_admitWith
    | with_reducible fail_if_no_progress (refine Keeps.same ?_ rfl rfl rfl)
    | ((try lift_lets); intro x; first | (refine (fun hx : Keeps s x => ?_) ?_; (on_goal 1 => clear_value x); (on_goal 2 => subst x)) | (have hf : ∀ a, x a = x a := fun _ => rfl; clear hf; subst x) | clear_value x | subst x)
    | with_reducible first | refine keeps_ite ?_ ?_ | refine keepsO_ite ?_ ?_
    | split

theorem keeps_noServ (k : Pkt) {s t : State} (hk : Keeps s t) : Keeps s (noServ k t) := by
  unfold noServ
  repeat' first
    | with_reducible first | assumption | apply keeps_cause | apply keeps_freeBuf | apply keeps_bump | apply keeps_set

theorem keeps_refuseHead (p sel handle : Nat) {s t : State} (hk : Keeps s t) : Keeps s (refuseHead p sel handle t) := by
  unfold refuseHead
  repeat' first
    | with_reducible first | assumption
    | with_reducible fail_if_no_progress (refine Keeps.same ?_ rfl rfl rfl)
    | ((try lift_lets); intro x; first | (refine (fun hx : Keeps s x => ?_) ?_; (on_goal 1 => clear_value x); (on_goal 2 => subst x)) | (have hf : ∀ a, x a = x a := fun _ => rfl; clear hf; subst x) | clear_value x | subst x)
    | with_reducible first | refine keeps_ite ?_ ?_ | refine keepsO_ite ?_ ?_
    | split
    | with_reducible first | refine Keeps.ofPair (by assumption) ?_ | refine Keeps.ofPair2 (by assumption) ?_ | refine Keeps.ofM (by assumption) ?_ | refine Keeps.ofMP (by assumption) ?_ | refine KeepsO.ofMO (by assumption) ?_ | refine Keeps.ofO (by assumption) ?_
    | dsimp (zeta := false) only
    | dsimp only

theorem keeps_packetAdmit (p sel : Nat) {s t : State} (hk : Keeps s t) : KeepsO s (packetAdmit p sel t) := by
  unfold packetAdmit
  repeat' first
    | with_reducible first | assumption | apply keeps_refuseHead | apply KeepsO.next | apply KeepsO.fault | apply KeepsO.stay | apply keeps_stay | apply keeps_entryDone | apply keeps_admitPkt | apply keeps_noServ | apply keeps_setAdm | apply keeps_dropPkt
    | with_reducible fail_if_no_progress (refine Keeps.same ?_ rfl rfl rfl)
    | ((try lift_lets); intro x; first | (refine (fun hx : Keeps s x => ?_) ?_; (on_goal 1 => clear_value x); (on_goal 2 => subst x)) | (have hf : ∀ a, x a = x a := fun _ => rfl; clear hf; subst x) | clear_value x | subst x)
    | with_reducible first | refine keeps_ite ?_ ?_ | refine keepsO_ite ?_ ?_
    | split
    | with_reducible first | refine Keeps.ofPair (by assumption) ?_ | refine Keeps.ofPair2 (by assumption) ?_ | refine Keeps.ofM (by assumption) ?_ | refine Keeps.ofMP (by assumption) ?_ | refine KeepsO.ofMO (by assumption) ?_ | refine Keeps.ofO (by assumption) ?_
    | dsimp (zeta := false) only
    | dsimp only

theorem keeps_coreWrite (n a : Nat) (bs : List Byte) {s t : State} (hk : Keeps s t) : Keeps s (coreWrite n a bs t) := by
  unfold coreWrite
  repeat' first
    | with_reducible first | assumption | apply keeps_setCore | apply keeps_foldl
    | with_reducible refine fun _ => ?_
    | with_reducible fail_if_no_progress (refine Keeps.same ?_ rfl rfl rfl)
    | ((try lift_lets); intro x; first | (refine (fun hx : Keeps s x => ?_) ?_; (on_goal 1 => clear_value x); (on_goal 2 => subst x)) | (have hf : ∀ a, x a = x a := fun _ => rfl; clear hf; subst x) | clear_value x | subst x)
    | with_reducible first | refine keeps_ite ?_ ?_ | refine keepsO_ite ?_ ?_
    | split
    | with_reducible first | refine Keeps.ofPair (by assumption) ?_ | refine Keeps.ofPair2 (by assumption) ?_ | refine Keeps.ofM (by assumption) ?_ | refine Keeps.ofMP (by assumption) ?_ | refine KeepsO.ofMO (by assumption) ?_ | refine Keeps.ofO (by assumption) ?_
    | beta_reduce

theorem keeps_deliverTask (t : Task) (n thr : Nat) {s u0 : State} (hk : Keeps s u0) : Keeps s (deliverTask t n thr u0) := by
  unfold deliverTask
  repeat' first
    | with_reducible first | assumption | apply keeps_setTask | apply keeps_coreWrite | apply keeps_setThread | apply keeps_traceTask | apply keeps_resetReqs
    | with_reducible fail_if_no_progress (refine Keeps.same ?_ rfl rfl rfl)
    | ((try lift_lets); intro x; first | (refine (fun hx : Keeps s x => ?_) ?_; (on_goal 1 => clear_value x); (on_goal 2 => subst x)) | (have hf : ∀ a, x a = x a := fun _ => rfl; clear hf; subst x) | clear_value x | subst x)
    | with_reducible first | refine Keeps.ofPair (by assumption) ?_ | refine Keeps.ofPair2 (by assumption) ?_ | refine Keeps.ofM (by assumption) ?_ | refine Keeps.ofMP (by assumption) ?_ | refine KeepsO.ofMO (by assumption) ?_ | refine Keeps.ofO (by assumption) ?_

theorem keeps_completeLookup (tid : Nat) {s t : State} (hk : Keeps s t) : Keeps s (completeLookup tid t) := by
  unfold completeLookup
  repeat' first
    | with_reducible first | assumption | apply keeps_unpredBlock | apply keeps_draw | apply keeps_raiseEvent | apply keeps_setThread | apply keeps_meetAll
    | with_reducible fail_if_no_progress (refine Keeps.same ?_ rfl rfl rfl)
    | ((try lift_lets); intro x; first | (refine (fun hx : Keeps s x => ?_) ?_; (on_goal 1 => clear_value x); (on_goal 2 => subst x)) | (have hf : ∀ a, x a = x a := fun _ => rfl; clear hf; subst x) | clear_value x | subst x)
    | with_reducible first | refine keeps_ite ?_ ?_ | refine keepsO_ite ?_ ?_
    | split
    | with_reducible first | refine Keeps.ofPair (by assumption) ?_ | refine Keeps.ofPair2 (by assumption) ?_ | refine Keeps.ofM (by assumption) ?_ | refine Keeps.ofMP (by assumption) ?_ | refine KeepsO.ofMO (by assumption) ?_ | refine Keeps.ofO (by assumption) ?_
    | dsimp (zeta := false) only
    | dsimp only

theorem keeps_execLookupResult (tid : Nat) {s t : State} (hk : Keeps s t) : KeepsO s (execLookupResult tid t) := by
  unfold execLookupResult
  repeat' first
    | with_reducible first | assumption | apply KeepsO.next | apply KeepsO.fault | apply KeepsO.stay | apply keeps_stay | apply keeps_completeLookup
    | with_reducible fail_if_no_progress (refine Keeps.same ?_ rfl rfl rfl)
    | ((try lift_lets); intro x; first | (refine (fun hx : Keeps s x => ?_) ?_; (on_goal 1 => clear_value x); (on_goal 2 => subst x)) | (have hf : ∀ a, x a = x a := fun _ => rfl; clear hf; subst x) | clear_value x | subst x)
    | with_reducible first | refine keeps_ite ?_ ?_ | refine keepsO_ite ?_ ?_
    | split
    | with_reducible first | refine Keeps.ofPair (by assumption) ?_ | refine Keeps.ofPair2 (by assumption) ?_ | refine Keeps.ofM (by assumption) ?_ | refine Keeps.ofMP (by assumption) ?_ | refine KeepsO.ofMO (by assumption) ?_ | refine Keeps.ofO (by assumption) ?_
    | dsimp (zeta := false) only
    | dsimp only

theorem keeps_preempt (t : Task) (n thr : Nat) {s u0 : State} (hk : Keeps s u0) : Keeps s (preempt t n thr u0) := by
  unfold preempt
  repeat' first
    | with_reducible first | assumption | apply keeps_traceTask | apply keeps_setTask | apply keeps_bump | apply keeps_deliverTask | apply keeps_setThread
    | with_reducible fail_if_no_progress (refine Keeps.same ?_ rfl rfl rfl)
    | ((try lift_lets); intro x; first | (refine (fun hx : Keeps s x => ?_) ?_; (on_goal 1 => clear_value x); (on_goal 2 => subst x)) | (have hf : ∀ a, x a = x a := fun _ => rfl; clear hf; subst x) | clear_value x | subst x)
    | split
    | with_reducible first | refine Keeps.ofPair (by assumption) ?_ | refine Keeps.ofPair2 (by assumption) ?_ | refine Keeps.ofM (by assumption) ?_ | refine Keeps.ofMP (by assumption) ?_ | refine KeepsO.ofMO (by assumption) ?_ | refine Keeps.ofO (by assumption) ?_
    | dsimp (zeta := false) only
    | dsimp only

theorem keeps_execTaskDispatch (n thr : Nat) {s t : State} (hk : Keeps s t) : KeepsO s (execTaskDispatch n thr t) := by
  unfold execTaskDispatch
  repeat' first
    | with_reducible first | assumption | apply KeepsO.next | apply KeepsO.fault | apply KeepsO.stay | apply keeps_stay | apply keeps_deliverTask | apply keeps_completeLookup | apply keeps_preempt
    | with_reducible fail_if_no_progress (refine Keeps.same ?_ rfl rfl rfl)
    | ((try lift_lets); intro x; first | (refine (fun hx : Keeps s x => ?_) ?_; (on_goal 1 => clear_value x); (on_goal 2 => subst x)) | (have hf : ∀ a, x a = x a := fun _ => rfl; clear hf; subst x) | clear_value x | subst x)
    | with_reducible first | refine keeps_ite ?_ ?_ | refine keepsO_ite ?_ ?_
    | split
    | with_reducible first | refine Keeps.ofPair (by assumption) ?_ | refine Keeps.ofPair2 (by assumption) ?_ | refine Keeps.ofM (by assumption) ?_ | refine Keeps.ofMP (by assumption) ?_ | refine KeepsO.ofMO (by assumption) ?_ | refine Keeps.ofO (by assumption) ?_
    | dsimp (zeta := false) only
    | dsimp only

theorem keeps_execTaskSteal (y seq : Nat) {s t : State} (hk : Keeps s t) : KeepsO s (execTaskSteal y seq t) := by
  unfold execTaskSteal
  repeat' first
    | with_reducible first | assumption | apply KeepsO.next | apply KeepsO.fault | apply KeepsO.stay | apply keeps_stay | apply keeps_traceTask | apply keeps_setTask
    | with_reducible refine fun _ => ?_
    | with_reducible fail_if_no_progress (refine Keeps.same ?_ rfl rfl rfl)
    | ((try lift_lets); intro x; first | (refine (fun hx : Keeps s x => ?_) ?_; (on_goal 1 => clear_value x); (on_goal 2 => subst x)) | (have hf : ∀ a, x a = x a := fun _ => rfl; clear hf; subst x) | clear_value x | subst x)
    | with_reducible first | refine keeps_ite ?_ ?_ | refine keepsO_ite ?_ ?_
    | split
    | with_reducible first | refine Keeps.ofPair (by assumption) ?_ | refine Keeps.ofPair2 (by assumption) ?_ | refine Keeps.ofM (by assumption) ?_ | refine Keeps.ofMP (by assumption) ?_ | refine KeepsO.ofMO (by assumption) ?_ | refine Keeps.ofO (by assumption) ?_
    | beta_reduce
    | dsimp (zeta := false) only
    | dsimp only

theorem keeps_resumeParked (tid : Nat) {s t : State} (hk : Keeps s t) : Keeps s (resumeParked tid t) := by
  unfold resumeParked
  dsimp only
  split
  · exact hk
  · split
    · apply keeps_deliverTask; apply keeps_setThread; exact hk
    · apply keeps_setThread
      split
      · apply keeps_traceTask; apply keeps_setTask; exact hk
      · exact hk

theorem keeps_closeTask (t : Task) {s u0 : State} (hk : Keeps s u0) : Keeps s (closeTask t u0) := by
  unfold closeTask
  repeat' first
    | with_reducible first | assumption | apply keeps_closed | apply keeps_traceTask
    | with_reducible refine fun _ => ?_
    | with_reducible fail_if_no_progress (refine Keeps.same ?_ rfl rfl rfl)
    | ((try lift_lets); intro x; first | (refine (fun hx : Keeps s x => ?_) ?_; (on_goal 1 => clear_value x); (on_goal 2 => subst x)) | (have hf : ∀ a, x a = x a := fun _ => rfl; clear hf; subst x) | clear_value x | subst x)
    | beta_reduce

theorem keeps_releaseTx (t : Task) {s u0 : State} (hk : Keeps s u0) : Keeps s (releaseTx t u0) := by
  unfold releaseTx
  repeat' first
    | with_reducible first | assumption | apply keeps_genSeq | apply keeps_egPlaceAll
    | with_reducible fail_if_no_progress (refine Keeps.same ?_ rfl rfl rfl)
    | ((try lift_lets); intro x; first | (refine (fun hx : Keeps s x => ?_) ?_; (on_goal 1 => clear_value x); (on_goal 2 => subst x)) | (have hf : ∀ a, x a = x a := fun _ => rfl; clear hf; subst x) | clear_value x | subst x)
    | split
    | with_reducible first | refine Keeps.ofPair (by assumption) ?_ | refine Keeps.ofPair2 (by assumption) ?_ | refine Keeps.ofM (by assumption) ?_ | refine Keeps.ofMP (by assumption) ?_ | refine KeepsO.ofMO (by assumption) ?_ | refine Keeps.ofO (by assumption) ?_
    | dsimp (zeta := false) only
    | dsimp only

theorem keeps_execSlotClose (y : Nat) {s t : State} (hk : Keeps s t) : KeepsO s (execSlotClose y t) := by
  unfold execSlotClose
  repeat' first
    | with_reducible first | assumption | apply keeps_traceTask | apply KeepsO.next | apply KeepsO.fault | apply KeepsO.stay | apply keeps_stay | apply keeps_bump | apply keeps_closeTask | apply keeps_freeBuf | apply keeps_releaseTx | apply keeps_hostDeliver
    | with_reducible fail_if_no_progress (refine Keeps.same ?_ rfl rfl rfl)
    | ((try lift_lets); intro x; first | (refine (fun hx : Keeps s x => ?_) ?_; (on_goal 1 => clear_value x); (on_goal 2 => subst x)) | (have hf : ∀ a, x a = x a := fun _ => rfl; clear hf; subst x) | clear_value x | subst x)
    | with_reducible first | refine keeps_ite ?_ ?_ | refine keepsO_ite ?_ ?_
    | split
    | with_reducible first | refine Keeps.ofPair (by assumption) ?_ | refine Keeps.ofPair2 (by assumption) ?_ | refine Keeps.ofM (by assumption) ?_ | refine Keeps.ofMP (by assumption) ?_ | refine KeepsO.ofMO (by assumption) ?_ | refine Keeps.ofO (by assumption) ?_
    | dsimp (zeta := false) only
    | dsimp only

theorem keeps_finishTask (id disp mask : Nat) (tag : Option Nat) (len doff : Nat) {s t : State} (hk : Keeps s t) : Keeps s (finishTask id disp mask tag len doff t) := by
  unfold finishTask
  repeat' first
    | with_reducible first | assumption | apply keeps_traceTask | apply keeps_setTask
    | with_reducible fail_if_no_progress (refine Keeps.same ?_ rfl rfl rfl)
    | ((try lift_lets); intro x; first | (refine (fun hx : Keeps s x => ?_) ?_; (on_goal 1 => clear_value x); (on_goal 2 => subst x)) | (have hf : ∀ a, x a = x a := fun _ => rfl; clear hf; subst x) | clear_value x | subst x)
    | split
    | with_reducible first | refine Keeps.ofPair (by assumption) ?_ | refine Keeps.ofPair2 (by assumption) ?_ | refine Keeps.ofM (by assumption) ?_ | refine Keeps.ofMP (by assumption) ?_ | refine KeepsO.ofMO (by assumption) ?_ | refine Keeps.ofO (by assumption) ?_
    | dsimp (zeta := false) only
    | dsimp only

theorem keeps_remapTask (t : Task) {s u0 : State} (hk : Keeps s u0) : Keeps s (remapTask u0 t) := by
  unfold remapTask
  repeat' first
    | with_reducible first | assumption | apply keeps_traceTask | apply keeps_setTask | apply keeps_loseTask
    | with_reducible fail_if_no_progress (refine Keeps.same ?_ rfl rfl rfl)
    | ((try lift_lets); intro x; first | (refine (fun hx : Keeps s x => ?_) ?_; (on_goal 1 => clear_value x); (on_goal 2 => subst x)) | (have hf : ∀ a, x a = x a := fun _ => rfl; clear hf; subst x) | clear_value x | subst x)
    | split
    | with_reducible first | refine Keeps.ofPair (by assumption) ?_ | refine Keeps.ofPair2 (by assumption) ?_ | refine Keeps.ofM (by assumption) ?_ | refine Keeps.ofMP (by assumption) ?_ | refine KeepsO.ofMO (by assumption) ?_ | refine Keeps.ofO (by assumption) ?_
    | dsimp (zeta := false) only
    | dsimp only

theorem keeps_dstCoresLeave (ns : List Nat) {s t : State} (hk : Keeps s t) : Keeps s (dstCoresLeave ns t) := by
  unfold dstCoresLeave
  repeat' first
    | with_reducible first | assumption | apply keeps_loseTasks | apply keeps_remapTask | apply keeps_cause | apply keeps_foldl
    | with_reducible refine fun _ => ?_
    | with_reducible fail_if_no_progress (refine Keeps.same ?_ rfl rfl rfl)
    | ((try lift_lets); intro x; first | (refine (fun hx : Keeps s x => ?_) ?_; (on_goal 1 => clear_value x); (on_goal 2 => subst x)) | (have hf : ∀ a, x a = x a := fun _ => rfl; clear hf; subst x) | clear_value x | subst x)
    | beta_reduce

theorem keeps_ycfgWrite (y : Nat) (v : Word) {s t : State} (hk : Keeps s t) : Keeps s (ycfgWrite y v t) := by
  unfold ycfgWrite
  repeat' first
    | with_reducible first | assumption | apply keeps_wr

theorem keeps_execYarnLimitWrite (a : Agent) (y : Nat) (v : Word) {s t : State} (hk : Keeps s t) : KeepsO s (execYarnLimitWrite a y v t) := by
  unfold execYarnLimitWrite
  repeat' first
    | with_reducible first | assumption | apply KeepsO.next | apply KeepsO.fault | apply KeepsO.stay | apply keeps_stay | apply keeps_access | apply keeps_ycfgWrite
    | with_reducible refine fun _ => ?_
    | with_reducible first | refine keeps_ite ?_ ?_ | refine keepsO_ite ?_ ?_
    | split
    | beta_reduce

theorem keeps_ymaskWrite (lo hi : Word) {s t : State} (hk : Keeps s t) : Keeps s (ymaskWrite lo hi t) := by
  unfold ymaskWrite
  repeat' first
    | with_reducible assumption
    | with_reducible refine fun _ => ?_
    | with_reducible fail_if_no_progress (refine Keeps.same ?_ rfl rfl rfl)
    | ((try lift_lets); intro x; first | (refine (fun hx : Keeps s x => ?_) ?_; (on_goal 1 => clear_value x); (on_goal 2 => subst x)) | (have hf : ∀ a, x a = x a := fun _ => rfl; clear hf; subst x) | clear_value x | subst x)
    | beta_reduce

theorem keeps_execYarnMaskWrite (a : Agent) (v : Word) {s t : State} (hk : Keeps s t) : KeepsO s (execYarnMaskWrite a v t) := by
  unfold execYarnMaskWrite
  repeat' first
    | with_reducible first | assumption | apply KeepsO.next | apply KeepsO.fault | apply KeepsO.stay | apply keeps_access | apply keeps_pairWrite | apply keeps_ymaskWrite
    | with_reducible refine fun _ => ?_
    | beta_reduce

end Sys2Proof.Machine
end

