-- ==== Sys2Proof/Laws/KeepsThreads.lean ====
section
/-!
SUPPORT. What Machine/Threads.lean keeps (Laws/Keeps.lean).
-/
namespace Sys2Proof.Machine
set_option linter.unusedTactic false
set_option linter.unreachableTactic false
set_option linter.unusedVariables false

theorem keeps_raiseSuper {s t : State} (hk : Keeps s t) : Keeps s (raiseSuper t) := by
  unfold raiseSuper
  repeat' first
    | with_reducible first | assumption | apply keeps_raiseEvent

theorem keeps_escHost {s t : State} (hk : Keeps s t) : Keeps s (escHost t) := by
  unfold escHost
  repeat' first
    | with_reducible first | assumption | apply keeps_cause

theorem keeps_notifyFault (tid : Nat) {s t : State} (hk : Keeps s t) : Keeps s (notifyFault tid t) := by
  unfold notifyFault
  repeat' first
    | with_reducible first | assumption | apply keeps_set | apply keeps_raiseEvent | apply keeps_cause | apply keeps_escHost | apply keeps_raiseSuper
    | ((try lift_lets); intro x; first | (refine (fun hx : Keeps s x => ?_) ?_; (on_goal 1 => clear_value x); (on_goal 2 => subst x)) | (have hf : ∀ a, x a = x a := fun _ => rfl; clear hf; subst x) | clear_value x | subst x)
    | with_reducible first | refine keeps_ite ?_ ?_ | refine keepsO_ite ?_ ?_
    | split

theorem keeps_haltThread (st : Nat) (tid : Nat) {s t : State} (hk : Keeps s t) : Keeps s (haltThread st tid t) := by
  unfold haltThread
  repeat' first
    | with_reducible first | assumption | apply keeps_dropWaiter | apply keeps_setThread
    | with_reducible fail_if_no_progress (refine Keeps.same ?_ rfl rfl rfl)
    | ((try lift_lets); intro x; first | (refine (fun hx : Keeps s x => ?_) ?_; (on_goal 1 => clear_value x); (on_goal 2 => subst x)) | (have hf : ∀ a, x a = x a := fun _ => rfl; clear hf; subst x) | clear_value x | subst x)

theorem keeps_threadFault (tid cause_ : Nat) (addr : Word) {s t : State} (hk : Keeps s t) : Keeps s (threadFault tid cause_ addr t) := by
  unfold threadFault
  repeat' first
    | with_reducible first | assumption | apply keeps_setThread | apply keeps_haltThread | apply keeps_loseTasks | apply keeps_notifyFault | apply keeps_plyFault
    | with_reducible fail_if_no_progress (refine Keeps.same ?_ rfl rfl rfl)
    | ((try lift_lets); intro x; first | (refine (fun hx : Keeps s x => ?_) ?_; (on_goal 1 => clear_value x); (on_goal 2 => subst x)) | (have hf : ∀ a, x a = x a := fun _ => rfl; clear hf; subst x) | clear_value x | subst x)
    | with_reducible first | refine keeps_ite ?_ ?_ | refine keepsO_ite ?_ ?_
    | split

theorem keeps_execWatchdogExpiry (tid : Nat) {s t : State} (hk : Keeps s t) : KeepsO s (execWatchdogExpiry tid t) := by
  unfold execWatchdogExpiry
  repeat' first
    | with_reducible first | assumption | apply KeepsO.next | apply KeepsO.fault | apply KeepsO.stay | apply keeps_stay | apply keeps_threadFault
    | ((try lift_lets); intro x; first | (refine (fun hx : Keeps s x => ?_) ?_; (on_goal 1 => clear_value x); (on_goal 2 => subst x)) | (have hf : ∀ a, x a = x a := fun _ => rfl; clear hf; subst x) | clear_value x | subst x)
    | with_reducible first | refine keeps_ite ?_ ?_ | refine keepsO_ite ?_ ?_
    | split

theorem keeps_execEscalationTimeout (tid : Nat) {s t : State} (hk : Keeps s t) : KeepsO s (execEscalationTimeout tid t) := by
  unfold execEscalationTimeout
  repeat' first
    | with_reducible first | assumption | apply KeepsO.next | apply KeepsO.fault | apply KeepsO.stay | apply keeps_stay | apply keeps_raiseSuper | apply keeps_setThread | apply keeps_set
    | with_reducible fail_if_no_progress (refine Keeps.same ?_ rfl rfl rfl)
    | ((try lift_lets); intro x; first | (refine (fun hx : Keeps s x => ?_) ?_; (on_goal 1 => clear_value x); (on_goal 2 => subst x)) | (have hf : ∀ a, x a = x a := fun _ => rfl; clear hf; subst x) | clear_value x | subst x)
    | with_reducible first | refine keeps_ite ?_ ?_ | refine keepsO_ite ?_ ?_
    | split

theorem keeps_execHostEscalationTimeout (tid : Nat) {s t : State} (hk : Keeps s t) : KeepsO s (execHostEscalationTimeout tid t) := by
  unfold execHostEscalationTimeout
  repeat' first
    | with_reducible first | assumption | apply KeepsO.next | apply KeepsO.fault | apply KeepsO.stay | apply keeps_stay | apply keeps_escHost | apply keeps_setThread
    | with_reducible fail_if_no_progress (refine Keeps.same ?_ rfl rfl rfl)
    | ((try lift_lets); intro x; first | (refine (fun hx : Keeps s x => ?_) ?_; (on_goal 1 => clear_value x); (on_goal 2 => subst x)) | (have hf : ∀ a, x a = x a := fun _ => rfl; clear hf; subst x) | clear_value x | subst x)
    | with_reducible first | refine keeps_ite ?_ ?_ | refine keepsO_ite ?_ ?_
    | split

theorem keeps_tcmpWrite (tid v : Nat) {s t : State} (hk : Keeps s t) : Keeps s (tcmpWrite tid v t) := by
  unfold tcmpWrite
  repeat' first
    | with_reducible first | assumption | apply keeps_setThread | apply keeps_raiseEvent
    | with_reducible fail_if_no_progress (refine Keeps.same ?_ rfl rfl rfl)
    | ((try lift_lets); intro x; first | (refine (fun hx : Keeps s x => ?_) ?_; (on_goal 1 => clear_value x); (on_goal 2 => subst x)) | (have hf : ∀ a, x a = x a := fun _ => rfl; clear hf; subst x) | clear_value x | subst x)
    | with_reducible first | refine keeps_ite ?_ ?_ | refine keepsO_ite ?_ ?_
    | split

theorem keeps_execTimerExpiry (tid : Nat) {s t : State} (hk : Keeps s t) : KeepsO s (execTimerExpiry tid t) := by
  unfold execTimerExpiry
  repeat' first
    | with_reducible first | assumption | apply KeepsO.next | apply KeepsO.fault | apply KeepsO.stay | apply keeps_stay | apply keeps_raiseEvent | apply keeps_setThread
    | with_reducible fail_if_no_progress (refine Keeps.same ?_ rfl rfl rfl)
    | ((try lift_lets); intro x; first | (refine (fun hx : Keeps s x => ?_) ?_; (on_goal 1 => clear_value x); (on_goal 2 => subst x)) | (have hf : ∀ a, x a = x a := fun _ => rfl; clear hf; subst x) | clear_value x | subst x)
    | with_reducible first | refine keeps_ite ?_ ?_ | refine keepsO_ite ?_ ?_
    | split

theorem keeps_execThreadSignal (a : Agent) (tid : Nat) {s t : State} (hk : Keeps s t) : KeepsO s (execThreadSignal a tid t) := by
  unfold execThreadSignal
  repeat' first
    | with_reducible first | assumption | apply KeepsO.next | apply KeepsO.fault | apply KeepsO.stay | apply keeps_stay | apply keeps_access | apply keeps_raiseEvent
    | with_reducible refine fun _ => ?_
    | with_reducible first | refine keeps_ite ?_ ?_ | refine keepsO_ite ?_ ?_
    | split
    | beta_reduce

theorem keeps_refuseControl (tid : Nat) {s t : State} (hk : Keeps s t) : Keeps s (refuseControl tid t) := by
  unfold refuseControl
  repeat' first
    | with_reducible first | assumption | apply keeps_set

theorem keeps_startThread (tid pc : Nat) (form : Bool) {s t : State} (hk : Keeps s t) : Keeps s (startThread tid pc form t) := by
  unfold startThread
  repeat' first
    | with_reducible first | assumption | apply keeps_setThread | apply keeps_resetReqs | apply keeps_set
    | ((try lift_lets); intro x; first | (refine (fun hx : Keeps s x => ?_) ?_; (on_goal 1 => clear_value x); (on_goal 2 => subst x)) | (have hf : ∀ a, x a = x a := fun _ => rfl; clear hf; subst x) | clear_value x | subst x)

theorem keeps_threadStop (tid : Nat) (rellk : Bool) {s t : State} (hk : Keeps s t) : Keeps s (threadStop tid rellk t) := by
  unfold threadStop
  repeat' first
    | with_reducible first | assumption | apply keeps_releaseLocks | apply keeps_haltThread | apply keeps_loseTasks | apply keeps_set
    | ((try lift_lets); intro x; first | (refine (fun hx : Keeps s x => ?_) ?_; (on_goal 1 => clear_value x); (on_goal 2 => subst x)) | (have hf : ∀ a, x a = x a := fun _ => rfl; clear hf; subst x) | clear_value x | subst x)
    | with_reducible first | refine keeps_ite ?_ ?_ | refine keepsO_ite ?_ ?_
    | split

theorem keeps_threadRestart (tid : Nat) (v : Word) {s t : State} (hk : Keeps s t) : Keeps s (threadRestart tid v t) := by
  unfold threadRestart
  repeat' first
    | with_reducible first | assumption | apply keeps_dropWaiter | apply keeps_loseTasks | apply keeps_releaseLocks | apply keeps_startThread
    | ((try lift_lets); intro x; first | (refine (fun hx : Keeps s x => ?_) ?_; (on_goal 1 => clear_value x); (on_goal 2 => subst x)) | (have hf : ∀ a, x a = x a := fun _ => rfl; clear hf; subst x) | clear_value x | subst x)
    | with_reducible first | refine keeps_ite ?_ ?_ | refine keepsO_ite ?_ ?_
    | split

theorem keeps_tctlWrite (a : Agent) (tid : Nat) (v : Word) {s t : State} (hk : Keeps s t) : Keeps s (tctlWrite a tid v t) := by
  unfold tctlWrite
  repeat' first
    | with_reducible first | assumption | apply keeps_refuseControl | apply keeps_threadStop | apply keeps_threadRestart
    | with_reducible fail_if_no_progress (refine Keeps.same ?_ rfl rfl rfl)
    | ((try lift_lets); intro x; first | (refine (fun hx : Keeps s x => ?_) ?_; (on_goal 1 => clear_value x); (on_goal 2 => subst x)) | (have hf : ∀ a, x a = x a := fun _ => rfl; clear hf; subst x) | clear_value x | subst x)
    | with_reducible first | refine keeps_ite ?_ ?_ | refine keepsO_ite ?_ ?_
    | split
    | with_reducible first | refine Keeps.ofPair (by assumption) ?_ | refine Keeps.ofPair2 (by assumption) ?_ | refine Keeps.ofM (by assumption) ?_ | refine Keeps.ofMP (by assumption) ?_ | refine KeepsO.ofMO (by assumption) ?_ | refine Keeps.ofO (by assumption) ?_
    | dsimp (zeta := false) only
    | dsimp only

theorem keeps_execThreadStop (a : Agent) (tid : Nat) (v : Word) {s t : State} (hk : Keeps s t) : KeepsO s (execThreadStop a tid v t) := by
  unfold execThreadStop
  repeat' first
    | with_reducible first | assumption | apply KeepsO.next | apply KeepsO.fault | apply KeepsO.stay | apply keeps_stay | apply keeps_access | apply keeps_tctlWrite
    | with_reducible refine fun _ => ?_
    | with_reducible first | refine keeps_ite ?_ ?_ | refine keepsO_ite ?_ ?_
    | split
    | beta_reduce

theorem keeps_execThreadRestart (a : Agent) (tid : Nat) (v : Word) {s t : State} (hk : Keeps s t) : KeepsO s (execThreadRestart a tid v t) := by
  unfold execThreadRestart
  repeat' first
    | with_reducible first | assumption | apply KeepsO.next | apply KeepsO.fault | apply KeepsO.stay | apply keeps_stay | apply keeps_access | apply keeps_tctlWrite
    | with_reducible refine fun _ => ?_
    | with_reducible first | refine keeps_ite ?_ ?_ | refine keepsO_ite ?_ ?_
    | split
    | beta_reduce

theorem keeps_ctlWrite (a : Agent) (tid o : Nat) (v : Word) {s t : State} (hk : Keeps s t) : Keeps s (ctlWrite a tid o v t) := by
  unfold ctlWrite
  repeat' first
    | with_reducible first | assumption | apply keeps_setThread | apply keeps_set | apply keeps_refuseControl | apply keeps_foldl
    | with_reducible refine fun _ => ?_
    | with_reducible fail_if_no_progress (refine Keeps.same ?_ rfl rfl rfl)
    | ((try lift_lets); intro x; first | (refine (fun hx : Keeps s x => ?_) ?_; (on_goal 1 => clear_value x); (on_goal 2 => subst x)) | (have hf : ∀ a, x a = x a := fun _ => rfl; clear hf; subst x) | clear_value x | subst x)
    | with_reducible first | refine keeps_ite ?_ ?_ | refine keepsO_ite ?_ ?_
    | split
    | beta_reduce

theorem keeps_lmWindowWrite (a : Agent) (n off : Nat) (v : Word) {s t : State} (hk : Keeps s t) : KeepsO s (lmWindowWrite a n off v t) := by
  unfold lmWindowWrite
  repeat' first
    | with_reducible first | assumption | apply keeps_unpredBlock | apply KeepsO.next | apply KeepsO.fault | apply KeepsO.stay | apply keeps_stay | apply keeps_coreWrite
    | with_reducible fail_if_no_progress (refine Keeps.same ?_ rfl rfl rfl)
    | ((try lift_lets); intro x; first | (refine (fun hx : Keeps s x => ?_) ?_; (on_goal 1 => clear_value x); (on_goal 2 => subst x)) | (have hf : ∀ a, x a = x a := fun _ => rfl; clear hf; subst x) | clear_value x | subst x)
    | with_reducible first | refine keeps_ite ?_ ?_ | refine keepsO_ite ?_ ?_
    | split
    | with_reducible first | refine Keeps.ofPair (by assumption) ?_ | refine Keeps.ofPair2 (by assumption) ?_ | refine Keeps.ofM (by assumption) ?_ | refine Keeps.ofMP (by assumption) ?_ | refine KeepsO.ofMO (by assumption) ?_ | refine Keeps.ofO (by assumption) ?_
    | dsimp (zeta := false) only
    | dsimp only

theorem keeps_execLocalMemoryWindowWrite (a : Agent) (n off be : Nat) (v : Word) {s t : State} (hk : Keeps s t) : KeepsO s (execLocalMemoryWindowWrite a n off be v t) := by
  unfold execLocalMemoryWindowWrite
  repeat' first
    | with_reducible first | assumption | apply KeepsO.next | apply KeepsO.fault | apply KeepsO.stay | apply keeps_stay | apply keeps_access | apply keeps_lmWindowWrite
    | with_reducible refine fun _ => ?_
    | with_reducible first | refine keeps_ite ?_ ?_ | refine keepsO_ite ?_ ?_
    | split
    | beta_reduce

theorem keeps_stopCore (cause_ n : Nat) {s t : State} (hk : Keeps s t) : Keeps s (stopCore cause_ n t) := by
  unfold stopCore
  repeat' first
    | with_reducible first | assumption | apply keeps_set | apply keeps_haltThread | apply keeps_setThread | apply keeps_foldl
    | with_reducible refine fun _ => ?_
    | ((try lift_lets); intro x; first | (refine (fun hx : Keeps s x => ?_) ?_; (on_goal 1 => clear_value x); (on_goal 2 => subst x)) | (have hf : ∀ a, x a = x a := fun _ => rfl; clear hf; subst x) | clear_value x | subst x)
    | with_reducible first | refine keeps_ite ?_ ?_ | refine keepsO_ite ?_ ?_
    | split
    | beta_reduce

theorem keeps_rootMove (n : Nat) {s t : State} (hk : Keeps s t) : Keeps s (rootMove n t) := by
  unfold rootMove
  repeat' first
    | with_reducible first | assumption | apply keeps_set | apply keeps_raiseSuper | apply keeps_cause
    | with_reducible refine fun _ => ?_
    | with_reducible fail_if_no_progress (refine Keeps.same ?_ rfl rfl rfl)
    | ((try lift_lets); intro x; first | (refine (fun hx : Keeps s x => ?_) ?_; (on_goal 1 => clear_value x); (on_goal 2 => subst x)) | (have hf : ∀ a, x a = x a := fun _ => rfl; clear hf; subst x) | clear_value x | subst x)
    | with_reducible first | refine keeps_ite ?_ ?_ | refine keepsO_ite ?_ ?_
    | split
    | with_reducible first | refine Keeps.ofPair (by assumption) ?_ | refine Keeps.ofPair2 (by assumption) ?_ | refine Keeps.ofM (by assumption) ?_ | refine Keeps.ofMP (by assumption) ?_ | refine KeepsO.ofMO (by assumption) ?_ | refine Keeps.ofO (by assumption) ?_
    | beta_reduce
    | dsimp (zeta := false) only
    | dsimp only

theorem keeps_coreLocks (n : Nat) {s t : State} (hk : Keeps s t) : Keeps s (coreLocks n t) := by
  unfold coreLocks
  repeat' first
    | with_reducible first | assumption | apply keeps_releaseLocks
    | with_reducible refine fun _ => ?_
    | beta_reduce

theorem keeps_holdThread (tid : Nat) {s t : State} (hk : Keeps s t) : Keeps s (holdThread tid t) := by
  unfold holdThread
  repeat' first
    | with_reducible first | assumption | apply keeps_dropWaiter | apply keeps_loseTasks | apply keeps_setThread
    | with_reducible fail_if_no_progress (refine Keeps.same ?_ rfl rfl rfl)
    | ((try lift_lets); intro x; first | (refine (fun hx : Keeps s x => ?_) ?_; (on_goal 1 => clear_value x); (on_goal 2 => subst x)) | (have hf : ∀ a, x a = x a := fun _ => rfl; clear hf; subst x) | clear_value x | subst x)

theorem keeps_setSvc (n : Nat) (v : Bool) {s t : State} (hk : Keeps s t) : Keeps s (setSvc n v t) := by
  unfold setSvc
  repeat' first
    | with_reducible first | assumption | apply keeps_setCore | apply keeps_set
    | with_reducible fail_if_no_progress (refine Keeps.same ?_ rfl rfl rfl)
    | ((try lift_lets); intro x; first | (refine (fun hx : Keeps s x => ?_) ?_; (on_goal 1 => clear_value x); (on_goal 2 => subst x)) | (have hf : ∀ a, x a = x a := fun _ => rfl; clear hf; subst x) | clear_value x | subst x)

theorem keeps_retireCore (n : Nat) {s t : State} (hk : Keeps s t) : Keeps s (retireCore n t) := by
  unfold retireCore
  repeat' first
    | with_reducible first | assumption | apply keeps_coreLocks | apply keeps_dstCoresLeave | apply keeps_stopCore | apply keeps_setSvc | apply keeps_setCore | apply keeps_set | apply keeps_raiseSuper | apply keeps_rootMove
    | with_reducible fail_if_no_progress (refine Keeps.same ?_ rfl rfl rfl)
    | ((try lift_lets); intro x; first | (refine (fun hx : Keeps s x => ?_) ?_; (on_goal 1 => clear_value x); (on_goal 2 => subst x)) | (have hf : ∀ a, x a = x a := fun _ => rfl; clear hf; subst x) | clear_value x | subst x)
    | with_reducible first | refine keeps_ite ?_ ?_ | refine keepsO_ite ?_ ?_
    | split

theorem keeps_haltCores {s t : State} (hk : Keeps s t) : Keeps s (haltCores t) := by
  unfold haltCores
  repeat' first
    | with_reducible first | assumption | apply keeps_stopCore | apply keeps_foldl
    | with_reducible refine fun _ => ?_
    | beta_reduce

theorem keeps_startCore (n : Nat) {s t : State} (hk : Keeps s t) : Keeps s (startCore n t) := by
  unfold startCore
  repeat' first
    | with_reducible first | assumption | apply keeps_startThread | apply keeps_setSvc | apply keeps_foldl
    | with_reducible refine fun _ => ?_
    | ((try lift_lets); intro x; first | (refine (fun hx : Keeps s x => ?_) ?_; (on_goal 1 => clear_value x); (on_goal 2 => subst x)) | (have hf : ∀ a, x a = x a := fun _ => rfl; clear hf; subst x) | clear_value x | subst x)
    | with_reducible first | refine keeps_ite ?_ ?_ | refine keepsO_ite ?_ ?_
    | split
    | beta_reduce

end Sys2Proof.Machine
end

