-- ==== Sys2Proof/Laws/KeepsApply.lean ====
section
/-!
SUPPORT. What Machine/Apply.lean keeps (Laws/Keeps.lean).
-/
namespace Sys2Proof.Machine
set_option linter.unusedTactic false
set_option linter.unreachableTactic false
set_option linter.unusedVariables false

theorem keeps_coreOff (n : Nat) {s t : State} (hk : Keeps s t) : Keeps s (coreOff n t) := by
  unfold coreOff
  repeat' first
    | with_reducible first | assumption | apply keeps_resetRegs | apply keeps_wr | apply keeps_setCore | apply keeps_set | apply keeps_setThread | apply keeps_foldl
    | with_reducible refine fun _ => ?_
    | with_reducible fail_if_no_progress (refine Keeps.same ?_ rfl rfl rfl)
    | ((try lift_lets); intro x; first | (refine (fun hx : Keeps s x => ?_) ?_; (on_goal 1 => clear_value x); (on_goal 2 => subst x)) | (have hf : ∀ a, x a = x a := fun _ => rfl; clear hf; subst x) | clear_value x | subst x)
    | beta_reduce

theorem keeps_panelOff (p : Nat) {s t : State} (hk : Keeps s t) : Keeps s (panelOff p t) := by
  unfold panelOff
  repeat' first
    | with_reducible first | assumption | apply keeps_setPanel | apply keeps_resetRegs
    | with_reducible fail_if_no_progress (refine Keeps.same ?_ rfl rfl rfl)
    | ((try lift_lets); intro x; first | (refine (fun hx : Keeps s x => ?_) ?_; (on_goal 1 => clear_value x); (on_goal 2 => subst x)) | (have hf : ∀ a, x a = x a := fun _ => rfl; clear hf; subst x) | clear_value x | subst x)

theorem keeps_islandReset (i : Nat) {s t : State} (hk : Keeps s t) : Keeps s (islandReset i t) := by
  unfold islandReset
  have h : Keeps s { t with clk.ahead := mput (fun _ => 0) t.clk.ahead i 0 } := Keeps.same hk rfl rfl rfl
  revert h
  generalize ({ t with clk.ahead := mput (fun _ => 0) t.clk.ahead i 0 } : State) = u
  intro h
  dsimp only
  refine keeps_ite (h) ?_
  refine keeps_ite (keeps_coreOff _ h) ?_
  refine keeps_ite (Keeps.same (keeps_resetRegs _ _ h) rfl rfl rfl) ?_
  refine keeps_ite (Keeps.same (keeps_resetRegs _ _ h) rfl rfl rfl) ?_
  refine keeps_ite (Keeps.same (keeps_resetRegs _ _ h) rfl rfl rfl) ?_
  refine keeps_ite (keeps_pkt_clear _ _ h) ?_
  refine keeps_ite (Keeps.mems (keeps_resetRegs _ _ h) id id (fun _ => rfl) id id) ?_
  refine keeps_ite (Keeps.same (keeps_resetRegs _ _ h) rfl rfl rfl) ?_
  refine keeps_ite (Keeps.same (keeps_resetRegs _ _ (keeps_resetRegs _ _ h)) rfl rfl rfl) ?_
  refine keeps_ite (keeps_panelOff _ h) ?_
  refine keeps_ite (Keeps.same (keeps_resetRegs _ _ (keeps_resetRegs _ _ h)) rfl rfl rfl) ?_
  refine keeps_ite (Keeps.same (keeps_resetRegs _ _ h) rfl rfl rfl) ?_
  refine keeps_ite (Keeps.same (keeps_resetRegs _ _ h) rfl rfl rfl) ?_
  exact h

theorem keeps_islandOn (i : Nat) {s t : State} (hk : Keeps s t) : Keeps s (islandOn i t) := by
  unfold islandOn
  repeat' first
    | with_reducible first | assumption | apply keeps_set | apply keeps_audStart
    | ((try lift_lets); intro x; first | (refine (fun hx : Keeps s x => ?_) ?_; (on_goal 1 => clear_value x); (on_goal 2 => subst x)) | (have hf : ∀ a, x a = x a := fun _ => rfl; clear hf; subst x) | clear_value x | subst x)
    | with_reducible first | refine keeps_ite ?_ ?_ | refine keepsO_ite ?_ ?_
    | split

theorem keeps_islandOff (i : Nat) {s t : State} (hk : Keeps s t) : Keeps s (islandOff i t) := by
  unfold islandOff
  repeat' first
    | with_reducible first | assumption | apply keeps_pwsOff | apply keeps_islandReset | apply keeps_set
    | ((try lift_lets); intro x; first | (refine (fun hx : Keeps s x => ?_) ?_; (on_goal 1 => clear_value x); (on_goal 2 => subst x)) | (have hf : ∀ a, x a = x a := fun _ => rfl; clear hf; subst x) | clear_value x | subst x)
    | with_reducible first | refine keeps_ite ?_ ?_ | refine keepsO_ite ?_ ?_
    | split
    | with_reducible first | refine Keeps.ofPair (by assumption) ?_ | refine Keeps.ofPair2 (by assumption) ?_ | refine Keeps.ofM (by assumption) ?_ | refine Keeps.ofMP (by assumption) ?_ | refine KeepsO.ofMO (by assumption) ?_ | refine Keeps.ofO (by assumption) ?_
    | dsimp (zeta := false) only
    | dsimp only

theorem keeps_setPower (st : Nat) {s t : State} (hk : Keeps s t) : Keeps s (setPower st t) := by
  unfold setPower
  repeat' first
    | with_reducible first | assumption | apply keeps_islandOn | apply keeps_islandOff | apply keeps_foldl
    | with_reducible refine fun _ => ?_
    | with_reducible first | refine keeps_ite ?_ ?_ | refine keepsO_ite ?_ ?_
    | split
    | beta_reduce

theorem keeps_writeFrames (p : Nat) (f : List Byte) {s t : State} (hk : Keeps s t) : Keeps s (writeFrames p f t) := by
  unfold writeFrames
  repeat' first
    | with_reducible first | assumption | apply keeps_setPanel
    | with_reducible fail_if_no_progress (refine Keeps.same ?_ rfl rfl rfl)
    | ((try lift_lets); intro x; first | (refine (fun hx : Keeps s x => ?_) ?_; (on_goal 1 => clear_value x); (on_goal 2 => subst x)) | (have hf : ∀ a, x a = x a := fun _ => rfl; clear hf; subst x) | clear_value x | subst x)

theorem keeps_fillSlot (p : Nat) (f : List Byte) {s t : State} (hk : Keeps s t) : Keeps s (fillSlot p f t) := by
  unfold fillSlot
  repeat' first
    | with_reducible first | assumption | apply keeps_pkt_free | apply keeps_wr | apply keeps_pkt_wrBytes | apply keeps_pkt_wr | apply keeps_pkt_clear | apply keeps_pkt_nil

theorem keeps_placePanel (m : Image) (p : Nat) {s t : State} (hk : Keeps s t) : Keeps s (placePanel m t p) := by
  unfold placePanel
  repeat' first
    | with_reducible first | assumption | apply keeps_wr | apply keeps_fillSlot | apply keeps_writeFrames
    | with_reducible fail_if_no_progress (refine Keeps.same ?_ rfl rfl rfl)
    | ((try lift_lets); intro x; first | (refine (fun hx : Keeps s x => ?_) ?_; (on_goal 1 => clear_value x); (on_goal 2 => subst x)) | (have hf : ∀ a, x a = x a := fun _ => rfl; clear hf; subst x) | clear_value x | subst x)
    | split
    | with_reducible first | refine Keeps.ofPair (by assumption) ?_ | refine Keeps.ofPair2 (by assumption) ?_ | refine Keeps.ofM (by assumption) ?_ | refine Keeps.ofMP (by assumption) ?_ | refine KeepsO.ofMO (by assumption) ?_ | refine Keeps.ofO (by assumption) ?_
    | dsimp (zeta := false) only
    | dsimp only

theorem keeps_placeBram (m : Image) (p : Nat) {s t : State} (hk : Keeps s t) : Keeps s (placeBram m t p) := by
  unfold placeBram
  repeat' first
    | with_reducible first | assumption | apply keeps_setPanel
    | with_reducible fail_if_no_progress (refine Keeps.same ?_ rfl rfl rfl)
    | ((try lift_lets); intro x; first | (refine (fun hx : Keeps s x => ?_) ?_; (on_goal 1 => clear_value x); (on_goal 2 => subst x)) | (have hf : ∀ a, x a = x a := fun _ => rfl; clear hf; subst x) | clear_value x | subst x)
    | split
    | with_reducible first | refine Keeps.ofPair (by assumption) ?_ | refine Keeps.ofPair2 (by assumption) ?_ | refine Keeps.ofM (by assumption) ?_ | refine Keeps.ofMP (by assumption) ?_ | refine KeepsO.ofMO (by assumption) ?_ | refine Keeps.ofO (by assumption) ?_
    | dsimp (zeta := false) only
    | dsimp only

theorem keeps_placeCode (m : Image) (n : Nat) {s t : State} (hk : Keeps s t) : Keeps s (placeCode m t n) := by
  unfold placeCode
  repeat' first
    | with_reducible first | assumption | apply keeps_setCore | apply keeps_setThread | apply keeps_foldl
    | with_reducible refine fun _ => ?_
    | with_reducible fail_if_no_progress (refine Keeps.same ?_ rfl rfl rfl)
    | ((try lift_lets); intro x; first | (refine (fun hx : Keeps s x => ?_) ?_; (on_goal 1 => clear_value x); (on_goal 2 => subst x)) | (have hf : ∀ a, x a = x a := fun _ => rfl; clear hf; subst x) | clear_value x | subst x)
    | split
    | with_reducible first | refine Keeps.ofPair (by assumption) ?_ | refine Keeps.ofPair2 (by assumption) ?_ | refine Keeps.ofM (by assumption) ?_ | refine Keeps.ofMP (by assumption) ?_ | refine KeepsO.ofMO (by assumption) ?_ | refine Keeps.ofO (by assumption) ?_
    | beta_reduce
    | dsimp (zeta := false) only
    | dsimp only

theorem keeps_placeTables (m : Image) {s t : State} (hk : Keeps s t) : Keeps s (placeTables m t) := by
  unfold placeTables
  repeat' first
    | with_reducible first | assumption | apply keeps_tblWrite | apply keeps_foldl
    | with_reducible refine fun _ => ?_
    | ((try lift_lets); intro x; first | (refine (fun hx : Keeps s x => ?_) ?_; (on_goal 1 => clear_value x); (on_goal 2 => subst x)) | (have hf : ∀ a, x a = x a := fun _ => rfl; clear hf; subst x) | clear_value x | subst x)
    | beta_reduce

theorem keeps_placeImage (m : Image) {s t : State} (hk : Keeps s t) : Keeps s (placeImage m t) := by
  unfold placeImage
  repeat' first
    | with_reducible first | assumption | apply keeps_placePanel | apply keeps_placeBram | apply keeps_placeTables | apply keeps_placeCode | apply keeps_foldl
    | with_reducible refine fun _ => ?_
    | ((try lift_lets); intro x; first | (refine (fun hx : Keeps s x => ?_) ?_; (on_goal 1 => clear_value x); (on_goal 2 => subst x)) | (have hf : ∀ a, x a = x a := fun _ => rfl; clear hf; subst x) | clear_value x | subst x)
    | beta_reduce

theorem keeps_applyClock (m : Image) {s t : State} (hk : Keeps s t) : Keeps s (applyClock m t) := by
  unfold applyClock
  repeat' first
    | with_reducible first | assumption | apply keeps_set
    | ((try lift_lets); intro x; first | (refine (fun hx : Keeps s x => ?_) ?_; (on_goal 1 => clear_value x); (on_goal 2 => subst x)) | (have hf : ∀ a, x a = x a := fun _ => rfl; clear hf; subst x) | clear_value x | subst x)

theorem keeps_applyPools (m : Image) {s t : State} (hk : Keeps s t) : Keeps s (applyPools m t) := by
  unfold applyPools
  repeat' first
    | with_reducible first | assumption | apply keeps_set | apply keeps_poolLevels | apply keeps_foldl
    | with_reducible refine fun _ => ?_
    | with_reducible fail_if_no_progress (refine Keeps.same ?_ rfl rfl rfl)
    | ((try lift_lets); intro x; first | (refine (fun hx : Keeps s x => ?_) ?_; (on_goal 1 => clear_value x); (on_goal 2 => subst x)) | (have hf : ∀ a, x a = x a := fun _ => rfl; clear hf; subst x) | clear_value x | subst x)
    | split
    | with_reducible first | refine Keeps.ofPair (by assumption) ?_ | refine Keeps.ofPair2 (by assumption) ?_ | refine Keeps.ofM (by assumption) ?_ | refine Keeps.ofMP (by assumption) ?_ | refine KeepsO.ofMO (by assumption) ?_ | refine Keeps.ofO (by assumption) ?_
    | beta_reduce
    | dsimp (zeta := false) only
    | dsimp only

theorem keeps_applyCores (m : Image) {s t : State} (hk : Keeps s t) : Keeps s (applyCores m t) := by
  unfold applyCores
  repeat' first
    | with_reducible first | assumption | apply keeps_wr64 | apply keeps_set | apply keeps_foldl
    | with_reducible refine fun _ => ?_
    | with_reducible fail_if_no_progress (refine Keeps.same ?_ rfl rfl rfl)
    | ((try lift_lets); intro x; first | (refine (fun hx : Keeps s x => ?_) ?_; (on_goal 1 => clear_value x); (on_goal 2 => subst x)) | (have hf : ∀ a, x a = x a := fun _ => rfl; clear hf; subst x) | clear_value x | subst x)
    | beta_reduce

theorem keeps_applyThreads (m : Image) (which : Nat → Bool) {s t : State} (hk : Keeps s t) : Keeps s (applyThreads m which t) := by
  unfold applyThreads
  repeat' first
    | with_reducible first | assumption | apply keeps_setThread | apply keeps_foldl
    | with_reducible refine fun _ => ?_
    | with_reducible fail_if_no_progress (refine Keeps.same ?_ rfl rfl rfl)
    | ((try lift_lets); intro x; first | (refine (fun hx : Keeps s x => ?_) ?_; (on_goal 1 => clear_value x); (on_goal 2 => subst x)) | (have hf : ∀ a, x a = x a := fun _ => rfl; clear hf; subst x) | clear_value x | subst x)
    | with_reducible first | refine keeps_ite ?_ ?_ | refine keepsO_ite ?_ ?_
    | split
    | beta_reduce

theorem keeps_applyTmask (m : Image) (n : Nat) {s t : State} (hk : Keeps s t) : Keeps s (applyTmask m n t) := by
  unfold applyTmask
  repeat' first
    | with_reducible first | assumption | apply keeps_set | apply keeps_foldl
    | with_reducible refine fun _ => ?_
    | ((try lift_lets); intro x; first | (refine (fun hx : Keeps s x => ?_) ?_; (on_goal 1 => clear_value x); (on_goal 2 => subst x)) | (have hf : ∀ a, x a = x a := fun _ => rfl; clear hf; subst x) | clear_value x | subst x)
    | beta_reduce

theorem keeps_applyNotices (m : Image) {s t : State} (hk : Keeps s t) : Keeps s (applyNotices m t) := by
  unfold applyNotices
  repeat' first
    | with_reducible first | assumption | apply keeps_wr | apply keeps_foldl
    | with_reducible refine fun _ => ?_
    | beta_reduce

theorem keeps_applyAudio (m : Image) {s t : State} (hk : Keeps s t) : Keeps s (applyAudio m t) := by
  unfold applyAudio
  repeat' first
    | with_reducible first | assumption | apply keeps_set | apply keeps_foldl
    | with_reducible refine fun _ => ?_
    | with_reducible fail_if_no_progress (refine Keeps.same ?_ rfl rfl rfl)
    | ((try lift_lets); intro x; first | (refine (fun hx : Keeps s x => ?_) ?_; (on_goal 1 => clear_value x); (on_goal 2 => subst x)) | (have hf : ∀ a, x a = x a := fun _ => rfl; clear hf; subst x) | clear_value x | subst x)
    | with_reducible first | refine keeps_ite ?_ ?_ | refine keepsO_ite ?_ ?_
    | split
    | with_reducible first | refine Keeps.ofPair (by assumption) ?_ | refine Keeps.ofPair2 (by assumption) ?_ | refine Keeps.ofM (by assumption) ?_ | refine Keeps.ofMP (by assumption) ?_ | refine KeepsO.ofMO (by assumption) ?_ | refine Keeps.ofO (by assumption) ?_
    | beta_reduce
    | dsimp (zeta := false) only
    | dsimp only

theorem keeps_applyMitre (m : Image) {s t : State} (hk : Keeps s t) : Keeps s (applyMitre m t) := by
  unfold applyMitre
  repeat' first
    | with_reducible first | assumption | apply keeps_foldl
    | with_reducible refine fun _ => ?_
    | with_reducible fail_if_no_progress (refine Keeps.same ?_ rfl rfl rfl)
    | ((try lift_lets); intro x; first | (refine (fun hx : Keeps s x => ?_) ?_; (on_goal 1 => clear_value x); (on_goal 2 => subst x)) | (have hf : ∀ a, x a = x a := fun _ => rfl; clear hf; subst x) | clear_value x | subst x)
    | beta_reduce

theorem keeps_bringPanel (m : Image) (rb : List (Nat × Nat)) (p : Nat) {s t : State} (hk : Keeps s t) : Keeps s (bringPanel m rb t p) := by
  unfold bringPanel
  repeat' first
    | with_reducible first | assumption | apply keeps_setPanelSrc | apply keeps_clampPanel | apply keeps_set | apply keeps_setPanelState | apply keeps_applyFrame0 | apply keeps_cause
    | with_reducible fail_if_no_progress (refine Keeps.same ?_ rfl rfl rfl)
    | ((try lift_lets); intro x; first | (refine (fun hx : Keeps s x => ?_) ?_; (on_goal 1 => clear_value x); (on_goal 2 => subst x)) | (have hf : ∀ a, x a = x a := fun _ => rfl; clear hf; subst x) | clear_value x | subst x)
    | with_reducible first | refine keeps_ite ?_ ?_ | refine keepsO_ite ?_ ?_
    | split
    | with_reducible first | refine Keeps.ofPair (by assumption) ?_ | refine Keeps.ofPair2 (by assumption) ?_ | refine Keeps.ofM (by assumption) ?_ | refine Keeps.ofMP (by assumption) ?_ | refine KeepsO.ofMO (by assumption) ?_ | refine Keeps.ofO (by assumption) ?_
    | dsimp (zeta := false) only
    | dsimp only

theorem keeps_bringPanels (m : Image) (rb : List (Nat × Nat)) {s t : State} (hk : Keeps s t) : Keeps s (bringPanels m rb t) := by
  unfold bringPanels
  repeat' first
    | with_reducible first | assumption | apply keeps_resolveClaims | apply keeps_bringPanel | apply keeps_foldl
    | with_reducible refine fun _ => ?_
    | beta_reduce

theorem keeps_startCores (m : Image) (which : Nat → Bool) {s t : State} (hk : Keeps s t) : Keeps s (startCores m which t) := by
  unfold startCores
  repeat' first
    | with_reducible first | assumption | apply keeps_startCore | apply keeps_applyTmask | apply keeps_foldl
    | with_reducible refine fun _ => ?_
    | with_reducible first | refine keeps_ite ?_ ?_ | refine keepsO_ite ?_ ?_
    | split
    | beta_reduce

theorem keeps_applySections (m : Image) (rb : List (Nat × Nat)) {s t : State} (hk : Keeps s t) : Keeps s (applySections m rb t) := by
  unfold applySections
  repeat' first
    | with_reducible first | assumption | apply keeps_applyClock | apply keeps_applyPools | apply keeps_applyCores | apply keeps_applyThreads | apply keeps_applyMitre | apply keeps_applyAudio | apply keeps_applyNotices | apply keeps_bringPanels
    | with_reducible refine fun _ => ?_
    | ((try lift_lets); intro x; first | (refine (fun hx : Keeps s x => ?_) ?_; (on_goal 1 => clear_value x); (on_goal 2 => subst x)) | (have hf : ∀ a, x a = x a := fun _ => rfl; clear hf; subst x) | clear_value x | subst x)
    | beta_reduce

end Sys2Proof.Machine
end

