-- ==== Sys2Proof/Laws/KeepsEvt.lean ====
section
/-!
SUPPORT. What Machine/Evt.lean keeps (Laws/Keeps.lean).
-/
namespace Sys2Proof.Machine
set_option linter.unusedTactic false
set_option linter.unreachableTactic false
set_option linter.unusedVariables false

theorem keeps_srcRead (n : Nat) {s t : State} (hk : Keeps s t) : Keeps s (srcRead n t).2 := by
  unfold srcRead
  repeat' first
    | with_reducible first | assumption | apply keeps_set

theorem keeps_execNoticeSourceRead (a : Agent) (n : Nat) {s t : State} (hk : Keeps s t) : KeepsO s (execNoticeSourceRead a n t) := by
  unfold execNoticeSourceRead
  repeat' first
    | with_reducible first | assumption | apply KeepsO.next | apply KeepsO.fault | apply KeepsO.stay | apply keeps_stay | apply keeps_readRow | apply keeps_srcRead
    | with_reducible refine fun _ => ?_
    | with_reducible first | refine keeps_ite ?_ ?_ | refine keepsO_ite ?_ ?_
    | split
    | beta_reduce

theorem keeps_swRaise (v : Word) {s t : State} (hk : Keeps s t) : KeepsO s (swRaise v t) := by
  unfold swRaise
  repeat' first
    | with_reducible first | assumption | apply keeps_unpredBlock | apply KeepsO.next | apply KeepsO.fault | apply KeepsO.stay | apply keeps_crossing | apply keeps_foldl
    | with_reducible refine fun _ => ?_
    | with_reducible first | refine keeps_ite ?_ ?_ | refine keepsO_ite ?_ ?_
    | split
    | beta_reduce

theorem keeps_execSoftwareRaise (a : Agent) (v : Word) {s t : State} (hk : Keeps s t) : KeepsO s (execSoftwareRaise a v t) := by
  unfold execSoftwareRaise
  repeat' first
    | with_reducible first | assumption | apply KeepsO.next | apply KeepsO.fault | apply KeepsO.stay | apply keeps_access | apply keeps_swRaise
    | with_reducible refine fun _ => ?_
    | beta_reduce

theorem keeps_routeWrite (n : Nat) (v : Word) {s t : State} (hk : Keeps s t) : KeepsO s (routeWrite n v t) := by
  unfold routeWrite
  repeat' first
    | with_reducible first | assumption | apply keeps_unpredBlock | apply KeepsO.next | apply KeepsO.fault | apply KeepsO.stay | apply keeps_wr | apply keeps_deliver
    | ((try lift_lets); intro x; first | (refine (fun hx : Keeps s x => ?_) ?_; (on_goal 1 => clear_value x); (on_goal 2 => subst x)) | (have hf : ∀ a, x a = x a := fun _ => rfl; clear hf; subst x) | clear_value x | subst x)
    | with_reducible first | refine keeps_ite ?_ ?_ | refine keepsO_ite ?_ ?_
    | split

theorem keeps_execRouteEnableWrite (a : Agent) (n : Nat) (v : Word) {s t : State} (hk : Keeps s t) : KeepsO s (execRouteEnableWrite a n v t) := by
  unfold execRouteEnableWrite
  repeat' first
    | with_reducible first | assumption | apply KeepsO.next | apply KeepsO.fault | apply KeepsO.stay | apply keeps_stay | apply keeps_access | apply keeps_routeWrite
    | with_reducible refine fun _ => ?_
    | with_reducible first | refine keeps_ite ?_ ?_ | refine keepsO_ite ?_ ?_
    | split
    | beta_reduce

theorem keeps_msixFlush {s t : State} (hk : Keeps s t) : Keeps s (msixFlush t) := by
  unfold msixFlush
  repeat' first
    | with_reducible first | assumption | apply keeps_foldl
    | with_reducible refine fun _ => ?_
    | with_reducible fail_if_no_progress (refine Keeps.same ?_ rfl rfl rfl)
    | ((try lift_lets); intro x; first | (refine (fun hx : Keeps s x => ?_) ?_; (on_goal 1 => clear_value x); (on_goal 2 => subst x)) | (have hf : ∀ a, x a = x a := fun _ => rfl; clear hf; subst x) | (have hf : (x : Hif) = x := rfl; clear hf; subst x) | clear_value x | subst x)
    | with_reducible first | refine keeps_ite ?_ ?_ | refine keepsO_ite ?_ ?_
    | split
    | beta_reduce

theorem keeps_execMsixUnmask (vec : Option Nat) (addr data : Nat) {s t : State} (hk : Keeps s t) : KeepsO s (execMsixUnmask vec addr data t) := by
  unfold execMsixUnmask
  repeat' first
    | with_reducible first | assumption | apply KeepsO.next | apply KeepsO.fault | apply KeepsO.stay | apply keeps_stay | apply keeps_msixFlush | apply keeps_foldl
    | with_reducible refine fun _ => ?_
    | with_reducible fail_if_no_progress (refine Keeps.same ?_ rfl rfl rfl)
    | ((try lift_lets); intro x; first | (refine (fun hx : Keeps s x => ?_) ?_; (on_goal 1 => clear_value x); (on_goal 2 => subst x)) | (have hf : ∀ a, x a = x a := fun _ => rfl; clear hf; subst x) | (have hf : (x : Hif) = x := rfl; clear hf; subst x) | clear_value x | subst x)
    | with_reducible first | refine keeps_ite ?_ ?_ | refine keepsO_ite ?_ ?_
    | split
    | with_reducible first | refine Keeps.ofPair (by assumption) ?_ | refine Keeps.ofPair2 (by assumption) ?_ | refine Keeps.ofM (by assumption) ?_ | refine Keeps.ofMP (by assumption) ?_ | refine KeepsO.ofMO (by assumption) ?_ | refine Keeps.ofO (by assumption) ?_
    | beta_reduce
    | dsimp (zeta := false) only
    | dsimp only

end Sys2Proof.Machine
end

