-- ==== Sys2Proof/Laws/KeepsReset.lean ====
section
/-!
SUPPORT. What Machine/Reset.lean keeps (Laws/Keeps.lean).
-/
namespace Sys2Proof.Machine
set_option linter.unusedTactic false
set_option linter.unreachableTactic false
set_option linter.unusedVariables false

theorem keeps_burnCollapse {s t : State} (hk : Keeps s t) : Keeps s (burnCollapse t) := by
  unfold burnCollapse
  repeat' first
    | with_reducible first | assumption | apply keeps_draw
    | with_reducible refine fun _ => ?_
    | with_reducible fail_if_no_progress (refine Keeps.same ?_ rfl rfl rfl)
    | ((try lift_lets); intro x; first | (refine (fun hx : Keeps s x => ?_) ?_; (on_goal 1 => clear_value x); (on_goal 2 => subst x)) | (have hf : ∀ a, x a = x a := fun _ => rfl; clear hf; subst x) | clear_value x | subst x)
    | with_reducible first | refine keeps_ite ?_ ?_ | refine keepsO_ite ?_ ?_
    | split
    | with_reducible first | refine Keeps.ofPair (by assumption) ?_ | refine Keeps.ofPair2 (by assumption) ?_ | refine Keeps.ofM (by assumption) ?_ | refine Keeps.ofMP (by assumption) ?_ | refine KeepsO.ofMO (by assumption) ?_ | refine Keeps.ofO (by assumption) ?_
    | beta_reduce
    | dsimp (zeta := false) only
    | dsimp only

theorem keeps_loadFuses {s t : State} (hk : Keeps s t) : Keeps s (loadFuses t) := by
  unfold loadFuses
  repeat' first
    | with_reducible first | assumption | apply keeps_wr | apply keeps_set | apply keeps_wr64 | apply keeps_showDt | apply keeps_foldl
    | with_reducible refine fun _ => ?_
    | ((try lift_lets); intro x; first | (refine (fun hx : Keeps s x => ?_) ?_; (on_goal 1 => clear_value x); (on_goal 2 => subst x)) | (have hf : ∀ a, x a = x a := fun _ => rfl; clear hf; subst x) | clear_value x | subst x)
    | beta_reduce

theorem keeps_deviceReset (bits : Word) (keepStraps : Bool) {s t : State} (hk : Keeps s t) : Keeps s (deviceReset bits keepStraps t) := by
  have hb : Keeps s (burnCollapse t) := keeps_burnCollapse hk
  unfold deviceReset
  revert hb
  generalize burnCollapse t = u
  intro hb
  dsimp only
  apply keeps_loadFuses
  refine keeps_ite (keeps_wr _ _ ?_) ?_ <;>
    refine keeps_foldl _ _ _ (keeps_wr _ _ (keeps_wr _ _ (keeps_wr _ _ (hb.trans ⟨rfl, Nat.le_refl _, fun c => ?_⟩))))
      fun v i hv => keeps_wr _ _ hv
  all_goals
    simp only [State.canonical, Bool.and_eq_true] at c ⊢
    exact ⟨⟨⟨⟨rfl, rfl⟩, rfl⟩, c.1.2⟩, c.2⟩

theorem keeps_journalCut {s t : State} (hk : Keeps s t) : Keeps s (journalCut t) := by
  unfold journalCut
  repeat' first
    | with_reducible first | assumption | apply keeps_draw | apply keeps_jrnCollapse
    | with_reducible fail_if_no_progress (refine Keeps.same ?_ rfl rfl rfl)
    | ((try lift_lets); intro x; first | (refine (fun hx : Keeps s x => ?_) ?_; (on_goal 1 => clear_value x); (on_goal 2 => subst x)) | (have hf : ∀ a, x a = x a := fun _ => rfl; clear hf; subst x) | (have hf : (x : Jrn) = x := rfl; clear hf; subst x) | clear_value x | subst x)
    | split
    | with_reducible first | refine Keeps.ofPair (by assumption) ?_ | refine Keeps.ofPair2 (by assumption) ?_ | refine Keeps.ofM (by assumption) ?_ | refine Keeps.ofMP (by assumption) ?_ | refine KeepsO.ofMO (by assumption) ?_ | refine Keeps.ofO (by assumption) ?_
    | dsimp (zeta := false) only
    | dsimp only

theorem keeps_execPornFall (ns : Nat) (taken released : Bool) {s t : State} (hk : Keeps s t) : KeepsO s (execPornFall ns taken released t) := by
  unfold execPornFall
  repeat' first
    | with_reducible first | assumption | apply KeepsO.next | apply KeepsO.fault | apply KeepsO.stay | apply keeps_stay | apply keeps_deviceReset | apply keeps_journalCut
    | with_reducible fail_if_no_progress (refine Keeps.same ?_ rfl rfl rfl)
    | ((try lift_lets); intro x; first | (refine (fun hx : Keeps s x => ?_) ?_; (on_goal 1 => clear_value x); (on_goal 2 => subst x)) | (have hf : ∀ a, x a = x a := fun _ => rfl; clear hf; subst x) | clear_value x | subst x)
    | with_reducible first | refine keeps_ite ?_ ?_ | refine keepsO_ite ?_ ?_
    | split

theorem keeps_execBrownOut (ns : Nat) (taken retained : Bool) {s t : State} (hk : Keeps s t) : KeepsO s (execBrownOut ns taken retained t) := by
  unfold execBrownOut
  repeat' first
    | with_reducible first | assumption | apply KeepsO.next | apply KeepsO.fault | apply KeepsO.stay | apply keeps_stay | apply keeps_deviceReset | apply keeps_journalCut | apply keeps_wr
    | ((try lift_lets); intro x; first | (refine (fun hx : Keeps s x => ?_) ?_; (on_goal 1 => clear_value x); (on_goal 2 => subst x)) | (have hf : ∀ a, x a = x a := fun _ => rfl; clear hf; subst x) | clear_value x | subst x)
    | with_reducible first | refine keeps_ite ?_ ?_ | refine keepsO_ite ?_ ?_
    | split

theorem keeps_sampleStraps (boot plyrole : Nat) (svcen : Bool) {s t : State} (hk : Keeps s t) : Keeps s (sampleStraps boot plyrole svcen t) := by
  unfold sampleStraps
  repeat' first
    | with_reducible first | assumption | apply keeps_set
    | ((try lift_lets); intro x; first | (refine (fun hx : Keeps s x => ?_) ?_; (on_goal 1 => clear_value x); (on_goal 2 => subst x)) | (have hf : ∀ a, x a = x a := fun _ => rfl; clear hf; subst x) | clear_value x | subst x)

theorem keeps_showStraps {s t : State} (hk : Keeps s t) : Keeps s (showStraps t) := by
  unfold showStraps
  repeat' first
    | with_reducible first | assumption | apply keeps_set
    | ((try lift_lets); intro x; first | (refine (fun hx : Keeps s x => ?_) ?_; (on_goal 1 => clear_value x); (on_goal 2 => subst x)) | (have hf : ∀ a, x a = x a := fun _ => rfl; clear hf; subst x) | clear_value x | subst x)
    | with_reducible first | refine keeps_ite ?_ ?_ | refine keepsO_ite ?_ ?_
    | split

theorem keeps_fansMin {s t : State} (hk : Keeps s t) : Keeps s (fansMin t) := by
  unfold fansMin
  repeat' first
    | with_reducible first | assumption | apply keeps_set | apply keeps_foldl
    | with_reducible refine fun _ => ?_
    | beta_reduce

theorem keeps_execResetEnd (boot plyrole : Nat) (svcen : Bool) {s t : State} (hk : Keeps s t) : KeepsO s (execResetEnd boot plyrole svcen t) := by
  unfold execResetEnd
  repeat' first
    | with_reducible first | assumption | apply KeepsO.next | apply KeepsO.fault | apply KeepsO.stay | apply keeps_boardTest | apply keeps_stay | apply keeps_sampleStraps | apply keeps_showStraps | apply keeps_disableShow | apply keeps_fansMin | apply keeps_set | apply keeps_crossing
    | with_reducible fail_if_no_progress (refine Keeps.same ?_ rfl rfl rfl)
    | ((try lift_lets); intro x; first | (refine (fun hx : Keeps s x => ?_) ?_; (on_goal 1 => clear_value x); (on_goal 2 => subst x)) | (have hf : ∀ a, x a = x a := fun _ => rfl; clear hf; subst x) | clear_value x | subst x)
    | with_reducible first | refine keeps_ite ?_ ?_ | refine keepsO_ite ?_ ?_
    | split

theorem keeps_startLoad (push strap : Bool) {s t : State} (hk : Keeps s t) : Keeps s (startLoad push strap t) := by
  unfold startLoad
  repeat' first
    | with_reducible first | assumption | apply keeps_set | apply keeps_setPower | apply keeps_wr
    | with_reducible fail_if_no_progress (refine Keeps.same ?_ rfl rfl rfl)
    | ((try lift_lets); intro x; first | (refine (fun hx : Keeps s x => ?_) ?_; (on_goal 1 => clear_value x); (on_goal 2 => subst x)) | (have hf : ∀ a, x a = x a := fun _ => rfl; clear hf; subst x) | clear_value x | subst x)
    | with_reducible first | refine keeps_ite ?_ ?_ | refine keepsO_ite ?_ ?_
    | split

theorem keeps_canSafe {s t : State} (hk : Keeps s t) : Keeps s (canSafe t) := by
  unfold canSafe
  repeat' first
    | with_reducible first | assumption | apply keeps_wr | apply keeps_set
    | ((try lift_lets); intro x; first | (refine (fun hx : Keeps s x => ?_) ?_; (on_goal 1 => clear_value x); (on_goal 2 => subst x)) | (have hf : ∀ a, x a = x a := fun _ => rfl; clear hf; subst x) | clear_value x | subst x)
    | with_reducible first | refine keeps_ite ?_ ?_ | refine keepsO_ite ?_ ?_
    | split

theorem keeps_execStage1Entry (partnerOwn : Bool) {s t : State} (hk : Keeps s t) : KeepsO s (execStage1Entry partnerOwn t) := by
  unfold execStage1Entry
  repeat' first
    | with_reducible first | assumption | apply KeepsO.next | apply KeepsO.fault | apply KeepsO.stay | apply keeps_stay | apply keeps_canSafe | apply keeps_safeApply | apply keeps_setSrc | apply keeps_disableShow | apply keeps_enterStage | apply keeps_set | apply keeps_startLoad | apply keeps_foldl
    | with_reducible refine fun _ => ?_
    | with_reducible fail_if_no_progress (refine Keeps.same ?_ rfl rfl rfl)
    | ((try lift_lets); intro x; first | (refine (fun hx : Keeps s x => ?_) ?_; (on_goal 1 => clear_value x); (on_goal 2 => subst x)) | (have hf : ∀ a, x a = x a := fun _ => rfl; clear hf; subst x) | clear_value x | subst x)
    | with_reducible first | refine keeps_ite ?_ ?_ | refine keepsO_ite ?_ ?_
    | split
    | beta_reduce

end Sys2Proof.Machine
end

