-- ==== Sys2Proof/Laws/KeepsLoad.lean ====
section
/-!
SUPPORT. What Machine/Load.lean keeps (Laws/Keeps.lean).
-/
namespace Sys2Proof.Machine
set_option linter.unusedTactic false
set_option linter.unreachableTactic false
set_option linter.unusedVariables false

theorem keeps_stageRefuse (err : Nat) {s t : State} (hk : Keeps s t) : Keeps s (stageRefuse err t) := by
  unfold stageRefuse
  repeat' first
    | with_reducible first | assumption | apply keeps_cause | apply keeps_set

theorem keeps_loadClear {s t : State} (hk : Keeps s t) : Keeps s (loadClear t) := by
  unfold loadClear
  repeat' first
    | with_reducible first | assumption | apply keeps_idle | apply keeps_wr | apply keeps_setPower | apply keeps_foldl
    | with_reducible refine fun _ => ?_
    | with_reducible fail_if_no_progress (refine Keeps.same ?_ rfl rfl rfl)
    | ((try lift_lets); intro x; first | (refine (fun hx : Keeps s x => ?_) ?_; (on_goal 1 => clear_value x); (on_goal 2 => subst x)) | (have hf : ∀ a, x a = x a := fun _ => rfl; clear hf; subst x) | clear_value x | subst x)
    | beta_reduce

theorem keeps_loadDrop (err : Nat) {s t : State} (hk : Keeps s t) : Keeps s (loadDrop err t) := by
  unfold loadDrop
  repeat' first
    | with_reducible first | assumption | apply keeps_loadClear | apply keeps_set

theorem keeps_loadFail (err : Nat) {s t : State} (hk : Keeps s t) : Keeps s (loadFail err t) := by
  unfold loadFail
  repeat' first
    | with_reducible first | assumption | apply keeps_cause | apply keeps_loadDrop | apply keeps_startLoad | apply keeps_set
    | with_reducible fail_if_no_progress (refine Keeps.same ?_ rfl rfl rfl)
    | ((try lift_lets); intro x; first | (refine (fun hx : Keeps s x => ?_) ?_; (on_goal 1 => clear_value x); (on_goal 2 => subst x)) | (have hf : ∀ a, x a = x a := fun _ => rfl; clear hf; subst x) | clear_value x | subst x)
    | with_reducible first | refine keeps_ite ?_ ?_ | refine keepsO_ite ?_ ?_
    | split

theorem keeps_loadHalt {s t : State} (hk : Keeps s t) : Keeps s (loadHalt t) := by
  unfold loadHalt
  repeat' first
    | with_reducible first | assumption | apply keeps_idle | apply keeps_loadDrop
    | with_reducible fail_if_no_progress (refine Keeps.same ?_ rfl rfl rfl)
    | ((try lift_lets); intro x; first | (refine (fun hx : Keeps s x => ?_) ?_; (on_goal 1 => clear_value x); (on_goal 2 => subst x)) | (have hf : ∀ a, x a = x a := fun _ => rfl; clear hf; subst x) | clear_value x | subst x)
    | with_reducible first | refine keeps_ite ?_ ?_ | refine keepsO_ite ?_ ?_
    | split

theorem keeps_loadClock {s t : State} (hk : Keeps s t) : Keeps s (loadClock t) := by
  unfold loadClock
  repeat' first
    | with_reducible first | assumption | apply keeps_idle | apply keeps_loadFail
    | with_reducible first | refine keeps_ite ?_ ?_ | refine keepsO_ite ?_ ?_
    | split

theorem keeps_loadRestart {s t : State} (hk : Keeps s t) : Keeps s (loadRestart t) := by
  unfold loadRestart
  repeat' first
    | with_reducible first | assumption | apply keeps_startLoad
    | with_reducible first | refine keeps_ite ?_ ?_ | refine keepsO_ite ?_ ?_
    | split

theorem keeps_warpWrite (a : Agent) (push : Bool) {s t : State} (hk : Keeps s t) : Keeps s (warpWrite a push t) := by
  unfold warpWrite
  repeat' first
    | with_reducible first | assumption | apply keeps_stageRefuse | apply keeps_startLoad | apply keeps_set
    | ((try lift_lets); intro x; first | (refine (fun hx : Keeps s x => ?_) ?_; (on_goal 1 => clear_value x); (on_goal 2 => subst x)) | (have hf : ∀ a, x a = x a := fun _ => rfl; clear hf; subst x) | clear_value x | subst x)
    | with_reducible first | refine keeps_ite ?_ ?_ | refine keepsO_ite ?_ ?_
    | split

theorem keeps_execWarp (a : Agent) (push : Bool) {s t : State} (hk : Keeps s t) : KeepsO s (execWarp a push t) := by
  unfold execWarp
  repeat' first
    | with_reducible first | assumption | apply KeepsO.next | apply KeepsO.fault | apply KeepsO.stay | apply keeps_access | apply keeps_warpWrite
    | with_reducible refine fun _ => ?_
    | beta_reduce

theorem keeps_execLoadWakeDone (flash : Option Flash) {s t : State} (hk : Keeps s t) : KeepsO s (execLoadWakeDone flash t) := by
  unfold execLoadWakeDone
  repeat' first
    | with_reducible first | assumption | apply KeepsO.next | apply KeepsO.stay | apply keeps_loadFail | apply keeps_stay
    | with_reducible fail_if_no_progress (refine Keeps.same ?_ rfl rfl rfl)
    | ((try lift_lets); intro x; first | (refine (fun hx : Keeps s x => ?_) ?_; (on_goal 1 => clear_value x); (on_goal 2 => subst x)) | (have hf : ∀ a, x a = x a := fun _ => rfl; clear hf; subst x) | clear_value x | subst x)
    | with_reducible first | refine keeps_ite ?_ ?_ | refine keepsO_ite ?_ ?_
    | split
    | with_reducible first | refine Keeps.ofPair (by assumption) ?_ | refine Keeps.ofPair2 (by assumption) ?_ | refine Keeps.ofM (by assumption) ?_ | refine Keeps.ofMP (by assumption) ?_ | refine KeepsO.ofMO (by assumption) ?_ | refine Keeps.ofO (by assumption) ?_
    | dsimp (zeta := false) only
    | dsimp only

theorem keeps_execLoadStreamDone {s t : State} (hk : Keeps s t) : KeepsO s (execLoadStreamDone t) := by
  unfold execLoadStreamDone
  repeat' first
    | with_reducible first | assumption | apply KeepsO.next | apply KeepsO.fault | apply KeepsO.stay | apply keeps_stay | apply keeps_placeImage | apply keeps_verify
    | with_reducible fail_if_no_progress (refine Keeps.same ?_ rfl rfl rfl)
    | ((try lift_lets); intro x; first | (refine (fun hx : Keeps s x => ?_) ?_; (on_goal 1 => clear_value x); (on_goal 2 => subst x)) | (have hf : ∀ a, x a = x a := fun _ => rfl; clear hf; subst x) | clear_value x | subst x)
    | with_reducible first | refine keeps_ite ?_ ?_ | refine keepsO_ite ?_ ?_
    | split

theorem keeps_execLoadVerifyDone {s t : State} (hk : Keeps s t) : KeepsO s (execLoadVerifyDone t) := by
  unfold execLoadVerifyDone
  repeat' first
    | with_reducible first | assumption | apply KeepsO.next | apply KeepsO.fault | apply KeepsO.stay | apply keeps_verify | apply keeps_stay | apply keeps_loadFail
    | with_reducible fail_if_no_progress (refine Keeps.same ?_ rfl rfl rfl)
    | ((try lift_lets); intro x; first | (refine (fun hx : Keeps s x => ?_) ?_; (on_goal 1 => clear_value x); (on_goal 2 => subst x)) | (have hf : ∀ a, x a = x a := fun _ => rfl; clear hf; subst x) | clear_value x | subst x)
    | with_reducible first | refine keeps_ite ?_ ?_ | refine keepsO_ite ?_ ?_
    | split

theorem keeps_showImage (m : Image) {s t : State} (hk : Keeps s t) : Keeps s (showImage m t) := by
  unfold showImage
  repeat' first
    | with_reducible first | assumption | apply keeps_set | apply keeps_wr | apply keeps_foldl
    | with_reducible refine fun _ => ?_
    | ((try lift_lets); intro x; first | (refine (fun hx : Keeps s x => ?_) ?_; (on_goal 1 => clear_value x); (on_goal 2 => subst x)) | (have hf : ∀ a, x a = x a := fun _ => rfl; clear hf; subst x) | clear_value x | subst x)
    | beta_reduce

theorem keeps_transDone (st : Nat) {s t : State} (hk : Keeps s t) : Keeps s (transDone st t) := by
  unfold transDone
  repeat' first
    | with_reducible first | assumption | apply keeps_set | apply keeps_cause
    | ((try lift_lets); intro x; first | (refine (fun hx : Keeps s x => ?_) ?_; (on_goal 1 => clear_value x); (on_goal 2 => subst x)) | (have hf : ∀ a, x a = x a := fun _ => rfl; clear hf; subst x) | clear_value x | subst x)

theorem keeps_enterStage2 (rb : List (Nat × Nat)) {s t : State} (hk : Keeps s t) : Keeps s (enterStage2 rb t) := by
  unfold enterStage2
  repeat' first
    | with_reducible first | assumption | apply keeps_idle | apply keeps_setPower | apply keeps_showImage | apply keeps_startCores | apply keeps_applySections | apply keeps_jrnDevice | apply keeps_set | apply keeps_transDone | apply keeps_enterStage
    | with_reducible refine fun _ => ?_
    | with_reducible fail_if_no_progress (refine Keeps.same ?_ rfl rfl rfl)
    | ((try lift_lets); intro x; first | (refine (fun hx : Keeps s x => ?_) ?_; (on_goal 1 => clear_value x); (on_goal 2 => subst x)) | (have hf : ∀ a, x a = x a := fun _ => rfl; clear hf; subst x) | clear_value x | subst x)
    | beta_reduce

theorem keeps_execLoadApplyDone (readback : List (Nat × Nat)) {s t : State} (hk : Keeps s t) : KeepsO s (execLoadApplyDone readback t) := by
  unfold execLoadApplyDone
  repeat' first
    | with_reducible first | assumption | apply keeps_unpredDevice | apply KeepsO.next | apply KeepsO.fault | apply KeepsO.stay | apply keeps_stay | apply keeps_enterStage2
    | with_reducible first | refine keeps_ite ?_ ?_ | refine keepsO_ite ?_ ?_
    | split

theorem keeps_pushWrite (a : Agent) (v : Word) {s t : State} (hk : Keeps s t) : Keeps s (pushWrite a v t) := by
  unfold pushWrite
  repeat' first
    | with_reducible first | assumption | apply keeps_pkt_free | apply keeps_set | apply keeps_pkt_wrBytes | apply keeps_pkt_wr | apply keeps_pkt_clear | apply keeps_pkt_nil
    | with_reducible fail_if_no_progress (refine Keeps.same ?_ rfl rfl rfl)
    | ((try lift_lets); intro x; first | (refine (fun hx : Keeps s x => ?_) ?_; (on_goal 1 => clear_value x); (on_goal 2 => subst x)) | (have hf : ∀ a, x a = x a := fun _ => rfl; clear hf; subst x) | clear_value x | subst x)
    | with_reducible first | refine keeps_ite ?_ ?_ | refine keepsO_ite ?_ ?_
    | split

theorem keeps_execPushWord (a : Agent) (v : Word) {s t : State} (hk : Keeps s t) : KeepsO s (execPushWord a v t) := by
  unfold execPushWord
  repeat' first
    | with_reducible first | assumption | apply KeepsO.next | apply KeepsO.fault | apply KeepsO.stay | apply keeps_access | apply keeps_pushWrite
    | with_reducible refine fun _ => ?_
    | beta_reduce

end Sys2Proof.Machine
end

