-- ==== Sys2Proof/Laws/KeepsIst.lean ====
section
/-!
SUPPORT. What Machine/Ist.lean keeps (Laws/Keeps.lean).
-/
namespace Sys2Proof.Machine
set_option linter.unusedTactic false
set_option linter.unreachableTactic false
set_option linter.unusedVariables false

theorem keeps_istShow {s t : State} (hk : Keeps s t) : Keeps s (istShow t) := by
  unfold istShow
  repeat' first
    | with_reducible first | assumption | apply keeps_set

theorem keeps_istResult (tag kind target status : Nat) {s t : State} (hk : Keeps s t) : Keeps s (istResult tag kind target status t) := by
  unfold istResult
  repeat' first
    | with_reducible first | assumption | apply keeps_cause
    | with_reducible fail_if_no_progress (refine Keeps.same ?_ rfl rfl rfl)
    | ((try lift_lets); intro x; first | (refine (fun hx : Keeps s x => ?_) ?_; (on_goal 1 => clear_value x); (on_goal 2 => subst x)) | (have hf : ∀ a, x a = x a := fun _ => rfl; clear hf; subst x) | clear_value x | subst x)

theorem keeps_istFinish (status : Nat) (r : IstReq) {s t : State} (hk : Keeps s t) : Keeps s (istFinish status t r) := by
  unfold istFinish
  repeat' first
    | with_reducible first | assumption | apply keeps_istResult
    | with_reducible fail_if_no_progress (refine Keeps.same ?_ rfl rfl rfl)
    | ((try lift_lets); intro x; first | (refine (fun hx : Keeps s x => ?_) ?_; (on_goal 1 => clear_value x); (on_goal 2 => subst x)) | (have hf : ∀ a, x a = x a := fun _ => rfl; clear hf; subst x) | clear_value x | subst x)

theorem keeps_istFinishAll (status : Nat) (which : IstReq → Bool) {s t : State} (hk : Keeps s t) : Keeps s (istFinishAll status which t) := by
  unfold istFinishAll
  repeat' first
    | with_reducible first | assumption | apply keeps_istFinish | apply keeps_foldl
    | with_reducible refine fun _ => ?_
    | beta_reduce

theorem keeps_istAbort {s t : State} (hk : Keeps s t) : Keeps s (istAbort t) := by
  unfold istAbort
  repeat' first
    | with_reducible first | assumption | apply keeps_istFinishAll
    | with_reducible refine fun _ => ?_
    | beta_reduce

theorem keeps_istCheck {s t : State} (hk : Keeps s t) : Keeps s (istCheck t) := by
  unfold istCheck
  repeat' first
    | with_reducible first | assumption | apply keeps_istFinishAll
    | with_reducible refine fun _ => ?_
    | beta_reduce

theorem keeps_istUpdate (r r' : IstReq) {s t : State} (hk : Keeps s t) : Keeps s (istUpdate r r' t) := by
  unfold istUpdate
  repeat' first
    | with_reducible assumption
    | with_reducible refine fun _ => ?_
    | with_reducible fail_if_no_progress (refine Keeps.same ?_ rfl rfl rfl)
    | ((try lift_lets); intro x; first | (refine (fun hx : Keeps s x => ?_) ?_; (on_goal 1 => clear_value x); (on_goal 2 => subst x)) | (have hf : ∀ a, x a = x a := fun _ => rfl; clear hf; subst x) | clear_value x | subst x)
    | with_reducible first | refine keeps_ite ?_ ?_ | refine keepsO_ite ?_ ?_
    | split
    | beta_reduce

theorem keeps_istTested (kind target began : Nat) (fail : Bool) {s t : State} (hk : Keeps s t) : Keeps s (istTested kind target began fail t) := by
  unfold istTested
  repeat' first
    | with_reducible first | assumption | apply keeps_istFinish
    | with_reducible fail_if_no_progress (refine Keeps.same ?_ rfl rfl rfl)
    | ((try lift_lets); intro x; first | (refine (fun hx : Keeps s x => ?_) ?_; (on_goal 1 => clear_value x); (on_goal 2 => subst x)) | (have hf : ∀ a, x a = x a := fun _ => rfl; clear hf; subst x) | clear_value x | subst x)
    | with_reducible first | refine keeps_ite ?_ ?_ | refine keepsO_ite ?_ ?_
    | split
    | with_reducible first | refine Keeps.ofPair (by assumption) ?_ | refine Keeps.ofPair2 (by assumption) ?_ | refine Keeps.ofM (by assumption) ?_ | refine Keeps.ofMP (by assumption) ?_ | refine KeepsO.ofMO (by assumption) ?_ | refine Keeps.ofO (by assumption) ?_
    | dsimp (zeta := false) only
    | dsimp only

theorem keeps_istReqWrite (a : Agent) (v : Word) {s t : State} (hk : Keeps s t) : Keeps s (istReqWrite a v t) := by
  unfold istReqWrite
  repeat' first
    | with_reducible first | assumption | apply keeps_set | apply keeps_istShow | apply keeps_istResult
    | with_reducible refine fun _ => ?_
    | with_reducible fail_if_no_progress (refine Keeps.same ?_ rfl rfl rfl)
    | ((try lift_lets); intro x; first | (refine (fun hx : Keeps s x => ?_) ?_; (on_goal 1 => clear_value x); (on_goal 2 => subst x)) | (have hf : ∀ a, x a = x a := fun _ => rfl; clear hf; subst x) | clear_value x | subst x)
    | with_reducible first | refine keeps_ite ?_ ?_ | refine keepsO_ite ?_ ?_
    | split
    | beta_reduce

theorem keeps_istRequest (kind : Nat) (a : Agent) (v : Word) {s t : State} (hk : Keeps s t) : KeepsO s (istRequest kind a v t) := by
  unfold istRequest
  repeat' first
    | with_reducible first | assumption | apply KeepsO.next | apply KeepsO.fault | apply KeepsO.stay | apply keeps_stay | apply keeps_access | apply keeps_istReqWrite
    | with_reducible refine fun _ => ?_
    | with_reducible first | refine keeps_ite ?_ ?_ | refine keepsO_ite ?_ ?_
    | split
    | beta_reduce

theorem keeps_execIstReqCore (a : Agent) (v : Word) {s t : State} (hk : Keeps s t) : KeepsO s (execIstReqCore a v t) := by
  unfold execIstReqCore
  repeat' first
    | with_reducible first | assumption | apply KeepsO.next | apply KeepsO.fault | apply KeepsO.stay | apply keeps_istRequest

theorem keeps_execIstReqPanel (a : Agent) (v : Word) {s t : State} (hk : Keeps s t) : KeepsO s (execIstReqPanel a v t) := by
  unfold execIstReqPanel
  repeat' first
    | with_reducible first | assumption | apply KeepsO.next | apply KeepsO.fault | apply KeepsO.stay | apply keeps_istRequest

theorem keeps_execIstReqLink (a : Agent) (v : Word) {s t : State} (hk : Keeps s t) : KeepsO s (execIstReqLink a v t) := by
  unfold execIstReqLink
  repeat' first
    | with_reducible first | assumption | apply KeepsO.next | apply KeepsO.fault | apply KeepsO.stay | apply keeps_istRequest

theorem keeps_execIstReqPool (a : Agent) (v : Word) {s t : State} (hk : Keeps s t) : KeepsO s (execIstReqPool a v t) := by
  unfold execIstReqPool
  repeat' first
    | with_reducible first | assumption | apply KeepsO.next | apply KeepsO.fault | apply KeepsO.stay | apply keeps_istRequest

theorem keeps_execIstReqScrub (a : Agent) (v : Word) {s t : State} (hk : Keeps s t) : KeepsO s (execIstReqScrub a v t) := by
  unfold execIstReqScrub
  repeat' first
    | with_reducible first | assumption | apply KeepsO.next | apply KeepsO.fault | apply KeepsO.stay | apply keeps_istRequest

theorem keeps_execIstRequestDeadline (i : Nat) {s t : State} (hk : Keeps s t) : KeepsO s (execIstRequestDeadline i t) := by
  unfold execIstRequestDeadline
  repeat' first
    | with_reducible first | assumption | apply KeepsO.next | apply KeepsO.fault | apply KeepsO.stay | apply keeps_stay | apply keeps_istFinish
    | with_reducible fail_if_no_progress (refine Keeps.same ?_ rfl rfl rfl)
    | ((try lift_lets); intro x; first | (refine (fun hx : Keeps s x => ?_) ?_; (on_goal 1 => clear_value x); (on_goal 2 => subst x)) | (have hf : ∀ a, x a = x a := fun _ => rfl; clear hf; subst x) | clear_value x | subst x)
    | with_reducible first | refine keeps_ite ?_ ?_ | refine keepsO_ite ?_ ?_
    | split
    | with_reducible first | refine Keeps.ofPair (by assumption) ?_ | refine Keeps.ofPair2 (by assumption) ?_ | refine Keeps.ofM (by assumption) ?_ | refine Keeps.ofMP (by assumption) ?_ | refine KeepsO.ofMO (by assumption) ?_ | refine Keeps.ofO (by assumption) ?_
    | dsimp (zeta := false) only
    | dsimp only

theorem keeps_istResRead {s t : State} (hk : Keeps s t) : Keeps s (istResRead t).2 := by
  unfold istResRead
  repeat' first
    | with_reducible first | assumption | apply keeps_istShow
    | with_reducible fail_if_no_progress (refine Keeps.same ?_ rfl rfl rfl)
    | ((try lift_lets); intro x; first | (refine (fun hx : Keeps s x => ?_) ?_; (on_goal 1 => clear_value x); (on_goal 2 => subst x)) | (have hf : ∀ a, x a = x a := fun _ => rfl; clear hf; subst x) | clear_value x | subst x)
    | split
    | with_reducible first | refine Keeps.ofPair (by assumption) ?_ | refine Keeps.ofPair2 (by assumption) ?_ | refine Keeps.ofM (by assumption) ?_ | refine Keeps.ofMP (by assumption) ?_ | refine KeepsO.ofMO (by assumption) ?_ | refine Keeps.ofO (by assumption) ?_
    | dsimp (zeta := false) only
    | dsimp only

theorem keeps_execIstResultRead (a : Agent) {s t : State} (hk : Keeps s t) : KeepsO s (execIstResultRead a t) := by
  unfold execIstResultRead
  repeat' first
    | with_reducible first | assumption | apply KeepsO.next | apply KeepsO.fault | apply KeepsO.stay | apply keeps_readRow | apply keeps_istResRead
    | with_reducible refine fun _ => ?_
    | beta_reduce

theorem keeps_idleShare (n share : Nat) {s t : State} (hk : Keeps s t) : Keeps s (idleShare n share t) := by
  unfold idleShare
  repeat' first
    | with_reducible first | assumption | apply keeps_set | apply keeps_cause
    | ((try lift_lets); intro x; first | (refine (fun hx : Keeps s x => ?_) ?_; (on_goal 1 => clear_value x); (on_goal 2 => subst x)) | (have hf : ∀ a, x a = x a := fun _ => rfl; clear hf; subst x) | clear_value x | subst x)
    | with_reducible first | refine keeps_ite ?_ ?_ | refine keepsO_ite ?_ ?_
    | split

theorem keeps_execIdleWindowEnd (shares : List Nat) {s t : State} (hk : Keeps s t) : KeepsO s (execIdleWindowEnd shares t) := by
  unfold execIdleWindowEnd
  repeat' first
    | with_reducible first | assumption | apply KeepsO.next | apply KeepsO.fault | apply KeepsO.stay | apply keeps_stay | apply keeps_idleShare | apply keeps_foldl
    | with_reducible refine fun _ => ?_
    | with_reducible fail_if_no_progress (refine Keeps.same ?_ rfl rfl rfl)
    | ((try lift_lets); intro x; first | (refine (fun hx : Keeps s x => ?_) ?_; (on_goal 1 => clear_value x); (on_goal 2 => subst x)) | (have hf : ∀ a, x a = x a := fun _ => rfl; clear hf; subst x) | clear_value x | subst x)
    | with_reducible first | refine keeps_ite ?_ ?_ | refine keepsO_ite ?_ ?_
    | split
    | with_reducible first | refine Keeps.ofPair (by assumption) ?_ | refine Keeps.ofPair2 (by assumption) ?_ | refine Keeps.ofM (by assumption) ?_ | refine Keeps.ofMP (by assumption) ?_ | refine KeepsO.ofMO (by assumption) ?_ | refine Keeps.ofO (by assumption) ?_
    | beta_reduce
    | dsimp (zeta := false) only
    | dsimp only

theorem keeps_sliceEnd (n : Nat) {s t : State} (hk : Keeps s t) : Keeps s (sliceEnd n t) := by
  unfold sliceEnd
  repeat' first
    | with_reducible first | assumption | apply keeps_set | apply keeps_istTested
    | with_reducible refine fun _ => ?_
    | with_reducible fail_if_no_progress (refine Keeps.same ?_ rfl rfl rfl)
    | ((try lift_lets); intro x; first | (refine (fun hx : Keeps s x => ?_) ?_; (on_goal 1 => clear_value x); (on_goal 2 => subst x)) | (have hf : ∀ a, x a = x a := fun _ => rfl; clear hf; subst x) | clear_value x | subst x)
    | with_reducible first | refine keeps_ite ?_ ?_ | refine keepsO_ite ?_ ?_
    | split
    | beta_reduce

theorem keeps_logicFault (n : Nat) {s t : State} (hk : Keeps s t) : Keeps s (logicFault n t) := by
  unfold logicFault
  repeat' first
    | with_reducible first | assumption | apply keeps_cause | apply keeps_retireCore | apply keeps_istCheck | apply keeps_istFinishAll
    | with_reducible refine fun _ => ?_
    | ((try lift_lets); intro x; first | (refine (fun hx : Keeps s x => ?_) ?_; (on_goal 1 => clear_value x); (on_goal 2 => subst x)) | (have hf : ∀ a, x a = x a := fun _ => rfl; clear hf; subst x) | clear_value x | subst x)
    | beta_reduce

theorem keeps_execLogicSliceEnd (n : Nat) (miss again : Bool) {s t : State} (hk : Keeps s t) : KeepsO s (execLogicSliceEnd n miss again t) := by
  unfold execLogicSliceEnd
  repeat' first
    | with_reducible first | assumption | apply KeepsO.next | apply KeepsO.fault | apply KeepsO.stay | apply keeps_stay | apply keeps_logicFault | apply keeps_sliceEnd | apply keeps_bump
    | with_reducible first | refine keeps_ite ?_ ?_ | refine keepsO_ite ?_ ?_
    | split

theorem keeps_memFail (region inst addr : Nat) (march : Bool) {s t : State} (hk : Keeps s t) : Keeps s (memFail region inst addr march t) := by
  unfold memFail
  repeat' first
    | with_reducible first | assumption | apply keeps_set | apply keeps_cause | apply keeps_wr
    | ((try lift_lets); intro x; first | (refine (fun hx : Keeps s x => ?_) ?_; (on_goal 1 => clear_value x); (on_goal 2 => subst x)) | (have hf : ∀ a, x a = x a := fun _ => rfl; clear hf; subst x) | clear_value x | subst x)

theorem keeps_dropCopies (h p : Nat) {s t : State} (hk : Keeps s t) : Keeps s (dropCopies h p t) := by
  unfold dropCopies
  repeat' first
    | with_reducible first | assumption | apply keeps_foldl | apply keeps_setEgQueue | apply keeps_setPort | apply keeps_copyGone
    | with_reducible refine fun _ => ?_
    | with_reducible fail_if_no_progress (refine Keeps.same ?_ rfl rfl rfl)
    | ((try lift_lets); intro x; first | (refine (fun hx : Keeps s x => ?_) ?_; (on_goal 1 => clear_value x); (on_goal 2 => subst x)) | (have hf : ∀ a, x a = x a := fun _ => rfl; clear hf; subst x) | clear_value x | subst x)
    | with_reducible first | refine keeps_ite ?_ ?_ | refine keepsO_ite ?_ ?_
    | split
    | with_reducible first | refine Keeps.ofPair (by assumption) ?_ | refine Keeps.ofPair2 (by assumption) ?_ | refine Keeps.ofM (by assumption) ?_ | refine Keeps.ofMP (by assumption) ?_ | refine KeepsO.ofMO (by assumption) ?_ | refine Keeps.ofO (by assumption) ?_
    | beta_reduce
    | dsimp (zeta := false) only
    | dsimp only

theorem keeps_dropInBuffer (h : Nat) {s t : State} (hk : Keeps s t) : Keeps s (dropInBuffer h t) := by
  unfold dropInBuffer
  repeat' first
    | with_reducible first | assumption | apply keeps_dropCopies | apply keeps_freeBuf | apply keeps_setAdm | apply keeps_copyGone | apply keeps_setEgQueue | apply keeps_dropTask | apply keeps_foldl
    | with_reducible refine fun _ => ?_
    | ((try lift_lets); intro x; first | (refine (fun hx : Keeps s x => ?_) ?_; (on_goal 1 => clear_value x); (on_goal 2 => subst x)) | (have hf : ∀ a, x a = x a := fun _ => rfl; clear hf; subst x) | clear_value x | subst x)
    | beta_reduce

theorem keeps_ownerAction (region inst addr : Nat) {s t : State} (hk : Keeps s t) : Keeps s (ownerAction region inst addr t) := by
  unfold ownerAction
  repeat' first
    | with_reducible first | assumption | apply keeps_cause | apply keeps_set | apply keeps_dropInBuffer | apply keeps_markBuf | apply keeps_meetBad | apply keeps_setCore | apply keeps_raiseEvent | apply keeps_traceLost | apply keeps_setTrace | apply keeps_wr
    | with_reducible refine fun _ => ?_
    | with_reducible fail_if_no_progress (refine Keeps.same ?_ rfl rfl rfl)
    | ((try lift_lets); intro x; first | (refine (fun hx : Keeps s x => ?_) ?_; (on_goal 1 => clear_value x); (on_goal 2 => subst x)) | (have hf : ∀ a, x a = x a := fun _ => rfl; clear hf; subst x) | (have hf : (x : Fwd) = x := rfl; clear hf; subst x) | clear_value x | subst x)
    | with_reducible first | refine keeps_ite ?_ ?_ | refine keepsO_ite ?_ ?_
    | split
    | with_reducible first | refine Keeps.ofPair (by assumption) ?_ | refine Keeps.ofPair2 (by assumption) ?_ | refine Keeps.ofM (by assumption) ?_ | refine Keeps.ofMP (by assumption) ?_ | refine KeepsO.ofMO (by assumption) ?_ | refine Keeps.ofO (by assumption) ?_
    | beta_reduce
    | dsimp (zeta := false) only
    | dsimp only

theorem keeps_correctedAt (region inst : Nat) {s t : State} (hk : Keeps s t) : Keeps s (correctedAt region inst t) := by
  unfold correctedAt
  repeat' first
    | with_reducible first | assumption | apply keeps_bump
    | ((try lift_lets); intro x; first | (refine (fun hx : Keeps s x => ?_) ?_; (on_goal 1 => clear_value x); (on_goal 2 => subst x)) | (have hf : ∀ a, x a = x a := fun _ => rfl; clear hf; subst x) | clear_value x | subst x)
    | with_reducible first | refine keeps_ite ?_ ?_ | refine keepsO_ite ?_ ?_
    | split
    | with_reducible first | refine Keeps.ofPair (by assumption) ?_ | refine Keeps.ofPair2 (by assumption) ?_ | refine Keeps.ofM (by assumption) ?_ | refine Keeps.ofMP (by assumption) ?_ | refine KeepsO.ofMO (by assumption) ?_ | refine Keeps.ofO (by assumption) ?_
    | dsimp (zeta := false) only
    | dsimp only

theorem keeps_sweepFault (region : Nat) {s t : State} (hk : Keeps s t) : Keeps s (sweepFault region t) := by
  unfold sweepFault
  repeat' first
    | with_reducible first | assumption | apply keeps_istUpdate
    | with_reducible fail_if_no_progress (refine Keeps.same ?_ rfl rfl rfl)
    | ((try lift_lets); intro x; first | (refine (fun hx : Keeps s x => ?_) ?_; (on_goal 1 => clear_value x); (on_goal 2 => subst x)) | (have hf : ∀ a, x a = x a := fun _ => rfl; clear hf; subst x) | clear_value x | subst x)
    | split
    | with_reducible first | refine Keeps.ofPair (by assumption) ?_ | refine Keeps.ofPair2 (by assumption) ?_ | refine Keeps.ofM (by assumption) ?_ | refine Keeps.ofMP (by assumption) ?_ | refine KeepsO.ofMO (by assumption) ?_ | refine Keeps.ofO (by assumption) ?_
    | dsimp (zeta := false) only
    | dsimp only

theorem keeps_sweepEnd (region ns : Nat) {s t : State} (hk : Keeps s t) : Keeps s (sweepEnd region ns t) := by
  unfold sweepEnd
  repeat' first
    | with_reducible first | assumption | apply keeps_wr | apply keeps_set | apply keeps_istTested
    | ((try lift_lets); intro x; first | (refine (fun hx : Keeps s x => ?_) ?_; (on_goal 1 => clear_value x); (on_goal 2 => subst x)) | (have hf : ∀ a, x a = x a := fun _ => rfl; clear hf; subst x) | clear_value x | subst x)
    | with_reducible first | refine keeps_ite ?_ ?_ | refine keepsO_ite ?_ ?_
    | split

theorem keeps_execScrubRead (region inst addr : Nat) (err : FlitError) (stale : Bool) (sweep : Option Nat) {s t : State} (hk : Keeps s t) : KeepsO s (execScrubRead region inst addr err stale sweep t) := by
  unfold execScrubRead
  repeat' first
    | with_reducible first | assumption | apply keeps_correctedAt | apply KeepsO.next | apply KeepsO.fault | apply KeepsO.stay | apply keeps_stay | apply keeps_bump | apply keeps_sweepFault | apply keeps_ownerAction | apply keeps_memFail | apply keeps_sweepEnd
    | with_reducible fail_if_no_progress (refine Keeps.same ?_ rfl rfl rfl)
    | ((try lift_lets); intro x; first | (refine (fun hx : Keeps s x => ?_) ?_; (on_goal 1 => clear_value x); (on_goal 2 => subst x)) | (have hf : ∀ a, x a = x a := fun _ => rfl; clear hf; subst x) | clear_value x | subst x)
    | with_reducible first | refine keeps_ite ?_ ?_ | refine keepsO_ite ?_ ?_
    | split
    | with_reducible first | refine Keeps.ofPair (by assumption) ?_ | refine Keeps.ofPair2 (by assumption) ?_ | refine Keeps.ofM (by assumption) ?_ | refine Keeps.ofMP (by assumption) ?_ | refine KeepsO.ofMO (by assumption) ?_ | refine Keeps.ofO (by assumption) ?_
    | dsimp (zeta := false) only
    | dsimp only

theorem keeps_marched (i idx seg : Nat) (fail : Bool) {s t : State} (hk : Keeps s t) : Keeps s (marched i idx seg fail t) := by
  unfold marched
  repeat' first
    | with_reducible first | assumption | apply keeps_istUpdate | apply keeps_istFinish
    | with_reducible refine fun _ => ?_
    | with_reducible fail_if_no_progress (refine Keeps.same ?_ rfl rfl rfl)
    | ((try lift_lets); intro x; first | (refine (fun hx : Keeps s x => ?_) ?_; (on_goal 1 => clear_value x); (on_goal 2 => subst x)) | (have hf : ∀ a, x a = x a := fun _ => rfl; clear hf; subst x) | clear_value x | subst x)
    | with_reducible first | refine keeps_ite ?_ ?_ | refine keepsO_ite ?_ ?_
    | split
    | with_reducible first | refine Keeps.ofPair (by assumption) ?_ | refine Keeps.ofPair2 (by assumption) ?_ | refine Keeps.ofM (by assumption) ?_ | refine Keeps.ofMP (by assumption) ?_ | refine KeepsO.ofMO (by assumption) ?_ | refine Keeps.ofO (by assumption) ?_
    | beta_reduce
    | dsimp (zeta := false) only
    | dsimp only

theorem keeps_execMarchSegment (i idx seg : Nat) (fail : Option Nat) {s t : State} (hk : Keeps s t) : KeepsO s (execMarchSegment i idx seg fail t) := by
  unfold execMarchSegment
  repeat' first
    | with_reducible first | assumption | apply keeps_pkt_free | apply KeepsO.next | apply KeepsO.fault | apply KeepsO.stay | apply keeps_stay | apply keeps_loanBuf | apply keeps_bump | apply keeps_marched | apply keeps_loanReturn | apply keeps_memFail | apply keeps_markBuf | apply keeps_pkt_wrBytes | apply keeps_pkt_wr | apply keeps_pkt_clear | apply keeps_pkt_nil
    | with_reducible fail_if_no_progress (refine Keeps.same ?_ rfl rfl rfl)
    | ((try lift_lets); intro x; first | (refine (fun hx : Keeps s x => ?_) ?_; (on_goal 1 => clear_value x); (on_goal 2 => subst x)) | (have hf : ∀ a, x a = x a := fun _ => rfl; clear hf; subst x) | clear_value x | subst x)
    | with_reducible first | refine keeps_ite ?_ ?_ | refine keepsO_ite ?_ ?_
    | split
    | with_reducible first | refine Keeps.ofPair (by assumption) ?_ | refine Keeps.ofPair2 (by assumption) ?_ | refine Keeps.ofM (by assumption) ?_ | refine Keeps.ofMP (by assumption) ?_ | refine KeepsO.ofMO (by assumption) ?_ | refine Keeps.ofO (by assumption) ?_
    | dsimp (zeta := false) only
    | dsimp only

theorem keeps_execIstLate (readback : Bool) {s t : State} (hk : Keeps s t) : KeepsO s (execIstLate readback t) := by
  unfold execIstLate
  repeat' first
    | with_reducible first | assumption | apply KeepsO.next | apply KeepsO.fault | apply KeepsO.stay | apply keeps_stay | apply keeps_cause | apply keeps_set
    | with_reducible first | refine keeps_ite ?_ ?_ | refine keepsO_ite ?_ ?_
    | split

theorem keeps_passEnd (p ns : Nat) (fail : Bool) {s t : State} (hk : Keeps s t) : Keeps s (passEnd p ns fail t) := by
  unfold passEnd
  repeat' first
    | with_reducible first | assumption | apply keeps_set | apply keeps_cause | apply keeps_istTested
    | ((try lift_lets); intro x; first | (refine (fun hx : Keeps s x => ?_) ?_; (on_goal 1 => clear_value x); (on_goal 2 => subst x)) | (have hf : ∀ a, x a = x a := fun _ => rfl; clear hf; subst x) | clear_value x | subst x)
    | with_reducible first | refine keeps_ite ?_ ?_ | refine keepsO_ite ?_ ?_
    | split

theorem keeps_loopEnd (k : Nat) (back fail : Bool) {s t : State} (hk : Keeps s t) : Keeps s (loopEnd k back fail t) := by
  unfold loopEnd
  repeat' first
    | with_reducible first | assumption | apply keeps_istFinish | apply keeps_istUpdate
    | with_reducible fail_if_no_progress (refine Keeps.same ?_ rfl rfl rfl)
    | ((try lift_lets); intro x; first | (refine (fun hx : Keeps s x => ?_) ?_; (on_goal 1 => clear_value x); (on_goal 2 => subst x)) | (have hf : ∀ a, x a = x a := fun _ => rfl; clear hf; subst x) | clear_value x | subst x)
    | with_reducible first | refine keeps_ite ?_ ?_ | refine keepsO_ite ?_ ?_
    | split
    | with_reducible first | refine Keeps.ofPair (by assumption) ?_ | refine Keeps.ofPair2 (by assumption) ?_ | refine Keeps.ofM (by assumption) ?_ | refine Keeps.ofMP (by assumption) ?_ | refine KeepsO.ofMO (by assumption) ?_ | refine Keeps.ofO (by assumption) ?_
    | dsimp (zeta := false) only
    | dsimp only

theorem keeps_bistDestroy {s t : State} (hk : Keeps s t) : Keeps s (bistDestroy t) := by
  unfold bistDestroy
  repeat' first
    | with_reducible first | assumption | apply keeps_wr | apply keeps_pkt_free | apply keeps_clampPanel | apply keeps_setPanel | apply keeps_setPanelState | apply keeps_set | apply keeps_coreOff | apply keeps_islandReset | apply keeps_pkt_wrBytes | apply keeps_pkt_wr | apply keeps_pkt_clear | apply keeps_pkt_nil | apply keeps_foldl
    | with_reducible refine fun _ => ?_
    | with_reducible fail_if_no_progress (refine Keeps.same ?_ rfl rfl rfl)
    | ((try lift_lets); intro x; first | (refine (fun hx : Keeps s x => ?_) ?_; (on_goal 1 => clear_value x); (on_goal 2 => subst x)) | (have hf : ∀ a, x a = x a := fun _ => rfl; clear hf; subst x) | clear_value x | subst x)
    | beta_reduce

theorem keeps_execBistDone (cores res : Nat) {s t : State} (hk : Keeps s t) : KeepsO s (execBistDone cores res t) := by
  unfold execBistDone
  repeat' first
    | with_reducible first | assumption | apply KeepsO.next | apply KeepsO.fault | apply KeepsO.stay | apply keeps_stay | apply keeps_bistDestroy | apply keeps_wr | apply keeps_set | apply keeps_cause
    | ((try lift_lets); intro x; first | (refine (fun hx : Keeps s x => ?_) ?_; (on_goal 1 => clear_value x); (on_goal 2 => subst x)) | (have hf : ∀ a, x a = x a := fun _ => rfl; clear hf; subst x) | clear_value x | subst x)
    | with_reducible first | refine keeps_ite ?_ ?_ | refine keepsO_ite ?_ ?_
    | split

end Sys2Proof.Machine
end

