-- ==== Sys2Proof/Laws/KeepsPower.lean ====
section
/-!
SUPPORT. What Machine/Power.lean keeps (Laws/Keeps.lean).
-/
namespace Sys2Proof.Machine
set_option linter.unusedTactic false
set_option linter.unreachableTactic false
set_option linter.unusedVariables false

theorem keeps_unclampWrite (a : Agent) (n : Nat) {s t : State} (hk : Keeps s t) : Keeps s (unclampWrite a n t) := by
  unfold unclampWrite
  repeat' first
    | with_reducible first | assumption | apply keeps_stageRefuse | apply keeps_set
    | with_reducible fail_if_no_progress (refine Keeps.same ?_ rfl rfl rfl)
    | ((try lift_lets); intro x; first | (refine (fun hx : Keeps s x => ?_) ?_; (on_goal 1 => clear_value x); (on_goal 2 => subst x)) | (have hf : ∀ a, x a = x a := fun _ => rfl; clear hf; subst x) | clear_value x | subst x)
    | with_reducible first | refine keeps_ite ?_ ?_ | refine keepsO_ite ?_ ?_
    | split

theorem keeps_execUnclampOutputs (a : Agent) {s t : State} (hk : Keeps s t) : KeepsO s (execUnclampOutputs a t) := by
  unfold execUnclampOutputs
  repeat' first
    | with_reducible first | assumption | apply KeepsO.next | apply KeepsO.fault | apply KeepsO.stay | apply keeps_access | apply keeps_unclampWrite
    | with_reducible refine fun _ => ?_
    | beta_reduce

theorem keeps_execUnclampWriteEnables (a : Agent) {s t : State} (hk : Keeps s t) : KeepsO s (execUnclampWriteEnables a t) := by
  unfold execUnclampWriteEnables
  repeat' first
    | with_reducible first | assumption | apply KeepsO.next | apply KeepsO.fault | apply KeepsO.stay | apply keeps_access | apply keeps_unclampWrite
    | with_reducible refine fun _ => ?_
    | beta_reduce

theorem keeps_execUnclampResets (a : Agent) {s t : State} (hk : Keeps s t) : KeepsO s (execUnclampResets a t) := by
  unfold execUnclampResets
  repeat' first
    | with_reducible first | assumption | apply KeepsO.next | apply KeepsO.fault | apply KeepsO.stay | apply keeps_access | apply keeps_unclampWrite
    | with_reducible refine fun _ => ?_
    | beta_reduce

theorem keeps_execUnclampStepDone {s t : State} (hk : Keeps s t) : KeepsO s (execUnclampStepDone t) := by
  unfold execUnclampStepDone
  repeat' first
    | with_reducible first | assumption | apply KeepsO.next | apply KeepsO.fault | apply KeepsO.stay | apply keeps_stay | apply keeps_unclampPanel | apply keeps_cause | apply keeps_set | apply keeps_foldl
    | with_reducible refine fun _ => ?_
    | with_reducible fail_if_no_progress (refine Keeps.same ?_ rfl rfl rfl)
    | ((try lift_lets); intro x; first | (refine (fun hx : Keeps s x => ?_) ?_; (on_goal 1 => clear_value x); (on_goal 2 => subst x)) | (have hf : ∀ a, x a = x a := fun _ => rfl; clear hf; subst x) | clear_value x | subst x)
    | with_reducible first | refine keeps_ite ?_ ?_ | refine keepsO_ite ?_ ?_
    | split
    | beta_reduce

theorem keeps_clampAll {s t : State} (hk : Keeps s t) : Keeps s (clampAll t) := by
  unfold clampAll
  repeat' first
    | with_reducible first | assumption | apply keeps_clampPanel | apply keeps_set | apply keeps_foldl
    | with_reducible refine fun _ => ?_
    | with_reducible fail_if_no_progress (refine Keeps.same ?_ rfl rfl rfl)
    | ((try lift_lets); intro x; first | (refine (fun hx : Keeps s x => ?_) ?_; (on_goal 1 => clear_value x); (on_goal 2 => subst x)) | (have hf : ∀ a, x a = x a := fun _ => rfl; clear hf; subst x) | clear_value x | subst x)
    | beta_reduce

theorem keeps_weaveChannel (force : Bool) (c : Nat) {s t : State} (hk : Keeps s t) : Keeps s (weaveChannel force t c) := by
  unfold weaveChannel
  repeat' first
    | with_reducible assumption
    | with_reducible refine fun _ => ?_
    | with_reducible fail_if_no_progress (refine Keeps.same ?_ rfl rfl rfl)
    | ((try lift_lets); intro x; first | (refine (fun hx : Keeps s x => ?_) ?_; (on_goal 1 => clear_value x); (on_goal 2 => subst x)) | (have hf : ∀ a, x a = x a := fun _ => rfl; clear hf; subst x) | clear_value x | subst x)
    | with_reducible first | refine keeps_ite ?_ ?_ | refine keepsO_ite ?_ ?_
    | split
    | beta_reduce

theorem keeps_weaveStart (force : Bool) {s t : State} (hk : Keeps s t) : Keeps s (weaveStart force t) := by
  unfold weaveStart
  repeat' first
    | with_reducible first | assumption | apply keeps_weaveChannel | apply keeps_set | apply keeps_foldl
    | with_reducible refine fun _ => ?_
    | with_reducible fail_if_no_progress (refine Keeps.same ?_ rfl rfl rfl)
    | ((try lift_lets); intro x; first | (refine (fun hx : Keeps s x => ?_) ?_; (on_goal 1 => clear_value x); (on_goal 2 => subst x)) | (have hf : ∀ a, x a = x a := fun _ => rfl; clear hf; subst x) | clear_value x | subst x)
    | beta_reduce

theorem keeps_weaveWrite (a : Agent) (force : Bool) {s t : State} (hk : Keeps s t) : Keeps s (weaveWrite a force t) := by
  unfold weaveWrite
  repeat' first
    | with_reducible first | assumption | apply keeps_stageRefuse | apply keeps_set | apply keeps_weaveStart
    | ((try lift_lets); intro x; first | (refine (fun hx : Keeps s x => ?_) ?_; (on_goal 1 => clear_value x); (on_goal 2 => subst x)) | (have hf : ∀ a, x a = x a := fun _ => rfl; clear hf; subst x) | clear_value x | subst x)
    | with_reducible first | refine keeps_ite ?_ ?_ | refine keepsO_ite ?_ ?_
    | split

theorem keeps_execWeave (a : Agent) (force : Bool) {s t : State} (hk : Keeps s t) : KeepsO s (execWeave a force t) := by
  unfold execWeave
  repeat' first
    | with_reducible first | assumption | apply KeepsO.next | apply KeepsO.fault | apply KeepsO.stay | apply keeps_access | apply keeps_weaveWrite
    | with_reducible refine fun _ => ?_
    | beta_reduce

theorem keeps_stageCmdWrite (a : Agent) (v : Word) {s t : State} (hk : Keeps s t) : Keeps s (stageCmdWrite a v t) := by
  unfold stageCmdWrite
  repeat' first
    | with_reducible first | assumption | apply keeps_warpWrite | apply keeps_weaveWrite
    | with_reducible fail_if_no_progress (refine Keeps.same ?_ rfl rfl rfl)
    | ((try lift_lets); intro x; first | (refine (fun hx : Keeps s x => ?_) ?_; (on_goal 1 => clear_value x); (on_goal 2 => subst x)) | (have hf : ∀ a, x a = x a := fun _ => rfl; clear hf; subst x) | clear_value x | subst x)
    | split
    | with_reducible first | refine Keeps.ofPair (by assumption) ?_ | refine Keeps.ofPair2 (by assumption) ?_ | refine Keeps.ofM (by assumption) ?_ | refine Keeps.ofMP (by assumption) ?_ | refine KeepsO.ofMO (by assumption) ?_ | refine Keeps.ofO (by assumption) ?_
    | dsimp (zeta := false) only
    | dsimp only

theorem keeps_powerRefuse (err : Nat) {s t : State} (hk : Keeps s t) : Keeps s (powerRefuse err t) := by
  unfold powerRefuse
  repeat' first
    | with_reducible first | assumption | apply keeps_cause | apply keeps_set

theorem keeps_netEnter {s t : State} (hk : Keeps s t) : Keeps s (netEnter t) := by
  unfold netEnter
  repeat' first
    | with_reducible first | assumption | apply keeps_pkt_free | apply keeps_rootMove | apply keeps_coreLocks | apply keeps_dstCoresLeave | apply keeps_setSvc | apply keeps_stopCore | apply keeps_clampAll | apply keeps_set | apply keeps_pkt_wrBytes | apply keeps_pkt_wr | apply keeps_pkt_clear | apply keeps_pkt_nil | apply keeps_foldl
    | with_reducible refine fun _ => ?_
    | with_reducible fail_if_no_progress (refine Keeps.same ?_ rfl rfl rfl)
    | ((try lift_lets); intro x; first | (refine (fun hx : Keeps s x => ?_) ?_; (on_goal 1 => clear_value x); (on_goal 2 => subst x)) | (have hf : ∀ a, x a = x a := fun _ => rfl; clear hf; subst x) | clear_value x | subst x)
    | with_reducible first | refine keeps_ite ?_ ?_ | refine keepsO_ite ?_ ?_
    | split
    | beta_reduce

theorem keeps_transStart (target : Nat) (push : Bool) {s t : State} (hk : Keeps s t) : Keeps s (transStart target push t) := by
  unfold transStart
  repeat' first
    | with_reducible first | assumption | apply keeps_istAbort | apply keeps_set | apply keeps_gatesGiveBack | apply keeps_netEnter | apply keeps_wr
    | with_reducible fail_if_no_progress (refine Keeps.same ?_ rfl rfl rfl)
    | ((try lift_lets); intro x; first | (refine (fun hx : Keeps s x => ?_) ?_; (on_goal 1 => clear_value x); (on_goal 2 => subst x)) | (have hf : ∀ a, x a = x a := fun _ => rfl; clear hf; subst x) | clear_value x | subst x)
    | with_reducible first | refine keeps_ite ?_ ?_ | refine keepsO_ite ?_ ?_
    | split

theorem keeps_powerReset {s t : State} (hk : Keeps s t) : Keeps s (powerReset t) := by
  unfold powerReset
  repeat' first
    | with_reducible first | assumption | apply keeps_deviceReset | apply keeps_jrnSettle

theorem keeps_powerWrite (a : Agent) (cmd key : Nat) (push : Bool) {s t : State} (hk : Keeps s t) : Keeps s (powerWrite a cmd key push t) := by
  unfold powerWrite
  repeat' first
    | with_reducible first | assumption | apply keeps_powerRefuse | apply keeps_powerReset | apply keeps_transStart
    | ((try lift_lets); intro x; first | (refine (fun hx : Keeps s x => ?_) ?_; (on_goal 1 => clear_value x); (on_goal 2 => subst x)) | (have hf : ∀ a, x a = x a := fun _ => rfl; clear hf; subst x) | clear_value x | subst x)
    | with_reducible first | refine keeps_ite ?_ ?_ | refine keepsO_ite ?_ ?_
    | split

theorem keeps_powerCmd (a : Agent) (cmd key : Nat) (push : Bool) {s t : State} (hk : Keeps s t) : KeepsO s (powerCmd a cmd key push t) := by
  unfold powerCmd
  repeat' first
    | with_reducible first | assumption | apply KeepsO.next | apply KeepsO.fault | apply KeepsO.stay | apply keeps_access | apply keeps_powerWrite
    | with_reducible refine fun _ => ?_
    | beta_reduce

theorem keeps_execPowerFull (a : Agent) (push : Bool) (key : Nat) {s t : State} (hk : Keeps s t) : KeepsO s (execPowerFull a push key t) := by
  unfold execPowerFull
  repeat' first
    | with_reducible first | assumption | apply KeepsO.next | apply KeepsO.fault | apply KeepsO.stay | apply keeps_powerCmd

theorem keeps_execPowerQuiet (a : Agent) (push : Bool) (key : Nat) {s t : State} (hk : Keeps s t) : KeepsO s (execPowerQuiet a push key t) := by
  unfold execPowerQuiet
  repeat' first
    | with_reducible first | assumption | apply KeepsO.next | apply KeepsO.fault | apply KeepsO.stay | apply keeps_powerCmd

theorem keeps_execPowerNet (a : Agent) (key : Nat) {s t : State} (hk : Keeps s t) : KeepsO s (execPowerNet a key t) := by
  unfold execPowerNet
  repeat' first
    | with_reducible first | assumption | apply KeepsO.next | apply KeepsO.fault | apply KeepsO.stay | apply keeps_powerCmd

theorem keeps_execPowerStandby (a : Agent) (key : Nat) {s t : State} (hk : Keeps s t) : KeepsO s (execPowerStandby a key t) := by
  unfold execPowerStandby
  repeat' first
    | with_reducible first | assumption | apply KeepsO.next | apply KeepsO.fault | apply KeepsO.stay | apply keeps_powerCmd

theorem keeps_execPowerService (a : Agent) (key : Nat) {s t : State} (hk : Keeps s t) : KeepsO s (execPowerService a key t) := by
  unfold execPowerService
  repeat' first
    | with_reducible first | assumption | apply KeepsO.next | apply KeepsO.fault | apply KeepsO.stay | apply keeps_powerCmd

theorem keeps_execPowerReset (a : Agent) (key : Nat) {s t : State} (hk : Keeps s t) : KeepsO s (execPowerReset a key t) := by
  unfold execPowerReset
  repeat' first
    | with_reducible first | assumption | apply KeepsO.next | apply KeepsO.fault | apply KeepsO.stay | apply keeps_powerCmd

theorem keeps_enterStandby {s t : State} (hk : Keeps s t) : Keeps s (enterStandby t) := by
  unfold enterStandby
  repeat' first
    | with_reducible first | assumption | apply keeps_standbyPws | apply keeps_setPower | apply keeps_jrnSettle | apply keeps_transDone | apply keeps_fallStage
    | ((try lift_lets); intro x; first | (refine (fun hx : Keeps s x => ?_) ?_; (on_goal 1 => clear_value x); (on_goal 2 => subst x)) | (have hf : ∀ a, x a = x a := fun _ => rfl; clear hf; subst x) | clear_value x | subst x)
    | with_reducible first | refine keeps_ite ?_ ?_ | refine keepsO_ite ?_ ?_
    | split

theorem keeps_holdCore (n : Nat) {s t : State} (hk : Keeps s t) : Keeps s (holdCore n t) := by
  unfold holdCore
  repeat' first
    | with_reducible first | assumption | apply keeps_foldl | apply keeps_holdThread | apply keeps_coreLocks
    | with_reducible refine fun _ => ?_
    | ((try lift_lets); intro x; first | (refine (fun hx : Keeps s x => ?_) ?_; (on_goal 1 => clear_value x); (on_goal 2 => subst x)) | (have hf : ∀ a, x a = x a := fun _ => rfl; clear hf; subst x) | clear_value x | subst x)
    | with_reducible first | refine keeps_ite ?_ ?_ | refine keepsO_ite ?_ ?_
    | split
    | with_reducible first | refine Keeps.ofPair (by assumption) ?_ | refine Keeps.ofPair2 (by assumption) ?_ | refine Keeps.ofM (by assumption) ?_ | refine Keeps.ofMP (by assumption) ?_ | refine KeepsO.ofMO (by assumption) ?_ | refine Keeps.ofO (by assumption) ?_
    | beta_reduce
    | dsimp (zeta := false) only
    | dsimp only

theorem keeps_bringBack (m : Image) (rb : List (Nat × Nat)) (st : Nat) {s t : State} (hk : Keeps s t) : Keeps s (bringBack m rb st t) := by
  unfold bringBack
  repeat' first
    | with_reducible first | assumption | apply keeps_setPower | apply keeps_foldl | apply keeps_holdCore | apply keeps_placeBram | apply keeps_placePanel | apply keeps_placeCode | apply keeps_bringPanels | apply keeps_applyThreads | apply keeps_applyAudio | apply keeps_startCores
    | with_reducible refine fun _ => ?_
    | with_reducible fail_if_no_progress (refine Keeps.same ?_ rfl rfl rfl)
    | ((try lift_lets); intro x; first | (refine (fun hx : Keeps s x => ?_) ?_; (on_goal 1 => clear_value x); (on_goal 2 => subst x)) | (have hf : ∀ a, x a = x a := fun _ => rfl; clear hf; subst x) | clear_value x | subst x)
    | with_reducible first | refine keeps_ite ?_ ?_ | refine keepsO_ite ?_ ?_
    | split
    | with_reducible first | refine Keeps.ofPair (by assumption) ?_ | refine Keeps.ofPair2 (by assumption) ?_ | refine Keeps.ofM (by assumption) ?_ | refine Keeps.ofMP (by assumption) ?_ | refine KeepsO.ofMO (by assumption) ?_ | refine Keeps.ofO (by assumption) ?_
    | beta_reduce
    | dsimp (zeta := false) only
    | dsimp only

theorem keeps_enterService {s t : State} (hk : Keeps s t) : Keeps s (enterService t) := by
  unfold enterService
  repeat' first
    | with_reducible first | assumption | apply keeps_bringBack | apply keeps_setPower | apply keeps_applyThreads | apply keeps_applyAudio | apply keeps_transDone | apply keeps_set | apply keeps_foldl | apply keeps_linkDown
    | with_reducible refine fun _ => ?_
    | ((try lift_lets); intro x; first | (refine (fun hx : Keeps s x => ?_) ?_; (on_goal 1 => clear_value x); (on_goal 2 => subst x)) | (have hf : ∀ a, x a = x a := fun _ => rfl; clear hf; subst x) | clear_value x | subst x)
    | with_reducible first | refine keeps_ite ?_ ?_ | refine keepsO_ite ?_ ?_
    | split
    | beta_reduce

theorem keeps_execPowerTransitionDone {s t : State} (hk : Keeps s t) : KeepsO s (execPowerTransitionDone t) := by
  unfold execPowerTransitionDone
  repeat' first
    | with_reducible first | assumption | apply KeepsO.next | apply KeepsO.fault | apply KeepsO.stay | apply keeps_stay | apply keeps_transDone | apply keeps_setPower | apply keeps_enterStandby | apply keeps_enterService
    | with_reducible fail_if_no_progress (refine Keeps.same ?_ rfl rfl rfl)
    | ((try lift_lets); intro x; first | (refine (fun hx : Keeps s x => ?_) ?_; (on_goal 1 => clear_value x); (on_goal 2 => subst x)) | (have hf : ∀ a, x a = x a := fun _ => rfl; clear hf; subst x) | clear_value x | subst x)
    | with_reducible first | refine keeps_ite ?_ ?_ | refine keepsO_ite ?_ ?_
    | split
    | with_reducible first | refine Keeps.ofPair (by assumption) ?_ | refine Keeps.ofPair2 (by assumption) ?_ | refine Keeps.ofM (by assumption) ?_ | refine Keeps.ofMP (by assumption) ?_ | refine KeepsO.ofMO (by assumption) ?_ | refine Keeps.ofO (by assumption) ?_
    | dsimp (zeta := false) only
    | dsimp only

theorem keeps_netFail (err : Nat) {s t : State} (hk : Keeps s t) : Keeps s (netFail err t) := by
  unfold netFail
  repeat' first
    | with_reducible first | assumption | apply keeps_set | apply keeps_powerRefuse
    | with_reducible fail_if_no_progress (refine Keeps.same ?_ rfl rfl rfl)
    | ((try lift_lets); intro x; first | (refine (fun hx : Keeps s x => ?_) ?_; (on_goal 1 => clear_value x); (on_goal 2 => subst x)) | (have hf : ∀ a, x a = x a := fun _ => rfl; clear hf; subst x) | clear_value x | subst x)

theorem keeps_netReturn (m : Image) (rb : List (Nat × Nat)) {s t : State} (hk : Keeps s t) : Keeps s (netReturn m rb t) := by
  unfold netReturn
  repeat' first
    | with_reducible first | assumption | apply keeps_bringBack | apply keeps_setPower | apply keeps_placeBram | apply keeps_placePanel | apply keeps_placeCode | apply keeps_bringPanels | apply keeps_applyThreads | apply keeps_applyAudio | apply keeps_transDone | apply keeps_startCores | apply keeps_foldl
    | with_reducible refine fun _ => ?_
    | with_reducible fail_if_no_progress (refine Keeps.same ?_ rfl rfl rfl)
    | ((try lift_lets); intro x; first | (refine (fun hx : Keeps s x => ?_) ?_; (on_goal 1 => clear_value x); (on_goal 2 => subst x)) | (have hf : ∀ a, x a = x a := fun _ => rfl; clear hf; subst x) | clear_value x | subst x)
    | beta_reduce

theorem keeps_execNetReloadDone (flash : Option Flash) (readback : List (Nat × Nat)) {s t : State} (hk : Keeps s t) : KeepsO s (execNetReloadDone flash readback t) := by
  unfold execNetReloadDone
  repeat' first
    | with_reducible first | assumption | apply KeepsO.next | apply KeepsO.stay | apply keeps_netReturn | apply keeps_netFail | apply keeps_stay
    | ((try lift_lets); intro x; first | (refine (fun hx : Keeps s x => ?_) ?_; (on_goal 1 => clear_value x); (on_goal 2 => subst x)) | (have hf : ∀ a, x a = x a := fun _ => rfl; clear hf; subst x) | clear_value x | subst x)
    | with_reducible first | refine keeps_ite ?_ ?_ | refine keepsO_ite ?_ ?_
    | split
    | with_reducible first | refine Keeps.ofPair (by assumption) ?_ | refine Keeps.ofPair2 (by assumption) ?_ | refine Keeps.ofM (by assumption) ?_ | refine Keeps.ofMP (by assumption) ?_ | refine KeepsO.ofMO (by assumption) ?_ | refine Keeps.ofO (by assumption) ?_
    | dsimp (zeta := false) only
    | dsimp only

theorem keeps_netClock {s t : State} (hk : Keeps s t) : Keeps s (netClock t) := by
  unfold netClock
  repeat' first
    | with_reducible first | assumption | apply keeps_netFail
    | with_reducible first | refine keeps_ite ?_ ?_ | refine keepsO_ite ?_ ?_
    | split

theorem keeps_transHalt {s t : State} (hk : Keeps s t) : Keeps s (transHalt t) := by
  unfold transHalt
  repeat' first
    | with_reducible first | assumption | apply keeps_set
    | with_reducible fail_if_no_progress (refine Keeps.same ?_ rfl rfl rfl)
    | ((try lift_lets); intro x; first | (refine (fun hx : Keeps s x => ?_) ?_; (on_goal 1 => clear_value x); (on_goal 2 => subst x)) | (have hf : ∀ a, x a = x a := fun _ => rfl; clear hf; subst x) | clear_value x | subst x)
    | with_reducible first | refine keeps_ite ?_ ?_ | refine keepsO_ite ?_ ?_
    | split

theorem keeps_execStandbyWakeFrame (id : Nat) (ext : Bool) (_data : List Byte) {s t : State} (hk : Keeps s t) : KeepsO s (execStandbyWakeFrame id ext _data t) := by
  unfold execStandbyWakeFrame
  repeat' first
    | with_reducible first | assumption | apply KeepsO.next | apply KeepsO.fault | apply KeepsO.stay | apply keeps_stay | apply keeps_set
    | with_reducible first | refine keeps_ite ?_ ?_ | refine keepsO_ite ?_ ?_
    | split

end Sys2Proof.Machine
end

