-- ==== Sys2Proof/Laws/KeepsHalt.lean ====
section
/-!
SUPPORT. What Machine/Halt.lean keeps (Laws/Keeps.lean).
-/
namespace Sys2Proof.Machine
set_option linter.unusedTactic false
set_option linter.unreachableTactic false
set_option linter.unusedVariables false

theorem keeps_joinAbort {s t : State} (hk : Keeps s t) : Keeps s (joinAbort t) := by
  unfold joinAbort
  repeat' first
    | with_reducible first | assumption | apply keeps_cause | apply keeps_set
    | ((try lift_lets); intro x; first | (refine (fun hx : Keeps s x => ?_) ?_; (on_goal 1 => clear_value x); (on_goal 2 => subst x)) | (have hf : ∀ a, x a = x a := fun _ => rfl; clear hf; subst x) | clear_value x | subst x)
    | with_reducible first | refine keeps_ite ?_ ?_ | refine keepsO_ite ?_ ?_
    | split

theorem keeps_plyStop {s t : State} (hk : Keeps s t) : Keeps s (plyStop t) := by
  unfold plyStop
  repeat' first
    | with_reducible first | assumption | apply keeps_ownershipDrop
    | with_reducible first | refine keeps_ite ?_ ?_ | refine keepsO_ite ?_ ?_
    | split

theorem keeps_plyHalt {s t : State} (hk : Keeps s t) : Keeps s (plyHalt t) := by
  unfold plyHalt
  repeat' first
    | with_reducible first | assumption | apply keeps_plyStop | apply keeps_joinAbort | apply keeps_emit
    | with_reducible first | refine keeps_ite ?_ ?_ | refine keepsO_ite ?_ ?_
    | split

theorem keeps_haltPorts {s t : State} (hk : Keeps s t) : Keeps s (haltPorts t) := by
  unfold haltPorts
  repeat' first
    | with_reducible first | assumption | apply keeps_flushPort | apply keeps_foldl
    | with_reducible refine fun _ => ?_
    | with_reducible first | refine keeps_ite ?_ ?_ | refine keepsO_ite ?_ ?_
    | split
    | beta_reduce

theorem keeps_haltStage {s t : State} (hk : Keeps s t) : Keeps s (haltStage t) := by
  unfold haltStage
  repeat' first
    | with_reducible first | assumption | apply keeps_gatesGiveBack | apply keeps_fallStage
    | ((try lift_lets); intro x; first | (refine (fun hx : Keeps s x => ?_) ?_; (on_goal 1 => clear_value x); (on_goal 2 => subst x)) | (have hf : ∀ a, x a = x a := fun _ => rfl; clear hf; subst x) | clear_value x | subst x)
    | with_reducible first | refine keeps_ite ?_ ?_ | refine keepsO_ite ?_ ?_
    | split

theorem keeps_haltActions {s t : State} (hk : Keeps s t) : Keeps s (haltActions t) := by
  unfold haltActions
  repeat' first
    | with_reducible first | assumption | apply keeps_transHalt | apply keeps_loadHalt | apply keeps_istAbort | apply keeps_clampAll | apply keeps_haltCores | apply keeps_haltPorts | apply keeps_haltStage | apply keeps_plyHalt | apply keeps_jrnDevice | apply keeps_crossing
    | ((try lift_lets); intro x; first | (refine (fun hx : Keeps s x => ?_) ?_; (on_goal 1 => clear_value x); (on_goal 2 => subst x)) | (have hf : ∀ a, x a = x a := fun _ => rfl; clear hf; subst x) | clear_value x | subst x)

theorem keeps_haltDevice (q fmt idx : Nat) {s t : State} (hk : Keeps s t) : KeepsO s (haltDevice q fmt idx t) := by
  unfold haltDevice
  repeat' first
    | with_reducible first | assumption | apply keeps_idle | apply KeepsO.next | apply KeepsO.fault | apply KeepsO.stay | apply keeps_set | apply keeps_wr | apply keeps_haltActions | apply keeps_patchAbort | apply keeps_stallEnd
    | ((try lift_lets); intro x; first | (refine (fun hx : Keeps s x => ?_) ?_; (on_goal 1 => clear_value x); (on_goal 2 => subst x)) | (have hf : ∀ a, x a = x a := fun _ => rfl; clear hf; subst x) | clear_value x | subst x)
    | with_reducible first | refine keeps_ite ?_ ?_ | refine keepsO_ite ?_ ?_
    | split

end Sys2Proof.Machine
end

