-- ==== Sys2Proof/Laws/KeepsClk.lean ====
section
/-!
SUPPORT. What Machine/Clk.lean keeps (Laws/Keeps.lean).
-/
namespace Sys2Proof.Machine
set_option linter.unusedTactic false
set_option linter.unreachableTactic false
set_option linter.unusedVariables false

theorem keeps_stopActs (i : Nat) {s t : State} (hk : Keeps s t) : Keeps s (stopActs i t) := by
  unfold stopActs
  repeat' first
    | with_reducible first | assumption | apply keeps_setPanelState | apply keeps_plyStop | apply keeps_disableOsc | apply keeps_retireCore | apply keeps_stallBegin | apply keeps_clampPanel | apply keeps_setPanel | apply keeps_patchAbort
    | with_reducible refine fun _ => ?_
    | with_reducible fail_if_no_progress (refine Keeps.same ?_ rfl rfl rfl)
    | ((try lift_lets); intro x; first | (refine (fun hx : Keeps s x => ?_) ?_; (on_goal 1 => clear_value x); (on_goal 2 => subst x)) | (have hf : ∀ a, x a = x a := fun _ => rfl; clear hf; subst x) | clear_value x | subst x)
    | with_reducible first | refine keeps_ite ?_ ?_ | refine keepsO_ite ?_ ?_
    | split
    | beta_reduce

theorem keeps_oscStop (i : Nat) {s t : State} (hk : Keeps s t) : Keeps s (oscStop i t) := by
  unfold oscStop
  repeat' first
    | with_reducible first | assumption | apply keeps_istCheck | apply keeps_stopActs | apply keeps_cause | apply keeps_set
    | with_reducible first | refine keeps_ite ?_ ?_ | refine keepsO_ite ?_ ?_
    | split

theorem keeps_oscLost (i : Nat) {s t : State} (hk : Keeps s t) : Keeps s (oscLost i t) := by
  unfold oscLost
  repeat' first
    | with_reducible first | assumption | apply keeps_oscStop
    | ((try lift_lets); intro x; first | (refine (fun hx : Keeps s x => ?_) ?_; (on_goal 1 => clear_value x); (on_goal 2 => subst x)) | (have hf : ∀ a, x a = x a := fun _ => rfl; clear hf; subst x) | clear_value x | subst x)
    | with_reducible first | refine keeps_ite ?_ ?_ | refine keepsO_ite ?_ ?_
    | split
    | with_reducible first | refine Keeps.ofPair (by assumption) ?_ | refine Keeps.ofPair2 (by assumption) ?_ | refine Keeps.ofM (by assumption) ?_ | refine Keeps.ofMP (by assumption) ?_ | refine KeepsO.ofMO (by assumption) ?_ | refine Keeps.ofO (by assumption) ?_
    | dsimp (zeta := false) only
    | dsimp only

theorem keeps_execOscStop (i : Nat) {s t : State} (hk : Keeps s t) : KeepsO s (execOscStop i t) := by
  unfold execOscStop
  repeat' first
    | with_reducible first | assumption | apply keeps_oscLost | apply KeepsO.next | apply KeepsO.fault | apply KeepsO.stay | apply keeps_stay | apply keeps_oscStop
    | with_reducible first | refine keeps_ite ?_ ?_ | refine keepsO_ite ?_ ?_
    | split

theorem keeps_linkEmpty (k : Nat) {s t : State} (hk : Keeps s t) : Keeps s (linkEmpty k t) := by
  unfold linkEmpty
  repeat' first
    | with_reducible first | assumption
    | with_reducible refine fun _ => ?_
    | with_reducible fail_if_no_progress (refine Keeps.same ?_ rfl rfl rfl)
    | ((try lift_lets); intro x; first | (refine (fun hx : Keeps s x => ?_) ?_; (on_goal 1 => clear_value x); (on_goal 2 => subst x)) | (have hf : ∀ a, x a = x a := fun _ => rfl; clear hf; subst x) | clear_value x | subst x)
    | with_reducible first | refine keeps_ite ?_ ?_ | refine keepsO_ite ?_ ?_
    | split
    | with_reducible first | refine Keeps.ofPair (by assumption) ?_ | refine Keeps.ofPair2 (by assumption) ?_ | refine Keeps.ofM (by assumption) ?_ | refine Keeps.ofMP (by assumption) ?_ | refine KeepsO.ofMO (by assumption) ?_ | refine Keeps.ofO (by assumption) ?_
    | beta_reduce
    | dsimp (zeta := false) only
    | dsimp only

theorem keeps_retireLink (k : Nat) {s t : State} (hk : Keeps s t) : Keeps s (retireLink k t) := by
  unfold retireLink
  repeat' first
    | with_reducible first | assumption | apply keeps_linkEmpty | apply keeps_set | apply keeps_istCheck | apply keeps_cause | apply keeps_oscStop | apply keeps_foldl
    | with_reducible refine fun _ => ?_
    | ((try lift_lets); intro x; first | (refine (fun hx : Keeps s x => ?_) ?_; (on_goal 1 => clear_value x); (on_goal 2 => subst x)) | (have hf : ∀ a, x a = x a := fun _ => rfl; clear hf; subst x) | clear_value x | subst x)
    | with_reducible first | refine keeps_ite ?_ ?_ | refine keepsO_ite ?_ ?_
    | split
    | beta_reduce

theorem keeps_replay (k : Nat) {s t : State} (hk : Keeps s t) : Keeps s (replay k t) := by
  unfold replay
  repeat' first
    | with_reducible first | assumption | apply keeps_bump | apply keeps_set

theorem keeps_setCredits (x n : Nat) {s t : State} (hk : Keeps s t) : Keeps s (setCredits x n t) := by
  unfold setCredits
  repeat' first
    | with_reducible first | assumption
    | with_reducible refine fun _ => ?_
    | with_reducible fail_if_no_progress (refine Keeps.same ?_ rfl rfl rfl)
    | ((try lift_lets); intro x; first | (refine (fun hx : Keeps s x => ?_) ?_; (on_goal 1 => clear_value x); (on_goal 2 => subst x)) | (have hf : ∀ a, x a = x a := fun _ => rfl; clear hf; subst x) | clear_value x | subst x)
    | with_reducible first | refine keeps_ite ?_ ?_ | refine keepsO_ite ?_ ?_
    | split
    | with_reducible first | refine Keeps.ofPair (by assumption) ?_ | refine Keeps.ofPair2 (by assumption) ?_ | refine Keeps.ofM (by assumption) ?_ | refine Keeps.ofMP (by assumption) ?_ | refine KeepsO.ofMO (by assumption) ?_ | refine Keeps.ofO (by assumption) ?_
    | beta_reduce
    | dsimp (zeta := false) only
    | dsimp only

theorem keeps_setFlitsHeld (x n : Nat) {s t : State} (hk : Keeps s t) : Keeps s (setFlitsHeld x n t) := by
  unfold setFlitsHeld
  repeat' first
    | with_reducible first | assumption
    | with_reducible refine fun _ => ?_
    | with_reducible fail_if_no_progress (refine Keeps.same ?_ rfl rfl rfl)
    | ((try lift_lets); intro x; first | (refine (fun hx : Keeps s x => ?_) ?_; (on_goal 1 => clear_value x); (on_goal 2 => subst x)) | (have hf : ∀ a, x a = x a := fun _ => rfl; clear hf; subst x) | clear_value x | subst x)
    | with_reducible first | refine keeps_ite ?_ ?_ | refine keepsO_ite ?_ ?_
    | split
    | with_reducible first | refine Keeps.ofPair (by assumption) ?_ | refine Keeps.ofPair2 (by assumption) ?_ | refine Keeps.ofM (by assumption) ?_ | refine Keeps.ofMP (by assumption) ?_ | refine KeepsO.ofMO (by assumption) ?_ | refine Keeps.ofO (by assumption) ?_
    | beta_reduce
    | dsimp (zeta := false) only
    | dsimp only

theorem keeps_flitSend (x : Nat) {s t : State} (hk : Keeps s t) : Keeps s (flitSend x t) := by
  unfold flitSend
  repeat' first
    | with_reducible first | assumption | apply keeps_setFlitsHeld | apply keeps_setCredits
    | ((try lift_lets); intro x; first | (refine (fun hx : Keeps s x => ?_) ?_; (on_goal 1 => clear_value x); (on_goal 2 => subst x)) | (have hf : ∀ a, x a = x a := fun _ => rfl; clear hf; subst x) | clear_value x | subst x)
    | with_reducible first | refine keeps_ite ?_ ?_ | refine keepsO_ite ?_ ?_
    | split
    | with_reducible first | refine Keeps.ofPair (by assumption) ?_ | refine Keeps.ofPair2 (by assumption) ?_ | refine Keeps.ofM (by assumption) ?_ | refine Keeps.ofMP (by assumption) ?_ | refine KeepsO.ofMO (by assumption) ?_ | refine Keeps.ofO (by assumption) ?_
    | dsimp (zeta := false) only
    | dsimp only

theorem keeps_flitAttempt (k c : Nat) (err : FlitError) {s t : State} (hk : Keeps s t) : Keeps s (flitAttempt k c err t) := by
  unfold flitAttempt
  repeat' first
    | with_reducible first | assumption | apply keeps_bump | apply keeps_replay | apply keeps_linkEmpty | apply keeps_istCheck | apply keeps_set
    | with_reducible refine fun _ => ?_
    | with_reducible fail_if_no_progress (refine Keeps.same ?_ rfl rfl rfl)
    | ((try lift_lets); intro x; first | (refine (fun hx : Keeps s x => ?_) ?_; (on_goal 1 => clear_value x); (on_goal 2 => subst x)) | (have hf : ∀ a, x a = x a := fun _ => rfl; clear hf; subst x) | clear_value x | subst x)
    | with_reducible first | refine keeps_ite ?_ ?_ | refine keepsO_ite ?_ ?_
    | split
    | with_reducible first | refine Keeps.ofPair (by assumption) ?_ | refine Keeps.ofPair2 (by assumption) ?_ | refine Keeps.ofM (by assumption) ?_ | refine Keeps.ofMP (by assumption) ?_ | refine KeepsO.ofMO (by assumption) ?_ | refine Keeps.ofO (by assumption) ?_
    | beta_reduce
    | dsimp (zeta := false) only
    | dsimp only

theorem keeps_execWeftFlitReceive (k : Nat) (back resp : Bool) (returned : Nat) (err : FlitError) {s t : State} (hk : Keeps s t) : KeepsO s (execWeftFlitReceive k back err t resp returned) := by
  unfold execWeftFlitReceive
  repeat' first
    | with_reducible first | assumption | apply KeepsO.next | apply KeepsO.stay | apply keeps_stay | apply keeps_setCredits | apply keeps_flitAttempt | apply keeps_setFlitsHeld | apply keeps_flitSend
    | with_reducible refine fun _ => ?_
    | ((try lift_lets); intro x; first | (refine (fun hx : Keeps s x => ?_) ?_; (on_goal 1 => clear_value x); (on_goal 2 => subst x)) | (have hf : ∀ a, x a = x a := fun _ => rfl; clear hf; subst x) | clear_value x | subst x)
    | with_reducible first | refine keeps_ite ?_ ?_ | refine keepsO_ite ?_ ?_
    | split
    | with_reducible first | refine Keeps.ofPair (by assumption) ?_ | refine Keeps.ofPair2 (by assumption) ?_ | refine Keeps.ofM (by assumption) ?_ | refine Keeps.ofMP (by assumption) ?_ | refine KeepsO.ofMO (by assumption) ?_ | refine Keeps.ofO (by assumption) ?_
    | beta_reduce
    | dsimp (zeta := false) only
    | dsimp only

theorem keeps_loopPassed (k : Nat) (back : Bool) {s t : State} (hk : Keeps s t) : Keeps s (loopPassed k back t) := by
  unfold loopPassed
  repeat' first
    | with_reducible first | assumption | apply keeps_set
    | with_reducible refine fun _ => ?_
    | with_reducible fail_if_no_progress (refine Keeps.same ?_ rfl rfl rfl)
    | ((try lift_lets); intro x; first | (refine (fun hx : Keeps s x => ?_) ?_; (on_goal 1 => clear_value x); (on_goal 2 => subst x)) | (have hf : ∀ a, x a = x a := fun _ => rfl; clear hf; subst x) | clear_value x | subst x)
    | with_reducible first | refine keeps_ite ?_ ?_ | refine keepsO_ite ?_ ?_
    | split
    | with_reducible first | refine Keeps.ofPair (by assumption) ?_ | refine Keeps.ofPair2 (by assumption) ?_ | refine Keeps.ofM (by assumption) ?_ | refine Keeps.ofMP (by assumption) ?_ | refine KeepsO.ofMO (by assumption) ?_ | refine Keeps.ofO (by assumption) ?_
    | beta_reduce
    | dsimp (zeta := false) only
    | dsimp only

theorem keeps_execLinkLoopTestDone (k : Nat) (back pass : Bool) {s t : State} (hk : Keeps s t) : KeepsO s (execLinkLoopTestDone k back pass t) := by
  unfold execLinkLoopTestDone
  repeat' first
    | with_reducible first | assumption | apply keeps_loopPassed | apply KeepsO.next | apply KeepsO.fault | apply KeepsO.stay | apply keeps_stay | apply keeps_loopEnd | apply keeps_set | apply keeps_retireLink
    | ((try lift_lets); intro x; first | (refine (fun hx : Keeps s x => ?_) ?_; (on_goal 1 => clear_value x); (on_goal 2 => subst x)) | (have hf : ∀ a, x a = x a := fun _ => rfl; clear hf; subst x) | clear_value x | subst x)
    | with_reducible first | refine keeps_ite ?_ ?_ | refine keepsO_ite ?_ ?_
    | split

theorem keeps_timeState (v : Nat) {s t : State} (hk : Keeps s t) : Keeps s (timeState v t) := by
  unfold timeState
  repeat' first
    | with_reducible first | assumption | apply keeps_cause | apply keeps_set
    | with_reducible first | refine keeps_ite ?_ ?_ | refine keepsO_ite ?_ ?_
    | split

theorem keeps_disciplined {s t : State} (hk : Keeps s t) : Keeps s (disciplined t) := by
  unfold disciplined
  dsimp only
  exact keeps_ite (Keeps.same hk rfl rfl rfl) (keeps_timeState _ (Keeps.same hk rfl rfl rfl))

theorem keeps_execHoldoverTimeout {s t : State} (hk : Keeps s t) : KeepsO s (execHoldoverTimeout t) := by
  unfold execHoldoverTimeout
  refine keepsO_ite (KeepsO.stay hk) (KeepsO.next ?_)
  dsimp only
  exact keeps_ite (keeps_timeState _ (Keeps.same hk rfl rfl rfl)) (Keeps.same hk rfl rfl rfl)

theorem keeps_audioStops {s t : State} (hk : Keeps s t) : Keeps s (audioStops t) := by
  unfold audioStops
  repeat' first
    | with_reducible first | assumption | apply keeps_plyStop | apply keeps_calPllLost | apply keeps_audHaltPll
    | with_reducible first | refine keeps_ite ?_ ?_ | refine keepsO_ite ?_ ?_
    | split

theorem keeps_refclkLost {s t : State} (hk : Keeps s t) : Keeps s (refclkLost t) := by
  unfold refclkLost
  repeat' first
    | with_reducible first | assumption | apply keeps_set | apply keeps_timeState | apply keeps_cause | apply keeps_netClock | apply keeps_loadClock | apply keeps_audioStops | apply keeps_disableRef | apply keeps_foldl
    | with_reducible refine fun _ => ?_
    | ((try lift_lets); intro x; first | (refine (fun hx : Keeps s x => ?_) ?_; (on_goal 1 => clear_value x); (on_goal 2 => subst x)) | (have hf : ∀ a, x a = x a := fun _ => rfl; clear hf; subst x) | clear_value x | subst x)
    | beta_reduce

theorem keeps_execRefclkLoss {s t : State} (hk : Keeps s t) : KeepsO s (execRefclkLoss t) := by
  unfold execRefclkLoss
  repeat' first
    | with_reducible first | assumption | apply KeepsO.next | apply KeepsO.fault | apply KeepsO.stay | apply keeps_stay | apply keeps_refclkLost
    | with_reducible first | refine keeps_ite ?_ ?_ | refine keepsO_ite ?_ ?_
    | split

theorem keeps_execRefclkPresent {s t : State} (hk : Keeps s t) : KeepsO s (execRefclkPresent t) := by
  unfold execRefclkPresent
  repeat' first
    | with_reducible first | assumption | apply KeepsO.next | apply KeepsO.fault | apply KeepsO.stay | apply keeps_stay | apply keeps_set | apply keeps_safeResume | apply keeps_timeState
    | with_reducible fail_if_no_progress (refine Keeps.same ?_ rfl rfl rfl)
    | ((try lift_lets); intro x; first | (refine (fun hx : Keeps s x => ?_) ?_; (on_goal 1 => clear_value x); (on_goal 2 => subst x)) | (have hf : ∀ a, x a = x a := fun _ => rfl; clear hf; subst x) | clear_value x | subst x)
    | with_reducible first | refine keeps_ite ?_ ?_ | refine keepsO_ite ?_ ?_
    | split
    | with_reducible first | refine Keeps.ofPair (by assumption) ?_ | refine Keeps.ofPair2 (by assumption) ?_ | refine Keeps.ofM (by assumption) ?_ | refine Keeps.ofMP (by assumption) ?_ | refine KeepsO.ofMO (by assumption) ?_ | refine Keeps.ofO (by assumption) ?_
    | dsimp (zeta := false) only
    | dsimp only

theorem keeps_pllStall (k : Nat) (on : Bool) {s t : State} (hk : Keeps s t) : Keeps s (pllStall k on t) := by
  unfold pllStall
  repeat' first
    | with_reducible first | assumption
    | with_reducible fail_if_no_progress (refine Keeps.same ?_ rfl rfl rfl)
    | ((try lift_lets); intro x; first | (refine (fun hx : Keeps s x => ?_) ?_; (on_goal 1 => clear_value x); (on_goal 2 => subst x)) | (have hf : ∀ a, x a = x a := fun _ => rfl; clear hf; subst x) | clear_value x | subst x)
    | with_reducible first | refine keeps_ite ?_ ?_ | refine keepsO_ite ?_ ?_
    | split
    | with_reducible first | refine Keeps.ofPair (by assumption) ?_ | refine Keeps.ofPair2 (by assumption) ?_ | refine Keeps.ofM (by assumption) ?_ | refine Keeps.ofMP (by assumption) ?_ | refine KeepsO.ofMO (by assumption) ?_ | refine Keeps.ofO (by assumption) ?_
    | dsimp (zeta := false) only
    | dsimp only

theorem keeps_pllLockAct (k : Nat) {s t : State} (hk : Keeps s t) : KeepsO s (pllLockAct k t) := by
  unfold pllLockAct
  repeat' first
    | with_reducible first | assumption | apply keeps_pllStall | apply KeepsO.next | apply KeepsO.fault | apply KeepsO.stay | apply keeps_stay | apply keeps_loadRestart | apply keeps_set
    | with_reducible first | refine keeps_ite ?_ ?_ | refine keepsO_ite ?_ ?_
    | split

theorem keeps_execPllUnlock (k : Nat) {s t : State} (hk : Keeps s t) : KeepsO s (execPllUnlock k t) := by
  unfold execPllUnlock
  repeat' first
    | with_reducible first | assumption | apply keeps_pllStall | apply KeepsO.next | apply KeepsO.fault | apply KeepsO.stay | apply keeps_stay | apply keeps_cause | apply keeps_set | apply keeps_audioStops | apply keeps_disablePll
    | ((try lift_lets); intro x; first | (refine (fun hx : Keeps s x => ?_) ?_; (on_goal 1 => clear_value x); (on_goal 2 => subst x)) | (have hf : ∀ a, x a = x a := fun _ => rfl; clear hf; subst x) | clear_value x | subst x)
    | with_reducible first | refine keeps_ite ?_ ?_ | refine keepsO_ite ?_ ?_
    | split

theorem keeps_pllRelockTimeoutAct (k : Nat) {s t : State} (hk : Keeps s t) : KeepsO s (pllRelockTimeoutAct k t) := by
  unfold pllRelockTimeoutAct
  repeat' first
    | with_reducible first | assumption | apply keeps_pllStall | apply KeepsO.next | apply KeepsO.fault | apply KeepsO.stay | apply keeps_stay | apply keeps_oscStop | apply keeps_foldl
    | with_reducible refine fun _ => ?_
    | with_reducible first | refine keeps_ite ?_ ?_ | refine keepsO_ite ?_ ?_
    | split
    | beta_reduce

theorem keeps_execRefclkFreqError {s t : State} (hk : Keeps s t) : KeepsO s (execRefclkFreqError t) := by
  unfold execRefclkFreqError
  repeat' first
    | with_reducible first | assumption | apply KeepsO.next | apply KeepsO.fault | apply KeepsO.stay | apply keeps_stay | apply keeps_cause
    | with_reducible first | refine keeps_ite ?_ ?_ | refine keepsO_ite ?_ ?_
    | split

theorem keeps_execSlowThresholdCross (n mhz : Nat) {s t : State} (hk : Keeps s t) : KeepsO s (execSlowThresholdCross n mhz t) := by
  unfold execSlowThresholdCross
  repeat' first
    | with_reducible first | assumption | apply KeepsO.next | apply KeepsO.fault | apply KeepsO.stay | apply keeps_stay | apply keeps_cause | apply keeps_set
    | with_reducible first | refine keeps_ite ?_ ?_ | refine keepsO_ite ?_ ?_
    | split

theorem keeps_execSlowClear (n : Nat) {s t : State} (hk : Keeps s t) : KeepsO s (execSlowClear n t) := by
  unfold execSlowClear
  repeat' first
    | with_reducible first | assumption | apply KeepsO.next | apply KeepsO.fault | apply KeepsO.stay | apply keeps_stay | apply keeps_set
    | with_reducible first | refine keeps_ite ?_ ?_ | refine keepsO_ite ?_ ?_
    | split

theorem keeps_execTimeBroadcast (missed : List Nat) {s t : State} (hk : Keeps s t) : KeepsO s (execTimeBroadcast missed t) := by
  unfold execTimeBroadcast
  repeat' first
    | with_reducible first | assumption | apply keeps_prtStepped | apply KeepsO.next | apply KeepsO.fault | apply KeepsO.stay | apply keeps_stay | apply keeps_set | apply keeps_foldl
    | with_reducible refine fun _ => ?_
    | with_reducible fail_if_no_progress (refine Keeps.same ?_ rfl rfl rfl)
    | ((try lift_lets); intro x; first | (refine (fun hx : Keeps s x => ?_) ?_; (on_goal 1 => clear_value x); (on_goal 2 => subst x)) | (have hf : ∀ a, x a = x a := fun _ => rfl; clear hf; subst x) | clear_value x | subst x)
    | with_reducible first | refine keeps_ite ?_ ?_ | refine keepsO_ite ?_ ?_
    | split
    | beta_reduce

theorem keeps_execTimeMessageTimeout (i : Nat) {s t : State} (hk : Keeps s t) : KeepsO s (execTimeMessageTimeout i t) := by
  unfold execTimeMessageTimeout
  repeat' first
    | with_reducible first | assumption | apply KeepsO.next | apply KeepsO.fault | apply KeepsO.stay | apply keeps_stay | apply keeps_set
    | with_reducible first | refine keeps_ite ?_ ?_ | refine keepsO_ite ?_ ?_
    | split

theorem keeps_rateWrite (v : Word) {s t : State} (hk : Keeps s t) : Keeps s (rateWrite v t) := by
  unfold rateWrite
  repeat' first
    | with_reducible first | assumption | apply keeps_disciplined | apply keeps_wr

theorem keeps_execTimeRateWrite (a : Agent) (v : Word) {s t : State} (hk : Keeps s t) : KeepsO s (execTimeRateWrite a v t) := by
  unfold execTimeRateWrite
  repeat' first
    | with_reducible first | assumption | apply KeepsO.next | apply KeepsO.fault | apply KeepsO.stay | apply keeps_access | apply keeps_rateWrite
    | with_reducible refine fun _ => ?_
    | beta_reduce

theorem keeps_slewWrite (v : Word) {s t : State} (hk : Keeps s t) : Keeps s (slewWrite v t) := by
  unfold slewWrite
  repeat' first
    | with_reducible first | assumption | apply keeps_disciplined
    | with_reducible fail_if_no_progress (refine Keeps.same ?_ rfl rfl rfl)
    | ((try lift_lets); intro x; first | (refine (fun hx : Keeps s x => ?_) ?_; (on_goal 1 => clear_value x); (on_goal 2 => subst x)) | (have hf : ∀ a, x a = x a := fun _ => rfl; clear hf; subst x) | clear_value x | subst x)

theorem keeps_execTimeSlewWrite (a : Agent) (v : Word) {s t : State} (hk : Keeps s t) : KeepsO s (execTimeSlewWrite a v t) := by
  unfold execTimeSlewWrite
  repeat' first
    | with_reducible first | assumption | apply KeepsO.next | apply KeepsO.fault | apply KeepsO.stay | apply keeps_access | apply keeps_slewWrite
    | with_reducible refine fun _ => ?_
    | beta_reduce

theorem keeps_timeStep (lo hi : Word) {s t : State} (hk : Keeps s t) : Keeps s (timeStep lo hi t) := by
  unfold timeStep
  repeat' first
    | with_reducible first | assumption | apply keeps_wr | apply keeps_disciplined | apply keeps_cause
    | with_reducible fail_if_no_progress (refine Keeps.same ?_ rfl rfl rfl)
    | ((try lift_lets); intro x; first | (refine (fun hx : Keeps s x => ?_) ?_; (on_goal 1 => clear_value x); (on_goal 2 => subst x)) | (have hf : ∀ a, x a = x a := fun _ => rfl; clear hf; subst x) | clear_value x | subst x)
    | with_reducible first | refine keeps_ite ?_ ?_ | refine keepsO_ite ?_ ?_
    | split

theorem keeps_stepWrite (a : Agent) (hi : Word) {s t : State} (hk : Keeps s t) : Keeps s (stepWrite a hi t) := by
  unfold stepWrite
  repeat' first
    | with_reducible first | assumption | apply keeps_pairWrite | apply keeps_timeStep
    | with_reducible refine fun _ => ?_
    | beta_reduce

theorem keeps_execTimeStep (a : Agent) (hi : Word) {s t : State} (hk : Keeps s t) : KeepsO s (execTimeStep a hi t) := by
  unfold execTimeStep
  repeat' first
    | with_reducible first | assumption | apply KeepsO.next | apply KeepsO.fault | apply KeepsO.stay | apply keeps_access | apply keeps_stepWrite
    | with_reducible refine fun _ => ?_
    | beta_reduce

end Sys2Proof.Machine
end

