-- ==== Sys2Proof/Laws/KeepsDgn.lean ====
section
/-!
SUPPORT. What Machine/Dgn.lean keeps (Laws/Keeps.lean).
-/
namespace Sys2Proof.Machine
set_option linter.unusedTactic false
set_option linter.unreachableTactic false
set_option linter.unusedVariables false

theorem keeps_setCan (n : Nat) (x : CanPort) {s t : State} (hk : Keeps s t) : Keeps s (State.setCan t n x) := by
  unfold State.setCan
  repeat' first
    | with_reducible assumption
    | with_reducible refine fun _ => ?_
    | with_reducible fail_if_no_progress (refine Keeps.same ?_ rfl rfl rfl)
    | ((try lift_lets); intro x; first | (refine (fun hx : Keeps s x => ?_) ?_; (on_goal 1 => clear_value x); (on_goal 2 => subst x)) | (have hf : ∀ a, x a = x a := fun _ => rfl; clear hf; subst x) | clear_value x | subst x)
    | beta_reduce

theorem keeps_canCause (lo src n : Nat) {s t : State} (hk : Keeps s t) : Keeps s (canCause lo src n t) := by
  unfold canCause
  repeat' first
    | with_reducible first | assumption | apply keeps_cause

theorem keeps_canShow (n : Nat) {s t : State} (hk : Keeps s t) : Keeps s (canShow n t) := by
  unfold canShow
  repeat' first
    | with_reducible first | assumption | apply keeps_set

theorem keeps_canStore (n k t : Nat) (f : CanFrame) {s u0 : State} (hk : Keeps s u0) : Keeps s (canStore n k t f u0) := by
  unfold canStore
  repeat' first
    | with_reducible first | assumption | apply keeps_canCause | apply keeps_bump | apply keeps_set | apply keeps_canShow | apply keeps_setCan
    | with_reducible fail_if_no_progress (refine Keeps.same ?_ rfl rfl rfl)
    | ((try lift_lets); intro x; first | (refine (fun hx : Keeps s x => ?_) ?_; (on_goal 1 => clear_value x); (on_goal 2 => subst x)) | (have hf : ∀ a, x a = x a := fun _ => rfl; clear hf; subst x) | clear_value x | subst x)
    | with_reducible first | refine keeps_ite ?_ ?_ | refine keepsO_ite ?_ ?_
    | split

theorem keeps_canLevel (n : Nat) {s t : State} (hk : Keeps s t) : Keeps s (canLevel n t) := by
  unfold canLevel
  repeat' first
    | with_reducible first | assumption | apply keeps_set
    | with_reducible first | refine keeps_ite ?_ ?_ | refine keepsO_ite ?_ ?_
    | split

theorem keeps_busOff (n : Nat) {s t : State} (hk : Keeps s t) : Keeps s (busOff n t) := by
  unfold busOff
  repeat' first
    | with_reducible first | assumption | apply keeps_setCan | apply keeps_canCause | apply keeps_set
    | with_reducible fail_if_no_progress (refine Keeps.same ?_ rfl rfl rfl)
    | ((try lift_lets); intro x; first | (refine (fun hx : Keeps s x => ?_) ?_; (on_goal 1 => clear_value x); (on_goal 2 => subst x)) | (have hf : ∀ a, x a = x a := fun _ => rfl; clear hf; subst x) | clear_value x | subst x)
    | with_reducible first | refine keeps_ite ?_ ?_ | refine keepsO_ite ?_ ?_
    | split

theorem keeps_canRec (n : Nat) (ok : Bool) {s t : State} (hk : Keeps s t) : Keeps s (canRec n ok t) := by
  unfold canRec
  repeat' first
    | with_reducible first | assumption | apply keeps_canLevel | apply keeps_set | apply keeps_draw
    | ((try lift_lets); intro x; first | (refine (fun hx : Keeps s x => ?_) ?_; (on_goal 1 => clear_value x); (on_goal 2 => subst x)) | (have hf : ∀ a, x a = x a := fun _ => rfl; clear hf; subst x) | clear_value x | subst x)
    | with_reducible first | refine keeps_ite ?_ ?_ | refine keepsO_ite ?_ ?_
    | split
    | with_reducible first | refine Keeps.ofPair (by assumption) ?_ | refine Keeps.ofPair2 (by assumption) ?_ | refine Keeps.ofM (by assumption) ?_ | refine Keeps.ofMP (by assumption) ?_ | refine KeepsO.ofMO (by assumption) ?_ | refine Keeps.ofO (by assumption) ?_
    | dsimp (zeta := false) only
    | dsimp only

theorem keeps_safeOffer (f : CanFrame) {s t : State} (hk : Keeps s t) : Keeps s (safeOffer f t) := by
  unfold safeOffer
  repeat' first
    | with_reducible first | assumption | apply keeps_set | apply keeps_safeTake
    | ((try lift_lets); intro x; first | (refine (fun hx : Keeps s x => ?_) ?_; (on_goal 1 => clear_value x); (on_goal 2 => subst x)) | (have hf : ∀ a, x a = x a := fun _ => rfl; clear hf; subst x) | clear_value x | subst x)
    | with_reducible first | refine keeps_ite ?_ ?_ | refine keepsO_ite ?_ ?_
    | split

theorem keeps_execCanFrameReceive (n : Nat) (f : CanFrame) (ago : Nat) (ok : Bool) {s t : State} (hk : Keeps s t) : KeepsO s (execCanFrameReceive n f ago ok t) := by
  unfold execCanFrameReceive
  repeat' first
    | with_reducible first | assumption | apply KeepsO.next | apply KeepsO.fault | apply KeepsO.stay | apply keeps_stay | apply keeps_canRec | apply keeps_safeOffer | apply keeps_canStore
    | with_reducible fail_if_no_progress (refine Keeps.same ?_ rfl rfl rfl)
    | ((try lift_lets); intro x; first | (refine (fun hx : Keeps s x => ?_) ?_; (on_goal 1 => clear_value x); (on_goal 2 => subst x)) | (have hf : ∀ a, x a = x a := fun _ => rfl; clear hf; subst x) | clear_value x | subst x)
    | with_reducible first | refine keeps_ite ?_ ?_ | refine keepsO_ite ?_ ?_
    | split
    | with_reducible first | refine Keeps.ofPair (by assumption) ?_ | refine Keeps.ofPair2 (by assumption) ?_ | refine Keeps.ofM (by assumption) ?_ | refine Keeps.ofMP (by assumption) ?_ | refine KeepsO.ofMO (by assumption) ?_ | refine Keeps.ofO (by assumption) ?_
    | dsimp (zeta := false) only
    | dsimp only

theorem keeps_txReq (a : Agent) (n : Nat) (v : Word) {s t : State} (hk : Keeps s t) : Keeps s (txReq a n v t) := by
  unfold txReq
  repeat' first
    | with_reducible first | assumption | apply keeps_set
    | with_reducible first | refine keeps_ite ?_ ?_ | refine keepsO_ite ?_ ?_
    | split

theorem keeps_execCanTxRequest (a : Agent) (n : Nat) (v : Word) {s t : State} (hk : Keeps s t) : KeepsO s (execCanTxRequest a n v t) := by
  unfold execCanTxRequest
  repeat' first
    | with_reducible first | assumption | apply KeepsO.next | apply KeepsO.fault | apply KeepsO.stay | apply keeps_stay | apply keeps_access | apply keeps_txReq
    | with_reducible refine fun _ => ?_
    | with_reducible first | refine keeps_ite ?_ ?_ | refine keepsO_ite ?_ ?_
    | split
    | beta_reduce

theorem keeps_txAbort (a : Agent) (n : Nat) (v : Word) (sent : Nat) {s t : State} (hk : Keeps s t) : Keeps s (txAbort a n v sent t) := by
  unfold txAbort
  repeat' first
    | with_reducible first | assumption | apply keeps_setCan | apply keeps_set
    | with_reducible fail_if_no_progress (refine Keeps.same ?_ rfl rfl rfl)
    | ((try lift_lets); intro x; first | (refine (fun hx : Keeps s x => ?_) ?_; (on_goal 1 => clear_value x); (on_goal 2 => subst x)) | (have hf : ∀ a, x a = x a := fun _ => rfl; clear hf; subst x) | clear_value x | subst x)
    | with_reducible first | refine keeps_ite ?_ ?_ | refine keepsO_ite ?_ ?_
    | split

theorem keeps_execCanTxAbort (a : Agent) (n : Nat) (v : Word) (sent : Nat) {s t : State} (hk : Keeps s t) : KeepsO s (execCanTxAbort a n v sent t) := by
  unfold execCanTxAbort
  repeat' first
    | with_reducible first | assumption | apply KeepsO.next | apply KeepsO.fault | apply KeepsO.stay | apply keeps_stay | apply keeps_access | apply keeps_txAbort
    | with_reducible refine fun _ => ?_
    | with_reducible first | refine keeps_ite ?_ ?_ | refine keepsO_ite ?_ ?_
    | split
    | beta_reduce

theorem keeps_txFailed (n b : Nat) {s t : State} (hk : Keeps s t) : Keeps s (txFailed n b t) := by
  unfold txFailed
  repeat' first
    | with_reducible first | assumption | apply keeps_setCan | apply keeps_set
    | with_reducible fail_if_no_progress (refine Keeps.same ?_ rfl rfl rfl)
    | ((try lift_lets); intro x; first | (refine (fun hx : Keeps s x => ?_) ?_; (on_goal 1 => clear_value x); (on_goal 2 => subst x)) | (have hf : ∀ a, x a = x a := fun _ => rfl; clear hf; subst x) | clear_value x | subst x)
    | with_reducible first | refine keeps_ite ?_ ?_ | refine keepsO_ite ?_ ?_
    | split

theorem keeps_txSent (n b : Nat) {s t : State} (hk : Keeps s t) : Keeps s (txSent n b t) := by
  unfold txSent
  repeat' first
    | with_reducible first | assumption | apply keeps_emit | apply keeps_set | apply keeps_setCan | apply keeps_canLevel | apply keeps_canCause
    | with_reducible fail_if_no_progress (refine Keeps.same ?_ rfl rfl rfl)
    | ((try lift_lets); intro x; first | (refine (fun hx : Keeps s x => ?_) ?_; (on_goal 1 => clear_value x); (on_goal 2 => subst x)) | (have hf : ∀ a, x a = x a := fun _ => rfl; clear hf; subst x) | clear_value x | subst x)
    | with_reducible first | refine keeps_ite ?_ ?_ | refine keepsO_ite ?_ ?_
    | split

theorem keeps_txError (n b : Nat) {s t : State} (hk : Keeps s t) : Keeps s (txError n b t) := by
  unfold txError
  repeat' first
    | with_reducible first | assumption | apply keeps_txFailed | apply keeps_set | apply keeps_busOff | apply keeps_canLevel
    | ((try lift_lets); intro x; first | (refine (fun hx : Keeps s x => ?_) ?_; (on_goal 1 => clear_value x); (on_goal 2 => subst x)) | (have hf : ∀ a, x a = x a := fun _ => rfl; clear hf; subst x) | clear_value x | subst x)
    | with_reducible first | refine keeps_ite ?_ ?_ | refine keepsO_ite ?_ ?_
    | split

theorem keeps_execCanTxDone (n late : Nat) (res : CanEnd) {s t : State} (hk : Keeps s t) : KeepsO s (execCanTxDone n late res t) := by
  unfold execCanTxDone
  repeat' first
    | with_reducible first | assumption | apply KeepsO.next | apply KeepsO.fault | apply KeepsO.stay | apply keeps_stay | apply keeps_txSent | apply keeps_txFailed | apply keeps_txError
    | with_reducible fail_if_no_progress (refine Keeps.same ?_ rfl rfl rfl)
    | ((try lift_lets); intro x; first | (refine (fun hx : Keeps s x => ?_) ?_; (on_goal 1 => clear_value x); (on_goal 2 => subst x)) | (have hf : ∀ a, x a = x a := fun _ => rfl; clear hf; subst x) | clear_value x | subst x)
    | with_reducible first | refine keeps_ite ?_ ?_ | refine keepsO_ite ?_ ?_
    | split
    | with_reducible first | refine Keeps.ofPair (by assumption) ?_ | refine Keeps.ofPair2 (by assumption) ?_ | refine Keeps.ofM (by assumption) ?_ | refine Keeps.ofMP (by assumption) ?_ | refine KeepsO.ofMO (by assumption) ?_ | refine Keeps.ofO (by assumption) ?_
    | dsimp (zeta := false) only
    | dsimp only

theorem keeps_rxPop (a : Agent) (n : Nat) {s t : State} (hk : Keeps s t) : Keeps s (rxPop a n t) := by
  unfold rxPop
  repeat' first
    | with_reducible first | assumption | apply keeps_canShow | apply keeps_setCan
    | with_reducible fail_if_no_progress (refine Keeps.same ?_ rfl rfl rfl)
    | ((try lift_lets); intro x; first | (refine (fun hx : Keeps s x => ?_) ?_; (on_goal 1 => clear_value x); (on_goal 2 => subst x)) | (have hf : ∀ a, x a = x a := fun _ => rfl; clear hf; subst x) | clear_value x | subst x)
    | with_reducible first | refine keeps_ite ?_ ?_ | refine keepsO_ite ?_ ?_
    | split

theorem keeps_execCanRxPop (a : Agent) (n : Nat) (v : Word) {s t : State} (hk : Keeps s t) : KeepsO s (execCanRxPop a n v t) := by
  unfold execCanRxPop
  repeat' first
    | with_reducible first | assumption | apply KeepsO.next | apply KeepsO.fault | apply KeepsO.stay | apply keeps_stay | apply keeps_access | apply keeps_rxPop
    | with_reducible refine fun _ => ?_
    | with_reducible first | refine keeps_ite ?_ ?_ | refine keepsO_ite ?_ ?_
    | split
    | beta_reduce

theorem keeps_execCanBusOff (n : Nat) {s t : State} (hk : Keeps s t) : KeepsO s (execCanBusOff n t) := by
  unfold execCanBusOff
  repeat' first
    | with_reducible first | assumption | apply KeepsO.next | apply KeepsO.fault | apply KeepsO.stay | apply keeps_stay | apply keeps_busOff
    | with_reducible first | refine keeps_ite ?_ ?_ | refine keepsO_ite ?_ ?_
    | split

theorem keeps_canCtlWrite (a : Agent) (n : Nat) (v : Word) {s t : State} (hk : Keeps s t) : Keeps s (canCtlWrite a n v t) := by
  unfold canCtlWrite
  repeat' first
    | with_reducible first | assumption | apply keeps_wr | apply keeps_setCan | apply keeps_set
    | with_reducible fail_if_no_progress (refine Keeps.same ?_ rfl rfl rfl)
    | ((try lift_lets); intro x; first | (refine (fun hx : Keeps s x => ?_) ?_; (on_goal 1 => clear_value x); (on_goal 2 => subst x)) | (have hf : ∀ a, x a = x a := fun _ => rfl; clear hf; subst x) | clear_value x | subst x)
    | with_reducible first | refine keeps_ite ?_ ?_ | refine keepsO_ite ?_ ?_
    | split

theorem keeps_execCanRecoveryRequest (a : Agent) (n : Nat) (v : Word) {s t : State} (hk : Keeps s t) : KeepsO s (execCanRecoveryRequest a n v t) := by
  unfold execCanRecoveryRequest
  repeat' first
    | with_reducible first | assumption | apply KeepsO.next | apply KeepsO.fault | apply KeepsO.stay | apply keeps_stay | apply keeps_access | apply keeps_canCtlWrite
    | with_reducible refine fun _ => ?_
    | with_reducible first | refine keeps_ite ?_ ?_ | refine keepsO_ite ?_ ?_
    | split
    | beta_reduce

theorem keeps_execCanRecoveryDone (n : Nat) {s t : State} (hk : Keeps s t) : KeepsO s (execCanRecoveryDone n t) := by
  unfold execCanRecoveryDone
  repeat' first
    | with_reducible first | assumption | apply KeepsO.next | apply KeepsO.fault | apply KeepsO.stay | apply keeps_stay | apply keeps_set | apply keeps_setCan
    | with_reducible fail_if_no_progress (refine Keeps.same ?_ rfl rfl rfl)
    | ((try lift_lets); intro x; first | (refine (fun hx : Keeps s x => ?_) ?_; (on_goal 1 => clear_value x); (on_goal 2 => subst x)) | (have hf : ∀ a, x a = x a := fun _ => rfl; clear hf; subst x) | clear_value x | subst x)
    | with_reducible first | refine keeps_ite ?_ ?_ | refine keepsO_ite ?_ ?_
    | split

theorem keeps_execCanTxDominantTimeout (n : Nat) {s t : State} (hk : Keeps s t) : KeepsO s (execCanTxDominantTimeout n t) := by
  unfold execCanTxDominantTimeout
  repeat' first
    | with_reducible first | assumption | apply KeepsO.next | apply KeepsO.fault | apply KeepsO.stay | apply keeps_stay | apply keeps_canCause | apply keeps_set | apply keeps_busOff
    | ((try lift_lets); intro x; first | (refine (fun hx : Keeps s x => ?_) ?_; (on_goal 1 => clear_value x); (on_goal 2 => subst x)) | (have hf : ∀ a, x a = x a := fun _ => rfl; clear hf; subst x) | clear_value x | subst x)
    | with_reducible first | refine keeps_ite ?_ ?_ | refine keepsO_ite ?_ ?_
    | split

theorem keeps_canFollower {s t : State} (hk : Keeps s t) : Keeps s (canFollower t) := by
  unfold canFollower
  repeat' first
    | with_reducible first | assumption | apply keeps_setCan | apply keeps_wr | apply keeps_foldl
    | with_reducible refine fun _ => ?_
    | with_reducible fail_if_no_progress (refine Keeps.same ?_ rfl rfl rfl)
    | ((try lift_lets); intro x; first | (refine (fun hx : Keeps s x => ?_) ?_; (on_goal 1 => clear_value x); (on_goal 2 => subst x)) | (have hf : ∀ a, x a = x a := fun _ => rfl; clear hf; subst x) | clear_value x | subst x)
    | beta_reduce

theorem keeps_canTimeWrite (a : Agent) (n o : Nat) (v : Word) {s t : State} (hk : Keeps s t) : KeepsO s (canTimeWrite a n o v t) := by
  unfold canTimeWrite
  repeat' first
    | with_reducible first | assumption | apply KeepsO.next | apply KeepsO.fault | apply KeepsO.stay | apply keeps_codeWrite
    | with_reducible first | refine keeps_ite ?_ ?_ | refine keepsO_ite ?_ ?_
    | split

theorem keeps_txBufWrite (a : Agent) (n b o : Nat) (v : Word) {s t : State} (hk : Keeps s t) : KeepsO s (txBufWrite a n b o v t) := by
  unfold txBufWrite
  repeat' first
    | with_reducible first | assumption | apply KeepsO.next | apply KeepsO.fault | apply KeepsO.stay | apply keeps_codeWrite
    | with_reducible first | refine keeps_ite ?_ ?_ | refine keepsO_ite ?_ ?_
    | split

theorem keeps_execSnapshotCapture (n : Nat) {s t : State} (hk : Keeps s t) : KeepsO s (execSnapshotCapture n t) := by
  unfold execSnapshotCapture
  repeat' first
    | with_reducible first | assumption | apply KeepsO.next | apply KeepsO.fault | apply KeepsO.stay | apply keeps_stay | apply keeps_snapshot
    | with_reducible first | refine keeps_ite ?_ ?_ | refine keepsO_ite ?_ ?_
    | split

theorem keeps_snapPop {s t : State} (hk : Keeps s t) : Keeps s (snapPop t) := by
  unfold snapPop
  repeat' first
    | with_reducible assumption
    | with_reducible fail_if_no_progress (refine Keeps.same ?_ rfl rfl rfl)
    | ((try lift_lets); intro x; first | (refine (fun hx : Keeps s x => ?_) ?_; (on_goal 1 => clear_value x); (on_goal 2 => subst x)) | (have hf : ∀ a, x a = x a := fun _ => rfl; clear hf; subst x) | clear_value x | subst x)

theorem keeps_execSnapshotPop (a : Agent) (v : Word) {s t : State} (hk : Keeps s t) : KeepsO s (execSnapshotPop a v t) := by
  unfold execSnapshotPop
  repeat' first
    | with_reducible first | assumption | apply KeepsO.next | apply KeepsO.fault | apply KeepsO.stay | apply keeps_access | apply keeps_snapPop
    | with_reducible refine fun _ => ?_
    | beta_reduce

theorem keeps_lcWrite (a : Agent) (v : Word) {s t : State} (hk : Keeps s t) : Keeps s (lcWrite a v t) := by
  unfold lcWrite
  repeat' first
    | with_reducible first | assumption | apply keeps_set
    | with_reducible fail_if_no_progress (refine Keeps.same ?_ rfl rfl rfl)
    | ((try lift_lets); intro x; first | (refine (fun hx : Keeps s x => ?_) ?_; (on_goal 1 => clear_value x); (on_goal 2 => subst x)) | (have hf : ∀ a, x a = x a := fun _ => rfl; clear hf; subst x) | clear_value x | subst x)
    | with_reducible first | refine keeps_ite ?_ ?_ | refine keepsO_ite ?_ ?_
    | split
    | with_reducible first | refine Keeps.ofPair (by assumption) ?_ | refine Keeps.ofPair2 (by assumption) ?_ | refine Keeps.ofM (by assumption) ?_ | refine Keeps.ofMP (by assumption) ?_ | refine KeepsO.ofMO (by assumption) ?_ | refine Keeps.ofO (by assumption) ?_
    | dsimp (zeta := false) only
    | dsimp only

theorem keeps_execLifecycleAdvance (a : Agent) (v : Word) {s t : State} (hk : Keeps s t) : KeepsO s (execLifecycleAdvance a v t) := by
  unfold execLifecycleAdvance
  repeat' first
    | with_reducible first | assumption | apply KeepsO.next | apply KeepsO.fault | apply KeepsO.stay | apply keeps_access | apply keeps_lcWrite
    | with_reducible refine fun _ => ?_
    | beta_reduce

theorem keeps_fprogWrite (a : Agent) (v : Word) {s t : State} (hk : Keeps s t) : Keeps s (fprogWrite a v t) := by
  unfold fprogWrite
  repeat' first
    | with_reducible first | assumption | apply keeps_set
    | with_reducible fail_if_no_progress (refine Keeps.same ?_ rfl rfl rfl)
    | ((try lift_lets); intro x; first | (refine (fun hx : Keeps s x => ?_) ?_; (on_goal 1 => clear_value x); (on_goal 2 => subst x)) | (have hf : ∀ a, x a = x a := fun _ => rfl; clear hf; subst x) | clear_value x | subst x)
    | with_reducible first | refine keeps_ite ?_ ?_ | refine keepsO_ite ?_ ?_
    | split
    | with_reducible first | refine Keeps.ofPair (by assumption) ?_ | refine Keeps.ofPair2 (by assumption) ?_ | refine Keeps.ofM (by assumption) ?_ | refine Keeps.ofMP (by assumption) ?_ | refine KeepsO.ofMO (by assumption) ?_ | refine Keeps.ofO (by assumption) ?_
    | dsimp (zeta := false) only
    | dsimp only

theorem keeps_execFuseProgram (a : Agent) (v : Word) {s t : State} (hk : Keeps s t) : KeepsO s (execFuseProgram a v t) := by
  unfold execFuseProgram
  repeat' first
    | with_reducible first | assumption | apply KeepsO.next | apply KeepsO.fault | apply KeepsO.stay | apply keeps_access | apply keeps_fprogWrite
    | with_reducible refine fun _ => ?_
    | beta_reduce

theorem keeps_execFuseBurnDone {s t : State} (hk : Keeps s t) : KeepsO s (execFuseBurnDone t) := by
  unfold execFuseBurnDone
  repeat' first
    | with_reducible first | assumption | apply KeepsO.next | apply KeepsO.fault | apply KeepsO.stay | apply keeps_cause | apply keeps_set | apply keeps_stay
    | with_reducible refine fun _ => ?_
    | with_reducible fail_if_no_progress (refine Keeps.same ?_ rfl rfl rfl)
    | ((try lift_lets); intro x; first | (refine (fun hx : Keeps s x => ?_) ?_; (on_goal 1 => clear_value x); (on_goal 2 => subst x)) | (have hf : ∀ a, x a = x a := fun _ => rfl; clear hf; subst x) | clear_value x | subst x)
    | split
    | with_reducible first | refine Keeps.ofPair (by assumption) ?_ | refine Keeps.ofPair2 (by assumption) ?_ | refine Keeps.ofM (by assumption) ?_ | refine Keeps.ofMP (by assumption) ?_ | refine KeepsO.ofMO (by assumption) ?_ | refine Keeps.ofO (by assumption) ?_
    | beta_reduce
    | dsimp (zeta := false) only
    | dsimp only

theorem keeps_showOpen {s t : State} (hk : Keeps s t) : Keeps s (showOpen t) := by
  unfold showOpen
  repeat' first
    | with_reducible first | assumption | apply keeps_set
    | ((try lift_lets); intro x; first | (refine (fun hx : Keeps s x => ?_) ?_; (on_goal 1 => clear_value x); (on_goal 2 => subst x)) | (have hf : ∀ a, x a = x a := fun _ => rfl; clear hf; subst x) | clear_value x | subst x)

theorem keeps_unlockBegin {s t : State} (hk : Keeps s t) : Keeps s (unlockBegin t) := by
  unfold unlockBegin
  repeat' first
    | with_reducible first | assumption | apply keeps_set | apply keeps_showOpen | apply keeps_cause
    | with_reducible fail_if_no_progress (refine Keeps.same ?_ rfl rfl rfl)
    | ((try lift_lets); intro x; first | (refine (fun hx : Keeps s x => ?_) ?_; (on_goal 1 => clear_value x); (on_goal 2 => subst x)) | (have hf : ∀ a, x a = x a := fun _ => rfl; clear hf; subst x) | clear_value x | subst x)
    | with_reducible first | refine keeps_ite ?_ ?_ | refine keepsO_ite ?_ ?_
    | split

theorem keeps_unlockOver {s t : State} (hk : Keeps s t) : Keeps s (unlockOver t) := by
  unfold unlockOver
  repeat' first
    | with_reducible first | assumption | apply keeps_showOpen | apply keeps_set | apply keeps_cause
    | ((try lift_lets); intro x; first | (refine (fun hx : Keeps s x => ?_) ?_; (on_goal 1 => clear_value x); (on_goal 2 => subst x)) | (have hf : ∀ a, x a = x a := fun _ => rfl; clear hf; subst x) | clear_value x | subst x)
    | with_reducible first | refine keeps_ite ?_ ?_ | refine keepsO_ite ?_ ?_
    | split

theorem keeps_unlockFail (err : Nat) {s t : State} (hk : Keeps s t) : Keeps s (unlockFail err t) := by
  unfold unlockFail
  repeat' first
    | with_reducible first | assumption | apply keeps_set | apply keeps_cause
    | with_reducible fail_if_no_progress (refine Keeps.same ?_ rfl rfl rfl)
    | ((try lift_lets); intro x; first | (refine (fun hx : Keeps s x => ?_) ?_; (on_goal 1 => clear_value x); (on_goal 2 => subst x)) | (have hf : ∀ a, x a = x a := fun _ => rfl; clear hf; subst x) | clear_value x | subst x)

theorem keeps_challenge {s t : State} (hk : Keeps s t) : Keeps s (challenge t) := by
  unfold challenge
  repeat' first
    | with_reducible first | assumption | apply keeps_set | apply keeps_draw | apply keeps_wr | apply keeps_foldl
    | with_reducible refine fun _ => ?_
    | with_reducible fail_if_no_progress (refine Keeps.same ?_ rfl rfl rfl)
    | ((try lift_lets); intro x; first | (refine (fun hx : Keeps s x => ?_) ?_; (on_goal 1 => clear_value x); (on_goal 2 => subst x)) | (have hf : ∀ a, x a = x a := fun _ => rfl; clear hf; subst x) | clear_value x | subst x)
    | with_reducible first | refine keeps_ite ?_ ?_ | refine keepsO_ite ?_ ?_
    | split
    | with_reducible first | refine Keeps.ofPair (by assumption) ?_ | refine Keeps.ofPair2 (by assumption) ?_ | refine Keeps.ofM (by assumption) ?_ | refine Keeps.ofMP (by assumption) ?_ | refine KeepsO.ofMO (by assumption) ?_ | refine Keeps.ofO (by assumption) ?_
    | beta_reduce
    | dsimp (zeta := false) only
    | dsimp only

theorem keeps_verify {s t : State} (hk : Keeps s t) : Keeps s (verify t) := by
  unfold verify
  repeat' first
    | with_reducible first | assumption | apply keeps_set | apply keeps_unlockFail | apply keeps_unlockBegin
    | with_reducible refine fun _ => ?_
    | with_reducible fail_if_no_progress (refine Keeps.same ?_ rfl rfl rfl)
    | ((try lift_lets); intro x; first | (refine (fun hx : Keeps s x => ?_) ?_; (on_goal 1 => clear_value x); (on_goal 2 => subst x)) | (have hf : ∀ a, x a = x a := fun _ => rfl; clear hf; subst x) | clear_value x | subst x)
    | with_reducible first | refine keeps_ite ?_ ?_ | refine keepsO_ite ?_ ?_
    | split
    | with_reducible first | refine Keeps.ofPair (by assumption) ?_ | refine Keeps.ofPair2 (by assumption) ?_ | refine Keeps.ofM (by assumption) ?_ | refine Keeps.ofMP (by assumption) ?_ | refine KeepsO.ofMO (by assumption) ?_ | refine Keeps.ofO (by assumption) ?_
    | beta_reduce
    | dsimp (zeta := false) only
    | dsimp only

theorem keeps_unlkWrite (a : Agent) (v : Word) {s t : State} (hk : Keeps s t) : Keeps s (unlkWrite a v t) := by
  unfold unlkWrite
  repeat' first
    | with_reducible first | assumption | apply keeps_challenge | apply keeps_verify | apply keeps_unlockOver | apply keeps_set
    | with_reducible fail_if_no_progress (refine Keeps.same ?_ rfl rfl rfl)
    | ((try lift_lets); intro x; first | (refine (fun hx : Keeps s x => ?_) ?_; (on_goal 1 => clear_value x); (on_goal 2 => subst x)) | (have hf : ∀ a, x a = x a := fun _ => rfl; clear hf; subst x) | clear_value x | subst x)
    | with_reducible first | refine keeps_ite ?_ ?_ | refine keepsO_ite ?_ ?_
    | split
    | with_reducible first | refine Keeps.ofPair (by assumption) ?_ | refine Keeps.ofPair2 (by assumption) ?_ | refine Keeps.ofM (by assumption) ?_ | refine Keeps.ofMP (by assumption) ?_ | refine KeepsO.ofMO (by assumption) ?_ | refine Keeps.ofO (by assumption) ?_
    | dsimp (zeta := false) only
    | dsimp only

theorem keeps_execUnlockChallenge (a : Agent) (v : Word) {s t : State} (hk : Keeps s t) : KeepsO s (execUnlockChallenge a v t) := by
  unfold execUnlockChallenge
  repeat' first
    | with_reducible first | assumption | apply KeepsO.next | apply KeepsO.fault | apply KeepsO.stay | apply keeps_stay | apply keeps_access | apply keeps_unlkWrite
    | with_reducible refine fun _ => ?_
    | with_reducible first | refine keeps_ite ?_ ?_ | refine keepsO_ite ?_ ?_
    | split
    | beta_reduce

theorem keeps_execUnlockVerify (a : Agent) (v : Word) {s t : State} (hk : Keeps s t) : KeepsO s (execUnlockVerify a v t) := by
  unfold execUnlockVerify
  repeat' first
    | with_reducible first | assumption | apply KeepsO.next | apply KeepsO.fault | apply KeepsO.stay | apply keeps_stay | apply keeps_access | apply keeps_unlkWrite
    | with_reducible refine fun _ => ?_
    | with_reducible first | refine keeps_ite ?_ ?_ | refine keepsO_ite ?_ ?_
    | split
    | beta_reduce

theorem keeps_execServiceLock (a : Agent) (v : Word) {s t : State} (hk : Keeps s t) : KeepsO s (execServiceLock a v t) := by
  unfold execServiceLock
  repeat' first
    | with_reducible first | assumption | apply KeepsO.next | apply KeepsO.fault | apply KeepsO.stay | apply keeps_stay | apply keeps_access | apply keeps_unlkWrite
    | with_reducible refine fun _ => ?_
    | with_reducible first | refine keeps_ite ?_ ?_ | refine keepsO_ite ?_ ?_
    | split
    | beta_reduce

theorem keeps_execUnlockTimeout {s t : State} (hk : Keeps s t) : KeepsO s (execUnlockTimeout t) := by
  unfold execUnlockTimeout
  repeat' first
    | with_reducible first | assumption | apply KeepsO.next | apply KeepsO.fault | apply KeepsO.stay | apply keeps_stay | apply keeps_unlockOver
    | with_reducible first | refine keeps_ite ?_ ?_ | refine keepsO_ite ?_ ?_
    | split

theorem keeps_execChallengeExpiry {s t : State} (hk : Keeps s t) : KeepsO s (execChallengeExpiry t) := by
  unfold execChallengeExpiry
  repeat' first
    | with_reducible first | assumption | apply KeepsO.next | apply KeepsO.fault | apply KeepsO.stay | apply keeps_stay
    | with_reducible fail_if_no_progress (refine Keeps.same ?_ rfl rfl rfl)
    | ((try lift_lets); intro x; first | (refine (fun hx : Keeps s x => ?_) ?_; (on_goal 1 => clear_value x); (on_goal 2 => subst x)) | (have hf : ∀ a, x a = x a := fun _ => rfl; clear hf; subst x) | clear_value x | subst x)
    | with_reducible first | refine keeps_ite ?_ ?_ | refine keepsO_ite ?_ ?_
    | split

theorem keeps_execUnlockWaitEnd {s t : State} (hk : Keeps s t) : KeepsO s (execUnlockWaitEnd t) := by
  unfold execUnlockWaitEnd
  repeat' first
    | with_reducible first | assumption | apply KeepsO.next | apply KeepsO.fault | apply KeepsO.stay | apply keeps_stay
    | with_reducible fail_if_no_progress (refine Keeps.same ?_ rfl rfl rfl)
    | ((try lift_lets); intro x; first | (refine (fun hx : Keeps s x => ?_) ?_; (on_goal 1 => clear_value x); (on_goal 2 => subst x)) | (have hf : ∀ a, x a = x a := fun _ => rfl; clear hf; subst x) | clear_value x | subst x)
    | with_reducible first | refine keeps_ite ?_ ?_ | refine keepsO_ite ?_ ?_
    | split

theorem keeps_tapLoad (ir cap : Nat) {s t : State} (hk : Keeps s t) : Keeps s (tapLoad ir cap t) := by
  unfold tapLoad
  repeat' first
    | with_reducible assumption
    | with_reducible fail_if_no_progress (refine Keeps.same ?_ rfl rfl rfl)
    | ((try lift_lets); intro x; first | (refine (fun hx : Keeps s x => ?_) ?_; (on_goal 1 => clear_value x); (on_goal 2 => subst x)) | (have hf : ∀ a, x a = x a := fun _ => rfl; clear hf; subst x) | clear_value x | subst x)

theorem keeps_boardTest {s t : State} (hk : Keeps s t) : Keeps s (boardTest t) := by
  unfold boardTest
  repeat' first
    | with_reducible first | assumption | apply keeps_deviceReset | apply keeps_journalCut
    | with_reducible fail_if_no_progress (refine Keeps.same ?_ rfl rfl rfl)
    | ((try lift_lets); intro x; first | (refine (fun hx : Keeps s x => ?_) ?_; (on_goal 1 => clear_value x); (on_goal 2 => subst x)) | (have hf : ∀ a, x a = x a := fun _ => rfl; clear hf; subst x) | clear_value x | subst x)

theorem keeps_tapDrive (ir pins : Nat) {s t : State} (hk : Keeps s t) : KeepsO s (tapDrive ir pins t) := by
  unfold tapDrive
  repeat' first
    | with_reducible first | assumption | apply KeepsO.next | apply KeepsO.fault | apply KeepsO.stay | apply keeps_stay | apply keeps_boardTest | apply keeps_tapLoad
    | with_reducible first | refine keeps_ite ?_ ?_ | refine keepsO_ite ?_ ?_
    | split

theorem keeps_execExtest (pins : Nat) {s t : State} (hk : Keeps s t) : KeepsO s (execExtest pins t) := by
  unfold execExtest
  repeat' first
    | with_reducible first | assumption | apply KeepsO.next | apply KeepsO.fault | apply KeepsO.stay | apply keeps_tapDrive

theorem keeps_execClamp {s t : State} (hk : Keeps s t) : KeepsO s (execClamp t) := by
  unfold execClamp
  repeat' first
    | with_reducible first | assumption | apply KeepsO.next | apply KeepsO.fault | apply KeepsO.stay | apply keeps_tapDrive

theorem keeps_execHighz {s t : State} (hk : Keeps s t) : KeepsO s (execHighz t) := by
  unfold execHighz
  repeat' first
    | with_reducible first | assumption | apply KeepsO.next | apply KeepsO.fault | apply KeepsO.stay | apply keeps_tapDrive

theorem keeps_execExtestPulse (pins : Nat) {s t : State} (hk : Keeps s t) : KeepsO s (execExtestPulse pins t) := by
  unfold execExtestPulse
  repeat' first
    | with_reducible first | assumption | apply KeepsO.next | apply KeepsO.fault | apply KeepsO.stay | apply keeps_tapDrive

theorem keeps_execExtestTrain (pins : Nat) {s t : State} (hk : Keeps s t) : KeepsO s (execExtestTrain pins t) := by
  unfold execExtestTrain
  repeat' first
    | with_reducible first | assumption | apply KeepsO.next | apply KeepsO.fault | apply KeepsO.stay | apply keeps_tapDrive

theorem keeps_execIdcode {s t : State} (hk : Keeps s t) : KeepsO s (execIdcode t) := by
  unfold execIdcode
  repeat' first
    | with_reducible first | assumption | apply KeepsO.next | apply KeepsO.fault | apply KeepsO.stay | apply keeps_stay | apply keeps_tapLoad
    | with_reducible first | refine keeps_ite ?_ ?_ | refine keepsO_ite ?_ ?_
    | split

theorem keeps_execSamplePreload (pins cells : Nat) {s t : State} (hk : Keeps s t) : KeepsO s (execSamplePreload pins cells t) := by
  unfold execSamplePreload
  repeat' first
    | with_reducible first | assumption | apply KeepsO.next | apply KeepsO.fault | apply KeepsO.stay | apply keeps_stay | apply keeps_tapLoad
    | with_reducible fail_if_no_progress (refine Keeps.same ?_ rfl rfl rfl)
    | ((try lift_lets); intro x; first | (refine (fun hx : Keeps s x => ?_) ?_; (on_goal 1 => clear_value x); (on_goal 2 => subst x)) | (have hf : ∀ a, x a = x a := fun _ => rfl; clear hf; subst x) | clear_value x | subst x)
    | with_reducible first | refine keeps_ite ?_ ?_ | refine keepsO_ite ?_ ?_
    | split

theorem keeps_execBypass {s t : State} (hk : Keeps s t) : KeepsO s (execBypass t) := by
  unfold execBypass
  repeat' first
    | with_reducible first | assumption | apply KeepsO.next | apply KeepsO.fault | apply KeepsO.stay | apply keeps_stay | apply keeps_tapLoad
    | with_reducible first | refine keeps_ite ?_ ?_ | refine keepsO_ite ?_ ?_
    | split

theorem keeps_execDbgacc {s t : State} (hk : Keeps s t) : KeepsO s (execDbgacc t) := by
  unfold execDbgacc
  repeat' first
    | with_reducible first | assumption | apply KeepsO.next | apply KeepsO.fault | apply KeepsO.stay | apply keeps_stay | apply keeps_tapLoad
    | with_reducible first | refine keeps_ite ?_ ?_ | refine keepsO_ite ?_ ?_
    | split

theorem keeps_debugClosed {s t : State} (hk : Keeps s t) : Keeps s (debugClosed t) := by
  unfold debugClosed
  repeat' first
    | with_reducible assumption
    | with_reducible fail_if_no_progress (refine Keeps.same ?_ rfl rfl rfl)
    | ((try lift_lets); intro x; first | (refine (fun hx : Keeps s x => ?_) ?_; (on_goal 1 => clear_value x); (on_goal 2 => subst x)) | (have hf : ∀ a, x a = x a := fun _ => rfl; clear hf; subst x) | clear_value x | subst x)

theorem keeps_execDebugReset {s t : State} (hk : Keeps s t) : KeepsO s (execDebugReset t) := by
  unfold execDebugReset
  repeat' first
    | with_reducible first | assumption | apply KeepsO.next | apply KeepsO.fault | apply KeepsO.stay | apply keeps_stay | apply keeps_debugClosed | apply keeps_deviceReset | apply keeps_journalCut
    | with_reducible first | refine keeps_ite ?_ ?_ | refine keepsO_ite ?_ ?_
    | split

theorem keeps_execTapReset {s t : State} (hk : Keeps s t) : KeepsO s (execTapReset t) := by
  unfold execTapReset
  repeat' first
    | with_reducible first | assumption | apply KeepsO.next | apply KeepsO.fault | apply KeepsO.stay
    | with_reducible fail_if_no_progress (refine Keeps.same ?_ rfl rfl rfl)
    | ((try lift_lets); intro x; first | (refine (fun hx : Keeps s x => ?_) ?_; (on_goal 1 => clear_value x); (on_goal 2 => subst x)) | (have hf : ∀ a, x a = x a := fun _ => rfl; clear hf; subst x) | clear_value x | subst x)

end Sys2Proof.Machine
end

