-- ==== Sys2Proof/Laws/KeepsSup.lean ====
section
/-!
SUPPORT. What Machine/Sup.lean keeps (Laws/Keeps.lean).
-/
namespace Sys2Proof.Machine
set_option linter.unusedTactic false
set_option linter.unreachableTactic false
set_option linter.unusedVariables false

theorem keeps_railShow (i mv : Nat) (ok : Bool) {s t : State} (hk : Keeps s t) : Keeps s (railShow i mv ok t) := by
  unfold railShow
  repeat' first
    | with_reducible first | assumption | apply keeps_set

theorem keeps_railLow (i mv : Nat) {s t : State} (hk : Keeps s t) : Keeps s (railLow i mv t) := by
  unfold railLow
  repeat' first
    | with_reducible first | assumption | apply keeps_railShow | apply keeps_cause
    | ((try lift_lets); intro x; first | (refine (fun hx : Keeps s x => ?_) ?_; (on_goal 1 => clear_value x); (on_goal 2 => subst x)) | (have hf : ∀ a, x a = x a := fun _ => rfl; clear hf; subst x) | clear_value x | subst x)
    | with_reducible first | refine keeps_ite ?_ ?_ | refine keepsO_ite ?_ ?_
    | split

theorem keeps_execRailLow (i mv : Nat) {s t : State} (hk : Keeps s t) : KeepsO s (execRailLow i mv t) := by
  unfold execRailLow
  repeat' first
    | with_reducible first | assumption | apply KeepsO.next | apply KeepsO.fault | apply KeepsO.stay | apply keeps_stay | apply keeps_railLow
    | with_reducible first | refine keeps_ite ?_ ?_ | refine keepsO_ite ?_ ?_
    | split

theorem keeps_execRailCollapse (i mv : Nat) {s t : State} (hk : Keeps s t) : KeepsO s (execRailCollapse i mv t) := by
  unfold execRailCollapse
  repeat' first
    | with_reducible first | assumption | apply KeepsO.next | apply KeepsO.fault | apply KeepsO.stay | apply keeps_stay | apply keeps_railLow | apply keeps_oscStop | apply keeps_refclkLost | apply keeps_foldl
    | with_reducible refine fun _ => ?_
    | ((try lift_lets); intro x; first | (refine (fun hx : Keeps s x => ?_) ?_; (on_goal 1 => clear_value x); (on_goal 2 => subst x)) | (have hf : ∀ a, x a = x a := fun _ => rfl; clear hf; subst x) | clear_value x | subst x)
    | with_reducible first | refine keeps_ite ?_ ?_ | refine keepsO_ite ?_ ?_
    | split
    | beta_reduce

theorem keeps_execRailInRange (i mv : Nat) {s t : State} (hk : Keeps s t) : KeepsO s (execRailInRange i mv t) := by
  unfold execRailInRange
  repeat' first
    | with_reducible first | assumption | apply KeepsO.next | apply KeepsO.fault | apply KeepsO.stay | apply keeps_stay | apply keeps_railShow
    | with_reducible fail_if_no_progress (refine Keeps.same ?_ rfl rfl rfl)
    | ((try lift_lets); intro x; first | (refine (fun hx : Keeps s x => ?_) ?_; (on_goal 1 => clear_value x); (on_goal 2 => subst x)) | (have hf : ∀ a, x a = x a := fun _ => rfl; clear hf; subst x) | clear_value x | subst x)
    | with_reducible first | refine keeps_ite ?_ ?_ | refine keepsO_ite ?_ ?_
    | split

theorem keeps_ewShow (vio vbat : Bool) {s t : State} (hk : Keeps s t) : Keeps s (ewShow vio vbat t) := by
  unfold ewShow
  repeat' first
    | with_reducible first | assumption | apply keeps_set
    | ((try lift_lets); intro x; first | (refine (fun hx : Keeps s x => ?_) ?_; (on_goal 1 => clear_value x); (on_goal 2 => subst x)) | (have hf : ∀ a, x a = x a := fun _ => rfl; clear hf; subst x) | clear_value x | subst x)

theorem keeps_execEarlyWarning (vio : Bool) {s t : State} (hk : Keeps s t) : KeepsO s (execEarlyWarning vio t) := by
  unfold execEarlyWarning
  repeat' first
    | with_reducible first | assumption | apply KeepsO.next | apply KeepsO.fault | apply KeepsO.stay | apply keeps_stay | apply keeps_ewShow | apply keeps_cause
    | ((try lift_lets); intro x; first | (refine (fun hx : Keeps s x => ?_) ?_; (on_goal 1 => clear_value x); (on_goal 2 => subst x)) | (have hf : ∀ a, x a = x a := fun _ => rfl; clear hf; subst x) | clear_value x | subst x)
    | with_reducible first | refine keeps_ite ?_ ?_ | refine keepsO_ite ?_ ?_
    | split

theorem keeps_execEarlyWarningClear {s t : State} (hk : Keeps s t) : KeepsO s (execEarlyWarningClear t) := by
  unfold execEarlyWarningClear
  repeat' first
    | with_reducible first | assumption | apply KeepsO.next | apply KeepsO.fault | apply KeepsO.stay | apply keeps_stay | apply keeps_jrnNextDevice | apply keeps_ewShow
    | with_reducible first | refine keeps_ite ?_ ?_ | refine keepsO_ite ?_ ?_
    | split

end Sys2Proof.Machine
end

