-- ==== Sys2Proof/Laws/KeepsPlyRole.lean ====
section
/-!
SUPPORT. What Machine/PlyRole.lean keeps (Laws/Keeps.lean).
-/
namespace Sys2Proof.Machine
set_option linter.unusedTactic false
set_option linter.unreachableTactic false
set_option linter.unusedVariables false

theorem keeps_setRole (r : Nat) {s t : State} (hk : Keeps s t) : Keeps s (setRole r t) := by
  unfold setRole
  repeat' first
    | with_reducible first | assumption | apply keeps_cause | apply keeps_set | apply keeps_istCheck | apply keeps_canFollower
    | with_reducible fail_if_no_progress (refine Keeps.same ?_ rfl rfl rfl)
    | ((try lift_lets); intro x; first | (refine (fun hx : Keeps s x => ?_) ?_; (on_goal 1 => clear_value x); (on_goal 2 => subst x)) | (have hf : ∀ a, x a = x a := fun _ => rfl; clear hf; subst x) | clear_value x | subst x)
    | with_reducible first | refine keeps_ite ?_ ?_ | refine keepsO_ite ?_ ?_
    | split

theorem keeps_dropLog {s t : State} (hk : Keeps s t) : Keeps s (dropLog t) := by
  unfold dropLog
  repeat' first
    | with_reducible first | assumption | apply keeps_closed | apply keeps_set
    | with_reducible fail_if_no_progress (refine Keeps.same ?_ rfl rfl rfl)
    | ((try lift_lets); intro x; first | (refine (fun hx : Keeps s x => ?_) ?_; (on_goal 1 => clear_value x); (on_goal 2 => subst x)) | (have hf : ∀ a, x a = x a := fun _ => rfl; clear hf; subst x) | clear_value x | subst x)

theorem keeps_dropKept {s t : State} (hk : Keeps s t) : Keeps s (dropKept t) := by
  unfold dropKept
  repeat' first
    | with_reducible first | assumption | apply keeps_set | apply keeps_freeBuf | apply keeps_foldl
    | with_reducible refine fun _ => ?_
    | with_reducible fail_if_no_progress (refine Keeps.same ?_ rfl rfl rfl)
    | ((try lift_lets); intro x; first | (refine (fun hx : Keeps s x => ?_) ?_; (on_goal 1 => clear_value x); (on_goal 2 => subst x)) | (have hf : ∀ a, x a = x a := fun _ => rfl; clear hf; subst x) | clear_value x | subst x)
    | beta_reduce

theorem keeps_plyLeave {s t : State} (hk : Keeps s t) : Keeps s (plyLeave t) := by
  unfold plyLeave
  repeat' first
    | with_reducible first | assumption | apply keeps_plyStop | apply keeps_dropLog | apply keeps_dropKept | apply keeps_setRole | apply keeps_set
    | with_reducible fail_if_no_progress (refine Keeps.same ?_ rfl rfl rfl)
    | ((try lift_lets); intro x; first | (refine (fun hx : Keeps s x => ?_) ?_; (on_goal 1 => clear_value x); (on_goal 2 => subst x)) | (have hf : ∀ a, x a = x a := fun _ => rfl; clear hf; subst x) | clear_value x | subst x)
    | with_reducible first | refine keeps_ite ?_ ?_ | refine keepsO_ite ?_ ?_
    | split

theorem keeps_joinStart {s t : State} (hk : Keeps s t) : Keeps s (joinStart t) := by
  unfold joinStart
  repeat' first
    | with_reducible first | assumption | apply keeps_wr
    | with_reducible fail_if_no_progress (refine Keeps.same ?_ rfl rfl rfl)
    | ((try lift_lets); intro x; first | (refine (fun hx : Keeps s x => ?_) ?_; (on_goal 1 => clear_value x); (on_goal 2 => subst x)) | (have hf : ∀ a, x a = x a := fun _ => rfl; clear hf; subst x) | clear_value x | subst x)

theorem keeps_joinFail (err : Nat) {s t : State} (hk : Keeps s t) : Keeps s (joinFail err t) := by
  unfold joinFail
  repeat' first
    | with_reducible first | assumption | apply keeps_dropLog | apply keeps_dropKept | apply keeps_set | apply keeps_setRole | apply keeps_cause
    | ((try lift_lets); intro x; first | (refine (fun hx : Keeps s x => ?_) ?_; (on_goal 1 => clear_value x); (on_goal 2 => subst x)) | (have hf : ∀ a, x a = x a := fun _ => rfl; clear hf; subst x) | clear_value x | subst x)
    | with_reducible first | refine keeps_ite ?_ ?_ | refine keepsO_ite ?_ ?_
    | split

theorem keeps_joinCmd {s t : State} (hk : Keeps s t) : Keeps s (joinCmd t) := by
  unfold joinCmd
  repeat' first
    | with_reducible first | assumption | apply keeps_set | apply keeps_joinStart
    | with_reducible first | refine keeps_ite ?_ ?_ | refine keepsO_ite ?_ ?_
    | split

theorem keeps_detachCmd {s t : State} (hk : Keeps s t) : Keeps s (detachCmd t) := by
  unfold detachCmd
  repeat' first
    | with_reducible first | assumption | apply keeps_plyLeave | apply keeps_emit
    | with_reducible first | refine keeps_ite ?_ ?_ | refine keepsO_ite ?_ ?_
    | split

theorem keeps_plyCmdWrite (v : Word) {s t : State} (hk : Keeps s t) : Keeps s (plyCmdWrite v t) := by
  unfold plyCmdWrite
  repeat' first
    | with_reducible first | assumption | apply keeps_joinCmd | apply keeps_detachCmd
    | with_reducible fail_if_no_progress (refine Keeps.same ?_ rfl rfl rfl)
    | ((try lift_lets); intro x; first | (refine (fun hx : Keeps s x => ?_) ?_; (on_goal 1 => clear_value x); (on_goal 2 => subst x)) | (have hf : ∀ a, x a = x a := fun _ => rfl; clear hf; subst x) | clear_value x | subst x)
    | with_reducible first | refine keeps_ite ?_ ?_ | refine keepsO_ite ?_ ?_
    | split
    | with_reducible first | refine Keeps.ofPair (by assumption) ?_ | refine Keeps.ofPair2 (by assumption) ?_ | refine Keeps.ofM (by assumption) ?_ | refine Keeps.ofMP (by assumption) ?_ | refine KeepsO.ofMO (by assumption) ?_ | refine Keeps.ofO (by assumption) ?_
    | dsimp (zeta := false) only
    | dsimp only

theorem keeps_execPlyJoin (a : Agent) (v : Word) {s t : State} (hk : Keeps s t) : KeepsO s (execPlyJoin a v t) := by
  unfold execPlyJoin
  repeat' first
    | with_reducible first | assumption | apply KeepsO.next | apply KeepsO.fault | apply KeepsO.stay | apply keeps_stay | apply keeps_access | apply keeps_plyCmdWrite
    | with_reducible refine fun _ => ?_
    | with_reducible first | refine keeps_ite ?_ ?_ | refine keepsO_ite ?_ ?_
    | split
    | beta_reduce

theorem keeps_execPlyDetach (a : Agent) (v : Word) (partner : Bool) {s t : State} (hk : Keeps s t) : KeepsO s (execPlyDetach a v partner t) := by
  unfold execPlyDetach
  repeat' first
    | with_reducible first | assumption | apply KeepsO.next | apply KeepsO.fault | apply KeepsO.stay | apply keeps_plyLeave | apply keeps_stay | apply keeps_access | apply keeps_plyCmdWrite
    | with_reducible refine fun _ => ?_
    | with_reducible first | refine keeps_ite ?_ ?_ | refine keepsO_ite ?_ ?_
    | split
    | beta_reduce

theorem keeps_execPlyAliveToggle (edge : Bool) {s t : State} (hk : Keeps s t) : KeepsO s (execPlyAliveToggle edge t) := by
  unfold execPlyAliveToggle
  repeat' first
    | with_reducible first | assumption | apply KeepsO.next | apply KeepsO.fault | apply KeepsO.stay | apply keeps_stay | apply keeps_set
    | with_reducible fail_if_no_progress (refine Keeps.same ?_ rfl rfl rfl)
    | ((try lift_lets); intro x; first | (refine (fun hx : Keeps s x => ?_) ?_; (on_goal 1 => clear_value x); (on_goal 2 => subst x)) | (have hf : ∀ a, x a = x a := fun _ => rfl; clear hf; subst x) | clear_value x | subst x)
    | with_reducible first | refine keeps_ite ?_ ?_ | refine keepsO_ite ?_ ?_
    | split

theorem keeps_execPlyLinkUp (lanes : Nat) {s t : State} (hk : Keeps s t) : KeepsO s (execPlyLinkUp lanes t) := by
  unfold execPlyLinkUp
  repeat' first
    | with_reducible first | assumption | apply KeepsO.next | apply KeepsO.fault | apply KeepsO.stay | apply keeps_stay | apply keeps_set
    | with_reducible first | refine keeps_ite ?_ ?_ | refine keepsO_ite ?_ ?_
    | split

theorem keeps_execPlyLaneFail {s t : State} (hk : Keeps s t) : KeepsO s (execPlyLaneFail t) := by
  unfold execPlyLaneFail
  repeat' first
    | with_reducible first | assumption | apply KeepsO.next | apply KeepsO.fault | apply KeepsO.stay | apply keeps_stay | apply keeps_set
    | with_reducible fail_if_no_progress (refine Keeps.same ?_ rfl rfl rfl)
    | ((try lift_lets); intro x; first | (refine (fun hx : Keeps s x => ?_) ?_; (on_goal 1 => clear_value x); (on_goal 2 => subst x)) | (have hf : ∀ a, x a = x a := fun _ => rfl; clear hf; subst x) | clear_value x | subst x)
    | with_reducible first | refine keeps_ite ?_ ?_ | refine keepsO_ite ?_ ?_
    | split

theorem keeps_execPlyLinkDown {s t : State} (hk : Keeps s t) : KeepsO s (execPlyLinkDown t) := by
  unfold execPlyLinkDown
  repeat' first
    | with_reducible first | assumption | apply KeepsO.next | apply KeepsO.fault | apply KeepsO.stay | apply keeps_stay | apply keeps_cause | apply keeps_set | apply keeps_joinFail | apply keeps_plyLeave
    | ((try lift_lets); intro x; first | (refine (fun hx : Keeps s x => ?_) ?_; (on_goal 1 => clear_value x); (on_goal 2 => subst x)) | (have hf : ∀ a, x a = x a := fun _ => rfl; clear hf; subst x) | clear_value x | subst x)
    | with_reducible first | refine keeps_ite ?_ ?_ | refine keepsO_ite ?_ ?_
    | split

theorem keeps_execOwnContention {s t : State} (hk : Keeps s t) : KeepsO s (execOwnContention t) := by
  unfold execOwnContention
  repeat' first
    | with_reducible first | assumption | apply KeepsO.next | apply KeepsO.fault | apply KeepsO.stay | apply keeps_stay | apply keeps_cause | apply keeps_plyLeave | apply keeps_set
    | with_reducible first | refine keeps_ite ?_ ?_ | refine keepsO_ite ?_ ?_
    | split

theorem keeps_execFormationTimeout (owna : Bool) {s t : State} (hk : Keeps s t) : KeepsO s (execFormationTimeout owna t) := by
  unfold execFormationTimeout
  repeat' first
    | with_reducible first | assumption | apply KeepsO.next | apply KeepsO.fault | apply KeepsO.stay | apply keeps_stay
    | with_reducible fail_if_no_progress (refine Keeps.same ?_ rfl rfl rfl)
    | ((try lift_lets); intro x; first | (refine (fun hx : Keeps s x => ?_) ?_; (on_goal 1 => clear_value x); (on_goal 2 => subst x)) | (have hf : ∀ a, x a = x a := fun _ => rfl; clear hf; subst x) | clear_value x | subst x)
    | with_reducible first | refine keeps_ite ?_ ?_ | refine keepsO_ite ?_ ?_
    | split

end Sys2Proof.Machine
end

