-- ==== Sys2Proof/Laws/KeepsBus.lean ====
section
/-!
SUPPORT. What Machine/Bus.lean keeps (Laws/Keeps.lean).
-/
namespace Sys2Proof.Machine
set_option linter.unusedTactic false
set_option linter.unreachableTactic false
set_option linter.unusedVariables false

theorem keeps_evtRead (o : Nat) {s t : State} (hk : Keeps s t) : Keeps s (evtRead o t).2 := by
  unfold evtRead
  repeat' first
    | with_reducible first | assumption | apply keeps_srcRead | apply keeps_codeRead | apply keeps_foldl
    | with_reducible refine fun _ => ?_
    | ((try lift_lets); intro x; first | (refine (fun hx : Keeps s x => ?_) ?_; (on_goal 1 => clear_value x); (on_goal 2 => subst x)) | (have hf : ∀ a, x a = x a := fun _ => rfl; clear hf; subst x) | clear_value x | subst x)
    | with_reducible first | refine keeps_ite ?_ ?_ | refine keepsO_ite ?_ ?_ | refine keepsP_ite ?_ ?_
    | split
    | beta_reduce

theorem keeps_clkRead (o : Nat) {s t : State} (hk : Keeps s t) : Keeps s (clkRead o t).2 := by
  unfold clkRead
  repeat' first
    | with_reducible first | assumption | apply keeps_codeRead | apply keeps_draw
    | ((try lift_lets); intro x; first | (refine (fun hx : Keeps s x => ?_) ?_; (on_goal 1 => clear_value x); (on_goal 2 => subst x)) | (have hf : ∀ a, x a = x a := fun _ => rfl; clear hf; subst x) | clear_value x | subst x)
    | with_reducible first | refine keeps_ite ?_ ?_ | refine keepsO_ite ?_ ?_ | refine keepsP_ite ?_ ?_
    | split
    | with_reducible first | refine Keeps.ofPair (by assumption) ?_ | refine Keeps.ofPair2 (by assumption) ?_ | refine Keeps.ofM (by assumption) ?_ | refine Keeps.ofMP (by assumption) ?_ | refine KeepsO.ofMO (by assumption) ?_ | refine Keeps.ofO (by assumption) ?_
    | dsimp (zeta := false) only
    | dsimp only

theorem keeps_dstRead (o : Nat) {s t : State} (hk : Keeps s t) : Keeps s (dstRead o t).2 := by
  unfold dstRead
  repeat' first
    | with_reducible first | assumption | apply keeps_codeRead
    | ((try lift_lets); intro x; first | (refine (fun hx : Keeps s x => ?_) ?_; (on_goal 1 => clear_value x); (on_goal 2 => subst x)) | (have hf : ∀ a, x a = x a := fun _ => rfl; clear hf; subst x) | clear_value x | subst x)
    | with_reducible first | refine keeps_ite ?_ ?_ | refine keepsO_ite ?_ ?_ | refine keepsP_ite ?_ ?_
    | split

theorem keeps_poolRead (a : Agent) (o : Nat) {s t : State} (hk : Keeps s t) : Keeps s (poolRead a o t).2 := by
  unfold poolRead
  repeat' first
    | with_reducible first | assumption | apply keeps_lockLoads | apply keeps_codeRead
    | with_reducible refine fun _ => ?_
    | ((try lift_lets); intro x; first | (refine (fun hx : Keeps s x => ?_) ?_; (on_goal 1 => clear_value x); (on_goal 2 => subst x)) | (have hf : ∀ a, x a = x a := fun _ => rfl; clear hf; subst x) | clear_value x | subst x)
    | with_reducible first | refine keeps_ite ?_ ?_ | refine keepsO_ite ?_ ?_ | refine keepsP_ite ?_ ?_
    | split
    | beta_reduce

theorem keeps_whlRead (o : Nat) {s t : State} (hk : Keeps s t) : Keeps s (whlRead o t).2 := by
  unfold whlRead
  generalize (o - 0x800000) / 0x20000 = n
  generalize (o - 0x800000) % 0x20000 = r
  exact keepsP_ite hk (keepsP_ite (keeps_codeRead _ hk) (keepsP_ite hk (keepsP_ite hk (keeps_codeRead _ hk))))

theorem keeps_audRead (a : Agent) (o : Nat) {s t : State} (hk : Keeps s t) : Keeps s (audRead a o t).2 := by
  unfold audRead
  repeat' first
    | with_reducible first | assumption | apply keeps_rposRead | apply keeps_codeRead | apply keeps_capWposRead | apply keeps_talkNext
    | ((try lift_lets); intro x; first | (refine (fun hx : Keeps s x => ?_) ?_; (on_goal 1 => clear_value x); (on_goal 2 => subst x)) | (have hf : ∀ a, x a = x a := fun _ => rfl; clear hf; subst x) | clear_value x | subst x)
    | with_reducible first | refine keeps_ite ?_ ?_ | refine keepsO_ite ?_ ?_ | refine keepsP_ite ?_ ?_
    | split

theorem keeps_pwsRead (o : Nat) {s t : State} (hk : Keeps s t) : Keeps s (pwsRead o t).2 := by
  unfold pwsRead
  repeat' first
    | with_reducible first | assumption | apply keeps_codeRead | apply keeps_draw
    | ((try lift_lets); intro x; first | (refine (fun hx : Keeps s x => ?_) ?_; (on_goal 1 => clear_value x); (on_goal 2 => subst x)) | (have hf : ∀ a, x a = x a := fun _ => rfl; clear hf; subst x) | clear_value x | subst x)
    | with_reducible first | refine keeps_ite ?_ ?_ | refine keepsO_ite ?_ ?_ | refine keepsP_ite ?_ ?_
    | split
    | with_reducible first | refine Keeps.ofPair (by assumption) ?_ | refine Keeps.ofPair2 (by assumption) ?_ | refine Keeps.ofM (by assumption) ?_ | refine Keeps.ofMP (by assumption) ?_ | refine KeepsO.ofMO (by assumption) ?_ | refine Keeps.ofO (by assumption) ?_
    | dsimp (zeta := false) only
    | dsimp only

theorem keeps_calRead (a : Agent) (o : Nat) {s t : State} (hk : Keeps s t) : Keeps s (calRead a o t).2 := by
  unfold calRead
  repeat' first
    | with_reducible first | assumption | apply keeps_calSeqRead | apply keeps_codeRead | apply keeps_calOtherAccess
    | ((try lift_lets); intro x; first | (refine (fun hx : Keeps s x => ?_) ?_; (on_goal 1 => clear_value x); (on_goal 2 => subst x)) | (have hf : ∀ a, x a = x a := fun _ => rfl; clear hf; subst x) | clear_value x | subst x)
    | with_reducible first | refine keeps_ite ?_ ?_ | refine keepsO_ite ?_ ?_ | refine keepsP_ite ?_ ?_
    | split

theorem keeps_dgnRead (o : Nat) {s t : State} (hk : Keeps s t) : Keeps s (dgnRead o t).2 := by
  unfold dgnRead
  repeat' first
    | with_reducible first | assumption | apply keeps_codeRead | apply keeps_draw
    | ((try lift_lets); intro x; first | (refine (fun hx : Keeps s x => ?_) ?_; (on_goal 1 => clear_value x); (on_goal 2 => subst x)) | (have hf : ∀ a, x a = x a := fun _ => rfl; clear hf; subst x) | clear_value x | subst x)
    | with_reducible first | refine keeps_ite ?_ ?_ | refine keepsO_ite ?_ ?_ | refine keepsP_ite ?_ ?_
    | split
    | with_reducible first | refine Keeps.ofPair (by assumption) ?_ | refine Keeps.ofPair2 (by assumption) ?_ | refine Keeps.ofM (by assumption) ?_ | refine Keeps.ofMP (by assumption) ?_ | refine KeepsO.ofMO (by assumption) ?_ | refine Keeps.ofO (by assumption) ?_
    | dsimp (zeta := false) only
    | dsimp only

theorem keeps_hifRead (o : Nat) {s t : State} (hk : Keeps s t) : Keeps s (hifRead o t).2 := by
  unfold hifRead
  repeat' first
    | with_reducible first | assumption | apply keeps_codeRead
    | with_reducible first | refine keeps_ite ?_ ?_ | refine keepsO_ite ?_ ?_ | refine keepsP_ite ?_ ?_
    | split

theorem keeps_prtRead (o : Nat) {s t : State} (hk : Keeps s t) : Keeps s (prtRead o t).2 := by
  unfold prtRead
  repeat' first
    | with_reducible first | assumption | apply keeps_txtsRead | apply keeps_sgateNow | apply keeps_codeRead
    | with_reducible first | refine keeps_ite ?_ ?_ | refine keepsO_ite ?_ ?_ | refine keepsP_ite ?_ ?_
    | split

theorem keeps_regRead (a : Agent) (o : Nat) {s t : State} (hk : Keeps s t) : Keeps s (regRead a o t).2 := by
  unfold regRead
  repeat' first
    | with_reducible first | assumption | apply keeps_codeRead | apply keeps_wr | apply keeps_clkRead | apply keeps_evtRead | apply keeps_istResRead | apply keeps_calRead | apply keeps_pwsRead | apply keeps_audRead | apply keeps_hifRead | apply keeps_dgnRead | apply keeps_prtRead | apply keeps_evtPop | apply keeps_poolRead | apply keeps_dstRead | apply keeps_whlRead
    | ((try lift_lets); intro x; first | (refine (fun hx : Keeps s x => ?_) ?_; (on_goal 1 => clear_value x); (on_goal 2 => subst x)) | (have hf : ∀ a, x a = x a := fun _ => rfl; clear hf; subst x) | clear_value x | subst x)
    | with_reducible first | refine keeps_ite ?_ ?_ | refine keepsO_ite ?_ ?_ | refine keepsP_ite ?_ ?_
    | split
    | with_reducible first | refine Keeps.ofPair (by assumption) ?_ | refine Keeps.ofPair2 (by assumption) ?_ | refine Keeps.ofM (by assumption) ?_ | refine Keeps.ofMP (by assumption) ?_ | refine KeepsO.ofMO (by assumption) ?_ | refine Keeps.ofO (by assumption) ?_
    | dsimp (zeta := false) only
    | dsimp only

theorem keeps_blockRead (a : Agent) (o : Nat) {s t : State} (hk : Keeps s t) : Keeps s (blockRead a o t).2 := by
  unfold blockRead
  repeat' first
    | with_reducible first | assumption | apply keeps_pairRead | apply keeps_regRead
    | with_reducible refine fun _ => ?_
    | with_reducible fail_if_no_progress (refine Keeps.same ?_ rfl rfl rfl)
    | ((try lift_lets); intro x; first | (refine (fun hx : Keeps s x => ?_) ?_; (on_goal 1 => clear_value x); (on_goal 2 => subst x)) | (have hf : ∀ a, x a = x a := fun _ => rfl; clear hf; subst x) | clear_value x | subst x)
    | split
    | with_reducible first | refine Keeps.ofPair (by assumption) ?_ | refine Keeps.ofPair2 (by assumption) ?_ | refine Keeps.ofM (by assumption) ?_ | refine Keeps.ofMP (by assumption) ?_ | refine KeepsO.ofMO (by assumption) ?_ | refine Keeps.ofO (by assumption) ?_
    | beta_reduce
    | dsimp (zeta := false) only
    | dsimp only

theorem keeps_busRead (a : Agent) (o : Nat) {s t : State} (hk : Keeps s t) : KeepsO s (busRead a o t) := by
  unfold busRead
  repeat' first
    | with_reducible first | assumption | apply keeps_weftWait | apply KeepsO.next | apply KeepsO.fault | apply KeepsO.stay | apply keeps_stay | apply keeps_respond | apply keeps_bump | apply keeps_panelRequest | apply keeps_logAnswer | apply keeps_readRow | apply keeps_blockRead
    | with_reducible refine fun _ => ?_
    | with_reducible fail_if_no_progress (refine Keeps.same ?_ rfl rfl rfl)
    | ((try lift_lets); intro x; first | (refine (fun hx : Keeps s x => ?_) ?_; (on_goal 1 => clear_value x); (on_goal 2 => subst x)) | (have hf : ∀ a, x a = x a := fun _ => rfl; clear hf; subst x) | clear_value x | subst x)
    | with_reducible first | refine keeps_ite ?_ ?_ | refine keepsO_ite ?_ ?_
    | split
    | with_reducible first | refine Keeps.ofPair (by assumption) ?_ | refine Keeps.ofPair2 (by assumption) ?_ | refine Keeps.ofM (by assumption) ?_ | refine Keeps.ofMP (by assumption) ?_ | refine KeepsO.ofMO (by assumption) ?_ | refine Keeps.ofO (by assumption) ?_
    | beta_reduce
    | dsimp (zeta := false) only
    | dsimp only

theorem keeps_sysWrite (a : Agent) (o : Nat) (v : Word) {s t : State} (hk : Keeps s t) : KeepsO s (sysWrite a o v t) := by
  unfold sysWrite
  repeat' first
    | with_reducible first | assumption | apply KeepsO.next | apply KeepsO.fault | apply KeepsO.stay | apply keeps_stageCmdWrite | apply keeps_unclampWrite | apply keeps_powerWrite | apply keeps_codeWrite
    | with_reducible first | refine keeps_ite ?_ ?_ | refine keepsO_ite ?_ ?_
    | split

theorem keeps_vnrWrite (a : Agent) (o : Nat) (v : Word) {s t : State} (hk : Keeps s t) : KeepsO s (vnrWrite a o v t) := by
  unfold vnrWrite
  repeat' first
    | with_reducible first | assumption | apply KeepsO.next | apply KeepsO.fault | apply KeepsO.stay | apply keeps_rollWrite | apply keeps_patchWrite | apply keeps_keyprogWrite | apply keeps_wr | apply keeps_pushWrite | apply keeps_codeWrite
    | with_reducible first | refine keeps_ite ?_ ?_ | refine keepsO_ite ?_ ?_
    | split

theorem keeps_jrnRegWrite (a : Agent) (o : Nat) (v : Word) {s t : State} (hk : Keeps s t) : KeepsO s (jrnRegWrite a o v t) := by
  unfold jrnRegWrite
  repeat' first
    | with_reducible first | assumption | apply KeepsO.next | apply KeepsO.fault | apply KeepsO.stay | apply keeps_jrnWrite | apply keeps_jrnReadSlot | apply keeps_jrnReadRecord | apply keeps_sunlkWrite | apply keeps_set | apply keeps_codeWrite
    | with_reducible first | refine keeps_ite ?_ ?_ | refine keepsO_ite ?_ ?_
    | split

theorem keeps_calWrite (a : Agent) (o : Nat) (v : Word) {s t : State} (hk : Keeps s t) : KeepsO s (calWrite a o v t) := by
  unfold calWrite
  repeat' first
    | with_reducible first | assumption | apply KeepsO.next | apply KeepsO.fault | apply KeepsO.stay | apply keeps_calCtlWrite | apply keeps_trimWrite | apply keeps_calOtherAccess | apply keeps_ofsWrite | apply keeps_codeWrite
    | ((try lift_lets); intro x; first | (refine (fun hx : Keeps s x => ?_) ?_; (on_goal 1 => clear_value x); (on_goal 2 => subst x)) | (have hf : ∀ a, x a = x a := fun _ => rfl; clear hf; subst x) | clear_value x | subst x)
    | with_reducible first | refine keeps_ite ?_ ?_ | refine keepsO_ite ?_ ?_
    | split

theorem keeps_pwsWrite (o : Nat) (v : Word) {s t : State} (hk : Keeps s t) : KeepsO s (pwsWrite o v t) := by
  unfold pwsWrite
  repeat' first
    | with_reducible first | assumption | apply KeepsO.next | apply KeepsO.fault | apply KeepsO.stay | apply keeps_draw | apply keeps_latchClear | apply keeps_codeWrite | apply keeps_showDt
    | with_reducible fail_if_no_progress (refine Keeps.same ?_ rfl rfl rfl)
    | ((try lift_lets); intro x; first | (refine (fun hx : Keeps s x => ?_) ?_; (on_goal 1 => clear_value x); (on_goal 2 => subst x)) | (have hf : ∀ a, x a = x a := fun _ => rfl; clear hf; subst x) | clear_value x | subst x)
    | with_reducible first | refine keeps_ite ?_ ?_ | refine keepsO_ite ?_ ?_
    | split
    | with_reducible first | refine Keeps.ofPair (by assumption) ?_ | refine Keeps.ofPair2 (by assumption) ?_ | refine Keeps.ofM (by assumption) ?_ | refine Keeps.ofMP (by assumption) ?_ | refine KeepsO.ofMO (by assumption) ?_ | refine Keeps.ofO (by assumption) ?_
    | dsimp (zeta := false) only
    | dsimp only

theorem keeps_capCfgWrite (k : Nat) (v : Word) {s t : State} (hk : Keeps s t) : KeepsO s (capCfgWrite k v t) := by
  unfold capCfgWrite
  repeat' first
    | with_reducible first | assumption | apply KeepsO.next | apply KeepsO.fault | apply KeepsO.stay | apply keeps_codeWrite | apply keeps_capStart
    | with_reducible fail_if_no_progress (refine Keeps.same ?_ rfl rfl rfl)
    | ((try lift_lets); intro x; first | (refine (fun hx : Keeps s x => ?_) ?_; (on_goal 1 => clear_value x); (on_goal 2 => subst x)) | (have hf : ∀ a, x a = x a := fun _ => rfl; clear hf; subst x) | clear_value x | subst x)
    | with_reducible first | refine keeps_ite ?_ ?_ | refine keepsO_ite ?_ ?_
    | split
    | with_reducible first | refine Keeps.ofPair (by assumption) ?_ | refine Keeps.ofPair2 (by assumption) ?_ | refine Keeps.ofM (by assumption) ?_ | refine Keeps.ofMP (by assumption) ?_ | refine KeepsO.ofMO (by assumption) ?_ | refine Keeps.ofO (by assumption) ?_
    | dsimp (zeta := false) only
    | dsimp only

theorem keeps_talkCfgWrite (k : Nat) (v : Word) {s t : State} (hk : Keeps s t) : KeepsO s (talkCfgWrite k v t) := by
  unfold talkCfgWrite
  repeat' first
    | with_reducible first | assumption | apply keeps_unpredBlock | apply KeepsO.next | apply KeepsO.fault | apply KeepsO.stay | apply keeps_codeWrite | apply keeps_talkStart
    | with_reducible fail_if_no_progress (refine Keeps.same ?_ rfl rfl rfl)
    | ((try lift_lets); intro x; first | (refine (fun hx : Keeps s x => ?_) ?_; (on_goal 1 => clear_value x); (on_goal 2 => subst x)) | (have hf : ∀ a, x a = x a := fun _ => rfl; clear hf; subst x) | clear_value x | subst x)
    | with_reducible first | refine keeps_ite ?_ ?_ | refine keepsO_ite ?_ ?_
    | split
    | with_reducible first | refine Keeps.ofPair (by assumption) ?_ | refine Keeps.ofPair2 (by assumption) ?_ | refine Keeps.ofM (by assumption) ?_ | refine Keeps.ofMP (by assumption) ?_ | refine KeepsO.ofMO (by assumption) ?_ | refine Keeps.ofO (by assumption) ?_
    | dsimp (zeta := false) only
    | dsimp only

theorem keeps_audWrite (o : Nat) (v : Word) {s t : State} (hk : Keeps s t) : KeepsO s (audWrite o v t) := by
  unfold audWrite
  repeat' first
    | with_reducible first | assumption | apply keeps_unpredBlock | apply KeepsO.next | apply KeepsO.fault | apply KeepsO.stay | apply keeps_audModWrite | apply keeps_codeWrite | apply keeps_srcCheck | apply keeps_crfTimestamp | apply keeps_lwCfgWrite | apply keeps_listenerSeen | apply keeps_chEnable | apply keeps_chCfgWrite | apply keeps_chBaseWrite | apply keeps_wposWrite | apply keeps_rposWrite | apply keeps_capCfgWrite | apply keeps_talkCfgWrite | apply keeps_tdmCfgWrite
    | with_reducible fail_if_no_progress (refine Keeps.same ?_ rfl rfl rfl)
    | ((try lift_lets); intro x; first | (refine (fun hx : Keeps s x => ?_) ?_; (on_goal 1 => clear_value x); (on_goal 2 => subst x)) | (have hf : ∀ a, x a = x a := fun _ => rfl; clear hf; subst x) | clear_value x | subst x)
    | with_reducible first | refine keeps_ite ?_ ?_ | refine keepsO_ite ?_ ?_
    | split
    | with_reducible first | refine Keeps.ofPair (by assumption) ?_ | refine Keeps.ofPair2 (by assumption) ?_ | refine Keeps.ofM (by assumption) ?_ | refine Keeps.ofMP (by assumption) ?_ | refine KeepsO.ofMO (by assumption) ?_ | refine Keeps.ofO (by assumption) ?_
    | dsimp (zeta := false) only
    | dsimp only

theorem keeps_hifWrite (a : Agent) (o : Nat) (v : Word) {s t : State} (hk : Keeps s t) : KeepsO s (hifWrite a o v t) := by
  unfold hifWrite
  repeat' first
    | with_reducible first | assumption | apply KeepsO.next | apply KeepsO.fault | apply KeepsO.stay | apply keeps_aqCfgWrite | apply keeps_xspiCtlWrite | apply keeps_sqDoorbell | apply keeps_cqDoorbell | apply keeps_codeWrite
    | with_reducible first | refine keeps_ite ?_ ?_ | refine keepsO_ite ?_ ?_
    | split

theorem keeps_canWrite (a : Agent) (o : Nat) (v : Word) {s t : State} (hk : Keeps s t) : KeepsO s (canWrite a o v t) := by
  unfold canWrite
  repeat' first
    | with_reducible first | assumption | apply KeepsO.next | apply KeepsO.fault | apply KeepsO.stay | apply keeps_canCtlWrite | apply keeps_canTimeWrite | apply keeps_txReq | apply keeps_txAbort | apply keeps_rxPop | apply keeps_txBufWrite | apply keeps_codeWrite
    | ((try lift_lets); intro x; first | (refine (fun hx : Keeps s x => ?_) ?_; (on_goal 1 => clear_value x); (on_goal 2 => subst x)) | (have hf : ∀ a, x a = x a := fun _ => rfl; clear hf; subst x) | clear_value x | subst x)
    | with_reducible first | refine keeps_ite ?_ ?_ | refine keepsO_ite ?_ ?_
    | split

theorem keeps_dgnWrite (a : Agent) (o : Nat) (v : Word) {s t : State} (hk : Keeps s t) : KeepsO s (dgnWrite a o v t) := by
  unfold dgnWrite
  repeat' first
    | with_reducible first | assumption | apply KeepsO.next | apply KeepsO.fault | apply KeepsO.stay | apply keeps_lcWrite | apply keeps_fprogWrite | apply keeps_unlkWrite | apply keeps_snapPop | apply keeps_canWrite | apply keeps_codeWrite
    | with_reducible first | refine keeps_ite ?_ ?_ | refine keepsO_ite ?_ ?_
    | split

theorem keeps_prtTableWrite (o : Nat) (v : Word) {s t : State} (hk : Keeps s t) : KeepsO s (prtTableWrite o v t) := by
  unfold prtTableWrite
  repeat' first
    | with_reducible first | assumption | apply KeepsO.next | apply KeepsO.fault | apply KeepsO.stay | apply keeps_wr | apply keeps_filterWrite | apply keeps_recovWrite | apply keeps_meterWrite | apply keeps_sgateCtlWrite
    | ((try lift_lets); intro x; first | (refine (fun hx : Keeps s x => ?_) ?_; (on_goal 1 => clear_value x); (on_goal 2 => subst x)) | (have hf : ∀ a, x a = x a := fun _ => rfl; clear hf; subst x) | clear_value x | subst x)
    | with_reducible first | refine keeps_ite ?_ ?_ | refine keepsO_ite ?_ ?_
    | split

theorem keeps_prtWrite (o : Nat) (v : Word) {s t : State} (hk : Keeps s t) : KeepsO s (prtWrite o v t) := by
  unfold prtWrite
  repeat' first
    | with_reducible first | assumption | apply KeepsO.next | apply KeepsO.stay | apply keeps_prtTableWrite | apply keeps_unpredBlock | apply keeps_mdioCmd | apply keeps_codeWrite | apply keeps_prtCfgWrite | apply keeps_creditNow | apply keeps_plcaShow | apply keeps_tasCtlWrite | apply keeps_fpCtlWrite
    | ((try lift_lets); intro x; first | (refine (fun hx : Keeps s x => ?_) ?_; (on_goal 1 => clear_value x); (on_goal 2 => subst x)) | (have hf : ∀ a, x a = x a := fun _ => rfl; clear hf; subst x) | clear_value x | subst x)
    | with_reducible first | refine keeps_ite ?_ ?_ | refine keepsO_ite ?_ ?_
    | split
    | with_reducible first | refine Keeps.ofPair (by assumption) ?_ | refine Keeps.ofPair2 (by assumption) ?_ | refine Keeps.ofM (by assumption) ?_ | refine Keeps.ofMP (by assumption) ?_ | refine KeepsO.ofMO (by assumption) ?_ | refine Keeps.ofO (by assumption) ?_
    | dsimp (zeta := false) only
    | dsimp only

theorem keeps_prsWrite (o : Nat) (v : Word) {s t : State} (hk : Keeps s t) : KeepsO s (prsWrite o v t) := by
  unfold prsWrite
  repeat' first
    | with_reducible first | assumption | apply keeps_unpredBlock | apply KeepsO.next | apply KeepsO.fault | apply KeepsO.stay | apply keeps_rcmdWrite | apply keeps_ruleLost | apply keeps_codeWrite
    | with_reducible first | refine keeps_ite ?_ ?_ | refine keepsO_ite ?_ ?_
    | split

theorem keeps_fwdRegWrite (o : Nat) (v : Word) {s t : State} (hk : Keeps s t) : KeepsO s (fwdRegWrite o v t) := by
  unfold fwdRegWrite
  repeat' first
    | with_reducible first | assumption | apply keeps_lrnSettle | apply KeepsO.next | apply KeepsO.fault | apply KeepsO.stay | apply keeps_fwdCmdWrite | apply keeps_learnPop | apply keeps_set | apply keeps_codeWrite
    | with_reducible first | refine keeps_ite ?_ ?_ | refine keepsO_ite ?_ ?_
    | split

theorem keeps_poolWrite (a : Agent) (o : Nat) (v : Word) {s t : State} (hk : Keeps s t) : KeepsO s (poolWrite a o v t) := by
  unfold poolWrite
  repeat' first
    | with_reducible first | assumption | apply KeepsO.next | apply KeepsO.fault | apply KeepsO.stay | apply keeps_lockWrite | apply keeps_codeWrite | apply keeps_poolLevels
    | with_reducible fail_if_no_progress (refine Keeps.same ?_ rfl rfl rfl)
    | ((try lift_lets); intro x; first | (refine (fun hx : Keeps s x => ?_) ?_; (on_goal 1 => clear_value x); (on_goal 2 => subst x)) | (have hf : ∀ a, x a = x a := fun _ => rfl; clear hf; subst x) | clear_value x | subst x)
    | with_reducible first | refine keeps_ite ?_ ?_ | refine keepsO_ite ?_ ?_
    | split
    | with_reducible first | refine Keeps.ofPair (by assumption) ?_ | refine Keeps.ofPair2 (by assumption) ?_ | refine Keeps.ofM (by assumption) ?_ | refine Keeps.ofMP (by assumption) ?_ | refine KeepsO.ofMO (by assumption) ?_ | refine Keeps.ofO (by assumption) ?_
    | dsimp (zeta := false) only
    | dsimp only

theorem keeps_dstWrite (o : Nat) (v : Word) {s t : State} (hk : Keeps s t) : KeepsO s (dstWrite o v t) := by
  unfold dstWrite
  repeat' first
    | with_reducible first | assumption | apply KeepsO.next | apply KeepsO.fault | apply KeepsO.stay | apply keeps_traceSelect | apply keeps_traceCtlWrite | apply keeps_ycfgWrite | apply keeps_codeWrite
    | with_reducible first | refine keeps_ite ?_ ?_ | refine keepsO_ite ?_ ?_
    | split

theorem keeps_whlWrite (a : Agent) (o : Nat) (v : Word) {s t : State} (hk : Keeps s t) : KeepsO s (whlWrite a o v t) := by
  unfold whlWrite
  repeat' first
    | with_reducible first | assumption | apply KeepsO.next | apply KeepsO.fault | apply KeepsO.stay | apply keeps_lmWindowWrite | apply keeps_codeWrite | apply keeps_tctlWrite | apply keeps_raiseEvent | apply keeps_ctlWrite
    | ((try lift_lets); intro x; first | (refine (fun hx : Keeps s x => ?_) ?_; (on_goal 1 => clear_value x); (on_goal 2 => subst x)) | (have hf : ∀ a, x a = x a := fun _ => rfl; clear hf; subst x) | clear_value x | subst x)
    | with_reducible first | refine keeps_ite ?_ ?_ | refine keepsO_ite ?_ ?_
    | split

theorem keeps_evtWrite (o : Nat) (v : Word) {s t : State} (hk : Keeps s t) : KeepsO s (evtWrite o v t) := by
  unfold evtWrite
  repeat' first
    | with_reducible first | assumption | apply KeepsO.next | apply KeepsO.fault | apply KeepsO.stay | apply keeps_swRaise | apply keeps_routeWrite | apply keeps_codeWrite
    | with_reducible first | refine keeps_ite ?_ ?_ | refine keepsO_ite ?_ ?_
    | split

theorem keeps_clkWrite (o : Nat) (v : Word) {s t : State} (hk : Keeps s t) : KeepsO s (clkWrite o v t) := by
  unfold clkWrite
  repeat' first
    | with_reducible first | assumption | apply KeepsO.next | apply KeepsO.fault | apply KeepsO.stay | apply keeps_rateWrite | apply keeps_slewWrite | apply keeps_codeWrite
    | with_reducible first | refine keeps_ite ?_ ?_ | refine keepsO_ite ?_ ?_
    | split

theorem keeps_thmWrite (a : Agent) (o : Nat) (v : Word) {s t : State} (hk : Keeps s t) : KeepsO s (thmWrite a o v t) := by
  unfold thmWrite
  repeat' first
    | with_reducible first | assumption | apply KeepsO.next | apply KeepsO.fault | apply KeepsO.stay | apply keeps_sbusCmd | apply keeps_zcfgWrite | apply keeps_codeWrite
    | with_reducible first | refine keeps_ite ?_ ?_ | refine keepsO_ite ?_ ?_
    | split

theorem keeps_regWrite (a : Agent) (o : Nat) (v : Word) {s t : State} (hk : Keeps s t) : KeepsO s (regWrite a o v t) := by
  unfold regWrite
  repeat' first
    | with_reducible first | assumption | apply KeepsO.next | apply KeepsO.fault | apply KeepsO.stay | apply keeps_sysWrite | apply keeps_codeWrite | apply keeps_clkWrite | apply keeps_evtWrite | apply keeps_vnrWrite | apply keeps_jrnRegWrite | apply keeps_istReqWrite | apply keeps_plyCmdWrite | apply keeps_thmWrite | apply keeps_calWrite | apply keeps_pwsWrite | apply keeps_audWrite | apply keeps_hifWrite | apply keeps_dgnWrite | apply keeps_prtWrite | apply keeps_prsWrite | apply keeps_fwdRegWrite | apply keeps_poolWrite | apply keeps_dstWrite | apply keeps_whlWrite
    | with_reducible first | refine keeps_ite ?_ ?_ | refine keepsO_ite ?_ ?_
    | split

theorem keeps_pairCommit (lo : Nat) (l h : Word) {s t : State} (hk : Keeps s t) : Keeps s (pairCommit lo l h t) := by
  unfold pairCommit
  repeat' first
    | with_reducible first | assumption | apply keeps_timeStep | apply keeps_ymaskWrite | apply keeps_wr
    | with_reducible first | refine keeps_ite ?_ ?_ | refine keepsO_ite ?_ ?_
    | split

theorem keeps_blockWrite (a : Agent) (o : Nat) (v : Word) {s t : State} (hk : Keeps s t) : KeepsO s (blockWrite a o v t) := by
  unfold blockWrite
  repeat' first
    | with_reducible first | assumption | apply KeepsO.next | apply KeepsO.fault | apply KeepsO.stay | apply keeps_regWrite | apply keeps_setCap | apply keeps_set | apply keeps_setHeld | apply keeps_pairWrite | apply keeps_pairCommit
    | with_reducible refine fun _ => ?_
    | with_reducible fail_if_no_progress (refine Keeps.same ?_ rfl rfl rfl)
    | ((try lift_lets); intro x; first | (refine (fun hx : Keeps s x => ?_) ?_; (on_goal 1 => clear_value x); (on_goal 2 => subst x)) | (have hf : ∀ a, x a = x a := fun _ => rfl; clear hf; subst x) | clear_value x | subst x)
    | with_reducible first | refine keeps_ite ?_ ?_ | refine keepsO_ite ?_ ?_
    | split
    | with_reducible first | refine Keeps.ofPair (by assumption) ?_ | refine Keeps.ofPair2 (by assumption) ?_ | refine Keeps.ofM (by assumption) ?_ | refine Keeps.ofMP (by assumption) ?_ | refine KeepsO.ofMO (by assumption) ?_ | refine Keeps.ofO (by assumption) ?_
    | beta_reduce
    | dsimp (zeta := false) only
    | dsimp only

theorem keeps_anyWrite (a : Agent) (o : Nat) (v : Word) {s t : State} (hk : Keeps s t) : KeepsO s (anyWrite a o v t) := by
  unfold anyWrite
  repeat' first
    | with_reducible first | assumption | apply KeepsO.next | apply KeepsO.fault | apply KeepsO.stay | apply keeps_panelRequest | apply keeps_blockWrite
    | with_reducible first | refine keeps_ite ?_ ?_ | refine keepsO_ite ?_ ?_
    | split

theorem keeps_busWrite (a : Agent) (o : Nat) (v : Word) {s t : State} (hk : Keeps s t) : KeepsO s (busWrite a o v t) := by
  unfold busWrite
  repeat' first
    | with_reducible first | assumption | apply keeps_weftWait | apply KeepsO.next | apply KeepsO.fault | apply KeepsO.stay | apply keeps_stay | apply keeps_mirrorAcc | apply keeps_anyWrite | apply keeps_access
    | with_reducible refine fun _ => ?_
    | ((try lift_lets); intro x; first | (refine (fun hx : Keeps s x => ?_) ?_; (on_goal 1 => clear_value x); (on_goal 2 => subst x)) | (have hf : ∀ a, x a = x a := fun _ => rfl; clear hf; subst x) | clear_value x | subst x)
    | with_reducible first | refine keeps_ite ?_ ?_ | refine keepsO_ite ?_ ?_
    | split
    | beta_reduce

theorem keeps_mirrorWrite (o : Nat) (v : Word) {s t : State} (hk : Keeps s t) : KeepsO s (mirrorWrite o v t) := by
  unfold mirrorWrite
  repeat' first
    | with_reducible first | assumption | apply KeepsO.next | apply KeepsO.fault | apply KeepsO.stay | apply keeps_stay | apply keeps_blockAct | apply keeps_anyWrite
    | with_reducible refine fun _ => ?_
    | with_reducible first | refine keeps_ite ?_ ?_ | refine keepsO_ite ?_ ?_
    | split
    | beta_reduce

theorem keeps_wordWrite (a : Agent) (off be : Nat) (v : Word) {s t : State} (hk : Keeps s t) : KeepsO s (wordWrite a off be v t) := by
  unfold wordWrite
  repeat' first
    | with_reducible first | assumption | apply KeepsO.next | apply KeepsO.stay | apply keeps_stay | apply keeps_busWrite
    | ((try lift_lets); intro x; first | (refine (fun hx : Keeps s x => ?_) ?_; (on_goal 1 => clear_value x); (on_goal 2 => subst x)) | (have hf : ∀ a, x a = x a := fun _ => rfl; clear hf; subst x) | clear_value x | subst x)
    | with_reducible first | refine keeps_ite ?_ ?_ | refine keepsO_ite ?_ ?_
    | split
    | with_reducible first | refine Keeps.ofPair (by assumption) ?_ | refine Keeps.ofPair2 (by assumption) ?_ | refine Keeps.ofM (by assumption) ?_ | refine Keeps.ofMP (by assumption) ?_ | refine KeepsO.ofMO (by assumption) ?_ | refine Keeps.ofO (by assumption) ?_
    | dsimp (zeta := false) only
    | dsimp only

theorem keeps_andThen (k : State → Out) {s : State} {r : Out} (hr : KeepsO s r) (h_k : ∀ y, Keeps s y → KeepsO s (k y)) :
    KeepsO s (andThen r k) := by
  unfold andThen
  split
  · exact h_k _ (Keeps.ofO rfl hr)
  · exact hr

theorem keeps_execRegisterWrite (a : Agent) (off be : Nat) (v : Word) (next : Option (Nat × Word)) {s t : State} (hk : Keeps s t) : KeepsO s (execRegisterWrite a off be v t next) := by
  unfold execRegisterWrite
  repeat' first
    | with_reducible first | assumption | apply KeepsO.next | apply KeepsO.stay | apply keeps_wordWrite | apply keeps_andThen | apply keeps_stay
    | ((try lift_lets); intro x; first | (refine (fun hx : Keeps s x => ?_) ?_; (on_goal 1 => clear_value x); (on_goal 2 => subst x)) | (have hf : ∀ a, x a = x a := fun _ => rfl; clear hf; subst x) | clear_value x | subst x)
    | with_reducible first | refine keeps_ite ?_ ?_ | refine keepsO_ite ?_ ?_
    | split
    | with_reducible first | refine Keeps.ofPair (by assumption) ?_ | refine Keeps.ofPair2 (by assumption) ?_ | refine Keeps.ofM (by assumption) ?_ | refine Keeps.ofMP (by assumption) ?_ | refine KeepsO.ofMO (by assumption) ?_ | refine Keeps.ofO (by assumption) ?_
    | dsimp (zeta := false) only
    | dsimp only

theorem keeps_wideRead (off : Nat) {s t : State} (hk : Keeps s t) : KeepsO s (wideRead off t) := by
  unfold wideRead
  repeat' first
    | with_reducible first | assumption | apply KeepsO.next | apply KeepsO.stay | apply keeps_andThen | apply keeps_busRead
    | with_reducible refine fun _ => ?_
    | with_reducible fail_if_no_progress (refine Keeps.same ?_ rfl rfl rfl)
    | ((try lift_lets); intro x; first | (refine (fun hx : Keeps s x => ?_) ?_; (on_goal 1 => clear_value x); (on_goal 2 => subst x)) | (have hf : ∀ a, x a = x a := fun _ => rfl; clear hf; subst x) | clear_value x | subst x)
    | with_reducible first | refine keeps_ite ?_ ?_ | refine keepsO_ite ?_ ?_
    | split
    | with_reducible first | refine Keeps.ofPair (by assumption) ?_ | refine Keeps.ofPair2 (by assumption) ?_ | refine Keeps.ofM (by assumption) ?_ | refine Keeps.ofMP (by assumption) ?_ | refine KeepsO.ofMO (by assumption) ?_ | refine Keeps.ofO (by assumption) ?_
    | beta_reduce
    | dsimp (zeta := false) only
    | dsimp only

theorem keeps_spanRead (a : Agent) (off : Nat) (wide : Bool) {s t : State} (hk : Keeps s t) : KeepsO s (spanRead a off wide t) := by
  unfold spanRead
  repeat' first
    | with_reducible first | assumption | apply KeepsO.next | apply KeepsO.stay | apply keeps_busRead | apply keeps_wideRead | apply keeps_stay
    | ((try lift_lets); intro x; first | (refine (fun hx : Keeps s x => ?_) ?_; (on_goal 1 => clear_value x); (on_goal 2 => subst x)) | (have hf : ∀ a, x a = x a := fun _ => rfl; clear hf; subst x) | clear_value x | subst x)
    | with_reducible first | refine keeps_ite ?_ ?_ | refine keepsO_ite ?_ ?_
    | split
    | with_reducible first | refine Keeps.ofPair (by assumption) ?_ | refine Keeps.ofPair2 (by assumption) ?_ | refine Keeps.ofM (by assumption) ?_ | refine Keeps.ofMP (by assumption) ?_ | refine KeepsO.ofMO (by assumption) ?_ | refine Keeps.ofO (by assumption) ?_
    | dsimp (zeta := false) only
    | dsimp only

theorem keeps_execSplitLoRead (a : Agent) (off : Nat) (wide : Bool) {s t : State} (hk : Keeps s t) : KeepsO s (execSplitLoRead a off t wide) := by
  unfold execSplitLoRead
  repeat' first
    | with_reducible first | assumption | apply KeepsO.next | apply KeepsO.stay | apply keeps_stay | apply keeps_spanRead
    | ((try lift_lets); intro x; first | (refine (fun hx : Keeps s x => ?_) ?_; (on_goal 1 => clear_value x); (on_goal 2 => subst x)) | (have hf : ∀ a, x a = x a := fun _ => rfl; clear hf; subst x) | clear_value x | subst x)
    | with_reducible first | refine keeps_ite ?_ ?_ | refine keepsO_ite ?_ ?_
    | split
    | with_reducible first | refine Keeps.ofPair (by assumption) ?_ | refine Keeps.ofPair2 (by assumption) ?_ | refine Keeps.ofM (by assumption) ?_ | refine Keeps.ofMP (by assumption) ?_ | refine KeepsO.ofMO (by assumption) ?_ | refine Keeps.ofO (by assumption) ?_
    | dsimp (zeta := false) only
    | dsimp only

theorem keeps_execSplitLoWrite (a : Agent) (off be : Nat) (v : Word) {s t : State} (hk : Keeps s t) : KeepsO s (execSplitLoWrite a off be v t) := by
  unfold execSplitLoWrite
  repeat' first
    | with_reducible first | assumption | apply KeepsO.next | apply KeepsO.fault | apply KeepsO.stay | apply keeps_stay | apply keeps_busWrite
    | with_reducible first | refine keeps_ite ?_ ?_ | refine keepsO_ite ?_ ?_
    | split

theorem keeps_execSplitHiWrite (a : Agent) (off be : Nat) (v : Word) {s t : State} (hk : Keeps s t) : KeepsO s (execSplitHiWrite a off be v t) := by
  unfold execSplitHiWrite
  repeat' first
    | with_reducible first | assumption | apply KeepsO.next | apply KeepsO.fault | apply KeepsO.stay | apply keeps_stay | apply keeps_busWrite
    | with_reducible first | refine keeps_ite ?_ ?_ | refine keepsO_ite ?_ ?_
    | split

theorem keeps_execRcRead (a : Agent) (off : Nat) (ev : Word) (wide : Bool) {s t : State} (hk : Keeps s t) : KeepsO s (execRcRead a off ev t wide) := by
  unfold execRcRead
  repeat' first
    | with_reducible first | assumption | apply KeepsO.next | apply KeepsO.stay | apply keeps_stay | apply keeps_spanRead | apply keeps_wr
    | ((try lift_lets); intro x; first | (refine (fun hx : Keeps s x => ?_) ?_; (on_goal 1 => clear_value x); (on_goal 2 => subst x)) | (have hf : ∀ a, x a = x a := fun _ => rfl; clear hf; subst x) | clear_value x | subst x)
    | with_reducible first | refine keeps_ite ?_ ?_ | refine keepsO_ite ?_ ?_
    | split
    | with_reducible first | refine Keeps.ofPair (by assumption) ?_ | refine Keeps.ofPair2 (by assumption) ?_ | refine Keeps.ofM (by assumption) ?_ | refine Keeps.ofMP (by assumption) ?_ | refine KeepsO.ofMO (by assumption) ?_ | refine Keeps.ofO (by assumption) ?_
    | dsimp (zeta := false) only
    | dsimp only

theorem keeps_execW1cWrite (a : Agent) (off be : Nat) (v ev : Word) {s t : State} (hk : Keeps s t) : KeepsO s (execW1cWrite a off be v ev t) := by
  unfold execW1cWrite
  repeat' first
    | with_reducible first | assumption | apply KeepsO.next | apply KeepsO.fault | apply KeepsO.stay | apply keeps_stay | apply keeps_busWrite | apply keeps_wr
    | with_reducible fail_if_no_progress (refine Keeps.same ?_ rfl rfl rfl)
    | ((try lift_lets); intro x; first | (refine (fun hx : Keeps s x => ?_) ?_; (on_goal 1 => clear_value x); (on_goal 2 => subst x)) | (have hf : ∀ a, x a = x a := fun _ => rfl; clear hf; subst x) | clear_value x | subst x)
    | with_reducible first | refine keeps_ite ?_ ?_ | refine keepsO_ite ?_ ?_
    | split
    | with_reducible first | refine Keeps.ofPair (by assumption) ?_ | refine Keeps.ofPair2 (by assumption) ?_ | refine Keeps.ofM (by assumption) ?_ | refine Keeps.ofMP (by assumption) ?_ | refine KeepsO.ofMO (by assumption) ?_ | refine Keeps.ofO (by assumption) ?_
    | dsimp (zeta := false) only
    | dsimp only

theorem keeps_execDebugAccess (write : Bool) (addr : Nat) (v : Word) {s t : State} (hk : Keeps s t) : KeepsO s (execDebugAccess write addr v t) := by
  unfold execDebugAccess
  repeat' first
    | with_reducible first | assumption | apply KeepsO.next | apply KeepsO.fault | apply KeepsO.stay | apply keeps_stay | apply keeps_debugClosed | apply keeps_busWrite | apply keeps_busRead
    | with_reducible refine fun _ => ?_
    | with_reducible fail_if_no_progress (refine Keeps.same ?_ rfl rfl rfl)
    | ((try lift_lets); intro x; first | (refine (fun hx : Keeps s x => ?_) ?_; (on_goal 1 => clear_value x); (on_goal 2 => subst x)) | (have hf : ∀ a, x a = x a := fun _ => rfl; clear hf; subst x) | clear_value x | subst x)
    | with_reducible first | refine keeps_ite ?_ ?_ | refine keepsO_ite ?_ ?_
    | split
    | with_reducible first | refine Keeps.ofPair (by assumption) ?_ | refine Keeps.ofPair2 (by assumption) ?_ | refine Keeps.ofM (by assumption) ?_ | refine Keeps.ofMP (by assumption) ?_ | refine KeepsO.ofMO (by assumption) ?_ | refine Keeps.ofO (by assumption) ?_
    | beta_reduce
    | dsimp (zeta := false) only
    | dsimp only

end Sys2Proof.Machine
end

