-- ==== Sys2Proof/Laws/KeepsBar2.lean ====
section
/-!
SUPPORT. What Machine/Bar2.lean keeps (Laws/Keeps.lean).
-/
namespace Sys2Proof.Machine
set_option linter.unusedTactic false
set_option linter.unreachableTactic false
set_option linter.unusedVariables false

theorem keeps_pktByte (o : Nat) {s t : State} (hk : Keeps s t) : Keeps s (pktByte o t).2 := by
  unfold pktByte
  repeat' first
    | with_reducible first | assumption | apply keeps_draw | apply keeps_foldl
    | with_reducible refine fun _ => ?_
    | with_reducible fail_if_no_progress (refine Keeps.same ?_ rfl rfl rfl)
    | ((try lift_lets); intro x; first | (refine (fun hx : Keeps s x => ?_) ?_; (on_goal 1 => clear_value x); (on_goal 2 => subst x)) | (have hf : ∀ a, x a = x a := fun _ => rfl; clear hf; subst x) | clear_value x | subst x)
    | with_reducible first | refine keeps_ite ?_ ?_ | refine keepsO_ite ?_ ?_ | refine keepsP_ite ?_ ?_
    | split
    | with_reducible first | refine Keeps.ofPair (by assumption) ?_ | refine Keeps.ofPair2 (by assumption) ?_ | refine Keeps.ofM (by assumption) ?_ | refine Keeps.ofMP (by assumption) ?_ | refine KeepsO.ofMO (by assumption) ?_ | refine Keeps.ofO (by assumption) ?_
    | beta_reduce
    | dsimp (zeta := false) only
    | dsimp only

theorem keeps_pktView (x0 : Nat) (x1 : Nat) {s t : State} (hk : Keeps s t) : Keeps s (pktView x0 x1 t).2 := by
  induction x1 generalizing x0 t with
  | zero =>
    simp only [pktView]
    repeat' first
      | with_reducible apply ih
      | with_reducible first | assumption | apply keeps_pktByte
      | ((try lift_lets); intro x; first | (refine (fun hx : Keeps s x => ?_) ?_; (on_goal 1 => clear_value x); (on_goal 2 => subst x)) | (have hf : ∀ a, x a = x a := fun _ => rfl; clear hf; subst x) | clear_value x | subst x)
      | split
      | with_reducible first | refine Keeps.ofPair (by assumption) ?_ | refine Keeps.ofPair2 (by assumption) ?_ | refine Keeps.ofM (by assumption) ?_ | refine Keeps.ofMP (by assumption) ?_ | refine KeepsO.ofMO (by assumption) ?_ | refine Keeps.ofO (by assumption) ?_
      | dsimp (zeta := false) only
      | dsimp only
  | succ n ih =>
    simp only [pktView]
    repeat' first
      | with_reducible apply ih
      | with_reducible first | assumption | apply keeps_pktByte
      | ((try lift_lets); intro x; first | (refine (fun hx : Keeps s x => ?_) ?_; (on_goal 1 => clear_value x); (on_goal 2 => subst x)) | (have hf : ∀ a, x a = x a := fun _ => rfl; clear hf; subst x) | clear_value x | subst x)
      | split
      | with_reducible first | refine Keeps.ofPair (by assumption) ?_ | refine Keeps.ofPair2 (by assumption) ?_ | refine Keeps.ofM (by assumption) ?_ | refine Keeps.ofMP (by assumption) ?_ | refine KeepsO.ofMO (by assumption) ?_ | refine Keeps.ofO (by assumption) ?_
      | dsimp (zeta := false) only
      | dsimp only

theorem keeps_bar2Read (o n : Nat) {s t : State} (hk : Keeps s t) : Keeps s (bar2Read o n t).2 := by
  unfold bar2Read
  repeat' first
    | with_reducible first | assumption | apply keeps_pktView
    | with_reducible first | refine keeps_ite ?_ ?_ | refine keepsO_ite ?_ ?_ | refine keepsP_ite ?_ ?_
    | split

theorem keeps_bar2Store (o : Nat) (bs : List Byte) {s t : State} (hk : Keeps s t) : KeepsO s (bar2Store o bs t) := by
  unfold bar2Store
  repeat' first
    | with_reducible first | assumption | apply keeps_unpredDevice | apply keeps_pkt_free | apply KeepsO.next | apply KeepsO.fault | apply KeepsO.stay | apply keeps_stay | apply keeps_pkt_wrBytes | apply keeps_pkt_wr | apply keeps_pkt_clear | apply keeps_pkt_nil
    | with_reducible refine fun _ => ?_
    | ((try lift_lets); intro x; first | (refine (fun hx : Keeps s x => ?_) ?_; (on_goal 1 => clear_value x); (on_goal 2 => subst x)) | (have hf : ∀ a, x a = x a := fun _ => rfl; clear hf; subst x) | clear_value x | subst x)
    | with_reducible first | refine keeps_ite ?_ ?_ | refine keepsO_ite ?_ ?_
    | split
    | beta_reduce

theorem keeps_bar2Write (o : Nat) (bs : List Byte) {s t : State} (hk : Keeps s t) : KeepsO s (bar2Write o bs t) := by
  unfold bar2Write
  repeat' first
    | with_reducible first | assumption | apply KeepsO.next | apply KeepsO.fault | apply KeepsO.stay | apply keeps_stay | apply keeps_mirrorAcc | apply keeps_bar2Store
    | with_reducible first | refine keeps_ite ?_ ?_ | refine keepsO_ite ?_ ?_
    | split

theorem keeps_execHostBar2Write (a : Agent) (off : Nat) (data : List Byte) {s t : State} (hk : Keeps s t) : KeepsO s (execHostBar2Write off data t a) := by
  unfold execHostBar2Write
  repeat' first
    | with_reducible first | assumption | apply KeepsO.next | apply KeepsO.stay | apply keeps_bar2Write | apply keeps_stay | apply keeps_pkt_wrBytes | apply keeps_pkt_wr | apply keeps_pkt_clear | apply keeps_pkt_nil | apply keeps_pkt_free
    | ((try lift_lets); intro x; first | (refine (fun hx : Keeps s x => ?_) ?_; (on_goal 1 => clear_value x); (on_goal 2 => subst x)) | (have hf : ∀ a, x a = x a := fun _ => rfl; clear hf; subst x) | clear_value x | subst x)
    | with_reducible first | refine keeps_ite ?_ ?_ | refine keepsO_ite ?_ ?_
    | split
    | with_reducible first | refine Keeps.ofPair (by assumption) ?_ | refine Keeps.ofPair2 (by assumption) ?_ | refine Keeps.ofM (by assumption) ?_ | refine Keeps.ofMP (by assumption) ?_ | refine KeepsO.ofMO (by assumption) ?_ | refine Keeps.ofO (by assumption) ?_
    | dsimp (zeta := false) only
    | dsimp only

theorem keeps_execHostBar2Read (a : Agent) (off len : Nat) {s t : State} (hk : Keeps s t) : KeepsO s (execHostBar2Read off len t a) := by
  unfold execHostBar2Read
  repeat' first
    | with_reducible first | assumption | apply KeepsO.next | apply KeepsO.stay | apply keeps_stay | apply keeps_bar2Read | apply keeps_setPanel
    | with_reducible refine fun _ => ?_
    | with_reducible fail_if_no_progress (refine Keeps.same ?_ rfl rfl rfl)
    | ((try lift_lets); intro x; first | (refine (fun hx : Keeps s x => ?_) ?_; (on_goal 1 => clear_value x); (on_goal 2 => subst x)) | (have hf : ∀ a, x a = x a := fun _ => rfl; clear hf; subst x) | clear_value x | subst x)
    | with_reducible first | refine keeps_ite ?_ ?_ | refine keepsO_ite ?_ ?_
    | split
    | with_reducible first | refine Keeps.ofPair (by assumption) ?_ | refine Keeps.ofPair2 (by assumption) ?_ | refine Keeps.ofM (by assumption) ?_ | refine Keeps.ofMP (by assumption) ?_ | refine KeepsO.ofMO (by assumption) ?_ | refine Keeps.ofO (by assumption) ?_
    | beta_reduce
    | dsimp (zeta := false) only
    | dsimp only

theorem keeps_qspiRead (addr : Nat) (x0 : Nat) (x1 : List Word) {s t : State} (hk : Keeps s t) : KeepsO s (qspiRead addr x0 x1 t) := by
  induction x0 generalizing addr x1 t with
  | zero =>
    simp only [qspiRead]
    repeat' first
      | with_reducible apply ih
      | with_reducible first | assumption | apply KeepsO.next | apply KeepsO.fault | apply KeepsO.stay | apply keeps_emit | apply keeps_busRead | apply keeps_bar2Read
      | with_reducible refine fun _ => ?_
      | with_reducible fail_if_no_progress (refine Keeps.same ?_ rfl rfl rfl)
      | ((try lift_lets); intro x; first | (refine (fun hx : Keeps s x => ?_) ?_; (on_goal 1 => clear_value x); (on_goal 2 => subst x)) | (have hf : ∀ a, x a = x a := fun _ => rfl; clear hf; subst x) | (have hf : (x : Hif) = x := rfl; clear hf; subst x) | clear_value x | subst x)
      | with_reducible first | refine keeps_ite ?_ ?_ | refine keepsO_ite ?_ ?_
      | split
      | with_reducible first | refine Keeps.ofPair (by assumption) ?_ | refine Keeps.ofPair2 (by assumption) ?_ | refine Keeps.ofM (by assumption) ?_ | refine Keeps.ofMP (by assumption) ?_ | refine KeepsO.ofMO (by assumption) ?_ | refine Keeps.ofO (by assumption) ?_
      | beta_reduce
      | dsimp (zeta := false) only
      | dsimp only
  | succ n ih =>
    simp only [qspiRead]
    repeat' first
      | with_reducible apply ih
      | with_reducible first | assumption | apply KeepsO.next | apply KeepsO.fault | apply KeepsO.stay | apply keeps_emit | apply keeps_busRead | apply keeps_bar2Read
      | with_reducible refine fun _ => ?_
      | with_reducible fail_if_no_progress (refine Keeps.same ?_ rfl rfl rfl)
      | ((try lift_lets); intro x; first | (refine (fun hx : Keeps s x => ?_) ?_; (on_goal 1 => clear_value x); (on_goal 2 => subst x)) | (have hf : ∀ a, x a = x a := fun _ => rfl; clear hf; subst x) | (have hf : (x : Hif) = x := rfl; clear hf; subst x) | clear_value x | subst x)
      | with_reducible first | refine keeps_ite ?_ ?_ | refine keepsO_ite ?_ ?_
      | split
      | with_reducible first | refine Keeps.ofPair (by assumption) ?_ | refine Keeps.ofPair2 (by assumption) ?_ | refine Keeps.ofM (by assumption) ?_ | refine Keeps.ofMP (by assumption) ?_ | refine KeepsO.ofMO (by assumption) ?_ | refine Keeps.ofO (by assumption) ?_
      | beta_reduce
      | dsimp (zeta := false) only
      | dsimp only

theorem keeps_execQspiRead (addr n : Nat) {s t : State} (hk : Keeps s t) : KeepsO s (execQspiRead addr n t) := by
  unfold execQspiRead
  repeat' first
    | with_reducible first | assumption | apply KeepsO.next | apply KeepsO.fault | apply KeepsO.stay | apply keeps_stay | apply keeps_qspiRead
    | with_reducible first | refine keeps_ite ?_ ?_ | refine keepsO_ite ?_ ?_
    | split

theorem keeps_qspiWord (addr : Nat) (bs : List Byte) {s t : State} (hk : Keeps s t) : KeepsO s (qspiWord addr bs t) := by
  unfold qspiWord
  repeat' first
    | with_reducible first | assumption | apply KeepsO.next | apply KeepsO.fault | apply KeepsO.stay | apply keeps_busWrite | apply keeps_bar2Write | apply keeps_stay
    | with_reducible fail_if_no_progress (refine Keeps.same ?_ rfl rfl rfl)
    | ((try lift_lets); intro x; first | (refine (fun hx : Keeps s x => ?_) ?_; (on_goal 1 => clear_value x); (on_goal 2 => subst x)) | (have hf : ∀ a, x a = x a := fun _ => rfl; clear hf; subst x) | clear_value x | subst x)
    | split
    | with_reducible first | refine Keeps.ofPair (by assumption) ?_ | refine Keeps.ofPair2 (by assumption) ?_ | refine Keeps.ofM (by assumption) ?_ | refine Keeps.ofMP (by assumption) ?_ | refine KeepsO.ofMO (by assumption) ?_ | refine Keeps.ofO (by assumption) ?_
    | dsimp (zeta := false) only
    | dsimp only

theorem keeps_qspiWrite (addr : Nat) (x0 : Nat) (x1 : List Byte) {s t : State} (hk : Keeps s t) : KeepsO s (qspiWrite addr x0 x1 t) := by
  induction x0 generalizing addr x1 t with
  | zero =>
    simp only [qspiWrite]
    repeat' first
      | with_reducible apply ih
      | with_reducible first | assumption | apply KeepsO.next | apply KeepsO.fault | apply KeepsO.stay | apply keeps_qspiWord
      | with_reducible fail_if_no_progress (refine Keeps.same ?_ rfl rfl rfl)
      | ((try lift_lets); intro x; first | (refine (fun hx : Keeps s x => ?_) ?_; (on_goal 1 => clear_value x); (on_goal 2 => subst x)) | (have hf : ∀ a, x a = x a := fun _ => rfl; clear hf; subst x) | (have hf : (x : Hif) = x := rfl; clear hf; subst x) | clear_value x | subst x)
      | split
      | with_reducible first | refine Keeps.ofPair (by assumption) ?_ | refine Keeps.ofPair2 (by assumption) ?_ | refine Keeps.ofM (by assumption) ?_ | refine Keeps.ofMP (by assumption) ?_ | refine KeepsO.ofMO (by assumption) ?_ | refine Keeps.ofO (by assumption) ?_
      | dsimp (zeta := false) only
      | dsimp only
  | succ n ih =>
    simp only [qspiWrite]
    repeat' first
      | with_reducible apply ih
      | with_reducible first | assumption | apply KeepsO.next | apply KeepsO.fault | apply KeepsO.stay | apply keeps_qspiWord
      | with_reducible fail_if_no_progress (refine Keeps.same ?_ rfl rfl rfl)
      | ((try lift_lets); intro x; first | (refine (fun hx : Keeps s x => ?_) ?_; (on_goal 1 => clear_value x); (on_goal 2 => subst x)) | (have hf : ∀ a, x a = x a := fun _ => rfl; clear hf; subst x) | (have hf : (x : Hif) = x := rfl; clear hf; subst x) | clear_value x | subst x)
      | split
      | with_reducible first | refine Keeps.ofPair (by assumption) ?_ | refine Keeps.ofPair2 (by assumption) ?_ | refine Keeps.ofM (by assumption) ?_ | refine Keeps.ofMP (by assumption) ?_ | refine KeepsO.ofMO (by assumption) ?_ | refine Keeps.ofO (by assumption) ?_
      | dsimp (zeta := false) only
      | dsimp only

theorem keeps_execQspiWrite (addr : Nat) (data : List Byte) {s t : State} (hk : Keeps s t) : KeepsO s (execQspiWrite addr data t) := by
  unfold execQspiWrite
  repeat' first
    | with_reducible first | assumption | apply KeepsO.next | apply KeepsO.fault | apply KeepsO.stay | apply keeps_stay | apply keeps_qspiWrite
    | with_reducible first | refine keeps_ite ?_ ?_ | refine keepsO_ite ?_ ?_
    | split

theorem keeps_execQspiId {s t : State} (hk : Keeps s t) : KeepsO s (execQspiId t) := by
  unfold execQspiId
  repeat' first
    | with_reducible first | assumption | apply KeepsO.next | apply KeepsO.fault | apply KeepsO.stay | apply keeps_stay | apply keeps_emit
    | with_reducible fail_if_no_progress (refine Keeps.same ?_ rfl rfl rfl)
    | ((try lift_lets); intro x; first | (refine (fun hx : Keeps s x => ?_) ?_; (on_goal 1 => clear_value x); (on_goal 2 => subst x)) | (have hf : ∀ a, x a = x a := fun _ => rfl; clear hf; subst x) | (have hf : (x : Hif) = x := rfl; clear hf; subst x) | clear_value x | subst x)
    | with_reducible first | refine keeps_ite ?_ ?_ | refine keepsO_ite ?_ ?_
    | split
    | with_reducible first | refine Keeps.ofPair (by assumption) ?_ | refine Keeps.ofPair2 (by assumption) ?_ | refine Keeps.ofM (by assumption) ?_ | refine Keeps.ofMP (by assumption) ?_ | refine KeepsO.ofMO (by assumption) ?_ | refine Keeps.ofO (by assumption) ?_

theorem keeps_execQspiCsnRise {s t : State} (hk : Keeps s t) : KeepsO s (execQspiCsnRise t) := by
  unfold execQspiCsnRise
  repeat' first
    | with_reducible first | assumption | apply KeepsO.next | apply KeepsO.fault | apply KeepsO.stay | apply keeps_stay
    | with_reducible fail_if_no_progress (refine Keeps.same ?_ rfl rfl rfl)
    | ((try lift_lets); intro x; first | (refine (fun hx : Keeps s x => ?_) ?_; (on_goal 1 => clear_value x); (on_goal 2 => subst x)) | (have hf : ∀ a, x a = x a := fun _ => rfl; clear hf; subst x) | (have hf : (x : Hif) = x := rfl; clear hf; subst x) | clear_value x | subst x)
    | with_reducible first | refine keeps_ite ?_ ?_ | refine keepsO_ite ?_ ?_
    | split

end Sys2Proof.Machine
end

