-- ==== Sys2Proof/Laws/KeepsPlyCmd.lean ====
section
/-!
SUPPORT. What Machine/PlyCmd.lean keeps (Laws/Keeps.lean).
-/
namespace Sys2Proof.Machine
set_option linter.unusedTactic false
set_option linter.unreachableTactic false
set_option linter.unusedVariables false

theorem keeps_applyAcc (acc : HostAcc) {s t : State} (hk : Keeps s t) : KeepsO s (applyAcc acc t) := by
  unfold applyAcc
  repeat' first
    | with_reducible first | assumption | apply KeepsO.next | apply KeepsO.fault | apply KeepsO.stay | apply keeps_mirrorWrite | apply keeps_bar2Store | apply keeps_descApply
    | with_reducible fail_if_no_progress (refine Keeps.same ?_ rfl rfl rfl)
    | ((try lift_lets); intro x; first | (refine (fun hx : Keeps s x => ?_) ?_; (on_goal 1 => clear_value x); (on_goal 2 => subst x)) | (have hf : ∀ a, x a = x a := fun _ => rfl; clear hf; subst x) | clear_value x | subst x)
    | split
    | with_reducible first | refine Keeps.ofPair (by assumption) ?_ | refine Keeps.ofPair2 (by assumption) ?_ | refine Keeps.ofM (by assumption) ?_ | refine Keeps.ofMP (by assumption) ?_ | refine KeepsO.ofMO (by assumption) ?_ | refine Keeps.ofO (by assumption) ?_
    | dsimp (zeta := false) only
    | dsimp only

theorem keeps_applyAccs (x0 : List HostAcc) {s t : State} (hk : Keeps s t) : KeepsO s (applyAccs x0 t) := by
  induction x0 generalizing t with
  | nil =>
    simp only [applyAccs]
    repeat' first
      | with_reducible apply ih
      | with_reducible first | assumption | apply KeepsO.next | apply KeepsO.fault | apply KeepsO.stay | apply keeps_applyAcc
      | with_reducible fail_if_no_progress (refine Keeps.same ?_ rfl rfl rfl)
      | ((try lift_lets); intro x; first | (refine (fun hx : Keeps s x => ?_) ?_; (on_goal 1 => clear_value x); (on_goal 2 => subst x)) | (have hf : ∀ a, x a = x a := fun _ => rfl; clear hf; subst x) | clear_value x | subst x)
      | split
      | with_reducible first | refine Keeps.ofPair (by assumption) ?_ | refine Keeps.ofPair2 (by assumption) ?_ | refine Keeps.ofM (by assumption) ?_ | refine Keeps.ofMP (by assumption) ?_ | refine KeepsO.ofMO (by assumption) ?_ | refine Keeps.ofO (by assumption) ?_
      | dsimp (zeta := false) only
      | dsimp only
  | cons e l ih =>
    simp only [applyAccs]
    repeat' first
      | with_reducible apply ih
      | with_reducible first | assumption | apply KeepsO.next | apply KeepsO.fault | apply KeepsO.stay | apply keeps_applyAcc
      | with_reducible fail_if_no_progress (refine Keeps.same ?_ rfl rfl rfl)
      | ((try lift_lets); intro x; first | (refine (fun hx : Keeps s x => ?_) ?_; (on_goal 1 => clear_value x); (on_goal 2 => subst x)) | (have hf : ∀ a, x a = x a := fun _ => rfl; clear hf; subst x) | clear_value x | subst x)
      | split
      | with_reducible first | refine Keeps.ofPair (by assumption) ?_ | refine Keeps.ofPair2 (by assumption) ?_ | refine Keeps.ofM (by assumption) ?_ | refine Keeps.ofMP (by assumption) ?_ | refine KeepsO.ofMO (by assumption) ?_ | refine Keeps.ofO (by assumption) ?_
      | dsimp (zeta := false) only
      | dsimp only

theorem keeps_applyHeld {s t : State} (hk : Keeps s t) : KeepsO s (applyHeld t) := by
  unfold applyHeld
  repeat' first
    | with_reducible first | assumption | apply KeepsO.next | apply KeepsO.fault | apply KeepsO.stay | apply keeps_applyAccs
    | with_reducible fail_if_no_progress (refine Keeps.same ?_ rfl rfl rfl)
    | ((try lift_lets); intro x; first | (refine (fun hx : Keeps s x => ?_) ?_; (on_goal 1 => clear_value x); (on_goal 2 => subst x)) | (have hf : ∀ a, x a = x a := fun _ => rfl; clear hf; subst x) | clear_value x | subst x)

theorem keeps_bodyPkt (p len : Nat) (d : List Byte) {s t : State} (hk : Keeps s t) : KeepsMP s (bodyPkt p len d t) := by
  unfold bodyPkt
  extract_lets o g
  obtain ⟨⟨st, h, u⟩, hr⟩ : ∃ x, requestBuf o (len + g + (if p = 9 then 0 else 4)) (escBit t o) noLimit t = x := ⟨_, rfl⟩
  have hu : Keeps s u := Keeps.ofPair2 hr (keeps_requestBuf _ _ _ _ hk)
  rw [hr]
  dsimp only
  split
  · exact KeepsMP.none s
  · exact KeepsMP.some (Keeps.same (keepsP_ite (keeps_pkt_wrBytes _ _ hu) (keeps_streamOf _ _ _ (keeps_pkt_wrBytes _ _ hu))) rfl rfl rfl)

theorem keeps_admitFrame (p len fcs : Nat) {s t : State} (hk : Keeps s t) : KeepsMP s (admitFrame p len fcs t) := by
  unfold admitFrame
  split
  · exact KeepsMP.some (keeps_setAdm _ _ _ hk)
  · intro q e
    obtain ⟨d, _, h⟩ := Option.bind_eq_some_iff.mp e
    exact keeps_bodyPkt _ _ _ hk q h

theorem keeps_admitSend (len yarn seq t : Nat) {s u0 : State} (hk : Keeps s u0) : Keeps s (admitSend len yarn seq t u0) := by
  unfold admitSend
  repeat' first
    | with_reducible first | assumption | apply keeps_entryDone
    | with_reducible fail_if_no_progress (refine Keeps.same ?_ rfl rfl rfl)
    | ((try lift_lets); intro x; first | (refine (fun hx : Keeps s x => ?_) ?_; (on_goal 1 => clear_value x); (on_goal 2 => subst x)) | (have hf : ∀ a, x a = x a := fun _ => rfl; clear hf; subst x) | clear_value x | subst x)
    | split
    | with_reducible first | refine Keeps.ofPair (by assumption) ?_ | refine Keeps.ofPair2 (by assumption) ?_ | refine Keeps.ofM (by assumption) ?_ | refine Keeps.ofMP (by assumption) ?_ | refine KeepsO.ofMO (by assumption) ?_ | refine Keeps.ofO (by assumption) ?_
    | dsimp (zeta := false) only
    | dsimp only

theorem keeps_admitRecord (p len fcs : Nat) (res : List Byte) (ts : Nat) {s t : State} (hk : Keeps s t) : KeepsM s (admitRecord p len fcs res ts t) := by
  intro u e
  unfold admitRecord at e
  split at e
  · cases e
  · dsimp only at e
    split at e
    · cases e
    · obtain ⟨⟨k, v⟩, h1, rfl⟩ := Option.map_eq_some_iff.mp e
      have hv : Keeps s v := Keeps.ofMP h1 (keeps_admitFrame _ _ _ hk)
      dsimp only
      split
      · exact keeps_noServ _ hv
      · split
        · exact keeps_admitSend _ _ _ _ (keeps_admitWith _ _ _ hv)
        · exact keeps_admitWith _ _ _ hv

theorem keeps_consumeRec (r : LogRec) {s t : State} (hk : Keeps s t) : KeepsMO s (consumeRec r t) := by
  unfold consumeRec
  split
  · intro o e
    obtain ⟨u, h1, rfl⟩ := Option.map_eq_some_iff.mp e
    exact KeepsO.next (keeps_admitRecord _ _ _ _ _ hk u h1)
  · exact KeepsMO.some (KeepsO.next (Keeps.same hk rfl rfl rfl))
  · exact KeepsMO.some (KeepsO.next (Keeps.same hk rfl rfl rfl))
  · exact KeepsMO.some (KeepsO.next (keeps_learnApply _ hk))
  · exact KeepsMO.some (KeepsO.next (Keeps.same hk rfl rfl rfl))
  · exact KeepsMO.some (KeepsO.next (keeps_compareClose _ (Keeps.same hk rfl rfl rfl)))
  · exact KeepsMO.some (keeps_applyHeld (keeps_set _ _ hk))
  · exact KeepsMO.some (KeepsO.next hk)

theorem keeps_consume (skip : Bool) (x0 : Nat) {s t : State} (hk : Keeps s t) : KeepsO s (consume skip x0 t) := by
  induction x0 generalizing t with
  | zero => exact KeepsO.next hk
  | succ n ih =>
    unfold consume
    split
    · exact KeepsO.next hk
    · dsimp only
      split
      · split
        · exact ih (Keeps.same hk rfl rfl rfl)
        · exact KeepsO.next hk
      · rename_i h1
        exact ih (Keeps.same (Keeps.ofO rfl (keeps_consumeRec _ hk _ h1)) rfl rfl rfl)
      · rename_i h1
        exact keeps_consumeRec _ hk _ h1

theorem keeps_consumeAll (skip : Bool) {s t : State} (hk : Keeps s t) : KeepsO s (consumeAll skip t) := by
  unfold consumeAll
  repeat' first
    | with_reducible first | assumption | apply KeepsO.next | apply KeepsO.fault | apply KeepsO.stay | apply keeps_consume

theorem keeps_survivorHif {s t : State} (hk : Keeps s t) : KeepsO s (survivorHif t) := by
  unfold survivorHif
  repeat' first
    | with_reducible first | assumption | apply KeepsO.next | apply KeepsO.fault | apply KeepsO.stay | apply keeps_functionReset | apply keeps_set | apply keeps_aqCfgWrite | apply keeps_wr | apply keeps_foldl
    | with_reducible refine fun _ => ?_
    | with_reducible fail_if_no_progress (refine Keeps.same ?_ rfl rfl rfl)
    | ((try lift_lets); intro x; first | (refine (fun hx : Keeps s x => ?_) ?_; (on_goal 1 => clear_value x); (on_goal 2 => subst x)) | (have hf : ∀ a, x a = x a := fun _ => rfl; clear hf; subst x) | (have hf : (x : Hif) = x := rfl; clear hf; subst x) | clear_value x | subst x)
    | with_reducible first | refine keeps_ite ?_ ?_ | refine keepsO_ite ?_ ?_
    | split
    | beta_reduce

theorem keeps_partnerLost (why : Nat) {s t : State} (hk : Keeps s t) : KeepsO s (partnerLost why t) := by
  unfold partnerLost
  extract_lets was a b r
  have ha : Keeps s a := keeps_cause _ _ (keeps_set _ _ (keeps_set _ _ hk))
  have hb : Keeps s b := keeps_ite (keeps_joinFail _ ha) ha
  have hr : KeepsO s r := keepsO_ite (keeps_consumeAll _ hb) (KeepsO.next hb)
  clear_value r b a was
  split
  · have hu := Keeps.ofO rfl hr
    extract_lets c d q e
    have hc : Keeps s c := keeps_dropLog (keeps_ite (keeps_dropKept hu) hu)
    have hd : Keeps s d := keeps_setRole _ (keeps_set _ _ hc)
    have he : Keeps s e := keeps_ite hd (keeps_cause _ _ (Keeps.same hd rfl rfl rfl))
    exact keepsO_ite (keeps_survivorHif he) (KeepsO.next he)
  · exact hr

theorem keeps_execPartnerLoss (halt : Bool) {s t : State} (hk : Keeps s t) : KeepsO s (execPartnerLoss halt t) := by
  unfold execPartnerLoss
  repeat' first
    | with_reducible first | assumption | apply KeepsO.next | apply KeepsO.fault | apply KeepsO.stay | apply keeps_stay | apply keeps_partnerLost
    | with_reducible first | refine keeps_ite ?_ ?_ | refine keepsO_ite ?_ ?_
    | split

theorem keeps_execVerdict (partner : Option Bool) {s t : State} (hk : Keeps s t) : KeepsO s (execVerdict partner t) := by
  unfold execVerdict
  repeat' first
    | with_reducible first | assumption | apply KeepsO.next | apply KeepsO.fault | apply KeepsO.stay | apply keeps_stay | apply keeps_emit | apply keeps_cause | apply keeps_plyLeave | apply keeps_partnerLost
    | with_reducible fail_if_no_progress (refine Keeps.same ?_ rfl rfl rfl)
    | ((try lift_lets); intro x; first | (refine (fun hx : Keeps s x => ?_) ?_; (on_goal 1 => clear_value x); (on_goal 2 => subst x)) | (have hf : ∀ a, x a = x a := fun _ => rfl; clear hf; subst x) | clear_value x | subst x)
    | with_reducible first | refine keeps_ite ?_ ?_ | refine keepsO_ite ?_ ?_
    | split
    | with_reducible first | refine Keeps.ofPair (by assumption) ?_ | refine Keeps.ofPair2 (by assumption) ?_ | refine Keeps.ofM (by assumption) ?_ | refine Keeps.ofMP (by assumption) ?_ | refine KeepsO.ofMO (by assumption) ?_ | refine Keeps.ofO (by assumption) ?_
    | dsimp (zeta := false) only
    | dsimp only

theorem keeps_leaderEnd {s t : State} (hk : Keeps s t) : Keeps s (leaderEnd t) := by
  unfold leaderEnd
  repeat' first
    | with_reducible first | assumption | apply keeps_plySend | apply keeps_emit
    | with_reducible fail_if_no_progress (refine Keeps.same ?_ rfl rfl rfl)
    | ((try lift_lets); intro x; first | (refine (fun hx : Keeps s x => ?_) ?_; (on_goal 1 => clear_value x); (on_goal 2 => subst x)) | (have hf : ∀ a, x a = x a := fun _ => rfl; clear hf; subst x) | clear_value x | subst x)

theorem keeps_ratioStep {s t : State} (hk : Keeps s t) : Keeps s (ratioStep t) := by
  unfold ratioStep
  repeat' first
    | with_reducible assumption
    | with_reducible refine fun _ => ?_
    | with_reducible fail_if_no_progress (refine Keeps.same ?_ rfl rfl rfl)
    | ((try lift_lets); intro x; first | (refine (fun hx : Keeps s x => ?_) ?_; (on_goal 1 => clear_value x); (on_goal 2 => subst x)) | (have hf : ∀ a, x a = x a := fun _ => rfl; clear hf; subst x) | clear_value x | subst x)
    | beta_reduce

theorem keeps_epochTurn {s t : State} (hk : Keeps s t) : Keeps s (epochTurn t) := by
  unfold epochTurn
  repeat' first
    | with_reducible first | assumption | apply keeps_wr64
    | with_reducible refine fun _ => ?_
    | with_reducible fail_if_no_progress (refine Keeps.same ?_ rfl rfl rfl)
    | ((try lift_lets); intro x; first | (refine (fun hx : Keeps s x => ?_) ?_; (on_goal 1 => clear_value x); (on_goal 2 => subst x)) | (have hf : ∀ a, x a = x a := fun _ => rfl; clear hf; subst x) | clear_value x | subst x)
    | with_reducible first | refine keeps_ite ?_ ?_ | refine keepsO_ite ?_ ?_
    | split
    | beta_reduce

theorem keeps_freeKept (consumed : Nat) {s t : State} (hk : Keeps s t) : Keeps s (freeKept consumed t) := by
  unfold freeKept
  repeat' first
    | with_reducible first | assumption | apply keeps_freeBuf | apply keeps_foldl
    | with_reducible refine fun _ => ?_
    | with_reducible fail_if_no_progress (refine Keeps.same ?_ rfl rfl rfl)
    | ((try lift_lets); intro x; first | (refine (fun hx : Keeps s x => ?_) ?_; (on_goal 1 => clear_value x); (on_goal 2 => subst x)) | (have hf : ∀ a, x a = x a := fun _ => rfl; clear hf; subst x) | clear_value x | subst x)
    | beta_reduce

theorem keeps_unsent (kib : Nat) {s t : State} (hk : Keeps s t) : Keeps s (unsent kib t) := by
  unfold unsent
  repeat' first
    | with_reducible first | assumption | apply keeps_set | apply keeps_cause
    | ((try lift_lets); intro x; first | (refine (fun hx : Keeps s x => ?_) ?_; (on_goal 1 => clear_value x); (on_goal 2 => subst x)) | (have hf : ∀ a, x a = x a := fun _ => rfl; clear hf; subst x) | clear_value x | subst x)
    | with_reducible first | refine keeps_ite ?_ ?_ | refine keepsO_ite ?_ ?_
    | split

theorem keeps_execEpochBoundary (kib : Nat) (consumed : Option Nat) {s t : State} (hk : Keeps s t) : KeepsO s (execEpochBoundary kib consumed t) := by
  unfold execEpochBoundary
  repeat' first
    | with_reducible first | assumption | apply KeepsO.next | apply KeepsO.fault | apply KeepsO.stay | apply keeps_stay | apply keeps_ratioStep | apply keeps_leaderEnd | apply keeps_epochTurn | apply keeps_unsent | apply keeps_freeKept | apply keeps_applyHeld
    | with_reducible fail_if_no_progress (refine Keeps.same ?_ rfl rfl rfl)
    | ((try lift_lets); intro x; first | (refine (fun hx : Keeps s x => ?_) ?_; (on_goal 1 => clear_value x); (on_goal 2 => subst x)) | (have hf : ∀ a, x a = x a := fun _ => rfl; clear hf; subst x) | clear_value x | subst x)
    | with_reducible first | refine keeps_ite ?_ ?_ | refine keepsO_ite ?_ ?_
    | split
    | with_reducible first | refine Keeps.ofPair (by assumption) ?_ | refine Keeps.ofPair2 (by assumption) ?_ | refine Keeps.ofM (by assumption) ?_ | refine Keeps.ofMP (by assumption) ?_ | refine KeepsO.ofMO (by assumption) ?_ | refine Keeps.ofO (by assumption) ?_
    | dsimp (zeta := false) only
    | dsimp only

theorem keeps_logRec (r : LogRec) {s t : State} (hk : Keeps s t) : KeepsO s (logRec r t) := by
  unfold logRec
  repeat' first
    | with_reducible first | assumption | apply KeepsO.next | apply KeepsO.fault | apply KeepsO.stay | apply keeps_stay
    | with_reducible fail_if_no_progress (refine Keeps.same ?_ rfl rfl rfl)
    | ((try lift_lets); intro x; first | (refine (fun hx : Keeps s x => ?_) ?_; (on_goal 1 => clear_value x); (on_goal 2 => subst x)) | (have hf : ∀ a, x a = x a := fun _ => rfl; clear hf; subst x) | clear_value x | subst x)
    | with_reducible first | refine keeps_ite ?_ ?_ | refine keepsO_ite ?_ ?_
    | split

theorem keeps_execLogAdmit (port len fcs : Nat) (res : List Byte) (tstamp : Nat) {s t : State} (hk : Keeps s t) : KeepsO s (execLogAdmit port len fcs res tstamp t) := by
  unfold execLogAdmit
  repeat' first
    | with_reducible first | assumption | apply KeepsO.next | apply KeepsO.fault | apply KeepsO.stay | apply keeps_logRec

theorem keeps_execLogAnswer (key : ReqKey) (kind : Nat) (v : Word) {s t : State} (hk : Keeps s t) : KeepsO s (execLogAnswer key kind v t) := by
  unfold execLogAnswer
  repeat' first
    | with_reducible first | assumption | apply KeepsO.next | apply KeepsO.fault | apply KeepsO.stay | apply keeps_logRec | apply keeps_answer

theorem keeps_execLogLearn (w : List Word) {s t : State} (hk : Keeps s t) : KeepsO s (execLogLearn w t) := by
  unfold execLogLearn
  repeat' first
    | with_reducible first | assumption | apply KeepsO.next | apply KeepsO.fault | apply KeepsO.stay | apply keeps_logRec

theorem keeps_execLogHost (acc : HostAcc) {s t : State} (hk : Keeps s t) : KeepsO s (execLogHost acc t) := by
  unfold execLogHost
  repeat' first
    | with_reducible first | assumption | apply KeepsO.next | apply KeepsO.fault | apply KeepsO.stay | apply keeps_logRec

theorem keeps_execLogClose (yarn seq disp mask len : Nat) (fault : Bool) {s t : State} (hk : Keeps s t) : KeepsO s (execLogClose yarn seq disp mask len fault t) := by
  unfold execLogClose
  repeat' first
    | with_reducible first | assumption | apply KeepsO.next | apply KeepsO.fault | apply KeepsO.stay | apply keeps_logRec

theorem keeps_execLogDpll (ratio : Word) {s t : State} (hk : Keeps s t) : KeepsO s (execLogDpll ratio t) := by
  unfold execLogDpll
  repeat' first
    | with_reducible first | assumption | apply KeepsO.next | apply KeepsO.fault | apply KeepsO.stay | apply keeps_logRec

theorem keeps_execLogBody (data : List Byte) {s t : State} (hk : Keeps s t) : KeepsO s (execLogBody data t) := by
  unfold execLogBody
  repeat' first
    | with_reducible first | assumption | apply KeepsO.next | apply KeepsO.fault | apply KeepsO.stay | apply keeps_consumeAll | apply keeps_logRec
    | with_reducible fail_if_no_progress (refine Keeps.same ?_ rfl rfl rfl)
    | ((try lift_lets); intro x; first | (refine (fun hx : Keeps s x => ?_) ?_; (on_goal 1 => clear_value x); (on_goal 2 => subst x)) | (have hf : ∀ a, x a = x a := fun _ => rfl; clear hf; subst x) | clear_value x | subst x)
    | with_reducible first | refine keeps_ite ?_ ?_ | refine keepsO_ite ?_ ?_
    | split
    | with_reducible first | refine Keeps.ofPair (by assumption) ?_ | refine Keeps.ofPair2 (by assumption) ?_ | refine Keeps.ofM (by assumption) ?_ | refine Keeps.ofMP (by assumption) ?_ | refine KeepsO.ofMO (by assumption) ?_ | refine Keeps.ofO (by assumption) ?_
    | dsimp (zeta := false) only
    | dsimp only

theorem keeps_steer (lead own : Nat) {s t : State} (hk : Keeps s t) : Keeps s (steer lead own t) := by
  unfold steer
  repeat' first
    | with_reducible assumption
    | with_reducible fail_if_no_progress (refine Keeps.same ?_ rfl rfl rfl)
    | ((try lift_lets); intro x; first | (refine (fun hx : Keeps s x => ?_) ?_; (on_goal 1 => clear_value x); (on_goal 2 => subst x)) | (have hf : ∀ a, x a = x a := fun _ => rfl; clear hf; subst x) | clear_value x | subst x)

theorem keeps_execLogEnd (epoch count digest time : Nat) {s t : State} (hk : Keeps s t) : KeepsO s (execLogEnd epoch count digest time t) := by
  unfold execLogEnd
  repeat' first
    | with_reducible first | assumption | apply KeepsO.next | apply KeepsO.fault | apply KeepsO.stay | apply keeps_stay | apply keeps_closed | apply keeps_steer | apply keeps_set | apply keeps_consumeAll | apply keeps_mismatch
    | with_reducible refine fun _ => ?_
    | with_reducible fail_if_no_progress (refine Keeps.same ?_ rfl rfl rfl)
    | ((try lift_lets); intro x; first | (refine (fun hx : Keeps s x => ?_) ?_; (on_goal 1 => clear_value x); (on_goal 2 => subst x)) | (have hf : ∀ a, x a = x a := fun _ => rfl; clear hf; subst x) | clear_value x | subst x)
    | with_reducible first | refine keeps_ite ?_ ?_ | refine keepsO_ite ?_ ?_
    | split
    | with_reducible first | refine Keeps.ofPair (by assumption) ?_ | refine Keeps.ofPair2 (by assumption) ?_ | refine Keeps.ofM (by assumption) ?_ | refine Keeps.ofMP (by assumption) ?_ | refine KeepsO.ofMO (by assumption) ?_ | refine Keeps.ofO (by assumption) ?_
    | beta_reduce
    | dsimp (zeta := false) only
    | dsimp only

theorem keeps_execLogVbat (mv _seq : Nat) {s t : State} (hk : Keeps s t) : KeepsO s (execLogVbat mv _seq t) := by
  unfold execLogVbat
  repeat' first
    | with_reducible first | assumption | apply KeepsO.next | apply KeepsO.fault | apply KeepsO.stay | apply keeps_stay | apply keeps_gainReading
    | with_reducible first | refine keeps_ite ?_ ?_ | refine keepsO_ite ?_ ?_
    | split

theorem keeps_execLogTdm (p : Nat) (slots : List Word) {s t : State} (hk : Keeps s t) : KeepsO s (execLogTdm p slots t) := by
  unfold execLogTdm
  repeat' first
    | with_reducible first | assumption | apply keeps_tdmLogged | apply KeepsO.next | apply KeepsO.fault | apply KeepsO.stay | apply keeps_stay | apply keeps_tdmCapture
    | with_reducible first | refine keeps_ite ?_ ?_ | refine keepsO_ite ?_ ?_
    | split

theorem keeps_execLogLatch (c causes : Nat) (clear : Bool) {s t : State} (hk : Keeps s t) : KeepsO s (execLogLatch c causes clear t) := by
  unfold execLogLatch
  repeat' first
    | with_reducible first | assumption | apply KeepsO.next | apply KeepsO.fault | apply KeepsO.stay | apply keeps_stay | apply keeps_unlatch | apply keeps_latchAll
    | with_reducible first | refine keeps_ite ?_ ?_ | refine keepsO_ite ?_ ?_
    | split

theorem keeps_execFrameFetchRequest (port len fcs : Nat) {s t : State} (hk : Keeps s t) : KeepsO s (execFrameFetchRequest port len fcs t) := by
  unfold execFrameFetchRequest
  repeat' first
    | with_reducible first | assumption | apply KeepsO.next | apply KeepsO.fault | apply KeepsO.stay | apply keeps_stay | apply keeps_emit | apply keeps_bump
    | with_reducible fail_if_no_progress (refine Keeps.same ?_ rfl rfl rfl)
    | ((try lift_lets); intro x; first | (refine (fun hx : Keeps s x => ?_) ?_; (on_goal 1 => clear_value x); (on_goal 2 => subst x)) | (have hf : ∀ a, x a = x a := fun _ => rfl; clear hf; subst x) | clear_value x | subst x)
    | with_reducible first | refine keeps_ite ?_ ?_ | refine keepsO_ite ?_ ?_
    | split
    | with_reducible first | refine Keeps.ofPair (by assumption) ?_ | refine Keeps.ofPair2 (by assumption) ?_ | refine Keeps.ofM (by assumption) ?_ | refine Keeps.ofMP (by assumption) ?_ | refine KeepsO.ofMO (by assumption) ?_ | refine Keeps.ofO (by assumption) ?_
    | dsimp (zeta := false) only
    | dsimp only

theorem keeps_execUnnamedFrameDrop (p tc i : Nat) {s t : State} (hk : Keeps s t) : KeepsO s (execUnnamedFrameDrop p tc i t) := by
  unfold execUnnamedFrameDrop
  repeat' first
    | with_reducible first | assumption | apply KeepsO.next | apply KeepsO.fault | apply KeepsO.stay | apply keeps_stay | apply keeps_dropPkt | apply keeps_setAdm
    | with_reducible fail_if_no_progress (refine Keeps.same ?_ rfl rfl rfl)
    | ((try lift_lets); intro x; first | (refine (fun hx : Keeps s x => ?_) ?_; (on_goal 1 => clear_value x); (on_goal 2 => subst x)) | (have hf : ∀ a, x a = x a := fun _ => rfl; clear hf; subst x) | clear_value x | subst x)
    | with_reducible first | refine keeps_ite ?_ ?_ | refine keepsO_ite ?_ ?_
    | split
    | with_reducible first | refine Keeps.ofPair (by assumption) ?_ | refine Keeps.ofPair2 (by assumption) ?_ | refine Keeps.ofM (by assumption) ?_ | refine Keeps.ofMP (by assumption) ?_ | refine KeepsO.ofMO (by assumption) ?_ | refine Keeps.ofO (by assumption) ?_
    | dsimp (zeta := false) only
    | dsimp only

theorem keeps_execPacketAdmit (p sel : Nat) {s t : State} (hk : Keeps s t) : KeepsO s (execPacketAdmit p sel t) := by
  unfold execPacketAdmit
  repeat' first
    | with_reducible first | assumption | apply KeepsO.next | apply KeepsO.fault | apply KeepsO.stay | apply keeps_consumeAll | apply keeps_packetAdmit
    | with_reducible first | refine keeps_ite ?_ ?_ | refine keepsO_ite ?_ ?_
    | split

theorem keeps_takeCut (img : CutState) {s t : State} (hk : Keeps s t) : Keeps s (takeCut img t) := by
  unfold takeCut
  refine keeps_foldl _ _ _ (Keeps.mems hk (fun hr => ?_) (fun hp => ?_) (fun _ => ?_) id id) fun u p hu => keeps_setPanel _ _ hu
  · refine mwf_foldl_mput _ _ _ (mwf_filter _ _ _ hr)
  · exact Mem.wf_foldl_wr _ _ (mwf_filter _ _ _ hp)
  · exact Mem.wf_foldl_wr _ _ rfl

theorem keeps_joinerSettle {s t : State} (hk : Keeps s t) : Keeps s (joinerSettle t) := by
  unfold joinerSettle
  repeat' first
    | with_reducible first | assumption | apply keeps_unclampPanel | apply keeps_cause | apply keeps_set | apply keeps_setSrc | apply keeps_enterStage | apply keeps_foldl
    | with_reducible refine fun _ => ?_
    | with_reducible fail_if_no_progress (refine Keeps.same ?_ rfl rfl rfl)
    | ((try lift_lets); intro x; first | (refine (fun hx : Keeps s x => ?_) ?_; (on_goal 1 => clear_value x); (on_goal 2 => subst x)) | (have hf : ∀ a, x a = x a := fun _ => rfl; clear hf; subst x) | clear_value x | subst x)
    | with_reducible first | refine keeps_ite ?_ ?_ | refine keepsO_ite ?_ ?_
    | split
    | beta_reduce

theorem keeps_logStart {s t : State} (hk : Keeps s t) : Keeps s (logStart t) := by
  unfold logStart
  repeat' first
    | with_reducible first | assumption | apply keeps_closed
    | with_reducible refine fun _ => ?_
    | with_reducible fail_if_no_progress (refine Keeps.same ?_ rfl rfl rfl)
    | ((try lift_lets); intro x; first | (refine (fun hx : Keeps s x => ?_) ?_; (on_goal 1 => clear_value x); (on_goal 2 => subst x)) | (have hf : ∀ a, x a = x a := fun _ => rfl; clear hf; subst x) | clear_value x | subst x)
    | beta_reduce

theorem keeps_cutover (img : CutState) {s t : State} (hk : Keeps s t) : Keeps s (cutover img t) := by
  unfold cutover
  repeat' first
    | with_reducible first | assumption | apply keeps_set | apply keeps_setRole | apply keeps_logStart | apply keeps_joinerSettle | apply keeps_takeCut
    | ((try lift_lets); intro x; first | (refine (fun hx : Keeps s x => ?_) ?_; (on_goal 1 => clear_value x); (on_goal 2 => subst x)) | (have hf : ∀ a, x a = x a := fun _ => rfl; clear hf; subst x) | clear_value x | subst x)
    | with_reducible first | refine keeps_ite ?_ ?_ | refine keepsO_ite ?_ ?_
    | split

theorem keeps_copyPass (left : Nat) (late : Bool) {s t : State} (hk : Keeps s t) : Keeps s (copyPass left late t) := by
  unfold copyPass
  repeat' first
    | with_reducible first | assumption | apply keeps_set | apply keeps_joinFail
    | ((try lift_lets); intro x; first | (refine (fun hx : Keeps s x => ?_) ?_; (on_goal 1 => clear_value x); (on_goal 2 => subst x)) | (have hf : ∀ a, x a = x a := fun _ => rfl; clear hf; subst x) | clear_value x | subst x)
    | with_reducible first | refine keeps_ite ?_ ?_ | refine keepsO_ite ?_ ?_
    | split

theorem keeps_execJoinPhaseDone (res : JoinStep) {s t : State} (hk : Keeps s t) : KeepsO s (execJoinPhaseDone res t) := by
  unfold execJoinPhaseDone
  repeat' first
    | with_reducible first | assumption | apply KeepsO.next | apply KeepsO.fault | apply KeepsO.stay | apply keeps_stay | apply keeps_joinStart | apply keeps_joinFail | apply keeps_set | apply keeps_copyPass | apply keeps_cutover | apply keeps_cause
    | with_reducible fail_if_no_progress (refine Keeps.same ?_ rfl rfl rfl)
    | ((try lift_lets); intro x; first | (refine (fun hx : Keeps s x => ?_) ?_; (on_goal 1 => clear_value x); (on_goal 2 => subst x)) | (have hf : ∀ a, x a = x a := fun _ => rfl; clear hf; subst x) | clear_value x | subst x)
    | with_reducible first | refine keeps_ite ?_ ?_ | refine keepsO_ite ?_ ?_
    | split
    | with_reducible first | refine Keeps.ofPair (by assumption) ?_ | refine Keeps.ofPair2 (by assumption) ?_ | refine Keeps.ofM (by assumption) ?_ | refine Keeps.ofMP (by assumption) ?_ | refine KeepsO.ofMO (by assumption) ?_ | refine Keeps.ofO (by assumption) ?_
    | dsimp (zeta := false) only
    | dsimp only

end Sys2Proof.Machine
end

