-- ==== Sys2Proof/Laws/KeepsWhlMem.lean ====
section
/-!
SUPPORT. What Machine/WhlMem.lean keeps (Laws/Keeps.lean).
-/
namespace Sys2Proof.Machine
set_option linter.unusedTactic false
set_option linter.unreachableTactic false
set_option linter.unusedVariables false

theorem keeps_loadIssue (tid a : Nat) {s t : State} (hk : Keeps s t) : KeepsO s (loadIssue tid a t) := by
  unfold loadIssue
  repeat' first
    | with_reducible first | assumption | apply KeepsO.next | apply KeepsO.fault | apply KeepsO.stay | apply keeps_panelRequest
    | with_reducible fail_if_no_progress (refine Keeps.same ?_ rfl rfl rfl)
    | ((try lift_lets); intro x; first | (refine (fun hx : Keeps s x => ?_) ?_; (on_goal 1 => clear_value x); (on_goal 2 => subst x)) | (have hf : ∀ a, x a = x a := fun _ => rfl; clear hf; subst x) | clear_value x | subst x)
    | split
    | with_reducible first | refine Keeps.ofPair (by assumption) ?_ | refine Keeps.ofPair2 (by assumption) ?_ | refine Keeps.ofM (by assumption) ?_ | refine Keeps.ofMP (by assumption) ?_ | refine KeepsO.ofMO (by assumption) ?_ | refine Keeps.ofO (by assumption) ?_
    | dsimp (zeta := false) only
    | dsimp only

theorem keeps_loadAnswer (tid a size : Nat) {s t : State} (hk : Keeps s t) : KeepsMO s (loadAnswer tid a size t) := by
  unfold loadAnswer
  repeat' first
    | with_reducible first | assumption | apply KeepsMO.some | apply KeepsMO.none | apply KeepsO.next | apply KeepsO.fault | apply keeps_pktView | apply keeps_respond | apply keeps_takeAnswer | apply keeps_busRead
    | ((try lift_lets); intro x; first | (refine (fun hx : Keeps s x => ?_) ?_; (on_goal 1 => clear_value x); (on_goal 2 => subst x)) | (have hf : ∀ a, x a = x a := fun _ => rfl; clear hf; subst x) | clear_value x | subst x)
    | with_reducible first | refine keeps_ite ?_ ?_ | refine keepsO_ite ?_ ?_
    | split
    | with_reducible first | refine Keeps.ofPair (by assumption) ?_ | refine Keeps.ofPair2 (by assumption) ?_ | refine Keeps.ofM (by assumption) ?_ | refine Keeps.ofMP (by assumption) ?_ | refine KeepsO.ofMO (by assumption) ?_ | refine Keeps.ofO (by assumption) ?_
    | dsimp (zeta := false) only
    | dsimp only

theorem keeps_threadHavoc (tid : Nat) {s t : State} (hk : Keeps s t) : Keeps s (threadHavoc tid t) := by
  unfold threadHavoc
  repeat' first
    | with_reducible first | assumption | apply keeps_unpredThread
    | ((try lift_lets); intro x; first | (refine (fun hx : Keeps s x => ?_) ?_; (on_goal 1 => clear_value x); (on_goal 2 => subst x)) | (have hf : ∀ a, x a = x a := fun _ => rfl; clear hf; subst x) | clear_value x | subst x)
    | with_reducible first | refine keeps_ite ?_ ?_ | refine keepsO_ite ?_ ?_
    | split
    | with_reducible first | refine Keeps.ofPair (by assumption) ?_ | refine Keeps.ofPair2 (by assumption) ?_ | refine Keeps.ofM (by assumption) ?_ | refine Keeps.ofMP (by assumption) ?_ | refine KeepsO.ofMO (by assumption) ?_ | refine Keeps.ofO (by assumption) ?_
    | dsimp (zeta := false) only
    | dsimp only

theorem keeps_postWrite (tid a : Nat) (w : ReqWait) {s t : State} (hk : Keeps s t) : Keeps s (postWrite tid a w t) := by
  unfold postWrite
  repeat' first
    | with_reducible first | assumption | apply keeps_setThread
    | with_reducible fail_if_no_progress (refine Keeps.same ?_ rfl rfl rfl)
    | ((try lift_lets); intro x; first | (refine (fun hx : Keeps s x => ?_) ?_; (on_goal 1 => clear_value x); (on_goal 2 => subst x)) | (have hf : ∀ a, x a = x a := fun _ => rfl; clear hf; subst x) | clear_value x | subst x)

theorem keeps_storeAt (tid a : Nat) (bs : List Byte) {s t : State} (hk : Keeps s t) : KeepsO s (storeAt tid a bs t) := by
  unfold storeAt
  repeat' first
    | with_reducible first | assumption | apply keeps_unpredDevice | apply keeps_pkt_free | apply KeepsO.next | apply KeepsO.fault | apply KeepsO.stay | apply keeps_coreWrite | apply keeps_postWrite | apply keeps_panelRequest | apply keeps_busWrite | apply keeps_pkt_wrBytes | apply keeps_pkt_wr | apply keeps_pkt_clear | apply keeps_pkt_nil
    | with_reducible refine fun _ => ?_
    | with_reducible fail_if_no_progress (refine Keeps.same ?_ rfl rfl rfl)
    | ((try lift_lets); intro x; first | (refine (fun hx : Keeps s x => ?_) ?_; (on_goal 1 => clear_value x); (on_goal 2 => subst x)) | (have hf : ∀ a, x a = x a := fun _ => rfl; clear hf; subst x) | clear_value x | subst x)
    | with_reducible first | refine keeps_ite ?_ ?_ | refine keepsO_ite ?_ ?_
    | split
    | with_reducible first | refine Keeps.ofPair (by assumption) ?_ | refine Keeps.ofPair2 (by assumption) ?_ | refine Keeps.ofM (by assumption) ?_ | refine Keeps.ofMP (by assumption) ?_ | refine KeepsO.ofMO (by assumption) ?_ | refine Keeps.ofO (by assumption) ?_
    | beta_reduce
    | dsimp (zeta := false) only
    | dsimp only

theorem keeps_storeAll (tid : Nat) (x0 : List (Nat × Word)) {s t : State} (hk : Keeps s t) : KeepsO s (storeAll tid x0 t) := by
  induction x0 generalizing tid t with
  | nil =>
    simp only [storeAll]
    repeat' first
      | with_reducible apply ih
      | with_reducible first | assumption | apply KeepsO.next | apply KeepsO.fault | apply KeepsO.stay | apply keeps_storeAt
      | with_reducible fail_if_no_progress (refine Keeps.same ?_ rfl rfl rfl)
      | ((try lift_lets); intro x; first | (refine (fun hx : Keeps s x => ?_) ?_; (on_goal 1 => clear_value x); (on_goal 2 => subst x)) | (have hf : ∀ a, x a = x a := fun _ => rfl; clear hf; subst x) | clear_value x | subst x)
      | split
      | with_reducible first | refine Keeps.ofPair (by assumption) ?_ | refine Keeps.ofPair2 (by assumption) ?_ | refine Keeps.ofM (by assumption) ?_ | refine Keeps.ofMP (by assumption) ?_ | refine KeepsO.ofMO (by assumption) ?_ | refine Keeps.ofO (by assumption) ?_
      | dsimp (zeta := false) only
      | dsimp only
  | cons e l ih =>
    simp only [storeAll]
    repeat' first
      | with_reducible apply ih
      | with_reducible first | assumption | apply KeepsO.next | apply KeepsO.fault | apply KeepsO.stay | apply keeps_storeAt
      | with_reducible fail_if_no_progress (refine Keeps.same ?_ rfl rfl rfl)
      | ((try lift_lets); intro x; first | (refine (fun hx : Keeps s x => ?_) ?_; (on_goal 1 => clear_value x); (on_goal 2 => subst x)) | (have hf : ∀ a, x a = x a := fun _ => rfl; clear hf; subst x) | clear_value x | subst x)
      | split
      | with_reducible first | refine Keeps.ofPair (by assumption) ?_ | refine Keeps.ofPair2 (by assumption) ?_ | refine Keeps.ofM (by assumption) ?_ | refine Keeps.ofMP (by assumption) ?_ | refine KeepsO.ofMO (by assumption) ?_ | refine Keeps.ofO (by assumption) ?_
      | dsimp (zeta := false) only
      | dsimp only

theorem keeps_setBused (tid i v : Nat) {s t : State} (hk : Keeps s t) : Keeps s (setBused tid i v t) := by
  unfold setBused
  repeat' first
    | with_reducible first | assumption | apply keeps_setThread
    | with_reducible refine fun _ => ?_
    | with_reducible fail_if_no_progress (refine Keeps.same ?_ rfl rfl rfl)
    | ((try lift_lets); intro x; first | (refine (fun hx : Keeps s x => ?_) ?_; (on_goal 1 => clear_value x); (on_goal 2 => subst x)) | (have hf : ∀ a, x a = x a := fun _ => rfl; clear hf; subst x) | clear_value x | subst x)
    | beta_reduce

theorem keeps_busedUp (tid h : Nat) {s t : State} (hk : Keeps s t) : Keeps s (busedUp tid h t) := by
  unfold busedUp
  repeat' first
    | with_reducible first | assumption | apply keeps_setBused
    | with_reducible refine fun _ => ?_
    | beta_reduce

theorem keeps_busedDown (tid h : Nat) {s t : State} (hk : Keeps s t) : Keeps s (busedDown tid h t) := by
  unfold busedDown
  repeat' first
    | with_reducible first | assumption | apply keeps_setBused
    | with_reducible refine fun _ => ?_
    | with_reducible first | refine keeps_ite ?_ ?_ | refine keepsO_ite ?_ ?_
    | split
    | beta_reduce

theorem keeps_takeBuf (o h : Nat) {s t : State} (hk : Keeps s t) : Keeps s (takeBuf o h t) := by
  unfold takeBuf
  repeat' first
    | with_reducible first | assumption | apply keeps_setCache | apply keeps_setSpilled | apply keeps_chargeBuf
    | ((try lift_lets); intro x; first | (refine (fun hx : Keeps s x => ?_) ?_; (on_goal 1 => clear_value x); (on_goal 2 => subst x)) | (have hf : ∀ a, x a = x a := fun _ => rfl; clear hf; subst x) | clear_value x | subst x)
    | with_reducible first | refine keeps_ite ?_ ?_ | refine keepsO_ite ?_ ?_
    | split

theorem keeps_ballocAnswer (tid len : Nat) (esc : Bool) {s t : State} (hk : Keeps s t) : KeepsMO s (ballocAnswer tid len esc t) := by
  intro r e
  unfold ballocAnswer at e
  split at e
  · cases e
  · split at e
    · obtain ⟨⟨v, u⟩, h1, rfl⟩ := Option.map_eq_some_iff.mp e
      have hu : Keeps s u := Keeps.ofMP h1 (keeps_takeAnswer _ _ hk)
      dsimp only
      refine KeepsO.next (keeps_respond _ _ ?_)
      split
      · exact hu
      · exact keeps_busedUp _ _ (keeps_takeBuf _ _ hu)
    · obtain ⟨⟨st, h, u⟩, hr⟩ : ∃ x, requestBuf (threadOwner tid) len esc (shareAllows t tid) t = x := ⟨_, rfl⟩
      have hu : Keeps s u := Keeps.ofPair2 hr (keeps_requestBuf _ _ _ _ hk)
      dsimp only at e
      rw [hr] at e
      cases e
      dsimp only
      refine KeepsO.next (keeps_respond _ _ (keeps_logAnswer _ _ _ ?_))
      split
      · exact keeps_busedUp _ _ hu
      · exact hu

theorem keeps_faddAnswer (tid k : Nat) (v : Word) {s t : State} (hk : Keeps s t) : KeepsMO s (faddAnswer tid k v t) := by
  unfold faddAnswer
  repeat' first
    | with_reducible first | assumption | apply KeepsMO.some | apply KeepsMO.none | apply KeepsO.next | apply KeepsO.fault | apply keeps_takeAnswer | apply keeps_addLoad
    | with_reducible first | refine keeps_ite ?_ ?_ | refine keepsO_ite ?_ ?_
    | split
    | with_reducible first | refine Keeps.ofPair (by assumption) ?_ | refine Keeps.ofPair2 (by assumption) ?_ | refine Keeps.ofM (by assumption) ?_ | refine Keeps.ofMP (by assumption) ?_ | refine KeepsO.ofMO (by assumption) ?_ | refine Keeps.ofO (by assumption) ?_

theorem keeps_sendAnswer (tid : Nat) (dst h fr : Word) {s t : State} (hk : Keeps s t) : KeepsMO s (sendAnswer tid dst h fr t) := by
  unfold sendAnswer
  repeat' first
    | with_reducible first | assumption | apply keeps_unpredDevice | apply keeps_draw | apply KeepsMO.some | apply KeepsMO.none | apply KeepsO.next | apply KeepsO.fault | apply keeps_respond | apply keeps_busedDown | apply keeps_setThread | apply keeps_egPlaceAll
    | with_reducible fail_if_no_progress (refine Keeps.same ?_ rfl rfl rfl)
    | ((try lift_lets); intro x; first | (refine (fun hx : Keeps s x => ?_) ?_; (on_goal 1 => clear_value x); (on_goal 2 => subst x)) | (have hf : ∀ a, x a = x a := fun _ => rfl; clear hf; subst x) | clear_value x | subst x)
    | with_reducible first | refine keeps_ite ?_ ?_ | refine keepsO_ite ?_ ?_
    | split
    | with_reducible first | refine Keeps.ofPair (by assumption) ?_ | refine Keeps.ofPair2 (by assumption) ?_ | refine Keeps.ofM (by assumption) ?_ | refine Keeps.ofMP (by assumption) ?_ | refine KeepsO.ofMO (by assumption) ?_ | refine Keeps.ofO (by assumption) ?_

end Sys2Proof.Machine
end

