-- ==== Sys2Proof/Laws/KeepsWhlExec.lean ====
section
/-!
SUPPORT. What Machine/WhlExec.lean keeps (Laws/Keeps.lean).
-/
namespace Sys2Proof.Machine
set_option linter.unusedTactic false
set_option linter.unreachableTactic false
set_option linter.unusedVariables false

theorem keeps_sregRead (tid n : Nat) {s t : State} (hk : Keeps s t) : Keeps s (sregRead tid n t).2 := by
  unfold sregRead
  repeat' first
    | with_reducible first | assumption | apply keeps_draw | apply keeps_setThread
    | with_reducible fail_if_no_progress (refine Keeps.same ?_ rfl rfl rfl)
    | ((try lift_lets); intro x; first | (refine (fun hx : Keeps s x => ?_) ?_; (on_goal 1 => clear_value x); (on_goal 2 => subst x)) | (have hf : ∀ a, x a = x a := fun _ => rfl; clear hf; subst x) | clear_value x | subst x)
    | with_reducible first | refine keeps_ite ?_ ?_ | refine keepsO_ite ?_ ?_ | refine keepsP_ite ?_ ?_
    | split
    | with_reducible first | refine Keeps.ofPair (by assumption) ?_ | refine Keeps.ofPair2 (by assumption) ?_ | refine Keeps.ofM (by assumption) ?_ | refine Keeps.ofMP (by assumption) ?_ | refine KeepsO.ofMO (by assumption) ?_ | refine Keeps.ofO (by assumption) ?_
    | dsimp (zeta := false) only
    | dsimp only

theorem keeps_closeHeld (tid : Nat) {s t : State} (hk : Keeps s t) : Keeps s (closeHeld tid t) := by
  unfold closeHeld
  repeat' first
    | with_reducible first | assumption | apply keeps_dropTask | apply keeps_bump | apply keeps_setThread
    | with_reducible fail_if_no_progress (refine Keeps.same ?_ rfl rfl rfl)
    | ((try lift_lets); intro x; first | (refine (fun hx : Keeps s x => ?_) ?_; (on_goal 1 => clear_value x); (on_goal 2 => subst x)) | (have hf : ∀ a, x a = x a := fun _ => rfl; clear hf; subst x) | clear_value x | subst x)
    | split
    | with_reducible first | refine Keeps.ofPair (by assumption) ?_ | refine Keeps.ofPair2 (by assumption) ?_ | refine Keeps.ofM (by assumption) ?_ | refine Keeps.ofMP (by assumption) ?_ | refine KeepsO.ofMO (by assumption) ?_ | refine Keeps.ofO (by assumption) ?_
    | dsimp (zeta := false) only
    | dsimp only

theorem keeps_wordDone (tid next : Nat) {s t : State} (hk : Keeps s t) : Keeps s (wordDone tid next t) := by
  unfold wordDone
  repeat' first
    | with_reducible first | assumption | apply keeps_setThread
    | with_reducible fail_if_no_progress (refine Keeps.same ?_ rfl rfl rfl)
    | ((try lift_lets); intro x; first | (refine (fun hx : Keeps s x => ?_) ?_; (on_goal 1 => clear_value x); (on_goal 2 => subst x)) | (have hf : ∀ a, x a = x a := fun _ => rfl; clear hf; subst x) | clear_value x | subst x)
    | with_reducible first | refine keeps_ite ?_ ?_ | refine keepsO_ite ?_ ?_
    | split
    | with_reducible first | refine Keeps.ofPair (by assumption) ?_ | refine Keeps.ofPair2 (by assumption) ?_ | refine Keeps.ofM (by assumption) ?_ | refine Keeps.ofMP (by assumption) ?_ | refine KeepsO.ofMO (by assumption) ?_ | refine Keeps.ofO (by assumption) ?_
    | dsimp (zeta := false) only
    | dsimp only

theorem keeps_wordWait (tid : Nat) (code : List Byte) (got : List Word) (n : Need) {s t : State} (hk : Keeps s t) : KeepsO s (wordWait tid code got n t) := by
  unfold wordWait
  repeat' first
    | with_reducible first | assumption | apply KeepsO.next | apply KeepsO.fault | apply KeepsO.stay | apply keeps_setThread | apply keeps_loadIssue
    | with_reducible fail_if_no_progress (refine Keeps.same ?_ rfl rfl rfl)
    | ((try lift_lets); intro x; first | (refine (fun hx : Keeps s x => ?_) ?_; (on_goal 1 => clear_value x); (on_goal 2 => subst x)) | (have hf : ∀ a, x a = x a := fun _ => rfl; clear hf; subst x) | clear_value x | subst x)
    | with_reducible first | refine keeps_ite ?_ ?_ | refine keepsO_ite ?_ ?_
    | split
    | with_reducible first | refine Keeps.ofPair (by assumption) ?_ | refine Keeps.ofPair2 (by assumption) ?_ | refine Keeps.ofM (by assumption) ?_ | refine Keeps.ofMP (by assumption) ?_ | refine KeepsO.ofMO (by assumption) ?_ | refine Keeps.ofO (by assumption) ?_
    | dsimp (zeta := false) only
    | dsimp only

/-- An act of a word keeps them, in any state it runs from. -/
def KeepsAct (a : Act) : Prop := ∀ f, a = .run f → ∀ s t, Keeps s t → KeepsO s (f t)

theorem KeepsAct.run {f : State → Out} (h : ∀ s t, Keeps s t → KeepsO s (f t)) : KeepsAct (.run f) := by
  intro g e; cases e; exact h

theorem KeepsAct.fault (c a : Nat) : KeepsAct (.fault c a) := by intro g e; cases e

theorem KeepsAct.unpredictable : KeepsAct .unpredictable := by intro g e; cases e

theorem KeepsAct.wait (n : Need) : KeepsAct (.wait n) := by intro g e; cases e

theorem keepsAct_ite {a b : Act} {c : Prop} [Decidable c] (ha : KeepsAct a) (hb : KeepsAct b) : KeepsAct (if c then a else b) := by
  split
  · exact ha
  · exact hb

theorem KeepsAct.onThread (tid : Nat) (f : Thread → Thread) : KeepsAct (onThread tid f) :=
  .run fun _ _ h => KeepsO.next (keeps_setThread _ _ h)

theorem KeepsAct.onState {f : State → State} (h : ∀ s t, Keeps s t → Keeps s (f t)) : KeepsAct (onState f) :=
  .run fun s t hk => KeepsO.next (h s t hk)

theorem keepsAct_formFault (form : Bool) (a : Nat) {k : Act} (h : KeepsAct k) : KeepsAct (formFault form a k) :=
  keepsAct_ite (.fault _ _) h

theorem keepsAct_sregWrite (tid n : Nat) (v : Word) : KeepsAct (sregWrite tid n v) := by
  unfold sregWrite
  refine keepsAct_ite .unpredictable ?_
  split
  case h_5 => exact .onState fun s t h => keeps_tcmpWrite _ _ h
  all_goals exact .onThread _ _

theorem keepsAct_memAct (i : Insn) (shape : Nat × Bool × Bool) (tid : Nat) (x : Thread) (got : List Word) (u : State) :
    KeepsAct (memAct i shape tid x got u) := by
  unfold memAct
  rcases shape with ⟨size, signed, net⟩
  dsimp only
  split
  · exact .fault _ _
  · split
    · exact .fault _ _
    · refine keepsAct_ite (.run fun s t h => ?_) (keepsAct_ite (.onThread _ _) ?_)
      · split
        · rename_i h1
          exact KeepsO.next (keeps_setThread _ _ (Keeps.ofO h1 (keeps_storeAt _ _ _ h)))
        · exact keeps_storeAt _ _ _ h
      · split
        · exact .onThread _ _
        · exact .wait _

theorem keepsAct_pushAct (i : Insn) (tid : Nat) (x : Thread) (u : State) : KeepsAct (pushAct i tid x u) := by
  unfold pushAct
  dsimp only
  split
  · exact .fault _ _
  · refine .run fun s t h => ?_
    split
    · rename_i h1
      exact KeepsO.next (keeps_setThread _ _ (Keeps.ofO h1 (keeps_storeAll _ _ h)))
    · exact keeps_storeAll _ _ h

theorem keepsAct_popAct (i : Insn) (tid : Nat) (x : Thread) (got : List Word) (u : State) : KeepsAct (popAct i tid x got u) := by
  unfold popAct
  dsimp only
  split
  · exact .fault _ _
  · split
    · exact .wait _
    · exact .onThread _ _

theorem keepsAct_ctlAct (i : Insn) (tid pc next : Nat) (x : Thread) {a : Act} (h : ctlAct i tid pc next x = some a) : KeepsAct a := by
  unfold ctlAct at h
  dsimp only at h
  split at h <;> first
    | (cases h; done)
    | (obtain rfl := Option.some.inj h
       first
         | exact .onThread _ _
         | exact keepsAct_ite (.onThread _ _) (.onThread _ _)
         | exact keepsAct_formFault _ _ (.onThread _ _)
         | exact keepsAct_ite .unpredictable (keepsAct_formFault _ _ (.onThread _ _)))

theorem keepsAct_tgetAct (tid next : Nat) (x : Thread) : KeepsAct (tgetAct tid next x) := by
  refine .onState fun s t h => ?_
  dsimp only
  exact keeps_ite (keeps_resumeParked _ (keeps_closeHeld _ h)) (keeps_setThread _ _ (keeps_closeHeld _ h))

theorem keepsAct_tdoneAct (i : Insn) (tid : Nat) (x : Thread) (u : State) : KeepsAct (tdoneAct i tid x u) := by
  unfold tdoneAct
  split
  · exact .fault _ _
  · refine .run fun s t h => ?_
    dsimp only
    split
    · exact KeepsO.next h
    · exact keepsO_ite (KeepsO.next (keeps_unpredDevice h)) (KeepsO.next (keeps_resumeParked _ (keeps_setThread _ _
        (keeps_finishTask _ _ _ _ _ _ (keeps_ite (keeps_setThreadKept _ _ h) (keeps_busedDown _ _ h))))))

theorem keepsAct_sleepAct (tid : Nat) : KeepsAct (sleepAct tid) := .onState fun _ _ h => keeps_setThread _ _ h

theorem keepsAct_waitlkAct (tid n : Nat) : KeepsAct (waitlkAct tid n) := by
  refine .onState fun s t h => ?_
  dsimp only
  exact keeps_ite (keeps_setThread _ _ h) (keeps_ite (keeps_setThread _ _ h) (keeps_setThread _ _ (keeps_setLock _ _ h)))

theorem keepsAct_lkupAct (tbl tid a : Nat) (u : State) : KeepsAct (lkupAct tbl tid a u) := by
  unfold lkupAct
  extract_lets n
  refine keepsAct_ite (.fault _ _) (keepsAct_ite (.fault _ _) ?_)
  split
  · exact .fault _ _
  · exact .onThread _ _

theorem keepsAct_bfreeAct (tid : Nat) (h : Word) : KeepsAct (bfreeAct tid h) :=
  .onState fun _ _ hk => keeps_freeBuf _ (keeps_busedDown _ _ (keeps_postWrite _ _ _ hk))

theorem keepsAct_fenceAct (tid : Nat) (x : Thread) : KeepsAct (fenceAct tid x) :=
  keepsAct_ite (.onThread _ _) (.onThread _ _)

theorem keepsAct_sysAct (i : Insn) (tid next : Nat) (x : Thread) (got : List Word) (u : State) {a : Act}
    (h : sysAct i tid next x got u = some a) : KeepsAct a := by
  have answered : ∀ n, KeepsAct (match got with | w :: _ => onThread tid fun y => y.setReg i.rd w | [] => .wait n) := by
    intro n
    split
    · exact .onThread _ _
    · exact .wait _
  unfold sysAct at h
  dsimp only at h
  split at h <;> first
    | (cases h; done)
    | (obtain rfl := Option.some.inj h
       first
         | with_reducible exact keepsAct_sleepAct _
         | with_reducible exact .fault _ _
         | with_reducible exact keepsAct_sleepAct _
         | with_reducible exact keepsAct_sregWrite _ _ _
         | with_reducible exact keepsAct_tgetAct _ _ _
         | with_reducible exact keepsAct_tdoneAct _ _ _ _
         | with_reducible exact keepsAct_bfreeAct _ _
         | with_reducible exact keepsAct_waitlkAct _ _
         | with_reducible exact keepsAct_lkupAct _ _ _ _
         | with_reducible exact keepsAct_pushAct _ _ _ _
         | with_reducible exact keepsAct_popAct _ _ _ _ _
         | with_reducible exact keepsAct_fenceAct _ _
         | with_reducible exact .onThread _ _
         | with_reducible exact .onState fun s t hk => keeps_setThread _ _ hk
         | with_reducible exact .onState fun s t hk => keeps_setThread _ _ (keeps_sregRead _ _ hk)
         | exact answered _)

theorem keepsAct_satAct (i : Insn) (tid : Nat) (x : Thread) : KeepsAct (satAct i tid x) := by
  refine .run fun s t h => ?_
  dsimp only
  split
  · exact KeepsO.next (keeps_setThread _ _ (keeps_draw 24 h))
  · exact KeepsO.next (keeps_setThread _ _ h)

theorem keepsAct_opAct (i : Insn) (tid pc next : Nat) (x : Thread) (got : List Word) (u : State) :
    KeepsAct (opAct i tid pc next x got u) := by
  unfold opAct
  refine keepsAct_ite (.onThread _ _) (keepsAct_ite (.fault _ _) ?_)
  dsimp only
  split
  · exact .onThread _ _
  · split
    · exact .onThread _ _
    · refine keepsAct_ite (keepsAct_satAct _ _ _) ?_
      split
      · exact keepsAct_memAct _ _ _ _ _ _
      · split
        · rename_i h1
          exact keepsAct_ctlAct _ _ _ _ _ h1
        · cases h1 : sysAct i tid next x got u with
          | none => exact .fault _ _
          | some a => exact keepsAct_sysAct _ _ _ _ _ _ h1

theorem keepsAct_wordAct (tid : Nat) (code : List Byte) (got : List Word) (u : State) : KeepsAct (wordAct tid code got u).1 := by
  unfold wordAct
  extract_lets x
  rcases wordDecode x.form code with ⟨d, len⟩
  dsimp only
  split
  · exact keepsAct_opAct _ _ _ _ _ _ _
  · rename_i a b
    have ha := keepsAct_opAct a tid x.pc ((x.pc + len) % 2 ^ 32) x got u
    have hb := keepsAct_opAct b tid x.pc ((x.pc + len) % 2 ^ 32) x [] u
    generalize opAct a tid x.pc ((x.pc + len) % 2 ^ 32) x got u = A at *
    generalize opAct b tid x.pc ((x.pc + len) % 2 ^ 32) x [] u = B at *
    split
    · exact .unpredictable
    · split
      · refine .run fun s t h => ?_
        split
        · rename_i h1
          exact hb _ rfl _ _ (Keeps.ofO h1 (ha _ rfl _ _ h))
        · exact ha _ rfl _ _ h
      · exact hb
      · exact .fault _ _
      · exact ha
  · exact .unpredictable
  · exact .fault _ _

theorem keeps_runWord (tid : Nat) (code : List Byte) (got : List Word) {s t : State} (hk : Keeps s t) : KeepsO s (runWord tid code got t) := by
  have ha := keepsAct_wordAct tid code got t
  unfold runWord
  split
  · exact KeepsO.next (keeps_threadFault _ _ _ hk)
  · exact KeepsO.next (keeps_threadHavoc _ hk)
  · exact keeps_wordWait _ _ _ _ hk
  · rename_i h1
    rw [h1] at ha
    exact ha _ rfl _ _ (keeps_wordDone _ _ hk)

theorem keeps_issue (r : Row) (tid : Nat) {s t : State} (hk : Keeps s t) : KeepsO s (issue r tid t) := by
  unfold issue
  repeat' first
    | with_reducible first | assumption | apply KeepsO.next | apply KeepsO.fault | apply KeepsO.stay | apply keeps_stay | apply keeps_threadFault | apply keeps_runWord
    | with_reducible fail_if_no_progress (refine Keeps.same ?_ rfl rfl rfl)
    | ((try lift_lets); intro x; first | (refine (fun hx : Keeps s x => ?_) ?_; (on_goal 1 => clear_value x); (on_goal 2 => subst x)) | (have hf : ∀ a, x a = x a := fun _ => rfl; clear hf; subst x) | clear_value x | subst x)
    | with_reducible first | refine keeps_ite ?_ ?_ | refine keepsO_ite ?_ ?_
    | split
    | with_reducible first | refine Keeps.ofPair (by assumption) ?_ | refine Keeps.ofPair2 (by assumption) ?_ | refine Keeps.ofM (by assumption) ?_ | refine Keeps.ofMP (by assumption) ?_ | refine KeepsO.ofMO (by assumption) ?_ | refine Keeps.ofO (by assumption) ?_
    | dsimp (zeta := false) only
    | dsimp only

theorem keeps_needAnswer (tid : Nat) (n : Need) {s t : State} (hk : Keeps s t) : KeepsMO s (needAnswer tid n t) := by
  unfold needAnswer
  repeat' first
    | with_reducible first | assumption | apply KeepsMO.some | apply KeepsMO.none | apply KeepsO.next | apply KeepsO.fault | apply keeps_loadAnswer | apply keeps_ballocAnswer | apply keeps_faddAnswer | apply keeps_sendAnswer
    | with_reducible fail_if_no_progress (refine Keeps.same ?_ rfl rfl rfl)
    | ((try lift_lets); intro x; first | (refine (fun hx : Keeps s x => ?_) ?_; (on_goal 1 => clear_value x); (on_goal 2 => subst x)) | (have hf : ∀ a, x a = x a := fun _ => rfl; clear hf; subst x) | clear_value x | subst x)
    | split
    | with_reducible first | refine Keeps.ofPair (by assumption) ?_ | refine Keeps.ofPair2 (by assumption) ?_ | refine Keeps.ofM (by assumption) ?_ | refine Keeps.ofMP (by assumption) ?_ | refine KeepsO.ofMO (by assumption) ?_ | refine Keeps.ofO (by assumption) ?_
    | dsimp (zeta := false) only
    | dsimp only

theorem keeps_wordAnswer (tid : Nat) (r : WeftRead) (w : Word) {s t : State} (hk : Keeps s t) : KeepsO s (wordAnswer tid r w t) := by
  unfold wordAnswer
  repeat' first
    | with_reducible first | assumption | apply KeepsO.next | apply KeepsO.fault | apply KeepsO.stay | apply keeps_runWord

theorem keeps_readBusy (tid a : Nat) (r : WeftRead) {s t : State} (hk : Keeps s t) : KeepsO s (readBusy tid a r t) := by
  unfold readBusy
  repeat' first
    | with_reducible first | assumption | apply KeepsO.next | apply KeepsO.fault | apply KeepsO.stay | apply keeps_threadFault | apply keeps_wordAnswer | apply keeps_setThread
    | with_reducible fail_if_no_progress (refine Keeps.same ?_ rfl rfl rfl)
    | ((try lift_lets); intro x; first | (refine (fun hx : Keeps s x => ?_) ?_; (on_goal 1 => clear_value x); (on_goal 2 => subst x)) | (have hf : ∀ a, x a = x a := fun _ => rfl; clear hf; subst x) | clear_value x | subst x)
    | with_reducible first | refine keeps_ite ?_ ?_ | refine keepsO_ite ?_ ?_
    | split

theorem keeps_readEcc (a : Nat) {s t : State} (hk : Keeps s t) : Keeps s (readEcc a t) :=
  keeps_ite (keeps_ownerAction _ _ _ hk) hk

theorem keeps_execWeftReadResponse (tid : Nat) (ecc : Bool) {s t : State} (hk : Keeps s t) : KeepsO s (execWeftReadResponse tid ecc t) := by
  unfold execWeftReadResponse
  extract_lets x
  split
  · exact KeepsO.stay hk
  · refine keepsO_ite (KeepsO.stay hk) ?_
    split
    · refine keepsO_ite (keeps_readBusy _ _ _ hk) ?_
      split
      · exact KeepsO.stay hk
      · rename_i h1
        have hu := Keeps.ofO rfl (KeepsO.ofMO h1 (keeps_needAnswer _ _ hk))
        split
        · exact keepsO_ite (KeepsO.next (keeps_threadFault _ _ _ (keeps_readEcc _ hu))) (keeps_wordAnswer _ _ _ hu)
        · exact keeps_wordAnswer _ _ _ hu
      · rename_i h1
        exact KeepsO.ofMO h1 (keeps_needAnswer _ _ hk)
    · exact KeepsO.stay hk

theorem keeps_execWeftStoreResponse (tid i : Nat) {s t : State} (hk : Keeps s t) : KeepsO s (execWeftStoreResponse tid i t) := by
  unfold execWeftStoreResponse
  repeat' first
    | with_reducible first | assumption | apply KeepsO.next | apply KeepsO.fault | apply KeepsO.stay | apply keeps_stay | apply keeps_setThread | apply keeps_threadFault
    | with_reducible fail_if_no_progress (refine Keeps.same ?_ rfl rfl rfl)
    | ((try lift_lets); intro x; first | (refine (fun hx : Keeps s x => ?_) ?_; (on_goal 1 => clear_value x); (on_goal 2 => subst x)) | (have hf : ∀ a, x a = x a := fun _ => rfl; clear hf; subst x) | clear_value x | subst x)
    | with_reducible first | refine keeps_ite ?_ ?_ | refine keepsO_ite ?_ ?_
    | split
    | with_reducible first | refine Keeps.ofPair (by assumption) ?_ | refine Keeps.ofPair2 (by assumption) ?_ | refine Keeps.ofM (by assumption) ?_ | refine Keeps.ofMP (by assumption) ?_ | refine KeepsO.ofMO (by assumption) ?_ | refine Keeps.ofO (by assumption) ?_
    | dsimp (zeta := false) only
    | dsimp only

theorem keeps_execFenceComplete (tid : Nat) {s t : State} (hk : Keeps s t) : KeepsO s (execFenceComplete tid t) := by
  unfold execFenceComplete
  repeat' first
    | with_reducible first | assumption | apply KeepsO.next | apply KeepsO.fault | apply KeepsO.stay | apply keeps_stay | apply keeps_setThread
    | with_reducible fail_if_no_progress (refine Keeps.same ?_ rfl rfl rfl)
    | ((try lift_lets); intro x; first | (refine (fun hx : Keeps s x => ?_) ?_; (on_goal 1 => clear_value x); (on_goal 2 => subst x)) | (have hf : ∀ a, x a = x a := fun _ => rfl; clear hf; subst x) | clear_value x | subst x)
    | with_reducible first | refine keeps_ite ?_ ?_ | refine keepsO_ite ?_ ?_
    | split

end Sys2Proof.Machine
end

