-- ==== Sys2Proof/Laws/KeepsWhl.lean ====
section
/-!
SUPPORT. What Machine/Whl.lean keeps (Laws/Keeps.lean).
-/
namespace Sys2Proof.Machine
set_option linter.unusedTactic false
set_option linter.unreachableTactic false
set_option linter.unusedVariables false

theorem keeps_execPairedWord (tid : Nat) {s t : State} (hk : Keeps s t) : KeepsO s (execPairedWord tid t) := by
  unfold execPairedWord
  repeat' first
    | with_reducible first | assumption | apply KeepsO.next | apply KeepsO.fault | apply KeepsO.stay | apply keeps_issue

theorem keeps_execUndefinedOpcode (tid : Nat) {s t : State} (hk : Keeps s t) : KeepsO s (execUndefinedOpcode tid t) := by
  unfold execUndefinedOpcode
  repeat' first
    | with_reducible first | assumption | apply KeepsO.next | apply KeepsO.fault | apply KeepsO.stay | apply keeps_issue

theorem keeps_execWaitlk (tid : Nat) {s t : State} (hk : Keeps s t) : KeepsO s (execWaitlk tid t) := by
  unfold execWaitlk
  repeat' first
    | with_reducible first | assumption | apply KeepsO.next | apply KeepsO.fault | apply KeepsO.stay | apply keeps_issue

theorem keeps_execSleep (tid : Nat) {s t : State} (hk : Keeps s t) : KeepsO s (execSleep tid t) := by
  unfold execSleep
  repeat' first
    | with_reducible first | assumption | apply KeepsO.next | apply KeepsO.fault | apply KeepsO.stay | apply keeps_issue

theorem keeps_execMov (tid : Nat) {s t : State} (hk : Keeps s t) : KeepsO s (execMov tid t) := by
  unfold execMov
  repeat' first
    | with_reducible first | assumption | apply KeepsO.next | apply KeepsO.fault | apply KeepsO.stay | apply keeps_issue

theorem keeps_execAdd (tid : Nat) {s t : State} (hk : Keeps s t) : KeepsO s (execAdd tid t) := by
  unfold execAdd
  repeat' first
    | with_reducible first | assumption | apply KeepsO.next | apply KeepsO.fault | apply KeepsO.stay | apply keeps_issue

theorem keeps_execAdc (tid : Nat) {s t : State} (hk : Keeps s t) : KeepsO s (execAdc tid t) := by
  unfold execAdc
  repeat' first
    | with_reducible first | assumption | apply KeepsO.next | apply KeepsO.fault | apply KeepsO.stay | apply keeps_issue

theorem keeps_execSub (tid : Nat) {s t : State} (hk : Keeps s t) : KeepsO s (execSub tid t) := by
  unfold execSub
  repeat' first
    | with_reducible first | assumption | apply KeepsO.next | apply KeepsO.fault | apply KeepsO.stay | apply keeps_issue

theorem keeps_execSbc (tid : Nat) {s t : State} (hk : Keeps s t) : KeepsO s (execSbc tid t) := by
  unfold execSbc
  repeat' first
    | with_reducible first | assumption | apply KeepsO.next | apply KeepsO.fault | apply KeepsO.stay | apply keeps_issue

theorem keeps_execAnd (tid : Nat) {s t : State} (hk : Keeps s t) : KeepsO s (execAnd tid t) := by
  unfold execAnd
  repeat' first
    | with_reducible first | assumption | apply KeepsO.next | apply KeepsO.fault | apply KeepsO.stay | apply keeps_issue

theorem keeps_execOr (tid : Nat) {s t : State} (hk : Keeps s t) : KeepsO s (execOr tid t) := by
  unfold execOr
  repeat' first
    | with_reducible first | assumption | apply KeepsO.next | apply KeepsO.fault | apply KeepsO.stay | apply keeps_issue

theorem keeps_execXor (tid : Nat) {s t : State} (hk : Keeps s t) : KeepsO s (execXor tid t) := by
  unfold execXor
  repeat' first
    | with_reducible first | assumption | apply KeepsO.next | apply KeepsO.fault | apply KeepsO.stay | apply keeps_issue

theorem keeps_execBic (tid : Nat) {s t : State} (hk : Keeps s t) : KeepsO s (execBic tid t) := by
  unfold execBic
  repeat' first
    | with_reducible first | assumption | apply KeepsO.next | apply KeepsO.fault | apply KeepsO.stay | apply keeps_issue

theorem keeps_execShl (tid : Nat) {s t : State} (hk : Keeps s t) : KeepsO s (execShl tid t) := by
  unfold execShl
  repeat' first
    | with_reducible first | assumption | apply KeepsO.next | apply KeepsO.fault | apply KeepsO.stay | apply keeps_issue

theorem keeps_execShr (tid : Nat) {s t : State} (hk : Keeps s t) : KeepsO s (execShr tid t) := by
  unfold execShr
  repeat' first
    | with_reducible first | assumption | apply KeepsO.next | apply KeepsO.fault | apply KeepsO.stay | apply keeps_issue

theorem keeps_execSar (tid : Nat) {s t : State} (hk : Keeps s t) : KeepsO s (execSar tid t) := by
  unfold execSar
  repeat' first
    | with_reducible first | assumption | apply KeepsO.next | apply KeepsO.fault | apply KeepsO.stay | apply keeps_issue

theorem keeps_execRor (tid : Nat) {s t : State} (hk : Keeps s t) : KeepsO s (execRor tid t) := by
  unfold execRor
  repeat' first
    | with_reducible first | assumption | apply KeepsO.next | apply KeepsO.fault | apply KeepsO.stay | apply keeps_issue

theorem keeps_execMin (tid : Nat) {s t : State} (hk : Keeps s t) : KeepsO s (execMin tid t) := by
  unfold execMin
  repeat' first
    | with_reducible first | assumption | apply KeepsO.next | apply KeepsO.fault | apply KeepsO.stay | apply keeps_issue

theorem keeps_execMax (tid : Nat) {s t : State} (hk : Keeps s t) : KeepsO s (execMax tid t) := by
  unfold execMax
  repeat' first
    | with_reducible first | assumption | apply KeepsO.next | apply KeepsO.fault | apply KeepsO.stay | apply keeps_issue

theorem keeps_execMinu (tid : Nat) {s t : State} (hk : Keeps s t) : KeepsO s (execMinu tid t) := by
  unfold execMinu
  repeat' first
    | with_reducible first | assumption | apply KeepsO.next | apply KeepsO.fault | apply KeepsO.stay | apply keeps_issue

theorem keeps_execMaxu (tid : Nat) {s t : State} (hk : Keeps s t) : KeepsO s (execMaxu tid t) := by
  unfold execMaxu
  repeat' first
    | with_reducible first | assumption | apply KeepsO.next | apply KeepsO.fault | apply KeepsO.stay | apply keeps_issue

theorem keeps_execCmp (tid : Nat) {s t : State} (hk : Keeps s t) : KeepsO s (execCmp tid t) := by
  unfold execCmp
  repeat' first
    | with_reducible first | assumption | apply KeepsO.next | apply KeepsO.fault | apply KeepsO.stay | apply keeps_issue

theorem keeps_execTst (tid : Nat) {s t : State} (hk : Keeps s t) : KeepsO s (execTst tid t) := by
  unfold execTst
  repeat' first
    | with_reducible first | assumption | apply KeepsO.next | apply KeepsO.fault | apply KeepsO.stay | apply keeps_issue

theorem keeps_execClz (tid : Nat) {s t : State} (hk : Keeps s t) : KeepsO s (execClz tid t) := by
  unfold execClz
  repeat' first
    | with_reducible first | assumption | apply KeepsO.next | apply KeepsO.fault | apply KeepsO.stay | apply keeps_issue

theorem keeps_execBswap (tid : Nat) {s t : State} (hk : Keeps s t) : KeepsO s (execBswap tid t) := by
  unfold execBswap
  repeat' first
    | with_reducible first | assumption | apply KeepsO.next | apply KeepsO.fault | apply KeepsO.stay | apply keeps_issue

theorem keeps_execSextb (tid : Nat) {s t : State} (hk : Keeps s t) : KeepsO s (execSextb tid t) := by
  unfold execSextb
  repeat' first
    | with_reducible first | assumption | apply KeepsO.next | apply KeepsO.fault | apply KeepsO.stay | apply keeps_issue

theorem keeps_execSexth (tid : Nat) {s t : State} (hk : Keeps s t) : KeepsO s (execSexth tid t) := by
  unfold execSexth
  repeat' first
    | with_reducible first | assumption | apply KeepsO.next | apply KeepsO.fault | apply KeepsO.stay | apply keeps_issue

theorem keeps_execZextb (tid : Nat) {s t : State} (hk : Keeps s t) : KeepsO s (execZextb tid t) := by
  unfold execZextb
  repeat' first
    | with_reducible first | assumption | apply KeepsO.next | apply KeepsO.fault | apply KeepsO.stay | apply keeps_issue

theorem keeps_execZexth (tid : Nat) {s t : State} (hk : Keeps s t) : KeepsO s (execZexth tid t) := by
  unfold execZexth
  repeat' first
    | with_reducible first | assumption | apply KeepsO.next | apply KeepsO.fault | apply KeepsO.stay | apply keeps_issue

theorem keeps_execNeg (tid : Nat) {s t : State} (hk : Keeps s t) : KeepsO s (execNeg tid t) := by
  unfold execNeg
  repeat' first
    | with_reducible first | assumption | apply KeepsO.next | apply KeepsO.fault | apply KeepsO.stay | apply keeps_issue

theorem keeps_execNot (tid : Nat) {s t : State} (hk : Keeps s t) : KeepsO s (execNot tid t) := by
  unfold execNot
  repeat' first
    | with_reducible first | assumption | apply KeepsO.next | apply KeepsO.fault | apply KeepsO.stay | apply keeps_issue

theorem keeps_execMovi (tid : Nat) {s t : State} (hk : Keeps s t) : KeepsO s (execMovi tid t) := by
  unfold execMovi
  repeat' first
    | with_reducible first | assumption | apply KeepsO.next | apply KeepsO.fault | apply KeepsO.stay | apply keeps_issue

theorem keeps_execMovhi (tid : Nat) {s t : State} (hk : Keeps s t) : KeepsO s (execMovhi tid t) := by
  unfold execMovhi
  repeat' first
    | with_reducible first | assumption | apply KeepsO.next | apply KeepsO.fault | apply KeepsO.stay | apply keeps_issue

theorem keeps_execAddi (tid : Nat) {s t : State} (hk : Keeps s t) : KeepsO s (execAddi tid t) := by
  unfold execAddi
  repeat' first
    | with_reducible first | assumption | apply KeepsO.next | apply KeepsO.fault | apply KeepsO.stay | apply keeps_issue

theorem keeps_execAndi (tid : Nat) {s t : State} (hk : Keeps s t) : KeepsO s (execAndi tid t) := by
  unfold execAndi
  repeat' first
    | with_reducible first | assumption | apply KeepsO.next | apply KeepsO.fault | apply KeepsO.stay | apply keeps_issue

theorem keeps_execOri (tid : Nat) {s t : State} (hk : Keeps s t) : KeepsO s (execOri tid t) := by
  unfold execOri
  repeat' first
    | with_reducible first | assumption | apply KeepsO.next | apply KeepsO.fault | apply KeepsO.stay | apply keeps_issue

theorem keeps_execXori (tid : Nat) {s t : State} (hk : Keeps s t) : KeepsO s (execXori tid t) := by
  unfold execXori
  repeat' first
    | with_reducible first | assumption | apply KeepsO.next | apply KeepsO.fault | apply KeepsO.stay | apply keeps_issue

theorem keeps_execShli (tid : Nat) {s t : State} (hk : Keeps s t) : KeepsO s (execShli tid t) := by
  unfold execShli
  repeat' first
    | with_reducible first | assumption | apply KeepsO.next | apply KeepsO.fault | apply KeepsO.stay | apply keeps_issue

theorem keeps_execShri (tid : Nat) {s t : State} (hk : Keeps s t) : KeepsO s (execShri tid t) := by
  unfold execShri
  repeat' first
    | with_reducible first | assumption | apply KeepsO.next | apply KeepsO.fault | apply KeepsO.stay | apply keeps_issue

theorem keeps_execSari (tid : Nat) {s t : State} (hk : Keeps s t) : KeepsO s (execSari tid t) := by
  unfold execSari
  repeat' first
    | with_reducible first | assumption | apply KeepsO.next | apply KeepsO.fault | apply KeepsO.stay | apply keeps_issue

theorem keeps_execRori (tid : Nat) {s t : State} (hk : Keeps s t) : KeepsO s (execRori tid t) := by
  unfold execRori
  repeat' first
    | with_reducible first | assumption | apply KeepsO.next | apply KeepsO.fault | apply KeepsO.stay | apply keeps_issue

theorem keeps_execCmpi (tid : Nat) {s t : State} (hk : Keeps s t) : KeepsO s (execCmpi tid t) := by
  unfold execCmpi
  repeat' first
    | with_reducible first | assumption | apply KeepsO.next | apply KeepsO.fault | apply KeepsO.stay | apply keeps_issue

theorem keeps_execTsti (tid : Nat) {s t : State} (hk : Keeps s t) : KeepsO s (execTsti tid t) := by
  unfold execTsti
  repeat' first
    | with_reducible first | assumption | apply KeepsO.next | apply KeepsO.fault | apply KeepsO.stay | apply keeps_issue

theorem keeps_execExtu (tid : Nat) {s t : State} (hk : Keeps s t) : KeepsO s (execExtu tid t) := by
  unfold execExtu
  repeat' first
    | with_reducible first | assumption | apply KeepsO.next | apply KeepsO.fault | apply KeepsO.stay | apply keeps_issue

theorem keeps_execIns (tid : Nat) {s t : State} (hk : Keeps s t) : KeepsO s (execIns tid t) := by
  unfold execIns
  repeat' first
    | with_reducible first | assumption | apply KeepsO.next | apply KeepsO.fault | apply KeepsO.stay | apply keeps_issue

theorem keeps_execBr (tid : Nat) {s t : State} (hk : Keeps s t) : KeepsO s (execBr tid t) := by
  unfold execBr
  repeat' first
    | with_reducible first | assumption | apply KeepsO.next | apply KeepsO.fault | apply KeepsO.stay | apply keeps_issue

theorem keeps_execCall (tid : Nat) {s t : State} (hk : Keeps s t) : KeepsO s (execCall tid t) := by
  unfold execCall
  repeat' first
    | with_reducible first | assumption | apply KeepsO.next | apply KeepsO.fault | apply KeepsO.stay | apply keeps_issue

theorem keeps_execBc (tid : Nat) {s t : State} (hk : Keeps s t) : KeepsO s (execBc tid t) := by
  unfold execBc
  repeat' first
    | with_reducible first | assumption | apply KeepsO.next | apply KeepsO.fault | apply KeepsO.stay | apply keeps_issue

theorem keeps_execBf (tid : Nat) {s t : State} (hk : Keeps s t) : KeepsO s (execBf tid t) := by
  unfold execBf
  repeat' first
    | with_reducible first | assumption | apply KeepsO.next | apply KeepsO.fault | apply KeepsO.stay | apply keeps_issue

theorem keeps_execJ (tid : Nat) {s t : State} (hk : Keeps s t) : KeepsO s (execJ tid t) := by
  unfold execJ
  repeat' first
    | with_reducible first | assumption | apply KeepsO.next | apply KeepsO.fault | apply KeepsO.stay | apply keeps_issue

theorem keeps_execJl (tid : Nat) {s t : State} (hk : Keeps s t) : KeepsO s (execJl tid t) := by
  unfold execJl
  repeat' first
    | with_reducible first | assumption | apply KeepsO.next | apply KeepsO.fault | apply KeepsO.stay | apply keeps_issue

theorem keeps_execJx (tid : Nat) {s t : State} (hk : Keeps s t) : KeepsO s (execJx tid t) := by
  unfold execJx
  repeat' first
    | with_reducible first | assumption | apply KeepsO.next | apply KeepsO.fault | apply KeepsO.stay | apply keeps_issue

theorem keeps_execJxl (tid : Nat) {s t : State} (hk : Keeps s t) : KeepsO s (execJxl tid t) := by
  unfold execJxl
  repeat' first
    | with_reducible first | assumption | apply KeepsO.next | apply KeepsO.fault | apply KeepsO.stay | apply keeps_issue

theorem keeps_execRtx (tid : Nat) {s t : State} (hk : Keeps s t) : KeepsO s (execRtx tid t) := by
  unfold execRtx
  repeat' first
    | with_reducible first | assumption | apply KeepsO.next | apply KeepsO.fault | apply KeepsO.stay | apply keeps_issue

theorem keeps_execBnz (tid : Nat) {s t : State} (hk : Keeps s t) : KeepsO s (execBnz tid t) := by
  unfold execBnz
  repeat' first
    | with_reducible first | assumption | apply KeepsO.next | apply KeepsO.fault | apply KeepsO.stay | apply keeps_issue

theorem keeps_execDbnz (tid : Nat) {s t : State} (hk : Keeps s t) : KeepsO s (execDbnz tid t) := by
  unfold execDbnz
  repeat' first
    | with_reducible first | assumption | apply KeepsO.next | apply KeepsO.fault | apply KeepsO.stay | apply keeps_issue

theorem keeps_execLdb (tid : Nat) {s t : State} (hk : Keeps s t) : KeepsO s (execLdb tid t) := by
  unfold execLdb
  repeat' first
    | with_reducible first | assumption | apply KeepsO.next | apply KeepsO.fault | apply KeepsO.stay | apply keeps_issue

theorem keeps_execLdbu (tid : Nat) {s t : State} (hk : Keeps s t) : KeepsO s (execLdbu tid t) := by
  unfold execLdbu
  repeat' first
    | with_reducible first | assumption | apply KeepsO.next | apply KeepsO.fault | apply KeepsO.stay | apply keeps_issue

theorem keeps_execLdh (tid : Nat) {s t : State} (hk : Keeps s t) : KeepsO s (execLdh tid t) := by
  unfold execLdh
  repeat' first
    | with_reducible first | assumption | apply KeepsO.next | apply KeepsO.fault | apply KeepsO.stay | apply keeps_issue

theorem keeps_execLdhu (tid : Nat) {s t : State} (hk : Keeps s t) : KeepsO s (execLdhu tid t) := by
  unfold execLdhu
  repeat' first
    | with_reducible first | assumption | apply KeepsO.next | apply KeepsO.fault | apply KeepsO.stay | apply keeps_issue

theorem keeps_execLdw (tid : Nat) {s t : State} (hk : Keeps s t) : KeepsO s (execLdw tid t) := by
  unfold execLdw
  repeat' first
    | with_reducible first | assumption | apply KeepsO.next | apply KeepsO.fault | apply KeepsO.stay | apply keeps_issue

theorem keeps_execStb (tid : Nat) {s t : State} (hk : Keeps s t) : KeepsO s (execStb tid t) := by
  unfold execStb
  repeat' first
    | with_reducible first | assumption | apply KeepsO.next | apply KeepsO.fault | apply KeepsO.stay | apply keeps_issue

theorem keeps_execSth (tid : Nat) {s t : State} (hk : Keeps s t) : KeepsO s (execSth tid t) := by
  unfold execSth
  repeat' first
    | with_reducible first | assumption | apply KeepsO.next | apply KeepsO.fault | apply KeepsO.stay | apply keeps_issue

theorem keeps_execStw (tid : Nat) {s t : State} (hk : Keeps s t) : KeepsO s (execStw tid t) := by
  unfold execStw
  repeat' first
    | with_reducible first | assumption | apply KeepsO.next | apply KeepsO.fault | apply KeepsO.stay | apply keeps_issue

theorem keeps_execLdhn (tid : Nat) {s t : State} (hk : Keeps s t) : KeepsO s (execLdhn tid t) := by
  unfold execLdhn
  repeat' first
    | with_reducible first | assumption | apply KeepsO.next | apply KeepsO.fault | apply KeepsO.stay | apply keeps_issue

theorem keeps_execLdhun (tid : Nat) {s t : State} (hk : Keeps s t) : KeepsO s (execLdhun tid t) := by
  unfold execLdhun
  repeat' first
    | with_reducible first | assumption | apply KeepsO.next | apply KeepsO.fault | apply KeepsO.stay | apply keeps_issue

theorem keeps_execLdwn (tid : Nat) {s t : State} (hk : Keeps s t) : KeepsO s (execLdwn tid t) := by
  unfold execLdwn
  repeat' first
    | with_reducible first | assumption | apply KeepsO.next | apply KeepsO.fault | apply KeepsO.stay | apply keeps_issue

theorem keeps_execSthn (tid : Nat) {s t : State} (hk : Keeps s t) : KeepsO s (execSthn tid t) := by
  unfold execSthn
  repeat' first
    | with_reducible first | assumption | apply KeepsO.next | apply KeepsO.fault | apply KeepsO.stay | apply keeps_issue

theorem keeps_execStwn (tid : Nat) {s t : State} (hk : Keeps s t) : KeepsO s (execStwn tid t) := by
  unfold execStwn
  repeat' first
    | with_reducible first | assumption | apply KeepsO.next | apply KeepsO.fault | apply KeepsO.stay | apply keeps_issue

theorem keeps_execPld (tid : Nat) {s t : State} (hk : Keeps s t) : KeepsO s (execPld tid t) := by
  unfold execPld
  repeat' first
    | with_reducible first | assumption | apply KeepsO.next | apply KeepsO.fault | apply KeepsO.stay | apply keeps_issue

theorem keeps_execPst (tid : Nat) {s t : State} (hk : Keeps s t) : KeepsO s (execPst tid t) := by
  unfold execPst
  repeat' first
    | with_reducible first | assumption | apply KeepsO.next | apply KeepsO.fault | apply KeepsO.stay | apply keeps_issue

theorem keeps_execPush (tid : Nat) {s t : State} (hk : Keeps s t) : KeepsO s (execPush tid t) := by
  unfold execPush
  repeat' first
    | with_reducible first | assumption | apply KeepsO.next | apply KeepsO.fault | apply KeepsO.stay | apply keeps_issue

theorem keeps_execPop (tid : Nat) {s t : State} (hk : Keeps s t) : KeepsO s (execPop tid t) := by
  unfold execPop
  repeat' first
    | with_reducible first | assumption | apply KeepsO.next | apply KeepsO.fault | apply KeepsO.stay | apply keeps_issue

theorem keeps_execMul (tid : Nat) {s t : State} (hk : Keeps s t) : KeepsO s (execMul tid t) := by
  unfold execMul
  repeat' first
    | with_reducible first | assumption | apply KeepsO.next | apply KeepsO.fault | apply KeepsO.stay | apply keeps_issue

theorem keeps_execMulu (tid : Nat) {s t : State} (hk : Keeps s t) : KeepsO s (execMulu tid t) := by
  unfold execMulu
  repeat' first
    | with_reducible first | assumption | apply KeepsO.next | apply KeepsO.fault | apply KeepsO.stay | apply keeps_issue

theorem keeps_execMac (tid : Nat) {s t : State} (hk : Keeps s t) : KeepsO s (execMac tid t) := by
  unfold execMac
  repeat' first
    | with_reducible first | assumption | apply KeepsO.next | apply KeepsO.fault | apply KeepsO.stay | apply keeps_issue

theorem keeps_execMacu (tid : Nat) {s t : State} (hk : Keeps s t) : KeepsO s (execMacu tid t) := by
  unfold execMacu
  repeat' first
    | with_reducible first | assumption | apply KeepsO.next | apply KeepsO.fault | apply KeepsO.stay | apply keeps_issue

theorem keeps_execMsu (tid : Nat) {s t : State} (hk : Keeps s t) : KeepsO s (execMsu tid t) := by
  unfold execMsu
  repeat' first
    | with_reducible first | assumption | apply KeepsO.next | apply KeepsO.fault | apply KeepsO.stay | apply keeps_issue

theorem keeps_execRdacc (tid : Nat) {s t : State} (hk : Keeps s t) : KeepsO s (execRdacc tid t) := by
  unfold execRdacc
  repeat' first
    | with_reducible first | assumption | apply KeepsO.next | apply KeepsO.fault | apply KeepsO.stay | apply keeps_issue

theorem keeps_execQadd (tid : Nat) {s t : State} (hk : Keeps s t) : KeepsO s (execQadd tid t) := by
  unfold execQadd
  repeat' first
    | with_reducible first | assumption | apply KeepsO.next | apply KeepsO.fault | apply KeepsO.stay | apply keeps_issue

theorem keeps_execQsub (tid : Nat) {s t : State} (hk : Keeps s t) : KeepsO s (execQsub tid t) := by
  unfold execQsub
  repeat' first
    | with_reducible first | assumption | apply KeepsO.next | apply KeepsO.fault | apply KeepsO.stay | apply keeps_issue

theorem keeps_execQshl (tid : Nat) {s t : State} (hk : Keeps s t) : KeepsO s (execQshl tid t) := by
  unfold execQshl
  repeat' first
    | with_reducible first | assumption | apply KeepsO.next | apply KeepsO.fault | apply KeepsO.stay | apply keeps_issue

theorem keeps_execQabs (tid : Nat) {s t : State} (hk : Keeps s t) : KeepsO s (execQabs tid t) := by
  unfold execQabs
  repeat' first
    | with_reducible first | assumption | apply KeepsO.next | apply KeepsO.fault | apply KeepsO.stay | apply keeps_issue

theorem keeps_execQneg (tid : Nat) {s t : State} (hk : Keeps s t) : KeepsO s (execQneg tid t) := by
  unfold execQneg
  repeat' first
    | with_reducible first | assumption | apply KeepsO.next | apply KeepsO.fault | apply KeepsO.stay | apply keeps_issue

theorem keeps_execTget (tid : Nat) {s t : State} (hk : Keeps s t) : KeepsO s (execTget tid t) := by
  unfold execTget
  repeat' first
    | with_reducible first | assumption | apply KeepsO.next | apply KeepsO.fault | apply KeepsO.stay | apply keeps_issue

theorem keeps_execTdone (tid : Nat) {s t : State} (hk : Keeps s t) : KeepsO s (execTdone tid t) := by
  unfold execTdone
  repeat' first
    | with_reducible first | assumption | apply KeepsO.next | apply KeepsO.fault | apply KeepsO.stay | apply keeps_issue

theorem keeps_execSend (tid : Nat) {s t : State} (hk : Keeps s t) : KeepsO s (execSend tid t) := by
  unfold execSend
  repeat' first
    | with_reducible first | assumption | apply KeepsO.next | apply KeepsO.fault | apply KeepsO.stay | apply keeps_issue

theorem keeps_execBalloc (tid : Nat) {s t : State} (hk : Keeps s t) : KeepsO s (execBalloc tid t) := by
  unfold execBalloc
  repeat' first
    | with_reducible first | assumption | apply KeepsO.next | apply KeepsO.fault | apply KeepsO.stay | apply keeps_issue

theorem keeps_execBfree (tid : Nat) {s t : State} (hk : Keeps s t) : KeepsO s (execBfree tid t) := by
  unfold execBfree
  repeat' first
    | with_reducible first | assumption | apply KeepsO.next | apply KeepsO.fault | apply KeepsO.stay | apply keeps_issue

theorem keeps_execFadd (tid : Nat) {s t : State} (hk : Keeps s t) : KeepsO s (execFadd tid t) := by
  unfold execFadd
  repeat' first
    | with_reducible first | assumption | apply KeepsO.next | apply KeepsO.fault | apply KeepsO.stay | apply keeps_issue

theorem keeps_execLkup (tid : Nat) {s t : State} (hk : Keeps s t) : KeepsO s (execLkup tid t) := by
  unfold execLkup
  repeat' first
    | with_reducible first | assumption | apply KeepsO.next | apply KeepsO.fault | apply KeepsO.stay | apply keeps_issue

theorem keeps_execNop (tid : Nat) {s t : State} (hk : Keeps s t) : KeepsO s (execNop tid t) := by
  unfold execNop
  repeat' first
    | with_reducible first | assumption | apply KeepsO.next | apply KeepsO.fault | apply KeepsO.stay | apply keeps_issue

theorem keeps_execMfs (tid : Nat) {s t : State} (hk : Keeps s t) : KeepsO s (execMfs tid t) := by
  unfold execMfs
  repeat' first
    | with_reducible first | assumption | apply KeepsO.next | apply KeepsO.fault | apply KeepsO.stay | apply keeps_issue

theorem keeps_execMts (tid : Nat) {s t : State} (hk : Keeps s t) : KeepsO s (execMts tid t) := by
  unfold execMts
  repeat' first
    | with_reducible first | assumption | apply KeepsO.next | apply KeepsO.fault | apply KeepsO.stay | apply keeps_issue

theorem keeps_execFence (tid : Nat) {s t : State} (hk : Keeps s t) : KeepsO s (execFence tid t) := by
  unfold execFence
  repeat' first
    | with_reducible first | assumption | apply KeepsO.next | apply KeepsO.fault | apply KeepsO.stay | apply keeps_issue

theorem keeps_execTrap (tid : Nat) {s t : State} (hk : Keeps s t) : KeepsO s (execTrap tid t) := by
  unfold execTrap
  repeat' first
    | with_reducible first | assumption | apply KeepsO.next | apply KeepsO.fault | apply KeepsO.stay | apply keeps_issue

end Sys2Proof.Machine
end

