-- ==== Sys2Proof/Laws/KeepsExec.lean ====
section
/-!
SUPPORT. What every command keeps (Laws/Keeps.lean), and the step.
-/
namespace Sys2Proof.Machine

/-- Every command answers a next state; it leaves the queue alone, keeps registers and memories canonical and counts free values up. -/
theorem keeps_exec (i : Instr) {s t : State} (hk : Keeps s t) : KeepsO s (exec i t) := by
  cases i with
  | registerWrite x0 x1 x2 x3 x4 => exact keeps_execRegisterWrite x0 x1 x2 x3 x4 hk
  | splitLoRead x0 x1 x2 => exact keeps_execSplitLoRead x0 x1 x2 hk
  | splitLoWrite x0 x1 x2 x3 => exact keeps_execSplitLoWrite x0 x1 x2 x3 hk
  | splitHiWrite x0 x1 x2 x3 => exact keeps_execSplitHiWrite x0 x1 x2 x3 hk
  | rcRead x0 x1 x2 x3 => exact keeps_execRcRead x0 x1 x2 x3 hk
  | w1cWrite x0 x1 x2 x3 x4 => exact keeps_execW1cWrite x0 x1 x2 x3 x4 hk
  | hostBar2Write x0 x1 x2 => exact keeps_execHostBar2Write x2 x0 x1 hk
  | hostBar2Read x0 x1 x2 => exact keeps_execHostBar2Read x2 x0 x1 hk
  | linkDownFlush x0 => exact keeps_execLinkDownFlush x0 hk
  | t0OpportunityTimeout => exact keeps_execT0OpportunityTimeout hk
  | egressStallFlush x0 x1 => exact keeps_execEgressStallFlush x0 x1 hk
  | weftFlitReceive x0 x1 x2 x3 x4 => exact keeps_execWeftFlitReceive x0 x1 x3 x4 x2 hk
  | linkLoopTestDone x0 x1 x2 => exact keeps_execLinkLoopTestDone x0 x1 x2 hk
  | oscStop x0 => exact keeps_execOscStop x0 hk
  | refclkLoss => exact keeps_execRefclkLoss hk
  | refclkPresent => exact keeps_execRefclkPresent hk
  | pllLock x0 => exact keeps_execPllLock x0 hk
  | pllUnlock x0 => exact keeps_execPllUnlock x0 hk
  | pllRelockTimeout x0 => exact keeps_execPllRelockTimeout x0 hk
  | refclkFreqError => exact keeps_execRefclkFreqError hk
  | slowThresholdCross x0 x1 => exact keeps_execSlowThresholdCross x0 x1 hk
  | slowClear x0 => exact keeps_execSlowClear x0 hk
  | timeBroadcast x0 => exact keeps_execTimeBroadcast x0 hk
  | timeMessageTimeout x0 => exact keeps_execTimeMessageTimeout x0 hk
  | timeRateWrite x0 x1 => exact keeps_execTimeRateWrite x0 x1 hk
  | timeSlewWrite x0 x1 => exact keeps_execTimeSlewWrite x0 x1 hk
  | timeStep x0 x1 => exact keeps_execTimeStep x0 x1 hk
  | holdoverTimeout => exact keeps_execHoldoverTimeout hk
  | pornFall x0 x1 x2 => exact keeps_execPornFall x0 x1 x2 hk
  | brownOut x0 x1 x2 => exact keeps_execBrownOut x0 x1 x2 hk
  | resetEnd x0 x1 x2 => exact keeps_execResetEnd x0 x1 x2 hk
  | stage1Entry x0 => exact keeps_execStage1Entry x0 hk
  | warp x0 x1 => exact keeps_execWarp x0 x1 hk
  | loadWakeDone x0 => exact keeps_execLoadWakeDone x0 hk
  | loadStreamDone => exact keeps_execLoadStreamDone hk
  | loadVerifyDone => exact keeps_execLoadVerifyDone hk
  | loadApplyDone x0 => exact keeps_execLoadApplyDone x0 hk
  | unclampOutputs x0 => exact keeps_execUnclampOutputs x0 hk
  | unclampWriteEnables x0 => exact keeps_execUnclampWriteEnables x0 hk
  | unclampResets x0 => exact keeps_execUnclampResets x0 hk
  | unclampStepDone => exact keeps_execUnclampStepDone hk
  | weave x0 x1 => exact keeps_execWeave x0 x1 hk
  | handover x0 => exact keeps_execHandover x0 hk
  | powerFull x0 x1 x2 => exact keeps_execPowerFull x0 x1 x2 hk
  | powerQuiet x0 x1 x2 => exact keeps_execPowerQuiet x0 x1 x2 hk
  | powerNet x0 x1 => exact keeps_execPowerNet x0 x1 hk
  | powerStandby x0 x1 => exact keeps_execPowerStandby x0 x1 hk
  | powerService x0 x1 => exact keeps_execPowerService x0 x1 hk
  | powerReset x0 x1 => exact keeps_execPowerReset x0 x1 hk
  | powerTransitionDone => exact keeps_execPowerTransitionDone hk
  | netReloadDone x0 x1 => exact keeps_execNetReloadDone x0 x1 hk
  | gatesReturnToSafe x0 => exact keeps_execGatesReturnToSafe x0 hk
  | standbyWakeFrame x0 x1 x2 => exact keeps_execStandbyWakeFrame x0 x1 x2 hk
  | pushWord x0 x1 => exact keeps_execPushWord x0 x1 hk
  | pushTimeout => exact keeps_execPushTimeout hk
  | keyprogBurn x0 x1 => exact keeps_execKeyprogBurn x0 x1 hk
  | keyprogBurnDone => exact keeps_execKeyprogBurnDone hk
  | rollbackAdvance x0 x1 => exact keeps_execRollbackAdvance x0 x1 hk
  | rollbackBurnDone => exact keeps_execRollbackBurnDone hk
  | patchStart x0 x1 => exact keeps_execPatchStart x0 x1 hk
  | patchVerifyDone x0 x1 => exact keeps_execPatchVerifyDone x0 x1 hk
  | patchReadbackDone x0 x1 => exact keeps_execPatchReadbackDone x0 x1 hk
  | corePatchIdleTimeout => exact keeps_execCorePatchIdleTimeout hk
  | patchEnd => exact keeps_execPatchEnd hk
  | reserveRewriteDone x0 x1 => exact keeps_execReserveRewriteDone x0 x1 hk
  | panelRequest x0 x1 x2 => exact keeps_execPanelRequest x0 x1 x2 hk
  | panelResponse x0 x1 x2 => exact keeps_execPanelResponse x0 x1 x2 hk
  | panelRequestTimeout x0 x1 => exact keeps_execPanelRequestTimeout x0 x1 hk
  | portReadyAssert x0 x1 => exact keeps_execPortReadyAssert x0 x1 hk
  | stallRequestTimeout x0 => exact keeps_execStallRequestTimeout x0 hk
  | bramEccError x0 x1 x2 x3 => exact keeps_execBramEccError x0 x1 x2 x3 hk
  | userNotice x0 => exact keeps_execUserNotice x0 hk
  | readbackPassDone x0 x1 x2 => exact keeps_execReadbackPassDone x0 x1 x2 hk
  | frameReceive x0 x1 x2 x3 => exact keeps_execFrameReceive x0 x1 x2 x3 hk
  | admissionHoldTimeout x0 x1 => exact keeps_execAdmissionHoldTimeout x0 x1 hk
  | linkDown x0 => exact keeps_execLinkDown x0 hk
  | linkUp x0 x1 => exact keeps_execLinkUp x0 x1 hk
  | transmitSelection x0 x1 => exact keeps_execTransmitSelection x0 x1 hk
  | frameTxDone x0 x1 => exact keeps_execFrameTxDone x0 x1 hk
  | txtsTagRead x0 x1 => exact keeps_execTxtsTagRead x0 x1 hk
  | tasChange x0 x1 x2 => exact keeps_execTasChange x0 x1 x2 hk
  | tasConfigChange x0 => exact keeps_execTasConfigChange x0 hk
  | gateEntryAdvance x0 => exact keeps_execGateEntryAdvance x0 hk
  | streamGateChange x0 x1 x2 => exact keeps_execStreamGateChange x0 x1 x2 hk
  | fpVerifyDone x0 x1 => exact keeps_execFpVerifyDone x0 x1 hk
  | recoveryResetTimeout x0 => exact keeps_execRecoveryResetTimeout x0 hk
  | mdioC22Write x0 x1 => exact keeps_execMdioC22Write x0 x1 hk
  | mdioC22Read x0 x1 => exact keeps_execMdioC22Read x0 x1 hk
  | mdioC45Address x0 x1 => exact keeps_execMdioC45Address x0 x1 hk
  | mdioC45Write x0 x1 => exact keeps_execMdioC45Write x0 x1 hk
  | mdioC45Read x0 x1 => exact keeps_execMdioC45Read x0 x1 hk
  | mdioC45ReadIncrement x0 x1 => exact keeps_execMdioC45ReadIncrement x0 x1 hk
  | mdioFrameDone x0 => exact keeps_execMdioFrameDone x0 hk
  | ruleWrite x0 x1 => exact keeps_execRuleWrite x0 x1 hk
  | ruleInvalidate x0 x1 => exact keeps_execRuleInvalidate x0 x1 hk
  | ruleCmdDone => exact keeps_execRuleCmdDone hk
  | groupEnableWrite x0 x1 => exact keeps_execGroupEnableWrite x0 x1 hk
  | bufferRequest x0 x1 x2 => exact keeps_execBufferRequest x0 x1 x2 hk
  | bufferWaitGrant x0 => exact keeps_execBufferWaitGrant x0 hk
  | cacheRefillDone x0 => exact keeps_execCacheRefillDone x0 hk
  | bufferFree x0 => exact keeps_execBufferFree x0 hk
  | lockRead x0 x1 x2 => exact keeps_execLockRead x0 x1 x2 hk
  | lockRelease x0 x1 => exact keeps_execLockRelease x0 x1 hk
  | lockHoldTimeout x0 => exact keeps_execLockHoldTimeout x0 hk
  | atomicOp x0 x1 x2 x3 => exact keeps_execAtomicOp x0 x1 x2 x3 hk
  | packetAdmit x0 x1 => exact keeps_execPacketAdmit x0 x1 hk
  | sourceLookup => exact keeps_execSourceLookup hk
  | taskDispatch x0 x1 => exact keeps_execTaskDispatch x0 x1 hk
  | taskSteal x0 x1 => exact keeps_execTaskSteal x0 x1 hk
  | slotClose x0 => exact keeps_execSlotClose x0 hk
  | traceRecordSelect x0 x1 => exact keeps_execTraceRecordSelect x0 x1 hk
  | traceModeChange x0 x1 => exact keeps_execTraceModeChange x0 x1 hk
  | yarnLimitWrite x0 x1 x2 => exact keeps_execYarnLimitWrite x0 x1 x2 hk
  | yarnMaskWrite x0 x1 => exact keeps_execYarnMaskWrite x0 x1 hk
  | watchdogExpiry x0 => exact keeps_execWatchdogExpiry x0 hk
  | escalationTimeout x0 => exact keeps_execEscalationTimeout x0 hk
  | hostEscalationTimeout x0 => exact keeps_execHostEscalationTimeout x0 hk
  | threadStop x0 x1 x2 => exact keeps_execThreadStop x0 x1 x2 hk
  | threadRestart x0 x1 x2 => exact keeps_execThreadRestart x0 x1 x2 hk
  | threadSignal x0 x1 => exact keeps_execThreadSignal x0 x1 hk
  | timerExpiry x0 => exact keeps_execTimerExpiry x0 hk
  | localMemoryWindowWrite x0 x1 x2 x3 x4 => exact keeps_execLocalMemoryWindowWrite x0 x1 x2 x3 x4 hk
  | weftReadResponse x0 x1 => exact keeps_execWeftReadResponse x0 x1 hk
  | weftStoreResponse x0 x1 => exact keeps_execWeftStoreResponse x0 x1 hk
  | lookupResult x0 => exact keeps_execLookupResult x0 hk
  | fenceComplete x0 => exact keeps_execFenceComplete x0 hk
  | pairedWord x0 => exact keeps_execPairedWord x0 hk
  | mov x0 => exact keeps_execMov x0 hk
  | add x0 => exact keeps_execAdd x0 hk
  | adc x0 => exact keeps_execAdc x0 hk
  | sub x0 => exact keeps_execSub x0 hk
  | sbc x0 => exact keeps_execSbc x0 hk
  | and x0 => exact keeps_execAnd x0 hk
  | or x0 => exact keeps_execOr x0 hk
  | xor x0 => exact keeps_execXor x0 hk
  | bic x0 => exact keeps_execBic x0 hk
  | shl x0 => exact keeps_execShl x0 hk
  | shr x0 => exact keeps_execShr x0 hk
  | sar x0 => exact keeps_execSar x0 hk
  | ror x0 => exact keeps_execRor x0 hk
  | min x0 => exact keeps_execMin x0 hk
  | max x0 => exact keeps_execMax x0 hk
  | minu x0 => exact keeps_execMinu x0 hk
  | maxu x0 => exact keeps_execMaxu x0 hk
  | cmp x0 => exact keeps_execCmp x0 hk
  | tst x0 => exact keeps_execTst x0 hk
  | clz x0 => exact keeps_execClz x0 hk
  | bswap x0 => exact keeps_execBswap x0 hk
  | sextb x0 => exact keeps_execSextb x0 hk
  | sexth x0 => exact keeps_execSexth x0 hk
  | zextb x0 => exact keeps_execZextb x0 hk
  | zexth x0 => exact keeps_execZexth x0 hk
  | neg x0 => exact keeps_execNeg x0 hk
  | not x0 => exact keeps_execNot x0 hk
  | movi x0 => exact keeps_execMovi x0 hk
  | movhi x0 => exact keeps_execMovhi x0 hk
  | addi x0 => exact keeps_execAddi x0 hk
  | andi x0 => exact keeps_execAndi x0 hk
  | ori x0 => exact keeps_execOri x0 hk
  | xori x0 => exact keeps_execXori x0 hk
  | shli x0 => exact keeps_execShli x0 hk
  | shri x0 => exact keeps_execShri x0 hk
  | sari x0 => exact keeps_execSari x0 hk
  | rori x0 => exact keeps_execRori x0 hk
  | cmpi x0 => exact keeps_execCmpi x0 hk
  | tsti x0 => exact keeps_execTsti x0 hk
  | extu x0 => exact keeps_execExtu x0 hk
  | ins x0 => exact keeps_execIns x0 hk
  | br x0 => exact keeps_execBr x0 hk
  | call x0 => exact keeps_execCall x0 hk
  | bc x0 => exact keeps_execBc x0 hk
  | bf x0 => exact keeps_execBf x0 hk
  | j x0 => exact keeps_execJ x0 hk
  | jl x0 => exact keeps_execJl x0 hk
  | jx x0 => exact keeps_execJx x0 hk
  | jxl x0 => exact keeps_execJxl x0 hk
  | rtx x0 => exact keeps_execRtx x0 hk
  | bnz x0 => exact keeps_execBnz x0 hk
  | dbnz x0 => exact keeps_execDbnz x0 hk
  | ldb x0 => exact keeps_execLdb x0 hk
  | ldbu x0 => exact keeps_execLdbu x0 hk
  | ldh x0 => exact keeps_execLdh x0 hk
  | ldhu x0 => exact keeps_execLdhu x0 hk
  | ldw x0 => exact keeps_execLdw x0 hk
  | stb x0 => exact keeps_execStb x0 hk
  | sth x0 => exact keeps_execSth x0 hk
  | stw x0 => exact keeps_execStw x0 hk
  | ldhn x0 => exact keeps_execLdhn x0 hk
  | ldhun x0 => exact keeps_execLdhun x0 hk
  | ldwn x0 => exact keeps_execLdwn x0 hk
  | sthn x0 => exact keeps_execSthn x0 hk
  | stwn x0 => exact keeps_execStwn x0 hk
  | pld x0 => exact keeps_execPld x0 hk
  | pst x0 => exact keeps_execPst x0 hk
  | push x0 => exact keeps_execPush x0 hk
  | pop x0 => exact keeps_execPop x0 hk
  | mul x0 => exact keeps_execMul x0 hk
  | mulu x0 => exact keeps_execMulu x0 hk
  | mac x0 => exact keeps_execMac x0 hk
  | macu x0 => exact keeps_execMacu x0 hk
  | msu x0 => exact keeps_execMsu x0 hk
  | rdacc x0 => exact keeps_execRdacc x0 hk
  | qadd x0 => exact keeps_execQadd x0 hk
  | qsub x0 => exact keeps_execQsub x0 hk
  | qshl x0 => exact keeps_execQshl x0 hk
  | qabs x0 => exact keeps_execQabs x0 hk
  | qneg x0 => exact keeps_execQneg x0 hk
  | tget x0 => exact keeps_execTget x0 hk
  | tdone x0 => exact keeps_execTdone x0 hk
  | send x0 => exact keeps_execSend x0 hk
  | balloc x0 => exact keeps_execBalloc x0 hk
  | bfree x0 => exact keeps_execBfree x0 hk
  | waitlk x0 => exact keeps_execWaitlk x0 hk
  | fadd x0 => exact keeps_execFadd x0 hk
  | sleep x0 => exact keeps_execSleep x0 hk
  | lkup x0 => exact keeps_execLkup x0 hk
  | nop x0 => exact keeps_execNop x0 hk
  | mfs x0 => exact keeps_execMfs x0 hk
  | mts x0 => exact keeps_execMts x0 hk
  | fence x0 => exact keeps_execFence x0 hk
  | trap x0 => exact keeps_execTrap x0 hk
  | agerVisit x0 => exact keeps_execAgerVisit x0 hk
  | fwdWrite x0 => exact keeps_execFwdWrite x0 hk
  | fwdRead x0 => exact keeps_execFwdRead x0 hk
  | fdbInsert x0 => exact keeps_execFdbInsert x0 hk
  | fdbDelete x0 => exact keeps_execFdbDelete x0 hk
  | fdbFlush x0 => exact keeps_execFdbFlush x0 hk
  | fdbFlushDone => exact keeps_execFdbFlushDone hk
  | learnPop x0 => exact keeps_execLearnPop x0 hk
  | fwdEventRead x0 => exact keeps_execFwdEventRead x0 hk
  | auditSweepStart => exact keeps_execAuditSweepStart hk
  | auditLineCompare => exact keeps_execAuditLineCompare hk
  | auditRecheck => exact keeps_execAuditRecheck hk
  | auditSweepEnd x0 => exact keeps_execAuditSweepEnd x0 hk
  | sqDoorbell x0 x1 x2 => exact keeps_execSqDoorbell x0 x1 x2 hk
  | cqDoorbell x0 x1 x2 => exact keeps_execCqDoorbell x0 x1 x2 hk
  | descriptorFetch x0 => exact keeps_execDescriptorFetch x0 hk
  | fetchComplete x0 x1 => exact keeps_execFetchComplete x0 x1 hk
  | nopDescriptor x0 => exact keeps_execNopDescriptor x0 hk
  | createQp => exact keeps_execCreateQp hk
  | destroyQpAbort => exact keeps_execDestroyQpAbort hk
  | destroyQpDrain => exact keeps_execDestroyQpDrain hk
  | drainIdle x0 => exact keeps_execDrainIdle x0 hk
  | queryQp => exact keeps_execQueryQp hk
  | hostSend x0 x1 => exact keeps_execHostSend x0 x1 hk
  | recv x0 => exact keeps_execRecv x0 hk
  | sendDataError x0 => exact keeps_execSendDataError x0 hk
  | adminQueueEnable x0 x1 => exact keeps_execAdminQueueEnable x0 x1 hk
  | adminQueueDisable x0 x1 => exact keeps_execAdminQueueDisable x0 x1 hk
  | functionLevelReset x0 => exact keeps_execFunctionLevelReset x0 hk
  | busMasterChange x0 x1 => exact keeps_execBusMasterChange x0 x1 hk
  | qspiRead x0 x1 => exact keeps_execQspiRead x0 x1 hk
  | qspiWrite x0 x1 => exact keeps_execQspiWrite x0 x1 hk
  | qspiId => exact keeps_execQspiId hk
  | qspiCsnRise => exact keeps_execQspiCsnRise hk
  | xspiGo x0 x1 => exact keeps_execXspiGo x0 x1 hk
  | xspiCmdDone x0 => exact keeps_execXspiCmdDone x0 hk
  | noticeSourceRead x0 x1 => exact keeps_execNoticeSourceRead x0 x1 hk
  | softwareRaise x0 x1 => exact keeps_execSoftwareRaise x0 x1 hk
  | routeEnableWrite x0 x1 x2 => exact keeps_execRouteEnableWrite x0 x1 x2 hk
  | msixUnmask x0 x1 x2 => exact keeps_execMsixUnmask x0 x1 x2 hk
  | internalSample x0 => exact keeps_execInternalSample x0 hk
  | pwmPeriodBoundary x0 x1 x2 => exact keeps_execPwmPeriodBoundary x0 x1 x2 hk
  | wposWrite x0 x1 x2 => exact keeps_execWposWrite x0 x1 x2 hk
  | channelArm x0 x1 => exact keeps_execChannelArm x0 x1 hk
  | channelDisable x0 x1 => exact keeps_execChannelDisable x0 x1 hk
  | rposRead x0 x1 => exact keeps_execRposRead x0 x1 hk
  | crfTimestamp x0 x1 => exact keeps_execCrfTimestamp x0 x1 hk
  | dpllReferenceTimeout => exact keeps_execDpllReferenceTimeout hk
  | dpllLock => exact keeps_execDpllLock hk
  | listenerSeen x0 x1 => exact keeps_execListenerSeen x0 x1 hk
  | listenerTimeout x0 => exact keeps_execListenerTimeout x0 hk
  | captureWposRead x0 x1 => exact keeps_execCaptureWposRead x0 x1 hk
  | talkerEnable x0 x1 => exact keeps_execTalkerEnable x0 x1 hk
  | talkerNextRead x0 x1 => exact keeps_execTalkerNextRead x0 x1 hk
  | tdmFrame x0 x1 x2 => exact keeps_execTdmFrame x0 x1 x2 hk
  | tdmSyncLoss x0 => exact keeps_execTdmSyncLoss x0 hk
  | fabricEdgeWord x0 x1 => exact keeps_execFabricEdgeWord x0 x1 hk
  | safeTone x0 => exact keeps_execSafeTone x0 hk
  | safeClip x0 => exact keeps_execSafeClip x0 hk
  | ecallStart x0 => exact keeps_execEcallStart x0 hk
  | ecallStop x0 => exact keeps_execEcallStop x0 hk
  | safeStop x0 => exact keeps_execSafeStop x0 hk
  | announcementEnd => exact keeps_execAnnouncementEnd hk
  | vbatReading x0 => exact keeps_execVbatReading x0 hk
  | overcurrentDetect x0 x1 x2 x3 x4 => exact keeps_execOvercurrentDetect x0 x1 x2 x3 x4 hk
  | hocAssert x0 x1 x2 => exact keeps_execHocAssert x0 x1 x2 hk
  | gateMismatch x0 x1 x2 x3 => exact keeps_execGateMismatch x0 x1 x2 x3 hk
  | shootThrough x0 x1 x2 x3 => exact keeps_execShootThrough x0 x1 x2 x3 hk
  | secondLegTurnoff x0 => exact keeps_execSecondLegTurnoff x0 hk
  | latchClear x0 x1 x2 => exact keeps_execLatchClear x0 x1 x2 hk
  | outputDisableEnd => exact keeps_execOutputDisableEnd hk
  | ownershipTake => exact keeps_execOwnershipTake hk
  | calWindowEnd x0 x1 x2 x3 x4 x5 x6 => exact keeps_execCalWindowEnd x0 x1 x2 x3 x4 x5 x6 hk
  | senseStuck x0 x1 => exact keeps_execSenseStuck x0 x1 hk
  | calSeqRead x0 x1 => exact keeps_execCalSeqRead x0 x1 hk
  | trimRequest x0 x1 => exact keeps_execTrimRequest x0 x1 hk
  | trimCancel x0 x1 => exact keeps_execTrimCancel x0 x1 hk
  | trimStart x0 => exact keeps_execTrimStart x0 hk
  | trimDone x0 => exact keeps_execTrimDone x0 hk
  | trimDeadline x0 => exact keeps_execTrimDeadline x0 hk
  | zoneReading x0 x1 => exact keeps_execZoneReading x0 x1 hk
  | sbusRead x0 x1 => exact keeps_execSbusRead x0 x1 hk
  | sbusRecovery x0 => exact keeps_execSbusRecovery x0 hk
  | sbusRestart x0 x1 => exact keeps_execSbusRestart x0 x1 hk
  | fanUpdate x0 => exact keeps_execFanUpdate x0 hk
  | fanStall x0 => exact keeps_execFanStall x0 hk
  | partnerLoss x0 => exact keeps_execPartnerLoss x0 hk
  | plyLinkDown => exact keeps_execPlyLinkDown hk
  | epochBoundary x0 x1 => exact keeps_execEpochBoundary x0 x1 hk
  | logAdmit x0 x1 x2 x3 x4 => exact keeps_execLogAdmit x0 x1 x2 x3 x4 hk
  | logBody x0 => exact keeps_execLogBody x0 hk
  | logAnswer x0 x1 x2 => exact keeps_execLogAnswer x0 x1 x2 hk
  | logLearn x0 => exact keeps_execLogLearn x0 hk
  | logHost x0 => exact keeps_execLogHost x0 hk
  | logClose x0 x1 x2 x3 x4 x5 => exact keeps_execLogClose x0 x1 x2 x3 x4 x5 hk
  | logDpll x0 => exact keeps_execLogDpll x0 hk
  | logEnd x0 x1 x2 x3 => exact keeps_execLogEnd x0 x1 x2 x3 hk
  | logVbat x0 x1 => exact keeps_execLogVbat x0 x1 hk
  | logTdm x0 x1 => exact keeps_execLogTdm x0 x1 hk
  | logLatch x0 x1 x2 => exact keeps_execLogLatch x0 x1 x2 hk
  | verdict x0 => exact keeps_execVerdict x0 hk
  | frameFetchRequest x0 x1 x2 => exact keeps_execFrameFetchRequest x0 x1 x2 hk
  | unnamedFrameDrop x0 x1 x2 => exact keeps_execUnnamedFrameDrop x0 x1 x2 hk
  | ownContention => exact keeps_execOwnContention hk
  | formationTimeout x0 => exact keeps_execFormationTimeout x0 hk
  | plyJoin x0 x1 => exact keeps_execPlyJoin x0 x1 hk
  | plyDetach x0 x1 x2 => exact keeps_execPlyDetach x0 x1 x2 hk
  | joinPhaseDone x0 => exact keeps_execJoinPhaseDone x0 hk
  | idleWindowEnd x0 => exact keeps_execIdleWindowEnd x0 hk
  | logicSliceEnd x0 x1 x2 => exact keeps_execLogicSliceEnd x0 x1 x2 hk
  | scrubRead x0 x1 x2 x3 x4 x5 => exact keeps_execScrubRead x0 x1 x2 x3 x4 x5 hk
  | marchSegment x0 x1 x2 x3 => exact keeps_execMarchSegment x0 x1 x2 x3 hk
  | istReqCore x0 x1 => exact keeps_execIstReqCore x0 x1 hk
  | istReqPanel x0 x1 => exact keeps_execIstReqPanel x0 x1 hk
  | istReqLink x0 x1 => exact keeps_execIstReqLink x0 x1 hk
  | istReqPool x0 x1 => exact keeps_execIstReqPool x0 x1 hk
  | istReqScrub x0 x1 => exact keeps_execIstReqScrub x0 x1 hk
  | istRequestDeadline x0 => exact keeps_execIstRequestDeadline x0 hk
  | istResultRead x0 => exact keeps_execIstResultRead x0 hk
  | bistDone x0 x1 => exact keeps_execBistDone x0 x1 hk
  | journalWrite x0 x1 => exact keeps_execJournalWrite x0 x1 hk
  | journalCommit => exact keeps_execJournalCommit hk
  | journalScanDone x0 => exact keeps_execJournalScanDone x0 hk
  | journalReadRecord x0 x1 => exact keeps_execJournalReadRecord x0 x1 hk
  | journalReadSlot x0 x1 => exact keeps_execJournalReadSlot x0 x1 hk
  | safeUnlockWrite x0 x1 => exact keeps_execSafeUnlockWrite x0 x1 hk
  | safeWindowTimeout => exact keeps_execSafeWindowTimeout hk
  | earlyWarning x0 => exact keeps_execEarlyWarning x0 hk
  | earlyWarningClear => exact keeps_execEarlyWarningClear hk
  | canFrameReceive x0 x1 x2 x3 => exact keeps_execCanFrameReceive x0 x1 x2 x3 hk
  | canTxRequest x0 x1 x2 => exact keeps_execCanTxRequest x0 x1 x2 hk
  | canTxAbort x0 x1 x2 x3 => exact keeps_execCanTxAbort x0 x1 x2 x3 hk
  | canTxDone x0 x1 x2 => exact keeps_execCanTxDone x0 x1 x2 hk
  | canRxPop x0 x1 x2 => exact keeps_execCanRxPop x0 x1 x2 hk
  | canBusOff x0 => exact keeps_execCanBusOff x0 hk
  | canRecoveryRequest x0 x1 x2 => exact keeps_execCanRecoveryRequest x0 x1 x2 hk
  | canRecoveryDone x0 => exact keeps_execCanRecoveryDone x0 hk
  | canTxDominantTimeout x0 => exact keeps_execCanTxDominantTimeout x0 hk
  | snapshotCapture x0 => exact keeps_execSnapshotCapture x0 hk
  | snapshotPop x0 x1 => exact keeps_execSnapshotPop x0 x1 hk
  | lifecycleAdvance x0 x1 => exact keeps_execLifecycleAdvance x0 x1 hk
  | fuseProgram x0 x1 => exact keeps_execFuseProgram x0 x1 hk
  | fuseBurnDone => exact keeps_execFuseBurnDone hk
  | unlockChallenge x0 x1 => exact keeps_execUnlockChallenge x0 x1 hk
  | unlockVerify x0 x1 => exact keeps_execUnlockVerify x0 x1 hk
  | serviceLock x0 x1 => exact keeps_execServiceLock x0 x1 hk
  | unlockTimeout => exact keeps_execUnlockTimeout hk
  | challengeExpiry => exact keeps_execChallengeExpiry hk
  | unlockWaitEnd => exact keeps_execUnlockWaitEnd hk
  | extest x0 => exact keeps_execExtest x0 hk
  | idcode => exact keeps_execIdcode hk
  | samplePreload x0 x1 => exact keeps_execSamplePreload x0 x1 hk
  | clamp => exact keeps_execClamp hk
  | highz => exact keeps_execHighz hk
  | extestPulse x0 => exact keeps_execExtestPulse x0 hk
  | extestTrain x0 => exact keeps_execExtestTrain x0 hk
  | dbgacc => exact keeps_execDbgacc hk
  | bypass => exact keeps_execBypass hk
  | debugAccess x0 x1 x2 => exact keeps_execDebugAccess x0 x1 x2 hk
  | debugReset => exact keeps_execDebugReset hk
  | tapReset => exact keeps_execTapReset hk
  | railLow x0 x1 => exact keeps_execRailLow x0 x1 hk
  | railCollapse x0 x1 => exact keeps_execRailCollapse x0 x1 hk
  | railInRange x0 x1 => exact keeps_execRailInRange x0 x1 hk
  | dpllLockLoss => exact keeps_execDpllLockLoss hk
  | plyLaneFail => exact keeps_execPlyLaneFail hk
  | plyLinkUp x0 => exact keeps_execPlyLinkUp x0 hk
  | pcieLinkUp x0 x1 => exact keeps_execPcieLinkUp x0 x1 hk
  | istLate x0 => exact keeps_execIstLate x0 hk
  | undefinedOpcode x0 => exact keeps_execUndefinedOpcode x0 hk
  | plyAliveToggle x0 => exact keeps_execPlyAliveToggle x0 hk
  | borderResponse x0 x1 => exact keeps_execBorderResponse x0 x1 hk

end Sys2Proof.Machine
end

