-- ==== Sys2Proof/Laws/Reach.lean ====
section
/-!
SUPPORT. When an access reaches its register (Safety.lean), what the access does is its effect alone.
-/
namespace Sys2Proof.Machine

/-- A write that reaches its register has its effect. -/
theorem access_reaches {a : Agent} {o : Nat} {v : Word} {s : State} (h : reaches a o v s = true) (k : State → Out) :
    access a o v k s = k s := by
  simp only [reaches, Bool.and_eq_true, Bool.not_eq_true'] at h
  obtain ⟨⟨⟨⟨⟨⟨h1, h2⟩, h3⟩, h7⟩, h4⟩, h5⟩, h6⟩ := h
  unfold access blockAct
  simp only [h1, h2, h3, h5, h6, h4, h7, Bool.not_true, Bool.or_self, Bool.false_eq_true, if_false]

/-- A write that no port of its agent takes, or whose block is off and holds nothing, changes nothing. -/
theorem access_away {a : Agent} {o : Nat} {v : Word} {s : State} (h : (decodes a s && s.bar0 && blockUp s o) = false)
    (hw : weftHeld a o s = false) (k : State → Out) : access a o v k s = .next s := by
  unfold access stay
  rw [hw]
  cases hd : decodes a s <;> cases hb : s.bar0 <;> cases hu : blockUp s o <;> simp_all

/-- A write behind an earlier access of the host, or to a block that stalls, waits and changes nothing else. -/
theorem access_held {a : Agent} {o : Nat} {v : Word} {s : State} (h : decodes a s && s.bar0) (hw : weftHeld a o s = true)
    (k : State → Out) : access a o v k s = .next (weftWait ⟨a, true, o, v⟩ s) := by
  unfold access
  cases hd : decodes a s <;> cases hb : s.bar0 <;> simp_all

/-- A read that finds its register answers what the register gives. -/
theorem readRow_readable {a : Agent} {o : Nat} {s : State} (h : readable a o s = true) (k : State → Word × State) :
    readRow a o k s = .next (readDone a o (k s)) := by
  simp only [readable, Bool.and_eq_true, Bool.not_eq_true'] at h
  obtain ⟨⟨⟨⟨h1, h2⟩, h3⟩, h5⟩, h4⟩ := h
  unfold readRow accessRead readDone
  simp only [h1, h2, h3, h4, h5, Bool.and_false, Bool.not_true, Bool.or_self, Bool.false_eq_true, if_false]

end Sys2Proof.Machine
end

