-- ==== Sys2Proof/Laws/State.lean ====
section
/-!
SUPPORT. What each named update of the state leaves as it was, one lemma per field; the elements of its maps after an update; and a
register read from a state written out field by field.
-/
namespace Sys2Proof.Machine

/-! A state that another state's registers stand in. -/

section
variable (t : State) (xpending : List Instr) (xfree : Nat) (xresp : SMap Word) (xout : List Output) (xcapHi : SMap (Option Word)) (xheldLo : SMap (Option Word)) (xrcap : SMap Nat) (xpkt : Mem) (xfuses : Fuses) (xheld : Fuses) (xburn : Burn) (xclk : Clk) (xsys : Sys) (xvnr : Vnr) (xmqy : Mqy) (xprt : Prt) (xprs : Prs) (xbpm : Bpm) (xlocks : SMap Lock) (xdst : Dst) (xwhl : Whl) (xfwd : Fwd) (xhif : Hif) (xevt : Evt) (xaud : Aud) (xsafe : Safe) (xpws : Pws) (xcal : Cal) (xjrn : Jrn) (xthm : Thm) (xist : Ist) (xdgn : Dgn) (xtap : Tap) (xply : Ply)

@[simp] theorem State.rd_mk (o : Nat) : (State.mk xpending xfree t.regs xresp xout xcapHi xheldLo xrcap xpkt xfuses xheld xburn xclk xsys xvnr xmqy xprt xprs xbpm xlocks xdst xwhl xfwd xhif xevt xaud xsafe xpws xcal xjrn xthm xist xdgn xtap xply).rd o = t.rd o := rfl

@[simp] theorem State.get_mk (f : Fld) : (State.mk xpending xfree t.regs xresp xout xcapHi xheldLo xrcap xpkt xfuses xheld xburn xclk xsys xvnr xmqy xprt xprs xbpm xlocks xdst xwhl xfwd xhif xevt xaud xsafe xpws xcal xjrn xthm xist xdgn xtap xply).get f = t.get f := rfl

@[simp] theorem State.flag_mk (f : Fld) : (State.mk xpending xfree t.regs xresp xout xcapHi xheldLo xrcap xpkt xfuses xheld xburn xclk xsys xvnr xmqy xprt xprs xbpm xlocks xdst xwhl xfwd xhif xevt xaud xsafe xpws xcal xjrn xthm xist xdgn xtap xply).flag f = t.flag f := rfl

end

@[simp] theorem State.thread_mk (t : State) (xpending : List Instr) (xfree : Nat) (xregs : SMap Word) (xresp : SMap Word) (xout : List Output) (xcapHi : SMap (Option Word)) (xheldLo : SMap (Option Word)) (xrcap : SMap Nat) (xpkt : Mem) (xfuses : Fuses) (xheld : Fuses) (xburn : Burn) (xclk : Clk) (xsys : Sys) (xvnr : Vnr) (xmqy : Mqy) (xprt : Prt) (xprs : Prs) (xbpm : Bpm) (xlocks : SMap Lock) (xdst : Dst) (xfwd : Fwd) (xhif : Hif) (xevt : Evt) (xaud : Aud) (xsafe : Safe) (xpws : Pws) (xcal : Cal) (xjrn : Jrn) (xthm : Thm) (xist : Ist) (xdgn : Dgn) (xtap : Tap) (xply : Ply) (j : Nat) : (State.mk xpending xfree xregs xresp xout xcapHi xheldLo xrcap xpkt xfuses xheld xburn xclk xsys xvnr xmqy xprt xprs xbpm xlocks xdst t.whl xfwd xhif xevt xaud xsafe xpws xcal xjrn xthm xist xdgn xtap xply).thread j = t.thread j := rfl

@[simp] theorem State.core_mk (t : State) (xpending : List Instr) (xfree : Nat) (xregs : SMap Word) (xresp : SMap Word) (xout : List Output) (xcapHi : SMap (Option Word)) (xheldLo : SMap (Option Word)) (xrcap : SMap Nat) (xpkt : Mem) (xfuses : Fuses) (xheld : Fuses) (xburn : Burn) (xclk : Clk) (xsys : Sys) (xvnr : Vnr) (xmqy : Mqy) (xprt : Prt) (xprs : Prs) (xbpm : Bpm) (xlocks : SMap Lock) (xdst : Dst) (xfwd : Fwd) (xhif : Hif) (xevt : Evt) (xaud : Aud) (xsafe : Safe) (xpws : Pws) (xcal : Cal) (xjrn : Jrn) (xthm : Thm) (xist : Ist) (xdgn : Dgn) (xtap : Tap) (xply : Ply) (j : Nat) : (State.mk xpending xfree xregs xresp xout xcapHi xheldLo xrcap xpkt xfuses xheld xburn xclk xsys xvnr xmqy xprt xprs xbpm xlocks xdst t.whl xfwd xhif xevt xaud xsafe xpws xcal xjrn xthm xist xdgn xtap xply).core j = t.core j := rfl

@[simp] theorem State.panel_mk (t : State) (xpending : List Instr) (xfree : Nat) (xregs : SMap Word) (xresp : SMap Word) (xout : List Output) (xcapHi : SMap (Option Word)) (xheldLo : SMap (Option Word)) (xrcap : SMap Nat) (xpkt : Mem) (xfuses : Fuses) (xheld : Fuses) (xburn : Burn) (xclk : Clk) (xsys : Sys) (xvnr : Vnr) (xprt : Prt) (xprs : Prs) (xbpm : Bpm) (xlocks : SMap Lock) (xdst : Dst) (xwhl : Whl) (xfwd : Fwd) (xhif : Hif) (xevt : Evt) (xaud : Aud) (xsafe : Safe) (xpws : Pws) (xcal : Cal) (xjrn : Jrn) (xthm : Thm) (xist : Ist) (xdgn : Dgn) (xtap : Tap) (xply : Ply) (j : Nat) : (State.mk xpending xfree xregs xresp xout xcapHi xheldLo xrcap xpkt xfuses xheld xburn xclk xsys xvnr t.mqy xprt xprs xbpm xlocks xdst xwhl xfwd xhif xevt xaud xsafe xpws xcal xjrn xthm xist xdgn xtap xply).panel j = t.panel j := rfl

@[simp] theorem State.port_mk (t : State) (xpending : List Instr) (xfree : Nat) (xregs : SMap Word) (xresp : SMap Word) (xout : List Output) (xcapHi : SMap (Option Word)) (xheldLo : SMap (Option Word)) (xrcap : SMap Nat) (xpkt : Mem) (xfuses : Fuses) (xheld : Fuses) (xburn : Burn) (xclk : Clk) (xsys : Sys) (xvnr : Vnr) (xmqy : Mqy) (xprs : Prs) (xbpm : Bpm) (xlocks : SMap Lock) (xdst : Dst) (xwhl : Whl) (xfwd : Fwd) (xhif : Hif) (xevt : Evt) (xaud : Aud) (xsafe : Safe) (xpws : Pws) (xcal : Cal) (xjrn : Jrn) (xthm : Thm) (xist : Ist) (xdgn : Dgn) (xtap : Tap) (xply : Ply) (j : Nat) : (State.mk xpending xfree xregs xresp xout xcapHi xheldLo xrcap xpkt xfuses xheld xburn xclk xsys xvnr xmqy t.prt xprs xbpm xlocks xdst xwhl xfwd xhif xevt xaud xsafe xpws xcal xjrn xthm xist xdgn xtap xply).port j = t.port j := rfl

@[simp] theorem State.lock_mk (t : State) (xpending : List Instr) (xfree : Nat) (xregs : SMap Word) (xresp : SMap Word) (xout : List Output) (xcapHi : SMap (Option Word)) (xheldLo : SMap (Option Word)) (xrcap : SMap Nat) (xpkt : Mem) (xfuses : Fuses) (xheld : Fuses) (xburn : Burn) (xclk : Clk) (xsys : Sys) (xvnr : Vnr) (xmqy : Mqy) (xprt : Prt) (xprs : Prs) (xbpm : Bpm) (xdst : Dst) (xwhl : Whl) (xfwd : Fwd) (xhif : Hif) (xevt : Evt) (xaud : Aud) (xsafe : Safe) (xpws : Pws) (xcal : Cal) (xjrn : Jrn) (xthm : Thm) (xist : Ist) (xdgn : Dgn) (xtap : Tap) (xply : Ply) (j : Nat) : (State.mk xpending xfree xregs xresp xout xcapHi xheldLo xrcap xpkt xfuses xheld xburn xclk xsys xvnr xmqy xprt xprs xbpm t.locks xdst xwhl xfwd xhif xevt xaud xsafe xpws xcal xjrn xthm xist xdgn xtap xply).lock j = t.lock j := rfl

@[simp] theorem State.pch_mk (t : State) (xpending : List Instr) (xfree : Nat) (xregs : SMap Word) (xresp : SMap Word) (xout : List Output) (xcapHi : SMap (Option Word)) (xheldLo : SMap (Option Word)) (xrcap : SMap Nat) (xpkt : Mem) (xfuses : Fuses) (xheld : Fuses) (xburn : Burn) (xclk : Clk) (xsys : Sys) (xvnr : Vnr) (xmqy : Mqy) (xprt : Prt) (xprs : Prs) (xbpm : Bpm) (xlocks : SMap Lock) (xdst : Dst) (xwhl : Whl) (xfwd : Fwd) (xhif : Hif) (xevt : Evt) (xaud : Aud) (xsafe : Safe) (xcal : Cal) (xjrn : Jrn) (xthm : Thm) (xist : Ist) (xdgn : Dgn) (xtap : Tap) (xply : Ply) (j : Nat) : (State.mk xpending xfree xregs xresp xout xcapHi xheldLo xrcap xpkt xfuses xheld xburn xclk xsys xvnr xmqy xprt xprs xbpm xlocks xdst xwhl xfwd xhif xevt xaud xsafe t.pws xcal xjrn xthm xist xdgn xtap xply).pch j = t.pch j := rfl

@[simp] theorem State.ach_mk (t : State) (xpending : List Instr) (xfree : Nat) (xregs : SMap Word) (xresp : SMap Word) (xout : List Output) (xcapHi : SMap (Option Word)) (xheldLo : SMap (Option Word)) (xrcap : SMap Nat) (xpkt : Mem) (xfuses : Fuses) (xheld : Fuses) (xburn : Burn) (xclk : Clk) (xsys : Sys) (xvnr : Vnr) (xmqy : Mqy) (xprt : Prt) (xprs : Prs) (xbpm : Bpm) (xlocks : SMap Lock) (xdst : Dst) (xwhl : Whl) (xfwd : Fwd) (xhif : Hif) (xevt : Evt) (xsafe : Safe) (xpws : Pws) (xcal : Cal) (xjrn : Jrn) (xthm : Thm) (xist : Ist) (xdgn : Dgn) (xtap : Tap) (xply : Ply) (j : Nat) : (State.mk xpending xfree xregs xresp xout xcapHi xheldLo xrcap xpkt xfuses xheld xburn xclk xsys xvnr xmqy xprt xprs xbpm xlocks xdst xwhl xfwd xhif xevt t.aud xsafe xpws xcal xjrn xthm xist xdgn xtap xply).ach j = t.ach j := rfl

@[simp] theorem State.cch_mk (t : State) (xpending : List Instr) (xfree : Nat) (xregs : SMap Word) (xresp : SMap Word) (xout : List Output) (xcapHi : SMap (Option Word)) (xheldLo : SMap (Option Word)) (xrcap : SMap Nat) (xpkt : Mem) (xfuses : Fuses) (xheld : Fuses) (xburn : Burn) (xclk : Clk) (xsys : Sys) (xvnr : Vnr) (xmqy : Mqy) (xprt : Prt) (xprs : Prs) (xbpm : Bpm) (xlocks : SMap Lock) (xdst : Dst) (xwhl : Whl) (xfwd : Fwd) (xhif : Hif) (xevt : Evt) (xaud : Aud) (xsafe : Safe) (xpws : Pws) (xjrn : Jrn) (xthm : Thm) (xist : Ist) (xdgn : Dgn) (xtap : Tap) (xply : Ply) (j : Nat) : (State.mk xpending xfree xregs xresp xout xcapHi xheldLo xrcap xpkt xfuses xheld xburn xclk xsys xvnr xmqy xprt xprs xbpm xlocks xdst xwhl xfwd xhif xevt xaud xsafe xpws t.cal xjrn xthm xist xdgn xtap xply).cch j = t.cch j := rfl

@[simp] theorem State.fan_mk (t : State) (xpending : List Instr) (xfree : Nat) (xregs : SMap Word) (xresp : SMap Word) (xout : List Output) (xcapHi : SMap (Option Word)) (xheldLo : SMap (Option Word)) (xrcap : SMap Nat) (xpkt : Mem) (xfuses : Fuses) (xheld : Fuses) (xburn : Burn) (xclk : Clk) (xsys : Sys) (xvnr : Vnr) (xmqy : Mqy) (xprt : Prt) (xprs : Prs) (xbpm : Bpm) (xlocks : SMap Lock) (xdst : Dst) (xwhl : Whl) (xfwd : Fwd) (xhif : Hif) (xevt : Evt) (xaud : Aud) (xsafe : Safe) (xpws : Pws) (xcal : Cal) (xjrn : Jrn) (xist : Ist) (xdgn : Dgn) (xtap : Tap) (xply : Ply) (j : Nat) : (State.mk xpending xfree xregs xresp xout xcapHi xheldLo xrcap xpkt xfuses xheld xburn xclk xsys xvnr xmqy xprt xprs xbpm xlocks xdst xwhl xfwd xhif xevt xaud xsafe xpws xcal xjrn t.thm xist xdgn xtap xply).fan j = t.fan j := rfl

@[simp] theorem State.qp_mk (t : State) (xpending : List Instr) (xfree : Nat) (xregs : SMap Word) (xresp : SMap Word) (xout : List Output) (xcapHi : SMap (Option Word)) (xheldLo : SMap (Option Word)) (xrcap : SMap Nat) (xpkt : Mem) (xfuses : Fuses) (xheld : Fuses) (xburn : Burn) (xclk : Clk) (xsys : Sys) (xvnr : Vnr) (xmqy : Mqy) (xprt : Prt) (xprs : Prs) (xbpm : Bpm) (xlocks : SMap Lock) (xdst : Dst) (xwhl : Whl) (xfwd : Fwd) (xevt : Evt) (xaud : Aud) (xsafe : Safe) (xpws : Pws) (xcal : Cal) (xjrn : Jrn) (xthm : Thm) (xist : Ist) (xdgn : Dgn) (xtap : Tap) (xply : Ply) (j : Nat) : (State.mk xpending xfree xregs xresp xout xcapHi xheldLo xrcap xpkt xfuses xheld xburn xclk xsys xvnr xmqy xprt xprs xbpm xlocks xdst xwhl xfwd t.hif xevt xaud xsafe xpws xcal xjrn xthm xist xdgn xtap xply).qp j = t.qp j := rfl

@[simp] theorem State.can_mk (t : State) (xpending : List Instr) (xfree : Nat) (xregs : SMap Word) (xresp : SMap Word) (xout : List Output) (xcapHi : SMap (Option Word)) (xheldLo : SMap (Option Word)) (xrcap : SMap Nat) (xpkt : Mem) (xfuses : Fuses) (xheld : Fuses) (xburn : Burn) (xclk : Clk) (xsys : Sys) (xvnr : Vnr) (xmqy : Mqy) (xprt : Prt) (xprs : Prs) (xbpm : Bpm) (xlocks : SMap Lock) (xdst : Dst) (xwhl : Whl) (xfwd : Fwd) (xhif : Hif) (xevt : Evt) (xaud : Aud) (xsafe : Safe) (xpws : Pws) (xcal : Cal) (xjrn : Jrn) (xthm : Thm) (xist : Ist) (xtap : Tap) (xply : Ply) (j : Nat) : (State.mk xpending xfree xregs xresp xout xcapHi xheldLo xrcap xpkt xfuses xheld xburn xclk xsys xvnr xmqy xprt xprs xbpm xlocks xdst xwhl xfwd xhif xevt xaud xsafe xpws xcal xjrn xthm xist t.dgn xtap xply).can j = t.can j := rfl

@[simp] theorem State.tdm_mk (t : State) (xpending : List Instr) (xfree : Nat) (xregs : SMap Word) (xresp : SMap Word) (xout : List Output) (xcapHi : SMap (Option Word)) (xheldLo : SMap (Option Word)) (xrcap : SMap Nat) (xpkt : Mem) (xfuses : Fuses) (xheld : Fuses) (xburn : Burn) (xclk : Clk) (xsys : Sys) (xvnr : Vnr) (xmqy : Mqy) (xprt : Prt) (xprs : Prs) (xbpm : Bpm) (xlocks : SMap Lock) (xdst : Dst) (xwhl : Whl) (xfwd : Fwd) (xhif : Hif) (xevt : Evt) (xsafe : Safe) (xpws : Pws) (xcal : Cal) (xjrn : Jrn) (xthm : Thm) (xist : Ist) (xdgn : Dgn) (xtap : Tap) (xply : Ply) (j : Nat) : (State.mk xpending xfree xregs xresp xout xcapHi xheldLo xrcap xpkt xfuses xheld xburn xclk xsys xvnr xmqy xprt xprs xbpm xlocks xdst xwhl xfwd xhif xevt t.aud xsafe xpws xcal xjrn xthm xist xdgn xtap xply).tdm j = t.tdm j := rfl

/-! wr -/

section
variable (s : State) (o : Nat) (v : Word)

@[simp] theorem State.pending_wr : (s.wr o v).pending = s.pending := rfl

@[simp] theorem State.free_wr : (s.wr o v).free = s.free := rfl

@[simp] theorem State.resp_wr : (s.wr o v).resp = s.resp := rfl

@[simp] theorem State.out_wr : (s.wr o v).out = s.out := rfl

@[simp] theorem State.capHi_wr : (s.wr o v).capHi = s.capHi := rfl

@[simp] theorem State.heldLo_wr : (s.wr o v).heldLo = s.heldLo := rfl

@[simp] theorem State.rcap_wr : (s.wr o v).rcap = s.rcap := rfl

@[simp] theorem State.pkt_wr : (s.wr o v).pkt = s.pkt := rfl

@[simp] theorem State.fuses_wr : (s.wr o v).fuses = s.fuses := rfl

@[simp] theorem State.held_wr : (s.wr o v).held = s.held := rfl

@[simp] theorem State.burn_wr : (s.wr o v).burn = s.burn := rfl

@[simp] theorem State.clk_wr : (s.wr o v).clk = s.clk := rfl

@[simp] theorem State.sys_wr : (s.wr o v).sys = s.sys := rfl

@[simp] theorem State.vnr_wr : (s.wr o v).vnr = s.vnr := rfl

@[simp] theorem State.mqy_wr : (s.wr o v).mqy = s.mqy := rfl

@[simp] theorem State.prt_wr : (s.wr o v).prt = s.prt := rfl

@[simp] theorem State.prs_wr : (s.wr o v).prs = s.prs := rfl

@[simp] theorem State.bpm_wr : (s.wr o v).bpm = s.bpm := rfl

@[simp] theorem State.locks_wr : (s.wr o v).locks = s.locks := rfl

@[simp] theorem State.dst_wr : (s.wr o v).dst = s.dst := rfl

@[simp] theorem State.whl_wr : (s.wr o v).whl = s.whl := rfl

@[simp] theorem State.fwd_wr : (s.wr o v).fwd = s.fwd := rfl

@[simp] theorem State.hif_wr : (s.wr o v).hif = s.hif := rfl

@[simp] theorem State.evt_wr : (s.wr o v).evt = s.evt := rfl

@[simp] theorem State.aud_wr : (s.wr o v).aud = s.aud := rfl

@[simp] theorem State.safe_wr : (s.wr o v).safe = s.safe := rfl

@[simp] theorem State.pws_wr : (s.wr o v).pws = s.pws := rfl

@[simp] theorem State.cal_wr : (s.wr o v).cal = s.cal := rfl

@[simp] theorem State.jrn_wr : (s.wr o v).jrn = s.jrn := rfl

@[simp] theorem State.thm_wr : (s.wr o v).thm = s.thm := rfl

@[simp] theorem State.ist_wr : (s.wr o v).ist = s.ist := rfl

@[simp] theorem State.dgn_wr : (s.wr o v).dgn = s.dgn := rfl

@[simp] theorem State.tap_wr : (s.wr o v).tap = s.tap := rfl

@[simp] theorem State.ply_wr : (s.wr o v).ply = s.ply := rfl

@[simp] theorem State.thread_wr (j : Nat) : (s.wr o v).thread j = s.thread j := rfl

@[simp] theorem State.core_wr (j : Nat) : (s.wr o v).core j = s.core j := rfl

@[simp] theorem State.panel_wr (j : Nat) : (s.wr o v).panel j = s.panel j := rfl

@[simp] theorem State.port_wr (j : Nat) : (s.wr o v).port j = s.port j := rfl

@[simp] theorem State.lock_wr (j : Nat) : (s.wr o v).lock j = s.lock j := rfl

@[simp] theorem State.pch_wr (j : Nat) : (s.wr o v).pch j = s.pch j := rfl

@[simp] theorem State.ach_wr (j : Nat) : (s.wr o v).ach j = s.ach j := rfl

@[simp] theorem State.cch_wr (j : Nat) : (s.wr o v).cch j = s.cch j := rfl

@[simp] theorem State.fan_wr (j : Nat) : (s.wr o v).fan j = s.fan j := rfl

@[simp] theorem State.qp_wr (j : Nat) : (s.wr o v).qp j = s.qp j := rfl

@[simp] theorem State.can_wr (j : Nat) : (s.wr o v).can j = s.can j := rfl

@[simp] theorem State.tdm_wr (j : Nat) : (s.wr o v).tdm j = s.tdm j := rfl

end

/-! set -/

section
variable (s : State) (f : Fld) (v : Nat)

@[simp] theorem State.pending_set : (s.set f v).pending = s.pending := rfl

@[simp] theorem State.free_set : (s.set f v).free = s.free := rfl

@[simp] theorem State.resp_set : (s.set f v).resp = s.resp := rfl

@[simp] theorem State.out_set : (s.set f v).out = s.out := rfl

@[simp] theorem State.capHi_set : (s.set f v).capHi = s.capHi := rfl

@[simp] theorem State.heldLo_set : (s.set f v).heldLo = s.heldLo := rfl

@[simp] theorem State.rcap_set : (s.set f v).rcap = s.rcap := rfl

@[simp] theorem State.pkt_set : (s.set f v).pkt = s.pkt := rfl

@[simp] theorem State.fuses_set : (s.set f v).fuses = s.fuses := rfl

@[simp] theorem State.held_set : (s.set f v).held = s.held := rfl

@[simp] theorem State.burn_set : (s.set f v).burn = s.burn := rfl

@[simp] theorem State.clk_set : (s.set f v).clk = s.clk := rfl

@[simp] theorem State.sys_set : (s.set f v).sys = s.sys := rfl

@[simp] theorem State.vnr_set : (s.set f v).vnr = s.vnr := rfl

@[simp] theorem State.mqy_set : (s.set f v).mqy = s.mqy := rfl

@[simp] theorem State.prt_set : (s.set f v).prt = s.prt := rfl

@[simp] theorem State.prs_set : (s.set f v).prs = s.prs := rfl

@[simp] theorem State.bpm_set : (s.set f v).bpm = s.bpm := rfl

@[simp] theorem State.locks_set : (s.set f v).locks = s.locks := rfl

@[simp] theorem State.dst_set : (s.set f v).dst = s.dst := rfl

@[simp] theorem State.whl_set : (s.set f v).whl = s.whl := rfl

@[simp] theorem State.fwd_set : (s.set f v).fwd = s.fwd := rfl

@[simp] theorem State.hif_set : (s.set f v).hif = s.hif := rfl

@[simp] theorem State.evt_set : (s.set f v).evt = s.evt := rfl

@[simp] theorem State.aud_set : (s.set f v).aud = s.aud := rfl

@[simp] theorem State.safe_set : (s.set f v).safe = s.safe := rfl

@[simp] theorem State.pws_set : (s.set f v).pws = s.pws := rfl

@[simp] theorem State.cal_set : (s.set f v).cal = s.cal := rfl

@[simp] theorem State.jrn_set : (s.set f v).jrn = s.jrn := rfl

@[simp] theorem State.thm_set : (s.set f v).thm = s.thm := rfl

@[simp] theorem State.ist_set : (s.set f v).ist = s.ist := rfl

@[simp] theorem State.dgn_set : (s.set f v).dgn = s.dgn := rfl

@[simp] theorem State.tap_set : (s.set f v).tap = s.tap := rfl

@[simp] theorem State.ply_set : (s.set f v).ply = s.ply := rfl

@[simp] theorem State.thread_set (j : Nat) : (s.set f v).thread j = s.thread j := rfl

@[simp] theorem State.core_set (j : Nat) : (s.set f v).core j = s.core j := rfl

@[simp] theorem State.panel_set (j : Nat) : (s.set f v).panel j = s.panel j := rfl

@[simp] theorem State.port_set (j : Nat) : (s.set f v).port j = s.port j := rfl

@[simp] theorem State.lock_set (j : Nat) : (s.set f v).lock j = s.lock j := rfl

@[simp] theorem State.pch_set (j : Nat) : (s.set f v).pch j = s.pch j := rfl

@[simp] theorem State.ach_set (j : Nat) : (s.set f v).ach j = s.ach j := rfl

@[simp] theorem State.cch_set (j : Nat) : (s.set f v).cch j = s.cch j := rfl

@[simp] theorem State.fan_set (j : Nat) : (s.set f v).fan j = s.fan j := rfl

@[simp] theorem State.qp_set (j : Nat) : (s.set f v).qp j = s.qp j := rfl

@[simp] theorem State.can_set (j : Nat) : (s.set f v).can j = s.can j := rfl

@[simp] theorem State.tdm_set (j : Nat) : (s.set f v).tdm j = s.tdm j := rfl

end

/-! bump -/

section
variable (s : State) (o n : Nat)

@[simp] theorem State.pending_bump : (s.bump o n).pending = s.pending := rfl

@[simp] theorem State.free_bump : (s.bump o n).free = s.free := rfl

@[simp] theorem State.resp_bump : (s.bump o n).resp = s.resp := rfl

@[simp] theorem State.out_bump : (s.bump o n).out = s.out := rfl

@[simp] theorem State.capHi_bump : (s.bump o n).capHi = s.capHi := rfl

@[simp] theorem State.heldLo_bump : (s.bump o n).heldLo = s.heldLo := rfl

@[simp] theorem State.rcap_bump : (s.bump o n).rcap = s.rcap := rfl

@[simp] theorem State.pkt_bump : (s.bump o n).pkt = s.pkt := rfl

@[simp] theorem State.fuses_bump : (s.bump o n).fuses = s.fuses := rfl

@[simp] theorem State.held_bump : (s.bump o n).held = s.held := rfl

@[simp] theorem State.burn_bump : (s.bump o n).burn = s.burn := rfl

@[simp] theorem State.clk_bump : (s.bump o n).clk = s.clk := rfl

@[simp] theorem State.sys_bump : (s.bump o n).sys = s.sys := rfl

@[simp] theorem State.vnr_bump : (s.bump o n).vnr = s.vnr := rfl

@[simp] theorem State.mqy_bump : (s.bump o n).mqy = s.mqy := rfl

@[simp] theorem State.prt_bump : (s.bump o n).prt = s.prt := rfl

@[simp] theorem State.prs_bump : (s.bump o n).prs = s.prs := rfl

@[simp] theorem State.bpm_bump : (s.bump o n).bpm = s.bpm := rfl

@[simp] theorem State.locks_bump : (s.bump o n).locks = s.locks := rfl

@[simp] theorem State.dst_bump : (s.bump o n).dst = s.dst := rfl

@[simp] theorem State.whl_bump : (s.bump o n).whl = s.whl := rfl

@[simp] theorem State.fwd_bump : (s.bump o n).fwd = s.fwd := rfl

@[simp] theorem State.hif_bump : (s.bump o n).hif = s.hif := rfl

@[simp] theorem State.evt_bump : (s.bump o n).evt = s.evt := rfl

@[simp] theorem State.aud_bump : (s.bump o n).aud = s.aud := rfl

@[simp] theorem State.safe_bump : (s.bump o n).safe = s.safe := rfl

@[simp] theorem State.pws_bump : (s.bump o n).pws = s.pws := rfl

@[simp] theorem State.cal_bump : (s.bump o n).cal = s.cal := rfl

@[simp] theorem State.jrn_bump : (s.bump o n).jrn = s.jrn := rfl

@[simp] theorem State.thm_bump : (s.bump o n).thm = s.thm := rfl

@[simp] theorem State.ist_bump : (s.bump o n).ist = s.ist := rfl

@[simp] theorem State.dgn_bump : (s.bump o n).dgn = s.dgn := rfl

@[simp] theorem State.tap_bump : (s.bump o n).tap = s.tap := rfl

@[simp] theorem State.ply_bump : (s.bump o n).ply = s.ply := rfl

@[simp] theorem State.thread_bump (j : Nat) : (s.bump o n).thread j = s.thread j := rfl

@[simp] theorem State.core_bump (j : Nat) : (s.bump o n).core j = s.core j := rfl

@[simp] theorem State.panel_bump (j : Nat) : (s.bump o n).panel j = s.panel j := rfl

@[simp] theorem State.port_bump (j : Nat) : (s.bump o n).port j = s.port j := rfl

@[simp] theorem State.lock_bump (j : Nat) : (s.bump o n).lock j = s.lock j := rfl

@[simp] theorem State.pch_bump (j : Nat) : (s.bump o n).pch j = s.pch j := rfl

@[simp] theorem State.ach_bump (j : Nat) : (s.bump o n).ach j = s.ach j := rfl

@[simp] theorem State.cch_bump (j : Nat) : (s.bump o n).cch j = s.cch j := rfl

@[simp] theorem State.fan_bump (j : Nat) : (s.bump o n).fan j = s.fan j := rfl

@[simp] theorem State.qp_bump (j : Nat) : (s.bump o n).qp j = s.qp j := rfl

@[simp] theorem State.can_bump (j : Nat) : (s.bump o n).can j = s.can j := rfl

@[simp] theorem State.tdm_bump (j : Nat) : (s.bump o n).tdm j = s.tdm j := rfl

end

/-! wr64 -/

section
variable (s : State) (o v : Nat)

@[simp] theorem State.pending_wr64 : (s.wr64 o v).pending = s.pending := rfl

@[simp] theorem State.free_wr64 : (s.wr64 o v).free = s.free := rfl

@[simp] theorem State.resp_wr64 : (s.wr64 o v).resp = s.resp := rfl

@[simp] theorem State.out_wr64 : (s.wr64 o v).out = s.out := rfl

@[simp] theorem State.capHi_wr64 : (s.wr64 o v).capHi = s.capHi := rfl

@[simp] theorem State.heldLo_wr64 : (s.wr64 o v).heldLo = s.heldLo := rfl

@[simp] theorem State.rcap_wr64 : (s.wr64 o v).rcap = s.rcap := rfl

@[simp] theorem State.pkt_wr64 : (s.wr64 o v).pkt = s.pkt := rfl

@[simp] theorem State.fuses_wr64 : (s.wr64 o v).fuses = s.fuses := rfl

@[simp] theorem State.held_wr64 : (s.wr64 o v).held = s.held := rfl

@[simp] theorem State.burn_wr64 : (s.wr64 o v).burn = s.burn := rfl

@[simp] theorem State.clk_wr64 : (s.wr64 o v).clk = s.clk := rfl

@[simp] theorem State.sys_wr64 : (s.wr64 o v).sys = s.sys := rfl

@[simp] theorem State.vnr_wr64 : (s.wr64 o v).vnr = s.vnr := rfl

@[simp] theorem State.mqy_wr64 : (s.wr64 o v).mqy = s.mqy := rfl

@[simp] theorem State.prt_wr64 : (s.wr64 o v).prt = s.prt := rfl

@[simp] theorem State.prs_wr64 : (s.wr64 o v).prs = s.prs := rfl

@[simp] theorem State.bpm_wr64 : (s.wr64 o v).bpm = s.bpm := rfl

@[simp] theorem State.locks_wr64 : (s.wr64 o v).locks = s.locks := rfl

@[simp] theorem State.dst_wr64 : (s.wr64 o v).dst = s.dst := rfl

@[simp] theorem State.whl_wr64 : (s.wr64 o v).whl = s.whl := rfl

@[simp] theorem State.fwd_wr64 : (s.wr64 o v).fwd = s.fwd := rfl

@[simp] theorem State.hif_wr64 : (s.wr64 o v).hif = s.hif := rfl

@[simp] theorem State.evt_wr64 : (s.wr64 o v).evt = s.evt := rfl

@[simp] theorem State.aud_wr64 : (s.wr64 o v).aud = s.aud := rfl

@[simp] theorem State.safe_wr64 : (s.wr64 o v).safe = s.safe := rfl

@[simp] theorem State.pws_wr64 : (s.wr64 o v).pws = s.pws := rfl

@[simp] theorem State.cal_wr64 : (s.wr64 o v).cal = s.cal := rfl

@[simp] theorem State.jrn_wr64 : (s.wr64 o v).jrn = s.jrn := rfl

@[simp] theorem State.thm_wr64 : (s.wr64 o v).thm = s.thm := rfl

@[simp] theorem State.ist_wr64 : (s.wr64 o v).ist = s.ist := rfl

@[simp] theorem State.dgn_wr64 : (s.wr64 o v).dgn = s.dgn := rfl

@[simp] theorem State.tap_wr64 : (s.wr64 o v).tap = s.tap := rfl

@[simp] theorem State.ply_wr64 : (s.wr64 o v).ply = s.ply := rfl

@[simp] theorem State.thread_wr64 (j : Nat) : (s.wr64 o v).thread j = s.thread j := rfl

@[simp] theorem State.core_wr64 (j : Nat) : (s.wr64 o v).core j = s.core j := rfl

@[simp] theorem State.panel_wr64 (j : Nat) : (s.wr64 o v).panel j = s.panel j := rfl

@[simp] theorem State.port_wr64 (j : Nat) : (s.wr64 o v).port j = s.port j := rfl

@[simp] theorem State.lock_wr64 (j : Nat) : (s.wr64 o v).lock j = s.lock j := rfl

@[simp] theorem State.pch_wr64 (j : Nat) : (s.wr64 o v).pch j = s.pch j := rfl

@[simp] theorem State.ach_wr64 (j : Nat) : (s.wr64 o v).ach j = s.ach j := rfl

@[simp] theorem State.cch_wr64 (j : Nat) : (s.wr64 o v).cch j = s.cch j := rfl

@[simp] theorem State.fan_wr64 (j : Nat) : (s.wr64 o v).fan j = s.fan j := rfl

@[simp] theorem State.qp_wr64 (j : Nat) : (s.wr64 o v).qp j = s.qp j := rfl

@[simp] theorem State.can_wr64 (j : Nat) : (s.wr64 o v).can j = s.can j := rfl

@[simp] theorem State.tdm_wr64 (j : Nat) : (s.wr64 o v).tdm j = s.tdm j := rfl

end

/-! resetRegs -/

section
variable (s : State) (b n : Nat)

@[simp] theorem State.pending_resetRegs : (s.resetRegs b n).pending = s.pending := rfl

@[simp] theorem State.free_resetRegs : (s.resetRegs b n).free = s.free := rfl

@[simp] theorem State.resp_resetRegs : (s.resetRegs b n).resp = s.resp := rfl

@[simp] theorem State.out_resetRegs : (s.resetRegs b n).out = s.out := rfl

@[simp] theorem State.capHi_resetRegs : (s.resetRegs b n).capHi = s.capHi := rfl

@[simp] theorem State.heldLo_resetRegs : (s.resetRegs b n).heldLo = s.heldLo := rfl

@[simp] theorem State.rcap_resetRegs : (s.resetRegs b n).rcap = s.rcap := rfl

@[simp] theorem State.pkt_resetRegs : (s.resetRegs b n).pkt = s.pkt := rfl

@[simp] theorem State.fuses_resetRegs : (s.resetRegs b n).fuses = s.fuses := rfl

@[simp] theorem State.held_resetRegs : (s.resetRegs b n).held = s.held := rfl

@[simp] theorem State.burn_resetRegs : (s.resetRegs b n).burn = s.burn := rfl

@[simp] theorem State.clk_resetRegs : (s.resetRegs b n).clk = s.clk := rfl

@[simp] theorem State.sys_resetRegs : (s.resetRegs b n).sys = s.sys := rfl

@[simp] theorem State.vnr_resetRegs : (s.resetRegs b n).vnr = s.vnr := rfl

@[simp] theorem State.mqy_resetRegs : (s.resetRegs b n).mqy = s.mqy := rfl

@[simp] theorem State.prt_resetRegs : (s.resetRegs b n).prt = s.prt := rfl

@[simp] theorem State.prs_resetRegs : (s.resetRegs b n).prs = s.prs := rfl

@[simp] theorem State.bpm_resetRegs : (s.resetRegs b n).bpm = s.bpm := rfl

@[simp] theorem State.locks_resetRegs : (s.resetRegs b n).locks = s.locks := rfl

@[simp] theorem State.dst_resetRegs : (s.resetRegs b n).dst = s.dst := rfl

@[simp] theorem State.whl_resetRegs : (s.resetRegs b n).whl = s.whl := rfl

@[simp] theorem State.fwd_resetRegs : (s.resetRegs b n).fwd = s.fwd := rfl

@[simp] theorem State.hif_resetRegs : (s.resetRegs b n).hif = s.hif := rfl

@[simp] theorem State.evt_resetRegs : (s.resetRegs b n).evt = s.evt := rfl

@[simp] theorem State.aud_resetRegs : (s.resetRegs b n).aud = s.aud := rfl

@[simp] theorem State.safe_resetRegs : (s.resetRegs b n).safe = s.safe := rfl

@[simp] theorem State.pws_resetRegs : (s.resetRegs b n).pws = s.pws := rfl

@[simp] theorem State.cal_resetRegs : (s.resetRegs b n).cal = s.cal := rfl

@[simp] theorem State.jrn_resetRegs : (s.resetRegs b n).jrn = s.jrn := rfl

@[simp] theorem State.thm_resetRegs : (s.resetRegs b n).thm = s.thm := rfl

@[simp] theorem State.ist_resetRegs : (s.resetRegs b n).ist = s.ist := rfl

@[simp] theorem State.dgn_resetRegs : (s.resetRegs b n).dgn = s.dgn := rfl

@[simp] theorem State.tap_resetRegs : (s.resetRegs b n).tap = s.tap := rfl

@[simp] theorem State.ply_resetRegs : (s.resetRegs b n).ply = s.ply := rfl

@[simp] theorem State.thread_resetRegs (j : Nat) : (s.resetRegs b n).thread j = s.thread j := rfl

@[simp] theorem State.core_resetRegs (j : Nat) : (s.resetRegs b n).core j = s.core j := rfl

@[simp] theorem State.panel_resetRegs (j : Nat) : (s.resetRegs b n).panel j = s.panel j := rfl

@[simp] theorem State.port_resetRegs (j : Nat) : (s.resetRegs b n).port j = s.port j := rfl

@[simp] theorem State.lock_resetRegs (j : Nat) : (s.resetRegs b n).lock j = s.lock j := rfl

@[simp] theorem State.pch_resetRegs (j : Nat) : (s.resetRegs b n).pch j = s.pch j := rfl

@[simp] theorem State.ach_resetRegs (j : Nat) : (s.resetRegs b n).ach j = s.ach j := rfl

@[simp] theorem State.cch_resetRegs (j : Nat) : (s.resetRegs b n).cch j = s.cch j := rfl

@[simp] theorem State.fan_resetRegs (j : Nat) : (s.resetRegs b n).fan j = s.fan j := rfl

@[simp] theorem State.qp_resetRegs (j : Nat) : (s.resetRegs b n).qp j = s.qp j := rfl

@[simp] theorem State.can_resetRegs (j : Nat) : (s.resetRegs b n).can j = s.can j := rfl

@[simp] theorem State.tdm_resetRegs (j : Nat) : (s.resetRegs b n).tdm j = s.tdm j := rfl

end

/-! draw -/

section
variable (s : State) (k : Nat)

@[simp] theorem State.pending_draw : (s.draw k).2.pending = s.pending := rfl

@[simp] theorem State.regs_draw : (s.draw k).2.regs = s.regs := rfl

@[simp] theorem State.resp_draw : (s.draw k).2.resp = s.resp := rfl

@[simp] theorem State.out_draw : (s.draw k).2.out = s.out := rfl

@[simp] theorem State.capHi_draw : (s.draw k).2.capHi = s.capHi := rfl

@[simp] theorem State.heldLo_draw : (s.draw k).2.heldLo = s.heldLo := rfl

@[simp] theorem State.rcap_draw : (s.draw k).2.rcap = s.rcap := rfl

@[simp] theorem State.pkt_draw : (s.draw k).2.pkt = s.pkt := rfl

@[simp] theorem State.fuses_draw : (s.draw k).2.fuses = s.fuses := rfl

@[simp] theorem State.held_draw : (s.draw k).2.held = s.held := rfl

@[simp] theorem State.burn_draw : (s.draw k).2.burn = s.burn := rfl

@[simp] theorem State.clk_draw : (s.draw k).2.clk = s.clk := rfl

@[simp] theorem State.sys_draw : (s.draw k).2.sys = s.sys := rfl

@[simp] theorem State.vnr_draw : (s.draw k).2.vnr = s.vnr := rfl

@[simp] theorem State.mqy_draw : (s.draw k).2.mqy = s.mqy := rfl

@[simp] theorem State.prt_draw : (s.draw k).2.prt = s.prt := rfl

@[simp] theorem State.prs_draw : (s.draw k).2.prs = s.prs := rfl

@[simp] theorem State.bpm_draw : (s.draw k).2.bpm = s.bpm := rfl

@[simp] theorem State.locks_draw : (s.draw k).2.locks = s.locks := rfl

@[simp] theorem State.dst_draw : (s.draw k).2.dst = s.dst := rfl

@[simp] theorem State.whl_draw : (s.draw k).2.whl = s.whl := rfl

@[simp] theorem State.fwd_draw : (s.draw k).2.fwd = s.fwd := rfl

@[simp] theorem State.hif_draw : (s.draw k).2.hif = s.hif := rfl

@[simp] theorem State.evt_draw : (s.draw k).2.evt = s.evt := rfl

@[simp] theorem State.aud_draw : (s.draw k).2.aud = s.aud := rfl

@[simp] theorem State.safe_draw : (s.draw k).2.safe = s.safe := rfl

@[simp] theorem State.pws_draw : (s.draw k).2.pws = s.pws := rfl

@[simp] theorem State.cal_draw : (s.draw k).2.cal = s.cal := rfl

@[simp] theorem State.jrn_draw : (s.draw k).2.jrn = s.jrn := rfl

@[simp] theorem State.thm_draw : (s.draw k).2.thm = s.thm := rfl

@[simp] theorem State.ist_draw : (s.draw k).2.ist = s.ist := rfl

@[simp] theorem State.dgn_draw : (s.draw k).2.dgn = s.dgn := rfl

@[simp] theorem State.tap_draw : (s.draw k).2.tap = s.tap := rfl

@[simp] theorem State.ply_draw : (s.draw k).2.ply = s.ply := rfl

@[simp] theorem State.rd_draw (p : Nat) : (s.draw k).2.rd p = s.rd p := rfl

@[simp] theorem State.get_draw (g : Fld) : (s.draw k).2.get g = s.get g := rfl

@[simp] theorem State.flag_draw (g : Fld) : (s.draw k).2.flag g = s.flag g := rfl

@[simp] theorem State.thread_draw (j : Nat) : (s.draw k).2.thread j = s.thread j := rfl

@[simp] theorem State.core_draw (j : Nat) : (s.draw k).2.core j = s.core j := rfl

@[simp] theorem State.panel_draw (j : Nat) : (s.draw k).2.panel j = s.panel j := rfl

@[simp] theorem State.port_draw (j : Nat) : (s.draw k).2.port j = s.port j := rfl

@[simp] theorem State.lock_draw (j : Nat) : (s.draw k).2.lock j = s.lock j := rfl

@[simp] theorem State.pch_draw (j : Nat) : (s.draw k).2.pch j = s.pch j := rfl

@[simp] theorem State.ach_draw (j : Nat) : (s.draw k).2.ach j = s.ach j := rfl

@[simp] theorem State.cch_draw (j : Nat) : (s.draw k).2.cch j = s.cch j := rfl

@[simp] theorem State.fan_draw (j : Nat) : (s.draw k).2.fan j = s.fan j := rfl

@[simp] theorem State.qp_draw (j : Nat) : (s.draw k).2.qp j = s.qp j := rfl

@[simp] theorem State.can_draw (j : Nat) : (s.draw k).2.can j = s.can j := rfl

@[simp] theorem State.tdm_draw (j : Nat) : (s.draw k).2.tdm j = s.tdm j := rfl

end

/-! havoc -/

section
variable (s : State)

@[simp] theorem State.pending_havoc : s.havoc.2.pending = s.pending := rfl

@[simp] theorem State.regs_havoc : s.havoc.2.regs = s.regs := rfl

@[simp] theorem State.resp_havoc : s.havoc.2.resp = s.resp := rfl

@[simp] theorem State.out_havoc : s.havoc.2.out = s.out := rfl

@[simp] theorem State.capHi_havoc : s.havoc.2.capHi = s.capHi := rfl

@[simp] theorem State.heldLo_havoc : s.havoc.2.heldLo = s.heldLo := rfl

@[simp] theorem State.rcap_havoc : s.havoc.2.rcap = s.rcap := rfl

@[simp] theorem State.pkt_havoc : s.havoc.2.pkt = s.pkt := rfl

@[simp] theorem State.fuses_havoc : s.havoc.2.fuses = s.fuses := rfl

@[simp] theorem State.held_havoc : s.havoc.2.held = s.held := rfl

@[simp] theorem State.burn_havoc : s.havoc.2.burn = s.burn := rfl

@[simp] theorem State.clk_havoc : s.havoc.2.clk = s.clk := rfl

@[simp] theorem State.sys_havoc : s.havoc.2.sys = s.sys := rfl

@[simp] theorem State.vnr_havoc : s.havoc.2.vnr = s.vnr := rfl

@[simp] theorem State.mqy_havoc : s.havoc.2.mqy = s.mqy := rfl

@[simp] theorem State.prt_havoc : s.havoc.2.prt = s.prt := rfl

@[simp] theorem State.prs_havoc : s.havoc.2.prs = s.prs := rfl

@[simp] theorem State.bpm_havoc : s.havoc.2.bpm = s.bpm := rfl

@[simp] theorem State.locks_havoc : s.havoc.2.locks = s.locks := rfl

@[simp] theorem State.dst_havoc : s.havoc.2.dst = s.dst := rfl

@[simp] theorem State.whl_havoc : s.havoc.2.whl = s.whl := rfl

@[simp] theorem State.fwd_havoc : s.havoc.2.fwd = s.fwd := rfl

@[simp] theorem State.hif_havoc : s.havoc.2.hif = s.hif := rfl

@[simp] theorem State.evt_havoc : s.havoc.2.evt = s.evt := rfl

@[simp] theorem State.aud_havoc : s.havoc.2.aud = s.aud := rfl

@[simp] theorem State.safe_havoc : s.havoc.2.safe = s.safe := rfl

@[simp] theorem State.pws_havoc : s.havoc.2.pws = s.pws := rfl

@[simp] theorem State.cal_havoc : s.havoc.2.cal = s.cal := rfl

@[simp] theorem State.jrn_havoc : s.havoc.2.jrn = s.jrn := rfl

@[simp] theorem State.thm_havoc : s.havoc.2.thm = s.thm := rfl

@[simp] theorem State.ist_havoc : s.havoc.2.ist = s.ist := rfl

@[simp] theorem State.dgn_havoc : s.havoc.2.dgn = s.dgn := rfl

@[simp] theorem State.tap_havoc : s.havoc.2.tap = s.tap := rfl

@[simp] theorem State.ply_havoc : s.havoc.2.ply = s.ply := rfl

@[simp] theorem State.rd_havoc (p : Nat) : s.havoc.2.rd p = s.rd p := rfl

@[simp] theorem State.get_havoc (g : Fld) : s.havoc.2.get g = s.get g := rfl

@[simp] theorem State.flag_havoc (g : Fld) : s.havoc.2.flag g = s.flag g := rfl

@[simp] theorem State.thread_havoc (j : Nat) : s.havoc.2.thread j = s.thread j := rfl

@[simp] theorem State.core_havoc (j : Nat) : s.havoc.2.core j = s.core j := rfl

@[simp] theorem State.panel_havoc (j : Nat) : s.havoc.2.panel j = s.panel j := rfl

@[simp] theorem State.port_havoc (j : Nat) : s.havoc.2.port j = s.port j := rfl

@[simp] theorem State.lock_havoc (j : Nat) : s.havoc.2.lock j = s.lock j := rfl

@[simp] theorem State.pch_havoc (j : Nat) : s.havoc.2.pch j = s.pch j := rfl

@[simp] theorem State.ach_havoc (j : Nat) : s.havoc.2.ach j = s.ach j := rfl

@[simp] theorem State.cch_havoc (j : Nat) : s.havoc.2.cch j = s.cch j := rfl

@[simp] theorem State.fan_havoc (j : Nat) : s.havoc.2.fan j = s.fan j := rfl

@[simp] theorem State.qp_havoc (j : Nat) : s.havoc.2.qp j = s.qp j := rfl

@[simp] theorem State.can_havoc (j : Nat) : s.havoc.2.can j = s.can j := rfl

@[simp] theorem State.tdm_havoc (j : Nat) : s.havoc.2.tdm j = s.tdm j := rfl

end

/-! weftWait -/

section
variable (q : PanelAccess) (s : State)

@[simp] theorem State.pending_weftWait : (weftWait q s).pending = s.pending := rfl

@[simp] theorem State.regs_weftWait : (weftWait q s).regs = s.regs := rfl

@[simp] theorem State.resp_weftWait : (weftWait q s).resp = s.resp := rfl

@[simp] theorem State.out_weftWait : (weftWait q s).out = s.out := rfl

@[simp] theorem State.capHi_weftWait : (weftWait q s).capHi = s.capHi := rfl

@[simp] theorem State.heldLo_weftWait : (weftWait q s).heldLo = s.heldLo := rfl

@[simp] theorem State.rcap_weftWait : (weftWait q s).rcap = s.rcap := rfl

@[simp] theorem State.pkt_weftWait : (weftWait q s).pkt = s.pkt := rfl

@[simp] theorem State.fuses_weftWait : (weftWait q s).fuses = s.fuses := rfl

@[simp] theorem State.held_weftWait : (weftWait q s).held = s.held := rfl

@[simp] theorem State.burn_weftWait : (weftWait q s).burn = s.burn := rfl

@[simp] theorem State.free_weftWait : (weftWait q s).free = s.free := rfl

@[simp] theorem State.clk_weftWait : (weftWait q s).clk = { s.clk with wait := s.clk.wait ++ [q] } := rfl

@[simp] theorem State.sys_weftWait : (weftWait q s).sys = s.sys := rfl

@[simp] theorem State.vnr_weftWait : (weftWait q s).vnr = s.vnr := rfl

@[simp] theorem State.mqy_weftWait : (weftWait q s).mqy = s.mqy := rfl

@[simp] theorem State.prt_weftWait : (weftWait q s).prt = s.prt := rfl

@[simp] theorem State.prs_weftWait : (weftWait q s).prs = s.prs := rfl

@[simp] theorem State.bpm_weftWait : (weftWait q s).bpm = s.bpm := rfl

@[simp] theorem State.locks_weftWait : (weftWait q s).locks = s.locks := rfl

@[simp] theorem State.dst_weftWait : (weftWait q s).dst = s.dst := rfl

@[simp] theorem State.whl_weftWait : (weftWait q s).whl = s.whl := rfl

@[simp] theorem State.fwd_weftWait : (weftWait q s).fwd = s.fwd := rfl

@[simp] theorem State.hif_weftWait : (weftWait q s).hif = s.hif := rfl

@[simp] theorem State.evt_weftWait : (weftWait q s).evt = s.evt := rfl

@[simp] theorem State.aud_weftWait : (weftWait q s).aud = s.aud := rfl

@[simp] theorem State.safe_weftWait : (weftWait q s).safe = s.safe := rfl

@[simp] theorem State.pws_weftWait : (weftWait q s).pws = s.pws := rfl

@[simp] theorem State.cal_weftWait : (weftWait q s).cal = s.cal := rfl

@[simp] theorem State.jrn_weftWait : (weftWait q s).jrn = s.jrn := rfl

@[simp] theorem State.thm_weftWait : (weftWait q s).thm = s.thm := rfl

@[simp] theorem State.ist_weftWait : (weftWait q s).ist = s.ist := rfl

@[simp] theorem State.dgn_weftWait : (weftWait q s).dgn = s.dgn := rfl

@[simp] theorem State.tap_weftWait : (weftWait q s).tap = s.tap := rfl

@[simp] theorem State.ply_weftWait : (weftWait q s).ply = s.ply := rfl

@[simp] theorem State.rd_weftWait (p : Nat) : (weftWait q s).rd p = s.rd p := rfl

@[simp] theorem State.get_weftWait (g : Fld) : (weftWait q s).get g = s.get g := rfl

@[simp] theorem State.flag_weftWait (g : Fld) : (weftWait q s).flag g = s.flag g := rfl

@[simp] theorem State.thread_weftWait (j : Nat) : (weftWait q s).thread j = s.thread j := rfl

@[simp] theorem State.core_weftWait (j : Nat) : (weftWait q s).core j = s.core j := rfl

@[simp] theorem State.panel_weftWait (j : Nat) : (weftWait q s).panel j = s.panel j := rfl

@[simp] theorem State.port_weftWait (j : Nat) : (weftWait q s).port j = s.port j := rfl

@[simp] theorem State.lock_weftWait (j : Nat) : (weftWait q s).lock j = s.lock j := rfl

@[simp] theorem State.pch_weftWait (j : Nat) : (weftWait q s).pch j = s.pch j := rfl

@[simp] theorem State.ach_weftWait (j : Nat) : (weftWait q s).ach j = s.ach j := rfl

@[simp] theorem State.cch_weftWait (j : Nat) : (weftWait q s).cch j = s.cch j := rfl

@[simp] theorem State.fan_weftWait (j : Nat) : (weftWait q s).fan j = s.fan j := rfl

@[simp] theorem State.qp_weftWait (j : Nat) : (weftWait q s).qp j = s.qp j := rfl

@[simp] theorem State.can_weftWait (j : Nat) : (weftWait q s).can j = s.can j := rfl

@[simp] theorem State.tdm_weftWait (j : Nat) : (weftWait q s).tdm j = s.tdm j := rfl

end

/-! setPkt -/

section
variable (s : State) (m : Mem)

@[simp] theorem State.pending_setPkt : (s.setPkt m).pending = s.pending := rfl

@[simp] theorem State.free_setPkt : (s.setPkt m).free = s.free := rfl

@[simp] theorem State.regs_setPkt : (s.setPkt m).regs = s.regs := rfl

@[simp] theorem State.resp_setPkt : (s.setPkt m).resp = s.resp := rfl

@[simp] theorem State.out_setPkt : (s.setPkt m).out = s.out := rfl

@[simp] theorem State.capHi_setPkt : (s.setPkt m).capHi = s.capHi := rfl

@[simp] theorem State.heldLo_setPkt : (s.setPkt m).heldLo = s.heldLo := rfl

@[simp] theorem State.rcap_setPkt : (s.setPkt m).rcap = s.rcap := rfl

@[simp] theorem State.fuses_setPkt : (s.setPkt m).fuses = s.fuses := rfl

@[simp] theorem State.held_setPkt : (s.setPkt m).held = s.held := rfl

@[simp] theorem State.burn_setPkt : (s.setPkt m).burn = s.burn := rfl

@[simp] theorem State.clk_setPkt : (s.setPkt m).clk = s.clk := rfl

@[simp] theorem State.sys_setPkt : (s.setPkt m).sys = s.sys := rfl

@[simp] theorem State.vnr_setPkt : (s.setPkt m).vnr = s.vnr := rfl

@[simp] theorem State.mqy_setPkt : (s.setPkt m).mqy = s.mqy := rfl

@[simp] theorem State.prt_setPkt : (s.setPkt m).prt = s.prt := rfl

@[simp] theorem State.prs_setPkt : (s.setPkt m).prs = s.prs := rfl

@[simp] theorem State.bpm_setPkt : (s.setPkt m).bpm = s.bpm := rfl

@[simp] theorem State.locks_setPkt : (s.setPkt m).locks = s.locks := rfl

@[simp] theorem State.dst_setPkt : (s.setPkt m).dst = s.dst := rfl

@[simp] theorem State.whl_setPkt : (s.setPkt m).whl = s.whl := rfl

@[simp] theorem State.fwd_setPkt : (s.setPkt m).fwd = s.fwd := rfl

@[simp] theorem State.hif_setPkt : (s.setPkt m).hif = s.hif := rfl

@[simp] theorem State.evt_setPkt : (s.setPkt m).evt = s.evt := rfl

@[simp] theorem State.aud_setPkt : (s.setPkt m).aud = s.aud := rfl

@[simp] theorem State.safe_setPkt : (s.setPkt m).safe = s.safe := rfl

@[simp] theorem State.pws_setPkt : (s.setPkt m).pws = s.pws := rfl

@[simp] theorem State.cal_setPkt : (s.setPkt m).cal = s.cal := rfl

@[simp] theorem State.jrn_setPkt : (s.setPkt m).jrn = s.jrn := rfl

@[simp] theorem State.thm_setPkt : (s.setPkt m).thm = s.thm := rfl

@[simp] theorem State.ist_setPkt : (s.setPkt m).ist = s.ist := rfl

@[simp] theorem State.dgn_setPkt : (s.setPkt m).dgn = s.dgn := rfl

@[simp] theorem State.tap_setPkt : (s.setPkt m).tap = s.tap := rfl

@[simp] theorem State.ply_setPkt : (s.setPkt m).ply = s.ply := rfl

@[simp] theorem State.rd_setPkt (p : Nat) : (s.setPkt m).rd p = s.rd p := rfl

@[simp] theorem State.get_setPkt (g : Fld) : (s.setPkt m).get g = s.get g := rfl

@[simp] theorem State.flag_setPkt (g : Fld) : (s.setPkt m).flag g = s.flag g := rfl

@[simp] theorem State.thread_setPkt (j : Nat) : (s.setPkt m).thread j = s.thread j := rfl

@[simp] theorem State.core_setPkt (j : Nat) : (s.setPkt m).core j = s.core j := rfl

@[simp] theorem State.panel_setPkt (j : Nat) : (s.setPkt m).panel j = s.panel j := rfl

@[simp] theorem State.port_setPkt (j : Nat) : (s.setPkt m).port j = s.port j := rfl

@[simp] theorem State.lock_setPkt (j : Nat) : (s.setPkt m).lock j = s.lock j := rfl

@[simp] theorem State.pch_setPkt (j : Nat) : (s.setPkt m).pch j = s.pch j := rfl

@[simp] theorem State.ach_setPkt (j : Nat) : (s.setPkt m).ach j = s.ach j := rfl

@[simp] theorem State.cch_setPkt (j : Nat) : (s.setPkt m).cch j = s.cch j := rfl

@[simp] theorem State.fan_setPkt (j : Nat) : (s.setPkt m).fan j = s.fan j := rfl

@[simp] theorem State.qp_setPkt (j : Nat) : (s.setPkt m).qp j = s.qp j := rfl

@[simp] theorem State.can_setPkt (j : Nat) : (s.setPkt m).can j = s.can j := rfl

@[simp] theorem State.tdm_setPkt (j : Nat) : (s.setPkt m).tdm j = s.tdm j := rfl

end

/-! emit -/

section
variable (s : State) (o : Output)

@[simp] theorem State.pending_emit : (s.emit o).pending = s.pending := rfl

@[simp] theorem State.free_emit : (s.emit o).free = s.free := rfl

@[simp] theorem State.regs_emit : (s.emit o).regs = s.regs := rfl

@[simp] theorem State.resp_emit : (s.emit o).resp = s.resp := rfl

@[simp] theorem State.capHi_emit : (s.emit o).capHi = s.capHi := rfl

@[simp] theorem State.heldLo_emit : (s.emit o).heldLo = s.heldLo := rfl

@[simp] theorem State.rcap_emit : (s.emit o).rcap = s.rcap := rfl

@[simp] theorem State.pkt_emit : (s.emit o).pkt = s.pkt := rfl

@[simp] theorem State.fuses_emit : (s.emit o).fuses = s.fuses := rfl

@[simp] theorem State.held_emit : (s.emit o).held = s.held := rfl

@[simp] theorem State.burn_emit : (s.emit o).burn = s.burn := rfl

@[simp] theorem State.clk_emit : (s.emit o).clk = s.clk := rfl

@[simp] theorem State.sys_emit : (s.emit o).sys = s.sys := rfl

@[simp] theorem State.vnr_emit : (s.emit o).vnr = s.vnr := rfl

@[simp] theorem State.mqy_emit : (s.emit o).mqy = s.mqy := rfl

@[simp] theorem State.prt_emit : (s.emit o).prt = s.prt := rfl

@[simp] theorem State.prs_emit : (s.emit o).prs = s.prs := rfl

@[simp] theorem State.bpm_emit : (s.emit o).bpm = s.bpm := rfl

@[simp] theorem State.locks_emit : (s.emit o).locks = s.locks := rfl

@[simp] theorem State.dst_emit : (s.emit o).dst = s.dst := rfl

@[simp] theorem State.whl_emit : (s.emit o).whl = s.whl := rfl

@[simp] theorem State.fwd_emit : (s.emit o).fwd = s.fwd := rfl

@[simp] theorem State.hif_emit : (s.emit o).hif = s.hif := rfl

@[simp] theorem State.evt_emit : (s.emit o).evt = s.evt := rfl

@[simp] theorem State.aud_emit : (s.emit o).aud = s.aud := rfl

@[simp] theorem State.safe_emit : (s.emit o).safe = s.safe := rfl

@[simp] theorem State.pws_emit : (s.emit o).pws = s.pws := rfl

@[simp] theorem State.cal_emit : (s.emit o).cal = s.cal := rfl

@[simp] theorem State.jrn_emit : (s.emit o).jrn = s.jrn := rfl

@[simp] theorem State.thm_emit : (s.emit o).thm = s.thm := rfl

@[simp] theorem State.ist_emit : (s.emit o).ist = s.ist := rfl

@[simp] theorem State.dgn_emit : (s.emit o).dgn = s.dgn := rfl

@[simp] theorem State.tap_emit : (s.emit o).tap = s.tap := rfl

@[simp] theorem State.ply_emit : (s.emit o).ply = s.ply := rfl

@[simp] theorem State.rd_emit (p : Nat) : (s.emit o).rd p = s.rd p := rfl

@[simp] theorem State.get_emit (g : Fld) : (s.emit o).get g = s.get g := rfl

@[simp] theorem State.flag_emit (g : Fld) : (s.emit o).flag g = s.flag g := rfl

@[simp] theorem State.thread_emit (j : Nat) : (s.emit o).thread j = s.thread j := rfl

@[simp] theorem State.core_emit (j : Nat) : (s.emit o).core j = s.core j := rfl

@[simp] theorem State.panel_emit (j : Nat) : (s.emit o).panel j = s.panel j := rfl

@[simp] theorem State.port_emit (j : Nat) : (s.emit o).port j = s.port j := rfl

@[simp] theorem State.lock_emit (j : Nat) : (s.emit o).lock j = s.lock j := rfl

@[simp] theorem State.pch_emit (j : Nat) : (s.emit o).pch j = s.pch j := rfl

@[simp] theorem State.ach_emit (j : Nat) : (s.emit o).ach j = s.ach j := rfl

@[simp] theorem State.cch_emit (j : Nat) : (s.emit o).cch j = s.cch j := rfl

@[simp] theorem State.fan_emit (j : Nat) : (s.emit o).fan j = s.fan j := rfl

@[simp] theorem State.qp_emit (j : Nat) : (s.emit o).qp j = s.qp j := rfl

@[simp] theorem State.can_emit (j : Nat) : (s.emit o).can j = s.can j := rfl

@[simp] theorem State.tdm_emit (j : Nat) : (s.emit o).tdm j = s.tdm j := rfl

end

/-! respond -/

section
variable (s : State) (i : Nat) (v : Word)

@[simp] theorem State.pending_respond : (respond i v s).pending = s.pending := rfl

@[simp] theorem State.free_respond : (respond i v s).free = s.free := rfl

@[simp] theorem State.regs_respond : (respond i v s).regs = s.regs := rfl

@[simp] theorem State.out_respond : (respond i v s).out = s.out := rfl

@[simp] theorem State.capHi_respond : (respond i v s).capHi = s.capHi := rfl

@[simp] theorem State.heldLo_respond : (respond i v s).heldLo = s.heldLo := rfl

@[simp] theorem State.rcap_respond : (respond i v s).rcap = s.rcap := rfl

@[simp] theorem State.pkt_respond : (respond i v s).pkt = s.pkt := rfl

@[simp] theorem State.fuses_respond : (respond i v s).fuses = s.fuses := rfl

@[simp] theorem State.held_respond : (respond i v s).held = s.held := rfl

@[simp] theorem State.burn_respond : (respond i v s).burn = s.burn := rfl

@[simp] theorem State.clk_respond : (respond i v s).clk = s.clk := rfl

@[simp] theorem State.sys_respond : (respond i v s).sys = s.sys := rfl

@[simp] theorem State.vnr_respond : (respond i v s).vnr = s.vnr := rfl

@[simp] theorem State.mqy_respond : (respond i v s).mqy = s.mqy := rfl

@[simp] theorem State.prt_respond : (respond i v s).prt = s.prt := rfl

@[simp] theorem State.prs_respond : (respond i v s).prs = s.prs := rfl

@[simp] theorem State.bpm_respond : (respond i v s).bpm = s.bpm := rfl

@[simp] theorem State.locks_respond : (respond i v s).locks = s.locks := rfl

@[simp] theorem State.dst_respond : (respond i v s).dst = s.dst := rfl

@[simp] theorem State.whl_respond : (respond i v s).whl = s.whl := rfl

@[simp] theorem State.fwd_respond : (respond i v s).fwd = s.fwd := rfl

@[simp] theorem State.hif_respond : (respond i v s).hif = s.hif := rfl

@[simp] theorem State.evt_respond : (respond i v s).evt = s.evt := rfl

@[simp] theorem State.aud_respond : (respond i v s).aud = s.aud := rfl

@[simp] theorem State.safe_respond : (respond i v s).safe = s.safe := rfl

@[simp] theorem State.pws_respond : (respond i v s).pws = s.pws := rfl

@[simp] theorem State.cal_respond : (respond i v s).cal = s.cal := rfl

@[simp] theorem State.jrn_respond : (respond i v s).jrn = s.jrn := rfl

@[simp] theorem State.thm_respond : (respond i v s).thm = s.thm := rfl

@[simp] theorem State.ist_respond : (respond i v s).ist = s.ist := rfl

@[simp] theorem State.dgn_respond : (respond i v s).dgn = s.dgn := rfl

@[simp] theorem State.tap_respond : (respond i v s).tap = s.tap := rfl

@[simp] theorem State.ply_respond : (respond i v s).ply = s.ply := rfl

@[simp] theorem State.rd_respond (p : Nat) : (respond i v s).rd p = s.rd p := rfl

@[simp] theorem State.get_respond (g : Fld) : (respond i v s).get g = s.get g := rfl

@[simp] theorem State.flag_respond (g : Fld) : (respond i v s).flag g = s.flag g := rfl

@[simp] theorem State.thread_respond (j : Nat) : (respond i v s).thread j = s.thread j := rfl

@[simp] theorem State.core_respond (j : Nat) : (respond i v s).core j = s.core j := rfl

@[simp] theorem State.panel_respond (j : Nat) : (respond i v s).panel j = s.panel j := rfl

@[simp] theorem State.port_respond (j : Nat) : (respond i v s).port j = s.port j := rfl

@[simp] theorem State.lock_respond (j : Nat) : (respond i v s).lock j = s.lock j := rfl

@[simp] theorem State.pch_respond (j : Nat) : (respond i v s).pch j = s.pch j := rfl

@[simp] theorem State.ach_respond (j : Nat) : (respond i v s).ach j = s.ach j := rfl

@[simp] theorem State.cch_respond (j : Nat) : (respond i v s).cch j = s.cch j := rfl

@[simp] theorem State.fan_respond (j : Nat) : (respond i v s).fan j = s.fan j := rfl

@[simp] theorem State.qp_respond (j : Nat) : (respond i v s).qp j = s.qp j := rfl

@[simp] theorem State.can_respond (j : Nat) : (respond i v s).can j = s.can j := rfl

@[simp] theorem State.tdm_respond (j : Nat) : (respond i v s).tdm j = s.tdm j := rfl

end

/-! withPending -/

section
variable (s : State) (q : List Instr)

@[simp] theorem State.free_withPending : (s.withPending q).free = s.free := rfl

@[simp] theorem State.regs_withPending : (s.withPending q).regs = s.regs := rfl

@[simp] theorem State.resp_withPending : (s.withPending q).resp = s.resp := rfl

@[simp] theorem State.out_withPending : (s.withPending q).out = s.out := rfl

@[simp] theorem State.capHi_withPending : (s.withPending q).capHi = s.capHi := rfl

@[simp] theorem State.heldLo_withPending : (s.withPending q).heldLo = s.heldLo := rfl

@[simp] theorem State.rcap_withPending : (s.withPending q).rcap = s.rcap := rfl

@[simp] theorem State.pkt_withPending : (s.withPending q).pkt = s.pkt := rfl

@[simp] theorem State.fuses_withPending : (s.withPending q).fuses = s.fuses := rfl

@[simp] theorem State.held_withPending : (s.withPending q).held = s.held := rfl

@[simp] theorem State.burn_withPending : (s.withPending q).burn = s.burn := rfl

@[simp] theorem State.clk_withPending : (s.withPending q).clk = s.clk := rfl

@[simp] theorem State.sys_withPending : (s.withPending q).sys = s.sys := rfl

@[simp] theorem State.vnr_withPending : (s.withPending q).vnr = s.vnr := rfl

@[simp] theorem State.mqy_withPending : (s.withPending q).mqy = s.mqy := rfl

@[simp] theorem State.prt_withPending : (s.withPending q).prt = s.prt := rfl

@[simp] theorem State.prs_withPending : (s.withPending q).prs = s.prs := rfl

@[simp] theorem State.bpm_withPending : (s.withPending q).bpm = s.bpm := rfl

@[simp] theorem State.locks_withPending : (s.withPending q).locks = s.locks := rfl

@[simp] theorem State.dst_withPending : (s.withPending q).dst = s.dst := rfl

@[simp] theorem State.whl_withPending : (s.withPending q).whl = s.whl := rfl

@[simp] theorem State.fwd_withPending : (s.withPending q).fwd = s.fwd := rfl

@[simp] theorem State.hif_withPending : (s.withPending q).hif = s.hif := rfl

@[simp] theorem State.evt_withPending : (s.withPending q).evt = s.evt := rfl

@[simp] theorem State.aud_withPending : (s.withPending q).aud = s.aud := rfl

@[simp] theorem State.safe_withPending : (s.withPending q).safe = s.safe := rfl

@[simp] theorem State.pws_withPending : (s.withPending q).pws = s.pws := rfl

@[simp] theorem State.cal_withPending : (s.withPending q).cal = s.cal := rfl

@[simp] theorem State.jrn_withPending : (s.withPending q).jrn = s.jrn := rfl

@[simp] theorem State.thm_withPending : (s.withPending q).thm = s.thm := rfl

@[simp] theorem State.ist_withPending : (s.withPending q).ist = s.ist := rfl

@[simp] theorem State.dgn_withPending : (s.withPending q).dgn = s.dgn := rfl

@[simp] theorem State.tap_withPending : (s.withPending q).tap = s.tap := rfl

@[simp] theorem State.ply_withPending : (s.withPending q).ply = s.ply := rfl

@[simp] theorem State.rd_withPending (p : Nat) : (s.withPending q).rd p = s.rd p := rfl

@[simp] theorem State.get_withPending (g : Fld) : (s.withPending q).get g = s.get g := rfl

@[simp] theorem State.flag_withPending (g : Fld) : (s.withPending q).flag g = s.flag g := rfl

@[simp] theorem State.thread_withPending (j : Nat) : (s.withPending q).thread j = s.thread j := rfl

@[simp] theorem State.core_withPending (j : Nat) : (s.withPending q).core j = s.core j := rfl

@[simp] theorem State.panel_withPending (j : Nat) : (s.withPending q).panel j = s.panel j := rfl

@[simp] theorem State.port_withPending (j : Nat) : (s.withPending q).port j = s.port j := rfl

@[simp] theorem State.lock_withPending (j : Nat) : (s.withPending q).lock j = s.lock j := rfl

@[simp] theorem State.pch_withPending (j : Nat) : (s.withPending q).pch j = s.pch j := rfl

@[simp] theorem State.ach_withPending (j : Nat) : (s.withPending q).ach j = s.ach j := rfl

@[simp] theorem State.cch_withPending (j : Nat) : (s.withPending q).cch j = s.cch j := rfl

@[simp] theorem State.fan_withPending (j : Nat) : (s.withPending q).fan j = s.fan j := rfl

@[simp] theorem State.qp_withPending (j : Nat) : (s.withPending q).qp j = s.qp j := rfl

@[simp] theorem State.can_withPending (j : Nat) : (s.withPending q).can j = s.can j := rfl

@[simp] theorem State.tdm_withPending (j : Nat) : (s.withPending q).tdm j = s.tdm j := rfl

end

/-! setCap -/

section
variable (s : State) (a : Agent) (l : Nat) (h : Option Word)

@[simp] theorem State.pending_setCap : (setCap a l h s).pending = s.pending := rfl

@[simp] theorem State.free_setCap : (setCap a l h s).free = s.free := rfl

@[simp] theorem State.regs_setCap : (setCap a l h s).regs = s.regs := rfl

@[simp] theorem State.resp_setCap : (setCap a l h s).resp = s.resp := rfl

@[simp] theorem State.out_setCap : (setCap a l h s).out = s.out := rfl

@[simp] theorem State.heldLo_setCap : (setCap a l h s).heldLo = s.heldLo := rfl

@[simp] theorem State.rcap_setCap : (setCap a l h s).rcap = s.rcap := rfl

@[simp] theorem State.pkt_setCap : (setCap a l h s).pkt = s.pkt := rfl

@[simp] theorem State.fuses_setCap : (setCap a l h s).fuses = s.fuses := rfl

@[simp] theorem State.held_setCap : (setCap a l h s).held = s.held := rfl

@[simp] theorem State.burn_setCap : (setCap a l h s).burn = s.burn := rfl

@[simp] theorem State.clk_setCap : (setCap a l h s).clk = s.clk := rfl

@[simp] theorem State.sys_setCap : (setCap a l h s).sys = s.sys := rfl

@[simp] theorem State.vnr_setCap : (setCap a l h s).vnr = s.vnr := rfl

@[simp] theorem State.mqy_setCap : (setCap a l h s).mqy = s.mqy := rfl

@[simp] theorem State.prt_setCap : (setCap a l h s).prt = s.prt := rfl

@[simp] theorem State.prs_setCap : (setCap a l h s).prs = s.prs := rfl

@[simp] theorem State.bpm_setCap : (setCap a l h s).bpm = s.bpm := rfl

@[simp] theorem State.locks_setCap : (setCap a l h s).locks = s.locks := rfl

@[simp] theorem State.dst_setCap : (setCap a l h s).dst = s.dst := rfl

@[simp] theorem State.whl_setCap : (setCap a l h s).whl = s.whl := rfl

@[simp] theorem State.fwd_setCap : (setCap a l h s).fwd = s.fwd := rfl

@[simp] theorem State.hif_setCap : (setCap a l h s).hif = s.hif := rfl

@[simp] theorem State.evt_setCap : (setCap a l h s).evt = s.evt := rfl

@[simp] theorem State.aud_setCap : (setCap a l h s).aud = s.aud := rfl

@[simp] theorem State.safe_setCap : (setCap a l h s).safe = s.safe := rfl

@[simp] theorem State.pws_setCap : (setCap a l h s).pws = s.pws := rfl

@[simp] theorem State.cal_setCap : (setCap a l h s).cal = s.cal := rfl

@[simp] theorem State.jrn_setCap : (setCap a l h s).jrn = s.jrn := rfl

@[simp] theorem State.thm_setCap : (setCap a l h s).thm = s.thm := rfl

@[simp] theorem State.ist_setCap : (setCap a l h s).ist = s.ist := rfl

@[simp] theorem State.dgn_setCap : (setCap a l h s).dgn = s.dgn := rfl

@[simp] theorem State.tap_setCap : (setCap a l h s).tap = s.tap := rfl

@[simp] theorem State.ply_setCap : (setCap a l h s).ply = s.ply := rfl

@[simp] theorem State.rd_setCap (p : Nat) : (setCap a l h s).rd p = s.rd p := rfl

@[simp] theorem State.get_setCap (g : Fld) : (setCap a l h s).get g = s.get g := rfl

@[simp] theorem State.flag_setCap (g : Fld) : (setCap a l h s).flag g = s.flag g := rfl

@[simp] theorem State.thread_setCap (j : Nat) : (setCap a l h s).thread j = s.thread j := rfl

@[simp] theorem State.core_setCap (j : Nat) : (setCap a l h s).core j = s.core j := rfl

@[simp] theorem State.panel_setCap (j : Nat) : (setCap a l h s).panel j = s.panel j := rfl

@[simp] theorem State.port_setCap (j : Nat) : (setCap a l h s).port j = s.port j := rfl

@[simp] theorem State.lock_setCap (j : Nat) : (setCap a l h s).lock j = s.lock j := rfl

@[simp] theorem State.pch_setCap (j : Nat) : (setCap a l h s).pch j = s.pch j := rfl

@[simp] theorem State.ach_setCap (j : Nat) : (setCap a l h s).ach j = s.ach j := rfl

@[simp] theorem State.cch_setCap (j : Nat) : (setCap a l h s).cch j = s.cch j := rfl

@[simp] theorem State.fan_setCap (j : Nat) : (setCap a l h s).fan j = s.fan j := rfl

@[simp] theorem State.qp_setCap (j : Nat) : (setCap a l h s).qp j = s.qp j := rfl

@[simp] theorem State.can_setCap (j : Nat) : (setCap a l h s).can j = s.can j := rfl

@[simp] theorem State.tdm_setCap (j : Nat) : (setCap a l h s).tdm j = s.tdm j := rfl

end

/-! setHeld -/

section
variable (s : State) (a : Agent) (l : Nat) (h : Option Word)

@[simp] theorem State.pending_setHeld : (setHeld a l h s).pending = s.pending := rfl

@[simp] theorem State.free_setHeld : (setHeld a l h s).free = s.free := rfl

@[simp] theorem State.regs_setHeld : (setHeld a l h s).regs = s.regs := rfl

@[simp] theorem State.resp_setHeld : (setHeld a l h s).resp = s.resp := rfl

@[simp] theorem State.out_setHeld : (setHeld a l h s).out = s.out := rfl

@[simp] theorem State.capHi_setHeld : (setHeld a l h s).capHi = s.capHi := rfl

@[simp] theorem State.rcap_setHeld : (setHeld a l h s).rcap = s.rcap := rfl

@[simp] theorem State.pkt_setHeld : (setHeld a l h s).pkt = s.pkt := rfl

@[simp] theorem State.fuses_setHeld : (setHeld a l h s).fuses = s.fuses := rfl

@[simp] theorem State.held_setHeld : (setHeld a l h s).held = s.held := rfl

@[simp] theorem State.burn_setHeld : (setHeld a l h s).burn = s.burn := rfl

@[simp] theorem State.clk_setHeld : (setHeld a l h s).clk = s.clk := rfl

@[simp] theorem State.sys_setHeld : (setHeld a l h s).sys = s.sys := rfl

@[simp] theorem State.vnr_setHeld : (setHeld a l h s).vnr = s.vnr := rfl

@[simp] theorem State.mqy_setHeld : (setHeld a l h s).mqy = s.mqy := rfl

@[simp] theorem State.prt_setHeld : (setHeld a l h s).prt = s.prt := rfl

@[simp] theorem State.prs_setHeld : (setHeld a l h s).prs = s.prs := rfl

@[simp] theorem State.bpm_setHeld : (setHeld a l h s).bpm = s.bpm := rfl

@[simp] theorem State.locks_setHeld : (setHeld a l h s).locks = s.locks := rfl

@[simp] theorem State.dst_setHeld : (setHeld a l h s).dst = s.dst := rfl

@[simp] theorem State.whl_setHeld : (setHeld a l h s).whl = s.whl := rfl

@[simp] theorem State.fwd_setHeld : (setHeld a l h s).fwd = s.fwd := rfl

@[simp] theorem State.hif_setHeld : (setHeld a l h s).hif = s.hif := rfl

@[simp] theorem State.evt_setHeld : (setHeld a l h s).evt = s.evt := rfl

@[simp] theorem State.aud_setHeld : (setHeld a l h s).aud = s.aud := rfl

@[simp] theorem State.safe_setHeld : (setHeld a l h s).safe = s.safe := rfl

@[simp] theorem State.pws_setHeld : (setHeld a l h s).pws = s.pws := rfl

@[simp] theorem State.cal_setHeld : (setHeld a l h s).cal = s.cal := rfl

@[simp] theorem State.jrn_setHeld : (setHeld a l h s).jrn = s.jrn := rfl

@[simp] theorem State.thm_setHeld : (setHeld a l h s).thm = s.thm := rfl

@[simp] theorem State.ist_setHeld : (setHeld a l h s).ist = s.ist := rfl

@[simp] theorem State.dgn_setHeld : (setHeld a l h s).dgn = s.dgn := rfl

@[simp] theorem State.tap_setHeld : (setHeld a l h s).tap = s.tap := rfl

@[simp] theorem State.ply_setHeld : (setHeld a l h s).ply = s.ply := rfl

@[simp] theorem State.rd_setHeld (p : Nat) : (setHeld a l h s).rd p = s.rd p := rfl

@[simp] theorem State.get_setHeld (g : Fld) : (setHeld a l h s).get g = s.get g := rfl

@[simp] theorem State.flag_setHeld (g : Fld) : (setHeld a l h s).flag g = s.flag g := rfl

@[simp] theorem State.thread_setHeld (j : Nat) : (setHeld a l h s).thread j = s.thread j := rfl

@[simp] theorem State.core_setHeld (j : Nat) : (setHeld a l h s).core j = s.core j := rfl

@[simp] theorem State.panel_setHeld (j : Nat) : (setHeld a l h s).panel j = s.panel j := rfl

@[simp] theorem State.port_setHeld (j : Nat) : (setHeld a l h s).port j = s.port j := rfl

@[simp] theorem State.lock_setHeld (j : Nat) : (setHeld a l h s).lock j = s.lock j := rfl

@[simp] theorem State.pch_setHeld (j : Nat) : (setHeld a l h s).pch j = s.pch j := rfl

@[simp] theorem State.ach_setHeld (j : Nat) : (setHeld a l h s).ach j = s.ach j := rfl

@[simp] theorem State.cch_setHeld (j : Nat) : (setHeld a l h s).cch j = s.cch j := rfl

@[simp] theorem State.fan_setHeld (j : Nat) : (setHeld a l h s).fan j = s.fan j := rfl

@[simp] theorem State.qp_setHeld (j : Nat) : (setHeld a l h s).qp j = s.qp j := rfl

@[simp] theorem State.can_setHeld (j : Nat) : (setHeld a l h s).can j = s.can j := rfl

@[simp] theorem State.tdm_setHeld (j : Nat) : (setHeld a l h s).tdm j = s.tdm j := rfl

end

/-! setThread -/

section
variable (s : State) (tid : Nat) (x : Thread)

@[simp] theorem State.pending_setThread : (s.setThread tid x).pending = s.pending := rfl

@[simp] theorem State.free_setThread : (s.setThread tid x).free = s.free := rfl

@[simp] theorem State.regs_setThread : (s.setThread tid x).regs = s.regs := rfl

@[simp] theorem State.resp_setThread : (s.setThread tid x).resp = s.resp := rfl

@[simp] theorem State.out_setThread : (s.setThread tid x).out = s.out := rfl

@[simp] theorem State.capHi_setThread : (s.setThread tid x).capHi = s.capHi := rfl

@[simp] theorem State.heldLo_setThread : (s.setThread tid x).heldLo = s.heldLo := rfl

@[simp] theorem State.rcap_setThread : (s.setThread tid x).rcap = s.rcap := rfl

@[simp] theorem State.pkt_setThread : (s.setThread tid x).pkt = s.pkt := rfl

@[simp] theorem State.fuses_setThread : (s.setThread tid x).fuses = s.fuses := rfl

@[simp] theorem State.held_setThread : (s.setThread tid x).held = s.held := rfl

@[simp] theorem State.burn_setThread : (s.setThread tid x).burn = s.burn := rfl

@[simp] theorem State.clk_setThread : (s.setThread tid x).clk = s.clk := rfl

@[simp] theorem State.sys_setThread : (s.setThread tid x).sys = s.sys := rfl

@[simp] theorem State.vnr_setThread : (s.setThread tid x).vnr = s.vnr := rfl

@[simp] theorem State.mqy_setThread : (s.setThread tid x).mqy = s.mqy := rfl

@[simp] theorem State.prt_setThread : (s.setThread tid x).prt = s.prt := rfl

@[simp] theorem State.prs_setThread : (s.setThread tid x).prs = s.prs := rfl

@[simp] theorem State.bpm_setThread : (s.setThread tid x).bpm = s.bpm := rfl

@[simp] theorem State.locks_setThread : (s.setThread tid x).locks = s.locks := rfl

@[simp] theorem State.dst_setThread : (s.setThread tid x).dst = s.dst := rfl

@[simp] theorem State.fwd_setThread : (s.setThread tid x).fwd = s.fwd := rfl

@[simp] theorem State.hif_setThread : (s.setThread tid x).hif = s.hif := rfl

@[simp] theorem State.evt_setThread : (s.setThread tid x).evt = s.evt := rfl

@[simp] theorem State.aud_setThread : (s.setThread tid x).aud = s.aud := rfl

@[simp] theorem State.safe_setThread : (s.setThread tid x).safe = s.safe := rfl

@[simp] theorem State.pws_setThread : (s.setThread tid x).pws = s.pws := rfl

@[simp] theorem State.cal_setThread : (s.setThread tid x).cal = s.cal := rfl

@[simp] theorem State.jrn_setThread : (s.setThread tid x).jrn = s.jrn := rfl

@[simp] theorem State.thm_setThread : (s.setThread tid x).thm = s.thm := rfl

@[simp] theorem State.ist_setThread : (s.setThread tid x).ist = s.ist := rfl

@[simp] theorem State.dgn_setThread : (s.setThread tid x).dgn = s.dgn := rfl

@[simp] theorem State.tap_setThread : (s.setThread tid x).tap = s.tap := rfl

@[simp] theorem State.ply_setThread : (s.setThread tid x).ply = s.ply := rfl

@[simp] theorem State.rd_setThread (p : Nat) : (s.setThread tid x).rd p = s.rd p := rfl

@[simp] theorem State.get_setThread (g : Fld) : (s.setThread tid x).get g = s.get g := rfl

@[simp] theorem State.flag_setThread (g : Fld) : (s.setThread tid x).flag g = s.flag g := rfl

theorem State.thread_setThread (j : Nat) : (s.setThread tid x).thread j = if j = tid then x else s.thread j := mget_mput _ _ _ _ _

@[simp] theorem State.thread_setThread_self : (s.setThread tid x).thread tid = x := mget_mput_self _ _ _ _

theorem State.thread_setThread_ne (j : Nat) (h : j ≠ tid) : (s.setThread tid x).thread j = s.thread j := mget_mput_ne _ _ _ _ _ h

@[simp] theorem State.core_setThread (j : Nat) : (s.setThread tid x).core j = s.core j := rfl

@[simp] theorem State.panel_setThread (j : Nat) : (s.setThread tid x).panel j = s.panel j := rfl

@[simp] theorem State.port_setThread (j : Nat) : (s.setThread tid x).port j = s.port j := rfl

@[simp] theorem State.lock_setThread (j : Nat) : (s.setThread tid x).lock j = s.lock j := rfl

@[simp] theorem State.pch_setThread (j : Nat) : (s.setThread tid x).pch j = s.pch j := rfl

@[simp] theorem State.ach_setThread (j : Nat) : (s.setThread tid x).ach j = s.ach j := rfl

@[simp] theorem State.cch_setThread (j : Nat) : (s.setThread tid x).cch j = s.cch j := rfl

@[simp] theorem State.fan_setThread (j : Nat) : (s.setThread tid x).fan j = s.fan j := rfl

@[simp] theorem State.qp_setThread (j : Nat) : (s.setThread tid x).qp j = s.qp j := rfl

@[simp] theorem State.can_setThread (j : Nat) : (s.setThread tid x).can j = s.can j := rfl

@[simp] theorem State.tdm_setThread (j : Nat) : (s.setThread tid x).tdm j = s.tdm j := rfl

end

/-! setCore -/

section
variable (s : State) (n : Nat) (x : Core)

@[simp] theorem State.pending_setCore : (s.setCore n x).pending = s.pending := rfl

@[simp] theorem State.free_setCore : (s.setCore n x).free = s.free := rfl

@[simp] theorem State.regs_setCore : (s.setCore n x).regs = s.regs := rfl

@[simp] theorem State.resp_setCore : (s.setCore n x).resp = s.resp := rfl

@[simp] theorem State.out_setCore : (s.setCore n x).out = s.out := rfl

@[simp] theorem State.capHi_setCore : (s.setCore n x).capHi = s.capHi := rfl

@[simp] theorem State.heldLo_setCore : (s.setCore n x).heldLo = s.heldLo := rfl

@[simp] theorem State.rcap_setCore : (s.setCore n x).rcap = s.rcap := rfl

@[simp] theorem State.pkt_setCore : (s.setCore n x).pkt = s.pkt := rfl

@[simp] theorem State.fuses_setCore : (s.setCore n x).fuses = s.fuses := rfl

@[simp] theorem State.held_setCore : (s.setCore n x).held = s.held := rfl

@[simp] theorem State.burn_setCore : (s.setCore n x).burn = s.burn := rfl

@[simp] theorem State.clk_setCore : (s.setCore n x).clk = s.clk := rfl

@[simp] theorem State.sys_setCore : (s.setCore n x).sys = s.sys := rfl

@[simp] theorem State.vnr_setCore : (s.setCore n x).vnr = s.vnr := rfl

@[simp] theorem State.mqy_setCore : (s.setCore n x).mqy = s.mqy := rfl

@[simp] theorem State.prt_setCore : (s.setCore n x).prt = s.prt := rfl

@[simp] theorem State.prs_setCore : (s.setCore n x).prs = s.prs := rfl

@[simp] theorem State.bpm_setCore : (s.setCore n x).bpm = s.bpm := rfl

@[simp] theorem State.locks_setCore : (s.setCore n x).locks = s.locks := rfl

@[simp] theorem State.dst_setCore : (s.setCore n x).dst = s.dst := rfl

@[simp] theorem State.fwd_setCore : (s.setCore n x).fwd = s.fwd := rfl

@[simp] theorem State.hif_setCore : (s.setCore n x).hif = s.hif := rfl

@[simp] theorem State.evt_setCore : (s.setCore n x).evt = s.evt := rfl

@[simp] theorem State.aud_setCore : (s.setCore n x).aud = s.aud := rfl

@[simp] theorem State.safe_setCore : (s.setCore n x).safe = s.safe := rfl

@[simp] theorem State.pws_setCore : (s.setCore n x).pws = s.pws := rfl

@[simp] theorem State.cal_setCore : (s.setCore n x).cal = s.cal := rfl

@[simp] theorem State.jrn_setCore : (s.setCore n x).jrn = s.jrn := rfl

@[simp] theorem State.thm_setCore : (s.setCore n x).thm = s.thm := rfl

@[simp] theorem State.ist_setCore : (s.setCore n x).ist = s.ist := rfl

@[simp] theorem State.dgn_setCore : (s.setCore n x).dgn = s.dgn := rfl

@[simp] theorem State.tap_setCore : (s.setCore n x).tap = s.tap := rfl

@[simp] theorem State.ply_setCore : (s.setCore n x).ply = s.ply := rfl

@[simp] theorem State.rd_setCore (p : Nat) : (s.setCore n x).rd p = s.rd p := rfl

@[simp] theorem State.get_setCore (g : Fld) : (s.setCore n x).get g = s.get g := rfl

@[simp] theorem State.flag_setCore (g : Fld) : (s.setCore n x).flag g = s.flag g := rfl

@[simp] theorem State.thread_setCore (j : Nat) : (s.setCore n x).thread j = s.thread j := rfl

theorem State.core_setCore (j : Nat) : (s.setCore n x).core j = if j = n then x else s.core j := mget_mput _ _ _ _ _

@[simp] theorem State.core_setCore_self : (s.setCore n x).core n = x := mget_mput_self _ _ _ _

theorem State.core_setCore_ne (j : Nat) (h : j ≠ n) : (s.setCore n x).core j = s.core j := mget_mput_ne _ _ _ _ _ h

@[simp] theorem State.panel_setCore (j : Nat) : (s.setCore n x).panel j = s.panel j := rfl

@[simp] theorem State.port_setCore (j : Nat) : (s.setCore n x).port j = s.port j := rfl

@[simp] theorem State.lock_setCore (j : Nat) : (s.setCore n x).lock j = s.lock j := rfl

@[simp] theorem State.pch_setCore (j : Nat) : (s.setCore n x).pch j = s.pch j := rfl

@[simp] theorem State.ach_setCore (j : Nat) : (s.setCore n x).ach j = s.ach j := rfl

@[simp] theorem State.cch_setCore (j : Nat) : (s.setCore n x).cch j = s.cch j := rfl

@[simp] theorem State.fan_setCore (j : Nat) : (s.setCore n x).fan j = s.fan j := rfl

@[simp] theorem State.qp_setCore (j : Nat) : (s.setCore n x).qp j = s.qp j := rfl

@[simp] theorem State.can_setCore (j : Nat) : (s.setCore n x).can j = s.can j := rfl

@[simp] theorem State.tdm_setCore (j : Nat) : (s.setCore n x).tdm j = s.tdm j := rfl

end

/-! setPanel -/

section
variable (s : State) (p : Nat) (x : Panel)

@[simp] theorem State.pending_setPanel : (s.setPanel p x).pending = s.pending := rfl

@[simp] theorem State.free_setPanel : (s.setPanel p x).free = s.free := rfl

@[simp] theorem State.regs_setPanel : (s.setPanel p x).regs = s.regs := rfl

@[simp] theorem State.resp_setPanel : (s.setPanel p x).resp = s.resp := rfl

@[simp] theorem State.out_setPanel : (s.setPanel p x).out = s.out := rfl

@[simp] theorem State.capHi_setPanel : (s.setPanel p x).capHi = s.capHi := rfl

@[simp] theorem State.heldLo_setPanel : (s.setPanel p x).heldLo = s.heldLo := rfl

@[simp] theorem State.rcap_setPanel : (s.setPanel p x).rcap = s.rcap := rfl

@[simp] theorem State.pkt_setPanel : (s.setPanel p x).pkt = s.pkt := rfl

@[simp] theorem State.fuses_setPanel : (s.setPanel p x).fuses = s.fuses := rfl

@[simp] theorem State.held_setPanel : (s.setPanel p x).held = s.held := rfl

@[simp] theorem State.burn_setPanel : (s.setPanel p x).burn = s.burn := rfl

@[simp] theorem State.clk_setPanel : (s.setPanel p x).clk = s.clk := rfl

@[simp] theorem State.sys_setPanel : (s.setPanel p x).sys = s.sys := rfl

@[simp] theorem State.vnr_setPanel : (s.setPanel p x).vnr = s.vnr := rfl

@[simp] theorem State.prt_setPanel : (s.setPanel p x).prt = s.prt := rfl

@[simp] theorem State.prs_setPanel : (s.setPanel p x).prs = s.prs := rfl

@[simp] theorem State.bpm_setPanel : (s.setPanel p x).bpm = s.bpm := rfl

@[simp] theorem State.locks_setPanel : (s.setPanel p x).locks = s.locks := rfl

@[simp] theorem State.dst_setPanel : (s.setPanel p x).dst = s.dst := rfl

@[simp] theorem State.whl_setPanel : (s.setPanel p x).whl = s.whl := rfl

@[simp] theorem State.fwd_setPanel : (s.setPanel p x).fwd = s.fwd := rfl

@[simp] theorem State.hif_setPanel : (s.setPanel p x).hif = s.hif := rfl

@[simp] theorem State.evt_setPanel : (s.setPanel p x).evt = s.evt := rfl

@[simp] theorem State.aud_setPanel : (s.setPanel p x).aud = s.aud := rfl

@[simp] theorem State.safe_setPanel : (s.setPanel p x).safe = s.safe := rfl

@[simp] theorem State.pws_setPanel : (s.setPanel p x).pws = s.pws := rfl

@[simp] theorem State.cal_setPanel : (s.setPanel p x).cal = s.cal := rfl

@[simp] theorem State.jrn_setPanel : (s.setPanel p x).jrn = s.jrn := rfl

@[simp] theorem State.thm_setPanel : (s.setPanel p x).thm = s.thm := rfl

@[simp] theorem State.ist_setPanel : (s.setPanel p x).ist = s.ist := rfl

@[simp] theorem State.dgn_setPanel : (s.setPanel p x).dgn = s.dgn := rfl

@[simp] theorem State.tap_setPanel : (s.setPanel p x).tap = s.tap := rfl

@[simp] theorem State.ply_setPanel : (s.setPanel p x).ply = s.ply := rfl

@[simp] theorem State.rd_setPanel (p : Nat) : (s.setPanel p x).rd p = s.rd p := rfl

@[simp] theorem State.get_setPanel (g : Fld) : (s.setPanel p x).get g = s.get g := rfl

@[simp] theorem State.flag_setPanel (g : Fld) : (s.setPanel p x).flag g = s.flag g := rfl

@[simp] theorem State.thread_setPanel (j : Nat) : (s.setPanel p x).thread j = s.thread j := rfl

@[simp] theorem State.core_setPanel (j : Nat) : (s.setPanel p x).core j = s.core j := rfl

theorem State.panel_setPanel (j : Nat) : (s.setPanel p x).panel j = if j = p then x else s.panel j := mget_mput _ _ _ _ _

@[simp] theorem State.panel_setPanel_self : (s.setPanel p x).panel p = x := mget_mput_self _ _ _ _

theorem State.panel_setPanel_ne (j : Nat) (h : j ≠ p) : (s.setPanel p x).panel j = s.panel j := mget_mput_ne _ _ _ _ _ h

@[simp] theorem State.port_setPanel (j : Nat) : (s.setPanel p x).port j = s.port j := rfl

@[simp] theorem State.lock_setPanel (j : Nat) : (s.setPanel p x).lock j = s.lock j := rfl

@[simp] theorem State.pch_setPanel (j : Nat) : (s.setPanel p x).pch j = s.pch j := rfl

@[simp] theorem State.ach_setPanel (j : Nat) : (s.setPanel p x).ach j = s.ach j := rfl

@[simp] theorem State.cch_setPanel (j : Nat) : (s.setPanel p x).cch j = s.cch j := rfl

@[simp] theorem State.fan_setPanel (j : Nat) : (s.setPanel p x).fan j = s.fan j := rfl

@[simp] theorem State.qp_setPanel (j : Nat) : (s.setPanel p x).qp j = s.qp j := rfl

@[simp] theorem State.can_setPanel (j : Nat) : (s.setPanel p x).can j = s.can j := rfl

@[simp] theorem State.tdm_setPanel (j : Nat) : (s.setPanel p x).tdm j = s.tdm j := rfl

end

/-! setPort -/

section
variable (s : State) (p : Nat) (x : Port)

@[simp] theorem State.pending_setPort : (s.setPort p x).pending = s.pending := rfl

@[simp] theorem State.free_setPort : (s.setPort p x).free = s.free := rfl

@[simp] theorem State.regs_setPort : (s.setPort p x).regs = s.regs := rfl

@[simp] theorem State.resp_setPort : (s.setPort p x).resp = s.resp := rfl

@[simp] theorem State.out_setPort : (s.setPort p x).out = s.out := rfl

@[simp] theorem State.capHi_setPort : (s.setPort p x).capHi = s.capHi := rfl

@[simp] theorem State.heldLo_setPort : (s.setPort p x).heldLo = s.heldLo := rfl

@[simp] theorem State.rcap_setPort : (s.setPort p x).rcap = s.rcap := rfl

@[simp] theorem State.pkt_setPort : (s.setPort p x).pkt = s.pkt := rfl

@[simp] theorem State.fuses_setPort : (s.setPort p x).fuses = s.fuses := rfl

@[simp] theorem State.held_setPort : (s.setPort p x).held = s.held := rfl

@[simp] theorem State.burn_setPort : (s.setPort p x).burn = s.burn := rfl

@[simp] theorem State.clk_setPort : (s.setPort p x).clk = s.clk := rfl

@[simp] theorem State.sys_setPort : (s.setPort p x).sys = s.sys := rfl

@[simp] theorem State.vnr_setPort : (s.setPort p x).vnr = s.vnr := rfl

@[simp] theorem State.mqy_setPort : (s.setPort p x).mqy = s.mqy := rfl

@[simp] theorem State.prs_setPort : (s.setPort p x).prs = s.prs := rfl

@[simp] theorem State.bpm_setPort : (s.setPort p x).bpm = s.bpm := rfl

@[simp] theorem State.locks_setPort : (s.setPort p x).locks = s.locks := rfl

@[simp] theorem State.dst_setPort : (s.setPort p x).dst = s.dst := rfl

@[simp] theorem State.whl_setPort : (s.setPort p x).whl = s.whl := rfl

@[simp] theorem State.fwd_setPort : (s.setPort p x).fwd = s.fwd := rfl

@[simp] theorem State.hif_setPort : (s.setPort p x).hif = s.hif := rfl

@[simp] theorem State.evt_setPort : (s.setPort p x).evt = s.evt := rfl

@[simp] theorem State.aud_setPort : (s.setPort p x).aud = s.aud := rfl

@[simp] theorem State.safe_setPort : (s.setPort p x).safe = s.safe := rfl

@[simp] theorem State.pws_setPort : (s.setPort p x).pws = s.pws := rfl

@[simp] theorem State.cal_setPort : (s.setPort p x).cal = s.cal := rfl

@[simp] theorem State.jrn_setPort : (s.setPort p x).jrn = s.jrn := rfl

@[simp] theorem State.thm_setPort : (s.setPort p x).thm = s.thm := rfl

@[simp] theorem State.ist_setPort : (s.setPort p x).ist = s.ist := rfl

@[simp] theorem State.dgn_setPort : (s.setPort p x).dgn = s.dgn := rfl

@[simp] theorem State.tap_setPort : (s.setPort p x).tap = s.tap := rfl

@[simp] theorem State.ply_setPort : (s.setPort p x).ply = s.ply := rfl

@[simp] theorem State.rd_setPort (p : Nat) : (s.setPort p x).rd p = s.rd p := rfl

@[simp] theorem State.get_setPort (g : Fld) : (s.setPort p x).get g = s.get g := rfl

@[simp] theorem State.flag_setPort (g : Fld) : (s.setPort p x).flag g = s.flag g := rfl

@[simp] theorem State.thread_setPort (j : Nat) : (s.setPort p x).thread j = s.thread j := rfl

@[simp] theorem State.core_setPort (j : Nat) : (s.setPort p x).core j = s.core j := rfl

@[simp] theorem State.panel_setPort (j : Nat) : (s.setPort p x).panel j = s.panel j := rfl

theorem State.port_setPort (j : Nat) : (s.setPort p x).port j = if j = p then x else s.port j := mget_mput _ _ _ _ _

@[simp] theorem State.port_setPort_self : (s.setPort p x).port p = x := mget_mput_self _ _ _ _

theorem State.port_setPort_ne (j : Nat) (h : j ≠ p) : (s.setPort p x).port j = s.port j := mget_mput_ne _ _ _ _ _ h

@[simp] theorem State.lock_setPort (j : Nat) : (s.setPort p x).lock j = s.lock j := rfl

@[simp] theorem State.pch_setPort (j : Nat) : (s.setPort p x).pch j = s.pch j := rfl

@[simp] theorem State.ach_setPort (j : Nat) : (s.setPort p x).ach j = s.ach j := rfl

@[simp] theorem State.cch_setPort (j : Nat) : (s.setPort p x).cch j = s.cch j := rfl

@[simp] theorem State.fan_setPort (j : Nat) : (s.setPort p x).fan j = s.fan j := rfl

@[simp] theorem State.qp_setPort (j : Nat) : (s.setPort p x).qp j = s.qp j := rfl

@[simp] theorem State.can_setPort (j : Nat) : (s.setPort p x).can j = s.can j := rfl

@[simp] theorem State.tdm_setPort (j : Nat) : (s.setPort p x).tdm j = s.tdm j := rfl

end

/-! setLock -/

section
variable (s : State) (n : Nat) (x : Lock)

@[simp] theorem State.pending_setLock : (s.setLock n x).pending = s.pending := rfl

@[simp] theorem State.free_setLock : (s.setLock n x).free = s.free := rfl

@[simp] theorem State.regs_setLock : (s.setLock n x).regs = s.regs := rfl

@[simp] theorem State.resp_setLock : (s.setLock n x).resp = s.resp := rfl

@[simp] theorem State.out_setLock : (s.setLock n x).out = s.out := rfl

@[simp] theorem State.capHi_setLock : (s.setLock n x).capHi = s.capHi := rfl

@[simp] theorem State.heldLo_setLock : (s.setLock n x).heldLo = s.heldLo := rfl

@[simp] theorem State.rcap_setLock : (s.setLock n x).rcap = s.rcap := rfl

@[simp] theorem State.pkt_setLock : (s.setLock n x).pkt = s.pkt := rfl

@[simp] theorem State.fuses_setLock : (s.setLock n x).fuses = s.fuses := rfl

@[simp] theorem State.held_setLock : (s.setLock n x).held = s.held := rfl

@[simp] theorem State.burn_setLock : (s.setLock n x).burn = s.burn := rfl

@[simp] theorem State.clk_setLock : (s.setLock n x).clk = s.clk := rfl

@[simp] theorem State.sys_setLock : (s.setLock n x).sys = s.sys := rfl

@[simp] theorem State.vnr_setLock : (s.setLock n x).vnr = s.vnr := rfl

@[simp] theorem State.mqy_setLock : (s.setLock n x).mqy = s.mqy := rfl

@[simp] theorem State.prt_setLock : (s.setLock n x).prt = s.prt := rfl

@[simp] theorem State.prs_setLock : (s.setLock n x).prs = s.prs := rfl

@[simp] theorem State.bpm_setLock : (s.setLock n x).bpm = s.bpm := rfl

@[simp] theorem State.dst_setLock : (s.setLock n x).dst = s.dst := rfl

@[simp] theorem State.whl_setLock : (s.setLock n x).whl = s.whl := rfl

@[simp] theorem State.fwd_setLock : (s.setLock n x).fwd = s.fwd := rfl

@[simp] theorem State.hif_setLock : (s.setLock n x).hif = s.hif := rfl

@[simp] theorem State.evt_setLock : (s.setLock n x).evt = s.evt := rfl

@[simp] theorem State.aud_setLock : (s.setLock n x).aud = s.aud := rfl

@[simp] theorem State.safe_setLock : (s.setLock n x).safe = s.safe := rfl

@[simp] theorem State.pws_setLock : (s.setLock n x).pws = s.pws := rfl

@[simp] theorem State.cal_setLock : (s.setLock n x).cal = s.cal := rfl

@[simp] theorem State.jrn_setLock : (s.setLock n x).jrn = s.jrn := rfl

@[simp] theorem State.thm_setLock : (s.setLock n x).thm = s.thm := rfl

@[simp] theorem State.ist_setLock : (s.setLock n x).ist = s.ist := rfl

@[simp] theorem State.dgn_setLock : (s.setLock n x).dgn = s.dgn := rfl

@[simp] theorem State.tap_setLock : (s.setLock n x).tap = s.tap := rfl

@[simp] theorem State.ply_setLock : (s.setLock n x).ply = s.ply := rfl

@[simp] theorem State.rd_setLock (p : Nat) : (s.setLock n x).rd p = s.rd p := rfl

@[simp] theorem State.get_setLock (g : Fld) : (s.setLock n x).get g = s.get g := rfl

@[simp] theorem State.flag_setLock (g : Fld) : (s.setLock n x).flag g = s.flag g := rfl

@[simp] theorem State.thread_setLock (j : Nat) : (s.setLock n x).thread j = s.thread j := rfl

@[simp] theorem State.core_setLock (j : Nat) : (s.setLock n x).core j = s.core j := rfl

@[simp] theorem State.panel_setLock (j : Nat) : (s.setLock n x).panel j = s.panel j := rfl

@[simp] theorem State.port_setLock (j : Nat) : (s.setLock n x).port j = s.port j := rfl

theorem State.lock_setLock (j : Nat) : (s.setLock n x).lock j = if j = n then x else s.lock j := mget_mput _ _ _ _ _

@[simp] theorem State.lock_setLock_self : (s.setLock n x).lock n = x := mget_mput_self _ _ _ _

theorem State.lock_setLock_ne (j : Nat) (h : j ≠ n) : (s.setLock n x).lock j = s.lock j := mget_mput_ne _ _ _ _ _ h

@[simp] theorem State.pch_setLock (j : Nat) : (s.setLock n x).pch j = s.pch j := rfl

@[simp] theorem State.ach_setLock (j : Nat) : (s.setLock n x).ach j = s.ach j := rfl

@[simp] theorem State.cch_setLock (j : Nat) : (s.setLock n x).cch j = s.cch j := rfl

@[simp] theorem State.fan_setLock (j : Nat) : (s.setLock n x).fan j = s.fan j := rfl

@[simp] theorem State.qp_setLock (j : Nat) : (s.setLock n x).qp j = s.qp j := rfl

@[simp] theorem State.can_setLock (j : Nat) : (s.setLock n x).can j = s.can j := rfl

@[simp] theorem State.tdm_setLock (j : Nat) : (s.setLock n x).tdm j = s.tdm j := rfl

end

/-! setPch -/

section
variable (s : State) (c : Nat) (x : PwsCh)

@[simp] theorem State.pending_setPch : (s.setPch c x).pending = s.pending := rfl

@[simp] theorem State.free_setPch : (s.setPch c x).free = s.free := rfl

@[simp] theorem State.regs_setPch : (s.setPch c x).regs = s.regs := rfl

@[simp] theorem State.resp_setPch : (s.setPch c x).resp = s.resp := rfl

@[simp] theorem State.out_setPch : (s.setPch c x).out = s.out := rfl

@[simp] theorem State.capHi_setPch : (s.setPch c x).capHi = s.capHi := rfl

@[simp] theorem State.heldLo_setPch : (s.setPch c x).heldLo = s.heldLo := rfl

@[simp] theorem State.rcap_setPch : (s.setPch c x).rcap = s.rcap := rfl

@[simp] theorem State.pkt_setPch : (s.setPch c x).pkt = s.pkt := rfl

@[simp] theorem State.fuses_setPch : (s.setPch c x).fuses = s.fuses := rfl

@[simp] theorem State.held_setPch : (s.setPch c x).held = s.held := rfl

@[simp] theorem State.burn_setPch : (s.setPch c x).burn = s.burn := rfl

@[simp] theorem State.clk_setPch : (s.setPch c x).clk = s.clk := rfl

@[simp] theorem State.sys_setPch : (s.setPch c x).sys = s.sys := rfl

@[simp] theorem State.vnr_setPch : (s.setPch c x).vnr = s.vnr := rfl

@[simp] theorem State.mqy_setPch : (s.setPch c x).mqy = s.mqy := rfl

@[simp] theorem State.prt_setPch : (s.setPch c x).prt = s.prt := rfl

@[simp] theorem State.prs_setPch : (s.setPch c x).prs = s.prs := rfl

@[simp] theorem State.bpm_setPch : (s.setPch c x).bpm = s.bpm := rfl

@[simp] theorem State.locks_setPch : (s.setPch c x).locks = s.locks := rfl

@[simp] theorem State.dst_setPch : (s.setPch c x).dst = s.dst := rfl

@[simp] theorem State.whl_setPch : (s.setPch c x).whl = s.whl := rfl

@[simp] theorem State.fwd_setPch : (s.setPch c x).fwd = s.fwd := rfl

@[simp] theorem State.hif_setPch : (s.setPch c x).hif = s.hif := rfl

@[simp] theorem State.evt_setPch : (s.setPch c x).evt = s.evt := rfl

@[simp] theorem State.aud_setPch : (s.setPch c x).aud = s.aud := rfl

@[simp] theorem State.safe_setPch : (s.setPch c x).safe = s.safe := rfl

@[simp] theorem State.cal_setPch : (s.setPch c x).cal = s.cal := rfl

@[simp] theorem State.jrn_setPch : (s.setPch c x).jrn = s.jrn := rfl

@[simp] theorem State.thm_setPch : (s.setPch c x).thm = s.thm := rfl

@[simp] theorem State.ist_setPch : (s.setPch c x).ist = s.ist := rfl

@[simp] theorem State.dgn_setPch : (s.setPch c x).dgn = s.dgn := rfl

@[simp] theorem State.tap_setPch : (s.setPch c x).tap = s.tap := rfl

@[simp] theorem State.ply_setPch : (s.setPch c x).ply = s.ply := rfl

@[simp] theorem State.rd_setPch (p : Nat) : (s.setPch c x).rd p = s.rd p := rfl

@[simp] theorem State.get_setPch (g : Fld) : (s.setPch c x).get g = s.get g := rfl

@[simp] theorem State.flag_setPch (g : Fld) : (s.setPch c x).flag g = s.flag g := rfl

@[simp] theorem State.thread_setPch (j : Nat) : (s.setPch c x).thread j = s.thread j := rfl

@[simp] theorem State.core_setPch (j : Nat) : (s.setPch c x).core j = s.core j := rfl

@[simp] theorem State.panel_setPch (j : Nat) : (s.setPch c x).panel j = s.panel j := rfl

@[simp] theorem State.port_setPch (j : Nat) : (s.setPch c x).port j = s.port j := rfl

@[simp] theorem State.lock_setPch (j : Nat) : (s.setPch c x).lock j = s.lock j := rfl

theorem State.pch_setPch (j : Nat) : (s.setPch c x).pch j = if j = c then x else s.pch j := mget_mput _ _ _ _ _

@[simp] theorem State.pch_setPch_self : (s.setPch c x).pch c = x := mget_mput_self _ _ _ _

theorem State.pch_setPch_ne (j : Nat) (h : j ≠ c) : (s.setPch c x).pch j = s.pch j := mget_mput_ne _ _ _ _ _ h

@[simp] theorem State.ach_setPch (j : Nat) : (s.setPch c x).ach j = s.ach j := rfl

@[simp] theorem State.cch_setPch (j : Nat) : (s.setPch c x).cch j = s.cch j := rfl

@[simp] theorem State.fan_setPch (j : Nat) : (s.setPch c x).fan j = s.fan j := rfl

@[simp] theorem State.qp_setPch (j : Nat) : (s.setPch c x).qp j = s.qp j := rfl

@[simp] theorem State.can_setPch (j : Nat) : (s.setPch c x).can j = s.can j := rfl

@[simp] theorem State.tdm_setPch (j : Nat) : (s.setPch c x).tdm j = s.tdm j := rfl

end

/-! setAch -/

section
variable (s : State) (c : Nat) (x : AudCh)

@[simp] theorem State.pending_setAch : (s.setAch c x).pending = s.pending := rfl

@[simp] theorem State.free_setAch : (s.setAch c x).free = s.free := rfl

@[simp] theorem State.regs_setAch : (s.setAch c x).regs = s.regs := rfl

@[simp] theorem State.resp_setAch : (s.setAch c x).resp = s.resp := rfl

@[simp] theorem State.out_setAch : (s.setAch c x).out = s.out := rfl

@[simp] theorem State.capHi_setAch : (s.setAch c x).capHi = s.capHi := rfl

@[simp] theorem State.heldLo_setAch : (s.setAch c x).heldLo = s.heldLo := rfl

@[simp] theorem State.rcap_setAch : (s.setAch c x).rcap = s.rcap := rfl

@[simp] theorem State.pkt_setAch : (s.setAch c x).pkt = s.pkt := rfl

@[simp] theorem State.fuses_setAch : (s.setAch c x).fuses = s.fuses := rfl

@[simp] theorem State.held_setAch : (s.setAch c x).held = s.held := rfl

@[simp] theorem State.burn_setAch : (s.setAch c x).burn = s.burn := rfl

@[simp] theorem State.clk_setAch : (s.setAch c x).clk = s.clk := rfl

@[simp] theorem State.sys_setAch : (s.setAch c x).sys = s.sys := rfl

@[simp] theorem State.vnr_setAch : (s.setAch c x).vnr = s.vnr := rfl

@[simp] theorem State.mqy_setAch : (s.setAch c x).mqy = s.mqy := rfl

@[simp] theorem State.prt_setAch : (s.setAch c x).prt = s.prt := rfl

@[simp] theorem State.prs_setAch : (s.setAch c x).prs = s.prs := rfl

@[simp] theorem State.bpm_setAch : (s.setAch c x).bpm = s.bpm := rfl

@[simp] theorem State.locks_setAch : (s.setAch c x).locks = s.locks := rfl

@[simp] theorem State.dst_setAch : (s.setAch c x).dst = s.dst := rfl

@[simp] theorem State.whl_setAch : (s.setAch c x).whl = s.whl := rfl

@[simp] theorem State.fwd_setAch : (s.setAch c x).fwd = s.fwd := rfl

@[simp] theorem State.hif_setAch : (s.setAch c x).hif = s.hif := rfl

@[simp] theorem State.evt_setAch : (s.setAch c x).evt = s.evt := rfl

@[simp] theorem State.safe_setAch : (s.setAch c x).safe = s.safe := rfl

@[simp] theorem State.pws_setAch : (s.setAch c x).pws = s.pws := rfl

@[simp] theorem State.cal_setAch : (s.setAch c x).cal = s.cal := rfl

@[simp] theorem State.jrn_setAch : (s.setAch c x).jrn = s.jrn := rfl

@[simp] theorem State.thm_setAch : (s.setAch c x).thm = s.thm := rfl

@[simp] theorem State.ist_setAch : (s.setAch c x).ist = s.ist := rfl

@[simp] theorem State.dgn_setAch : (s.setAch c x).dgn = s.dgn := rfl

@[simp] theorem State.tap_setAch : (s.setAch c x).tap = s.tap := rfl

@[simp] theorem State.ply_setAch : (s.setAch c x).ply = s.ply := rfl

@[simp] theorem State.rd_setAch (p : Nat) : (s.setAch c x).rd p = s.rd p := rfl

@[simp] theorem State.get_setAch (g : Fld) : (s.setAch c x).get g = s.get g := rfl

@[simp] theorem State.flag_setAch (g : Fld) : (s.setAch c x).flag g = s.flag g := rfl

@[simp] theorem State.thread_setAch (j : Nat) : (s.setAch c x).thread j = s.thread j := rfl

@[simp] theorem State.core_setAch (j : Nat) : (s.setAch c x).core j = s.core j := rfl

@[simp] theorem State.panel_setAch (j : Nat) : (s.setAch c x).panel j = s.panel j := rfl

@[simp] theorem State.port_setAch (j : Nat) : (s.setAch c x).port j = s.port j := rfl

@[simp] theorem State.lock_setAch (j : Nat) : (s.setAch c x).lock j = s.lock j := rfl

@[simp] theorem State.pch_setAch (j : Nat) : (s.setAch c x).pch j = s.pch j := rfl

theorem State.ach_setAch (j : Nat) : (s.setAch c x).ach j = if j = c then x else s.ach j := mget_mput _ _ _ _ _

@[simp] theorem State.ach_setAch_self : (s.setAch c x).ach c = x := mget_mput_self _ _ _ _

theorem State.ach_setAch_ne (j : Nat) (h : j ≠ c) : (s.setAch c x).ach j = s.ach j := mget_mput_ne _ _ _ _ _ h

@[simp] theorem State.cch_setAch (j : Nat) : (s.setAch c x).cch j = s.cch j := rfl

@[simp] theorem State.fan_setAch (j : Nat) : (s.setAch c x).fan j = s.fan j := rfl

@[simp] theorem State.qp_setAch (j : Nat) : (s.setAch c x).qp j = s.qp j := rfl

@[simp] theorem State.can_setAch (j : Nat) : (s.setAch c x).can j = s.can j := rfl

@[simp] theorem State.tdm_setAch (j : Nat) : (s.setAch c x).tdm j = s.tdm j := rfl

end

/-! setCch -/

section
variable (s : State) (c : Nat) (x : CalCh)

@[simp] theorem State.pending_setCch : (s.setCch c x).pending = s.pending := rfl

@[simp] theorem State.free_setCch : (s.setCch c x).free = s.free := rfl

@[simp] theorem State.regs_setCch : (s.setCch c x).regs = s.regs := rfl

@[simp] theorem State.resp_setCch : (s.setCch c x).resp = s.resp := rfl

@[simp] theorem State.out_setCch : (s.setCch c x).out = s.out := rfl

@[simp] theorem State.capHi_setCch : (s.setCch c x).capHi = s.capHi := rfl

@[simp] theorem State.heldLo_setCch : (s.setCch c x).heldLo = s.heldLo := rfl

@[simp] theorem State.rcap_setCch : (s.setCch c x).rcap = s.rcap := rfl

@[simp] theorem State.pkt_setCch : (s.setCch c x).pkt = s.pkt := rfl

@[simp] theorem State.fuses_setCch : (s.setCch c x).fuses = s.fuses := rfl

@[simp] theorem State.held_setCch : (s.setCch c x).held = s.held := rfl

@[simp] theorem State.burn_setCch : (s.setCch c x).burn = s.burn := rfl

@[simp] theorem State.clk_setCch : (s.setCch c x).clk = s.clk := rfl

@[simp] theorem State.sys_setCch : (s.setCch c x).sys = s.sys := rfl

@[simp] theorem State.vnr_setCch : (s.setCch c x).vnr = s.vnr := rfl

@[simp] theorem State.mqy_setCch : (s.setCch c x).mqy = s.mqy := rfl

@[simp] theorem State.prt_setCch : (s.setCch c x).prt = s.prt := rfl

@[simp] theorem State.prs_setCch : (s.setCch c x).prs = s.prs := rfl

@[simp] theorem State.bpm_setCch : (s.setCch c x).bpm = s.bpm := rfl

@[simp] theorem State.locks_setCch : (s.setCch c x).locks = s.locks := rfl

@[simp] theorem State.dst_setCch : (s.setCch c x).dst = s.dst := rfl

@[simp] theorem State.whl_setCch : (s.setCch c x).whl = s.whl := rfl

@[simp] theorem State.fwd_setCch : (s.setCch c x).fwd = s.fwd := rfl

@[simp] theorem State.hif_setCch : (s.setCch c x).hif = s.hif := rfl

@[simp] theorem State.evt_setCch : (s.setCch c x).evt = s.evt := rfl

@[simp] theorem State.aud_setCch : (s.setCch c x).aud = s.aud := rfl

@[simp] theorem State.safe_setCch : (s.setCch c x).safe = s.safe := rfl

@[simp] theorem State.pws_setCch : (s.setCch c x).pws = s.pws := rfl

@[simp] theorem State.jrn_setCch : (s.setCch c x).jrn = s.jrn := rfl

@[simp] theorem State.thm_setCch : (s.setCch c x).thm = s.thm := rfl

@[simp] theorem State.ist_setCch : (s.setCch c x).ist = s.ist := rfl

@[simp] theorem State.dgn_setCch : (s.setCch c x).dgn = s.dgn := rfl

@[simp] theorem State.tap_setCch : (s.setCch c x).tap = s.tap := rfl

@[simp] theorem State.ply_setCch : (s.setCch c x).ply = s.ply := rfl

@[simp] theorem State.rd_setCch (p : Nat) : (s.setCch c x).rd p = s.rd p := rfl

@[simp] theorem State.get_setCch (g : Fld) : (s.setCch c x).get g = s.get g := rfl

@[simp] theorem State.flag_setCch (g : Fld) : (s.setCch c x).flag g = s.flag g := rfl

@[simp] theorem State.thread_setCch (j : Nat) : (s.setCch c x).thread j = s.thread j := rfl

@[simp] theorem State.core_setCch (j : Nat) : (s.setCch c x).core j = s.core j := rfl

@[simp] theorem State.panel_setCch (j : Nat) : (s.setCch c x).panel j = s.panel j := rfl

@[simp] theorem State.port_setCch (j : Nat) : (s.setCch c x).port j = s.port j := rfl

@[simp] theorem State.lock_setCch (j : Nat) : (s.setCch c x).lock j = s.lock j := rfl

@[simp] theorem State.pch_setCch (j : Nat) : (s.setCch c x).pch j = s.pch j := rfl

@[simp] theorem State.ach_setCch (j : Nat) : (s.setCch c x).ach j = s.ach j := rfl

theorem State.cch_setCch (j : Nat) : (s.setCch c x).cch j = if j = c then x else s.cch j := mget_mput _ _ _ _ _

@[simp] theorem State.cch_setCch_self : (s.setCch c x).cch c = x := mget_mput_self _ _ _ _

theorem State.cch_setCch_ne (j : Nat) (h : j ≠ c) : (s.setCch c x).cch j = s.cch j := mget_mput_ne _ _ _ _ _ h

@[simp] theorem State.fan_setCch (j : Nat) : (s.setCch c x).fan j = s.fan j := rfl

@[simp] theorem State.qp_setCch (j : Nat) : (s.setCch c x).qp j = s.qp j := rfl

@[simp] theorem State.can_setCch (j : Nat) : (s.setCch c x).can j = s.can j := rfl

@[simp] theorem State.tdm_setCch (j : Nat) : (s.setCch c x).tdm j = s.tdm j := rfl

end

/-! setFan -/

section
variable (s : State) (f : Nat) (x : Fan)

@[simp] theorem State.pending_setFan : (s.setFan f x).pending = s.pending := rfl

@[simp] theorem State.free_setFan : (s.setFan f x).free = s.free := rfl

@[simp] theorem State.regs_setFan : (s.setFan f x).regs = s.regs := rfl

@[simp] theorem State.resp_setFan : (s.setFan f x).resp = s.resp := rfl

@[simp] theorem State.out_setFan : (s.setFan f x).out = s.out := rfl

@[simp] theorem State.capHi_setFan : (s.setFan f x).capHi = s.capHi := rfl

@[simp] theorem State.heldLo_setFan : (s.setFan f x).heldLo = s.heldLo := rfl

@[simp] theorem State.rcap_setFan : (s.setFan f x).rcap = s.rcap := rfl

@[simp] theorem State.pkt_setFan : (s.setFan f x).pkt = s.pkt := rfl

@[simp] theorem State.fuses_setFan : (s.setFan f x).fuses = s.fuses := rfl

@[simp] theorem State.held_setFan : (s.setFan f x).held = s.held := rfl

@[simp] theorem State.burn_setFan : (s.setFan f x).burn = s.burn := rfl

@[simp] theorem State.clk_setFan : (s.setFan f x).clk = s.clk := rfl

@[simp] theorem State.sys_setFan : (s.setFan f x).sys = s.sys := rfl

@[simp] theorem State.vnr_setFan : (s.setFan f x).vnr = s.vnr := rfl

@[simp] theorem State.mqy_setFan : (s.setFan f x).mqy = s.mqy := rfl

@[simp] theorem State.prt_setFan : (s.setFan f x).prt = s.prt := rfl

@[simp] theorem State.prs_setFan : (s.setFan f x).prs = s.prs := rfl

@[simp] theorem State.bpm_setFan : (s.setFan f x).bpm = s.bpm := rfl

@[simp] theorem State.locks_setFan : (s.setFan f x).locks = s.locks := rfl

@[simp] theorem State.dst_setFan : (s.setFan f x).dst = s.dst := rfl

@[simp] theorem State.whl_setFan : (s.setFan f x).whl = s.whl := rfl

@[simp] theorem State.fwd_setFan : (s.setFan f x).fwd = s.fwd := rfl

@[simp] theorem State.hif_setFan : (s.setFan f x).hif = s.hif := rfl

@[simp] theorem State.evt_setFan : (s.setFan f x).evt = s.evt := rfl

@[simp] theorem State.aud_setFan : (s.setFan f x).aud = s.aud := rfl

@[simp] theorem State.safe_setFan : (s.setFan f x).safe = s.safe := rfl

@[simp] theorem State.pws_setFan : (s.setFan f x).pws = s.pws := rfl

@[simp] theorem State.cal_setFan : (s.setFan f x).cal = s.cal := rfl

@[simp] theorem State.jrn_setFan : (s.setFan f x).jrn = s.jrn := rfl

@[simp] theorem State.ist_setFan : (s.setFan f x).ist = s.ist := rfl

@[simp] theorem State.dgn_setFan : (s.setFan f x).dgn = s.dgn := rfl

@[simp] theorem State.tap_setFan : (s.setFan f x).tap = s.tap := rfl

@[simp] theorem State.ply_setFan : (s.setFan f x).ply = s.ply := rfl

@[simp] theorem State.rd_setFan (p : Nat) : (s.setFan f x).rd p = s.rd p := rfl

@[simp] theorem State.get_setFan (g : Fld) : (s.setFan f x).get g = s.get g := rfl

@[simp] theorem State.flag_setFan (g : Fld) : (s.setFan f x).flag g = s.flag g := rfl

@[simp] theorem State.thread_setFan (j : Nat) : (s.setFan f x).thread j = s.thread j := rfl

@[simp] theorem State.core_setFan (j : Nat) : (s.setFan f x).core j = s.core j := rfl

@[simp] theorem State.panel_setFan (j : Nat) : (s.setFan f x).panel j = s.panel j := rfl

@[simp] theorem State.port_setFan (j : Nat) : (s.setFan f x).port j = s.port j := rfl

@[simp] theorem State.lock_setFan (j : Nat) : (s.setFan f x).lock j = s.lock j := rfl

@[simp] theorem State.pch_setFan (j : Nat) : (s.setFan f x).pch j = s.pch j := rfl

@[simp] theorem State.ach_setFan (j : Nat) : (s.setFan f x).ach j = s.ach j := rfl

@[simp] theorem State.cch_setFan (j : Nat) : (s.setFan f x).cch j = s.cch j := rfl

theorem State.fan_setFan (j : Nat) : (s.setFan f x).fan j = if j = f then x else s.fan j := mget_mput _ _ _ _ _

@[simp] theorem State.fan_setFan_self : (s.setFan f x).fan f = x := mget_mput_self _ _ _ _

theorem State.fan_setFan_ne (j : Nat) (h : j ≠ f) : (s.setFan f x).fan j = s.fan j := mget_mput_ne _ _ _ _ _ h

@[simp] theorem State.qp_setFan (j : Nat) : (s.setFan f x).qp j = s.qp j := rfl

@[simp] theorem State.can_setFan (j : Nat) : (s.setFan f x).can j = s.can j := rfl

@[simp] theorem State.tdm_setFan (j : Nat) : (s.setFan f x).tdm j = s.tdm j := rfl

end

/-! setQp -/

section
variable (s : State) (q : Nat) (x : Qp)

@[simp] theorem State.pending_setQp : (s.setQp q x).pending = s.pending := rfl

@[simp] theorem State.free_setQp : (s.setQp q x).free = s.free := rfl

@[simp] theorem State.regs_setQp : (s.setQp q x).regs = s.regs := rfl

@[simp] theorem State.resp_setQp : (s.setQp q x).resp = s.resp := rfl

@[simp] theorem State.out_setQp : (s.setQp q x).out = s.out := rfl

@[simp] theorem State.capHi_setQp : (s.setQp q x).capHi = s.capHi := rfl

@[simp] theorem State.heldLo_setQp : (s.setQp q x).heldLo = s.heldLo := rfl

@[simp] theorem State.rcap_setQp : (s.setQp q x).rcap = s.rcap := rfl

@[simp] theorem State.pkt_setQp : (s.setQp q x).pkt = s.pkt := rfl

@[simp] theorem State.fuses_setQp : (s.setQp q x).fuses = s.fuses := rfl

@[simp] theorem State.held_setQp : (s.setQp q x).held = s.held := rfl

@[simp] theorem State.burn_setQp : (s.setQp q x).burn = s.burn := rfl

@[simp] theorem State.clk_setQp : (s.setQp q x).clk = s.clk := rfl

@[simp] theorem State.sys_setQp : (s.setQp q x).sys = s.sys := rfl

@[simp] theorem State.vnr_setQp : (s.setQp q x).vnr = s.vnr := rfl

@[simp] theorem State.mqy_setQp : (s.setQp q x).mqy = s.mqy := rfl

@[simp] theorem State.prt_setQp : (s.setQp q x).prt = s.prt := rfl

@[simp] theorem State.prs_setQp : (s.setQp q x).prs = s.prs := rfl

@[simp] theorem State.bpm_setQp : (s.setQp q x).bpm = s.bpm := rfl

@[simp] theorem State.locks_setQp : (s.setQp q x).locks = s.locks := rfl

@[simp] theorem State.dst_setQp : (s.setQp q x).dst = s.dst := rfl

@[simp] theorem State.whl_setQp : (s.setQp q x).whl = s.whl := rfl

@[simp] theorem State.fwd_setQp : (s.setQp q x).fwd = s.fwd := rfl

@[simp] theorem State.evt_setQp : (s.setQp q x).evt = s.evt := rfl

@[simp] theorem State.aud_setQp : (s.setQp q x).aud = s.aud := rfl

@[simp] theorem State.safe_setQp : (s.setQp q x).safe = s.safe := rfl

@[simp] theorem State.pws_setQp : (s.setQp q x).pws = s.pws := rfl

@[simp] theorem State.cal_setQp : (s.setQp q x).cal = s.cal := rfl

@[simp] theorem State.jrn_setQp : (s.setQp q x).jrn = s.jrn := rfl

@[simp] theorem State.thm_setQp : (s.setQp q x).thm = s.thm := rfl

@[simp] theorem State.ist_setQp : (s.setQp q x).ist = s.ist := rfl

@[simp] theorem State.dgn_setQp : (s.setQp q x).dgn = s.dgn := rfl

@[simp] theorem State.tap_setQp : (s.setQp q x).tap = s.tap := rfl

@[simp] theorem State.ply_setQp : (s.setQp q x).ply = s.ply := rfl

@[simp] theorem State.rd_setQp (p : Nat) : (s.setQp q x).rd p = s.rd p := rfl

@[simp] theorem State.get_setQp (g : Fld) : (s.setQp q x).get g = s.get g := rfl

@[simp] theorem State.flag_setQp (g : Fld) : (s.setQp q x).flag g = s.flag g := rfl

@[simp] theorem State.thread_setQp (j : Nat) : (s.setQp q x).thread j = s.thread j := rfl

@[simp] theorem State.core_setQp (j : Nat) : (s.setQp q x).core j = s.core j := rfl

@[simp] theorem State.panel_setQp (j : Nat) : (s.setQp q x).panel j = s.panel j := rfl

@[simp] theorem State.port_setQp (j : Nat) : (s.setQp q x).port j = s.port j := rfl

@[simp] theorem State.lock_setQp (j : Nat) : (s.setQp q x).lock j = s.lock j := rfl

@[simp] theorem State.pch_setQp (j : Nat) : (s.setQp q x).pch j = s.pch j := rfl

@[simp] theorem State.ach_setQp (j : Nat) : (s.setQp q x).ach j = s.ach j := rfl

@[simp] theorem State.cch_setQp (j : Nat) : (s.setQp q x).cch j = s.cch j := rfl

@[simp] theorem State.fan_setQp (j : Nat) : (s.setQp q x).fan j = s.fan j := rfl

theorem State.qp_setQp (j : Nat) : (s.setQp q x).qp j = if j = q then x else s.qp j := mget_mput _ _ _ _ _

@[simp] theorem State.qp_setQp_self : (s.setQp q x).qp q = x := mget_mput_self _ _ _ _

theorem State.qp_setQp_ne (j : Nat) (h : j ≠ q) : (s.setQp q x).qp j = s.qp j := mget_mput_ne _ _ _ _ _ h

@[simp] theorem State.can_setQp (j : Nat) : (s.setQp q x).can j = s.can j := rfl

@[simp] theorem State.tdm_setQp (j : Nat) : (s.setQp q x).tdm j = s.tdm j := rfl

end

/-! setCan -/

section
variable (s : State) (n : Nat) (x : CanPort)

@[simp] theorem State.pending_setCan : (s.setCan n x).pending = s.pending := rfl

@[simp] theorem State.free_setCan : (s.setCan n x).free = s.free := rfl

@[simp] theorem State.regs_setCan : (s.setCan n x).regs = s.regs := rfl

@[simp] theorem State.resp_setCan : (s.setCan n x).resp = s.resp := rfl

@[simp] theorem State.out_setCan : (s.setCan n x).out = s.out := rfl

@[simp] theorem State.capHi_setCan : (s.setCan n x).capHi = s.capHi := rfl

@[simp] theorem State.heldLo_setCan : (s.setCan n x).heldLo = s.heldLo := rfl

@[simp] theorem State.rcap_setCan : (s.setCan n x).rcap = s.rcap := rfl

@[simp] theorem State.pkt_setCan : (s.setCan n x).pkt = s.pkt := rfl

@[simp] theorem State.fuses_setCan : (s.setCan n x).fuses = s.fuses := rfl

@[simp] theorem State.held_setCan : (s.setCan n x).held = s.held := rfl

@[simp] theorem State.burn_setCan : (s.setCan n x).burn = s.burn := rfl

@[simp] theorem State.clk_setCan : (s.setCan n x).clk = s.clk := rfl

@[simp] theorem State.sys_setCan : (s.setCan n x).sys = s.sys := rfl

@[simp] theorem State.vnr_setCan : (s.setCan n x).vnr = s.vnr := rfl

@[simp] theorem State.mqy_setCan : (s.setCan n x).mqy = s.mqy := rfl

@[simp] theorem State.prt_setCan : (s.setCan n x).prt = s.prt := rfl

@[simp] theorem State.prs_setCan : (s.setCan n x).prs = s.prs := rfl

@[simp] theorem State.bpm_setCan : (s.setCan n x).bpm = s.bpm := rfl

@[simp] theorem State.locks_setCan : (s.setCan n x).locks = s.locks := rfl

@[simp] theorem State.dst_setCan : (s.setCan n x).dst = s.dst := rfl

@[simp] theorem State.whl_setCan : (s.setCan n x).whl = s.whl := rfl

@[simp] theorem State.fwd_setCan : (s.setCan n x).fwd = s.fwd := rfl

@[simp] theorem State.hif_setCan : (s.setCan n x).hif = s.hif := rfl

@[simp] theorem State.evt_setCan : (s.setCan n x).evt = s.evt := rfl

@[simp] theorem State.aud_setCan : (s.setCan n x).aud = s.aud := rfl

@[simp] theorem State.safe_setCan : (s.setCan n x).safe = s.safe := rfl

@[simp] theorem State.pws_setCan : (s.setCan n x).pws = s.pws := rfl

@[simp] theorem State.cal_setCan : (s.setCan n x).cal = s.cal := rfl

@[simp] theorem State.jrn_setCan : (s.setCan n x).jrn = s.jrn := rfl

@[simp] theorem State.thm_setCan : (s.setCan n x).thm = s.thm := rfl

@[simp] theorem State.ist_setCan : (s.setCan n x).ist = s.ist := rfl

@[simp] theorem State.tap_setCan : (s.setCan n x).tap = s.tap := rfl

@[simp] theorem State.ply_setCan : (s.setCan n x).ply = s.ply := rfl

@[simp] theorem State.rd_setCan (p : Nat) : (s.setCan n x).rd p = s.rd p := rfl

@[simp] theorem State.get_setCan (g : Fld) : (s.setCan n x).get g = s.get g := rfl

@[simp] theorem State.flag_setCan (g : Fld) : (s.setCan n x).flag g = s.flag g := rfl

@[simp] theorem State.thread_setCan (j : Nat) : (s.setCan n x).thread j = s.thread j := rfl

@[simp] theorem State.core_setCan (j : Nat) : (s.setCan n x).core j = s.core j := rfl

@[simp] theorem State.panel_setCan (j : Nat) : (s.setCan n x).panel j = s.panel j := rfl

@[simp] theorem State.port_setCan (j : Nat) : (s.setCan n x).port j = s.port j := rfl

@[simp] theorem State.lock_setCan (j : Nat) : (s.setCan n x).lock j = s.lock j := rfl

@[simp] theorem State.pch_setCan (j : Nat) : (s.setCan n x).pch j = s.pch j := rfl

@[simp] theorem State.ach_setCan (j : Nat) : (s.setCan n x).ach j = s.ach j := rfl

@[simp] theorem State.cch_setCan (j : Nat) : (s.setCan n x).cch j = s.cch j := rfl

@[simp] theorem State.fan_setCan (j : Nat) : (s.setCan n x).fan j = s.fan j := rfl

@[simp] theorem State.qp_setCan (j : Nat) : (s.setCan n x).qp j = s.qp j := rfl

theorem State.can_setCan (j : Nat) : (s.setCan n x).can j = if j = n then x else s.can j := mget_mput _ _ _ _ _

@[simp] theorem State.can_setCan_self : (s.setCan n x).can n = x := mget_mput_self _ _ _ _

theorem State.can_setCan_ne (j : Nat) (h : j ≠ n) : (s.setCan n x).can j = s.can j := mget_mput_ne _ _ _ _ _ h

@[simp] theorem State.tdm_setCan (j : Nat) : (s.setCan n x).tdm j = s.tdm j := rfl

end

/-! setTdm -/

section
variable (s : State) (p : Nat) (x : Tdm)

@[simp] theorem State.pending_setTdm : (s.setTdm p x).pending = s.pending := rfl

@[simp] theorem State.free_setTdm : (s.setTdm p x).free = s.free := rfl

@[simp] theorem State.regs_setTdm : (s.setTdm p x).regs = s.regs := rfl

@[simp] theorem State.resp_setTdm : (s.setTdm p x).resp = s.resp := rfl

@[simp] theorem State.out_setTdm : (s.setTdm p x).out = s.out := rfl

@[simp] theorem State.capHi_setTdm : (s.setTdm p x).capHi = s.capHi := rfl

@[simp] theorem State.heldLo_setTdm : (s.setTdm p x).heldLo = s.heldLo := rfl

@[simp] theorem State.rcap_setTdm : (s.setTdm p x).rcap = s.rcap := rfl

@[simp] theorem State.pkt_setTdm : (s.setTdm p x).pkt = s.pkt := rfl

@[simp] theorem State.fuses_setTdm : (s.setTdm p x).fuses = s.fuses := rfl

@[simp] theorem State.held_setTdm : (s.setTdm p x).held = s.held := rfl

@[simp] theorem State.burn_setTdm : (s.setTdm p x).burn = s.burn := rfl

@[simp] theorem State.clk_setTdm : (s.setTdm p x).clk = s.clk := rfl

@[simp] theorem State.sys_setTdm : (s.setTdm p x).sys = s.sys := rfl

@[simp] theorem State.vnr_setTdm : (s.setTdm p x).vnr = s.vnr := rfl

@[simp] theorem State.mqy_setTdm : (s.setTdm p x).mqy = s.mqy := rfl

@[simp] theorem State.prt_setTdm : (s.setTdm p x).prt = s.prt := rfl

@[simp] theorem State.prs_setTdm : (s.setTdm p x).prs = s.prs := rfl

@[simp] theorem State.bpm_setTdm : (s.setTdm p x).bpm = s.bpm := rfl

@[simp] theorem State.locks_setTdm : (s.setTdm p x).locks = s.locks := rfl

@[simp] theorem State.dst_setTdm : (s.setTdm p x).dst = s.dst := rfl

@[simp] theorem State.whl_setTdm : (s.setTdm p x).whl = s.whl := rfl

@[simp] theorem State.fwd_setTdm : (s.setTdm p x).fwd = s.fwd := rfl

@[simp] theorem State.hif_setTdm : (s.setTdm p x).hif = s.hif := rfl

@[simp] theorem State.evt_setTdm : (s.setTdm p x).evt = s.evt := rfl

@[simp] theorem State.safe_setTdm : (s.setTdm p x).safe = s.safe := rfl

@[simp] theorem State.pws_setTdm : (s.setTdm p x).pws = s.pws := rfl

@[simp] theorem State.cal_setTdm : (s.setTdm p x).cal = s.cal := rfl

@[simp] theorem State.jrn_setTdm : (s.setTdm p x).jrn = s.jrn := rfl

@[simp] theorem State.thm_setTdm : (s.setTdm p x).thm = s.thm := rfl

@[simp] theorem State.ist_setTdm : (s.setTdm p x).ist = s.ist := rfl

@[simp] theorem State.dgn_setTdm : (s.setTdm p x).dgn = s.dgn := rfl

@[simp] theorem State.tap_setTdm : (s.setTdm p x).tap = s.tap := rfl

@[simp] theorem State.ply_setTdm : (s.setTdm p x).ply = s.ply := rfl

@[simp] theorem State.rd_setTdm (p : Nat) : (s.setTdm p x).rd p = s.rd p := rfl

@[simp] theorem State.get_setTdm (g : Fld) : (s.setTdm p x).get g = s.get g := rfl

@[simp] theorem State.flag_setTdm (g : Fld) : (s.setTdm p x).flag g = s.flag g := rfl

@[simp] theorem State.thread_setTdm (j : Nat) : (s.setTdm p x).thread j = s.thread j := rfl

@[simp] theorem State.core_setTdm (j : Nat) : (s.setTdm p x).core j = s.core j := rfl

@[simp] theorem State.panel_setTdm (j : Nat) : (s.setTdm p x).panel j = s.panel j := rfl

@[simp] theorem State.port_setTdm (j : Nat) : (s.setTdm p x).port j = s.port j := rfl

@[simp] theorem State.lock_setTdm (j : Nat) : (s.setTdm p x).lock j = s.lock j := rfl

@[simp] theorem State.pch_setTdm (j : Nat) : (s.setTdm p x).pch j = s.pch j := rfl

@[simp] theorem State.ach_setTdm (j : Nat) : (s.setTdm p x).ach j = s.ach j := rfl

@[simp] theorem State.cch_setTdm (j : Nat) : (s.setTdm p x).cch j = s.cch j := rfl

@[simp] theorem State.fan_setTdm (j : Nat) : (s.setTdm p x).fan j = s.fan j := rfl

@[simp] theorem State.qp_setTdm (j : Nat) : (s.setTdm p x).qp j = s.qp j := rfl

@[simp] theorem State.can_setTdm (j : Nat) : (s.setTdm p x).can j = s.can j := rfl

theorem State.tdm_setTdm (j : Nat) : (s.setTdm p x).tdm j = if j = p then x else s.tdm j := mget_mput _ _ _ _ _

@[simp] theorem State.tdm_setTdm_self : (s.setTdm p x).tdm p = x := mget_mput_self _ _ _ _

theorem State.tdm_setTdm_ne (j : Nat) (h : j ≠ p) : (s.setTdm p x).tdm j = s.tdm j := mget_mput_ne _ _ _ _ _ h

end

end Sys2Proof.Machine
end

