-- ==== Sys2Proof/Laws/Unpredictable.lean ====
section
/-!
SUPPORT. What an unpredictable outcome leaves as it was (00_scope.md R25 to R28): registers outside the block, and those of protected
parts.
-/
namespace Sys2Proof.Machine

/-- A free word changes one register of its span that no protected part holds. -/
theorem rd_freeWord (span : Nat × Nat) (s : State) (e : Nat × Word) (o : Nat)
    (h : (span.1 ≤ o ∧ o < span.1 + span.2) → walled o = true) : (freeWord span s e).rd o = s.rd o := by
  unfold freeWord
  split
  · rename_i c
    refine State.rd_wr_ne _ _ _ _ fun he => ?_
    simp only [Bool.and_eq_true, decide_eq_true_eq, Bool.not_eq_true'] at c
    rw [← he] at c
    simp [h c.1.1] at c
  · rfl

/-- Free words leave the registers outside their span, and those of protected parts but the effective dead times. -/
theorem rd_freeWords (f : Hidden) (span : Nat × Nat) (s : State) (o : Nat) (h : (span.1 ≤ o ∧ o < span.1 + span.2) → walled o = true)
    (hd : span.1 = 0xA0000 → ∀ c < 16, o ≠ 0xA0108 + 0x20 * c) : (freeWords f span s).rd o = s.rd o := by
  have words : ∀ (l : List (Nat × Word)) (u : State), (l.foldl (freeWord span) u).rd o = u.rd o := by
    intro l
    induction l with
    | nil => exact fun _ => rfl
    | cons e l ih => exact fun u => (ih _).trans (rd_freeWord span u e o h)
  have times : span.1 = 0xA0000 → ∀ (l : List Nat) (u : State), (∀ c ∈ l, c < 16) →
      (l.foldl (fun s c => showDt c s) u).rd o = u.rd o := by
    intro hs l
    induction l with
    | nil => exact fun _ _ => rfl
    | cons c l ih =>
      intro u hl
      refine (ih _ fun d hm => hl d (List.mem_cons_of_mem _ hm)).trans (State.rd_set_ne _ _ _ _ ?_)
      exact hd hs c (hl c (List.mem_cons_self ..))
  unfold freeWords
  dsimp only
  split
  · rename_i hs
    exact (times hs _ _ fun c hc => List.mem_range.mp hc).trans (words _ _)
  · exact words _ _

/-- Both branches have the registers. -/
theorem regs_ite {c : Prop} [Decidable c] {a b : State} {r : SMap Word} (h : a.regs = r) (k : b.regs = r) :
    (if c then a else b).regs = r := by
  split
  · exact h
  · exact k

/-- The state behind a block's registers is no register. -/
theorem regs_freeHidden (f : Hidden) (o : Nat) (s : State) : (freeHidden f o s).regs = s.regs := by
  have threads : ∀ (n : Nat) (g : Nat → Thread) (l : List Nat) (u : State),
      (l.foldl (fun s t => s.setThread (8 * n + t) (g t)) u).regs = u.regs := by
    intro n g l
    induction l with
    | nil => exact fun _ => rfl
    | cons t l ih => exact fun u => ih _
  unfold freeHidden
  repeat' first
    | with_reducible refine regs_ite ?_ ?_
    | exact threads _ _ _ _
    | rfl

/-- An outcome confined to a block leaves every register outside the block, and those of protected parts but the effective dead
times, which follow their channels' settings. -/
theorem rd_unpredBlock (p : Nat) (s : State) (o : Nat)
    (h : ((blockSpan p).1 ≤ o ∧ o < (blockSpan p).1 + (blockSpan p).2) → walled o = true)
    (hd : (blockSpan p).1 = 0xA0000 → ∀ c < 16, o ≠ 0xA0108 + 0x20 * c) : (unpredBlock p s).rd o = s.rd o := by
  unfold unpredBlock
  split
  · rfl
  · unfold State.rd
    dsimp only
    rw [regs_freeHidden]
    exact rd_freeWords _ _ _ _ h hd

end Sys2Proof.Machine
end

