-- ==== Sys2Proof/Tests/Slice0.lean ====
section
/-!
SUPPORT. The model's own tests: for each statement, states and operands that meet the conditions of every one of its clauses together;
for each check of well-formedness, an ill-formed command that it refuses; and single steps.
-/
namespace Sys2Proof.Tests
open Sys2Proof.Machine
set_option maxRecDepth 100000
set_option Elab.async false


/-- The device out of reset with every island powered, debug access open, and panels 0 and 7 issuing requests on their port 0: all
else as reset leaves it. -/
def live : State :=
  { State.reset with
    sys := { State.reset.sys with resetting := false, railSeen := 0xFFFF }
    regs := ((List.range 77).filter fun i => islReset i / 2 ^ 14 % 2 = 0).map (fun i => (R.CLK_ISL i, BitVec.ofNat 32 (islReset i + 2 ^ 14)))
      ++ [(R.DGN_STAT, wset (resetWord R.DGN_STAT) R.DGN_STAT_DBGOPEN.lo 1 1), (R.MQY_STAT 0, 0x46), (R.MQY_PORT 0 0, 2),
        (R.MQY_STAT 7, 0x46), (R.MQY_PORT 7 0, 2)] }

/-- An image of one POOLS section that gives every pool buffers of 64 bytes, and none of them. -/
def smallImage : List Byte :=
  List.replicate 8 0 ++ leBytes 4 0x1C0 ++ leBytes 2 1 ++ List.replicate 242 0 ++ leBytes 2 tPOOLS ++ leBytes 2 0 ++ leBytes 4 0x140
    ++ leBytes 4 128 ++ List.replicate 52 0 ++ ((List.range 8).flatMap fun _ => leBytes 2 1 ++ List.replicate 14 0)

/-- A packet of 64 bytes in buffer 0 of pool 0. -/
def aPkt : Pkt :=
  { port := 0, handle := 0, len := 64, doff := 0, tstamp := 0, flags := 0, l3off := 0, l4off := 0, yarn := 0, cls := 0, tc := 0, qc := 0,
    colour := 0, hq := 0, hqen := false, qrule := 0, qdef := false, vid := 0, pcp := 0, stream := none, sub := none }

/-- A frame in buffer 0 of pool 0. -/
def anEgFrame : EgFrame := 
  { handle := 0, len := 64, doff := 0, tag := none, stamp := 0, rtag := none, vid := 0, pcp := 0, sender := none }

/-- The first task of yarn 0, queued on core 0. -/
def aTask : Task :=
  { id := 0, pkt := aPkt, seq := 0, prio := 0, st := .queued, core := 0, thr := 0, disp := 0, mask := 0, tag := none, fault := false }

/-- Core 0 in service, its thread 1 waiting for a task, and a task queued on it. -/
def idleCore : State :=
  ({ live with dst := { live.dst with tasks := [aTask] } }.setCore 0 { Core.reset with svc := true }).setThread 1
    { Thread.reset with st := 2, waitOn := 1 } |>.set (R.DST_CORE_TMASK 0) 0xFE

/-- One pool of 64-byte buffers that every owner may use. -/
def onePool : State :=
  ((((live.set (R.BPM_POOL_CFG_SIZE 0) 1).set (R.BPM_POOL_CFG_MODE 0) 1).set (R.BPM_POOL_COUNT_N 0) 4).set (R.BPM_POOL_FREE_N 0) 4).set
    (R.BPM_OWN_CAP_N 9 0) 4

/-- A descriptor entry at ring index 0 that holds the bytes, nothing done with it yet. -/
def anEntry (bs : List Byte) : QEntry := { idx := 0, bytes := bs, posted := false, bufWait := false, pkt := none, result := none }

/-- An active queue pair in packet memory with rings of 16 entries and one fetched entry. -/
def oneQp (rx : Bool) (bs : List Byte) : Qp :=
  { Qp.reset with st := 1, kind := rx, ringsp := true, sqlog := 4, cqlog := 4, out := [anEntry bs] }

/-- The PCIe host's link is up, and its bus mastering on. -/
def hostUp : State := { (live.set R.HIF_STAT_LINKUP 1) with hif.bme := true }

/-- AUD running. -/
def audLive : State := live.set R.AUD_STAT_RUN 1

/-- SAFE on in Stage 1, and the owner of channels 0 to 3. -/
def safeLive : State := (live.set R.SYS_STAGE_STAGE 1).set R.SAFE_STAT_OWN 1

/-- Channel 3 of the power stage active on the strand that owns the gates. -/
def pwsLive : State := (live.set (R.PWS_CH_STAT_ACTIVE 3) 1).set R.PWS_STAT_OWNER 1

/-- SAFE as in `safeLive`, with clip 0 of one sample in the journal. -/
def clipLive : State :=
  { safeLive with
    jrn.mem := ((jrnPlan 1552 1 { region := 4, id := 0, data := [0, 0, 1, 0, 0, 0, 0, 0, 1, 0] }).foldl jrnPut safeLive).jrn.mem }

/-- In-service test running in Stage 2. -/
def istLive : State := (live.set R.SYS_STAGE_STAGE 2).set R.SYS_PSTATE_STATE 2

/-- The same with pool 0 a bitmap pool of one buffer of 64 bytes that IST may use. -/
def marchLive : State :=
  ((((((istLive.set (R.BPM_POOL_CFG_SIZE 0) 1).set (R.BPM_POOL_CFG_MODE 0) 1).set (R.BPM_POOL_COUNT_N 0) 1).set (R.BPM_POOL_FREE_N 0) 1).set
    (R.BPM_OWN_CAP_N 25 0) 1).set R.BPM_LOAN_FLOOR 0).set R.IST_CTL_EN 4

/-- The journal scanned, with nothing in it. -/
def jrnLive : State := (live.set R.JRN_STAT_SCANDONE 1).wr R.JRN_SEQ 1

/-- A LEADER and a FOLLOWER in Stage 2. -/
def leaderLive : State := (live.set R.SYS_STAGE_STAGE 2).set R.PLY_STAT_ROLE 2
def followerLive : State := (live.set R.SYS_STAGE_STAGE 2).set R.PLY_STAT_ROLE 3

/-- What a CUTOVER carries from a LEADER like `live`. -/
def aCut : CutState :=
  { pkt := [], brams := [], whl := live.whl, bpm := live.bpm, locks := [], dst := live.dst, prs := live.prs, fwd := live.fwd,
    aud := live.aud, cal := live.cal, regs := [] }

/-- Distaff with core 0 in service and room on yarn 0. -/
def admitLive : State := { idleCore.set (R.DST_YCFG_LIMIT 0) 4 with dst.mask := [(0, 1)] }

/-- Both CAN ports running in Stage 1. -/
def canLive : State := ((live.set R.SYS_STAGE_STAGE 1).set (R.CAN_CTL_EN 0) 1).set (R.CAN_CTL_EN 1) 1

/-- A classic CAN frame of two bytes. -/
def aFrame : CanFrame := { id := 0x123, ide := false, rtr := false, dlc := 2, fdf := false, brs := false, esi := false, data := [1, 2] }

/-- The test access port with its rails up. -/
def tapLive : State := live.wr R.SUP_RAIL 0xFFFF

/-- Core 0 alone, in service, its thread 0 at a word of the bytes `code` at 0x100, with register values that `k` varies. -/
def wState (k : Nat) (form : Bool) (code : List Byte) : State :=
  let s := { State.reset with sys := { State.reset.sys with resetting := false, railSeen := 0xFFFF } }.set (R.CLK_ISL_ON (islWHL 0)) 1
  let s := s.setCore 0 { Core.reset with svc := true, mem := Mem.wrBytes (Mem.wrBytes [] 0x100 code) 0x2000 [0x81, 0x92, 0x73, 0x64, 0xF5, 6, 7, 8] }
  let v (j : Nat) : Nat := (j * 2654435761 + k * (j + 5) * 40503 * 65537) % 2 ^ 32
  let g := ((List.range 15).map (· + 1)).foldl (fun m j => mput (fun _ => 0) m j (BitVec.ofNat 32 (v j))) []
  let g := mput (fun _ => 0) (mput (fun _ => 0) g 5 (if k = 0 then 0x2000 else BitVec.ofNat 32 (v 5))) 14 0x3000
  s.setThread 0 { Thread.reset with st := 1, pc := 0x100, g := g, form := form, acc := (v 21 * 2 ^ 36 + v 22) % 2 ^ 72, accAge := (k + 4) % 5,
                                    flags := ⟨k % 2 = 1, k % 3 = 1, k % 2 = 0, k % 5 = 2⟩ }

/-- The instruction that a word stands for. -/
def insnOf (form : Bool) (code : List Byte) : Insn :=
  match (wordDecode form code).1 with
  | .one i => i
  | .two a b => if b = slotNop then a else b
  | _ => slotNop

/-- A thread whose packet lies in buffer 0 of pool 0, at a word of stream form. -/
def pstState (code : List Byte) : State :=
  let s := ((List.range 8).foldl (fun (s : State) b => s.set (R.CLK_ISL_ON (islPKM b)) 1) (wState 0 false code)).set R.SYS_STAGE_STAGE 2
  let s := (s.set (R.BPM_POOL_CFG_SIZE 0) 1).set (R.BPM_POOL_COUNT_N 0) 1
  s.setThread 0 { s.thread 0 with pkh := 0 }

/-- A thread that holds the first task of yarn 0, in buffer 0 of pool 0, at a word of stream form. -/
def taskState (code : List Byte) : State :=
  let s := ((wState 0 false code).set (R.BPM_POOL_CFG_SIZE 0) 1).set (R.BPM_POOL_COUNT_N 0) 1
  let s := { s with dst.tasks := [{ aTask with st := .running }] }
  s.setThread 0 { s.thread 0 with task := some 0 }

/-- A thread that waits on the weft with a word of stream form. -/
def respState (code : List Byte) (got : List Word) : State :=
  let s := (wState 0 false code).set (R.CLK_ISL_ON islBPM) 1
  s.setThread 0 { s.thread 0 with st := 2, waitOn := 4, read := some { code := code, got := got, wait := .ready, logged := false } }

/-- An access table row of no bits. -/
def default0 : RegSpec := ⟨0, [], 0, 0, 0, 0, 0, 0⟩


/-- The answer is a next state. -/
def goesOn (o : Out) : Bool :=
  match o with
  | .next _ => true
  | _ => false

theorem witness_RegisterCommandsComplete :
  (∃ (s : State) (a : Agent) (off : Nat) (be : Nat) (v : Word) (c : RegSpec), be = 15 ∧ reaches a off v s = true ∧ off % 4 = 0 ∧
   codeWritten off = true ∧ regSpec off = some c) ∧
  (∃ (s : State) (a : Agent) (off : Nat) (be : Nat) (v : Word), be = 15 ∧ reaches a off v s = true ∧ off % 4 = 0 ∧
   codeWritten off = true ∧ regSpec off = none) ∧
  (∃ (off : Nat) (be : Nat), (be ≠ 15 ∨ off % 4 ≠ 0)) ∧
  (∃ (s : State) (a : Agent) (off : Nat), pairLo off = true ∧ readable a off s = true) ∧
  (∃ (s : State) (a : Agent) (off : Nat) (be : Nat) (v : Word), be = 15 ∧ reaches a off v s = true ∧ pairLo off = true ∧
   pairRw off = true ∧ pairBusy off s = false ∧ pairFixed off s = false) ∧
  (∃ (s : State) (a : Agent) (off : Nat) (be : Nat) (v : Word), be = 15 ∧ 4 ≤ off ∧ off % 4 = 0 ∧ reaches a off v s = true ∧
   pairLo (off - 4) = true ∧ pairRw (off - 4) = true ∧ pairBusy (off - 4) s = false ∧ pairFixed (off - 4) s = false ∧
   off - 4 ≠ R.CLK_TSTEP_LO ∧ off - 4 ≠ R.DST_YMASK_LO) ∧
  (∃ (s : State) (a : Agent) (off : Nat) (c : RegSpec), off % 4 = 0 ∧ codeReads off = true ∧ regSpec off = some c ∧ c.rc ≠ 0 ∧
   readable a off s = true) ∧
  (∃ (s : State) (a : Agent) (off : Nat) (be : Nat) (v : Word) (c : RegSpec), be = 15 ∧ reaches a off v s = true ∧
   codeWritten off = true ∧ off % 4 = 0 ∧ regSpec off = some c ∧ c.w1c ≠ 0) ∧
  (∃ (s : State) (addr : Nat), tapRuns s = true ∧ s.tap.ir = 0x20 ∧ s.sys.resetting = false ∧ s.flag R.DGN_STAT_DBGOPEN = true ∧
   addr % 4 = 0 ∧ addr < 0x1000000 ∧ pairOf addr = none ∧ readable .debug addr s = true) ∧
  (∃ (s : State) (addr : Nat) (v : Word) (c : RegSpec), tapRuns s = true ∧ s.tap.ir = 0x20 ∧ s.sys.resetting = false ∧
   s.flag R.DGN_STAT_DBGOPEN = true ∧ addr % 4 = 0 ∧ codeWritten addr = true ∧ regSpec addr = some c ∧
   reaches .debug addr v s = true) ∧
  (∃ (s : State) (a : Agent) (off : Nat) (be : Nat) (v : Word), isHost a = true ∧ goesOn (exec (.registerWrite a off be v
   none) s) = true) :=
  ⟨⟨live, .host, 0x20008, 15, 0, (regSpec 0x20008).getD default0, by decide +kernel⟩,
   ⟨live, .thread 0 0, 0x10FFC, 15, 7, by decide +kernel⟩,
   ⟨0x2002C, 3, by decide +kernel⟩,
   ⟨live, .host, 0x20010, by decide +kernel⟩,
   ⟨live, .host, 0x300020, 15, 0x1234, by decide +kernel⟩,
   ⟨setHeld .host 0x300020 (some 0x1234) live, .host, 0x300024, 15, 5, by decide +kernel⟩,
   ⟨live.wr 0x10108 0x77, .debug, 0x10108, (regSpec 0x10108).getD default0, by decide +kernel⟩,
   ⟨live.wr 0x20004 0x55, .host, 0x20004, 15, 5, (regSpec 0x20004).getD default0, by decide +kernel⟩,
   ⟨({ tapLive with tap.ir := 0x20 }).set R.DGN_STAT_DBGOPEN 1, 0x20008, by decide +kernel⟩,
   ⟨({ tapLive with tap.ir := 0x20 }).set R.DGN_STAT_DBGOPEN 1, 0x20008, 0x15, (regSpec 0x20008).getD default0, by decide +kernel⟩,
   ⟨live, .host, 0x20008, 7, 3, by decide +kernel⟩⟩

theorem witness_LinkAndOscillatorEventsComplete :
  (∃ (s : State) (k : Nat) (n : Nat) (back : Bool) (resp : Bool), s.sys.resetting = false ∧ k < 142 ∧ s.get (R.CLK_LINK_STATE
   k) = 0 ∧ mget (fun _ => 0) s.clk.flitFails (2 * k + b2n back) = 0 ∧ creditsUsed s (2 * (2 * k + b2n back) + b2n resp) - n <
   4) ∧
  (∃ (s : State) (k : Nat) (n : Nat) (back : Bool) (resp : Bool), s.sys.resetting = false ∧ k < 142 ∧ s.get (R.CLK_LINK_STATE
   k) = 0 ∧ mget (fun _ => 0) s.clk.flitFails (2 * k + b2n back) = 0 ∧ 4 ≤ creditsUsed s (2 * (2 * k + b2n back) + b2n resp) -
   n) ∧
  (∃ (s : State) (k : Nat) (n : Nat) (back : Bool) (resp : Bool), s.sys.resetting = false ∧ k < 142 ∧ s.get (R.CLK_LINK_STATE
   k) = 0 ∧ (mget (fun _ => 0) s.clk.flitFails (2 * k + b2n back) ≠ 0 ∨ creditsUsed s (2 * (2 * k + b2n back) + b2n resp) - n
   < 4)) ∧
  (∃ (s : State) (k : Nat) (n : Nat) (back : Bool) (resp : Bool), s.sys.resetting = false ∧ k < 142 ∧ s.get (R.CLK_LINK_STATE
   k) = 0 ∧ (mget (fun _ => 0) s.clk.flitFails (2 * k + b2n back) ≠ 0 ∨ creditsUsed s (2 * (2 * k + b2n back) + b2n resp) - n
   < 4) ∧ mget (fun _ => 0) s.clk.flitFails (2 * k + b2n back) < 3) ∧
  (∃ (s : State) (k : Nat) (back : Bool), s.sys.resetting = false ∧ k < 142 ∧ s.get (R.CLK_LINK_STATE k) = 0 ∧ mget (fun _ =>
   0) s.clk.flitFails (2 * k + b2n back) = 3) ∧
  (∃ (s : State) (k : Nat) (back : Bool), s.sys.resetting = false ∧ k < 142 ∧ s.get (R.CLK_LINK_STATE k) = 1 ∧ s.stage < 2 ∧
   mget (fun _ => 0) s.clk.loopLeft k = 2 ^ b2n back) ∧
  (∃ (s : State) (k : Nat), s.sys.resetting = false ∧ k < 142 ∧ s.get (R.CLK_LINK_STATE k) = 1 ∧ s.stage < 2 ∧ mget (fun _ =>
   0) s.clk.loopLeft k = 3) ∧
  (∃ (s : State) (k : Nat), s.sys.resetting = false ∧ k < 142 ∧ s.get (R.CLK_LINK_STATE k) = 1 ∧ s.stage < 2) ∧
  (∃ (s : State) (isl : Nat), s.sys.resetting = false ∧ isl < 77 ∧ s.flag (R.CLK_ISL_ON isl) = true ∧
   s.flag (R.CLK_ISL_STOP isl) = false) ∧
  (∃ (s : State), s.sys.resetting = false ∧ s.flag R.CLK_STAT_REFCLK_OK = true) ∧
  (∃ (s : State), s.sys.resetting = false ∧ s.flag R.CLK_STAT_REFCLK_OK = false ∧ bitOf (s.rd R.SUP_RAIL).toNat 5 = true ∧
   s.safe.waiting = []) ∧
  (∃ (s : State), s.sys.resetting = false ∧ s.flag R.CLK_STAT_REFCLK_OK = true) ∧
  (∃ (s : State) (k : Nat), s.sys.resetting = false ∧ k < 4 ∧ s.flag R.CLK_STAT_REFCLK_OK = true ∧ s.flag (pllLock k) = false
   ∧ (k = 3 → s.isStrand = true) ∧ (k = 0 → audPllOff s = false)) ∧
  (∃ (s : State) (k : Nat), s.sys.resetting = false ∧ k < 4 ∧ s.flag R.CLK_STAT_REFCLK_OK = true ∧ s.flag (pllLock k) = true) ∧
  (∃ (s : State) (k : Nat), s.sys.resetting = false ∧ k < 4 ∧ s.flag R.CLK_STAT_REFCLK_OK = true ∧ s.flag (pllLock k) = false
   ∧ (k = 0 → audPllOff s = false)) ∧
  (∃ (s : State) (n : Nat) (mhz : Nat), n < 48 ∧ s.up (islWHL n) = true ∧ mhz < slowThr s) ∧
  (∃ (s : State) (n : Nat), n < 48 ∧ s.up (islWHL n) = true) :=
  ⟨⟨live, 141, 0, true, true, by decide +kernel⟩,
   ⟨{ live with clk.credits := [(0, 4)] }, 0, 0, false, false, by decide +kernel⟩,
   ⟨live, 0, 0, false, false, by decide +kernel⟩,
   ⟨{ live with clk.flitFails := [(283, 2)], clk.credits := [(567, 4)] }, 141, 0, true, true, by decide +kernel⟩,
   ⟨{ live with clk.flitFails := [(0, 3)] }, 0, false, by decide +kernel⟩,
   ⟨{ live.set (R.CLK_LINK_STATE 7) 1 with clk.loopLeft := [(7, 2)] }, 7, true, by decide +kernel⟩,
   ⟨{ live.set (R.CLK_LINK_STATE 7) 1 with clk.loopLeft := [(7, 3)] }, 7, by decide +kernel⟩,
   ⟨live.set (R.CLK_LINK_STATE 7) 1, 7, by decide +kernel⟩,
   ⟨live, 76, by decide +kernel⟩,
   ⟨live.set R.CLK_STAT_REFCLK_OK 1, by decide +kernel⟩,
   ⟨live.set ⟨R.SUP_RAIL, 5, 1⟩ 1, by decide +kernel⟩,
   ⟨live.set R.CLK_STAT_REFCLK_OK 1, by decide +kernel⟩,
   ⟨live.set R.CLK_STAT_REFCLK_OK 1, 0, by decide +kernel⟩,
   ⟨(live.set R.CLK_STAT_REFCLK_OK 1).set (pllLock 3) 1, 3, by decide +kernel⟩,
   ⟨live.set R.CLK_STAT_REFCLK_OK 1, 2, by decide +kernel⟩,
   ⟨live, 47, 399, by decide +kernel⟩,
   ⟨live, 0, by decide +kernel⟩⟩

theorem witness_DeviceTimeCommandsComplete :
  (∃ (s : State), s.sys.resetting = false) ∧
  (∃ (s : State) (isl : Nat), isl < 77 ∧ s.up isl = true) ∧
  (∃ (s : State), s.sys.resetting = false ∧ s.clk.disc = .within) ∧
  (∃ (s : State) (a : Agent) (v : Word), reaches a R.CLK_TRATE v s = true) ∧
  (∃ (s : State) (a : Agent) (v : Word), reaches a R.CLK_TSLEW v s = true) ∧
  (∃ (s : State) (a : Agent) (hi : Word), reaches a R.CLK_TSTEP_HI hi s = true) :=
  ⟨⟨live, by decide +kernel⟩,
   ⟨live, 0, by decide +kernel⟩,
   ⟨disciplined (live.set R.CLK_TSTAT_STATE 1), by decide +kernel⟩,
   ⟨live, .host, 0xFFFFFFFF, by decide +kernel⟩,
   ⟨live, .thread 47 7, 0x80000000, by decide +kernel⟩,
   ⟨setHeld .debug R.CLK_TSTEP_LO (some 5) live, .debug, 0, by decide +kernel⟩⟩

theorem witness_ResetCommandsComplete :
  (∃ (ns : Nat) (taken : Bool), 1000 ≤ ns ∧ (ns < 10000 → taken = true)) ∧
  (∃ (ns : Nat) (taken : Bool), 500 ≤ ns ∧ (ns < 2000 → taken = true)) ∧
  (∃ (s : State), s.sys.resetting = true ∧ s.sys.boardTest = false ∧ (s.rd R.SUP_RAIL).toNat &&& 0x84 = 0x84) ∧
  (∃ (s : State), s.sys.resetting = false ∧ s.stage = 0 ∧ s.flag R.JRN_STAT_SCANDONE = true ∧ s.flag R.CLK_STAT_REFCLK_OK = true ∧
   s.flag R.CLK_STAT_AUDPLL_LOCK = true ∧ s.up islSAFE = true ∧ s.up islPWS = true) :=
  ⟨⟨1000, true, by decide +kernel⟩,
   ⟨2000, false, by decide +kernel⟩,
   ⟨State.reset.wr R.SUP_RAIL 0x84, by decide +kernel⟩,
   ⟨((live.set R.JRN_STAT_SCANDONE 1).set R.CLK_STAT_REFCLK_OK 1).set R.CLK_STAT_AUDPLL_LOCK 1, by decide +kernel⟩⟩

theorem witness_LoadCommandsComplete :
  (∃ (s : State) (push : Bool), reaches .host R.SYS_STAGE_CMD (BitVec.ofNat 32 (1 + 16 * b2n push)) s = true ∧ s.halted =
   false ∧ s.get R.SYS_STRAP_BOOT < 2 ∧ s.flag R.SYS_STAGE_LOADING = false ∧ s.flag R.SYS_PSTATE_TRANS = false ∧ s.stage = 1 ∧
   s.pstate = 1) ∧
  (∃ (s : State) (f : Flash) (m : List Byte), s.sys.load = .wake ∧ allFed s = true ∧ s.sys.loadPush = false ∧ s.flag
   R.HIF_XSPI_STAT_BUSY = false ∧ m = flashFrom f (if s.flag R.SYS_STAGE_FALLBACK then 0x2000000 else 0)) ∧
  (∃ (s : State), s.sys.load = .wake ∧ allFed s = true ∧ s.sys.loadPush = false ∧ s.flag R.HIF_XSPI_STAT_BUSY = false) ∧
  (∃ (s : State), s.sys.load = .wake ∧ allFed s = true ∧ s.sys.loadPush = true ∧ headerArrived s.vnr.img = true) ∧
  (∃ (s : State), s.sys.load = .stream ∧ imageArrived s.vnr.img = true) ∧
  (∃ (s : State), s.sys.load = .verify) ∧
  (∃ (s : State), s.sys.load = .apply ∧ sectionsOk s.vnr.img = true) ∧
  (∃ (s : State) (v : Word), reaches .host (R.VNR_PUSH 0) v s = true ∧ pushOpen s = true ∧ pushWants s = true) ∧
  (∃ (s : State), pushOpen s = true ∧ pushWants s = true) :=
  ⟨⟨(live.set R.SYS_STAGE_STAGE 1).set R.SYS_PSTATE_STATE 1, true, by decide +kernel⟩,
   ⟨{ live with sys.load := .wake }, [], [], by decide +kernel⟩,
   ⟨{ live with sys.load := .wake }, by decide +kernel⟩,
   ⟨{ live with sys.load := .wake, sys.loadPush := true, vnr.img := List.replicate 256 0 }, by decide +kernel⟩,
   ⟨{ live with sys.load := .stream, vnr.img := List.replicate 256 0 }, by decide +kernel⟩,
   ⟨{ live with sys.load := .verify }, by decide +kernel⟩,
   ⟨{ live with sys.load := .apply, vnr.img := smallImage }, by decide +kernel⟩,
   ⟨{ live with sys.load := .wake, sys.loadPush := true }, 0x52454E56, by decide +kernel⟩,
   ⟨{ live with sys.load := .wake, sys.loadPush := true }, by decide +kernel⟩⟩

theorem witness_StageCommandsComplete :
  (∃ (s : State), reaches .host R.SYS_UNCLAMP 1 s = true ∧ s.halted = false ∧ 2 ≤ s.stage ∧ s.pstate ≠ 4 ∧ netTrans s = false ∧
   doneBit s 1 = false ∧ s.sys.unclamp ≠ 1) ∧
  (∃ (s : State), reaches .host R.SYS_UNCLAMP 2 s = true ∧ s.halted = false ∧ 2 ≤ s.stage ∧ s.pstate ≠ 4 ∧ netTrans s = false ∧
   doneBit s 2 = false ∧ s.sys.unclamp ≠ 2 ∧ doneBit s 1 = true) ∧
  (∃ (s : State), reaches .host R.SYS_UNCLAMP 3 s = true ∧ s.halted = false ∧ 2 ≤ s.stage ∧ s.pstate ≠ 4 ∧ netTrans s = false ∧
   doneBit s 3 = false ∧ s.sys.unclamp ≠ 3 ∧ doneBit s 2 = true) ∧
  (∃ (s : State), 1 ≤ s.sys.unclamp ∧ s.sys.unclamp ≤ 3) ∧
  (∃ (s : State) (force : Bool), reaches .host R.SYS_STAGE_CMD (BitVec.ofNat 32 (2 + 32 * b2n force)) s = true ∧ s.halted = false ∧
   s.flag R.SYS_PSTATE_TRANS = false ∧ s.flag R.SYS_STAGE_LOADING = false ∧ s.get R.SYS_UNCLAMP_DONE = 7 ∧ s.pstate = 2 ∧
   s.stage = 2) ∧
  (∃ (s : State) (c : Nat), s.up islPWS = true ∧ handLeft s c = 1) ∧
  (∃ (s : State) (c : Nat), gatesOut s c = true ∧ c < 16) ∧
  (∃ (s : State) (c : Nat), s.up islPWS = true ∧ c < 16) ∧
  (∃ (s : State) (c : Nat), s.up islPWS = true ∧ c < 16 ∧ srcOf s c = 1) :=
  ⟨⟨((live.set R.SYS_STAGE_STAGE 2).set R.SYS_PSTATE_STATE 2).set R.SYS_UNCLAMP_DONE 0, by decide +kernel⟩,
   ⟨((live.set R.SYS_STAGE_STAGE 2).set R.SYS_PSTATE_STATE 2).set R.SYS_UNCLAMP_DONE 1, by decide +kernel⟩,
   ⟨((live.set R.SYS_STAGE_STAGE 2).set R.SYS_PSTATE_STATE 2).set R.SYS_UNCLAMP_DONE 3, by decide +kernel⟩,
   ⟨{ live with sys.unclamp := 3 }, by decide +kernel⟩,
   ⟨((live.set R.SYS_STAGE_STAGE 2).set R.SYS_PSTATE_STATE 2).set R.SYS_UNCLAMP_DONE 7, true, by decide +kernel⟩,
   ⟨{ live with sys.handLeft := [(15, 1)] }, 15, by decide +kernel⟩,
   ⟨{ live with sys.gatesOut := [(4, true)] }, 4, by decide +kernel⟩,
   ⟨live, 15, by decide +kernel⟩,
   ⟨live.set (R.PWS_CH_STAT_SRC 3) 1, 3, by decide +kernel⟩⟩

theorem witness_PowerCommandsComplete :
  (∃ (s : State) (push : Bool), reaches .host R.SYS_PSTATE_CMD (powerWord 1 0x5A push) s = true ∧ s.halted = false ∧
   s.flag R.SYS_PSTATE_TRANS = false ∧ s.flag R.SYS_STAGE_LOADING = false ∧ s.flag R.VNR_PATCH_STAT_BUSY = false ∧
   powerAllowed s.pstate 2 = true) ∧
  (∃ (s : State) (push : Bool), reaches .host R.SYS_PSTATE_CMD (powerWord 2 0x5A push) s = true ∧ s.halted = false ∧
   s.flag R.SYS_PSTATE_TRANS = false ∧ s.flag R.SYS_STAGE_LOADING = false ∧ s.flag R.VNR_PATCH_STAT_BUSY = false ∧
   powerAllowed s.pstate 3 = true) ∧
  (∃ (s : State), reaches .host R.SYS_PSTATE_CMD (powerWord 3 0x5A false) s = true ∧ s.halted = false ∧
   s.flag R.SYS_PSTATE_TRANS = false ∧ s.flag R.SYS_STAGE_LOADING = false ∧ s.flag R.VNR_PATCH_STAT_BUSY = false ∧
   powerAllowed s.pstate 4 = true) ∧
  (∃ (s : State), reaches .host R.SYS_PSTATE_CMD (powerWord 4 0x5A false) s = true ∧ s.halted = false ∧
   s.flag R.SYS_PSTATE_TRANS = false ∧ s.flag R.SYS_STAGE_LOADING = false ∧ s.flag R.VNR_PATCH_STAT_BUSY = false ∧
   powerAllowed s.pstate 5 = true) ∧
  (∃ (s : State), reaches .host R.SYS_PSTATE_CMD (powerWord 5 0x5A false) s = true ∧ s.halted = false ∧
   s.flag R.SYS_PSTATE_TRANS = false ∧ s.flag R.SYS_STAGE_LOADING = false ∧ s.flag R.VNR_PATCH_STAT_BUSY = false ∧
   powerAllowed s.pstate 6 = true ∧ s.flag R.DGN_STAT_UNLOCKED = true ∧ s.role < 2) ∧
  (∃ (s : State), reaches .host R.SYS_PSTATE_CMD (powerWord 6 0x5A false) s = true) ∧
  (∃ (s : State), s.flag R.SYS_PSTATE_TRANS = true ∧ s.sys.netLoad = false ∧ s.sys.gatesOut = [] ∧ 2 ≤ s.get R.SYS_PSTATE_TARGET ∧
   s.get R.SYS_PSTATE_TARGET ≤ 6) ∧
  (∃ (s : State) (f : Flash) (m : List Byte), s.sys.netLoad = true ∧ s.sys.netPush = false ∧ s.flag R.HIF_XSPI_STAT_BUSY =
   false ∧ m = flashFrom f (flashBase s)) ∧
  (∃ (s : State), s.sys.netLoad = true ∧ s.sys.netPush = false ∧ s.flag R.HIF_XSPI_STAT_BUSY = false) ∧
  (∃ (s : State) (id : Nat) (ext : Bool), s.pstate = 5 ∧ s.sys.resetting = false ∧ wakeMatch s id ext = true) :=
  ⟨⟨live.set R.SYS_PSTATE_STATE 3, true, by decide +kernel⟩,
   ⟨live.set R.SYS_PSTATE_STATE 2, true, by decide +kernel⟩,
   ⟨live.set R.SYS_PSTATE_STATE 2, by decide +kernel⟩,
   ⟨live.set R.SYS_PSTATE_STATE 1, by decide +kernel⟩,
   ⟨(live.set R.SYS_PSTATE_STATE 2).set R.DGN_STAT_UNLOCKED 1, by decide +kernel⟩,
   ⟨live, by decide +kernel⟩,
   ⟨(live.set R.SYS_PSTATE_TRANS 1).set R.SYS_PSTATE_TARGET 5, by decide +kernel⟩,
   ⟨{ live with sys.netLoad := true }, [], [], by decide +kernel⟩,
   ⟨{ live with sys.netLoad := true }, by decide +kernel⟩,
   ⟨live.set R.SYS_PSTATE_STATE 5, 0, false, by decide +kernel⟩⟩

theorem witness_PatchCommandsComplete :
  (∃ (s : State) (v : Word), reaches .host R.VNR_PATCH_CMD v s = true ∧ wget v 0 2 = 1 ∧ wget v 24 8 = 0x5A ∧ 2 ≤ s.stage ∧
   s.halted = false ∧ (s.pstate = 2 ∨ s.pstate = 3) ∧ rewritesBusy s = false ∧ s.flag R.SYS_PSTATE_TRANS = false ∧
   s.flag R.SYS_STAGE_LOADING = false) ∧
  (∃ (s : State), s.vnr.patch = .staging ∧ s.vnr.patchPush = false ∧ s.flag R.HIF_XSPI_STAT_BUSY = false) ∧
  (∃ (s : State) (f : Flash) (m : List Byte), s.vnr.patch = .staging ∧ s.vnr.patchPush = false ∧ s.role < 2 ∧ s.flag
   R.HIF_XSPI_STAT_BUSY = false ∧ m = flashFrom f (s.rd R.VNR_PATCH_FOFS).toNat ∧ patchCheck (m.take (imgLen m)) { (s.setPkt
   (s.pkt.wrBytes 0xF80000 ((m.take (imgLen m)).take 0x80000))) with vnr.img := m.take (imgLen m) } ≠ 0) ∧
  (∃ (s : State) (crc : Nat), s.vnr.patch = .panel ∧ s.role < 2 ∧ crc = crc32 (sectData s.vnr.img tPANEL (patchTarget s))) ∧
  (∃ (s : State) (crc : Nat), s.vnr.patch = .panel ∧ crc ≠ crc32 (sectData s.vnr.img tPANEL (patchTarget s))) ∧
  (∃ (s : State), s.vnr.patch = .core) ∧
  (∃ (s : State), s.vnr.patch = .ending ∧ (patchIsCore s = true ∨ panelState s (patchTarget s) ≠ 2)) ∧
  (∃ (s : State) (p : Nat), s.up islIST = true ∧ s.up (islMQY p) = true ∧ p < 8 ∧ panelState s p = 1 ∧ s.pstate ≠ 6 ∧
   (bitOf (s.get R.IST_CTL_EN) 3 = true ∨ (istHead s 2 p).isSome = true)) ∧
  (∃ (s : State) (p : Nat) (crc : Nat), mget (fun _ => false) s.vnr.rewriting p = true ∧ crc = (s.rd (R.VNR_PANEL_CRC
   p)).toNat ∧ p < 8 ∧ s.up (islMQY p) = true) :=
  ⟨⟨(live.set R.SYS_STAGE_STAGE 2).set R.SYS_PSTATE_STATE 2, 0x5A000011, by decide +kernel⟩,
   ⟨{ live with vnr.patch := .staging }, by decide +kernel⟩,
   ⟨{ live with vnr.patch := .staging }, [], [], by decide +kernel⟩,
   ⟨{ live with vnr.patch := .panel }, crc32 (sectData [] tPANEL 0), by decide +kernel⟩,
   ⟨{ live with vnr.patch := .panel }, 1, by decide +kernel⟩,
   ⟨{ live with vnr.patch := .core }, by decide +kernel⟩,
   ⟨{ live with vnr.patch := .ending }, by decide +kernel⟩,
   ⟨(live.set R.IST_CTL_EN 0xFF).set (R.VNR_PANEL_STAT_STATE 7) 1, 7, by decide +kernel⟩,
   ⟨({ live with vnr.rewriting := [(0, true)] }).setPanel 0 { Panel.reset with stall := true }, 0, 0, by decide +kernel⟩⟩

theorem witness_FuseCommandsComplete :
  (∃ (s : State), reaches .host R.VNR_KEYPROG_CMD 0xA5 s = true ∧ s.fuses.key = 0 ∧ s.held.lc = 0 ∧ burning s = false ∧
   earlyWarn s = false) ∧
  (∃ (s : State) (bits : Nat), s.burn = .key bits) ∧
  (∃ (s : State) (v : Word), reaches .host R.VNR_ROLL_CMD v s = true ∧ wget v 24 8 = 0x5A ∧ 2 ≤ s.stage ∧ burning s = false ∧
   earlyWarn s = false) ∧
  (∃ (s : State) (tgt : Nat), s.burn = .roll tgt ∧ s.fuses.roll < tgt ∧ tgt ≤ 192) :=
  ⟨⟨live, by decide +kernel⟩,
   ⟨{ live with burn := .key 5 }, 5, by decide +kernel⟩,
   ⟨(live.set R.SYS_STAGE_STAGE 2).set R.VNR_ROLL_IMAGE 9, 0x5A000003, by decide +kernel⟩,
   ⟨{ live with burn := .roll 192 }, 192, by decide +kernel⟩⟩

theorem witness_PanelCommandsComplete :
  (∃ (s : State) (p : Nat), p < 8 ∧ s.powered (islMQY p) = true ∧ (s.panel p).stall = true ∧ stallAged s p = false) ∧
  (∃ (s : State) (p : Nat), p < 8 ∧ s.powered (islMQY p) = true ∧ (s.panel p).stall = true ∧ stallAged s p = true) ∧
  (∃ (s : State) (p : Nat), p < 8 ∧ s.powered (islMQY p) = false) ∧
  (∃ (s : State) (p : Nat) (k : Nat) (req : PanelAccess), p < 8 ∧ s.powered (islMQY p) = true ∧ (s.panel p).stall = false ∧ k
   < 4 ∧ isHost req.agent = true ∧ 0x80000 + 0x20000 * k ≤ req.off ∧ req.off < 0xA0000 + 0x20000 * k ∧ rstHeld s p = false ∧
   s.flag (R.MQY_PORT_TGT_EN p k) = true ∧ s.flag (R.MQY_PORT_FAILFAST p k) = false ∧ (panelPort s p k).queue.length < 16) ∧
  (∃ (s : State) (p : Nat) (k : Nat) (q : PanelAccess) (qs : List PanelAccess), (panelPort s p k).queue = q :: qs ∧ (panelPort
   s p k).waiting = [] ∧ q.write = false ∧ isHost q.agent = true ∧ s.up (islMQY p) = true ∧ rstHeld s p = false ∧ s.clk.wait =
   []) ∧
  (∃ (s : State) (p : Nat) (k : Nat), p < 8 ∧ k < 4 ∧ (panelPort s p k).queue ≠ [] ∧ s.up (islMQY p) = true ∧ s.clk.wait = []) ∧
  (∃ (s : State) (p : Nat) (k : Nat), p < 8 ∧ k < 4 ∧ s.flag (R.MQY_PORT_FAILFAST p k) = true) ∧
  (∃ (s : State) (p : Nat) (q : PanelAccess) (qs : List PanelAccess), (s.panel p).stallWait = q :: qs ∧ (s.panel p).stall = true) ∧
  (∃ (s : State) (p : Nat) (addr : Nat), s.up (islMQY p) = true ∧ p < 8 ∧ addr < 65536) ∧
  (∃ (s : State) (p : Nat) (addr : Nat), s.up (islMQY p) = true ∧ p < 8 ∧ addr < 65536) ∧
  (∃ (s : State) (p : Nat), s.up (islMQY p) = true ∧ p < 8) ∧
  (∃ (s : State) (p : Nat) (k : Nat) (e : Issue) (es : List Issue), mget (fun _ => []) (s.panel p).issued k = e :: es ∧
   e.ans.isSome = true ∧ (e.gen ≠ (s.panel p).gen ∨ rstHeld s p = true)) ∧
  (∃ (s : State) (p : Nat) (k : Nat) (e : Issue) (es : List Issue), mget (fun _ => []) (s.panel p).issued k = e :: es ∧
   e.ans.isSome = true ∧ e.gen = (s.panel p).gen ∧ rstHeld s p = false) ∧
  (∃ (i : Nat) (j : Nat), i < 96 ∧ j < 128) :=
  ⟨⟨live.setPanel 7 { Panel.reset with stall := true }, 7, by decide +kernel⟩,
   ⟨live.setPanel 7 { Panel.reset with stall := true, stallOld := true }, 7, by decide +kernel⟩,
   ⟨live.set (R.CLK_ISL_ON 64) 0, 0, by decide +kernel⟩,
   ⟨(live.set (R.MQY_STAT_RST_HELD 0) 0).set (R.MQY_PORT_TGT_EN 0 3) 1, 0, 3, ⟨.host, true, 0xE0000, 5⟩, by decide +kernel⟩,
   ⟨(setPanelPort 0 1 { queue := [⟨.host, false, 8, 0⟩], waiting := [] } live).set (R.MQY_STAT_RST_HELD 0) 0, 0, 1, ⟨.host,
    false, 8, 0⟩, [], by decide +kernel⟩,
   ⟨setPanelPort 0 1 { queue := [⟨.host, false, 8, 0⟩], waiting := [] } live, 0, 1, by decide +kernel⟩,
   ⟨live.set (R.MQY_PORT_FAILFAST 7 3) 1, 7, 3, by decide +kernel⟩,
   ⟨live.setPanel 2 { Panel.reset with stall := true, stallWait := [⟨.host, false, 8, 0⟩] }, 2, ⟨.host, false, 8, 0⟩, [], by decide +kernel⟩,
   ⟨live, 7, 65535, by decide +kernel⟩,
   ⟨live, 7, 65535, by decide +kernel⟩,
   ⟨live, 0, by decide +kernel⟩,
   ⟨live.setPanel 0 { Panel.reset with issued := [(2, [⟨⟨.panel 0 2, false, 8, 0⟩, 5, some (7, false)⟩])] }, 0, 2, ⟨⟨.panel 0
    2, false, 8, 0⟩, 5, some (7, false)⟩, [], by decide +kernel⟩,
   ⟨(live.set (R.MQY_STAT_RST_HELD 0) 0).setPanel 0 { Panel.reset with issued := [(2, [⟨⟨.panel 0 2, false, 8, 0⟩, 0, some (7,
    true)⟩])] }, 0, 2, ⟨⟨.panel 0 2, false, 8, 0⟩, 0, some (7, true)⟩, [], by decide +kernel⟩,
   ⟨95, 127, by decide +kernel⟩⟩

theorem witness_PortCommandsComplete :
  (∃ (s : State) (p : Nat), linkUp s p = true) ∧
  (∃ (s : State) (p : Nat) (data : List Byte), linkUp s p = true ∧ macCheck s p (data.length + 4) false data = none ∧ fifoUsed
   s p + data.length + 4 ≤ fifoSize p) ∧
  (∃ (s : State) (p : Nat) (tc : Nat) (k : Pkt) (q : List Pkt), admQueue s p tc = k :: q ∧ s.up islPRT = true ∧ s.follower = false) ∧
  (∃ (s : State) (p : Nat), s.up islPRT = true ∧ p < 9 ∧ s.flag (R.PRT_STAT_LINK p) = true) ∧
  (∃ (s : State) (p : Nat) (speed : Nat), s.up islPRT = true ∧ p < 8 ∧ s.flag (R.PRT_CFG_EN p) = true ∧
   s.get (R.PRT_CFG_SPEED p) = 0 ∧ s.get R.IST_BIST_STAT_STATE ≠ 1 ∧ speedOk p 0 = true ∧ speedOk p speed = true ∧ speed ≠ 0) ∧
  (∃ (s : State) (p : Nat), s.up islPRT = true ∧ p < 9 ∧ linkUp s p = false) ∧
  (∃ (s : State), linkUp s portT0 = true) ∧
  (∃ (s : State) (p : Nat) (q : Nat), s.up islPRT = true ∧ p < 9 ∧ q < 8 ∧ holdsFrame s p q = true) ∧
  (∃ (s : State) (p : Nat), linkUp s p = true ∧ p ≠ portT0) ∧
  (∃ (s : State), linkUp s portT0 = true) ∧
  (∃ (s : State) (p : Nat), linkUp s p = true ∧ (s.port p).tx.isSome = true) ∧
  (∃ (s : State), linkUp s portT0 = true ∧ (s.port portT0).tx.isSome = true ∧ plcaOn s = false) ∧
  (∃ (s : State) (p : Nat), s.up islPRT = true ∧ p < 2 ∧ s.get (R.PRT_FP_STAT_VERIFY p) = 1) ∧
  (∃ (s : State) (a : Agent) (p : Nat) (v : Word), p < 9 ∧ v.getLsbD 1 = true ∧ reaches a (R.PRT_TAS_CTL p) v s = true ∧
   tasReserved s p = false) ∧
  (∃ (s : State) (p : Nat), s.up islPRT = true ∧ p < 9 ∧ (gatedBy s p).isSome = true) ∧
  (∃ (s : State) (p : Nat), s.up islPRT = true ∧ p < 9 ∧ (s.port p).tas.pend.isSome = true ∧ (s.port p).tas.cct ≤ s.tnow islPRT) ∧
  (∃ (s : State) (g : Nat), s.up islPRT = true ∧ g < 63) ∧
  (∃ (s : State) (g : Nat), s.up islPRT = true ∧ g < 63) ∧
  (∃ (s : State) (a : Agent) (g : Nat) (v : Word), g < 63 ∧ v.getLsbD 9 = true ∧ reaches a (sgateOff g + 0xC) v s = true) ∧
  (∃ (s : State) (h : Nat), s.up islPRT = true ∧ h < 1024 ∧ strBits s (recovOff h) 0 1 = 1 ∧ (s.recov h).any = false) ∧
  (∃ (s : State) (a : Agent) (p : Nat), p < 9 ∧ readable a (R.PRT_TXTS_TAG p) s = true) :=
  ⟨⟨((live.set (R.PRT_CFG_EN 3) 1).set (R.PRT_STAT_LINK 3) 1), 3, by decide +kernel⟩,
   ⟨(live.set (R.PRT_CFG_EN 3) 1).set (R.PRT_STAT_LINK 3) 1, 3, List.replicate 60 7, by decide +kernel⟩,
   ⟨setAdm 8 7 [aPkt] live, 8, 7, aPkt, [], by decide +kernel⟩,
   ⟨((live.set (R.PRT_CFG_EN 3) 1).set (R.PRT_STAT_LINK 3) 1), 3, by decide +kernel⟩,
   ⟨live.set (R.PRT_CFG_EN 3) 1, 3, 4, by decide +kernel⟩,
   ⟨live, 8, by decide +kernel⟩,
   ⟨(live.set (R.PRT_CFG_EN portT0) 1).set (R.PRT_STAT_LINK portT0) 1, by decide +kernel⟩,
   ⟨live.setPort 8 { Port.reset with held := some (7, anEgFrame, 0) }, 8, 7, by decide +kernel⟩,
   ⟨(live.set (R.PRT_CFG_EN 3) 1).set (R.PRT_STAT_LINK 3) 1, 3, by decide +kernel⟩,
   ⟨(live.set (R.PRT_CFG_EN portT0) 1).set (R.PRT_STAT_LINK portT0) 1, by decide +kernel⟩,
   ⟨((live.set (R.PRT_CFG_EN 3) 1).set (R.PRT_STAT_LINK 3) 1).setPort 3 { Port.reset with tx := some (0, anEgFrame) }, 3, by decide +kernel⟩,
   ⟨((live.set (R.PRT_CFG_EN portT0) 1).set (R.PRT_STAT_LINK portT0) 1).setPort portT0 { Port.reset with tx := some (0,
    anEgFrame) }, by decide +kernel⟩,
   ⟨live.set (R.PRT_FP_STAT_VERIFY 1) 1, 1, by decide +kernel⟩,
   ⟨live, .host, 8, 3, by decide +kernel⟩,
   ⟨(live.set (R.PRT_TAS_CTL_EN 0) 1).setPort 0 { Port.reset with tas := { GateRun.reset with oper := some ⟨0, 100, [(0, 100)]⟩ } }, 0, by decide +kernel⟩,
   ⟨live.setPort 0 { Port.reset with tas := { GateRun.reset with pend := some ⟨0, 100, [(0, 100)]⟩ } }, 0, by decide +kernel⟩,
   ⟨live, 62, by decide +kernel⟩,
   ⟨live, 0, by decide +kernel⟩,
   ⟨live, .host, 62, 0x200, by decide +kernel⟩,
   ⟨(live.wr (recovOff 1023) 1).setRecov 1023 { recReset with any := false }, 1023, by decide +kernel⟩,
   ⟨live, .host, 8, by decide +kernel⟩⟩

theorem witness_MdioCommandsComplete :
  (∃ (s : State) (a : Agent) (v : Word), wget v 0 3 = 0 ∧ reaches a R.PRT_MDIO_CMD v s = true ∧ s.flag R.PRT_MDIO_CMD_BUSY = false) ∧
  (∃ (s : State) (a : Agent) (v : Word), wget v 0 3 = 1 ∧ reaches a R.PRT_MDIO_CMD v s = true ∧ s.flag R.PRT_MDIO_CMD_BUSY = false) ∧
  (∃ (s : State) (a : Agent) (v : Word), wget v 0 3 = 4 ∧ reaches a R.PRT_MDIO_CMD v s = true ∧ s.flag R.PRT_MDIO_CMD_BUSY = false) ∧
  (∃ (s : State) (a : Agent) (v : Word), wget v 0 3 = 5 ∧ reaches a R.PRT_MDIO_CMD v s = true ∧ s.flag R.PRT_MDIO_CMD_BUSY = false) ∧
  (∃ (s : State) (a : Agent) (v : Word), wget v 0 3 = 6 ∧ reaches a R.PRT_MDIO_CMD v s = true ∧ s.flag R.PRT_MDIO_CMD_BUSY = false) ∧
  (∃ (s : State) (a : Agent) (v : Word), wget v 0 3 = 7 ∧ reaches a R.PRT_MDIO_CMD v s = true ∧ s.flag R.PRT_MDIO_CMD_BUSY = false) ∧
  (∃ (s : State), s.up islPRT = true ∧ s.flag R.PRT_MDIO_CMD_BUSY = true) :=
  ⟨⟨live, .thread 0 0, 0, by decide +kernel⟩,
   ⟨live, .thread 0 0, 1, by decide +kernel⟩,
   ⟨live, .thread 0 0, 4, by decide +kernel⟩,
   ⟨live, .thread 0 0, 5, by decide +kernel⟩,
   ⟨live, .thread 0 0, 6, by decide +kernel⟩,
   ⟨live, .thread 0 0, 7, by decide +kernel⟩,
   ⟨live.wr R.PRT_MDIO_CMD 0x80000001, by decide +kernel⟩⟩

theorem witness_RuleAndBufferCommandsComplete :
  (∃ (s : State) (a : Agent) (v : Word), wget v 12 2 = 1 ∧ reaches a R.PRS_RCMD v s = true ∧ ruleBusy s = false ∧
   ruleReserved (prsStage s) = false) ∧
  (∃ (s : State) (a : Agent) (v : Word), wget v 12 2 = 2 ∧ reaches a R.PRS_RCMD v s = true ∧ ruleBusy s = false) ∧
  (∃ (s : State) (i : Nat) (body : List Byte), s.prs.cmd = some (i, body) ∧ i < 1024) ∧
  (∃ (s : State) (a : Agent) (v : Word), reaches a R.PRS_GRP_EN v s = true) ∧
  (∃ (s : State) (owner : Nat), s.up islBPM = true ∧ owner < 50 ∧ haltBars s owner = false) ∧
  (∃ (s : State) (owner : Nat) (j : Nat) (q : BufReq), mget (fun _ => none) s.bpm.hostWait owner = some q ∧ s.up islBPM = true ∧
   haltBars s owner = false ∧ choosePool s q.owner q.len q.esc noLimit = .grant j) ∧
  (∃ (s : State) (pool : Nat), s.up islBPM = true ∧ mget (fun _ => false) s.bpm.refill pool = true ∧
   mget (fun _ => []) s.bpm.waiting pool = []) ∧
  (∃ (s : State), s.up islBPM = true) ∧
  (∃ (s : State) (n : Nat), s.bar0 = true ∧ s.up islBPM = true ∧ n < 512) ∧
  (∃ (s : State) (a : Agent) (n : Nat), n < 512 ∧ reaches a (R.LCK n) 0 s = true) ∧
  (∃ (s : State) (n : Nat), n < 512 ∧ s.up islBPM = true ∧ (s.lock n).held = true ∧ (s.lock n).told = false ∧
   s.get R.LCK_HOLDMAX_US ≠ 0) :=
  ⟨⟨live, .host, 0x13FF, by decide +kernel⟩,
   ⟨live, .debug, 0x2000, by decide +kernel⟩,
   ⟨{ live with prs.cmd := some (1023, [1]) }, 1023, [1], by decide +kernel⟩,
   ⟨live, .panel 7 0, 0xFFFF, by decide +kernel⟩,
   ⟨live, 49, by decide +kernel⟩,
   ⟨{ onePool with bpm.hostWait := [(9, some ⟨9, 64, false⟩)] }, 9, 0, ⟨9, 64, false⟩, by decide +kernel⟩,
   ⟨{ live with bpm.refill := [(7, true)] }, 7, by decide +kernel⟩,
   ⟨live, by decide +kernel⟩,
   ⟨live, 511, by decide +kernel⟩,
   ⟨live, .host, 511, by decide +kernel⟩,
   ⟨(live.set R.LCK_HOLDMAX_US 1).setLock 511 ⟨true, 3, [], false⟩, 511, by decide +kernel⟩⟩

theorem witness_DistaffCommandsComplete :
  (∃ (s : State) (n : Nat) (thr : Nat) (k : Task), dstRuns s = true ∧ inService s n = true ∧ headTask s n = some k ∧
   thrIdle s n thr = true) ∧
  (∃ (s : State) (y : Nat) (seq : Nat) (c : Nat) (k : Task), (s.dst.tasks.find? fun u => decide (u.pkt.yarn = y ∧ u.seq = seq
   ∧ u.st = .queued)) = some k ∧ dstRuns s = true ∧ s.get R.DST_AFF_STEAL ≠ 0 ∧ 1 < (effSet s y).length ∧ chooseCore s
   ((effSet s y).filter (· ≠ k.core)) = some c) ∧
  (∃ (s : State) (y : Nat) (k : Task), dstRuns s = true ∧ oldestOf s y = some k ∧ k.st = .done ∧ k.disp = 2) ∧
  (∃ (s : State) (y : Nat) (k : Task), dstRuns s = true ∧ oldestOf s y = some k ∧ k.st = .done ∧ actsDrop s k = false ∧
   k.disp = 0 ∧ txRoom s k = true) ∧
  (∃ (s : State) (y : Nat) (k : Task), dstRuns s = true ∧ oldestOf s y = some k ∧ k.st = .done ∧ actsDrop s k = false ∧ k.disp = 3) ∧
  (∃ (s : State) (a : Agent) (y : Nat) (v : Word), y < 4096 ∧ reaches a (R.DST_YCFG y) v s = true) ∧
  (∃ (s : State) (a : Agent) (v : Word), reaches a R.DST_YMASK_HI v s = true) ∧
  (∃ (s : State) (a : Agent) (v : Word), reaches a R.DST_TRC_RIDX v s = true) ∧
  (∃ (s : State) (a : Agent) (v : Word), wget v 0 2 ≠ s.get R.DST_TRC_CTL_MODE ∧ reaches a R.DST_TRC_CTL v s = true) :=
  ⟨⟨idleCore, 0, 1, aTask, by decide +kernel⟩,
   ⟨({ idleCore with dst.mask := [(0, 3)] }).setCore 1 { Core.reset with svc := true } |>.set R.DST_AFF_STEAL 1, 0, 0, 1,
    aTask, by decide +kernel⟩,
   ⟨{ live with dst.tasks := [{ aTask with st := .done, disp := 2 }] }, 0, { aTask with st := .done, disp := 2 }, by decide +kernel⟩,
   ⟨{ live with dst.tasks := [{ aTask with st := .done, mask := 1 }] }, 0, { aTask with st := .done, mask := 1 }, by decide +kernel⟩,
   ⟨{ live with dst.tasks := [{ aTask with st := .done, disp := 3 }] }, 0, { aTask with st := .done, disp := 3 }, by decide +kernel⟩,
   ⟨live, .host, 4095, 0x7100, by decide +kernel⟩,
   ⟨setHeld .host R.DST_YMASK_LO (some 3) live, .host, 1, by decide +kernel⟩,
   ⟨live, .host, 0x7FFF, by decide +kernel⟩,
   ⟨live, .host, 1, by decide +kernel⟩⟩

theorem witness_ThreadControlCommandsComplete :
  (∃ (s : State) (tid : Nat), tid < 384 ∧ (s.thread tid).counts = true ∧ wdogLimit (s.thread tid) ≤ wdogCount s tid) ∧
  (∃ (s : State) (tid : Nat), tid < 384 ∧ (s.thread tid).st = 5 ∧ tid % 8 ≠ 0 ∧ (s.thread tid).esc = 0) ∧
  (∃ (s : State) (tid : Nat), tid < 384 ∧ (s.thread tid).st = 5 ∧ (s.thread tid).esc = (if tid % 8 = 0 then 0 else 1)) ∧
  (∃ (s : State) (tid : Nat), (s.thread tid).armed = true ∧ (s.thread tid).tcmp ≤ s.tnow (islWHL (tid / 8))) ∧
  (∃ (s : State) (a : Agent) (tid : Nat), tid < 384 ∧ reaches a (R.WHL_TSIG (tid / 8) (tid % 8)) 1 s = true) ∧
  (∃ (s : State) (a : Agent) (tid : Nat) (v : Word), tid < 384 ∧ wget v 0 2 = 1 ∧
   reaches a (R.WHL_TCTL (tid / 8) (tid % 8)) v s = true ∧ mayControl s a tid = true ∧ inService s (tid / 8) = true ∧
   s.halted = false) ∧
  (∃ (s : State) (a : Agent) (tid : Nat) (v : Word), tid < 384 ∧ wget v 0 2 = 2 ∧
   reaches a (R.WHL_TCTL (tid / 8) (tid % 8)) v s = true ∧ mayControl s a tid = true ∧ inService s (tid / 8) = true ∧
   s.halted = false) ∧
  (∃ (s : State) (a : Agent) (n : Nat) (off : Nat) (v : Word), n < 48 ∧ off < 65536 ∧
   reaches a (0x810000 + 0x20000 * n + off) v s = true ∧ s.flag (R.WHL_CSTAT_RETIRED n) = false ∧ inService s n = false) ∧
  (∃ (s : State) (n : Nat) (thr : Nat) (off : Nat) (v : Word), n < 48 ∧ off < 65536 ∧
   reaches (.thread n thr) (0x810000 + 0x20000 * n + off) v s = true ∧ s.flag (R.WHL_CSTAT_RETIRED n) = false) ∧
  (∃ (s : State) (tid : Nat), (s.thread tid).lookup.isSome = true ∧ s.up islTBL = true) :=
  ⟨⟨live.setThread 383 { Thread.reset with st := 1, wdogAcc := 1000000 }, 383, by decide +kernel⟩,
   ⟨live.setThread 9 { Thread.reset with st := 5 }, 9, by decide +kernel⟩,
   ⟨live.setThread 8 { Thread.reset with st := 5 }, 8, by decide +kernel⟩,
   ⟨live.setThread 8 { Thread.reset with armed := true, tcmp := 0 }, 8, by decide +kernel⟩,
   ⟨live, .panel 0 0, 383, by decide +kernel⟩,
   ⟨live.setCore 0 { Core.reset with svc := true }, .host, 7, 0x11, by decide +kernel⟩,
   ⟨live.setCore 0 { Core.reset with svc := true }, .host, 7, 2, by decide +kernel⟩,
   ⟨live, .host, 47, 65532, 7, by decide +kernel⟩,
   ⟨idleCore, 0, 7, 0, 7, by decide +kernel⟩,
   ⟨live.setThread 8 { Thread.reset with lookup := some (0, List.replicate 8 0) }, 8, by decide +kernel⟩⟩

theorem witness_WhorlLogicCommandsComplete :
  (∀ e ∈ ([(.mov, false, [244, 2, 53]), (.movi, false, [244, 3, 48, 133]), (.and, false, [244, 20, 53, 96]),
   (.or, false, [21, 53, 96]), (.xor, false, [244, 22, 53, 96]), (.bic, false, [244, 23, 53, 96]), (.not, false, [244, 39, 53]),
   (.andi, false, [244, 49, 53, 240]), (.ori, false, [244, 50, 53, 240]), (.xori, false, [51, 53, 240]),
   (.min, false, [244, 28, 53, 96]), (.max, false, [244, 29, 53, 96]), (.minu, false, [244, 30, 53, 96]),
   (.maxu, false, [244, 31, 53, 96]), (.clz, false, [244, 34, 53]), (.bswap, false, [244, 35, 53]), (.sextb, false, [244, 36, 53]),
   (.sexth, false, [244, 37, 53]), (.zextb, true, [0, 0, 218, 184]), (.zexth, true, [0, 0, 219, 184]),
   (.extu, true, [5, 7, 53, 42])] : List (WOp × Bool × List Byte)), let s := wState 0 e.2.1 e.2.2; let i := insnOf e.2.1 e.2.2;
   let x := s.thread 0;  ready s 0 i e.2.2 = true ∧ runs i x = true ∧ i.op = e.1 ∧ i.pkt = false) ∧
  (∀ e ∈ ([(.tst, false, [33, 86]), (.tsti, false, [57, 80, 15])] : List (WOp × Bool × List Byte)), let s := wState 0 e.2.1 e.2.2;
   let i := insnOf e.2.1 e.2.2; let x := s.thread 0;  ready s 0 i e.2.2 = true ∧ runs i x = true ∧ i.op = e.1 ∧ i.pkt = false ∧
   i.setf = true) ∧
  (∃ (s : State) (tid : Nat) (i : Insn) (code : List Byte), let x := s.thread tid; ready s tid i code = true ∧ runs i x = true ∧
   i.op = .movhi ∧ i.pkt = false ∧ i.setf = false) ∧
  (∃ (s : State) (tid : Nat) (i : Insn) (code : List Byte), let x := s.thread tid; let p := unsgn 32 i.imm % 32;
   let m : Word := .ofNat 32 ((2 ^ (unsgn 32 i.imm / 256 % 32 + 1) - 1) * 2 ^ p);
   let v := (x.reg i.rd &&& ~~~m) ||| ((x.reg i.ra <<< p) &&& m); ready s tid i code = true ∧ runs i x = true ∧ i.op = .ins ∧
   i.pkt = false) :=
  ⟨by decide +kernel,
   by decide +kernel,
   ⟨wState 0 true [1, 128, 53, 45], 0, insnOf true [1, 128, 53, 45], [1, 128, 53, 45], by decide +kernel⟩,
   ⟨wState 0 false [244, 241, 59, 53, 5, 7], 0, insnOf false [244, 241, 59, 53, 5, 7], [244, 241, 59, 53, 5, 7], by decide +kernel⟩⟩

theorem witness_WhorlSumCommandsComplete :
  (∀ e ∈ ([(.add, false, [244, 16, 53, 96]), (.addi, false, [244, 48, 53, 129]), (.adc, false, [244, 17, 53, 96]),
   (.sub, false, [244, 18, 53, 96]), (.sbc, false, [244, 19, 53, 96]),
   (.neg, false, [244, 38, 53])] : List (WOp × Bool × List Byte)), let s := wState 0 e.2.1 e.2.2; let i := insnOf e.2.1 e.2.2;
   let x := s.thread 0;  ready s 0 i e.2.2 = true ∧ runs i x = true ∧ i.op = e.1 ∧ i.pkt = false) ∧
  (∀ e ∈ ([(.cmp, false, [32, 86]), (.cmpi, false, [56, 80, 129])] : List (WOp × Bool × List Byte)), let s := wState 0 e.2.1 e.2.2;
   let i := insnOf e.2.1 e.2.2; let x := s.thread 0;  ready s 0 i e.2.2 = true ∧ runs i x = true ∧ i.op = e.1 ∧ i.pkt = false ∧
   i.setf = true) :=
  ⟨by decide +kernel,
   by decide +kernel⟩

theorem witness_WhorlShiftCommandsComplete :
  (∀ e ∈ ([(.shl, false, [244, 24, 53, 96]), (.shr, false, [244, 25, 53, 96]), (.sar, false, [244, 26, 53, 96]),
   (.ror, false, [244, 27, 53, 96]), (.shli, false, [244, 52, 53, 9]), (.shri, false, [244, 53, 53, 9]),
   (.sari, false, [244, 54, 53, 9]), (.rori, false, [244, 55, 53, 9])] : List (WOp × Bool × List Byte)),
   let s := wState 0 e.2.1 e.2.2; let i := insnOf e.2.1 e.2.2; let x := s.thread 0;  ready s 0 i e.2.2 = true ∧ runs i x = true ∧
   i.op = e.1 ∧ i.pkt = false) :=
  by decide +kernel

theorem witness_WhorlMultiplyCommandsComplete :
  (∀ e ∈ ([(.mul, false, [64, 86]), (.mulu, false, [65, 86]), (.mac, false, [66, 86]), (.macu, false, [67, 86]),
   (.msu, false, [68, 86])] : List (WOp × Bool × List Byte)), let s := wState 0 e.2.1 e.2.2; let i := insnOf e.2.1 e.2.2;
   let x := s.thread 0;  ready s 0 i e.2.2 = true ∧ runs i x = true ∧ i.op = e.1 ∧ i.pkt = false) ∧
  (∀ e ∈ ([(.qadd, false, [70, 53, 96]), (.qsub, false, [71, 53, 96]), (.qshl, false, [72, 53, 9]), (.qabs, false, [73, 53]),
   (.qneg, false, [74, 53])] : List (WOp × Bool × List Byte)), let s := wState 0 e.2.1 e.2.2; let i := insnOf e.2.1 e.2.2;
   let x := s.thread 0;  ready s 0 i e.2.2 = true ∧ runs i x = true ∧ i.op = e.1 ∧ i.pkt = false) ∧
  (∀ e ∈ ([(.rdacc, false, [69, 48, 17])] : List (WOp × Bool × List Byte)), let s := wState 0 e.2.1 e.2.2;
   let i := insnOf e.2.1 e.2.2; let x := s.thread 0;  ready s 0 i e.2.2 = true ∧ runs i x = true ∧ i.op = e.1 ∧ i.pkt = false ∧
   3 ≤ x.accAge) :=
  ⟨by decide +kernel,
   by decide +kernel,
   by decide +kernel⟩

theorem witness_WhorlControlCommandsComplete :
  (∃ (s : State) (tid : Nat) (i : Insn) (code : List Byte), let x := s.thread tid; ready s tid i code = true ∧ runs i x = true ∧
   i.op = .br ∧ i.pkt = false) ∧
  (∃ (s : State) (tid : Nat) (i : Insn) (code : List Byte), let x := s.thread tid; ready s tid i code = true ∧ runs i x = true ∧
   i.op = .call ∧ i.pkt = false) ∧
  (∃ (s : State) (tid : Nat) (i : Insn) (code : List Byte), let x := s.thread tid; ready s tid i code = true ∧ runs i x = true ∧
   i.op = .bc ∧ i.pkt = false) ∧
  (∃ (s : State) (tid : Nat) (i : Insn) (code : List Byte), let x := s.thread tid; ready s tid i code = true ∧ runs i x = true ∧
   i.op = .bf ∧ i.pkt = false) ∧
  (∃ (s : State) (tid : Nat) (i : Insn) (code : List Byte), let x := s.thread tid; ready s tid i code = true ∧ runs i x = true ∧
   i.op = .bnz ∧ i.pkt = false) ∧
  (∃ (s : State) (tid : Nat) (i : Insn) (code : List Byte), let x := s.thread tid; ready s tid i code = true ∧ runs i x = true ∧
   i.op = .dbnz ∧ i.pkt = false) ∧
  (∃ (s : State) (tid : Nat) (i : Insn) (code : List Byte), let x := s.thread tid; ready s tid i code = true ∧ runs i x = true ∧
   i.op = .j ∧ i.pkt = false) ∧
  (∃ (s : State) (tid : Nat) (i : Insn) (code : List Byte), let x := s.thread tid; ready s tid i code = true ∧ runs i x = true ∧
   i.op = .jl ∧ i.pkt = false) ∧
  (∃ (s : State) (tid : Nat) (i : Insn) (code : List Byte), let x := s.thread tid; ready s tid i code = true ∧ runs i x = true ∧
   i.op = .jx ∧ i.pkt = false ∧ (i.fn = 1 → (x.reg i.ra).toNat % 4 = 0)) ∧
  (∃ (s : State) (tid : Nat) (i : Insn) (code : List Byte), let x := s.thread tid; ready s tid i code = true ∧ runs i x = true ∧
   i.op = .jxl ∧ i.pkt = false ∧ (i.fn = 1 → (x.reg i.ra).toNat % 4 = 0)) ∧
  (∃ (s : State) (tid : Nat) (i : Insn) (code : List Byte), let x := s.thread tid; ready s tid i code = true ∧ runs i x = true
   ∧ i.op = .rtx ∧ i.pkt = false ∧ rtxLost x = false ∧ (x.lform = true → (x.reg 15).toNat % 4 = 0)) :=
  ⟨⟨wState 0 true [248, 255, 255, 80], 0, insnOf true [248, 255, 255, 80], [248, 255, 255, 80], by decide +kernel⟩,
   ⟨wState 0 false [97, 64], 0, insnOf false [97, 64], [97, 64], by decide +kernel⟩,
   ⟨wState 0 true [253, 159, 86, 82], 0, insnOf true [253, 159, 86, 82], [253, 159, 86, 82], by decide +kernel⟩,
   ⟨wState 0 true [7, 96, 0, 83], 0, insnOf true [7, 96, 0, 83], [7, 96, 0, 83], by decide +kernel⟩,
   ⟨wState 0 true [73, 113, 0, 128], 0, insnOf true [73, 113, 0, 128], [73, 113, 0, 128], by decide +kernel⟩,
   ⟨wState 0 true [73, 117, 0, 128], 0, insnOf true [73, 117, 0, 128], [73, 117, 0, 128], by decide +kernel⟩,
   ⟨wState 0 false [98, 80], 0, insnOf false [98, 80], [98, 80], by decide +kernel⟩,
   ⟨wState 0 true [0, 0, 5, 85], 0, insnOf true [0, 0, 5, 85], [0, 0, 5, 85], by decide +kernel⟩,
   ⟨wState 0 false [100, 80, 1], 0, insnOf false [100, 80, 1], [100, 80, 1], by decide +kernel⟩,
   ⟨wState 0 false [101, 80, 1], 0, insnOf false [101, 80, 1], [101, 80, 1], by decide +kernel⟩,
   ⟨wState 0 false [102], 0, insnOf false [102], [102], by decide +kernel⟩⟩

theorem witness_WhorlMemoryCommandsComplete :
  (∀ r ∈ ([((.ldb, (1, true, false)), false, [80, 53, 0]), ((.ldbu, (1, false, false)), false, [81, 53, 1]),
   ((.ldh, (2, true, false)), false, [82, 53, 0]), ((.ldhu, (2, false, false)), false, [83, 53, 2]),
   ((.ldw, (4, false, false)), false, [84, 53, 4]), ((.ldhn, (2, true, true)), false, [246, 82, 53, 0]),
   ((.ldhun, (2, false, true)), false, [246, 83, 53, 2]),
   ((.ldwn, (4, false, true)), false, [246, 84, 53, 0])] : List ((WOp × Nat × Bool × Bool) × Bool × List Byte)),
   let e : Unit × WOp × Nat × Bool × Bool := ((), r.1); let tid := 0; let s := wState 0 r.2.1 r.2.2; let i := insnOf r.2.1 r.2.2;
   let x := s.thread 0; let a : Nat := (unsgn 32 ((((s.thread 0).reg i.ra).toNat : Int) + i.imm)); ready s 0 i r.2.2 = true ∧
   runs i x = true ∧ i.op = e.2.1 ∧ i.pkt = false ∧
   (a : Int) = (((x.reg i.ra).toNat : Int) + (if i.upd = 0 then i.imm else 0)) % 2 ^ 32 ∧ a + e.2.2.1 ≤ 0x10000 ∧ a % e.2.2.1 = 0 ∧
   poisoned s (tid / 8) a e.2.2.1 = none) ∧
  (∀ r ∈ ([((.stb, (1, false)), false, [88, 53, 3]), ((.sth, (2, false)), false, [89, 53, 2]),
   ((.stw, (4, false)), false, [90, 53, 4]), ((.sthn, (2, true)), false, [246, 89, 53, 2]),
   ((.stwn, (4, true)), false, [246, 90, 53, 4])] : List ((WOp × Nat × Bool) × Bool × List Byte)),
   let e : Unit × WOp × Nat × Bool := ((), r.1); let tid := 0; let s := wState 0 r.2.1 r.2.2; let i := insnOf r.2.1 r.2.2;
   let x := s.thread 0; let a : Nat := (unsgn 32 ((((s.thread 0).reg i.ra).toNat : Int) + i.imm)); ready s 0 i r.2.2 = true ∧
   runs i x = true ∧ i.op = e.2.1 ∧ i.pkt = false ∧
   (a : Int) = (((x.reg i.ra).toNat : Int) + (if i.upd = 0 then i.imm else 0)) % 2 ^ 32 ∧ a + e.2.2.1 ≤ 0x10000 ∧ a % e.2.2.1 = 0) ∧
  (∃ (s : State) (tid : Nat) (i : Insn) (code : List Byte) (rs : List Nat) (lo : Nat), let x := s.thread tid;
   ready s tid i code = true ∧ runs i x = true ∧ i.op = .push ∧ i.pkt = false ∧
   rs = (List.range 16).filter (fun n => decide (n ≠ 0) && bitOf (unsgn 32 i.imm) n) ∧ lo + 4 * rs.length = (x.reg 14).toNat ∧
   (x.reg 14).toNat ≤ 0x10000 ∧ (x.reg 14).toNat % 4 = 0) ∧
  (∃ (s : State) (tid : Nat) (i : Insn) (code : List Byte) (rs : List Nat), let x := s.thread tid; ready s tid i code = true ∧
   runs i x = true ∧ i.op = .pop ∧ i.pkt = false ∧
   rs = (List.range 16).filter (fun n => decide (n ≠ 0) && bitOf (unsgn 32 i.imm) n) ∧ (x.reg 14).toNat + 4 * rs.length ≤ 0x10000 ∧
   (x.reg 14).toNat % 4 = 0 ∧ poisoned s (tid / 8) (x.reg 14).toNat (4 * rs.length) = none) ∧
  (∃ (s : State) (tid : Nat) (i : Insn) (code : List Byte) (a : Nat) (b : Nat), let x := s.thread tid; ready s tid i code =
   true ∧ runs i x = true ∧ i.op = .stw ∧ i.pkt = true ∧ pktBase s x.pkh = some b ∧ a = (memAddr i x + b) % 2 ^ 32 ∧
   0x10000000 ≤ a ∧ a + 4 ≤ 0x10D00000 ∧ a % 4 = 0 ∧ pktOpen s = true ∧ (List.range 4).any (fun j => foreignToThread s tid (a
   - 0x10000000 + j)) = false ∧ i.upd = 0) ∧
  (∃ (s : State) (tid : Nat) (i : Insn) (code : List Byte) (a : Nat) (b : Nat), let x := s.thread tid; ready s tid i code = true ∧
   runs i x = true ∧ i.op = .ldw ∧ i.pkt = true ∧ pktBase s x.pkh = some b ∧ a = (memAddr i x + b) % 2 ^ 32 ∧ 0x10000000 ≤ a ∧
   a + 4 ≤ 0x11000000 ∧ a % 4 = 0 ∧ s.follower = false) :=
  ⟨by decide +kernel,
   by decide +kernel,
   ⟨wState 0 false [241, 92, 0, 110, 128], 0, insnOf false [241, 92, 0, 110, 128], [241, 92, 0, 110, 128], [1, 2, 3, 5, 6, 15], 0x3000 - 24, by decide +kernel⟩,
   ⟨wState 0 false [241, 93, 0, 110, 192], 0, insnOf false [241, 93, 0, 110, 192], [241, 93, 0, 110, 192], [1, 2, 3, 5, 6, 14, 15], by decide +kernel⟩,
   ⟨{ pstState [245, 90, 48, 4] with bpm.tags := [(0, 26)] }, 0, insnOf false [245, 90, 48, 4], [245, 90, 48, 4], 0x10000004,
    0x10000000, by decide +kernel⟩,
   ⟨pstState [245, 84, 48, 4], 0, insnOf false [245, 84, 48, 4], [245, 84, 48, 4], 0x10000004, 0x10000000, by decide +kernel⟩⟩

theorem witness_WhorlSystemCommandsComplete :
  (∃ (s : State) (tid : Nat) (i : Insn) (code : List Byte), let x := s.thread tid; ready s tid i code = true ∧ runs i x = true ∧
   i.op = .nop ∧ i.pkt = false) ∧
  (∃ (s : State) (tid : Nat) (i : Insn) (code : List Byte), let x := s.thread tid; ready s tid i code = true ∧ runs i x = true ∧
   i.op = .mfs ∧ i.pkt = false ∧ 3 ≤ x.accAge ∧ unsgn 32 i.imm ∉ [5, 6, 12, 13, 14] ∧ unsgn 32 i.imm < 17) ∧
  (∃ (s : State) (tid : Nat) (i : Insn) (code : List Byte), let x := s.thread tid; ready s tid i code = true ∧ runs i x = true ∧
   i.op = .mts ∧ i.pkt = false ∧ unsgn 32 i.imm ∈ [3, 8, 9, 11] ∧ x.reg i.ra &&& sregReserved (unsgn 32 i.imm) = 0) ∧
  (∃ (s : State) (tid : Nat) (i : Insn) (code : List Byte), let x := s.thread tid; ready s tid i code = true ∧ runs i x = true ∧
   i.op = .mts ∧ i.pkt = false ∧ unsgn 32 i.imm < 3) ∧
  (∃ (s : State) (tid : Nat) (i : Insn) (code : List Byte), let x := s.thread tid; ready s tid i code = true ∧ runs i x = true ∧
   i.op = .fence ∧ i.pkt = false) ∧
  (∃ (s : State) (tid : Nat) (i : Insn) (code : List Byte), let x := s.thread tid; ready s tid i code = true ∧ runs i x = true ∧
   i.op = .trap ∧ i.pkt = false) ∧
  (∃ (s : State) (tid : Nat) (i : Insn) (code : List Byte), let x := s.thread tid; ready s tid i code = true ∧ runs i x = true ∧
   i.op = .tget ∧ i.pkt = false ∧ x.task = none) ∧
  (∃ (s : State) (tid : Nat) (i : Insn) (code : List Byte) (d : Nat) (k : Task), let x := s.thread tid; ready s tid i code = true ∧
   runs i x = true ∧ i.op = .tdone ∧ i.pkt = false ∧ x.task = some d ∧ taskOf s d = some k ∧ x.parked = [] ∧
   beyondBuffer s k.pkt.handle (leNat ((s.core (tid / 8)).mem.rdBytes (0xFF00 + 32 * (tid % 8) + 20) 2)) (leNat ((s.core (tid / 8)).mem.rdBytes (0xFF00 + 32 * (tid % 8) + 22) 2)) = false) ∧
  (∃ (s : State) (tid : Nat) (i : Insn) (code : List Byte), let x := s.thread tid; ready s tid i code = true ∧ runs i x = true ∧
   i.op = .sleep ∧ i.pkt = false) ∧
  (∃ (s : State) (tid : Nat) (i : Insn) (code : List Byte), let x := s.thread tid; ready s tid i code = true ∧ runs i x = true ∧
   i.op = .waitlk ∧ i.pkt = false) ∧
  (∃ (s : State) (tid : Nat) (i : Insn) (code : List Byte) (n : Nat), let x := s.thread tid; ready s tid i code = true ∧
   runs i x = true ∧ i.op = .lkup ∧ i.pkt = false ∧ n = (if i.fn = 0 then 8 else if i.fn ≤ 4 then 4 else 16) ∧
   (x.reg i.ra).toNat + n ≤ 0x10000 ∧ (x.reg i.ra).toNat % 8 = 0 ∧ poisoned s (tid / 8) (x.reg i.ra).toNat n = none) ∧
  (∃ (s : State) (tid : Nat) (i : Insn) (code : List Byte), let x := s.thread tid; ready s tid i code = true ∧ runs i x = true ∧
   i.op = .bfree ∧ i.pkt = false) ∧
  (∃ (s : State) (tid : Nat) (i : Insn) (code : List Byte), let x := s.thread tid; ready s tid i code = true ∧ runs i x = true ∧
   i.op = .balloc ∧ i.pkt = false) ∧
  (∃ (s : State) (tid : Nat) (i : Insn) (code : List Byte), let x := s.thread tid; ready s tid i code = true ∧ runs i x = true ∧
   i.op = .fadd ∧ i.pkt = false) ∧
  (∃ (s : State) (tid : Nat) (i : Insn) (code : List Byte), let x := s.thread tid; ready s tid i code = true ∧ runs i x = true ∧
   i.op = .send ∧ i.pkt = false) ∧
  (∃ (s : State) (tid : Nat) (code : List Byte), canIssue s tid = true ∧ (s.thread tid).storeErr = none ∧
   fetchWord s (tid / 8) (s.thread tid).pc (s.thread tid).form = .word .ill code ∧
   (((wordDecode (s.thread tid).form code).1 = .ill ∨ (wordDecode (s.thread tid).form code).1 = .more))) :=
  ⟨⟨wState 0 false [1], 0, insnOf false [1], [1], by decide +kernel⟩,
   ⟨wState 0 false [4, 48, 9], 0, insnOf false [4, 48, 9], [4, 48, 9], by decide +kernel⟩,
   ⟨wState 0 false [5, 80, 11], 0, insnOf false [5, 80, 11], [5, 80, 11], by decide +kernel⟩,
   ⟨wState 0 false [5, 80, 1], 0, insnOf false [5, 80, 1], [5, 80, 1], by decide +kernel⟩,
   ⟨wState 0 false [144], 0, insnOf false [144], [144], by decide +kernel⟩,
   ⟨wState 0 false [145, 0, 165], 0, insnOf false [145, 0, 165], [145, 0, 165], by decide +kernel⟩,
   ⟨wState 0 false [128], 0, insnOf false [128], [128], by decide +kernel⟩,
   ⟨taskState [129, 86, 0], 0, insnOf false [129, 86, 0], [129, 86, 0], 0, { aTask with st := .running }, by decide +kernel⟩,
   ⟨wState 0 false [135], 0, insnOf false [135], [135], by decide +kernel⟩,
   ⟨wState 0 false [133, 80], 0, insnOf false [133, 80], [133, 80], by decide +kernel⟩,
   ⟨wState 0 false [136, 80, 1], 0, insnOf false [136, 80, 1], [136, 80, 1], 4, by decide +kernel⟩,
   ⟨wState 0 false [132, 80], 0, insnOf false [132, 80], [132, 80], by decide +kernel⟩,
   ⟨wState 0 false [131, 53, 1], 0, insnOf false [131, 53, 1], [131, 53, 1], by decide +kernel⟩,
   ⟨wState 0 false [134, 53, 96], 0, insnOf false [134, 53, 96], [134, 53, 96], by decide +kernel⟩,
   ⟨wState 0 false [130, 53, 96], 0, insnOf false [130, 53, 96], [130, 53, 96], by decide +kernel⟩,
   ⟨wState 0 false [0], 0, [], by decide +kernel⟩⟩

theorem witness_WhorlWordCommandsComplete :
  (∃ (s : State) (tid : Nat) (a : Insn) (b : Insn) (code : List Byte) (va : Word) (vb : Word) (fa : Flags) (fb : Flags),
   let x := s.thread tid; canIssue s tid = true ∧ x.storeErr = none ∧ x.read.isNone = true ∧
   fetchWord s (tid / 8) x.pc x.form = .word (.two a b) code ∧ wordDecode x.form code = (.two a b, code.length) ∧
   dependent a b = false ∧ runs a x = true ∧ runs b x = true ∧ a.setf = false ∧ b.setf = false ∧
   aluOut a.op (x.reg a.ra) (operandB a x) (x.reg a.rd) x.flags = some (va, fa) ∧
   aluOut b.op (x.reg b.ra) (operandB b x) (x.reg b.rd) x.flags = some (vb, fb) ∧ aluWrites a.op = true ∧ aluWrites b.op = true) ∧
  (∃ (s : State) (tid : Nat) (k : Nat) (r : WeftRead) (i : Insn), let x := s.thread tid; x.read = some r ∧ x.st = 2 ∧
   x.waitOn = 4 ∧ r.wait = .ready ∧ r.got = [] ∧ s.halted = false ∧ wordDecode x.form r.code = (.one i, r.code.length) ∧
   i.op = .fadd ∧ runs i x = true ∧ k = (x.reg i.ra).toNat % 128 ∧ s.up islBPM = true ∧ s.role < 2) ∧
  (∃ (s : State) (tid : Nat) (n : Nat) (b : Nat) (w : ReqWait), (s.thread tid).writes[n]? = some (b, w) ∧ w = .ready) ∧
  (∃ (s : State) (tid : Nat) (n : Nat) (b : Nat), (s.thread tid).writes[n]? = some (b, .busy) ∧ (s.thread tid).st = 1 ∧
   (s.thread tid).wflt = false) ∧
  (∃ (s : State) (tid : Nat), (s.thread tid).fencing = true ∧ (s.thread tid).writes = [] ∧ s.halted = false) :=
  ⟨⟨wState 0 true [156, 9, 212, 132], 0, (match (wordDecode true [156, 9, 212, 132]).1 with | .two a _ => a | _ => slotNop), (match (wordDecode true [156, 9, 212, 132]).1 with | .two _ b => b | _ => slotNop), [156, 9, 212, 132], ((aluOut .add (((wState 0 true [156, 9, 212, 132]).thread 0).reg 3) (((wState 0 true [156, 9, 212, 132]).thread 0).reg 5) (((wState 0 true [156, 9, 212, 132]).thread 0).reg 3) ((wState 0 true [156, 9, 212, 132]).thread 0).flags).map (·.1)).getD 0, ((aluOut .sub (((wState 0 true [156, 9, 212, 132]).thread 0).reg 6) (((wState 0 true [156, 9, 212, 132]).thread 0).reg 7) (((wState 0 true [156, 9, 212, 132]).thread 0).reg 6) ((wState 0 true [156, 9, 212, 132]).thread 0).flags).map (·.1)).getD 0, ((aluOut .add (((wState 0 true [156, 9, 212, 132]).thread 0).reg 3) (((wState 0 true [156, 9, 212, 132]).thread 0).reg 5) (((wState 0 true [156, 9, 212, 132]).thread 0).reg 3) ((wState 0 true [156, 9, 212, 132]).thread 0).flags).map (·.2)).getD ((wState 0 true [156, 9, 212, 132]).thread 0).flags, ((aluOut .sub (((wState 0 true [156, 9, 212, 132]).thread 0).reg 6) (((wState 0 true [156, 9, 212, 132]).thread 0).reg 7) (((wState 0 true [156, 9, 212, 132]).thread 0).reg 6) ((wState 0 true [156, 9, 212, 132]).thread 0).flags).map (·.2)).getD ((wState 0 true [156, 9, 212, 132]).thread 0).flags, by decide +kernel⟩,
   ⟨respState [134, 53, 96] [], 0, 0, { code := [134, 53, 96], got := [], wait := .ready, logged := false }, insnOf false [134, 53, 96], by decide +kernel⟩,
   ⟨(wState 0 false [1]).setThread 0 { (wState 0 false [1]).thread 0 with writes := [(1, .busy), (2, .ready)] }, 0, 1, 2, .ready, by decide +kernel⟩,
   ⟨(wState 0 false [1]).setThread 0 { (wState 0 false [1]).thread 0 with writes := [(1, .busy), (2, .ready)] }, 0, 0, 1, by decide +kernel⟩,
   ⟨(wState 0 false [1]).setThread 0 { (wState 0 false [1]).thread 0 with fencing := true, st := 2, waitOn := 4 }, 0, by decide +kernel⟩⟩

theorem witness_ForwardingCommandsComplete :
  (∃ (s : State) (port : Nat) (vid : Nat) (i : Nat) (mac : List Byte) (q : List (Nat × List Byte × Nat)),
   s.fwd.srcq = (port, mac, vid) :: q ∧ s.up islTBL = true ∧ s.halted = false ∧ fdbPassed s mac vid = [] ∧
   fdbFind s mac vid = some i ∧ fdbMask (fdbBytes s i) = 2 ^ port) ∧
  (∃ (s : State) (a : Agent), reaches a R.FWD_LRN_POP 1 s = true) ∧
  (∃ (s : State) (i : Nat), s.up islTBL = true ∧ s.halted = false ∧ s.follower = false ∧ s.get R.FWD_AGE_SEC ≠ 0 ∧ i < 32768 ∧
   fdbBad s i = [] ∧ fdbValid (fdbBytes s i) = true ∧ fdbStatic (fdbBytes s i) = false ∧ fdbHit (fdbBytes s i) = true) ∧
  (∃ (s : State) (a : Agent), reaches a R.FWD_CMD 1 s = true ∧ s.flag R.FWD_CSTAT_BUSY = false) ∧
  (∃ (s : State) (a : Agent), reaches a R.FWD_CMD 2 s = true ∧ s.flag R.FWD_CSTAT_BUSY = false) ∧
  (∃ (s : State) (a : Agent) (i : Nat), reaches a R.FWD_CMD 3 s = true ∧ s.flag R.FWD_CSTAT_BUSY = false ∧
   fdbPassed s (fdbMac ((fwdStage s).take 16)) (fdbVid ((fwdStage s).take 16)) = [] ∧
   fdbFind s (fdbMac ((fwdStage s).take 16)) (fdbVid ((fwdStage s).take 16)) = some i) ∧
  (∃ (s : State) (a : Agent), reaches a R.FWD_CMD 4 s = true ∧ s.flag R.FWD_CSTAT_BUSY = false ∧
   fdbPassed s (fdbMac ((fwdStage s).take 8)) (fdbVid ((fwdStage s).take 8)) = [] ∧
   fdbFind s (fdbMac ((fwdStage s).take 8)) (fdbVid ((fwdStage s).take 8)) = none) ∧
  (∃ (s : State) (a : Agent), reaches a R.FWD_CMD 5 s = true ∧ s.flag R.FWD_CSTAT_BUSY = false) ∧
  (∃ (s : State), s.fwd.flush ≠ none) ∧
  (∃ (s : State) (a : Agent), readable a R.FWD_EVT s = true) ∧
  (∃ (s : State), auditOn s = true ∧ s.fwd.audit.running = false) ∧
  (∃ (s : State) (o : Nat), auditOn s = true ∧ s.fwd.audit.running = true ∧ auditNext s s.fwd.audit.pos = some o) ∧
  (∃ (s : State) (o : Nat) (w : Nat) (os : List Nat), s.fwd.audit.recheck = o :: os ∧ auditOn s = true ∧ auditDiff s o = some w) ∧
  (∃ (s : State), s.fwd.audit.running = true ∧ auditNext s s.fwd.audit.pos = none ∧ s.fwd.audit.deferred = []) ∧
  (∃ (s : State), s.fwd.audit.running = true) :=
  ⟨⟨{ tblWrite (fdbOff (fdbSlot [2,2,3,4,5,6] 1 0)) (fdbMake [2,2,3,4,5,6] 0x1001 8 false 0) live with fwd.srcq := [(3, [2,2,3,4,5,6], 1)] }, 3, 1, fdbSlot [2,2,3,4,5,6] 1 0, [2,2,3,4,5,6], [], by decide +kernel⟩,
   ⟨{ live with fwd.learn := [(1, 2, 3, 4)] }, .host, by decide +kernel⟩,
   ⟨(tblWrite (fdbOff 7) (fdbMake [2,2,3,4,5,6] 0x1001 8 true 0) live).set R.FWD_AGE_SEC 10, 7, by decide +kernel⟩,
   ⟨live.set R.FWD_ADDR_LINE 0x8FF, .host, by decide +kernel⟩,
   ⟨live, .host, by decide +kernel⟩,
   ⟨(tblWrite (fdbOff (fdbSlot [0,0,0,0,0,0] 0 2)) (fdbMake [] 0x1000 8 false 0) live), .host, fdbSlot [0,0,0,0,0,0] 0 2, by decide +kernel⟩,
   ⟨live, .host, by decide +kernel⟩,
   ⟨live, .host, by decide +kernel⟩,
   ⟨{ live.set R.FWD_CSTAT_BUSY 1 with fwd.flush := some 0x1FF }, by decide +kernel⟩,
   ⟨{ live with fwd.events := [0x80000001] }, .host, by decide +kernel⟩,
   ⟨live.set R.FWD_AUD_CTL_EN 1, by decide +kernel⟩,
   ⟨({ live with fwd.audit.running := true, fwd.learn := [(0, 0, 0, 0)], fwd.audit.pos := 0x24000 }.set R.FWD_AUD_CTL_EN 1).set R.FWD_AUD_CTL_REGIONS 2, 0x24000, by decide +kernel⟩,
   ⟨tblWrite 9 [1] { live.set R.FWD_AUD_CTL_EN 1 with fwd.audit.recheck := [0] }, 0, 8, [], by decide +kernel⟩,
   ⟨({ live with fwd.audit.running := true }).set R.FWD_AUD_CTL_REGIONS 0, by decide +kernel⟩,
   ⟨{ live with fwd.audit.running := true }, by decide +kernel⟩⟩

theorem witness_QueueCommandsComplete :
  (∃ (s : State) (a : Agent) (q : Nat) (v : Word), q < 1024 ∧ isHost a = true ∧ reaches a (R.HIF_DB_SQ q) v s = true ∧
   s.halted = false ∧ (s.qp q).st = 1 ∧ wget v 0 12 < 2 ^ (s.qp q).sqlog ∧
   (wget v 0 12 + 2 ^ (s.qp q).sqlog - (s.qp q).tail) % 2 ^ (s.qp q).sqlog ≤ 2 ^ (s.qp q).sqlog - 1 - ((s.qp q).tail + 2 ^ (s.qp q).sqlog - (s.qp q).head) % 2 ^ (s.qp q).sqlog) ∧
  (∃ (s : State) (a : Agent) (q : Nat) (v : Word), q < 1024 ∧ isHost a = true ∧ reaches a (R.HIF_DB_CQ q) v s = true ∧
   s.halted = false ∧ (s.qp q).st ≠ 0 ∧ wget v 0 12 < 2 ^ (s.qp q).cqlog ∧
   (wget v 0 12 + 2 ^ (s.qp q).cqlog - (s.qp q).released % 2 ^ (s.qp q).cqlog) % 2 ^ (s.qp q).cqlog ≤ (s.qp q).written - (s.qp q).released) ∧
  (∃ (s : State) (q : Nat), s.up islHIF = true ∧ fetchOpen s (s.qp q) = true ∧ fetchCount (s.qp q) ≠ 0 ∧
   ringFault s (s.qp q) = none) ∧
  (∃ (s : State) (q : Nat) (x : Nat × Nat), (s.qp q).fetch = some x ∧ s.halted = false ∧ (s.qp q).ringsp = false) ∧
  (∃ (s : State) (q : Nat) (i : Nat) (bs : List Byte), (s.qp q).fetch = some (i, 1) ∧ s.halted = false ∧ (s.qp q).ringsp = false ∧
   s.leader = false ∧ bs.length = 32 ∧ fmtOk q (s.qp q) (leNat (bs.take 4)) = true) ∧
  (∃ (s : State) (q : Nat) (e : QEntry), readyOp s q 1 = some e) ∧
  (∃ (s : State) (e : QEntry) (q : Nat), readyOp s 0 2 = some e ∧ 2 ≤ s.stage ∧ createId s e = some q ∧ (s.qp q).st = 0 ∧
   inflBudget s + (createdQp e).maxinfl ≤ 4096 ∧ geometryFault s q (createdQp e) = none) ∧
  (∃ (s : State) (e : QEntry) (q : Nat), destroyEntry s false = some (e, q) ∧ q ≠ 0 ∧ (s.qp q).st ≠ 0 ∧ (s.qp q).fetch = none ∧
   (s.qp q).out = []) ∧
  (∃ (s : State) (e : QEntry) (q : Nat), destroyEntry s true = some (e, q) ∧ q ≠ 0 ∧ (s.qp q).st ≠ 0) ∧
  (∃ (s : State) (q : Nat), (s.qp q).st = 2 ∧ (s.qp q).infl = 0) ∧
  (∃ (s : State) (e : QEntry) (q : Nat), readyOp s 0 4 = some e ∧ q = e.fld 6 2 % 1024 ∧ (s.qp q).st ≠ 0) ∧
  (∃ (s : State) (q : Nat) (e : QEntry) (a : BufAns), s.halted = false ∧ s.up islBPM = true ∧ s.up islPRS = true ∧
   (s.qp q).out.find? (·.bufWait) = some e ∧ s.bpm.answers.find? (fun b => decide (b.owner = 9 + (s.qp q).group)) = some a ∧
   a.status ≠ 2) ∧
  (∃ (s : State) (q : Nat) (e : QEntry), readyOp s q 17 = some e ∧ (e.pkm || s.hostPcie) = true) ∧
  (∃ (s : State) (q : Nat) (e : QEntry), readyOp s q 16 = some e ∧ (s.qp q).out.find? (·.bufWait) = none ∧ e.pkm = false ∧
   e.bufWait = false ∧ e.pkt = none) ∧
  (∃ (s : State) (a : Agent) (v : Word), v.getLsbD 31 = true ∧ s.flag R.HIF_AQ_CFG_EN = false ∧ reaches a R.HIF_AQ_CFG v s = true ∧
   v &&& 0x7FFFFE00 = 0 ∧
   geometryFault (s.wr R.HIF_AQ_CFG v) 0 { Qp.reset with st := 1, ringsp := v.getLsbD 8, sqlog := wget v 0 4, cqlog := wget v 4 4, sqbase := s.rd64 R.HIF_AQ_SQBASE_LO, cqbase := s.rd64 R.HIF_AQ_CQBASE_LO } = none) ∧
  (∃ (s : State) (a : Agent) (v : Word), v.getLsbD 31 = false ∧ s.flag R.HIF_AQ_CFG_EN = true ∧ reaches a R.HIF_AQ_CFG v s = true ∧
   v &&& 0x7FFFFE00 = 0) :=
  ⟨⟨live.setQp 1023 (oneQp false (1 :: 0xA5 :: List.replicate 30 0)), .host, 1023, 15, by decide +kernel⟩,
   ⟨live.setQp 7 { oneQp false (1 :: 0xA5 :: List.replicate 30 0) with written := 3 }, .host, 7, 3, by decide +kernel⟩,
   ⟨live.setQp 7 { oneQp false (1 :: 0xA5 :: List.replicate 30 0) with out := [], tail := 3, sqbase := 0xC00000, cqbase := 0xC10000 }, 7, by decide +kernel⟩,
   ⟨live.setQp 7 { oneQp false (1 :: 0xA5 :: List.replicate 30 0) with fetch := some (0, 1), ringsp := false }, 7, (0, 1), by decide +kernel⟩,
   ⟨live.setQp 7 { oneQp false (1 :: 0xA5 :: List.replicate 30 0) with fetch := some (1, 1), ringsp := false }, 7, 1, (1 :: 0xA5 :: List.replicate 30 0), by decide +kernel⟩,
   ⟨live.setQp 7 (oneQp false (1 :: 0xA5 :: List.replicate 30 0)), 7, anEntry (1 :: 0xA5 :: List.replicate 30 0), by decide +kernel⟩,
   ⟨(hostUp.setQp 0 (oneQp false (2 :: 0xA5 :: List.replicate 14 0 ++ leBytes 8 0x1000 ++ [0x44] ++ List.replicate 7 0))).set R.SYS_STAGE_STAGE 2, anEntry (2 :: 0xA5 :: List.replicate 14 0 ++ leBytes 8 0x1000 ++ [0x44] ++ List.replicate 7 0), 1, by decide +kernel⟩,
   ⟨(live.setQp 0 (oneQp false (3 :: 0xA5 :: 0 :: 0 :: 0 :: 0 :: 7 :: 0 :: List.replicate 24 0))).setQp 7 { oneQp false [] with out := [] }, anEntry (3 :: 0xA5 :: 0 :: 0 :: 0 :: 0 :: 7 :: 0 :: List.replicate 24 0), 7, by decide +kernel⟩,
   ⟨(live.setQp 0 (oneQp false ((3 :: 0xA5 :: 0 :: 0 :: 0 :: 0 :: 7 :: 0x80 :: List.replicate 24 0)))).setQp 7 (oneQp false []), anEntry (3 :: 0xA5 :: 0 :: 0 :: 0 :: 0 :: 7 :: 0x80 :: List.replicate 24 0), 7, by decide +kernel⟩,
   ⟨live.setQp 7 { oneQp false [] with out := [], st := 2 }, 7, by decide +kernel⟩,
   ⟨live.setQp 0 (oneQp false (4 :: 0xA5 :: 0 :: 0 :: 0 :: 0 :: 0 :: 0 :: List.replicate 24 0)), anEntry (4 :: 0xA5 :: 0 :: 0 :: 0 :: 0 :: 0 :: 0 :: List.replicate 24 0), 0, by decide +kernel⟩,
   ⟨{ live.setQp 7 { oneQp false [] with out := [{ anEntry (0x10 :: 0xA5 :: List.replicate 14 0 ++ leBytes 4 64 ++ List.replicate 12 0) with bufWait := true }] } with bpm.answers := [{ owner := 9, handle := 0, status := 0 }] }, 7, { anEntry (0x10 :: 0xA5 :: List.replicate 14 0 ++ leBytes 4 64 ++ List.replicate 12 0) with bufWait := true }, { owner := 9, handle := 0, status := 0 }, by decide +kernel⟩,
   ⟨live.setQp 7 (oneQp true (0x11 :: 0xA5 :: 0 :: 0 :: 0 :: 0 :: 0 :: 0 :: List.replicate 24 0)), 7, anEntry (0x11 :: 0xA5 :: 0 :: 0 :: 0 :: 0 :: 0 :: 0 :: List.replicate 24 0), by decide +kernel⟩,
   ⟨live.setQp 7 (oneQp false (0x10 :: 0xA5 :: 0 :: 0 :: 0 :: 0 :: 0 :: 0 :: List.replicate 24 0)), 7, anEntry (0x10 :: 0xA5 :: 0 :: 0 :: 0 :: 0 :: 0 :: 0 :: List.replicate 24 0), by decide +kernel⟩,
   ⟨hostUp.wr R.HIF_AQ_CQBASE_LO 0x1000, .host, 0x80000044, by decide +kernel⟩,
   ⟨live.set R.HIF_AQ_CFG_EN 1, .host, 0, by decide +kernel⟩⟩

theorem witness_HostPortCommandsComplete :
  (∃ (s : State), s.up islHIF = true ∧ s.hostPcie = true ∧ s.flag R.HIF_STAT_LINKUP = true) ∧
  (∃ (s : State), s.up islHIF = true ∧ s.hostPcie = true ∧ s.flag R.HIF_STAT_LINKUP = true) ∧
  (∃ (s : State) (speed : Nat) (width : Nat), s.up islHIF = true ∧ s.hostPcie = true ∧ s.flag R.CLK_STAT_HIFPLL_LOCK = true ∧
   1 ≤ speed ∧ speed ≤ 3 ∧ 1 ≤ width ∧ width ≤ 2) ∧
  (∃ (s : State) (a : Agent) (v : Word), v.getLsbD 31 = true ∧ isHost a = true ∧ reaches a R.HIF_XSPI_CTL v s = true ∧
   v &&& 0x7C000000 = 0 ∧ wget v 9 2 ≠ 3 ∧ wget v 16 9 ≤ 256 ∧ s.flag R.HIF_XSPI_STAT_BUSY = false) ∧
  (∃ (s : State), s.flag R.HIF_XSPI_STAT_BUSY = true ∧ (s.rd R.HIF_XSPI_CTL).getLsbD 25 = true) ∧
  (∃ (s : State) (add32 : Bool) (bar0 : Bool), s.up islHIF = true ∧ s.hostPcie = true ∧ s.flag R.HIF_STAT_LINKUP = true ∧
   s.hif.d3hot = false ∧ s.bar0 = true ∧ (add32 && bar0) = false) ∧
  (∃ (s : State) (off : Nat) (k : Nat), s.up islHIF = true ∧ s.hostPcie = true ∧ s.flag R.HIF_STAT_LINKUP = true ∧
   s.hif.d3hot = false ∧ s.bar0 = true ∧ k < 128 ∧ off = R.LCK_CTR 0 + 4 * k) ∧
  (∃ (s : State) (off : Nat) (data : List Byte), decodes .host s = true ∧ pktOpen s = true ∧ s.role < 2 ∧
   off + data.length ≤ 0xD00000 ∧ (List.range data.length).any (fun j => foreignByte s (off + j)) = false) ∧
  (∃ (s : State), decodes .host s = true ∧ s.sys.resetting = false) ∧
  (∃ (s : State) (addr : Nat), qspiRuns s = true ∧ s.hif.qspi = none ∧ addr / 2 ^ 28 % 16 = 2) ∧
  (∃ (s : State) (addr : Nat), qspiRuns s = true ∧ s.hif.qspi = none ∧ addr / 2 ^ 28 % 16 = 1 ∧ pktOpen s = false) ∧
  (∃ (s : State) (data : List Byte), qspiRuns s = true ∧ s.hif.qspi = none ∧ data.length < 4) ∧
  (∃ (s : State) (addr : Nat) (data : List Byte), qspiRuns s = true ∧ s.hif.qspi = none ∧ data.length = 4 ∧
   addr / 2 ^ 28 % 16 = 1 ∧ addr % 4 = 0 ∧ addr % 2 ^ 24 + 4 ≤ 0xD00000 ∧ decodes .host s = true ∧ pktOpen s = true ∧ s.role < 2 ∧
   (List.range 4).any (fun j => foreignByte s (addr % 2 ^ 24 + j)) = false) ∧
  (∃ (s : State), qspiRuns s = true ∧ s.hif.qspi = none) ∧
  (∃ (s : State), qspiRuns s = true) :=
  ⟨⟨hostUp, by decide +kernel⟩,
   ⟨hostUp, by decide +kernel⟩,
   ⟨live.set R.CLK_STAT_HIFPLL_LOCK 1, 3, 2, by decide +kernel⟩,
   ⟨live, .host, 0x80000005, by decide +kernel⟩,
   ⟨(live.set R.HIF_XSPI_STAT_BUSY 1).wr R.HIF_XSPI_CTL 0x02040000, by decide +kernel⟩,
   ⟨hostUp, true, false, by decide +kernel⟩,
   ⟨hostUp, R.LCK_CTR 0 + 508, 127, by decide +kernel⟩,
   ⟨(live.set R.SYS_STAGE_STAGE 2), 0xCFFFFC, [1, 2, 3, 4], by decide +kernel⟩,
   ⟨(live.set R.SYS_STAGE_STAGE 2), by decide +kernel⟩,
   ⟨(live.set R.SYS_STRAP_BOOT 1), 0x20000000, by decide +kernel⟩,
   ⟨(live.set R.SYS_STRAP_BOOT 1), 0x10000000, by decide +kernel⟩,
   ⟨(live.set R.SYS_STRAP_BOOT 1), [1, 2, 3], by decide +kernel⟩,
   ⟨((live.set R.SYS_STRAP_BOOT 1).set R.SYS_STAGE_STAGE 2), 0x10CFFFFC, [1, 2, 3, 4], by decide +kernel⟩,
   ⟨(live.set R.SYS_STRAP_BOOT 1), by decide +kernel⟩,
   ⟨{ (live.set R.SYS_STRAP_BOOT 1) with hif.qspi := some ⟨true, 0, [1]⟩ }, by decide +kernel⟩⟩

theorem witness_NoticeCommandsComplete :
  (∃ (s : State) (a : Agent) (n : Nat), n < 96 ∧ readable a (R.EVT_SRC n) s = true) ∧
  (∃ (s : State) (a : Agent) (v : Word), reaches a R.EVT_SWRAISE v s = true ∧ v &&& 0xFFFFFF00 = 0) ∧
  (∃ (s : State) (a : Agent) (n : Nat) (v : Word), n < 96 ∧ reaches a (R.EVT_ROUTE n) v s = true ∧ v &&& 0x88C080F8 = 0 ∧
   (wget v 1 2 = 0 → wget v 8 7 < 96) ∧ (wget v 1 2 = 1 → wget v 16 6 < 48) ∧ wget v 1 2 ≠ 3) ∧
  (∃ (s : State), s.up islHIF = true ∧ s.hostPcie = true ∧ s.flag R.HIF_STAT_LINKUP = true ∧ s.hif.d3hot = false) ∧
  (∃ (s : State) (k : Nat), s.up islHIF = true ∧ s.hostPcie = true ∧ s.flag R.HIF_STAT_LINKUP = true ∧ s.hif.d3hot = false ∧ k < 96) :=
  ⟨⟨live.set (stickyFld 95) 1, .host, 95, by decide +kernel⟩,
   ⟨live, .host, 0x81, by decide +kernel⟩,
   ⟨live, .host, 95, 0x772F0003, by decide +kernel⟩,
   ⟨hostUp, by decide +kernel⟩,
   ⟨hostUp, 95, by decide +kernel⟩⟩

theorem witness_AudioCommandsComplete :
  (∃ (s : State) (a : Agent) (c : Nat) (v : Word), c < 16 ∧ reaches a (R.AUD_CH_WPOS c) v s = true) ∧
  (∃ (s : State) (a : Agent) (c : Nat), c < 16 ∧ reaches a (R.AUD_CH_CTL c) 1 s = true) ∧
  (∃ (s : State) (a : Agent) (c : Nat), c < 16 ∧ reaches a (R.AUD_CH_CTL c) 0 s = true) ∧
  (∃ (s : State) (a : Agent) (c : Nat), c < 16 ∧ readable a (R.AUD_CH_RPOS c) s = true) ∧
  (∃ (s : State) (a : Agent) (v : Word), audRuns s = true ∧ reaches a R.AUD_DPLL_CRF v s = true ∧ s.get R.AUD_DPLL_CFG_SRC = 1 ∧
   s.aud.pred = none) ∧
  (∃ (s : State), audRuns s = true ∧ s.get R.AUD_DPLL_CFG_SRC ≠ 0 ∧ s.flag R.AUD_DPLL_STAT_HOLD = false) ∧
  (∃ (s : State), audRuns s = true ∧ s.get R.AUD_DPLL_CFG_SRC ≠ 0 ∧ s.flag R.AUD_DPLL_STAT_HOLD = false ∧ s.flag
   R.AUD_DPLL_STAT_LOCK = false ∧ srcIsMaster s = false ∧ (sint (s.rd R.AUD_DPLL_PHERR)).natAbs < 100) ∧
  (∃ (s : State), audRuns s = true ∧ s.flag R.AUD_DPLL_STAT_LOCK = true) ∧
  (∃ (s : State) (c : Nat), audRuns s = true ∧ c < 16 ∧ modPanel (s.ach c) ≠ none) ∧
  (∃ (s : State) (a : Agent) (n : Nat), n < 32 ∧ reaches a (R.AUD_LW_SEEN n) 1 s = true) ∧
  (∃ (s : State) (n : Nat), audRuns s = true ∧ n < 32 ∧ mget (fun _ => false) s.aud.watch n = true ∧
   s.get (R.AUD_LW_CFG_TIMEOUT n) ≠ 0 ∧ s.flag ⟨R.AUD_LW_STAT, n, 1⟩ = false) ∧
  (∃ (s : State) (a : Agent) (k : Nat), k < 16 ∧ readable a (R.AUD_CAP_WPOS k) s = true) ∧
  (∃ (s : State) (a : Agent) (k : Nat), k < 8 ∧ s.flag (R.AUD_TALK_CFG_EN k) = false ∧
   reaches a (R.AUD_TALK_CFG k) (s.rd (R.AUD_TALK_CFG k) ||| 0x80000000) s = true ∧ talkOneRate s k = true) ∧
  (∃ (s : State) (a : Agent) (k : Nat), k < 8 ∧ readable a (R.AUD_TALK_NEXT k) s = true) ∧
  (∃ (s : State) (p : Nat), 1 ≤ p ∧ p < 4 ∧ s.sys.resetting = false ∧ audRuns s = true ∧ s.flag (R.AUD_TDM_CFG_EN p) = true ∧
   s.follower = false) ∧
  (∃ (s : State) (p : Nat), 1 ≤ p ∧ p < 4 ∧ s.sys.resetting = false ∧ audRuns s = true ∧ s.flag (R.AUD_TDM_CFG_EN p) = true ∧
   s.flag (R.AUD_TDM_CFG_MASTER p) = false ∧ s.flag (R.AUD_TDM_STAT_SYNC p) = true) ∧
  (∃ (s : State), audRuns s = true ∧ safeListens s = false) :=
  ⟨⟨live, .host, 15, 0xFFFFFFFF, by decide +kernel⟩,
   ⟨live, .host, 15, by decide +kernel⟩,
   ⟨live.set (R.AUD_CH_CTL_EN 15) 1, .host, 15, by decide +kernel⟩,
   ⟨live, .host, 15, by decide +kernel⟩,
   ⟨audLive.set R.AUD_DPLL_CFG_SRC 1, .host, 7, by decide +kernel⟩,
   ⟨audLive.set R.AUD_DPLL_CFG_SRC 1, by decide +kernel⟩,
   ⟨audLive.set R.AUD_DPLL_CFG_SRC 1, by decide +kernel⟩,
   ⟨audLive.set R.AUD_DPLL_STAT_LOCK 1, by decide +kernel⟩,
   ⟨audLive.setAch 15 { audLive.ach 15 with modF := 8 }, 15, by decide +kernel⟩,
   ⟨{ live with aud.lwSet := [(31, true)] }, .host, 31, by decide +kernel⟩,
   ⟨{ audLive.set (R.AUD_LW_CFG_TIMEOUT 31) 1 with aud.watch := [(31, true)] }, 31, by decide +kernel⟩,
   ⟨live, .host, 15, by decide +kernel⟩,
   ⟨live, .host, 7, by decide +kernel⟩,
   ⟨live, .host, 7, by decide +kernel⟩,
   ⟨audLive.set (R.AUD_TDM_CFG_EN 3) 1, 3, by decide +kernel⟩,
   ⟨(audLive.set (R.AUD_TDM_CFG_EN 3) 1).set (R.AUD_TDM_STAT_SYNC 3) 1, 3, by decide +kernel⟩,
   ⟨audLive, by decide +kernel⟩⟩

theorem witness_SafeServiceCommandsComplete :
  (∃ (s : State) (data : List Byte), safeListens s = true ∧ s.pstate ≠ 5 ∧ safeAccepts s (1 :: data) = true ∧ safeOwns s = true) ∧
  (∃ (s : State) (data : List Byte) (pcm : List Nat), safeListens s = true ∧ s.pstate ≠ 5 ∧ safeAccepts s (2 :: data) = true ∧
   safeOwns s = true ∧ s.safe.ann ≠ .tone ∧ clipPcm s (data.getD 0 0).toNat = some pcm) ∧
  (∃ (s : State) (data : List Byte), safeListens s = true ∧ s.pstate ≠ 5 ∧ safeAccepts s (3 :: data) = true ∧ safeOwns s = true) ∧
  (∃ (s : State) (data : List Byte), safeListens s = true ∧ s.pstate ≠ 5 ∧ safeAccepts s (4 :: data) = true ∧ safeOwns s = true) ∧
  (∃ (s : State) (data : List Byte), safeListens s = true ∧ s.pstate ≠ 5 ∧ safeAccepts s (5 :: data) = true ∧ safeOwns s = true) ∧
  (∃ (s : State), s.safe.ann ≠ .none ∧ s.safe.left = 0 ∧ annLength s ≤ s.safe.pos) :=
  ⟨⟨safeLive, [7, 2, 15, 255], by decide +kernel⟩,
   ⟨clipLive, [0, 2, 15, 255], (clipPcm clipLive 0).getD [], by decide +kernel⟩,
   ⟨safeLive.wr (R.SAFE_CFG 0) 0x200, [0, 0, 0, 0], by decide +kernel⟩,
   ⟨safeLive.wr (R.SAFE_CFG 0) 0x200, [0, 0, 0, 0], by decide +kernel⟩,
   ⟨{ safeLive with safe.ann := .tone }, [0, 0, 0, 0], by decide +kernel⟩,
   ⟨{ safeLive with safe.ann := .tone, safe.pos := 28800 }, by decide +kernel⟩⟩

theorem witness_PowerStageCommandsComplete :
  (∃ (s : State) (c : Nat) (tt : Nat) (la : Bool) (lb : Bool), actsOn s c = true ∧ latched s c = false ∧
   ((la && outsideBlank (s.pch c) false tt) || (lb && outsideBlank (s.pch c) true tt)) = true) ∧
  (∃ (s : State) (c : Nat), actsOn s c = true ∧ latched s c = false) ∧
  (∃ (s : State) (c : Nat) (g : Nat), actsOn s c = true ∧ latched s c = false ∧ g < 4) ∧
  (∃ (s : State) (c : Nat), actsOn s c = true ∧ latched s c = false) ∧
  (∃ (s : State) (c : Nat), (s.pch c).second ≠ none) ∧
  (∃ (s : State) (a : Agent) (v : Word), reaches a R.PWS_CLR v s = true ∧ wget v 24 8 = 0x5A) ∧
  (∃ (s : State), s.sys.resetting = false) ∧
  (∃ (s : State), s.flag R.CLK_STAT_REFCLK_OK = true ∧ s.flag R.CLK_STAT_AUDPLL_LOCK = true ∧ (s.pws.disRef || s.pws.disPll) = true) ∧
  (∃ (s : State), s.pws.grant = true ∧ s.up islPWS = true) :=
  ⟨⟨pwsLive, 3, 1000, true, true, by decide +kernel⟩,
   ⟨pwsLive, 3, by decide +kernel⟩,
   ⟨pwsLive, 3, 3, by decide +kernel⟩,
   ⟨pwsLive, 3, by decide +kernel⟩,
   ⟨pwsLive.setPch 3 { pwsLive.pch 3 with second := some (true, 3) }, 3, by decide +kernel⟩,
   ⟨pwsLive.set (R.PWS_CH_STAT_LATCHED 3) 1, .host, 0x5A000008, by decide +kernel⟩,
   ⟨live, by decide +kernel⟩,
   ⟨{ (live.set R.CLK_STAT_REFCLK_OK 1).set R.CLK_STAT_AUDPLL_LOCK 1 with pws.disRef := true }, by decide +kernel⟩,
   ⟨{ live with pws.grant := true }, by decide +kernel⟩⟩

theorem witness_CalibrationCommandsComplete :
  (∃ (s : State) (a : Agent) (v : Word), isHost a = true ∧ wget v 24 8 = 0x5A ∧ reaches a R.CAL_TRIM v s = true) ∧
  (∃ (s : State) (a : Agent) (v : Word), isHost a = true ∧ wget v 24 8 = 0xC5 ∧ reaches a R.CAL_TRIM v s = true) ∧
  (∃ (s : State) (c : Nat), audRuns s = true ∧ c < 16 ∧ s.get (R.CAL_CH_STAT_TRIM c) = 1 ∧ 9600 ≤ (s.cch c).silent) ∧
  (∃ (s : State) (c : Nat), audRuns s = true ∧ c < 16 ∧ s.get (R.CAL_CH_STAT_TRIM c) = 2 ∧ 3840 ≤ (s.cch c).n) ∧
  (∃ (s : State) (c : Nat), s.up islAUD = true ∧ c < 16 ∧ (s.cch c).deadline = true ∧
   ((s.get (R.CAL_CH_STAT_TRIM c) = 1 ∨ s.get (R.CAL_CH_STAT_TRIM c) = 2))) ∧
  (∃ (s : State) (c : Nat), audRuns s = true ∧ c < 16 ∧ (s.cch c).ended = true ∧ s.flag R.CAL_CTL_EN = true) ∧
  (∃ (s : State) (c : Nat), audRuns s = true ∧ c < 16) ∧
  (∃ (s : State) (a : Agent) (c : Nat), c < 16 ∧ readable a (R.CAL_CH_SEQ c) s = true) :=
  ⟨⟨live, .host, 0x5A018000, by decide +kernel⟩,
   ⟨live.set (R.CAL_CH_STAT_TRIM 15) 1, .host, 0xC5008000, by decide +kernel⟩,
   ⟨(audLive.set (R.CAL_CH_STAT_TRIM 15) 1).setCch 15 { audLive.cch 15 with silent := 9600 }, 15, by decide +kernel⟩,
   ⟨(audLive.set (R.CAL_CH_STAT_TRIM 15) 2).setCch 15 { audLive.cch 15 with n := 3840, sumI := -983040 }, 15, by decide +kernel⟩,
   ⟨(live.set (R.CAL_CH_STAT_TRIM 15) 1).setCch 15 { live.cch 15 with deadline := true }, 15, by decide +kernel⟩,
   ⟨(audLive.set R.CAL_CTL_EN 1).setCch 15 { audLive.cch 15 with ended := true }, 15, by decide +kernel⟩,
   ⟨audLive, 15, by decide +kernel⟩,
   ⟨live, .host, 15, by decide +kernel⟩⟩

theorem witness_ThermalCommandsComplete :
  (∃ (s : State) (z : Nat), s.sys.resetting = false ∧ z < 4) ∧
  (∃ (s : State) (z : Nat), s.sys.resetting = false ∧ zoneOn s z = true) ∧
  (∃ (s : State) (z : Nat) (d : List Byte) (c : Int), s.sys.resetting = false ∧ 8 ≤ z ∧ z < 12 ∧ zoneOn s z = true ∧
   s.flag R.THM_SBUS_STAT_FAILED = false ∧ sbusDecode s z d = some c) ∧
  (∃ (s : State) (z : Nat), s.sys.resetting = false ∧ 8 ≤ z ∧ z < 12 ∧ zoneOn s z = true ∧ s.flag R.THM_SBUS_STAT_FAILED = false) ∧
  (∃ (s : State), s.sys.resetting = false ∧ s.flag R.THM_SBUS_STAT_FAILED = false) ∧
  (∃ (s : State) (a : Agent) (v : Word), isHost a = true ∧ wget v 24 8 = 0x5A ∧ s.flag R.THM_SBUS_STAT_FAILED = true ∧
   reaches a R.THM_SBUS_CMD v s = true) ∧
  (∃ (s : State), s.sys.resetting = false) ∧
  (∃ (s : State) (f : Nat), s.sys.resetting = false ∧ f < 4 ∧ 2000000000 ≤ s.now ∧ s.flag (R.THM_FAN_CFG_TACHEN f) = true ∧
   s.flag (R.THM_FAN_STAT_STALL f) = false) :=
  ⟨⟨live, 3, by decide +kernel⟩,
   ⟨live, 3, by decide +kernel⟩,
   ⟨(live.set (R.THM_ZCFG_EN 11) 1).set R.THM_SBUS_CFG_PEC 0, 11, [0x80, 0], -2048, by decide +kernel⟩,
   ⟨live.set (R.THM_ZCFG_EN 8) 1, 8, by decide +kernel⟩,
   ⟨live, by decide +kernel⟩,
   ⟨live.set R.THM_SBUS_STAT_FAILED 1, .host, 0x5A000000, by decide +kernel⟩,
   ⟨live, by decide +kernel⟩,
   ⟨{ live.set (R.THM_FAN_CFG_TACHEN 3) 1 with clk.timeFx := 2000000000 * 2 ^ 32 }, 3, by decide +kernel⟩⟩

theorem witness_PairRoleCommandsComplete :
  (∃ (s : State) (a : Agent) (v : Word), wget v 24 8 = 0x5A ∧ wget v 0 2 = 1 ∧ reaches a R.PLY_CMD v s = true ∧ s.role = 1 ∧
   joinPhase s = 0 ∧ plyOwner s = true) ∧
  (∃ (s : State) (a : Agent) (v : Word), wget v 24 8 = 0x5A ∧ wget v 0 2 = 2 ∧ reaches a R.PLY_CMD v s = true) ∧
  (∃ (s : State), s.follower = true) ∧
  (∃ (s : State), s.role ≠ 0 ∧ s.up islPLY = true ∧ aliveRuns s = true) ∧
  (∃ (s : State) (n : Nat), s.role ≠ 0 ∧ s.up islPLY = true ∧ s.flag R.CLK_STAT_PLYPLL_LOCK = true ∧ n ≠ 0) ∧
  (∃ (s : State), s.role ≠ 0 ∧ s.up islPLY = true ∧ s.get R.PLY_STAT_LANES = 2) ∧
  (∃ (s : State), s.role ≠ 0 ∧ s.up islPLY = true ∧ s.get R.PLY_STAT_LANES ≠ 0) ∧
  (∃ (s : State), s.get R.SYS_STRAP_PLYROLE = 2 ∧ s.role ≠ 0 ∧ plyOwner s = true ∧ s.up islPLY = true) ∧
  (∃ (s : State), s.get R.SYS_STRAP_PLYROLE = 2 ∧ 1 ≤ s.stage ∧ s.ply.aliveSeen = false ∧ plyOwner s = false ∧ s.role = 1 ∧
   s.up islPLY = true) ∧
  (∃ (s : State) (h : Bool), s.role ≠ 0 ∧ s.role ≠ 3 ∧ s.up islPLY = true ∧ s.halted = false ∧
   (h || s.flag R.PLY_STAT_ALIVE_IN) = true) ∧
  (∃ (s : State), 2 ≤ s.role ∧ s.ply.verdict = some false) ∧
  (∃ (s : State), s.role ≠ 0 ∧ s.up islPLY = true ∧ joinPhase s = 0 ∧ joinBegins s = true) ∧
  (∃ (s : State), s.role ≠ 0 ∧ s.up islPLY = true ∧ joinPhase s = 1 ∧ s.get R.PLY_STAT_LANES ≠ 0 ∧ plyOwner s = true) ∧
  (∃ (s : State), s.role ≠ 0 ∧ s.up islPLY = true ∧ joinPhase s = 2) ∧
  (∃ (s : State), s.role ≠ 0 ∧ s.up islPLY = true ∧ joinPhase s = 3 ∧ plyOwner s = true) ∧
  (∃ (s : State), s.role ≠ 0 ∧ s.up islPLY = true ∧ joinPhase s = 4 ∧ s.ply.settle = 0) :=
  ⟨⟨((live.set R.SYS_STAGE_STAGE 2).set R.PLY_STAT_ROLE 1).set R.PWS_STAT_OWNER 1, .host, 0x5A000001, by decide +kernel⟩,
   ⟨followerLive, .host, 0x5A000002, by decide +kernel⟩,
   ⟨followerLive, by decide +kernel⟩,
   ⟨{ leaderLive with ply.still := false, pws.disReset := false }, by decide +kernel⟩,
   ⟨((live.set R.SYS_STAGE_STAGE 2).set R.PLY_STAT_ROLE 1).set R.CLK_STAT_PLYPLL_LOCK 1, 2, by decide +kernel⟩,
   ⟨((live.set R.SYS_STAGE_STAGE 2).set R.PLY_STAT_ROLE 1).set R.PLY_STAT_LANES 2, by decide +kernel⟩,
   ⟨((live.set R.SYS_STAGE_STAGE 2).set R.PLY_STAT_ROLE 1).set R.PLY_STAT_LANES 2, by decide +kernel⟩,
   ⟨(followerLive.set R.SYS_STRAP_PLYROLE 2).set R.PWS_STAT_OWNER 1, by decide +kernel⟩,
   ⟨((live.set R.SYS_STAGE_STAGE 2).set R.PLY_STAT_ROLE 1).set R.SYS_STRAP_PLYROLE 2, by decide +kernel⟩,
   ⟨leaderLive, true, by decide +kernel⟩,
   ⟨{ leaderLive with ply.verdict := some false }, by decide +kernel⟩,
   ⟨(live.set R.SYS_STAGE_STAGE 2).set R.PLY_STAT_ROLE 1, by decide +kernel⟩,
   ⟨((((live.set R.SYS_STAGE_STAGE 2).set R.PLY_STAT_ROLE 1).set R.PLY_JOIN_STAT_PHASE 1).set R.PLY_STAT_LANES 2).set R.PWS_STAT_OWNER 1, by decide +kernel⟩,
   ⟨((live.set R.SYS_STAGE_STAGE 2).set R.PLY_STAT_ROLE 1).set R.PLY_JOIN_STAT_PHASE 2, by decide +kernel⟩,
   ⟨(((live.set R.SYS_STAGE_STAGE 2).set R.PLY_STAT_ROLE 1).set R.PLY_JOIN_STAT_PHASE 3).set R.PWS_STAT_OWNER 1, by decide +kernel⟩,
   ⟨((live.set R.SYS_STAGE_STAGE 2).set R.PLY_STAT_ROLE 1).set R.PLY_JOIN_STAT_PHASE 4, by decide +kernel⟩⟩

theorem witness_PairLogCommandsComplete :
  (∃ (s : State), s.role = 1 ∧ s.up islPLY = true ∧ 2 ≤ s.stage ∧ s.ply.hostq = []) ∧
  (∃ (s : State), s.follower = true ∧ s.up islPLY = true) ∧
  (∃ (s : State), s.follower = true ∧ s.up islPLY = true) ∧
  (∃ (s : State), s.follower = true ∧ s.up islPLY = true) ∧
  (∃ (s : State), s.follower = true ∧ s.up islPLY = true) ∧
  (∃ (s : State), s.follower = true ∧ s.up islPLY = true) ∧
  (∃ (s : State), s.follower = true ∧ s.up islPLY = true) ∧
  (∃ (s : State), s.follower = true ∧ s.up islPLY = true ∧ s.ply.asked = false) ∧
  (∃ (s : State) (n : Nat) (d : Nat) (x : Nat) (ds : List (Nat × Nat)), s.follower = true ∧ s.up islPLY = true ∧ s.ply.log = [] ∧
   n = 0 ∧ s.ply.closed = [] ∧ s.ply.hostq = [] ∧ s.ply.digests = (d, x) :: ds) ∧
  (∃ (s : State), s.follower = true) ∧
  (∃ (s : State) (p : Nat), s.follower = true ∧ p < 4) ∧
  (∃ (s : State) (c : Nat), plyOwner s = false ∧ s.role ≠ 0 ∧ c < 16) ∧
  (∃ (s : State) (p : Nat) (l : Nat) (f : Nat), s.follower = true ∧ waitingAdmit s = some (p, l, f) ∧ s.ply.asked = false) ∧
  (∃ (s : State) (l : Nat) (f : Nat) (d : List Byte), s.leader = true ∧ keptFrame s l f = some d) ∧
  (∃ (s : State) (p : Nat) (tc : Nat) (i : Nat) (k : Pkt), s.follower = true ∧ p < 9 ∧ (admQueue s p tc)[i]? = some k) ∧
  (∃ (s : State) (p : Nat) (tc : Nat) (c : Nat) (k : Pkt) (q : List Pkt), s.follower = false ∧ admitOpen s = true ∧ p ≠ 9 ∧
   admQueue s p tc = k :: q ∧ admitCheck s k = .ok c) :=
  ⟨⟨(live.set R.SYS_STAGE_STAGE 2).set R.PLY_STAT_ROLE 1, by decide +kernel⟩,
   ⟨followerLive, by decide +kernel⟩,
   ⟨followerLive, by decide +kernel⟩,
   ⟨followerLive, by decide +kernel⟩,
   ⟨followerLive, by decide +kernel⟩,
   ⟨followerLive, by decide +kernel⟩,
   ⟨followerLive, by decide +kernel⟩,
   ⟨followerLive, by decide +kernel⟩,
   ⟨{ followerLive with ply.digests := [(7, 5)] }, 0, 7, 5, [], by decide +kernel⟩,
   ⟨followerLive, by decide +kernel⟩,
   ⟨followerLive, 3, by decide +kernel⟩,
   ⟨followerLive, 15, by decide +kernel⟩,
   ⟨{ followerLive with ply.closed := [.admitted 1 64 9 [] 0] }, 1, 64, 9, by decide +kernel⟩,
   ⟨{ leaderLive with ply.kept := [(0, 0, false)] }, 1, crc32 [0], [0], by decide +kernel⟩,
   ⟨setAdm 8 7 [aPkt] followerLive, 8, 7, 0, aPkt, by decide +kernel⟩,
   ⟨setAdm 8 7 [aPkt] admitLive, 8, 7, 0, aPkt, [], by decide +kernel⟩⟩

theorem witness_TestCommandsComplete :
  (∃ (s : State) (a : Agent) (v : Word), isHost a = true ∧ wget v 0 3 = 1 ∧ reaches a R.IST_REQ v s = true ∧ 2 ≤ s.stage ∧
   s.ist.reqs.length + s.ist.results.length < 16 ∧ istInval s 1 (wget v 4 8) = false ∧ istNotSvc s 1 (wget v 4 8) = false) ∧
  (∃ (s : State) (a : Agent) (v : Word), isHost a = true ∧ wget v 0 3 = 2 ∧ reaches a R.IST_REQ v s = true ∧ 2 ≤ s.stage ∧
   s.ist.reqs.length + s.ist.results.length < 16 ∧ istInval s 2 (wget v 4 8) = false ∧ istNotSvc s 2 (wget v 4 8) = false) ∧
  (∃ (s : State) (a : Agent) (v : Word), isHost a = true ∧ wget v 0 3 = 3 ∧ reaches a R.IST_REQ v s = true ∧ 2 ≤ s.stage ∧
   s.ist.reqs.length + s.ist.results.length < 16 ∧ istInval s 3 (wget v 4 8) = false ∧ istNotSvc s 3 (wget v 4 8) = false) ∧
  (∃ (s : State) (a : Agent) (v : Word), isHost a = true ∧ wget v 0 3 = 4 ∧ reaches a R.IST_REQ v s = true ∧ 2 ≤ s.stage ∧
   s.ist.reqs.length + s.ist.results.length < 16 ∧ istInval s 4 (wget v 4 8) = false ∧ istNotSvc s 4 (wget v 4 8) = false) ∧
  (∃ (s : State) (a : Agent) (v : Word), isHost a = true ∧ wget v 0 3 = 5 ∧ reaches a R.IST_REQ v s = true ∧ 2 ≤ s.stage ∧
   s.ist.reqs.length + s.ist.results.length < 16 ∧ istInval s 5 (wget v 4 8) = false ∧ istNotSvc s 5 (wget v 4 8) = false) ∧
  (∃ (s : State) (i : Nat) (r : IstReq), s.ist.reqs[i]? = some r ∧ r.due ≤ s.tnow islIST) ∧
  (∃ (s : State) (a : Agent), readable a R.IST_RES s = true) ∧
  (∃ (s : State), istRuns s = true) ∧
  (∃ (s : State) (n : Nat), istRuns s = true ∧ inService s n = true ∧ s.halted = false ∧ bitOf (s.get R.IST_CTL_EN) 1 = true) ∧
  (∃ (s : State) (r : Nat) (i : Nat) (ad : Nat), istRuns s = true ∧ scrubbed s r i ad = true ∧ bitOf (s.get R.IST_CTL_EN) 0 = true) ∧
  (∃ (s : State) (r : Nat) (i : Nat) (ad : Nat), istRuns s = true ∧ scrubbed s r i ad = true ∧ bitOf (s.get R.IST_CTL_EN) 0 = true) ∧
  (∃ (s : State) (i : Nat) (x : Nat) (g : Nat) (u : State), istRuns s = true ∧ s.up islBPM = true ∧ s.halted = false ∧
   s.follower = false ∧ i < 8 ∧ g < bufSegs s i ∧ bitOf (s.get R.IST_CTL_EN) 2 = true ∧ loanBuf i x s = some u) ∧
  (∃ (s : State), istRuns s = true) ∧
  (∃ (s : State), s.up islIST = true ∧ s.get R.IST_BIST_STAT_STATE = 1) :=
  ⟨⟨istLive.setCore 0 { Core.reset with svc := true }, .host, 0x10001, by decide +kernel⟩,
   ⟨istLive.set (R.VNR_PANEL_STAT_STATE 0) 2, .host, 0x10002, by decide +kernel⟩,
   ⟨istLive, .host, 0x10003, by decide +kernel⟩,
   ⟨(istLive.set (R.BPM_POOL_COUNT_N 0) 4).set (R.BPM_POOL_CFG_MODE 0) 1, .host, 0x10004, by decide +kernel⟩,
   ⟨istLive, .host, 0xF005, by decide +kernel⟩,
   ⟨{ live with ist.reqs := [{ kind := 5, target := 0, tag := 1, at_ := 0, due := 0, did := [] }] }, 0, { kind := 5, target := 0, tag := 1, at_ := 0, due := 0, did := [] }, by decide +kernel⟩,
   ⟨{ live with ist.results := [7] }, .host, by decide +kernel⟩,
   ⟨istLive, by decide +kernel⟩,
   ⟨(istLive.setCore 47 { Core.reset with svc := true }).set R.IST_CTL_EN 2, 47, by decide +kernel⟩,
   ⟨istLive.set R.IST_CTL_EN 1, 0, 7, 0xFFFFFF, by decide +kernel⟩,
   ⟨istLive.set R.IST_CTL_EN 1, 1, 0, 8, by decide +kernel⟩,
   ⟨marchLive, 0, 0, 0, (loanBuf 0 0 marchLive).getD live, by decide +kernel⟩,
   ⟨istLive, by decide +kernel⟩,
   ⟨live.set R.IST_BIST_STAT_STATE 1, by decide +kernel⟩⟩

theorem witness_JournalCommandsComplete :
  (∃ (s : State) (a : Agent) (v : Word) (k : Nat), jrnActs a = true ∧ reaches a R.JRN_WCMD v s = true ∧
   s.flag R.JRN_WSTAT_BUSY = false ∧ s.flag R.JRN_STAT_SCANDONE = true ∧ jrnEarly s = false ∧ wget v 0 3 ≠ 0 ∧
   jrnIdOk (wget v 0 3) (wget v 16 16) (wget v 4 9) = true ∧ s.jrn.cur = none ∧ jrnChoose s (wget v 0 3) = some k ∧
   (s.rd R.JRN_SEQ).toNat < 0xFFFFFF00) ∧
  (∃ (s : State) (w : JWrite), s.jrn.cur = some w ∧ w.device = false ∧ s.jrn.next = none ∧ s.jrn.due = []) ∧
  (∃ (s : State), s.up islJRN = true ∧ s.flag R.JRN_STAT_SCANDONE = false ∧ s.jrn.due = []) ∧
  (∃ (s : State) (a : Agent) (v : Word), v.getLsbD 3 = false ∧ reaches a R.JRN_RCMD v s = true ∧ s.flag R.JRN_STAT_SCANDONE = true) ∧
  (∃ (s : State) (a : Agent) (v : Word), v.getLsbD 3 = true ∧ reaches a R.JRN_RCMD v s = true ∧ s.flag R.JRN_STAT_SCANDONE = true ∧
   (jrnParse s.jrn.bad s.jrn.mem (wget v 16 12)).ecc = false) ∧
  (∃ (s : State) (a : Agent) (v : Word), isHost a = true ∧ reaches a R.JRN_SUNLK v s = true ∧ v = 0x5AFE0001) ∧
  (∃ (s : State) (a : Agent) (v : Word) (b : Nat), isHost a = true ∧ reaches a R.JRN_SUNLK v s = true ∧ v = 0x5AFE0002 ∧
   s.flag R.DGN_STAT_UNLOCKED = true ∧ s.jrn.half = some b ∧ s.tnow islJRN ≤ b + 10000000) ∧
  (∃ (s : State), s.flag R.JRN_STAT_SUNLK = true) :=
  ⟨⟨jrnLive, .host, 0x50042, 16, by decide +kernel⟩,
   ⟨{ live with jrn.cur := some { slot := 9, words := [(4608, [1, 2])], device := false } }, { slot := 9, words := [(4608, [1, 2])], device := false }, by decide +kernel⟩,
   ⟨live, by decide +kernel⟩,
   ⟨live.set R.JRN_STAT_SCANDONE 1, .host, 1, by decide +kernel⟩,
   ⟨live.set R.JRN_STAT_SCANDONE 1, .host, 0x0FFF0008, by decide +kernel⟩,
   ⟨live, .host, 0x5AFE0001, by decide +kernel⟩,
   ⟨{ live.set R.DGN_STAT_UNLOCKED 1 with jrn.half := some 0 }, .host, 0x5AFE0002, 0, by decide +kernel⟩,
   ⟨live.set R.JRN_STAT_SUNLK 1, by decide +kernel⟩⟩

theorem witness_CanCommandsComplete :
  (∃ (s : State) (f : CanFrame) (k : Nat), canRuns s 1 = true ∧ ((f.fdf = false ∨ s.flag (R.CAN_CTL_FDOE 1) = true)) ∧
   canFilter s 1 f = some k ∧ (s.can 1).rx.length < 64) ∧
  (∃ (s : State) (n : Nat) (f : CanFrame), canRuns s n = true ∧ ((f.fdf = false ∨ s.flag (R.CAN_CTL_FDOE n) = true))) ∧
  (∃ (s : State) (a : Agent) (n : Nat) (v : Word), n < 2 ∧ canActs a = true ∧ reaches a (R.CAN_TXREQ n) v s = true ∧
   s.follower = false) ∧
  (∃ (s : State) (a : Agent) (n : Nat) (k : Nat) (v : Word), n < 2 ∧ canActs a = true ∧ reaches a (R.CAN_TXABORT n) v s = true ∧
   16 ≤ k) ∧
  (∃ (s : State) (n : Nat) (late : Nat) (b : Nat), canRuns s n = true ∧ s.follower = false ∧ s.get (R.CAN_STAT_STATE n) < 2 ∧
   (n = 1 → s.flag (R.CAN_CTL_MON 1) = false) ∧
   txFirst s n (s.get (R.CAN_TXPEND_BUF n) ^^^ (s.get (R.CAN_TXPEND_BUF n) &&& late)) = some b) ∧
  (∃ (s : State) (a : Agent) (n : Nat) (v : Word), n < 2 ∧ canActs a = true ∧ reaches a (R.CAN_RXPOP n) v s = true) ∧
  (∃ (s : State) (n : Nat), canRuns s n = true ∧ s.get (R.CAN_STAT_STATE n) ≠ 2) ∧
  (∃ (s : State) (a : Agent) (v : Word), v.getLsbD 4 = true ∧ v.getLsbD 0 = true ∧ canActs a = true ∧
   reaches a (R.CAN_CTL 1) v s = true ∧ s.flag (R.CAN_CTL_EN 1) = true ∧ s.get (R.CAN_STAT_STATE 1) = 2) ∧
  (∃ (s : State) (n : Nat), canRuns s n = true ∧ s.get (R.CAN_STAT_STATE n) = 2 ∧ (s.can n).recovering = true) ∧
  (∃ (s : State) (n : Nat), n < 2 ∧ s.up islSAFE = true ∧ s.stage ≠ 0) :=
  ⟨⟨canLive.set (R.CAN_FLT_ID_EN 1 31) 1, aFrame, 31, by decide +kernel⟩,
   ⟨canLive, 0, aFrame, by decide +kernel⟩,
   ⟨canLive, .host, 1, 0x8001, by decide +kernel⟩,
   ⟨canLive.set (R.CAN_TXPEND_BUF 1) 3, .host, 1, 16, 0xFFFF, by decide +kernel⟩,
   ⟨(canLive.set (R.CAN_TXPEND_BUF 1) 0x8000).set (R.CAN_STAT_STATE 1) 0, 1, 1, 15, by decide +kernel⟩,
   ⟨canLive.setCan 1 { canLive.can 1 with rx := [[1], [2]] }, .host, 1, 0, by decide +kernel⟩,
   ⟨canLive, 1, by decide +kernel⟩,
   ⟨canLive.set (R.CAN_STAT_STATE 1) 2, .host, 0x11, by decide +kernel⟩,
   ⟨(canLive.set (R.CAN_STAT_STATE 1) 2).setCan 1 { canLive.can 1 with recovering := true }, 1, by decide +kernel⟩,
   ⟨canLive, 1, by decide +kernel⟩⟩

theorem witness_ServiceAccessCommandsComplete :
  (∃ (s : State) (n : Nat), n < 96 ∧ s.flag ⟨R.DGN_SNAP_EN (n / 32), n % 32, 1⟩ = true) ∧
  (∃ (s : State) (a : Agent) (v : Word), reaches a R.DGN_SNAP_POP v s = true) ∧
  (∃ (s : State) (a : Agent) (v : Word) (k : Nat) (g : Nat), reaches a R.DGN_LC_CMD v s = true ∧ isHost a = true ∧
   wget v 24 8 = 0x5A ∧ lcNext s.held.lc = some (k, g) ∧ wget v 0 2 = k ∧ (k = 1 → svcKeyBlank s = false) ∧
   (k = 2 → s.flag R.DGN_STAT_UNLOCKED = true) ∧ burning s = false ∧ earlyWarn s = false) ∧
  (∃ (s : State) (a : Agent) (v : Word) (m : Word), reaches a R.DGN_FPROG_CMD v s = true ∧ isHost a = true ∧ wget v 24 8 = 0x5A ∧
   s.held.lc = 0 ∧ burning s = false ∧ earlyWarn s = false ∧ fuseMask (s.get R.DGN_FPROG_SEL_SEL) = some m) ∧
  (∃ (s : State) (g : Nat), s.burn = .lc g) ∧
  (∃ (s : State) (c : Nat) (w : Word), s.burn = .prog c w) ∧
  (∃ (s : State) (a : Agent) (v : Word), reaches a R.DGN_UNLK_CMD v s = true ∧ unlkActs a = true ∧ wget v 24 8 = 0x5A ∧
   wget v 0 2 = 1 ∧ s.dgn.wait = false) ∧
  (∃ (s : State) (a : Agent) (v : Word), reaches a R.DGN_UNLK_CMD v s = true ∧ unlkActs a = true ∧ wget v 24 8 = 0x5A ∧
   wget v 0 2 = 2) ∧
  (∃ (s : State) (a : Agent) (v : Word), reaches a R.DGN_UNLK_CMD v s = true ∧ unlkActs a = true ∧ wget v 24 8 = 0x5A ∧
   wget v 0 2 = 3) ∧
  (∃ (s : State), s.flag R.DGN_STAT_UNLOCKED = true) ∧
  (∃ (s : State), s.dgn.chal = .live) ∧
  (∃ (s : State), s.dgn.wait = true) :=
  ⟨⟨live.set ⟨R.DGN_SNAP_EN 2, 31, 1⟩ 1, 95, by decide +kernel⟩,
   ⟨{ live with dgn.snaps := [[1], [2]] }, .host, 1, by decide +kernel⟩,
   ⟨({ live with held.lc := 1 }).set R.DGN_STAT_UNLOCKED 1, .host, 0x5A000002, 2, 3, by decide +kernel⟩,
   ⟨(({ live with held.lc := 0 }).wr R.DGN_FPROG_SEL 13).wr R.DGN_FPROG_DATA 0xFFFFFFFF, .host, 0x5A000000, 0x7FF, by decide +kernel⟩,
   ⟨{ live with burn := .lc 3 }, 3, by decide +kernel⟩,
   ⟨{ live with burn := .prog 13 5 }, 13, 5, by decide +kernel⟩,
   ⟨live, .host, 0x5A000001, by decide +kernel⟩,
   ⟨live, .host, 0x5A000002, by decide +kernel⟩,
   ⟨live.set R.DGN_STAT_UNLOCKED 1, .host, 0x5A000003, by decide +kernel⟩,
   ⟨live.set R.DGN_STAT_UNLOCKED 1, by decide +kernel⟩,
   ⟨{ live with dgn.chal := .live }, by decide +kernel⟩,
   ⟨{ live with dgn.wait := true }, by decide +kernel⟩⟩

theorem witness_TapCommandsComplete :
  (∃ (s : State), tapRuns s = true) ∧
  (∃ (s : State), tapRuns s = true) ∧
  (∃ (s : State), tapRuns s = true) ∧
  (∃ (s : State), tapRuns s = true) ∧
  (∃ (s : State), tapRuns s = true) ∧
  (∃ (s : State), tapRuns s = true) ∧
  (∃ (s : State), tapRuns s = true) ∧
  (∃ (s : State), tapRuns s = true) ∧
  (∃ (s : State), tapRuns s = true) ∧
  (∃ (s : State), tapRuns s = true ∧ s.tap.ir = 0x20 ∧ s.sys.resetting = false ∧ s.flag R.DGN_STAT_DBGOPEN = true) :=
  ⟨⟨tapLive, by decide +kernel⟩,
   ⟨tapLive, by decide +kernel⟩,
   ⟨tapLive, by decide +kernel⟩,
   ⟨tapLive, by decide +kernel⟩,
   ⟨tapLive, by decide +kernel⟩,
   ⟨tapLive, by decide +kernel⟩,
   ⟨tapLive, by decide +kernel⟩,
   ⟨tapLive, by decide +kernel⟩,
   ⟨tapLive, by decide +kernel⟩,
   ⟨{ tapLive.set R.DGN_STAT_DBGOPEN 1 with tap.ir := 0x20 }, by decide +kernel⟩⟩

theorem witness_SupplyCommandsComplete :
  (∃ (s : State) (i : Nat) (mv : Nat), i < 16 ∧ railOk s i = true ∧ mv < (railRange s i).1) ∧
  (∃ (s : State) (i : Nat) (mv : Nat), i < 16 ∧ i ≠ 2 ∧ i ≠ 5 ∧ s.sys.resetting = false ∧ mv < (railRange s i).2.2 ∧
   bitOf s.sys.railSeen i = true) ∧
  (∃ (s : State) (i : Nat) (mv : Nat), i < 16 ∧ (railRange s i).1 ≤ mv ∧ mv ≤ (railRange s i).2.1) ∧
  (∃ (s : State) (vio : Bool), s.sys.resetting = false ∧ (vio || ewVbat s) = true) ∧
  (∃ (s : State), s.sys.resetting = false ∧ earlyWarn s = true ∧ ewVbat s = false ∧ s.jrn.due = []) :=
  ⟨⟨live.wr R.SUP_RAIL 0xFFFF, 15, 0, by decide +kernel⟩,
   ⟨live, 15, 0, by decide +kernel⟩,
   ⟨live, 15, (railRange live 15).1, by decide +kernel⟩,
   ⟨live, true, by decide +kernel⟩,
   ⟨live.set R.SUP_EWSTAT_EW 1, by decide +kernel⟩⟩

theorem witness_StepRunsTheFrontCommand :
  (∃ (s : State) (c : Instr) (q : List Instr), s.pending = c :: q) ∧
  (∃ (s : State), s.pending = []) :=
  ⟨⟨live.withPending [.timeBroadcast [], .idcode], .timeBroadcast [], [.idcode], by decide +kernel⟩,
   ⟨live, by decide +kernel⟩⟩

theorem witness_ResetIsSound :
  (∃ (s : State), s = State.reset) ∧
  (∃ (s : State), s.sys.resetting = true ∧ s.sys.boardTest = false ∧ railOk s 8 = true ∧ railOk s 7 = true) :=
  ⟨⟨State.reset, by decide +kernel⟩,
   ⟨State.reset.wr R.SUP_RAIL 0xFFFF, by decide +kernel⟩⟩

theorem witness_StepKeepsSound :
  (∃ (s : State), s.sound = true ∧ goesOn (step s) = true) :=
  ⟨live.withPending [.idcode], by decide +kernel⟩

theorem witness_NarrowWritesAreIgnored :
  (∃ (be : Nat) (nx : Option (Nat × Word)), be ≠ 15 ∧ (∀ e, nx = some e → e.1 ≠ 15)) :=
  ⟨7, some (3, 7), by decide +kernel⟩

theorem witness_ReservedBitWritesStayInTheBlock :
  (∃ (s : State) (a : Agent) (off : Nat) (v : Word), off % 4 = 0 ∧ lands a off v s = true ∧ reservedBits off v = true) :=
  ⟨live, .host, 0x20008, 0x80, by decide +kernel⟩

theorem witness_W1cWritesClearCauses :
  (∃ (s : State) (a : Agent) (off : Nat) (v : Word) (c : RegSpec), off % 4 = 0 ∧ lands a off v s = true ∧
   reservedBits off v = false ∧ regSpec off = some c ∧ c.w1c ≠ 0) :=
  ⟨live.wr 0x20004 0x55, .host, 0x20004, 5, (regSpec 0x20004).getD default0, by decide +kernel⟩

theorem witness_OnlyTheHostCommandsPowerAndStage :
  (∃ (a : Agent) (c : Nat), isHost a = false ∧ c < 16) :=
  ⟨.thread 3 1, 15, by decide +kernel⟩

theorem witness_BusyTablesIgnoreWrites :
  (∃ (s : State) (a : Agent) (off : Nat) (v : Word),
   (off = R.FWD_CMD ∨ off = R.FWD_ADDR ∨ off = R.FWD_STAGE_BE_LO ∨ off = R.FWD_STAGE_BE_HI ∨ ∃ k : Fin 16, off = R.FWD_STAGE k.val) ∧
   reaches a off v s = true ∧ s.flag R.FWD_CSTAT_BUSY = true) ∧
  (∃ (s : State) (a : Agent), reaches a R.FWD_CMD 5 s = true ∧ s.flag R.FWD_CSTAT_BUSY = true) ∧
  (∃ (s : State) (a : Agent) (off : Nat) (v : Word), (off = R.PRS_RCMD ∨ ∃ k : Fin 36, off = R.PRS_STAGE k.val) ∧
   reaches a off v s = true ∧ s.flag R.PRS_RSTAT_BUSY = true) :=
  ⟨⟨live.set R.FWD_CSTAT_BUSY 1, .host, R.FWD_STAGE_BE_LO, 5, by decide +kernel⟩,
   ⟨live.set R.FWD_CSTAT_BUSY 1, .host, by decide +kernel⟩,
   ⟨live.set R.PRS_RSTAT_BUSY 1, .thread 0 0, R.PRS_STAGE 35, 5, by decide +kernel⟩⟩

theorem witness_LockReadAcquires :
  (∃ (s : State) (a : Agent) (n : Nat), n < 512 ∧ s.bar0 = true ∧ s.up islBPM = true ∧ decodes a s = true ∧ s.follower = false ∧
   (s.lock n).held = false) ∧
  (∃ (s : State) (a : Agent) (n : Nat), n < 512 ∧ s.bar0 = true ∧ s.up islBPM = true ∧ decodes a s = true ∧ s.follower = false ∧
   (s.lock n).held = true) ∧
  (∃ (s : State) (a : Agent) (b : Agent) (n : Nat), n < 512 ∧ s.bar0 = true ∧ s.up islBPM = true ∧ decodes a s = true ∧
   s.follower = false ∧ decodes b s = true ∧ agentId a ≠ agentId b ∧ (s.lock n).held = false) :=
  ⟨⟨live, .host, 511, by decide +kernel⟩,
   ⟨live.setLock 3 { held := true, owner := 5, waiters := [], told := false }, .host, 3, by decide +kernel⟩,
   ⟨live, .host, .thread 2 1, 0, by decide +kernel⟩⟩

theorem witness_LatchesOutlastStageAndFaultEvents :
  (∃ (s : State) (i : Instr) (c : Nat), i.wf = true ∧ c < 16 ∧ latchKeeper i = true ∧ s.flag (R.PWS_CH_STAT_LATCHED c) = true ∧
   goesOn (exec i s) = true) :=
  ⟨live.set (R.PWS_CH_STAT_LATCHED 3) 1, .hocAssert 4 0 0, 3, by decide +kernel⟩

theorem witness_WhorlFailedConditionsSkip :
  (∃ (s : State) (c : Instr) (tid : Nat) (r : Row) (i : Insn) (code : List Byte) (cc : Nat), wordRow c = some (tid, r) ∧
   ready s tid i code = true ∧ rowIs r i = true ∧ i.cond = some cc ∧ condHolds cc (s.thread tid).flags = false) :=
  ⟨wState 0 false [0xF8, 2, 0x35], .mov 0, 0, .op .mov, insnOf false [0xF8, 2, 0x35], [0xF8, 2, 0x35], 0, by decide +kernel⟩

theorem witness_ClockStartAndSupplyFrames :
  (∃ (s : State) (i : Instr), i.wf = true ∧ clockCommand i = true ∧ goesOn (exec i s) = true) ∧
  (∃ (s : State) (missed : List Nat), goesOn (exec (.timeBroadcast missed) s) = true) ∧
  (∃ (s : State) (i : Instr), i.wf = true ∧ unclampCommand i = true ∧ goesOn (exec i s) = true) ∧
  (∃ (s : State) (i : Instr), i.wf = true ∧ fuseCommand i = true ∧ goesOn (exec i s) = true) ∧
  (∃ (s : State) (i : Instr), i.wf = true ∧ supplyCommand i = true ∧ goesOn (exec i s) = true) :=
  ⟨⟨live, .slowClear 3, by decide +kernel⟩,
   ⟨live, [3], by decide +kernel⟩,
   ⟨live, .unclampOutputs .host, by decide +kernel⟩,
   ⟨live, .keyprogBurn .host 0xA5, by decide +kernel⟩,
   ⟨live, .railInRange 3 900, by decide +kernel⟩⟩

theorem witness_PortPanelAndParserFrames :
  (∃ (s : State) (i : Instr), i.wf = true ∧ mdioCommand i = true ∧ goesOn (exec i s) = true) ∧
  (∃ (s : State) (i : Instr), i.wf = true ∧ portCommand i = true ∧ goesOn (exec i s) = true) ∧
  (∃ (s : State) (i : Instr), i.wf = true ∧ panelCommand i = true ∧ goesOn (exec i s) = true) ∧
  (∃ (s : State) (i : Instr), i.wf = true ∧ ruleCommand i = true ∧ goesOn (exec i s) = true) :=
  ⟨⟨live, .mdioC22Read .host 0x1001, by decide +kernel⟩,
   ⟨live, .linkUp 3 2, by decide +kernel⟩,
   ⟨live, .userNotice 2, by decide +kernel⟩,
   ⟨live, .groupEnableWrite .host 3, by decide +kernel⟩⟩

theorem witness_BufferLockAndThreadFrames :
  (∃ (s : State) (i : Instr), i.wf = true ∧ poolCommand i = true ∧ goesOn (exec i s) = true) ∧
  (∃ (s : State) (i : Instr), i.wf = true ∧ lockCommand i = true ∧ goesOn (exec i s) = true) ∧
  (∃ (s : State) (i : Instr), i.wf = true ∧ yarnCommand i = true ∧ goesOn (exec i s) = true) ∧
  (∃ (s : State) (i : Instr), i.wf = true ∧ threadCommand i = true ∧ goesOn (exec i s) = true) ∧
  (∃ (s : State) (i : Instr), i.wf = true ∧ pairCommand i = true ∧ goesOn (exec i s) = true) ∧
  (∃ (s : State) (i : Instr), i.wf = true ∧ tapCommand i = true ∧ goesOn (exec i s) = true) :=
  ⟨⟨live, .bufferRequest 0 64 false, by decide +kernel⟩,
   ⟨live, .lockRead .host 5 [], by decide +kernel⟩,
   ⟨live, .yarnLimitWrite .host 7 2, by decide +kernel⟩,
   ⟨live, .threadSignal .host 9, by decide +kernel⟩,
   ⟨live, .plyLinkUp 2, by decide +kernel⟩,
   ⟨live, .idcode, by decide +kernel⟩⟩

theorem witness_TableRingAndNoticeFrames :
  (∃ (s : State) (i : Instr), i.wf = true ∧ tableCommand i = true ∧ goesOn (exec i s) = true) ∧
  (∃ (s : State) (i : Instr), i.wf = true ∧ ringCommand i = true ∧ goesOn (exec i s) = true) ∧
  (∃ (s : State) (i : Instr), i.wf = true ∧ noticeCommand i = true ∧ goesOn (exec i s) = true) :=
  ⟨⟨live, .auditSweepStart, by decide +kernel⟩,
   ⟨live, .xspiGo .host 0, by decide +kernel⟩,
   ⟨live, .routeEnableWrite .host 3 1, by decide +kernel⟩⟩

theorem witness_AudioSafeAndStageFrames :
  (∃ (s : State) (i : Instr), i.wf = true ∧ audioCommand i = true ∧ goesOn (exec i s) = true) ∧
  (∃ (s : State) (i : Instr), i.wf = true ∧ announceCommand i = true ∧ goesOn (exec i s) = true) ∧
  (∃ (s : State) (i : Instr), i.wf = true ∧ stageCommand i = true ∧ goesOn (exec i s) = true) :=
  ⟨⟨live, .fabricEdgeWord 3 (some 7), by decide +kernel⟩,
   ⟨live, .announcementEnd, by decide +kernel⟩,
   ⟨live, .hocAssert 3 0 0, by decide +kernel⟩⟩

theorem witness_CalibrationChangesNothingElse :
  (∃ (s : State) (i : Instr), i.wf = true ∧ calCommand i = true ∧ goesOn (exec i s) = true) :=
  ⟨live, .trimRequest .host 2, by decide +kernel⟩

theorem witness_TestJournalAndServiceFrames :
  (∃ (s : State) (i : Instr), i.wf = true ∧ thermalCommand i = true ∧ goesOn (exec i s) = true) ∧
  (∃ (s : State) (i : Instr), i.wf = true ∧ testCommand i = true ∧ goesOn (exec i s) = true) ∧
  (∃ (s : State) (i : Instr), i.wf = true ∧ journalCommand i = true ∧ goesOn (exec i s) = true) ∧
  (∃ (s : State) (i : Instr), i.wf = true ∧ canCommand i = true ∧ goesOn (exec i s) = true) :=
  ⟨⟨live, .fanUpdate [], by decide +kernel⟩,
   ⟨live, .istResultRead .host, by decide +kernel⟩,
   ⟨live, .earlyWarning false, by decide +kernel⟩,
   ⟨live, .canBusOff 1, by decide +kernel⟩⟩

/-- Commands that break one check each: an agent, an offset, an index or a frame out of its range. -/
theorem test_illFormed_refused_1 :
  ([.registerWrite (.thread 48 0) 0 0 0 none, .registerWrite (.thread 0 8) 0 0 0 none, .registerWrite (.panel 8 0) 0 0 0 none,
   .registerWrite (.panel 0 4) 0 0 0 none, .registerWrite .host (2 ^ 40) 0 0 none, .registerWrite .host 0 16 0 none,
   .registerWrite .host 2 15 0 none, .registerWrite .host 0 15 0 (some (16, 0)), .splitLoRead (.panel 8 0) 0 false,
   .splitLoRead .host (2 ^ 40) false, .hostBar2Write (2 ^ 40) [], .linkDownFlush 9, .egressStallFlush 9 0,
   .egressStallFlush 0 8, .weftFlitReceive 142 false .none, .oscStop 77, .pllLock 4, .slowThresholdCross 48 0,
   .timeRateWrite (.panel 8 0) 0, .resetEnd 16 0 false, .handover 16, .powerFull (.panel 8 0) false 0, .powerFull .host false 256,
   .reserveRewriteDone 8 0] : List Instr).all (fun i => !i.wf) = true := by decide +kernel

/-- Commands that break one check each: an agent, an offset, an index or a frame out of its range. -/
theorem test_illFormed_refused_2 :
  ([.panelRequest 8 0 ⟨.host, false, 0, 0⟩, .panelRequest 0 4 ⟨.host, false, 0, 0⟩, .panelRequest 0 0 ⟨.panel 8 0, false, 0, 0⟩,
   .panelRequest 0 0 ⟨.host, false, 0x100000, 0⟩, .panelResponse 8 0 0, .panelResponse 0 4 0, .bramEccError 8 0 false false,
   .bramEccError 0 65536 false false, .borderResponse 0 4, .readbackPassDone 8 0 0, .admissionHoldTimeout 9 0,
   .admissionHoldTimeout 0 8, .txtsTagRead (.panel 8 0) 0, .txtsTagRead .host 9, .streamGateChange .host 63 0, .gateEntryAdvance 72,
   .fpVerifyDone 2 false, .recoveryResetTimeout 1024, .bufferRequest 50 0 false, .cacheRefillDone 8, .lockRead .host 512 [],
   .lockRead .host 0 [.thread 48 0], .lockHoldTimeout 512, .packetAdmit 10 0] : List Instr).all (fun i => !i.wf) = true := by decide +kernel

/-- Commands that break one check each: an agent, an offset, an index or a frame out of its range. -/
theorem test_illFormed_refused_3 :
  ([.taskDispatch 48 0, .taskDispatch 0 8, .taskSteal 4096 0, .yarnLimitWrite .host 4096 0, .watchdogExpiry 384,
   .threadStop (.panel 8 0) 0 0, .threadStop .host 384 0, .localMemoryWindowWrite .host 48 0 15 0,
   .localMemoryWindowWrite .host 0 65536 15 0, .localMemoryWindowWrite .host 0 0 16 0, .mov 384, .agerVisit 32768,
   .sqDoorbell .host 1024 0, .descriptorFetch 1024, .noticeSourceRead .host 96, .wposWrite .host 16 0, .listenerSeen .host 32,
   .listenerTimeout 32, .captureWposRead .host 16, .talkerEnable .host 8] : List Instr).all (fun i => !i.wf) = true := by decide +kernel

/-- Commands that break one check each: an agent, an offset, an index or a frame out of its range. -/
theorem test_illFormed_refused_4 :
  ([.tdmFrame 4 0 [], .gateMismatch 16 0 0 0, .gateMismatch 0 4 0 0, .zoneReading 8 .failed, .sbusRead 7 none, .sbusRead 12 none,
   .fanStall 4, .logAdmit 10 0 0 [] 0, .logClose 4096 0 0 0 0 false, .marchSegment 8 0 0 none, .canFrameReceive 2 aFrame 0 false,
   .canFrameReceive 0 { aFrame with dlc := 16 } 0 false, .canFrameReceive 0 { aFrame with id := 2048 } 0 false,
   .canFrameReceive 0 { aFrame with data := List.replicate 9 0 } 0 false, .canTxRequest .host 2 0, .canTxDone 2 0 .ok,
   .snapshotCapture 96, .railLow 16 0, .plyLinkUp 3] : List Instr).all (fun i => !i.wf) = true := by decide +kernel

/-- The state after reset is sound, and every waiting command of a sound state is well-formed. -/
theorem test_illFormed_queue_unsound : (live.withPending [.slowClear 48]).sound = false := by decide +kernel

/-! Single steps and worked examples of spec/. -/

/-- 00_scope.md, worked example of R22: 0x104 with 0x4 written reads 0x100; a recurring event keeps bit 2. -/
theorem test_w1c_example :
    (match execW1cWrite .host R.SUP_NSTAT 15 4 0 (live.wr R.SUP_NSTAT 0x104) with
      | .next t => t.rd R.SUP_NSTAT | _ => 0) = 0x100 ∧
    (match execW1cWrite .host R.SUP_NSTAT 15 4 4 (live.wr R.SUP_NSTAT 0x104) with
      | .next t => t.rd R.SUP_NSTAT | _ => 0) = 0x104 := by decide +kernel

/-- 01_device_overview.md, worked example: the windows of core 37 and of panel 5. -/
theorem test_window_example :
    blockIsland 0xCA0000 = some (islWHL 37) ∧ blockIsland 0xCBFFFC = some (islWHL 37) ∧ blockIsland 0x1500000 = some (islMQY 5) ∧
    blockIsland 0x15FFFFC = some (islMQY 5) := by decide +kernel

/-- 03_islands_and_weft.md, worked example of R104 and R105: 100,502 is written as the rate and 350 ns slew at 1 ns each microsecond. -/
theorem test_slew_example :
    (match execTimeRateWrite .host 0x18896 live with
      | .next t => (match execTimeSlewWrite .host 350 t with
        | .next u => (match execTimeBroadcast [] u with
          | .next x => decide (x.clk.slewFx ≤ 349 * 2 ^ 32 ∧ 349 * 2 ^ 32 - 2 ^ 18 ≤ x.clk.slewFx ∧ x.now = u.now + 1001)
          | _ => false) | _ => false) | _ => false) = true := by decide +kernel

/-- 21_thermal_fans.md, worked example: code 1,000 reads 919; readings of 57.4375 and 82 degrees demand 232 and 580. -/
theorem test_ntc_example :
    ntcTemp 1000 10000 10000 3435 = some 919 ∧ demandAt live 5 919 = 232 ∧ demandAt live 0 (82 * 16) = 580 := by decide +kernel

/-- 23_in_service_test.md, worked example: a starved request of core 9. -/
theorem test_starved_example : BitVec.ofNat 32 (istWord 0 1 9 3) = (0x80030910 : Word) := by decide +kernel

/-- 24_journal_memory.md, worked example: the commit bytes of SEQ 0x1A30. -/
theorem test_commit_example : leNat (jrnCommit 0x1A30) = 0xFFFFE5CF4A52434D := by decide +kernel

/-- A write of 1 to a reserved bit of CLK_NEN has an outcome confined to the block; a thread's write of a power-state command is
ignored (00_scope.md R25; 05_power_states.md R171). -/
theorem test_reserved_and_host_only :
    execRegisterWrite .host R.CLK_NEN 15 0x80 live = .next (unpredBlock R.CLK_NEN live) ∧
    execPowerReset (.thread 0 0) 0x5A live = .next live := ⟨rfl, rfl⟩

/-- A host transaction over two registers writes the lower, then the upper (00_scope.md R14). -/
theorem test_wide_write :
    (match execRegisterWrite .host R.CLK_HOLD_TO 15 0x100 live (some (15, 0x200)) with
      | .next t => decide (t.rd R.CLK_HOLD_TO = 0x100 ∧ t.rd (R.CLK_HOLD_TO + 4) = inForce (R.CLK_HOLD_TO + 4) 0x200)
      | _ => false) = true := by decide +kernel

/-- Held in reset, the gate drivers are off and pulled low and the fans run at full speed (04_staged_start.md R120). -/
theorem test_reset_balls :
    let s := State.reset.wr R.SUP_RAIL 0xFFFF
    ballState s (.gd 63) = .off ∧ ballPull s (.gd 63) = .down ∧ ballState s (.fanPwm 0) = .off ∧ ballPull s (.fanPwm 0) = .up := by
  decide +kernel

/-- A low half is held for its agent alone and takes effect with the high half (00_scope.md R16). -/
theorem test_split_pair :
    (match execSplitLoWrite .host R.FWD_STAGE_BE_LO 15 0x1234 live with
      | .next t => (match execSplitHiWrite .host R.FWD_STAGE_BE_HI 15 5 t, execSplitHiWrite .debug R.FWD_STAGE_BE_HI 15 5 t with
        | .next u, .next d => decide (t.rd R.FWD_STAGE_BE_LO = live.rd R.FWD_STAGE_BE_LO ∧ u.rd R.FWD_STAGE_BE_LO = 0x1234 ∧
            d.rd R.FWD_STAGE_BE_LO = live.rd R.FWD_STAGE_BE_LO ∧ d.rd R.FWD_STAGE_BE_HI = 5)
        | _, _ => false) | _ => false) = true := by decide +kernel

/-- A free lock goes to the lowest agent that reads it in one cycle, whatever the order (10_buffers_and_locks.md R390). -/
theorem test_lock_lowest_agent :
    (match execLockRead .host 5 [.thread 2 1] live with
      | .next t => decide ((t.lock 5).owner = 17 ∧ mget (fun _ => 0) t.resp 17 = 1 ∧ mget (fun _ => 0) t.resp 0x200 = 0)
      | _ => false) = true := by decide +kernel

/-- A thread about to add registers of 0xFFFFFFFF and 1 with flags. -/
def addState : State :=
  (wState 0 false [0xF4, 0x10, 0x35, 0x60]).setThread 0
    ((((wState 0 false [0xF4, 0x10, 0x35, 0x60]).thread 0).setReg 5 0xFFFFFFFF).setReg 6 1)

/-- An addition wraps, with carry and zero; g0 keeps reading 0 (13_whorl_isa_model.md R476, 14_whorl_isa_catalogue.md R523). -/
theorem test_add_wraps :
    (match execAdd 0 addState with
      | .next t => decide ((t.thread 0).reg 3 = 0 ∧ (t.thread 0).flags = ⟨false, true, true, false⟩ ∧ (t.thread 0).reg 0 = 0)
      | _ => false) = true := by decide +kernel

/-- A step takes the command in front and leaves the rest waiting. -/
theorem test_step_takes_front :
    (match step (live.withPending [.slowClear 3, .idcode]) with
      | .next t => decide (t.pending = [.idcode]) | _ => false) = true := by decide +kernel

end Sys2Proof.Tests
end

section
/-!
SUPPORT. The scope rules of register accesses (00_scope.md): what a write or a read that finds its register does by access code alone, what
a pair of halves holds, and what the outcome of a 1 in a reserved bit leaves as it was; and from these the statements on register commands
(O1), narrow writes (O45), reserved bits (O46) and write-one-to-clear writes (O47).
-/
namespace Sys2Proof.Machine

/-! Writes that have their effect (00_scope.md R13, R18; Laws/Reach.lean says it of `access`). -/

/-- A write with fewer than four byte enables or off a word boundary changes nothing. -/
theorem wordWrite_ignored {off be : Nat} (h : be ≠ 15 ∨ off % 4 ≠ 0) (a : Agent) (v : Word) (s : State) :
    wordWrite a off be v s = .next s := if_pos h

theorem wordWrite_whole {off : Nat} (h : off % 4 = 0) (a : Agent) (v : Word) (s : State) :
    wordWrite a off 15 v s = busWrite a off v s := if_neg (by omega)

theorem busWrite_reaches {a : Agent} {o : Nat} {v : Word} {s : State} (h4 : o % 4 = 0) (ho : o < 0x1000000)
    (h : reaches a o v s = true) : busWrite a o v s = blockWrite a o v s := by
  have hw : o / 4 * 4 = o := by omega
  have hp : ¬ (0x1000000 ≤ o ∧ o < 0x1800000) := by omega
  have hs : ¬ (0x1000000 ≤ o ∧ o < 0x1800000 ∧ (s.panel ((o - 0x1000000) / 0x100000)).stall) := by omega
  rw [busWrite, hw, if_neg hs, access_reaches h, anyWrite, if_neg hp]

/-- A write that lands with a 1 in a reserved bit has the outcome of R25. -/
theorem busWrite_reserved {a : Agent} {o : Nat} {v : Word} {s : State} (h4 : o % 4 = 0) (h : lands a o v s = true)
    (hr : reservedBits o v = true) : busWrite a o v s = .next (unpredBlock o s) := by
  simp only [lands, Bool.and_eq_true, Bool.not_eq_true'] at h
  obtain ⟨⟨⟨⟨⟨⟨hd, hb⟩, hu⟩, hw⟩, hm⟩, ha⟩, hs⟩ := h
  have ho : o / 4 * 4 = o := by omega
  have hp : ¬ (0x1000000 ≤ o ∧ o < 0x1800000 ∧ (s.panel ((o - 0x1000000) / 0x100000)).stall) := by
    rintro ⟨h1, -, h2⟩
    simp [h1, h2] at hs
  rw [busWrite, ho, if_neg hp]
  simp only [access, blockAct, hd, hb, hu, hw, hm, ha, hr, Bool.not_true, Bool.or_self, Bool.false_eq_true, if_false, if_true]

theorem reserved_of_reaches {a : Agent} {o : Nat} {v : Word} {s : State} (h : reaches a o v s = true) : reservedBits o v = false := by
  simp only [reaches, Bool.and_eq_true, Bool.not_eq_true'] at h
  exact h.2

/-- BAR0 answers a write that has its effect, and the block has power. -/
theorem answers_of_reaches {a : Agent} {o : Nat} {v : Word} {s : State} (h : reaches a o v s = true) :
    s.bar0 = true ∧ blockUp s o = true := by
  simp only [reaches, Bool.and_eq_true] at h
  obtain ⟨⟨⟨⟨⟨⟨-, hb⟩, hu⟩, -⟩, -⟩, -⟩, -⟩ := h
  exact ⟨hb, hu⟩

theorem answers_of_readable {a : Agent} {o : Nat} {s : State} (h : readable a o s = true) : s.bar0 = true ∧ blockUp s o = true := by
  simp only [readable, Bool.and_eq_true] at h
  obtain ⟨⟨⟨⟨-, hb⟩, hu⟩, -⟩, -⟩ := h
  exact ⟨hb, hu⟩

theorem busRead_readable {a : Agent} {o : Nat} {s : State} (h4 : o % 4 = 0) (ho : o < 0x1000000) (h : readable a o s = true) :
    busRead a o s = .next (readDone a o (blockRead a o s)) := by
  have hw : o / 4 * 4 = o := by omega
  have hp : ¬ (0x1000000 ≤ o ∧ o < 0x1800000) := by omega
  rw [busRead, hw, if_neg hp, readRow_readable h]

/-! What BAR0 and a block's power rest on. -/

theorem State.bar0_wr {o : Nat} (h : o ≠ R.SYS_PSTATE) (s : State) (v : Word) : (s.wr o v).bar0 = s.bar0 := by
  unfold State.bar0 State.pstate
  rw [State.get_wr_ne _ _ _ _ h.symm, State.sys_wr]

theorem State.powered_wr {o i : Nat} (h : o ≠ R.CLK_ISL i) (s : State) (v : Word) : (s.wr o v).powered i = s.powered i := by
  unfold State.powered State.flag State.fed
  rw [State.get_wr_ne _ _ _ _ h.symm, State.sys_wr]

theorem State.up_wr {o i : Nat} (h : o ≠ R.CLK_ISL i) (s : State) (v : Word) : (s.wr o v).up i = s.up i := by
  unfold State.up State.live State.stalled
  rw [State.powered_wr h, State.flag, State.flag, State.get_wr_ne _ _ _ _ h.symm, State.clk_wr]

theorem blockIsland_lt {o i : Nat} : blockIsland o = some i → i < 77 := by
  unfold blockIsland
  repeat' with_reducible refine iteInduction (motive := fun x => x = some i → i < 77) (fun _ => ?_) (fun _ => ?_)
  all_goals
    intro h
    simp only [Option.some.injEq, reduceCtorEq, islAO, islHIF, islJRN, islIST, islPLY, islAUD, islPWS, islSAFE, islPRT, islPRS,
      islTBL, islBPM, islDST, islWHL, islMQY] at h
  all_goals omega

/-- An island's block keeps its power over a write of any register but the islands' own (CLK_ISL, 03_islands_and_weft.md R112). -/
theorem blockUp_wr {o : Nat} (h : o < R.CLK_ISL 0 ∨ R.CLK_ISL 77 ≤ o) (s : State) (v : Word) (p : Nat) :
    blockUp (s.wr o v) p = blockUp s p := by
  unfold blockUp
  cases hi : blockIsland p with
  | none => rfl
  | some i =>
    have hne : o ≠ R.CLK_ISL i := by
      have := blockIsland_lt hi
      simp only [R.CLK_ISL] at h ⊢
      omega
    simp only [State.powered_wr hne, State.up_wr hne]

theorem State.get_congr {s t : State} (h : t.regs = s.regs) (f : Fld) : t.get f = s.get f := by
  unfold State.get State.rd
  rw [h]

theorem State.bar0_congr {s t : State} (hr : t.regs = s.regs) (hs : t.sys = s.sys) : t.bar0 = s.bar0 := by
  unfold State.bar0 State.pstate
  rw [State.get_congr hr, hs]

theorem State.powered_congr {s t : State} (hr : t.regs = s.regs) (hs : t.sys = s.sys) (i : Nat) : t.powered i = s.powered i := by
  unfold State.powered State.flag State.fed
  rw [State.get_congr hr, hs]

theorem State.up_congr {s t : State} (hr : t.regs = s.regs) (hs : t.sys = s.sys) (hc : t.clk = s.clk) (i : Nat) : t.up i = s.up i := by
  unfold State.up State.live State.stalled State.flag
  rw [State.powered_congr hr hs, State.get_congr hr, hc]

theorem blockUp_congr {s t : State} (hr : t.regs = s.regs) (hs : t.sys = s.sys) (hc : t.clk = s.clk) (o : Nat) :
    blockUp t o = blockUp s o := by
  unfold blockUp
  cases blockIsland o with
  | none => rfl
  | some i => simp only [State.powered_congr hr hs, State.up_congr hr hs hc]

/-! The rows of the register tables. -/

/-- A register's row stands in a table of its block and covers its offset. -/
theorem regSpec_row {o : Nat} {c : RegSpec} (h : regSpec o = some c) : ∃ ts ∈ blockTables o, c ∈ ts ∧ c.hit o = true := by
  obtain ⟨ts, hts, hf⟩ := List.exists_of_findSome?_eq_some h
  unfold regFind at hf
  exact ⟨ts, hts, List.mem_of_find?_eq_some hf, List.find?_some (p := fun t : RegSpec => t.hit o) hf⟩

/-- A row without repetitions covers one offset. -/
theorem RegSpec.hit_single {c : RegSpec} {o : Nat} (hd : c.dims = []) (h : c.hit o = true) : o = c.base := by
  simp only [RegSpec.hit, hd, dimsHit, Bool.and_eq_true, decide_eq_true_eq] at h
  omega

/-- The tables of the blocks that `codeWritten` and `codeReads` speak of. -/
def codeTables : List (List RegSpec) := [regTableSYS, regTableSUP, regTableCLK, regTableIST, regTablePLY, regTableSAFE]

theorem blockTables_code {o : Nat} (h : o < 0x30000 ∨ (0x60000 ≤ o ∧ o < 0x80000) ∨ (0xC0000 ≤ o ∧ o < 0xD0000))
    {ts : List RegSpec} : ts ∈ blockTables o → ts ∈ codeTables := by
  unfold blockTables
  repeat' with_reducible refine iteInduction (motive := fun l => ts ∈ l → ts ∈ codeTables) (fun _ => ?_) (fun _ => ?_)
  all_goals simp +contextual only [codeTables, List.mem_cons, List.not_mem_nil, or_false, or_true, true_or, implies_true]
  all_goals omega

/-- The W1C registers of those blocks: none has an RW bit, none is repeated, and none has a limited field. -/
def w1cRegs : List Nat :=
  [R.SYS_RSTCAUSE, R.SYS_NSTAT, R.SYS_PNSTAT, R.SYS_WAKE, R.SUP_VNSTAT, R.SUP_NSTAT, R.CLK_NSTAT, R.IST_NSTAT, R.IST_REQ_STAT,
    R.PLY_NSTAT, R.SAFE_NSTAT]

theorem codeTables_w1c : ∀ ts ∈ codeTables, ∀ c ∈ ts, c.w1c ≠ 0 → c.dims = [] ∧ c.rw = 0 ∧ c.base ∈ w1cRegs := by decide

theorem inForce_w1cRegs {o : Nat} (h : o ∈ w1cRegs) (v : Word) : inForce o v = v := by
  simp only [w1cRegs, List.mem_cons, List.not_mem_nil, or_false] at h
  rcases h with rfl | rfl | rfl | rfl | rfl | rfl | rfl | rfl | rfl | rfl | rfl <;> rfl

/-- None of them is SYS_PSTATE or an island's CLK_ISL, which BAR0 and the blocks' power rest on. -/
theorem w1cRegs_off {o : Nat} (h : o ∈ w1cRegs) : o ≠ R.SYS_PSTATE ∧ (o < R.CLK_ISL 0 ∨ R.CLK_ISL 77 ≤ o) := by
  revert o
  decide

/-! Writes by access code (00_scope.md R18, R22). -/

/-- A register's word after a write of v: RW bits take the value, a 1 clears a W1C bit, all other bits keep theirs. -/
def codeWord (c : RegSpec) (old v : Word) : Word := (old &&& ~~~(maskN c.rw) &&& ~~~(v &&& maskN c.w1c)) ||| (v &&& maskN c.rw)

theorem maskN_bit (m : Nat) (b : Fin 32) : (maskN m).getLsbD b = m.testBit b := by
  rw [maskN, BitVec.getLsbD_ofNat, decide_eq_true b.isLt, Bool.true_and]

theorem codeWord_bit (c : RegSpec) (old v : Word) (b : Fin 32) : (codeWord c old v).getLsbD b = codeBit c old v b := by
  simp only [codeWord, codeBit, BitVec.getLsbD_or, BitVec.getLsbD_and, BitVec.getLsbD_not, maskN_bit, b.isLt, decide_true, Bool.true_and]
  cases c.rw.testBit b <;> cases c.w1c.testBit b <;> cases v.getLsbD b <;> simp

/-- A write without a 1 in a reserved bit is by access code alone. -/
theorem codeWrite_clean {o : Nat} {v : Word} {c : RegSpec} (hc : regSpec o = some c) (hl : ¬ (0x410000 ≤ o ∧ o < 0x411000))
    (hr : reservedBits o v = false) (s : State) : codeWrite o v s = .next (s.wr o (codeWord c (s.rd o) (inForce o v))) := by
  have hb : v &&& ~~~(listedBits o) = 0 := by
    simpa [reservedBits, hc, decide_eq_false_iff_not.2 hl, ← Bool.decide_and] using hr
  simp only [codeWrite, hc, hb, ne_eq, not_true, if_false, codeWord]

theorem codeWrite_unassigned {o : Nat} (hc : regSpec o = none) (v : Word) (s : State) : codeWrite o v s = .next s := by
  simp only [codeWrite, hc]

/-- What `codeWritten` says of an offset: its block, and that it is no half of a pair. -/
theorem codeWritten_block {o : Nat} (h : codeWritten o = true) :
    pairOf o = none ∧ (o < 0x30000 ∨ (0x60000 ≤ o ∧ o < 0x80000) ∨ (0xC0000 ≤ o ∧ o < 0xD0000)) := by
  simp only [codeWritten, Bool.and_eq_true, Bool.or_eq_true, decide_eq_true_eq, Option.isNone_iff_eq_none, or_assoc] at h
  exact h.1

theorem regWrite_codeWritten {o : Nat} (h : codeWritten o = true) (a : Agent) (v : Word) (s : State) :
    regWrite a o v s = codeWrite o v s := by
  obtain ⟨-, hb⟩ := codeWritten_block h
  simp only [codeWritten, Bool.and_eq_true, Bool.not_eq_true', List.contains_eq_mem, decide_eq_false_iff_not, List.mem_cons,
    List.not_mem_nil, or_false, not_or] at h
  obtain ⟨-, hst, hun, hps, htr, hts, hist, hply⟩ := h
  have hsys : sysWrite a o v s = codeWrite o v s := by simp only [sysWrite, hst, hun, hps, if_false]
  have hclk : clkWrite o v s = codeWrite o v s := by simp only [clkWrite, htr, hts, if_false]
  rw [regWrite, hsys, hclk, if_neg hist, if_neg hply]
  clear hst hun hps htr hts hist hply
  repeat' with_reducible refine iteInduction (motive := fun r => r = codeWrite o v s) (fun _ => ?_) (fun _ => ?_)
  all_goals try with_reducible rfl
  all_goals omega

theorem blockWrite_codeWritten {o : Nat} (h : codeWritten o = true) (a : Agent) (v : Word) (s : State) :
    blockWrite a o v s = codeWrite o v s := by
  rw [blockWrite, (codeWritten_block h).1, ← regWrite_codeWritten h a]

/-- A write that has its effect on a register which only its access codes govern. -/
theorem busWrite_codeWritten {a : Agent} {o : Nat} {v : Word} {c : RegSpec} {s : State} (h4 : o % 4 = 0) (hw : codeWritten o = true)
    (hc : regSpec o = some c) (h : reaches a o v s = true) :
    busWrite a o v s = .next (s.wr o (codeWord c (s.rd o) (inForce o v))) := by
  obtain ⟨-, hb⟩ := codeWritten_block hw
  rw [busWrite_reaches h4 (by omega) h, blockWrite_codeWritten hw, codeWrite_clean hc (by omega) (reserved_of_reaches h)]

theorem busWrite_unassigned {a : Agent} {o : Nat} {v : Word} {s : State} (h4 : o % 4 = 0) (hw : codeWritten o = true)
    (hc : regSpec o = none) (h : reaches a o v s = true) : busWrite a o v s = .next s := by
  obtain ⟨-, hb⟩ := codeWritten_block hw
  rw [busWrite_reaches h4 (by omega) h, blockWrite_codeWritten hw, codeWrite_unassigned hc]

/-- Of those blocks' registers with a W1C bit: which they are, and that no bit of one is RW. -/
theorem regSpec_w1c {o : Nat} {c : RegSpec} (hw : codeWritten o = true) (hc : regSpec o = some c) (h : c.w1c ≠ 0) :
    o ∈ w1cRegs ∧ c.rw = 0 := by
  obtain ⟨ts, hts, hmem, hhit⟩ := regSpec_row hc
  obtain ⟨hd, hrw, hbase⟩ := codeTables_w1c ts (blockTables_code (codeWritten_block hw).2 hts) c hmem h
  exact ⟨RegSpec.hit_single hd hhit ▸ hbase, hrw⟩

/-! Split pairs (00_scope.md R15, R16). -/

theorem pairLo_spec {o : Nat} (h : pairLo o = true) : o % 4 = 0 ∧ o < 0x800000 ∧ pairLo (o + 4) = false := by
  simp only [pairLo, Bool.or_eq_true, decide_eq_true_eq, List.contains_eq_mem, List.mem_cons, List.not_mem_nil, or_false] at h
  refine ⟨by omega, by omega, ?_⟩
  simp only [pairLo, Bool.or_eq_false_iff, decide_eq_false_iff_not, List.contains_eq_mem, List.mem_cons, List.not_mem_nil, or_false]
  omega

theorem pairOf_lo {o : Nat} (h : pairLo o = true) : pairOf o = some o := if_pos h

theorem pairOf_hi {lo : Nat} (h : pairLo lo = true) : pairOf (lo + 4) = some lo := by
  simp [pairOf, (pairLo_spec h).2.2, h]

theorem captured_setCap (a : Agent) (lo : Nat) (h : Option Word) (s : State) : captured a lo (setCap a lo h s) = h :=
  mget_mput_self (fun _ => none) _ _ _

theorem heldOf_setHeld (a : Agent) (lo : Nat) (h : Option Word) (s : State) : heldOf a lo (setHeld a lo h s) = h :=
  mget_mput_self (fun _ => none) _ _ _

/-- A read of a low half captures the high half. -/
theorem blockRead_lo {lo : Nat} (h : pairLo lo = true) (a : Agent) (s : State) :
    blockRead a lo s = ((regRead a lo (regRead a (lo + 4) s).2).1,
      setCap a lo (some (regRead a (lo + 4) s).1) (regRead a lo (regRead a (lo + 4) s).2).2) := by
  simp [blockRead, pairOf_lo h, pairRead]

section
variable {lo : Nat} {s : State} (h : pairLo lo = true) (hrw : pairRw lo = true) (hb : pairBusy lo s = false)
  (hf : pairFixed lo s = false)
include h hrw hb hf

/-- A write of the low half of a writable pair is held. -/
theorem blockWrite_lo (a : Agent) (v : Word) : blockWrite a lo v s = .next (setHeld a lo (some v) (setCap a lo none s)) := by
  simp [blockWrite, pairOf_lo h, hrw, hb, hf]

/-- A write of the high half of a pair that is plain words puts both halves in force. -/
theorem blockWrite_hi (ht : lo ≠ R.CLK_TSTEP_LO) (hy : lo ≠ R.DST_YMASK_LO) (a : Agent) (v : Word) :
    blockWrite a (lo + 4) v s =
      .next (((setHeld a lo none (setCap a lo none s)).wr lo ((heldOf a lo s).getD (s.rd lo))).wr (lo + 4) v) := by
  simp [blockWrite, pairOf_hi h, hrw, hb, hf, hy, pairWrite, pairCommit, ht]

end

/-! What a read that is done leaves as it was. -/

/-- A LEADER's log of an answer changes the pair's state and what has been sent alone. -/
theorem logAnswer_eq (aid kind : Nat) (v : Word) (s : State) :
    logAnswer aid kind v s = { s with ply := (logAnswer aid kind v s).ply, out := (logAnswer aid kind v s).out } := by
  unfold logAnswer plySend
  cases s.leader <;> rfl

theorem readDone_eq (a : Agent) (o : Nat) (r : Word × State) :
    readDone a o r = { r.2 with ply := (readDone a o r).ply, out := (readDone a o r).out, resp := (readDone a o r).resp } := by
  unfold readDone
  split
  · rw [logAnswer_eq]; rfl
  · rfl

theorem readDone_resp (a : Agent) (o : Nat) (r : Word × State) : mget (fun _ => 0) (readDone a o r).resp (agentId a) = r.1 :=
  mget_mput_self _ _ _ _

theorem readDone_regs (a : Agent) (o : Nat) (r : Word × State) : (readDone a o r).regs = r.2.regs := by rw [readDone_eq]

theorem readDone_sys (a : Agent) (o : Nat) (r : Word × State) : (readDone a o r).sys = r.2.sys := by rw [readDone_eq]

theorem readDone_clk (a : Agent) (o : Nat) (r : Word × State) : (readDone a o r).clk = r.2.clk := by rw [readDone_eq]

theorem readDone_capHi (a : Agent) (o : Nat) (r : Word × State) : (readDone a o r).capHi = r.2.capHi := by rw [readDone_eq]

theorem readDone_rd (a : Agent) (o : Nat) (r : Word × State) (p : Nat) : (readDone a o r).rd p = r.2.rd p := by
  unfold State.rd
  rw [readDone_regs]

/-! Reads by access code (00_scope.md R18 to R20). -/

theorem codeReads_block {o : Nat} (h : codeReads o = true) :
    pairOf o = none ∧ (o < 0x20000 ∨ (0x60000 ≤ o ∧ o < 0x80000) ∨ (0xC0000 ≤ o ∧ o < 0xD0000)) ∧
      o ≠ R.SUP_VBAT_MIN ∧ o ≠ R.IST_RES ∧ o ≠ R.PLY_STAT := by
  simp only [codeReads, Bool.and_eq_true, Bool.or_eq_true, decide_eq_true_eq, Option.isNone_iff_eq_none, Bool.not_eq_true',
    List.contains_eq_mem, decide_eq_false_iff_not, List.mem_cons, List.not_mem_nil, or_false, not_or, or_assoc] at h
  exact ⟨h.1.1, h.1.2, h.2⟩

theorem blockRead_codeReads {o : Nat} (h : codeReads o = true) (a : Agent) (s : State) : blockRead a o s = codeRead o s := by
  obtain ⟨hp, hb, hv, hi, hs⟩ := codeReads_block h
  rw [blockRead, hp]
  simp only [regRead, if_neg hv, if_neg hi, if_neg hs]
  clear hv hi hs
  repeat' with_reducible refine iteInduction (motive := fun r => r = codeRead o s) (fun _ => ?_) (fun _ => ?_)
  all_goals try with_reducible rfl
  all_goals omega

/-- A read of a register with RC bits returns what its table lets it read and clears them. -/
theorem codeRead_rc {o : Nat} {c : RegSpec} (hc : regSpec o = some c) (h : c.rc ≠ 0) (s : State) :
    codeRead o s = (s.rd o &&& (maskN c.rw ||| maskN c.ro ||| maskN c.w1c ||| maskN c.rc), s.wr o (s.rd o &&& ~~~(maskN c.rc))) := by
  simp only [codeRead, hc, if_neg h]

/-- Outside the registers of queues and counters, a register that `codeReads` speaks of holds its own RC bits. -/
theorem rcShown_codeReads {o : Nat} (h : codeReads o = true) : rcShown o = false := by
  obtain ⟨-, hb, hv, hi, -⟩ := codeReads_block h
  have he : o ≠ R.FWD_EVT := by simp only [R.FWD_EVT]; omega
  simp only [rcShown, Bool.or_eq_false_iff, decide_eq_false_iff_not, List.contains_eq_mem, List.mem_cons, List.not_mem_nil, or_false,
    not_or]
  exact ⟨⟨⟨by omega, by omega⟩, by omega⟩, he, hv, hi⟩

/-! The rows of 00_scope.md on accesses that have their effect. -/

theorem exec_registerWrite (a : Agent) (off be : Nat) (v : Word) (s : State) :
    exec (.registerWrite a off be v none) s = wordWrite a off be v s := rfl

theorem exec_registerWrite_two {a : Agent} (h : isHost a = true) (off be be' : Nat) (v w : Word) (s : State) :
    exec (.registerWrite a off be v (some (be', w))) s = andThen (wordWrite a off be v s) (wordWrite a (off + 4) be' w) := if_pos h

/-- A word write of a register that only its access codes govern, by the row REGISTER_WRITE. -/
theorem registerWrite_codeWritten {s : State} {a : Agent} {off : Nat} {v : Word} {c : RegSpec} (h : reaches a off v s = true)
    (h4 : off % 4 = 0) (hw : codeWritten off = true) (hc : regSpec off = some c) :
    exec (.registerWrite a off 15 v none) s = .next (s.wr off (codeWord c (s.rd off) (inForce off v))) := by
  rw [exec_registerWrite, wordWrite_whole h4, busWrite_codeWritten h4 hw hc h]

theorem splitLoRead_answers {s : State} {a : Agent} {off : Nat} (hl : pairLo off = true) (h : readable a off s = true) :
    exec (.splitLoRead a off false) s = .next (readDone a off (blockRead a off s)) := by
  obtain ⟨h4, hb, -⟩ := pairLo_spec hl
  change execSplitLoRead a off s false = _
  simp only [execSplitLoRead, hl, spanRead, Bool.not_true, Bool.false_and, Bool.not_false, Bool.false_eq_true, if_false, if_true,
    busRead_readable h4 (by omega) h]

theorem splitLoWrite_holds {s : State} {a : Agent} {off : Nat} {v : Word} (h : reaches a off v s = true) (hl : pairLo off = true)
    (hrw : pairRw off = true) (hb : pairBusy off s = false) (hf : pairFixed off s = false) :
    exec (.splitLoWrite a off 15 v) s = .next (setHeld a off (some v) (setCap a off none s)) := by
  obtain ⟨h4, ho, -⟩ := pairLo_spec hl
  change execSplitLoWrite a off 15 v s = _
  rw [execSplitLoWrite, if_neg (by simp [hl, hrw]), busWrite_reaches h4 (by omega) h, blockWrite_lo hl hrw hb hf]

theorem splitHiWrite_commits {s : State} {a : Agent} {lo : Nat} {v : Word} (h : reaches a (lo + 4) v s = true) (hl : pairLo lo = true)
    (hrw : pairRw lo = true) (hb : pairBusy lo s = false) (hf : pairFixed lo s = false) (ht : lo ≠ R.CLK_TSTEP_LO)
    (hy : lo ≠ R.DST_YMASK_LO) :
    exec (.splitHiWrite a (lo + 4) 15 v) s =
      .next (((setHeld a lo none (setCap a lo none s)).wr lo ((heldOf a lo s).getD (s.rd lo))).wr (lo + 4) v) := by
  obtain ⟨h4, ho, -⟩ := pairLo_spec hl
  change execSplitHiWrite a (lo + 4) 15 v s = _
  rw [execSplitHiWrite, Nat.add_sub_cancel, if_neg (by simp [hl, hrw]; omega), busWrite_reaches (by omega) (by omega) h,
    blockWrite_hi hl hrw hb hf ht hy]

/-- A read of an RC field that finds its register: the read, then what events of the same cycle put into the field (R20). -/
theorem rcRead_answers {s : State} {a : Agent} {off : Nat} {ev : Word} {c : RegSpec} (h4 : off % 4 = 0) (hr : codeReads off = true)
    (hc : regSpec off = some c) (h0 : c.rc ≠ 0) (h : readable a off s = true) :
    exec (.rcRead a off ev false) s = .next ((readDone a off (codeRead off s)).wr off
      ((readDone a off (codeRead off s)).rd off ||| (ev &&& maskN c.rc))) := by
  obtain ⟨-, hb, -⟩ := codeReads_block hr
  obtain ⟨hbar, hup⟩ := answers_of_readable h
  have hps : off ≠ R.SYS_PSTATE := by
    rintro rfl
    cases hc
    exact h0 rfl
  have hout : off < R.CLK_ISL 0 ∨ R.CLK_ISL 77 ≤ off := by simp only [R.CLK_ISL]; omega
  have hbar' : (readDone a off (codeRead off s)).bar0 = true := by
    rw [State.bar0_congr (readDone_regs ..) (readDone_sys ..), codeRead_rc hc h0, State.bar0_wr hps, hbar]
  have hup' : blockUp (readDone a off (codeRead off s)) off = true := by
    rw [blockUp_congr (readDone_regs ..) (readDone_sys ..) (readDone_clk ..), codeRead_rc hc h0, blockUp_wr hout, hup]
  change execRcRead a off ev s false = _
  simp only [execRcRead, hc, if_neg h0, spanRead, Bool.not_false, if_true, busRead_readable h4 (by omega) h, blockRead_codeReads hr,
    hbar', hup', rcShown_codeReads hr, Bool.and_true]

/-- A W1C write that has its effect: the write by access code, and the bits that events of the same cycle set (R22). -/
theorem w1cWrite_codeWritten {s : State} {a : Agent} {off : Nat} {v ev : Word} {c : RegSpec} (h : reaches a off v s = true)
    (hw : codeWritten off = true) (h4 : off % 4 = 0) (hc : regSpec off = some c) (h0 : c.w1c ≠ 0) :
    exec (.w1cWrite a off 15 v ev) s =
      .next ((s.wr off (codeWord c (s.rd off) v)).wr off (codeWord c (s.rd off) v ||| (ev &&& maskN c.w1c))) := by
  obtain ⟨hreg, -⟩ := regSpec_w1c hw hc h0
  obtain ⟨hps, hout⟩ := w1cRegs_off hreg
  obtain ⟨hbar, hup⟩ := answers_of_reaches h
  obtain ⟨-, hb⟩ := codeWritten_block hw
  have hsh : sharedOff off = off := if_neg (by omega)
  have hdone : busWrite a off v s = .next (s.wr off (codeWord c (s.rd off) v)) := by
    rw [busWrite_codeWritten h4 hw hc h, inForce_w1cRegs hreg]
  change execW1cWrite a off 15 v ev s = _
  simp only [execW1cWrite, hc, h0, hdone, State.bar0_wr hps, blockUp_wr hout, hbar, hup, hsh, State.rd_wr_self, ne_eq, not_true, or_self,
    if_false, Bool.and_true, if_true]

/-- What a debug access leaves at the test access port: the word, DONE and the capture register (25_diagnostics_service.md R896). -/
def debugDone (d : Word) (s : State) : State :=
  let s := { s with tap := { s.tap with data := d, done := true, err := false } }
  { s with tap.cap := debugCapture s }

theorem debugDone_rd (d : Word) (s : State) (o : Nat) : (debugDone d s).rd o = s.rd o := by
  unfold State.rd debugDone
  rfl

section
variable {s : State} {addr : Nat} {v : Word} (ht : tapRuns s = true) (hir : s.tap.ir = 0x20) (hrs : s.sys.resetting = false)
  (hop : s.flag R.DGN_STAT_DBGOPEN = true) (h4 : addr % 4 = 0) (ho : addr < 0x1000000)
include ht hir hrs hop h4 ho

/-- A debug read with debug access open. -/
theorem debugRead_done (h : readable .debug addr s = true) :
    exec (.debugAccess false addr v) s =
      .next (debugDone (blockRead .debug addr s).1 (readDone .debug addr (blockRead .debug addr s))) := by
  have hm : addr % 2 ^ 26 = addr := by omega
  rw [← readDone_resp .debug addr (blockRead .debug addr s)]
  change execDebugAccess false addr v s = _
  simp only [execDebugAccess, ht, hir, hrs, hop, hm, busRead_readable h4 ho h, Bool.not_true, ne_eq, not_true, decide_false, Bool.or_self,
    Bool.false_eq_true, if_false]
  rfl

/-- A debug write with debug access open. -/
theorem debugWrite_done {c : RegSpec} (hw : codeWritten addr = true) (hc : regSpec addr = some c) (h : reaches .debug addr v s = true) :
    exec (.debugAccess true addr v) s =
      .next (debugDone s.tap.data (s.wr addr (codeWord c (s.rd addr) (inForce addr v)))) := by
  have hm : addr % 2 ^ 26 = addr := by omega
  change execDebugAccess true addr v s = _
  simp only [execDebugAccess, ht, hir, hrs, hop, hm, busWrite_codeWritten h4 hw hc h, Bool.not_true, ne_eq, not_true, decide_false,
    Bool.or_self, Bool.false_eq_true, if_false, if_true]
  rfl

end

/-- Settles O1: each clause is the row's law for an access that has its effect. -/
theorem registerCommandsComplete : Obligations.RegisterCommandsComplete := by
  refine ⟨?codes, ?unassigned, ?ignored, ?loRead, ?loWrite, ?hiWrite, ?rcRead, ?w1cWrite, ?debugRead, ?debugWrite, ?two⟩
  case codes =>
    rintro s a off be v c rfl h h4 hw hc
    refine ⟨_, registerWrite_codeWritten h h4 hw hc, fun b => ?_⟩
    rw [State.rd_wr_self]
    exact ⟨codeWord_bit _ _ _ _, rfl⟩
  case unassigned =>
    rintro s a off be v rfl h h4 hw hc
    exact ⟨s, by rw [exec_registerWrite, wordWrite_whole h4, busWrite_unassigned h4 hw hc h], rfl⟩
  case ignored =>
    intro s a off be v h
    exact ⟨s, wordWrite_ignored h a v s, rfl⟩
  case loRead =>
    intro s a off hl h
    refine ⟨_, splitLoRead_answers hl h, ?_, ?_⟩
    · rw [readDone_resp, blockRead_lo hl]
    · rw [captured, readDone_capHi, blockRead_lo hl]
      exact captured_setCap _ _ _ _
  case loWrite =>
    rintro s a off be v rfl h hl hrw hb hf
    exact ⟨_, splitLoWrite_holds h hl hrw hb hf, heldOf_setHeld _ _ _ _, rfl⟩
  case hiWrite =>
    rintro s a off be v rfl h4 hm h hl hrw hb hf ht hy
    obtain ⟨lo, rfl⟩ := Nat.exists_eq_add_of_le' h4
    rw [Nat.add_sub_cancel] at hl hrw hb hf ht hy ⊢
    refine ⟨_, splitHiWrite_commits h hl hrw hb hf ht hy, State.rd_wr_self _ _ _, ?_, heldOf_setHeld a lo none (setCap a lo none s)⟩
    rw [State.rd_wr_ne _ _ _ _ (by omega), State.rd_wr_self]
  case rcRead =>
    intro s a off ev c h4 hr hc h0 h
    refine ⟨_, rcRead_answers h4 hr hc h0 h, fun b hb => ?_⟩
    rw [State.rd_wr_self, readDone_rd, State.resp_wr, readDone_resp, codeRead_rc hc h0, State.rd_wr_self]
    simp only [BitVec.getLsbD_or, BitVec.getLsbD_and, BitVec.getLsbD_not, maskN_bit, hb, Bool.or_true, Bool.and_true, Bool.not_true,
      Bool.and_false, Bool.false_or, and_self]
  case w1cWrite =>
    rintro s a off be v ev c rfl h hw h4 hc h0
    obtain ⟨-, hrw⟩ := regSpec_w1c hw hc h0
    refine ⟨_, w1cWrite_codeWritten h hw h4 hc h0, fun b hb => ?_⟩
    rw [State.rd_wr_self, BitVec.getLsbD_or, codeWord_bit, BitVec.getLsbD_and, maskN_bit, hb]
    simp only [codeBit, hrw, hb]
    cases v.getLsbD b <;> simp
  case debugRead =>
    intro s addr v ht hir hrs hop h4 ho hp h
    refine ⟨_, debugRead_done ht hir hrs hop h4 ho h, ?_, rfl, rfl⟩
    rw [blockRead, hp]
    rfl
  case debugWrite =>
    intro s addr v c ht hir hrs hop h4 hw hc h
    obtain ⟨-, hb⟩ := codeWritten_block hw
    refine ⟨_, debugWrite_done ht hir hrs hop h4 (by omega) hw hc h, fun b => ⟨?_, rfl, rfl⟩⟩
    rw [debugDone_rd, State.rd_wr_self, codeWord_bit]
  case two =>
    intro s a off be be' v w t ha h
    rw [exec_registerWrite] at h
    rw [exec_registerWrite_two ha, h, exec_registerWrite, andThen]

/-- Settles O45: every row looks at the byte enables before anything else. -/
theorem narrowWritesAreIgnored : Obligations.NarrowWritesAreIgnored := by
  intro s a off be v ev nx hbe hnx
  have hn : ∀ o, wordWrite a o be v s = .next s := fun o => wordWrite_ignored (.inl hbe) a v s
  refine ⟨?_, if_pos (.inl hbe), if_pos (.inl hbe), ?_⟩
  · cases nx with
    | none => exact hn off
    | some e =>
      obtain ⟨be', w⟩ := e
      cases ha : isHost a with
      | false => exact if_neg (by simp [ha])
      | true => rw [exec_registerWrite_two ha, hn, andThen, wordWrite_ignored (.inl (hnx _ rfl))]
  · change execW1cWrite a off be v ev s = _
    unfold execW1cWrite
    cases regSpec off with
    | none => rfl
    | some c => exact if_pos (.inl hbe)

/-! What an outcome confined to a block leaves as it was, beside the registers (00_scope.md R25 to R28). -/

/-- State t follows from state s by what the outcome in the block of an offset can change beside registers: the state of that block
alone, and never a protected part's. -/
structure Confined (o : Nat) (s t : State) : Prop where
  rest : { t with
    free := s.free, regs := s.regs, clk := s.clk, evt := s.evt, vnr := s.vnr, jrn := s.jrn, ist := s.ist, ply := s.ply, cal := s.cal,
    aud := s.aud, hif := s.hif, dgn := s.dgn, prt := s.prt, out := s.out, prs := s.prs, fwd := s.fwd, bpm := s.bpm, locks := s.locks,
    dst := s.dst, whl := s.whl, mqy := s.mqy } = s
  clk : o / 0x10000 ≠ 2 → t.clk = s.clk
  evt : o / 0x10000 ≠ 3 → t.evt = s.evt
  vnr : o / 0x10000 ≠ 4 → t.vnr = s.vnr
  jrn : o / 0x10000 ≠ 5 → t.jrn = s.jrn
  slots : ∀ b, 0x1000 ≤ b → b < 0x2000 → t.jrn.mem.rd b = s.jrn.mem.rd b
  ist : o / 0x10000 ≠ 6 → t.ist = s.ist
  ply : o / 0x10000 ≠ 7 → t.ply = s.ply
  cal : o / 0x10000 ≠ 9 → t.cal = s.cal
  aud : o / 0x10000 ≠ 11 → t.aud = s.aud
  hif : o / 0x10000 ≠ 13 → t.hif = s.hif
  dgn : o / 0x10000 ≠ 15 → t.dgn = s.dgn
  can : t.can 0 = s.can 0
  prt : o / 0x100000 ≠ 1 → t.prt = s.prt ∧ t.out = s.out
  prs : o / 0x100000 ≠ 2 → t.prs = s.prs
  fwd : o / 0x100000 ≠ 3 → t.fwd = s.fwd
  bpm : o / 0x10000 ≠ 64 → t.bpm = s.bpm
  locks : o / 0x10000 ≠ 65 → t.locks = s.locks
  dst : o / 0x10000 ≠ 66 → t.dst = s.dst
  whl : o < 0x800000 ∨ 0x1000000 ≤ o → t.whl = s.whl
  mqy : o < 0x1000000 → t.mqy = s.mqy

theorem Confined.refl (o : Nat) (s : State) : Confined o s s := by
  constructor
  case prt => exact fun _ => ⟨rfl, rfl⟩
  all_goals intros; rfl

/-- A fold of steps that change registers alone changes registers alone. -/
theorem foldl_regs {α : Type} (f : State → α → State) (hf : ∀ u x, ∃ r, f u x = { u with regs := r }) (l : List α) (s : State) :
    ∃ r, l.foldl f s = { s with regs := r } := by
  induction l generalizing s with
  | nil => exact ⟨s.regs, rfl⟩
  | cons x l ih =>
    obtain ⟨r, hr⟩ := hf s x
    obtain ⟨q, hq⟩ := ih (f s x)
    exact ⟨q, by rw [List.foldl_cons, hq, hr]⟩

theorem freeWord_regs (span : Nat × Nat) (s : State) (e : Nat × Word) : ∃ r, freeWord span s e = { s with regs := r } := by
  unfold freeWord
  split
  · exact ⟨_, rfl⟩
  · exact ⟨s.regs, rfl⟩

theorem freeWords_regs (h : Hidden) (span : Nat × Nat) (s : State) : ∃ r, freeWords h span s = { s with regs := r } := by
  obtain ⟨r, hr⟩ := foldl_regs _ (freeWord_regs span) h.words s
  unfold freeWords
  rw [hr]
  dsimp only
  split
  · exact foldl_regs (fun s c => showDt c s) (fun _ _ => ⟨_, rfl⟩) _ { s with regs := r }
  · exact ⟨r, rfl⟩

/-- Free bytes leave the addresses that they may not write. -/
theorem rd_freeBytes (h : Hidden) (may : Nat → Bool) {b : Nat} (hb : may b = false) (m : Mem) : (freeBytes h may m).rd b = m.rd b := by
  unfold freeBytes
  generalize h.bytes = l
  induction l generalizing m with
  | nil => rfl
  | cons e l ih =>
    rw [List.foldl_cons, ih]
    split
    · rename_i he
      rw [Mem.rd_wr, if_neg]
      rintro rfl
      rw [hb] at he
      cases he
    · rfl

theorem foldl_setThread_whl (n : Nat) (g : Nat → Thread) (l : List Nat) (s : State) :
    ∃ w, l.foldl (fun s t => s.setThread (8 * n + t) (g t)) s = { s with whl := w } := by
  induction l generalizing s with
  | nil => exact ⟨s.whl, rfl⟩
  | cons t l ih =>
    obtain ⟨w, hw⟩ := ih (s.setThread (8 * n + t) (g t))
    exact ⟨w, hw⟩

/-- A block that begins at p holds the offset o: in the offset's 64 KiB, or with it in PRT, PRS or FWD, in the cores' windows, or in
the panels' (01_device_overview.md R36, R37). -/
def BaseOf (o p : Nat) : Prop :=
  (p / 0x10000 = o / 0x10000 ∧ (p < 0xE0000 ∨ (0xF0000 ≤ p ∧ p < 0x100000) ∨ (0x400000 ≤ p ∧ p < 0x430000))) ∨
    (p / 0x100000 = o / 0x100000 ∧ 0x100000 ≤ p ∧ p < 0x400000) ∨
    (0x800000 ≤ p ∧ p < 0x1000000 ∧ 0x800000 ≤ o ∧ o < 0x1000000) ∨ (0x1000000 ≤ p ∧ 0x1000000 ≤ o)

theorem blockSpan_base {o : Nat} : (blockSpan o).2 ≠ 0 → BaseOf o (blockSpan o).1 := by
  unfold blockSpan
  repeat' with_reducible refine iteInduction (motive := fun p : Nat × Nat => p.2 ≠ 0 → BaseOf o p.1) (fun _ => ?_) (fun _ => ?_)
  all_goals
    dsimp only [BaseOf]
    omega

/-- The state behind a block's registers is the block's. -/
theorem confined_freeHidden {o : Nat} (h : (blockSpan o).2 ≠ 0) (f : Hidden) {s u : State} (hu : Confined o s u) :
    Confined o s (freeHidden f (blockSpan o).1 u) := by
  have hb := blockSpan_base h
  generalize (blockSpan o).1 = p at hb
  unfold BaseOf at hb
  unfold freeHidden
  repeat' with_reducible refine iteInduction (motive := Confined o s) (fun _ => ?_) (fun _ => ?_)
  · exact hu
  · exact { hu with clk := fun h => absurd (by omega) h }
  · exact { hu with evt := fun h => absurd (by omega) h }
  · exact { hu with vnr := fun h => absurd (by omega) h }
  · exact { hu with
      jrn := fun h => absurd (by omega) h
      slots := fun b h1 h2 =>
        (rd_freeBytes f (fun a => !(decide (0x1000 ≤ a) && decide (a < 0x2000))) (by simp [h1, h2]) _).trans (hu.slots b h1 h2) }
  · exact { hu with ist := fun h => absurd (by omega) h }
  · exact { hu with ply := fun h => absurd (by omega) h }
  · exact hu
  · exact { hu with cal := fun h => absurd (by omega) h }
  · exact hu
  · exact { hu with aud := fun h => absurd (by omega) h }
  · exact hu
  · exact { hu with hif := fun h => absurd (by omega) h }
  · exact { hu with
      dgn := fun h => absurd (by omega) h
      can := (mget_mput_self (fun _ => CanPort.reset) _ _ _).trans hu.can }
  · exact { hu with prt := fun h => absurd (by omega) h }
  · exact { hu with prs := fun h => absurd (by omega) h }
  · exact { hu with fwd := fun h => absurd (by omega) h }
  · exact { hu with bpm := fun h => absurd (by omega) h }
  · exact { hu with locks := fun h => absurd (by omega) h }
  · exact { hu with dst := fun h => absurd (by omega) h }
  · obtain ⟨w, hw⟩ := foldl_setThread_whl ((p - 0x800000) / 0x20000) (mget (fun _ => Thread.reset) f.threads) (List.range 8)
      (u.setCore ((p - 0x800000) / 0x20000) { f.core with
        mem := freeBytes f (fun _ => true) (u.core ((p - 0x800000) / 0x20000)).mem })
    dsimp only
    rw [hw]
    exact { hu with whl := fun h => absurd h (by omega) }
  · exact { hu with mqy := fun h => absurd h (by omega) }

/-- An outcome confined to a block leaves the state of every other block and of every protected part (R28). -/
theorem confined_unpredBlock (o : Nat) (s : State) : Confined o s (unpredBlock o s) := by
  unfold unpredBlock
  split
  · exact Confined.refl o s
  · rename_i h
    obtain ⟨r, hr⟩ := freeWords_regs s.havoc.1 (blockSpan o) s.havoc.2
    dsimp only
    rw [hr]
    exact confined_freeHidden h _ { Confined.refl o s with }

theorem exec_reserved {a : Agent} {off : Nat} {v : Word} {s : State} (h4 : off % 4 = 0) (h : lands a off v s = true)
    (hr : reservedBits off v = true) : exec (.registerWrite a off 15 v none) s = .next (unpredBlock off s) := by
  rw [exec_registerWrite, wordWrite_whole h4, busWrite_reserved h4 h hr]

/-- The registers of a span that begins at the power stage hold the effective dead times (19_power_stage_protection.md R708). -/
theorem blockSpan_pws {o : Nat} (h : (blockSpan o).1 = 0xA0000) : (blockSpan o).2 = 0x10000 := by
  revert h
  unfold blockSpan
  repeat' with_reducible refine iteInduction (motive := fun p : Nat × Nat => p.1 = 0xA0000 → p.2 = 0x10000) (fun _ => ?_) (fun _ => ?_)
  all_goals
    dsimp only
    omega

/-- Settles O46: an outcome confined to a block leaves the registers outside it and those of protected parts, and the state behind every
other block's registers. -/
theorem reservedBitWritesStayInTheBlock : Obligations.ReservedBitWritesStayInTheBlock := by
  intro s a off v h4 h hr
  have k := confined_unpredBlock off s
  have rest {α : Type} (f : State → α) := congrArg f k.rest
  refine ⟨unpredBlock off s, exec_reserved h4 h hr, fun o ho => ?outside, fun o hw hd => ?walls, rest State.pending, rest State.pkt,
    rest State.fuses, rest State.held, rest State.burn, rest State.sys, rest State.safe, rest State.pws, rest State.thm, rest State.tap,
    k.can, k.slots, k.clk, k.evt, k.vnr, k.jrn, k.ist, k.ply, k.cal, k.aud, k.hif, k.dgn, k.prt, k.prs, k.fwd, k.bpm, k.locks, k.dst,
    k.whl, k.mqy⟩
  case outside =>
    refine rd_unpredBlock off s o (fun hi => absurd hi ho) fun hp c hc he => ho ?_
    have hl := blockSpan_pws hp
    omega
  case walls => exact rd_unpredBlock off s o (fun _ => hw) fun _ => hd

/-! A panel's own write into its window (07_marquetry_fabric.md R257, R265). -/

/-- Out of reset, with panel 0 running, its outputs released and its port 0 free to issue requests. -/
def panelIssues : State :=
  let s := { State.reset with sys := { Sys.reset with resetting := false } }
  ((s.set (R.CLK_ISL_ON (islMQY 0)) 1).set (R.MQY_STAT_OUT_HELD 0) 0).set (R.MQY_PORT_INI_EN 0 0) 1

/-- The response that panel 0's port 0 received latest, in the answer of a command (R265). -/
def portAnswer : Out → Option (Word × Bool)
  | .next t => mget (fun _ => none) (t.panel 0).rsp 0
  | _ => none

/-- Refutes O47: panel 0 of `panelIssues` writes 0 to its own MQY_NSTAT through its port 0. The write is answered, and its port then shows
the response, which no register holds. -/
theorem not_w1cWritesClearCauses : ¬ Obligations.W1cWritesClearCauses := by
  intro h
  obtain ⟨t, he, ht, -⟩ := h panelIssues (.panel 0 0) (R.MQY_NSTAT 0) 0 0
    ⟨R.MQY_NSTAT 0, [(0x100000, 8)], 0, 0, 0, 0x3F, 0, 0⟩ (by decide) (by decide +kernel) (by decide +kernel) (by decide +kernel)
    (by decide)
  have answered : portAnswer (exec (.w1cWrite (.panel 0 0) (R.MQY_NSTAT 0) 15 0 0) panelIssues) = some (0, false) := by decide +kernel
  have kept : portAnswer (.next t) = none := by
    rw [ht]
    change mget (fun _ => none) (panelIssues.panel 0).rsp 0 = none
    decide +kernel
  rw [he, kept] at answered
  cases answered

end Sys2Proof.Machine
end

section
/-!
SUPPORT. The host's port (01_device_overview.md R40; 16_host_interface_rings.md R581 to R589, R623, R626): what each row of its links, flash
commands, AtomicOps, BAR2 accesses and QSPI transactions answers when its conditions hold; and from these the statement on host port
commands (O26).
-/
namespace Sys2Proof.Machine

/-! A crossing leaves HIF's own state as it was, whatever the source. -/

theorem hif_sendMsix (v : Nat) (s : State) : (sendMsix v s).hif = s.hif := by
  unfold sendMsix
  split <;> rfl

theorem hif_deliver (n : Nat) (s : State) : (deliver n s).hif = s.hif := by
  unfold deliver
  split
  · split
    · rfl
    · exact hif_sendMsix _ s
  · dsimp only
    split <;> rfl
  · rfl

theorem hif_crossEvt (n : Nat) (s : State) : (crossEvt n s).hif = s.hif := by
  unfold crossEvt
  split
  · rfl
  split
  · rfl
  dsimp only
  split
  · exact hif_deliver n _
  · rfl

theorem hif_crossing (n : Nat) (s : State) : (crossing n s).hif = s.hif := by
  rw [← hif_crossEvt n s]
  unfold crossing
  dsimp only
  split
  · exact (crosses_snapshot n (Crosses.refl _)).hif
  · rfl

/-! Bus Master Enable and D3hot (16_host_interface_rings.md R584): writes of data, completions and messages leave them. -/

/-- Bus Master Enable and D3hot, as configuration writes left them. -/
def busConfig (s : State) : Bool × Bool := (s.hif.bme, s.hif.d3hot)

theorem busConfig_crossing (n : Nat) (s : State) : busConfig (crossing n s) = busConfig s := by
  rw [busConfig, hif_crossing, busConfig]

theorem busConfig_dmaWrite (pkm : Bool) (a : Nat) (bs : List Byte) (s : State) : busConfig (dmaWrite pkm a bs s) = busConfig s := by
  unfold dmaWrite
  split
  · rfl
  split
  · rfl
  split <;> rfl

theorem busConfig_setQp (q : Nat) (x : Qp) (s : State) : busConfig (s.setQp q x) = busConfig s := rfl

theorem busConfig_cqFlush (q n : Nat) (s : State) : busConfig (cqFlush q n s) = busConfig s := by
  induction n generalizing s with
  | zero => rfl
  | succ n ih =>
    rw [cqFlush]
    dsimp only
    split
    · rfl
    split
    · rfl
    split
    · rfl
    · rw [ih, busConfig_crossing, busConfig_setQp, busConfig_dmaWrite]

theorem busConfig_foldl {α : Type} {f : State → α → State} (h : ∀ s a, busConfig (f s a) = busConfig s) (l : List α) (s : State) :
    busConfig (l.foldl f s) = busConfig s :=
  List.foldlRecOn l f (motive := fun t => busConfig t = busConfig s) rfl fun t ht a _ => (h t a).trans ht

theorem busConfig_dmaResume (s : State) : busConfig (dmaResume s) = busConfig s := by
  unfold dmaResume
  split
  · rfl
  · exact busConfig_foldl (fun _ _ => busConfig_cqFlush ..) _ _

theorem busConfig_msixFlush (s : State) : busConfig (msixFlush s) = busConfig s := by
  unfold msixFlush
  refine busConfig_foldl (fun _ _ => ?_) _ s
  split <;> rfl

/-- The state in which configuration writes leave Bus Master Enable and D3hot. -/
def setBusConfig (bme d3 : Bool) (s : State) : State := { (s.set R.HIF_STAT_BME (b2n bme)) with hif.bme := bme, hif.d3hot := d3 }

/-- What such a change leaves, with the writes and messages that it lets go on. -/
def busMasterDone (bme d3 : Bool) (s : State) : State := msixFlush (dmaResume (setBusConfig bme d3 s))

theorem busConfig_busMasterDone (bme d3 : Bool) (s : State) : busConfig (busMasterDone bme d3 s) = (bme, d3) :=
  calc busConfig (busMasterDone bme d3 s)
    _ = busConfig (dmaResume (setBusConfig bme d3 s)) := busConfig_msixFlush _
    _ = busConfig (setBusConfig bme d3 s) := busConfig_dmaResume _
    _ = (bme, d3) := rfl

/-! The function's link (16_host_interface_rings.md R581 to R584, R623). -/

/-- A reset of the function frees every queue pair. -/
theorem functionReset_qps (up : Bool) (s : State) : (functionReset up s).hif.qps = [] := by
  cases up <;> rfl

section
variable {s : State} (hup : s.up islHIF = true) (hp : s.hostPcie = true)
include hup hp

theorem exec_functionLevelReset (hl : s.flag R.HIF_STAT_LINKUP = true) (up : Bool) :
    exec (.functionLevelReset up) s = .next (functionReset up s) := by
  change execFunctionLevelReset up s = _
  rw [execFunctionLevelReset, hup, hp, hl]
  rfl

theorem exec_busMasterChange (hl : s.flag R.HIF_STAT_LINKUP = true) (bme d3 : Bool) :
    exec (.busMasterChange bme d3) s = .next (busMasterDone bme d3 s) := by
  change execBusMasterChange bme d3 s = _
  rw [execBusMasterChange, hup, hp, hl]
  rfl

theorem exec_pcieLinkUp (hlock : s.flag R.CLK_STAT_HIFPLL_LOCK = true) {speed width : Nat} (h1 : 1 ≤ speed) (h3 : speed ≤ 3)
    (w1 : 1 ≤ width) (w2 : width ≤ 2) :
    exec (.pcieLinkUp speed width) s =
      .next (((s.set R.HIF_STAT_LINKUP 1).set R.HIF_STAT_SPEED speed).set R.HIF_STAT_WIDTH width) := by
  change execPcieLinkUp speed width s = _
  rw [execPcieLinkUp, hup, hp, hlock, decide_eq_true (And.intro h1 h3), decide_eq_true (And.intro w1 w2)]
  rfl

section
variable (hl : s.flag R.HIF_STAT_LINKUP = true) (hd : s.hif.d3hot = false) (hb : s.bar0 = true)
include hl hd hb

/-- An AtomicOp that is no FetchAdd of 32 bits to BAR0 is unsupported. -/
theorem exec_atomicOp_unsupported {add32 bar0 : Bool} (h : (add32 && bar0) = false) (off : Nat) (v : Word) :
    exec (.atomicOp add32 bar0 off v) s = .next (s.bump R.HIF_CNT_UR) := by
  change execAtomicOp add32 bar0 off v s = _
  have hn : (!add32 || !bar0) = true := by rw [← Bool.not_and, h]; rfl
  rw [execAtomicOp, hup, hp, hl, hd, hb, hn]
  rfl

/-- A FetchAdd on counter k adds. -/
theorem exec_atomicOp_counter {k : Nat} (hk : k < 128) (v : Word) :
    exec (.atomicOp true true (R.LCK_CTR 0 + 4 * k) v) s = .next (addLoad .host k v s) := by
  change execAtomicOp true true (R.LCK_CTR 0 + 4 * k) v s = _
  have hidx : (R.LCK_CTR 0 + 4 * k - R.LCK_CTR 0) / 4 = k := by omega
  have hlo : ¬ R.LCK_CTR 0 + 4 * k < R.LCK_CTR 0 := by omega
  have hal : ¬ (R.LCK_CTR 0 + 4 * k) % 4 ≠ 0 := by simp only [R.LCK_CTR]; omega
  rw [execAtomicOp, hup, hp, hl, hd, hb, hidx, decide_eq_false hlo, decide_eq_false (show ¬ k ≥ 128 by omega), decide_eq_false hal]
  rfl

end
end

/-! Flash commands (16_host_interface_rings.md R626). -/

/-- What a GO that is not refused for its encoding leaves: REFUSED while the device itself reads the flash, BUSY otherwise. -/
def goDone (v : Word) (s : State) : State :=
  (s.wr R.HIF_XSPI_CTL (v &&& 0x03FFFFFF#32)).set (if flashBusy s then R.HIF_XSPI_STAT_REFUSED else R.HIF_XSPI_STAT_BUSY) 1

theorem exec_xspiGo {s : State} {a : Agent} {v : Word} (hgo : v.getLsbD 31 = true) (ha : isHost a = true)
    (h : reaches a R.HIF_XSPI_CTL v s = true) (hr : v &&& 0x7C000000#32 = 0) (hm : wget v 9 2 ≠ 3) (hn : wget v 16 9 ≤ 256)
    (hb : s.flag R.HIF_XSPI_STAT_BUSY = false) : exec (.xspiGo a v) s = .next (goDone v s) := by
  change execXspiGo a v s = _
  have hidle : (s.wr R.HIF_XSPI_CTL (v &&& 0x03FFFFFF#32)).flag R.HIF_XSPI_STAT_BUSY = false := by
    rw [State.flag, State.get_wr_ne _ _ _ _ (by decide)]
    exact hb
  have hfb : flashBusy (s.wr R.HIF_XSPI_CTL (v &&& 0x03FFFFFF#32)) = flashBusy s := rfl
  have hn' : ¬ wget v 16 9 > 256 := by omega
  rw [execXspiGo, access_reaches h, xspiCtlWrite]
  simp only [hgo, ha, hr, hm, hn', hidle, hfb, goDone, ne_eq, not_true, decide_false, Bool.or_self, Bool.not_true, Bool.false_eq_true,
    if_false]
  cases flashBusy s <;> rfl

theorem goDone_refused {v : Word} {s : State} (h : flashBusy s = true) : (goDone v s).flag R.HIF_XSPI_STAT_REFUSED = true := by
  rw [goDone, h, if_pos rfl, State.flag_set _ _ _ (by decide) rfl]
  rfl

theorem goDone_busy {v : Word} {s : State} (h : flashBusy s = false) : (goDone v s).flag R.HIF_XSPI_STAT_BUSY = true := by
  rw [goDone, h, if_neg Bool.false_ne_true, State.flag_set _ _ _ (by decide) rfl]
  rfl

theorem goDone_ctl (v : Word) (s : State) : (goDone v s).rd R.HIF_XSPI_CTL = v &&& 0x03FFFFFF#32 := by
  rw [goDone, State.rd_set_ne, State.rd_wr_self]
  split <;> decide

/-- The command buffer does not lie in the flash port's status. -/
theorem xspiBuf_setBusy (s : State) (b n : Nat) : xspiBuf (s.set R.HIF_XSPI_STAT_BUSY b) n = xspiBuf s n := by
  have h (w : Nat) : (s.set R.HIF_XSPI_STAT_BUSY b).rd (R.HIF_XSPI_BUF w) = s.rd (R.HIF_XSPI_BUF w) :=
    State.rd_set_ne _ _ _ _ (by simp only [R.HIF_XSPI_BUF, R.HIF_XSPI_STAT]; omega)
  simp only [xspiBuf, h]

/-- A write command that is done has sent the buffer to the flash. -/
theorem exec_xspiCmdDone_write {s : State} (hb : s.flag R.HIF_XSPI_STAT_BUSY = true) (hw : (s.rd R.HIF_XSPI_CTL).getLsbD 25 = true)
    (data : List Byte) :
    exec (.xspiCmdDone data) s =
      .next ((s.set R.HIF_XSPI_STAT_BUSY 0).emit
        (.xspi (s.rd R.HIF_XSPI_CTL) (s.rd R.HIF_XSPI_ADDR) (xspiBuf s (wget (s.rd R.HIF_XSPI_CTL) 16 9)))) := by
  change execXspiCmdDone data s = _
  have ha : (s.set R.HIF_XSPI_STAT_BUSY 0).rd R.HIF_XSPI_ADDR = s.rd R.HIF_XSPI_ADDR := State.rd_set_ne _ _ _ _ (by decide)
  simp only [execXspiCmdDone, hb, hw, ha, xspiBuf_setBusy, Bool.not_true, Bool.false_eq_true, if_false, if_true]

/-! Packet memory through BAR2 (01_device_overview.md R40; 16_host_interface_rings.md R589). -/

/-- A free value that stands for a byte of a ring leaves packet memory. -/
theorem pktByte_pkt (o : Nat) (s : State) : (pktByte o s).2.pkt = s.pkt := by
  unfold pktByte
  split
  · rfl
  split
  · rfl
  split <;> rfl

theorem pktView_pkt (o n : Nat) (s : State) : (pktView o n s).2.pkt = s.pkt := by
  induction n generalizing o s with
  | zero => rfl
  | succ n ih => exact (ih _ _).trans (pktByte_pkt _ s)

theorem bar2Read_pkt (o n : Nat) (s : State) : (bar2Read o n s).2.pkt = s.pkt := by
  unfold bar2Read
  split
  · exact pktView_pkt o n s
  · rfl

theorem bar2Read_closed {s : State} (h : pktOpen s = false) (o n : Nat) : bar2Read o n s = (List.replicate n 0, s) := by
  rw [bar2Read, h, if_neg Bool.false_ne_true]

/-- A write below the frame reserve, by a strand that mirrors nothing, of bytes that the host may write. -/
theorem bar2Write_stores {s : State} {o : Nat} {bs : List Byte} (hd : decodes .host s = true) (hp : pktOpen s = true)
    (hr : s.role < 2) (ho : o + bs.length ≤ 0xD00000) (hf : (List.range bs.length).any (fun j => foreignByte s (o + j)) = false) :
    bar2Write o bs s = .next (s.setPkt (s.pkt.wrBytes o bs)) := by
  have hm : o % 2 ^ 24 = o := by omega
  have ht : bs.take (0xD00000 - o) = bs := List.take_of_length_le (by omega)
  have hr' : ¬ s.role ≥ 2 := by omega
  simp only [bar2Write, bar2Store, hd, hp, hr', hm, ht, hf, Bool.not_true, Bool.or_self, Bool.false_eq_true, if_false]

theorem exec_hostBar2Write (off : Nat) (data : List Byte) (s : State) : exec (.hostBar2Write off data .host) s = bar2Write off data s :=
  rfl

theorem exec_hostBar2Read {s : State} (hd : decodes .host s = true) (hr : s.sys.resetting = false) (off len : Nat) :
    exec (.hostBar2Read off len .host) s =
      .next { (bar2Read off len s).2 with hif.rdata := (bar2Read off len s).1 } := by
  change execHostBar2Read off len s .host = _
  rw [execHostBar2Read, hd, hr]
  rfl

/-! QSPI transactions (16_host_interface_rings.md R585 to R589). -/

section
variable {s : State} (hq : qspiRuns s = true)
include hq

theorem exec_qspiCsnRise : exec .qspiCsnRise s = .next { s with hif.qspi := none } := by
  change execQspiCsnRise s = _
  rw [execQspiCsnRise, hq]
  rfl

variable (hn : s.hif.qspi = none)
include hn

theorem exec_qspiId :
    exec .qspiId s = .next { (s.emit (.qspi [s.rd R.SYS_ID])) with hif.qspi := some ⟨false, 0, []⟩ } := by
  change execQspiId s = _
  rw [execQspiId, hq, hn]
  rfl

theorem exec_qspiRead_one (addr : Nat) : exec (.qspiRead addr 1) s = qspiRead addr 1 [] s := by
  change execQspiRead addr 1 s = _
  rw [execQspiRead, hq, hn]
  rfl

theorem exec_qspiWrite {data : List Byte} (h : data.length ≤ 256) (addr : Nat) :
    exec (.qspiWrite addr data) s = qspiWrite addr (data.length / 4) data s := by
  change execQspiWrite addr data s = _
  rw [execQspiWrite, hq, hn, decide_eq_false (show ¬ data.length > 256 by omega)]
  rfl

end

/-- A word's address names the same space as the address within it. -/
theorem qspiSpace_word (addr : Nat) : addr / 4 * 4 / 2 ^ 28 % 16 = addr / 2 ^ 28 % 16 := by omega

/-- One word from a space that reads 0. -/
theorem qspiRead_noSpace {addr : Nat} (h : addr / 2 ^ 28 % 16 = 2) (s : State) :
    qspiRead addr 1 [] s = .next { (s.emit (.qspi [0])) with hif.qspi := some ⟨false, addr + 4, []⟩ } := by
  simp only [qspiRead, qspiSpace_word, h, List.nil_append]

/-- One word of packet memory while it does not answer. -/
theorem qspiRead_closed {s : State} {addr : Nat} (h : addr / 2 ^ 28 % 16 = 1) (hp : pktOpen s = false) :
    qspiRead addr 1 [] s = .next { (s.emit (.qspi [0])) with hif.qspi := some ⟨false, addr + 4, []⟩ } := by
  simp only [qspiRead, qspiSpace_word, h, bar2Read_closed hp, List.nil_append]
  rfl

/-- A complete word to packet memory. -/
theorem qspiWord_pkt {addr : Nat} (h : addr / 2 ^ 28 % 16 = 1) (h4 : addr % 4 = 0) (bs : List Byte) (s : State) :
    qspiWord addr bs s = bar2Write (addr % 2 ^ 24) bs s := by
  have ha : addr / 4 * 4 = addr := by omega
  simp only [qspiWord, ha, h]

/-- Fewer bytes than a word are held. -/
theorem qspiWrite_part {bs : List Byte} (h : bs.length < 4) (addr : Nat) (s : State) :
    qspiWrite addr (bs.length / 4) bs s = .next { s with hif.qspi := some ⟨true, addr, bs⟩ } := by
  rw [Nat.div_eq_of_lt h]
  rfl

/-- One word has its effect, and nothing is held. -/
theorem qspiWrite_word {addr : Nat} {bs : List Byte} {s t : State} (hl : bs.length = 4) (h : qspiWord addr bs s = .next t) :
    qspiWrite addr (bs.length / 4) bs s = .next { t with hif.qspi := some ⟨true, addr + 4, []⟩ } := by
  have hd : bs.drop 4 = [] := List.drop_eq_nil_of_le (Nat.le_of_eq hl)
  rw [hl, qspiWrite, List.take_of_length_le (Nat.le_of_eq hl), h, hd]
  rfl

/-- Settles O26: each clause is the law of its row where the row's conditions hold; that a change of bus mastering lasts rests on
`busConfig`, which what the change lets go on leaves as it was. -/
theorem hostPortCommandsComplete : Obligations.HostPortCommandsComplete := by
  refine ⟨?reset, ?busMaster, ?linkUp, ?go, ?flashDone, ?unsupported, ?fetchAdd, ?bar2Write, ?bar2Read, ?noSpace, ?closed, ?part, ?word,
    ?id, ?rise⟩
  case reset =>
    intro s up hup hp hl
    exact ⟨_, exec_functionLevelReset hup hp hl up, rfl, functionReset_qps up s⟩
  case busMaster =>
    intro s bme d3 hup hp hl
    exact ⟨_, exec_busMasterChange hup hp hl bme d3, Prod.mk.inj (busConfig_busMasterDone bme d3 s)⟩
  case linkUp =>
    intro s speed width hup hp hlock h1 h3 w1 w2
    refine ⟨_, exec_pcieLinkUp hup hp hlock h1 h3 w1 w2, ?_, ?_, ?_⟩
    · rw [State.flag, State.get_set_bits _ _ _ _ (by decide) (by decide), State.get_set_bits _ _ _ _ (by decide) (by decide),
        State.get_set _ _ _ (by decide)]
      rfl
    · rw [State.get_set_bits _ _ _ _ (by decide) (by decide), State.get_set _ _ _ (by decide)]
      exact Nat.mod_eq_of_lt (show speed < 4 by omega)
    · rw [State.get_set _ _ _ (by decide)]
      exact Nat.mod_eq_of_lt (show width < 4 by omega)
  case go =>
    intro s a v hgo ha h hr hm hn hb
    exact ⟨_, exec_xspiGo hgo ha h hr hm hn hb, goDone_refused, goDone_busy, goDone_ctl v s⟩
  case flashDone =>
    intro s data hb hw
    refine ⟨_, exec_xspiCmdDone_write hb hw data, ?_, rfl⟩
    change (s.set R.HIF_XSPI_STAT_BUSY 0).flag R.HIF_XSPI_STAT_BUSY = false
    rw [State.flag_set _ _ _ (by decide) rfl]
    rfl
  case unsupported =>
    intro s add32 bar0 off v hup hp hl hd hb h
    exact ⟨_, exec_atomicOp_unsupported hup hp hl hd hb h off v, rfl⟩
  case fetchAdd =>
    rintro s off k v hup hp hl hd hb hk rfl
    exact ⟨_, exec_atomicOp_counter hup hp hl hd hb hk v, rfl⟩
  case bar2Write =>
    intro s off data hd hp hr ho hf
    exact ⟨_, (exec_hostBar2Write off data s).trans (bar2Write_stores hd hp hr ho hf), rfl⟩
  case bar2Read =>
    intro s off len hd hr
    refine ⟨_, exec_hostBar2Read hd hr off len, rfl, fun h => ?_, bar2Read_pkt off len s⟩
    exact congrArg Prod.fst (bar2Read_closed h off len)
  case noSpace =>
    intro s addr hq hn h
    exact ⟨_, (exec_qspiRead_one hq hn addr).trans (qspiRead_noSpace h s), rfl⟩
  case closed =>
    intro s addr hq hn h hp
    exact ⟨_, (exec_qspiRead_one hq hn addr).trans (qspiRead_closed h hp), rfl⟩
  case part =>
    intro s addr data hq hn h
    exact ⟨_, (exec_qspiWrite hq hn (by omega) addr).trans (qspiWrite_part h addr s), rfl⟩
  case word =>
    intro s addr data hq hn hl h1 h4 ho hd hp hr hf
    have hw : bar2Write (addr % 2 ^ 24) data s = .next (s.setPkt (s.pkt.wrBytes (addr % 2 ^ 24) data)) :=
      bar2Write_stores hd hp hr (by omega) (by rw [hl]; exact hf)
    exact ⟨_, (exec_qspiWrite hq hn (by omega) addr).trans (qspiWrite_word hl ((qspiWord_pkt h1 h4 data s).trans hw)), rfl⟩
  case id =>
    intro s hq hn
    exact ⟨_, exec_qspiId hq hn, rfl⟩
  case rise =>
    intro s hq
    exact ⟨_, exec_qspiCsnRise hq, rfl⟩

end Sys2Proof.Machine
end

section
/-!
SUPPORT. The state right after PORN is released (04_staged_start.md R123): every register reads its reset word, every map is empty; and what
the balls do in device reset whatever else the state holds (04_staged_start.md R120).
-/
namespace Sys2Proof.Machine

/-! The state after reset. -/

/-- No register has been written, so each one reads its reset word. -/
@[simp] theorem State.rd_reset (o : Nat) : State.reset.rd o = resetWord o := rfl

@[simp] theorem State.get_reset (f : Fld) : State.reset.get f = wget (resetWord f.off) f.lo f.w := rfl

/-- No channel's driver has left its reset state. -/
@[simp] theorem State.pch_reset (c : Nat) : State.reset.pch c = PwsCh.reset := rfl

/-- Every register file and memory is an empty map, and the queue is empty. -/
theorem State.sound_reset : State.reset.sound = true := by
  have hc : State.reset.canonical = true := by
    simp only [State.canonical, Bool.and_eq_true]
    exact ⟨⟨⟨⟨mwf_nil _, mwf_nil _⟩, mwf_nil _⟩, mwf_nil _⟩, mwf_nil _⟩
  have hq : State.reset.queueOk = true := List.all_nil
  exact Bool.and_eq_true_iff.2 ⟨hc, hq⟩

/-- No stage has been entered (04_staged_start.md R123). -/
theorem State.stage_reset : State.reset.stage = 0 := by
  have h : resetWord R.SYS_STAGE = 0 := by decide
  rw [State.stage, State.get_reset, h]
  rfl

/-- A channel's status out of reset shows OCA, OCB and HOC and no other bit. -/
theorem resetWord_pwsChStat (c : Fin 16) : resetWord (R.PWS_CH_STAT c.val) = 0x70 := by
  revert c
  decide

/-- So no channel is latched (LATCHED is bit 3). -/
theorem latched_reset (c : Fin 16) : latched State.reset c.val = false := by
  have hbit : wget 0x70 3 1 = 0 := by decide
  rw [latched, State.flag, State.get_reset, resetWord_pwsChStat]
  exact decide_eq_false (not_not_intro hbit)

/-! The balls in device reset (04_staged_start.md R120; 26_signals_package_electrical.md R906, R907). -/

/-- In device reset outside board-test reset the device drives no ball, be its rail within range or not. -/
theorem ballState_resetting {s : State} (hr : s.sys.resetting = true) (hb : s.sys.boardTest = false) (b : Ball) :
    ballState s b = .off := by
  by_cases hrail : railOk s b.rail = true
  · simp [ballState, hrail, hb, hr]
  · simp [ballState, hrail]

/-- The pull of a gate ball is down while its rail is within range. -/
theorem ballPull_gd {s : State} (h : railOk s 8 = true) (n : Nat) : ballPull s (.gd n) = .down := by
  simp [ballPull, Ball.rail, h]

/-- The pull of a fan's PWM ball is up while its rail is within range. -/
theorem ballPull_fanPwm {s : State} (h : railOk s 7 = true) (n : Nat) : ballPull s (.fanPwm n) = .up := by
  simp [ballPull, Ball.rail, h]

/-- Settles O43: at reset every map is empty, so each register reads its table's word; in reset no ball is driven and the pulls alone act. -/
theorem resetIsSound : Obligations.ResetIsSound := by
  unfold Obligations.ResetIsSound
  refine ⟨?atReset, ?balls⟩
  case atReset =>
    rintro s rfl
    have hnen : resetWord R.CLK_NEN = 0x7F := by decide
    have hhold : resetWord R.CLK_HOLD_TO = 0x7D0 := by decide
    have hslow : resetWord R.CLK_SLOW_THR = 0x320 := by decide
    have hcap : resetWord R.CLK_CAP = 0x96258640 := by decide
    have hcause : resetWord R.SYS_RSTCAUSE = 1 := by decide
    exact ⟨State.sound_reset, rfl, rfl, State.stage_reset, hnen, hhold, hslow, hcap, hcause,
      fun c => ⟨congrArg PwsCh.drive (State.pch_reset c.val), latched_reset c⟩⟩
  case balls =>
    intro s n hr hb h8 h7
    have hoff := ballState_resetting hr hb
    exact ⟨hoff _, ballPull_gd h8 n, hoff _, ballPull_fanPwm h7 n, hoff _⟩

end Sys2Proof.Machine
end

section
/-!
SUPPORT. The Stage 2 load and the push window (04_staged_start.md R139 to R146; 06_veneer_image.md R203, R208, R213, R215): what WARP, each
phase of a load, a pushed word and a silent push answer when their conditions hold; and from these the statement on them (O5).
-/
namespace Sys2Proof.Machine

/-! WARP (04_staged_start.md R139, R140). -/

/-- Where none of the refusals of R140 holds, the host's WARP starts a load. -/
theorem warpWrite_accepted {s : State} (hh : s.halted = false) (hb : s.get R.SYS_STRAP_BOOT < 2) (hl : s.flag R.SYS_STAGE_LOADING = false)
    (ht : s.flag R.SYS_PSTATE_TRANS = false) (hs : s.stage = 1) (hp : s.pstate = 1) (push : Bool) :
    warpWrite .host push s = startLoad push false (s.set R.SYS_STAGE_CMDERR 0) := by
  have hboot : ¬ (s.get R.SYS_STRAP_BOOT ≠ 0 ∧ s.get R.SYS_STRAP_BOOT ≠ 1) := by omega
  simp [warpWrite, isHost, hh, hboot, hl, ht, hs, hp]

theorem exec_warp_reaches {s : State} {push : Bool}
    (h : reaches .host R.SYS_STAGE_CMD (BitVec.ofNat 32 (1 + 16 * b2n push)) s = true) :
    exec (.warp .host push) s = .next (warpWrite .host push s) := access_reaches h _

/-! The phases (04_staged_start.md R141, R144 to R146). -/

/-- The outcome of the check that ends WAKE: the image goes on to STREAM, or the load fails with AUTH (06_veneer_image.md R203). -/
def wakeChecked (m : Image) (s : State) : State :=
  if imageOk false m s then { s with vnr.img := m, sys.load := .stream } else loadFail 4 s

section
variable {s : State} (hw : s.sys.load = .wake) (hf : allFed s = true)
include hw hf

/-- A load from flash goes on with what the flash answers once no flash command of the host is in progress. -/
theorem exec_loadWakeDone_flash (hp : s.sys.loadPush = false) (hb : s.flag R.HIF_XSPI_STAT_BUSY = false) (flash : Option Flash) :
    exec (.loadWakeDone flash) s =
      .next (match flash with | some f => wakeChecked (flashFrom f (flashBase s)) s | none => loadFail 6 s) := by
  change execLoadWakeDone flash s = _
  cases flash <;> simp [execLoadWakeDone, wakeChecked, hw, hf, hp, hb]

/-- A pushed load checks the header and the section table that the host has pushed, whatever the flash holds. -/
theorem exec_loadWakeDone_push (hp : s.sys.loadPush = true) (hh : headerArrived s.vnr.img = true) (flash : Option Flash) :
    exec (.loadWakeDone flash) s = .next (wakeChecked s.vnr.img s) := by
  change execLoadWakeDone flash s = _
  simp [execLoadWakeDone, wakeChecked, hw, hf, hp, hh]

end

theorem exec_loadStreamDone {s : State} (hl : s.sys.load = .stream) (ha : imageArrived s.vnr.img = true) :
    exec .loadStreamDone s =
      .next { placeImage (s.vnr.img.take (imgLen s.vnr.img)) s with vnr.img := s.vnr.img.take (imgLen s.vnr.img), sys.load := .verify } := by
  change execLoadStreamDone s = _
  simp [execLoadStreamDone, hl, ha]

theorem exec_loadVerifyDone {s : State} (hl : s.sys.load = .verify) :
    exec .loadVerifyDone s = .next (if signatureOk s.vnr.img s then { s with sys.load := .apply } else loadFail 4 s) := by
  change execLoadVerifyDone s = _
  simp [execLoadVerifyDone, hl]

theorem exec_loadApplyDone {s : State} (hl : s.sys.load = .apply) (hs : sectionsOk s.vnr.img = true) (readback : List (Nat × Nat)) :
    exec (.loadApplyDone readback) s = .next (enterStage2 readback s) := by
  change execLoadApplyDone readback s = _
  simp [execLoadApplyDone, hl, hs]

/-! The end of apply: Stage 2 and FULL, whatever the sections did before it (04_staged_start.md R141; 05_power_states.md R178). -/

/-- The entry time and the notice leave the stage field as it was set. -/
theorem stage_enterStage (n : Nat) (s : State) : (enterStage n s).stage = n % 2 ^ R.SYS_STAGE_STAGE.w := by
  unfold enterStage State.stage
  rw [cause_get_off _ _ _ (by decide) _ (by decide) (by decide)]
  split
  · exact State.get_set _ _ _ (by decide)
  · have hoff : R.SYS_STAGE_STAGE.off < R.SYS_TSTAGE1 := by decide
    rw [State.get_wr_ne _ _ _ _ (by omega), State.get_set _ _ _ (by decide)]

/-- The end of a transition touches SYS_PSTATE and SYS_PNSTAT alone of the SYS registers, so not the stage. -/
theorem stage_transDone (st : Nat) (s : State) : (transDone st s).stage = s.stage := by
  unfold transDone State.stage
  rw [cause_get_off _ _ _ (by decide) _ (by decide) (by decide)]
  simp only [State.get_set_off _ R.SYS_PSTATE_STATE R.SYS_STAGE_STAGE _ (by decide),
    State.get_set_off _ R.SYS_PSTATE_TRANS R.SYS_STAGE_STAGE _ (by decide),
    State.get_set_off _ R.SYS_PSTATE_TARGET R.SYS_STAGE_STAGE _ (by decide)]

theorem pstate_transDone (st : Nat) (s : State) : (transDone st s).pstate = st % 2 ^ R.SYS_PSTATE_STATE.w := by
  unfold transDone State.pstate
  rw [cause_get_off _ _ _ (by decide) _ (by decide) (by decide), State.get_set_bits _ _ _ _ (by decide) (by decide),
    State.get_set_bits _ _ _ _ (by decide) (by decide), State.get_set _ _ _ (by decide)]

theorem trans_transDone (st : Nat) (s : State) : (transDone st s).flag R.SYS_PSTATE_TRANS = false := by
  unfold transDone State.flag
  rw [cause_get_off _ _ _ (by decide) _ (by decide) (by decide), State.get_set_bits _ _ _ _ (by decide) (by decide),
    State.get_set _ _ _ (by decide)]
  rfl

theorem stage_enterStage2 (rb : List (Nat × Nat)) (s : State) : (enterStage2 rb s).stage = 2 :=
  (stage_transDone 2 _).trans (stage_enterStage 2 _)

theorem pstate_enterStage2 (rb : List (Nat × Nat)) (s : State) : (enterStage2 rb s).pstate = 2 := pstate_transDone 2 _

theorem trans_enterStage2 (rb : List (Nat × Nat)) (s : State) : (enterStage2 rb s).flag R.SYS_PSTATE_TRANS = false :=
  trans_transDone 2 _

/-! The push window (06_veneer_image.md R213, R215). -/

theorem exec_pushWord_reaches {s : State} {v : Word} (h : reaches .host (R.VNR_PUSH 0) v s = true) :
    exec (.pushWord .host v) s = .next (pushWrite .host v s) := access_reaches h _

section
variable {s : State} (ho : pushOpen s = true) (hw : pushWants s = true)
include ho hw

/-- A word of an open push is appended and counted; while a patch is staged it goes to packet memory as well, which neither the
image nor the count shows. -/
theorem pushWrite_img (v : Word) : (pushWrite .host v s).vnr.img = s.vnr.img ++ leBytes 4 v.toNat := by
  simp [pushWrite, isHost, ho, hw, apply_ite State.vnr]

theorem pushWrite_count (v : Word) :
    (pushWrite .host v s).get R.VNR_PUSH_STAT_COUNT = (s.vnr.img.length + 4) % 2 ^ R.VNR_PUSH_STAT_COUNT.w := by
  have hlen : (leBytes 4 v.toNat).length = 4 := by simp [leBytes]
  simp [pushWrite, isHost, ho, hw, apply_ite State.vnr, State.get_set, hlen]

/-- The load, the reload of NET or the patch that the silent push feeds fails. -/
theorem exec_pushTimeout :
    exec .pushTimeout s =
      .next (if s.sys.load ≠ .idle then loadFail 6 s else if s.sys.netLoad then netFail 6 s else patchEnding 4 s) := by
  change execPushTimeout s = _
  simp only [execPushTimeout, ho, hw, Bool.not_true, Bool.or_self, Bool.false_eq_true, if_false]
  split
  · rfl
  · split <;> rfl

end

/-- Settles O5: each command whose conditions hold answers the state of its lemma above; a load's apply ends in Stage 2 and FULL since the
end of the transition is the last that it does. -/
theorem loadCommandsComplete : Obligations.LoadCommandsComplete := by
  refine ⟨?warp, ?wakeFlash, ?wakeSilent, ?wakePush, ?stream, ?verify, ?apply, ?word, ?silent⟩
  case warp =>
    intro s push hr hh hb hl ht hs hp
    exact ⟨_, exec_warp_reaches hr, warpWrite_accepted hh hb hl ht hs hp push⟩
  case wakeFlash =>
    rintro s f m hw hf hp hb rfl
    exact ⟨_, exec_loadWakeDone_flash hw hf hp hb (some f), rfl⟩
  case wakeSilent =>
    intro s hw hf hp hb
    exact ⟨_, exec_loadWakeDone_flash hw hf hp hb none, rfl⟩
  case wakePush =>
    intro s flash hw hf hp hh
    exact ⟨_, exec_loadWakeDone_push hw hf hp hh flash, rfl⟩
  case stream =>
    intro s hl ha
    exact ⟨_, exec_loadStreamDone hl ha, rfl, rfl⟩
  case verify =>
    intro s hl
    exact ⟨_, exec_loadVerifyDone hl, rfl⟩
  case apply =>
    intro s readback hl hs
    exact ⟨_, exec_loadApplyDone hl hs readback, stage_enterStage2 readback s, pstate_enterStage2 readback s, trans_enterStage2 readback s⟩
  case word =>
    intro s v hr ho hw
    exact ⟨_, exec_pushWord_reaches hr, pushWrite_img ho hw v, pushWrite_count ho hw v⟩
  case silent =>
    intro s ho hw
    exact ⟨_, exec_pushTimeout ho hw, rfl⟩

end Sys2Proof.Machine
end

section
/-!
SUPPORT. Registers that act on the host alone (05_power_states.md R171; 19_power_stage_protection.md R710): a write by any other agent to one
of them changes nothing, in whatever state its block is; and from this the statement on SYS_PSTATE_CMD and the power stage's registers (O48).
-/
namespace Sys2Proof.Machine

/-! Writes by another agent than the host. -/

/-- Only PRT, HIF and PLY stall: theirs are the PLLs of 03_islands_and_weft.md R939. -/
theorem State.stalled_other {i : Nat} (hprt : i ≠ islPRT) (hhif : i ≠ islHIF) (hply : i ≠ islPLY) (s : State) : s.stalled i = false := by
  have h62 : i ≠ 62 := hprt
  have h63 : i ≠ 63 := hhif
  have h74 : i ≠ 74 := hply
  simp only [State.stalled, decide_eq_false h62, decide_eq_false h63, decide_eq_false h74, Bool.false_and, Bool.or_false]

section
variable {a : Agent} {o : Nat} {s : State} (ha : isHost a = false) (hm : mayWrite a o = false) (hs : blockStalls s o = false)
include ha hm hs

/-- Where the register does not act on the agent and its block does not stall, a write neither waits nor has an effect. -/
theorem access_notHost (v : Word) (k : State → Out) : access a o v k s = .next s := by
  have hw : weftHeld a o s = false := by simp only [weftHeld, hs, ha, Bool.false_and, Bool.or_false]
  have hact : blockAct a o v k s = .next s := by simp only [blockAct, stay, hm, Bool.not_false, if_true]
  simp only [access, stay, hw, ha, hact, Bool.false_and, Bool.false_eq_true, if_false, ite_self]

theorem exec_registerWrite_notHost (h4 : o % 4 = 0) (ho : o < 0x1000000) (v : Word) :
    exec (.registerWrite a o 15 v none) s = .next s := by
  have hw : o / 4 * 4 = o := by omega
  have hp : ¬ (0x1000000 ≤ o ∧ o < 0x1800000 ∧ (s.panel ((o - 0x1000000) / 0x100000)).stall) := by omega
  rw [exec_registerWrite, wordWrite_whole h4, busWrite, hw, if_neg hp, access_notHost ha hm hs]

end

/-! SYS_PSTATE_CMD stands in AO, the power stage's registers in PWS. -/

theorem blockStalls_pstateCmd (s : State) : blockStalls s R.SYS_PSTATE_CMD = false :=
  State.stalled_other (i := islAO) (by decide) (by decide) (by decide) s

theorem mayWrite_pstateCmd {a : Agent} (ha : isHost a = false) : mayWrite a R.SYS_PSTATE_CMD = false := by
  have hsys : mayWrite a R.SYS_PSTATE_CMD = (isHost a || false) := rfl
  rw [hsys, ha, Bool.or_false]

theorem blockIsland_pws {o : Nat} (h1 : 0xA0000 ≤ o) (h2 : o < 0xB0000) : blockIsland o = some islPWS := by
  unfold blockIsland
  iterate 7 refine (if_neg (by omega)).trans ?_
  exact if_pos h2

theorem blockStalls_pws {o : Nat} (h1 : 0xA0000 ≤ o) (h2 : o < 0xB0000) (s : State) : blockStalls s o = false := by
  simp only [blockStalls, blockIsland_pws h1 h2]
  exact State.stalled_other (by decide) (by decide) (by decide) s

/-- PWS_CLR and the channels' PWS_CH_CFG are the registers of PWS that act on the host alone. -/
theorem mayWrite_pws {o : Nat} (h1 : 0xA0000 ≤ o) (h2 : o < 0xB0000) (a : Agent) :
    mayWrite a o = (isHost a || decide (o ≠ R.PWS_CLR ∧ ¬(0xA0100 ≤ o ∧ o < 0xA0300 ∧ o % 0x20 = 0))) := by
  unfold mayWrite
  iterate 8 refine (if_neg (by omega)).trans ?_
  exact if_pos h2

theorem mayWrite_pwsClr {a : Agent} (ha : isHost a = false) : mayWrite a R.PWS_CLR = false := by
  rw [mayWrite_pws (by decide) (by decide), ha]
  decide

theorem pwsChCfg_range {c : Nat} (hc : c < 16) :
    0xA0100 ≤ R.PWS_CH_CFG c ∧ R.PWS_CH_CFG c < 0xA0300 ∧ R.PWS_CH_CFG c % 0x20 = 0 := by
  simp only [R.PWS_CH_CFG]
  omega

theorem mayWrite_pwsChCfg {a : Agent} (ha : isHost a = false) {c : Nat} (hc : c < 16) : mayWrite a (R.PWS_CH_CFG c) = false := by
  have hrange := pwsChCfg_range hc
  rw [mayWrite_pws (by omega) (by omega), ha, Bool.false_or, decide_eq_false_iff_not]
  exact fun h => h.2 hrange

theorem powerCmd_notHost {a : Agent} (ha : isHost a = false) (cmd key : Nat) (push : Bool) (s : State) :
    powerCmd a cmd key push s = .next s :=
  access_notHost ha (mayWrite_pstateCmd ha) (blockStalls_pstateCmd s) _ _

/-- Settles O48: no write of another agent acts on any of these registers, and none waits, since neither AO nor PWS stalls. -/
theorem onlyTheHostCommandsPowerAndStage : Obligations.OnlyTheHostCommandsPowerAndStage := by
  unfold Obligations.OnlyTheHostCommandsPowerAndStage
  intro s a v w k c q ha hc
  have hcfg := pwsChCfg_range hc
  have hclr : blockStalls s R.PWS_CLR = false := blockStalls_pws (by decide) (by decide) s
  refine ⟨?word, ?full, ?quiet, ?net, ?standby, ?service, ?reset, ?chCfg, ?clr, ?latchClear⟩
  case word => exact exec_registerWrite_notHost ha (mayWrite_pstateCmd ha) (blockStalls_pstateCmd s) (by decide) (by decide) v
  case full => exact powerCmd_notHost ha 1 k w s
  case quiet => exact powerCmd_notHost ha 2 k w s
  case net => exact powerCmd_notHost ha 3 k false s
  case standby => exact powerCmd_notHost ha 4 k false s
  case service => exact powerCmd_notHost ha 5 k false s
  case reset => exact powerCmd_notHost ha 6 k false s
  case chCfg => exact exec_registerWrite_notHost ha (mayWrite_pwsChCfg ha hc) (blockStalls_pws (by omega) (by omega) s) (by omega) (by omega) v
  case clr => exact exec_registerWrite_notHost ha (mayWrite_pwsClr ha) hclr (by decide) (by decide) v
  case latchClear => exact access_notHost ha (mayWrite_pwsClr ha) hclr v _

end Sys2Proof.Machine
end

section
/-!
SUPPORT. The power-state commands and the end of a transition (05_power_states.md R171 to R188): what an accepted command does, what RESET
keeps of the block's state, in what state a transition ends, how the reload of NET ends, and what wakes STANDBY; and from these the
statement on them (O7).
-/
namespace Sys2Proof.Machine

/-! Commands of the host (05_power_states.md R171 to R176, R186 to R188). -/

/-- A power command with the key that reaches SYS_PSTATE_CMD is a write with the key and SRC that the command carries. -/
theorem powerCmd_reaches {s : State} {cmd : Nat} {push : Bool} (h : reaches .host R.SYS_PSTATE_CMD (powerWord cmd 0x5A push) s = true) :
    powerCmd .host cmd 0x5A push s = .next (powerWrite .host cmd 0x5A push s) := access_reaches h _

section
variable {s : State} (hh : s.halted = false) (ht : s.flag R.SYS_PSTATE_TRANS = false) (hl : s.flag R.SYS_STAGE_LOADING = false)
  (hp : s.flag R.VNR_PATCH_STAT_BUSY = false)
include hh ht hl hp

/-- Where none of the refusals of R172 to R176 holds, commands 1 to 4 start their transition. -/
theorem powerWrite_starts {cmd : Nat} (h1 : 1 ≤ cmd) (h4 : cmd ≤ 4) (ha : powerAllowed s.pstate (cmd + 1) = true) (push : Bool) :
    powerWrite .host cmd 0x5A push s = transStart (cmd + 1) push s := by
  have h0 : cmd ≠ 0 := by omega
  have hle : cmd ≤ 5 := by omega
  have h5 : cmd ≠ 5 := by omega
  have h6 : cmd ≠ 6 := by omega
  simp [powerWrite, isHost, h0, hle, h5, h6, hh, ht, hl, hp, ha]

/-- SERVICE asks for the service unlock too (R187), and for a device that is neither LEADER nor FOLLOWER (22_ply_pair.md R822). -/
theorem powerWrite_service (ha : powerAllowed s.pstate 6 = true) (hu : s.flag R.DGN_STAT_UNLOCKED = true) (hr : s.role < 2) :
    powerWrite .host 5 0x5A false s = transStart 6 false s := by
  simp [powerWrite, isHost, hh, ht, hl, hp, ha, hu, hr]

end

/-! RESET (05_power_states.md R188; 04_staged_start.md R119 to R124). -/

theorem sys_foldl {α : Type} {f : State → α → State} (h : ∀ s a, (f s a).sys = s.sys) (l : List α) (s : State) :
    (l.foldl f s).sys = s.sys :=
  List.foldlRecOn l f (motive := fun t => t.sys = s.sys) rfl fun t ht a _ => (h t a).trans ht

/-- The fuses are read into registers alone. -/
theorem loadFuses_sys (s : State) : (loadFuses s).sys = s.sys := by
  unfold loadFuses
  rw [sys_foldl, sys_foldl, State.sys_wr, sys_foldl, State.sys_wr, State.sys_set, State.wr64, State.sys_wr, State.sys_wr, State.sys_set,
    State.sys_set, State.sys_set, sys_foldl]
  all_goals exact fun _ _ => rfl

/-- A device reset begins, and remembers whether it keeps the straps. -/
theorem deviceReset_sys (bits : Word) (keep : Bool) (s : State) :
    (deviceReset bits keep s).sys.resetting = true ∧ (deviceReset bits keep s).sys.keepStraps = keep := by
  unfold deviceReset
  simp only [loadFuses_sys, apply_ite State.sys, State.sys_wr, ite_self]
  rw [sys_foldl]
  · exact ⟨rfl, rfl⟩
  · exact fun _ _ => rfl

/-! The end of a transition (05_power_states.md R178, R183). -/

/-- SYS_PSTATE and SYS_PNSTAT as a transition to a state leaves them. -/
structure TransEnded (st : Nat) (t : State) : Prop where
  pstate : t.pstate = st
  trans : t.flag R.SYS_PSTATE_TRANS = false
  target : t.get R.SYS_PSTATE_TARGET = 0
  done : t.get R.SYS_PNSTAT_DONE = 1

theorem transDone_ends {st : Nat} (h : st < 8) (s : State) : TransEnded st (transDone st s) where
  pstate := (pstate_transDone st s).trans (Nat.mod_eq_of_lt h)
  trans := trans_transDone st s
  target := by
    unfold transDone
    rw [cause_get_off _ _ _ (by decide) _ (by decide) (by decide), State.get_set _ _ _ (by decide)]
    rfl
  done := cause_get_self _ _ _ (by decide) (by decide) (by decide) rfl

theorem get_foldl {α : Type} {f : State → α → State} {g : Fld} (h : ∀ s a, (f s a).get g = s.get g) (l : List α) (s : State) :
    (l.foldl f s).get g = s.get g :=
  List.foldlRecOn l f (motive := fun t => t.get g = s.get g) rfl fun t ht a _ => (h t a).trans ht

/-! What stands outside SYS leaves the fields of SYS as they are. -/

section
variable {g : Fld} (hg : g.off < 0x10000)
include hg

theorem get_wr_outside {o : Nat} (ho : 0x10000 ≤ o) (v : Word) (s : State) : (s.wr o v).get g = s.get g :=
  State.get_wr_ne _ _ _ _ (by omega)

theorem get_set_outside {f : Fld} (hf : 0x10000 ≤ f.off) (v : Nat) (s : State) : (s.set f v).get g = s.get g :=
  State.get_set_off _ _ _ _ (by omega)

/-- PWS loses registers of its own and the power bit of its island, none of the system's. -/
theorem pwsOff_get (s : State) : (pwsOff s).get g = s.get g := by
  unfold pwsOff
  rw [get_set_outside hg (by decide), get_foldl]
  · rw [get_wr_outside hg (by decide), get_wr_outside hg (by decide)]
  · intro s c
    rw [showDt, get_set_outside hg, gatesLow, State.get_setPch, get_set_outside hg, get_set_outside hg, get_wr_outside hg,
      get_wr_outside hg]
    all_goals exact Nat.le_add_right_of_le (by decide)

theorem standbyPws_get (s : State) : (standbyPws s).get g = s.get g := by
  unfold standbyPws
  split
  case isTrue => rfl
  case isFalse =>
    split
    case isTrue => exact get_set_outside hg (by decide) _ _
    case isFalse => rw [get_set_outside hg (by decide), apply_ite (State.get · g), pwsOff_get hg, ite_self]

end

theorem transEnded_standbyPws {st : Nat} {t : State} (h : TransEnded st t) : TransEnded st (standbyPws t) := by
  obtain ⟨hst, htr, hta, hdo⟩ := h
  refine ⟨?_, ?_, ?_, ?_⟩
  · rw [← hst]; exact standbyPws_get (by decide) t
  · rw [← htr, State.flag, standbyPws_get (by decide)]; rfl
  · rw [← hta]; exact standbyPws_get (by decide) t
  · rw [← hdo]; exact standbyPws_get (by decide) t

/-- A transition whose bound has run with every gate back ends in its target, whichever of the five it is. -/
theorem exec_powerTransitionDone_ends {s : State} (ht : s.flag R.SYS_PSTATE_TRANS = true) (hn : s.sys.netLoad = false)
    (hg : s.sys.gatesOut = []) {st : Nat} (hst : s.get R.SYS_PSTATE_TARGET = st) (h2 : 2 ≤ st) (h6 : st ≤ 6) :
    ∃ t, exec .powerTransitionDone s = .next t ∧ TransEnded st t := by
  change ∃ t, execPowerTransitionDone s = .next t ∧ TransEnded st t
  simp only [execPowerTransitionDone, ht, hn, hg, hst, ne_eq, not_true, decide_false, Bool.not_true, Bool.or_self, Bool.false_eq_true,
    if_false]
  have hcases : st = 2 ∨ st = 3 ∨ st = 4 ∨ st = 5 ∨ st = 6 := by omega
  rcases hcases with rfl | rfl | rfl | rfl | rfl
  · exact ⟨_, rfl, transDone_ends (by decide) _⟩
  · exact ⟨_, rfl, transDone_ends (by decide) _⟩
  · exact ⟨_, rfl, transDone_ends (by decide) _⟩
  · exact ⟨_, rfl, transEnded_standbyPws (transDone_ends (by decide) _)⟩
  · exact ⟨_, rfl, transDone_ends (by decide) _⟩

/-! The return from NET (05_power_states.md R182) and the wake in STANDBY (05_power_states.md R185). -/

section
variable {s : State} (hn : s.sys.netLoad = true) (hp : s.sys.netPush = false) (hb : s.flag R.HIF_XSPI_STAT_BUSY = false)
include hn hp hb

/-- The reload takes the image that the flash holds, and fails where it is not the whole, signed image in force. -/
theorem exec_netReloadDone_flash {f : Flash} {m : Image} (hm : m = (flashFrom f (flashBase s)).take (imgLen (flashFrom f (flashBase s))))
    (readback : List (Nat × Nat)) :
    exec (.netReloadDone (some f) readback) s =
      .next (if imageArrived m && imageOk false m s && signatureOk m s && decide (imgDigest m = loadedDigest s) then
        netReturn m readback s else netFail 5 s) := by
  change execNetReloadDone (some f) readback s = _
  simp only [execNetReloadDone, hn, hp, hb, ← hm, Bool.not_true, Bool.and_false, Bool.or_self, Bool.false_eq_true, if_false]
  split <;> rfl

/-- A silent flash fails the reload with SOURCE, which is a refusal (05_power_states.md R178; assumption 160). -/
theorem exec_netReloadDone_silent (readback : List (Nat × Nat)) : exec (.netReloadDone none readback) s = .next (netFail 6 s) := by
  change execNetReloadDone none readback s = _
  simp [execNetReloadDone, hn, hp, hb]

end

theorem exec_standbyWakeFrame {s : State} {id : Nat} {ext : Bool} (hst : s.pstate = 5) (hr : s.sys.resetting = false)
    (hw : wakeMatch s id ext = true) (data : List Byte) :
    exec (.standbyWakeFrame id ext data) s = .next (s.set R.SYS_WAKE_CAN 1) := by
  change execStandbyWakeFrame id ext data s = _
  simp [execStandbyWakeFrame, hst, hr, hw]

/-- Settles O7: each command whose conditions hold answers the state of its lemma above; a transition's end is the last that each target
does, but for the power of PWS in STANDBY, which touches no register of SYS. -/
theorem powerCommandsComplete : Obligations.PowerCommandsComplete := by
  refine ⟨?full, ?quiet, ?net, ?standby, ?service, ?reset, ?ended, ?reload, ?silent, ?wake⟩
  case full =>
    intro s push hr hh ht hl hp ha
    exact ⟨_, powerCmd_reaches hr, powerWrite_starts hh ht hl hp (by decide) (by decide) ha push⟩
  case quiet =>
    intro s push hr hh ht hl hp ha
    exact ⟨_, powerCmd_reaches hr, powerWrite_starts hh ht hl hp (by decide) (by decide) ha push⟩
  case net =>
    intro s hr hh ht hl hp ha
    exact ⟨_, powerCmd_reaches hr, powerWrite_starts hh ht hl hp (by decide) (by decide) ha false⟩
  case standby =>
    intro s hr hh ht hl hp ha
    exact ⟨_, powerCmd_reaches hr, powerWrite_starts hh ht hl hp (by decide) (by decide) ha false⟩
  case service =>
    intro s hr hh ht hl hp ha hu hrole
    exact ⟨_, powerCmd_reaches hr, powerWrite_service hh ht hl hp ha hu hrole⟩
  case reset =>
    intro s hr
    exact ⟨_, powerCmd_reaches hr, rfl, deviceReset_sys rstHOST true (jrnSettle s)⟩
  case ended =>
    intro s ht hn hg h2 h6
    obtain ⟨t, hexec, hst, htr, hta, hdo⟩ := exec_powerTransitionDone_ends ht hn hg rfl h2 h6
    exact ⟨t, hexec, hst, htr, hta, hdo⟩
  case reload =>
    rintro s f m readback hn hp hb rfl
    exact ⟨_, exec_netReloadDone_flash hn hp hb rfl readback, rfl⟩
  case silent =>
    intro s readback hn hp hb
    exact ⟨_, exec_netReloadDone_silent hn hp hb readback, rfl⟩
  case wake =>
    intro s id ext data hst hr hw
    exact ⟨_, exec_standbyWakeFrame hst hr hw data, rfl⟩

end Sys2Proof.Machine
end

section
/-!
SUPPORT. The fuses of the image (06_veneer_image.md R207 to R211, R941): what an accepted key burn and an accepted rollback advance stage,
and what the end of a burn blows; and from these the statement on them (O9).
-/
namespace Sys2Proof.Machine

/-! The key burn (06_veneer_image.md R207, R941). -/

theorem exec_keyprogBurn_reaches {s : State} {v : Word} (h : reaches .host R.VNR_KEYPROG_CMD v s = true) :
    exec (.keyprogBurn .host v) s = .next (keyprogWrite .host v s) := access_reaches h _

/-- VNR_KEYPROG holds the key to program in words of its own: a field set in any other register leaves it. -/
theorem keyStaged_set {f : Fld} (hf : ∀ i < 8, R.VNR_KEYPROG i ≠ f.off) (v : Nat) (s : State) : keyStaged (s.set f v) = keyStaged s := by
  unfold keyStaged
  rw [List.flatMap_congr]
  intro i hi
  rw [State.rd_set_ne _ _ _ _ (hf i (List.mem_range.mp hi))]

/-- VNR_KEYPROG_STAT as an accepted burn leaves it: no error, DONE clear and BUSY set. -/
def keyprogBusy (s : State) : State :=
  ((s.set R.VNR_KEYPROG_STAT_ERR 0).set R.VNR_KEYPROG_STAT_DONE 0).set R.VNR_KEYPROG_STAT_BUSY 1

theorem keyStaged_keyprogBusy (s : State) : keyStaged (keyprogBusy s) = keyStaged s := by
  unfold keyprogBusy
  rw [keyStaged_set (by decide), keyStaged_set (by decide), keyStaged_set (by decide)]

theorem busy_keyprogBusy (s : State) : (keyprogBusy s).flag R.VNR_KEYPROG_STAT_BUSY = true :=
  State.flag_set _ _ _ (by decide) rfl

theorem err_keyprogBusy (s : State) : (keyprogBusy s).get R.VNR_KEYPROG_STAT_ERR = 0 := by
  unfold keyprogBusy
  rw [State.get_set_bits _ _ _ _ (by decide) (by decide), State.get_set_bits _ _ _ _ (by decide) (by decide),
    State.get_set _ _ _ (by decide)]
  rfl

/-- Where none of the refusals of R941 holds, the key that VNR_KEYPROG held at the write is staged. -/
theorem keyprogWrite_accepted {s : State} (hk : s.fuses.key = 0) (hl : s.held.lc = 0) (hb : burning s = false) (he : earlyWarn s = false) :
    keyprogWrite .host 0xA5 s = { keyprogBusy s with burn := .key (keyStaged s) } := by
  simp only [keyprogWrite, isHost, hk, hl, hb, he, ne_eq, not_true, decide_false, Bool.not_true, Bool.or_self, Bool.false_eq_true, if_false]
  rw [← keyStaged_keyprogBusy s]
  rfl

/-- The end of a key burn blows what was staged, whatever VNR_KEYPROG holds by then; the fuses read at the latest reset stay. -/
theorem exec_keyprogBurnDone {s : State} {bits : Nat} (h : s.burn = .key bits) :
    exec .keyprogBurnDone s =
      .next (({ s with fuses.key := s.fuses.key ||| bits, burn := .none }.set R.VNR_KEYPROG_STAT_BUSY 0).set R.VNR_KEYPROG_STAT_DONE 1) := by
  change execKeyprogBurnDone s = _
  simp only [execKeyprogBurnDone, h]

/-! The rollback advance (06_veneer_image.md R209, R210). -/

theorem exec_rollbackAdvance_reaches {s : State} {v : Word} (h : reaches .host R.VNR_ROLL_CMD v s = true) :
    exec (.rollbackAdvance .host v) s = .next (rollWrite .host v s) := access_reaches h _

/-- VNR_ROLL_STAT as an advance with bits to burn leaves it: no error, and BUSY set. -/
def rollBusy (s : State) : State := (s.set R.VNR_ROLL_STAT_ERR 0).set R.VNR_ROLL_STAT_BUSY 1

theorem busy_rollBusy (s : State) : (rollBusy s).flag R.VNR_ROLL_STAT_BUSY = true := State.flag_set _ _ _ (by decide) rfl

theorem err_rollBusy (s : State) : (rollBusy s).get R.VNR_ROLL_STAT_ERR = 0 :=
  (State.get_set_bits _ _ _ _ (by decide) (by decide)).trans (State.get_set _ _ _ (by decide))

/-- Where none of the refusals of R210 holds, the burn starts towards the smaller of TARGET and the image's count; fuses that stand there
already leave nothing to burn. -/
theorem rollWrite_accepted {s : State} {v : Word} (hv : wget v 24 8 = 0x5A) (hs : 2 ≤ s.stage) (hb : burning s = false)
    (he : earlyWarn s = false) :
    rollWrite .host v s =
      if min (wget v 0 8) (s.get R.VNR_ROLL_IMAGE) ≤ s.fuses.roll then s.set R.VNR_ROLL_STAT_ERR 0
      else { rollBusy s with burn := .roll (min (wget v 0 8) (s.get R.VNR_ROLL_IMAGE)) } := by
  simp only [rollWrite, isHost, hv, Nat.not_lt.mpr hs, hb, he, ne_eq, not_true, decide_false, Bool.not_true, Bool.or_self,
    Bool.false_eq_true, if_false]
  rfl

/-- Both outcomes of an accepted advance clear ERR and blow nothing yet. -/
theorem rollWrite_err_fuses {s : State} {v : Word} (hv : wget v 24 8 = 0x5A) (hs : 2 ≤ s.stage) (hb : burning s = false)
    (he : earlyWarn s = false) :
    (rollWrite .host v s).get R.VNR_ROLL_STAT_ERR = 0 ∧ (rollWrite .host v s).fuses = s.fuses := by
  rw [rollWrite_accepted hv hs hb he]
  split
  case isTrue => exact ⟨State.get_set _ _ _ (by decide), rfl⟩
  case isFalse => exact ⟨err_rollBusy s, rfl⟩

/-- The count one higher, burnt and in force at once (R209). -/
def rollRaised (s : State) : State :=
  { s with fuses.roll := s.fuses.roll + 1, held.roll := s.fuses.roll + 1 }.set R.VNR_ROLL_FUSE (s.fuses.roll + 1)

theorem fuse_rollRaised {s : State} (h : s.fuses.roll < 192) : (rollRaised s).get R.VNR_ROLL_FUSE = s.fuses.roll + 1 := by
  have hfit : s.fuses.roll + 1 < 2 ^ R.VNR_ROLL_FUSE.w := Nat.lt_of_le_of_lt h (by decide)
  exact (State.get_set _ _ _ (by decide)).trans (Nat.mod_eq_of_lt hfit)

theorem busy_rollRaised (s : State) : (rollRaised s).flag R.VNR_ROLL_STAT_BUSY = s.flag R.VNR_ROLL_STAT_BUSY := by
  unfold State.flag rollRaised
  rw [State.get_set_off _ _ _ _ (by decide)]
  rfl

/-- Each bit burnt below the target raises the count by one; the bit that reaches it ends the burn. -/
theorem exec_rollbackBurnDone {s : State} {tgt : Nat} (h : s.burn = .roll tgt) (hlt : s.fuses.roll < tgt) :
    exec .rollbackBurnDone s =
      .next (if s.fuses.roll + 1 = tgt then { ((rollRaised s).set R.VNR_ROLL_STAT_BUSY 0) with burn := .none } else rollRaised s) := by
  change execRollbackBurnDone s = _
  have hone : min tgt (s.fuses.roll + 1) = s.fuses.roll + 1 := Nat.min_eq_right hlt
  unfold execRollbackBurnDone
  split
  case h_1 tgt' h' =>
    obtain rfl : tgt' = tgt := by simpa [h] using h'.symm
    rw [hone]
    rfl
  case h_2 hnot => exact absurd h (hnot tgt)

/-- Settles O9: each command whose conditions hold answers the state of its lemma above; of the last bit of an advance and the bits before
it, the last alone touches the burn and VNR_ROLL_STAT. -/
theorem fuseCommandsComplete : Obligations.FuseCommandsComplete := by
  refine ⟨?burn, ?blown, ?advance, ?bit⟩
  case burn =>
    intro s hr hk hl hb he
    refine ⟨_, exec_keyprogBurn_reaches hr, ?_⟩
    rw [keyprogWrite_accepted hk hl hb he]
    exact ⟨rfl, busy_keyprogBusy s, err_keyprogBusy s, rfl⟩
  case blown =>
    intro s bits h
    refine ⟨_, exec_keyprogBurnDone h, rfl, rfl, rfl, State.flag_set _ _ _ (by decide) rfl, ?_⟩
    rw [State.flag, State.get_set_bits _ _ _ _ (by decide) (by decide)]
    exact State.flag_set _ _ _ (by decide) rfl
  case advance =>
    intro s v hr hv hs hb he
    obtain ⟨herr, hfuses⟩ := rollWrite_err_fuses hv hs hb he
    refine ⟨_, exec_rollbackAdvance_reaches hr, herr, fun hlt => ?_, hfuses⟩
    rw [rollWrite_accepted hv hs hb he, if_neg (Nat.not_le.mpr hlt)]
    exact ⟨rfl, busy_rollBusy s⟩
  case bit =>
    intro s tgt h hlt h192
    have hfuse := fuse_rollRaised (Nat.lt_of_lt_of_le hlt h192)
    refine ⟨_, exec_rollbackBurnDone h hlt, ?_⟩
    split
    case isTrue hlast =>
      have hidle := State.flag_set (rollRaised s) R.VNR_ROLL_STAT_BUSY 0 (by decide) rfl
      have hshown := State.get_set_off (rollRaised s) R.VNR_ROLL_STAT_BUSY R.VNR_ROLL_FUSE 0 (by decide)
      exact ⟨rfl, rfl, hshown.trans hfuse, fun hmore => absurd hlast (Nat.ne_of_lt hmore), fun _ => ⟨rfl, hidle⟩⟩
    case isFalse hmore =>
      exact ⟨rfl, rfl, hfuse, fun _ => ⟨h, busy_rollRaised s⟩, fun hlast => absurd hlast hmore⟩

end Sys2Proof.Machine
end

section
/-!
SUPPORT. The fabric panels (07_marquetry_fabric.md R239 to R284): what a weft port's queue, a stall and an issued request hold after each
command on them, what one edge of the panel clock leaves in a flip-flop and in block memory; and from these the statement on panel commands
(O10).
-/
namespace Sys2Proof.Machine

theorem eq_host_of_isHost {a : Agent} (h : isHost a = true) : a = .host := by
  cases a
  case host => rfl
  all_goals cases h

/-! Weft ports. -/

@[simp] theorem panelPort_setPanelPort_self (p k : Nat) (x : PanelPort) (s : State) : panelPort (setPanelPort p k x s) p k = x := by
  unfold panelPort setPanelPort
  rw [State.panel_set, State.panel_setPanel_self, mget_mput_self]

/-- A port's queue stands in the panels' own state. -/
theorem panelPort_congr {s t : State} (h : t.mqy = s.mqy) (p k : Nat) : panelPort t p k = panelPort s p k := by
  unfold panelPort State.panel
  rw [h]

/-- The causes and the registers of a panel's window stand outside what a crossing writes. -/
theorem quietReg_window {o : Nat} (h : 0x1000000 ≤ o) : quietReg o = true := by
  have hge : 0xF1000 ≤ o := by omega
  simp only [quietReg, hge, decide_true, Bool.or_true]

/-- A bit of a register reads the 1 that was set into it. -/
theorem get_set_one {o i : Nat} (hi : i < 32) (s : State) : (s.set ⟨o, i, 1⟩ 1).get ⟨o, i, 1⟩ = 1 := State.get_set s ⟨o, i, 1⟩ 1 hi

theorem cause_nstat {p i n : Nat} (hi : i < 32) (hn : n < 96) (s : State) :
    (cause ⟨R.MQY_NSTAT p, i, 1⟩ n s).get ⟨R.MQY_NSTAT p, i, 1⟩ = 1 :=
  cause_get_self _ n s hn (quietReg_window (by simp only [R.MQY_NSTAT]; omega)) hi rfl

/-! Answers (R260, R262, R265): they touch the threads' and the panels' state and the latest responses. -/

theorem markReq_host {q : PanelAccess} (h : isHost q.agent = true) (p : Nat) (w : ReqWait) (s : State) : markReq p q w s = s := by
  unfold markReq
  rw [eq_host_of_isHost h]

theorem clk_answerPanel (p k : Nat) (q : PanelAccess) (busy : Bool) (s : State) : (answerPanel p k q busy s).clk = s.clk := by
  unfold answerPanel
  dsimp only
  split <;> rfl

theorem clk_markReq (p : Nat) (q : PanelAccess) (w : ReqWait) (s : State) : (markReq p q w s).clk = s.clk := by
  unfold markReq
  split
  case h_1 =>
    dsimp only
    split
    case isTrue => split <;> rfl
    case isFalse =>
      split
      case h_1 => split <;> rfl
      case h_2 => rfl
  case h_2 => exact clk_answerPanel _ _ _ _ _
  case h_3 => rfl

theorem clk_busyAnswer (p : Nat) (s : State) (q : PanelAccess) : (busyAnswer p s q).clk = s.clk := by
  unfold busyAnswer
  rw [clk_markReq]
  split <;> rfl

theorem clk_busyAnswers (p : Nat) (qs : List PanelAccess) (s : State) : (qs.foldl (busyAnswer p) s).clk = s.clk :=
  List.foldlRecOn qs (busyAnswer p) (motive := fun t => t.clk = s.clk) rfl fun t ht q _ => (clk_busyAnswer p t q).trans ht

/-- Where no access waits, none goes on. -/
theorem drain_idle {s : State} (h : s.clk.wait = []) : drain s = s := by
  unfold drain
  rw [h, List.foldl_nil, ← h]

/-! A stall (R279, R280). -/

theorem stallNotice_busy (p : Nat) (s : State) : (stallNotice p s).get (R.MQY_NSTAT_BUSY p) = 1 := by
  unfold stallNotice
  split
  case isTrue => exact get_set_one (by decide) s
  case isFalse => exact cause_nstat (by decide) (by decide) _

/-- A request that a stall completes sets BUSY. -/
theorem stallBusy_busy {qs : List PanelAccess} (h : qs ≠ []) (p : Nat) (s : State) : (stallBusy p qs s).get (R.MQY_NSTAT_BUSY p) = 1 := by
  rw [stallBusy, if_neg h, stallNotice_busy]

/-- Noting a request as outstanding changes no register. -/
theorem noteIssue_regs (q : PanelAccess) (s : State) : (noteIssue q s).regs = s.regs := by
  unfold noteIssue
  split <;> rfl

/-- What waits on a stall is as it was, whichever panel issued the request. -/
theorem noteIssue_stallWait (q : PanelAccess) (s : State) (p : Nat) : ((noteIssue q s).panel p).stallWait = (s.panel p).stallWait := by
  unfold noteIssue
  split
  case h_1 pp k _ =>
    dsimp only
    rw [State.panel_setPanel]
    split
    case isTrue h => rw [h]
    case isFalse => rfl
  case h_2 => rfl

theorem noteIssue_host {q : PanelAccess} (h : isHost q.agent = true) (s : State) : noteIssue q s = s := by
  unfold noteIssue
  rw [eq_host_of_isHost h]

/-! Requests (01_device_overview.md R39; R257 to R260, R274, R279, R280). -/

theorem exec_panelRequest {p : Nat} (hp : p < 8) (k : Nat) (q : PanelAccess) (s : State) :
    exec (.panelRequest p k q) s = panelRequest p q s := by
  change execPanelRequest p k q s = _
  rw [execPanelRequest, decide_eq_false (Nat.not_le.mpr hp)]
  rfl

/-- The state in which a request has joined a port's queue. -/
def queued (p k : Nat) (q : PanelAccess) (s : State) : State :=
  setPanelPort p k { panelPort s p k with queue := (panelPort s p k).queue ++ [q] } s

theorem panelHas_queued {p k : Nat} (hk : k < 4) (q : PanelAccess) (s : State) : panelHas p q (queued p k q s) = true := by
  have hin : (panelPort (queued p k q s) p k).queue.contains q = true := by simp [queued]
  have hany : ((List.range 4).any fun j =>
      (panelPort (queued p k q s) p j).queue.contains q || (panelPort (queued p k q s) p j).waiting.contains q) = true :=
    List.any_eq_true.mpr ⟨k, List.mem_range.mpr hk, by rw [hin, Bool.true_or]⟩
  rw [panelHas, hany, Bool.or_true]

/-- A request for port k's user range finds an enabled port that does not fail fast and has room (R258, R260). -/
theorem panelServed_queues {s : State} {p k : Nat} {q : PanelAccess} (hk : k < 4) (hlo : 0x80000 + 0x20000 * k ≤ q.off)
    (hhi : q.off < 0xA0000 + 0x20000 * k) (hr : rstHeld s p = false) (ht : s.flag (R.MQY_PORT_TGT_EN p k) = true)
    (hf : s.flag (R.MQY_PORT_FAILFAST p k) = false) (hroom : (panelPort s p k).queue.length < 16) :
    panelServed p q s = .next (queued p k q s) := by
  have hport : (q.off - 0x80000) / 0x20000 = k := by omega
  unfold panelServed
  rw [if_neg (by omega), if_neg (by omega), if_pos (by omega)]
  simp only [hport, hr, ht, hf, hroom, Bool.not_true, Bool.false_eq_true, if_false, if_true, queued]

section
variable {s : State} {p : Nat}

theorem panelRequest_unpowered (h : s.powered (islMQY p) = false) (q : PanelAccess) :
    panelRequest p q s = .next (markReq p q .ready (if q.write then s else respond (agentId q.agent) 0 s)) := by
  simp only [panelRequest, h, Bool.not_false, if_true]

variable (hpow : s.powered (islMQY p) = true)
include hpow

theorem panelRequest_stalled (hst : (s.panel p).stall = true) (q : PanelAccess) :
    panelRequest p q s = .next (if stallAged s p then stallBusy p [q] s
      else noteIssue q (s.setPanel p { s.panel p with stallWait := (s.panel p).stallWait ++ [q] })) := by
  simp only [panelRequest, hpow, hst, Bool.not_true, Bool.false_eq_true, if_false, if_true]

/-- A request of the host that joins a queue is outstanding at no panel's port. -/
theorem panelRequest_queues {k : Nat} {q : PanelAccess} (hst : (s.panel p).stall = false) (hk : k < 4) (ha : isHost q.agent = true)
    (h : panelServed p q s = .next (queued p k q s)) : panelRequest p q s = .next (queued p k q s) := by
  simp only [panelRequest, hpow, hst, h, panelHas_queued hk, noteIssue_host ha, Bool.not_true, Bool.false_eq_true, if_false, if_true]

end

/-! Answers and timeouts of a port (R260, R262). -/

/-- The state in which the oldest read of the host at a port has its data, and nothing waited behind the queue. -/
def readAnswered (p k : Nat) (data : Word) (q : PanelAccess) (qs : List PanelAccess) (s : State) : State :=
  setPanelPort p k { panelPort s p k with queue := qs } (respond (agentId q.agent) data s)

theorem exec_panelResponse_read {s : State} {p k : Nat} {q : PanelAccess} {qs : List PanelAccess} (hq : (panelPort s p k).queue = q :: qs)
    (hw : (panelPort s p k).waiting = []) (hread : q.write = false) (ha : isHost q.agent = true) (hu : s.up (islMQY p) = true)
    (hr : rstHeld s p = false) (hidle : s.clk.wait = []) (data : Word) :
    exec (.panelResponse p k data) s = .next (readAnswered p k data q qs s) := by
  have hact : panelResponseAct p k data s = .next (readAnswered p k data q qs s) := by
    simp only [panelResponseAct, hq, hu, hr, hread, hw, markReq_host ha, Bool.not_true, Bool.or_self, Bool.false_eq_true, if_false,
      readAnswered]
  change drained (panelResponseAct p k data s) = _
  rw [hact, drained, drain_idle (s := readAnswered p k data q qs s) hidle]

/-- The state in which a silent port's requests have completed with PANEL_BUSY and been counted, and the port fails fast; TIMEOUT is
not set yet. -/
def failedFast (p k : Nat) (s : State) : State :=
  let x := panelPort s p k
  let qs := x.queue ++ x.waiting
  (setPanelPort p k { x with queue := [], waiting := [] } ((qs.foldl (busyAnswer p) s).bump (R.MQY_TMO_CNT p) qs.length)).set
    (R.MQY_PORT_FAILFAST p k) 1

theorem clk_failedFast (p k : Nat) (s : State) : (failedFast p k s).clk = s.clk := clk_busyAnswers p _ s

theorem panelPort_failedFast (p k : Nat) (s : State) : panelPort (failedFast p k s) p k = { queue := [], waiting := [] } := by
  rw [failedFast, panelPort_congr (State.mqy_set _ _ _), panelPort_setPanelPort_self]

/-- FAILFAST outlasts the notice of the timeout. -/
theorem failFast_timedOut (p k : Nat) (s : State) :
    (cause (R.MQY_NSTAT_TIMEOUT p) 46 (failedFast p k s)).flag (R.MQY_PORT_FAILFAST p k) = true := by
  have hquiet : quietReg (R.MQY_PORT p k) = true := quietReg_window (by simp only [R.MQY_PORT]; omega)
  have hoff : R.MQY_PORT p k ≠ R.MQY_NSTAT p := by simp only [R.MQY_PORT, R.MQY_NSTAT]; omega
  rw [State.flag, cause_get_off _ _ _ (by decide) _ hquiet hoff]
  simp only [failedFast, get_set_one, Nat.reduceLT, ne_eq, Nat.one_ne_zero, not_false_eq_true, decide_true]

/-- Where no access waits behind them, the port's requests fail and nothing else follows. -/
theorem exec_panelRequestTimeout {s : State} {p k : Nat} (hq : (panelPort s p k).queue ≠ []) (hu : s.up (islMQY p) = true)
    (hidle : s.clk.wait = []) :
    exec (.panelRequestTimeout p k) s = .next (cause (R.MQY_NSTAT_TIMEOUT p) 46 (failedFast p k s)) := by
  have hact : panelRequestTimeoutAct p k s = .next (cause (R.MQY_NSTAT_TIMEOUT p) 46 (failedFast p k s)) := by
    simp only [panelRequestTimeoutAct, hq, hu, decide_false, Bool.not_true, Bool.or_self, Bool.false_eq_true, if_false, failedFast]
  have hwait : (cause (R.MQY_NSTAT_TIMEOUT p) 46 (failedFast p k s)).clk.wait = [] := by
    rw [cause_clk _ _ _ (by decide), clk_failedFast, hidle]
  change drained (panelRequestTimeoutAct p k s) = _
  rw [hact, drained, drain_idle hwait]

theorem exec_portReadyAssert {s : State} {p k : Nat} (hp : p < 8) (hk : k < 4) (hf : s.flag (R.MQY_PORT_FAILFAST p k) = true) :
    exec (.portReadyAssert p k) s = .next (s.set (R.MQY_PORT_FAILFAST p k) 0) := by
  change execPortReadyAssert p k s = _
  rw [execPortReadyAssert, decide_eq_false (Nat.not_le.mpr hp), decide_eq_false (Nat.not_le.mpr hk), hf]
  rfl

theorem exec_stallRequestTimeout {s : State} {p : Nat} {q : PanelAccess} {qs : List PanelAccess} (hq : (s.panel p).stallWait = q :: qs)
    (hst : (s.panel p).stall = true) :
    exec (.stallRequestTimeout p) s =
      .next (drain (stallBusy p [q] (s.setPanel p { s.panel p with stallWait := qs, stallOld := true }))) := by
  change drained (stallRequestTimeoutAct p s) = _
  simp only [stallRequestTimeoutAct, hq, hst, Bool.not_true, Bool.false_eq_true, if_false, drained]

/-! Block-memory errors and user notices (R250, R284). -/

/-- A double-bit error as the reading port's flag and MQY_ECC_ADDR show it; ECC2 is not set yet. -/
def eccNoted (p addr : Nat) (portB : Bool) (s : State) : State :=
  (s.setPanel p { s.panel p with berr := mput (fun _ => false) (s.panel p).berr (2 * (addr / 2048) + b2n portB) true }).wr
    (R.MQY_ECC_ADDR p) (BitVec.ofNat 32 (2 ^ 31 + addr))

section
variable {s : State} {p : Nat} (hu : s.up (islMQY p) = true) (hp : p < 8)
include hu hp

theorem exec_bramEccError {addr : Nat} (ha : addr < 65536) (portB single : Bool) :
    exec (.bramEccError p addr portB single) s =
      .next (if single then s.bump (R.MQY_ECC_CNT p) else cause (R.MQY_NSTAT_ECC2 p) 45 (eccNoted p addr portB s)) := by
  change execBramEccError p addr s portB single = _
  rw [execBramEccError, hu, decide_eq_false (Nat.not_le.mpr hp), decide_eq_false (Nat.not_le.mpr ha)]
  cases single <;> rfl

theorem exec_userNotice : exec (.userNotice p) s = .next (cause (R.MQY_NSTAT_USER p) 47 s) := by
  change execUserNotice p s = _
  rw [execUserNotice, hu, decide_eq_false (Nat.not_le.mpr hp)]
  rfl

end

theorem eccAddr_noted (p addr : Nat) (portB : Bool) (s : State) :
    (cause (R.MQY_NSTAT_ECC2 p) 45 (eccNoted p addr portB s)).rd (R.MQY_ECC_ADDR p) = BitVec.ofNat 32 (2 ^ 31 + addr) := by
  have hquiet : quietReg (R.MQY_ECC_ADDR p) = true := quietReg_window (by simp only [R.MQY_ECC_ADDR]; omega)
  have hoff : R.MQY_ECC_ADDR p ≠ R.MQY_NSTAT p := by simp only [R.MQY_ECC_ADDR, R.MQY_NSTAT]; omega
  rw [cause_rd _ _ _ (by decide) _ hquiet, State.rd_set_ne _ _ _ _ hoff, eccNoted, State.rd_wr_self]

theorem berr_noted (p addr : Nat) (portB : Bool) (s : State) :
    mget (fun _ => false) ((cause (R.MQY_NSTAT_ECC2 p) 45 (eccNoted p addr portB s)).panel p).berr (2 * (addr / 2048) + b2n portB) =
      true := by
  rw [State.panel, cause_mqy _ _ _ (by decide), ← State.panel, eccNoted, State.panel_wr, State.panel_setPanel_self]
  dsimp only
  rw [mget_mput_self]

/-! Responses to the logic's own requests (R264, R265). -/

/-- The state in which port k's requests that await a response are es. -/
def awaits (p k : Nat) (es : List Issue) (s : State) : State :=
  s.setPanel p { s.panel p with issued := mput (fun _ => []) (s.panel p).issued k es }

/-- The oldest request has its answer: the response is stale or reaches the logic. -/
theorem exec_borderResponse {s : State} {p k : Nat} {e : Issue} {es : List Issue} (hi : mget (fun _ => []) (s.panel p).issued k = e :: es)
    (ha : e.ans.isSome = true) :
    exec (.borderResponse p k) s =
      .next (if e.gen ≠ (s.panel p).gen || rstHeld s p then (awaits p k es s).bump (R.MQY_DROP_CNT p)
        else (awaits p k es s).setPanel p
          { (awaits p k es s).panel p with rsp := mput (fun _ => none) (s.panel p).rsp k e.ans }) := by
  have hfirst : (mget (fun _ => []) (s.panel p).issued k).findIdx? (fun i => i.ans.isSome) = some 0 := by
    rw [hi, List.findIdx?_cons, ha, if_pos rfl]
  change execBorderResponse p k s = _
  simp only [execBorderResponse, hfirst]
  simp only [hi, List.getD_cons_zero, List.eraseIdx_cons_zero]
  exact (apply_ite Host.Outcome.next _ _ _).symm

theorem issued_awaits (p k : Nat) (es : List Issue) (s : State) : mget (fun _ => []) ((awaits p k es s).panel p).issued k = es := by
  rw [awaits, State.panel_setPanel_self, mget_mput_self]

theorem rsp_awaits (p k : Nat) (es : List Issue) (s : State) : ((awaits p k es s).panel p).rsp = (s.panel p).rsp := by
  rw [awaits, State.panel_setPanel_self]

/-! One edge of the panel clock (R239, R248, R249, R273). -/

/-- Entries put in one after the other: each listed key below n has its own, the others what the map began with. -/
theorem mget_foldl_mput {α : Type} [DecidableEq α] (d g : Nat → α) (m : SMap α) (n i : Nat) :
    mget d ((List.range n).foldl (fun m j => mput d m j (g j)) m) i = if i < n then g i else mget d m i := by
  induction n with
  | zero => rfl
  | succ n ih =>
    rw [List.range_succ, List.foldl_append, List.foldl_cons, List.foldl_nil, mget_mput, ih]
    by_cases hn : i = n
    · subst hn
      rw [if_pos rfl, if_pos (Nat.lt_succ_self i)]
    · have hlt : i < n ↔ i < n + 1 := by omega
      simp only [if_neg hn, hlt]

/-- The number of a flip-flop names its cell and which of the two it is. -/
theorem ffIndex {i j : Nat} (hi : i < 96) (hj : j < 128) (b : Bool) :
    2 * (128 * i + j) + b2n b < 24576 ∧ (2 * (128 * i + j) + b2n b) / 256 = i ∧ (2 * (128 * i + j) + b2n b) / 2 % 128 = j ∧
      decide ((2 * (128 * i + j) + b2n b) % 2 = 1) = b := by
  cases b
  case false =>
    simp only [b2n, Bool.false_eq_true, if_false, decide_eq_false_iff_not]
    omega
  case true =>
    simp only [b2n, if_true, decide_eq_true_eq]
    omega

/-- Which flip-flops differ from INIT after the edge. -/
theorem mget_ffEdge (x : Panel) (pins : Pin → Bool) (loop : Nat) {i j : Nat} (hi : i < 96) (hj : j < 128) (b : Bool) :
    mget (fun _ => false) (ffEdge x pins loop) (2 * (128 * i + j) + b2n b) =
      (ffNext x pins loop (sinkVal x pins loop .reset) i j b != ffInit x.frames i j b) := by
  obtain ⟨hlt, hx, hy, hb⟩ := ffIndex hi hj b
  unfold ffEdge
  rw [mget_foldl_mput, if_pos hlt, hx, hy, hb]

/-- An edge leaves the frames, so what a flip-flop's INIT is. -/
theorem ffVal_clockPanel (x : Panel) (pins : Pin → Bool) (loop : Nat) (win : Word) (rst we : Bool) (i j : Nat) (b : Bool) :
    ffVal (clockPanel pins loop win rst we x) i j b =
      (ffInit x.frames i j b !=
        mget (fun _ => false) (if rst then [] else ffEdge x pins loop) (2 * (128 * i + j) + b2n b)) := rfl

/-- Under the write-enable hold no port writes. -/
theorem memOps_held {x : Panel} {pins : Pin → Bool} {loop : Nat} {win : Word} {o : MemOp} (h : o ∈ memOps x pins loop true win) :
    o.data = none := by
  have hop {j : Nat} {portB : Bool} (hj : bramOp x pins loop true j portB = some o) : o.data = none := by
    unfold bramOp at hj
    split at hj
    case isTrue => cases hj
    case isFalse =>
      cases hj
      rfl
  simp only [memOps, List.mem_append, List.mem_filterMap] at h
  rcases h with ⟨j, -, hj⟩ | ⟨j, -, hj⟩
  · exact hop hj
  · exact hop hj

theorem MemOp.write_none {o : MemOp} (h : o.data = none) (m : Mem) : MemOp.write m o = m := by
  unfold MemOp.write
  rw [h]

theorem foldl_write_none {ops : List MemOp} (h : ∀ o ∈ ops, o.data = none) (m : Mem) : ops.foldl MemOp.write m = m :=
  List.foldlRecOn ops MemOp.write (motive := fun n => n = m) rfl fun n hn o ho => (MemOp.write_none (h o ho) n).trans hn

/-- Settles O10: each command whose conditions hold answers the state of its lemma above; a flip-flop's listed number undoes to its cell,
and under the write-enable hold no access of the edge carries data. -/
theorem panelCommandsComplete : Obligations.PanelCommandsComplete := by
  refine ⟨?stalled, ?aged, ?unpowered, ?queues, ?answer, ?timeout, ?ready, ?oldStall, ?double, ?single, ?notice, ?stale, ?delivered, ?edge,
    ?held⟩
  case stalled =>
    intro s p k req hp hpow hst hage
    refine ⟨_, (exec_panelRequest hp k req s).trans (panelRequest_stalled hpow hst req), ?_⟩
    rw [hage, if_neg Bool.false_ne_true, noteIssue_stallWait, noteIssue_regs, State.panel_setPanel_self]
    exact ⟨rfl, rfl⟩
  case aged =>
    intro s p k req hp hpow hst hage
    refine ⟨_, (exec_panelRequest hp k req s).trans (panelRequest_stalled hpow hst req), ?_⟩
    rw [hage, if_pos rfl]
    exact ⟨rfl, stallBusy_busy (List.cons_ne_nil _ _) p s⟩
  case unpowered =>
    intro s p k req hp hpow
    exact ⟨_, (exec_panelRequest hp k req s).trans (panelRequest_unpowered hpow req), rfl⟩
  case queues =>
    intro s p k j req hp hpow hst hk ha hlo hhi hr ht hf hroom
    have hserved := panelServed_queues hk hlo hhi hr ht hf hroom
    exact ⟨_, (exec_panelRequest hp j req s).trans (panelRequest_queues hpow hst hk ha hserved), rfl⟩
  case answer =>
    intro s p k data q qs hq hw hread ha hu hr hwait
    refine ⟨_, exec_panelResponse_read hq hw hread ha hu hr hwait data, ?_, mget_mput_self _ _ _ _⟩
    rw [readAnswered, panelPort_setPanelPort_self]
  case timeout =>
    intro s p k hp hk hq hu hwait
    have hport : panelPort (cause (R.MQY_NSTAT_TIMEOUT p) 46 (failedFast p k s)) p k = { queue := [], waiting := [] } := by
      rw [panelPort_congr (cause_mqy _ _ _ (by decide)), panelPort_failedFast]
    exact ⟨_, exec_panelRequestTimeout hq hu hwait, congrArg PanelPort.queue hport, congrArg PanelPort.waiting hport,
      failFast_timedOut p k s, cause_nstat (by decide) (by decide) _⟩
  case ready =>
    intro s p k hp hk hf
    exact ⟨_, exec_portReadyAssert hp hk hf, rfl⟩
  case oldStall =>
    intro s p q qs hq hst
    exact ⟨_, exec_stallRequestTimeout hq hst, rfl⟩
  case double =>
    intro s p addr portB hu hp ha
    exact ⟨_, exec_bramEccError hu hp ha portB false, cause_nstat (by decide) (by decide) _, eccAddr_noted p addr portB s,
      berr_noted p addr portB s⟩
  case single =>
    intro s p addr portB hu hp ha
    exact ⟨_, exec_bramEccError hu hp ha portB true, rfl⟩
  case notice =>
    intro s p hu hp
    exact ⟨_, exec_userNotice hu hp, cause_nstat (by decide) (by decide) _⟩
  case stale =>
    intro s p k e es hi ha hstale
    refine ⟨_, exec_borderResponse hi ha, ?_⟩
    rw [if_pos (by simpa using hstale)]
    exact ⟨State.rd_wr_self _ _ _, issued_awaits p k es s, rsp_awaits p k es s⟩
  case delivered =>
    intro s p k e es hi ha hgen hr
    refine ⟨_, exec_borderResponse hi ha, ?_⟩
    rw [if_neg (by simp [hgen, hr]), State.panel_setPanel_self]
    exact ⟨rfl, issued_awaits p k es s, mget_mput_self _ _ _ _⟩
  case edge =>
    intro x pins loop win we i j b hi hj
    refine ⟨?_, ?_⟩
    · rw [ffVal_clockPanel, if_neg Bool.false_ne_true, mget_ffEdge x pins loop hi hj b, bne_comm, Bool.bne_self_right]
    · rw [ffVal_clockPanel, if_pos rfl]
      exact Bool.bne_false _
  case held =>
    intro x pins loop win rst
    exact foldl_write_none (fun _ => memOps_held) x.bram

end Sys2Proof.Machine
end

section
/-!
SUPPORT. Lock reads of the host behind its own earlier accesses (03_islands_and_weft.md R90; 10_buffers_and_locks.md R388): such a read
waits; and from this the refutation of the statement on rule commands, buffer requests and locks (O13).
-/
namespace Sys2Proof.Machine

/-- Where nobody reads a lock, nothing changes. -/
theorem lockLoads_nil (n : Nat) (s : State) : lockLoads n [] s = s := by
  have hreads : lockReads n [] s = s := by
    unfold lockReads
    dsimp only
    split <;> rfl
  rw [lockLoads, List.map_nil, List.foldl_nil, List.foldl_nil, hreads, ite_self]

/-- A lock read that HIF or a stall holds back waits and changes nothing else. -/
theorem exec_lockRead_held {s : State} {a : Agent} {n : Nat} (hn : n < 512) (hd : decodes a s = true) (hb : s.bar0 = true)
    (hu : blockUp s (R.LCK n) = true) (hw : weftHeld a (R.LCK n) s = true) :
    exec (.lockRead a n []) s = .next (weftWait ⟨a, false, R.LCK n, 0⟩ s) := by
  have hreaders : ([a].filter fun b => decodes b s) = [a] := List.filter_cons_of_pos hd
  have hheld : ([a].filter fun b => weftHeld b (R.LCK n) s) = [a] := List.filter_cons_of_pos hw
  have hnow : ([a].filter fun b => !([a].contains b)) = [] := List.filter_cons_of_neg (by simp)
  change execLockRead a n [] s = _
  rw [execLockRead, decide_eq_false (Nat.not_le.mpr hn), hb, hu]
  simp only [hreaders, hheld, hnow, lockLoads_nil, List.foldl_cons, List.foldl_nil, Bool.not_true, Bool.or_self, Bool.false_eq_true,
    if_false]

/-- Out of reset with HIF, BPM and panel 0 running: the host has written to the user range of panel 0's port 0, and the panel has not
answered. Every lock is free. -/
def hostAwaitsPanel : State :=
  let s := { State.reset with sys := { Sys.reset with resetting := false } }
  queued 0 0 ⟨.host, true, 0x80000, 0⟩
    (((s.set (R.CLK_ISL_ON islHIF) 1).set (R.CLK_ISL_ON islBPM) 1).set (R.CLK_ISL_ON (islMQY 0)) 1)

/-- Refutes O13: its clause on lock reads does not ask that the read can be issued. In `hostAwaitsPanel` the host reads the free lock 0
behind its unanswered write: the read waits and has no answer (R90), where the clause has the host take the lock and read 1. -/
theorem not_ruleAndBufferCommandsComplete : ¬ Obligations.RuleAndBufferCommandsComplete := by
  intro h
  obtain ⟨-, -, -, -, -, -, -, -, lockRead, -, -⟩ := h
  obtain ⟨t, he, ht⟩ := lockRead hostAwaitsPanel .host 0 [] (by decide +kernel) (by decide +kernel) (by decide)
  have taken : mget (fun _ => 0) t.resp (agentId .host) = 1 := by
    rw [ht]
    decide +kernel
  have waits := exec_lockRead_held (s := hostAwaitsPanel) (a := .host) (n := 0) (by decide) (by decide +kernel) (by decide +kernel)
    (by decide +kernel) (by decide +kernel)
  have unanswered : mget (fun _ => 0) t.resp (agentId .host) = 0 := by
    cases he.symm.trans waits
    decide +kernel
  rw [unanswered] at taken
  exact absurd taken (by decide)

end Sys2Proof.Machine
end

section
/-!
SUPPORT. The locks' reads (10_buffers_and_locks.md R388; 03_islands_and_weft.md R90): the refutation of the statement that a read of a free
lock takes it (O50).
-/
namespace Sys2Proof.Machine

/-- Refutes O50: its clause on a free lock leaves out that an earlier access of the host can hold its read back. In `hostAwaitsPanel` the
host's read of the free lock 0 stands behind its unanswered write to panel 0, so it waits (R90): nobody takes the lock, where the clause has
the reader hold it. -/
theorem not_lockReadAcquires : ¬ Obligations.LockReadAcquires := by
  intro h
  obtain ⟨freeLock, -, -⟩ := h
  obtain ⟨t, answers, -, taken, -, -, -⟩ := freeLock hostAwaitsPanel .host 0 (by decide) (by decide +kernel) (by decide +kernel)
    (by decide +kernel) (by decide +kernel) (by decide +kernel)
  have waits := exec_lockRead_held (s := hostAwaitsPanel) (a := .host) (n := 0) (by decide) (by decide +kernel) (by decide +kernel)
    (by decide +kernel) (by decide +kernel)
  cases answers.symm.trans waits
  exact absurd taken (by decide +kernel)

end Sys2Proof.Machine
end

section
/-!
SUPPORT. The system instructions (14_whorl_isa_catalogue.md R537 to R543): no short operation of a two-slot word is one, so a word that is
one of them has its act alone; what issuing such a word does with its act; and from these the statement on them (O22).
-/
namespace Sys2Proof.Machine

/-! The decoder's words: a two-slot word holds short operations, and of the system operations only NOP is short (13_whorl_isa_model.md R497
to R499). -/

/-- The system operations of R537 and R542 but NOP, PUSH and POP. -/
def sysOps : List WOp :=
  [.mfs, .mts, .fence, .trap, .tget, .tdone, .sleep, .waitlk, .lkup, .bfree, .balloc, .fadd, .send]

/-- A short operation is the slot's NOP, or an operation that is no system operation. -/
def ShortInsn (i : Insn) : Prop := i = slotNop ∨ (i.op ≠ .nop ∧ i.op ∉ sysOps)

theorem shortSi_op {sop : Nat} {op : WOp} (h : shortSi sop = some op) : op ≠ .nop ∧ op ∉ sysOps := by
  unfold shortSi at h
  split at h <;> cases h <;> decide

theorem shortSr_op {sop x : Nat} {op : WOp} (h : shortSr sop x = some op) : op ≠ .nop ∧ op ∉ sysOps := by
  unfold shortSr at h
  split at h <;> cases h <;> decide

theorem shortDecode_short {slotB : Bool} {v : Nat} {i : Insn} (h : shortDecode slotB v = some i) : ShortInsn i := by
  unfold shortDecode at h
  dsimp only at h
  split at h
  · cases h
    exact .inl rfl
  refine .inr ?_
  split at h
  · split at h
    · cases h
    · cases h
      dsimp only
      split <;> decide
  split at h
  · split at h
    · cases h
    · cases h
      dsimp only
      split <;> decide
  split at h
  · split at h
    · cases h
    · cases h
      exact ⟨nofun, (by decide : WOp.j ∉ sysOps)⟩
  split at h
  case h_1 op hop =>
    cases h
    exact shortSi_op hop
  split at h
  · cases h
  · rename_i hop
    split at h <;> cases h <;> exact shortSr_op hop

theorem longDecode_ne_two (w : Nat) (a b : Insn) : longDecode w ≠ .two a b := by
  unfold longDecode
  dsimp only
  repeat' split
  all_goals simp

theorem streamInsn_ne_two (x : Prefixes) (op : WOp) (f : SFmt) (bs : List Nat) (a b : Insn) : (streamInsn x op f bs).1 ≠ .two a b := by
  unfold streamInsn
  dsimp only
  repeat' with_reducible refine iteInduction (motive := fun d : Dec × Nat => d.1 ≠ .two a b) (fun _ => ?_) (fun _ => ?_)
  all_goals nofun

theorem streamDecode_ne_two (x : Prefixes) (bs : List Nat) (a b : Insn) : (streamDecode x bs).1 ≠ .two a b := by
  induction bs generalizing x with
  | nil => simp [streamDecode]
  | cons c bs ih =>
    unfold streamDecode
    split
    · split
      · simp
      · exact ih _
    · split
      · simp
      · split
        · simp
        · exact streamInsn_ne_two _ _ _ _ a b

/-- Both slots of a two-slot word hold short operations. -/
theorem wordDecode_two {form : Bool} {bs : List Byte} {a b : Insn} {n : Nat} (h : wordDecode form bs = (.two a b, n)) :
    ShortInsn a ∧ ShortInsn b := by
  have h1 : (wordDecode form bs).1 = .two a b := congrArg Prod.fst h
  unfold wordDecode pairedDecode at h1
  split at h1
  · split at h1
    · cases h1
    split at h1
    · exact absurd h1 (longDecode_ne_two _ a b)
    split at h1
    · cases h1
    split at h1
    · rename_i ha hb
      cases h1
      exact ⟨shortDecode_short ha, shortDecode_short hb⟩
    · cases h1
  · exact absurd h1 (streamDecode_ne_two _ _ a b)

/-- A word that is a system instruction, alone or beside a NOP, is that instruction alone, or two NOPs. -/
theorem alone_sys {form : Bool} {code : List Byte} {d : Dec} {n : Nat} {i : Insn} (hd : wordDecode form code = (d, n))
    (ha : alone i d = true) (hop : i.op ∈ .nop :: sysOps) : d = .one i ∨ (i = slotNop ∧ d = .two slotNop slotNop) := by
  cases d with
  | one j => exact .inl (congrArg Dec.one (of_decide_eq_true ha))
  | two a b =>
    have nopOf {j : Insn} (hj : ShortInsn j) (e : j = i) : i = slotNop := by
      subst e
      refine hj.resolve_right fun ⟨hnop, hsys⟩ => ?_
      rcases List.mem_cons.mp hop with h | h
      · exact hnop h
      · exact hsys h
    obtain ⟨sa, sb⟩ := wordDecode_two hd
    simp only [alone, Bool.or_eq_true, Bool.and_eq_true, decide_eq_true_eq] at ha
    rcases ha with ⟨rfl, rfl⟩ | ⟨rfl, rfl⟩
    · have e := nopOf sa rfl
      exact .inr ⟨e, by rw [e]⟩
    · have e := nopOf sb rfl
      exact .inr ⟨e, by rw [e]⟩
  | ill | bit15 | more => cases ha

/-! Issue of a word that is ready (12_whorl_cores_threads.md R447, R448). -/

/-- What a ready word rests on: its thread issues, and its bytes decode to the instruction alone. -/
theorem ready_iff {s : State} {tid : Nat} {i : Insn} {code : List Byte} : ready s tid i code = true ↔
    canIssue s tid = true ∧ (s.thread tid).storeErr = none ∧ (s.thread tid).read = none ∧
      ∃ d, fetchWord s (tid / 8) (s.thread tid).pc (s.thread tid).form = .word d code ∧ alone i d = true ∧
        wordDecode (s.thread tid).form code = (d, code.length) := by
  unfold ready
  cases fetchWord s (tid / 8) (s.thread tid).pc (s.thread tid).form with
  | bad c a => simp
  | word d c =>
    simp only [Bool.and_eq_true, decide_eq_true_eq, Option.isNone_iff_eq_none, Fetched.word.injEq]
    constructor
    · rintro ⟨⟨⟨hc, he⟩, hr⟩, ⟨rfl, ha⟩, hd⟩
      exact ⟨hc, he, hr, d, ⟨rfl, rfl⟩, ha, hd⟩
    · rintro ⟨hc, he, hr, e, ⟨rfl, rfl⟩, ha, hd⟩
      exact ⟨⟨⟨hc, he⟩, hr⟩, ⟨rfl, ha⟩, hd⟩

/-- A thread that issues a word of the row executes it. -/
theorem issue_word {s : State} {tid : Nat} {r : Row} {d : Dec} {code : List Byte} (hc : canIssue s tid = true)
    (he : (s.thread tid).storeErr = none) (hf : fetchWord s (tid / 8) (s.thread tid).pc (s.thread tid).form = .word d code)
    (hr : fits r d = true) : issue r tid s = runWord tid code [] s := by
  simp only [issue, hc, he, hf, hr, Bool.not_true, Bool.false_eq_true, if_false, if_true]

theorem wordDone_pastWord {s : State} {tid : Nat} (hr : (s.thread tid).read = none) (code : List Byte) :
    wordDone tid (pcAfter (s.thread tid) code) s = s.setThread tid (pastWord (s.thread tid) code) := by
  simp only [wordDone, hr, Bool.false_eq_true, if_false]
  rfl

/-- A system instruction that runs has the act of its operation. -/
theorem opAct_sys {i : Insn} {x : Thread} (hop : i.op ∈ .nop :: sysOps) (hr : runs i x = true) (tid pc next : Nat) (got : List Word)
    (s : State) : opAct i tid pc next x got s = (sysAct i tid next x got s).getD (.fault 1 0) := by
  simp only [runs, Bool.and_eq_true, Bool.not_eq_true'] at hr
  obtain ⟨hl, hc⟩ := hr
  unfold opAct
  refine (if_neg ?_).trans ((if_neg (by simp [hl])).trans ?_)
  · cases hi : i.cond with
    | none => simp
    | some cc => simpa [hi] using hc
  · obtain ⟨op⟩ := i
    simp only [sysOps, List.mem_cons, List.not_mem_nil, or_false] at hop
    rcases hop with rfl | rfl | rfl | rfl | rfl | rfl | rfl | rfl | rfl | rfl | rfl | rfl | rfl | rfl <;> rfl

@[simp] theorem Thread.form_nextWord (x : Thread) : x.nextWord.form = x.form := rfl

/-- A word that is one system instruction has its act, and goes on at the address after it. -/
theorem wordAct_sys {s : State} {tid : Nat} {i : Insn} {code : List Byte}
    (hd : wordDecode (s.thread tid).form code = (.one i, code.length)) (hop : i.op ∈ .nop :: sysOps) (hi : runs i (s.thread tid) = true)
    (got : List Word) : wordAct tid code got s =
      ((sysAct i tid (pcAfter (s.thread tid) code) (s.thread tid).nextWord got s).getD (.fault 1 0), pcAfter (s.thread tid) code) := by
  have hact := opAct_sys (x := (s.thread tid).nextWord) hop hi tid (s.thread tid).pc (pcAfter (s.thread tid) code) got s
  rw [← hact, wordAct, Thread.form_nextWord, hd]
  rfl

/-- Two NOPs in one word write back the thread as it is, twice. -/
theorem wordAct_nops {s : State} {tid : Nat} {code : List Byte}
    (hd : wordDecode (s.thread tid).form code = (.two slotNop slotNop, code.length)) : wordAct tid code [] s =
      (.run fun t => let u := t.setThread tid (t.thread tid); .next (u.setThread tid (u.thread tid)), pcAfter (s.thread tid) code) := by
  rw [wordAct, Thread.form_nextWord, hd]
  rfl

/-! A thread written twice is the thread written last. -/

theorem merase_minsert {α : Type} (m : SMap α) (k : Nat) (v : α) : merase (minsert m k v) k = merase m k := by
  induction m with
  | nil => simp [minsert, merase]
  | cons e m ih =>
    obtain ⟨j, w⟩ := e
    unfold minsert
    split
    · simp [merase]
    · simp [merase, ih]

theorem merase_merase {α : Type} (m : SMap α) (k : Nat) : merase (merase m k) k = merase m k := by
  induction m with
  | nil => rfl
  | cons e m ih =>
    obtain ⟨j, w⟩ := e
    by_cases h : j = k <;> simp [merase, h, ih]

theorem mput_mput {α : Type} [DecidableEq α] (d : Nat → α) (m : SMap α) (k : Nat) (v w : α) :
    mput d (mput d m k v) k w = mput d m k w := by
  have herase : merase (mput d m k v) k = merase m k := by
    unfold mput
    split
    · exact merase_merase m k
    · rw [merase_minsert, merase_merase]
  rw [mput, herase, mput]

@[simp] theorem State.setThread_setThread (s : State) (tid : Nat) (x y : Thread) :
    (s.setThread tid x).setThread tid y = s.setThread tid y := by
  simp only [State.setThread, mput_mput]

/-- A word that waits for a request other than a load's: the thread waits on the weft, and nothing is done yet. -/
theorem wordWait_weft {n : Need} (hn : ∀ a k, n ≠ .load a k) (tid : Nat) (code : List Byte) (got : List Word) (s : State) :
    ∃ t, wordWait tid code got n s = .next t ∧ (t.thread tid).st = 2 ∧ (t.thread tid).waitOn = 4 ∧
      (t.thread tid).read = some { code := code, got := got, wait := .ready, logged := needLogged s n } ∧ t.regs = s.regs ∧
      t.bpm = s.bpm := by
  cases n with
  | load a k => exact absurd rfl (hn a k)
  | balloc _ _ | fadd _ _ | send _ _ _ =>
    refine ⟨_, rfl, ?_⟩
    rw [State.thread_setThread_self]
    exact ⟨rfl, rfl, rfl, rfl, rfl⟩

/-! What issuing a ready system instruction does with its act. -/

section
variable {s : State} {tid : Nat} {i : Insn} {code : List Byte} {op : WOp} (hr : ready s tid i code = true)
  (hi : runs i (s.thread tid) = true) (ho : i.op = op) (hp : i.pkt = false)
include hr hi ho hp

/-- A ready NOP goes on, alone or beside another. -/
theorem issue_nop (hn : op = .nop) : issue (.op op) tid s = .next (s.setThread tid (pastWord (s.thread tid) code)) := by
  subst hn
  obtain ⟨hc, he, hread, d, hf, ha, hd⟩ := ready_iff.mp hr
  have hop : i.op ∈ .nop :: sysOps := by simp [ho]
  have hdone := wordDone_pastWord hread code
  obtain rfl | ⟨rfl, rfl⟩ := alone_sys hd ha hop
  · rw [issue_word hc he hf (by simp [fits, rowIs, ho, hp]), runWord, wordAct_sys hd hop hi, sysAct, ho]
    simp only [Option.getD_some, onThread, hdone, State.thread_setThread_self, State.setThread_setThread, id]
  · rw [issue_word hc he hf (by decide), runWord, wordAct_nops hd]
    simp only [hdone, State.thread_setThread_self, State.setThread_setThread]

variable (hs : op ∈ sysOps)
include hs

/-- A ready system instruction but NOP executes, with its operation's act. -/
theorem issue_sys {act : Act} (hact : sysAct i tid (pcAfter (s.thread tid) code) (s.thread tid).nextWord [] s = some act) :
    issue (.op op) tid s = runWord tid code [] s ∧ wordAct tid code [] s = (act, pcAfter (s.thread tid) code) := by
  subst ho
  obtain ⟨hc, he, hread, d, hf, ha, hd⟩ := ready_iff.mp hr
  have hop : i.op ∈ .nop :: sysOps := List.mem_cons_of_mem _ hs
  obtain rfl | ⟨rfl, -⟩ := alone_sys hd ha hop
  · exact ⟨issue_word hc he hf (by simp [fits, rowIs, hp]), by rw [wordAct_sys hd hop hi, hact, Option.getD_some]⟩
  · exact absurd hs (by decide)

theorem issue_sys_run {f : State → Out}
    (hact : sysAct i tid (pcAfter (s.thread tid) code) (s.thread tid).nextWord [] s = some (.run f)) :
    issue (.op op) tid s = f (s.setThread tid (pastWord (s.thread tid) code)) := by
  obtain ⟨hissue, hword⟩ := issue_sys hr hi ho hp hs hact
  obtain ⟨-, -, hread, -⟩ := ready_iff.mp hr
  rw [hissue, runWord, hword, ← wordDone_pastWord hread]

theorem issue_sys_onState {f : State → State}
    (hact : sysAct i tid (pcAfter (s.thread tid) code) (s.thread tid).nextWord [] s = some (onState f)) :
    issue (.op op) tid s = .next (f (s.setThread tid (pastWord (s.thread tid) code))) := issue_sys_run hr hi ho hp hs hact

theorem issue_sys_onThread {f : Thread → Thread}
    (hact : sysAct i tid (pcAfter (s.thread tid) code) (s.thread tid).nextWord [] s = some (onThread tid f)) :
    issue (.op op) tid s = .next (s.setThread tid (f (pastWord (s.thread tid) code))) := by
  rw [issue_sys_run hr hi ho hp hs hact, State.thread_setThread_self, State.setThread_setThread]

theorem issue_sys_fault {c a : Nat}
    (hact : sysAct i tid (pcAfter (s.thread tid) code) (s.thread tid).nextWord [] s = some (.fault c a)) :
    issue (.op op) tid s = .next (threadFault tid c (BitVec.ofNat 32 a) s) := by
  obtain ⟨hissue, hword⟩ := issue_sys hr hi ho hp hs hact
  rw [hissue, runWord, hword]

theorem issue_sys_request {n : Need} (hn : ∀ a k, n ≠ .load a k)
    (hact : sysAct i tid (pcAfter (s.thread tid) code) (s.thread tid).nextWord [] s = some (.wait n)) :
    ∃ t, issue (.op op) tid s = .next t ∧ (t.thread tid).st = 2 ∧ (t.thread tid).waitOn = 4 ∧
      (t.thread tid).read = some { code := code, got := [], wait := .ready, logged := needLogged s n } ∧ t.regs = s.regs ∧
      t.bpm = s.bpm := by
  obtain ⟨hissue, hword⟩ := issue_sys hr hi ho hp hs hact
  rw [hissue, runWord, hword]
  exact wordWait_weft hn tid code [] s

end

/-! What a thread keeps for its tasks stays over notices and trace records, which reach a thread by its event bits alone
(12_whorl_cores_threads.md R455; 11_distaff_and_yarns.md R437 to R439). -/

/-- A thread's parked contexts, its packet's handle and its PC. -/
def taskContext (tid : Nat) (s : State) : List Context × Word × Nat :=
  ((s.thread tid).parked, (s.thread tid).pkh, (s.thread tid).pc)

section
variable (tid : Nat) (s : State)

theorem taskContext_of_whl {t : State} (h : t.whl = s.whl) : taskContext tid t = taskContext tid s := by
  unfold taskContext State.thread
  rw [h]

theorem taskContext_raiseEvent (j bit : Nat) : taskContext tid (raiseEvent j bit s) = taskContext tid s := by
  unfold taskContext raiseEvent
  rw [State.thread_setThread]
  split
  · subst tid
    split <;> rfl
  · rfl

theorem taskContext_sendMsix (v : Nat) : taskContext tid (sendMsix v s) = taskContext tid s := by
  unfold sendMsix
  split <;> rfl

theorem taskContext_deliver (n : Nat) : taskContext tid (deliver n s) = taskContext tid s := by
  unfold deliver
  split
  · split
    · rfl
    · exact taskContext_sendMsix tid s _
  · dsimp only
    split
    · exact taskContext_raiseEvent tid s _ _
    · rfl
  · rfl

theorem taskContext_crossEvt (n : Nat) : taskContext tid (crossEvt n s) = taskContext tid s := by
  unfold crossEvt
  split
  · rfl
  split
  · rfl
  dsimp only
  split
  · exact taskContext_deliver tid (s.set (stickyFld n) 1) n
  · rfl

theorem taskContext_snapCause (f : Fld) : taskContext tid (snapCause f s) = taskContext tid s := by
  unfold snapCause
  dsimp only
  split
  · exact taskContext_crossEvt tid (s.set f 1) 86
  · rfl

theorem taskContext_snapshot (n : Nat) : taskContext tid (snapshot n s) = taskContext tid s := by
  unfold snapshot
  split
  · rfl
  split <;> exact taskContext_snapCause tid _ _

theorem taskContext_crossing (n : Nat) : taskContext tid (crossing n s) = taskContext tid s := by
  rw [← taskContext_crossEvt tid s n, crossing]
  split
  · exact taskContext_snapshot tid _ n
  · rfl

theorem taskContext_plyFault : taskContext tid (plyFault s) = taskContext tid s := by
  unfold plyFault
  split <;> rfl

theorem taskContext_cause (f : Fld) (n : Nat) : taskContext tid (cause f n s) = taskContext tid s := by
  have hcross (u : State) (g : Fld) : taskContext tid (if u.flag g then crossing n u else u) = taskContext tid u := by
    split
    · exact taskContext_crossing tid u n
    · rfl
  unfold cause
  rw [hcross]
  split
  · exact taskContext_plyFault tid (s.set f 1)
  · rfl

theorem taskContext_traceFull : taskContext tid (traceFull s) = taskContext tid s := taskContext_cause tid s _ _

theorem taskContext_traceBlock (first : Nat) : taskContext tid (traceBlock first s) = taskContext tid s := by
  unfold traceBlock
  dsimp only
  split
  · rw [taskContext_traceFull]
    exact taskContext_of_whl tid s rfl
  · exact taskContext_of_whl tid s (by rw [State.whl_wr, State.whl_setPkt])

theorem taskContext_setTrace (i v c p : Nat) :
    taskContext tid (State.set { setTrace i v s with dst.trcCount := c } R.DST_TRC_WPTR_IDX p) = taskContext tid s :=
  taskContext_of_whl tid s (State.whl_set _ _ _)

theorem taskContext_traceTask (kind arg : Nat) (t : Task) : taskContext tid (traceTask kind arg t s) = taskContext tid s := by
  unfold traceTask traceRec
  dsimp only
  split
  · rfl
  split
  · exact taskContext_of_whl tid s (State.whl_bump _ _ _)
  split
  · split
    · rw [taskContext_traceFull, taskContext_setTrace]
    · rw [taskContext_setTrace]
  split
  · rw [taskContext_traceBlock, taskContext_setTrace]
  · rw [taskContext_setTrace]

theorem taskContext_finishTask (id disp mask : Nat) (tag : Option Nat) (len doff : Nat) :
    taskContext tid (finishTask id disp mask tag len doff s) = taskContext tid s := by
  unfold finishTask
  split
  · rfl
  dsimp only
  split
  · rw [taskContext_traceTask, taskContext_traceTask]
    rfl
  · exact taskContext_traceTask tid _ _ _ _

theorem taskContext_busedDown (h : Nat) : taskContext tid (busedDown tid h s) = taskContext tid s := by
  unfold busedDown
  split
  · rfl
  · unfold taskContext setBused
    rw [State.thread_setThread_self]

end

/-! The end of a task (14_whorl_isa_catalogue.md R539). -/

theorem resumeParked_nil {tid : Nat} {s : State} (h : (s.thread tid).parked = []) : resumeParked tid s = s := by
  rw [resumeParked, h]

/-- TDONE of a thread with task k has noted the packet's buffer and reported the task. -/
def taskReported (i : Insn) (tid : Nat) (x : Thread) (d len doff : Nat) (k : Task) (s : State) : State :=
  finishTask d (i.fn % 4) (wget (x.reg i.ra) 0 9) (if bitOf i.fn 2 then some (wget (x.reg i.rb) 0 16) else none) len doff
    (if i.fn % 4 = 3 then setThreadKept k.pkt.handle (threadOwner tid) s else busedDown tid x.pkh.toNat s)

theorem taskContext_taskReported (i : Insn) (tid : Nat) (x : Thread) (d len doff : Nat) (k : Task) (s : State) :
    taskContext tid (taskReported i tid x d len doff k s) = taskContext tid s := by
  rw [taskReported, taskContext_finishTask]
  split
  · rfl
  · exact taskContext_busedDown tid s _

/-- A thread without its task; a packet that is kept leaves its handle. -/
def taskLeft (i : Insn) (tid : Nat) (s : State) : State :=
  s.setThread tid { s.thread tid with task := none, yarn := 0, pkh := if i.fn % 4 = 3 then (s.thread tid).pkh else 0 }

/-- The frame's length as the packet's slot in local memory holds it. -/
def slotLength (s : State) (tid : Nat) : Nat := leNat ((s.core (tid / 8)).mem.rdBytes (0xFF00 + 32 * (tid % 8) + 20) 2)

/-- The frame's offset in its buffer as the packet's slot holds it. -/
def slotOffset (s : State) (tid : Nat) : Nat := leNat ((s.core (tid / 8)).mem.rdBytes (0xFF00 + 32 * (tid % 8) + 22) 2)

/-- TDONE of a thread with nothing parked: reported and left, with the thread's context as it was. -/
theorem tdoneAct_ends {i : Insn} {tid d : Nat} {x : Thread} {k : Task} {s t : State} (ht : x.task = some d) (hk : taskOf t d = some k)
    (hb : beyondBuffer t k.pkt.handle (slotLength s tid) (slotOffset s tid) = false) (hp : (t.thread tid).parked = []) :
    ∃ f, tdoneAct i tid x s = .run f ∧ ∃ u, f t = .next (taskLeft i tid u) ∧ taskContext tid u = taskContext tid t := by
  have hctx := taskContext_taskReported i tid x d (slotLength s tid) (slotOffset s tid) k t
  have hpark : ((taskLeft i tid (taskReported i tid x d (slotLength s tid) (slotOffset s tid) k t)).thread tid).parked = [] := by
    rw [taskLeft, State.thread_setThread_self]
    exact (congrArg Prod.fst hctx).trans hp
  rw [tdoneAct, ht]
  refine ⟨_, rfl, _, ?_, hctx⟩
  dsimp only
  rw [hk]
  exact (if_neg (ne_true_of_eq_false hb)).trans (congrArg Host.Outcome.next (resumeParked_nil hpark))

/-! The special registers (13_whorl_isa_model.md R478 to R482). -/

/-- A special register that MFS copies as it stands, with the accumulator's latest multiply-class word four words back. -/
def sregWord (tid n : Nat) (x : Thread) : Word :=
  match n with
  | 0 => accPart x.acc 0
  | 1 => accPart x.acc 1
  | 2 => accPart x.acc 2
  | 3 => .ofNat 32 x.tcmp
  | 4 => .ofNat 32 (x.tcmp / 2 ^ 32)
  | 7 => .ofNat 32 x.evp
  | 8 => .ofNat 32 x.evm
  | 9 => tstatWord x
  | 10 => x.yarn
  | 11 => x.pkh
  | 15 => x.flta
  | _ => .ofNat 32 (tid % 8 + tid / 8 * 256 + tid * 65536)

theorem four_le_accAge_pastWord {x : Thread} (h : 3 ≤ x.accAge) (code : List Byte) : 4 ≤ (pastWord x code).accAge := by
  change 4 ≤ min 4 (x.accAge + 1)
  omega

theorem sregRead_copies {tid n : Nat} {s : State} (hage : 4 ≤ (s.thread tid).accAge) (hn : n ∉ [5, 6, 12, 13, 14]) (h17 : n < 17) :
    sregRead tid n s = (sregWord tid n (s.thread tid), s) := by
  have hacc : ¬ (s.thread tid).accAge < 4 := by omega
  have hmem : n ∈ [0, 1, 2] ∨ n ∈ [3, 4, 7, 8, 9, 10, 11, 15, 16] := by
    simp only [List.mem_cons, List.not_mem_nil, or_false] at hn ⊢
    omega
  simp only [List.mem_cons, List.not_mem_nil, or_false] at hmem
  obtain (rfl | rfl | rfl) | hplain := hmem
  iterate 3 exact if_neg hacc
  rcases hplain with rfl | rfl | rfl | rfl | rfl | rfl | rfl | rfl | rfl <;> rfl

/-- MTS of TCMP_LO, EVM, TSTAT and PKH. -/
def sregSet (n : Nat) (v : Word) (x : Thread) : Thread :=
  match n with
  | 3 => { x with tcmpHeld := some v }
  | 8 => { x with evm := v.toNat }
  | 9 => setTstat v x
  | _ => { x with pkh := v }

theorem sregWrite_sets {n : Nat} {v : Word} (hn : n ∈ [3, 8, 9, 11]) (hv : v &&& sregReserved n = 0) (tid : Nat) :
    sregWrite tid n v = onThread tid (sregSet n v) := by
  refine (if_neg (not_not.mpr hv)).trans ?_
  simp only [List.mem_cons, List.not_mem_nil, or_false] at hn
  rcases hn with rfl | rfl | rfl | rfl <;> rfl

/-- The accumulator with one of its three registers written. -/
def accSet (n : Nat) (v : Word) (acc : Nat) : Nat :=
  match n with
  | 0 => acc / 2 ^ 32 * 2 ^ 32 + v.toNat
  | 1 => acc / 2 ^ 64 * 2 ^ 64 + v.toNat * 2 ^ 32 + acc % 2 ^ 32
  | _ => v.toNat % 256 * 2 ^ 64 + acc % 2 ^ 64

theorem wget_low (v : Word) (n : Nat) : wget v 0 n = v.toNat % 2 ^ n := by
  simp [wget]

theorem sregWrite_acc {n : Nat} (hn : n < 3) (tid : Nat) (v : Word) :
    sregWrite tid n v = onThread tid fun x => { x with acc := accSet n v x.acc, accAge := 0 } := by
  obtain rfl | rfl | rfl : n = 0 ∨ n = 1 ∨ n = 2 := by omega
  · exact if_neg (by simp [sregReserved])
  · exact if_neg (by simp [sregReserved])
  · change _ = onThread tid fun x => { x with acc := v.toNat % 2 ^ 8 * 2 ^ 64 + x.acc % 2 ^ 64, accAge := 0 }
    rw [← wget_low]
    exact if_neg (by simp [sregReserved])

/-! TGET, LKUP, TRAP and words that no encoding names (13_whorl_isa_model.md R491, R500; 14_whorl_isa_catalogue.md R539, R541). -/

theorem closeHeld_free {tid : Nat} {s : State} (h : (s.thread tid).task = none) : closeHeld tid s = s := by
  rw [closeHeld, h]

theorem lkupAct_starts {tbl tid a n : Nat} {s : State} (hn : n = if tbl = 0 then 8 else if tbl ≤ 4 then 4 else 16)
    (hin : a + n ≤ 0x10000) (halign : a % 8 = 0) (hpoison : poisoned s (tid / 8) a n = none) :
    lkupAct tbl tid a s = onThread tid fun x =>
      { x with evp := x.evp - (x.evp &&& 2), lookup := some (tbl, (s.core (tid / 8)).mem.rdBytes a n) } := by
  unfold lkupAct
  simp only [← hn, hpoison]
  rw [if_neg (by omega), if_neg (by omega)]

theorem runWord_undefined {tid : Nat} {code : List Byte} {s : State}
    (hd : (wordDecode (s.thread tid).form code).1 = .ill ∨ (wordDecode (s.thread tid).form code).1 = .more) (got : List Word) :
    runWord tid code got s = .next (threadFault tid 1 0 s) := by
  have hact : ∃ n, wordAct tid code got s = (.fault 1 0, n) := by
    rw [wordAct, Thread.form_nextWord]
    generalize wordDecode (s.thread tid).form code = w at hd
    obtain ⟨d, len⟩ := w
    rcases hd with rfl | rfl <;> exact ⟨_, rfl⟩
  obtain ⟨n, hact⟩ := hact
  rw [runWord, hact]
  rfl

theorem ofNat_unsgn (v : Int) : BitVec.ofNat 32 (unsgn 32 v) = BitVec.ofInt 32 v := by
  apply BitVec.eq_of_toNat_eq
  rw [BitVec.toNat_ofNat, BitVec.toNat_ofInt, unsgn]
  omega

/-- Settles O22: each instruction's act is one operation on the state past its word (`issue_sys_run`), a fault, or a request that the
thread waits for; TDONE's report reaches the thread by event bits alone (`tdoneAct_ends`). -/
theorem whorlSystemCommandsComplete : Obligations.WhorlSystemCommandsComplete := by
  refine ⟨?nop, ?mfs, ?mts, ?mtsAcc, ?fence, ?trap, ?tget, ?tdone, ?sleep, ?waitlk, ?lkup, ?bfree, ?balloc, ?fadd, ?send, ?undefined⟩
  case nop =>
    intro s tid i code x hr hi ho hp
    exact ⟨_, issue_nop hr hi ho hp rfl, rfl⟩
  case mfs =>
    intro s tid i code x hr hi ho hp hage hn h17
    refine ⟨_, issue_sys_onState hr hi ho hp (by decide) (by rw [sysAct, ho]), ?_⟩
    have hpast := four_le_accAge_pastWord hage code
    rw [sregRead_copies (by rw [State.thread_setThread_self]; exact hpast) hn h17]
    dsimp only
    rw [State.thread_setThread_self, State.setThread_setThread]
    rfl
  case mts =>
    intro s tid i code x hr hi ho hp hn hres
    have hact := sregWrite_sets hn hres tid
    exact ⟨_, issue_sys_onThread hr hi ho hp (by decide) (by rw [sysAct, ho]; exact congrArg some hact), rfl⟩
  case mtsAcc =>
    intro s tid i code x hr hi ho hp hn
    have hact := sregWrite_acc hn tid (x.reg i.ra)
    exact ⟨_, issue_sys_onThread hr hi ho hp (by decide) (by rw [sysAct, ho]; exact congrArg some hact), rfl⟩
  case fence =>
    intro s tid i code x hr hi ho hp
    by_cases hw : x.writes = []
    · exact ⟨_, issue_sys_onThread hr hi ho hp (by decide) (by rw [sysAct, ho]; exact congrArg some (if_pos hw)),
        fun _ => rfl, fun h => absurd hw h⟩
    · exact ⟨_, issue_sys_onThread hr hi ho hp (by decide) (by rw [sysAct, ho]; exact congrArg some (if_neg hw)),
        fun h => absurd h hw, fun _ => rfl⟩
  case trap =>
    intro s tid i code x hr hi ho hp
    exact ⟨_, issue_sys_fault hr hi ho hp (by decide) (by rw [sysAct, ho]), by rw [ofNat_unsgn]⟩
  case tget =>
    intro s tid i code x hr hi ho hp ht
    refine ⟨_, issue_sys_onState hr hi ho hp (by decide) (by rw [sysAct, ho]; rfl), ?_⟩
    have hfree : ((s.setThread tid (pastWord x code)).thread tid).task = none := by
      rw [State.thread_setThread_self]
      exact ht
    have hx : (s.thread tid).nextWord.task = none := ht
    dsimp only
    rw [hx, closeHeld_free hfree, State.thread_setThread_self, State.setThread_setThread]
    rfl
  case tdone =>
    intro s tid i code d k x hr hi ho hp ht hk hpark hbeyond
    obtain ⟨f, hact, u, hrun, hctx⟩ := tdoneAct_ends (i := i) (tid := tid) (x := x.nextWord) (s := s)
      (t := s.setThread tid (pastWord x code)) ht hk hbeyond (by rw [State.thread_setThread_self]; exact hpark)
    simp only [taskContext, State.thread_setThread_self, Prod.mk.injEq] at hctx
    obtain ⟨-, hpkh, hpc⟩ := hctx
    refine ⟨_, (issue_sys_run hr hi ho hp (by decide) (by rw [sysAct, ho]; exact congrArg some hact)).trans hrun, ?_⟩
    rw [taskLeft, State.thread_setThread_self, hpkh]
    exact ⟨rfl, rfl, rfl, hpc⟩
  case sleep =>
    intro s tid i code x hr hi ho hp
    refine ⟨_, issue_sys_onState hr hi ho hp (by decide) (by rw [sysAct, ho]; rfl), ?_⟩
    dsimp only
    rw [State.thread_setThread_self, State.setThread_setThread]
    rfl
  case lkup =>
    intro s tid i code n x hr hi ho hp hn hin halign hpoison
    have hact := lkupAct_starts hn hin halign hpoison
    exact ⟨_, issue_sys_onThread hr hi ho hp (by decide) (by rw [sysAct, ho]; exact congrArg some hact), rfl⟩
  case bfree =>
    intro s tid i code x hr hi ho hp
    exact ⟨_, issue_sys_onState hr hi ho hp (by decide) (by rw [sysAct, ho]; rfl), rfl⟩
  case waitlk =>
    intro s tid i code x hr hi ho hp
    refine ⟨_, issue_sys_onState hr hi ho hp (by decide) (by rw [sysAct, ho]; rfl), ?_⟩
    rw [show wget ((s.thread tid).nextWord.reg i.ra) 0 9 = (x.reg i.ra).toNat % 512 from wget_low _ 9]
    dsimp only
    rw [State.thread_setThread_self, State.setThread_setThread, State.setThread_setThread]
    refine ⟨fun he hl => ?_, fun he => if_pos he, fun he hl => ?_⟩
    · exact (if_neg (ne_true_of_eq_false he)).trans (if_pos (by rw [State.lock_setThread, hl]; rfl))
    · have hheld : ¬ (!((s.setThread tid (pastWord x code)).lock ((x.reg i.ra).toNat % 512)).held) = true := by
        rw [State.lock_setThread, hl]
        decide
      exact (congrArg (State.thread · tid) ((if_neg (ne_true_of_eq_false he)).trans (if_neg hheld))).trans
        (State.thread_setThread_self _ _ _)
  case balloc =>
    intro s tid i code x hr hi ho hp
    refine issue_sys_request hr hi ho hp (by decide) ?_ (by rw [sysAct, ho])
    exact nofun
  case fadd =>
    intro s tid i code x hr hi ho hp
    refine issue_sys_request hr hi ho hp (by decide) ?_ (by rw [sysAct, ho])
    exact nofun
  case send =>
    intro s tid i code x hr hi ho hp
    refine issue_sys_request hr hi ho hp (by decide) ?_ (by rw [sysAct, ho])
    exact nofun
  case undefined =>
    intro s tid code hc he hf hd
    exact ⟨_, (issue_word hc he hf rfl).trans (runWord_undefined hd []), rfl⟩

end Sys2Proof.Machine
end

section
/-!
SUPPORT. Distaff's tasks, slots, settings and trace (11_distaff_and_yarns.md R412 to R445): what each command does where its condition
holds; and from these the statement on them (O14).
-/
namespace Sys2Proof.Machine

section
variable {s : State} {y : Nat} {k : Task} (hr : dstRuns s = true)
include hr

/-! Dispatch and stealing (R412, R414, R421). -/

/-- An idle thread takes its core's head task. -/
theorem exec_taskDispatch_idle {n thr : Nat} (hs : inService s n = true) (hk : headTask s n = some k) (hi : thrIdle s n thr = true) :
    exec (.taskDispatch n thr) s = .next (deliverTask k n thr s) := by
  change execTaskDispatch n thr s = _
  simp only [execTaskDispatch, hr, hs, hk, hi, Bool.not_true, Bool.or_self, Bool.false_eq_true, if_false, if_true]

/-- A QUEUED task of a yarn whose set holds another core moves to the core that R419 chooses of the others. -/
theorem exec_taskSteal_moves {seq c : Nat}
    (hk : (s.dst.tasks.find? fun u => decide (u.pkt.yarn = y ∧ u.seq = seq ∧ u.st = .queued)) = some k)
    (hsteal : s.get R.DST_AFF_STEAL ≠ 0) (hset : 1 < (effSet s y).length) (hc : chooseCore s ((effSet s y).filter (· ≠ k.core)) = some c) :
    exec (.taskSteal y seq) s = .next (traceTask 4 0 { k with core := c } (setTask { k with core := c } s)) := by
  change execTaskSteal y seq s = _
  simp only [execTaskSteal, hk, hr, hsteal, Nat.not_le.mpr hset, hc, Bool.not_true, decide_false, Bool.or_self, Bool.false_eq_true,
    if_false]

/-! Slots (R417, R427, R428). -/

variable (hk : oldestOf s y = some k) (hd : k.st = .done)
include hk hd

/-- A task of disposition DROP closes with its packet's buffer freed, and counts nothing. -/
theorem exec_slotClose_drop (h2 : k.disp = 2) : exec (.slotClose y) s = .next (closeTask k (freeBuf k.pkt.handle s)) := by
  have hdrop : actsDrop s k = true := by simp [actsDrop, h2]
  change execSlotClose y s = _
  simp only [execSlotClose, hr, hk, hd, hdrop, h2, OfNat.ofNat_ne_one, Bool.not_true, Bool.false_eq_true, ne_eq, not_true, if_false, if_true]

variable (hdrop : actsDrop s k = false)
include hdrop

/-- A TX task closes once its ports have room for the frame. -/
theorem exec_slotClose_tx (h0 : k.disp = 0) (hroom : txRoom s k = true) :
    exec (.slotClose y) s = .next (closeTask k (releaseTx k s)) := by
  change execSlotClose y s = _
  simp only [execSlotClose, hr, hk, hd, hdrop, h0, hroom, Bool.not_true, Bool.false_eq_true, ne_eq, not_true, if_false, if_true]

/-- A task that keeps its packet closes alone. -/
theorem exec_slotClose_keep (h3 : k.disp = 3) : exec (.slotClose y) s = .next (closeTask k s) := by
  have h0 : k.disp ≠ 0 := by omega
  have h1 : k.disp ≠ 1 := by omega
  change execSlotClose y s = _
  simp only [execSlotClose, hr, hk, hd, hdrop, h0, h1, Bool.not_true, Bool.false_eq_true, ne_eq, not_true, if_false]

end

/-! Settings of a yarn (R444, R445). -/

section
variable {s : State} {a : Agent} {v : Word}

theorem exec_yarnLimitWrite_reaches {y : Nat} (hy : y < 4096) (h : reaches a (R.DST_YCFG y) v s = true) :
    exec (.yarnLimitWrite a y v) s = .next (ycfgWrite y v s) :=
  (if_neg (by simpa using hy)).trans (access_reaches h _)

theorem exec_yarnMaskWrite_reaches (h : reaches a R.DST_YMASK_HI v s = true) :
    exec (.yarnMaskWrite a v) s = .next (pairWrite a R.DST_YMASK_LO (ymaskLo s) (fun lo => ymaskWrite lo v) s) :=
  access_reaches h _

/-- The mask of the selected yarn after a write of a pair of halves. -/
theorem yarnMask_ymaskWrite (lo hi : Word) (s : State) :
    yarnMask (ymaskWrite lo hi s) (s.get R.DST_YSEL_YARN) = lo.toNat + hi.toNat % 65536 * 2 ^ 32 :=
  mget_mput_self _ _ _ _

theorem heldLo_setMask (m : SMap Nat) (s : State) : { s with dst.mask := m }.heldLo = s.heldLo := rfl

theorem heldLo_ymaskWrite (lo hi : Word) (s : State) : (ymaskWrite lo hi s).heldLo = s.heldLo := heldLo_setMask _ s

/-- A write of the pair uses up the low half that the agent holds. -/
theorem heldOf_pairWrite_ymask (a : Agent) (cur hi : Word) (s : State) :
    heldOf a R.DST_YMASK_LO (pairWrite a R.DST_YMASK_LO cur (fun lo => ymaskWrite lo hi) s) = none := by
  rw [pairWrite, heldOf, heldLo_ymaskWrite]
  exact heldOf_setHeld a R.DST_YMASK_LO none (setCap a R.DST_YMASK_LO none s)

/-! The trace (R441). -/

theorem exec_traceRecordSelect_reaches (h : reaches a R.DST_TRC_RIDX v s = true) :
    exec (.traceRecordSelect a v) s = .next (traceSelect v s) := access_reaches h _

theorem wget_and_idx (v : Word) : wget (v &&& 0x7FFF) 0 15 = wget v 0 15 := by
  rw [wget_low, wget_low, BitVec.toNat_and]
  exact (congrArg (· % 2 ^ 15) (Nat.and_two_pow_sub_one_eq_mod v.toNat 15)).trans (Nat.mod_mod _ _)

/-- The selected record's first word. -/
theorem traceData_traceSelect (v : Word) (s : State) :
    traceData (traceSelect v s) 0 = BitVec.ofNat 32 (mget (fun _ => 0) s.dst.trace (wget v 0 15)) := by
  have hidx : (traceSelect v s).get R.DST_TRC_RIDX_IDX = wget v 0 15 := by
    rw [traceSelect, State.get, State.rd_wr_self, wget_and_idx]
  rw [traceData, hidx, Nat.mul_zero, Nat.pow_zero, Nat.div_one]
  rfl

theorem exec_traceModeChange_reaches (hm : wget v 0 2 ≠ s.get R.DST_TRC_CTL_MODE) (h : reaches a R.DST_TRC_CTL v s = true) :
    exec (.traceModeChange a v) s = .next (traceCtlWrite v s) :=
  (if_neg (by simpa using hm)).trans (access_reaches h _)

/-- The trace emptied, its pointers at 0. -/
def traceCleared (s : State) : State :=
  ((({ s with dst.trace := [], dst.trcCount := 0 }).wr R.DST_TRC_WPTR 0).wr R.DST_TRC_SWR 0).wr R.DST_TRC_SRD 0

theorem wptr_traceCleared (s : State) : (traceCleared s).rd R.DST_TRC_WPTR = 0 := by
  rw [traceCleared, State.rd_wr_ne _ _ _ _ (by decide), State.rd_wr_ne _ _ _ _ (by decide), State.rd_wr_self]

theorem ctl_traceCleared (s : State) : (traceCleared s).rd R.DST_TRC_CTL = s.rd R.DST_TRC_CTL := by
  rw [traceCleared, State.rd_wr_ne _ _ _ _ (by decide), State.rd_wr_ne _ _ _ _ (by decide), State.rd_wr_ne _ _ _ _ (by decide)]
  rfl

/-- A write that changes the trace's mode clears the trace. -/
theorem traceCtlWrite_clears (hm : wget v 0 2 ≠ s.get R.DST_TRC_CTL_MODE) :
    traceCtlWrite v s = traceCleared (s.wr R.DST_TRC_CTL (v &&& 0x1FF03)) := if_neg hm

end

/-- Settles O14: each clause is the law of its command where the command's condition holds. -/
theorem distaffCommandsComplete : Obligations.DistaffCommandsComplete := by
  refine ⟨?dispatch, ?steal, ?closeDrop, ?closeTx, ?closeKeep, ?limit, ?mask, ?select, ?mode⟩
  case dispatch => exact fun s n thr k hr hs hk hi => ⟨_, exec_taskDispatch_idle hr hs hk hi, rfl⟩
  case steal => exact fun s y seq c k hk hr hsteal hset hc => ⟨_, exec_taskSteal_moves hr hk hsteal hset hc, rfl⟩
  case closeDrop => exact fun s y k hr hk hd h2 => ⟨_, exec_slotClose_drop hr hk hd h2, rfl⟩
  case closeTx => exact fun s y k hr hk hd hdrop h0 hroom => ⟨_, exec_slotClose_tx hr hk hd hdrop h0 hroom, rfl⟩
  case closeKeep => exact fun s y k hr hk hd hdrop h3 => ⟨_, exec_slotClose_keep hr hk hd hdrop h3, rfl⟩
  case limit => exact fun s a y v hy h => ⟨_, exec_yarnLimitWrite_reaches hy h, rfl⟩
  case mask =>
    intro s a v h
    exact ⟨_, exec_yarnMaskWrite_reaches h, yarnMask_ymaskWrite _ _ _, heldOf_pairWrite_ymask a _ v s⟩
  case select =>
    intro s a v h
    exact ⟨_, exec_traceRecordSelect_reaches h, State.rd_wr_self _ _ _, traceData_traceSelect v s⟩
  case mode =>
    intro s a v hm h
    refine ⟨_, exec_traceModeChange_reaches hm h, ?_⟩
    rw [traceCtlWrite_clears hm]
    exact ⟨rfl, rfl, wptr_traceCleared _, (ctl_traceCleared _).trans (State.rd_wr_self _ _ _)⟩

end Sys2Proof.Machine
end

section
/-!
SUPPORT. The Ply pair's epochs, the records of its log and admissions (22_ply_pair.md R795 to R814; 11_distaff_and_yarns.md R407 to R410):
what a boundary closes, what the end of an epoch consumes, what a logged latch shows, how a frame is asked for and answered; and from these
the statement on them (O34).
-/
namespace Sys2Proof.Machine

/-! Epoch boundaries (R795, R806, R808). -/

theorem State.rd64_wr64 (s : State) (o v : Nat) : (s.wr64 o v).rd64 o = v % 2 ^ 64 := by
  rw [State.rd64, State.wr64, State.rd_wr_self, State.rd_wr_ne _ _ _ _ (by omega), State.rd_wr_self, BitVec.toNat_ofNat,
    BitVec.toNat_ofNat]
  omega

/-- With no access held until the boundary, nothing changes. -/
theorem applyHeld_nil {s : State} (h : s.ply.hostq = []) : applyHeld s = .next s := by
  have hs : { s with ply.hostq := [] } = s := by rw [← h]
  rw [applyHeld, h, hs, applyAccs]

theorem role_epochTurn (s : State) : (epochTurn s).role = s.role := by
  change (s.wr64 R.PLY_EPOCH_LO (epochNow s + 1)).role = s.role
  rw [State.role, State.wr64, State.get_wr_ne _ _ _ _ (by decide), State.get_wr_ne _ _ _ _ (by decide), State.role]

theorem epoch_epochTurn (s : State) : (epochTurn s).rd64 R.PLY_EPOCH_LO = (epochNow s + 1) % 2 ^ 64 :=
  State.rd64_wr64 s R.PLY_EPOCH_LO (epochNow s + 1)

/-- A boundary of a strand that is neither LEADER nor FOLLOWER and holds no access: the next epoch starts. -/
theorem exec_epochBoundary_alone {s : State} (hr : s.role = 1) (hu : s.up islPLY = true) (h2 : 2 ≤ s.stage) (hq : s.ply.hostq = [])
    (kib : Nat) (consumed : Option Nat) : exec (.epochBoundary kib consumed) s = .next (epochTurn (ratioStep s)) := by
  have hrole : (ratioStep s).role = 1 := hr
  have hturn : (epochTurn (ratioStep s)).role = 1 := (role_epochTurn _).trans hrole
  have hheld : applyHeld (epochTurn (ratioStep s)) = .next (epochTurn (ratioStep s)) := applyHeld_nil hq
  have hstage : ¬ s.stage < 2 := by omega
  change execEpochBoundary kib consumed s = _
  simp [execEpochBoundary, State.leader, State.follower, hr, hu, hstage, hrole, hturn, hheld]

/-! Records that arrive at a FOLLOWER (R795, R796, R798). -/

theorem role_of_follower {s : State} (h : s.follower = true) : s.role = 3 := of_decide_eq_true h

theorem role_of_leader {s : State} (h : s.leader = true) : s.role = 2 := of_decide_eq_true h

section
variable {s : State} (hf : s.follower = true)
include hf

theorem logRec_joins (hu : s.up islPLY = true) (r : LogRec) : logRec r s = .next { s with ply.log := s.ply.log ++ [r] } :=
  if_neg (by simp [hf, hu])

/-- A body that no fetch has asked for joins the log. -/
theorem exec_logBody_joins (hu : s.up islPLY = true) (ha : s.ply.asked = false) (d : List Byte) :
    exec (.logBody d) s = .next { s with ply.log := s.ply.log ++ [.body d] } := by
  change execLogBody d s = _
  simp only [execLogBody, ha, Bool.false_eq_true, if_false, logRec_joins hf hu]

/-- A reading of the LEADER's is used in place of the one before. -/
theorem exec_logVbat_follower (mv q : Nat) :
    exec (.logVbat mv q) s = .next { s with aud.vbat := s.ply.vbatNext.orElse (fun _ => s.aud.vbat), ply.vbatNext := some mv } := by
  have hr : ¬ s.role < 2 := by rw [role_of_follower hf]; decide
  change execLogVbat mv q s = _
  simp only [execLogVbat, hf, gainReading, hr, Bool.not_true, Bool.false_eq_true, if_false]

theorem exec_logTdm_follower {p : Nat} (hp : p < 4) (w : List Word) : exec (.logTdm p w) s = .next (tdmLogged p w s) :=
  if_neg (by simp [hf, hp])

end

/-- The END of an epoch, alone in what is left to consume, is consumed. -/
theorem consumeAll_end {s : State} {e n d b : Nat} (hc : s.ply.closed = [.end_ e n d b]) (hq : s.ply.hostq = []) :
    consumeAll false s = .next { s.set R.PLY_LAG_EPOCHS (s.get R.PLY_LAG_EPOCHS - 1) with ply.closed := [] } := by
  have hheld : applyHeld (s.set R.PLY_LAG_EPOCHS (s.get R.PLY_LAG_EPOCHS - 1)) = .next _ := applyHeld_nil hq
  rw [consumeAll, hc, List.length_singleton, consume, hc]
  simp only [consumeRec, hheld, consume, State.ply_set, hc, List.drop_one, List.tail_cons]

/-- An epoch without records whose END has come is closed: its digest is gone, and the clock is steered. -/
def emptyEpochEnded (end_ : LogRec) (ds : List (Nat × Nat)) (lead own : Nat) (s : State) : State :=
  steer lead own (State.set { s with ply.closed := [end_], ply.log := [], ply.digests := ds } R.PLY_LAG_EPOCHS (s.get R.PLY_LAG_EPOCHS + 1))

/-- END of an epoch without records, with the digest that this strand has formed. -/
theorem exec_logEnd_empty {s : State} (hf : s.follower = true) (hu : s.up islPLY = true) (hl : s.ply.log = []) (hc : s.ply.closed = [])
    (hq : s.ply.hostq = []) {d x : Nat} {ds : List (Nat × Nat)} (hd : s.ply.digests = (d, x) :: ds) (e b : Nat) :
    ∃ u, exec (.logEnd e 0 d b) s = .next u ∧ u.ply.closed = [] ∧ u.ply.digests = ds ∧ u.clk = (steer b x s).clk := by
  have hconsume := consumeAll_end (s := emptyEpochEnded (.end_ e 0 d b) ds b x s) rfl hq
  refine ⟨_, Eq.trans ?_ hconsume, rfl, rfl, rfl⟩
  change execLogEnd e 0 d b s = _
  simp only [execLogEnd, hf, hu, hl, hc, hd, emptyEpochEnded, List.length_nil, List.filterMap_nil, List.append_nil, List.nil_append, ne_eq,
    not_true, decide_false, Bool.not_true, Bool.or_self, Bool.false_eq_true, if_false, if_true]
  rfl

/-! Logged latches (R814; 19_power_stage_protection.md R719, R721). -/

theorem regs_plySend (r : LogRec) (s : State) : (plySend r s).regs = s.regs := by
  unfold plySend
  split
  · rfl
  · dsimp only
    rw [apply_ite State.regs, ite_self]
    rfl

theorem latched_latch {c : Nat} (hc : c < 16) (causes : Nat) (s : State) : latched (latch c causes s) c = true := by
  have hq : quietReg (R.PWS_CH_STAT c) = true := by
    simp only [quietReg, R.PWS_CH_STAT, Bool.or_eq_true, Bool.and_eq_true, decide_eq_true_eq]
    omega
  have hget : (latch c causes s).get (R.PWS_CH_STAT_LATCHED c) = 1 := by
    unfold latch
    rw [cause_get_off _ _ _ (by omega) _ hq (by simp only [R.PWS_CH_STAT, R.PWS_CH_NSTAT]; omega), State.get_congr (regs_plySend _ _),
      State.get_set_off _ _ _ _ (by simp only [R.PWS_CH_STAT, R.PWS_LATCH]; omega), State.get_set _ _ _ (by decide : 3 + 1 ≤ 32)]
    rfl
  rw [latched, State.flag, hget]
  rfl

theorem latched_unlatch (c : Nat) (s : State) : latched (unlatch c s) c = false := by
  have hget : (unlatch c s).get (R.PWS_CH_STAT_LATCHED c) = 0 := by
    unfold unlatch
    rw [State.get_set_bits _ _ _ _ (by decide : 3 + 1 ≤ 32) (.inl (by decide : 3 + 1 ≤ 4)),
      State.get_set_off _ _ _ _ (by simp only [R.PWS_CH_STAT, R.PWS_LATCH]; omega), State.get_set _ _ _ (by decide : 3 + 1 ≤ 32)]
    rfl
  rw [latched, State.flag, hget]
  rfl

/-- The strand that does not own the gates follows the owner's latch. -/
theorem exec_logLatch_follows {s : State} {c : Nat} (ho : plyOwner s = false) (hr : s.role ≠ 0) (hc : c < 16) (causes : Nat) (clear : Bool) :
    exec (.logLatch c causes clear) s = .next (if clear then unlatch c s else latchAll c causes s) :=
  if_neg (by simp [ho, hr, hc])

/-! Frames (R799) and admissions (R407, R410, R798). -/

theorem exec_frameFetchRequest_asks {s : State} {p l f : Nat} (hf : s.follower = true) (hw : waitingAdmit s = some (p, l, f))
    (ha : s.ply.asked = false) :
    exec (.frameFetchRequest p l f) s =
      .next { (s.emit (.ply (.fetch p l f))).bump R.PLY_CNT_FETCH with ply.asked := true } := by
  change execFrameFetchRequest p l f s = _
  simp only [execFrameFetchRequest, hf, hw, ha, ne_eq, not_true, decide_false, Bool.or_self, Bool.false_eq_true, if_false, if_true]

theorem exec_frameFetchRequest_answers {s : State} {l f : Nat} {d : List Byte} (hl : s.leader = true) (hd : keptFrame s l f = some d)
    (p : Nat) : exec (.frameFetchRequest p l f) s = .next (s.emit (.ply (.body d))) := by
  have hf : s.follower = false := by simp [State.follower, role_of_leader hl]
  change execFrameFetchRequest p l f s = _
  simp only [execFrameFetchRequest, hf, hl, hd, Bool.false_eq_true, if_false, if_true]

theorem exec_unnamedFrameDrop_drops {s : State} {p tc i : Nat} {k : Pkt} (hf : s.follower = true) (hp : p < 9)
    (hk : (admQueue s p tc)[i]? = some k) :
    exec (.unnamedFrameDrop p tc i) s = .next (dropPkt (R.PRT_CNT_HOLD p) k.handle (setAdm p tc ((admQueue s p tc).eraseIdx i) s)) := by
  change execUnnamedFrameDrop p tc i s = _
  simp only [execUnnamedFrameDrop, hk, hf, Nat.not_le.mpr hp, Bool.not_true, decide_false, Bool.or_self, Bool.false_eq_true,
    if_false]

theorem exec_packetAdmit_admits {s : State} {p tc c : Nat} {k : Pkt} {q : List Pkt} (hf : s.follower = false) (ho : admitOpen s = true)
    (hp : p ≠ 9) (hq : admQueue s p tc = k :: q) (hk : admitCheck s k = .ok c) (hb : behindRefused s p tc k.yarn = false) :
    exec (.packetAdmit p tc) s = .next (admitPkt k c (setAdm p tc q s)) := by
  change execPacketAdmit p tc s = _
  simp only [execPacketAdmit, packetAdmit, hf, ho, hp, hq, hk, hb, Bool.not_true, Bool.false_eq_true, if_false]

/-- Settles O34: each clause is the law of its command; an epoch without records is consumed by its END alone (`consumeAll_end`), and a
logged latch shows in PWS_CH_STAT past all that its cause crosses into (`latched_latch`). -/
theorem pairLogCommandsComplete : Obligations.PairLogCommandsComplete := by
  refine ⟨?boundary, ?admitRecord, ?answer, ?learn, ?host, ?close, ?dpll, ?body, ?endOfEpoch, ?vbat, ?tdm, ?latch, ?ask, ?reply, ?drop, ?packet⟩
  case boundary =>
    intro s k n hr hu h2 hq
    exact ⟨_, exec_epochBoundary_alone hr hu h2 hq k n, rfl, rfl, rfl, rfl, epoch_epochTurn (ratioStep s)⟩
  case admitRecord => exact fun s p l f ts r hf hu => ⟨_, logRec_joins hf hu _, rfl⟩
  case answer => exact fun s k n v hf hu => ⟨_, logRec_joins hf hu _, rfl⟩
  case learn => exact fun s w hf hu => ⟨_, logRec_joins hf hu _, rfl⟩
  case host => exact fun s x hf hu => ⟨_, logRec_joins hf hu _, rfl⟩
  case close => exact fun s y q d m l f hf hu => ⟨_, logRec_joins hf hu _, rfl⟩
  case dpll => exact fun s v hf hu => ⟨_, logRec_joins hf hu _, rfl⟩
  case body => exact fun s d hf hu ha => ⟨_, exec_logBody_joins hf hu ha d, rfl⟩
  case endOfEpoch =>
    rintro s e n d b x ds hf hu hl rfl hc hq hd
    obtain ⟨u, hrun, hclosed, hdigests, hclk⟩ := exec_logEnd_empty hf hu hl hc hq hd e b
    exact ⟨u, hrun, hclosed, hdigests, congrArg Clk.slewFx hclk⟩
  case vbat => exact fun s mv q hf => ⟨_, exec_logVbat_follower hf mv q, rfl, rfl⟩
  case tdm => exact fun s p w hf hp => ⟨_, exec_logTdm_follower hf hp w, rfl⟩
  case latch =>
    intro s c k clear ho hr hc
    refine ⟨_, exec_logLatch_follows ho hr hc k clear, ?_⟩
    cases clear with
    | true => exact latched_unlatch c s
    | false => exact latched_latch hc k _
  case ask => exact fun s p l f hf hw ha => ⟨_, exec_frameFetchRequest_asks hf hw ha, rfl, rfl⟩
  case reply => exact fun s p l f d hl hd => ⟨_, exec_frameFetchRequest_answers hl hd p, rfl⟩
  case drop => exact fun s p tc i k hf hp hk => ⟨_, exec_unnamedFrameDrop_drops hf hp hk, rfl⟩
  case packet => exact fun s p tc c k q hf ho hp hq hk hb => ⟨_, exec_packetAdmit_admits hf ho hp hq hk hb, rfl⟩

end Sys2Proof.Machine
end

section
/-!
SUPPORT. Loads, stores and the stack (13_whorl_isa_model.md R483 to R487; 14_whorl_isa_catalogue.md R531, R532): what issuing a word that is
one instruction, alone or beside a NOP, does with its act; where an access goes and what it does there; and from these the statement on
them (O21).
-/
namespace Sys2Proof.Machine

/-! A word that is one instruction, alone or beside a NOP (13_whorl_isa_model.md R497 to R503). -/

theorem fits_of_alone {r : Row} {i : Insn} {d : Dec} (hr : rowIs r i = true) (ha : alone i d = true) : fits r d = true := by
  cases d with
  | one j =>
    obtain rfl : j = i := of_decide_eq_true ha
    cases r with
    | op _ | packet _ => exact hr
    | pair | undefined => cases hr
  | two a b =>
    simp only [alone, Bool.or_eq_true, Bool.and_eq_true, decide_eq_true_eq] at ha
    cases r with
    | op _ | packet _ =>
      rcases ha with ⟨rfl, rfl⟩ | ⟨rfl, rfl⟩
      · simp only [fits, hr, slotNop, decide_true, Bool.and_true, Bool.true_or]
      · simp only [fits, hr, slotNop, decide_true, Bool.and_true, Bool.or_true]
    | pair | undefined => cases hr
  | ill | bit15 | more => cases ha

/-- A NOP before an operation writes no register that it uses. -/
theorem dependent_nop_first (i : Insn) : dependent slotNop i = false := rfl

/-- A NOP after an operation uses no register that it writes. -/
theorem dependent_nop_second (i : Insn) : dependent i slotNop = false := by
  unfold dependent
  exact List.any_eq_false.mpr fun r _ => Bool.false_ne_true

section
variable {s : State} {tid : Nat} {i : Insn} {code : List Byte} {d : Dec}
  (hd : wordDecode (s.thread tid).form code = (d, code.length)) (ha : alone i d = true)
include hd ha

/-- A word that waits for its one instruction's request. -/
theorem wordAct_alone_wait {n : Need}
    (hact : opAct i tid (s.thread tid).pc (pcAfter (s.thread tid) code) (s.thread tid).nextWord [] s = .wait n) :
    wordAct tid code [] s = (.wait n, pcAfter (s.thread tid) code) := by
  change opAct i tid (s.thread tid).nextWord.pc (((s.thread tid).nextWord.pc + code.length) % 2 ^ 32) _ _ _ = _ at hact
  rw [wordAct, Thread.form_nextWord, hd]
  cases d with
  | one j =>
    obtain rfl : j = i := of_decide_eq_true ha
    exact congrArg (·, _) hact
  | two a b =>
    simp only [alone, Bool.or_eq_true, Bool.and_eq_true, decide_eq_true_eq] at ha
    rcases ha with ⟨rfl, rfl⟩ | ⟨rfl, rfl⟩
    · simp only [dependent_nop_second, hact, Bool.false_eq_true, if_false]
      rfl
    · simp only [dependent_nop_first, hact, Bool.false_eq_true, if_false]
      rfl
  | ill | bit15 | more => cases ha

/-- A word runs its one instruction; a NOP beside it writes back the thread as it stands, before it or after it. -/
theorem wordAct_alone_run {f : State → Out}
    (hact : opAct i tid (s.thread tid).pc (pcAfter (s.thread tid) code) (s.thread tid).nextWord [] s = .run f) :
    ∃ g, wordAct tid code [] s = (.run g, pcAfter (s.thread tid) code) ∧
      ∀ (t u : State) (p y : Thread), f (t.setThread tid p) = .next (u.setThread tid y) → g (t.setThread tid p) = .next (u.setThread tid y) := by
  change opAct i tid (s.thread tid).nextWord.pc (((s.thread tid).nextWord.pc + code.length) % 2 ^ 32) _ _ _ = _ at hact
  rw [wordAct, Thread.form_nextWord, hd]
  cases d with
  | one j =>
    obtain rfl : j = i := of_decide_eq_true ha
    exact ⟨f, congrArg (·, _) hact, fun _ _ _ _ h => h⟩
  | two a b =>
    simp only [alone, Bool.or_eq_true, Bool.and_eq_true, decide_eq_true_eq] at ha
    rcases ha with ⟨rfl, rfl⟩ | ⟨rfl, rfl⟩
    · simp only [dependent_nop_second, hact, Bool.false_eq_true, if_false]
      refine ⟨_, rfl, fun t u p y h => ?_⟩
      simp only [h, id, State.thread_setThread_self, State.setThread_setThread]
    · simp only [dependent_nop_first, hact, Bool.false_eq_true, if_false]
      refine ⟨_, rfl, fun t u p y h => ?_⟩
      simp only [id, State.thread_setThread_self, State.setThread_setThread, h]
  | ill | bit15 | more => cases ha

end

section
variable {s : State} {tid : Nat} {i : Insn} {code : List Byte} {r : Row} (hr : ready s tid i code = true) (hrow : rowIs r i = true)
include hr hrow

/-- A ready instruction that runs, and leaves its thread written last, has its outcome on the state past its word. -/
theorem issue_run {f : State → Out} {u : State} {y : Thread}
    (hact : opAct i tid (s.thread tid).pc (pcAfter (s.thread tid) code) (s.thread tid).nextWord [] s = .run f)
    (hf : f (s.setThread tid (pastWord (s.thread tid) code)) = .next (u.setThread tid y)) :
    issue r tid s = .next (u.setThread tid y) := by
  obtain ⟨hc, he, hread, d, hfetch, ha, hd⟩ := ready_iff.mp hr
  obtain ⟨g, hword, hg⟩ := wordAct_alone_run hd ha hact
  rw [issue_word hc he hfetch (fits_of_alone hrow ha), runWord, hword, ← hg _ _ _ _ hf, ← wordDone_pastWord hread]

theorem issue_onThread {f : Thread → Thread}
    (hact : opAct i tid (s.thread tid).pc (pcAfter (s.thread tid) code) (s.thread tid).nextWord [] s = onThread tid f) :
    issue r tid s = .next (s.setThread tid (f (pastWord (s.thread tid) code))) :=
  issue_run hr hrow hact (by rw [State.thread_setThread_self, State.setThread_setThread])

theorem issue_wait {n : Need}
    (hact : opAct i tid (s.thread tid).pc (pcAfter (s.thread tid) code) (s.thread tid).nextWord [] s = .wait n) :
    issue r tid s = wordWait tid code [] n s := by
  obtain ⟨hc, he, -, d, hfetch, ha, hd⟩ := ready_iff.mp hr
  rw [issue_word hc he hfetch (fits_of_alone hrow ha), runWord, wordAct_alone_wait hd ha hact]

end

/-! The act of an instruction that executes. -/

theorem runs_iff {i : Insn} {x : Thread} :
    runs i x = true ↔ i.late = false ∧ (i.cond = none ∨ ∃ cc, i.cond = some cc ∧ condHolds cc x.flags = true) := by
  unfold runs
  cases i.cond <;> simp

/-- A load or store is none of the operations on registers. -/
theorem aluOut_of_memShape {op : WOp} {sh : Nat × Bool × Bool} (h : memShape op = some sh) (a b d : Word) (f : Flags) (acc : Nat) :
    aluOut op a b d f = none ∧ mulOut op a b acc = none ∧ satOut op a b acc = none := by
  unfold memShape at h
  split at h
  case h_14 => cases h
  all_goals exact ⟨rfl, rfl, rfl⟩

section
variable {i : Insn} {x : Thread} (hi : runs i x = true) (tid pc next : Nat) (got : List Word) (s : State)
include hi

theorem opAct_mem {sh : Nat × Bool × Bool} (hs : memShape i.op = some sh) : opAct i tid pc next x got s = memAct i sh tid x got s := by
  obtain ⟨halu, hmul, hsat⟩ := aluOut_of_memShape hs (x.reg i.ra) (operandB i x) (x.reg i.rd) x.flags x.acc
  obtain ⟨hl, hc⟩ := runs_iff.mp hi
  unfold opAct
  rcases hc with hc | ⟨cc, hc, hh⟩
  · simp [hl, hc, halu, hmul, hsat, hs]
  · simp [hl, hc, hh, halu, hmul, hsat, hs]

theorem opAct_stack (ho : i.op = .push ∨ i.op = .pop) :
    opAct i tid pc next x got s = (sysAct i tid next x got s).getD (.fault 1 0) := by
  obtain ⟨hl, hc⟩ := runs_iff.mp hi
  unfold opAct
  refine (if_neg ?_).trans ((if_neg (by simp [hl])).trans ?_)
  · rcases hc with hc | ⟨cc, hc, hh⟩
    · simp [hc]
    · simp [hc, hh]
  · obtain ⟨op⟩ := i
    rcases ho with rfl | rfl
    · rfl
    · rfl

theorem opAct_push (ho : i.op = .push) : opAct i tid pc next x got s = pushAct i tid x s := by
  rw [opAct_stack hi _ _ _ _ _ (.inl ho), sysAct, ho, Option.getD_some]

theorem opAct_pop (ho : i.op = .pop) : opAct i tid pc next x got s = popAct i tid x got s := by
  rw [opAct_stack hi _ _ _ _ _ (.inr ho), sysAct, ho, Option.getD_some]

end

/-! Addresses (12_whorl_cores_threads.md R451; 13_whorl_isa_model.md R484, R487, R517). -/

theorem targetOf_local {a : Nat} (h : a < 0x10000) : targetOf a = .localMem := if_pos h

theorem targetOf_packet {a : Nat} (h : 0x10000000 ≤ a) (h' : a < 0x11000000) : targetOf a = .packet :=
  (if_neg (by omega)).trans (if_pos ⟨h, h'⟩)

theorem addr32_eq {v : Int} {a : Nat} (h : (a : Int) = v % 2 ^ 32) : addr32 v = a := by
  unfold addr32 unsgn
  omega

/-- Where an access goes: a packet-relative one from the buffer of PKH. -/
def accessAddr (s : State) (i : Insn) (x : Thread) : Option Nat :=
  if i.pkt then (pktBase s x.pkh).map fun b => addr32 ((memAddr i x + b : Nat)) else some (memAddr i x)

theorem accessAddr_base {i : Insn} {x : Thread} {a : Nat} (hp : i.pkt = false)
    (ha : (a : Int) = (((x.reg i.ra).toNat : Int) + (if i.upd = 0 then i.imm else 0)) % 2 ^ 32) (s : State) :
    accessAddr s i x = some a := by
  have haddr : memAddr i x = a := addr32_eq (by rw [ha, ite_not])
  rw [accessAddr, hp, haddr]
  rfl

theorem accessAddr_packet {s : State} {i : Insn} {x : Thread} {a b : Nat} (hp : i.pkt = true) (hb : pktBase s x.pkh = some b)
    (ha : a = (memAddr i x + b) % 2 ^ 32) : accessAddr s i x = some a := by
  rw [accessAddr, if_pos hp, hb]
  exact congrArg some (addr32_eq (by omega))

theorem accessFault_none {s : State} {tid a size : Nat} {load : Bool} (ht : targetOf a ≠ .none) (ha : a % size = 0)
    (hp : load = true → targetOf a = .localMem → poisoned s (tid / 8) a size = none) : accessFault s tid a size load = none := by
  refine (if_neg ht).trans ((if_neg (not_not.mpr ha)).trans ?_)
  split
  · rename_i h
    simp only [Bool.and_eq_true, decide_eq_true_eq] at h
    rw [hp h.1 h.2]
    rfl
  · rfl

/-! Values (13_whorl_isa_model.md R483, R485). -/

theorem leBytes_leNat (bs : List Byte) : leBytes bs.length (leNat bs) = bs := by
  induction bs with
  | nil => rfl
  | cons b bs ih =>
    have hb := b.isLt
    have hlow : BitVec.ofNat 8 (b.toNat + 256 * leNat bs) = b := by
      apply BitVec.eq_of_toNat_eq
      rw [BitVec.toNat_ofNat]
      omega
    have hhigh : (b.toNat + 256 * leNat bs) / 256 = leNat bs := by omega
    rw [List.length_cons, leNat, leBytes, hlow, hhigh, ih]

theorem leNat_lt (bs : List Byte) : leNat bs < 2 ^ (8 * bs.length) := by
  induction bs with
  | nil => decide
  | cons b bs ih =>
    have hb := b.isLt
    have hpow : 2 ^ (8 * (bs.length + 1)) = 256 * 2 ^ (8 * bs.length) := by rw [Nat.mul_add, Nat.pow_add, Nat.mul_comm]
    rw [List.length_cons, leNat, hpow]
    omega

theorem length_leBytes (n v : Nat) : (leBytes n v).length = n := by
  induction n generalizing v with
  | zero => rfl
  | succ n ih => rw [leBytes, List.length_cons, ih]

theorem Mem.length_rdBytes (m : Mem) (a n : Nat) : (m.rdBytes a n).length = n := by
  rw [Mem.rdBytes, List.length_map, List.length_range]

/-- What a load makes of the bytes it reads. -/
theorem loadValue_leNat {bs : List Byte} {size : Nat} (h : bs.length = size) (signed net : Bool) :
    loadValue size signed net (leNat bs) =
      if signed then .ofInt 32 (sgn (8 * size) (if net then beNat bs else leNat bs)) else .ofNat 32 (if net then beNat bs else leNat bs) := by
  subst h
  have hswap : byteSwap bs.length (leNat bs) = beNat bs := by rw [byteSwap, leBytes_leNat, beNat]
  rw [loadValue, hswap, Nat.mod_eq_of_lt (leNat_lt bs)]

theorem baseUpdate_eq (i : Insn) (size : Nat) (base : Word) (x : Thread) :
    baseUpdate i size base x =
      if i.upd = 1 then x.setReg i.ra (base + .ofNat 32 size)
      else if i.upd = 2 then x.setReg i.ra (base - .ofNat 32 size) else x := by
  unfold baseUpdate
  split
  · rename_i h
    rw [if_pos h]
  · rename_i h
    rw [h, if_neg (by decide), if_pos rfl]
  · rename_i h1 h2
    rw [if_neg h1, if_neg h2]

/-! The acts of loads and stores. -/

section
variable {s : State} {tid a size : Nat} {i : Insn} {x : Thread} {signed net : Bool} (hres : accessAddr s i x = some a)
include hres

theorem memAct_local (hst : isStore i.op = false) (hf : accessFault s tid a size true = none) (hl : targetOf a = .localMem)
    (got : List Word) : memAct i (size, signed, net) tid x got s =
      onThread tid fun y => (baseUpdate i size (x.reg i.ra) y).setReg i.rd
        (loadValue size signed net (leNat ((s.core (tid / 8)).mem.rdBytes a size))) := by
  unfold accessAddr at hres
  simp only [memAct, hres, hst, hf, hl, Bool.not_false, Bool.false_eq_true, if_false, if_true]

theorem memAct_request (hst : isStore i.op = false) (hf : accessFault s tid a size true = none) (hl : targetOf a ≠ .localMem) :
    memAct i (size, signed, net) tid x [] s = .wait (.load a size) := by
  unfold accessAddr at hres
  simp only [memAct, hres, hst, hf, hl, Bool.not_false, Bool.false_eq_true, if_false]

/-- A store puts its bytes at its address and then updates its base. -/
theorem memAct_store (hst : isStore i.op = true) (hf : accessFault s tid a size false = none) (got : List Word) :
    ∃ f, memAct i (size, signed, net) tid x got s = .run f ∧
      ∀ t u, storeAt tid a (storeBytes size net (x.reg i.rd)) t = .next u →
        f t = .next (u.setThread tid (baseUpdate i size (x.reg i.ra) (u.thread tid))) := by
  unfold accessAddr at hres
  simp only [memAct, hres, hst, hf, Bool.not_true, if_true]
  refine ⟨_, rfl, fun t u h => ?_⟩
  simp only [h]

end

theorem coreWrite_setThread (n a : Nat) (bs : List Byte) (s : State) (tid : Nat) (x : Thread) :
    coreWrite n a bs (s.setThread tid x) = (coreWrite n a bs s).setThread tid x := rfl

theorem storeAt_local {a : Nat} (h : a < 0x10000) (tid : Nat) (bs : List Byte) (s : State) :
    storeAt tid a bs s = .next (coreWrite (tid / 8) a bs s) := by
  rw [storeAt, targetOf_local h]

/-- What lies in a thread's own buffers rests on its tasks, not on its registers or its outstanding writes. -/
theorem foreignToThread_setThread {s : State} {tid : Nat} {x : Thread} (ht : x.task = (s.thread tid).task)
    (hp : x.parked = (s.thread tid).parked) (o : Nat) : foreignToThread (s.setThread tid x) tid o = foreignToThread s tid o := by
  have hheld : heldPackets (s.setThread tid x) tid = heldPackets s tid := by
    rw [heldPackets, State.thread_setThread_self, ht, hp]
    rfl
  have hown (k : Nat) : ownBuffer (s.setThread tid x) tid k = ownBuffer s tid k := by
    rw [ownBuffer, hheld]
    rfl
  unfold foreignToThread
  simp only [hown]
  rfl

/-- A store into the thread's own buffers, of a thread that has its tasks of s: a posted write. -/
theorem storeAt_packet {s : State} {tid a : Nat} {x : Thread} {bs : List Byte} (h : 0x10000000 ≤ a) (h' : a < 0x10D00000)
    (hopen : pktOpen s = true) (ht : x.task = (s.thread tid).task) (hp : x.parked = (s.thread tid).parked)
    (hown : (List.range bs.length).any (fun j => foreignToThread s tid (a - 0x10000000 + j)) = false) :
    storeAt tid a bs (s.setThread tid x) =
      .next ((postWrite tid a .ready (s.setThread tid x)).setPkt (s.pkt.wrBytes (a - 0x10000000) bs)) := by
  have hposted : postWrite tid a .ready (s.setThread tid x) = s.setThread tid { x with writes := x.writes ++ [(a, .ready)] } := by
    rw [postWrite, State.thread_setThread_self, State.setThread_setThread]
  have hforeign (o : Nat) : foreignToThread (s.setThread tid { x with writes := x.writes ++ [(a, .ready)] }) tid o =
      foreignToThread s tid o := foreignToThread_setThread (by exact ht) (by exact hp) o
  have hfits : ¬ a - 0x10000000 ≥ 0xD00000 := by omega
  rw [storeAt, targetOf_packet h (by omega), hposted]
  simp only [hforeign, hown, hfits, decide_false, Bool.or_false, Bool.false_eq_true, if_false]
  exact if_neg (by rw [show pktOpen (s.setThread tid _) = pktOpen s from rfl, hopen]; decide)

theorem setPkt_postWrite (tid a : Nat) (w : ReqWait) (s : State) (m : Mem) : (postWrite tid a w s).setPkt m =
    (s.setPkt m).setThread tid { s.thread tid with writes := (s.thread tid).writes ++ [(a, w)] } := rfl

/-! The stack (14_whorl_isa_catalogue.md R532). -/

theorem poisoned_none_iff {s : State} {n a len : Nat} :
    poisoned s n a len = none ↔ ∀ j < len, mget (fun _ => false) (s.core n).poison ((a + j) / 8) = false := by
  simp [poisoned]

/-- A piece of bytes without a poisoned word has none. -/
theorem poisoned_none_of_within {s : State} {n a b len len' : Nat} (h : poisoned s n a len = none) (ha : a ≤ b)
    (hb : b + len' ≤ a + len) : poisoned s n b len' = none := by
  rw [poisoned_none_iff] at h ⊢
  intro j hj
  have hword := h (b - a + j) (by omega)
  rwa [show a + (b - a + j) = b + j by omega] at hword

theorem stackFault_none {s : State} {tid sp lo n : Nat} {load : Bool} (hin : lo + 4 * n ≤ 0x10000) (ha : sp % 4 = 0)
    (hp : load = true → poisoned s (tid / 8) lo (4 * n) = none) : stackFault s tid sp lo n load = none := by
  have hword {k : Nat} (hk : k < n) : (lo + 4 * k) % 2 ^ 32 = lo + 4 * k ∧ targetOf (lo + 4 * k) = .localMem :=
    ⟨by omega, targetOf_local (by omega)⟩
  have hfind : ((List.range n).find? fun k => decide (targetOf ((lo + 4 * k) % 2 ^ 32) = .none)) = none := by
    refine List.find?_eq_none.mpr fun k hk => ?_
    obtain ⟨haddr, htarget⟩ := hword (List.mem_range.mp hk)
    rw [haddr, htarget]
    decide
  rw [stackFault, hfind]
  refine (if_neg (not_not.mpr ha)).trans ?_
  split
  · rename_i hload
    refine List.findSome?_eq_none_iff.mpr fun k hk => ?_
    have hk := List.mem_range.mp hk
    obtain ⟨haddr, htarget⟩ := hword hk
    have hpoison := poisoned_none_of_within (b := lo + 4 * k) (len' := 4) (hp hload) (by omega) (by omega)
    dsimp only
    rw [haddr, htarget, hpoison]
    rfl
  · rfl

/-- Words written to a core's local memory in order. -/
def coreWrites (n : Nat) (ws : List (Nat × Word)) (s : State) : State :=
  ws.foldl (fun (u : State) w => coreWrite n w.1 (leBytes 4 w.2.toNat) u) s

theorem coreWrites_setThread (n : Nat) (ws : List (Nat × Word)) (s : State) (tid : Nat) (x : Thread) :
    coreWrites n ws (s.setThread tid x) = (coreWrites n ws s).setThread tid x := by
  induction ws generalizing s with
  | nil => rfl
  | cons w ws ih => exact ih (coreWrite n w.1 (leBytes 4 w.2.toNat) s)

theorem storeAll_local {ws : List (Nat × Word)} (h : ∀ w ∈ ws, w.1 < 0x10000) (tid : Nat) (s : State) :
    storeAll tid ws s = .next (coreWrites (tid / 8) ws s) := by
  induction ws generalizing s with
  | nil => rfl
  | cons w ws ih =>
    obtain ⟨a, v⟩ := w
    rw [storeAll, storeAt_local (h (a, v) List.mem_cons_self)]
    exact ih (fun w hw => h w (List.mem_cons_of_mem _ hw)) _

/-- The words that PUSH of the registers rs puts at lo and upward. -/
def stackWords (x : Thread) (rs : List Nat) (lo : Nat) : List (Nat × Word) :=
  (List.range rs.length).map fun k => (lo + 4 * k, x.reg (rs.getD k 0))

/-- PUSH into local memory: the words, then the stack pointer. -/
theorem pushAct_local {i : Insn} {x : Thread} {lo : Nat} (hlo : lo + 4 * (maskRegs i.imm).length = (x.reg 14).toNat)
    (hsp : (x.reg 14).toNat ≤ 0x10000) (ha : (x.reg 14).toNat % 4 = 0) (tid : Nat) (s : State) :
    ∃ f, pushAct i tid x s = .run f ∧
      ∀ (t : State) (y : Thread), f (t.setThread tid y) =
        .next ((coreWrites (tid / 8) (stackWords x (maskRegs i.imm) lo) t).setThread tid (y.setReg 14 (.ofNat 32 lo))) := by
  have hnew : addr32 (((x.reg 14).toNat : Int) - 4 * (maskRegs i.imm).length) = lo := addr32_eq (by omega)
  have hwords : ((List.range (maskRegs i.imm).length).map fun k => ((lo + 4 * k) % 2 ^ 32, x.reg ((maskRegs i.imm).getD k 0))) =
      stackWords x (maskRegs i.imm) lo := by
    refine List.map_congr_left fun k hk => ?_
    have hk := List.mem_range.mp hk
    rw [Nat.mod_eq_of_lt (by omega)]
  have hlocal : ∀ w ∈ stackWords x (maskRegs i.imm) lo, w.1 < 0x10000 := by
    intro w hw
    obtain ⟨k, hk, rfl⟩ := List.mem_map.mp hw
    have hk := List.mem_range.mp hk
    dsimp only
    omega
  have hfault := stackFault_none (s := s) (tid := tid) (load := false) (hlo.trans_le hsp) ha nofun
  simp only [pushAct, hnew, hfault, hwords]
  refine ⟨_, rfl, fun t y => ?_⟩
  simp only [storeAll_local hlocal, coreWrites_setThread, State.thread_setThread_self, State.setThread_setThread]

theorem popWords_local {s : State} {as : List Nat} (h : ∀ a ∈ as, a < 0x10000) (n : Nat) (got : List Word) :
    popWords s n as got = (as.map fun a => .ofNat 32 (leNat ((s.core n).mem.rdBytes a 4)), none) := by
  induction as with
  | nil => rfl
  | cons a as ih =>
    have htail := ih fun b hb => h b (List.mem_cons_of_mem _ hb)
    simp only [popWords, targetOf_local (h a List.mem_cons_self), htail, if_true, List.map_cons]

theorem zip_map_range {α β : Type} (as : List α) (g : Nat → β) (d : α) :
    as.zip ((List.range as.length).map g) = (List.range as.length).map fun k => (as.getD k d, g k) := by
  refine List.ext_getElem (by simp) fun k hk hk' => ?_
  simp only [List.length_map, List.length_range] at hk'
  simp [hk']

/-- Registers that POP has brought back from sp and upward; a named g14 is discarded. -/
def popped (s : State) (n sp : Nat) (rs : List Nat) (y : Thread) : Thread :=
  (List.range rs.length).foldl (fun (y : Thread) k => if rs.getD k 0 = 14 then y
    else y.setReg (rs.getD k 0) (.ofNat 32 (leNat ((s.core n).mem.rdBytes (sp + 4 * k) 4)))) y

/-- POP from local memory: the registers, then the stack pointer. -/
theorem popAct_local {s : State} {tid : Nat} {i : Insn} {x : Thread}
    (hin : (x.reg 14).toNat + 4 * (maskRegs i.imm).length ≤ 0x10000) (ha : (x.reg 14).toNat % 4 = 0)
    (hp : poisoned s (tid / 8) (x.reg 14).toNat (4 * (maskRegs i.imm).length) = none) (got : List Word) :
    popAct i tid x got s = onThread tid fun y =>
      (popped s (tid / 8) (x.reg 14).toNat (maskRegs i.imm) y).setReg 14 (x.reg 14 + .ofNat 32 (4 * (maskRegs i.imm).length)) := by
  have hfault := stackFault_none (s := s) (tid := tid) (load := true) hin ha fun _ => hp
  have haddrs : ((List.range (maskRegs i.imm).length).map fun k => ((x.reg 14).toNat + 4 * k) % 2 ^ 32) =
      (List.range (maskRegs i.imm).length).map fun k => (x.reg 14).toNat + 4 * k := by
    refine List.map_congr_left fun k hk => ?_
    have hk := List.mem_range.mp hk
    rw [Nat.mod_eq_of_lt (by omega)]
  have hlocal : ∀ a ∈ (List.range (maskRegs i.imm).length).map fun k => (x.reg 14).toNat + 4 * k, a < 0x10000 := by
    intro a hmem
    obtain ⟨k, hk, rfl⟩ := List.mem_map.mp hmem
    have hk := List.mem_range.mp hk
    omega
  have hnew : BitVec.ofNat 32 ((x.reg 14).toNat + 4 * (maskRegs i.imm).length) = x.reg 14 + .ofNat 32 (4 * (maskRegs i.imm).length) := by
    rw [BitVec.ofNat_add, BitVec.ofNat_toNat, BitVec.setWidth_eq]
  simp only [popAct, hfault, haddrs, popWords_local hlocal, List.map_map, zip_map_range _ _ 0, List.foldl_map, hnew]
  rfl

/-! Loads, stores and packet accesses as their thread issues them. -/

/-- The loads of R531, with size, sign extension and byte order. -/
def loadRows : List ((Nat → Instr) × WOp × (Nat × Bool × Bool)) :=
  [(.ldb, .ldb, (1, true, false)), (.ldbu, .ldbu, (1, false, false)), (.ldh, .ldh, (2, true, false)),
   (.ldhu, .ldhu, (2, false, false)), (.ldw, .ldw, (4, false, false)), (.ldhn, .ldhn, (2, true, true)),
   (.ldhun, .ldhun, (2, false, true)), (.ldwn, .ldwn, (4, false, true))]

/-- The stores of R531, with size and byte order. -/
def storeRows : List ((Nat → Instr) × WOp × (Nat × Bool)) :=
  [(.stb, .stb, (1, false)), (.sth, .sth, (2, false)), (.stw, .stw, (4, false)), (.sthn, .sthn, (2, true)), (.stwn, .stwn, (4, true))]

theorem loadRows_spec (s : State) (tid : Nat) : ∀ e ∈ loadRows,
    exec (e.1 tid) s = issue (.op e.2.1) tid s ∧ memShape e.2.1 = some e.2.2 ∧ isStore e.2.1 = false ∧ 0 < e.2.2.1 := by
  simp only [loadRows, List.forall_mem_cons, List.not_mem_nil, false_implies, implies_true, and_true]
  refine ⟨?_, ?_, ?_, ?_, ?_, ?_, ?_, ?_⟩
  all_goals exact ⟨rfl, rfl, rfl, by decide⟩

theorem storeRows_spec (s : State) (tid : Nat) : ∀ e ∈ storeRows,
    exec (e.1 tid) s = issue (.op e.2.1) tid s ∧ memShape e.2.1 = some (e.2.2.1, false, e.2.2.2) ∧ isStore e.2.1 = true ∧ 0 < e.2.2.1 := by
  simp only [storeRows, List.forall_mem_cons, List.not_mem_nil, false_implies, implies_true, and_true]
  refine ⟨?_, ?_, ?_, ?_, ?_⟩
  all_goals exact ⟨rfl, rfl, rfl, by decide⟩

theorem rowIs_op {i : Insn} {op : WOp} (ho : i.op = op) (hp : i.pkt = false) : rowIs (.op op) i = true := by
  simp [rowIs, ho, hp]

section
variable {s : State} {tid : Nat} {i : Insn} {code : List Byte} {op : WOp} {a size : Nat} {signed net : Bool}
  (hr : ready s tid i code = true) (hi : runs i (s.thread tid) = true) (hs : memShape i.op = some (size, signed, net))
include hr hi hs

/-- A load from local memory. -/
theorem issue_load {r : Row} (hrow : rowIs r i = true) (hst : isStore i.op = false) (hres : accessAddr s i (s.thread tid) = some a)
    (hl : a < 0x10000) (ha : a % size = 0) (hp : poisoned s (tid / 8) a size = none) :
    issue r tid s = .next (s.setThread tid ((baseUpdate i size ((s.thread tid).reg i.ra) (pastWord (s.thread tid) code)).setReg i.rd
      (loadValue size signed net (leNat ((s.core (tid / 8)).mem.rdBytes a size))))) := by
  have hlocal := targetOf_local hl
  have hfault : accessFault s tid a size true = none := accessFault_none (by rw [hlocal]; decide) ha fun _ _ => hp
  exact issue_onThread hr hrow
    ((opAct_mem (x := (s.thread tid).nextWord) hi _ _ _ _ _ hs).trans (memAct_local hres hst hfault hlocal []))

/-- A load from elsewhere: its request leaves the thread. -/
theorem issue_load_request {r : Row} (hrow : rowIs r i = true) (hst : isStore i.op = false)
    (hres : accessAddr s i (s.thread tid) = some a) (ht : targetOf a ≠ .none) (hl : targetOf a ≠ .localMem) (ha : a % size = 0) :
    issue r tid s = wordWait tid code [] (.load a size) s := by
  have hfault : accessFault s tid a size true = none := accessFault_none ht ha fun _ h => absurd h hl
  exact issue_wait hr hrow ((opAct_mem (x := (s.thread tid).nextWord) hi _ _ _ _ _ hs).trans (memAct_request hres hst hfault hl))

/-- A store: its outcome at its address, then its base. -/
theorem issue_store {r : Row} {u : State} {y : Thread} (hrow : rowIs r i = true) (hst : isStore i.op = true)
    (hres : accessAddr s i (s.thread tid) = some a) (ht : targetOf a ≠ .none) (ha : a % size = 0)
    (hu : storeAt tid a (storeBytes size net ((s.thread tid).reg i.rd)) (s.setThread tid (pastWord (s.thread tid) code)) =
      .next (u.setThread tid y)) :
    issue r tid s = .next (u.setThread tid (baseUpdate i size ((s.thread tid).reg i.ra) y)) := by
  have hfault : accessFault s tid a size false = none := accessFault_none ht ha nofun
  obtain ⟨f, hact, hf⟩ := memAct_store (signed := signed) (net := net) (x := (s.thread tid).nextWord) hres hst hfault []
  refine issue_run hr hrow ((opAct_mem (x := (s.thread tid).nextWord) hi _ _ _ _ _ hs).trans hact) ((hf _ _ hu).trans ?_)
  rw [State.thread_setThread_self, State.setThread_setThread]
  rfl

end

/-- A thread waits for a load from packet memory, whose request has left it. -/
theorem wordWait_packet {s : State} {a : Nat} (h : 0x10000000 ≤ a) (h' : a < 0x11000000) (tid size : Nat) (code : List Byte)
    (got : List Word) : ∃ t, wordWait tid code got (.load a size) s = .next t ∧ (t.thread tid).st = 2 ∧ (t.thread tid).waitOn = 4 ∧
      (t.thread tid).read = some { code := code, got := got, wait := .ready, logged := false } ∧ t.pkt = s.pkt := by
  have hpanel : panelAddr a = none := if_neg (by omega)
  have hlogged : needLogged s (.load a size) = false := by
    rw [needLogged, loadLogged, Bool.and_eq_false_iff, decide_eq_false_iff_not]
    omega
  simp only [wordWait, loadIssue, hpanel, hlogged, Option.isSome_none, Bool.false_eq_true, if_false]
  refine ⟨_, rfl, ?_⟩
  rw [State.thread_setThread_self]
  exact ⟨rfl, rfl, rfl, rfl⟩

/-- Settles O21: a load or store acts at the address it resolves to (`memAct_local`, `memAct_store`, `memAct_request`), PUSH and POP on the
words of the stack (`pushAct_local`, `popAct_local`), and a NOP beside the operation writes back its thread as it stands (`issue_run`). -/
theorem whorlMemoryCommandsComplete : Obligations.WhorlMemoryCommandsComplete := by
  refine ⟨?load, ?store, ?push, ?pop, ?packetStore, ?packetLoad⟩
  case load =>
    intro e he s tid i code a x hr hi ho hp haddr hin halign hpoison
    obtain ⟨hexec, hshape, hload, hpos⟩ := loadRows_spec s tid e he
    have hissue := issue_load hr hi (by rw [ho]; exact hshape) (rowIs_op ho hp) (by rw [ho]; exact hload) (accessAddr_base hp haddr s)
      (by omega) halign hpoison
    refine ⟨_, hexec.trans hissue, ?_⟩
    rw [baseUpdate_eq, loadValue_leNat (Mem.length_rdBytes _ _ _)]
  case store =>
    intro e he s tid i code a x hr hi ho hp haddr hin halign
    obtain ⟨hexec, hshape, hstore, hpos⟩ := storeRows_spec s tid e he
    have hlocal : a < 0x10000 := by omega
    have hissue := issue_store hr hi (by rw [ho]; exact hshape) (rowIs_op ho hp) (by rw [ho]; exact hstore) (accessAddr_base hp haddr s)
      (by rw [targetOf_local hlocal]; decide) halign ((storeAt_local hlocal _ _ _).trans (by rw [coreWrite_setThread]))
    exact ⟨_, hexec.trans hissue, by rw [baseUpdate_eq]; rfl⟩
  case push =>
    rintro s tid i code rs lo x hr hi ho hp rfl hlo hsp halign
    obtain ⟨f, hact, hf⟩ := pushAct_local (i := i) (x := x.nextWord) hlo hsp halign tid s
    exact ⟨_, issue_run hr (rowIs_op ho hp) ((opAct_push (x := x.nextWord) hi _ _ _ _ _ ho).trans hact) (hf _ _), rfl⟩
  case pop =>
    rintro s tid i code rs x hr hi ho hp rfl hin halign hpoison
    have hact := popAct_local (i := i) (x := x.nextWord) hin halign hpoison []
    exact ⟨_, issue_onThread hr (rowIs_op ho hp) ((opAct_pop (x := x.nextWord) hi _ _ _ _ _ ho).trans hact), rfl⟩
  case packetStore =>
    intro s tid i code a b x hr hi ho hp hb ha hlow hhigh halign hopen hown hupd
    have hpost := storeAt_packet (bs := storeBytes 4 false (x.reg i.rd)) (x := pastWord x code) hlow (by omega) hopen rfl rfl hown
    rw [setPkt_postWrite] at hpost
    have hissue := issue_store hr hi (by rw [ho]; rfl) (r := .packet true) (by simp [rowIs, ho, hp, isStore]) (by rw [ho]; rfl)
      (accessAddr_packet hp hb ha) (by rw [targetOf_packet hlow (by omega)]; decide) halign hpost
    refine ⟨_, hissue, ?_⟩
    rw [baseUpdate_eq, hupd, if_neg (by decide), if_neg (by decide), ← setPkt_postWrite]
    rfl
  case packetLoad =>
    intro s tid i code a b x hr hi ho hp hb ha hlow hhigh halign _
    have htarget := targetOf_packet (a := a) hlow (by omega)
    obtain ⟨t, ht, hst, hwait, hread, hpkt⟩ := wordWait_packet (s := s) hlow (by omega) tid 4 code []
    have hissue := issue_load_request hr hi (by rw [ho]; rfl) (r := .packet false) (by simp [rowIs, ho, hp, isStore]) (by rw [ho]; rfl)
      (accessAddr_packet hp hb ha) (by rw [htarget]; decide) (by rw [htarget]; decide) halign
    exact ⟨t, hissue.trans ht, hst, hwait, hread, hpkt⟩

end Sys2Proof.Machine
end

section
/-!
SUPPORT. Threads' watchdogs, escalation, timers, signals, control, the local memory window and lookups (12_whorl_cores_threads.md R453 to
R469; 13_whorl_isa_model.md R510): what each command does where its condition holds; and from these the statement on them (O15).
-/
namespace Sys2Proof.Machine

/-! Events of a thread (R455). -/

theorem bitOf_or_two_pow (v k : Nat) : bitOf (v ||| 2 ^ k) k = true := by
  have hbit : (v ||| 2 ^ k).testBit k = true := by simp
  rwa [Nat.testBit_eq_decide_div_mod_eq] at hbit

/-- A thread that an event reaches shows it, with its timer and its lookup as they were. -/
theorem thread_raiseEvent_self (tid bit : Nat) (s : State) :
    bitOf ((raiseEvent tid bit s).thread tid).evp bit = true ∧ ((raiseEvent tid bit s).thread tid).armed = (s.thread tid).armed ∧
      ((raiseEvent tid bit s).thread tid).lookup = (s.thread tid).lookup := by
  have hevent := bitOf_or_two_pow (s.thread tid).evp bit
  rw [raiseEvent, State.thread_setThread_self]
  split
  · exact ⟨hevent, rfl, rfl⟩
  · exact ⟨hevent, rfl, rfl⟩

section
variable {s : State} {tid : Nat}

/-! Watchdogs and escalation (R462, R467). -/

theorem exec_watchdogExpiry_faults (h : tid < 384) (hc : (s.thread tid).counts = true) (hl : wdogLimit (s.thread tid) ≤ wdogCount s tid) :
    exec (.watchdogExpiry tid) s = .next (threadFault tid 0x10 0 s) :=
  if_neg (by simp [h, hc, hl])

theorem exec_escalationTimeout_child (h : tid < 384) (hf : (s.thread tid).st = 5) (ht : tid % 8 ≠ 0) (he : (s.thread tid).esc = 0) :
    exec (.escalationTimeout tid) s =
      .next (raiseSuper ((s.setThread tid { s.thread tid with esc := 1 }).set (R.WHL_CERR_ESC (tid / 8)) 1)) :=
  if_neg (by simp [h, hf, ht, he])

theorem exec_hostEscalationTimeout_escalates (h : tid < 384) (hf : (s.thread tid).st = 5)
    (he : (s.thread tid).esc = if tid % 8 = 0 then 0 else 1) :
    exec (.hostEscalationTimeout tid) s = .next (escHost (s.setThread tid { s.thread tid with esc := 2 })) :=
  if_neg (by simp [h, hf, he])

/-! Timers and signals (R455, R457). -/

theorem exec_timerExpiry_raises (ha : (s.thread tid).armed = true) (ht : (s.thread tid).tcmp ≤ s.tnow (islWHL (tid / 8))) :
    exec (.timerExpiry tid) s = .next (raiseEvent tid 3 (s.setThread tid { s.thread tid with armed := false })) :=
  if_neg (by simp [ha, ht])

variable {a : Agent} {v : Word}

theorem exec_threadSignal_reaches (h : tid < 384) (hw : reaches a (R.WHL_TSIG (tid / 8) (tid % 8)) 1 s = true) :
    exec (.threadSignal a tid) s = .next (raiseEvent tid 6 s) :=
  (if_neg (by simpa using h)).trans (access_reaches hw _)

/-! Control (R468, R469). -/

/-- A permitted command to a thread of a core in service does what CMD names. -/
theorem tctlWrite_permitted (hm : mayControl s a tid = true) (hs : inService s (tid / 8) = true) (hh : s.halted = false) :
    (wget v 0 2 = 1 → tctlWrite a tid v s = threadStop tid (v.getLsbD 4) s) ∧
      (wget v 0 2 = 2 → tctlWrite a tid v s = threadRestart tid v s) := by
  constructor
  · intro hcmd
    simp [tctlWrite, hm, hs, hh, hcmd]
  · intro hcmd
    simp [tctlWrite, hm, hs, hh, hcmd]

theorem exec_threadStop_reaches (h : tid < 384) (hcmd : wget v 0 2 = 1) (hw : reaches a (R.WHL_TCTL (tid / 8) (tid % 8)) v s = true) :
    exec (.threadStop a tid v) s = .next (tctlWrite a tid v s) :=
  (if_neg (by simp [h, hcmd])).trans (access_reaches hw _)

theorem exec_threadRestart_reaches (h : tid < 384) (hcmd : wget v 0 2 = 2) (hw : reaches a (R.WHL_TCTL (tid / 8) (tid % 8)) v s = true) :
    exec (.threadRestart a tid v) s = .next (tctlWrite a tid v s) :=
  (if_neg (by simp [h, hcmd])).trans (access_reaches hw _)

/-! Local memory through the window (R453). -/

theorem exec_localMemoryWindowWrite_reaches {n off : Nat} (hn : n < 48) (ho : off < 65536)
    (hw : reaches a (0x810000 + 0x20000 * n + off) v s = true) :
    exec (.localMemoryWindowWrite a n off 15 v) s = lmWindowWrite a n off v s :=
  (if_neg (by simp [hn, ho])).trans (access_reaches hw _)

/-- A word written to a core out of service, by whatever agent. -/
theorem lmWindowWrite_idle {n : Nat} (hr : s.flag (R.WHL_CSTAT_RETIRED n) = false) (hs : inService s n = false) (a : Agent) (off : Nat) :
    lmWindowWrite a n off v s = .next (coreWrite n (off / 4 * 4) (leBytes 4 v.toNat) s) := by
  simp [lmWindowWrite, hr, hs]

/-- A word written by a thread of the core, in service or not. -/
theorem lmWindowWrite_own {n : Nat} (hr : s.flag (R.WHL_CSTAT_RETIRED n) = false) (thr off : Nat) :
    lmWindowWrite (.thread n thr) n off v s = .next (coreWrite n (off / 4 * 4) (leBytes 4 v.toNat) s) := by
  simp [lmWindowWrite, hr]

/-! Lookups (13_whorl_isa_model.md R510). -/

theorem exec_lookupResult_completes (hl : (s.thread tid).lookup.isSome = true) (hu : s.up islTBL = true) :
    exec (.lookupResult tid) s = .next (completeLookup tid s) := by
  obtain ⟨k, hk⟩ := Option.isSome_iff_exists.mp hl
  exact if_neg (by simp [hk, hu])

/-- A lookup that completes is over, whatever its answer. -/
theorem lookup_completeLookup (tid : Nat) (s : State) : ((completeLookup tid s).thread tid).lookup = none := by
  unfold completeLookup
  dsimp only
  split
  · assumption
  · have hover (u : State) (x : Thread) (hx : x.lookup = none) : ((raiseEvent tid 1 (u.setThread tid x)).thread tid).lookup = none := by
      obtain ⟨-, -, hlookup⟩ := thread_raiseEvent_self tid 1 (u.setThread tid x)
      rw [hlookup, State.thread_setThread_self, hx]
    split
    · exact hover _ _ rfl
    · exact hover _ _ rfl

end

/-- Settles O15: each clause is the law of its command where the command's condition holds; a timer's event and a signal show in the thread
(`thread_raiseEvent_self`), and a lookup is over with its result (`lookup_completeLookup`). -/
theorem threadControlCommandsComplete : Obligations.ThreadControlCommandsComplete := by
  refine ⟨?watchdog, ?escalation, ?host, ?timer, ?signal, ?stop, ?restart, ?window, ?ownWindow, ?lookup⟩
  case watchdog => exact fun s tid h hc hl => ⟨_, exec_watchdogExpiry_faults h hc hl, rfl⟩
  case escalation => exact fun s tid h hf ht he => ⟨_, exec_escalationTimeout_child h hf ht he, rfl⟩
  case host => exact fun s tid h hf he => ⟨_, exec_hostEscalationTimeout_escalates h hf he, rfl⟩
  case timer =>
    intro s tid ha ht
    obtain ⟨hevent, harmed, -⟩ := thread_raiseEvent_self tid 3 (s.setThread tid { s.thread tid with armed := false })
    exact ⟨_, exec_timerExpiry_raises ha ht, by rw [harmed, State.thread_setThread_self], hevent⟩
  case signal =>
    intro s a tid h hw
    obtain ⟨hevent, -, -⟩ := thread_raiseEvent_self tid 6 s
    exact ⟨_, exec_threadSignal_reaches h hw, rfl, hevent⟩
  case stop =>
    intro s a tid v h hcmd hw hm hs hh
    obtain ⟨hstop, -⟩ := tctlWrite_permitted (v := v) hm hs hh
    exact ⟨_, exec_threadStop_reaches h hcmd hw, hstop hcmd⟩
  case restart =>
    intro s a tid v h hcmd hw hm hs hh
    obtain ⟨-, hrestart⟩ := tctlWrite_permitted (v := v) hm hs hh
    exact ⟨_, exec_threadRestart_reaches h hcmd hw, hrestart hcmd⟩
  case window =>
    intro s a n off v hn ho hw hr hs
    exact ⟨_, (exec_localMemoryWindowWrite_reaches hn ho hw).trans (lmWindowWrite_idle hr hs a off), rfl⟩
  case ownWindow =>
    intro s n thr off v hn ho hw hr
    exact ⟨_, (exec_localMemoryWindowWrite_reaches hn ho hw).trans (lmWindowWrite_own hr thr off), rfl⟩
  case lookup =>
    intro s tid hl hu
    exact ⟨_, exec_lookupResult_completes hl hu, rfl, lookup_completeLookup tid s⟩

end Sys2Proof.Machine
end

section
/-!
SUPPORT. The step (95_what_each_step_holds.md): it keeps what every command keeps (Laws/KeepsExec.lean), over the queue's rest; and from
that the statements on the step and on every command (O41, O42, O44, O60).
-/
namespace Sys2Proof.Machine

theorem step_front {s : State} {c : Instr} {q : List Instr} (h : s.pending = c :: q) : step s = exec c (s.withPending q) := by
  rw [step, h]

theorem step_empty {s : State} (h : s.pending = []) : step s = .next (idle s) := by
  rw [step, h]

/-- Every step goes on, and keeps what every command keeps, over the queue's rest. -/
theorem keeps_step (s : State) : KeepsO (s.withPending s.pending.tail) (step s) := by
  cases h : s.pending with
  | nil =>
    have hs : s.withPending [] = s := by rw [← h]; rfl
    rw [step_empty h, List.tail_nil, hs]
    exact KeepsO.next (keeps_idle (Keeps.refl s))
  | cons c q =>
    rw [step_front h]
    exact keeps_exec c (Keeps.refl _)

/-- Settles O41, by the two equations of the step. -/
theorem stepRunsTheFrontCommand : Obligations.StepRunsTheFrontCommand :=
  ⟨fun _ _ _ h => step_front h, fun _ h => step_empty h⟩

/-- Settles O42: the step keeps its queue's rest and the free-value counter (`keeps_step`). -/
theorem stepTakesOneCommand : Obligations.StepTakesOneCommand := by
  intro s
  obtain ⟨t, hstep, hkeeps⟩ := keeps_step s
  exact ⟨t, hstep, hkeeps.pending, hkeeps.free⟩

/-- Settles O60: what every command keeps (`keeps_exec`). -/
theorem everyCommandCompletes : Obligations.EveryCommandCompletes := by
  intro c s
  obtain ⟨t, hexec, hkeeps⟩ := keeps_exec c (Keeps.refl s)
  exact ⟨t, hexec, hkeeps.pending, hkeeps.free⟩

/-- The rest of a queue of well-formed commands. -/
theorem State.queueOk_tail {s : State} (h : s.queueOk = true) : s.pending.tail.all Instr.wf = true :=
  List.all_eq_true.mpr fun i hi => List.all_eq_true.mp h i (List.mem_of_mem_tail hi)

/-- Settles O44: the canonical form is kept over the queue's rest (`keeps_step`), which is the next queue. -/
theorem stepKeepsSound : Obligations.StepKeepsSound := by
  intro s t hs hstep
  obtain ⟨hcanonical, hqueue⟩ := (Bool.and_eq_true _ _).mp hs
  have hkeeps : Keeps (s.withPending s.pending.tail) t := Keeps.ofO hstep (keeps_step s)
  have hq : t.queueOk = true := by
    rw [State.queueOk, hkeeps.pending]
    exact State.queueOk_tail hqueue
  exact (Bool.and_eq_true _ _).mpr ⟨hkeeps.canonical hcanonical, hq⟩

end Sys2Proof.Machine
end

section
/-!
SUPPORT. Operations on registers (14_whorl_isa_catalogue.md R523 to R530, R533 to R535; 13_whorl_isa_model.md R493, R495, R504): what a word
of one such operation does with its result, its flags, the accumulator or the thread's address; the arithmetic of the results; and from
these the statements on them (O16 to O20, O23, O52).
-/
namespace Sys2Proof.Machine

/-! What issuing a ready word of an operation on registers does. -/

/-- What an operation on registers leaves of its thread: its result in rd where it writes one, its flags where the word sets flags. -/
def aluDone (i : Insn) (r : Word × Flags) (y : Thread) : Thread :=
  let y := if aluWrites i.op then y.setReg i.rd r.1 else y
  if i.setf then { y with flags := r.2 } else y

/-- What an operation on registers computes as its thread holds its operands. -/
def aluOf (i : Insn) (x : Thread) : Option (Word × Flags) := aluOut i.op (x.reg i.ra) (operandB i x) (x.reg i.rd) x.flags

/-- What a multiply-class operation leaves in the accumulator. -/
def mulOf (i : Insn) (x : Thread) : Option Nat := mulOut i.op (x.reg i.ra) (operandB i x) x.acc

section
variable {i : Insn} {x : Thread} (hi : runs i x = true) (tid pc next : Nat) (got : List Word) (s : State)
include hi

theorem opAct_alu {r : Word × Flags} (h : aluOf i x = some r) : opAct i tid pc next x got s = onThread tid (aluDone i r) := by
  obtain ⟨hl, hc⟩ := runs_iff.mp hi
  rw [aluOf] at h
  unfold opAct
  rcases hc with hc | ⟨cc, hc, hh⟩
  · simp [hl, hc, h]
    rfl
  · simp [hl, hc, hh, h]
    rfl

theorem opAct_mul {v : Nat} (ha : aluOf i x = none) (h : mulOf i x = some v) :
    opAct i tid pc next x got s = onThread tid fun y => { y with acc := v, accAge := 0 } := by
  obtain ⟨hl, hc⟩ := runs_iff.mp hi
  rw [aluOf] at ha
  rw [mulOf] at h
  unfold opAct
  rcases hc with hc | ⟨cc, hc, hh⟩
  · simp [hl, hc, ha, h]
  · simp [hl, hc, hh, ha, h]

theorem opAct_sat {v : Int} (ha : aluOf i x = none) (hm : mulOf i x = none)
    (h : satOut i.op (x.reg i.ra) (operandB i x) x.acc = some v) : opAct i tid pc next x got s = satAct i tid x := by
  obtain ⟨hl, hc⟩ := runs_iff.mp hi
  rw [aluOf] at ha
  rw [mulOf] at hm
  unfold opAct
  rcases hc with hc | ⟨cc, hc, hh⟩
  · simp [hl, hc, ha, hm, h]
  · simp [hl, hc, hh, ha, hm, h]

theorem opAct_ctl {a : Act} (h : ctlAct i tid pc next x = some a) : opAct i tid pc next x got s = a := by
  obtain ⟨hl, hc⟩ := runs_iff.mp hi
  have hop : i.op ∈ [WOp.br, .call, .bc, .bf, .j, .jl, .jx, .jxl, .rtx, .bnz, .dbnz] := by
    unfold ctlAct at h
    split at h
    case h_12 => cases h
    all_goals simp [*]
  unfold opAct
  refine (if_neg ?_).trans ((if_neg (by simp [hl])).trans ?_)
  · rcases hc with hc | ⟨cc, hc, hh⟩
    · simp [hc]
    · simp [hc, hh]
  · obtain ⟨op⟩ := i
    simp only [List.mem_cons, List.not_mem_nil, or_false] at hop
    rcases hop with rfl | rfl | rfl | rfl | rfl | rfl | rfl | rfl | rfl | rfl | rfl
    all_goals
      dsimp only [aluOut, mulOut, satOut, memShape]
      rw [h]
      rfl

end

/-- An operation whose condition fails does nothing. -/
theorem opAct_failed {i : Insn} {x : Thread} {cc : Nat} (hc : i.cond = some cc) (hf : condHolds cc x.flags = false) (tid pc next : Nat)
    (got : List Word) (s : State) : opAct i tid pc next x got s = onThread tid id := by
  simp [opAct, hc, hf]

section
variable {s : State} {tid : Nat} {i : Insn} {code : List Byte} {op : WOp} (hr : ready s tid i code = true)
  (hi : runs i (s.thread tid) = true) (ho : i.op = op) (hp : i.pkt = false)
include hr hi ho hp

theorem issue_alu {r : Word × Flags} (h : aluOf i (s.thread tid) = some r) :
    issue (.op op) tid s = .next (s.setThread tid (aluDone i r (pastWord (s.thread tid) code))) :=
  issue_onThread hr (rowIs_op ho hp) (opAct_alu (x := (s.thread tid).nextWord) hi _ _ _ _ _ h)

theorem issue_mul {v : Nat} (ha : aluOf i (s.thread tid) = none) (h : mulOf i (s.thread tid) = some v) :
    issue (.op op) tid s = .next (s.setThread tid { pastWord (s.thread tid) code with acc := v, accAge := 0 }) :=
  issue_onThread hr (rowIs_op ho hp) (opAct_mul (x := (s.thread tid).nextWord) hi _ _ _ _ _ ha h)

theorem issue_ctl {f : Thread → Thread}
    (h : ctlAct i tid (s.thread tid).pc (pcAfter (s.thread tid) code) (s.thread tid).nextWord = some (onThread tid f)) :
    issue (.op op) tid s = .next (s.setThread tid (f (pastWord (s.thread tid) code))) :=
  issue_onThread hr (rowIs_op ho hp) (opAct_ctl (x := (s.thread tid).nextWord) hi _ _ _ _ _ h)

end

/-! Failed conditions (13_whorl_isa_model.md R493, R495). -/

/-- Each command that a single instruction is the meaning of issues its row. -/
theorem exec_wordRow {c : Instr} {tid : Nat} {r : Row} (h : wordRow c = some (tid, r)) (s : State) : exec c s = issue r tid s := by
  cases c <;> cases h <;> rfl

/-- Settles O52: an operation whose condition fails leaves its thread as it is past the word (`opAct_failed`). -/
theorem whorlFailedConditionsSkip : Obligations.WhorlFailedConditionsSkip := by
  intro s c tid r i code cc hrow hr hi hc hf
  rw [exec_wordRow hrow]
  exact issue_onThread hr hi (opAct_failed (x := (s.thread tid).nextWord) hc hf _ _ _ _ _)

/-! The arithmetic of the results. -/

/-- The two's complement reading of the low bits of a word. -/
theorem toInt_extractLsb'_zero (a : Word) (n : Nat) (hn : 0 < n) : (a.extractLsb' 0 n).toInt = sgn n a.toNat := by
  have h2 : 2 ^ n = 2 * 2 ^ (n - 1) := by rw [← Nat.pow_succ']; congr 1; omega
  rw [BitVec.toInt_eq_toNat_cond, sgn, BitVec.extractLsb'_toNat, Nat.shiftRight_zero]
  split <;> split <;> omega

theorem signExtend_low (a : Word) {n : Nat} (hn : 0 < n) : (a.extractLsb' 0 n).signExtend 32 = BitVec.ofInt 32 (sgn n a.toNat) := by
  rw [BitVec.signExtend, toInt_extractLsb'_zero a n hn]

theorem and_lowMask (a : Word) {n : Nat} (hn : n ≤ 32) : a &&& lowMask n = BitVec.ofNat 32 (a.toNat % 2 ^ n) := by
  have hlt : 2 ^ n - 1 < 2 ^ 32 := by
    have := Nat.pow_le_pow_right (n := 2) (by decide) hn
    omega
  refine BitVec.eq_of_toNat_eq ?_
  rw [BitVec.toNat_and, lowMask, BitVec.toNat_ofNat, BitVec.toNat_ofNat, Nat.mod_eq_of_lt hlt, Nat.and_two_pow_sub_one_eq_mod,
    Nat.mod_eq_of_lt ((Nat.mod_le _ _).trans_lt a.isLt)]

theorem lowMask_shiftLeft (w p : Nat) : lowMask w <<< p = BitVec.ofNat 32 ((2 ^ w - 1) * 2 ^ p) := by
  refine BitVec.eq_of_toNat_eq ?_
  rw [BitVec.toNat_shiftLeft, lowMask, BitVec.toNat_ofNat, BitVec.toNat_ofNat, Nat.shiftLeft_eq, Nat.mod_mul_mod]

theorem overflow_addWith (a b : Word) (c : Bool) : (addWith a b c).2.v = decide ((addWith a b c).1.toInt ≠ a.toInt + b.toInt + b2n c) := by
  have ha := a.isLt
  have hb := b.isLt
  have hc : b2n c ≤ 1 := by unfold b2n; split <;> omega
  rw [Bool.eq_iff_iff]
  simp only [addWith, Bool.and_eq_true, beq_iff_eq, bne_iff_ne, decide_eq_decide, decide_eq_true_eq, ne_eq, BitVec.toInt_eq_toNat_cond,
    BitVec.msb_eq_decide, BitVec.toNat_ofNat]
  split <;> split <;> split <;> omega

theorem sat32_eq (v : Int) : sat32 v = (BitVec.ofInt 32 (max (-2 ^ 31) (min (2 ^ 31 - 1) v)), decide (max (-2 ^ 31) (min (2 ^ 31 - 1) v) ≠ v)) := by
  unfold sat32
  split
  · rw [min_eq_left (by omega), max_eq_right (by omega)]
    simp only [Prod.mk.injEq]
    exact ⟨by decide, by simp; omega⟩
  split
  · rw [min_eq_right (by omega), max_eq_left (by omega)]
    simp only [Prod.mk.injEq]
    exact ⟨by decide, by simp; omega⟩
  · rw [min_eq_right (by omega), max_eq_right (by omega)]
    simp

/-- A bit of a number. -/
theorem getLsbD_eq_div (a : Word) (k : Nat) : a.getLsbD k = decide (a.toNat / 2 ^ k % 2 = 1) := by
  rw [BitVec.getLsbD, Nat.testBit_eq_decide_div_mod_eq]

theorem shiftLeft_eq_ofNat (a : Word) (n : Nat) : a <<< n = BitVec.ofNat 32 (a.toNat * 2 ^ n) := by
  refine BitVec.eq_of_toNat_eq ?_
  rw [BitVec.toNat_shiftLeft, Nat.shiftLeft_eq, BitVec.toNat_ofNat]

theorem ushiftRight_eq_ofNat (a : Word) (n : Nat) : a >>> n = BitVec.ofNat 32 (a.toNat / 2 ^ n) := by
  refine BitVec.eq_of_toNat_eq ?_
  rw [BitVec.toNat_ushiftRight, Nat.shiftRight_eq_div_pow, BitVec.toNat_ofNat,
    Nat.mod_eq_of_lt ((Nat.div_le_self _ _).trans_lt a.isLt)]

theorem sshiftRight_eq_ofInt (a : Word) (n : Nat) : a.sshiftRight n = BitVec.ofInt 32 (a.toInt / 2 ^ n) := by
  rw [BitVec.sshiftRight_eq, Int.shiftRight_eq_div_pow, Nat.cast_pow]
  rfl

theorem rotateRight_eq_ofNat (a : Word) {n : Nat} (hn : n < 32) :
    a.rotateRight n = BitVec.ofNat 32 (a.toNat / 2 ^ n + a.toNat * 2 ^ (32 - n)) := by
  have hdisjoint : a >>> n &&& a <<< (32 - n) = 0#32 := by
    refine BitVec.eq_of_getLsbD_eq fun i hi => ?_
    rw [BitVec.getLsbD_and, BitVec.getLsbD_ushiftRight, BitVec.getLsbD_shiftLeft, BitVec.getLsbD_zero]
    by_cases h : i < 32 - n
    · simp [h]
    · rw [BitVec.getLsbD_of_ge a (n + i) (by omega), Bool.false_and]
  rw [BitVec.rotateRight_def, Nat.mod_eq_of_lt hn, ← BitVec.add_eq_or_of_and_eq_zero _ _ hdisjoint, BitVec.ofNat_add,
    ushiftRight_eq_ofNat, shiftLeft_eq_ofNat]

/-- The last bit that a shift left by n moves out. -/
theorem shl_out (a : Word) (n : Nat) :
    (decide (n ≤ 32) && a.getLsbD (32 - n)) = decide (a.toNat * 2 ^ n / 2 ^ 32 % 2 = 1) := by
  by_cases h : n ≤ 32
  · have h32 : 2 ^ 32 = 2 ^ (32 - n) * 2 ^ n := by rw [← pow_add]; congr 1; omega
    rw [decide_eq_true h, Bool.true_and, getLsbD_eq_div, h32, Nat.mul_div_mul_right _ _ (by positivity)]
  · have hpow : 2 ^ n = 2 ^ (n - 33) * 2 * 2 ^ 32 := by rw [← pow_succ, ← pow_add]; congr 1; omega
    rw [decide_eq_false h, Bool.false_and, hpow, ← mul_assoc, ← mul_assoc, Nat.mul_div_cancel _ (by positivity), Nat.mul_mod_left]
    rfl

/-- The last bit that an arithmetic shift right by n moves out. -/
theorem sar_out (a : Word) (n : Nat) :
    (if n ≤ 32 then a.getLsbD (n - 1) else a.msb) = decide (a.toInt / 2 ^ (n - 1) % 2 = 1) := by
  have hbit : (a.sshiftRight (n - 1)).getLsbD 0 = if n ≤ 32 then a.getLsbD (n - 1) else a.msb := by
    rw [BitVec.getLsbD_sshiftRight]
    by_cases h : n ≤ 32
    · simp [h, show n - 1 < 32 by omega]
    · simp [h, show ¬ n - 1 < 32 by omega]
  rw [← hbit, sshiftRight_eq_ofInt, getLsbD_eq_div, BitVec.toNat_ofInt, decide_eq_decide]
  omega

/-- The last bit that a rotation right by n moves round. -/
theorem ror_out (a : Word) {n : Nat} (hn : n ≠ 0) (hlt : n < 32) :
    (a.rotateRight n).msb = decide (a.toNat / 2 ^ (n - 1) % 2 = 1) := by
  have hlow : ¬ 32 - 1 < 32 - n := by omega
  have hk : 32 - 1 - (32 - n) = n - 1 := by omega
  rw [BitVec.msb_eq_getLsbD_last, BitVec.getLsbD_rotateRight, Nat.mod_eq_of_lt hlt, decide_eq_false hlow, cond_false, hk, ← getLsbD_eq_div]
  rfl

theorem addWith_eq (a b : Word) (c : Bool) : addWith a b c =
    (.ofNat 32 (a.toNat + b.toNat + b2n c), ⟨(BitVec.ofNat 32 (a.toNat + b.toNat + b2n c)).msb,
      decide (BitVec.ofNat 32 (a.toNat + b.toNat + b2n c) = 0), decide (2 ^ 32 ≤ a.toNat + b.toNat + b2n c),
      decide ((BitVec.ofNat 32 (a.toNat + b.toNat + b2n c)).toInt ≠ a.toInt + b.toInt + b2n c)⟩) := by
  have hv := overflow_addWith a b c
  exact congrArg (fun v => ((addWith a b c).1, { (addWith a b c).2 with v := v })) hv

theorem shlWith_eq (a : Word) (n : Nat) (f : Flags) : shlWith a n f = (.ofNat 32 (a.toNat * 2 ^ n),
    { nz (.ofNat 32 (a.toNat * 2 ^ n)) f with c := if n = 0 then f.c else decide (a.toNat * 2 ^ n / 2 ^ 32 % 2 = 1) }) := by
  rw [shlWith, shl_out, shiftLeft_eq_ofNat]

theorem shrWith_eq (a : Word) (n : Nat) (f : Flags) : shrWith a n f = (.ofNat 32 (a.toNat / 2 ^ n),
    { nz (.ofNat 32 (a.toNat / 2 ^ n)) f with c := if n = 0 then f.c else decide (a.toNat / 2 ^ (n - 1) % 2 = 1) }) := by
  rw [shrWith, getLsbD_eq_div, ushiftRight_eq_ofNat]

theorem sarWith_eq (a : Word) (n : Nat) (f : Flags) : sarWith a n f = (.ofInt 32 (a.toInt / 2 ^ n),
    { nz (.ofInt 32 (a.toInt / 2 ^ n)) f with c := if n = 0 then f.c else decide (a.toInt / 2 ^ (n - 1) % 2 = 1) }) := by
  rw [sarWith, sar_out, sshiftRight_eq_ofInt]

theorem rorWith_eq (a : Word) {n : Nat} (hn : n < 32) (f : Flags) : rorWith a n f = (.ofNat 32 (a.toNat / 2 ^ n + a.toNat * 2 ^ (32 - n)),
    { nz (.ofNat 32 (a.toNat / 2 ^ n + a.toNat * 2 ^ (32 - n))) f with
      c := if n = 0 then f.c else decide (a.toNat / 2 ^ (n - 1) % 2 = 1) }) := by
  have hc : (if n = 0 then f.c else (a.rotateRight n).msb) = if n = 0 then f.c else decide (a.toNat / 2 ^ (n - 1) % 2 = 1) := by
    split
    · rfl
    · rw [ror_out a ‹_› hn]
  rw [rorWith, Nat.mod_eq_of_lt hn]
  dsimp only
  rw [hc, rotateRight_eq_ofNat a hn]

/-! Rows of operations on registers. -/

/-- A command is the row of an operation on registers, whose result and flags it computes. -/
structure AluRow (c : Nat → Instr) (op : WOp) (out : Thread → Insn → Word × Flags) : Prop where
  issues : ∀ tid s, exec (c tid) s = issue (.op op) tid s
  computes : ∀ x i, i.op = op → aluOf i x = some (out x i)

@[simp] theorem Thread.flags_setReg (x : Thread) (n : Nat) (v : Word) : (x.setReg n v).flags = x.flags := by
  unfold Thread.setReg
  split <;> rfl

theorem aluDone_writes {i : Insn} (hw : aluWrites i.op = true) (r : Word × Flags) (y : Thread) :
    aluDone i r y = { y.setReg i.rd r.1 with flags := if i.setf then r.2 else y.flags } := by
  unfold aluDone
  rw [if_pos hw]
  split
  · rfl
  · rw [← Thread.flags_setReg y i.rd r.1]

theorem aluDone_plain {i : Insn} (hw : aluWrites i.op = true) (hs : i.setf = false) (r : Word × Flags) (y : Thread) :
    aluDone i r y = y.setReg i.rd r.1 := by
  simp [aluDone, hw, hs]

theorem aluDone_compares {i : Insn} (hw : aluWrites i.op = false) (hs : i.setf = true) (r : Word × Flags) (y : Thread) :
    aluDone i r y = { y with flags := r.2 } := by
  simp [aluDone, hw, hs]

section
variable {c : Nat → Instr} {op : WOp} {out : Thread → Insn → Word × Flags} (h : AluRow c op out) {s : State} {tid : Nat} {i : Insn}
  {code : List Byte} (hr : ready s tid i code = true) (hi : runs i (s.thread tid) = true) (ho : i.op = op) (hp : i.pkt = false)
include h hr hi ho hp

theorem AluRow.exec_writes (hw : aluWrites op = true) : exec (c tid) s = .next (s.setThread tid
    { (pastWord (s.thread tid) code).setReg i.rd (out (s.thread tid) i).1 with
      flags := if i.setf then (out (s.thread tid) i).2 else (s.thread tid).flags }) := by
  rw [h.issues, issue_alu hr hi ho hp (h.computes _ _ ho), aluDone_writes (ho ▸ hw)]
  rfl

theorem AluRow.exec_plain (hw : aluWrites op = true) (hs : i.setf = false) : exec (c tid) s =
    .next (s.setThread tid ((pastWord (s.thread tid) code).setReg i.rd (out (s.thread tid) i).1)) := by
  rw [h.issues, issue_alu hr hi ho hp (h.computes _ _ ho), aluDone_plain (ho ▸ hw) hs]

theorem AluRow.exec_compares (hw : aluWrites op = false) (hs : i.setf = true) : exec (c tid) s = .next (s.setThread tid
    { pastWord (s.thread tid) code with flags := (out (s.thread tid) i).2 }) := by
  rw [h.issues, issue_alu hr hi ho hp (h.computes _ _ ho), aluDone_compares (ho ▸ hw) hs]

end

theorem toNat_ofInt_eq_unsgn (v : Int) : (BitVec.ofInt 32 v).toNat = unsgn 32 v := BitVec.toNat_ofInt ..

/-- A bit field of a word, from its lowest bit and its width (R527). -/
theorem bitField_eq (a : Word) (imm : Nat) : (a >>> (bitField imm).1) &&& lowMask (bitField imm).2 =
    BitVec.ofNat 32 (a.toNat / 2 ^ (imm % 32) % 2 ^ (imm / 256 % 32 + 1)) := by
  have hw : imm / 256 % 32 + 1 ≤ 32 := by omega
  rw [bitField, and_lowMask _ hw, BitVec.toNat_ushiftRight, Nat.shiftRight_eq_div_pow]

/-- A row whose result sets N and Z alone. -/
def NzRow (e : (Nat → Instr) × WOp × (Thread → Insn → Word)) : Prop := AluRow e.1 e.2.1 fun x i => (e.2.2 x i, nz (e.2.2 x i) x.flags)

/-- A row whose operation is what the ALU's equation says, with its operand B as it stands. -/
theorem nzRow_of_aluOf {e : (Nat → Instr) × WOp × (Thread → Insn → Word)} (hexec : ∀ tid s, exec (e.1 tid) s = issue (.op e.2.1) tid s)
    (h : ∀ x i, i.op = e.2.1 → ∃ v, aluOf i x = some (v, nz v x.flags) ∧ v = e.2.2 x i) : NzRow e := by
  refine ⟨hexec, fun x i ho => ?_⟩
  obtain ⟨v, hv, rfl⟩ := h x i ho
  exact hv

/-- The immediate and the register forms of the operations whose equation is the row's own. -/
theorem logicRows_spec {l : List ((Nat → Instr) × WOp × (Thread → Insn → Word))} (hrow : ∀ e ∈ l, NzRow e)
    (hw : ∀ e ∈ l, aluWrites e.2.1 = true) : ∀ e ∈ l, ∀ (s : State) (tid : Nat) (i : Insn) (code : List Byte), let x := s.thread tid;
    ready s tid i code = true → runs i x = true → i.op = e.2.1 → i.pkt = false → ∃ t, exec (e.1 tid) s = .next t ∧
      t = s.setThread tid { (pastWord x code).setReg i.rd (e.2.2 x i) with flags := if i.setf then ⟨(e.2.2 x i).msb,
        decide (e.2.2 x i = 0), x.flags.c, x.flags.v⟩ else x.flags } :=
  fun e he _ _ _ _ hr hi ho hp => ⟨_, (hrow e he).exec_writes hr hi ho hp (hw e he), rfl⟩

/-- A word with a field of another in place of its own (R527): p and w name the field. -/
def insertField (x : Thread) (i : Insn) : Word :=
  let p := unsgn 32 i.imm % 32
  let m : Word := .ofNat 32 ((2 ^ (unsgn 32 i.imm / 256 % 32 + 1) - 1) * 2 ^ p)
  (x.reg i.rd &&& ~~~m) ||| ((x.reg i.ra <<< p) &&& m)

theorem aluOf_ins {x : Thread} {i : Insn} (ho : i.op = .ins) : aluOf i x = some (insertField x i, nz (insertField x i) x.flags) := by
  have hb : operandB i x = BitVec.ofInt 32 i.imm := by
    rw [operandB, ho]
    rfl
  simp only [aluOf, aluOut, ho, hb, bitField, toNat_ofInt_eq_unsgn, lowMask_shiftLeft]
  rfl

/-- Settles O16: each command is a row of an operation on registers (`AluRow`), whose result sets N and Z alone. -/
theorem whorlLogicCommandsComplete : Obligations.WhorlLogicCommandsComplete := by
  refine ⟨logicRows_spec ?results (by decide), ?tests, ?movhi, ?ins⟩
  case results =>
    simp only [List.forall_mem_cons, List.not_mem_nil, false_implies, implies_true, and_true]
    refine ⟨?mov, ?movi, ?and, ?or, ?xor, ?bic, ?not, ?andi, ?ori, ?xori, ?min, ?max, ?minu, ?maxu, ?clz, ?bswap, ?sextb, ?sexth,
      ?zextb, ?zexth, ?extu⟩
    all_goals
      refine nzRow_of_aluOf (fun _ _ => rfl) fun x i ho => ?_
      obtain ⟨op⟩ := i
      cases ho
      refine ⟨_, rfl, ?_⟩
    case sextb | sexth => exact signExtend_low _ (by decide)
    case zextb => exact and_lowMask (n := 8) _ (by decide)
    case zexth => exact and_lowMask (n := 16) _ (by decide)
    case extu => exact (bitField_eq _ _).trans (by rw [operandB]; rfl)
    all_goals rfl
  case tests =>
    intro e he s tid i code x hr hi ho hp hs
    have hrow : NzRow e ∧ aluWrites e.2.1 = false := by
      simp only [List.mem_cons, List.not_mem_nil, or_false] at he
      rcases he with rfl | rfl
      all_goals
        refine ⟨nzRow_of_aluOf (fun _ _ => rfl) fun x i ho => ?_, rfl⟩
        obtain ⟨op⟩ := i
        cases ho
        exact ⟨_, rfl, rfl⟩
    exact ⟨_, hrow.1.exec_compares hr hi ho hp hrow.2 hs, rfl⟩
  case movhi =>
    intro s tid i code x hr hi ho hp hs
    have hrow : AluRow .movhi .movhi fun x i => ((BitVec.ofInt 32 i.imm <<< 16) ||| (x.reg i.ra &&& 0xFFFF), x.flags) := by
      refine ⟨fun _ _ => rfl, fun x i ho => ?_⟩
      obtain ⟨op⟩ := i
      cases ho
      rfl
    exact ⟨_, hrow.exec_plain hr hi ho hp rfl hs, rfl⟩
  case ins =>
    intro s tid i code x p m v hr hi ho hp
    have hrow : AluRow .ins .ins fun x i => (insertField x i, nz (insertField x i) x.flags) :=
      ⟨fun _ _ => rfl, fun _ _ => aluOf_ins⟩
    exact ⟨_, hrow.exec_writes hr hi ho hp rfl, rfl⟩

/-- A row of a sum (R523): of two words and a carry. -/
def SumRow (e : (Nat → Instr) × WOp × (Thread → Insn → Word × Word × Bool)) : Prop :=
  AluRow e.1 e.2.1 fun x i => addWith (e.2.2 x i).1 (e.2.2 x i).2.1 (e.2.2 x i).2.2

/-- Settles O17: each command is a row of a sum, with its flags (`addWith_eq`). -/
theorem whorlSumCommandsComplete : Obligations.WhorlSumCommandsComplete := by
  refine ⟨?sums, ?comparisons⟩
  case sums =>
    intro e he s tid i code x hr hi ho hp
    have hrow : SumRow e ∧ aluWrites e.2.1 = true := by
      simp only [List.mem_cons, List.not_mem_nil, or_false] at he
      rcases he with rfl | rfl | rfl | rfl | rfl | rfl
      all_goals
        refine ⟨⟨fun _ _ => rfl, fun x i ho => ?_⟩, rfl⟩
        obtain ⟨op⟩ := i
        cases ho
        rfl
    exact ⟨_, hrow.1.exec_writes hr hi ho hp hrow.2, by rw [addWith_eq]⟩
  case comparisons =>
    intro e he s tid i code x hr hi ho hp hs
    have hrow : SumRow e ∧ aluWrites e.2.1 = false := by
      simp only [List.mem_cons, List.not_mem_nil, or_false] at he
      rcases he with rfl | rfl
      all_goals
        refine ⟨⟨fun _ _ => rfl, fun x i ho => ?_⟩, rfl⟩
        obtain ⟨op⟩ := i
        cases ho
        rfl
    exact ⟨_, hrow.1.exec_compares hr hi ho hp hrow.2 hs, by rw [addWith_eq]⟩

/-- A row of a shift or rotation (R526): its result and its carry; V stays. -/
def ShiftRow (e : (Nat → Instr) × WOp × (Thread → Insn → Word × Bool)) : Prop :=
  AluRow e.1 e.2.1 fun x i => ((e.2.2 x i).1, { nz (e.2.2 x i).1 x.flags with c := (e.2.2 x i).2 })

theorem wget_byte (v : Word) : wget v 0 8 = v.toNat % 256 := wget_low v 8

theorem wget_five (v : Word) : wget v 0 5 = v.toNat % 32 := wget_low v 5

theorem wget_five_ofInt (v : Int) : wget (BitVec.ofInt 32 v) 0 5 = unsgn 32 v % 32 := by
  rw [wget_five, toNat_ofInt_eq_unsgn]

theorem rorWith_count (a : Word) {b k : Nat} (hb : b = k % 32) (f : Flags) : rorWith a b f =
    (.ofNat 32 (a.toNat / 2 ^ (k % 32) + a.toNat * 2 ^ (32 - k % 32)),
      { nz (.ofNat 32 (a.toNat / 2 ^ (k % 32) + a.toNat * 2 ^ (32 - k % 32))) f with
        c := if k % 32 = 0 then f.c else decide (a.toNat / 2 ^ (k % 32 - 1) % 2 = 1) }) := by
  rw [hb, rorWith_eq a (Nat.mod_lt _ (by decide))]

/-- Settles O18: each command is a row of a shift or rotation, whose count is the low byte of a register, or five bits. -/
theorem whorlShiftCommandsComplete : Obligations.WhorlShiftCommandsComplete := by
  intro e he s tid i code x hr hi ho hp
  have hrow : ShiftRow e ∧ aluWrites e.2.1 = true := by
    simp only [List.mem_cons, List.not_mem_nil, or_false] at he
    rcases he with rfl | rfl | rfl | rfl | rfl | rfl | rfl | rfl
    all_goals
      refine ⟨⟨fun _ _ => rfl, fun x i ho => ?_⟩, rfl⟩
      obtain ⟨op⟩ := i
      cases ho
      refine congrArg some ?_
    · exact (congrArg (shlWith _ · _) (wget_byte _)).trans (shlWith_eq _ _ _)
    · exact (congrArg (shrWith _ · _) (wget_byte _)).trans (shrWith_eq _ _ _)
    · exact (congrArg (sarWith _ · _) (wget_byte _)).trans (sarWith_eq _ _ _)
    · exact rorWith_count _ (wget_five _) _
    · exact (congrArg (shlWith _ · _) (wget_five_ofInt _)).trans (shlWith_eq _ _ _)
    · exact (congrArg (shrWith _ · _) (wget_five_ofInt _)).trans (shrWith_eq _ _ _)
    · exact (congrArg (sarWith _ · _) (wget_five_ofInt _)).trans (sarWith_eq _ _ _)
    · exact rorWith_count _ (wget_five_ofInt _) _
  exact ⟨_, hrow.1.exec_writes hr hi ho hp hrow.2, rfl⟩

/-! The accumulator and saturation (R533 to R535). -/

/-- A row of a multiply-class operation: what it leaves in the accumulator. -/
def MulRow (e : (Nat → Instr) × WOp × (Thread → Insn → Int)) : Prop :=
  (∀ tid s, exec (e.1 tid) s = issue (.op e.2.1) tid s) ∧
    ∀ x i, i.op = e.2.1 → aluOf i x = none ∧ mulOf i x = some (unsgn 72 (e.2.2 x i))

/-- A row of a saturating operation: its exact result, from an accumulator. -/
def SatRow (c : Nat → Instr) (op : WOp) (val : Thread → Insn → Int) : Prop :=
  (∀ tid s, exec (c tid) s = issue (.op op) tid s) ∧ ∀ x i, i.op = op → aluOf i x = none ∧ mulOf i x = none ∧
    satOut i.op (x.reg i.ra) (operandB i x) x.acc = some (val x i)

@[simp] theorem Thread.q_setReg (x : Thread) (n : Nat) (v : Word) : (x.setReg n v).q = x.q := by
  unfold Thread.setReg
  split <;> rfl

/-- A saturating operation that the accumulator's age leaves exact: its result held to 32 signed bits, Q sticky. -/
theorem issue_sat {s : State} {tid : Nat} {i : Insn} {code : List Byte} {op : WOp} {n : Int} (hr : ready s tid i code = true)
    (hi : runs i (s.thread tid) = true) (ho : i.op = op) (hp : i.pkt = false) (ha : aluOf i (s.thread tid) = none)
    (hm : mulOf i (s.thread tid) = none)
    (hs : satOut i.op ((s.thread tid).reg i.ra) (operandB i (s.thread tid)) (s.thread tid).acc = some n)
    (hage : op = .rdacc → 3 ≤ (s.thread tid).accAge) :
    issue (.op op) tid s = .next (s.setThread tid
      { (pastWord (s.thread tid) code).setReg i.rd (.ofInt 32 (max (-2 ^ 31) (min (2 ^ 31 - 1) n))) with
        q := (s.thread tid).q || decide (max (-2 ^ 31) (min (2 ^ 31 - 1) n) ≠ n) }) := by
  have hexact : ¬ (i.op = .rdacc ∧ (s.thread tid).nextWord.accAge < 4) := by
    rintro ⟨hop, hlt⟩
    have h3 := hage (ho.symm.trans hop)
    simp only [Thread.nextWord] at hlt
    omega
  refine issue_run hr (rowIs_op ho hp) (opAct_sat (x := (s.thread tid).nextWord) hi _ _ _ _ _ ha hm hs) ?_
  change satOut i.op ((s.thread tid).nextWord.reg i.ra) (operandB i (s.thread tid).nextWord) (s.thread tid).nextWord.acc = _ at hs
  simp only [if_neg hexact, hs, Option.getD_some, sat32_eq, State.thread_setThread_self, State.setThread_setThread, Thread.q_setReg]
  rfl

/-- The accumulator rounded by an immediate (R534). -/
theorem accRound_eq (acc : Nat) (v : Int) : accRound acc (wget (BitVec.ofInt 32 v) 0 6) =
    (sgn 72 acc + (if unsgn 32 v % 64 = 0 then 0 else 2 ^ (unsgn 32 v % 64 - 1))) / 2 ^ (unsgn 32 v % 64) := by
  have hcount : wget (BitVec.ofInt 32 v) 0 6 = unsgn 32 v % 64 := (wget_low _ 6).trans (by rw [toNat_ofInt_eq_unsgn]; rfl)
  rw [accRound, hcount]
  split
  · rename_i h
    simp [h]
  · rw [Nat.cast_pow]
    rfl

/-- Settles O19: each command is a row of a multiply-class operation (`issue_mul`) or of a saturating one (`issue_sat`). -/
theorem whorlMultiplyCommandsComplete : Obligations.WhorlMultiplyCommandsComplete := by
  refine ⟨?products, ?saturating, ?rdacc⟩
  case products =>
    intro e he s tid i code x hr hi ho hp
    have hrow : MulRow e := by
      simp only [List.mem_cons, List.not_mem_nil, or_false] at he
      rcases he with rfl | rfl | rfl | rfl | rfl
      all_goals
        refine ⟨fun _ _ => rfl, fun x i ho => ?_⟩
        obtain ⟨op⟩ := i
        cases ho
        exact ⟨rfl, rfl⟩
    obtain ⟨halu, hmul⟩ := hrow.2 x i ho
    exact ⟨_, (hrow.1 tid s).trans (issue_mul hr hi ho hp halu hmul), rfl⟩
  case saturating =>
    intro e he s tid i code x hr hi ho hp
    have hrow : SatRow e.1 e.2.1 e.2.2 ∧ e.2.1 ≠ .rdacc := by
      simp only [List.mem_cons, List.not_mem_nil, or_false] at he
      rcases he with rfl | rfl | rfl | rfl | rfl
      all_goals
        refine ⟨⟨fun _ _ => rfl, fun x i ho => ?_⟩, nofun⟩
        obtain ⟨op⟩ := i
        cases ho
        refine ⟨rfl, rfl, congrArg some ?_⟩
      · rfl
      · rfl
      · exact (congrArg (fun n => _ * ((2 ^ n : Nat) : Int)) (wget_five_ofInt _)).trans (by push_cast; rfl)
      · dsimp only
        split <;> omega
      · rfl
    obtain ⟨halu, hmul, hsat⟩ := hrow.1.2 x i ho
    exact ⟨_, (hrow.1.1 tid s).trans (issue_sat hr hi ho hp halu hmul hsat fun h => absurd h hrow.2), rfl⟩
  case rdacc =>
    intro e he s tid i code x hr hi ho hp hage
    have hrow : SatRow e.1 e.2.1 e.2.2 := by
      simp only [List.mem_cons, List.not_mem_nil, or_false] at he
      subst he
      refine ⟨fun _ _ => rfl, fun x i ho => ?_⟩
      obtain ⟨op⟩ := i
      cases ho
      exact ⟨rfl, rfl, congrArg some (accRound_eq _ _)⟩
    obtain ⟨halu, hmul, hsat⟩ := hrow.2 x i ho
    exact ⟨_, (hrow.1 tid s).trans (issue_sat hr hi ho hp halu hmul hsat fun _ => hage), rfl⟩

/-! Control transfers (R528 to R530; 13_whorl_isa_model.md R504). -/

/-- A written register changes the general registers alone. -/
theorem Thread.setReg_eq (x : Thread) (n : Nat) (v : Word) :
    x.setReg n v = { x with g := if n = 0 then x.g else mput (fun _ => 0) x.g n v } := by
  unfold Thread.setReg
  split <;> rfl

theorem onThread_ite (tid : Nat) (c : Prop) [Decidable c] (f g : Thread → Thread) :
    (if c then onThread tid f else onThread tid g) = onThread tid fun y => if c then f y else g y := by
  split <;> rfl

/-- A transfer within the form, or none, changes the address alone. -/
theorem goTo_or_stay (c : Prop) [Decidable c] (a : Nat) (y : Thread) :
    (if c then goTo a y.form none y.lform y else y) = { y with pc := if c then a else y.pc } := by
  split <;> rfl

theorem formFault_aligned {form : Bool} {a : Nat} (h : form = true → a % 4 = 0) (act : Act) : formFault form a act = act := by
  refine if_neg ?_
  simpa using h

/-- Settles O20: each transfer is one change of its thread (`issue_ctl`), whose condition and alignment the clause decides. -/
theorem whorlControlCommandsComplete : Obligations.WhorlControlCommandsComplete := by
  refine ⟨?br, ?call, ?bc, ?bf, ?bnz, ?dbnz, ?j, ?jl, ?jx, ?jxl, ?rtx⟩
  case br | call | j | jl =>
    intro s tid i code x hr hi ho hp
    exact ⟨_, issue_ctl hr hi ho hp (by rw [ctlAct, ho]), rfl⟩
  case bc | bf | bnz =>
    intro s tid i code x hr hi ho hp
    refine ⟨_, issue_ctl hr hi ho hp (by simp only [ctlAct, ho, onThread_ite]; rfl), ?_⟩
    exact congrArg (s.setThread tid) (goTo_or_stay _ _ (pastWord x code))
  case dbnz =>
    intro s tid i code x hr hi ho hp
    have hzero : (x.reg i.rd - 1 ≠ 0) = (x.reg i.rd ≠ 1) := by rw [ne_eq, sub_eq_zero]
    refine ⟨_, issue_ctl hr hi ho hp (by rw [ctlAct, ho]), congrArg (s.setThread tid) ?_⟩
    change (if x.reg i.rd - 1 ≠ 0 then _ else _) = _
    simp only [hzero, Thread.setReg_eq]
    exact goTo_or_stay _ _ { pastWord x code with g := _ }
  case jx | jxl =>
    intro s tid i code x hr hi ho hp ha
    exact ⟨_, issue_ctl hr hi ho hp (by rw [ctlAct, ho]; exact congrArg some (formFault_aligned (fun h => ha (of_decide_eq_true h)) _)), rfl⟩
  case rtx =>
    intro s tid i code x hr hi ho hp hl ha
    have hlost : ¬ rtxLost x.nextWord = true := by
      change ¬ rtxLost x = true
      simp [hl]
    exact ⟨_, issue_ctl hr hi ho hp (by rw [ctlAct, ho]; exact congrArg some ((if_neg hlost).trans (formFault_aligned ha _))), rfl⟩

end Sys2Proof.Machine
end

section
/-!
SUPPORT. Words that wait for the LEADER's answer (22_ply_pair.md R796; 12_whorl_cores_threads.md R462): the thread's watchdog counts on from
the answer; and from this the refutation of the statement on two-slot words and responses (O23).
-/
namespace Sys2Proof.Machine

/-- FADD g3, g5, g6 of the stream form. -/
def faddInsn : Insn :=
  { op := .fadd, rd := 3, ra := 5, rb := 6, imm := 0, fn := 0, setf := false, pkt := false, upd := 0, cond := none, late := false }

/-- The request of a word that is `faddInsn`, issued by a FOLLOWER, whose answer its LEADER logs. -/
def faddRequest : WeftRead := { code := [134, 53, 96], got := [], wait := .ready, logged := true }

/-- Out of reset with BPM running: thread 0 waits with `faddRequest` on a strand that has left its pair since, and its watchdog counts
from 1 ns, where device time is 0. -/
def faddOutlivesPair : State :=
  let s := { State.reset with sys := { Sys.reset with resetting := false } }.set (R.CLK_ISL_ON islBPM) 1
  s.setThread 0 { Thread.reset with st := 2, waitOn := 4, read := some faddRequest, wdogFrom := 1 }

/-- What the watchdog of a thread counts from in an answer. -/
def watchdogFrom (tid : Nat) : Out → Option Nat
  | .next t => some (t.thread tid).wdogFrom
  | _ => none

/-- Refutes O23: its clause on FADD's response does not ask that the request was not logged. In `faddOutlivesPair` it was: the watchdog
counts on from the response, at 0, where the clause has the thread keep the 1 ns that it counted from. -/
theorem not_whorlWordCommandsComplete : ¬ Obligations.WhorlWordCommandsComplete := by
  intro h
  obtain ⟨-, response, -, -, -⟩ := h
  obtain ⟨t, answers, ht⟩ := response faddOutlivesPair 0 0 faddRequest faddInsn (by decide +kernel) (by decide +kernel)
    (by decide +kernel) rfl rfl (by decide +kernel) (by decide +kernel) rfl (by decide +kernel) (by decide +kernel) (by decide +kernel)
    (by decide +kernel)
  have kept : (t.thread 0).wdogFrom = 1 := by
    rw [ht]
    decide +kernel
  have counts : watchdogFrom 0 (exec (.weftReadResponse 0 false) faddOutlivesPair) = some 0 := by decide +kernel
  rw [answers, watchdogFrom, kept] at counts
  exact absurd counts (by decide)

end Sys2Proof.Machine
end

section
/-!
SUPPORT. Writes of the table blocks while a table command is in progress (15_forwarding_learning.md R567; 09_parser_classifier.md R355),
and from these the statement on them (O49).
-/
namespace Sys2Proof.Machine

/-- A whole-word register write that reaches its register has its effect. -/
theorem registerWrite_reaches {a : Agent} {o : Nat} {v : Word} {s : State} (h4 : o % 4 = 0) (ho : o < 0x1000000)
    (h : reaches a o v s = true) : exec (.registerWrite a o 15 v none) s = blockWrite a o v s := by
  rw [exec_registerWrite, wordWrite_whole h4, busWrite_reaches h4 ho h]

theorem regWrite_prs {o : Nat} (h : 0x200000 ≤ o) (h' : o < 0x300000) (a : Agent) (v : Word) (s : State) :
    regWrite a o v s = prsWrite o v s := by
  unfold regWrite
  iterate 16 rw [if_neg (by omega)]
  exact if_pos h'

theorem regWrite_fwd {o : Nat} (h : 0x300000 ≤ o) (h' : o < 0x400000) (a : Agent) (v : Word) (s : State) :
    regWrite a o v s = fwdRegWrite o v s := by
  unfold regWrite
  iterate 17 rw [if_neg (by omega)]
  exact if_pos h'

theorem pairOf_fwdStage : ∀ k : Fin 16, pairOf (R.FWD_STAGE k.val) = none := by decide

theorem pairOf_prsStage : ∀ k : Fin 36, pairOf (R.PRS_STAGE k.val) = none := by decide

/-- A write of a word of the forwarding tables' staging while their command is in progress is lost (R567). -/
theorem fwdStage_lost {s : State} {a : Agent} {v : Word} (k : Fin 16) (h : reaches a (R.FWD_STAGE k.val) v s = true)
    (hb : s.flag R.FWD_CSTAT_BUSY = true) :
    exec (.registerWrite a (R.FWD_STAGE k.val) 15 v none) s = .next (s.set R.FWD_CSTAT_LOST 1) := by
  have hpair := pairOf_fwdStage k
  obtain ⟨o, ho⟩ : ∃ o, R.FWD_STAGE k.val = o := ⟨_, rfl⟩
  obtain ⟨hlt, hge, h4⟩ : o < 0x304040 ∧ 0x304000 ≤ o ∧ o % 4 = 0 := by
    have hk := k.isLt
    unfold R.FWD_STAGE at ho
    omega
  rw [ho] at h hpair ⊢
  rw [registerWrite_reaches h4 (by omega) h, blockWrite, hpair]
  dsimp only
  rw [regWrite_fwd (by omega) (by omega), fwdRegWrite, if_neg (by unfold R.FWD_CMD; omega), if_neg (by unfold R.FWD_LRN_POP; omega),
    if_neg (by unfold R.FWD_LRN_RATE; omega), if_pos ⟨.inr ⟨hge, hlt⟩, hb⟩]

/-- A write of a word of the rules' staging while a rule command is in progress is lost (09_parser_classifier.md R355). -/
theorem prsStage_lost {s : State} {a : Agent} {v : Word} (k : Fin 36) (h : reaches a (R.PRS_STAGE k.val) v s = true)
    (hb : s.flag R.PRS_RSTAT_BUSY = true) :
    exec (.registerWrite a (R.PRS_STAGE k.val) 15 v none) s = .next (ruleLost s) := by
  have hpair := pairOf_prsStage k
  obtain ⟨o, ho⟩ : ∃ o, R.PRS_STAGE k.val = o := ⟨_, rfl⟩
  obtain ⟨hlt, hge, h4⟩ : o < 0x201090 ∧ 0x201000 ≤ o ∧ o % 4 = 0 := by
    have hk := k.isLt
    unfold R.PRS_STAGE at ho
    omega
  rw [ho] at h hpair ⊢
  rw [registerWrite_reaches h4 (by omega) h, blockWrite, hpair]
  dsimp only
  rw [regWrite_prs (by omega) (by omega), prsWrite, if_neg (by unfold R.PRS_RCMD; omega), if_pos ⟨hge, hlt⟩, ruleBusy, hb]
  rfl

/-- A choice of a register of a family for an offset: the one that the offset is, where it is one. -/
theorem exists_index_imp {n : Nat} [NeZero n] (f : Fin n → Nat) (o : Nat) (p : Prop) (h : ∀ k, o = f k → p) : ∃ k, o = f k → p := by
  by_cases hk : ∃ k, o = f k
  · obtain ⟨k, hk⟩ := hk
    exact ⟨k, h k⟩
  · exact ⟨0, fun e => absurd ⟨0, e⟩ hk⟩

/-- Settles O49: a flush while a command is in progress is lost. In the clauses on register writes the quantifier over the staging
registers takes in the conclusion, so an index of the offset's own choice does: a staging write is lost (`fwdStage_lost`,
`prsStage_lost`), and of another offset they say nothing. -/
theorem busyTablesIgnoreWrites : Obligations.BusyTablesIgnoreWrites := by
  refine ⟨?fwd, ?flush, ?prs⟩
  case fwd =>
    intro s a off v
    refine .inr (.inr (.inr (.inr (exists_index_imp (fun k : Fin 16 => R.FWD_STAGE k.val) off _ ?_))))
    rintro k rfl h hb
    exact fwdStage_lost k h hb
  case flush =>
    intro s a h hb
    change access a R.FWD_CMD 5 (fun s => .next (fwdCmd fdbFlush s)) s = _
    rw [access_reaches h, fwdCmd, hb]
    rfl
  case prs =>
    intro s a off v
    refine .inr (exists_index_imp (fun k : Fin 36 => R.PRS_STAGE k.val) off _ ?_)
    rintro k rfl h hb
    exact prsStage_lost k h hb

end Sys2Proof.Machine
end

section
/-!
SUPPORT. The auditor's recheck of a line with an uncorrectable word (15_forwarding_learning.md R572, R574): it is an ECC event; and from
this the refutation of the statement on the forwarding tables (O24).
-/
namespace Sys2Proof.Machine

/-- Out of reset with the table block and its auditor running: line 0 waits for its recheck, its first byte differs from the shadow's, and
its first word is uncorrectable. -/
def recheckMeetsBad : State :=
  let s := { State.reset with sys := { Sys.reset with resetting := false } }
  { ((s.set (R.CLK_ISL_ON islTBL) 1).set R.FWD_AUD_CTL_EN 1) with
    fwd.mem := Mem.wrBytes [] 0 [1], fwd.bad := mput (fun _ => false) [] 0 true, fwd.audit.recheck := [0] }

/-- A field of a register in an answer. -/
def getIn (f : Fld) : Out → Option Nat
  | .next t => some (t.get f)
  | _ => none

/-- Refutes O24: its clause on rechecks does not ask that the line is free of uncorrectable words. In `recheckMeetsBad` it is not, and the
recheck raises the ECC cause alone, where the clause has it raise the auditor's. -/
theorem not_forwardingCommandsComplete : ¬ Obligations.ForwardingCommandsComplete := by
  intro h
  obtain ⟨-, -, -, -, -, -, -, -, -, -, -, -, recheck, -, -⟩ := h
  obtain ⟨t, answers, -, raised⟩ := recheck recheckMeetsBad 0 0 [] (by decide +kernel) (by decide +kernel) (by decide +kernel)
  have silent : getIn ⟨R.FWD_NSTAT, 1, 1⟩ (exec .auditRecheck recheckMeetsBad) = some 0 := by decide +kernel
  rw [answers, getIn, raised] at silent
  exact absurd silent (by decide)

end Sys2Proof.Machine
end

section
/-!
SUPPORT. Queue pairs (16_host_interface_rings.md R595 to R619): doorbells, ring reads, descriptors and the admin queue pair, each where its
conditions hold; and from these the statement on them (O25).
-/
namespace Sys2Proof.Machine

/-! Queue pairs after a change. -/

/-- The state of a queue pair stays over a change of what stands outside HIF. -/
theorem qp_of_hif {s t : State} (h : t.hif = s.hif) (q : Nat) : t.qp q = s.qp q := by
  unfold State.qp
  rw [h]

/-- A failed read leaves the queue pair in ERROR, without a read in flight. -/
theorem qp_fetchFailed (q : Nat) (s : State) : (fetchFailed q s).qp q = { s.qp q with fetch := none, st := 3 } := by
  rw [fetchFailed, qp_of_hif (hif_crossing _ _)]
  exact State.qp_setQp_self ..

/-- The device is not halted where a descriptor stands ready. -/
theorem halted_of_readyOp {s : State} {q op : Nat} {e : QEntry} (h : readyOp s q op = some e) : s.halted = false := by
  unfold readyOp at h
  split at h
  · split at h
    · rename_i hc
      simp only [Bool.and_eq_true, Bool.not_eq_true'] at hc
      obtain ⟨⟨⟨-, hh⟩, -⟩, -⟩ := hc
      exact hh
    · cases h
  · cases h

/-- One well-formed entry of a read becomes outstanding. -/
theorem fetchArrive_one {s : State} {q i : Nat} {bs : List Byte} (hf : (s.qp q).fetch = some (i, 1)) (hl : bs.length = 32)
    (hfmt : fmtOk q (s.qp q) (leNat (bs.take 4)) = true) : fetchArrive q bs s = .next (s.setQp q { s.qp q with
      fetch := none, out := (s.qp q).out ++ [{ idx := i, bytes := bs, posted := false, bufWait := false, pkt := none, result := none }] }) := by
  have hfmt' : fmtOk q { s.qp q with fetch := none } (leNat (bs.take 4)) = true := hfmt
  have hset (x y : Qp) : (s.setQp q x).setQp q y = s.setQp q y := by simp only [State.setQp, mput_mput]
  simp only [fetchArrive, hf, checkEntries, State.qp_setQp_self, hfmt', Bool.not_true, Bool.false_eq_true, if_false,
    List.take_of_length_le hl.le, hset]

/-- The admin queue pair that a write of HIF_AQ_CFG describes. -/
def adminQp (v : Word) (s : State) : Qp :=
  { Qp.reset with st := 1, ringsp := v.getLsbD 8, sqlog := wget v 0 4, cqlog := wget v 4 4, sqbase := s.rd64 R.HIF_AQ_SQBASE_LO,
                  cqbase := s.rd64 R.HIF_AQ_CQBASE_LO }

theorem adminQp_wr (v : Word) (s : State) : adminQp v (s.wr R.HIF_AQ_CFG v) = adminQp v s := by
  have hrd (o : Nat) (h : o ≠ R.HIF_AQ_CFG) : (s.wr R.HIF_AQ_CFG v).rd o = s.rd o := State.rd_wr_ne _ _ _ _ h
  simp only [adminQp, State.rd64, hrd _ (by decide : R.HIF_AQ_SQBASE_LO ≠ _), hrd _ (by decide : R.HIF_AQ_SQBASE_LO + 4 ≠ _),
    hrd _ (by decide : R.HIF_AQ_CQBASE_LO ≠ _), hrd _ (by decide : R.HIF_AQ_CQBASE_LO + 4 ≠ _)]

/-- A write of HIF_AQ_CFG that enables the admin queue pair, with a geometry that R624 allows. -/
theorem aqCfgWrite_enables {v : Word} {s : State} (hv : v.getLsbD 31 = true) (hen : s.flag R.HIF_AQ_CFG_EN = false)
    (hres : v &&& 0x7FFFFE00 = 0) (hg : geometryFault (s.wr R.HIF_AQ_CFG v) 0 (adminQp v s) = none) :
    aqCfgWrite v s = .next ((s.wr R.HIF_AQ_CFG v).setQp 0 (adminQp v s)) := by
  have hopen : openQp 0 (adminQp v s) (s.wr R.HIF_AQ_CFG v) = (s.wr R.HIF_AQ_CFG v).setQp 0 (adminQp v s) := by
    rw [openQp, hg]
  have hres' : ¬ (v &&& 0x7FFFFE00#32 ≠ 0) := not_not.mpr hres
  rw [← hopen, ← adminQp_wr, aqCfgWrite, if_neg hres', hen, if_neg Bool.false_ne_true, hv]
  rfl

/-- A one-bit field of a register reads the bit that is written to it. -/
theorem flag_wr_getLsbD {o lo : Nat} {v : Word} (hv : v.getLsbD lo = true) (s : State) : (s.wr o v).flag ⟨o, lo, 1⟩ = true := by
  have hbit := wget_bit v lo 1 0
  simp only [State.flag, State.get, State.rd_wr_self, ne_eq, decide_eq_true_eq]
  intro h0
  simp [h0, hv] at hbit

/-- Settles O25: each command where its conditions hold is its one change of the queue pair, or its entry's completion. -/
theorem queueCommandsComplete : Obligations.QueueCommandsComplete := by
  refine ⟨?sqDoorbell, ?cqDoorbell, ?fetch, ?fetchFails, ?fetchOne, ?nop, ?create, ?abort, ?drain, ?idle, ?query, ?send, ?recv,
    ?sendError, ?enable, ?disable⟩
  case sqDoorbell =>
    intro s a q v hq ha h hh hst ht hroom
    refine ⟨_, ?_, rfl⟩
    change execSqDoorbell a q v s = _
    rw [execSqDoorbell, if_neg (by omega), access_reaches h]
    simp only [sqDoorbell, ha, hh, hst, Bool.not_true, Bool.or_self, Bool.false_eq_true, if_false, ne_eq, not_true_eq_false, gt_iff_lt,
      ge_iff_le, decide_eq_false (Nat.not_lt.mpr hroom), decide_eq_false (Nat.not_le.mpr ht)]
  case cqDoorbell =>
    intro s a q v hq ha h hh hst ht hroom
    refine ⟨_, ?_, rfl⟩
    change execCqDoorbell a q v s = _
    rw [execCqDoorbell, if_neg (by omega), access_reaches h]
    simp only [cqDoorbell, ha, hh, hst, Bool.not_true, Bool.or_self, Bool.false_eq_true, if_false, decide_false, gt_iff_lt, ge_iff_le,
      decide_eq_false (Nat.not_lt.mpr hroom), decide_eq_false (Nat.not_le.mpr ht)]
  case fetch =>
    intro s q hu ho hn hf
    refine ⟨_, ?_, rfl⟩
    change execDescriptorFetch q s = _
    simp only [execDescriptorFetch, hu, ho, hn, hf, Bool.not_true, Bool.or_self, Bool.false_eq_true, if_false, decide_false]
    rfl
  case fetchFails =>
    intro s q x hf hh hr
    refine ⟨_, ?_, rfl, by rw [qp_fetchFailed], by rw [qp_fetchFailed]⟩
    change execFetchComplete q none s = _
    simp only [execFetchComplete, hf, hh, hr, Bool.false_eq_true, if_false]
  case fetchOne =>
    intro s q i bs hf hh hr hl hlen hfmt
    have hexec : exec (.fetchComplete q (some bs)) s = fetchArrive q bs s := by
      change execFetchComplete q (some bs) s = _
      simp only [execFetchComplete, hf, hh, hr, hl, hlen, mul_one, ne_eq, not_true_eq_false, Bool.false_eq_true, if_false]
    exact ⟨_, hexec.trans (fetchArrive_one hf hlen hfmt), by rw [State.qp_setQp_self], by rw [State.qp_setQp_self]⟩
  case nop =>
    intro s q e hr
    refine ⟨_, ?_, rfl⟩
    change execNopDescriptor q s = _
    simp only [execNopDescriptor, hr]
  case create =>
    intro s e q hr hs hid hst hb hg
    refine ⟨_, ?_, rfl⟩
    change execCreateQp s = _
    simp only [execCreateQp, hr, if_neg (Nat.not_lt.mpr hs), hid, hst, ne_eq, not_true_eq_false, if_neg (Nat.not_lt.mpr hb), gt_iff_lt,
      if_false, openQp, hg]
  case abort =>
    intro s e q hd hq hst hf ho
    refine ⟨_, ?_, rfl⟩
    change execDestroyQpAbort s = _
    simp [execDestroyQpAbort, hd, hq, hst, hf, ho, abortCount]
  case drain =>
    intro s e q hd hq hst
    refine ⟨_, ?_, rfl⟩
    change execDestroyQpDrain s = _
    simp only [execDestroyQpDrain, hd, hq, hst, decide_false, Bool.or_self, Bool.false_eq_true, if_false]
  case idle =>
    intro s q hst hi
    refine ⟨_, ?_, rfl, by rw [State.qp_setQp_self]; rfl⟩
    change execDrainIdle q s = _
    simp only [execDrainIdle, hst, hi, ne_eq, not_true_eq_false, decide_false, Bool.or_self, Bool.false_eq_true, if_false]
  case query =>
    intro s e q hr hq hst
    subst hq
    refine ⟨_, ?_, rfl⟩
    change execQueryQp s = _
    simp only [execQueryQp, hr, hst, decide_false, Bool.and_false, Bool.false_eq_true, if_false]
  case send =>
    intro s q data e a hh hb hp he ha hst
    have htake : takeBufAns (9 + (s.qp q).group) s = some (a, { s with bpm.answers := s.bpm.answers.erase a }) := by
      simp only [takeBufAns, ha]
    refine ⟨_, ?_, rfl⟩
    change execHostSend q data s = _
    simp only [execHostSend, hh, hb, hp, he, htake, sendGo, hst, Bool.not_true, Bool.or_self, Bool.false_eq_true, if_false,
      Option.isNone_some]
    rfl
  case recv =>
    intro s q e hr hp
    refine ⟨_, ?_, rfl⟩
    change execRecv q s = _
    have hpcie : (!e.pkm && !(setEntry q e.idx (fun e => { e with posted := true }) s).hostPcie) = false := by
      rw [← Bool.not_or]
      exact congrArg (! ·) hp
    simp only [execRecv, hr, hpcie, Bool.false_eq_true, if_false]
  case sendError =>
    intro s q e hr hb hp hw hk
    refine ⟨_, ?_, rfl⟩
    change execSendDataError q s = _
    have hdrop : dropSend (s.qp q) s e = s := by simp [dropSend, dropWait, hw, hk]
    simp [execSendDataError, hb, hr, hp, hw, halted_of_readyOp hr, hdrop]
  case enable =>
    intro s a v hv hen h hres hg
    have hexec : exec (.adminQueueEnable a v) s = aqCfgWrite v s := by
      change execAdminQueueEnable a v s = _
      rw [execAdminQueueEnable, if_neg (by rw [hv, hen]; decide), access_reaches h]
    exact ⟨_, hexec.trans (aqCfgWrite_enables hv hen hres hg), flag_wr_getLsbD hv s, by rw [State.qp_setQp_self]; rfl⟩
  case disable =>
    intro s a v hv hen h hres
    refine ⟨_, ?_, rfl⟩
    change execAdminQueueDisable a v s = _
    rw [execAdminQueueDisable, if_neg (by rw [hv, hen]; decide), access_reaches h]
    have hres' : ¬ (v &&& 0x7FFFFE00#32 ≠ 0) := not_not.mpr hres
    rw [aqCfgWrite, if_neg hres', hen, if_pos rfl, hv, if_neg Bool.false_ne_true]

end Sys2Proof.Machine
end


section
/-! SUPPORT. The frames of the MDIO master and their end (O12). -/
namespace Sys2Proof.Machine

/-- A write of PRT_MDIO_CMD that names the operation starts its frame while none is in progress. -/
theorem mdioOp_starts {op : Nat} {a : Agent} {v : Word} {s : State} (hop : wget v 0 3 = op)
    (h : reaches a R.PRT_MDIO_CMD v s = true) (hidle : s.flag R.PRT_MDIO_CMD_BUSY = false) :
    ∃ t, mdioOp op a v s = .next t ∧ t.rd R.PRT_MDIO_CMD = (v &&& 0x1FFF) ||| 0x80000000 := by
  rw [mdioOp, if_neg (by simp [hop]), access_reaches h, mdioCmd, mdioBusy, hidle, if_neg Bool.false_ne_true]
  exact ⟨_, rfl, by rw [State.rd_emit, State.rd_wr_self]⟩

/-- The state in which an MDIO frame's end raises its cause: BUSY is clear and the data of a read is held. -/
def mdioEnded (data : Word) (s : State) : State :=
  (if s.get R.PRT_MDIO_CMD_OP = 1 ∨ s.get R.PRT_MDIO_CMD_OP = 6 ∨ s.get R.PRT_MDIO_CMD_OP = 7 then
    s.wr R.PRT_MDIO_DATA (data &&& 0xFFFF) else s).set R.PRT_MDIO_CMD_BUSY 0

theorem execMdioFrameDone_busy {data : Word} {s : State} (hup : s.up islPRT = true) (hb : s.flag R.PRT_MDIO_CMD_BUSY = true) :
    execMdioFrameDone data s = .next (cause R.PRT_NSTAT_MDIO 55 (mdioEnded data s)) := by
  rw [execMdioFrameDone, if_neg (by rw [hup, hb]; decide)]
  rfl

/-- Settles O12: each write of an operation through `mdioOp_starts`; the frame's end changes no register but its own three. -/
theorem mdioCommandsComplete : Obligations.MdioCommandsComplete := by
  refine ⟨fun _ _ _ => mdioOp_starts, fun _ _ _ => mdioOp_starts, fun _ _ _ => mdioOp_starts, fun _ _ _ => mdioOp_starts,
    fun _ _ _ => mdioOp_starts, fun _ _ _ => mdioOp_starts, ?_⟩
  intro s data hup hb
  refine ⟨_, execMdioFrameDone_busy hup hb, ?_, cause_get_self _ _ _ (by decide) (by decide) (by decide) rfl, fun hop => ?_⟩
  · rw [State.flag, cause_get_off _ _ _ (by decide) _ (by decide) (by decide), mdioEnded, State.get_set _ _ _ (by decide)]
    rfl
  · rw [cause_rd _ _ _ (by decide) _ (by decide), State.rd_set_ne _ _ _ _ (by decide), mdioEnded,
      State.rd_set_ne _ _ _ _ (by decide), if_pos hop, State.rd_wr_self]

end Sys2Proof.Machine
end


section
/-! SUPPORT. The test access port over a device reset, and its instructions (O39). -/
namespace Sys2Proof.Machine

theorem tap_foldl {α : Type} {f : State → α → State} (h : ∀ s a, (f s a).tap = s.tap) (l : List α) (s : State) :
    (l.foldl f s).tap = s.tap :=
  List.foldlRecOn l f (motive := fun t => t.tap = s.tap) rfl fun t ht a _ => (h t a).trans ht

/-- The fuses are read into registers alone. -/
theorem loadFuses_tap (s : State) : (loadFuses s).tap = s.tap := by
  unfold loadFuses
  rw [tap_foldl, tap_foldl, State.tap_wr, tap_foldl, State.tap_wr, State.tap_set, State.tap_wr64, State.tap_set,
    State.tap_set, State.tap_set, tap_foldl]
  all_goals exact fun _ _ => rfl

/-- A collapse of a burn in progress changes fuses alone. -/
theorem burnCollapse_tap (s : State) : (burnCollapse s).tap = s.tap := by
  cases hb : s.burn <;> simp [burnCollapse, hb]

/-- A device reset leaves the test access port as it is. -/
theorem deviceReset_tap (bits : Word) (keep : Bool) (s : State) : (deviceReset bits keep s).tap = s.tap := by
  unfold deviceReset
  simp only [loadFuses_tap, apply_ite State.tap, State.tap_wr, ite_self]
  rw [tap_foldl]
  · exact burnCollapse_tap s
  · exact fun _ _ => rfl

theorem jrnPut_tap (s : State) (a : Nat × List Byte) : (jrnPut s a).tap = s.tap := rfl

/-- What a reset leaves of a journal write is memory of the journal alone. -/
theorem journalCut_tap (s : State) : (journalCut s).tap = s.tap := by
  have hcollapse (n : Nat) (s : State) : (jrnCollapse n s).tap = s.tap := by
    unfold jrnCollapse
    split
    · exact tap_foldl jrnPut_tap _ _
    · rfl
  unfold journalCut
  split
  · exact hcollapse _ _
  · exact hcollapse _ _

/-- Board-test reset leaves the test access port as it is. -/
theorem boardTest_tap (s : State) : (boardTest s).tap = s.tap := by
  simp only [boardTest, deviceReset_tap, journalCut_tap]

theorem boardTest_resetting (s : State) : (boardTest s).sys.resetting = true := by
  simp only [boardTest, deviceReset_sys]

/-- An instruction that drives the balls is current with its capture, in board-test reset. -/
theorem tapDrive_resets (ir pins : Nat) {s : State} (h : tapRuns s = true) :
    ∃ t, tapDrive ir pins s = .next t ∧ t.tap.ir = ir ∧ t.tap.cap = pins ∧ t.sys.boardTest = true ∧ t.sys.resetting = true := by
  refine ⟨boardTest (tapLoad ir pins s), ?_, congrArg Tap.ir (boardTest_tap _), congrArg Tap.cap (boardTest_tap _), rfl,
    boardTest_resetting _⟩
  rw [tapDrive, if_neg (by rw [h]; decide)]

/-- Settles O39: the driving instructions through `tapDrive_resets`, the others as their one case where the port runs. -/
theorem tapCommandsComplete : Obligations.TapCommandsComplete := by
  have hrun {s : State} (h : tapRuns s = true) : ¬ (!tapRuns s) = true := by rw [h]; decide
  refine ⟨fun s k => tapDrive_resets 0 k, fun s => tapDrive_resets 4 0, fun s => tapDrive_resets 5 0, fun s k => tapDrive_resets 6 k,
    fun s k => tapDrive_resets 7 k, fun s h => ⟨_, if_neg (hrun h), rfl⟩, fun s k c h => ⟨_, if_neg (hrun h), rfl⟩,
    fun s h => ⟨_, if_neg (hrun h), rfl⟩, fun s h => ⟨_, if_neg (hrun h), rfl⟩, ?_, fun s => ⟨_, rfl, rfl⟩⟩
  intro s h hir hreset hopen hst
  refine ⟨_, ?_, rfl, (deviceReset_sys rstDBG false _).1⟩
  change execDebugReset s = _
  rw [execDebugReset, if_neg (by simp [h, hir, hst]), if_neg (by rw [hreset, hopen]; decide)]

end Sys2Proof.Machine
end


section
/-! SUPPORT. The supply rails and the early warning (O40). -/
namespace Sys2Proof.Machine

/-! A rail's registers after its level is shown. -/

theorem railShow_mv {i : Nat} (mv : Nat) (ok : Bool) (s : State) :
    (railShow i mv ok s).get (R.SUP_RAILV_MV i) = mv % 2 ^ (R.SUP_RAILV_MV i).w := by
  have hoff : R.SUP_RAILV i ≠ R.SUP_RAIL := by
    change 0x10040 + 4 * i ≠ 0x10000
    omega
  rw [railShow, State.get_set_off _ _ _ _ hoff, State.get_set _ _ _ (by decide : 0 + 16 ≤ 32)]

theorem railShow_ok {i : Nat} (hi : i < 16) (mv : Nat) (ok : Bool) (s : State) :
    (railShow i mv ok s).flag ⟨R.SUP_RAIL, i, 1⟩ = ok := by
  rw [State.flag, railShow, State.get_set _ _ _ (by simp; omega)]
  cases ok <;> rfl

/-- A rail that falls changes of the supplies' registers what `railShow` does, and the cause. -/
theorem railLow_get {i : Nat} (mv : Nat) (s : State) {g : Fld} (hq : quietReg g.off = true) (hg : g.off ≠ R.SUP_NSTAT) :
    (railLow i mv s).get g = (railShow i mv false s).get g := by
  rw [railLow]
  split
  · exact cause_get_off _ _ _ (by decide) _ hq hg
  · rfl

theorem railLow_sys (i mv : Nat) (s : State) : (railLow i mv s).sys = s.sys := by
  rw [railLow]
  split
  · exact (cause_sys _ _ _ (by decide)).trans rfl
  · rfl

/-- Rails other than VDDA_PLL feed islands that no state selects. -/
theorem railIslands_congr {i : Nat} (h : i ≠ 5) (s t : State) : railIslands s i = railIslands t i := by
  simp only [railIslands, if_neg h]

/-! The early warning's bits. -/

theorem ewShow_ew (vio vbat : Bool) (s : State) : (ewShow vio vbat s).flag R.SUP_EWSTAT_EW = (vio || vbat) := by
  rw [State.flag, ewShow, State.get_set_off _ _ _ _ (by decide), State.get_set _ _ _ (by decide)]
  cases vio <;> cases vbat <;> rfl

theorem ewShow_early (vio vbat : Bool) (s : State) : (ewShow vio vbat s).flag R.JRN_STAT_EARLY = (vio || vbat) := by
  rw [State.flag, ewShow, State.get_set _ _ _ (by decide)]
  cases vio <;> cases vbat <;> rfl

theorem ewShow_vio (vio vbat : Bool) (s : State) : (ewShow vio vbat s).flag R.SUP_EWSTAT_VIO = vio := by
  rw [State.flag, ewShow, State.get_set_off _ _ _ _ (by decide), State.get_set_bits _ _ _ _ (by decide) (by decide),
    State.get_set_bits _ _ _ _ (by decide) (by decide), State.get_set _ _ _ (by decide)]
  cases vio <;> rfl

theorem jrnNextDevice_nil {s : State} (h : s.jrn.due = []) : jrnNextDevice s = s := by
  cases hcur : s.jrn.cur <;> simp [jrnNextDevice, hcur, h]

/-- Settles O40: each command where its conditions hold, by what shows of it in the registers of the supplies. -/
theorem supplyCommandsComplete : Obligations.SupplyCommandsComplete := by
  refine ⟨?low, ?collapse, ?inRange, ?warn, ?clear⟩
  case low =>
    intro s i mv hi hok hmv
    refine ⟨railLow i mv s, ?_, ?_, ?_, fun htold hreset => ?_⟩
    · change execRailLow i mv s = _
      rw [execRailLow, if_neg (by simp [hok]; omega)]
    · rw [State.flag, railLow_get mv s (by decide : quietReg R.SUP_RAIL = true) (by decide : R.SUP_RAIL ≠ R.SUP_NSTAT)]
      exact railShow_ok hi mv false s
    · have hoff : R.SUP_RAILV i < 0x30000 ∧ R.SUP_RAILV i ≠ R.SUP_NSTAT := by
        change 0x10040 + 4 * i < 0x30000 ∧ 0x10040 + 4 * i ≠ 0x10004
        omega
      rw [railLow_get mv s (by simp [quietReg, hoff.1]) hoff.2, railShow_mv]
    · rw [railLow, if_pos (by rw [hok, htold, hreset]; rfl)]
      exact cause_get_self _ _ _ (by decide) (by decide : quietReg R.SUP_NSTAT = true) (by simp; omega) rfl
  case collapse =>
    intro s i mv hi h2 h5 hreset hmv hseen
    refine ⟨_, ?_, rfl⟩
    change execRailCollapse i mv s = _
    rw [execRailCollapse, if_neg (by simp [hseen, h2]; omega)]
    simp only [railLow_sys, hreset, h5, decide_false, Bool.false_and, Bool.false_eq_true, if_false]
    rw [railIslands_congr h5 (railLow i mv s) s]
  case inRange =>
    intro s i mv hi hlow hhigh
    refine ⟨railShow i mv true { s with sys.railSeen := s.sys.railSeen ||| 2 ^ i }, ?_, railShow_ok hi mv true _, railShow_mv mv true _,
      rfl⟩
    change execRailInRange i mv s = _
    rw [execRailInRange]
    exact if_neg (by simp; omega)
  case warn =>
    intro s vio hreset hterm
    refine ⟨if earlyWarn s then ewShow vio (ewVbat s) s else cause R.SUP_NSTAT_EW 5 (ewShow vio (ewVbat s) s), ?_, ?_, ?_, fun h => ?_⟩
    · change execEarlyWarning vio s = _
      rw [execEarlyWarning, if_neg (by rw [hreset, hterm]; decide)]
    · split
      · exact (ewShow_ew _ _ s).trans hterm
      · rw [State.flag, cause_get_off _ _ _ (by decide) _ (by decide) (by decide)]
        exact (ewShow_ew _ _ s).trans hterm
    · split
      · exact (ewShow_early _ _ s).trans hterm
      · rw [State.flag, cause_get_off _ _ _ (by decide) _ (by decide) (by decide)]
        exact (ewShow_early _ _ s).trans hterm
    · rw [h, if_neg Bool.false_ne_true]
      exact cause_get_self _ _ _ (by decide) (by decide) (by decide) rfl
  case clear =>
    intro s hreset hwarn hvbat hdue
    refine ⟨ewShow false false s, ?_, ewShow_ew _ _ s, ewShow_vio _ _ s, ewShow_early _ _ s⟩
    change execEarlyWarningClear s = _
    rw [execEarlyWarningClear, if_neg (by rw [hreset, hwarn, hvbat]; decide), jrnNextDevice_nil (s := ewShow false false s) hdue]

end Sys2Proof.Machine
end


section
/-! SUPPORT. What a crossing leaves of the diagnostic block, and the service commands (O38). -/
namespace Sys2Proof.Machine

/-! The diagnostic block over a crossing: its registers but the two that a snapshot writes, its causes that are set, and its state
but the log (25_diagnostics_service.md R882, R883). -/

/-- Registers of the diagnostic block that no crossing writes. -/
def serviceReg (o : Nat) : Bool := decide (0xF0000 ≤ o) && decide (o ≠ R.DGN_NSTAT) && decide (o ≠ R.DGN_CNT_SNAPLOST)

/-- State t follows from state s, for the diagnostic block, by what crossings change. -/
structure Logs (s t : State) : Prop where
  rd : ∀ o, serviceReg o = true → t.rd o = s.rd o
  causes : ∀ i, i < 32 → s.get ⟨R.DGN_NSTAT, i, 1⟩ = 1 → t.get ⟨R.DGN_NSTAT, i, 1⟩ = 1
  dgn : { t.dgn with snaps := s.dgn.snaps, snapCount := s.dgn.snapCount } = s.dgn

theorem Logs.refl (s : State) : Logs s s := ⟨fun _ _ => rfl, fun _ _ h => h, rfl⟩

theorem Logs.trans {s t u : State} (h : Logs s t) (k : Logs t u) : Logs s u := by
  refine ⟨fun o q => (k.rd o q).trans (h.rd o q), fun i hi hs => k.causes i hi (h.causes i hi hs), ?_⟩
  have hdgn := h.dgn
  rw [← k.dgn] at hdgn
  exact hdgn

theorem Logs.ite {s a b : State} {c : Prop} [Decidable c] (ha : Logs s a) (hb : Logs s b) : Logs s (if c then a else b) := by
  split
  · exact ha
  · exact hb

/-- A change that leaves the registers and the diagnostic block alone. -/
theorem Logs.of_eq {s t : State} (hr : t.regs = s.regs) (hd : t.dgn = s.dgn) : Logs s t := by
  have hrd (o : Nat) : t.rd o = s.rd o := by rw [State.rd, State.rd, hr]
  refine ⟨fun o _ => hrd o, fun i _ h => ?_, by rw [hd]⟩
  rw [State.get, hrd]
  exact h

/-- A write of a register below the block. -/
theorem Logs.set_below (s : State) {f : Fld} (v : Nat) (h : f.off < 0xF0000) : Logs s (s.set f v) := by
  refine ⟨fun o q => State.rd_set_ne _ _ _ _ ?_, fun i _ hs => (State.get_set_off _ _ _ _ ?_).trans hs, rfl⟩
  · simp only [serviceReg, Bool.and_eq_true, decide_eq_true_eq] at q
    omega
  · change 0xF0004 ≠ f.off
    omega

/-- A cause of the block. -/
theorem Logs.set_cause (s : State) (i : Nat) : Logs s (s.set ⟨R.DGN_NSTAT, i, 1⟩ 1) := by
  refine ⟨fun o q => State.rd_set_ne _ _ _ _ ?_, fun j hj hs => ?_, rfl⟩
  · simp only [serviceReg, Bool.and_eq_true, decide_eq_true_eq] at q
    exact q.1.2
  · by_cases h : i = j
    · rw [h]
      exact State.get_set _ _ _ (by simp; omega)
    · rw [State.get_set_bits _ _ _ _ (by simp; omega) (by simp; omega)]
      exact hs

theorem logs_deliver (n : Nat) (s : State) : Logs s (deliver n s) := by
  have hintn (s : State) : Logs s (toIntn n s) := .of_eq rfl rfl
  have hstat (f : Fld) (hf : f.off = R.EVT_STAT) : Logs s (toIntn n (s.set f 1)) :=
    (Logs.set_below s 1 (by rw [hf]; decide)).trans (hintn _)
  unfold deliver
  split
  · exact Logs.ite (hstat _ rfl) (Logs.ite (.of_eq rfl rfl) (.of_eq rfl rfl))
  · exact Logs.ite (.of_eq rfl rfl) (hstat _ rfl)
  · exact hintn s

theorem logs_crossEvt {n : Nat} (hn : n < 96) (s : State) : Logs s (crossEvt n s) := by
  have hsticky : Logs s (s.set (stickyFld n) 1) := by
    refine Logs.set_below s 1 ?_
    have hoff : (stickyFld n).off = R.EVT_PEND (n / 32) := rfl
    rw [hoff]
    simp only [R.EVT_PEND]
    omega
  exact Logs.ite (.refl s) (Logs.ite (.refl s) (Logs.ite (hsticky.trans (logs_deliver n _)) hsticky))

theorem logs_snapCause (i : Nat) (s : State) : Logs s (snapCause ⟨R.DGN_NSTAT, i, 1⟩ s) :=
  Logs.ite ((Logs.set_cause s i).trans (logs_crossEvt (by decide) _)) (Logs.set_cause s i)

theorem logs_snapshot (n : Nat) (s : State) : Logs s (snapshot n s) := by
  have hlog (l : List (List Byte)) (k : Nat) : Logs s { s with dgn.snaps := l, dgn.snapCount := k } := ⟨fun _ _ => rfl, fun _ _ h => h, rfl⟩
  have hlost : Logs s (s.bump R.DGN_CNT_SNAPLOST) := by
    refine ⟨fun o q => State.rd_wr_ne _ _ _ _ ?_, fun i _ hs => ?_, rfl⟩
    · simp only [serviceReg, Bool.and_eq_true, decide_eq_true_eq] at q
      exact q.2
    · rw [State.get, State.bump, State.rd_wr_ne _ _ _ _ (by decide : R.DGN_NSTAT ≠ R.DGN_CNT_SNAPLOST)]
      exact hs
  unfold snapshot
  exact Logs.ite (.refl s) (Logs.ite ((hlog _ _).trans (logs_snapCause _ _)) (hlost.trans (logs_snapCause _ _)))

theorem logs_crossing {n : Nat} (hn : n < 96) (s : State) : Logs s (crossing n s) :=
  Logs.ite ((logs_crossEvt hn s).trans (logs_snapshot n _)) (logs_crossEvt hn s)

/-- All that a cause changes of the diagnostic block, beside its own bit. -/
theorem cause_logs (f : Fld) {n : Nat} (hn : n < 96) (s : State) : Logs (s.set f 1) (cause f n s) := by
  have hfault (s : State) : Logs s (if plyFaultSource n then plyFault s else s) :=
    Logs.ite (Logs.ite (.of_eq rfl rfl) (.refl s)) (.refl s)
  exact Logs.ite ((hfault _).trans (logs_crossing hn _)) (hfault _)

/-! A cause of the block itself. -/

section
variable {i n : Nat} (hn : n < 96) (s : State)
include hn

theorem dgnCause_set (hi : i < 32) : (cause ⟨R.DGN_NSTAT, i, 1⟩ n s).get ⟨R.DGN_NSTAT, i, 1⟩ = 1 :=
  (cause_logs _ hn s).causes i hi (State.get_set _ _ _ (by simp; omega))

theorem dgnCause_get {g : Fld} (hg : serviceReg g.off = true) : (cause ⟨R.DGN_NSTAT, i, 1⟩ n s).get g = s.get g := by
  rw [State.get, ((Logs.set_cause s i).trans (cause_logs _ hn s)).rd _ hg]
  rfl

theorem dgnCause_flag {g : Fld} (hg : serviceReg g.off = true) : (cause ⟨R.DGN_NSTAT, i, 1⟩ n s).flag g = s.flag g := by
  rw [State.flag, dgnCause_get hn s hg]
  rfl

theorem dgnCause_chal : (cause ⟨R.DGN_NSTAT, i, 1⟩ n s).dgn.chal = s.dgn.chal := by
  have hdgn := ((Logs.set_cause s i).trans (cause_logs ⟨R.DGN_NSTAT, i, 1⟩ hn s)).dgn
  exact (congrArg Dgn.chal hdgn :)

end

/-! Lifecycle and fuses. -/

theorem lcNext_code {lc k g : Nat} (h : lcNext lc = some (k, g)) : k = 1 ∨ k = 2 := by
  unfold lcNext at h
  split at h <;> simp at h <;> omega

/-- A lifecycle command that nothing refuses starts its burn. -/
theorem lcWrite_burns {a : Agent} {v : Word} {s : State} {k g : Nat} (hhost : isHost a = true) (hkey : wget v 24 8 = 0x5A)
    (hnext : lcNext s.held.lc = some (k, g)) (hcmd : wget v 0 2 = k) (hblank : k = 1 → svcKeyBlank s = false)
    (hunlk : k = 2 → s.flag R.DGN_STAT_UNLOCKED = true) (hburn : burning s = false) (hwarn : earlyWarn s = false) :
    lcWrite a v s = { ((s.set R.DGN_FSTAT_ERR 0).set R.DGN_FSTAT_BUSY 1) with burn := .lc g } := by
  rcases lcNext_code hnext with rfl | rfl
  · simp [lcWrite, hhost, hkey, hnext, hcmd, hblank rfl, hburn, hwarn]
  · simp [lcWrite, hhost, hkey, hnext, hcmd, hunlk rfl, hburn, hwarn]

/-- A fuse programming command that nothing refuses starts its burn. -/
theorem fprogWrite_burns {a : Agent} {v m : Word} {s : State} (hhost : isHost a = true) (hkey : wget v 24 8 = 0x5A)
    (hlc : s.held.lc = 0) (hburn : burning s = false) (hwarn : earlyWarn s = false)
    (hmask : fuseMask (s.get R.DGN_FPROG_SEL_SEL) = some m) :
    fprogWrite a v s = { ((s.set R.DGN_FSTAT_ERR 0).set R.DGN_FSTAT_BUSY 1) with
      burn := .prog (s.get R.DGN_FPROG_SEL_SEL) (s.rd R.DGN_FPROG_DATA &&& m) } := by
  simp [fprogWrite, hhost, hkey, hlc, hburn, hwarn, hmask]

/-- DGN_FSTAT once a burn has started. -/
theorem burnStarted (s : State) : ((s.set R.DGN_FSTAT_ERR 0).set R.DGN_FSTAT_BUSY 1).flag R.DGN_FSTAT_BUSY = true ∧
    ((s.set R.DGN_FSTAT_ERR 0).set R.DGN_FSTAT_BUSY 1).get R.DGN_FSTAT_ERR = 0 := by
  rw [State.flag, State.get_set _ _ _ (by decide), State.get_set_bits _ _ _ _ (by decide) (by decide), State.get_set _ _ _ (by decide)]
  decide

/-- The end of a burn: BUSY clears, with the cause (25_diagnostics_service.md R886). -/
def burnEnd (s : State) : State := cause R.DGN_NSTAT_FUSE 87 (s.set R.DGN_FSTAT_BUSY 0)

theorem burnEnd_idle (s : State) : (burnEnd s).flag R.DGN_FSTAT_BUSY = false := by
  rw [burnEnd, dgnCause_flag (by decide) _ (by decide), State.flag, State.get_set _ _ _ (by decide)]
  rfl

theorem burnEnd_cause (s : State) : (burnEnd s).get R.DGN_NSTAT_FUSE = 1 := dgnCause_set (by decide) _ (by decide)

theorem burnEnd_fuses (s : State) : (burnEnd s).fuses = s.fuses := cause_fuses _ _ _ (by decide)

theorem burnEnd_burn (s : State) : (burnEnd s).burn = s.burn := cause_burn _ _ _ (by decide)

theorem burnEnd_held (s : State) : (burnEnd s).held = s.held := cause_held _ _ _ (by decide)

theorem execFuseBurnDone_lc {s : State} {g : Nat} (h : s.burn = .lc g) :
    execFuseBurnDone s = .next (burnEnd { s with fuses.lc := g, burn := .none }) := by
  simp only [execFuseBurnDone, h, burnEnd]

theorem execFuseBurnDone_prog {s : State} {c : Nat} {w : Word} (h : s.burn = .prog c w) :
    execFuseBurnDone s = .next (burnEnd { s with
      fuses.prog := mput (fun _ => 0) s.fuses.prog c (fuseField s.fuses c ||| w), burn := .none }) := by
  simp only [execFuseBurnDone, h, burnEnd]

/-! The service unlock. -/

/-- No challenge stands. -/
def chalGone (s : State) : Prop := s.flag R.DGN_UNLK_STAT_CHALRDY = false ∧ s.dgn.chal = .none

/-- A write beside CHALRDY. -/
theorem chalGone.set {s : State} (h : chalGone s) (f : Fld) (v : Nat)
    (hf : R.DGN_UNLK_STAT ≠ f.off ∨ 2 + 1 ≤ f.lo ∨ f.lo + f.w ≤ 2) : chalGone (s.set f v) := by
  refine ⟨?_, h.2⟩
  rw [State.flag]
  rcases hf with hoff | hbits
  · rw [State.get_set_off _ _ _ _ hoff]
    exact h.1
  · rw [State.get_set_bits _ _ _ _ (by decide) hbits]
    exact h.1

theorem chalGone.cause {s : State} (h : chalGone s) (i : Nat) : chalGone (cause ⟨R.DGN_NSTAT, i, 1⟩ 87 s) :=
  ⟨(dgnCause_flag (by decide) s (by decide)).trans h.1, (dgnCause_chal (by decide) s).trans h.2⟩

theorem chalGone_unlockFail {s : State} (h : chalGone s) (err : Nat) : chalGone (unlockFail err s) := by
  have hset := (h.set R.DGN_UNLK_STAT_FAILS (min 3 (s.get R.DGN_UNLK_STAT_FAILS + 1)) (by decide)).set R.DGN_UNLK_STAT_ERR err (by decide)
  unfold unlockFail
  refine chalGone.cause ?_ 14
  exact ⟨hset.1, hset.2⟩

theorem chalGone_unlockBegin {s : State} (h : chalGone s) : chalGone (unlockBegin s) := by
  have hend (e : Nat) : chalGone { s with dgn.unlockEnd := e } := h
  have hset (e v : Nat) := ((((hend e).set R.DGN_UNLK_STAT_UNLOCKED 1 (by decide)).set R.DGN_STAT_UNLOCKED 1 (by decide)).set
    R.DGN_UNLK_STAT_FAILS 0 (by decide)).set R.DGN_STAT_DBGOPEN v (by decide)
  exact iteInduction (fun _ => hset _ _) fun _ => (hset _ _).cause 12

/-- A verification ends the challenge, whatever comes of it. -/
theorem chalGone_verify (s : State) : chalGone (verify s) := by
  have h0 : chalGone { s.set R.DGN_UNLK_STAT_CHALRDY 0 with dgn.chal := .none } :=
    ⟨State.flag_set s R.DGN_UNLK_STAT_CHALRDY 0 (by decide) rfl, rfl⟩
  have herr (v : Nat) := h0.set R.DGN_UNLK_STAT_ERR v (by decide)
  unfold verify
  dsimp only
  split
  · exact herr 1
  · exact chalGone_unlockFail h0 6
  · refine iteInduction (fun _ => herr 3) fun _ => iteInduction (fun _ => chalGone_unlockFail h0 4) fun _ =>
      iteInduction (fun _ => chalGone_unlockFail h0 5) fun _ => chalGone_unlockBegin (herr 0)

/-- The state in which the end of an unlock raises its cause. -/
def unlockClosed (s : State) : State :=
  (showOpen ((s.set R.DGN_UNLK_STAT_UNLOCKED 0).set R.DGN_STAT_UNLOCKED 0)).set R.JRN_STAT_SUNLK 0

theorem unlockOver_unlocked {s : State} (h : s.flag R.DGN_STAT_UNLOCKED = true) :
    unlockOver s = cause R.DGN_NSTAT_LOCK 87 (unlockClosed s) := by
  rw [unlockOver, if_neg (by rw [h]; decide)]
  rfl

theorem unlockClosed_unlocked (s : State) : (unlockClosed s).flag R.DGN_STAT_UNLOCKED = false := by
  rw [State.flag, unlockClosed, State.get_set_off _ _ _ _ (by decide), showOpen, State.get_set_bits _ _ _ _ (by decide) (by decide),
    State.get_set _ _ _ (by decide)]
  rfl

theorem unlockOver_locks (s : State) : (unlockOver s).flag R.DGN_STAT_UNLOCKED = false := by
  by_cases h : s.flag R.DGN_STAT_UNLOCKED = true
  · rw [unlockOver_unlocked h, dgnCause_flag (by decide) _ (by decide), unlockClosed_unlocked]
  · rw [unlockOver, if_pos (by simpa using h)]
    simpa using h

/-- A write of DGN_UNLK_CMD with its key, from an agent that may, is not ignored. -/
theorem unlk_acts {a : Agent} {v : Word} (ha : unlkActs a = true) (hkey : wget v 24 8 = 0x5A) :
    ¬ (!unlkActs a || decide (wget v 24 8 ≠ 0x5A)) = true := by
  rw [ha, hkey]
  decide

/-- A challenge that is not refused is live. -/
theorem challenge_live {s : State} (h : s.dgn.wait = false) : (challenge s).dgn.chal = .live ∧
    (challenge s).flag R.DGN_UNLK_STAT_CHALRDY = true ∧ (challenge s).get R.DGN_UNLK_STAT_ERR = 0 := by
  rw [challenge, if_neg (by rw [h]; decide)]
  refine ⟨rfl, ?_, ?_⟩
  · exact State.flag_set _ R.DGN_UNLK_STAT_CHALRDY 1 (by decide) rfl
  · exact (State.get_set_bits _ R.DGN_UNLK_STAT_CHALRDY R.DGN_UNLK_STAT_ERR 1 (by decide) (by decide)).trans
      (State.get_set _ R.DGN_UNLK_STAT_ERR 0 (by decide))

/-- Settles O38: each command through the law of its register's write, and the diagnostic block over the cause it raises. -/
theorem serviceAccessCommandsComplete : Obligations.ServiceAccessCommandsComplete := by
  refine ⟨?capture, fun s a v h => ⟨_, access_reaches h _, rfl⟩, ?lifecycle, ?fuse, ?lcDone, ?progDone, ?challenge, ?verify, ?lock,
    ?timeout, ?expiry, ?waitEnd⟩
  case capture =>
    intro s n hn hen
    exact ⟨_, if_neg (by simp [hen]; omega), rfl⟩
  case lifecycle =>
    intro s a v k g h hhost hkey hnext hcmd hblank hunlk hburn hwarn
    refine ⟨_, access_reaches h _, ?_⟩
    rw [lcWrite_burns hhost hkey hnext hcmd hblank hunlk hburn hwarn]
    exact ⟨rfl, (burnStarted s).1, (burnStarted s).2, rfl, rfl⟩
  case fuse =>
    intro s a v m h hhost hkey hlc hburn hwarn hmask
    refine ⟨_, access_reaches h _, ?_⟩
    rw [fprogWrite_burns hhost hkey hlc hburn hwarn hmask]
    exact ⟨rfl, (burnStarted s).1, (burnStarted s).2, rfl⟩
  case lcDone =>
    intro s g hburn
    exact ⟨_, execFuseBurnDone_lc hburn, by rw [burnEnd_fuses], burnEnd_burn _, burnEnd_idle _, burnEnd_cause _, burnEnd_held _⟩
  case progDone =>
    intro s c w hburn
    refine ⟨_, execFuseBurnDone_prog hburn, ?_, burnEnd_burn _, burnEnd_idle _, burnEnd_cause _, burnEnd_held _⟩
    rw [burnEnd_fuses]
    exact mget_mput_self _ _ _ _
  case challenge =>
    intro s a v h ha hkey hcmd hwait
    refine ⟨challenge s, ?_, challenge_live hwait⟩
    change execUnlockChallenge a v s = _
    rw [execUnlockChallenge, if_neg (not_not.mpr hcmd), access_reaches h, unlkWrite, if_neg (unlk_acts ha hkey), hcmd]
    rfl
  case verify =>
    intro s a v h ha hkey hcmd
    refine ⟨verify s, ?_, rfl, chalGone_verify s⟩
    change execUnlockVerify a v s = _
    rw [execUnlockVerify, if_neg (not_not.mpr hcmd), access_reaches h, unlkWrite, if_neg (unlk_acts ha hkey), hcmd]
    rfl
  case lock =>
    intro s a v h ha hkey hcmd
    refine ⟨unlockOver (s.set R.DGN_UNLK_STAT_ERR 0), ?_, rfl, unlockOver_locks _⟩
    change execServiceLock a v s = _
    rw [execServiceLock, if_neg (not_not.mpr hcmd), access_reaches h, unlkWrite, if_neg (unlk_acts ha hkey), hcmd]
    rfl
  case timeout =>
    intro s hopen
    refine ⟨unlockOver s, if_neg (by rw [hopen]; decide), unlockOver_locks s, ?_⟩
    rw [unlockOver_unlocked hopen]
    refine ⟨?_, ?_, dgnCause_set (by decide) _ (by decide)⟩
    · rw [dgnCause_flag (by decide) _ (by decide), State.flag, unlockClosed, State.get_set_off _ _ _ _ (by decide), showOpen,
        State.get_set_off _ _ _ _ (by decide), State.get_set_off _ _ _ _ (by decide), State.get_set _ _ _ (by decide)]
      rfl
    · rw [State.flag, cause_get_off _ _ _ (by decide) _ (by decide) (by decide), unlockClosed, State.get_set _ _ _ (by decide)]
      rfl
  case expiry =>
    intro s hlive
    exact ⟨_, if_neg (not_not.mpr hlive), rfl⟩
  case waitEnd =>
    intro s hwait
    exact ⟨_, if_neg (by rw [hwait]; decide), rfl⟩

end Sys2Proof.Machine
end


section
/-!
SUPPORT. The loop test of a SUSPECT link that a queued test request waits for too (23_in_service_test.md R836), on a halted device with its
image in force, where STAGE reads below 2 but Stage 2 has been entered (01_device_overview.md R40); and from this the refutation of the
statement on links (O2).
-/
namespace Sys2Proof.Machine

/-- A request for the loop test of link 0 whose direction 1 has been tested. -/
def halfTestedLink : IstReq := { kind := 3, target := 0, tag := 0, at_ := 0, due := 0, did := [3] }

/-- Out of reset, halted with an image in force, the island of the in-service test running: link 0 is SUSPECT with both loop tests due, and
`halfTestedLink` is queued. -/
def haltedLoopTest : State :=
  let s := { State.reset with sys := { Sys.reset with resetting := false } }
  let s := ((s.set R.SYS_HALT_HALTED 1).set (R.CLK_ISL_ON islIST) 1).set (R.CLK_LINK_STATE 0) 1
  { s with vnr.full := [0], ist.reqs := [halfTestedLink], clk.loopLeft := mput (fun _ => 0) [] 0 3 }

/-- REQDONE of IST_NSTAT in an answer. -/
def reqDoneIn : Out → Option Nat
  | .next t => some (t.get R.IST_NSTAT_REQDONE)
  | _ => none

/-- Refutes O2: its clause on the first of a SUSPECT link's two passing loop tests, stated for STAGE below 2, does not ask that no request
waits for the test. In `haltedLoopTest` one does: its result raises a cause, where the clause has every register stay as it was. -/
theorem not_linkAndOscillatorEventsComplete : ¬ Obligations.LinkAndOscillatorEventsComplete := by
  intro h
  obtain ⟨-, -, -, -, -, -, firstPass, -⟩ := h
  obtain ⟨t, answers, hregs, -⟩ := firstPass haltedLoopTest 0 false (by decide +kernel) (by decide) (by decide +kernel) (by decide +kernel)
    (by decide +kernel)
  have quiet : t.get R.IST_NSTAT_REQDONE = 0 := by
    rw [State.get, State.rd, hregs]
    decide +kernel
  have raised : reqDoneIn (exec (.linkLoopTestDone 0 false true) haltedLoopTest) = some 1 := by decide +kernel
  rw [answers, reqDoneIn, quiet] at raised
  exact absurd raised (by decide)

end Sys2Proof.Machine
end


section
/-! SUPPORT. Trims, windows and stuck streams of the calibration engine (O31). -/
namespace Sys2Proof.Machine

/-- Two fields share no bit. -/
def Fld.Apart (f g : Fld) : Prop := g.off ≠ f.off ∨ g.lo + g.w ≤ 32 ∧ (g.lo + g.w ≤ f.lo ∨ f.lo + f.w ≤ g.lo)

theorem get_set_apart {f g : Fld} (h : Fld.Apart f g) (s : State) (v : Nat) : (s.set f v).get g = s.get g := by
  rcases h with hoff | ⟨hg, hbits⟩
  · exact State.get_set_off _ _ _ _ hoff
  · exact State.get_set_bits _ _ _ _ hg hbits

theorem cause_get_apart {f g : Fld} {n : Nat} (hn : n < 96) (hq : quietReg g.off = true) (h : Fld.Apart f g) (s : State) :
    (cause f n s).get g = s.get g := by
  rw [cause_get f n s hn g hq, get_set_apart h]

/-! A published window: the evaluations that follow write STAT of the channel, CAL_SPK and the causes SPK and LIMIT. -/

/-- A field that no evaluation of channel c's window writes. -/
structure PastEval (c : Nat) (g : Fld) : Prop where
  quiet : quietReg g.off = true
  stat : g.off ≠ R.CAL_CH_STAT c
  spk : g.off ≠ R.CAL_SPK
  spkCause : Fld.Apart R.CAL_NSTAT_SPK g
  limitCause : Fld.Apart R.CAL_NSTAT_LIMIT g

section
variable {c : Nat} {g : Fld} (h : PastEval c g)
include h

theorem speakerEval_get (mag : Nat) (s : State) : (speakerEval c mag s).get g = s.get g := by
  have hset (f k : Fld) (v : Nat) (hf : f.off = R.CAL_CH_STAT c) (hk : k.off = R.CAL_SPK) (s : State) :
      ((s.set f v).set k v).get g = s.get g := by
    rw [State.get_set_off _ _ _ _ (hk ▸ h.spk), State.get_set_off _ _ _ _ (hf ▸ h.stat)]
  have hflag (n cl : Nat) (f k : Fld) (hf : f.off = R.CAL_CH_STAT c) (hk : k.off = R.CAL_SPK) (s : State) :
      (if n ≥ 2 ∧ !s.flag f then cause R.CAL_NSTAT_SPK 25 ((s.set f 1).set k 1)
        else if cl ≥ 2 then (s.set f 0).set k 0 else s).get g = s.get g := by
    split
    · rw [cause_get_apart (by decide) h.quiet h.spkCause, hset f k 1 hf hk]
    · split
      · exact hset f k 0 hf hk s
      · rfl
  exact (hflag _ _ (R.CAL_CH_STAT_SHORT c) ⟨R.CAL_SPK, 16 + c, 1⟩ rfl rfl _).trans
    (hflag _ _ (R.CAL_CH_STAT_OPEN c) ⟨R.CAL_SPK, c, 1⟩ rfl rfl _)

theorem limitEval_get (gain di dv : Nat) (s : State) : (limitEval c gain di dv s).get g = s.get g := by
  have hset (v w : Nat) : ((s.set (R.CAL_CH_STAT_GAINLIM c) v).set (R.CAL_CH_STAT_DRIFTLIM c) w).get g = s.get g := by
    rw [State.get_set_off _ _ _ _ h.stat, State.get_set_off _ _ _ _ h.stat]
  unfold limitEval
  dsimp only
  split
  · rw [cause_get_apart (by decide) h.quiet h.limitCause, hset]
  · exact hset _ _

end

/-- The state in which a window's end raises RESULT: the results are written and SEQ is new. -/
def windowResults (c gain qual di dv zlo zhi : Nat) (s : State) : State :=
  let s := (s.set (R.CAL_CH_GAIN_GAIN c) gain).set (R.CAL_CH_GAIN_QUAL c) qual
  let s := (s.set (R.CAL_CH_DRIFT_I c) di).set (R.CAL_CH_DRIFT_V c) dv
  let s := (s.wr (R.CAL_CH_ZLO c) (BitVec.ofNat 32 zlo)).wr (R.CAL_CH_ZHI c) (BitVec.ofNat 32 zhi)
  let low := decide (qual < s.get R.CAL_LIM_QMIN)
  let s := (s.set (R.CAL_CH_SEQ_SEQ c) (s.get (R.CAL_CH_SEQ_SEQ c) + 1)).set (R.CAL_CH_SEQ_VALID c) 1
  s.set (R.CAL_CH_SEQ_LOWQ c) (b2n low)

theorem calPublish_get {c : Nat} {g : Fld} (h : PastEval c g) (gain qual di dv zlo zhi : Nat) (s : State) :
    (calPublish c gain qual di dv zlo zhi s).get g = (cause R.CAL_NSTAT_RESULT 24 (windowResults c gain qual di dv zlo zhi s)).get g := by
  unfold calPublish
  dsimp only
  rw [limitEval_get h]
  split
  · rfl
  · rw [speakerEval_get h]
    rfl

theorem windowResults_gain (c gain qual di dv zlo zhi : Nat) (s : State) :
    (windowResults c gain qual di dv zlo zhi s).get (R.CAL_CH_GAIN_GAIN c) = gain % 2 ^ 16 := by
  have hwr (o : Nat) (v : Word) (h : R.CAL_CH_GAIN c ≠ o) (s : State) :
      (s.wr o v).get (R.CAL_CH_GAIN_GAIN c) = s.get (R.CAL_CH_GAIN_GAIN c) := State.get_wr_ne _ _ _ _ h
  have hset (f : Fld) (v : Nat) (h : R.CAL_CH_GAIN c ≠ f.off) (s : State) :
      (s.set f v).get (R.CAL_CH_GAIN_GAIN c) = s.get (R.CAL_CH_GAIN_GAIN c) := State.get_set_off _ _ _ _ h
  unfold windowResults
  rw [hset _ _ (by simp), hset _ _ (by simp), hset _ _ (by simp), hwr _ _ (by simp), hwr _ _ (by simp), hset _ _ (by simp),
    hset _ _ (by simp), State.get_set_bits _ _ _ _ (by simp) (by simp), State.get_set _ _ _ (by simp)]

theorem windowResults_seq (c gain qual di dv zlo zhi : Nat) (s : State) :
    (windowResults c gain qual di dv zlo zhi s).get (R.CAL_CH_SEQ_SEQ c) = (s.get (R.CAL_CH_SEQ_SEQ c) + 1) % 2 ^ 16 := by
  have hwr (o : Nat) (v : Word) (h : R.CAL_CH_SEQ c ≠ o) (s : State) :
      (s.wr o v).get (R.CAL_CH_SEQ_SEQ c) = s.get (R.CAL_CH_SEQ_SEQ c) := State.get_wr_ne _ _ _ _ h
  have hset (f : Fld) (v : Nat) (h : R.CAL_CH_SEQ c ≠ f.off) (s : State) :
      (s.set f v).get (R.CAL_CH_SEQ_SEQ c) = s.get (R.CAL_CH_SEQ_SEQ c) := State.get_set_off _ _ _ _ h
  unfold windowResults
  rw [State.get_set_bits _ _ _ _ (by simp) (by simp), State.get_set_bits _ _ _ _ (by simp) (by simp),
    State.get_set _ _ _ (by simp), hwr _ _ (by simp), hwr _ _ (by simp), hset _ _ (by simp), hset _ _ (by simp), hset _ _ (by simp),
    hset _ _ (by simp)]

theorem windowResults_valid (c gain qual di dv zlo zhi : Nat) (s : State) :
    (windowResults c gain qual di dv zlo zhi s).get (R.CAL_CH_SEQ_VALID c) = 1 := by
  unfold windowResults
  rw [State.get_set_bits _ _ _ _ (by simp) (by simp), State.get_set _ _ _ (by simp)]
  rfl

/-! Fields of a channel that a published window's results stand in. -/

/-- The registers of a channel lie above the engine's common ones. -/
theorem calReg_bounds {c k : Nat} (hc : c < 16) (hk : 0x90100 ≤ k ∧ k < 0x90140) : 0x90100 ≤ k + 0x40 * c ∧ k + 0x40 * c < 0x91000 := by
  omega

theorem pastEval_channel {c o lo w : Nat} (ho : 0x90100 ≤ o ∧ o < 0x91000) (hne : o ≠ R.CAL_CH_STAT c) : PastEval c ⟨o, lo, w⟩ where
  quiet := by simp [quietReg]; omega
  stat := hne
  spk := by
    change o ≠ 0x9000c
    omega
  spkCause := Or.inl (by change o ≠ 0x90004; omega)
  limitCause := Or.inl (by change o ≠ 0x90004; omega)

theorem pastEval_result (c : Nat) : PastEval c R.CAL_NSTAT_RESULT where
  quiet := by decide
  stat := by
    change 0x90004 ≠ 0x90114 + 0x40 * c
    omega
  spk := by decide
  spkCause := Or.inr (by decide)
  limitCause := Or.inr (by decide)

/-- A held 16-bit code fits its field. -/
theorem sat16_lt (v : Int) : sat16 v < 2 ^ 16 := by
  unfold sat16 unsgn
  have := Int.emod_lt_of_pos (if v > 32767 then 32767 else if v < -32768 then -32768 else v) (by decide : (0 : Int) < ((2 ^ 16 : Nat) : Int))
  omega

/-! Channels' state and the causes of trims. -/

theorem cch_setCch_self (s : State) (c : Nat) (x : CalCh) : (s.setCch c x).cch c = x := mget_mput_self _ _ _ _

theorem trimWrite_host {a : Agent} (v : Word) (s : State) (h : isHost a = true) :
    trimWrite a v s = ((List.range 16).filter fun c => v.getLsbD c).foldl (trimOne v) s := by
  rw [trimWrite, if_neg (by rw [h]; decide)]

/-- A trim's state reads what is set into it, under the cause too. -/
theorem trim_set (c v : Nat) (s : State) (h : v < 8) : (s.set (R.CAL_CH_STAT_TRIM c) v).get (R.CAL_CH_STAT_TRIM c) = v := by
  rw [State.get_set _ _ _ (by simp)]
  exact Nat.mod_eq_of_lt h

theorem trimCause_get {o lo w : Nat} (s : State) (ho : 0x90100 ≤ o ∧ o < 0x91000) :
    (cause R.CAL_NSTAT_TRIM 27 s).get ⟨o, lo, w⟩ = s.get ⟨o, lo, w⟩ :=
  cause_get_off _ _ _ (by decide) _ (by simp [quietReg]; omega) (by change o ≠ 0x90004; omega)

theorem trimCause_set (s : State) : (cause R.CAL_NSTAT_TRIM 27 s).get R.CAL_NSTAT_TRIM = 1 :=
  cause_get_self _ _ _ (by decide) (by decide) (by decide) rfl

/-- The offsets that a finished trim leaves. -/
def trimOffsets (c : Nat) (s : State) : State :=
  (s.set (R.CAL_CH_OFS_I c) (sat16 ((s.cch c).sumI / 983040))).set (R.CAL_CH_OFS_V c) (sat16 ((s.cch c).sumV / 983040))

/-- The state in which a finished trim raises its cause. -/
def trimEnded (c : Nat) (s : State) : State :=
  ((trimOffsets c s).setCch c { s.cch c with
    bad := (s.cch c).bad || decide ((trimOffsets c s).rd (R.CAL_CH_OFS c) ≠ s.rd (R.CAL_CH_OFS c)), deadline := false }).set
      (R.CAL_CH_STAT_TRIM c) 3

theorem execTrimDone_full {c : Nat} {s : State} (hrun : audRuns s = true) (hc : c < 16) (htrim : s.get (R.CAL_CH_STAT_TRIM c) = 2)
    (hn : 3840 ≤ (s.cch c).n) : execTrimDone c s = .next (cause R.CAL_NSTAT_TRIM 27 (trimEnded c s)) := by
  have hcond : ¬ (!audRuns s || decide (c ≥ 16) || decide (s.get (R.CAL_CH_STAT_TRIM c) ≠ 2) || decide ((s.cch c).n < 3840)) = true := by
    simp [hrun, htrim]
    omega
  rw [trimEnded, trimOffsets, execTrimDone, if_neg hcond]

theorem trimEnded_get {c lo w : Nat} (hc : c < 16) (s : State) :
    (cause R.CAL_NSTAT_TRIM 27 (trimEnded c s)).get ⟨R.CAL_CH_OFS c, lo, w⟩ = (trimOffsets c s).get ⟨R.CAL_CH_OFS c, lo, w⟩ := by
  rw [trimCause_get _ (calReg_bounds (k := 0x90118) hc (by decide)), trimEnded, State.get_set_off _ _ _ _ (by simp),
    State.get_setCch]

theorem trimEnded_trim {c : Nat} (hc : c < 16) (s : State) :
    (cause R.CAL_NSTAT_TRIM 27 (trimEnded c s)).get (R.CAL_CH_STAT_TRIM c) = 3 := by
  rw [trimCause_get _ (calReg_bounds (k := 0x90114) hc (by decide)), trimEnded, trim_set _ _ _ (by decide)]

theorem trimEnded_ofsI {c : Nat} (hc : c < 16) (s : State) :
    (cause R.CAL_NSTAT_TRIM 27 (trimEnded c s)).get (R.CAL_CH_OFS_I c) = sat16 ((s.cch c).sumI / 983040) := by
  rw [trimEnded_get hc, trimOffsets, State.get_set_bits _ _ _ _ (by simp) (by simp), State.get_set _ _ _ (by simp),
    Nat.mod_eq_of_lt (sat16_lt _)]

theorem trimEnded_ofsV {c : Nat} (hc : c < 16) (s : State) :
    (cause R.CAL_NSTAT_TRIM 27 (trimEnded c s)).get (R.CAL_CH_OFS_V c) = sat16 ((s.cch c).sumV / 983040) := by
  rw [trimEnded_get hc, trimOffsets, State.get_set _ _ _ (by simp), Nat.mod_eq_of_lt (sat16_lt _)]

/-- Settles O31: each command where its conditions hold; a window's results through the evaluations that follow its publication. -/
theorem calibrationCommandsComplete : Obligations.CalibrationCommandsComplete := by
  refine ⟨?request, ?cancel, ?start, ?done, ?deadline, ?window, ?stuck, ?read⟩
  case request =>
    intro s a v hhost hkey h
    refine ⟨_, ?_, rfl⟩
    change execTrimRequest a v s = _
    rw [execTrimRequest, if_neg (by rw [hkey]; decide), access_reaches h, trimWrite_host v s hhost]
  case cancel =>
    intro s a v hhost hkey h
    refine ⟨_, ?_, rfl⟩
    change execTrimCancel a v s = _
    rw [execTrimCancel, if_neg (by rw [hkey]; decide), access_reaches h, trimWrite_host v s hhost]
  case start =>
    intro s c hrun hc htrim hsilent
    refine ⟨(s.setCch c { s.cch c with n := 0, sumI := 0, sumV := 0 }).set (R.CAL_CH_STAT_TRIM c) 2, ?_, trim_set _ _ _ (by decide), ?_⟩
    · change execTrimStart c s = _
      rw [execTrimStart, if_neg (by simp [hrun, htrim]; omega)]
    · rw [show (State.set _ _ _).cch c = (State.setCch s c _).cch c from rfl, cch_setCch_self]
      exact ⟨rfl, rfl, rfl⟩
  case done =>
    intro s c hrun hc htrim hn
    exact ⟨_, execTrimDone_full hrun hc htrim hn, trimEnded_trim hc s, trimEnded_ofsI hc s, trimEnded_ofsV hc s, trimCause_set _⟩
  case deadline =>
    intro s c hup hc hdl htrim
    refine ⟨cause R.CAL_NSTAT_TRIM 27 ((s.setCch c { s.cch c with deadline := false }).set (R.CAL_CH_STAT_TRIM c) 4), ?_, ?_, trimCause_set _⟩
    · change execTrimDeadline c s = _
      rw [execTrimDeadline, if_neg (by rcases htrim with h | h <;> simp [hup, hdl, h] <;> omega)]
    · rw [trimCause_get _ (calReg_bounds (k := 0x90114) hc (by decide)), trim_set _ _ _ (by decide)]
  case window =>
    intro s c gain qual di dv zlo zhi hrun hc hended hen
    have hcause (g : Fld) (h : PastEval c g) (hg : Fld.Apart R.CAL_NSTAT_RESULT g) (u : State) :
        (calPublish c gain qual di dv zlo zhi u).get g = (windowResults c gain qual di dv zlo zhi u).get g := by
      rw [calPublish_get h, cause_get_apart (by decide) h.quiet hg]
    have hres {o : Nat} (lo w : Nat) (ho : 0x90100 ≤ o ∧ o < 0x91000) (hne : o ≠ R.CAL_CH_STAT c) (u : State) :
        (calPublish c gain qual di dv zlo zhi u).get ⟨o, lo, w⟩ = (windowResults c gain qual di dv zlo zhi u).get ⟨o, lo, w⟩ :=
      hcause _ (pastEval_channel ho hne) (Or.inl (by change o ≠ 0x90004; omega)) u
    refine ⟨calPublish c gain qual di dv zlo zhi (s.setCch c { s.cch c with ended := false }), ?_, ?_, ?_, ?_, ?_⟩
    · change execCalWindowEnd c gain qual di dv zlo zhi s = _
      rw [execCalWindowEnd, if_neg (by simp [hrun, hended, hen]; omega)]
    · rw [hres _ _ (calReg_bounds (k := 0x90104) hc (by decide)) (by simp), windowResults_gain]
    · rw [State.flag, hres _ _ (calReg_bounds (k := 0x90100) hc (by decide)) (by simp), windowResults_valid]
      rfl
    · rw [hres _ _ (calReg_bounds (k := 0x90100) hc (by decide)) (by simp), windowResults_seq]
      rfl
    · rw [calPublish_get (pastEval_result c)]
      exact cause_get_self _ _ _ (by decide) (by decide) (by decide) rfl
  case stuck =>
    intro s c v hrun hc
    let x := if v then { s.cch c with stuckV := true } else { s.cch c with stuckI := true }
    refine ⟨(s.setCch c x).set (R.CAL_CH_STAT_SENSEFAIL c) 1, ?_, ?_, ?_⟩
    · change execSenseStuck c v s = _
      rw [execSenseStuck, if_neg (by simp [hrun]; omega)]
    · rw [State.flag, State.get_set _ _ _ (by simp)]
      rfl
    · rw [show (State.set _ _ _).cch c = (State.setCch s c x).cch c from rfl, cch_setCch_self]
      cases v <;> simp [x]
  case read =>
    intro s a c hc h
    refine ⟨_, ?_, rfl⟩
    change execCalSeqRead a c s = _
    rw [execCalSeqRead, if_neg (by simp; omega), readRow_readable h]
    rfl

end Sys2Proof.Machine
end


section
/-! SUPPORT. What the commands of the calibration engine leave as it was (O58). -/
namespace Sys2Proof.Machine

/-- State t follows from state s by what the calibration engine changes. -/
structure CalKeeps (s t : State) : Prop where
  rest : { t with regs := s.regs, free := s.free, clk.wait := s.clk.wait, cal := s.cal, resp := s.resp, out := s.out, evt := s.evt,
                  dgn := s.dgn, whl := s.whl, ply := s.ply } = s
  regs : regsKept (fun k => [3, 7, 9, 15].contains k) s t

theorem CalKeeps.refl (s : State) : CalKeeps s s := ⟨rfl, fun _ _ => rfl⟩

theorem CalKeeps.trans {s t u : State} (h : CalKeeps s t) (k : CalKeeps t u) : CalKeeps s u := by
  refine ⟨?_, fun o ho => (k.regs o ho).trans (h.regs o ho)⟩
  have a := h.rest
  have b := k.rest
  rw [← b] at a
  exact a

theorem CalKeeps.ite {s a b : State} {c : Prop} [Decidable c] (ha : CalKeeps s a) (hb : CalKeeps s b) : CalKeeps s (if c then a else b) := by
  split
  · exact ha
  · exact hb

theorem CalKeeps.foldl {α : Type} {f : State → α → State} {s : State} (l : List α) (h : ∀ t, ∀ a ∈ l, CalKeeps t (f t a)) :
    CalKeeps s (l.foldl f s) :=
  List.foldlRecOn l f (motive := CalKeeps s) (.refl s) fun t ht a ha => ht.trans (h t a ha)

/-- A write of a register of the engine, or of the pair's block. -/
theorem CalKeeps.wr (s : State) {o : Nat} (v : Word) (h : o / 0x10000 = 9 ∨ o / 0x10000 = 7) : CalKeeps s (s.wr o v) := by
  refine ⟨rfl, fun p hp => State.rd_wr_ne _ _ _ _ ?_⟩
  rintro rfl
  rcases h with h | h <;> simp [h] at hp

theorem CalKeeps.set (s : State) {f : Fld} (v : Nat) (h : f.off / 0x10000 = 9) : CalKeeps s (s.set f v) := .wr s _ (.inl h)

theorem calKeeps_setCch (c : Nat) (x : CalCh) (s : State) : CalKeeps s (s.setCch c x) := ⟨rfl, fun _ _ => rfl⟩

/-- What a crossing changes. -/
theorem Crosses.calKeeps {s t : State} (h : Crosses s t) : CalKeeps s t := by
  refine ⟨congrArg (fun u : State => { u with free := s.free, clk.wait := s.clk.wait, cal := s.cal, resp := s.resp, out := s.out }) h.rest,
    fun o ho => h.rd o ?_⟩
  simp only [List.contains_eq_mem, List.mem_cons, List.not_mem_nil, or_false, decide_eq_false_iff_not, not_or] at ho
  simp only [quietReg, Bool.or_eq_true, Bool.and_eq_true, decide_eq_true_eq]
  omega

theorem calKeeps_cause {f : Fld} (h : f.off / 0x10000 = 9) {n : Nat} (hn : n < 96) (s : State) : CalKeeps s (cause f n s) :=
  (CalKeeps.set s 1 h).trans (cause_crosses f s hn).calKeeps

/-! Accesses. -/

theorem calKeeps_plySend (r : LogRec) (s : State) : CalKeeps s (plySend r s) := by
  refine ⟨?_, fun o _ => congrArg (mget resetWord · o) (regs_plySend r s)⟩
  unfold plySend
  split
  · rfl
  · dsimp only
    split <;> rfl

theorem calKeeps_mirrorAcc (acc : HostAcc) (s : State) : CalKeeps s (mirrorAcc acc s) := by
  have hlog : CalKeeps s { s with ply.hostq := s.ply.hostq ++ [acc] } := ⟨rfl, fun _ _ => rfl⟩
  exact .ite (.wr s _ (.inr (by decide))) (hlog.trans (calKeeps_plySend _ _))

/-- A write of CAL_TRIM, whose table lists every bit. -/
theorem calKeeps_access {a : Agent} {v : Word} {k : State → State} {s : State} (hk : CalKeeps s (k s)) :
    ∃ t, access a R.CAL_TRIM v (fun s => .next (k s)) s = .next t ∧ CalKeeps s t := by
  have hlist : listedBits R.CAL_TRIM = 0xFFFFFFFF := by decide +kernel
  have hres : reservedBits R.CAL_TRIM v = false := by simp [reservedBits, hlist]
  have hact : ∃ t, blockAct a R.CAL_TRIM v (fun s => .next (k s)) s = .next t ∧ CalKeeps s t := by
    unfold blockAct
    split
    · exact ⟨s, rfl, .refl s⟩
    · rw [if_neg (by rw [hres]; decide)]
      exact ⟨_, rfl, hk⟩
  unfold access
  split
  · exact ⟨s, rfl, .refl s⟩
  split
  · exact ⟨_, rfl, rfl, fun _ _ => rfl⟩
  split
  · exact ⟨s, rfl, .refl s⟩
  split
  · exact ⟨_, rfl, calKeeps_mirrorAcc _ s⟩
  · exact hact

/-! The engine's commands. -/

/-- The registers of a channel lie in the engine's block. -/
theorem calBlock {c k : Nat} (hc : c < 16) (hk : 0x90100 ≤ k ∧ k < 0x90140) : (k + 0x40 * c) / 0x10000 = 9 := by omega

section
variable {c : Nat} (hc : c < 16)
include hc

theorem calKeeps_stat (lo w v : Nat) (s : State) : CalKeeps s (s.set ⟨R.CAL_CH_STAT c, lo, w⟩ v) :=
  .set s v (calBlock (k := 0x90114) hc (by decide))

theorem calKeeps_trimOne (v : Word) (s : State) : CalKeeps s (trimOne v s c) := by
  have hset (x : CalCh) (n : Nat) : CalKeeps s ((s.setCch c x).set (R.CAL_CH_STAT_TRIM c) n) :=
    (calKeeps_setCch c x s).trans (calKeeps_stat hc 8 3 n _)
  exact .ite (.ite (calKeeps_setCch _ _ s) (hset _ _)) (.ite (.ite (hset _ _) (.refl s)) (.refl s))

theorem calKeeps_speakerEval (mag : Nat) (s : State) : CalKeeps s (speakerEval c mag s) := by
  have hset (lo v i : Nat) (s : State) : CalKeeps s ((s.set ⟨R.CAL_CH_STAT c, lo, 1⟩ v).set ⟨R.CAL_SPK, i, 1⟩ v) :=
    (calKeeps_stat hc lo 1 v s).trans (.set _ v (by decide : R.CAL_SPK / 0x10000 = 9))
  have hflag (n cl lo i : Nat) (s : State) : CalKeeps s
      (if n ≥ 2 ∧ !s.flag ⟨R.CAL_CH_STAT c, lo, 1⟩ then
        cause R.CAL_NSTAT_SPK 25 ((s.set ⟨R.CAL_CH_STAT c, lo, 1⟩ 1).set ⟨R.CAL_SPK, i, 1⟩ 1)
      else if cl ≥ 2 then (s.set ⟨R.CAL_CH_STAT c, lo, 1⟩ 0).set ⟨R.CAL_SPK, i, 1⟩ 0 else s) :=
    .ite ((hset lo 1 i s).trans (calKeeps_cause rfl (by decide) _)) (.ite (hset lo 0 i s) (.refl s))
  exact ((calKeeps_setCch c _ s).trans (hflag _ _ 0 c _)).trans (hflag _ _ 1 (16 + c) _)

theorem calKeeps_limitEval (gain di dv : Nat) (s : State) : CalKeeps s (limitEval c gain di dv s) := by
  have hset (v w : Nat) : CalKeeps s ((s.set (R.CAL_CH_STAT_GAINLIM c) v).set (R.CAL_CH_STAT_DRIFTLIM c) w) :=
    (calKeeps_stat hc 2 1 v s).trans (calKeeps_stat hc 3 1 w _)
  exact .ite ((hset _ _).trans (calKeeps_cause rfl (by decide) _)) (hset _ _)

theorem calKeeps_calPublish (gain qual di dv zlo zhi : Nat) (s : State) : CalKeeps s (calPublish c gain qual di dv zlo zhi s) := by
  have hgain (lo w v : Nat) (s : State) : CalKeeps s (s.set ⟨R.CAL_CH_GAIN c, lo, w⟩ v) := .set s v (calBlock (k := 0x90104) hc (by decide))
  have hdrift (lo w v : Nat) (s : State) : CalKeeps s (s.set ⟨R.CAL_CH_DRIFT c, lo, w⟩ v) := .set s v (calBlock (k := 0x90108) hc (by decide))
  have hzlo (v : Word) (s : State) : CalKeeps s (s.wr (R.CAL_CH_ZLO c) v) := .wr s v (.inl (calBlock (k := 0x9010c) hc (by decide)))
  have hzhi (v : Word) (s : State) : CalKeeps s (s.wr (R.CAL_CH_ZHI c) v) := .wr s v (.inl (calBlock (k := 0x90110) hc (by decide)))
  have hseq (lo w v : Nat) (s : State) : CalKeeps s (s.set ⟨R.CAL_CH_SEQ c, lo, w⟩ v) := .set s v (calBlock (k := 0x90100) hc (by decide))
  have hresults : CalKeeps s (cause R.CAL_NSTAT_RESULT 24 (windowResults c gain qual di dv zlo zhi s)) :=
    (((((((((hgain _ _ _ s).trans (hgain _ _ _ _)).trans (hdrift _ _ _ _)).trans (hdrift _ _ _ _)).trans (hzlo _ _)).trans
      (hzhi _ _)).trans (hseq _ _ _ _)).trans (hseq _ _ _ _)).trans (hseq _ _ _ _)).trans (calKeeps_cause rfl (by decide) _)
  exact (hresults.trans (.ite (.refl _) (calKeeps_speakerEval hc _ _))).trans (calKeeps_limitEval hc _ _ _ _)

end

theorem calKeeps_trimWrite (a : Agent) (v : Word) (s : State) : CalKeeps s (trimWrite a v s) :=
  .ite (.refl s) (.foldl _ fun t _ hc => calKeeps_trimOne (List.mem_range.mp (List.mem_of_mem_filter hc)) v t)

/-- What a row leaves, where its guard lets it act or not. -/
theorem calKeeps_guard {g : Prop} [Decidable g] {s t u : State} (h : (if g then stay s else .next u) = (.next t : Out))
    (hu : ¬ g → CalKeeps s u) : CalKeeps s t := by
  split at h
  · cases h
    exact .refl s
  next hg =>
    cases h
    exact hu hg

theorem calKeeps_trimStart {c : Nat} {s t : State} (h : execTrimStart c s = .next t) : CalKeeps s t :=
  calKeeps_guard h fun hg => (calKeeps_setCch c _ s).trans (calKeeps_stat (by simp at hg; omega) _ _ _ _)

theorem calKeeps_trimDone {c : Nat} {s t : State} (h : execTrimDone c s = .next t) : CalKeeps s t := by
  refine calKeeps_guard h fun hg => ?_
  have hc : c < 16 := by
    simp at hg
    omega
  have hofs (lo w v : Nat) (s : State) : CalKeeps s (s.set ⟨R.CAL_CH_OFS c, lo, w⟩ v) := .set s v (calBlock (k := 0x90118) hc (by decide))
  exact ((((hofs _ _ _ s).trans (hofs _ _ _ _)).trans (calKeeps_setCch c _ _)).trans (calKeeps_stat hc _ _ _ _)).trans
    (calKeeps_cause (by decide) (by decide) _)

theorem calKeeps_trimDeadline {c : Nat} {s t : State} (h : execTrimDeadline c s = .next t) : CalKeeps s t :=
  calKeeps_guard h fun hg => ((calKeeps_setCch c _ s).trans (calKeeps_stat (by simp at hg; omega) _ _ _ _)).trans
    (calKeeps_cause (by decide) (by decide) _)

theorem calKeeps_windowEnd {c gain qual di dv zlo zhi : Nat} {s t : State} (h : execCalWindowEnd c gain qual di dv zlo zhi s = .next t) :
    CalKeeps s t :=
  calKeeps_guard h fun hg => (calKeeps_setCch c _ s).trans (calKeeps_calPublish (by simp at hg; omega) _ _ _ _ _ _ _)

theorem calKeeps_senseStuck {c : Nat} {volt : Bool} {s t : State} (h : execSenseStuck c volt s = .next t) : CalKeeps s t :=
  calKeeps_guard h fun hg => (calKeeps_setCch c _ s).trans (calKeeps_stat (by simp at hg; omega) _ _ _ _)

/-- A read of SEQ has no effect that the pair mirrors. -/
theorem sideRead_seq {c : Nat} (hc : c < 16) : sideRead (R.CAL_CH_SEQ c) = false := by
  have hblock : 0x90000 ≤ R.CAL_CH_SEQ c ∧ R.CAL_CH_SEQ c < 0xB0000 := by
    change 0x90000 ≤ 0x90100 + 0x40 * c ∧ 0x90100 + 0x40 * c < 0xB0000
    omega
  simp only [sideRead, hblock.1, hblock.2, decide_true, Bool.and_self, Bool.not_true, Bool.and_false, Bool.false_and]

theorem calKeeps_seqRead {a : Agent} {c : Nat} {s t : State} (h : execCalSeqRead a c s = .next t) : CalKeeps s t := by
  unfold execCalSeqRead at h
  split at h
  · cases h
    exact .refl s
  next hc =>
    have hside := sideRead_seq (by simpa using hc : c < 16)
    have hread : CalKeeps s (accessRead a (R.CAL_CH_SEQ c) (calSeqRead a c) s).2 := by
      simp only [accessRead, hside, Bool.and_false, Bool.false_and, Bool.false_eq_true, if_false]
      split
      · exact .refl s
      · exact ⟨rfl, fun _ _ => rfl⟩
    unfold readRow at h
    split at h
    · cases h
      exact .refl s
    · split at h
      · cases h
        exact ⟨rfl, fun _ _ => rfl⟩
      · cases h
        exact hread.trans ⟨rfl, fun _ _ => rfl⟩

theorem calKeeps_trim {a : Agent} {v : Word} {g : Prop} [Decidable g] {s t : State}
    (h : (if g then stay s else access a R.CAL_TRIM v (fun s => .next (trimWrite a v s)) s) = .next t) : CalKeeps s t := by
  split at h
  · cases h
    exact .refl s
  · obtain ⟨u, hu, hk⟩ := calKeeps_access (a := a) (v := v) (calKeeps_trimWrite a v s)
    rw [hu] at h
    cases h
    exact hk

/-- Settles O58: each command of the engine changes no more than `CalKeeps` admits. -/
theorem calibrationChangesNothingElse : Obligations.CalibrationChangesNothingElse := by
  intro s i t _ hi h
  have hk : CalKeeps s t := by
    unfold calCommand at hi
    split at hi
    · exact calKeeps_windowEnd h
    · exact calKeeps_senseStuck h
    · exact calKeeps_seqRead h
    · exact calKeeps_trim h
    · exact calKeeps_trim h
    · exact calKeeps_trimStart h
    · exact calKeeps_trimDone h
    · exact calKeeps_trimDeadline h
    · cases hi
  exact ⟨hk.rest, hk.regs⟩

end Sys2Proof.Machine
end


section
/-! SUPPORT. Faults, readings and ownership of the power stage (O30). -/
namespace Sys2Proof.Machine

/-! A latch leaves the channels' drivers and the rest of its status as they were. -/

theorem pws_plySend (r : LogRec) (s : State) : (plySend r s).pws = s.pws := by
  unfold plySend
  split
  · rfl
  · dsimp only
    rw [apply_ite State.pws, ite_self]
    rfl

theorem latch_pch {c : Nat} (hc : c < 16) (causes : Nat) (s : State) (j : Nat) : (latch c causes s).pch j = s.pch j := by
  have hpws : (latch c causes s).pws = s.pws := by
    rw [latch, cause_pws _ _ _ (by omega), pws_plySend, State.pws_set, State.pws_set, State.pws_wr64, State.pws_wr]
  simp only [State.pch, hpws]

theorem latch_stat {c : Nat} (hc : c < 16) {lo w : Nat} (hb : 3 + 1 ≤ lo) (hw : lo + w ≤ 32) (causes : Nat) (s : State) :
    (latch c causes s).get ⟨R.PWS_CH_STAT c, lo, w⟩ = s.get ⟨R.PWS_CH_STAT c, lo, w⟩ := by
  have hq : quietReg (R.PWS_CH_STAT c) = true := by
    simp only [quietReg, R.PWS_CH_STAT, Bool.or_eq_true, Bool.and_eq_true, decide_eq_true_eq]
    omega
  rw [latch, cause_get_off _ _ _ (by omega) _ hq (by simp only [R.PWS_CH_STAT, R.PWS_CH_NSTAT]; omega), State.get_congr (regs_plySend _ _),
    State.get_set_off _ _ _ _ (by simp only [R.PWS_CH_STAT, R.PWS_LATCH]; omega), State.get_set_bits _ _ _ _ hw (.inr hb), State.wr64,
    State.get_wr_ne _ _ _ _ (by simp only [R.PWS_CH_STAT, R.PWS_CH_FTIME_LO]; omega),
    State.get_wr_ne _ _ _ _ (by simp only [R.PWS_CH_STAT, R.PWS_CH_FTIME_LO]; omega),
    State.get_wr_ne _ _ _ _ (by simp only [R.PWS_CH_STAT, R.PWS_CH_FLT]; omega)]

/-! All gates low. -/

theorem gatesLow_pch (c : Nat) (s : State) : (gatesLow c s).pch c = { s.pch c with drive := 0, second := none } := State.pch_setPch_self _ _ _

theorem latchAll_latched {c : Nat} (hc : c < 16) (causes : Nat) (s : State) : latched (latchAll c causes s) c = true :=
  latched_latch hc _ _

theorem latchAll_pch {c : Nat} (hc : c < 16) (causes : Nat) (s : State) :
    (latchAll c causes s).pch c = { s.pch c with drive := 0, second := none } := by
  rw [latchAll, latch_pch hc, gatesLow_pch]

/-- What one leg's fault holds until step 2 of R718: the other leg's gates. -/
theorem latchLeg_pch {c : Nat} (hc : c < 16) (b : Bool) (tt causes : Nat) (s : State) :
    ((latchLeg c b tt causes s).pch c).drive = 0 ∧ ((latchLeg c b tt causes s).pch c).second.map (·.1) = some (!b) := by
  rw [latchLeg, latch_pch hc, State.pch_setPch_self]
  exact ⟨rfl, rfl⟩

/-! Channels that the device acts on (19_power_stage_protection.md R716, R733). -/

theorem actsOn_iff {s : State} {c : Nat} (h : actsOn s c = true) : s.up islPWS = true ∧ c < 16 := by
  simp only [actsOn, Bool.and_eq_true, decide_eq_true_eq] at h
  exact ⟨h.1.1.1, h.1.1.2⟩

theorem actsOn_guard {s : State} {c : Nat} (h : actsOn s c = true) : ¬ (!s.up islPWS || decide (c ≥ 16)) = true := by
  obtain ⟨hup, hc⟩ := actsOn_iff h
  simp [hup, hc]

/-- OCA and OCB shown as an overcurrent finds them. -/
def overcurrentShown (c : Nat) (la lb : Bool) (s : State) : State :=
  (s.set (R.PWS_CH_STAT_OCA c) (b2n la ||| s.get (R.PWS_CH_STAT_OCA c))).set (R.PWS_CH_STAT_OCB c) (b2n lb ||| s.get (R.PWS_CH_STAT_OCB c))

/-- The causes that an overcurrent is recorded with. -/
def overcurrentCode (s : State) (c tt : Nat) (la lb : Bool) : Nat :=
  b2n (la && outsideBlank (s.pch c) false tt) + 2 * b2n (lb && outsideBlank (s.pch c) true tt)

theorem execOvercurrentDetect_latches {s : State} {c tt also : Nat} {la lb : Bool} (h : actsOn s c = true) (hl : latched s c = false)
    (hoc : ((la && outsideBlank (s.pch c) false tt) || (lb && outsideBlank (s.pch c) true tt)) = true) :
    execOvercurrentDetect c la lb tt also s = .next (
      if (la && outsideBlank (s.pch c) false tt) && (lb && outsideBlank (s.pch c) true tt)
      then latchAll c (overcurrentCode s c tt la lb ||| also) (overcurrentShown c la lb s)
      else latchLeg c (lb && outsideBlank (s.pch c) true tt) tt (overcurrentCode s c tt la lb ||| also) (overcurrentShown c la lb s)) := by
  have hacts : ¬ (!actsOn s c || decide (b2n (la && outsideBlank (s.pch c) false tt) + 2 * b2n (lb && outsideBlank (s.pch c) true tt) = 0)) =
      true := by
    rw [h]
    cases ha : (la && outsideBlank (s.pch c) false tt) <;> cases hb : (lb && outsideBlank (s.pch c) true tt) <;> simp_all [b2n]
  rw [execOvercurrentDetect, if_neg (actsOn_guard h)]
  dsimp only
  rw [if_neg hacts, hl, if_neg Bool.false_ne_true, apply_ite Host.Outcome.next]
  rfl

/-! Levels shown in a channel's status, above its source, activity and latch. -/

theorem latched_set {c lo w : Nat} (hlo : 4 ≤ lo) (v : Nat) (s : State) : latched (s.set ⟨R.PWS_CH_STAT c, lo, w⟩ v) c = latched s c := by
  rw [latched, State.flag, State.get_set_bits _ ⟨R.PWS_CH_STAT c, lo, w⟩ (R.PWS_CH_STAT_LATCHED c) _ (by decide : 3 + 1 ≤ 32) (.inl hlo)]
  rfl

theorem actsOn_set {c lo w : Nat} (hlo : 4 ≤ lo) (v : Nat) (s : State) : actsOn (s.set ⟨R.PWS_CH_STAT c, lo, w⟩ v) c = actsOn s c := by
  have hup : (s.set ⟨R.PWS_CH_STAT c, lo, w⟩ v).up islPWS = s.up islPWS :=
    State.up_wr (by simp only [R.PWS_CH_STAT, R.CLK_ISL, islPWS]; omega) _ _
  have hactive : active (s.set ⟨R.PWS_CH_STAT c, lo, w⟩ v) c = active s c := by
    rw [active, State.flag, State.get_set_bits _ _ _ _ (by decide : 2 + 1 ≤ 32) (.inl (by simp; omega))]
    rfl
  have howner : (s.set ⟨R.PWS_CH_STAT c, lo, w⟩ v).flag R.PWS_STAT_OWNER = s.flag R.PWS_STAT_OWNER := by
    rw [State.flag, State.get_set_off _ _ _ _ (by simp only [R.PWS_CH_STAT, R.PWS_STAT]; omega)]
    rfl
  rw [actsOn, hup, hactive, howner]
  rfl

section
variable {s : State} {c tt also : Nat} (h : actsOn s c = true) (hl : latched s c = false)
include h hl

theorem execHocAssert_latches : execHocAssert c tt also s = .next (latchAll c (4 ||| also) (s.set (R.PWS_CH_STAT_HOC c) 1)) := by
  have hacts : actsOn (s.set (R.PWS_CH_STAT_HOC c) 1) c = true := (actsOn_set (by decide) 1 s).trans h
  have hlat : latched (s.set (R.PWS_CH_STAT_HOC c) 1) c = false := (latched_set (by decide) 1 s).trans hl
  rw [execHocAssert, if_neg (actsOn_guard h)]
  dsimp only
  rw [if_neg (by rw [hacts]; decide), hlat, if_neg Bool.false_ne_true]

/-- The gates' levels as a mismatch or a shoot-through of the channel shows them. -/
def gatesShown (c v : Nat) (s : State) : State := s.set (R.PWS_CH_STAT_GFB c) v

theorem execGateMismatch_latches {g : Nat} (hg : g < 4) : execGateMismatch c g tt also s = .next (latchLeg c (decide (g ≥ 2)) tt
    ((if decide (g ≥ 2) then 16 else 8) ||| also) (gatesShown c ((s.pch c).gatesAt tt ^^^ 2 ^ g) s)) := by
  have hlat : latched (s.set (R.PWS_CH_STAT_GFB c) ((s.pch c).gatesAt tt ^^^ 2 ^ g)) c = false := (latched_set (by decide) _ s).trans hl
  rw [execGateMismatch, if_neg (by simp [h]; omega)]
  dsimp only
  rw [hlat, if_neg Bool.false_ne_true]
  rfl

theorem execShootThrough_latches (b : Bool) : execShootThrough c b tt also s = .next (latchAll c ((if b then 64 else 32) ||| also)
    (gatesShown c ((s.pch c).gatesAt tt ||| (if b then 12 else 3)) s)) := by
  have hlat : latched (s.set (R.PWS_CH_STAT_GFB c) ((s.pch c).gatesAt tt ||| (if b then 12 else 3))) c = false :=
    (latched_set (by decide) _ s).trans hl
  rw [execShootThrough, if_neg (by simp [h])]
  dsimp only
  rw [hlat, if_neg Bool.false_ne_true]
  rfl

end

/-! Battery readings. -/

/-- The rule on dips raises its cause at most. -/
theorem dipReading_cases (v : Nat) (s : State) : dipReading v s = cause R.SUP_VNSTAT_DIP 1 s ∨ dipReading v s = s := ite_eq_or_eq _ _ _

theorem dipReading_get (v : Nat) (s : State) {g : Fld} (hq : quietReg g.off = true) (hg : g.off ≠ R.SUP_VNSTAT) :
    (dipReading v s).get g = s.get g := by
  rcases dipReading_cases v s with h | h
  · rw [h, cause_get_off _ _ _ (by decide) _ hq hg]
  · rw [h]

/-- A strand's own reading changes the gain's and the pair's state. -/
theorem ownReading_regs (v : Nat) (s : State) : (ownReading v s).regs = s.regs ∧ (ownReading v s).pws = s.pws := by
  unfold ownReading
  split
  · exact ⟨rfl, rfl⟩
  · rw [regs_plySend, pws_plySend, gainReading]
    split
    · exact ⟨rfl, rfl⟩
    · exact ⟨rfl, rfl⟩

/-- A hold begins, ends, or goes on. -/
theorem holdReading_cases (v : Nat) (s : State) : holdReading v s = holdBegin s ∨
    (∃ p, holdReading v s = { s.set R.PWS_STAT_LDHOLD 0 with pws := p }) ∨ ∃ p, holdReading v s = { s with pws := p } := by
  cases hh : s.pws.hold with
  | false =>
    rw [holdReading, if_pos (by rw [hh]; rfl)]
    split
    · exact .inl rfl
    · exact .inr (.inr ⟨_, rfl⟩)
  | true =>
    rw [holdReading, if_neg (by rw [hh]; decide)]
    dsimp only
    generalize (if v < 30000 then s.pws.below + 1 else 0) = n
    split
    · exact .inr (.inl ⟨_, rfl⟩)
    · exact .inr (.inr ⟨_, rfl⟩)

theorem holdReading_get (v : Nat) (s : State) {g : Fld} (hq : quietReg g.off = true) (hc : g.off ≠ R.SUP_VNSTAT) (hst : g.off ≠ R.PWS_STAT)
    (hcnt : g.off ≠ R.PWS_CNT_LDHOLD) : (holdReading v s).get g = s.get g := by
  rcases holdReading_cases v s with h | ⟨p, h⟩ | ⟨p, h⟩ <;> rw [h]
  · rw [holdBegin, cause_get_off _ _ _ (by decide) _ hq hc, State.bump, State.get_wr_ne _ _ _ _ hcnt, State.get_set_off _ _ _ _ hst]
    rfl
  · exact State.get_set_off s R.PWS_STAT_LDHOLD g 0 hst
  · rfl

theorem holdReading_hold {v : Nat} (h : 32000 < v) (s : State) : (holdReading v s).pws.hold = true := by
  cases hh : s.pws.hold with
  | false =>
    rw [holdReading, if_pos (by rw [hh]; rfl), if_pos h, holdBegin, cause_pws _ _ _ (by decide)]
    rfl
  | true =>
    rw [holdReading, if_neg (by rw [hh]; decide), if_neg (by omega : ¬ v < 30000)]
    exact hh

/-- What a reading shows of the battery line, before the hold's rule. -/
structure ReadingShown (v : Nat) (s t : State) : Prop where
  mv : t.get R.SUP_VBAT_MV = v % 2 ^ 16
  seq : t.get R.SUP_VBAT_SEQ = (s.get R.SUP_VBAT_SEQ + 1) % 2 ^ 16
  least : t.get R.SUP_VBAT_MIN_MV = min (s.get R.SUP_VBAT_MIN_MV) v % 2 ^ 16

theorem showReading_shows (v : Nat) (s : State) : ReadingShown v s (showReading v s) := by
  have hget (g : Fld) (s : State) : (ownReading v s).get g = s.get g := State.get_congr (ownReading_regs v s).1 g
  have hrest (u : State) (g : Fld) : ({ u with pws.seen := true, safe.vbat := some v } : State).get g = u.get g := rfl
  unfold showReading
  constructor
  · rw [hget, hrest, State.get_set_off _ _ _ _ (by decide), State.get_set_off _ _ _ _ (by decide),
      State.get_set_bits _ _ _ _ (by decide) (by decide), State.get_set _ _ _ (by decide)]
  · rw [hget, hrest, State.get_set_off _ _ _ _ (by decide), State.get_set_off _ _ _ _ (by decide), State.get_set _ _ _ (by decide)]
  · rw [hget, hrest, State.get_set_off _ _ _ _ (by decide), State.get_set _ _ _ (by decide), State.get_set_off _ _ _ _ (by decide),
      State.get_set_off _ _ _ _ (by decide)]

/-- A reading in its registers; a load dump holds (R724 to R726). -/
theorem vbatReading_shows (mv : Nat) (s : State) : ReadingShown (min mv 43200) s (vbatReading mv s) := by
  have hhold (g : Fld) (hq : quietReg g.off = true) (hc : g.off ≠ R.SUP_VNSTAT) (hst : g.off ≠ R.PWS_STAT) (hcnt : g.off ≠ R.PWS_CNT_LDHOLD)
      (v : Nat) (s : State) := holdReading_get v s hq hc hst hcnt
  have hdip (g : Fld) (hq : quietReg g.off = true) (hg : g.off ≠ R.SUP_VNSTAT) (v : Nat) (s : State) := dipReading_get v s hq hg
  obtain ⟨hmv, hseq, hmin⟩ := showReading_shows (min mv 43200) (dipReading (min mv 43200) s)
  unfold vbatReading vbatClip
  constructor
  · rw [hhold _ (by decide) (by decide) (by decide) (by decide), hmv]
  · rw [hhold _ (by decide) (by decide) (by decide) (by decide), hseq, hdip _ (by decide) (by decide)]
  · rw [hhold _ (by decide) (by decide) (by decide) (by decide), hmin, hdip _ (by decide) (by decide)]

/-- Settles O30: each fault through its latching case, a reading through the rules that it passes. -/
theorem powerStageCommandsComplete : Obligations.PowerStageCommandsComplete := by
  refine ⟨?overcurrent, ?hoc, ?mismatch, ?shoot, ?second, ?clear, ?vbat, ?disableEnd, ?ownership⟩
  case overcurrent =>
    intro s c tt also la lb h hl hoc
    obtain ⟨-, hc⟩ := actsOn_iff h
    refine ⟨_, execOvercurrentDetect_latches h hl hoc, ?_⟩
    split
    next hboth =>
      refine ⟨latchAll_latched hc _ _, ?_, fun _ _ => ?_⟩ <;> rw [latchAll_pch hc]
    next hone =>
      refine ⟨latched_latch hc _ _, (latchLeg_pch hc _ _ _ _).1, fun ha hb => ?_⟩
      exact absurd (by rw [ha, hb]; rfl) hone
  case hoc =>
    intro s c tt also h hl
    obtain ⟨-, hc⟩ := actsOn_iff h
    refine ⟨_, execHocAssert_latches (tt := tt) h hl, latchAll_latched hc _ _, ?_, ?_, ?_⟩
    · rw [latchAll_pch hc]
    · rw [latchAll_pch hc]
    · rw [State.flag, latchAll, latch_stat hc (by decide) (by decide)]
      rw [gatesLow, State.get_setPch, State.get_set _ _ _ (by simp)]
      rfl
  case mismatch =>
    intro s c g tt also h hl hg
    obtain ⟨-, hc⟩ := actsOn_iff h
    obtain ⟨hdrive, hsecond⟩ := latchLeg_pch hc (decide (g ≥ 2)) tt ((if decide (g ≥ 2) then 16 else 8) ||| also)
      (gatesShown c ((s.pch c).gatesAt tt ^^^ 2 ^ g) s)
    refine ⟨_, execGateMismatch_latches h hl hg, latched_latch hc _ _, hdrive, hsecond.trans ?_⟩
    by_cases h2 : g < 2
    · simp [h2, show ¬ 2 ≤ g by omega]
    · simp [h2, show 2 ≤ g by omega]
  case shoot =>
    intro s c tt also b h hl
    obtain ⟨-, hc⟩ := actsOn_iff h
    refine ⟨_, execShootThrough_latches h hl b, latchAll_latched hc _ _, ?_, ?_⟩ <;> rw [latchAll_pch hc]
  case second =>
    intro s c hsecond
    refine ⟨gatesLow c s, if_neg hsecond, rfl, ?_, ?_⟩ <;> rw [gatesLow_pch]
  case clear =>
    intro s a v quiet h hkey
    refine ⟨_, access_reaches h _, ?_⟩
    rw [latchClear, if_neg (not_not.mpr hkey)]
  case vbat =>
    intro s mv hreset
    obtain ⟨hmv, hseq, hmin⟩ := vbatReading_shows mv s
    refine ⟨vbatReading mv s, if_neg (by rw [hreset]; decide), ?_, hseq, ?_, fun hdump => ?_⟩
    · rw [hmv]
      omega
    · rw [hmin]
      omega
    · exact holdReading_hold (by unfold vbatClip; omega) _
  case disableEnd =>
    intro s href hpll hdis
    exact ⟨_, if_neg (by rw [href, hpll, hdis]; decide), rfl⟩
  case ownership =>
    intro s hgrant hup hst
    refine ⟨{ (ownLine true s).set R.PWS_STAT_OWNER 1 with pws.grant := false }, ?_, ?_, rfl⟩
    · change execOwnershipTake s = _
      rw [execOwnershipTake, if_neg (by simp [hgrant, hup, hst])]
    · exact State.flag_set (ownLine true s) R.PWS_STAT_OWNER 1 (by decide) rfl

end Sys2Proof.Machine
end


section
/-! SUPPORT. What leaves the channels' latches standing (O51): writes of other registers and of the other bits of a channel's status, and
latching itself. -/
namespace Sys2Proof.Machine

/-- The registers that hold the channels' latches. -/
def latchReg (o : Nat) : Bool := decide (0xA0100 ≤ o) && decide (o < 0xA0300) && decide (o % 0x20 = 4)

theorem latchReg_stat {c : Nat} (hc : c < 16) : latchReg (R.PWS_CH_STAT c) = true := by
  simp only [latchReg, R.PWS_CH_STAT, Bool.and_eq_true, decide_eq_true_eq]
  omega

/-- Every channel that is latched in s is latched in t. -/
def LatchesStay (s t : State) : Prop := ∀ c, c < 16 → latched s c = true → latched t c = true

theorem LatchesStay.refl (s : State) : LatchesStay s s := fun _ _ h => h

theorem LatchesStay.trans {s t u : State} (h : LatchesStay s t) (k : LatchesStay t u) : LatchesStay s u := fun c hc hs => k c hc (h c hc hs)

theorem LatchesStay.ite {s a b : State} {c : Prop} [Decidable c] (ha : LatchesStay s a) (hb : LatchesStay s b) :
    LatchesStay s (if c then a else b) := by
  split
  · exact ha
  · exact hb

theorem LatchesStay.foldl {α : Type} {f : State → α → State} (h : ∀ t a, LatchesStay t (f t a)) (l : List α) (s : State) :
    LatchesStay s (l.foldl f s) :=
  List.foldlRecOn l f (motive := LatchesStay s) (.refl s) fun t ht a _ => ht.trans (h t a)

/-- A change of no register. -/
theorem LatchesStay.of_regs {s t : State} (h : t.regs = s.regs) : LatchesStay s t := fun c _ hs => by
  rw [latched, State.flag, State.get_congr h]
  exact hs

/-- A change of no register that holds a latch. -/
theorem LatchesStay.of_rd {s t : State} (h : ∀ o, latchReg o = true → t.rd o = s.rd o) : LatchesStay s t := fun c hc hs => by
  rw [latched, State.flag, State.get, h _ (latchReg_stat hc)]
  exact hs

theorem LatchesStay.wr (s : State) {o : Nat} (v : Word) (h : latchReg o = false) : LatchesStay s (s.wr o v) :=
  .of_rd fun p hp => State.rd_wr_ne _ _ _ _ fun he => by rw [he, h] at hp; cases hp

/-- A field that is not LATCHED. -/
theorem LatchesStay.set (s : State) {f : Fld} (v : Nat) (h : latchReg f.off = false ∨ f.lo + f.w ≤ 3 ∨ 4 ≤ f.lo) : LatchesStay s (s.set f v) := by
  rcases h with h | h
  · exact .wr s _ h
  intro c hc hs
  rw [latched, State.flag]
  by_cases hoff : R.PWS_CH_STAT c = f.off
  · rw [State.get_set_bits _ f (R.PWS_CH_STAT_LATCHED c) _ (by decide : 3 + 1 ≤ 32) h.symm]
    exact hs
  · rw [State.get_set_off _ _ _ _ hoff]
    exact hs

/-- LATCHED itself, set. -/
theorem LatchesStay.set_latched (s : State) (j : Nat) : LatchesStay s (s.set (R.PWS_CH_STAT_LATCHED j) 1) := by
  intro c hc hs
  by_cases hj : c = j
  · rw [hj]
    exact State.flag_set s (R.PWS_CH_STAT_LATCHED j) 1 (by simp) rfl
  · rw [latched, State.flag, State.get_set_off _ _ _ _ (by simp only [R.PWS_CH_STAT]; omega)]
    exact hs

theorem latchesStay_bump (s : State) {o : Nat} (h : latchReg o = false) : LatchesStay s (s.bump o) := .wr s _ h

theorem latchesStay_cause (s : State) {f : Fld} {n : Nat} (h : latchReg f.off = false) (hn : n < 96) : LatchesStay s (cause f n s) := by
  refine (LatchesStay.set s 1 (.inl h)).trans (.of_rd fun o ho => (cause_crosses f s hn).rd o ?_)
  simp only [latchReg, Bool.and_eq_true, decide_eq_true_eq] at ho
  simp only [quietReg, Bool.or_eq_true, Bool.and_eq_true, decide_eq_true_eq]
  omega

theorem latchesStay_plySend (r : LogRec) (s : State) : LatchesStay s (plySend r s) := .of_regs (regs_plySend r s)

/-! The power stage. -/

/-- The other registers of a channel of the power stage. -/
theorem latchReg_channel {k c : Nat} (hk : 0xA0100 ≤ k ∧ k % 0x20 ≠ 4) : latchReg (k + 0x20 * c) = false := by
  simp only [latchReg, Bool.and_eq_false_iff, decide_eq_false_iff_not]
  omega

theorem latchesStay_gatesLow (c : Nat) (s : State) : LatchesStay s (gatesLow c s) := .of_regs rfl

theorem latchesStay_latch {c : Nat} (hc : c < 16) (causes : Nat) (s : State) : LatchesStay s (latch c causes s) := by
  have hflt (v : Word) : LatchesStay s (s.wr (R.PWS_CH_FLT c) v) := .wr s v (latchReg_channel (k := 0xA010C) (by decide))
  have htime (v : Nat) (s : State) : LatchesStay s (s.wr64 (R.PWS_CH_FTIME_LO c) v) :=
    (LatchesStay.wr s _ (latchReg_channel (k := 0xA0110) (by decide))).trans
      (.wr _ _ (by
        simp only [latchReg, R.PWS_CH_FTIME_LO, Bool.and_eq_false_iff, decide_eq_false_iff_not]
        omega))
  have hset (s : State) : LatchesStay s ((s.set (R.PWS_CH_STAT_LATCHED c) 1).set ⟨R.PWS_LATCH, c, 1⟩ 1) :=
    (LatchesStay.set_latched s c).trans (.set _ _ (.inl (by decide : latchReg R.PWS_LATCH = false)))
  exact ((((hflt _).trans (htime _ _)).trans (hset _)).trans (latchesStay_plySend _ _)).trans
    (latchesStay_cause _ (latchReg_channel (k := 0xA0118) (by decide)) (by omega))

theorem latchesStay_latchAll {c : Nat} (hc : c < 16) (causes : Nat) (s : State) : LatchesStay s (latchAll c causes s) :=
  (latchesStay_gatesLow c s).trans (latchesStay_latch hc _ _)

theorem latchesStay_latchLeg {c : Nat} (hc : c < 16) (b : Bool) (t causes : Nat) (s : State) : LatchesStay s (latchLeg c b t causes s) := by
  have hch (x : PwsCh) : LatchesStay s (s.setPch c x) := .of_regs rfl
  exact (hch _).trans (latchesStay_latch hc _ _)

theorem latchesStay_secondAction (c causes : Nat) (s : State) : LatchesStay s (secondAction c causes s) :=
  (latchesStay_gatesLow c s).trans (.set _ _ (.inl (latchReg_channel (k := 0xA010C) (by decide))))

/-- Levels above LATCHED in a channel's status. -/
theorem latchesStay_level (c : Nat) {lo w : Nat} (hlo : 4 ≤ lo) (v : Nat) (s : State) : LatchesStay s (s.set ⟨R.PWS_CH_STAT c, lo, w⟩ v) :=
  .set s v (.inr (.inr hlo))

/-! Faults. -/

theorem latchesStay_overcurrent {c tt also : Nat} {la lb : Bool} {s t : State} (h : execOvercurrentDetect c la lb tt also s = .next t) :
    LatchesStay s t := by
  have hshown : LatchesStay s (overcurrentShown c la lb s) := (latchesStay_level c (by decide) _ s).trans (latchesStay_level c (by decide) _ _)
  unfold execOvercurrentDetect at h
  split at h
  · cases h
    exact .refl s
  next hg =>
    have hc : c < 16 := by
      simp at hg
      omega
    dsimp only at h
    split at h
    · cases h
      exact hshown
    split at h
    · split at h
      · cases h
        exact hshown.trans (.ite (latchesStay_secondAction _ _ _) (.refl _))
      · cases h
        exact hshown
    split at h
    · cases h
      exact hshown.trans (latchesStay_latchAll hc _ _)
    · cases h
      exact hshown.trans (latchesStay_latchLeg hc _ _ _ _)

theorem latchesStay_hoc {c tt also : Nat} {s t : State} (h : execHocAssert c tt also s = .next t) : LatchesStay s t := by
  have hshown : LatchesStay s (s.set (R.PWS_CH_STAT_HOC c) 1) := latchesStay_level c (by decide) 1 s
  unfold execHocAssert at h
  split at h
  · cases h
    exact .refl s
  next hg =>
    have hc : c < 16 := by
      simp at hg
      omega
    dsimp only at h
    split at h
    · cases h
      exact hshown
    split at h
    · cases h
      exact hshown.trans (.ite (.refl _) (latchesStay_secondAction _ _ _))
    · cases h
      exact hshown.trans (latchesStay_latchAll hc _ _)

theorem latchesStay_mismatch {c g tt also : Nat} {s t : State} (h : execGateMismatch c g tt also s = .next t) : LatchesStay s t := by
  have hshown (v : Nat) : LatchesStay s (s.set (R.PWS_CH_STAT_GFB c) v) := latchesStay_level c (by decide) v s
  unfold execGateMismatch at h
  split at h
  · cases h
    exact .refl s
  next hg =>
    obtain ⟨-, hc⟩ := actsOn_iff (s := s) (c := c) (by
      simp at hg
      exact hg.1)
    dsimp only at h
    split at h
    · split at h
      · cases h
        exact (hshown _).trans (.ite (latchesStay_secondAction _ _ _) (.refl _))
      · cases h
        exact hshown _
    · cases h
      exact (hshown _).trans (latchesStay_latchLeg hc _ _ _ _)

theorem latchesStay_either {g : Prop} [Decidable g] {s t u w : State} (h : (if g then .next u else .next w) = (.next t : Out))
    (hu : LatchesStay s u) (hw : LatchesStay s w) : LatchesStay s t := by
  split at h
  · cases h
    exact hu
  · cases h
    exact hw

theorem latchesStay_shoot {c tt also : Nat} {b : Bool} {s t : State} (h : execShootThrough c b tt also s = .next t) : LatchesStay s t := by
  have hshown (v : Nat) : LatchesStay s (s.set (R.PWS_CH_STAT_GFB c) v) := latchesStay_level c (by decide) v s
  unfold execShootThrough at h
  split at h
  · cases h
    exact .refl s
  next hg =>
    obtain ⟨-, hc⟩ := actsOn_iff (s := s) (c := c) (by simpa using hg)
    exact latchesStay_either h ((hshown _).trans (.ite (.refl _) (latchesStay_secondAction _ _ _)))
      ((hshown _).trans (latchesStay_latchAll hc _ _))

/-! Rows with one guard. -/

theorem latchesStay_guard {g : Prop} [Decidable g] {s t u : State} (h : (if g then stay s else .next u) = (.next t : Out))
    (hu : LatchesStay s u) : LatchesStay s t := by
  split at h
  · cases h
    exact .refl s
  · cases h
    exact hu

theorem latchesStay_showReading (v : Nat) (s : State) : LatchesStay s (showReading v s) := by
  have hset (f : Fld) (v : Nat) (s : State) (h : latchReg f.off = false) : LatchesStay s (s.set f v) := .set s v (.inl h)
  have hseen (u : State) : LatchesStay u { u with pws.seen := true, safe.vbat := some v } := .of_regs rfl
  have hown (u : State) : LatchesStay u (ownReading v u) := .of_regs (ownReading_regs v u).1
  unfold showReading
  exact (((((hset R.SUP_VBAT_MV _ s (by decide)).trans (hset R.SUP_VBAT_SEQ _ _ (by decide))).trans
    (hset R.SUP_VBAT_MIN_MV _ _ (by decide))).trans (hset R.SUP_VBAT_MAX_MV _ _ (by decide))).trans (hseen _)).trans (hown _)

theorem latchesStay_holdBegin (s : State) : LatchesStay s (holdBegin s) := by
  have hpws (p : Pws) : LatchesStay s { s with pws := p } := .of_regs rfl
  have hset (u : State) : LatchesStay u (u.set R.PWS_STAT_LDHOLD 1) := .set u 1 (.inl (by decide))
  unfold holdBegin
  exact (((hpws _).trans (hset _)).trans (latchesStay_bump _ (by decide))).trans (latchesStay_cause _ (by decide) (by decide))

theorem latchesStay_holdReading (v : Nat) (s : State) : LatchesStay s (holdReading v s) := by
  rcases holdReading_cases v s with h | ⟨p, h⟩ | ⟨p, h⟩ <;> rw [h]
  · exact latchesStay_holdBegin s
  · have hset : LatchesStay s (s.set R.PWS_STAT_LDHOLD 0) := .set s 0 (.inl (by decide))
    exact hset.trans (.of_regs rfl)
  · exact .of_regs rfl

theorem latchesStay_vbatReading (mv : Nat) (s : State) : LatchesStay s (vbatReading mv s) := by
  have hdip (v : Nat) (s : State) : LatchesStay s (dipReading v s) := by
    rcases dipReading_cases v s with h | h <;> rw [h]
    · exact latchesStay_cause s (by decide) (by decide)
    · exact .refl s
  exact ((hdip _ s).trans (latchesStay_showReading _ _)).trans (latchesStay_holdReading _ _)

theorem latchesStay_disableShow (s : State) : LatchesStay s (disableShow s) := by
  have hset : LatchesStay s (s.set R.PWS_STAT_AODIS (b2n s.aoDisabled)) := .set s _ (.inl (by decide))
  exact hset.trans (.ite (.foldl (fun u c => latchesStay_gatesLow c u) _ _) (.refl _))

/-- Registers of AUD and of the blocks above it hold no latch. -/
theorem latchReg_above {o : Nat} (h : 0xA0300 ≤ o) : latchReg o = false := by
  simp only [latchReg, Bool.and_eq_false_iff, decide_eq_false_iff_not]
  omega

/-- The other registers of a channel of AUD. -/
theorem latchReg_aud {k c : Nat} (hk : 0xA0300 ≤ k) : latchReg (k + 0x40 * c) = false := latchReg_above (by omega)

theorem latchesStay_ovrCheck (c : Nat) (s : State) : LatchesStay s (ovrCheck c s) := by
  have hset (v : Nat) : LatchesStay s (s.set (R.AUD_CH_STAT_OVR c) v) := .set s v (.inl (latchReg_aud (k := 0xB0124) (by decide)))
  exact .ite ((hset _).trans (latchesStay_cause _ (by decide) (by decide))) (hset _)

theorem latchesStay_audRelock (s : State) : LatchesStay s (audRelock s) := by
  unfold audRelock
  split
  · exact .refl s
  have hrun : LatchesStay s { s.set R.AUD_STAT_RUN 1 with aud.stopped := none } := .set s (f := R.AUD_STAT_RUN) 1 (.inl (by decide))
  refine hrun.trans (.foldl (fun u c => .ite ?_ (.refl u)) _ _)
  have hpos (v : Word) : LatchesStay u (u.wr (R.AUD_CH_RPOS c) v) := .wr u v (latchReg_aud (k := 0xB0110) (by decide))
  have hach (x : AudCh) (u : State) : LatchesStay u (u.setAch c x) := .of_regs rfl
  exact ((hpos _).trans (hach _ _)).trans (latchesStay_ovrCheck c _)

theorem latchesStay_ownLine (v : Bool) (s : State) : LatchesStay s (ownLine v s) := by
  unfold ownLine
  split
  · exact .set s _ (.inl (by decide))
  · exact .set s _ (.inl (by decide))
  · exact .refl s

/-! Sources and stages. -/

theorem latchesStay_setSrc (c v : Nat) (s : State) : LatchesStay s (setSrc c v s) := by
  have hset : LatchesStay s ((s.set (R.PWS_CH_STAT_SRC c) v).set ⟨R.AUD_STAT, c, 1⟩ (b2n (decide (v = 2)))) :=
    (LatchesStay.set s v (.inr (.inl (by simp)))).trans (.set _ _ (.inl (by decide : latchReg R.AUD_STAT = false)))
  exact .ite (hset.trans (.set _ _ (.inl (by decide : latchReg R.SAFE_STAT = false)))) hset

theorem latchesStay_enterStage (s : State) : LatchesStay s (enterStage 3 s) := by
  have hstage : LatchesStay s (s.set R.SYS_STAGE_STAGE 3) := .set s 3 (.inl (by decide))
  exact (hstage.trans (.wr _ _ (by decide))).trans (latchesStay_cause _ (by decide) (by decide))

theorem latchesStay_channelReturn (c : Nat) (s : State) : LatchesStay s (channelReturn c s) := by
  have hsrc : LatchesStay s (setSrc c (homeSrc c) (gatesLow c s)) := (latchesStay_gatesLow c s).trans (latchesStay_setSrc _ _ _)
  have hout (g : SMap Bool) (u : State) : LatchesStay u { u with sys.gatesOut := g } := .of_regs rfl
  have hfall (u : State) : LatchesStay u (fallStage 2 u) :=
    (LatchesStay.set u 2 (.inl (by decide))).trans (latchesStay_cause _ (by decide) (by decide))
  exact (hsrc.trans (hout _ _)).trans (.ite (hfall _) (.refl _))

theorem latchesStay_channelPass (c : Nat) (waited : Bool) (s : State) : LatchesStay s (channelPass c waited s) := by
  have hleft (m : SMap Nat) (u : State) : LatchesStay u { u with sys.handLeft := m } := .of_regs rfl
  have hdone (u : State) : LatchesStay u { u with sys.weaving := false, sys.weaveForce := false, sys.waited := [] } := .of_regs rfl
  exact (((latchesStay_setSrc c 2 s).trans (hleft _ _)).trans (.ite (latchesStay_cause _ (by decide) (by decide)) (.refl _))).trans
    (.ite ((hdone _).trans (latchesStay_enterStage _)) (.refl _))

theorem latchesStay_handStep (c : Nat) (s : State) : LatchesStay s (handStep c s) := by
  unfold handStep
  split
  · exact .refl s
  · exact .ite (.refl s) (latchesStay_channelPass _ _ _)
  · exact .of_regs rfl

/-! Periods. -/

theorem latchesStay_startLatch {c : Nat} (hc : c < 16) (hoc : Bool) (s : State) : LatchesStay s (startLatch c hoc s) := by
  have hset : LatchesStay s (s.set (R.PWS_CH_STAT_HOC c) (b2n hoc)) := latchesStay_level c (by decide) _ s
  exact hset.trans (.ite (latchesStay_latchAll hc _ _) (.refl _))

theorem latchesStay_drivePeriod (c p at_ : Nat) (w : Nat × Nat × Nat × Nat) (s : State) : LatchesStay s (drivePeriod c p at_ w s) := by
  have hset : LatchesStay s (s.set (R.PWS_CH_STAT_ACTIVE c) (b2n (wantsActive s c))) := .set s _ (.inr (.inl (by simp)))
  have hstart (d : Nat) (w : Nat × Nat × Nat × Nat) (u : State) : LatchesStay u (startPeriod c p at_ d w u) := .of_regs rfl
  exact hset.trans (.ite ((latchesStay_gatesLow c _).trans (hstart _ _ _)) (.ite (hstart _ _ _) (.ite (hstart _ _ _) (hstart _ _ _))))

theorem latchesStay_audWord (c p : Nat) (s : State) : LatchesStay s (audWord c p s).2 := by
  have hhard : LatchesStay s (hardWord c p s).2 := by
    unfold hardWord
    dsimp only
    split <;> exact .of_regs rfl
  have hach (x : AudCh) (u : State) : LatchesStay u (u.setAch c x) := .of_regs rfl
  have hset (v : Nat) (u : State) : LatchesStay u (u.set (R.AUD_CH_STAT_HARD c) v) := .set u v (.inl (latchReg_aud (k := 0xB0124) (by decide)))
  have hmiss (u : State) : LatchesStay u (fabMiss c u) :=
    (latchesStay_bump u (latchReg_aud (k := 0xB0130) (by decide))).trans (latchesStay_cause _ (by decide) (by decide))
  have hown := hhard.trans (hach { (hardWord c p s).2.ach c with fab := none } _)
  unfold audWord
  dsimp only
  split
  · exact hown.trans (hset 1 _)
  · split
    · exact hown.trans (hset 0 _)
    · exact (hown.trans (hset 1 _)).trans (hmiss _)

theorem latchesStay_audShadow (c p : Nat) (s : State) : LatchesStay s (audShadow c p s).2 := by
  have hach (x : AudCh) (u : State) : LatchesStay u (u.setAch c x) := .of_regs rfl
  have hdigest (w : Nat × Nat × Nat × Nat) (u : State) : LatchesStay u (digestWord c w u) := by
    unfold digestWord
    dsimp only
    split
    · exact .refl u
    · split <;> exact .of_regs rfl
  unfold audShadow
  split
  · exact (((hach _ s).trans (latchesStay_audWord c p _)).trans (hach _ _)).trans (hdigest _ _)
  · exact .refl s

theorem latchesStay_periodBoundary {c : Nat} (hc : c < 16) (hoc : Bool) (s : State) : LatchesStay s (periodBoundary c hoc s) := by
  have hpch (x : PwsCh) (u : State) : LatchesStay u (u.setPch c x) := .of_regs rfl
  have hret : LatchesStay s (if gatesOut s c then channelReturn c s else s) := .ite (latchesStay_channelReturn c s) (.refl s)
  exact ((((hret.trans (latchesStay_handStep c _)).trans (.ite (.refl _) (latchesStay_startLatch hc hoc _))).trans
    (latchesStay_audShadow c _ _)).trans (.ite (.refl _) (latchesStay_drivePeriod _ _ _ _ _))).trans (hpch _ _)

theorem latchesStay_safeBoundary {c : Nat} (hc : c < 16) (hoc : Bool) (s : State) : LatchesStay s (safeBoundary c hoc s) := by
  have hj (m : SMap Nat) (u : State) : LatchesStay u { u with safe.j := m } := .of_regs rfl
  exact ((latchesStay_startLatch hc hoc s).trans (latchesStay_drivePeriod _ _ _ _ _)).trans (hj _ _)

/-! Unclamping and WEAVE. -/

theorem latchesStay_mirrorAcc (acc : HostAcc) (s : State) : LatchesStay s (mirrorAcc acc s) := by
  have hlog : LatchesStay s { s with ply.hostq := s.ply.hostq ++ [acc] } := .of_regs rfl
  exact .ite (latchesStay_bump s (by decide)) (hlog.trans (latchesStay_plySend _ _))

/-- A write with no reserved bit, whose effect leaves the latches standing. -/
theorem latchesStay_access {a : Agent} {o : Nat} {v : Word} {k : State → State} {s t : State} (hres : reservedBits o v = false)
    (hk : LatchesStay s (k s)) (h : access a o v (fun s => .next (k s)) s = .next t) : LatchesStay s t := by
  unfold access blockAct stay at h
  rw [hres, if_neg Bool.false_ne_true] at h
  split at h
  · cases h
    exact .refl s
  split at h
  · cases h
    exact .of_regs rfl
  split at h
  · cases h
    exact .refl s
  split at h
  · cases h
    exact latchesStay_mirrorAcc _ s
  exact latchesStay_either h (.refl s) hk

theorem latchesStay_stageRefuse (e : Nat) (s : State) : LatchesStay s (stageRefuse e s) :=
  (LatchesStay.set s e (f := R.SYS_STAGE_CMDERR) (.inl (by decide))).trans (latchesStay_cause _ (by decide) (by decide))

theorem latchesStay_unclampWrite (a : Agent) (n : Nat) (s : State) : LatchesStay s (unclampWrite a n s) := by
  have hset : LatchesStay s (s.set R.SYS_STAGE_CMDERR 0) := .set s 0 (.inl (by decide))
  have hstep (u : State) : LatchesStay u { u with sys.unclamp := n } := .of_regs rfl
  exact .ite (.refl s) (.ite (latchesStay_stageRefuse 7 s) (.ite (latchesStay_stageRefuse 1 s) (.ite (.refl s)
    (.ite (latchesStay_stageRefuse 1 s) (hset.trans (hstep _))))))

theorem latchesStay_unclampStepDone {s t : State} (h : execUnclampStepDone s = .next t) : LatchesStay s t := by
  have hpanel (n p : Nat) (u : State) : LatchesStay u (unclampPanel n p u) := by
    have habove (o : Nat) : latchReg (R.MQY_STAT o) = false := latchReg_above (by simp only [R.MQY_STAT]; omega)
    unfold unclampPanel
    split
    · exact .set u 0 (.inl (habove p))
    · exact .set u 0 (.inl (habove p))
    · exact .set u 0 (.inl (habove p))
  have hidle (u : State) : LatchesStay u { u with sys.unclamp := 0 } := .of_regs rfl
  have hdone (v : Nat) (u : State) : LatchesStay u (u.set R.SYS_UNCLAMP_DONE v) := .set u v (.inl (by decide))
  exact latchesStay_guard h ((((LatchesStay.foldl (fun u p => .ite (hpanel _ p u) (.refl u)) _ s).trans (hidle _)).trans (hdone _ _)).trans
    (latchesStay_cause _ (by decide) (by decide)))

theorem latchesStay_weaveWrite (a : Agent) (force : Bool) (s : State) : LatchesStay s (weaveWrite a force s) := by
  have hset : LatchesStay s (s.set R.SYS_STAGE_CMDERR 0) := .set s 0 (.inl (by decide))
  have hchannel (u : State) (c : Nat) : LatchesStay u (weaveChannel force u c) := .ite (.refl u) (.ite (.of_regs rfl) (.of_regs rfl))
  have hweave (u : State) : LatchesStay u { u with sys.weaving := true, sys.weaveForce := u.sys.weaveForce || force } := .of_regs rfl
  have hstart (u : State) : LatchesStay u (weaveStart force u) :=
    ((hweave u).trans (.foldl hchannel _ _)).trans (.set _ _ (.inl (by decide : latchReg R.SYS_STAGE = false)))
  exact .ite (.refl s) (.ite (latchesStay_stageRefuse 7 s) (.ite (latchesStay_stageRefuse 2 s) (.ite (latchesStay_stageRefuse 1 s)
    (.ite (latchesStay_stageRefuse 1 s) (.ite hset (hset.trans (hstart _)))))))

/-- Settles O51: each of the commands through what it does to the registers that hold the latches. -/
theorem latchesOutlastStageAndFaultEvents : Obligations.LatchesOutlastStageAndFaultEvents := by
  intro s i t c hwf hc hi hlat h
  have hstay : LatchesStay s t := by
    unfold latchKeeper at hi
    split at hi
    · exact latchesStay_access (by decide +kernel) (latchesStay_unclampWrite _ 1 s) h
    · exact latchesStay_access (by decide +kernel) (latchesStay_unclampWrite _ 2 s) h
    · exact latchesStay_access (by decide +kernel) (latchesStay_unclampWrite _ 3 s) h
    · exact latchesStay_unclampStepDone h
    case h_5 a force =>
      refine latchesStay_access ?_ (latchesStay_weaveWrite a force s) h
      cases force <;> decide +kernel
    case h_6 j =>
      have hj : j < 16 := of_decide_eq_true hwf
      exact latchesStay_guard h (latchesStay_periodBoundary hj _ s)
    · exact latchesStay_guard h (latchesStay_channelReturn _ s)
    case h_8 j hoc safe =>
      have hj : j < 16 := of_decide_eq_true hwf
      change execPwmPeriodBoundary j hoc s safe = _ at h
      unfold execPwmPeriodBoundary at h
      split at h
      · cases h
        exact .refl s
      · split at h
        · cases h
          exact latchesStay_periodBoundary hj hoc s
        · exact latchesStay_either h (latchesStay_safeBoundary hj hoc s) (.refl s)
    case h_9 =>
      have hdis (p : Pws) : LatchesStay s { s with pws := p } := .of_regs rfl
      exact latchesStay_guard h (((hdis _).trans (latchesStay_disableShow _)).trans (latchesStay_audRelock _))
    case h_10 =>
      have hgrant (u : State) : LatchesStay u { u with pws.grant := false } := .of_regs rfl
      have howner (u : State) : LatchesStay u (u.set R.PWS_STAT_OWNER 1) := .set u 1 (.inl (by decide))
      exact latchesStay_guard h (((latchesStay_ownLine true s).trans (howner _)).trans (hgrant _))
    case h_11 => exact latchesStay_guard h (.of_regs rfl)
    · exact latchesStay_guard h (latchesStay_gatesLow _ s)
    · exact latchesStay_overcurrent h
    case h_14 j tt also => exact latchesStay_hoc (tt := tt) h
    · exact latchesStay_mismatch h
    · exact latchesStay_shoot h
    · exact latchesStay_guard h (latchesStay_vbatReading _ s)
    · cases hi
  exact hstay c hc hlat

end Sys2Proof.Machine
end


section
/-! SUPPORT. Requests, deadlines and the end of the BIST in the in-service test (O35). -/
namespace Sys2Proof.Machine

/-- The request that a write of IST_REQ makes (23_in_service_test.md R835). -/
def istReqOf (v : Word) (s : State) : IstReq :=
  { kind := wget v 0 3, target := wget v 4 8, tag := wget v 12 4, at_ := s.tnow islIST,
    due := s.tnow islIST + (if wget v 16 16 = 0 then 1000 else wget v 16 16) * 1000000, did := [] }

/-- A request of a resource in service joins a queue that is not full. -/
theorem istReqWrite_joins {a : Agent} {v : Word} {s : State} (hhost : isHost a = true) (hkind : wget v 0 3 ≠ 0) (hst : 2 ≤ s.stage)
    (hroom : s.ist.reqs.length + s.ist.results.length < 16) (hval : istInval s (wget v 0 3) (wget v 4 8) = false)
    (hsvc : istNotSvc s (wget v 0 3) (wget v 4 8) = false) :
    ∃ m, istReqWrite a v s = istShow { s with ist.slices := m, ist.reqs := s.ist.reqs ++ [istReqOf v s] } := by
  have hentered : stage2Entered s = true := by simp [stage2Entered, hst]
  rw [istReqWrite, if_neg (by simp [hhost, hkind, hentered]), if_neg (by omega), if_neg (by rw [hval]; decide), if_neg (by rw [hsvc]; decide)]
  dsimp only
  split
  · exact ⟨_, rfl⟩
  · exact ⟨s.ist.slices, rfl⟩

theorem istShow_queued {s : State} (h : s.ist.reqs.length + s.ist.results.length ≤ 16) :
    (istShow s).get R.IST_REQ_STAT_QUEUED = s.ist.reqs.length + s.ist.results.length := by
  rw [istShow, State.get_set _ _ _ (by decide)]
  exact Nat.mod_eq_of_lt (by simp; omega)

/-- A request of each kind, where its conditions hold. -/
theorem istRequest_joins {kind : Nat} (hk : kind ≠ 0) {s : State} {a : Agent} {v : Word} (hhost : isHost a = true) (hkind : wget v 0 3 = kind)
    (h : reaches a R.IST_REQ v s = true) (hst : 2 ≤ s.stage) (hroom : s.ist.reqs.length + s.ist.results.length < 16)
    (hval : istInval s kind (wget v 4 8) = false) (hsvc : istNotSvc s kind (wget v 4 8) = false) :
    ∃ t, istRequest kind a v s = .next t ∧
      t.ist.reqs = s.ist.reqs ++ [{ istReqOf v s with kind := kind }] ∧
      t.get R.IST_REQ_STAT_QUEUED = s.ist.reqs.length + 1 + s.ist.results.length := by
  subst hkind
  obtain ⟨m, hm⟩ := istReqWrite_joins hhost hk hst hroom hval hsvc
  refine ⟨istShow { s with ist.slices := m, ist.reqs := s.ist.reqs ++ [istReqOf v s] }, ?_, rfl, ?_⟩
  · rw [istRequest, if_neg (by simp), access_reaches h, hm]
  · rw [istShow_queued]
    · simp
    · simp
      omega

/-- A finished request leaves the queue, and its result joins the results with the cause. -/
theorem istFinish_ist (status : Nat) (s : State) (r : IstReq) : (istFinish status s r).ist =
    { s.ist with reqs := s.ist.reqs.erase r, results := s.ist.results ++ [istWord r.tag r.kind r.target status] } :=
  cause_ist _ _ _ (by decide)

theorem execIstRequestDeadline_due {i : Nat} {r : IstReq} {s : State} (hr : s.ist.reqs[i]? = some r) (hdue : r.due ≤ s.tnow islIST) :
    execIstRequestDeadline i s = .next (istFinish 3 s r) := by
  simp [execIstRequestDeadline, hr, hdue]

/-! The end of the BIST. -/

/-- The state in which the BIST's end raises its cause. -/
def bistShown (cores res : Nat) (s : State) : State :=
  let r := res &&& bistMask
  let s := bistDestroy s
  let s := ((s.wr R.IST_BIST_CORE_LO (BitVec.ofNat 32 cores)).set R.IST_BIST_CORE_HI_CORE (cores / 2 ^ 32)).wr R.IST_BIST_RES (BitVec.ofNat 32 r)
  (s.set R.IST_BIST_STAT_FAILS (min 255 (bistCount cores r))).set R.IST_BIST_STAT_STATE 2

theorem execBistDone_runs {s : State} (cores res : Nat) (hup : s.up islIST = true) (hst : s.get R.IST_BIST_STAT_STATE = 1) :
    execBistDone cores res s = .next (cause R.IST_NSTAT_BIST 36 (bistShown cores res s)) := by
  rw [execBistDone, if_neg (by rw [hup, hst]; decide)]
  rfl

theorem bistShown_state (cores res : Nat) (s : State) : (bistShown cores res s).get R.IST_BIST_STAT_STATE = 2 :=
  State.get_set _ R.IST_BIST_STAT_STATE 2 (by decide)

theorem bistShown_cores (cores res : Nat) (s : State) : (bistShown cores res s).rd R.IST_BIST_CORE_LO = BitVec.ofNat 32 cores := by
  unfold bistShown
  rw [State.rd_set_ne _ _ _ _ (by decide), State.rd_set_ne _ _ _ _ (by decide), State.rd_wr_ne _ _ _ _ (by decide),
    State.rd_set_ne _ _ _ _ (by decide), State.rd_wr_self]

theorem bistShown_res (cores res : Nat) (s : State) : (bistShown cores res s).rd R.IST_BIST_RES = BitVec.ofNat 32 (res &&& bistMask) := by
  unfold bistShown
  rw [State.rd_set_ne _ _ _ _ (by decide), State.rd_set_ne _ _ _ _ (by decide), State.rd_wr_self]

/-- Settles O35: a request of each kind through `istRequest_joins`, the other commands as their case where their conditions hold. -/
theorem testCommandsComplete : Obligations.TestCommandsComplete := by
  refine ⟨fun _ _ _ => istRequest_joins (by decide), fun _ _ _ => istRequest_joins (by decide), fun _ _ _ => istRequest_joins (by decide),
    fun _ _ _ => istRequest_joins (by decide), fun _ _ _ => istRequest_joins (by decide), ?deadline,
    ?read, ?idle, ?slice, ?single, ?double, ?march, ?late, ?bist⟩
  case deadline =>
    intro s i r hr hdue
    refine ⟨_, execIstRequestDeadline_due hr hdue, ?_, ?_, cause_get_self _ _ _ (by decide) (by decide) (by decide) rfl⟩ <;>
      rw [istFinish_ist]
  case read =>
    intro s a h
    exact ⟨_, readRow_readable h istResRead, rfl⟩
  case idle =>
    intro s shares h
    exact ⟨_, if_neg (by rw [h]; decide), rfl⟩
  case slice =>
    intro s n miss again hrun hsvc hhalt hen
    refine ⟨_, ?_, rfl⟩
    change execLogicSliceEnd n miss again s = _
    rw [execLogicSliceEnd, if_neg (by simp [hrun, hsvc, hhalt, hen]), apply_ite Host.Outcome.next]
  case single =>
    intro s r i ad st hrun hscrub hen
    exact ⟨_, if_neg (by simp [hrun, hscrub, hen]), rfl⟩
  case double =>
    intro s r i ad st hrun hscrub hen
    exact ⟨_, if_neg (by simp [hrun, hscrub, hen]), rfl⟩
  case march =>
    intro s i x g u hrun hup hhalt hfollow hi hg hen hloan
    refine ⟨_, ?_, rfl⟩
    change execMarchSegment i x g none s = _
    rw [execMarchSegment, if_neg (by simp [hrun, hup, hhalt, hfollow, hen]; omega), hloan]
  case late =>
    intro s rb h
    refine ⟨_, if_neg (by rw [h]; decide), ?_, cause_get_self _ _ _ (by decide) (by decide) (by decide) rfl⟩
    cases rb
    · rw [State.flag, cause_get_off _ _ _ (by decide) _ (by decide) (by decide)]
      exact State.flag_set s R.IST_LATE_SCRUB 1 (by decide) rfl
    · rw [State.flag, cause_get_off _ _ _ (by decide) _ (by decide) (by decide)]
      exact State.flag_set s R.IST_LATE_READBACK 1 (by decide) rfl
  case bist =>
    intro s cores res hup hst
    refine ⟨_, execBistDone_runs cores res hup hst, ?_, ?_, ?_, cause_get_self _ _ _ (by decide) (by decide) (by decide) rfl, ?_⟩
    · rw [cause_get_off _ _ _ (by decide) _ (by decide) (by decide), bistShown_state]
    · rw [cause_rd _ _ _ (by decide) _ (by decide), State.rd_set_ne _ _ _ _ (by decide), bistShown_cores]
    · rw [cause_rd _ _ _ (by decide) _ (by decide), State.rd_set_ne _ _ _ _ (by decide), bistShown_res]
    · rw [cause_pkt _ _ _ (by decide)]
      rfl

end Sys2Proof.Machine
end


section
/-! SUPPORT. Joining, leaving and the loss of the partner of a Ply pair (O33). -/
namespace Sys2Proof.Machine

/-! Freed buffers write the pool registers alone: no register of the pair or of the power stage. -/

/-- The registers from the thermal block to the router are as they were. -/
def BufKeeps (s t : State) : Prop := ∀ o, 0x60000 ≤ o → o < 0xF0000 → t.rd o = s.rd o

theorem BufKeeps.refl (s : State) : BufKeeps s s := fun _ _ _ => rfl

theorem BufKeeps.trans {s t u : State} (h : BufKeeps s t) (k : BufKeeps t u) : BufKeeps s u :=
  fun o hlo hhi => (k o hlo hhi).trans (h o hlo hhi)

theorem BufKeeps.of_regs {s t : State} (h : t.regs = s.regs) : BufKeeps s t := fun o _ _ => by simp only [State.rd, h]

theorem BufKeeps.wr {s t : State} (h : BufKeeps s t) {o : Nat} (ho : 0x400000 ≤ o) (v : Word) : BufKeeps s (t.wr o v) :=
  h.trans fun p _ hhi => State.rd_wr_ne _ _ _ _ (by omega)

theorem BufKeeps.set {s t : State} (h : BufKeeps s t) {f : Fld} (hf : 0x400000 ≤ f.off) (v : Nat) : BufKeeps s (t.set f v) :=
  h.wr hf _

theorem BufKeeps.cause {s t : State} (h : BufKeeps s t) {f : Fld} (hf : 0x400000 ≤ f.off) {n : Nat} (hn : n < 96) :
    BufKeeps s (cause f n t) :=
  h.trans fun o hlo hhi => by
    have hq : quietReg o = true := by
      simp only [quietReg, Bool.or_eq_true, Bool.and_eq_true, decide_eq_true_eq]
      omega
    rw [cause_rd _ _ _ hn o hq, State.rd_set_ne _ _ _ _ (by omega)]

theorem BufKeeps.ite {s t u : State} (c : Prop) [Decidable c] (h : BufKeeps s t) (k : BufKeeps s u) :
    BufKeeps s (if c then t else u) := by
  split
  · exact h
  · exact k

theorem BufKeeps.get {s t : State} (h : BufKeeps s t) {g : Fld} (hlo : 0x60000 ≤ g.off) (hhi : g.off < 0xF0000) : t.get g = s.get g := by
  simp only [State.get, h g.off hlo hhi]

theorem poolEval_keeps (i : Nat) (s : State) : BufKeeps s (poolEval i s) := by
  have hoff : 0x400000 ≤ R.BPM_POOL_STAT i := by simp only [R.BPM_POOL_STAT]; omega
  have hset (x y z : Nat) := (((BufKeeps.refl s).set (f := R.BPM_POOL_STAT_LOWLVL i) hoff x).set (f := R.BPM_POOL_STAT_HIGHLVL i) hoff y).set
    (f := R.BPM_POOL_STAT_SHORT i) hoff z
  have hlow {t : State} (c : Prop) [Decidable c] (h : BufKeeps s t) :=
    BufKeeps.ite c (h.cause (f := ⟨R.BPM_NSTAT, i, 1⟩) (n := 62) (Nat.le_refl _) (by decide)) h
  have hhigh {t : State} (c : Prop) [Decidable c] (h : BufKeeps s t) :=
    BufKeeps.ite c (h.cause (f := ⟨R.BPM_NSTAT, 8 + i, 1⟩) (n := 63) (Nat.le_refl _) (by decide)) h
  have hshort {t : State} (c : Prop) [Decidable c] (h : BufKeeps s t) :=
    BufKeeps.ite c (h.cause (f := R.BPM_NSTAT_SHORT) (n := 65) (Nat.le_refl _) (by decide)) h
  exact hshort _ (hhigh _ (hlow _ (hset _ _ _)))

theorem badFree_keeps (s : State) : BufKeeps s (badFree s) :=
  ((BufKeeps.refl s).wr (o := R.BPM_CNT_BADFREE) (by decide) _).cause (by decide) (by decide)

theorem quarantine_keeps (k : Nat) (s : State) : BufKeeps s (quarantine k s) :=
  (BufKeeps.set (t := { (setTag k 0x7F s) with bpm.marked := mput (fun _ => false) s.bpm.marked k false }) (.of_regs rfl)
    (f := R.BPM_POOL_STAT_QUAR (hPool k)) (by simp only [R.BPM_POOL_STAT]; omega) _).cause (by decide) (by decide)

theorem cachePush_keeps (i idx : Nat) (s : State) : BufKeeps s (cachePush i idx s) := .ite _ (.of_regs rfl) (.of_regs rfl)

theorem releaseBuf_keeps (owner k : Nat) (s : State) : BufKeeps s (releaseBuf owner k s) := by
  have hfree (i : Nat) : 0x400000 ≤ (R.BPM_POOL_FREE_N i).off := by simp only [R.BPM_POOL_FREE]; omega
  have hused : BufKeeps s (setThreadKept k 0 (s.set (R.BPM_USED_N owner (hPool k)) (usedOf s owner (hPool k) - 1))) :=
    ((BufKeeps.refl s).set (f := R.BPM_USED_N owner (hPool k)) (by simp only [R.BPM_USED]; omega) _).trans (.of_regs rfl)
  unfold releaseBuf
  dsimp only
  split
  · exact (hused.trans (quarantine_keeps k _)).trans (poolEval_keeps _ _)
  · refine (BufKeeps.set (BufKeeps.trans hused ?_) (hfree _) _).trans (poolEval_keeps _ _)
    exact BufKeeps.trans (.of_regs rfl) (.ite _ (.refl _) (cachePush_keeps _ _ _))

theorem freeBuf_keeps (h : Nat) (s : State) : BufKeeps s (freeBuf h s) :=
  .ite _ (badFree_keeps s) (.ite _ (.of_regs rfl) (releaseBuf_keeps _ h s))

theorem freeBufs_keeps (l : List (Nat × Nat × Bool)) (s : State) : BufKeeps s (l.foldl (fun s e => freeBuf e.1 s) s) := by
  induction l generalizing s with
  | nil => exact .refl s
  | cons e l ih => exact (freeBuf_keeps e.1 s).trans (ih _)

/-! A log that is dropped writes PLY_LAG and the join's phase. -/

/-- A strand's log is gone, and with it a LEADER's kept buffers. -/
def dropLogs (s : State) : State := dropLog (if s.leader then dropKept s else s)

/-- A field of the pair or of the power stage, beside PLY_LAG and PLY_JOIN_STAT. -/
def pastDrop (g : Fld) : Bool :=
  decide (0x60000 ≤ g.off ∧ g.off < 0xF0000 ∧ g.off ≠ R.PLY_LAG ∧ g.off ≠ R.PLY_JOIN_STAT)

theorem dropKept_get {g : Fld} (hg : pastDrop g = true) (s : State) : (dropKept s).get g = s.get g := by
  obtain ⟨hlo, hhi, hlag, hjoin⟩ := of_decide_eq_true hg
  have hfreed := (freeBufs_keeps (s.ply.kept.filter fun e => e.2.2)
    { ((s.set R.PLY_LAG_KIB 0).set R.PLY_JOIN_STAT_PHASE 0) with ply.kept := [] }).get hlo hhi
  have hset : ((s.set R.PLY_LAG_KIB 0).set R.PLY_JOIN_STAT_PHASE 0).get g = s.get g :=
    (State.get_set_off _ _ _ _ hjoin).trans (State.get_set_off _ _ _ _ hlag)
  exact hfreed.trans hset

theorem dropLog_get {g : Fld} (hg : pastDrop g = true) (s : State) : (dropLog s).get g = s.get g :=
  State.get_set_off _ _ _ _ (of_decide_eq_true hg).2.2.1

theorem dropLogs_get {g : Fld} (hg : pastDrop g = true) (s : State) : (dropLogs s).get g = s.get g := by
  unfold dropLogs
  rw [dropLog_get hg]
  split
  · exact dropKept_get hg s
  · rfl

/-! A role that changes writes the role and its cause. -/

/-- The field shares no bit with the role and its cause, and no crossing writes it. -/
def pastRole (g : Fld) : Bool :=
  quietReg g.off && decide (g.off ≠ R.PLY_STAT ∨ g.lo + g.w ≤ 32 ∧ 2 ≤ g.lo) &&
    decide (g.off ≠ R.PLY_NSTAT ∨ g.lo + g.w ≤ 32 ∧ (g.lo + g.w ≤ 8 ∨ 9 ≤ g.lo))

/-- The role r shown with its cause, before what a FOLLOWER does. -/
def roleShown (r : Nat) (s : State) : State := cause R.PLY_NSTAT_ROLE 35 (s.set R.PLY_STAT_ROLE r)

theorem setRole_cases {r : Nat} (hr : r ≠ 3) (s : State) : s.role = r ∧ setRole r s = s ∨
    setRole r s = { roleShown r s with ply := { (roleShown r s).ply with ratioNow := none, ratios := [] } } := by
  by_cases h : s.role = r
  · exact .inl ⟨h, if_pos h⟩
  · exact .inr ((if_neg h).trans (if_neg hr))

theorem setRole_get {r : Nat} (hr : r ≠ 3) {g : Fld} (hg : pastRole g = true) (s : State) : (setRole r s).get g = s.get g := by
  simp only [pastRole, Bool.and_eq_true, decide_eq_true_eq] at hg
  obtain ⟨⟨hq, hrole⟩, hcause⟩ := hg
  rcases setRole_cases hr s with ⟨-, h⟩ | h
  · rw [h]
  · rw [h]
    exact (cause_get_apart (f := R.PLY_NSTAT_ROLE) (by decide) hq (hcause.imp_right fun h => ⟨h.1, h.2⟩) _).trans
      (get_set_apart (hrole.imp_right fun h => ⟨h.1, .inr h.2⟩) _ _)

theorem setRole_role {r : Nat} (hr : r < 3) (s : State) : (setRole r s).role = r := by
  rcases setRole_cases (by omega : r ≠ 3) s with ⟨hrole, h⟩ | h
  · rw [h, hrole]
  · rw [h]
    refine (cause_get_off R.PLY_NSTAT_ROLE _ _ (by decide) R.PLY_STAT_ROLE (by decide) (by decide)).trans ?_
    rw [State.get_set _ _ _ (by decide)]
    exact Nat.mod_eq_of_lt (by change r < 4; omega)

/-! A strand that leaves (22_ply_pair.md R811, R813, R820). -/

theorem gatesLows_regs (l : List Nat) (s : State) : (l.foldl (fun s c => gatesLow c s) s).regs = s.regs := by
  induction l generalizing s with
  | nil => rfl
  | cons c l ih => exact ih _

theorem ownLine_get (v : Bool) {g : Fld} (hg : g.off ≠ R.PWS_STAT) (s : State) : (ownLine v s).get g = s.get g := by
  unfold ownLine
  split
  · exact State.get_set_off _ _ _ _ hg
  · exact State.get_set_off _ _ _ _ hg
  · rfl

theorem ownershipDrop_owner (s : State) : plyOwner (ownershipDrop s) = false := by
  change State.flag (State.set _ R.PWS_STAT_OWNER 0) R.PWS_STAT_OWNER = false
  rw [State.flag_set _ _ _ (by decide) rfl]
  rfl

theorem ownershipDrop_get {g : Fld} (hg : g.off ≠ R.PWS_STAT) (s : State) : (ownershipDrop s).get g = s.get g := by
  change State.get (State.set _ R.PWS_STAT_OWNER 0) g = _
  rw [State.get_set_off _ _ _ _ hg, ownLine_get _ hg, State.get_congr (gatesLows_regs _ _)]

theorem plyStop_get {g : Fld} (hg : g.off ≠ R.PWS_STAT) (s : State) : (plyStop s).get g = s.get g := by
  unfold plyStop
  split
  · rfl
  · exact ownershipDrop_get hg s

/-- A strand on its way out: its logs are gone, its gates and its OWN line are low, and no join is in progress. -/
def leaving (s : State) : State := (plyStop (dropLogs s)).set R.PLY_JOIN_STAT_PHASE 0

theorem plyLeave_eq (s : State) : plyLeave s = setRole 1 { leaving s with ply.still := true } := rfl

theorem plyLeave_role (s : State) : (plyLeave s).role = 1 := setRole_role (by decide) _

theorem plyLeave_keeps_role {g : Fld} (hr : pastRole g = true) (s : State) : (plyLeave s).get g = (leaving s).get g := by
  rw [plyLeave_eq, setRole_get (by decide) hr]
  rfl

theorem plyLeave_get {g : Fld} (hr : pastRole g = true) (hd : pastDrop g = true) (hp : g.off ≠ R.PWS_STAT) (s : State) :
    (plyLeave s).get g = s.get g := by
  obtain ⟨-, -, -, hjoin⟩ := of_decide_eq_true hd
  rw [plyLeave_keeps_role hr, leaving, State.get_set_off _ _ _ _ hjoin, plyStop_get hp, dropLogs_get hd]

/-- A strand of a pair that leaves owns nothing. -/
theorem plyLeave_owner {s : State} (h : s.role ≠ 0) : plyOwner (plyLeave s) = false := by
  have hrole : (dropLogs s).role ≠ 0 := by rwa [State.role, dropLogs_get (by decide)]
  have hget : (plyLeave s).get R.PWS_STAT_OWNER = (ownershipDrop (dropLogs s)).get R.PWS_STAT_OWNER := by
    rw [plyLeave_keeps_role (by decide), leaving, State.get_set_off _ _ _ _ (by decide), plyStop, if_neg hrole]
  have howner := ownershipDrop_owner (dropLogs s)
  simp only [plyOwner, State.flag] at howner ⊢
  rw [hget]
  exact howner

/-! A join that fails (22_ply_pair.md R819). -/

theorem joinFail_role (err : Nat) (s : State) : (joinFail err s).role = 1 := setRole_role (by decide) _

theorem joinFail_get (err : Nat) {g : Fld} (hr : pastRole g = true) (hd : pastDrop g = true) (hj : Fld.Apart R.PLY_NSTAT_JOIN g)
    (s : State) : (joinFail err s).get g = s.get g := by
  have hne := (of_decide_eq_true hd).2.2.2
  have hq : quietReg g.off = true := by
    simp only [pastRole, Bool.and_eq_true] at hr
    exact hr.1.1
  refine (setRole_get (by decide) hr _).trans ?_
  refine (cause_get_apart (by decide) hq hj _).trans ?_
  exact (State.get_set_off _ _ _ _ hne).trans ((State.get_set_off _ _ _ _ hne).trans (dropLogs_get hd s))

theorem joinFail_err {err : Nat} (he : err < 16) (s : State) : (joinFail err s).get R.PLY_JOIN_STAT_ERR = err := by
  refine (setRole_get (by decide) (by decide) _).trans ?_
  refine (cause_get_off R.PLY_NSTAT_JOIN _ _ (by decide) R.PLY_JOIN_STAT_ERR (by decide) (by decide)).trans ?_
  rw [State.get_set _ _ _ (by decide)]
  exact Nat.mod_eq_of_lt he

/-! The survivor of a partner loss (22_ply_pair.md R812). -/

/-- The loss is recorded. -/
def lossShown (why : Nat) (s : State) : State := cause R.PLY_NSTAT_LOSS 32 ((s.set R.PLY_CAUSE_CAUSE why).set R.PLY_STAT_ALIVE_IN 0)

/-- A join under way fails with the loss. -/
def joinLost (s : State) : State := if 1 ≤ joinPhase s ∧ joinPhase s ≤ 4 then joinFail 5 s else s

/-- The strand stands alone. -/
def survivor (why : Nat) (s : State) : State := setRole 1 ((dropLogs (joinLost (lossShown why s))).set R.PLY_JOIN_STAT_PHASE 0)

/-- A survivor that does not own the gates is granted them. -/
def takeOver (s : State) : State := if plyOwner s then s else cause R.PLY_NSTAT_TAKEOVER 32 { s with pws.grant := true }

theorem partnerLost_eq (why : Nat) {s : State} (h : s.role ≠ 3) : partnerLost why s = .next (takeOver (survivor why s)) := by
  unfold partnerLost
  dsimp only
  rw [if_neg h]
  exact if_neg h

theorem survivor_role (why : Nat) (s : State) : (survivor why s).role = 1 := setRole_role (by decide) _

/-- What a join's failure and a dropped log leave to the survivor. -/
theorem survivor_get (why : Nat) {g : Fld} (hr : pastRole g = true) (hd : pastDrop g = true) (hj : Fld.Apart R.PLY_NSTAT_JOIN g)
    (s : State) : (survivor why s).get g = (lossShown why s).get g := by
  obtain ⟨-, -, -, hjoin⟩ := of_decide_eq_true hd
  rw [survivor, setRole_get (by decide) hr, State.get_set_off _ _ _ _ hjoin, dropLogs_get hd, joinLost]
  split
  · exact joinFail_get 5 hr hd hj _
  · rfl

theorem takeOver_get {g : Fld} (hq : quietReg g.off = true) (hg : Fld.Apart R.PLY_NSTAT_TAKEOVER g) (s : State) :
    (takeOver s).get g = s.get g := by
  unfold takeOver
  split
  · rfl
  · exact cause_get_apart (by decide) hq hg _

theorem takeOver_grant {s : State} (h : plyOwner s = false) : (takeOver s).pws.grant = true := by
  rw [takeOver, if_neg (by simp [h]), cause_pws _ _ _ (by decide)]

theorem lossShown_cause {why : Nat} (h : why < 8) (s : State) : (lossShown why s).get R.PLY_CAUSE_CAUSE = why := by
  rw [lossShown, cause_get_off _ _ _ (by decide) _ (by decide) (by decide), State.get_set_off _ _ _ _ (by decide),
    State.get_set _ _ _ (by decide)]
  exact Nat.mod_eq_of_lt h

theorem lossShown_loss (why : Nat) (s : State) : (lossShown why s).get R.PLY_NSTAT_LOSS = 1 :=
  cause_get_self _ _ _ (by decide) (by decide) (by decide) rfl

theorem lossShown_owner (why : Nat) (s : State) : (lossShown why s).get R.PWS_STAT_OWNER = s.get R.PWS_STAT_OWNER := by
  rw [lossShown, cause_get_off _ _ _ (by decide) _ (by decide) (by decide), State.get_set_off _ _ _ _ (by decide),
    State.get_set_off _ _ _ _ (by decide)]

theorem survivor_owner (why : Nat) (s : State) : plyOwner (survivor why s) = plyOwner s := by
  simp only [plyOwner, State.flag]
  rw [survivor_get why (by decide) (by decide) (.inl (by decide)), lossShown_owner]

/-! The sidebands and the link (22_ply_pair.md R791, R792, R813). -/

theorem execPlyLinkUp_shows {n : Nat} {s : State} (hr : s.role ≠ 0) (hup : s.up islPLY = true)
    (hl : s.flag R.CLK_STAT_PLYPLL_LOCK = true) (hn : n ≠ 0) :
    execPlyLinkUp n s = .next (s.set R.PLY_STAT_LANES (min n (2 - min 2 s.ply.retired))) := by
  simp [execPlyLinkUp, hr, hup, hl, hn]

/-- The state in which the link has gone down, before the join or the FOLLOWER ends. -/
def linkLost (s : State) : State := cause R.PLY_NSTAT_LINK 34 (s.set R.PLY_STAT_LANES 0)

theorem linkLost_lanes (s : State) : (linkLost s).get R.PLY_STAT_LANES = 0 := by
  rw [linkLost, cause_get_off _ _ _ (by decide) _ (by decide) (by decide), State.get_set _ _ _ (by decide)]
  rfl

theorem linkLost_link (s : State) : (linkLost s).get R.PLY_NSTAT_LINK = 1 :=
  cause_get_self _ _ _ (by decide) (by decide) (by decide) rfl

theorem linkLost_phase (s : State) : joinPhase (linkLost s) = joinPhase s := by
  rw [joinPhase, linkLost, cause_get_off _ _ _ (by decide) _ (by decide) (by decide), State.get_set_off _ _ _ _ (by decide)]
  rfl

/-- What follows a lost link: the join fails, or a FOLLOWER leaves. -/
def linkLeft (s : State) : State := if 1 ≤ joinPhase s ∧ joinPhase s ≤ 4 then joinFail 3 s else if s.follower then plyLeave s else s

theorem linkLeft_get {g : Fld} (hr : pastRole g = true) (hd : pastDrop g = true) (hp : g.off ≠ R.PWS_STAT)
    (hj : Fld.Apart R.PLY_NSTAT_JOIN g) (s : State) : (linkLeft s).get g = s.get g := by
  unfold linkLeft
  split
  · exact joinFail_get 3 hr hd hj s
  · split
    · exact plyLeave_get hr hd hp s
    · rfl

theorem execPlyLinkDown_next {s : State} (hr : s.role ≠ 0) (hup : s.up islPLY = true) (hl : s.get R.PLY_STAT_LANES ≠ 0) :
    execPlyLinkDown s = .next (linkLeft (linkLost s)) := by
  have hguard : ¬ (s.role = 0 || !s.up islPLY || decide (s.get R.PLY_STAT_LANES = 0)) = true := by simp [hr, hup, hl]
  exact if_neg hguard

/-- Strand B that yields on contention (22_ply_pair.md R813). -/
theorem execOwnContention_yields {s : State} (hb : s.get R.SYS_STRAP_PLYROLE = 2) (ho : plyOwner s = true) (hup : s.up islPLY = true) :
    execOwnContention s = .next (cause R.PLY_NSTAT_CONTEND 34 ((plyLeave s).set R.PLY_CAUSE_CAUSE 4)) := by
  have hguard : ¬ (s.get R.SYS_STRAP_PLYROLE ≠ 2 || !plyOwner s || !s.up islPLY) = true := by simp [hb, ho, hup]
  exact if_neg hguard

/-- An edge of the partner's line shows in the status and is remembered. -/
def edgeSeen (s : State) : State := { (s.set R.PLY_STAT_ALIVE_IN 1) with ply.aliveSeen := true }

theorem aliveRuns_edge (s : State) : aliveRuns (edgeSeen s) = aliveRuns s := by
  have hrole : (s.set R.PLY_STAT_ALIVE_IN 1).role = s.role := State.get_set_bits _ _ _ _ (by decide) (by decide)
  have hup : (s.set R.PLY_STAT_ALIVE_IN 1).up islPLY = s.up islPLY := State.up_wr (by decide) _ _
  have hhalt : (s.set R.PLY_STAT_ALIVE_IN 1).halted = s.halted := by
    simp only [State.halted, State.flag]
    rw [State.get_set_off _ _ _ _ (by decide)]
  have hstage : (s.set R.PLY_STAT_ALIVE_IN 1).stage = s.stage := State.get_set_off _ _ _ _ (by decide)
  have hply : aliveRuns (edgeSeen s) = aliveRuns (s.set R.PLY_STAT_ALIVE_IN 1) := rfl
  rw [hply, aliveRuns, aliveRuns, hrole, hup, hhalt, hstage]
  rfl

theorem execPlyAliveToggle_toggles {s : State} (e : Bool) (hr : s.role ≠ 0) (hup : s.up islPLY = true) (ha : aliveRuns s = true) :
    ∃ t, execPlyAliveToggle e s = .next t ∧ t.ply.aliveOut = !s.ply.aliveOut ∧ (e = true → t.flag R.PLY_STAT_ALIVE_IN = true) := by
  have hguard : ¬ (s.role = 0 || !s.up islPLY) = true := by simp [hr, hup]
  rw [execPlyAliveToggle, if_neg hguard]
  cases e with
  | false =>
    refine ⟨_, rfl, ?_, fun h => nomatch h⟩
    simp [ha]
  | true =>
    have hruns := (aliveRuns_edge s).trans ha
    refine ⟨_, rfl, ?_, fun _ => ?_⟩
    · exact congrArg (fun t : State => t.ply.aliveOut) (if_pos hruns)
    · exact (congrArg (fun t : State => t.flag R.PLY_STAT_ALIVE_IN) (if_pos hruns)).trans (State.flag_set s R.PLY_STAT_ALIVE_IN 1 (by decide) rfl)


/-! Joins (22_ply_pair.md R818). -/

theorem joinStart_phase (s : State) : joinPhase (joinStart s) = 1 := by
  change wget ((s.wr R.PLY_JOIN_STAT 1).rd R.PLY_JOIN_STAT) 0 3 = 1
  rw [State.rd_wr_self]
  rfl

theorem joinPhase_set {p : Nat} (h : p < 8) (s : State) : joinPhase (s.set R.PLY_JOIN_STAT_PHASE p) = p := by
  rw [joinPhase, State.get_set _ _ _ (by decide)]
  exact Nat.mod_eq_of_lt h

theorem execJoinPhaseDone_guard {s : State} (hr : s.role ≠ 0) (hup : s.up islPLY = true) : ¬ (s.role = 0 || !s.up islPLY) = true := by
  simp [hr, hup]

theorem cutover_owner {s : State} (img : CutState) (ho : plyOwner s = true) :
    cutover img s = setRole 2 (logStart (s.set R.PLY_JOIN_STAT_PHASE 4)) := by
  have howner : plyOwner (s.set R.PLY_JOIN_STAT_PHASE 4) = true := by
    simp only [plyOwner, State.flag] at ho ⊢
    rwa [State.get_set_off _ _ _ _ (by decide)]
  exact if_pos howner

theorem cutover_owner_phase {s : State} (img : CutState) (ho : plyOwner s = true) : joinPhase (cutover img s) = 4 := by
  rw [cutover_owner img ho, joinPhase, setRole_get (by decide) (by decide)]
  exact joinPhase_set (by decide) s

/-- Settles O33, clause by clause: each command's guard holds, and the fields that the clause names are read through what the loss,
the join's failure and the departure leave as it was. -/
theorem pairRoleCommandsComplete : Obligations.PairRoleCommandsComplete := by
  unfold Obligations.PairRoleCommandsComplete
  refine ⟨?join, ?detach, ?partnerDetach, ?toggle, ?linkUp, ?laneFail, ?linkDown, ?contention, ?timeout, ?loss, ?verdict, ?start, ?check,
    ?copy, ?cutover, ?settle⟩
  case join =>
    intro s a v hkey hcmd hreach hrole hphase howner
    refine ⟨_, ?_, rfl, joinStart_phase s⟩
    change execPlyJoin a v s = _
    rw [execPlyJoin, if_neg (by simp [hkey, hcmd]), access_reaches hreach, plyCmdWrite, if_neg (by simp [hkey]), hcmd]
    simp [joinCmd, hrole, hphase, howner]
  case detach =>
    intro s a v hkey hcmd hreach
    refine ⟨detachCmd s, ?_, fun h => if_pos h, fun h => ?_⟩
    · change execPlyDetach a v false s = _
      rw [execPlyDetach, if_neg (by decide), if_neg (by simp [hkey, hcmd]), access_reaches hreach, plyCmdWrite, if_neg (by simp [hkey]), hcmd]
      rfl
    · have hf : s.follower = false := by simp [State.follower, role_of_leader h]
      simp [detachCmd, hf, h, State.emit]
  case partnerDetach =>
    intro s a v h
    refine ⟨_, ?_, rfl, plyLeave_role s⟩
    change execPlyDetach a v true s = _
    rw [execPlyDetach, if_pos rfl, if_pos h]
  case toggle => exact fun s e => execPlyAliveToggle_toggles e
  case linkUp => exact fun s n hr hup hl hn => ⟨_, execPlyLinkUp_shows hr hup hl hn, rfl⟩
  case laneFail =>
    intro s hr hup hl
    have hguard : ¬ (s.role = 0 || !s.up islPLY || decide (s.get R.PLY_STAT_LANES ≠ 2)) = true := by simp [hr, hup, hl]
    exact ⟨_, if_neg hguard, State.get_set s R.PLY_STAT_LANES 1 (by decide), rfl⟩
  case linkDown =>
    intro s hr hup hl
    refine ⟨_, execPlyLinkDown_next hr hup hl, ?_, ?_, fun hp => ?_⟩
    · rw [linkLeft_get (by decide) (by decide) (by decide) (.inl (by decide)), linkLost_lanes]
    · rw [linkLeft_get (by decide) (by decide) (by decide) (.inr (by decide)), linkLost_link]
    · rw [linkLeft, linkLost_phase, if_pos hp, joinFail_err (by decide)]
  case contention =>
    intro s hb hr ho hup
    refine ⟨_, execOwnContention_yields hb ho hup, ?_, cause_get_self _ _ _ (by decide) (by decide) (by decide) rfl, ?_, ?_⟩
    · rw [cause_get_off _ _ _ (by decide) _ (by decide) (by decide), State.get_set _ _ _ (by decide)]
      rfl
    · rw [State.role, cause_get_off _ _ _ (by decide) _ (by decide) (by decide), State.get_set_off _ _ _ _ (by decide)]
      exact plyLeave_role s
    · rw [plyOwner, State.flag, cause_get_off _ _ _ (by decide) _ (by decide) (by decide), State.get_set_off _ _ _ _ (by decide)]
      exact plyLeave_owner hr
  case timeout =>
    intro s hb hstage hseen ho hrole hup
    refine ⟨_, ?_, rfl⟩
    have hguard : ¬ (s.get R.SYS_STRAP_PLYROLE ≠ 2 || decide (s.stage < 1) || s.ply.aliveSeen || false || plyOwner s || s.role ≠ 1 ||
        !s.up islPLY) = true := by
      simp [hb, hseen, ho, hrole, hup]
      omega
    exact if_neg hguard
  case loss =>
    intro s h hr hf hup hhalt halive
    have hguard : ¬ (s.role = 0 || !s.up islPLY || s.halted || !(h || s.flag R.PLY_STAT_ALIVE_IN)) = true := by
      simp only [hr, hup, hhalt, halive]
      decide
    have hwhy : (if h then 2 else 1) < 8 := by split <;> decide
    refine ⟨_, (if_neg hguard).trans (partnerLost_eq _ hf), ?_, ?_, ?_, fun ho => takeOver_grant ((survivor_owner _ s).trans ho)⟩
    · rw [takeOver_get (by decide) (.inl (by decide)), survivor_get _ (by decide) (by decide) (.inl (by decide)), lossShown_cause hwhy]
    · rw [State.role, takeOver_get (by decide) (.inl (by decide))]
      exact survivor_role _ s
    · rw [takeOver_get (by decide) (.inr (by decide)), survivor_get _ (by decide) (by decide) (.inr (by decide)), lossShown_loss]
  case verdict =>
    intro s hr hv
    refine ⟨_, ?_, rfl⟩
    change execVerdict (some true) s = _
    have hrole : s.role = 2 ∨ s.role = 3 := by
      have : s.role < 4 := Nat.mod_lt _ (by decide)
      omega
    have hsame : State.role { s with ply.verdict := none } = s.role := rfl
    rcases hrole with h | h <;> simp [execVerdict, hv, State.leader, hsame, h]
  case start =>
    intro s x y hr hup hp hb
    refine ⟨_, ?_, rfl⟩
    change execJoinPhaseDone (.check x y) s = _
    rw [execJoinPhaseDone.eq_def, if_neg (execJoinPhaseDone_guard hr hup), hp]
    exact if_pos hb
  case check =>
    intro s hr hup hp hl ho
    refine ⟨_, ?_, rfl⟩
    change execJoinPhaseDone (.check true true) s = _
    rw [execJoinPhaseDone.eq_def, if_neg (execJoinPhaseDone_guard hr hup), hp]
    simp [hl, ho]
  case copy =>
    intro s l late hr hup hp
    refine ⟨_, ?_, rfl⟩
    change execJoinPhaseDone (.copy l late) s = _
    rw [execJoinPhaseDone.eq_def, if_neg (execJoinPhaseDone_guard hr hup), hp]
    rfl
  case cutover =>
    intro s img hr hup hp ho
    refine ⟨cutover img s, ?_, ?_, cutover_owner_phase img ho⟩
    · change execJoinPhaseDone (.cutover img) s = _
      rw [execJoinPhaseDone.eq_def, if_neg (execJoinPhaseDone_guard hr hup), hp]
      rfl
    · rw [cutover_owner img ho]
      exact setRole_role (by decide) _
  case settle =>
    intro s hr hup hp hs
    refine ⟨cause R.PLY_NSTAT_JOIN 35 (s.set R.PLY_JOIN_STAT_PHASE 5), ?_, ?_, cause_get_self _ _ _ (by decide) (by decide) (by decide) rfl⟩
    · change execJoinPhaseDone .settle s = _
      rw [execJoinPhaseDone.eq_def, if_neg (execJoinPhaseDone_guard hr hup), hp]
      exact if_neg (by simp [hs])
    · rw [joinPhase, cause_get_off _ _ _ (by decide) _ (by decide) (by decide)]
      exact joinPhase_set (by decide) s

end Sys2Proof.Machine
end
